-- ==== Sys2Proof/Word.lean ====
section
/-! DEFINITION. The word types of the FQ512: a queue word's data, a byte of a frame or of memory. -/

namespace Sys2Proof

/-- The data of a queue word, an operand word or a message: 64 bits (R245). -/
abbrev Word := BitVec 64

/-- One byte of a frame, a domain or a memory (R6). -/
abbrev Byte := BitVec 8

end Sys2Proof
end

