-- ==== Sys2Proof/Syntax.lean ====
section
/-! DEFINITION. The commands of the FQ512: one constructor per row of spec/opcode_table.json, with the operands the
row's rule gives it. A command that is a host write or read carries the path (0 CAN FD, 1 host link), the client's TAG and
the value; a command that is a step of one of the package's own agents carries the instance and whatever the step reads
from outside the model (a converter code, a block, a flash answer). -/

namespace Sys2Proof

/-- An access path of the dictionary: 0 CAN FD, 1 host link (R334). -/
abbrev Path := Fin 2

/-- An edge FIFO number (R15). -/
abbrev FifoNo := Fin 1424

/-- A cluster engine number (R25). -/
abbrev EngNo := Fin 128

/-- A cluster number (R25). -/
abbrev CluNo := Fin 16

/-- A region number (R25). -/
abbrev RgnNo := Fin 8

/-- What one reading of the fuse array gives (R410, R426, R408, R392): serial number, life-cycle field, compensation
points, factory offsets and gains of the MAUs. -/
structure FuseImage where
  serial  : BitVec 64
  lcs     : BitVec 32
  comp    : List Int
  monOfs  : List Int
  monGain : List Nat
  deriving DecidableEq, Repr

/-- A burst request that waits at a DRAM channel (R290). `src` is a port of R289 (0 to 18), 19 MGE, 20 STE0 or 21 DTE;
`addr` is the range address of the 64-byte burst; `data` holds its eight words when it is a write. -/
structure BurstReq where
  src   : Nat
  write : Bool
  addr  : Nat
  data  : List Word
  deriving DecidableEq, Repr

/-- The frames that a CAN FD controller receives (R339): FD data frames, data frames of classic format, and remote frames. -/
inductive CanKind where
  | fd | classic | remote
  deriving DecidableEq, Repr

/-- The PTP message types of R352. -/
inductive PtpKind where
  | sync | followUp | delayReq | delayResp | announce | pdelayReq | pdelayResp | pdelayRespFollowUp | signaling | management
  deriving DecidableEq, Repr

/-- A frame that arrives on TP0 or TP1 (R351 to R354). Times are in units of 2^-16 ns. `quality` is the Announce message's
dataset in the order in which IEEE 1588-2019 compares it, lowest better: priority 1, clock class, accuracy, variance and priority 2 of the
grandmaster, then stepsRemoved and the sender's identity and port. `body` is the rest of the message, its TLVs included. -/
structure PtpFrame where
  fcsOk      : Bool
  bytes      : Nat
  ptpType    : Bool
  ptpDest    : Bool
  version    : Nat
  kind       : PtpKind
  twoStep    : Bool
  domain     : Nat
  logIval    : Int
  seqId      : Nat
  correction : Int
  stamp      : Int
  reqClock   : BitVec 64
  reqPort    : Nat
  gmId       : BitVec 64
  quality    : List Nat
  body       : List Byte := []
  deriving DecidableEq, Repr

/-- The commands, in the table's order. -/
inductive Instr where
  | powerGood (stdly : Fin 8) (node : Fin 128)
  | supplyLoss
  | resetNAssert (ns : Nat)
  | pkgReset (p : Path) (tag : Byte) (v : BitVec 16)
  | dictionaryResetBegin
  | fuseRead (a b : FuseImage) (parityOk : Bool)
  | memoryWipeDone
  | nvmBootRead (answers : Bool) (mbit : BitVec 16)
  | xtaStartDelay
  | xtbStartDelay
  | trefSelect
  | monitorWindow (m : Fin 15) (ppm other : Int) (locked : Bool)
  | timelineCopyCompare (upsets : List (Fin 7 × Int))
  | bdRefTick (d : Fin 2) (count : Nat)
  | converterCalibrationDone (d : Fin 4)
  | clkMgmtSel (p : Path) (tag : Byte) (v : Byte)
  | fmcStart (p : Path) (tag : Byte) (v : Byte)
  | fmcDone (count : Nat)
  | clkGate (p : Path) (tag : Byte) (v : BitVec 32) (busy : List (Fin 25 × Nat))
  | gateForceClose (group : Fin 25)
  | vidfChange
  | syncArm (p : Path) (tag : Byte)
  | syncFire (p : Path) (tag : Byte)
  | syncDisarm (p : Path) (tag : Byte)
  | syncOutPulse
  | syncInEdge
  | alignment
  | load (p : Path) (tag : Byte)
  | loadComplete
  | unload (p : Path) (tag : Byte)
  | start (p : Path) (tag : Byte)
  | stop (p : Path) (tag : Byte)
  | abort (p : Path) (tag : Byte)
  | scheduleFetchChunk (e : EngNo)
  | schedulePacketDelivery (e : EngNo)
  | schedNop (e : EngNo) (mcBad : Bool)
  | schedPlay (e : EngNo) (mcBad : Bool)
  | schedJump (e : EngNo) (mcBad : Bool)
  | schedHold (e : EngNo) (mcBad : Bool)
  | schedFreq (e : EngNo) (mcBad : Bool)
  | schedPhase (e : EngNo) (mcBad : Bool)
  | schedFlux (e : EngNo) (mcBad : Bool)
  | schedBias (e : EngNo) (mcBad : Bool)
  | schedCapture (e : EngNo) (mcBad : Bool)
  | schedMark (e : EngNo) (mcBad : Bool)
  | schedAlt (e : EngNo) (mcBad : Bool)
  | schedSelect (e : EngNo) (mcBad : Bool)
  | schedWaitevt (e : EngNo) (mcBad : Bool)
  | schedRaise (e : EngNo) (mcBad : Bool)
  | schedLoop (e : EngNo) (mcBad : Bool)
  | schedBranch (e : EngNo) (mcBad : Bool)
  | schedBoundary (e : EngNo) (mcBad : Bool)
  | schedEnd (e : EngNo) (mcBad : Bool)
  | barrierRelease (e : EngNo)
  | fifoWaitEnd (e : EngNo)
  | edgeCommandArrival (f : FifoNo)
  | edgeFifoRead (f : FifoNo) (bad : BitVec 18)
  | play (f : FifoNo) (badAt : Option Nat)
  | jump (f : FifoNo)
  | hold (f : FifoNo)
  | freq (f : FifoNo)
  | phase (f : FifoNo)
  | flux (f : FifoNo)
  | bias (f : FifoNo)
  | capture (f : FifoNo)
  | mark (f : FifoNo)
  | stage (f : FifoNo)
  | select (f : FifoNo)
  | jumpSamplingPoint (f : FifoNo)
  | segmentBoundary (f : FifoNo) (badAt : Option Nat)
  | markPulseEnd (c : CluNo)
  | tapParityFailure (n : Fin 64) (tap : Fin 8)
  | biasUpdate (limited senseBad : List (Fin 256))
  | biasSafeLoad (d : Fin 2)
  | windowClose (t : Fin 1024) (xs : List Int) (bad : Bool)
  | traceWindowClose (c : CluNo) (xs : List Int) (full : Bool)
  | verdictOutput (t : Fin 1024) (marks : BitVec 2)
  | hotTrip (a : CluNo)
  | hotRelease (a : CluNo)
  | acqCalStepStart (a : CluNo)
  | acqCalStepDone (a : CluNo)
  | acqCalStale (a : CluNo)
  | haltRaise (c : CluNo)
  | shotBoundary
  | recordArrival (c : CluNo)
  | setComplete (shot : BitVec 32)
  | streamPacketSend
  | recordToQueue
  | streamClose (p : Path) (tag : Byte)
  | openStream (p : Path) (tag : Byte)
  | openQueue (p : Path) (tag : Byte)
  | conditionCrossing (n : Fin 32) (m : Nat) (before xs : List Int)
  | trigInEdge (pin : Fin 8) (rising : Bool) (code : Fin 32)
  | triggerFire (m : Nat)
  | trgArm (p : Path) (tag : Byte)
  | trgDisarm (p : Path) (tag : Byte)
  | armGrainReached
  | armMessage
  | disarmMessage
  | fireMessage
  | captureEventWindow (c : CluNo)
  | verdictBusMessage (d : Fin 4) (bad : Bool)
  | vreMessage
  | verdictBlockSend (q : Fin 8)
  | verdictBlockReceive (lane : Fin 16)
  | breChoice (c : CluNo) (slot : Fin 16) (bad : BitVec 2)
  | selectRegisterTake (c : CluNo) (slot : Fin 16)
  | armingDeadline (c : CluNo) (slot : Fin 16)
  | rgnProfileReq (p : Path) (tag : Byte) (g : RgnNo) (v : Byte)
  | pkgProfileReq (p : Path) (tag : Byte) (v : BitVec 16)
  | profileChange (g : RgnNo)
  | profileMuteEnd (g : RgnNo)
  | rgnKrnLayout (p : Path) (tag : Byte) (g : RgnNo) (v : Byte)
  | queueWrite (q : Fin 32768) (writer : Nat) (w : Word) (tags : BitVec 2) (bad : Bool)
  | waitingWriteResume (q : Fin 32768)
  | queueRead (q : Fin 32768) (bad : Bool) (brokenLink : Bool)
  | queueDrop (q : Fin 32768)
  | queueFlush (q : Fin 32768)
  | quePush (p : Path) (tag : Byte) (bytes : List Byte)
  | quePop (p : Path) (tag : Byte)
  | quePkt (p : Path) (tag : Byte)
  | queCmdFlush (p : Path) (tag : Byte)
  | queCmdDrop (p : Path) (tag : Byte)
  | channelEvent (ch : Fin 256)
  | eventDelivery (con : Fin 192)
  | evtChProd (p : Path) (tag : Byte) (slot : Fin 8) (v : BitVec 16)
  | timerFire (n : Fin 32)
  | timRun (p : Path) (tag : Byte) (n : Fin 32)
  | timStop (p : Path) (tag : Byte) (n : Fin 32)
  | trussPulseStart (c : CluNo)
  | trussPulseEnd (c : CluNo)
  | mcsPatch (p : Path) (tag : Byte) (bytes : List Byte)
  | mcsBootPatch (p : Path) (tag : Byte) (kind : Fin 13) (bytes : List Byte)
  | engineRestart (k : Fin 5) (ramFault : Bool)
  | cluSegDesc (p : Path) (tag : Byte) (c : CluNo) (v : Word)
  | cluSegData (p : Path) (tag : Byte) (c : CluNo) (bytes : List Byte)
  | refillEntryStart (c : CluNo)
  | refillEntryDone (c : CluNo)
  | drvMute (p : Path) (tag : Byte) (prb : Bool) (n : Fin 64) (v : Byte)
  | drvXtap (p : Path) (tag : Byte) (n : Fin 64) (tap : Fin 8) (v : Word)
  | flxCoefWrite (p : Path) (tag : Byte) (index : BitVec 16) (sub : Byte) (v : BitVec 32)
  | flxSet (p : Path) (tag : Byte) (n : Fin 128) (v : BitVec 16)
  | biaSet (p : Path) (tag : Byte) (n : Fin 256) (v : Word)
  | biaSense (p : Path) (tag : Byte) (n : Fin 256) (v : Byte)
  | cluKrnData (p : Path) (tag : Byte) (c : CluNo) (bytes : List Byte)
  | cluDiscData (p : Path) (tag : Byte) (c : CluNo) (bytes : List Byte)
  | drmRate (p : Path) (tag : Byte) (v : BitVec 16)
  | drmMap (p : Path) (tag : Byte) (v : Byte)
  | drmChtab (p : Path) (tag : Byte) (v : BitVec 32)
  | trainingStepDone (ch : Fin 8) (ok : Bool) (org : Fin 4)
  | retrainStepStart (ch : Fin 8)
  | retrainStepDone (ch : Fin 8) (ok : Bool)
  | retrainAbandon (ch : Fin 8)
  | dramBurst (ch : Fin 8) (reqs : List BurstReq) (badWords : BitVec 8)
  | refreshDue (ch : Fin 8) (rank : Fin 2)
  | mr4Poll (hot err : BitVec 16)
  | wipeComplete
  | drmBistStart (p : Path) (tag : Byte) (v : BitVec 32)
  | bistDone (at_ : List (Nat × Nat)) (data : List (List Word)) (par : List Bool)
  | drmWinRead (p : Path) (tag : Byte) (len : Nat)
  | drmWinWrite (p : Path) (tag : Byte) (bytes : List Byte)
  | blockReceive (lane : Fin 32) (raw : BitVec 80) (more : List Bool)
  | ppmMeasure (lane : Fin 32) (ppm : BitVec 16)
  | lossOfSignal (lane : Fin 32)
  | lossOfLock (lane : Fin 32)
  | lnkHlRetrain (p : Path) (tag : Byte) (v : Byte)
  | linkPacketReceive
  | ack
  | nak
  | credit
  | ackSend
  | creditSend
  | retransmitTimeout
  | uploadWrite
  | lnkVpEnable (p : Path) (tag : Byte) (v : Byte)
  | ydpRead (p : Path)
  | ydpWrite (p : Path)
  | writeInit (p : Path)
  | writeSeg (p : Path)
  | readSeg (p : Path)
  | ydpAbort (p : Path)
  | segmentTimeout (p : Path)
  | registerWrite (p : Path) (tag : Byte) (index : BitVec 16) (sub : Byte) (bytes : List Byte)
  | commit (p : Path) (tag : Byte)
  | nvmEraseDone
  | pageProgramDone (ok : Bool)
  | ptpFrameReceive (port : Fin 2) (fr : PtpFrame)
  | ptpSync
  | ptpFollowUp
  | ptpDelayResp
  | ptpAnnounce
  | delayReqSend
  | tcForward (port : Fin 2)
  | receiptTimeout (sync : Bool)
  | tpLinkChange (port : Fin 2) (up : Bool)
  | relock (p : Path) (tag : Byte)
  | ppsEdge
  | ppsEnd
  | monSeqStart (p : Path) (tag : Byte)
  | monSeqStop (p : Path) (tag : Byte)
  | mauEntryStart (u : Fin 11)
  | conversionDone (u : Fin 11) (conv : Fin 2) (raw : BitVec 16)
  | monInj (p : Path) (tag : Byte) (v : BitVec 32)
  | monCalStart (p : Path) (tag : Byte)
  | mauCalDone (u : Fin 11) (ofs : List Int) (gain : List Nat)
  | refReady (u : Fin 11) (ready : Bool)
  | thermalUpdate (g : RgnNo) (pkgMw : Nat) (diode : Int)
  | ladderStep
  | thmForceClr (p : Path) (tag : Byte) (v : Byte)
  | shutdownMute
  | shutdownBiasFault
  | shutdownPllStop
  | shutdownComplete
  | resume (p : Path) (tag : Byte)
  | scrubStep (u : Fin 32) (addr : Nat) (bad : BitVec 9)
  | lcsReq (p : Path) (tag : Byte) (v : Byte)
  | lcsConfirm (p : Path) (tag : Byte) (v : Byte)
  | lcsReqExpire
  | lcsBurn (readBack : BitVec 4)
  | acqOverrange (a : CluNo) (m : Nat) (code : Int)
  | syncOutPulseEnd
  | scrubStale (u : Fin 32)
  | blockSend (lane : Fin 32)
  | canFrameReceive (extended : Bool) (kind : CanKind) (id : BitVec 29) (bytes : List Byte)
  | canBusError (tec rec : Nat)
  | busOffRecovery
  deriving DecidableEq, Repr

end Sys2Proof
end

