-- ==== Sys2Proof/Decode.lean ====
section
/-! DEFINITION. The commands that a word of the opcode table spells. No row of the FQ512's table gives bits: its commands
are steps of its agents and transfers of its hosts, and no word names one. What the package itself decodes (schedule
opcodes, edge commands, YDP frames, link packets and blocks, CHR packets) is read by the meanings. -/

namespace Sys2Proof

/-- No row of the table gives bits, so no word spells a command. -/
def decodeTableWord (_nbits _w : Nat) : Option Instr := none

end Sys2Proof
end

