-- ==== Sys2Proof/Config.lean ====
section
/-! DEFINITION. What the spec leaves open: each value is a constant with no body, so nothing can be proved from it. A first
argument named by `k` is the free-value counter of State (log 3). -/

namespace Sys2Proof.Config

/-- Scratch word i of an engine's control store after an opcode: the ROM is not given (R92). -/
opaque scratch (k i : Nat) : Word
/-- The flags Z, N, C and the return stack after an opcode: bits 0 to 2, then 1 + the stacked address or 0. -/
opaque seqState (k : Nat) : Nat
/-- Microwords that a dropped packet costs: R78 gives only a maximum. -/
opaque dropCost (k : Nat) : Nat
/-- The microcode ROM of an engine kind (R92): the spec gives none of its 4,096 words of 96 bits. -/
opaque rom (kind addr : Nat) : BitVec 96
/-- The ROM handler of an opcode (256: the handler that drops a packet) fetches a ROM address (R97): the ROM is not given. -/
opaque romTouches (kind opcode addr : Nat) : Bool
/-- The ROM address of the handler that drops a packet (R99). -/
opaque dropHandler (kind : Nat) : BitVec 12
/-- Microwords of the fault entry (R100). -/
opaque faultCost (k : Nat) : Nat
/-- C after A − B by whether the difference borrows, and after an operation other than an addition or subtraction (R95 names no
value). -/
opaque subCarry (borrow : Bool) : Bool
opaque otherCarry (k : Nat) : Bool
/-- What a microword without a result hands to its port action and its flags (R96: ALU 0 and 11 form none). -/
opaque noResult (k : Nat) : Word
/-- Where byte i of the word that PORT 4 reads at an address lies in the cluster's memory: the memory, by its remainder modulo 3
(samples, kernel taps, discriminant tables), and the byte's place in it (R96 gives no address map). -/
opaque memByte (address : Word) (i : Nat) : Nat × Nat
/-- The word that a read of the verdict input or of an empty loop buffer brings, and the value of COND 12 (R96 gives no layout). -/
opaque portRead (k : Nat) : Word
opaque verdictValid (k : Nat) : Bool
/-- Where a RETURN goes when nothing has been pushed (R96). -/
opaque emptyReturn (k : Nat) : Bool × Nat
/-- The opcode that a DISPATCH of a keystone engine finds (R96, R97: a keystone engine runs no schedule), the ROM address at which it
goes on after reset or its fault entry, and whether it completes a microword in a grain (R93 bounds its cycle). -/
opaque keystoneOp (k : Nat) : Nat
opaque keystoneEntry (kind : Nat) : BitVec 12
opaque keystoneCycle (k : Nat) : Bool
/-- Slot and choice that a word written to the select lines spells (R96 gives no layout); none is NOCHOICE. -/
opaque selectWord (w : Word) : Nat × Option (Fin 4)
/-- Microwords of an opcode on a kind that runs a patch: the patch set's publisher gives them (R94). -/
opaque patchedCost (k opcode : Nat) : Nat
/-- The ROM dispatch entry of an opcode for an engine kind (R92, R97): 12 bits. -/
opaque romDispatch (kind opcode : Nat) : BitVec 12
/-- A rounding that the spec does not give goes up to the next value rather than down: by the place of the rounding and the
value before it. -/
opaque roundUp (place : Nat) (num : Int) : Bool
/-- The last quantisation step of the sine and cosine generator goes up rather than down: by the phase (R109 gives no rounding). -/
opaque trigUp (theta : Nat) : Bool
/-- The interpolator's impulse response between envelope instants, in units of 2^-24: the half-band filters' coefficients are not
given (R115). `d` is 48 more than the distance in DAC samples after the centre. -/
opaque interpTap (d : Nat) : Int

/-- Weight, in units of 2^-24, of the first 249 of the 250 mixed samples that a decimated one depends on, oldest first (R168: the
CIC and FIR coefficients are not given). -/
opaque decimTap (k : Nat) : Int
/-- What a built-in test reports whose channel's gate closes (R30): failing units beyond the first, the first one's offset, and the mask. -/
opaque cutTest (k : Nat) : Nat × Word × Word
/-- The pool cell that a queue takes as the n-th since it was last empty (R249: which free cell is taken is not given). -/
opaque cellOf (queue n : Nat) : BitVec 18
/-- Dead time of a TDC in ticks of 1.5625 ps: R195 gives only a maximum of 8 ns. -/
opaque tdcDead : Nat
/-- Voltage in µV at the REFM ball that a MAU's external reference reads (R379, R391): no object of the package gives it. -/
opaque refm (unit : Nat) : Nat
/-- Base temperature, in 2^-24 °C, of a thermistor voltage for which the formula of R396 gives none. -/
opaque ntcOpen (code : Nat) : Int

end Sys2Proof.Config
end

