-- ==== Sys2Proof/Machine/Bits.lean ====
section
/-! DEFINITION. Bit fields, sign extension, byte order, saturation, CRC-32 and the small list helpers the meanings
share. -/

namespace Sys2Proof.Machine

/-- Bits hi down to lo of a word, as a number (R5). -/
def fld (w : Word) (hi lo : Nat) : Nat := w.toNat / 2 ^ lo % 2 ^ (hi - lo + 1)

/-- Bit i of a number. -/
def bitOf (n i : Nat) : Bool := n / 2 ^ i % 2 = 1

/-- Bits hi down to lo of a number. -/
def nfld (n hi lo : Nat) : Nat := n / 2 ^ lo % 2 ^ (hi - lo + 1)

/-- A word from a number. -/
def word (n : Nat) : Word := BitVec.ofNat 64 n

/-- Two's complement value of the low `bits` bits of a number. -/
def sx (bits n : Nat) : Int :=
  let m := n % 2 ^ bits
  if m < 2 ^ (bits - 1) then (m : Int) else (m : Int) - (2 ^ bits : Nat)

/-- The `bits`-bit two's complement pattern of an integer. -/
def pat (bits : Nat) (x : Int) : Nat := (x % ((2 ^ bits : Nat) : Int)).toNat

/-- An integer wrapped into `bits` bits of two's complement. -/
def wrapS (bits : Nat) (x : Int) : Int := sx bits (pat bits x)

/-- Saturation between two bounds. -/
def sat (lo hi x : Int) : Int := if x < lo then lo else if hi < x then hi else x

/-- Saturation of a natural number. -/
def satN (hi n : Nat) : Nat := if hi < n then hi else n

/-- Set or clear bit i of a number. -/
def setBit (n i : Nat) (b : Bool) : Nat :=
  let low := n % 2 ^ i
  let high := n / 2 ^ (i + 1)
  high * 2 ^ (i + 1) + (if b then 2 ^ i else 0) + low

/-- 1 for true, 0 for false. -/
def b2n (b : Bool) : Nat := if b then 1 else 0

/-- 1 for true, 0 for false, as an object's value. -/
def b2i (b : Bool) : Int := if b then 1 else 0

/-- The `n` bytes of a value, least significant first (R6). -/
def leBytes : Nat → Nat → List Byte
  | 0, _ => []
  | n + 1, v => BitVec.ofNat 8 v :: leBytes n (v / 256)

/-- The value of bytes given least significant first (R6). -/
def leVal : List Byte → Nat
  | [] => 0
  | b :: bs => b.toNat + 256 * leVal bs

/-- The 64-bit words of a byte string, eight bytes each, least significant first; `fuel` bounds the count. -/
def leWords : Nat → List Byte → List Word
  | 0, _ => []
  | _, [] => []
  | n + 1, bs => word (leVal (bs.take 8)) :: leWords n (bs.drop 8)

/-- The number of bits that are 1 among the low `n` bits. -/
def popcount : Nat → Nat → Nat
  | 0, _ => 0
  | n + 1, v => v % 2 + popcount n (v / 2)

/-- Odd parity of one byte (R12, R245): the bit that makes the count of ones odd. -/
def oddParity (b : Byte) : Bool := popcount 8 b.toNat % 2 = 0

/-- One byte step of a reflected CRC with polynomial `poly`. -/
def crcStep (poly : Nat) : Nat → Nat → Nat
  | 0, c => c
  | n + 1, c => crcStep poly n (if c % 2 = 1 then (c / 2) ^^^ poly else c / 2)

/-- CRC-32 with the parameters of R63 over bytes: reflected 0xEDB88320, initial and final 0xFFFFFFFF. -/
def crc32Go : List Byte → Nat → Nat
  | [], c => c
  | b :: bs, c => crc32Go bs (crcStep 0xEDB88320 8 (c ^^^ b.toNat))

/-- CRC-32 of R63. -/
def crc32 (bs : List Byte) : Nat := crc32Go bs 0xFFFFFFFF ^^^ 0xFFFFFFFF

/-- Integer square root by bits from the top: the largest r with r * r at most n, for n below 4 ^ fuel. -/
def isqrtGo : Nat → Nat → Nat → Nat
  | 0, _, r => r
  | k + 1, n, r => let t := r + 2 ^ k; isqrtGo k n (if t * t ≤ n then t else r)

/-- Integer square root of a number below 2 ^ 128. -/
def isqrt (n : Nat) : Nat := isqrtGo 64 n 0

/-- Replace the element at a position. -/
def setAt {α : Type} : List α → Nat → α → List α
  | [], _, _ => []
  | _ :: xs, 0, v => v :: xs
  | x :: xs, n + 1, v => x :: setAt xs n v

/-- Element at a position, with a value for positions outside. -/
def nthD {α : Type} (xs : List α) (n : Nat) (d : α) : α := (xs[n]?).getD d

/-- The numbers lo, lo + 1, …, lo + n - 1. -/
def span (lo n : Nat) : List Nat := (List.range n).map (lo + ·)

/-- Sum of a list of numbers. -/
def sumN (xs : List Nat) : Nat := xs.foldl (· + ·) 0

/-- Sum of a list of integers. -/
def sumI (xs : List Int) : Int := xs.foldl (· + ·) 0

/-- Largest element, 0 for none. -/
def maxN (xs : List Nat) : Nat := xs.foldl max 0

/-- Remove the first element that satisfies a test. -/
def dropFirst {α : Type} (p : α → Bool) : List α → List α
  | [] => []
  | x :: xs => if p x then xs else x :: dropFirst p xs

/-- Insert before the first element that must come after it. -/
def insertBy {α : Type} (before : α → α → Bool) (x : α) : List α → List α
  | [] => [x]
  | y :: ys => if before x y then x :: y :: ys else y :: insertBy before x ys

end Sys2Proof.Machine
end

