-- ==== Sys2Proof/Machine/Objects.lean ====
section
/-! DEFINITION. The object dictionary's table (R328 to R334): one name per object of the chapters' object tables, with
its index, sub-indices, type, access, range and reset value. The names are the spec's own. -/

namespace Sys2Proof.Machine

/-- The objects of the dictionary, in the order of the chapters' object tables. The four bank-1 rows of TON_DISC_B1
(sub-indices 06 to 09 of 0x7002 + 4t) have a name each. -/
inductive Reg where
  | TML_NOW | TML_SYNC_CTRL | TML_SYNC_STATE | TML_SYNC_GRAIN | TML_SYNC_COUNT | TML_REF_SOURCE
  | TML_COPY_FAULT | TML_EPOCH_S | TML_EPOCH_NS | TML_EPOCH_FRAC | TML_CAMBER_FLOOR | TML_SHOT_MIN_CAMBER
  | TML_SHOT_MIN_FIFO | TML_SHOT_MIN_SHOT | TML_LOW_CAMBER | TML_LOW_FIFO | TML_LOW_SHOT | TML_RGN_SHOT_MIN
  | TML_LATE | TML_FAR | TML_ORDER | TML_ILLEGAL | TML_STAGE_DROP | TML_FINE_IGNORED
  | TML_MARK_COLLIDE | TML_FIRST_FIFO | TML_FIRST_SHOT | TML_FIRST_RELEASE | TML_FIRST_ARRIVAL | TML_FIRST_OPCODE
  | TML_LATE_FLAG | TML_FIFO_SEL | TML_F_SHOT_MIN | TML_F_LOW | TML_F_LATE | TML_F_FAR
  | TML_F_ILLEGAL | TML_F_INACTIVE | TML_F_LEVEL | TML_F_STAGED | PKG_IMG_BASE | PKG_IMG_CTRL
  | PKG_IMG_STATE | PKG_IMG_ERROR | PKG_IMG_ID | PKG_IMG_DONE | PKG_RUN_CTRL | PKG_RUN_START
  | PKG_RUN_SHOT0 | PKG_RUN_STATE | PKG_RUN_END | PKG_SHOT | PKG_FABRIC_SHOT | PKG_SHOT_START
  | PKG_SHOTS_DONE | PKG_SHOTS_VOID | PKG_BARRIER_LATE | PKG_BOUNDARY_MISMATCH | PKG_SCHED_ILLEGAL | PKG_SCHED_POISON
  | PKG_NO_END | PKG_BARRIER_SLACK | ENG_SEL | ENG_STATE | ENG_KIND | ENG_SHOT
  | ENG_PC | ENG_OPCODES | ENG_MICROWORDS | ENG_ILLEGAL | ENG_POISON | ENG_STARVE
  | ENG_DISCARD | ENG_BARRIER_MIN | MCS_PATCH | MCS_BOOT_PATCH | MCS_LOADS | MCS_REJECTS
  | MCS_FAULT | MCS_DISP_SEL | MCS_DISP_ENTRY | MCS_PATCH_ID | MCS_PATCH_CRC | MCS_STATE
  | TON_FREQ | TON_FRAME | TON_SNAP_FREQ | TON_SNAP_FRAME | TON_SEGMENT | TON_STATE
  | TON_NOT_READY | TON_LATE_JUMP | TON_JUMP_REPLACED | TON_POISON_PLAY | TON_RESTORES | DRV_SCALE
  | DRV_MUTE | DRV_MUTE_CAUSE | DRV_CLIP | DRV_PEAK | DRV_TAP_POISON | DRV_XTAP
  | CLU_SEG_SEL | CLU_SEG_DESC | CLU_SEG_STATE | CLU_SEG_DATA | CLU_SEG_WRITE_REJ | CLU_REFILL_UNDERRUN
  | CLU_REFILL_NEXT | CLU_REFILL_DONE | CLU_SEG_POISONED | CLU_MRK_LEVEL | FLX_ALPHA | FLX_BETA
  | FLX_FIR | FLX_INPUT | FLX_OUT | FLX_STATE | FLX_SEGMENT | FLX_ZERO_CAUSE
  | FLX_CLIP | FLX_INT_SAT | FLX_PEAK | FLX_ZERO_DISCARD | FLX_SET | CLU_FLUX_MTX
  | BIA_CODE | BIA_TARGET | BIA_RANGE | BIA_STATE | BIA_SENSE | BIA_SET
  | BIA_SAFE_CODE | BIA_SAFE_RANGE | BIA_SLEW_PWRUP | BIA_SLEW_FAULT | BIA_REPLACED | BIA_FAULT_DISCARD
  | BIA_RANGE_CHANGES | BIA_ILIMIT | BIA_ILIMIT_COUNT | BIA_SENSE_FAULT | TON_RES_SHIFT | TON_DISC_I0
  | TON_DISC_Q0 | TON_DISC_GI | TON_DISC_GQ | TON_DISC_B1_I0 | TON_DISC_B1_Q0 | TON_DISC_B1_GI
  | TON_DISC_B1_GQ | TON_LAST_I | TON_LAST_Q | TON_LAST_VERDICT | TON_LAST_FLAGS | TON_RESULTS
  | TON_CAP_OVERLAP | TON_DEMOD_FAULT | TON_SAT | TON_EDGE | TON_LOWCONF | PRB_SCALE
  | PRB_MUTE | PRB_MUTE_CAUSE | PRB_CLIP | PRB_PEAK | ACQ_ZONE | ACQ_OVR
  | ACQ_OVR_GRAINS | ACQ_HOT | ACQ_HOT_COUNT | ACQ_NBR_OVR | ACQ_PEAK | ACQ_CAL_STATE
  | ACQ_CAL_AGE | ACQ_CAL_STEP | ACQ_CAL_PASSES | ACQ_CAL_ABANDON | ACQ_CAL_DEFER | ACQ_CAL_STALE
  | CLU_KRN_OFFSET | CLU_KRN_DATA | CLU_DISC_OFFSET | CLU_DISC_DATA | TRG_CTRL | TRG_STATE
  | TRG_ROLE | TRG_ARM_GRAIN | TRG_ARM_EVT | TRG_ARM_DELAY | TRG_ARM_SEQ | TRG_FIRE_GRAIN
  | TRG_FIRE_TICK | TRG_FIRE_COND | TRG_FIRE_ORIGIN | TRG_ARMS | TRG_FIRES | TRG_REMOTE_FIRES
  | TRG_RACE | TRG_STALE_FIRE | TRG_ARM_LATE | TRG_COINCIDE | TRG_COND_SRC | TRG_COND_LEVEL
  | TRG_COND_HYST | TRG_COND_CTRL | TRG_COND_COUNT | TRG_COND_DEAD | TRG_CAPEVT | TRG_CAPOP
  | TRG_CAPSTARTS | TRG_CAPBUSY | TRG_TRACE_BUSY | TRG_CROSS_DROP | TRG_STREAM_CTRL | TRG_STREAM_STATE
  | TRG_BACKLOG_LIMIT | TRG_BACKLOG | TRG_BACKLOG_PEAK | TRG_QUEUE_LIMIT | TRG_RECORDS | TRG_GAPS
  | TRG_GAP_SHOTS | TRG_CLOSED_DISCARD | TRG_STAGING_FULL | TRG_STREAM_LOST | CLU_VEXPORT | CLU_BR_SEL
  | CLU_BR_ENTRY | CLU_BR_MAP | CLU_FB_ARMS | CLU_FB_CHOSEN | CLU_FB_DEFAULT | CLU_FB_MISSING
  | CLU_FB_INVALID | CLU_FB_CHOICE_LATE | CLU_FB_OVERWRITTEN | CLU_FB_STRAY | CLU_FB_SLACK | CLU_FB_ALT
  | LNK_PKG_NO | LNK_VROUTE_SEL | LNK_VROUTE | LNK_V_SENT | LNK_V_RECEIVED | LNK_V_DUPLICATE
  | LNK_V_LOST | LNK_V_HOPLIMIT | LNK_V_NOROUTE | RGN_PROFILE | RGN_PROFILE_REQ | RGN_PROFILE_STATE
  | RGN_FORCED | RGN_CHANGE_GRAIN | RGN_CHANGES | RGN_FORCED_CHANGES | RGN_FABRIC_MV | RGN_KRN_LAYOUT
  | RGN_KRN_MISMATCH | RGN_HALTS | RGN_HALT_GRAINS | PKG_PROFILE_REQ | PKG_PROFILE_MAP | PKG_FORCED_MAP
  | QUE_SEL | QUE_LEVEL | QUE_PACKETS | QUE_CELLS | QUE_STATE | QUE_LIMIT
  | QUE_HIGH_WM | QUE_LOW_WM | QUE_HIGH_FLAG | QUE_LOW_FLAG | QUE_HIGH_COUNT | QUE_LOW_COUNT
  | QUE_PEAK | QUE_TROUGH | QUE_FLUSH_DISCARD | QUE_FLUSH_CUTS | QUE_DROPPED | QUE_POISON
  | QUE_FORCED_END | QUE_FLUSHES | QUE_OVERWRITTEN | QUE_CMD | QUE_PUSH | QUE_POP
  | QUE_PKT | QUE_POOL_FREE | QUE_POOL_LOW | QUE_POOL_RESERVE | QUE_POOL_POISONED | QUE_POOL_WAITS
  | QUE_BROKEN | QUE_EF_SEL | QUE_EF_WPTR | QUE_EF_RPTR | QUE_EF_POISON | QUE_EF_FLUSHED
  | QUE_WM_EVT | EVT_CH_SEL | EVT_CH_PROD | EVT_CH_COUNT | EVT_CH_MERGED | EVT_CH_LAST
  | EVT_FOREIGN_WAIT | EVT_CON_SEL | EVT_CON_OVR | EVT_CON_OVR_COUNT | EVT_CON_COINC | EVT_CON_TAKEN
  | EVT_MRK | TIM_CTRL | TIM_START | TIM_PERIOD | TIM_LIMIT | TIM_FIRES
  | TIM_SKIPPED | DRM_STATE | DRM_RATE | DRM_MAP | DRM_CHTAB | DRM_RANGE
  | DRM_WIPE_DONE | DRM_WIPE_TOTAL | DRM_RETRAIN_PERIOD | DRM_CH_SEL | DRM_CH_STATE | DRM_CH_ORG
  | DRM_CH_TRAIN | DRM_CH_RESTARTED | DRM_CH_RESTARTS | DRM_CH_HOT | DRM_CH_TEMP_ERR | DRM_CH_REF_FORCED
  | DRM_CH_PAR_ERR | DRM_CH_FIRST_PAR | DRM_CH_RETRAINS | DRM_CH_RETRAIN_ABANDON | DRM_CH_FENCE_READS | DRM_CH_FENCE_WRITES
  | DRM_PORT_SEL | DRM_P_LEVEL | DRM_P_SIZE | DRM_P_PANIC | DRM_P_PANICS | DRM_P_PANIC_GRAINS
  | DRM_P_FENCE_HIT | DRM_P_DROP | DRM_ARING_BASE | DRM_ARING_SIZE | DRM_ARING_WPTR | DRM_ARING_WRAPS
  | DRM_WIN_ADDR | DRM_WIN_DATA | DRM_BIST_CTRL | DRM_BIST_STATE | DRM_BIST_FAILS | DRM_BIST_FIRST
  | DRM_BIST_MASK | DRM_BIST_POLY | LNK_LANE_SEL | LNK_LN_STATE | LNK_LN_LOS | LNK_LN_LOL
  | LNK_LN_DOWNS | LNK_LN_BAD | LNK_LN_SHIM_DEL | LNK_LN_SHIM_INS | LNK_LN_ELASTIC | LNK_LN_PPM
  | LNK_HL_STATE | LNK_HL_WIDTH | LNK_HL_WIDTH_MAX | LNK_HL_CTRL | LNK_RTO | LNK_MGT_RX
  | LNK_MGT_RETX | LNK_UPL_RX | LNK_NAK_TX | LNK_NAK_RX | LNK_VIOL | LNK_VIOL_LAST
  | LNK_RETRAINS | LNK_UPL_BYTES | LNK_UPL_PENDING | LNK_UPL_REFUSED | LNK_UPL_REFUSE_ADDR | LNK_UPL_REFUSE_WHY
  | LNK_VP_SEL | LNK_VP_ENABLE | LNK_VP_STATE | LNK_VP_PARTNER | LNK_VP_VIOL | LNK_VP_RETRAINS
  | LNK_VP_REJECT_RX | LNK_VP_DISCARD | PKG_VENDOR | PKG_DEVICE | PKG_ORDER_CODE | PKG_SI_REV
  | PKG_SERIAL | PKG_YDP_VERSION | PKG_IMG_VERSION_MAX | PKG_DESC_SEL | PKG_DESC_EXISTS | PKG_DESC_TYPE
  | PKG_DESC_ACCESS | PKG_DESC_SIZE | LNK_CAN_NODE_NVM | LNK_CAN_NODE | LNK_CAN_NODE_SRC | LNK_CAN_STATE
  | LNK_CAN_TEC | LNK_CAN_REC | LNK_CAN_BUSOFF | LNK_CAN_RX_OVERFLOW | LNK_CAN_CLASSIC | LNK_YDP_REQUESTS
  | LNK_YDP_ABORTS | LNK_YDP_LAST_ABORT | LNK_YDP_LAST_OBJ | LNK_YDP_ABANDONED | LNK_YDP_TIMEOUTS | LNK_YDP_SEG_TIMEOUT
  | NVM_CTRL | NVM_COMMIT_STATE | NVM_DIRTY | NVM_ACTIVE_BANK | NVM_ACTIVE_SEQ | NVM_COMMIT_PAGES
  | NVM_COMMITS | NVM_COMMIT_FAILS | NVM_SET_BYTES | TNW_ENABLE | TNW_DOMAIN | TNW_CTRL
  | TNW_STATE | TNW_SLAVE_PORT | TNW_GM_ID | TNW_IN_TOL | TNW_FIO | TNW_TP_LINK
  | TNW_NOW_S | TNW_NOW_NS | TNW_NOW_FRAC | TNW_OFFSET | TNW_PATH_DELAY | TNW_RATE
  | TNW_RATE_SAT | TNW_KP | TNW_KI | TNW_LOCK_NS | TNW_PPS_WIDTH | TNW_PPS_MODE
  | TNW_TIME_PERIOD | TNW_STEPS | TNW_MASTER_CHANGES | TNW_MASTER_LOSSES | TNW_TC_FWD | TNW_TC_DROP
  | TNW_RX_DROP | TNW_RX_RANGE | CLK_TREF_SEL | CLK_MGMT_SRC | CLK_MGMT_SEL | CLK_MGMT_HOLD
  | CLK_XTB_DELAY | CLK_STDLY | CLK_TREF_LOST | CLK_SIO_FAULT | CLK_FIO_FAULT | CLK_BD_LOST
  | CLK_BD_LOSSES | CLK_MON_SEL | CLK_MON_STATE | CLK_MON_TRIPPED | CLK_MON_TRIPS | CLK_MON_LAST_PPM
  | CLK_MON_QUAL_GRAIN | CLK_FMC_SRC | CLK_FMC_REF | CLK_FMC_GATE | CLK_FMC_CTRL | CLK_FMC_STATE
  | CLK_FMC_COUNT | CLK_FMC_FREQ | CLK_FMC_PPM | CLK_GATE | CLK_FORCED_GATE | MON_SEL
  | MON_STATE | MON_REF_SEL | MON_REFBUF_EN | MON_REF_READY | MON_START | MON_START_DELAY
  | MON_SEQ_LEN | MON_SEQ_CTRL | MON_SEQ_NUMBER | MON_SEQ_GRAIN | MON_START_LOST | MON_OVR
  | MON_NOREF | MON_IL_YIELD | MON_ENTRY | MON_RESULT | MON_INJ | MON_INJ_STATE
  | MON_INJ_RESULT | MON_INJ_WAIT | MON_CAL_CTRL | MON_CAL_STATE | MON_CAL_REF | MON_CAL_COUNT
  | MON_CAL_OFS | MON_CAL_GAIN | THM_STATE | THM_CTRL | THM_FORCE_CLR | THM_BASE
  | THM_BASE_STATE | THM_BASE_MON | THM_NTC_R25 | THM_NTC_BETA | THM_NTC_RSET | THM_NTC_VTOP
  | THM_VNOM | THM_STEP | THM_STEP_MS | THM_VDDF_MV | THM_COMP_SEL | THM_COMP_PT
  | THM_TJ | THM_T2 | THM_T3 | THM_PWR | THM_TJ_PEAK | THM_SENSOR_STATE
  | THM_DIODE | THM_DIODE_DISAGREE | THM_FAST | THM_TRIPPED | THM_TRIPS | THM_RELEASES
  | THM_BROKEN_COUNT | THM_R | THM_C | FLT_CLASS_SEL | FLT_COUNT | FLT_FLAG
  | FLT_FIRST_GRAIN | FLT_LAST_GRAIN | FLT_LAST_UNIT | FLT_LAST_DETAIL | FLT_ACTIVE | FLT_FUSE_ERROR
  | FLT_UPLOAD_LOST | FLT_LOG_SUPPRESSED | FLT_SCRUB_SEL | FLT_SCRUB_AGE | FLT_SCRUB_PASSES | FLT_SCRUB_FOUND
  | FLT_SCRUB_STALE | FLT_SCRUB_LIMIT | NVM_BANK_A | NVM_BANK_B | NVM_REC_SKIPPED | NVM_FLASH_SIZE
  | LCS_STATE | LCS_FUSES | LCS_TRANSITIONS | LCS_SLOTS_LEFT | LCS_BAD_SLOTS | LCS_REQ
  | LCS_CONFIRM | LCS_RESULT | PKG_STATE | PKG_RESET_CAUSE | PKG_RESET | PKG_BOOT_WAIT
  | PKG_MILESTONE | PKG_STRAPS
  deriving DecidableEq

/-- The types of R329. -/
inductive ObjType where
  | bool | u8 | u16 | u32 | u64 | i8 | i16 | i32 | i64 | str | dom
  deriving DecidableEq, Repr

/-- The access rights of R330. -/
inductive Access where
  | ro | rw | wo | rwp
  deriving DecidableEq, Repr

/-- The range an object's table states by itself: any value of its type, an interval, a set of writable bits (a
reserved bit set is refused, R7), a list of values, or one value only (a counter or sticky flag cleared by 0, a low-water raised by its
top value). Conditions that a rule adds stand with the object's own write. -/
inductive Range where
  | any | span (lo hi : Int) | mask (bits : Nat) | only (v : Int) | among (vs : List Int)
  deriving DecidableEq, Repr

/-- One row of an object table. The row stands for `count` indices `base + stride * i` and the sub-indices `subLo` to
`subHi`; `sel` is the selector object whose value chooses the instance of a window (R334). -/
structure ObjRow where
  reg    : Reg
  base   : Nat
  stride : Nat
  count  : Nat
  subLo  : Nat
  subHi  : Nat
  ty     : ObjType
  acc    : Access
  rng    : Range
  sel    : Option Reg
  deriving DecidableEq

/-- Rows 0 to 39 of the object tables. -/
def objTable0 : List ObjRow := [
  ⟨.TML_NOW, 0x2100, 0, 1, 0, 0, .u64, .ro, .any, none⟩,
  ⟨.TML_SYNC_CTRL, 0x2101, 0, 1, 0, 0, .u8, .rw, .span 0 3, none⟩,
  ⟨.TML_SYNC_STATE, 0x2102, 0, 1, 0, 0, .u8, .ro, .any, none⟩,
  ⟨.TML_SYNC_GRAIN, 0x2103, 0, 1, 0, 0, .u64, .rw, .any, none⟩,
  ⟨.TML_SYNC_COUNT, 0x2104, 0, 1, 0, 0, .u32, .ro, .any, none⟩,
  ⟨.TML_REF_SOURCE, 0x2105, 0, 1, 0, 0, .u8, .ro, .any, none⟩,
  ⟨.TML_COPY_FAULT, 0x2106, 0, 1, 0, 0, .u8, .rw, .any, none⟩,
  ⟨.TML_EPOCH_S, 0x2108, 0, 1, 1, 1, .u64, .rw, .span 0 (2 ^ 48 - 1), none⟩,
  ⟨.TML_EPOCH_NS, 0x2108, 0, 1, 2, 2, .u32, .rw, .span 0 999999999, none⟩,
  ⟨.TML_EPOCH_FRAC, 0x2108, 0, 1, 3, 3, .u16, .rw, .any, none⟩,
  ⟨.TML_CAMBER_FLOOR, 0x2110, 0, 1, 0, 0, .u16, .ro, .any, none⟩,
  ⟨.TML_SHOT_MIN_CAMBER, 0x2111, 0, 1, 1, 1, .i32, .ro, .any, none⟩,
  ⟨.TML_SHOT_MIN_FIFO, 0x2111, 0, 1, 2, 2, .u16, .ro, .any, none⟩,
  ⟨.TML_SHOT_MIN_SHOT, 0x2111, 0, 1, 3, 3, .u32, .ro, .any, none⟩,
  ⟨.TML_LOW_CAMBER, 0x2112, 0, 1, 1, 1, .i32, .rw, .only 0x7FFFFFFF, none⟩,
  ⟨.TML_LOW_FIFO, 0x2112, 0, 1, 2, 2, .u16, .ro, .any, none⟩,
  ⟨.TML_LOW_SHOT, 0x2112, 0, 1, 3, 3, .u32, .ro, .any, none⟩,
  ⟨.TML_RGN_SHOT_MIN, 0x2113, 0, 1, 1, 8, .i32, .ro, .any, none⟩,
  ⟨.TML_LATE, 0x2114, 0, 1, 1, 1, .u32, .rw, .only 0, none⟩,
  ⟨.TML_FAR, 0x2114, 0, 1, 2, 2, .u32, .rw, .only 0, none⟩,
  ⟨.TML_ORDER, 0x2114, 0, 1, 3, 3, .u32, .rw, .only 0, none⟩,
  ⟨.TML_ILLEGAL, 0x2114, 0, 1, 4, 4, .u32, .rw, .only 0, none⟩,
  ⟨.TML_STAGE_DROP, 0x2114, 0, 1, 5, 5, .u32, .rw, .only 0, none⟩,
  ⟨.TML_FINE_IGNORED, 0x2114, 0, 1, 6, 6, .u32, .rw, .only 0, none⟩,
  ⟨.TML_MARK_COLLIDE, 0x2114, 0, 1, 7, 7, .u32, .rw, .only 0, none⟩,
  ⟨.TML_FIRST_FIFO, 0x2115, 0, 1, 1, 1, .u16, .ro, .any, none⟩,
  ⟨.TML_FIRST_SHOT, 0x2115, 0, 1, 2, 2, .u32, .ro, .any, none⟩,
  ⟨.TML_FIRST_RELEASE, 0x2115, 0, 1, 3, 3, .u64, .ro, .any, none⟩,
  ⟨.TML_FIRST_ARRIVAL, 0x2115, 0, 1, 4, 4, .u64, .ro, .any, none⟩,
  ⟨.TML_FIRST_OPCODE, 0x2115, 0, 1, 5, 5, .u8, .ro, .any, none⟩,
  ⟨.TML_LATE_FLAG, 0x2116, 0, 1, 0, 0, .bool, .rw, .only 0, none⟩,
  ⟨.TML_FIFO_SEL, 0x2120, 0, 1, 0, 0, .u16, .rw, .span 0 1423, none⟩,
  ⟨.TML_F_SHOT_MIN, 0x2121, 0, 1, 1, 1, .i32, .ro, .any, some .TML_FIFO_SEL⟩,
  ⟨.TML_F_LOW, 0x2121, 0, 1, 2, 2, .i32, .rw, .only 0x7FFFFFFF, some .TML_FIFO_SEL⟩,
  ⟨.TML_F_LATE, 0x2121, 0, 1, 3, 3, .u32, .rw, .only 0, some .TML_FIFO_SEL⟩,
  ⟨.TML_F_FAR, 0x2121, 0, 1, 4, 4, .u32, .rw, .only 0, some .TML_FIFO_SEL⟩,
  ⟨.TML_F_ILLEGAL, 0x2121, 0, 1, 5, 5, .u32, .rw, .only 0, some .TML_FIFO_SEL⟩,
  ⟨.TML_F_INACTIVE, 0x2121, 0, 1, 6, 6, .u32, .rw, .only 0, some .TML_FIFO_SEL⟩,
  ⟨.TML_F_LEVEL, 0x2121, 0, 1, 7, 7, .u16, .ro, .any, some .TML_FIFO_SEL⟩,
  ⟨.TML_F_STAGED, 0x2121, 0, 1, 8, 8, .u8, .ro, .any, some .TML_FIFO_SEL⟩]

/-- Rows 40 to 79 of the object tables. -/
def objTable1 : List ObjRow := [
  ⟨.PKG_IMG_BASE, 0x2010, 0, 1, 0, 0, .u64, .rw, .any, none⟩,
  ⟨.PKG_IMG_CTRL, 0x2011, 0, 1, 0, 0, .u8, .rw, .span 0 2, none⟩,
  ⟨.PKG_IMG_STATE, 0x2012, 0, 1, 0, 0, .u8, .ro, .any, none⟩,
  ⟨.PKG_IMG_ERROR, 0x2013, 0, 1, 0, 0, .u32, .ro, .any, none⟩,
  ⟨.PKG_IMG_ID, 0x2014, 0, 1, 0, 0, .u32, .ro, .any, none⟩,
  ⟨.PKG_IMG_DONE, 0x2015, 0, 1, 0, 0, .u32, .ro, .any, none⟩,
  ⟨.PKG_RUN_CTRL, 0x2018, 0, 1, 0, 0, .u8, .rw, .span 0 3, none⟩,
  ⟨.PKG_RUN_START, 0x2019, 0, 1, 0, 0, .u64, .rw, .any, none⟩,
  ⟨.PKG_RUN_SHOT0, 0x201A, 0, 1, 0, 0, .u32, .rw, .any, none⟩,
  ⟨.PKG_RUN_STATE, 0x201B, 0, 1, 1, 1, .u8, .ro, .any, none⟩,
  ⟨.PKG_RUN_END, 0x201B, 0, 1, 2, 2, .u8, .ro, .any, none⟩,
  ⟨.PKG_SHOT, 0x201C, 0, 1, 1, 1, .u32, .ro, .any, none⟩,
  ⟨.PKG_FABRIC_SHOT, 0x201C, 0, 1, 2, 2, .u32, .ro, .any, none⟩,
  ⟨.PKG_SHOT_START, 0x201C, 0, 1, 3, 3, .u64, .ro, .any, none⟩,
  ⟨.PKG_SHOTS_DONE, 0x201D, 0, 1, 1, 1, .u32, .rw, .only 0, none⟩,
  ⟨.PKG_SHOTS_VOID, 0x201D, 0, 1, 2, 2, .u32, .rw, .only 0, none⟩,
  ⟨.PKG_BARRIER_LATE, 0x201D, 0, 1, 3, 3, .u32, .rw, .only 0, none⟩,
  ⟨.PKG_BOUNDARY_MISMATCH, 0x201D, 0, 1, 4, 4, .u32, .rw, .only 0, none⟩,
  ⟨.PKG_SCHED_ILLEGAL, 0x201D, 0, 1, 5, 5, .u32, .rw, .only 0, none⟩,
  ⟨.PKG_SCHED_POISON, 0x201D, 0, 1, 6, 6, .u32, .rw, .only 0, none⟩,
  ⟨.PKG_NO_END, 0x201D, 0, 1, 7, 7, .u32, .rw, .only 0, none⟩,
  ⟨.PKG_BARRIER_SLACK, 0x201E, 0, 1, 0, 0, .i32, .rw, .only 0x7FFFFFFF, none⟩,
  ⟨.ENG_SEL, 0x8200, 0, 1, 0, 0, .u8, .rw, .span 0 132, none⟩,
  ⟨.ENG_STATE, 0x8201, 0, 1, 1, 1, .u8, .ro, .any, some .ENG_SEL⟩,
  ⟨.ENG_KIND, 0x8201, 0, 1, 2, 2, .u8, .ro, .any, some .ENG_SEL⟩,
  ⟨.ENG_SHOT, 0x8201, 0, 1, 3, 3, .u32, .ro, .any, some .ENG_SEL⟩,
  ⟨.ENG_PC, 0x8201, 0, 1, 4, 4, .u64, .ro, .any, some .ENG_SEL⟩,
  ⟨.ENG_OPCODES, 0x8201, 0, 1, 5, 5, .u64, .ro, .any, some .ENG_SEL⟩,
  ⟨.ENG_MICROWORDS, 0x8201, 0, 1, 6, 6, .u64, .ro, .any, some .ENG_SEL⟩,
  ⟨.ENG_ILLEGAL, 0x8201, 0, 1, 7, 7, .u32, .rw, .only 0, some .ENG_SEL⟩,
  ⟨.ENG_POISON, 0x8201, 0, 1, 8, 8, .u32, .rw, .only 0, some .ENG_SEL⟩,
  ⟨.ENG_STARVE, 0x8201, 0, 1, 9, 9, .u32, .rw, .only 0, some .ENG_SEL⟩,
  ⟨.ENG_DISCARD, 0x8201, 0, 1, 10, 10, .u32, .rw, .only 0, some .ENG_SEL⟩,
  ⟨.ENG_BARRIER_MIN, 0x8201, 0, 1, 11, 11, .i32, .rw, .only 0x7FFFFFFF, some .ENG_SEL⟩,
  ⟨.MCS_PATCH, 0x8210, 0, 1, 0, 0, .dom, .wo, .any, none⟩,
  ⟨.MCS_BOOT_PATCH, 0x8211, 0, 1, 1, 13, .dom, .rwp, .any, none⟩,
  ⟨.MCS_LOADS, 0x8212, 0, 1, 1, 1, .u32, .rw, .only 0, none⟩,
  ⟨.MCS_REJECTS, 0x8212, 0, 1, 2, 2, .u32, .rw, .only 0, none⟩,
  ⟨.MCS_FAULT, 0x8212, 0, 1, 3, 3, .u32, .rw, .only 0, none⟩,
  ⟨.MCS_DISP_SEL, 0x8213, 0, 1, 0, 0, .u16, .rw, .any, none⟩]

/-- Rows 80 to 119 of the object tables. -/
def objTable2 : List ObjRow := [
  ⟨.MCS_DISP_ENTRY, 0x8214, 0, 1, 0, 0, .u16, .ro, .any, some .MCS_DISP_SEL⟩,
  ⟨.MCS_PATCH_ID, 0x8220, 1, 13, 1, 1, .u32, .ro, .any, none⟩,
  ⟨.MCS_PATCH_CRC, 0x8220, 1, 13, 2, 2, .u32, .ro, .any, none⟩,
  ⟨.MCS_STATE, 0x8220, 1, 13, 3, 3, .u8, .ro, .any, none⟩,
  ⟨.TON_FREQ, 0x7000, 4, 1024, 1, 1, .u64, .ro, .any, none⟩,
  ⟨.TON_FRAME, 0x7000, 4, 1024, 2, 2, .u32, .ro, .any, none⟩,
  ⟨.TON_SNAP_FREQ, 0x7000, 4, 1024, 3, 3, .u64, .ro, .any, none⟩,
  ⟨.TON_SNAP_FRAME, 0x7000, 4, 1024, 4, 4, .u32, .ro, .any, none⟩,
  ⟨.TON_SEGMENT, 0x7000, 4, 1024, 5, 5, .u16, .ro, .any, none⟩,
  ⟨.TON_STATE, 0x7000, 4, 1024, 6, 6, .u8, .ro, .any, none⟩,
  ⟨.TON_NOT_READY, 0x7001, 4, 1024, 1, 1, .u32, .rw, .only 0, none⟩,
  ⟨.TON_LATE_JUMP, 0x7001, 4, 1024, 2, 2, .u32, .rw, .only 0, none⟩,
  ⟨.TON_JUMP_REPLACED, 0x7001, 4, 1024, 3, 3, .u32, .rw, .only 0, none⟩,
  ⟨.TON_POISON_PLAY, 0x7001, 4, 1024, 4, 4, .u32, .rw, .only 0, none⟩,
  ⟨.TON_RESTORES, 0x7001, 4, 1024, 5, 5, .u32, .rw, .only 0, none⟩,
  ⟨.DRV_SCALE, 0x5000, 32, 64, 1, 1, .u16, .rw, .span 0 0x7FFF, none⟩,
  ⟨.DRV_MUTE, 0x5000, 32, 64, 2, 2, .u8, .rw, .span 0 1, none⟩,
  ⟨.DRV_MUTE_CAUSE, 0x5000, 32, 64, 3, 3, .u8, .ro, .any, none⟩,
  ⟨.DRV_CLIP, 0x5000, 32, 64, 4, 4, .u32, .rw, .only 0, none⟩,
  ⟨.DRV_PEAK, 0x5000, 32, 64, 5, 5, .u32, .rw, .only 0, none⟩,
  ⟨.DRV_TAP_POISON, 0x5000, 32, 64, 6, 6, .u32, .rw, .only 0, none⟩,
  ⟨.DRV_XTAP, 0x5001, 32, 64, 1, 8, .u64, .rw, .any, none⟩,
  ⟨.CLU_SEG_SEL, 0x4010, 256, 16, 0, 0, .u16, .rw, .span 0 4095, none⟩,
  ⟨.CLU_SEG_DESC, 0x4011, 256, 16, 1, 1, .u64, .rw, .any, some .CLU_SEG_SEL⟩,
  ⟨.CLU_SEG_STATE, 0x4011, 256, 16, 2, 2, .u8, .ro, .any, some .CLU_SEG_SEL⟩,
  ⟨.CLU_SEG_DATA, 0x4012, 256, 16, 0, 0, .dom, .rw, .any, some .CLU_SEG_SEL⟩,
  ⟨.CLU_SEG_WRITE_REJ, 0x4013, 256, 16, 1, 1, .u32, .rw, .only 0, none⟩,
  ⟨.CLU_REFILL_UNDERRUN, 0x4013, 256, 16, 2, 2, .bool, .rw, .only 0, none⟩,
  ⟨.CLU_REFILL_NEXT, 0x4013, 256, 16, 3, 3, .u32, .ro, .any, none⟩,
  ⟨.CLU_REFILL_DONE, 0x4013, 256, 16, 4, 4, .u32, .ro, .any, none⟩,
  ⟨.CLU_SEG_POISONED, 0x4013, 256, 16, 5, 5, .u32, .rw, .only 0, none⟩,
  ⟨.CLU_MRK_LEVEL, 0x4014, 256, 16, 0, 0, .bool, .ro, .any, none⟩,
  ⟨.FLX_ALPHA, 0x5C00, 8, 128, 1, 4, .u32, .rw, .any, none⟩,
  ⟨.FLX_BETA, 0x5C01, 8, 128, 1, 4, .i32, .rw, .any, none⟩,
  ⟨.FLX_FIR, 0x5C02, 8, 128, 1, 32, .i32, .rw, .any, none⟩,
  ⟨.FLX_INPUT, 0x5C03, 8, 128, 1, 1, .i32, .ro, .any, none⟩,
  ⟨.FLX_OUT, 0x5C03, 8, 128, 2, 2, .i16, .ro, .any, none⟩,
  ⟨.FLX_STATE, 0x5C03, 8, 128, 3, 3, .u8, .ro, .any, none⟩,
  ⟨.FLX_SEGMENT, 0x5C03, 8, 128, 4, 4, .u16, .ro, .any, none⟩,
  ⟨.FLX_ZERO_CAUSE, 0x5C03, 8, 128, 5, 5, .u8, .ro, .any, none⟩]

/-- Rows 120 to 159 of the object tables. -/
def objTable3 : List ObjRow := [
  ⟨.FLX_CLIP, 0x5C04, 8, 128, 1, 1, .u32, .rw, .only 0, none⟩,
  ⟨.FLX_INT_SAT, 0x5C04, 8, 128, 2, 2, .u32, .rw, .only 0, none⟩,
  ⟨.FLX_PEAK, 0x5C04, 8, 128, 3, 3, .u32, .rw, .only 0, none⟩,
  ⟨.FLX_ZERO_DISCARD, 0x5C04, 8, 128, 4, 4, .u32, .rw, .only 0, none⟩,
  ⟨.FLX_SET, 0x5C04, 8, 128, 5, 5, .i16, .wo, .any, none⟩,
  ⟨.CLU_FLUX_MTX, 0x4020, 256, 16, 1, 64, .i16, .rw, .any, none⟩,
  ⟨.BIA_CODE, 0x6000, 8, 256, 1, 1, .i32, .ro, .any, none⟩,
  ⟨.BIA_TARGET, 0x6000, 8, 256, 2, 2, .i32, .ro, .any, none⟩,
  ⟨.BIA_RANGE, 0x6000, 8, 256, 3, 3, .u8, .ro, .any, none⟩,
  ⟨.BIA_STATE, 0x6000, 8, 256, 4, 4, .u8, .ro, .any, none⟩,
  ⟨.BIA_SENSE, 0x6000, 8, 256, 5, 5, .u8, .rw, .span 0 1, none⟩,
  ⟨.BIA_SET, 0x6000, 8, 256, 6, 6, .u64, .wo, .any, none⟩,
  ⟨.BIA_SAFE_CODE, 0x6001, 8, 256, 1, 1, .i32, .rwp, .span (-524288) 524287, none⟩,
  ⟨.BIA_SAFE_RANGE, 0x6001, 8, 256, 2, 2, .u8, .rwp, .span 1 3, none⟩,
  ⟨.BIA_SLEW_PWRUP, 0x6001, 8, 256, 3, 3, .u8, .rwp, .span 0 15, none⟩,
  ⟨.BIA_SLEW_FAULT, 0x6001, 8, 256, 4, 4, .u8, .rwp, .span 0 15, none⟩,
  ⟨.BIA_REPLACED, 0x6002, 8, 256, 1, 1, .u32, .rw, .only 0, none⟩,
  ⟨.BIA_FAULT_DISCARD, 0x6002, 8, 256, 2, 2, .u32, .rw, .only 0, none⟩,
  ⟨.BIA_RANGE_CHANGES, 0x6002, 8, 256, 3, 3, .u32, .rw, .only 0, none⟩,
  ⟨.BIA_ILIMIT, 0x6002, 8, 256, 4, 4, .bool, .rw, .only 0, none⟩,
  ⟨.BIA_ILIMIT_COUNT, 0x6002, 8, 256, 5, 5, .u32, .rw, .only 0, none⟩,
  ⟨.BIA_SENSE_FAULT, 0x6002, 8, 256, 6, 6, .bool, .rw, .only 0, none⟩,
  ⟨.TON_RES_SHIFT, 0x7002, 4, 1024, 1, 1, .u8, .rw, .span 0 16, none⟩,
  ⟨.TON_DISC_I0, 0x7002, 4, 1024, 2, 2, .i32, .rw, .any, none⟩,
  ⟨.TON_DISC_Q0, 0x7002, 4, 1024, 3, 3, .i32, .rw, .any, none⟩,
  ⟨.TON_DISC_GI, 0x7002, 4, 1024, 4, 4, .u32, .rw, .any, none⟩,
  ⟨.TON_DISC_GQ, 0x7002, 4, 1024, 5, 5, .u32, .rw, .any, none⟩,
  ⟨.TON_DISC_B1_I0, 0x7002, 4, 1024, 6, 6, .i32, .rw, .any, none⟩,
  ⟨.TON_DISC_B1_Q0, 0x7002, 4, 1024, 7, 7, .i32, .rw, .any, none⟩,
  ⟨.TON_DISC_B1_GI, 0x7002, 4, 1024, 8, 8, .u32, .rw, .any, none⟩,
  ⟨.TON_DISC_B1_GQ, 0x7002, 4, 1024, 9, 9, .u32, .rw, .any, none⟩,
  ⟨.TON_LAST_I, 0x7003, 4, 1024, 1, 1, .i32, .ro, .any, none⟩,
  ⟨.TON_LAST_Q, 0x7003, 4, 1024, 2, 2, .i32, .ro, .any, none⟩,
  ⟨.TON_LAST_VERDICT, 0x7003, 4, 1024, 3, 3, .u8, .ro, .any, none⟩,
  ⟨.TON_LAST_FLAGS, 0x7003, 4, 1024, 4, 4, .u8, .ro, .any, none⟩,
  ⟨.TON_RESULTS, 0x7003, 4, 1024, 5, 5, .u32, .rw, .only 0, none⟩,
  ⟨.TON_CAP_OVERLAP, 0x7003, 4, 1024, 6, 6, .u32, .rw, .only 0, none⟩,
  ⟨.TON_DEMOD_FAULT, 0x7003, 4, 1024, 7, 7, .u32, .rw, .only 0, none⟩,
  ⟨.TON_SAT, 0x7003, 4, 1024, 8, 8, .u32, .rw, .only 0, none⟩,
  ⟨.TON_EDGE, 0x7003, 4, 1024, 9, 9, .u32, .rw, .only 0, none⟩]

/-- Rows 160 to 199 of the object tables. -/
def objTable4 : List ObjRow := [
  ⟨.TON_LOWCONF, 0x7003, 4, 1024, 10, 10, .u32, .rw, .only 0, none⟩,
  ⟨.PRB_SCALE, 0x5800, 32, 16, 1, 1, .u16, .rw, .span 0 0x7FFF, none⟩,
  ⟨.PRB_MUTE, 0x5800, 32, 16, 2, 2, .u8, .rw, .span 0 1, none⟩,
  ⟨.PRB_MUTE_CAUSE, 0x5800, 32, 16, 3, 3, .u8, .ro, .any, none⟩,
  ⟨.PRB_CLIP, 0x5800, 32, 16, 4, 4, .u32, .rw, .only 0, none⟩,
  ⟨.PRB_PEAK, 0x5800, 32, 16, 5, 5, .u32, .rw, .only 0, none⟩,
  ⟨.ACQ_ZONE, 0x5A00, 32, 16, 1, 1, .u8, .rw, .span 1 2, none⟩,
  ⟨.ACQ_OVR, 0x5A00, 32, 16, 2, 2, .bool, .rw, .only 0, none⟩,
  ⟨.ACQ_OVR_GRAINS, 0x5A00, 32, 16, 3, 3, .u32, .rw, .only 0, none⟩,
  ⟨.ACQ_HOT, 0x5A00, 32, 16, 4, 4, .bool, .rw, .only 0, none⟩,
  ⟨.ACQ_HOT_COUNT, 0x5A00, 32, 16, 5, 5, .u32, .rw, .only 0, none⟩,
  ⟨.ACQ_NBR_OVR, 0x5A00, 32, 16, 6, 6, .u32, .rw, .only 0, none⟩,
  ⟨.ACQ_PEAK, 0x5A00, 32, 16, 7, 7, .u16, .rw, .only 0, none⟩,
  ⟨.ACQ_CAL_STATE, 0x5A01, 32, 16, 1, 1, .u8, .ro, .any, none⟩,
  ⟨.ACQ_CAL_AGE, 0x5A01, 32, 16, 2, 2, .u32, .ro, .any, none⟩,
  ⟨.ACQ_CAL_STEP, 0x5A01, 32, 16, 3, 3, .u8, .ro, .any, none⟩,
  ⟨.ACQ_CAL_PASSES, 0x5A01, 32, 16, 4, 4, .u32, .rw, .only 0, none⟩,
  ⟨.ACQ_CAL_ABANDON, 0x5A01, 32, 16, 5, 5, .u32, .rw, .only 0, none⟩,
  ⟨.ACQ_CAL_DEFER, 0x5A01, 32, 16, 6, 6, .u32, .rw, .only 0, none⟩,
  ⟨.ACQ_CAL_STALE, 0x5A01, 32, 16, 7, 7, .bool, .rw, .only 0, none⟩,
  ⟨.CLU_KRN_OFFSET, 0x4030, 256, 16, 0, 0, .u32, .rw, .span 0 81919, none⟩,
  ⟨.CLU_KRN_DATA, 0x4031, 256, 16, 0, 0, .dom, .rw, .any, none⟩,
  ⟨.CLU_DISC_OFFSET, 0x4032, 256, 16, 0, 0, .u8, .rw, .span 0 31, none⟩,
  ⟨.CLU_DISC_DATA, 0x4033, 256, 16, 0, 0, .dom, .rw, .any, none⟩,
  ⟨.TRG_CTRL, 0x8300, 0, 1, 0, 0, .u8, .rw, .span 0 2, none⟩,
  ⟨.TRG_STATE, 0x8301, 0, 1, 0, 0, .u8, .ro, .any, none⟩,
  ⟨.TRG_ROLE, 0x8302, 0, 1, 0, 0, .u8, .rw, .span 0 2, none⟩,
  ⟨.TRG_ARM_GRAIN, 0x8303, 0, 1, 0, 0, .u64, .rw, .any, none⟩,
  ⟨.TRG_ARM_EVT, 0x8304, 0, 1, 0, 0, .u16, .rw, .mask 0x80FF, none⟩,
  ⟨.TRG_ARM_DELAY, 0x8305, 0, 1, 0, 0, .u32, .rw, .span 32 0xFFFFFFFF, none⟩,
  ⟨.TRG_ARM_SEQ, 0x8306, 0, 1, 1, 1, .u16, .ro, .any, none⟩,
  ⟨.TRG_FIRE_GRAIN, 0x8306, 0, 1, 2, 2, .u64, .ro, .any, none⟩,
  ⟨.TRG_FIRE_TICK, 0x8306, 0, 1, 3, 3, .u8, .ro, .any, none⟩,
  ⟨.TRG_FIRE_COND, 0x8306, 0, 1, 4, 4, .u8, .ro, .any, none⟩,
  ⟨.TRG_FIRE_ORIGIN, 0x8306, 0, 1, 5, 5, .u8, .ro, .any, none⟩,
  ⟨.TRG_ARMS, 0x8307, 0, 1, 1, 1, .u32, .rw, .only 0, none⟩,
  ⟨.TRG_FIRES, 0x8307, 0, 1, 2, 2, .u32, .rw, .only 0, none⟩,
  ⟨.TRG_REMOTE_FIRES, 0x8307, 0, 1, 3, 3, .u32, .rw, .only 0, none⟩,
  ⟨.TRG_RACE, 0x8307, 0, 1, 4, 4, .u32, .rw, .only 0, none⟩,
  ⟨.TRG_STALE_FIRE, 0x8307, 0, 1, 5, 5, .u32, .rw, .only 0, none⟩]

/-- Rows 200 to 239 of the object tables. -/
def objTable5 : List ObjRow := [
  ⟨.TRG_ARM_LATE, 0x8307, 0, 1, 6, 6, .u32, .rw, .only 0, none⟩,
  ⟨.TRG_COINCIDE, 0x8307, 0, 1, 7, 7, .u32, .rw, .only 0, none⟩,
  ⟨.TRG_COND_SRC, 0x8310, 1, 32, 1, 1, .u16, .rw, .any, none⟩,
  ⟨.TRG_COND_LEVEL, 0x8310, 1, 32, 2, 2, .i32, .rw, .any, none⟩,
  ⟨.TRG_COND_HYST, 0x8310, 1, 32, 3, 3, .u32, .rw, .any, none⟩,
  ⟨.TRG_COND_CTRL, 0x8310, 1, 32, 4, 4, .u8, .rw, .any, none⟩,
  ⟨.TRG_COND_COUNT, 0x8310, 1, 32, 5, 5, .u32, .rw, .only 0, none⟩,
  ⟨.TRG_COND_DEAD, 0x8310, 1, 32, 6, 6, .u32, .rw, .only 0, none⟩,
  ⟨.TRG_CAPEVT, 0x8330, 1, 16, 1, 1, .u16, .rw, .mask 0x80FF, none⟩,
  ⟨.TRG_CAPOP, 0x8330, 1, 16, 2, 2, .u64, .rw, .any, none⟩,
  ⟨.TRG_CAPSTARTS, 0x8330, 1, 16, 3, 3, .u32, .rw, .only 0, none⟩,
  ⟨.TRG_CAPBUSY, 0x8330, 1, 16, 4, 4, .u32, .rw, .only 0, none⟩,
  ⟨.TRG_TRACE_BUSY, 0x8330, 1, 16, 5, 5, .u32, .rw, .only 0, none⟩,
  ⟨.TRG_CROSS_DROP, 0x8330, 1, 16, 6, 6, .u32, .rw, .only 0, none⟩,
  ⟨.TRG_STREAM_CTRL, 0x8340, 0, 1, 0, 0, .u8, .rw, .span 0 2, none⟩,
  ⟨.TRG_STREAM_STATE, 0x8341, 0, 1, 1, 1, .u8, .ro, .any, none⟩,
  ⟨.TRG_BACKLOG_LIMIT, 0x8341, 0, 1, 2, 2, .u32, .rw, .span 4096 917504, none⟩,
  ⟨.TRG_BACKLOG, 0x8341, 0, 1, 3, 3, .u32, .ro, .any, none⟩,
  ⟨.TRG_BACKLOG_PEAK, 0x8341, 0, 1, 4, 4, .u32, .rw, .only 0, none⟩,
  ⟨.TRG_QUEUE_LIMIT, 0x8341, 0, 1, 5, 5, .u32, .rw, .any, none⟩,
  ⟨.TRG_RECORDS, 0x8342, 0, 1, 1, 1, .u64, .ro, .any, none⟩,
  ⟨.TRG_GAPS, 0x8342, 0, 1, 2, 2, .u32, .rw, .only 0, none⟩,
  ⟨.TRG_GAP_SHOTS, 0x8342, 0, 1, 3, 3, .u32, .rw, .only 0, none⟩,
  ⟨.TRG_CLOSED_DISCARD, 0x8342, 0, 1, 4, 4, .u32, .rw, .only 0, none⟩,
  ⟨.TRG_STAGING_FULL, 0x8342, 0, 1, 5, 5, .u32, .rw, .only 0, none⟩,
  ⟨.TRG_STREAM_LOST, 0x8342, 0, 1, 6, 6, .bool, .rw, .only 0, none⟩,
  ⟨.CLU_VEXPORT, 0x4040, 256, 16, 0, 0, .u32, .rw, .any, none⟩,
  ⟨.CLU_BR_SEL, 0x4041, 256, 16, 0, 0, .u16, .rw, .span 0 4095, none⟩,
  ⟨.CLU_BR_ENTRY, 0x4042, 256, 16, 1, 1, .u64, .rw, .any, some .CLU_BR_SEL⟩,
  ⟨.CLU_BR_MAP, 0x4042, 256, 16, 2, 2, .u64, .rw, .any, some .CLU_BR_SEL⟩,
  ⟨.CLU_FB_ARMS, 0x4043, 256, 16, 1, 1, .u32, .rw, .only 0, none⟩,
  ⟨.CLU_FB_CHOSEN, 0x4043, 256, 16, 2, 2, .u32, .rw, .only 0, none⟩,
  ⟨.CLU_FB_DEFAULT, 0x4043, 256, 16, 3, 3, .u32, .rw, .only 0, none⟩,
  ⟨.CLU_FB_MISSING, 0x4043, 256, 16, 4, 4, .u32, .rw, .only 0, none⟩,
  ⟨.CLU_FB_INVALID, 0x4043, 256, 16, 5, 5, .u32, .rw, .only 0, none⟩,
  ⟨.CLU_FB_CHOICE_LATE, 0x4043, 256, 16, 6, 6, .u32, .rw, .only 0, none⟩,
  ⟨.CLU_FB_OVERWRITTEN, 0x4043, 256, 16, 7, 7, .u32, .rw, .only 0, none⟩,
  ⟨.CLU_FB_STRAY, 0x4043, 256, 16, 8, 8, .u32, .rw, .only 0, none⟩,
  ⟨.CLU_FB_SLACK, 0x4043, 256, 16, 9, 9, .i32, .rw, .only 0x7FFFFFFF, none⟩,
  ⟨.CLU_FB_ALT, 0x4043, 256, 16, 10, 13, .u32, .rw, .only 0, none⟩]

/-- Rows 240 to 279 of the object tables. -/
def objTable6 : List ObjRow := [
  ⟨.LNK_PKG_NO, 0x2590, 0, 1, 0, 0, .u8, .rw, .span 0 15, none⟩,
  ⟨.LNK_VROUTE_SEL, 0x2591, 0, 1, 0, 0, .u16, .rw, .mask 0x1FFF, none⟩,
  ⟨.LNK_VROUTE, 0x2592, 0, 1, 0, 0, .u32, .rw, .any, some .LNK_VROUTE_SEL⟩,
  ⟨.LNK_V_SENT, 0x2593, 0, 1, 1, 1, .u32, .rw, .only 0, none⟩,
  ⟨.LNK_V_RECEIVED, 0x2593, 0, 1, 2, 2, .u32, .rw, .only 0, none⟩,
  ⟨.LNK_V_DUPLICATE, 0x2593, 0, 1, 3, 3, .u32, .rw, .only 0, none⟩,
  ⟨.LNK_V_LOST, 0x2593, 0, 1, 4, 4, .u32, .rw, .only 0, none⟩,
  ⟨.LNK_V_HOPLIMIT, 0x2593, 0, 1, 5, 5, .u32, .rw, .only 0, none⟩,
  ⟨.LNK_V_NOROUTE, 0x2593, 0, 1, 6, 6, .u32, .rw, .only 0, none⟩,
  ⟨.RGN_PROFILE, 0x3000, 256, 8, 1, 1, .u8, .ro, .any, none⟩,
  ⟨.RGN_PROFILE_REQ, 0x3000, 256, 8, 2, 2, .u8, .rw, .span 0 3, none⟩,
  ⟨.RGN_PROFILE_STATE, 0x3000, 256, 8, 3, 3, .u8, .ro, .any, none⟩,
  ⟨.RGN_FORCED, 0x3000, 256, 8, 4, 4, .u8, .ro, .any, none⟩,
  ⟨.RGN_CHANGE_GRAIN, 0x3000, 256, 8, 5, 5, .u64, .ro, .any, none⟩,
  ⟨.RGN_CHANGES, 0x3000, 256, 8, 6, 6, .u32, .rw, .only 0, none⟩,
  ⟨.RGN_FORCED_CHANGES, 0x3000, 256, 8, 7, 7, .u32, .rw, .only 0, none⟩,
  ⟨.RGN_FABRIC_MV, 0x3000, 256, 8, 8, 8, .u16, .ro, .any, none⟩,
  ⟨.RGN_KRN_LAYOUT, 0x3000, 256, 8, 9, 9, .u8, .rw, .span 0 1, none⟩,
  ⟨.RGN_KRN_MISMATCH, 0x3000, 256, 8, 10, 10, .bool, .ro, .any, none⟩,
  ⟨.RGN_HALTS, 0x3000, 256, 8, 11, 11, .u32, .rw, .only 0, none⟩,
  ⟨.RGN_HALT_GRAINS, 0x3000, 256, 8, 12, 12, .u32, .rw, .only 0, none⟩,
  ⟨.PKG_PROFILE_REQ, 0x2020, 0, 1, 0, 0, .u16, .rw, .any, none⟩,
  ⟨.PKG_PROFILE_MAP, 0x2021, 0, 1, 0, 0, .u16, .ro, .any, none⟩,
  ⟨.PKG_FORCED_MAP, 0x2022, 0, 1, 0, 0, .u8, .ro, .any, none⟩,
  ⟨.QUE_SEL, 0x8000, 0, 1, 0, 0, .u16, .rw, .span 0 0x7FFF, none⟩,
  ⟨.QUE_LEVEL, 0x8001, 0, 1, 1, 1, .u32, .ro, .any, some .QUE_SEL⟩,
  ⟨.QUE_PACKETS, 0x8001, 0, 1, 2, 2, .u32, .ro, .any, some .QUE_SEL⟩,
  ⟨.QUE_CELLS, 0x8001, 0, 1, 3, 3, .u32, .ro, .any, some .QUE_SEL⟩,
  ⟨.QUE_STATE, 0x8001, 0, 1, 4, 4, .u8, .ro, .any, some .QUE_SEL⟩,
  ⟨.QUE_LIMIT, 0x8001, 0, 1, 5, 5, .u32, .rw, .span 16 1835008, some .QUE_SEL⟩,
  ⟨.QUE_HIGH_WM, 0x8002, 0, 1, 1, 1, .u32, .rw, .mask 0x801FFFFF, some .QUE_SEL⟩,
  ⟨.QUE_LOW_WM, 0x8002, 0, 1, 2, 2, .u32, .rw, .mask 0x801FFFFF, some .QUE_SEL⟩,
  ⟨.QUE_HIGH_FLAG, 0x8002, 0, 1, 3, 3, .bool, .rw, .only 0, some .QUE_SEL⟩,
  ⟨.QUE_LOW_FLAG, 0x8002, 0, 1, 4, 4, .bool, .rw, .only 0, some .QUE_SEL⟩,
  ⟨.QUE_HIGH_COUNT, 0x8002, 0, 1, 5, 5, .u16, .rw, .only 0, some .QUE_SEL⟩,
  ⟨.QUE_LOW_COUNT, 0x8002, 0, 1, 6, 6, .u16, .rw, .only 0, some .QUE_SEL⟩,
  ⟨.QUE_PEAK, 0x8002, 0, 1, 7, 7, .u32, .rw, .only 0, some .QUE_SEL⟩,
  ⟨.QUE_TROUGH, 0x8002, 0, 1, 8, 8, .u32, .rw, .only 0xFFFFFFFF, some .QUE_SEL⟩,
  ⟨.QUE_FLUSH_DISCARD, 0x8003, 0, 1, 1, 1, .u32, .rw, .only 0, some .QUE_SEL⟩,
  ⟨.QUE_FLUSH_CUTS, 0x8003, 0, 1, 2, 2, .u32, .rw, .only 0, some .QUE_SEL⟩]

/-- Rows 280 to 319 of the object tables. -/
def objTable7 : List ObjRow := [
  ⟨.QUE_DROPPED, 0x8003, 0, 1, 3, 3, .u32, .rw, .only 0, some .QUE_SEL⟩,
  ⟨.QUE_POISON, 0x8003, 0, 1, 4, 4, .u32, .rw, .only 0, some .QUE_SEL⟩,
  ⟨.QUE_FORCED_END, 0x8003, 0, 1, 5, 5, .u32, .rw, .only 0, some .QUE_SEL⟩,
  ⟨.QUE_FLUSHES, 0x8003, 0, 1, 6, 6, .u32, .rw, .only 0, some .QUE_SEL⟩,
  ⟨.QUE_OVERWRITTEN, 0x8003, 0, 1, 7, 7, .u32, .rw, .only 0, some .QUE_SEL⟩,
  ⟨.QUE_CMD, 0x8004, 0, 1, 0, 0, .u8, .wo, .span 1 2, some .QUE_SEL⟩,
  ⟨.QUE_PUSH, 0x8005, 0, 1, 0, 0, .dom, .wo, .any, some .QUE_SEL⟩,
  ⟨.QUE_POP, 0x8006, 0, 1, 0, 0, .dom, .ro, .any, some .QUE_SEL⟩,
  ⟨.QUE_PKT, 0x8007, 0, 1, 0, 0, .dom, .ro, .any, some .QUE_SEL⟩,
  ⟨.QUE_POOL_FREE, 0x8010, 0, 1, 1, 1, .u32, .ro, .any, none⟩,
  ⟨.QUE_POOL_LOW, 0x8010, 0, 1, 2, 2, .u32, .rw, .only 262144, none⟩,
  ⟨.QUE_POOL_RESERVE, 0x8010, 0, 1, 3, 3, .u32, .ro, .any, none⟩,
  ⟨.QUE_POOL_POISONED, 0x8010, 0, 1, 4, 4, .u32, .rw, .only 0, none⟩,
  ⟨.QUE_POOL_WAITS, 0x8010, 0, 1, 5, 5, .u32, .rw, .only 0, none⟩,
  ⟨.QUE_BROKEN, 0x8010, 0, 1, 6, 6, .u32, .rw, .only 0, none⟩,
  ⟨.QUE_EF_SEL, 0x8011, 0, 1, 0, 0, .u16, .rw, .span 0 1423, none⟩,
  ⟨.QUE_EF_WPTR, 0x8012, 0, 1, 1, 1, .u16, .ro, .any, some .QUE_EF_SEL⟩,
  ⟨.QUE_EF_RPTR, 0x8012, 0, 1, 2, 2, .u16, .ro, .any, some .QUE_EF_SEL⟩,
  ⟨.QUE_EF_POISON, 0x8012, 0, 1, 3, 3, .u32, .rw, .only 0, some .QUE_EF_SEL⟩,
  ⟨.QUE_EF_FLUSHED, 0x8012, 0, 1, 4, 4, .u32, .rw, .only 0, some .QUE_EF_SEL⟩,
  ⟨.QUE_WM_EVT, 0x8020, 0, 1, 1, 16, .u32, .rw, .mask 0xC0007FFF, none⟩,
  ⟨.EVT_CH_SEL, 0x8100, 0, 1, 0, 0, .u8, .rw, .any, none⟩,
  ⟨.EVT_CH_PROD, 0x8101, 0, 1, 1, 8, .u16, .rw, .mask 0x81FF, some .EVT_CH_SEL⟩,
  ⟨.EVT_CH_COUNT, 0x8101, 0, 1, 9, 9, .u32, .rw, .only 0, some .EVT_CH_SEL⟩,
  ⟨.EVT_CH_MERGED, 0x8101, 0, 1, 10, 10, .u32, .rw, .only 0, some .EVT_CH_SEL⟩,
  ⟨.EVT_CH_LAST, 0x8101, 0, 1, 11, 11, .u64, .ro, .any, some .EVT_CH_SEL⟩,
  ⟨.EVT_FOREIGN_WAIT, 0x8102, 0, 1, 0, 0, .u32, .rw, .only 0, none⟩,
  ⟨.EVT_CON_SEL, 0x8120, 0, 1, 0, 0, .u8, .rw, .any, none⟩,
  ⟨.EVT_CON_OVR, 0x8121, 0, 1, 1, 1, .bool, .rw, .only 0, some .EVT_CON_SEL⟩,
  ⟨.EVT_CON_OVR_COUNT, 0x8121, 0, 1, 2, 2, .u32, .rw, .only 0, some .EVT_CON_SEL⟩,
  ⟨.EVT_CON_COINC, 0x8121, 0, 1, 3, 3, .u32, .rw, .only 0, some .EVT_CON_SEL⟩,
  ⟨.EVT_CON_TAKEN, 0x8121, 0, 1, 4, 4, .u32, .rw, .only 0, some .EVT_CON_SEL⟩,
  ⟨.EVT_MRK, 0x8130, 1, 16, 0, 0, .u32, .rw, .mask 0x80FFFFFF, none⟩,
  ⟨.TIM_CTRL, 0x8140, 1, 32, 1, 1, .u8, .rw, .span 0 1, none⟩,
  ⟨.TIM_START, 0x8140, 1, 32, 2, 2, .u64, .rw, .any, none⟩,
  ⟨.TIM_PERIOD, 0x8140, 1, 32, 3, 3, .u32, .rw, .any, none⟩,
  ⟨.TIM_LIMIT, 0x8140, 1, 32, 4, 4, .u32, .rw, .any, none⟩,
  ⟨.TIM_FIRES, 0x8140, 1, 32, 5, 5, .u32, .rw, .only 0, none⟩,
  ⟨.TIM_SKIPPED, 0x8140, 1, 32, 6, 6, .u32, .rw, .only 0, none⟩,
  ⟨.DRM_STATE, 0x2400, 0, 1, 0, 0, .u8, .ro, .any, none⟩]

/-- Rows 320 to 359 of the object tables. -/
def objTable8 : List ObjRow := [
  ⟨.DRM_RATE, 0x2401, 0, 1, 0, 0, .u16, .rwp, .among [3200, 4000, 4800, 5600, 6400], none⟩,
  ⟨.DRM_MAP, 0x2402, 0, 1, 0, 0, .u8, .rwp, .span 0 2, none⟩,
  ⟨.DRM_CHTAB, 0x2403, 0, 1, 0, 0, .u32, .rwp, .any, none⟩,
  ⟨.DRM_RANGE, 0x2404, 0, 1, 0, 0, .u64, .ro, .any, none⟩,
  ⟨.DRM_WIPE_DONE, 0x2405, 0, 1, 1, 1, .u64, .ro, .any, none⟩,
  ⟨.DRM_WIPE_TOTAL, 0x2405, 0, 1, 2, 2, .u64, .ro, .any, none⟩,
  ⟨.DRM_RETRAIN_PERIOD, 0x2406, 0, 1, 0, 0, .u32, .rwp, .span 10 60000, none⟩,
  ⟨.DRM_CH_SEL, 0x2410, 0, 1, 0, 0, .u8, .rw, .span 0 7, none⟩,
  ⟨.DRM_CH_STATE, 0x2411, 0, 1, 1, 1, .u8, .ro, .any, some .DRM_CH_SEL⟩,
  ⟨.DRM_CH_ORG, 0x2411, 0, 1, 2, 2, .u8, .ro, .any, some .DRM_CH_SEL⟩,
  ⟨.DRM_CH_TRAIN, 0x2411, 0, 1, 3, 3, .u8, .ro, .any, some .DRM_CH_SEL⟩,
  ⟨.DRM_CH_RESTARTED, 0x2411, 0, 1, 4, 4, .bool, .rw, .only 0, some .DRM_CH_SEL⟩,
  ⟨.DRM_CH_RESTARTS, 0x2411, 0, 1, 5, 5, .u32, .rw, .only 0, some .DRM_CH_SEL⟩,
  ⟨.DRM_CH_HOT, 0x2411, 0, 1, 6, 6, .bool, .ro, .any, some .DRM_CH_SEL⟩,
  ⟨.DRM_CH_TEMP_ERR, 0x2411, 0, 1, 7, 7, .u32, .rw, .only 0, some .DRM_CH_SEL⟩,
  ⟨.DRM_CH_REF_FORCED, 0x2411, 0, 1, 8, 8, .u32, .rw, .only 0, some .DRM_CH_SEL⟩,
  ⟨.DRM_CH_PAR_ERR, 0x2411, 0, 1, 9, 9, .u32, .rw, .only 0, some .DRM_CH_SEL⟩,
  ⟨.DRM_CH_FIRST_PAR, 0x2411, 0, 1, 10, 10, .u64, .ro, .any, some .DRM_CH_SEL⟩,
  ⟨.DRM_CH_RETRAINS, 0x2411, 0, 1, 11, 11, .u32, .rw, .only 0, some .DRM_CH_SEL⟩,
  ⟨.DRM_CH_RETRAIN_ABANDON, 0x2411, 0, 1, 12, 12, .u32, .rw, .only 0, some .DRM_CH_SEL⟩,
  ⟨.DRM_CH_FENCE_READS, 0x2411, 0, 1, 13, 13, .u32, .rw, .only 0, some .DRM_CH_SEL⟩,
  ⟨.DRM_CH_FENCE_WRITES, 0x2411, 0, 1, 14, 14, .u32, .rw, .only 0, some .DRM_CH_SEL⟩,
  ⟨.DRM_PORT_SEL, 0x2420, 0, 1, 0, 0, .u8, .rw, .span 0 18, none⟩,
  ⟨.DRM_P_LEVEL, 0x2421, 0, 1, 1, 1, .u32, .ro, .any, some .DRM_PORT_SEL⟩,
  ⟨.DRM_P_SIZE, 0x2421, 0, 1, 2, 2, .u32, .ro, .any, some .DRM_PORT_SEL⟩,
  ⟨.DRM_P_PANIC, 0x2421, 0, 1, 3, 3, .u32, .rw, .any, some .DRM_PORT_SEL⟩,
  ⟨.DRM_P_PANICS, 0x2421, 0, 1, 4, 4, .u32, .rw, .only 0, some .DRM_PORT_SEL⟩,
  ⟨.DRM_P_PANIC_GRAINS, 0x2421, 0, 1, 5, 5, .u64, .rw, .only 0, some .DRM_PORT_SEL⟩,
  ⟨.DRM_P_FENCE_HIT, 0x2421, 0, 1, 6, 6, .bool, .rw, .only 0, some .DRM_PORT_SEL⟩,
  ⟨.DRM_P_DROP, 0x2421, 0, 1, 7, 7, .u32, .rw, .only 0, some .DRM_PORT_SEL⟩,
  ⟨.DRM_ARING_BASE, 0x2440, 1, 2, 1, 1, .u64, .rw, .any, none⟩,
  ⟨.DRM_ARING_SIZE, 0x2440, 1, 2, 2, 2, .u64, .rw, .any, none⟩,
  ⟨.DRM_ARING_WPTR, 0x2440, 1, 2, 3, 3, .u64, .ro, .any, none⟩,
  ⟨.DRM_ARING_WRAPS, 0x2440, 1, 2, 4, 4, .u32, .rw, .only 0, none⟩,
  ⟨.DRM_WIN_ADDR, 0x2450, 0, 1, 0, 0, .u64, .rw, .any, none⟩,
  ⟨.DRM_WIN_DATA, 0x2451, 0, 1, 0, 0, .dom, .rw, .any, none⟩,
  ⟨.DRM_BIST_CTRL, 0x2460, 0, 1, 1, 1, .u32, .rw, .any, none⟩,
  ⟨.DRM_BIST_STATE, 0x2460, 0, 1, 2, 2, .u8, .ro, .any, none⟩,
  ⟨.DRM_BIST_FAILS, 0x2460, 0, 1, 3, 3, .u32, .ro, .any, none⟩,
  ⟨.DRM_BIST_FIRST, 0x2460, 0, 1, 4, 4, .u64, .ro, .any, none⟩]

/-- Rows 360 to 399 of the object tables. -/
def objTable9 : List ObjRow := [
  ⟨.DRM_BIST_MASK, 0x2460, 0, 1, 5, 5, .u64, .ro, .any, none⟩,
  ⟨.DRM_BIST_POLY, 0x2460, 0, 1, 6, 6, .u64, .rw, .any, none⟩,
  ⟨.LNK_LANE_SEL, 0x2500, 0, 1, 0, 0, .u8, .rw, .span 0 31, none⟩,
  ⟨.LNK_LN_STATE, 0x2501, 0, 1, 1, 1, .u8, .ro, .any, some .LNK_LANE_SEL⟩,
  ⟨.LNK_LN_LOS, 0x2501, 0, 1, 2, 2, .bool, .rw, .only 0, some .LNK_LANE_SEL⟩,
  ⟨.LNK_LN_LOL, 0x2501, 0, 1, 3, 3, .bool, .rw, .only 0, some .LNK_LANE_SEL⟩,
  ⟨.LNK_LN_DOWNS, 0x2501, 0, 1, 4, 4, .u32, .rw, .only 0, some .LNK_LANE_SEL⟩,
  ⟨.LNK_LN_BAD, 0x2501, 0, 1, 5, 5, .u32, .rw, .only 0, some .LNK_LANE_SEL⟩,
  ⟨.LNK_LN_SHIM_DEL, 0x2501, 0, 1, 6, 6, .u32, .rw, .only 0, some .LNK_LANE_SEL⟩,
  ⟨.LNK_LN_SHIM_INS, 0x2501, 0, 1, 7, 7, .u32, .rw, .only 0, some .LNK_LANE_SEL⟩,
  ⟨.LNK_LN_ELASTIC, 0x2501, 0, 1, 8, 8, .u32, .rw, .only 0, some .LNK_LANE_SEL⟩,
  ⟨.LNK_LN_PPM, 0x2501, 0, 1, 9, 9, .i16, .ro, .any, some .LNK_LANE_SEL⟩,
  ⟨.LNK_HL_STATE, 0x2510, 0, 1, 1, 1, .u8, .ro, .any, none⟩,
  ⟨.LNK_HL_WIDTH, 0x2510, 0, 1, 2, 2, .u8, .ro, .any, none⟩,
  ⟨.LNK_HL_WIDTH_MAX, 0x2510, 0, 1, 3, 3, .u8, .rwp, .among [1, 2, 4, 8, 16], none⟩,
  ⟨.LNK_HL_CTRL, 0x2510, 0, 1, 4, 4, .u8, .wo, .only 1, none⟩,
  ⟨.LNK_RTO, 0x2510, 0, 1, 5, 5, .u32, .rwp, .span 5 1000, none⟩,
  ⟨.LNK_MGT_RX, 0x2511, 0, 1, 1, 1, .u32, .rw, .only 0, none⟩,
  ⟨.LNK_MGT_RETX, 0x2511, 0, 1, 2, 2, .u32, .rw, .only 0, none⟩,
  ⟨.LNK_UPL_RX, 0x2511, 0, 1, 3, 3, .u32, .rw, .only 0, none⟩,
  ⟨.LNK_NAK_TX, 0x2511, 0, 1, 4, 4, .u32, .rw, .only 0, none⟩,
  ⟨.LNK_NAK_RX, 0x2511, 0, 1, 5, 5, .u32, .rw, .only 0, none⟩,
  ⟨.LNK_VIOL, 0x2511, 0, 1, 6, 6, .u32, .rw, .only 0, none⟩,
  ⟨.LNK_VIOL_LAST, 0x2511, 0, 1, 7, 7, .u8, .ro, .any, none⟩,
  ⟨.LNK_RETRAINS, 0x2511, 0, 1, 8, 8, .u32, .rw, .only 0, none⟩,
  ⟨.LNK_UPL_BYTES, 0x2520, 0, 1, 1, 1, .u64, .ro, .any, none⟩,
  ⟨.LNK_UPL_PENDING, 0x2520, 0, 1, 2, 2, .u32, .ro, .any, none⟩,
  ⟨.LNK_UPL_REFUSED, 0x2520, 0, 1, 3, 3, .u32, .rw, .only 0, none⟩,
  ⟨.LNK_UPL_REFUSE_ADDR, 0x2520, 0, 1, 4, 4, .u64, .ro, .any, none⟩,
  ⟨.LNK_UPL_REFUSE_WHY, 0x2520, 0, 1, 5, 5, .u8, .ro, .any, none⟩,
  ⟨.LNK_VP_SEL, 0x2530, 0, 1, 0, 0, .u8, .rw, .span 0 7, none⟩,
  ⟨.LNK_VP_ENABLE, 0x2531, 0, 1, 1, 1, .u8, .rwp, .span 0 1, some .LNK_VP_SEL⟩,
  ⟨.LNK_VP_STATE, 0x2531, 0, 1, 2, 2, .u8, .ro, .any, some .LNK_VP_SEL⟩,
  ⟨.LNK_VP_PARTNER, 0x2531, 0, 1, 3, 3, .u16, .ro, .any, some .LNK_VP_SEL⟩,
  ⟨.LNK_VP_VIOL, 0x2531, 0, 1, 4, 4, .u32, .rw, .only 0, some .LNK_VP_SEL⟩,
  ⟨.LNK_VP_RETRAINS, 0x2531, 0, 1, 5, 5, .u32, .rw, .only 0, some .LNK_VP_SEL⟩,
  ⟨.LNK_VP_REJECT_RX, 0x2531, 0, 1, 6, 6, .u32, .rw, .only 0, some .LNK_VP_SEL⟩,
  ⟨.LNK_VP_DISCARD, 0x2531, 0, 1, 7, 7, .u32, .rw, .only 0, some .LNK_VP_SEL⟩,
  ⟨.PKG_VENDOR, 0x1000, 0, 1, 0, 0, .str, .ro, .any, none⟩,
  ⟨.PKG_DEVICE, 0x1001, 0, 1, 0, 0, .str, .ro, .any, none⟩]

/-- Rows 400 to 439 of the object tables. -/
def objTable10 : List ObjRow := [
  ⟨.PKG_ORDER_CODE, 0x1002, 0, 1, 0, 0, .str, .ro, .any, none⟩,
  ⟨.PKG_SI_REV, 0x1003, 0, 1, 0, 0, .str, .ro, .any, none⟩,
  ⟨.PKG_SERIAL, 0x1004, 0, 1, 0, 0, .u64, .ro, .any, none⟩,
  ⟨.PKG_YDP_VERSION, 0x1005, 0, 1, 0, 0, .u16, .ro, .any, none⟩,
  ⟨.PKG_IMG_VERSION_MAX, 0x1006, 0, 1, 0, 0, .u16, .ro, .any, none⟩,
  ⟨.PKG_DESC_SEL, 0x1010, 0, 1, 0, 0, .u32, .rw, .mask 0xFFFFFF, none⟩,
  ⟨.PKG_DESC_EXISTS, 0x1011, 0, 1, 1, 1, .bool, .ro, .any, some .PKG_DESC_SEL⟩,
  ⟨.PKG_DESC_TYPE, 0x1011, 0, 1, 2, 2, .u8, .ro, .any, some .PKG_DESC_SEL⟩,
  ⟨.PKG_DESC_ACCESS, 0x1011, 0, 1, 3, 3, .u8, .ro, .any, some .PKG_DESC_SEL⟩,
  ⟨.PKG_DESC_SIZE, 0x1011, 0, 1, 4, 4, .u32, .ro, .any, some .PKG_DESC_SEL⟩,
  ⟨.LNK_CAN_NODE_NVM, 0x1100, 0, 1, 0, 0, .u8, .rwp, .span 1 126, none⟩,
  ⟨.LNK_CAN_NODE, 0x1101, 0, 1, 0, 0, .u8, .ro, .any, none⟩,
  ⟨.LNK_CAN_NODE_SRC, 0x1102, 0, 1, 0, 0, .u8, .ro, .any, none⟩,
  ⟨.LNK_CAN_STATE, 0x1103, 0, 1, 1, 1, .u8, .ro, .any, none⟩,
  ⟨.LNK_CAN_TEC, 0x1103, 0, 1, 2, 2, .u8, .ro, .any, none⟩,
  ⟨.LNK_CAN_REC, 0x1103, 0, 1, 3, 3, .u8, .ro, .any, none⟩,
  ⟨.LNK_CAN_BUSOFF, 0x1103, 0, 1, 4, 4, .u32, .rw, .only 0, none⟩,
  ⟨.LNK_CAN_RX_OVERFLOW, 0x1103, 0, 1, 5, 5, .u32, .rw, .only 0, none⟩,
  ⟨.LNK_CAN_CLASSIC, 0x1103, 0, 1, 6, 6, .u32, .rw, .only 0, none⟩,
  ⟨.LNK_YDP_REQUESTS, 0x1110, 1, 2, 1, 1, .u32, .rw, .only 0, none⟩,
  ⟨.LNK_YDP_ABORTS, 0x1110, 1, 2, 2, 2, .u32, .rw, .only 0, none⟩,
  ⟨.LNK_YDP_LAST_ABORT, 0x1110, 1, 2, 3, 3, .u32, .ro, .any, none⟩,
  ⟨.LNK_YDP_LAST_OBJ, 0x1110, 1, 2, 4, 4, .u32, .ro, .any, none⟩,
  ⟨.LNK_YDP_ABANDONED, 0x1110, 1, 2, 5, 5, .u32, .rw, .only 0, none⟩,
  ⟨.LNK_YDP_TIMEOUTS, 0x1110, 1, 2, 6, 6, .u32, .rw, .only 0, none⟩,
  ⟨.LNK_YDP_SEG_TIMEOUT, 0x1120, 0, 1, 0, 0, .u16, .rw, .span 10 60000, none⟩,
  ⟨.NVM_CTRL, 0x2700, 0, 1, 0, 0, .u8, .rw, .span 0 1, none⟩,
  ⟨.NVM_COMMIT_STATE, 0x2701, 0, 1, 1, 1, .u8, .ro, .any, none⟩,
  ⟨.NVM_DIRTY, 0x2701, 0, 1, 2, 2, .bool, .ro, .any, none⟩,
  ⟨.NVM_ACTIVE_BANK, 0x2701, 0, 1, 3, 3, .u8, .ro, .any, none⟩,
  ⟨.NVM_ACTIVE_SEQ, 0x2701, 0, 1, 4, 4, .u32, .ro, .any, none⟩,
  ⟨.NVM_COMMIT_PAGES, 0x2701, 0, 1, 5, 5, .u32, .ro, .any, none⟩,
  ⟨.NVM_COMMITS, 0x2701, 0, 1, 6, 6, .u32, .rw, .only 0, none⟩,
  ⟨.NVM_COMMIT_FAILS, 0x2701, 0, 1, 7, 7, .u32, .rw, .only 0, none⟩,
  ⟨.NVM_SET_BYTES, 0x2701, 0, 1, 8, 8, .u32, .ro, .any, none⟩,
  ⟨.TNW_ENABLE, 0x2180, 0, 1, 0, 0, .u8, .rwp, .span 0 1, none⟩,
  ⟨.TNW_DOMAIN, 0x2181, 0, 1, 0, 0, .u8, .rwp, .span 0 127, none⟩,
  ⟨.TNW_CTRL, 0x2182, 0, 1, 0, 0, .u8, .wo, .only 1, none⟩,
  ⟨.TNW_STATE, 0x2183, 0, 1, 1, 1, .u8, .ro, .any, none⟩,
  ⟨.TNW_SLAVE_PORT, 0x2183, 0, 1, 2, 2, .u8, .ro, .any, none⟩]

/-- Rows 440 to 479 of the object tables. -/
def objTable11 : List ObjRow := [
  ⟨.TNW_GM_ID, 0x2183, 0, 1, 3, 3, .u64, .ro, .any, none⟩,
  ⟨.TNW_IN_TOL, 0x2183, 0, 1, 4, 4, .bool, .ro, .any, none⟩,
  ⟨.TNW_FIO, 0x2183, 0, 1, 5, 5, .bool, .rw, .only 0, none⟩,
  ⟨.TNW_TP_LINK, 0x2183, 0, 1, 6, 6, .u8, .ro, .any, none⟩,
  ⟨.TNW_NOW_S, 0x2184, 0, 1, 1, 1, .u64, .ro, .any, none⟩,
  ⟨.TNW_NOW_NS, 0x2184, 0, 1, 2, 2, .u32, .ro, .any, none⟩,
  ⟨.TNW_NOW_FRAC, 0x2184, 0, 1, 3, 3, .u16, .ro, .any, none⟩,
  ⟨.TNW_OFFSET, 0x2185, 0, 1, 1, 1, .i64, .ro, .any, none⟩,
  ⟨.TNW_PATH_DELAY, 0x2185, 0, 1, 2, 2, .i64, .ro, .any, none⟩,
  ⟨.TNW_RATE, 0x2185, 0, 1, 3, 3, .i32, .ro, .any, none⟩,
  ⟨.TNW_RATE_SAT, 0x2185, 0, 1, 4, 4, .bool, .rw, .only 0, none⟩,
  ⟨.TNW_KP, 0x2186, 0, 1, 1, 1, .u32, .rwp, .any, none⟩,
  ⟨.TNW_KI, 0x2186, 0, 1, 2, 2, .u32, .rwp, .any, none⟩,
  ⟨.TNW_LOCK_NS, 0x2186, 0, 1, 3, 3, .u32, .rwp, .span 1 1000000, none⟩,
  ⟨.TNW_PPS_WIDTH, 0x2187, 0, 1, 1, 1, .u32, .rwp, .span 1000 500000000, none⟩,
  ⟨.TNW_PPS_MODE, 0x2187, 0, 1, 2, 2, .u8, .rwp, .span 0 1, none⟩,
  ⟨.TNW_TIME_PERIOD, 0x2187, 0, 1, 3, 3, .u16, .rwp, .span 1 3600, none⟩,
  ⟨.TNW_STEPS, 0x2188, 0, 1, 1, 1, .u32, .rw, .only 0, none⟩,
  ⟨.TNW_MASTER_CHANGES, 0x2188, 0, 1, 2, 2, .u32, .rw, .only 0, none⟩,
  ⟨.TNW_MASTER_LOSSES, 0x2188, 0, 1, 3, 3, .u32, .rw, .only 0, none⟩,
  ⟨.TNW_TC_FWD, 0x2188, 0, 1, 4, 4, .u32, .rw, .only 0, none⟩,
  ⟨.TNW_TC_DROP, 0x2188, 0, 1, 5, 5, .u32, .rw, .only 0, none⟩,
  ⟨.TNW_RX_DROP, 0x2188, 0, 1, 6, 6, .u32, .rw, .only 0, none⟩,
  ⟨.TNW_RX_RANGE, 0x2188, 0, 1, 7, 7, .u32, .rw, .only 0, none⟩,
  ⟨.CLK_TREF_SEL, 0x2200, 0, 1, 0, 0, .u8, .rwp, .span 0 2, none⟩,
  ⟨.CLK_MGMT_SRC, 0x2201, 0, 1, 1, 1, .u8, .ro, .any, none⟩,
  ⟨.CLK_MGMT_SEL, 0x2201, 0, 1, 2, 2, .u8, .wo, .only 1, none⟩,
  ⟨.CLK_MGMT_HOLD, 0x2201, 0, 1, 3, 3, .bool, .ro, .any, none⟩,
  ⟨.CLK_XTB_DELAY, 0x2202, 0, 1, 1, 1, .u32, .rwp, .span 250 64000, none⟩,
  ⟨.CLK_STDLY, 0x2202, 0, 1, 2, 2, .u8, .ro, .any, none⟩,
  ⟨.CLK_TREF_LOST, 0x2203, 0, 1, 1, 1, .bool, .ro, .any, none⟩,
  ⟨.CLK_SIO_FAULT, 0x2203, 0, 1, 2, 2, .bool, .ro, .any, none⟩,
  ⟨.CLK_FIO_FAULT, 0x2203, 0, 1, 3, 3, .bool, .rw, .only 0, none⟩,
  ⟨.CLK_BD_LOST, 0x2203, 0, 1, 4, 4, .u8, .ro, .any, none⟩,
  ⟨.CLK_BD_LOSSES, 0x2203, 0, 1, 5, 5, .u32, .rw, .only 0, none⟩,
  ⟨.CLK_MON_SEL, 0x2210, 0, 1, 0, 0, .u8, .rw, .span 0 14, none⟩,
  ⟨.CLK_MON_STATE, 0x2211, 0, 1, 1, 1, .u8, .ro, .any, some .CLK_MON_SEL⟩,
  ⟨.CLK_MON_TRIPPED, 0x2211, 0, 1, 2, 2, .bool, .rw, .only 0, some .CLK_MON_SEL⟩,
  ⟨.CLK_MON_TRIPS, 0x2211, 0, 1, 3, 3, .u32, .rw, .only 0, some .CLK_MON_SEL⟩,
  ⟨.CLK_MON_LAST_PPM, 0x2211, 0, 1, 4, 4, .i32, .ro, .any, some .CLK_MON_SEL⟩]

/-- Rows 480 to 519 of the object tables. -/
def objTable12 : List ObjRow := [
  ⟨.CLK_MON_QUAL_GRAIN, 0x2211, 0, 1, 5, 5, .u64, .ro, .any, some .CLK_MON_SEL⟩,
  ⟨.CLK_FMC_SRC, 0x2220, 0, 1, 1, 1, .u8, .rw, .span 0 16, none⟩,
  ⟨.CLK_FMC_REF, 0x2220, 0, 1, 2, 2, .u8, .rw, .span 0 5, none⟩,
  ⟨.CLK_FMC_GATE, 0x2220, 0, 1, 3, 3, .u32, .rw, .span 1 1000000, none⟩,
  ⟨.CLK_FMC_CTRL, 0x2220, 0, 1, 4, 4, .u8, .wo, .only 1, none⟩,
  ⟨.CLK_FMC_STATE, 0x2220, 0, 1, 5, 5, .u8, .ro, .any, none⟩,
  ⟨.CLK_FMC_COUNT, 0x2220, 0, 1, 6, 6, .u64, .ro, .any, none⟩,
  ⟨.CLK_FMC_FREQ, 0x2220, 0, 1, 7, 7, .u64, .ro, .any, none⟩,
  ⟨.CLK_FMC_PPM, 0x2220, 0, 1, 8, 8, .i32, .ro, .any, none⟩,
  ⟨.CLK_GATE, 0x2230, 0, 1, 0, 0, .u32, .rw, .any, none⟩,
  ⟨.CLK_FORCED_GATE, 0x2231, 0, 1, 1, 25, .u32, .rw, .only 0, none⟩,
  ⟨.MON_SEL, 0x2380, 0, 1, 0, 0, .u8, .rw, .span 0 10, none⟩,
  ⟨.MON_STATE, 0x2381, 0, 1, 1, 1, .u8, .ro, .any, some .MON_SEL⟩,
  ⟨.MON_REF_SEL, 0x2381, 0, 1, 2, 2, .u8, .rw, .any, some .MON_SEL⟩,
  ⟨.MON_REFBUF_EN, 0x2381, 0, 1, 3, 3, .bool, .rw, .span 0 1, some .MON_SEL⟩,
  ⟨.MON_REF_READY, 0x2381, 0, 1, 4, 4, .bool, .ro, .any, some .MON_SEL⟩,
  ⟨.MON_START, 0x2381, 0, 1, 5, 5, .u32, .rw, .any, some .MON_SEL⟩,
  ⟨.MON_START_DELAY, 0x2381, 0, 1, 6, 6, .u16, .rw, .any, some .MON_SEL⟩,
  ⟨.MON_SEQ_LEN, 0x2381, 0, 1, 7, 7, .u8, .rw, .span 1 16, some .MON_SEL⟩,
  ⟨.MON_SEQ_CTRL, 0x2381, 0, 1, 8, 8, .u8, .wo, .span 1 2, some .MON_SEL⟩,
  ⟨.MON_SEQ_NUMBER, 0x2381, 0, 1, 9, 9, .u32, .ro, .any, some .MON_SEL⟩,
  ⟨.MON_SEQ_GRAIN, 0x2381, 0, 1, 10, 10, .u64, .ro, .any, some .MON_SEL⟩,
  ⟨.MON_START_LOST, 0x2381, 0, 1, 11, 11, .u32, .rw, .only 0, some .MON_SEL⟩,
  ⟨.MON_OVR, 0x2381, 0, 1, 12, 12, .u32, .rw, .only 0, some .MON_SEL⟩,
  ⟨.MON_NOREF, 0x2381, 0, 1, 13, 13, .u32, .rw, .only 0, some .MON_SEL⟩,
  ⟨.MON_IL_YIELD, 0x2381, 0, 1, 14, 14, .u32, .rw, .only 0, some .MON_SEL⟩,
  ⟨.MON_ENTRY, 0x2382, 0, 1, 1, 16, .u32, .rw, .any, some .MON_SEL⟩,
  ⟨.MON_RESULT, 0x2383, 0, 1, 1, 16, .u32, .ro, .any, some .MON_SEL⟩,
  ⟨.MON_INJ, 0x2384, 0, 1, 1, 1, .u32, .wo, .any, some .MON_SEL⟩,
  ⟨.MON_INJ_STATE, 0x2384, 0, 1, 2, 2, .u8, .ro, .any, some .MON_SEL⟩,
  ⟨.MON_INJ_RESULT, 0x2384, 0, 1, 3, 3, .u32, .ro, .any, some .MON_SEL⟩,
  ⟨.MON_INJ_WAIT, 0x2384, 0, 1, 4, 4, .u16, .ro, .any, some .MON_SEL⟩,
  ⟨.MON_CAL_CTRL, 0x2385, 0, 1, 1, 1, .u8, .wo, .only 1, some .MON_SEL⟩,
  ⟨.MON_CAL_STATE, 0x2385, 0, 1, 2, 2, .u8, .ro, .any, some .MON_SEL⟩,
  ⟨.MON_CAL_REF, 0x2385, 0, 1, 3, 3, .u8, .ro, .any, some .MON_SEL⟩,
  ⟨.MON_CAL_COUNT, 0x2385, 0, 1, 4, 4, .u32, .rw, .only 0, some .MON_SEL⟩,
  ⟨.MON_CAL_OFS, 0x2386, 0, 1, 1, 8, .i16, .ro, .any, some .MON_SEL⟩,
  ⟨.MON_CAL_GAIN, 0x2387, 0, 1, 1, 8, .u32, .ro, .any, some .MON_SEL⟩,
  ⟨.THM_STATE, 0x2300, 0, 1, 0, 0, .u8, .ro, .any, none⟩,
  ⟨.THM_CTRL, 0x2301, 0, 1, 0, 0, .u8, .wo, .only 1, none⟩]

/-- Rows 520 to 559 of the object tables. -/
def objTable13 : List ObjRow := [
  ⟨.THM_FORCE_CLR, 0x2302, 0, 1, 0, 0, .u8, .wo, .any, none⟩,
  ⟨.THM_BASE, 0x2303, 0, 1, 1, 1, .i32, .ro, .any, none⟩,
  ⟨.THM_BASE_STATE, 0x2303, 0, 1, 2, 2, .u8, .ro, .any, none⟩,
  ⟨.THM_BASE_MON, 0x2303, 0, 1, 3, 3, .u8, .rwp, .span 0 31, none⟩,
  ⟨.THM_NTC_R25, 0x2303, 0, 1, 4, 4, .u32, .rwp, .any, none⟩,
  ⟨.THM_NTC_BETA, 0x2303, 0, 1, 5, 5, .u16, .rwp, .any, none⟩,
  ⟨.THM_NTC_RSET, 0x2303, 0, 1, 6, 6, .u32, .rwp, .any, none⟩,
  ⟨.THM_NTC_VTOP, 0x2303, 0, 1, 7, 7, .u16, .rwp, .span 1000 2500, none⟩,
  ⟨.THM_VNOM, 0x2304, 0, 1, 1, 1, .u16, .rwp, .span 700 800, none⟩,
  ⟨.THM_STEP, 0x2304, 0, 1, 2, 2, .u8, .ro, .any, none⟩,
  ⟨.THM_STEP_MS, 0x2304, 0, 1, 3, 3, .u16, .rwp, .span 1 1000, none⟩,
  ⟨.THM_VDDF_MV, 0x2304, 0, 1, 4, 4, .u16, .ro, .any, none⟩,
  ⟨.THM_COMP_SEL, 0x2310, 0, 1, 0, 0, .u8, .rw, .span 0 12, none⟩,
  ⟨.THM_COMP_PT, 0x2311, 0, 1, 1, 9, .i16, .rwp, .any, some .THM_COMP_SEL⟩,
  ⟨.THM_TJ, 0x3010, 256, 8, 1, 1, .i32, .ro, .any, none⟩,
  ⟨.THM_T2, 0x3010, 256, 8, 2, 2, .i32, .ro, .any, none⟩,
  ⟨.THM_T3, 0x3010, 256, 8, 3, 3, .i32, .ro, .any, none⟩,
  ⟨.THM_PWR, 0x3010, 256, 8, 4, 4, .u32, .ro, .any, none⟩,
  ⟨.THM_TJ_PEAK, 0x3010, 256, 8, 5, 5, .i32, .rw, .only 0, none⟩,
  ⟨.THM_SENSOR_STATE, 0x3010, 256, 8, 6, 6, .u8, .ro, .any, none⟩,
  ⟨.THM_DIODE, 0x3010, 256, 8, 7, 7, .i32, .ro, .any, none⟩,
  ⟨.THM_DIODE_DISAGREE, 0x3010, 256, 8, 8, 8, .bool, .rw, .only 0, none⟩,
  ⟨.THM_FAST, 0x3010, 256, 8, 9, 9, .bool, .ro, .any, none⟩,
  ⟨.THM_TRIPPED, 0x3010, 256, 8, 10, 10, .u8, .ro, .any, none⟩,
  ⟨.THM_TRIPS, 0x3011, 256, 8, 1, 3, .u32, .rw, .only 0, none⟩,
  ⟨.THM_RELEASES, 0x3011, 256, 8, 4, 6, .u32, .rw, .only 0, none⟩,
  ⟨.THM_BROKEN_COUNT, 0x3011, 256, 8, 7, 7, .u32, .rw, .only 0, none⟩,
  ⟨.THM_R, 0x3012, 256, 8, 1, 3, .u32, .rwp, .span 10000 20000000, none⟩,
  ⟨.THM_C, 0x3012, 256, 8, 4, 6, .u32, .rwp, .span 100 100000000, none⟩,
  ⟨.FLT_CLASS_SEL, 0x2600, 0, 1, 0, 0, .u8, .rw, .among [1, 2, 3, 4, 5, 6, 7, 8, 9, 10, 16, 17, 18, 19], none⟩,
  ⟨.FLT_COUNT, 0x2601, 0, 1, 1, 1, .u32, .rw, .only 0, some .FLT_CLASS_SEL⟩,
  ⟨.FLT_FLAG, 0x2601, 0, 1, 2, 2, .bool, .rw, .only 0, some .FLT_CLASS_SEL⟩,
  ⟨.FLT_FIRST_GRAIN, 0x2601, 0, 1, 3, 3, .u64, .ro, .any, some .FLT_CLASS_SEL⟩,
  ⟨.FLT_LAST_GRAIN, 0x2601, 0, 1, 4, 4, .u64, .ro, .any, some .FLT_CLASS_SEL⟩,
  ⟨.FLT_LAST_UNIT, 0x2601, 0, 1, 5, 5, .u16, .ro, .any, some .FLT_CLASS_SEL⟩,
  ⟨.FLT_LAST_DETAIL, 0x2601, 0, 1, 6, 6, .u8, .ro, .any, some .FLT_CLASS_SEL⟩,
  ⟨.FLT_ACTIVE, 0x2602, 0, 1, 0, 0, .u32, .ro, .any, none⟩,
  ⟨.FLT_FUSE_ERROR, 0x2603, 0, 1, 0, 0, .bool, .ro, .any, none⟩,
  ⟨.FLT_UPLOAD_LOST, 0x2604, 0, 1, 0, 0, .bool, .rw, .only 0, none⟩,
  ⟨.FLT_LOG_SUPPRESSED, 0x2605, 0, 1, 0, 0, .u32, .rw, .only 0, none⟩]

/-- Rows 560 to 583 of the object tables. -/
def objTable14 : List ObjRow := [
  ⟨.FLT_SCRUB_SEL, 0x2610, 0, 1, 0, 0, .u8, .rw, .among [0, 1, 2, 3, 4, 16, 17, 18, 19, 20, 21, 22, 23, 24, 25, 26, 27, 28, 29, 30, 31], none⟩,
  ⟨.FLT_SCRUB_AGE, 0x2611, 0, 1, 1, 1, .u32, .ro, .any, some .FLT_SCRUB_SEL⟩,
  ⟨.FLT_SCRUB_PASSES, 0x2611, 0, 1, 2, 2, .u32, .rw, .only 0, some .FLT_SCRUB_SEL⟩,
  ⟨.FLT_SCRUB_FOUND, 0x2611, 0, 1, 3, 3, .u32, .rw, .only 0, some .FLT_SCRUB_SEL⟩,
  ⟨.FLT_SCRUB_STALE, 0x2611, 0, 1, 4, 4, .bool, .rw, .only 0, some .FLT_SCRUB_SEL⟩,
  ⟨.FLT_SCRUB_LIMIT, 0x2612, 0, 1, 0, 0, .u32, .rwp, .span 100 600000, none⟩,
  ⟨.NVM_BANK_A, 0x2702, 0, 1, 1, 1, .u8, .ro, .any, none⟩,
  ⟨.NVM_BANK_B, 0x2702, 0, 1, 2, 2, .u8, .ro, .any, none⟩,
  ⟨.NVM_REC_SKIPPED, 0x2702, 0, 1, 3, 3, .u32, .rw, .only 0, none⟩,
  ⟨.NVM_FLASH_SIZE, 0x2702, 0, 1, 4, 4, .u16, .ro, .any, none⟩,
  ⟨.LCS_STATE, 0x2710, 0, 1, 0, 0, .u8, .ro, .any, none⟩,
  ⟨.LCS_FUSES, 0x2711, 0, 1, 0, 0, .u32, .ro, .any, none⟩,
  ⟨.LCS_TRANSITIONS, 0x2712, 0, 1, 1, 1, .u8, .ro, .any, none⟩,
  ⟨.LCS_SLOTS_LEFT, 0x2712, 0, 1, 2, 2, .u8, .ro, .any, none⟩,
  ⟨.LCS_BAD_SLOTS, 0x2712, 0, 1, 3, 3, .u8, .ro, .any, none⟩,
  ⟨.LCS_REQ, 0x2713, 0, 1, 0, 0, .u8, .rw, .span 0 3, none⟩,
  ⟨.LCS_CONFIRM, 0x2714, 0, 1, 0, 0, .u8, .wo, .span 1 3, none⟩,
  ⟨.LCS_RESULT, 0x2715, 0, 1, 0, 0, .u8, .ro, .any, none⟩,
  ⟨.PKG_STATE, 0x2000, 0, 1, 0, 0, .u8, .ro, .any, none⟩,
  ⟨.PKG_RESET_CAUSE, 0x2001, 0, 1, 0, 0, .u8, .ro, .any, none⟩,
  ⟨.PKG_RESET, 0x2002, 0, 1, 0, 0, .u16, .wo, .only 0x00A5, none⟩,
  ⟨.PKG_BOOT_WAIT, 0x2003, 0, 1, 0, 0, .u32, .ro, .any, none⟩,
  ⟨.PKG_MILESTONE, 0x2004, 0, 1, 1, 8, .u32, .ro, .any, none⟩,
  ⟨.PKG_STRAPS, 0x2005, 0, 1, 0, 0, .u16, .ro, .any, none⟩]

/-- The whole table. -/
def objTable : List ObjRow :=
  objTable0 ++ objTable1 ++ objTable2 ++ objTable3 ++ objTable4 ++ objTable5 ++ objTable6 ++ objTable7 ++ objTable8 ++ objTable9 ++ objTable10 ++ objTable11 ++ objTable12 ++ objTable13 ++ objTable14

/-- An object's row: the table stands in the order of the names. -/
def Reg.row (r : Reg) : Option ObjRow := objTable[r.ctorIdx]?

/-- The selector objects (R334): each access path has its own copy. -/
def Reg.isSelector : Reg → Bool
  | .CLK_MON_SEL | .CLU_BR_SEL | .CLU_DISC_OFFSET | .CLU_KRN_OFFSET | .CLU_SEG_SEL | .DRM_CH_SEL | .DRM_PORT_SEL | .ENG_SEL | .EVT_CH_SEL | .EVT_CON_SEL | .FLT_CLASS_SEL | .FLT_SCRUB_SEL | .LNK_LANE_SEL | .LNK_VP_SEL | .LNK_VROUTE_SEL | .MCS_DISP_SEL | .MON_SEL | .PKG_DESC_SEL | .QUE_EF_SEL | .QUE_SEL | .THM_COMP_SEL | .TML_FIFO_SEL => true
  | _ => false

/-- The value of every object right after reset (R330): its table's default; where the table gives none, the value
assumption log 1 names; -/
def Reg.dflt (r : Reg) (inst : Nat) : Int :=
  match r with
  | .TML_CAMBER_FLOOR => 32
  | .TML_SHOT_MIN_CAMBER => 2147483647
  | .TML_LOW_CAMBER => 2147483647
  | .TML_RGN_SHOT_MIN => 2147483647
  | .TML_F_SHOT_MIN => 2147483647
  | .TML_F_LOW => 2147483647
  | .PKG_RUN_SHOT0 => 1
  | .PKG_BARRIER_SLACK => 2147483647
  | .ENG_BARRIER_MIN => 2147483647
  | .TON_SEGMENT => 65535
  | .DRV_SCALE => 4096
  | .DRV_MUTE => 1
  | .DRV_MUTE_CAUSE => 3
  | .FLX_FIR => if inst % 32 = 0 then 1073741824 else 0
  | .FLX_SEGMENT => 65535
  | .CLU_FLUX_MTX => if inst % 64 / 8 = inst % 8 then 16384 else 0
  | .BIA_RANGE => 1
  | .BIA_SAFE_RANGE => 1
  | .BIA_SLEW_PWRUP => 6
  | .BIA_SLEW_FAULT => 8
  | .TON_RES_SHIFT => 12
  | .TON_DISC_I0 => (-1073741824)
  | .TON_DISC_Q0 => (-1073741824)
  | .TON_DISC_GI => 256
  | .TON_DISC_GQ => 256
  | .TON_DISC_B1_I0 => (-1073741824)
  | .TON_DISC_B1_Q0 => (-1073741824)
  | .TON_DISC_B1_GI => 256
  | .TON_DISC_B1_GQ => 256
  | .PRB_SCALE => 1024
  | .PRB_MUTE => 1
  | .PRB_MUTE_CAUSE => 3
  | .ACQ_ZONE => 1
  | .TRG_ARM_DELAY => 2500
  | .TRG_CAPOP => 4611686022722355200
  | .TRG_BACKLOG_LIMIT => 786432
  | .TRG_QUEUE_LIMIT => 65536
  | .CLU_FB_SLACK => 2147483647
  | .RGN_FABRIC_MV => 750
  | .QUE_LIMIT => 1835008
  | .QUE_TROUGH => 4294967295
  | .QUE_POOL_FREE => 262144
  | .QUE_POOL_LOW => 262144
  | .QUE_POOL_RESERVE => 8192
  | .DRM_RATE => 6400
  | .DRM_MAP => 1
  | .DRM_CHTAB => 4275878552
  | .DRM_RETRAIN_PERIOD => 1000
  | .DRM_P_PANIC => if inst < 16 then 8192 else if inst < 18 then 16384 else 65536
  | .LNK_LN_STATE => 1
  | .LNK_HL_WIDTH_MAX => 16
  | .LNK_RTO => 50
  | .LNK_VP_ENABLE => 1
  | .PKG_YDP_VERSION => 1
  | .PKG_IMG_VERSION_MAX => 1
  | .LNK_CAN_NODE_NVM => 126
  | .LNK_CAN_NODE => 126
  | .LNK_CAN_NODE_SRC => 2
  | .LNK_YDP_SEG_TIMEOUT => 1000
  | .TNW_KP => 28147
  | .TNW_KI => 2815
  | .TNW_LOCK_NS => 100
  | .TNW_PPS_WIDTH => 100000000
  | .TNW_TIME_PERIOD => 1
  | .CLK_XTB_DELAY => 16000
  | .CLK_FMC_REF => 4
  | .CLK_FMC_GATE => 1000
  | .MON_REFBUF_EN => 1
  | .MON_SEQ_LEN => 1
  | .MON_CAL_STATE => 1
  | .MON_CAL_GAIN => 1073741824
  | .THM_NTC_R25 => 10000
  | .THM_NTC_BETA => 3435
  | .THM_NTC_RSET => 10000
  | .THM_NTC_VTOP => 1800
  | .THM_VNOM => 750
  | .THM_STEP_MS => 10
  | .THM_VDDF_MV => 750
  | .THM_R => if inst % 3 = 0 then 1000000 else if inst % 3 = 1 then 800000 else 700000
  | .THM_C => if inst % 3 = 0 then 5000 else if inst % 3 = 1 then 250000 else 10000000
  | .FLT_CLASS_SEL => 1
  | .FLT_SCRUB_LIMIT => 10000
  | .NVM_FLASH_SIZE => 512
  | .PKG_BOOT_WAIT => 2047
  | _ => 0

end Sys2Proof.Machine
end

