-- ==== Sys2Proof/Machine/Store.lean ====
section
/-! DEFINITION. Sparse storage in one canonical form: a list of key and value pairs with keys strictly rising and no entry
equal to the value an unlisted key reads as. Every memory, register group and per-instance table of State is one. -/

namespace Sys2Proof.Machine

/-- Sparse storage: an unlisted key reads as a default given at each use. -/
abbrev SMap (V : Type) := List (Nat × V)

/-- Read a key; `d` is what an unlisted key reads as. -/
def mget {V : Type} (d : V) : SMap V → Nat → V
  | [], _ => d
  | e :: m, k => if e.1 = k then e.2 else mget d m k

/-- Remove a key. -/
def mdel {V : Type} : SMap V → Nat → SMap V
  | [], _ => []
  | e :: m, k => if e.1 = k then mdel m k else e :: mdel m k

/-- Insert a pair before the first larger key. -/
def mins {V : Type} (k : Nat) (v : V) : SMap V → SMap V
  | [] => [(k, v)]
  | e :: m => if k < e.1 then (k, v) :: e :: m else e :: mins k v m

/-- Write a key; writing the default removes the entry. -/
def mput {V : Type} [DecidableEq V] (d : V) (m : SMap V) (k : Nat) (v : V) : SMap V :=
  if v = d then mdel m k else mins k v (mdel m k)

/-- Change every value; a value that becomes the default goes. -/
def mmap {V : Type} [DecidableEq V] (d : V) (f : Nat → V → V) (m : SMap V) : SMap V :=
  (m.map fun e => (e.1, f e.1 e.2)).filter fun e => !decide (e.2 = d)

/-- Every key of a storage is above a bound and they rise strictly. -/
def mrising {V : Type} : SMap V → Bool
  | [] => true
  | [_] => true
  | a :: b :: m => decide (a.1 < b.1) && mrising (b :: m)

/-- The canonical form. -/
def mwf {V : Type} [DecidableEq V] (d : V) (m : SMap V) : Bool :=
  mrising m && m.all (fun e => !decide (e.2 = d))

end Sys2Proof.Machine
end

