-- ==== Sys2Proof/Machine/State.lean ====
section
/-! DEFINITION. The state of the FQ512 as plain data: the object dictionary's stored values, everything the chapters give
the package beside them, the commands that wait, and the machine right after reset. Each field's default is its value
after reset. -/

namespace Sys2Proof.Machine

/-! ### Queues (R245 to R263) -/

/-- A stored queue word: its data and its END and PSN tags, and whether a byte of it fails the parity stored with it (R245; NV is
never stored). -/
structure QWord where
  data : Word
  fin  : Bool := false
  psn  : Bool := false
  bad  : Bool := false
  deriving DecidableEq, Repr

/-- What a read of a queue delivers: the word with its tags, NV included (R245). -/
structure ReadWord where
  data : Word
  fin  : Bool
  nv   : Bool
  psn  : Bool
  deriving DecidableEq, Repr

/-- A pool queue (R247 to R258). -/
structure Queue where
  /-- every stored word, oldest first, the open packet's words included -/
  words : List QWord := []
  /-- position of the oldest word in its cell, 0 to 6, and the cells that the queue has given back since it was last empty (R247) -/
  head : Nat := 0
  first : Nat := 0
  /-- cells, numbered as they were taken since the queue was last empty, whose two link copies both fail parity (R248) -/
  dead : List Nat := []
  /-- the writer that holds the tail (R255) -/
  owner : Option Nat := none
  /-- words of the open packet so far (R246) -/
  openLen : Nat := 0
  /-- a writer's side in discard-to-end (R258) -/
  discard : Option Nat := none
  /-- a reader has read part of the head packet -/
  reading : Bool := false
  /-- the packet being read has delivered a word with PSN (R251) -/
  tainted : Bool := false
  /-- the next read delivers NV and END (R256, R258) -/
  cut : Bool := false
  /-- BROKEN until a flush (R248) -/
  broken : Bool := false
  /-- writes that wait on their handshake, oldest first: writer, word, and whether its wait for room was counted (R255, R256) -/
  waiting : List (Nat × QWord × Bool) := []
  /-- what the last READ or DROP of an agent delivered (R257) -/
  answer : Option ReadWord := none
  deriving DecidableEq, Repr

/-! ### Edge FIFOs and abutments (R40 to R60, R264 to R267) -/

/-- A packet of an edge FIFO as the write half writes it (R40, R264): its first two words with their PSN tags, how many words it
holds, and those after the second with their tags. -/
structure EdgeIn where
  w0 : Word
  w1 : Word
  words : Nat := 2
  psn0 : Bool := false
  psn1 : Bool := false
  more : List QWord := []
  deriving DecidableEq, Repr

/-- An edge command in or past an edge FIFO: its words with their PSN tags, its full release grain, and the abutment's
judgement (R456). -/
structure EdgeCmd where
  w0 : Word
  w1 : Word
  /-- full release grain: arrival + d (R56) -/
  release : Nat
  /-- accepted by the checks of R456 -/
  ok : Bool := true
  /-- the commands of the unit of a STAGE: words and full release grains (R52) -/
  unit : List (Word × Word × Nat) := []
  psn0 : Bool := false
  psn1 : Bool := false
  /-- positions in the unit, from 1, of commands with a word that carries PSN (R266) -/
  unitPsn : List Nat := []
  /-- words that it holds in the FIFO, with its unit (R264) -/
  words : Nat := 2
  /-- place in FIFO order: arrivals before it (R57) -/
  seq : Nat := 0
  /-- words after the second of its packets, each with the position in the unit, itself 0, of the command that holds it -/
  more : List (Nat × QWord) := []
  deriving DecidableEq, Repr

/-- One staged alternative of a slot (R52, R53), with the release grain of its STAGE. -/
structure Staged where
  slot : Nat
  alt  : Nat
  release : Nat
  cmds : List (Word × Word × Nat)
  /-- place of the STAGE in FIFO order -/
  seq : Nat := 0
  deriving DecidableEq, Repr

/-- An accepted STAGE as the abutment's limit checks remember it until its slot closes (R53, R54). -/
structure StageNote where
  slot    : Nat
  alt     : Nat
  count   : Nat
  release : Nat
  /-- t_shot of the shot that holds its release -/
  shot    : Nat
  /-- release grain of the accepted SELECT that closes its slot -/
  closed  : Option Nat := none
  deriving DecidableEq, Repr

/-- An edge FIFO with its abutment (R15). -/
structure Fifo where
  /-- commands whose words the write half is writing, in order; each arrives with EDGE_COMMAND_ARRIVAL -/
  incoming : List EdgeIn := []
  /-- words of a command that its engine has written without END, and the write half in discard-to-end, after a profile change
  where the command it drops counts in TML_F_INACTIVE too (R265, R267) -/
  part : List QWord := []
  dte : Bool := false
  dteIn : Bool := false
  /-- a STAGE and the commands of its unit that have arrived, until the unit is whole (R56) -/
  unit : List EdgeIn := []
  /-- commands in the FIFO, oldest first -/
  cmds : List EdgeCmd := []
  /-- published write pointer and read pointer, modulo 1,024 (R264) -/
  wp : Nat := 0
  rp : Nat := 0
  /-- commands the read half has taken and that wait for their release, in release order (R266) -/
  path : List EdgeCmd := []
  /-- commands and units that have arrived (R57) -/
  seq : Nat := 0
  /-- the staging store (R53) -/
  store : List Staged := []
  /-- STAGE units accepted whose slot is not closed (limits of R53, judged at arrival) -/
  notes : List StageNote := []
  /-- release instant (grain, FINE) of the last command accepted outside STAGE units (R57) -/
  last : Option (Nat × Nat) := none
  /-- commands accepted outside units with that release grain (R42) -/
  same : Nat := 0
  /-- release grain and camber of the valid commands of shots not yet closed (R60) -/
  cambers : List (Nat × Nat) := []
  deriving DecidableEq, Repr

/-! ### Engines, runs and shots (R63 to R105) -/

/-- ENG_STATE of a cluster engine (R91). -/
inductive EngState where
  | reset | idle | parked | run | waitFetch | waitFifo | waitEvent | barrier | halt | done
  deriving DecidableEq, Repr

/-- A loop in progress (R80). -/
structure Loop where
  body   : List Word
  count  : Nat
  stride : Nat
  pass   : Nat
  /-- words of the body still to execute on this pass -/
  rest   : List Word
  deriving DecidableEq, Repr

/-- A LOOP or an ALT item that the engine is still reading from queue 0 (R80, R82): its first word and the words read. -/
structure Gather where
  op : Nat
  head : Word
  words : List QWord := []
  /-- a word read for it carries PSN (R79) -/
  psn : Bool := false
  deriving DecidableEq, Repr

/-- What a microroutine works on beside the scratch words (R95 to R97): the microword to fetch next, in patch space or in ROM
space, while a routine runs; the port input word with its tags; the target edge FIFO; the loop buffer and its read
position; the delivered truss event and the barrier release that COND 8 and 9 test. -/
structure Micro where
  at_ : Option (Bool × Nat) := none
  /-- opcode of the packet that the routine expands, and the first word it read of it -/
  op : Nat := 0
  first : Option Word := none
  port : Word := 0
  nv : Bool := false
  fin : Bool := false
  psn : Bool := false
  target : Option Nat := none
  buf : List Word := []
  pos : Nat := 0
  event : Bool := false
  released : Bool := false
  deriving DecidableEq, Repr

/-- An engine and its control store's working state (R91, R92); numbers 0 to 127 are the cluster engines, 128 to 132 MGE,
STE0, STE1, DTE and VRE. -/
structure Engine where
  state : EngState := .reset
  /-- number of the shot being expanded (ENG_SHOT) -/
  shot : Nat := 0
  /-- ENG_PC, ENG_OPCODES, ENG_MICROWORDS -/
  pc : Nat := 0
  opcodes : Nat := 0
  microwords : Nat := 0
  /-- t_shot and LENGTH of the shot being expanded; LENGTH 0 before the first barrier -/
  tshot : Nat := 0
  len : Nat := 0
  loop : Option Loop := none
  /-- edge commands formed and not yet written into their edge FIFO: FIFO number and words -/
  out : List (Nat × Word × Word) := []
  /-- a LOOP body or an ALT item being read -/
  gather : Option Gather := none
  /-- channel of the wait input (R272) -/
  waitCh : Option Nat := none
  /-- barrier arrival: grain, END, LENGTH -/
  arrived : Option (Nat × Bool × Nat) := none
  /-- state to return to when a fabric halt ends -/
  halted : Option EngState := none
  /-- scratch words S00 to S15, flags Z, N, C and the return stack (R92) -/
  scratch : List Word := List.replicate 16 0
  zf : Bool := false
  nf : Bool := false
  cf : Bool := false
  /-- the stacked address: its space, true for the patch, and its value -/
  ret : Option (Bool × Nat) := none
  micro : Micro := {}
  deriving DecidableEq, Repr

/-- The schedule-cache area of an engine (R71): the stream's words that the area holds, each with its PSN tag. -/
structure Area where
  /-- the stream exists: the engine has a SCHEDULE section -/
  exist : Bool := false
  /-- offset in DRAM and length in words of the section -/
  base : Nat := 0
  len : Nat := 0
  /-- resident in the area (at most 64 KB) or streamed -/
  resident : Bool := true
  /-- words held; of a streamed section, those fetched and not yet delivered -/
  words : List (Word × Bool) := []
  /-- words fetched from DRAM and words delivered to queue 0 in this run -/
  fetched : Nat := 0
  given : Nat := 0
  /-- the END packet that R73 adds has been delivered, or the stream ended with END -/
  ended : Bool := false
  deriving DecidableEq, Repr

/-- A patch in force (R101). -/
structure Patch where
  id : Nat := 0
  crc : Nat := 0
  words : List Nat := []
  matchs : List Nat := []
  overrides : List Nat := []
  /-- the 12 odd parity bits stored with each patch word (R92) -/
  pars : List Nat := []
  /-- cells that scrub has marked poisoned (R100), 128 * cluster + cell: word i, 64 + i a match register, 80 + i an override
  register -/
  marks : List Nat := []
  /-- the kind reads POISONED although its patch is removed (R417) -/
  poisoned : Bool := false
  deriving DecidableEq, Repr

/-- A quiet-window entry (R67). -/
structure Quiet where
  start : Nat
  len : Nat
  scope : Nat
  period : Nat
  phase : Nat
  deriving DecidableEq, Repr

/-- A shot that is known and not yet closed (R84, R413). -/
structure Shot where
  num : Nat
  start : Nat
  len : Nat
  /-- grain at which its opening barrier completed (R85) -/
  barrier : Nat := 0
  /-- OR of the cause bits of R212 -/
  causes : Nat := 0
  deriving DecidableEq, Repr

/-- The run and the barrier (R84 to R90). -/
structure RunState where
  /-- the edge-side shot and the shots opened by barriers after it, oldest first; the first is PKG_SHOT once open -/
  shots : List Shot := []
  /-- the first of `shots` has opened on the edge side -/
  opened : Bool := false
  /-- t_shot of the next shot to open at a barrier -/
  nextStart : Nat := 0
  /-- number of that shot -/
  nextNum : Nat := 0
  /-- no further shot opens; the run ends at the closing boundary of the last known shot: 1 END, 2 STOP, 3 ABORT, 4 MISMATCH -/
  ending : Option Nat := none
  stopPending : Bool := false
  /-- edge commands that reach a write half are discarded until the run ends (R90) -/
  aborted : Bool := false
  /-- void causes at grains of shots not yet known: grain, cause -/
  future : List (Nat × Nat) := []
  /-- first grains of the deferral gaps of R188 in known shots, oldest first -/
  gaps : List Nat := []
  /-- grain of the last completed barrier -/
  barrierAt : Nat := 0
  /-- shots closed lately, for the time stamps of marks and results (R211, R225) -/
  past : List Shot := []
  deriving DecidableEq, Repr

/-- What an image being loaded or loaded leaves outside the stores: its place, PROFILES, FLAGS and quiet map (R64, R67). -/
structure ImageInfo where
  base : Nat := 0
  len : Nat := 0
  profiles : Nat := 0
  viaduct : Bool := false
  quiet : List Quiet := []
  deriving DecidableEq, Repr

/-! ### Event truss (R269 to R281) -/

/-- A truss channel: the producer slots of the requests that make up its next event, in the order they were raised, and the tick
of its last event (R274, R275). -/
structure Channel where
  held : List Nat := []
  lastAt : Option Nat := none
  deriving DecidableEq, Repr

/-- An event on its way to a consumer input; for a marker, WIDTH as EVT_MRK held it when the event was raised (R278). -/
structure Delivery where
  con : Nat
  chan : Nat
  merged : Bool
  width : Nat := 0
  deriving DecidableEq, Repr

/-- A timer's running part (R279, R280): its next fire and the fires since the last RUN. -/
structure Timer where
  next : Option Nat := none
  fires : Nat := 0
  deriving DecidableEq, Repr

/-- A marker pin (R51, R131, R281): the MARK state, its pending pulse end, the truss pulse's pending start with its width, and its
end. -/
structure Marker where
  level : Bool := false
  pulseEnd : Option Nat := none
  start : Option (Nat × Nat) := none
  trussEnd : Option Nat := none
  /-- instant and FIFO of the last MARK applied, for the collision count of R51 -/
  lastMark : Option (Nat × Nat) := none
  collided : Bool := false
  deriving DecidableEq, Repr

/-! ### Dictionary, persistence, life cycle (R328 to R350, R409 to R427) -/

/-- A YDP frame as received (R337). -/
structure Frame where
  bytes : List Byte
  deriving DecidableEq, Repr

/-- An open segmented transfer of a path (R342). -/
structure Transfer where
  write : Bool
  index : Nat
  sub : Nat
  /-- instance fixed at the opening (R334) -/
  inst : Nat
  total : Nat
  /-- where the bytes of a memory begin: the offset or address in force at the opening -/
  first : Nat := 0
  /-- bytes accepted so far, or the value that a read has removed -/
  data : List Byte := []
  /-- bytes accepted or returned so far -/
  done : Nat := 0
  /-- TOGGLE of the last segment accepted, with its length and LAST -/
  last : Option (Bool × Nat × Bool) := none
  /-- the last segment returned, for a resend -/
  seg : List Byte := []
  /-- tick of the opening or of the last segment -/
  at_ : Nat := 0
  deriving DecidableEq, Repr

/-- A CAN FD frame that the controller sends (R339): its 11-bit identifier, FD format with bit-rate switching, and its data. -/
structure CanFrame where
  id : Nat := 0
  fd : Bool := true
  brs : Bool := true
  data : List Byte := []
  deriving DecidableEq, Repr

/-- What a path of the dictionary server holds (R335 to R346). -/
structure PathState where
  /-- requests that wait, oldest first -/
  requests : List (List Byte) := []
  /-- response frames sent on CAN FD, oldest first -/
  responses : List CanFrame := []
  transfer : Option Transfer := none
  /-- objects of the transfers closed by the timeout: the next segment for one is answered 0x0100_0005 -/
  timedOut : List (Nat × Nat) := []
  deriving DecidableEq, Repr

/-- One NVM bank as the flash holds it (R421 to R424); an erased bank holds nothing. -/
structure Bank where
  header : List Byte := []
  records : List Byte := []
  deriving DecidableEq, Repr

/-- The NVM port and the commit (R348, R349). -/
structure Nvm where
  bankA : Bank := {}
  bankB : Bank := {}
  /-- the persistent set: value bytes by index * 256 + sub-index (R347) -/
  set_ : SMap (List Byte) := []
  /-- the inactive bank is erased -/
  erased : Bool := false
  /-- commit buffer: the record bytes of the commit in progress -/
  buffer : List Byte := []
  /-- boot patch domains of the persistent set, by kind (R104) -/
  patches : SMap (List Byte) := []
  /-- values whose stored byte failed parity: store key (R419 unit 3) -/
  poisoned : List Nat := []
  deriving DecidableEq, Repr

/-- Where the start-up sequence stands (R433). -/
inductive Phase where
  | held | step1 | fuses | wiped | served | fuseError
  deriving DecidableEq, Repr

/-- Start-up, straps, reset and life cycle (R428 to R437, R427). -/
structure Boot where
  phase : Phase := .held
  /-- ticks from the beginning of the reset for which t_power_good waits at the least (R410, R428, R429) -/
  wait : Nat := 2500000
  /-- tick of t_power_good -/
  goodAt : Nat := 0
  /-- tick at which an accepted PKG_RESET was answered -/
  resetReq : Option Nat := none
  /-- armed life-cycle request: target and tick (R427) -/
  lcsArmed : Option (Nat × Nat) := none
  /-- confirmed transition: target and tick -/
  lcsConf : Option (Nat × Nat) := none
  /-- the reset in progress belongs to a completed transition -/
  lcsReset : Bool := false
  /-- the fuse array as the last reading gave it (R410, R426) -/
  fuses : FuseImage := { serial := 0, lcs := 0, comp := [], monOfs := [], monGain := [] }
  /-- outputs forced to the power-up state by LCS_BURN, FUSE or RETIRED -/
  silent : Bool := false
  deriving DecidableEq, Repr

/-- The fault log's suppression window (R420): the combinations logged in the present shot or millisecond. -/
structure FaultLog where
  shot : Option Nat := none
  since : Nat := 0
  seen : List (Nat × Nat × Nat) := []
  deriving DecidableEq, Repr

/-! ### DRAM (R283 to R303) -/

/-- A DRAM channel beyond its objects. -/
structure DramCh where
  /-- training step in progress, 0 CSCA to 5 VERIFY (R294) -/
  step : Nat := 0
  /-- DRM_RATE was written while the step gathered (R294, R295) -/
  rateChange : Bool := false
  /-- refreshes due and postponed, by rank, and one more than the tick at which the last became due (R292) -/
  due : SMap Nat := []
  refAt : SMap Nat := []
  /-- periodic retraining step in progress, 3 RDQ or 4 WDQ, and the tick at which it began (R296) -/
  retrain : Option Nat := none
  stepAt : Nat := 0
  /-- step to run next on this channel -/
  nextStep : Nat := 3
  /-- tick at which the last step 3 that completed began -/
  retrainAt : Option Nat := none
  /-- its DMPLL tripped while the channel was not listed: ABSENT until the next reset (R373) -/
  gone : Bool := false
  /-- last requester granted, by class of R290 (round robin) -/
  lastGrant : SMap Nat := []
  deriving DecidableEq, Repr

/-- The DRAM and its controller. A byte's address is channel * 2^36 + its offset in the channel. -/
structure Dram where
  /-- bytes; an unlisted byte reads 0: every reset wipes the range (R301, R302) -/
  cells : SMap Byte := []
  /-- addresses of stored 8-byte words with a byte that fails parity (R284) -/
  bad : List Nat := []
  chans : SMap DramCh := []
  /-- a wipe waits for training to finish (R295) -/
  wipePaused : Bool := false
  /-- present level of each port of R289, stored as the difference from its level at reset -/
  levels : SMap Int := []
  /-- ports in panic: a read port's buffer is empty at reset (R289) -/
  panic : List Nat := List.range 16 ++ [18]
  /-- words of the acquisition rings that AW0 and AW1 have still to write, oldest first: range address and word (R291) -/
  rings : SMap (List (Nat × Word)) := []
  /-- test in progress: its control word (R300) -/
  bist : Option Nat := none
  /-- tick of the last poll of MR4 (R293), and the channel whose turn periodic retraining is at (R296) -/
  mr4At : Option Nat := none
  turn : Nat := 0
  /-- words that a requester has fetched and not taken: range address, word and PSN (R289, R297) -/
  held : SMap (List (Nat × Word × Bool)) := []
  deriving DecidableEq, Repr

/-! ### Segments, tone playback, flux and bias (R106 to R160) -/

/-- A segment of cluster memory (R117, R118): its descriptor fields and the bits the FQ512 keeps. ACTIVE is computed. -/
structure Seg where
  start : Nat := 0
  len : Nat := 0
  gen : Nat := 0
  loop : Bool := false
  ready : Bool := false
  poison : Bool := false
  filling : Bool := false
  deriving DecidableEq, Repr

/-- A slice's playback (R127 to R130). Instants count DAC samples, 8 to a grain (R34). -/
structure Play where
  seg : Nat
  /-- GAIN of the PLAY that started it, Q1.15 -/
  gain : Int
  /-- instant of sample 0 of the present pass, before grain 0 where an alignment has moved it there, and the segment's length -/
  start : Int
  len : Nat
  /-- first sample address -/
  addr : Nat
  /-- further passes; none: until a HOLD, PLAY or jump -/
  left : Option Nat
  /-- the pass began at a segment boundary, not at a PLAY -/
  fromBoundary : Bool := false
  /-- samples of the pass that the slice has read, and one beyond them that it finds bad (R121) -/
  read : Nat := 0
  badAt : Option Nat := none
  /-- the slice plays its fill from a poisoned sample on -/
  cut : Bool := false
  /-- the pass's sampling point has passed (R129) -/
  sampled : Bool := false
  /-- a jump taken at the sampling point -/
  taken : Option Nat := none
  deriving DecidableEq, Repr

/-- A tone or flux slice's playback state. -/
structure Slice where
  play : Option Play := none
  /-- JUMPs released and not taken: instant and target, oldest first -/
  jumps : List (Int × Nat) := []
  /-- playbacks that ended lately: end instant and playback, for samples still in the chain -/
  ended : List (Int × Play) := []
  deriving DecidableEq, Repr

/-- A frame in force from a DAC sample on (R108, R111). -/
structure FrameAt where
  sample : Nat
  freq : Nat
  phase : Nat
  deriving DecidableEq, Repr

/-- A flux slice's chain (R140 to R149). Values have 24 fraction bits (R144). -/
structure FluxCh where
  x : Int := 0
  /-- exponential-stage states s_0 to s_3 -/
  st : List Int := [0, 0, 0, 0]
  /-- FIR delay line: the last 31 inputs, newest first -/
  line : List Int := []
  /-- present FIR output p -/
  p : Int := 0
  /-- present DAC code, and the code held through a profile mute (R149) -/
  out : Int := 0
  held : Option Int := none
  /-- a value of stages 1 to 3 has saturated in the present grain -/
  satd : Bool := false
  deriving DecidableEq, Repr

/-- Where a bias output stands (R155, R156). -/
inductive BiasMode where
  | off | loaded | pwrup | run | fault
  deriving DecidableEq, Repr

/-- A released bias command that waits for its update grain (R151). -/
structure BiasCmd where
  release : Nat
  hold : Bool
  opnd : Word
  deriving DecidableEq, Repr

/-- A bias slice beyond its objects (R153). -/
structure BiasCh where
  mode : BiasMode := .off
  dest : Nat := 1
  step : Nat := 1
  cmds : List BiasCmd := []
  deriving DecidableEq, Repr

/-- A cluster's refill list and its progress (R124 to R126). -/
structure Refill where
  /-- entries: segment, AFTER, range address of the samples -/
  entries : List (Nat × Nat × Nat) := []
  next : Nat := 0
  busy : Bool := false
  /-- the list runs: from START to the end of the run -/
  on : Bool := false
  deriving DecidableEq, Repr

/-- What the tone chains of a region work with from a grain on (R106, R132): the stored values of its profile, scales and crosstalk
taps, by key, and its taps that failed parity. -/
structure ChainSet where
  grain : Nat
  vals : SMap Int := []
  bad : List Nat := []
  deriving DecidableEq, Repr

/-- A region's profile change and fabric halt (R240 to R243). -/
structure Region where
  /-- a pending request: profile, forced cause (0: host), and the grain at which it applies once known -/
  req : Option (Nat × Nat × Option Nat) := none
  /-- end of the profile mute -/
  muteEnd : Option Nat := none
  /-- raised halts: cluster, release grain of the CAPTURE, and the grain at which its window closes -/
  halts : List (Nat × Nat × Nat) := []
  /-- causes that have made the force of RGN_FORCED: bit k for cause k (R405) -/
  forced : Nat := 0
  /-- settings of its tone chains in the grains whose samples are still to be formed, newest first; none: the reset values -/
  chain : List ChainSet := []
  deriving DecidableEq, Repr

/-! ### Read-out, calibration and records (R163 to R219) -/

/-- A RESULT window on a read-out slice (R169). -/
structure RWin where
  /-- release grain, FINE and LENGTH of the CAPTURE -/
  grain : Nat
  fine : Nat
  len : Nat
  kstart : Nat
  bank : Nat
  /-- direct mode (R167) -/
  direct : Bool
  /-- number of the shot in which it opened -/
  shot : Nat
  /-- it did not start (R172), or it is cut (R173) -/
  busy : Bool := false
  cut : Bool := false
  deriving DecidableEq, Repr

/-- A result formed at its window's close that waits for its output instant (R178). -/
structure Verd where
  due : Nat
  tend : Nat
  ord : Nat
  verdict : Nat
  record : List Word
  shot : Nat
  deriving DecidableEq, Repr

/-- The values of a result that TON_LAST_ may have to return to (R415): the shot it belongs to while that shot is open. -/
structure LastRes where
  shot : Option Nat
  i : Int
  q : Int
  verdict : Nat
  flags : Nat
  deriving DecidableEq, Repr

/-- A read-out slice's demodulation side. -/
structure ReadSlice where
  wins : List RWin := []
  out : List Verd := []
  /-- t_shot of the shot whose windows are being numbered, and the next ordinal (R225) -/
  ordShot : Option Nat := none
  ord : Nat := 0
  hist : List LastRes := []
  deriving DecidableEq, Repr

/-- A TRACE window of a cluster (R204, R205). -/
structure TWin where
  kind : Nat
  grain : Nat
  fine : Nat
  len : Nat
  /-- slices it records: tone numbers, none of KIND 01 -/
  tones : List Nat
  direct : Bool
  shot : Nat
  busy : Bool := false
  /-- first ACQ sample that reads 0 -/
  cut : Option Nat := none
  deriving DecidableEq, Repr

/-- A cluster's trace unit: its windows in order of opening, and the opening grain and operand of an
event-started one (R206). -/
structure TraceUnit where
  wins : List TWin := []
  capAt : Option (Nat × Word) := none
  deriving DecidableEq, Repr

/-- An ACQ channel beyond its objects (R183 to R188). Instants count ACQ samples. -/
structure AcqCh where
  /-- overrange spans, newest first: first clamped sample and end -/
  spans : List (Nat × Nat) := []
  /-- grain last counted in ACQ_OVR_GRAINS -/
  ovrGrain : Option Nat := none
  /-- first trip of the neighbour span in progress, while HOT is tripped -/
  hot : Option Nat := none
  /-- neighbour spans it has cast, newest first: first trip and end -/
  hots : List (Nat × Nat) := []
  /-- grain at which the calibration step in progress began -/
  calFrom : Option Nat := none
  /-- calibration steps that have ended, newest first: first sample and end -/
  cals : List (Nat × Nat) := []
  /-- tick at which the last pass completed -/
  calAt : Option Nat := none
  /-- last grain of the deferral gap for which ACQ_CAL_DEFER was counted -/
  deferred : Option Nat := none
  deriving DecidableEq, Repr

/-- The record set of a shot (R215). -/
structure RecSet where
  recs : List (List Word) := []
  refused : Nat := 0
  /-- windows of the shot still open and results of it not yet in staging -/
  live : Nat := 0
  closed : Bool := false
  voided : Bool := false
  causes : Nat := 0
  start : Nat := 0
  /-- stream session in which its shot closed -/
  epoch : Nat := 0
  deriving DecidableEq, Repr

/-- A pending gap (R213, R216). -/
structure Gap where
  /-- first and last dropped shot -/
  shots : Option (Nat × Nat) := none
  count : Nat := 0
  /-- PKG_SHOT at the first and the last dropped MARK or TIME record -/
  loose : Option (Nat × Nat) := none
  records : Nat := 0
  marks : Nat := 0
  deriving DecidableEq, Repr

/-- STE1's backlog and stream (R215 to R219). -/
structure Stream where
  backlog : List (List Word) := []
  /-- words of the backlog's first record already sent -/
  sent : Nat := 0
  /-- word offset of the next word since OPEN, modulo 2^40 (R316) -/
  offset : Nat := 0
  /-- counts OPENs and CLOSEs -/
  epoch : Nat := 0
  /-- a record in progress when the stream closed is sent on in this mode: 1 STREAM, 2 QUEUE -/
  finishing : Nat := 0
  gap : Option Gap := none
  /-- anchor grain of the last TIME record (R363) -/
  timeAt : Option Nat := none
  deriving DecidableEq, Repr

/-- A condition's detection that the combiner holds (R196): detection index, condition, crossing time in ticks. -/
structure Detect where
  idx : Nat
  cond : Nat
  time : Nat
  deriving DecidableEq, Repr

/-- The trigger (R194 to R203). -/
structure Trig where
  armAt : Nat := 0
  /-- detections below this index may still fire after a DISARM (R200) -/
  disarmed : Option Nat := none
  primed : List Nat := []
  /-- last edge of each TRIG_IN pin, in ticks plus 1 -/
  pins : SMap Nat := []
  dets : List Detect := []
  /-- trigger messages received and not yet acted on -/
  msgs : List Word := []
  deriving DecidableEq, Repr

/-! ### Feedback (R220 to R237) -/

/-- A cell of a verdict board (R224): the ordinal and verdict it holds, the ordinals it has held in this shot, and whether it fails
parity until it is written again. -/
structure BCell where
  cur : Option (Nat × Nat) := none
  past : List Nat := []
  bad : Bool := false
  deriving DecidableEq, Repr

/-- An arming of a decision slot (R232, R235). -/
structure Arming where
  slot : Nat
  d : Nat
  /-- the branch table entry, words 0 and 1 -/
  w0 : Word
  w1 : Word
  /-- BRE has written its choice to the select lines -/
  decided : Bool := false
  /-- BRE has closed it -/
  closed : Bool := false
  /-- sources already counted in CLU_FB_OVERWRITTEN -/
  overs : List Nat := []
  deriving DecidableEq, Repr

/-- An entry of the cluster select register (R235). -/
inductive SelEntry where
  | empty
  | choice (alt g : Nat)
  | noChoice
  | expired
  deriving DecidableEq, Repr

/-- A cluster's BRE, select lines and select register. -/
structure Bre where
  arms : List Arming := []
  /-- choices on the select lines, oldest first: slot, decision grain, alternative or NOCHOICE -/
  lines : List (Nat × Nat × Option Nat) := []
  reg : SMap SelEntry := []
  /-- decision points already counted in this shot: slot and grain -/
  done : List (Nat × Nat) := []
  deriving DecidableEq, Repr

/-- VRE (R226 to R231). Messages for a port wait in its pool queue (R327). -/
structure Vre where
  /-- messages that have reached VRE: source (0 to 3 an RF die, 4 to 11 a port, 12 this package) and message -/
  inbox : List (Nat × Word) := []
  /-- trigger messages already received: kind, package, sequence number, node -/
  seen : List (Nat × Nat × Nat × Nat) := []
  /-- verdict bus messages on their way to each RF die -/
  buses : SMap (List (BitVec 40)) := []
  deriving DecidableEq, Repr



/-! ### Clocks and time (R33 to R39, R351 to R377) -/

/-- A clock monitor's run of windows (R371), or a bias die's run of ticks (R375). -/
structure Windows where
  good : Nat := 0
  bad : Nat := 0
  /-- the loop has locked since it was started -/
  locked : Bool := false
  /-- tick at which its last window ended (R372) -/
  ranAt : Option Nat := none
  deriving DecidableEq, Repr

/-- Clocks beyond their objects. -/
structure Clocks where
  /-- XTA, and XTB and REFIN, are judged (R368, R369) -/
  xtaOn : Bool := false
  xtbOn : Bool := false
  mons : SMap Windows := []
  /-- the XTA or the MGPLL monitor has tripped since reset (R370) -/
  mgTrip : Bool := false
  /-- the timeline reference is chosen, and the tick at which XTB first qualified (R365) -/
  trefDone : Bool := false
  /-- CLK_TREF_SEL as the boot record gave it at this reset -/
  trefSel : Nat := 0
  /-- t_XTB in µs, as the boot record gave it at this reset (R369) -/
  xtbDelay : Nat := 16000
  xtbQualAt : Option Nat := none
  /-- the same for REFIN -/
  refinQualAt : Option Nat := none
  /-- ticks of the bias dies' reference counts -/
  bd : SMap Windows := []
  /-- RF dies whose converters are calibrated: bit d (R435) -/
  calDone : Nat := 0
  /-- groups of R377 whose gate is closed, and closing gates that wait for a busy bus: group, tick of the write, and ticks that the
  access then under way still takes (R30) -/
  gated : Nat := 0
  gateWait : List (Nat × Nat × Nat) := []
  /-- accesses that a forced close has answered with poison: group and tick, oldest first (R30) -/
  poisoned : List (Nat × Nat) := []
  /-- FIRE waits for a reference edge; end of the SYNC_OUT pulse; tick of the registered edge E (R36) -/
  syncFire : Bool := false
  syncOut : Option Nat := none
  syncEdge : Option Nat := none
  /-- tick of the FMC's START -/
  fmcAt : Nat := 0
  /-- grains by which a copy of the timeline differs from the keystone's: 0 the keystone's shadow counter, 1 to 4 RF0 to RF3, 5
  and 6 BD0 and BD1 (R35) -/
  copies : SMap Int := []
  deriving DecidableEq, Repr

/-- An Announce dataset kept for a port (R354). -/
structure Foreign where
  gm : BitVec 64
  quality : List Nat
  /-- tick of the last Announce and its interval -/
  at_ : Nat
  ival : Int
  deriving DecidableEq, Repr

/-- The PTP clock and the two timing ports (R351 to R363). Times are in 2^-16 ns. -/
structure Ptp where
  /-- clock value in 2^-32 of 2^-16 ns -/
  acc : Nat := 0
  /-- integral term of R358 -/
  f : Int := 0
  /-- m2s of the last Sync, and the last sums m2s + s2m since the master was selected -/
  m2s : Option Int := none
  sums : List Int := []
  /-- a two-step Sync that waits for its Follow_Up: sequence, t2, correction -/
  sync : Option (Nat × Int × Int) := none
  /-- Delay_Req: next sequence number, the one sent with its t3, the master's interval and the tick of the last -/
  reqSeq : Nat := 0
  req : Option (Nat × Int) := none
  reqIval : Option Int := none
  reqAt : Option Nat := none
  /-- consecutive Syncs within TNW_LOCK_NS -/
  tol : Nat := 0
  /-- the clock has stepped since reset and since RELOCK (R357) -/
  stepped : Bool := false
  foreign : SMap (Option Foreign) := []
  /-- tick and interval of the last Sync on the slave port -/
  syncAt : Option (Nat × Int) := none
  /-- messages for the ordinary clock: port, frame, ingress time -/
  inbox : List (Nat × PtpFrame × Int) := []
  /-- frames waiting to leave a port, with their ingress time (none: the clock's own), and the last that left -/
  tc : SMap (List (PtpFrame × Option Int)) := []
  sent : SMap (Option PtpFrame) := []
  /-- seconds value of the last boundary passed, and the end tick of the PPS pulse -/
  second : Nat := 0
  pps : Option Nat := none
  deriving DecidableEq, Repr


/-! ### Lanes, host link and viaduct ports (R304 to R327) -/

/-- A block that a lane's transmitter has still to send (R304, R305, R315, R326): a data block with its TS, a REJECT with
its reason and the TS it answers. -/
inductive TxBlock where
  | shim | align | idle
  | data (ts : Nat) (w : Word)
  | reject (reason ts : Nat)
  deriving DecidableEq, Repr

/-- A lane beyond its objects. -/
structure Lane where
  /-- receiver: the run of equal bits on the line (R307), consecutive valid SYNC fields up to 64, block lock, and the last 64 SYNC
  fields, 1 for an invalid one -/
  rxRun : Bool × Nat := (false, 0)
  good : Nat := 0
  lock : Bool := false
  syncs : Nat := 0
  /-- descrambler, non-SHIM blocks since the last ALIGN, ALIGNs since the link came up, ALIGNs missed in a row, and whether the frame
  has had no bad block -/
  rxScr : Nat := 0
  /-- SHIMs received since the last other block (R309) -/
  rxShims : Nat := 0
  rxPos : Option Nat := none
  frames : Nat := 0
  misses : Nat := 0
  clean : Bool := false
  /-- consecutive TRAIN blocks received with LOCKED, received with READY, and sent with READY, up to 16 (R312) -/
  rxLocked : Nat := 0
  rxReady : Nat := 0
  txReady : Nat := 0
  /-- the partner's last TRAIN block failed the checks of R312, and the failure is one of a CONFLICT -/
  failing : Bool := false
  conflict : Bool := false
  /-- tick of the last ALIGN received in UP (R313) -/
  alignAt : Option Nat := none
  /-- host lane: link blocks after deskew, none for a bad one; viaduct lane: verdict blocks, TS and payload -/
  fifo : List (Option (Nat × Word)) := []
  /-- level of the elastic buffer in 25ths of a block, and the tick of the last block (R309) -/
  fill : Nat := 200
  rxAt : Nat := 0
  /-- the partner's rate has been measured since the lane came up (R308) -/
  measured : Bool := false
  /-- transmitter: frames have started, FRAME of the next ALIGN, non-SHIM blocks since the last, blocks sent since the last SHIM -/
  framed : Bool := false
  frame : Nat := 0
  txPos : Nat := 0
  sinceShim : Nat := 0
  txScr : Nat := 0
  /-- blocks formed and not yet sent, the bits of the last block sent as the line carries them, stuff bits included, and the line's run
  of equal bits (R307) -/
  txq : List TxBlock := []
  out : List Bool := []
  run : Bool × Nat := (false, 0)
  deriving DecidableEq, Repr

/-- A packet that the host link has received (R315, R316): VC, header, payload, the reason code of R324, 0 for none, and whether one
of its blocks or an IDLE in it has been counted and answered as a violation of its own. -/
structure LinkPacket where
  vc : Nat
  header : Word
  words : List Word := []
  reason : Nat := 0
  hit : Bool := false
  deriving DecidableEq, Repr

/-- A virtual channel of the host link since link-up (R319, R320). -/
structure Vc where
  /-- next expected SEQ -/
  expect : Nat := 0
  /-- blocks received, LIMIT last sent, and the tick of that CREDIT -/
  got : Nat := 0
  granted : Nat := 0
  grantAt : Option Nat := none
  /-- accepted packets not yet acknowledged -/
  owed : Nat := 0
  /-- expected SEQ and tick of the last NAK -/
  nak : Option (Nat × Nat) := none
  /-- the partner's LIMIT and blocks sent -/
  limit : Nat := 0
  sent : Nat := 0
  deriving DecidableEq, Repr

/-- The host link (R313 to R325). -/
structure HostLink where
  /-- lane of the next link block to take in -/
  rxLane : Nat := 0
  /-- SHIM columns received lately, newest first: their place in the frames and among the SHIMs there, and whether the column was
  deleted (R309) -/
  shims : List ((Nat × Nat) × Bool) := []
  /-- the packet being received, whole MGT and UPL packets, and CTL blocks that wait -/
  rx : Option LinkPacket := none
  packets : List LinkPacket := []
  ctls : List Word := []
  vcs : SMap Vc := []
  /-- next SEQ of a response, the last one acknowledged, responses sent and not acknowledged (SEQ, header and payload),
  those to be sent again, the tick from which LNK_RTO counts, and consecutive timeouts (R321) -/
  seq : Nat := 0
  acked : Nat := 4095
  unacked : List (Nat × List Word) := []
  resend : List (Nat × List Word) := []
  rtoAt : Nat := 0
  timeouts : Nat := 0
  /-- link blocks of the packet being sent: TS and payload -/
  cur : List (Nat × Word) := []
  /-- non-SHIM blocks since the last ALIGN column, blocks since the last SHIM column -/
  pos : Nat := 0
  sinceShim : Nat := 0
  /-- ticks of the last violations that count toward retrain (R325) -/
  viols : List Nat := []
  deriving DecidableEq, Repr

/-- A viaduct port (R231, R326, R327). -/
structure VPort where
  /-- number of the next message sent and of the last one accepted -/
  seq : Nat := 0
  last : Nat := 63
  viols : List Nat := []
  deriving DecidableEq, Repr


/-! ### Monitor ADC and thermal management (R378 to R408) -/

/-- An entry being converted (R380 to R382): its value, conversions begun, corrected codes so far, the side of its first over-range
conversion, and whether the reference was not ready at one. -/
structure Entry where
  v : Nat
  issued : Nat := 0
  codes : List Nat := []
  overs : Option Nat := none
  noref : Bool := false
  deriving DecidableEq, Repr

/-- A unit's sequence (R384 to R388). -/
structure Sequence where
  /-- entry, 0 to 15, and its conversions once it has begun -/
  idx : Nat := 0
  entry : Option Entry := none
  /-- CONV1 has left the interleaved entry -/
  yield : Bool := false
  /-- the tick from which MON_START_DELAY counts -/
  start : Nat
  /-- STOP waits for the conversion in progress -/
  stopping : Bool := false
  deriving DecidableEq, Repr

/-- A monitor ADC unit beyond its objects. -/
structure Mau where
  seq : Option Sequence := none
  /-- a conversion on CONV0 is in progress, and the tick at which the last one there began -/
  busy : Bool := false
  c0At : Nat := 0
  /-- the tick at which the interleaved conversion on CONV1 begins, and that at which CONV1 last ended one -/
  c1 : Option Nat := none
  c1Free : Nat := 0
  /-- injected request: its entry, the tick of its write, and whether it converts -/
  inj : Option (Entry × Nat × Bool) := none
  /-- a calibration waits; the tick at which the one in progress began; a start held through it -/
  calWait : Bool := false
  calAt : Option Nat := none
  held : Option Nat := none
  /-- ticks that protected conversions took of the calibration in progress (R392) -/
  calMore : Nat := 0
  /-- protected sequence: conversions since the last update, and the last whole set of results, each with OVR or NOREF -/
  prot : List Entry := []
  done : List (Nat × Bool) := []
  /-- tick at which the reference buffer was last enabled; none: on since the reset (R391) -/
  bufAt : Option Nat := none
  /-- tick from which REFM has been watched within its range: its choice, or the last time it was not ready (R391) -/
  refFrom : Nat := 0
  deriving DecidableEq, Repr

/-- A broken-sensor watch (R399): samples of the last 10 s, newest first, as tick, value and package power in mW, and the tick
at which a condition last held. -/
structure Watch where
  hist : List (Nat × Int × Nat) := []
  badAt : Option Nat := none
  deriving DecidableEq, Repr

/-- A region's thermal model (R394): nodes in 2^-24 °C, the power in force, and the thresholds' runs of updates. -/
structure Therm where
  live : Bool := false
  t1 : Int := 0
  t2 : Int := 0
  t3 : Int := 0
  p : Nat := 0
  lastAt : Option Nat := none
  /-- consecutive updates above the trip and below the release temperature, by threshold -/
  above : List Nat := [0, 0, 0]
  below : List Nat := [0, 0, 0]
  watch : Watch := {}
  /-- consecutive updates with the diode and T1 more than 15 K apart -/
  apart : Nat := 0
  deriving DecidableEq, Repr

/-- The base sensor, the ladder and the shutdown (R396, R403, R406). -/
structure Cooling where
  tb : Int := 0
  /-- tick at which the base sequence last ended, and that of the last base evaluation -/
  baseAt : Option Nat := none
  baseUsed : Option Nat := none
  watch : Watch := {}
  /-- increases that wait for their ms; ticks of the last change, the last increase and the last release of all throttles -/
  owed : Nat := 0
  changedAt : Option Nat := none
  raisedAt : Option Nat := none
  clearAt : Option Nat := none
  /-- tick of t_trip, and steps of R406 done -/
  tripAt : Option Nat := none
  stage : Nat := 0
  /-- VDDF requirement that VIDF follows, and the tick of its last change (R442) -/
  vidf : Nat := 750
  vidfAt : Option Nat := none
  /-- the requirement before that change (R443) -/
  vidfFrom : Nat := 750
  /-- tick at which MGE last restarted (R417) -/
  restartAt : Option Nat := none
  /-- values in force of the compensation tables (R408) -/
  trims : List Int := List.replicate 13 0
  deriving DecidableEq, Repr

/-- The state of the package. -/
structure State where
  /-- commands that wait, first in first out -/
  pending : List Instr := []
  /-- grain ticks since the reset was released: the time base of delays and timeouts (log 2) -/
  elapsed : Nat := 0
  /-- counter behind the free values: each use of one reads and advances it (log 3) -/
  free : Nat := 0
  /-- the timeline, and whether it has started (R33, R433 step 6) -/
  tml : Nat := 0
  tmlOn : Bool := false
  /-- stored values of the dictionary's objects (R330), by the key of an object and its instance -/
  regs : SMap Int := []
  /-- pool queues by ID (R263) and cells lost to broken links (R248) -/
  queues : SMap Queue := []
  poolLost : Nat := 0
  /-- edge FIFOs by number (R15) -/
  fifos : SMap Fifo := []
  /-- cluster engines (R26), their schedule-cache areas, the run, the loaded image and the patches by kind -/
  engs : SMap Engine := []
  areas : SMap Area := []
  run : RunState := {}
  image : ImageInfo := {}
  patches : SMap Patch := []
  /-- the event truss: channels, deliveries under way, timers and marker pins -/
  channels : SMap Channel := []
  deliveries : List Delivery := []
  timers : SMap Timer := []
  markers : SMap Marker := []
  /-- the dictionary server's two paths, the NVM, start-up and the fault log -/
  path0 : PathState := {}
  path1 : PathState := {}
  /-- path of the request served last (R335) -/
  lastPath : Path := 1
  nvm : Nvm := {}
  boot : Boot := {}
  flog : FaultLog := {}
  /-- tick at which the last pass of a scrub unit ended (R419) -/
  scrubAt : SMap Nat := []
  /-- DRAM -/
  dram : Dram := {}
  /-- segment descriptors and sample words of the clusters: key cluster * 4096 + segment, and cluster * 2^19 + address; and
  the addresses of sample words that fail parity -/
  segs : SMap Seg := []
  segMem : SMap Nat := []
  segBad : List Nat := []
  refills : SMap Refill := []
  /-- tone and flux slices by edge FIFO number, and the frame history of the tones, newest first -/
  slices : SMap Slice := []
  frames : SMap (List FrameAt) := []
  /-- crosstalk taps that failed parity: 8 * DRV + tap -/
  tapBad : List Nat := []
  /-- flux chains, bias outputs, the last update grain, and regions -/
  fluxes : SMap FluxCh := []
  biases : SMap BiasCh := []
  biasAt : Option Nat := none
  regions : SMap Region := []
  /-- bias dies whose forwarded reference is qualified: bit b (R375) -/
  bdQual : Nat := 0
  /-- grain at which each RF die's clock last qualified (R20) -/
  rfQualAt : SMap Nat := []
  /-- read-out slices by tone number, trace units, ACQ channels -/
  reads : SMap ReadSlice := []
  traces : SMap TraceUnit := []
  acqs : SMap AcqCh := []
  /-- kernel tap words (cluster * 2^17 + word) and table bytes (cluster * 2^18 + byte), and the addresses of 4-byte words and
  bytes that fail parity -/
  krn : SMap Nat := []
  krnBad : List Nat := []
  tab : SMap Nat := []
  tabBad : List Nat := []
  /-- records in the crossing FIFOs of the clusters (R29), with their shots; record sets by shot; the stream; per-shot
  increments of R415 by counter and shot -/
  crossings : SMap (List (List Word × Nat)) := []
  sets : SMap RecSet := []
  stream : Stream := {}
  incs : SMap Nat := []
  trig : Trig := {}
  /-- verdict boards (die * 2048 + entry * 4 + cell), BREs, VRE -/
  board : SMap BCell := []
  bres : SMap Bre := []
  vre : Vre := {}
  /-- clocks, SYNC and gates; the PTP clock -/
  clk : Clocks := {}
  ptp : Ptp := {}
  /-- lanes (0 to 15 HL, 16 to 31 VL), the host link, the viaduct ports -/
  lanes : SMap Lane := []
  hl : HostLink := {}
  vports : SMap VPort := []
  /-- monitor ADC units, thermal nodes by region, base sensor with ladder and shutdown -/
  maus : SMap Mau := []
  therms : SMap Therm := []
  cool : Cooling := {}
  deriving DecidableEq, Repr

/-- Why the machine stops in a fault. -/
inductive Fault where
  /-- RESET_N was low for a time between 100 ns and 1 µs: the spec calls the effect undefined (R430). Raised by
  RESET_N_ASSERT alone; safe: the machine stops where the hardware does something no rule gives. -/
  | undefinedResetPulse
  deriving DecidableEq, Repr

/-- Why a command is refused. -/
inductive Refusal where
  /-- no meaning yet for the named row; raised by Dispatch alone; safe -/
  | notModelled (mnemonic : String)
  deriving DecidableEq, Repr

/-- The machine right after reset: the reset is released (t_power_good), start-up step 1 of R433 is done, every object
at its default, every memory empty, every queue empty. -/
def State.reset : State := {}

end Sys2Proof.Machine
end

