-- ==== Sys2Proof/Machine/Ops.lean ====
section
/-! DEFINITION. The named operations every meaning shares: reading and writing the dictionary's stored values, counters
and flags (R8, R9), free values, the numbering of R25, the parts of the state by instance, and raising a truss event. -/

namespace Sys2Proof.Machine

/-- The outcome of a command. -/
abbrev Out := Host.Outcome State Fault Refusal

/-! ### Stored values -/

/-- The storage key of an object and its instance. -/
def key (r : Reg) (i : Nat) : Nat := r.ctorIdx + 1024 * i

/-- The stored value of an object. -/
def rd (s : State) (r : Reg) (i : Nat := 0) : Int := mget (r.dflt i) s.regs (key r i)

/-- The stored value of an unsigned object. -/
def rn (s : State) (r : Reg) (i : Nat := 0) : Nat := (rd s r i).toNat

/-- Store a value. -/
def wr (r : Reg) (v : Int) (i : Nat := 0) (s : State) : State :=
  { s with regs := mput (r.dflt i) s.regs (key r i) v }

/-- Add to a counter that saturates at `top` (R8). -/
def incTo (top : Nat) (r : Reg) (n : Nat) (i : Nat := 0) (s : State) : State :=
  wr r (satN top (rn s r i + n)) i s

/-- Add n to a U32 counter that saturates (R8). -/
def incBy (r : Reg) (n : Nat) (i : Nat := 0) (s : State) : State := incTo 0xFFFFFFFF r n i s

/-- Increment a U32 counter that saturates (R8). -/
def inc (r : Reg) (i : Nat := 0) (s : State) : State := incBy r 1 i s

/-- Increment a counter of `bits` bits that wraps, as its object states. -/
def incWrap (bits : Nat) (r : Reg) (n : Nat := 1) (i : Nat := 0) (s : State) : State :=
  wr r ((rn s r i + n) % 2 ^ bits : Nat) i s

/-- Set a sticky flag (R9). -/
def flag (r : Reg) (i : Nat := 0) (s : State) : State := wr r 1 i s

/-- Raise a peak-level object (R9). -/
def peak (r : Reg) (v : Int) (i : Nat := 0) (s : State) : State := if rd s r i < v then wr r v i s else s

/-- Lower a low-water object (R60). -/
def low (r : Reg) (v : Int) (i : Nat := 0) (s : State) : State := if v < rd s r i then wr r v i s else s

/-- Set or clear one bit of an object. -/
def wrBit (r : Reg) (b : Nat) (v : Bool) (i : Nat := 0) (s : State) : State := wr r (setBit (rn s r i) b v : Nat) i s

/-! ### Free values -/

/-- The index of a free value, used once (log 3). -/
def fresh (s : State) : Nat × State := (s.free, { s with free := s.free + 1 })

/-- A quotient whose rounding the spec does not give: exact where it divides, else one of the two neighbours (log 3). -/
def quot (place : Nat) (num : Int) (den : Nat) : Int :=
  num / den + (if num % den = 0 then 0 else if Config.roundUp place num then 1 else 0)

/-- Rounded to nearest, ties to even. -/
def rne (num : Int) (den : Nat) : Int :=
  let q := num / den
  let r := num % den
  if 2 * r < den then q else if 2 * r > den then q + 1 else if q % 2 = 0 then q else q + 1

/-! ### Time -/

/-- Ticks in a microsecond and a millisecond: a tick is one grain of 400 ps (R3). -/
def usT : Nat := 2500
def msT : Nat := 2500000

/-- Milliseconds since a tick. -/
def msSince (s : State) (t : Nat) : Nat := (s.elapsed - t) / msT

/-! ### Parts of the state by instance -/

def qget (s : State) (q : Nat) : Queue := mget {} s.queues q
def qset (q : Nat) (v : Queue) (s : State) : State := { s with queues := mput {} s.queues q v }
def fget (s : State) (f : Nat) : Fifo := mget {} s.fifos f
def fset (f : Nat) (v : Fifo) (s : State) : State := { s with fifos := mput {} s.fifos f v }
def eget (s : State) (e : Nat) : Engine := mget {} s.engs e
def eset (e : Nat) (v : Engine) (s : State) : State := { s with engs := mput {} s.engs e v }
def aget (s : State) (e : Nat) : Area := mget {} s.areas e
def aset (e : Nat) (v : Area) (s : State) : State := { s with areas := mput {} s.areas e v }
def chget (s : State) (c : Nat) : Channel := mget {} s.channels c
def chset (c : Nat) (v : Channel) (s : State) : State := { s with channels := mput {} s.channels c v }
def tget (s : State) (n : Nat) : Timer := mget {} s.timers n
def tset (n : Nat) (v : Timer) (s : State) : State := { s with timers := mput {} s.timers n v }
def mkget (s : State) (c : Nat) : Marker := mget {} s.markers c
def mkset (c : Nat) (v : Marker) (s : State) : State := { s with markers := mput {} s.markers c v }
def pathOf (s : State) (p : Path) : PathState := if p = 0 then s.path0 else s.path1
def setPath (p : Path) (v : PathState) (s : State) : State := if p = 0 then { s with path0 := v } else { s with path1 := v }
def patchOf (s : State) (k : Nat) : Patch := mget {} s.patches k

def segKey (c k : Nat) : Nat := c * 4096 + k
def sget (s : State) (c k : Nat) : Seg := mget {} s.segs (segKey c k)
def sset (c k : Nat) (v : Seg) (s : State) : State := { s with segs := mput {} s.segs (segKey c k) v }
def slget (s : State) (f : Nat) : Slice := mget {} s.slices f
def slset (f : Nat) (v : Slice) (s : State) : State := { s with slices := mput {} s.slices f v }
def flxget (s : State) (n : Nat) : FluxCh := mget {} s.fluxes n
def flxset (n : Nat) (v : FluxCh) (s : State) : State := { s with fluxes := mput {} s.fluxes n v }
def biaget (s : State) (n : Nat) : BiasCh := mget {} s.biases n
def biaset (n : Nat) (v : BiasCh) (s : State) : State := { s with biases := mput {} s.biases n v }
def rgget (s : State) (g : Nat) : Region := mget {} s.regions g
def rgset (g : Nat) (v : Region) (s : State) : State := { s with regions := mput {} s.regions g v }
def rfget (s : State) (c : Nat) : Refill := mget {} s.refills c
def rfset (c : Nat) (v : Refill) (s : State) : State := { s with refills := mput {} s.refills c v }

/-! ### Numbering (R15, R25, R26) -/

/-- The kinds of edge FIFO (R15). -/
inductive FifoKind where
  | drive | readout | flux | bias | capture
  deriving DecidableEq, Repr

/-- Kind of an edge FIFO. -/
def fifoKind (f : Nat) : FifoKind :=
  if f < 1024 then (if f % 64 < 32 then .drive else .readout)
  else if f < 1152 then .flux
  else if f < 1408 then .bias
  else .capture

/-- Cluster of an edge FIFO. -/
def fifoClu (f : Nat) : Nat :=
  if f < 1024 then f / 64
  else if f < 1152 then (f - 1024) / 8
  else if f < 1408 then (f - 1152) / 16
  else f - 1408

/-- The engine that feeds an edge FIFO (R15). -/
def fifoEng (f : Nat) : Nat :=
  8 * fifoClu f + (match fifoKind f with
    | .drive => f % 64 / 8
    | .readout => 4
    | .capture => 5
    | .flux => 6
    | .bias => 6)

/-- Region of a cluster, RF die of a cluster (R25). -/
def cluRgn (c : Nat) : Nat := c / 2
def cluDie (c : Nat) : Nat := c / 4

/-- The edge FIFOs of a cluster. -/
def cluFifos (c : Nat) : List Nat := span (64 * c) 64 ++ span (1024 + 8 * c) 8 ++ span (1152 + 16 * c) 16 ++ [1408 + c]

/-- Profile codes (R64, R238). -/
def profDense : Nat := 0
def profSwift : Nat := 1
def profLowSpur : Nat := 2
def profCool : Nat := 3

/-- The profile of a region. -/
def profileOf (s : State) (g : Nat) : Nat := rn s .RGN_PROFILE g

/-- The profile uses the direct mode: SWIFT alone (R167, R241). -/
def directMode (p : Nat) : Bool := p = profSwift

/-- A local of a tone slice is active in a profile (R16). -/
def localActive (p : Nat) (l : Nat) : Bool :=
  if p = profSwift ∨ p = profCool then (if l < 32 then l % 8 < 4 else l < 48) else true

/-- The slice of an edge FIFO is active in its region's profile (R16). -/
def fifoActive (s : State) (f : Nat) : Bool :=
  if f < 1024 then localActive (profileOf s (cluRgn (fifoClu f))) (f % 64) else true

/-- The stream's state as TRG_STREAM_STATE reads: a stream that CLOSE has stopped is CLOSED once its record in progress has been
sent (R219, log 76). -/
def streamState (s : State) : Nat := if s.stream.finishing ≠ 0 then s.stream.finishing else rn s .TRG_STREAM_STATE

/-! ### Raising a truss event (R269 to R275) -/

/-- A producer raises its event: each enabled slot that names it puts a request to its channel, held until the channel's next
event. A second request of a slot joins the same event and makes it a merged one, so none is lost (R275). -/
def raise (producer : Nat) (s : State) : State :=
  s.regs.foldl (fun t e =>
    if e.1 % 1024 = Reg.EVT_CH_PROD.ctorIdx ∧ e.2 = ((0x8000 + producer : Nat) : Int) then
      let ch := e.1 / 1024 / 8
      let slot := e.1 / 1024 % 8
      let c := chget t ch
      chset ch { c with held := c.held ++ [slot] } t
    else t) s

end Sys2Proof.Machine
end

