-- ==== Sys2Proof/Machine/QueueOps.lean ====
section
/-! DEFINITION. The queue manager's steps (R245 to R262): appending a word, removing one, dropping a packet, flushing,
and the log queues' rule, with levels, watermarks, cells and the free list. -/

namespace Sys2Proof.Machine

/-- Cells a queue holds (R247): a queue fills its cells in order from the position of its oldest word. -/
def qcells (q : Queue) : Nat := if q.words.isEmpty then 0 else (q.head + q.words.length + 6) / 7

/-- The word at position j of the i-th cell that a queue holds: none outside the words still stored (R247). -/
def cellWord (q : Queue) (i j : Nat) : Option QWord := if 7 * i + j < q.head then none else q.words[7 * i + j - q.head]?

/-- Data words written into the i-th cell that a queue holds, those already read included: USED (R247). -/
def cellUsed (q : Queue) (i : Nat) : Nat := min 7 (q.head + q.words.length - 7 * i)

/-- The link word of the i-th of the cells that queue `id` holds (R247). Which free cell a queue takes is not given: a free value,
by the cell's number since the queue was last empty. The tags of words already read are not kept. -/
def linkWord (id : Nat) (q : Queue) (i : Nat) : Word :=
  let next := if i + 1 < qcells q then (Config.cellOf id (q.first + i + 1)).toNat else 0
  let tags (f : QWord → Bool) : Nat := sumN ((List.range 7).map fun j => if (cellWord q i j).any f then 2 ^ j else 0)
  word (tags (·.fin) * 2 ^ 53 + tags (·.psn) * 2 ^ 46 + cellUsed q i * 2 ^ 43 + next * 2 ^ 18 + next)

/-- Cells held by all queues. -/
def cellsUsed (s : State) : Nat := sumN (s.queues.map fun e => qcells e.2)

/-- Cells of the free list (R249, R268). -/
def poolFree (s : State) : Nat := 262144 - cellsUsed s - s.poolLost

/-- Queues the reserve of the free list is kept for (R249). -/
def reserveQueue (q : Nat) : Bool := q ≤ 0x1000 ∨ (0x3000 ≤ q ∧ q ≤ 0x3FFF)

/-- A log queue (R256). -/
def logQueue (q : Nat) : Bool := 0x3000 ≤ q ∧ q ≤ 0x3FFF

/-- Words of whole packets: the words up to the last END. -/
def wholeLen (q : Queue) : Nat := q.words.length - q.openLen

/-- Whole packets (R252). -/
def wholePackets (q : Queue) : Nat := (q.words.filter (·.fin)).length

/-- Level and cell room for n more words (R249, R256). -/
def qroom (s : State) (q : Nat) (n : Nat) : Bool :=
  let v := qget s q
  let need := (if v.words.length + n = 0 then 0 else (v.head + v.words.length + n + 6) / 7) - qcells v
  decide (v.words.length + n ≤ rn s .QUE_LIMIT q) &&
    (decide (need = 0) || decide (need + (if reserveQueue q then 0 else 8192) ≤ poolFree s))

/-- The watermark sources that watch a crossing of one watermark of a queue (R262). -/
def qwmSources (s : State) (q : Nat) (high : Bool) : List Nat :=
  (List.range 16).filter fun k =>
    let v := rn s .QUE_WM_EVT k
    bitOf v 31 && decide (nfld v 14 0 = q) && (bitOf v 30 == high)

/-- One counted crossing of a watermark (R261, R262). -/
def crossing (q : Nat) (high : Bool) (s : State) : State :=
  let s := if high then incTo 0xFFFF .QUE_HIGH_COUNT 1 q (flag .QUE_HIGH_FLAG q s)
           else incTo 0xFFFF .QUE_LOW_COUNT 1 q (flag .QUE_LOW_FLAG q s)
  (qwmSources s q high).foldl (fun t k => raise (0x120 + k) t) s

/-- One step of a queue's level (R259, R261): peak, trough, crossings, and the fewest free cells. -/
def levelStep (q old new : Nat) (s : State) : State :=
  let s := low .QUE_TROUGH new q (peak .QUE_PEAK new q s)
  let s := low .QUE_POOL_LOW (poolFree s) 0 s
  let hw := rn s .QUE_HIGH_WM q
  let lw := rn s .QUE_LOW_WM q
  let s := if bitOf hw 31 ∧ old < nfld hw 20 0 ∧ nfld hw 20 0 ≤ new then crossing q true s else s
  if bitOf lw 31 ∧ nfld lw 20 0 < old ∧ new ≤ nfld lw 20 0 then crossing q false s else s

/-- Writers of the keystone's own queues: MGE, the link layer, STE1 and VRE; host software is 0, the schedule path 1. -/
def wMge : Nat := 2
def wLink : Nat := 3
def wSte1 : Nat := 4
def wVre : Nat := 5

/-- The failed links of a queue after one more word: a word that begins a cell has its link written afresh (R247). -/
def relinked (v : Queue) : List Nat :=
  if v.words.isEmpty ∨ (v.head + v.words.length) % 7 ≠ 0 then v.dead
  else v.dead.filter fun k => decide (k + 1 ≠ v.first + qcells v)

/-- Append one word for a writer that may (R246, R252, R255): the 65,535th word of a packet gets END. -/
def appendWord (q writer : Nat) (w : QWord) (s : State) : State :=
  let v := qget s q
  let forced := decide (v.openLen + 1 = 65535) && !w.fin
  let fin := w.fin || forced
  let s := if forced then inc .QUE_FORCED_END q s else s
  let v' := { v with words := v.words ++ [{ w with fin := fin }], dead := relinked v
                     owner := if fin then none else some writer
                     openLen := if fin then 0 else v.openLen + 1 }
  levelStep q v.words.length (v.words.length + 1) (qset q v' s)

/-- The tail is held against a writer: another writer's open packet or discard-to-end (R255, R258). -/
def tailHeld (v : Queue) (writer : Nat) : Bool :=
  (match v.owner with | some o => decide (o ≠ writer) | none => false) ||
  (match v.discard with | some o => decide (o ≠ writer) | none => false)

/-- A word dropped in discard-to-end (R258). -/
def discardWord (q : Nat) (w : QWord) (s : State) : State :=
  let v := qget s q
  inc .QUE_FLUSH_DISCARD q (qset q (if w.fin then { v with discard := none, owner := none, openLen := 0 } else v) s)

/-- Words up to and including the first END. -/
def headLen : List QWord → Nat
  | [] => 0
  | w :: ws => if w.fin then 1 else 1 + headLen ws

/-- No word is left: every cell is given back (R247). -/
def emptied (v : Queue) : Queue := { v with words := [], head := 0, first := 0, dead := [] }

/-- Remove n words from the head in one step; a cell that is left goes back to the free list. -/
def popMany (v : Queue) (n : Nat) : Queue :=
  if v.words.length ≤ n then emptied v
  else { v with words := v.words.drop n, head := (v.head + n) % 7, first := v.first + (v.head + n) / 7 }

/-- The words of whole packets alone stay. -/
def keepWhole (v : Queue) : Queue :=
  if wholeLen v = 0 then emptied v
  else
    let k := { v with words := v.words.take (wholeLen v) }
    { k with dead := k.dead.filter fun x => decide (x < k.first + qcells k) }

/-- The word n places from the head begins a cell that only a failed link leads to (R248). -/
def cutOff (v : Queue) (n : Nat) : Bool :=
  decide ((v.head + n) % 7 = 0 ∧ v.first + (v.head + n) / 7 ≠ 0) && v.dead.contains (v.first + (v.head + n) / 7 - 1)

/-- Words from the head on that can be reached, among n. -/
def reachWords (v : Queue) (n : Nat) : Nat := ((List.range n).find? (cutOff v)).getD n

/-- Words of the head packet as reads deliver them: from a poisoned word on all carry PSN (R251), and at a failed link the packet ends
with a poisoned word (R248). -/
def headView (v : Queue) : List QWord :=
  let n := headLen v.words
  let m := reachWords v n
  let ws := v.words.take m
  let psn (i : Nat) : Bool := v.tainted || (ws.take (i + 1)).any fun w => w.psn || w.bad
  (ws.zipIdx.map fun w => { w.1 with psn := psn w.2, bad := false }) ++ (if m < n then [{ data := 0, fin := true, psn := true }] else [])

/-- A log writer makes room: it removes whole head packets until n words fit or none is left (R256). -/
def logMakeRoom (q n : Nat) : Nat → State → State
  | 0, s => s
  | k + 1, s =>
    let v := qget s q
    if qroom s q n ∨ wholePackets v = 0 then s
    else
      let m := headLen v.words
      let v' := { popMany v m with reading := false, tainted := false, cut := v.cut || v.reading }
      let s := if v.reading then inc .QUE_FLUSH_CUTS q s else s
      let s := inc .QUE_OVERWRITTEN q s
      logMakeRoom q n k (levelStep q v.words.length (v.words.length - m) (qset q v' s))

/-- A word written to a log queue word by word: room is made by removing whole packets, and a packet that still does not
fit is not written (R256). -/
def logWord (q writer : Nat) (w : QWord) (s : State) : State :=
  let s := logMakeRoom q 1 (wholePackets (qget s q)) s
  if qroom s q 1 then appendWord q writer w s
  else
    let v := qget s q
    let v' := { keepWhole v with openLen := 0, owner := none, discard := if w.fin then none else some writer }
    inc .QUE_OVERWRITTEN q (levelStep q v.words.length (wholeLen v) (qset q v' s))

/-- A write must wait its turn (R255): the tail is held against it, an earlier word of its own waits, or the tail is free and another
writer came first. -/
def mustWait (v : Queue) (writer : Nat) : Bool :=
  tailHeld v writer || v.waiting.any (fun x => decide (x.1 = writer)) || (v.owner.isNone && !v.waiting.isEmpty)

/-- A WRITE of one word by a writer (R255, R256, R257): dropped in discard-to-end, appended, or held waiting. -/
def writeWord (q writer : Nat) (w : QWord) (s : State) : State :=
  let v := qget s q
  if v.discard = some writer ∧ !v.waiting.any (fun x => decide (x.1 = writer)) then discardWord q w s
  else if mustWait v writer then qset q { v with waiting := v.waiting ++ [(writer, w, false)] } s
  else if logQueue q then logWord q writer w s
  else if qroom s q 1 then appendWord q writer w s
  else inc .QUE_POOL_WAITS 0 (qset q { v with waiting := v.waiting ++ [(writer, w, true)] } s)

/-- The oldest waiting write whose writer may now proceed, proceeds; one that now lacks room is counted once (R255, R256). -/
def resumeWrite (q : Nat) (s : State) : State :=
  let v := qget s q
  let i := v.waiting.findIdx fun x => !tailHeld v x.1
  match v.waiting[i]? with
  | none => s
  | some x =>
    let v' := { v with waiting := v.waiting.eraseIdx i }
    if v.discard = some x.1 then discardWord q x.2.1 (qset q v' s)
    else if logQueue q then logWord q x.1 x.2.1 (qset q v' s)
    else if qroom s q 1 then appendWord q x.1 x.2.1 (qset q v' s)
    else if x.2.2 then s
    else inc .QUE_POOL_WAITS 0 (qset q { v with waiting := setAt v.waiting i (x.1, x.2.1, true) } s)

/-- Words as a packet. -/
def packetWords (ws : List Word) : List QWord :=
  (List.range ws.length).map fun i => { data := nthD ws i 0, fin := decide (i + 1 = ws.length) }

/-- The words of a packet written one after the other (R257). -/
def writePacket (q writer : Nat) (ws : List QWord) (s : State) : State := ws.foldl (fun t w => writeWord q writer w t) s

/-- A whole packet that MGE writes into a log queue (R256, R346, R420): room is made for all of it first, unless it must wait for the
tail (R255). -/
def logPacket (q : Nat) (ws : List Word) (s : State) : State :=
  if mustWait (qget s q) wMge then writePacket q wMge (packetWords ws) s
  else
    let s := logMakeRoom q ws.length (wholePackets (qget s q)) s
    if qroom s q ws.length then writePacket q wMge (packetWords ws) s else inc .QUE_OVERWRITTEN q s

/-- A whole packet appended in one go by a writer that finds room; the caller has checked `qroom`. -/
def appendPacket (q writer : Nat) (ws : List QWord) (s : State) : State :=
  ws.foldl (fun t w => appendWord q writer w t) s

/-- The failed link breaks the queue (R248): its words and cells are lost and an open writer discards to END. -/
def breakQueue (q : Nat) (s : State) : State :=
  let v := qget s q
  let v' := { emptied v with openLen := 0, owner := none, reading := false, tainted := false, broken := true
                             discard := match v.owner with | some o => some o | none => v.discard }
  let s := { s with poolLost := s.poolLost + qcells v }
  levelStep q v.words.length 0 (inc .QUE_POISON q (inc .QUE_BROKEN 0 (qset q v' s)))

/-- A READ (R248, R251, R253, R257). `bad`: the stored word fails parity; `brokenLink`: both link copies that lead to its cell fail,
where a link does. -/
def readWord (q : Nat) (bad brokenLink : Bool) (s : State) : ReadWord × State :=
  let v := qget s q
  if v.cut then (⟨0, true, true, false⟩, qset q { v with cut := false } s)
  else if wholePackets v = 0 then (⟨0, false, true, false⟩, s)
  else if cutOff v 0 ∨ (brokenLink ∧ v.head = 0 ∧ v.first ≠ 0) then (⟨0, true, false, true⟩, breakQueue q s)
  else
    match v.words with
    | [] => (⟨0, false, true, false⟩, s)
    | w :: _ =>
      let psn := w.psn || w.bad || bad || v.tainted
      let v' := { popMany v 1 with reading := !w.fin, tainted := psn && !w.fin }
      let s := levelStep q v.words.length (v.words.length - 1) (qset q v' s)
      (⟨w.data, w.fin, false, psn⟩, if psn then inc .QUE_POISON q s else s)

/-- A DROP (R257): the rest of the current packet, or the whole head packet, as far as links lead (R248); answers whether it removed
anything. -/
def dropPacket (q : Nat) (s : State) : Bool × State :=
  let v := qget s q
  let n := headLen v.words
  let m := reachWords v n
  if wholePackets v = 0 ∨ m = 0 then (false, s)
  else
    let v' := { popMany v m with reading := decide (m < n) && v.reading, tainted := decide (m < n) && v.tainted }
    (true, levelStep q v.words.length (v.words.length - m) (incBy .QUE_DROPPED m q (qset q v' s)))

/-- A FLUSH (R257 to R259): cells that no link leads to are lost (R248). -/
def flushQueue (q : Nat) (s : State) : State :=
  let v := qget s q
  let v' := { emptied v with openLen := 0, owner := none, reading := false, tainted := false
                             discard := match v.owner with | some o => some o | none => v.discard
                             cut := v.cut || v.reading }
  let m := reachWords v v.words.length
  let s := if m < v.words.length then { s with poolLost := s.poolLost + (qcells v - (v.head + m) / 7) } else s
  let s := if v.reading then inc .QUE_FLUSH_CUTS q s else s
  let s := inc .QUE_FLUSHES q (qset q v' s)
  if v.words.isEmpty then s else levelStep q v.words.length 0 s

/-- A disable flushes a queue whose writes are in flight (R257): of the writes that wait, those of a writer in discard-to-end are
dropped up to its END and counted (R258), the others are withdrawn. -/
def abandonQueue (q : Nat) (s : State) : State :=
  let s := flushQueue q s
  let v := qget s q
  let mine := (v.waiting.filter fun x => decide (some x.1 = v.discard)).map (·.2.1)
  incBy .QUE_FLUSH_DISCARD (headLen mine) q
    (qset q { v with waiting := [], discard := if mine.any (·.fin) then none else v.discard } s)

/-- A reader whose packet a flush has cut reads the word that says so, and goes on (R258). -/
def passCut (q : Nat) (s : State) : State := if (qget s q).cut then (readWord q false false s).2 else s

/-- Read the words of a packet up to its END, at most n. -/
def readWords (q : Nat) : Nat → State → (List Word × Bool) × State
  | 0, s => (([], false), s)
  | n + 1, s =>
    let r := readWord q false false s
    if r.1.nv then (([], false), r.2)
    else if r.1.fin then (([r.1.data], r.1.psn), r.2)
    else
      let t := readWords q n r.2
      ((r.1.data :: t.1.1, r.1.psn || t.1.2), t.2)

/-- Read a whole packet: its words, and whether any carries PSN: then the consumer discards it (R251). No words: there is none. -/
def readWhole (q n : Nat) (s : State) : (List Word × Bool) × State := readWords q n (passCut q s)

/-- QUE_STATE (R248, R258). -/
def queueState (v : Queue) : Nat :=
  if v.broken then 3 else if v.discard.isSome then 2 else if v.openLen = 0 then 0 else 1

end Sys2Proof.Machine
end

