-- ==== Sys2Proof/Machine/FaultOps.lean ====
section
/-! DEFINITION. The fault log (R409, R420), the assignment of void causes to shots (R413), and edge FIFO flushes and the
end of a run with work in flight (R90, R267). -/

namespace Sys2Proof.Machine

/-- A run is in progress: RUNNING or STOPPING. -/
def inRun (s : State) : Bool := rn s .PKG_RUN_STATE = 1 ∨ rn s .PKG_RUN_STATE = 2

/-- Fault class codes (R409). -/
def clsVoid : Nat := 0x01
def clsRunEnd : Nat := 0x02
def clsRfClock : Nat := 0x03
def clsBiasRef : Nat := 0x04
def clsMgmtClock : Nat := 0x05
def clsDram : Nat := 0x06
def clsLink : Nat := 0x07
def clsScrub : Nat := 0x08
def clsEngine : Nat := 0x09
def clsThermal : Nat := 0x0A
def clsShutdown : Nat := 0x10
def clsKeystone : Nat := 0x11
def clsSupply : Nat := 0x12
def clsFuse : Nat := 0x13

/-- The suppression window of R420 for the present instant: the present shot, or outside a run one millisecond. -/
def logWindow (s : State) : FaultLog :=
  if s.run.opened then
    let n := rn s .PKG_SHOT
    if s.flog.shot = some n then s.flog else { shot := some n, since := s.elapsed, seen := [] }
  else if s.flog.shot = none ∧ s.elapsed < s.flog.since + msT then s.flog
  else { shot := none, since := s.elapsed, seen := [] }

/-- The two words of a fault-log packet (R420). -/
def faultWords (cls detail unit shot grain : Nat) : List Word :=
  [word (cls * 2 ^ 56 + detail * 2 ^ 48 + unit * 2 ^ 32 + shot), word grain]

/-- A fault (R409, R420): the class's objects, and a log entry unless the combination was logged in this window. -/
def logFault (cls detail unit grain : Nat) (s : State) : State :=
  let s := if rn s .FLT_FLAG cls = 0 then wr .FLT_FIRST_GRAIN grain cls s else s
  let s := inc .FLT_COUNT cls (flag .FLT_FLAG cls s)
  let s := wr .FLT_LAST_DETAIL detail cls (wr .FLT_LAST_UNIT unit cls (wr .FLT_LAST_GRAIN grain cls s))
  if cls = clsSupply ∨ cls = clsFuse then s
  else
    let w := logWindow s
    if w.seen.contains (cls, detail, unit) then inc .FLT_LOG_SUPPRESSED 0 { s with flog := w }
    else
      let s := { s with flog := { w with seen := (cls, detail, unit) :: w.seen } }
      logPacket 0x3000 (faultWords cls detail unit (rn s .PKG_SHOT) grain) s

/-- Mark the shot at a position of the run's list void for a cause. -/
def markShot (i cause : Nat) (s : State) : State :=
  match s.run.shots[i]? with
  | none => s
  | some sh =>
    let sh' := { sh with causes := setBit sh.causes cause true }
    { s with run := { s.run with shots := setAt s.run.shots i sh' } }

/-- The position of the shot that holds a grain (R84). -/
def shotAt (shots : List Shot) (g : Nat) : Option Nat :=
  shots.findIdx? fun sh => decide (sh.start ≤ g) && decide (g < sh.start + sh.len)

/-- A void cause at a grain (R413): it goes to the shot that holds the grain, to the current shot when that shot has
closed, or is kept for a shot still unknown. Outside a run, and before the first shot for a cause of detection, there is
no shot to void. -/
def voidAt (cause unit g : Nat) (s : State) : State :=
  match s.run.shots with
  | [] =>
    if inRun s ∧ (s.run.nextStart ≤ g ∨ cause ≤ 1) then
      logFault clsVoid cause unit g { s with run := { s.run with future := (g, cause) :: s.run.future } }
    else s
  | sh :: _ =>
    if g < sh.start then
      if s.run.opened ∨ cause ≤ 1 then logFault clsVoid cause unit g (markShot 0 cause s) else s
    else
      match shotAt s.run.shots g with
      | some i => logFault clsVoid cause unit g (markShot i cause s)
      | none =>
        if s.run.ending.isNone then
          logFault clsVoid cause unit g { s with run := { s.run with future := (g, cause) :: s.run.future } }
        else s

/-- A void cause detected now. -/
def voidNow (cause unit : Nat) (s : State) : State := voidAt cause unit s.tml s

/-- A void cause of the shot with a given number: the shot an engine expands (R78), the shot a record belongs to. -/
def voidNum (cause unit num : Nat) (s : State) : State :=
  match s.run.shots.findIdx? (fun sh => decide (sh.num = num)) with
  | some i => logFault clsVoid cause unit s.tml (markShot i cause s)
  | none => s

/-- Commands of an edge FIFO that a flush discards: those arrived and not taken, those still being written, and those
taken whose release has not come. -/
def flushCount (v : Fifo) : Nat :=
  sumN (v.cmds.map fun c => 1 + c.unit.length) + v.unit.length + v.incoming.length + sumN (v.path.map fun c => 1 + c.unit.length)

/-- The grain of the next shot boundary that is known and not yet taken: the opening of the first shot, or the closing
boundary of the current one once the next shot is known or the run is ending. -/
def nextBoundary (s : State) : Option Nat :=
  match s.run.shots with
  | [] => none
  | sh :: rest =>
    if !s.run.opened then some sh.start
    else if !rest.isEmpty ∨ s.run.ending.isSome then some (sh.start + sh.len)
    else none

/-- No boundary stands between now and an effect at a grain (R112, R113). -/
def beforeBoundary (s : State) (g : Nat) : Bool := match nextBoundary s with | some b => decide (g < b) | none => true

/-- An edge FIFO flush (R267): the read pointer takes the write pointer, and the flushed commands count; a write half that holds
words of an unfinished command enters discard-to-end. DESIGN CHOICE: the order of R57 and the count of R42 begin anew (log 66). -/
def flushFifo (f : Nat) (s : State) : State :=
  let v := fget s f
  incBy .QUE_EF_FLUSHED (flushCount v) f
    (fset f { v with incoming := [], unit := [], cmds := [], path := [], rp := v.wp, last := none, same := 0
                     part := [], dte := v.dte || !v.part.isEmpty } s)

/-- Commands in a staging store. -/
def storeCount (v : Fifo) : Nat := sumN (v.store.map fun x => x.cmds.length)

/-- ABORT on one edge FIFO (R90): flush and empty the staging store, all counted in the feeding engine's ENG_DISCARD; the engine
finishes a command that it has begun to write, and that is discarded and counted too. -/
def abortFifo (f : Nat) (s : State) : State :=
  let v := fget s f
  let begun := b2n (v.dte || !v.part.isEmpty)
  let s := incBy .ENG_DISCARD (flushCount v + storeCount v + begun) (fifoEng f) s
  let s := incBy .TML_F_INACTIVE (b2n v.dteIn) f (incBy .QUE_EF_FLUSHED begun f (flushFifo f s))
  fset f { fget s f with store := [], notes := [], dte := false, dteIn := false } s

/-- Remove every word of an engine's schedule queue and every word of its stream still to deliver, counted in
ENG_DISCARD (R87, R89, R90). `all`: the words still in DRAM count too. -/
def discardStream (all : Bool) (e : Nat) (s : State) : State :=
  let q := qget s (32 * e)
  let a := aget s e
  let left := if all then a.len - a.given else (if a.resident then a.len - a.given else a.words.length)
  let s := abandonQueue (32 * e) (incBy .ENG_DISCARD (q.words.length + q.waiting.length + left) e s)
  aset e { a with given := a.len, fetched := a.len, ended := true, words := if a.resident then a.words else [] } s

/-- The engine leaves the run's work: it reads no more words, and what it still had to write is discarded (R90). DESIGN CHOICE:
ENG_STATE reads DONE from the ABORT on, while PKG_RUN_STATE keeps RUNNING or STOPPING up to the closing boundary (log 68). -/
def abortEngine (e : Nat) (s : State) : State :=
  let v := eget s e
  if v.state = .parked ∨ v.state = .idle ∨ v.state = .reset then s
  else
    let s := v.out.foldl (fun t o => inc .QUE_EF_FLUSHED o.1 (inc .ENG_DISCARD e t)) s
    let s := discardStream false e s
    eset e { v with state := .done, out := [], loop := none, arrived := none, halted := none, gather := none
                    micro := { v.micro with at_ := none } } s

/-- A write that closed without completing leaves the segment EMPTY (R120, R126). -/
def dropWrite (c k : Nat) (s : State) : State := sset c k { sget s c k with ready := false, poison := false, filling := false } s

/-- A run ends: the entry in progress leaves its segment EMPTY, and no further entry is processed (R126). -/
def stopRefill (c : Nat) (s : State) : State :=
  let r := rfget s c
  let s := rfset c { r with on := false, busy := false } s
  match r.entries[r.next]? with
  | some e => if r.busy then dropWrite c e.1 s else s
  | none => s

/-- A profile request that still waits for a shot when the run ends applies at the final boundary (R242); one that waits for
the end of a mute goes on waiting. -/
def settleRequests (s : State) : State :=
  (List.range 8).foldl (fun t g =>
    let v := rgget t g
    match v.req with
    | some (p, c, due) =>
      if due ≠ none ∧ due = v.muteEnd then t else rgset g { v with req := some (p, c, some t.tml) } t
    | none => t) s

/-- The run is over (R85, R90, R126, R242): DONE, with how it ended, engines done, refills stopped, nothing left to open. -/
def finishRun (how : Nat) (s : State) : State :=
  let s := settleRequests ((List.range 16).foldl (fun t c => stopRefill c t) (wr .PKG_RUN_END how 0 (wr .PKG_RUN_STATE 3 0 s)))
  let s := (List.range 128).foldl (fun t e =>
    let v := eget t e
    if v.state = .reset ∨ v.state = .idle then t
    else eset e { v with state := .done, out := [], loop := none, arrived := none, halted := none, gather := none
                         micro := { v.micro with at_ := none } } t) s
  { s with run := { past := s.run.past }, flog := {} }

/-- The position of the shot that ABORT voids (R90): the one that holds TML_NOW; where no known shot holds it, the last one known,
whose closing boundary has passed. None before the first t_shot. DESIGN CHOICE: an ABORT before the first t_shot voids nothing and
ends the run in DONE at once (log 68). -/
def abortShot (s : State) : Option Nat :=
  match s.run.shots with
  | [] => none
  | sh :: rest => if s.tml < sh.start then (if s.run.opened then some 0 else none) else some ((shotAt (sh :: rest) s.tml).getD rest.length)

/-- The run ends as if host software had written ABORT (R90): no effect outside a run or once it is aborted. The shot that holds
TML_NOW is voided, and the run ends at its closing boundary; those beyond it never open. -/
def abortRun (s : State) : State :=
  if !inRun s ∨ s.run.aborted then s
  else
    let s := (List.range 128).foldl (fun t e => abortEngine e t) s
    let s := (List.range 1424).foldl (fun t f => if fget t f = {} then t else abortFifo f t) s
    match abortShot s with
    | some i =>
      let s := logFault clsVoid 7 0 s.tml (markShot i 7 s)
      { s with run := { s.run with shots := s.run.shots.take (i + 1), ending := some 3, aborted := true, stopPending := false } }
    | none => finishRun 3 s

/-- A RUN_END fault of an engine: the run ends as ABORT, and the fault is logged (R79, R100, R409). -/
def runEndFault (e : Nat) (s : State) : State := logFault clsRunEnd 0 e s.tml (abortRun s)

end Sys2Proof.Machine
end

