-- ==== Sys2Proof/Machine/DictOps.lean ====
section
/-! DEFINITION. The dictionary server's shared parts (R328 to R346): finding an object and its instance, the encoding of
values, the abort codes, and forming a response. -/

namespace Sys2Proof.Machine

/-! ### Abort codes (R345) -/

def abFrame : Nat := 0x01000001
def abCommand : Nat := 0x01000002
def abSequence : Nat := 0x01000003
def abToggle : Nat := 0x01000004
def abTimedOut : Nat := 0x01000005
def abNoObject : Nat := 0x02000001
def abNoSub : Nat := 0x02000002
def abWriteOnly : Nat := 0x02000003
def abReadOnly : Nat := 0x02000004
def abLength : Nat := 0x03000001
def abRange : Nat := 0x03000002
def abCannotRead : Nat := 0x04000001
def abCannotWrite : Nat := 0x04000002
def abInUse : Nat := 0x04000003
def abPoisoned : Nat := 0x05000001

/-- A write's or read's answer: an abort code, or a result. -/
abbrev Ans (α : Type) := Except Nat α

/-! ### Types and values (R329) -/

/-- Bytes of a typed value; STR and DOM have no fixed size. -/
def ObjType.size : ObjType → Nat
  | .bool => 1 | .u8 => 1 | .i8 => 1
  | .u16 => 2 | .i16 => 2
  | .u32 => 4 | .i32 => 4
  | .u64 => 8 | .i64 => 8
  | .str => 0 | .dom => 0

/-- The type code of R329. -/
def ObjType.code : ObjType → Nat
  | .bool => 1 | .u8 => 2 | .u16 => 3 | .u32 => 4 | .u64 => 5
  | .i8 => 6 | .i16 => 7 | .i32 => 8 | .i64 => 9 | .str => 0x0C | .dom => 0x0D

/-- Signed types. -/
def ObjType.signed : ObjType → Bool
  | .i8 => true | .i16 => true | .i32 => true | .i64 => true
  | _ => false

/-- A value from its bytes (R6, R329). -/
def decodeVal (ty : ObjType) (bs : List Byte) : Int :=
  if ty.signed then sx (8 * ty.size) (leVal bs) else leVal bs

/-- The bytes of a value (R6, R329). -/
def encodeVal (ty : ObjType) (v : Int) : List Byte := leBytes ty.size (pat (8 * ty.size) v)

/-- STR and DOM values are byte strings. -/
def ObjType.isBytes : ObjType → Bool
  | .str => true | .dom => true
  | _ => false

/-- A value obeys its object's table range (R7, R329). -/
def inRange (ty : ObjType) (r : Range) (v : Int) : Bool :=
  (ty != .bool || decide (v = 0) || decide (v = 1)) &&
  (match r with
   | .any => true
   | .span lo hi => decide (lo ≤ v) && decide (v ≤ hi)
   | .mask m => decide (v.toNat &&& m = v.toNat)
   | .only x => decide (v = x)
   | .among vs => vs.contains v)

/-! ### Finding an object (R328, R332 to R334) -/

/-- What an index and sub-index name. -/
inductive Found where
  | absent
  | noSub
  /-- sub-index 0 of a record: an RO U8 that reads the highest sub-index -/
  | highest (n : Nat)
  | obj (row : ObjRow) (i : Nat)
  deriving DecidableEq

/-- A row's table index covers an index; TON offsets 2 and 3 exist for read-out slices only (R333). -/
def ObjRow.covers (r : ObjRow) (idx : Nat) : Bool :=
  if r.stride = 0 then decide (idx = r.base)
  else decide (r.base ≤ idx) && decide ((idx - r.base) % r.stride = 0) && decide ((idx - r.base) / r.stride < r.count) &&
    (decide (r.base ≠ 0x7002 ∧ r.base ≠ 0x7003) || decide (32 ≤ (idx - r.base) / 4 % 64))

/-- Which of a row's indices. -/
def ObjRow.which (r : ObjRow) (idx : Nat) : Nat := if r.stride = 0 then 0 else (idx - r.base) / r.stride

/-- The object that an index and sub-index name (R328). -/
def findObj (idx sub : Nat) : Found :=
  let rows := objTable.filter (·.covers idx)
  match rows with
  | [] => .absent
  | _ =>
    match rows.find? (fun r => decide (r.subLo ≤ sub) && decide (sub ≤ r.subHi)) with
    | some r => .obj r (r.which idx)
    | none => if sub = 0 then .highest (maxN (rows.map (·.subHi))) else .noSub

/-- The instance of an object's stored value that a request on a path acts on (R334): a path's own copy of a selector, the
instance that the path's selector names for a window, the object's own number otherwise. Cluster windows hold 4,096
entries per cluster. -/
def instOf (s : State) (p : Path) (r : ObjRow) (i sub : Nat) : Nat :=
  let subs := r.subHi - r.subLo + 1
  if r.reg.isSelector then i * 2 + p.val
  else
    match r.sel with
    | some sl => ((if r.stride = 0 then 0 else i * 4096) + rn s sl (i * 2 + p.val)) * subs + (sub - r.subLo)
    | none => i * subs + (sub - r.subLo)

/-! ### Responses (R336 to R339, R346) -/

/-- The CAN FD data lengths above 8 (R339). -/
def canLen (n : Nat) : Nat :=
  if n ≤ 8 then n else if n ≤ 12 then 12 else if n ≤ 16 then 16 else if n ≤ 20 then 20 else if n ≤ 24 then 24
  else if n ≤ 32 then 32 else if n ≤ 48 then 48 else 64

/-- Zero padding to the next CAN FD length. -/
def padCan (bs : List Byte) : List Byte := bs ++ List.replicate (canLen bs.length - bs.length) 0

/-- A frame's bytes (R337). -/
def frameBytes (cmd : Nat) (tag : Byte) (idx sub flags : Nat) (data : List Byte) : List Byte :=
  [BitVec.ofNat 8 cmd, tag, BitVec.ofNat 8 idx, BitVec.ofNat 8 (idx / 256), BitVec.ofNat 8 sub, BitVec.ofNat 8 flags,
   BitVec.ofNat 8 data.length, BitVec.ofNat 8 (data.length / 256)] ++ data

/-- Words of a byte string, the last filled with zeros. -/
def frameWords (bs : List Byte) : List Word := leWords ((bs.length + 7) / 8) bs

/-- Send a frame on a path: the response to a request (R336), on CAN FD one frame on 0x480 + node (R339). On the host link it waits in queue 0x2001, its length in bytes
first (R317); with the link down it is lost (R322). -/
def send (p : Path) (bs : List Byte) (s : State) : State :=
  if p = 0 then
    let ps := pathOf s p
    setPath p { ps with responses := ps.responses ++ [{ id := 0x480 + rn s .LNK_CAN_NODE, data := padCan bs }] } s
  else if rn s .LNK_HL_STATE = 2 then
    writePacket 0x2001 wMge (packetWords (word bs.length :: frameWords bs)) s
  else s

/-- A response other than ABORTED; the path's request counts as answered. -/
def respond (p : Path) (cmd : Nat) (tag : Byte) (idx sub flags : Nat) (data : List Byte) (s : State) : State :=
  inc .LNK_YDP_REQUESTS p.val (send p (frameBytes cmd tag idx sub flags data) s)

/-- The two words of the abort log (R346). -/
def abortWords (code idx sub cmd : Nat) (tag : Byte) (p : Path) (grain : Nat) : List Word :=
  [word (code * 2 ^ 32 + idx * 2 ^ 16 + sub * 2 ^ 8 + cmd),
   word (tag.toNat * 2 ^ 56 + p.val * 2 ^ 48 + grain % 2 ^ 48)]

/-- ABORTED (R345, R346): the code as data, the path's counters, and a packet in log queue 0x3001. -/
def respondAbort (p : Path) (cmd : Nat) (tag : Byte) (idx sub code : Nat) (s : State) : State :=
  let s := respond p 0xFF tag idx sub 0 (leBytes 4 code) s
  let s := inc .LNK_YDP_ABORTS p.val s
  let s := wr .LNK_YDP_LAST_OBJ (idx * 256 + sub : Nat) p.val (wr .LNK_YDP_LAST_ABORT code p.val s)
  logPacket 0x3001 (abortWords code idx sub cmd tag p s.tml) s

/-- Identity objects, fault objects and life-cycle objects: what MGE serves after a fuse error (R410). -/
def fuseServed (idx : Nat) : Bool :=
  (0x1000 ≤ idx ∧ idx ≤ 0x1006) ∨ (0x2600 ≤ idx ∧ idx ≤ 0x26FF) ∨ (0x2710 ≤ idx ∧ idx ≤ 0x2715)

/-- MGE serves the dictionary (R433, R434, R410). -/
def served (s : State) : Bool := s.boot.phase = .served ∨ s.boot.phase = .fuseError

end Sys2Proof.Machine
end

