-- ==== Sys2Proof/Machine/DramOps.lean ====
section
/-! DEFINITION. DRAM accesses (R283 to R289, R297): the channel table and the three address maps, reading and writing range
addresses with parity and fences, and port levels. -/

namespace Sys2Proof.Machine

/-- Channel states (DRM_CH_STATE). -/
def chAbsent : Nat := 0
def chTraining : Nat := 1
def chReady : Nat := 2
def chFenced : Nat := 3
def chSelfref : Nat := 4

/-- Entry t of a channel table (R285): its channel when valid. -/
def tabEntry (tab t : Nat) : Option Nat :=
  let e := nfld tab (4 * t + 3) (4 * t)
  if bitOf e 3 then some (e % 8) else none

/-- The channels a table lists, in order. -/
def tabChans (tab : Nat) : List Nat := (List.range 8).filterMap (tabEntry tab)

/-- Channel capacity in bytes by organisation (R283). -/
def orgBytes (org : Nat) : Nat := if org = 1 then 2 ^ 35 else if org = 2 ∨ org = 3 then 2 ^ 36 else 0

/-- log2 of 1, 2, 4 or 8. -/
def log2of (n : Nat) : Nat := if n ≤ 1 then 0 else if n ≤ 2 then 1 else if n ≤ 4 then 2 else 3

/-- A map takes a number of channels (R285): map C a power of two. -/
def mapFits (map n : Nat) : Bool := decide (map ≠ 2) || decide (n = 1 ∨ n = 2 ∨ n = 4 ∨ n = 8)

/-- A table and a map obey R285: entries contiguous from 0, channels distinct and READY, one organisation, at least one,
and a number of them that the map takes. -/
def tableOk (s : State) (tab map : Nat) : Bool :=
  let chs := tabChans tab
  let n := chs.length
  decide (chs = (List.range n).filterMap (tabEntry tab)) && decide (n ≠ 0) && chs.Nodup &&
    chs.all (fun c => decide (rn s .DRM_CH_STATE c = chReady) && decide (rn s .DRM_CH_ORG c = rn s .DRM_CH_ORG (nthD chs 0 0))) &&
    mapFits map n

/-- k bits of an address from bit p. -/
def bitsAt (x p k : Nat) : Nat := x / 2 ^ p % 2 ^ k

/-- The table entry and channel offset of a range address (R287, R288). -/
def splitAddr (map n size x : Nat) : Nat × Nat :=
  if map = 2 then
    let k := log2of n
    (bitsAt x 7 k ^^^ bitsAt x 17 k ^^^ bitsAt x 27 k, x / 2 ^ (7 + k) * 128 + x % 128)
  else (x / size, x % size)

/-- A byte of a channel as its components hold it (R287, R288): rank, row, bank with its group BG in bits 4 to 2 and BA in bits 1
and 0, burst column, subchannel, and byte within the burst. -/
structure DramPlace where
  rank : Nat
  row : Nat
  bank : Nat
  column : Nat
  sub : Nat
  byte : Nat
  deriving DecidableEq, Repr

/-- The fields of a channel offset under a map (R287): maps B and C share one layout (R288). -/
def offsetPlace (map org o : Nat) : DramPlace :=
  { rank := if org = 2 then bitsAt o 35 1 else 0
    row := bitsAt o 19 (if org = 3 then 17 else 16)
    bank := if map = 0 then bitsAt o 14 5 else bitsAt o 7 5
    column := if map = 0 then bitsAt o 7 7 else bitsAt o 12 7
    sub := bitsAt o 6 1
    byte := bitsAt o 0 6 }

/-- The channel and offset of a range address; none outside the range. -/
def mapAddr (s : State) (x : Nat) : Option (Nat × Nat) :=
  if x < rn s .DRM_RANGE then
    let chs := tabChans (rn s .DRM_CHTAB)
    let p := splitAddr (rn s .DRM_MAP) chs.length (orgBytes (rn s .DRM_CH_ORG (nthD chs 0 0))) x
    some (nthD chs p.1 0, p.2)
  else none

/-- The channel of a range address and the place in its components. -/
def mapPlace (s : State) (x : Nat) : Option (Nat × DramPlace) :=
  (mapAddr s x).map fun p => (p.1, offsetPlace (rn s .DRM_MAP) (rn s .DRM_CH_ORG p.1) p.2)

/-- n bytes of the range from an address reach a channel. Maps A and B give each channel one span of the range; under map C any 16
consecutive pieces of 128 bytes reach every channel. -/
def reaches (s : State) (c x n : Nat) : Bool :=
  if rn s .DRM_MAP = 2 then
    (List.range (min 16 ((x % 128 + n + 127) / 128))).any fun i => ((mapAddr s (x / 128 * 128 + 128 * i)).map (·.1)) == some c
  else
    let size := orgBytes (rn s .DRM_CH_ORG c)
    (List.range 8).any fun t => tabEntry (rn s .DRM_CHTAB) t == some c && decide (x < (t + 1) * size) && decide (t * size < x + n)

/-- The storage address of a channel's byte. -/
def cellAddr (c : Nat × Nat) : Nat := c.1 * 2 ^ 36 + c.2

def dch (s : State) (c : Nat) : DramCh := mget {} s.dram.chans c
def setDch (c : Nat) (v : DramCh) (s : State) : State := { s with dram := { s.dram with chans := mput {} s.dram.chans c v } }

/-- A request for n bytes of the range waits on its handshake: the controller trains, or a channel that the request reaches is in
a retraining step (R295, R296). -/
def dramWaits (s : State) (x n : Nat) : Bool :=
  decide (rn s .DRM_STATE = 1) || (List.range 8).any fun c => (dch s c).retrain.isSome && reaches s c x n

/-- The eight bytes stored from an address. -/
def dramBytes (m : SMap Byte) (a n : Nat) : List Byte := (List.range n).map fun i => mget 0 m (a + i)

/-- One 8-byte word of the range at a multiple of 8 (R284, R297): data and PSN. A word outside the range reads poison. -/
def dramWord (s : State) (x : Nat) : Word × Bool :=
  match mapAddr s x with
  | none => (0, true)
  | some c =>
    if rn s .DRM_CH_STATE c.1 = chFenced then (0, true)
    else (word (leVal (dramBytes s.dram.cells (cellAddr c) 8)), s.dram.bad.contains (cellAddr c))

/-- A reader's or writer's port of R289 requested a fenced channel. -/
def fenceHit (port : Nat) (s : State) : State := if port ≤ 18 then flag .DRM_P_FENCE_HIT port s else s

/-- The counters of one burst read at a range address (R284, R297). -/
def countBurstRead (port x : Nat) (s : State) : State :=
  match mapAddr s x with
  | none => s
  | some c =>
    if rn s .DRM_CH_STATE c.1 = chFenced then fenceHit port (inc .DRM_CH_FENCE_READS c.1 s)
    else
      (List.range 8).foldl (fun t i =>
        if t.dram.bad.contains (cellAddr c + 8 * i) then
          let t := if rn t .DRM_CH_PAR_ERR c.1 = 0 then wr .DRM_CH_FIRST_PAR (x + 8 * i : Nat) c.1 t else t
          inc .DRM_CH_PAR_ERR c.1 t
        else t) s

/-- Buffer size of a port (R289). -/
def portSize (p : Nat) : Nat := if p < 16 then 32768 else if p < 18 then 65536 else 262144

/-- A port writes to DRAM: the acquisition writers. -/
def portWrites (p : Nat) : Bool := p = 16 ∨ p = 17

/-- Present level of a port (R289): a read port starts empty, a write port with its whole buffer free (log 1). -/
def portLevel (s : State) (p : Nat) : Nat :=
  ((if portWrites p then (portSize p : Int) else 0) + mget 0 s.dram.levels p).toNat

/-- A port is in panic while its level is at or below DRM_P_PANIC (R289), whether it has work or not (log 44). -/
def portPanic (s : State) (p : Nat) : Bool := decide (portLevel s p ≤ rn s .DRM_P_PANIC p)

/-- Some port is in panic. -/
def anyPanic (s : State) : Bool := (List.range 19).any (portPanic s)

/-- An entry into panic counts (R289). -/
def settlePanic (p : Nat) (s : State) : State :=
  let now := portPanic s p
  let was := s.dram.panic.contains p
  if now = was then s
  else
    let s := { s with dram := { s.dram with panic := if now then p :: s.dram.panic else s.dram.panic.filter fun x => decide (x ≠ p) } }
    if now then inc .DRM_P_PANICS p s else s

/-- Set a port's level (R289). -/
def setLevel (p : Nat) (v : Nat) (s : State) : State :=
  let base : Int := if portWrites p then (portSize p : Int) else 0
  settlePanic p { s with dram := { s.dram with levels := mput 0 s.dram.levels p ((satN (portSize p) v : Nat) - base) } }

/-- The words of the burst at a range address that is a multiple of 64, as they are now. -/
def burstWords (s : State) (b : Nat) : List (Nat × Word × Bool) := (List.range 8).map fun i => (b + 8 * i, dramWord s (b + 8 * i))

/-- The words that a requester has fetched and not taken. -/
def heldOf (s : State) (port : Nat) : List (Nat × Word × Bool) := mget [] s.dram.held port
def setHeld (port : Nat) (ws : List (Nat × Word × Bool)) (s : State) : State :=
  { s with dram := { s.dram with held := mput [] s.dram.held port ws } }

/-- A requester begins another stream of reads: what it has fetched and not taken goes. -/
def dropHeld (port : Nat) (s : State) : State :=
  let s := setHeld port [] s
  if port ≤ 18 then setLevel port 0 s else s

/-- Read n words from a range address that is a multiple of 8: the words with their PSN tags. Those that wait in the requester's
buffer are as they were when they were fetched (R297); the other bursts are fetched whole and counted (R284). -/
def dramRead (port x n : Nat) (s : State) : List (Word × Bool) × State :=
  let held := heldOf s port
  let first := x / 64
  let count := (x + 8 * n + 63) / 64 - first
  let ws := (List.range n).map fun i =>
    match held.find? fun w => decide (w.1 = x + 8 * i) with
    | some w => w.2
    | none => dramWord s (x + 8 * i)
  let left := held.filter fun w => !decide (first ≤ w.1 / 64 ∧ w.1 / 64 < first + count)
  let s := (span first count).foldl (fun t b =>
    if held.any fun w => decide (w.1 / 64 = b) then t else countBurstRead port (64 * b) t) s
  let s := setHeld port left s
  (ws, if port ≤ 18 then setLevel port (portLevel s port - 8 * (held.length - left.length)) s else s)

/-- Write one byte of the range; a fenced channel drops it (R297). -/
def dramPutByte (x : Nat) (b : Byte) (s : State) : State :=
  match mapAddr s x with
  | none => s
  | some c =>
    if rn s .DRM_CH_STATE c.1 = chFenced then s
    else
      let a := cellAddr c
      { s with dram := { s.dram with cells := mput 0 s.dram.cells a b, bad := s.dram.bad.erase (a - a % 8) } }

/-- The counters of one burst written at a range address (R297). -/
def countBurstWrite (port x : Nat) (s : State) : State :=
  match mapAddr s x with
  | none => s
  | some c => if rn s .DRM_CH_STATE c.1 = chFenced then fenceHit port (inc .DRM_CH_FENCE_WRITES c.1 s) else s

/-- Write bytes from a range address; whole bursts are counted. -/
def dramWrite (port x : Nat) (bs : List Byte) (s : State) : State :=
  let s := (List.range ((x % 64 + bs.length + 63) / 64)).foldl (fun t b => countBurstWrite port (x - x % 64 + 64 * b) t) s
  (List.range bs.length).foldl (fun t i => dramPutByte (x + i) (nthD bs i 0) t) s

/-- The bytes of words, least significant byte first (R6). -/
def wordsBytes (ws : List Word) : List Byte := (ws.map fun w => leBytes 8 w.toNat).flatten

/-- DRM_STATE reads DEGRADED while a listed channel is fenced and READY otherwise, once training and the wipe are over. -/
def settleState (s : State) : State :=
  if rn s .DRM_STATE = 3 ∨ rn s .DRM_STATE = 4 then
    wr .DRM_STATE (if (tabChans (rn s .DRM_CHTAB)).any (fun c => rn s .DRM_CH_STATE c = chFenced) then 4 else 3) 0 s
  else s

/-- A channel is fenced (R297): its state, the fault, the controller's state, its share of a wipe in progress or paused (R302). A
channel that is fenced already has no share. -/
def fenceChannel (c : Nat) (s : State) : State :=
  let share := decide (rn s .DRM_CH_STATE c ≠ chFenced) && (tabChans (rn s .DRM_CHTAB)).contains c &&
    (decide (rn s .DRM_STATE = 2) || s.dram.wipePaused)
  let s := if rn s .DRM_CH_STATE c = chFenced then s else logFault clsDram 0 c s.tml s
  let s := wr .DRM_CH_TRAIN 3 c (wr .DRM_CH_STATE chFenced c s)
  let s := if share then wr .DRM_WIPE_TOTAL (rn s .DRM_WIPE_TOTAL - orgBytes (rn s .DRM_CH_ORG c) : Nat) 0 s else s
  settleState (setDch c { dch s c with retrain := none } s)

end Sys2Proof.Machine
end

