-- ==== Sys2Proof/Machine/SegmentOps.lean ====
section
/-! DEFINITION. Segment memory (R116 to R126): descriptors, states, host writes and the refill port. -/

namespace Sys2Proof.Machine

/-- Sample words of a cluster's segment memory (R116). -/
def segWords : Nat := 376832

/-- Key of a sample word. -/
def memKey (c a : Nat) : Nat := c * 2 ^ 19 + a

/-- A stored sample word. -/
def sampleWord (s : State) (c a : Nat) : Nat := mget 0 s.segMem (memKey c a)

/-- I and Q of a sample word (R116). -/
def sampleI (w : Nat) : Int := sx 16 w
def sampleQ (w : Nat) : Int := sx 16 (w / 65536)

/-- ACTIVE (R117, R118): a slice of the cluster plays a pass of the segment. -/
def segActive (s : State) (c k : Nat) : Bool :=
  s.slices.any fun e => decide (fifoClu e.1 = c) &&
    (match e.2.play with | some p => decide (p.seg = k) && !p.cut | none => false)

/-- CLU_SEG_STATE (R118). -/
def segState (s : State) (c k : Nat) : Nat :=
  let g := sget s c k
  if g.poison then 4 else if g.filling then 1 else if segActive s c k then 3 else if g.ready then 2 else 0

/-- The descriptor as it reads (R117). -/
def segDesc (s : State) (c k : Nat) : Nat :=
  let g := sget s c k
  g.start * 2 ^ 45 + g.len * 2 ^ 26 + g.gen * 2 ^ 18 + b2n g.loop * 16 + b2n (segActive s c k) * 8 + b2n g.ready * 4 + b2n g.poison * 2

/-- A segment that may not be written (R119). -/
def segBusy (s : State) (c k : Nat) : Bool := segActive s c k || (sget s c k).filling

/-- A descriptor write by host software (R119). -/
def writeDesc (c k : Nat) (v : Nat) (s : State) : Ans State :=
  let start := nfld v 63 45
  let len := nfld v 44 26
  if nfld v 17 5 ≠ 0 ∨ bitOf v 0 ∨ len = 0 ∨ segWords < start + len then .error abRange
  else if segBusy s c k then .error abCannotWrite
  else .ok (sset c k { sget s c k with start := start, len := len, loop := bitOf v 4, ready := false } s)

/-- Store sample words from an address of a cluster's memory; a rewritten word is sound again. -/
def storeSamples (c : Nat) : Nat → List Nat → State → State
  | _, [], s => s
  | a, w :: ws, s =>
    storeSamples c (a + 1) ws
      { s with segMem := mput 0 s.segMem (memKey c a) (w % 2 ^ 32), segBad := s.segBad.filter (fun x => decide (x ≠ memKey c a)) }

/-- 32-bit words of a byte string. -/
def words32 : Nat → List Byte → List Nat
  | 0, _ => []
  | n + 1, bs => leVal (bs.take 4) :: words32 n (bs.drop 4)

/-- A completed sample write (R119). -/
def completeWrite (c k : Nat) (s : State) : State :=
  let g := sget s c k
  sset c k { g with ready := true, poison := false, filling := false, gen := (g.gen + 1) % 256 } s

/-- The segment becomes FILLING (R118, R120, R125). -/
def beginWrite (c k : Nat) (s : State) : State := sset c k { sget s c k with ready := false, poison := false, filling := true } s

/-- The length and state checks of a write of CLU_SEG_DATA (R119, R120). -/
def checkSegData (c k total : Nat) (s : State) : Ans Unit :=
  let g := sget s c k
  if g.len = 0 ∨ total ≠ 4 * g.len then .error abLength
  else if segBusy s c k then .error abCannotWrite
  else .ok ()

/-- A whole write of CLU_SEG_DATA (R120). -/
def writeSegData (c k : Nat) (bs : List Byte) (s : State) : Ans State :=
  (checkSegData c k bs.length s).map fun _ =>
    completeWrite c k (storeSamples c (sget s c k).start (words32 (sget s c k).len bs) (beginWrite c k s))

/-- The samples of a segment as bytes (R120). -/
def readSegData (s : State) (c k : Nat) : List Byte :=
  let g := sget s c k
  ((List.range g.len).map fun i => leBytes 4 (sampleWord s c (g.start + i))).flatten

/-- The first sample of a segment, at or after none, whose stored word fails parity. -/
def firstBad (s : State) (c addr len : Nat) : Option Nat :=
  (s.segBad.filterMap fun x => if memKey c addr ≤ x ∧ x < memKey c addr + len then some (x - memKey c addr) else none).foldl
    (fun m x => match m with | none => some x | some y => some (min x y)) none

/-- A run's shot number has been reached: shot PKG_RUN_SHOT0 + AFTER has opened (R124). -/
def shotOpened (s : State) (after : Nat) : Bool :=
  s.run.opened && decide (after ≤ (rn s .PKG_SHOT + 2 ^ 32 - rn s .PKG_RUN_SHOT0) % 2 ^ 32)

/-- An RF die's sample clock is qualified: its RFPLL monitor (R31, R373). -/
def rfOk (s : State) (d : Nat) : Bool := rn s .CLK_MON_STATE (5 + d) = 2

/-- REFILL_ENTRY_START (R125): the refill port of a die whose clock is not qualified is held in reset (R31). -/
def execRefillEntryStart (c : CluNo) (s : State) : Out :=
  let r := rfget s c.val
  match r.entries[r.next]? with
  | none => .next s
  | some e =>
    if rfOk s (cluDie c.val) ∧ r.on ∧ !r.busy ∧ shotOpened s e.2.1 ∧ !segBusy s c.val e.1 then
      .next (rfset c.val { r with busy := true } (beginWrite c.val e.1 (dropHeld c.val s)))
    else .next s

/-- REFILL_ENTRY_DONE (R125): the copy of 4 * LENGTH bytes through the cluster's refill port. -/
def execRefillEntryDone (c : CluNo) (s : State) : Out :=
  let r := rfget s c.val
  match r.entries[r.next]? with
  | none => .next s
  | some e =>
    let g := sget s c.val e.1
    if !rfOk s (cluDie c.val) ∨ !r.busy ∨ dramWaits s e.2.2 (4 * g.len) then .next s
    else
      let rd := dramRead c.val e.2.2 ((g.len + 1) / 2) s
      let s := storeSamples c.val g.start (words32 g.len (wordsBytes (rd.1.map (·.1)))) rd.2
      let s := if rd.1.any (·.2) then
          inc .CLU_SEG_POISONED c.val (sset c.val e.1 { sget s c.val e.1 with filling := false, ready := false, poison := true } s)
        else completeWrite c.val e.1 s
      .next (inc .CLU_REFILL_DONE c.val (rfset c.val { r with busy := false, next := r.next + 1 } s))

end Sys2Proof.Machine
end

