-- ==== Sys2Proof/Machine/Playback.lean ====
section
/-! DEFINITION. What the abutments of tone, flux and bias slices do at a command's release (R43 to R51, R106 to R131): PLAY,
JUMP, HOLD, FREQ, PHASE, FLUX, BIAS, MARK, sampling points and segment boundaries. -/

namespace Sys2Proof.Machine

/-- A bias die's forwarded reference is qualified (R375). -/
def bdOk (s : State) (b : Nat) : Bool := bitOf s.bdQual b

/-- The clock of an edge FIFO's die is qualified (R31). -/
def fifoClockOk (s : State) (f : Nat) : Bool :=
  match fifoKind f with
  | .bias => bdOk s (fifoClu f / 8)
  | _ => rfOk s (cluDie (fifoClu f))

/-- Opcode, FINE and RELEASE fields of an edge command's word 0 (R40). -/
def edgeOp (w0 : Word) : Nat := fld w0 7 0
def edgeFine (w0 : Word) : Nat := fld w0 15 13
def edgeRelease48 (w0 : Word) : Nat := fld w0 63 16

/-- The instant of a command in DAC samples (R34, R55): FINE counts on tone slices, for MARK and in the capture FIFO; that of a
SELECT places nothing (R54). -/
def instantOf (f : Nat) (c : EdgeCmd) : Nat :=
  8 * c.release + if edgeOp c.w0 = 0x0B then 0 else (match fifoKind f with
    | .drive => edgeFine c.w0
    | .readout => edgeFine c.w0
    | .capture => edgeFine c.w0
    | _ => if edgeOp c.w0 = 0x09 then edgeFine c.w0 else 0)

/-- The command due for release in an edge FIFO when it has a given opcode: the first of the release path, its grain
reached, its die's clock qualified, and no shot boundary before it outstanding (R28, R31, R113). -/
def dueCmd (s : State) (f op : Nat) : Option EdgeCmd :=
  match (fget s f).path with
  | [] => none
  | c :: _ => if edgeOp c.w0 = op ∧ c.release ≤ s.tml ∧ fifoClockOk s f ∧ beforeBoundary s c.release then some c else none

/-- Take the first command of the release path; a nonzero FINE on a flux or bias slice is ignored and counted (R55). -/
def takeDue (f : Nat) (c : EdgeCmd) (s : State) : State :=
  let v := fget s f
  let s := fset f { v with path := v.path.drop 1 } s
  if (fifoKind f = .flux ∨ fifoKind f = .bias) ∧ edgeOp c.w0 ≠ 0x09 ∧ edgeFine c.w0 ≠ 0 then inc .TML_FINE_IGNORED 0 s else s

/-- Increment a counter of the TON_ objects: flux slices have none. -/
def tinc (r : Reg) (n f : Nat) (s : State) : State := if f < 1024 then incBy r n f s else s

/-- The flux channel of a flux FIFO. -/
def fluxOf (f : Nat) : Nat := f - 1024

/-- One code unit of flux values: 24 fraction bits (R144). -/
def flux1 : Int := 16777216

/-- The flux input that a playback gives at sample k: GAIN times I (R43, R141), exact in 24 fraction bits. -/
def fluxSample (s : State) (c : Nat) (p : Play) (k : Nat) : Int := p.gain * sampleI (sampleWord s c (p.addr + k)) * 512

/-- A playback ends at an instant: the slice goes to its fill; a flux slice keeps the last sample played (R141). -/
def endPlay (f : Nat) (instant : Int) (s : State) : State :=
  let v := slget s f
  match v.play with
  | none => s
  | some p =>
    let s := slset f { v with play := none, ended := (instant, p) :: v.ended } s
    let k := ((instant - p.start) / 8).toNat
    if 1024 ≤ f ∧ p.start < instant ∧ !p.cut ∧ rn s .FLX_ZERO_CAUSE (fluxOf f) = 0 then
      flxset (fluxOf f) { flxget s (fluxOf f) with x := fluxSample s (fifoClu f) p (min (k - 1) (p.len - 1)) } s
    else s

/-- Every JUMP not taken is discarded and counted, and a jump taken is discarded with them (R129). -/
def dropJumps (f : Nat) (s : State) : State :=
  let v := slget s f
  let v' := { v with jumps := [], play := v.play.map fun p => { p with taken := none } }
  tinc .TON_JUMP_REPLACED v.jumps.length f (slset f v' s)

/-- The first sample that a slice has still to read of its pass and that fails parity: given with the pass, or marked in the
memory by now. -/
def nextBad (s : State) (c : Nat) (p : Play) : Option Nat :=
  let own := p.badAt.filter fun k => decide (p.read ≤ k)
  let marked := (firstBad s c (p.addr + p.read) (p.len - p.read)).map (p.read + ·)
  match own, marked with
  | none, b => b
  | a, none => a
  | some a, some b => some (min a b)

/-- A slice reads a word that fails parity (R121): sample k of its pass. -/
def cutPass (f : Nat) (p : Play) (k : Nat) (s : State) : State :=
  let c := fifoClu f
  let at_ := p.start + 8 * k
  let s := sset c p.seg { sget s c p.seg with poison := true, ready := false } s
  let s := inc .CLU_SEG_POISONED c (tinc .TON_POISON_PLAY 1 f s)
  let key := memKey c (p.addr + k)
  let s := if s.segBad.contains key then s else { s with segBad := key :: s.segBad }
  let s := voidAt 3 f (at_ / 8).toNat s
  let v := slget s f
  let s := tinc .TON_JUMP_REPLACED v.jumps.length f (slset f { v with jumps := [] } s)
  match p.taken with
  | none => endPlay f at_ s
  | some _ => slset f { slget s f with play := some { p with cut := true } } (endPlay f at_ s)

/-- A slice reads the samples of its pass up to an instant (R121): a sample due at the instant at which a command replaces the pass is
not read. -/
def applyCut (f : Nat) (upTo : Int) (s : State) : State :=
  let v := slget s f
  match v.play with
  | none => s
  | some p =>
    if p.cut ∨ upTo < p.start then s
    else
      let got := max p.read (min p.len (((upTo - p.start) / 8).toNat + 1))
      match nextBad s (fifoClu f) p with
      | some k => if k < got then cutPass f p k s else slset f { v with play := some { p with read := got } } s
      | none => slset f { v with play := some { p with read := got } } s

/-- A segment due for playback is not READY (R128). -/
def notReady (f grain : Nat) (s : State) : State :=
  let s := flag .CLU_REFILL_UNDERRUN (fifoClu f) (tinc .TON_NOT_READY 1 f s)
  voidAt 4 f grain s

/-- Start a pass of a READY segment at an instant (R127, R130). -/
def startPass (f seg : Nat) (gain instant : Int) (left : Option Nat) (fromBoundary : Bool) (badAt : Option Nat)
    (s : State) : State :=
  let g := sget s (fifoClu f) seg
  let p : Play := { seg := seg, gain := gain, start := instant, len := g.len, addr := g.start, left := left,
                    fromBoundary := fromBoundary, badAt := badAt.filter fun k => decide (k < g.len) }
  applyCut f instant (slset f { slget s f with play := some p } s)

/-- A FLUX or PLAY released while a zero cause is in force on a flux slice is discarded (R148). -/
def zeroed (s : State) (f : Nat) : Bool := fifoKind f = .flux ∧ rn s .FLX_ZERO_CAUSE (fluxOf f) ≠ 0

/-- PLAY at its release (R43, R127, R128). -/
def execPlay (f : FifoNo) (badAt : Option Nat) (s : State) : Out :=
  match dueCmd s f.val 0x01 with
  | none => .next s
  | some c =>
    let s := takeDue f.val c s
    let t := instantOf f.val c
    if zeroed s f.val then .next (inc .FLX_ZERO_DISCARD (fluxOf f.val) s)
    else
      let seg := fld c.w1 63 52
      let s := endPlay f.val t (dropJumps f.val (applyCut f.val ((t : Int) - 1) s))
      let g := sget s (fifoClu f.val) seg
      if g.ready then
        let rep := fld c.w1 35 20
        let left := if g.loop then (if rep = 0xFFFF then none else some rep) else some 0
        .next (startPass f.val seg (sx 16 (fld c.w1 51 36)) t left false badAt s)
      else .next (notReady f.val c.release s)

/-- The sampling point of the present pass (R129). -/
def samplingPoint (p : Play) : Int := max p.start (p.start + 8 * p.len - 128)

/-- JUMP at its release (R44, R129). -/
def execJump (f : FifoNo) (s : State) : Out :=
  match dueCmd s f.val 0x02 with
  | none => .next s
  | some c =>
    let t := instantOf f.val c
    let s := applyCut f.val t (takeDue f.val c s)
    let v := slget s f.val
    match v.play with
    | none => .next (tinc .TON_LATE_JUMP 1 f.val s)
    | some p =>
      if p.cut then .next (tinc .TON_LATE_JUMP 1 f.val s)
      else
        let late := decide (samplingPoint p < (t : Int)) || (p.fromBoundary && decide ((t : Int) = p.start))
        let s := slset f.val { v with jumps := v.jumps ++ [((t : Int), fld c.w1 63 52)] } s
        .next (if late then tinc .TON_LATE_JUMP 1 f.val s else s)

/-- The latest JUMP released at or before the sampling point is taken; those it displaces are counted (R129). -/
def sampleJumps (f : Nat) (p : Play) (s : State) : State :=
  let v := slget s f
  let sp := samplingPoint p
  let due := v.jumps.filter fun j => decide (j.1 ≤ sp)
  let rest := v.jumps.filter fun j => !decide (j.1 ≤ sp)
  let p' := { p with sampled := true, taken := due.getLast?.map (·.2) }
  tinc .TON_JUMP_REPLACED (due.length - 1) f (slset f { v with jumps := rest, play := some p' } s)

/-- JUMP_SAMPLING_POINT (R129): on a qualified clock (R31). -/
def execJumpSamplingPoint (f : FifoNo) (s : State) : Out :=
  match (slget s f.val).play with
  | none => .next s
  | some p0 =>
    if 8 * s.tml + 7 < samplingPoint p0 ∨ p0.sampled ∨ !fifoClockOk s f.val then .next s
    else
      let s := applyCut f.val (samplingPoint p0) s
      match (slget s f.val).play with
      | none => .next s
      | some p => .next (if p.cut then s else sampleJumps f.val p s)

/-- SEGMENT_BOUNDARY (R127 to R130): the next pass, a jump target, or the fill, on a qualified clock (R31). -/
def execSegmentBoundary (f : FifoNo) (badAt : Option Nat) (s : State) : Out :=
  match (slget s f.val).play with
  | none => .next s
  | some p0 =>
    let b := p0.start + 8 * p0.len
    if 8 * s.tml + 7 < b ∨ !fifoClockOk s f.val then .next s
    else
      let s := applyCut f.val (b - 1) s
      let s := match (slget s f.val).play with
        | some p => if p.sampled ∨ p.cut then s else sampleJumps f.val p s
        | none => s
      match (slget s f.val).play with
      | none => .next s
      | some p =>
        match p.taken with
        | some seg =>
          let s := endPlay f.val b s
          let g := sget s (fifoClu f.val) seg
          if g.ready then .next (startPass f.val seg p.gain b (if g.loop then none else some 0) true badAt s)
          else .next (notReady f.val (b / 8).toNat (slset f.val { slget s f.val with jumps := [] } s))
        | none =>
          match p.left with
          | some 0 =>
            let s := endPlay f.val b s
            .next (slset f.val { slget s f.val with jumps := [] } s)
          | left =>
            let s := endPlay f.val b s
            .next (startPass f.val p.seg p.gain b (left.map (· - 1)) true badAt s)

/-- Frame in force now for a tone: F and P (R111). -/
def frameNow (s : State) (t : Nat) : Nat × Nat := (rn s .TON_FREQ t, rn s .TON_FRAME t)

/-- The frame state takes new values from a DAC sample on (R46, R47, R108). -/
def setFrame (t sample freq phase : Nat) (s : State) : State :=
  let s := { s with frames := mput [] s.frames t ({ sample := sample, freq := freq, phase := phase } :: mget [] s.frames t) }
  wr .TON_FRAME phase t (wr .TON_FREQ freq t s)

/-- FREQ at its release (R46). -/
def execFreq (f : FifoNo) (s : State) : Out :=
  match dueCmd s f.val 0x04 with
  | none => .next s
  | some c =>
    let s := takeDue f.val c s
    .next (setFrame f.val (instantOf f.val c) (fld c.w1 47 0) (frameNow s f.val).2 s)

/-- PHASE at its release (R47, R111). -/
def execPhase (f : FifoNo) (s : State) : Out :=
  match dueCmd s f.val 0x05 with
  | none => .next s
  | some c =>
    let s := takeDue f.val c s
    let p := fld c.w1 31 0
    let q := if bitOf c.w1.toNat 32 then p else ((frameNow s f.val).2 + p) % 2 ^ 32
    .next (setFrame f.val (instantOf f.val c) (frameNow s f.val).1 q s)

/-- A bias slice takes a released BIAS or HOLD until its update grain; in FAULT it is discarded (R151, R156). -/
def queueBias (n : Nat) (b : BiasCmd) (s : State) : State :=
  let v := biaget s n
  if v.mode = .fault then inc .BIA_FAULT_DISCARD n s else biaset n { v with cmds := v.cmds ++ [b] } s

/-- HOLD at its release (R45). -/
def execHold (f : FifoNo) (s : State) : Out :=
  match dueCmd s f.val 0x03 with
  | none => .next s
  | some c =>
    let s := takeDue f.val c s
    let t := instantOf f.val c
    match fifoKind f.val with
    | .bias => .next (queueBias (f.val - 1152) { release := c.release, hold := true, opnd := 0 } s)
    | _ => .next (endPlay f.val t (dropJumps f.val (applyCut f.val ((t : Int) - 1) s)))

/-- A flux code is held (R48, R160), unless a zero cause is in force. -/
def holdFlux (n : Nat) (code : Int) (s : State) : State :=
  if rn s .FLX_ZERO_CAUSE n ≠ 0 then inc .FLX_ZERO_DISCARD n s
  else flxset n { flxget s n with x := code * flux1 } s

/-- FLUX at its release (R48). -/
def execFlux (f : FifoNo) (s : State) : Out :=
  match dueCmd s f.val 0x06 with
  | none => .next s
  | some c =>
    let s := takeDue f.val c s
    let t := instantOf f.val c
    if zeroed s f.val then .next (inc .FLX_ZERO_DISCARD (fluxOf f.val) s)
    else .next (holdFlux (fluxOf f.val) (sx 16 (fld c.w1 15 0)) (endPlay f.val t (dropJumps f.val (applyCut f.val ((t : Int) - 1) s))))

/-- BIAS at its release (R49). -/
def execBias (f : FifoNo) (s : State) : Out :=
  match dueCmd s f.val 0x07 with
  | none => .next s
  | some c => .next (queueBias (f.val - 1152) { release := c.release, hold := false, opnd := c.w1 } (takeDue f.val c s))

/-! ### Markers (R51, R131, R281) -/

/-- A cause that holds a die's marker pins LOW: its clock unqualified, or a shutdown (R131). -/
def markerForced (s : State) (c : Nat) : Bool := !rfOk s (cluDie c) || bitOf (rn s .DRV_MUTE_CAUSE (4 * c)) 4

/-- The level of pin MRKc (R131, R281). -/
def markerPin (s : State) (c : Nat) : Bool :=
  let m := mkget s c
  !markerForced s c && !s.boot.silent && (m.level || m.trussEnd.isSome)

/-- MARK commands in the release paths of a cluster's FIFOs whose grain has come, and SELECTs that may bring one: instant and
FIFO. -/
def markHeads (s : State) (c : Nat) : List (Nat × Nat) :=
  (cluFifos c).flatMap fun f => ((fget s f).path.filter fun e =>
    decide ((edgeOp e.w0 = 0x09 ∨ edgeOp e.w0 = 0x0B) ∧ e.release ≤ s.tml)).map fun e => (instantOf f e, f)

/-- MARK at its release (R51, R131): of the MARKs due in a cluster, the earliest applies first, and at one instant those of
lower FIFO numbers. MARKs of several FIFOs at one instant are one collision. -/
def execMark (f : FifoNo) (s : State) : Out :=
  match dueCmd s f.val 0x09 with
  | none => .next s
  | some e =>
    let c := fifoClu f.val
    let t := instantOf f.val e
    if (markHeads s c).any (fun h => decide (h.2 ≠ f.val ∧ (h.1 < t ∨ (h.1 = t ∧ h.2 < f.val)))) then .next s
    else
      let s := takeDue f.val e s
      let m := mkget s c
      let same := m.lastMark.any fun x => decide (x.1 = t)
      let other := m.lastMark.any fun x => decide (x.1 = t ∧ x.2 ≠ f.val)
      let s := if other ∧ !(same && m.collided) then inc .TML_MARK_COLLIDE 0 s else s
      let m := { m with lastMark := some (t, f.val), collided := other || (same && m.collided) }
      let m := match fld e.w1 1 0 with
        | 0 => { m with level := false, pulseEnd := none }
        | 1 => { m with level := true, pulseEnd := none }
        | 2 => { m with level := true, pulseEnd := some (t + 8 * fld e.w1 31 16) }
        | _ => { m with level := !m.level, pulseEnd := none }
      let s := mkset c m s
      .next (if bitOf e.w1.toNat 2 then raise (0x130 + c) s else s)

/-- MARK_PULSE_END (R131). -/
def execMarkPulseEnd (c : CluNo) (s : State) : Out :=
  let m := mkget s c.val
  match m.pulseEnd with
  | some t => if t ≤ 8 * s.tml + 7 then .next (mkset c.val { m with level := false, pulseEnd := none } s) else .next s
  | none => .next s

/-! ### Crosstalk taps and mutes (R132 to R137) -/

/-- A write of a crosstalk tap (R132, R134). -/
def writeTap (n tap v : Nat) (s : State) : Ans State :=
  if nfld v 62 61 ≠ 0 ∨ nfld v 55 52 ≠ 0 ∨ nfld v 47 32 ≠ 0 ∨ (bitOf v 63 ∧ nfld v 60 56 / 8 = n % 4) then .error abRange
  else if inRun s then .error abCannotWrite
  else .ok (wr .DRV_XTAP v (n * 8 + tap) { s with tapBad := s.tapBad.filter (fun x => decide (x ≠ n * 8 + tap)) })

/-- TAP_PARITY_FAILURE (R135). -/
def execTapParityFailure (n : Fin 64) (tap : Fin 8) (s : State) : Out :=
  let k := n.val * 8 + tap.val
  let s := if s.tapBad.contains k then s else { s with tapBad := k :: s.tapBad }
  .next (voidNow 11 (64 * (n.val / 4) + 8 * (n.val % 4)) (inc .DRV_TAP_POISON n.val s))

/-- Set a mute cause of a channel; CLOCK and THERMAL set HOST with them (R136). `prb`: a PRB channel. -/
def setMute (prb : Bool) (n bit : Nat) (s : State) : State :=
  let r : Reg := if prb then .PRB_MUTE_CAUSE else .DRV_MUTE_CAUSE
  let s := wrBit r bit true n s
  if bit = 2 ∨ bit = 4 then wrBit r 0 true n s else s

/-- Clear a mute cause of a channel (R136). -/
def clearMute (prb : Bool) (n bit : Nat) (s : State) : State :=
  wrBit (if prb then .PRB_MUTE_CAUSE else .DRV_MUTE_CAUSE) bit false n s

/-- A write of DRV_MUTE or PRB_MUTE: the HOST cause (R136). -/
def writeMute (prb : Bool) (n v : Nat) (s : State) : State :=
  wrBit (if prb then .PRB_MUTE_CAUSE else .DRV_MUTE_CAUSE) 0 (decide (v = 1)) n s

/-- Set or clear a mute cause on all DRV and PRB channels of a cluster. -/
def muteCluster (c bit : Nat) (on : Bool) (s : State) : State :=
  let f (prb : Bool) (n : Nat) (t : State) : State := if on then setMute prb n bit t else clearMute prb n bit t
  f true c ((span (4 * c) 4).foldl (fun t n => f false n t) s)

end Sys2Proof.Machine
end

