-- ==== Sys2Proof/Machine/FluxBias.lean ====
section
/-! DEFINITION. The flux chain (R140 to R149) and the bias outputs (R150 to R160). -/

namespace Sys2Proof.Machine

/-- The slice input of a flux channel at a grain (R141). -/
def fluxInput (s : State) (n g : Nat) : Int :=
  match (slget s (1024 + n)).play with
  | some p =>
    if p.start ≤ 8 * (g : Int) ∧ 8 * (g : Int) < p.start + 8 * p.len ∧ !p.cut ∧ rn s .FLX_ZERO_CAUSE n = 0 then
      fluxSample s (n / 8) p ((8 * (g : Int) - p.start) / 8).toNat
    else (flxget s n).x
  | none => (flxget s n).x

/-- The range of stages 1 to 4 (R144). -/
def fluxLimit : Int := 262144 * flux1

/-- Saturation of a stage value, and whether it saturated. -/
def fluxSat (x : Int) : Int × Bool := (sat (-fluxLimit) fluxLimit x, decide (x < -fluxLimit ∨ fluxLimit < x))

/-- Exponential stage k of a channel (R142): output, new state, saturated. -/
def expStage (s : State) (n k : Nat) (u : Int) : Int × Int × Bool :=
  let a := rn s .FLX_ALPHA (n * 4 + k)
  let b := rd s .FLX_BETA (n * 4 + k)
  let st := nthD (flxget s n).st k 0
  if a = 0 then (u, st, false)
  else
    let s1 := fluxSat (st + quot 0 (a * (u - st)) (2 ^ 32))
    let w := fluxSat (u + quot 1 (b * (u - s1.1)) (2 ^ 29))
    (w.1, s1.1, s1.2 || w.2)

/-- All four stages from an input: output, states, saturated. -/
def expStages (s : State) (n : Nat) (u : Int) : Int × List Int × Bool :=
  (List.range 4).foldl (fun r k => let e := expStage s n k r.1; (e.1, r.2.1 ++ [e.2.1], r.2.2 || e.2.2)) (u, [], false)

/-- The FIR over the newest input first (R143). -/
def fluxFir (s : State) (n : Nat) (line : List Int) : Int × Bool :=
  fluxSat (quot 2 (sumI ((List.range 32).map fun t => rd s .FLX_FIR (n * 32 + t) * nthD line t 0)) (2 ^ 30))

/-- One grain of a channel up to the FIR (R140 stages 1 to 3). -/
def fluxSlice (n g : Nat) (s : State) : State :=
  let x := fluxSat (fluxInput s n g)
  let e := expStages s n x.1
  let v := flxget s n
  let line := e.1 :: v.line
  let p := fluxFir s n line
  flxset n { v with st := e.2.1, line := line.take 31, p := p.1, satd := x.2 || e.2.2 || p.2 } s

/-- The matrix row of a channel (R140 stage 4). -/
def fluxMix (s : State) (n : Nat) : Int × Bool :=
  fluxSat (quot 3 (sumI ((List.range 8).map fun j =>
    rd s .CLU_FLUX_MTX (n / 8 * 64 + 8 * (n % 8) + j) * (flxget s (n / 8 * 8 + j)).p)) (2 ^ 14))

/-- The code a channel's chain gives now, before the clamp (R144). -/
def fluxCode (s : State) (n : Nat) : Int := rne (fluxMix s n).1 16777216

/-- The DAC code of a channel (R148, R149): 0 until the die's converters are calibrated (R435), and while the outputs are held in
their power-up state (R410, R425, R427). -/
def fluxOut (s : State) (n : Nat) : Int :=
  if rn s .FLX_ZERO_CAUSE n ≠ 0 ∨ !bitOf s.clk.calDone (n / 32) ∨ s.boot.silent then 0
  else match (flxget s n).held with
    | some c => c
    | none => (flxget s n).out

/-- Stages 4 and 5 of a channel for one grain. -/
def fluxEmit (n : Nat) (s : State) : State :=
  let m := fluxMix s n
  let c := fluxCode s n
  let s := if m.2 ∨ (flxget s n).satd then inc .FLX_INT_SAT n s else s
  let s := if c < -32768 ∨ 32767 < c then inc .FLX_CLIP n s else s
  let s := peak .FLX_PEAK c.natAbs n s
  flxset n { flxget s n with out := sat (-32768) 32767 c, satd := false } s

/-- Clusters whose flux chains hold or play something. -/
def fluxClusters (s : State) : List Nat :=
  (List.range 16).filter fun c => rfOk s (cluDie c) &&
    (s.fluxes.any (fun e => decide (e.1 / 8 = c)) || s.slices.any (fun e => decide (1024 + 8 * c ≤ e.1 ∧ e.1 < 1032 + 8 * c)))

/-- The flux chains of one grain (R140). -/
def fluxGrain (g : Nat) (s : State) : State :=
  (fluxClusters s).foldl (fun t c =>
    let t := (span (8 * c) 8).foldl (fun u n => if rn u .FLX_ZERO_CAUSE n = 0 then fluxSlice n g u else u) t
    (span (8 * c) 8).foldl (fun u n => if rn u .FLX_ZERO_CAUSE n = 0 then fluxEmit n u else u) t) s

/-- A slice's chain takes its settled state (R147). -/
def settleFlux (n : Nat) (s : State) : State :=
  let v := flxget s n
  let x := fluxInput s n s.tml
  let line := List.replicate 32 x
  flxset n { v with st := [x, x, x, x], line := line.take 31, p := (fluxFir s n line).1 } s

/-- The outputs of a cluster follow a settled change at once (R147), behind a held code. -/
def refreshFlux (c : Nat) (s : State) : State :=
  (span (8 * c) 8).foldl (fun t n =>
    if (flxget t n) = {} then t else flxset n { flxget t n with out := sat (-32768) 32767 (fluxCode t n) } t) s

/-- The value checks of a flux coefficient write (R147): `k` is the stage of an ALPHA or BETA. -/
def fluxCoefOk (s : State) (r : Reg) (i : Nat) (v : Int) : Bool :=
  match r with
  | .FLX_BETA => v = 0 ∨ rn s .FLX_ALPHA i ≠ 0
  | .FLX_ALPHA => v ≠ 0 ∨ rd s .FLX_BETA i = 0
  | _ => true

/-- A flux coefficient write (R147): i is the object's instance. -/
def writeFluxCoef (r : Reg) (i : Nat) (v : Int) (s : State) : Ans State :=
  if !fluxCoefOk s r i v then .error abRange
  else if inRun s then .error abCannotWrite
  else
    let s := wr r v i s
    match r with
    | .CLU_FLUX_MTX => .ok (refreshFlux (i / 64) s)
    | .FLX_FIR => .ok (refreshFlux (i / 32 / 8) (settleFlux (i / 32) s))
    | _ => .ok (refreshFlux (i / 4 / 8) (settleFlux (i / 4) s))

/-- Set a zero cause of a channel (R148): x and every state become 0. -/
def setZero (n bit : Nat) (s : State) : State :=
  flxset n { flxget s n with x := 0, st := [0, 0, 0, 0], line := [], p := 0, out := 0 } (wrBit .FLX_ZERO_CAUSE bit true n s)

/-- Clear a zero cause of a channel (R148): a slice that went on playing plays its fill, 0, until the next FLUX or PLAY. -/
def clearZero (n bit : Nat) (s : State) : State :=
  let s := wrBit .FLX_ZERO_CAUSE bit false n s
  if rn s .FLX_ZERO_CAUSE n = 0 then
    slset (1024 + n) { slget s (1024 + n) with play := none, jumps := [] } (flxset n { flxget s n with x := 0 } s)
  else s

/-- FLX_SET (R160). -/
def writeFluxSet (n : Nat) (v : Int) (s : State) : Ans State :=
  if inRun s then .error abCannotWrite
  else if rn s .FLX_ZERO_CAUSE n ≠ 0 then .ok (inc .FLX_ZERO_DISCARD n s)
  else .ok (holdFlux n v (endPlay (1024 + n) (8 * s.tml) (dropJumps (1024 + n) s)))

/-! ### Bias outputs -/

/-- One step towards a target (R153). -/
def toward (p t : Int) (step : Nat) : Int := if p < t then min (p + step) t else max (p - step) t

/-- The step of a SLEW index (R152). -/
def slewStep (slew : Nat) : Nat := if slew = 15 then 2 ^ 20 else 2 ^ slew

/-- A command taken at an update (R151, R153). -/
def takeBias (n : Nat) (c : BiasCmd) (s : State) : State :=
  let v := biaget s n
  if c.hold then biaset n { v with mode := .run, dest := rn s .BIA_RANGE n } (wr .BIA_TARGET (rd s .BIA_CODE n) n s)
  else
    let range := fld c.opnd 31 30
    biaset n { v with mode := .run, step := slewStep (fld c.opnd 23 20), dest := if range = 0 then v.dest else range }
      (wr .BIA_TARGET (sx 20 (fld c.opnd 19 0)) n s)

/-- The body of the update (R153, R154). -/
def stepBias (n : Nat) (s : State) : State :=
  let v := biaget s n
  let present := rd s .BIA_CODE n
  if v.dest = rn s .BIA_RANGE n then wr .BIA_CODE (toward present (rd s .BIA_TARGET n) v.step) n s
  else if present ≠ 0 then wr .BIA_CODE (toward present 0 v.step) n s
  else inc .BIA_RANGE_CHANGES n (wr .BIA_RANGE v.dest n s)

/-- The output stands at the safe code in the safe range. -/
def atSafe (s : State) (n : Nat) : Bool :=
  decide (rd s .BIA_CODE n = rd s .BIA_SAFE_CODE n) && decide (rn s .BIA_RANGE n = rn s .BIA_SAFE_RANGE n)

/-- Commands of a slice released after the previous update grain and by an update grain (R151). -/
def dueBias (v : BiasCh) (u : Nat) : List BiasCmd := v.cmds.filter fun c => decide (u < c.release + 10000 ∧ c.release ≤ u)

/-- The newest released command applies and the earlier ones count as replaced (R151). -/
def takeNewest (n u : Nat) (s : State) : State :=
  let v := biaget s n
  let due := dueBias v u
  let s := biaset n { v with cmds := v.cmds.filter fun c => !decide (c.release ≤ u) } s
  match due.getLast? with
  | none => s
  | some c => takeBias n c (incBy .BIA_REPLACED (due.length - 1) n s)

/-- The package is in or on its way into SHUTDOWN (R406). -/
def shutDown (s : State) : Bool := 1 ≤ rn s .THM_STATE

/-- One slice's update (R151 to R156). -/
def updateBias (n u : Nat) (s : State) : State :=
  let v := biaget s n
  match v.mode with
  | .off => s
  | .loaded =>
    let s := biaset n { v with mode := .pwrup, step := slewStep (rn s .BIA_SLEW_PWRUP n), dest := rn s .BIA_RANGE n }
      (wr .BIA_TARGET (rd s .BIA_SAFE_CODE n) n s)
    if (dueBias v u).isEmpty then s else stepBias n (takeNewest n u s)
  | .fault =>
    let s := stepBias n s
    if atSafe s n ∧ !shutDown s then biaset n { biaget s n with mode := .run } s else s
  | .pwrup =>
    let s := stepBias n (takeNewest n u s)
    if (biaget s n).mode = .pwrup ∧ rd s .BIA_CODE n = rd s .BIA_TARGET n then biaset n { biaget s n with mode := .run } s else s
  | .run => stepBias n (takeNewest n u s)

/-- Current limit and sense checks of an update (R158, R159). -/
def checkBias (n : Nat) (limited sense : Bool) (s : State) : State :=
  let s := if limited then inc .BIA_ILIMIT_COUNT n (flag .BIA_ILIMIT n s) else s
  if sense ∧ rn s .BIA_SENSE n = 1 then flag .BIA_SENSE_FAULT n s else s

/-- BIAS_UPDATE (R151, R153, R157): once for each update grain. -/
def execBiasUpdate (limited senseBad : List (Fin 256)) (s : State) : Out :=
  let u := s.tml / 10000 * 10000
  if !s.tmlOn ∨ s.biasAt = some u then .next s
  else
    .next ((List.range 256).foldl (fun t n =>
      if bdOk t (n / 128) then
        checkBias n (limited.any (fun x => decide (x.val = n))) (senseBad.any (fun x => decide (x.val = n))) (updateBias n u t)
      else t) { s with biasAt := some u })

/-- BIAS_SAFE_LOAD (R155): the boot record is read and the die's reference is qualified. -/
def execBiasSafeLoad (d : Fin 2) (s : State) : Out :=
  if served s ∧ s.boot.phase ≠ .fuseError ∧ !s.boot.silent ∧ bdOk s d.val then
    .next ((span (128 * d.val) 128).foldl (fun t n =>
      if (biaget t n).mode = .off then
        biaset n { biaget t n with mode := .loaded, dest := rn t .BIA_SAFE_RANGE n } (wr .BIA_CODE 0 n (wr .BIA_RANGE (rn t .BIA_SAFE_RANGE n) n t))
      else t) s)
  else .next s

/-- Every bias slice enters FAULT (R156). -/
def faultBias (n : Nat) (s : State) : State :=
  let v := biaget s n
  let s := incBy .BIA_FAULT_DISCARD v.cmds.length n s
  biaset n { mode := .fault, dest := rn s .BIA_SAFE_RANGE n, step := slewStep (rn s .BIA_SLEW_FAULT n), cmds := [] }
    (wr .BIA_TARGET (rd s .BIA_SAFE_CODE n) n s)

/-- BIA_STATE (R155, R156). -/
def biaState (s : State) (n : Nat) : Nat :=
  let v := biaget s n
  match v.mode with
  | .off => 0
  | .loaded => 0
  | .pwrup => 1
  | .fault => 5
  | .run => if v.dest ≠ rn s .BIA_RANGE n then 4 else if rd s .BIA_CODE n ≠ rd s .BIA_TARGET n then 3 else 2

/-- BIA_SET (R49, R160): it applies at the next update grain. -/
def writeBiasSet (n v : Nat) (s : State) : Ans State :=
  if nfld v 63 32 ≠ 0 ∨ nfld v 29 24 ≠ 0 then .error abRange
  else if inRun s then .error abCannotWrite
  else .ok (queueBias n { release := s.tml + 1, hold := false, opnd := word v } s)

/-- BIA_SENSE (R158). -/
def writeBiasSense (n v : Nat) (s : State) : Ans State :=
  if biaState s n = 0 ∨ biaState s n = 2 then .ok (wr .BIA_SENSE v n s) else .error abCannotWrite

end Sys2Proof.Machine
end

