-- ==== Sys2Proof/Machine/Synthesis.lean ====
section
/-! DEFINITION. The tone sample chain of a grain (R106 to R115, R132, R133, R163): phases, envelopes, channel codes, and
what the chain leaves behind in the clip and peak objects. -/

namespace Sys2Proof.Machine

/-- The frame of a tone in force at a DAC sample: frequency word and frame offset (R108, R111). -/
def frameAt (s : State) (t n : Nat) : Nat × Nat :=
  match (mget [] s.frames t).find? (fun e => decide (e.sample ≤ n)) with
  | some e => (e.freq, e.phase)
  | none => (0, 0)

/-- The phase of a tone at a DAC sample, in 2^-48 turn (R108). -/
def theta (s : State) (t n : Nat) : Nat :=
  let f := frameAt s t n
  (f.1 * n + f.2 * 2 ^ 16) % 2 ^ 48

/-- The generator's phase: the upper 20 bits, rounded (R109). -/
def theta20 (s : State) (t n : Nat) : Nat := (theta s t n + 2 ^ 27) / 2 ^ 28 % 2 ^ 20

/-! ### The sine and cosine generator (R109) -/

/-- The series of the cosine about 0 for an angle whose square is x2, in units of 2^-128: term 2j and those after it, and their sum
with what precedes. -/
def cosSeries (x2 : Int) : Nat → Nat → Int → Int → Int
  | 0, _, _, acc => acc
  | n + 1, j, term, acc =>
    let next := -(term * x2) / 2 ^ 128 / ((2 * j + 1) * (2 * j + 2) : Nat)
    cosSeries x2 n (j + 1) next (acc + next)

/-- The cosine of r quarter turns of 2^-18, rounded down to units of 2^-17, for r up to 2^18. -/
def cosDown (r : Nat) : Int :=
  if r = 0 then 131072 else if r = 262144 then 0
  else
    let x : Int := (r : Int) * 1069028584064966747859680373161870783301 / 2 ^ 19
    cosSeries (x * x / 2 ^ 128) 24 0 (2 ^ 128) (2 ^ 128) / 2 ^ 111

/-- The generator's cosine of a 20-bit phase: an 18-bit value in units of 2^-17, the exact one or one of its two neighbours
(log 72). -/
def cosine (theta : Nat) : Int :=
  let r := theta % 262144
  let quarter := theta / 262144 % 4
  let up : Int := if r = 0 then 0 else b2i (Config.trigUp (theta % 1048576))
  let v : Int := match quarter with
    | 0 => cosDown r + up
    | 1 => -cosDown (262144 - r) - up
    | 2 => -cosDown r - up
    | _ => cosDown (262144 - r) + up
  sat (-131072) 131071 v

/-- The generator's sine: the cosine a quarter turn earlier. -/
def sine (theta : Nat) : Int := cosine (theta + 786432)

/-! ### Envelopes (R115) -/

/-- The passes that the chain of a tone slice still sees, each with the instant at which its samples end. -/
def passes (v : Slice) : List (Int × Play) :=
  ((match v.play with | some p => [(p.start + 8 * p.len, p)] | none => []) ++ v.ended).filter fun e => !e.2.cut

/-- The interpolator's response at a distance after the centre, in units of 2^-24: 1 at the centre, 0 at every other envelope
instant and beyond 6 grains, elsewhere free and no larger than at the centre (log 72). -/
def interpAt (d : Int) : Int :=
  if d = 0 then 16777216 else if d % 8 = 0 ∨ 48 ≤ d.natAbs then 0 else sat (-16777216) 16777216 (Config.interpTap (d + 48).toNat)

/-- What the samples of a pass give at an instant, with GAIN, in units of 2^-54. -/
def passAt (s : State) (c : Nat) (e : Int × Play) (n : Int) : Int × Int :=
  let p := e.2
  let k0 := (n - p.start) / 8 - 6
  (List.range 13).foldl (fun z (i : Nat) =>
    let k := k0 + (i : Nat)
    let at_ := p.start + 8 * k
    if 0 ≤ k ∧ k < p.len ∧ at_ < e.1 then
      let w := sampleWord s c (p.addr + k.toNat)
      (z.1 + p.gain * sampleI w * interpAt (n - at_), z.2 + p.gain * sampleQ w * interpAt (n - at_))
    else z) (0, 0)

/-- A pass that begins after an instant: its first sample, whose effect before the pass is at −60 dB or less (R115). -/
def beforeStart (s : State) (c : Nat) (e : Int × Play) (n : Int) : Int × Int :=
  let p := e.2
  let w := sampleWord s c p.addr
  let z := passAt s c e n
  let top := (isqrt ((p.gain * sampleI w).natAbs ^ 2 + (p.gain * sampleQ w).natAbs ^ 2) : Int) * 16777216 / 1415
  (sat (-top) top z.1, sat (-top) top z.2)

/-- A slice plays its fill at an instant: no pass holds it. -/
def inFill (v : Slice) (n : Int) : Bool := !(passes v).any fun e => decide (e.2.start ≤ n ∧ n < e.1)

/-- The interpolated envelope with GAIN applied, in units of 2^-54: at an envelope instant of the pass that plays exactly its
sample; the fill passes through the same filter as 0. -/
def envelope (s : State) (t : Nat) (n : Int) : Int × Int :=
  let c := fifoClu t
  let v := slget s t
  let ps := passes v
  match ps.find? fun e => decide (e.2.start ≤ n ∧ n < e.1 ∧ (n - e.2.start) % 8 = 0) with
  | some e => passAt s c (n + 1, e.2) n
  | none => ps.foldl (fun z e =>
      let w := if inFill v n && decide (n < e.2.start) then beforeStart s c e n else passAt s c e n
      (z.1 + w.1, z.2 + w.2)) (0, 0)

/-! ### The settings in force at a sample (R106, R135, R243) -/

/-- The objects of a region's tone chains, by key. -/
def chainKey (g k : Nat) : Bool :=
  decide (k % 1024 = Reg.RGN_PROFILE.ctorIdx ∧ k / 1024 = g) || decide (k % 1024 = Reg.DRV_SCALE.ctorIdx ∧ k / 1024 / 8 = g) ||
    decide (k % 1024 = Reg.PRB_SCALE.ctorIdx ∧ k / 1024 / 2 = g) || decide (k % 1024 = Reg.DRV_XTAP.ctorIdx ∧ k / 1024 / 64 = g)

/-- The settings of a region's tone chains now. -/
def chainNow (s : State) (g n : Nat) : ChainSet :=
  { grain := n, vals := s.regs.filter fun e => chainKey g e.1, bad := s.tapBad.filter fun k => decide (k / 64 = g) }

/-- The settings in force in a grain. -/
def chainAt (s : State) (g n : Nat) : ChainSet := ((rgget s g).chain.find? fun x => decide (x.grain ≤ n)).getD { grain := 0 }

/-- The value of an object of the tone chains in a region's settings. -/
def chainVal (x : ChainSet) (r : Reg) (i : Nat) : Int := mget (r.dflt i) x.vals (key r i)

/-- Region g's settings as grain n begins: kept when they differ from the grain before, and as long as a sample needs them. -/
def noteChain (n g : Nat) (s : State) : State :=
  let v := rgget s g
  let x := chainNow s g n
  let last := v.chain.headD { grain := n }
  let xs := if last.vals = x.vals ∧ last.bad = x.bad then v.chain else x :: v.chain
  let keep := xs.takeWhile (fun y => decide (n < y.grain + 8)) ++ (xs.dropWhile fun y => decide (n < y.grain + 8)).take 1
  let keep := if keep.all fun y => y.vals.isEmpty && y.bad.isEmpty then [] else keep
  if keep = v.chain then s else rgset g { v with chain := keep } s

/-- The complex sample z of a tone slice, in units of 2^-71 (R106 stage 1); a slice inactive in the profile gives 0. -/
def toneZ (s : State) (t n : Nat) : Int × Int :=
  let g := cluRgn (fifoClu t)
  if !localActive (chainVal (chainAt s g (n / 8)) .RGN_PROFILE g).toNat (t % 64) then (0, 0)
  else
    let e := envelope s t n
    let c := cosine (theta20 s t n)
    let d := sine (theta20 s t n)
    (e.1 * c - e.2 * d, e.1 * d + e.2 * c)

/-- A tap's contribution, in units of 2^-86 (R132, R133): 0 while its source plays its fill. -/
def tapTerm (s : State) (d tap n : Nat) : Int :=
  let g := cluRgn (d / 4)
  let x := chainAt s g (n / 8)
  let v := (chainVal x .DRV_XTAP (d * 8 + tap)).toNat
  let delay := nfld v 51 48
  let src := 64 * (d / 4) + nfld v 60 56
  if !bitOf v 63 ∨ x.bad.contains (d * 8 + tap) ∨ chainVal x .RGN_PROFILE g = profCool ∨ n < delay ∨
      inFill (slget s src) ((n : Int) - delay) then 0
  else
    let z := toneZ s src (n - delay)
    sx 16 (nfld v 31 16) * z.1 - sx 16 (nfld v 15 0) * z.2

/-- The channel sum of a DRV channel, in units of 2^-86 (R106 stage 2). -/
def drvSum (s : State) (d n : Nat) : Int :=
  32768 * sumI ((span (64 * (d / 4) + 8 * (d % 4)) 8).map fun t => (toneZ s t n).1) +
    sumI ((List.range 8).map fun tap => tapTerm s d tap n)

/-- The channel sum of a PRB channel: the probe sides alone (R163). -/
def prbSum (s : State) (c n : Nat) : Int :=
  32768 * sumI ((span (64 * c + 32) 32).map fun t => (toneZ s t n).1)

/-- The code before the clamp (R106 stages 3 and 4). -/
def channelCode (s : State) (prb : Bool) (ch n : Nat) : Int :=
  let x := chainAt s (cluRgn (if prb then ch else ch / 4)) (n / 8)
  rne ((if prb then prbSum s ch n else drvSum s ch n) * chainVal x (if prb then .PRB_SCALE else .DRV_SCALE) ch) (2 ^ 88)

/-- What a channel's DAC gets at a sample: nothing while muted (R137). -/
def channelOut (s : State) (prb : Bool) (ch n : Nat) : Int :=
  if rn s (if prb then .PRB_MUTE_CAUSE else .DRV_MUTE_CAUSE) ch ≠ 0 ∨ s.boot.silent then 0 else sat (-8192) 8191 (channelCode s prb ch n)

/-- Clip and peak of a channel over one grain (R17, R107). -/
def channelGrain (prb : Bool) (ch g : Nat) (s : State) : State :=
  let xs := (List.range 8).map fun k => channelCode s prb ch (8 * g + k)
  let s := if xs.any (fun x => decide (x < -8192 ∨ 8191 < x)) then inc (if prb then .PRB_CLIP else .DRV_CLIP) ch s else s
  xs.foldl (fun t x => peak (if prb then .PRB_PEAK else .DRV_PEAK) x.natAbs ch t) s

/-- Clusters with a tone slice in or near playback. -/
def soundingClusters (s : State) : List Nat :=
  (List.range 16).filter fun c => rfOk s (cluDie c) && s.slices.any fun e => decide (e.1 < 1024) && decide (e.1 / 64 = c)

/-- The tone chain of one grain: its settings, poison reached by a slice, then the channels of the grain whose last sample the interpolator now
knows in full, six grains back (R34, R115). -/
def toneGrain (g : Nat) (s : State) : State :=
  let s := (List.range 8).foldl (fun t r => noteChain g r t) s
  let s := s.slices.foldl (fun t e => if rfOk t (cluDie (fifoClu e.1)) then applyCut e.1 (8 * g + 7) t else t) s
  if g < 6 then s
  else
    (soundingClusters s).foldl (fun t c =>
      channelGrain true c (g - 6) ((span (4 * c) 4).foldl (fun u d => channelGrain false d (g - 6) u) t)) s

/-- Forget playbacks that no sample still to be formed reaches, and frames that no sample of the past 2^20 grains needs. -/
def pruneTones (g : Nat) (s : State) : State :=
  let s := s.slices.foldl (fun t e =>
    slset e.1 { slget t e.1 with ended := (slget t e.1).ended.filter fun x => decide ((8 * g : Int) < x.1 + 112) } t) s
  { s with frames := mmap [] (fun _ v =>
      v.takeWhile (fun x => decide (8 * g < x.sample + 2 ^ 23)) ++
        (v.dropWhile (fun x => decide (8 * g < x.sample + 2 ^ 23))).take 1) s.frames }

end Sys2Proof.Machine
end

