-- ==== Sys2Proof/Machine/EngineOps.lean ====
section
/-! DEFINITION. How a cluster engine takes its next packet, drops it, or emits edge commands (R73 to R83, R92 to R100). -/

namespace Sys2Proof.Machine

/-- Words of a packet by its schedule opcode (R73, R75); an excluded opcode makes a one-word packet. -/
def packetLen (op : Nat) : Nat :=
  if op = 0x01 ∨ op = 0x02 ∨ (0x04 ≤ op ∧ op ≤ 0x09) then 2 else 1

/-- Opcode of a schedule word. -/
def schedOp (w : Word) : Nat := fld w 63 56

/-- The opcodes R75 lists. -/
def schedListed (op : Nat) : Bool := [0x00, 0x01, 0x02, 0x03, 0x04, 0x05, 0x06, 0x07, 0x08, 0x09, 0x10, 0x11, 0x20, 0x21, 0x28, 0x30, 0xF0, 0xF1].contains op

/-- R75's engines for an opcode: kinds 0–3 DSQ, 4 PSQ, 5 ASQ, 6 FSQ, 7 BRE. -/
def schedKind (op k : Nat) : Bool :=
  if op ≤ 0x03 ∧ op ≠ 0 then decide (k ≤ 4 ∨ k = 6)
  else if op = 0x04 ∨ op = 0x05 then decide (k ≤ 4)
  else if op = 0x06 ∨ op = 0x07 then decide (k = 6)
  else if op = 0x08 then decide (k = 5)
  else if op = 0x09 ∨ op = 0x10 ∨ op = 0x11 then decide (k ≤ 6)
  else if op = 0x30 then decide (k = 7)
  else schedListed op

/-- R75's cost in microwords. -/
def schedCost (op : Nat) : Nat :=
  match op with
  | 0x00 => 1 | 0x01 => 8 | 0x02 => 6 | 0x03 => 5 | 0x04 => 6 | 0x05 => 6 | 0x06 => 6 | 0x07 => 6 | 0x08 => 7 | 0x09 => 5
  | 0x10 => 5 | 0x11 => 5 | 0x20 => 3 | 0x21 => 3 | 0x28 => 4 | 0x30 => 6 | _ => 4

/-- The reserved bits of word 0 of each opcode (R74, R78, R80 to R85), bit 0 to 55. -/
def schedReserved (op : Nat) (w : Word) : Bool :=
  if 0x01 ≤ op ∧ op ≤ 0x09 then fld w 47 32 ≠ 0
  else if op = 0x00 ∨ op = 0x21 ∨ op = 0xF1 then fld w 55 0 ≠ 0
  else if op = 0x10 then fld w 41 36 ≠ 0
  else if op = 0x11 then fld w 47 44 ≠ 0 ∨ fld w 41 36 ≠ 0
  else if op = 0x20 then fld w 55 40 ≠ 0 ∨ fld w 31 0 ≠ 0
  else if op = 0x30 then fld w 55 48 ≠ 0
  else if op = 0xF0 then fld w 55 32 ≠ 0
  else false

/-- The edge FIFO that TARGET selects for an engine (R76). -/
def targetFifo (e target : Nat) : Option Nat :=
  let c := e / 8
  let k := e % 8
  if k ≤ 3 then (if target ≤ 7 then some (64 * c + 8 * k + target) else none)
  else if k = 4 then (if target ≤ 31 then some (64 * c + 32 + target) else none)
  else if k = 5 then (if target = 0 then some (1408 + c) else none)
  else if k = 6 then
    (if target ≤ 7 then some (1024 + 8 * c + target) else if target ≤ 23 then some (1152 + 16 * c + (target - 8)) else none)
  else none

/-- B, the loop base (R77, R80). -/
def loopBase (v : Engine) : Nat := match v.loop with | some l => l.pass * l.stride | none => 0

/-- TARGET and OFFSET of an emitting word 0 are legal: the FIFO (R76, R77). -/
def emitFifo (e : Nat) (v : Engine) (w0 : Word) : Option Nat :=
  if loopBase v + fld w0 31 0 < v.len then targetFifo e (fld w0 52 48) else none

/-- The edge command's word 0 (R40, R77). -/
def edgeWord0 (v : Engine) (w0 : Word) (op : Nat) : Word :=
  word ((v.tshot + loopBase v + fld w0 31 0) % 2 ^ 48 * 2 ^ 16 + fld w0 55 53 * 2 ^ 13 + op)

/-- The next packet: from the loop buffer while a pass has words left, else the head packet of queue 0. -/
def nextPacket (s : State) (e : Nat) : Option (List QWord) :=
  match (eget s e).loop with
  | some l => match l.rest with
    | [] => none
    | w :: _ => some ((l.rest.take (packetLen (schedOp w))).map fun x => { data := x })
  | none =>
    let q := qget s (32 * e)
    if wholePackets q = 0 then none else some (headView q)

/-- The engine may execute: it runs, or has just been given a packet (R91). -/
def canRun (v : Engine) : Bool := v.state = .run

/-- The engine's kind runs a patch (R101). -/
def patched (s : State) (k : Nat) : Bool := (patchOf s k).words ≠ [] ∨ (patchOf s k).matchs ≠ [] ∨ (patchOf s k).overrides ≠ []

/-- R75 excludes an opcode for a cluster kind: its ROM dispatch entry is the drop handler's (R99). DESIGN CHOICE: R75 lists no opcode
for a keystone kind, and its dispatch entries stay free, each for itself (log 70). -/
def excludedFor (k op : Nat) : Bool := decide (k < 8) && !(schedListed op && schedKind op k)

/-- The enabled override of an opcode, with its register number (R99). -/
def overrideOf (s : State) (k op : Nat) : Option (Nat × Nat) :=
  (patchOf s k).overrides.zipIdx.find? fun o => bitOf o.1 31 && decide (nfld o.1 20 13 = op)

/-- The patch of the engine's kind reaches an opcode: an override replaces its dispatch entry, or a match register redirects a
ROM word that its handler fetches (R97 to R99). The other opcodes run from the ROM alone, with the costs of R75 (R94). -/
def reached (s : State) (k op : Nat) : Bool :=
  (overrideOf s k op).isSome ||
    (patchOf s k).matchs.any fun m => bitOf m 31 && Config.romTouches k (if excludedFor k op then 256 else op) (nfld m 11 0)

/-- Executed microwords and the control store's working state after an opcode (R92, R94). -/
def spend (e cost : Nat) (s : State) : State :=
  let f := fresh s
  let v := eget f.2 e
  let q := Config.seqState f.1
  eset e { v with microwords := (v.microwords + cost) % 2 ^ 64
                  scratch := (List.range 16).map (Config.scratch f.1)
                  zf := bitOf q 0, nf := bitOf q 1, cf := bitOf q 2
                  ret := if q / 8 = 0 then none else some (false, (q / 8 - 1) % 4096) } f.2

/-- One executed opcode's cost (R75, R94): the ROM's, or free where the kind's patch reaches the opcode. -/
def opCost (s : State) (e op : Nat) : Nat := if reached s (e % 8) op then Config.patchedCost s.free op else schedCost op

/-- An opcode is executed: counted, with its microwords. -/
def execOpcode (e op : Nat) (s : State) : State :=
  let s := spend e (opCost s e op) s
  let v := eget s e
  eset e { v with opcodes := (v.opcodes + 1) % 2 ^ 64 } s

/-- Take n words from queue 0. -/
def takeQueue (e : Nat) : Nat → State → State
  | 0, s => s
  | n + 1, s => takeQueue e n (readWord (32 * e) false false (passCut (32 * e) s)).2

/-- End of a loop pass when its words are used up (R80): 2 microwords, then the next pass or the end of the loop. -/
def endPass (e : Nat) (s : State) : State :=
  let v := eget s e
  match v.loop with
  | some l =>
    if l.rest.isEmpty then
      let v' := { v with loop := if l.pass + 1 < l.count then some { l with pass := l.pass + 1, rest := l.body } else none }
      spend e (if reached s (e % 8) 0x28 then Config.patchedCost s.free 0x28 else 2) (eset e v' s)
    else s
  | none => s

/-- Consume n words of the packet being executed; `endPass` follows once its effect is done. -/
def consume (e n : Nat) (s : State) : State :=
  let v := eget s e
  match v.loop with
  | some l => eset e { v with loop := some { l with rest := l.rest.drop n } } s
  | none =>
    let s := takeQueue e n s
    let v := eget s e
    eset e { v with pc := (v.pc + 8 * n) % 2 ^ 64 } s

/-- After an opcode: a pass may end, and an engine that finds no packet waits for one (R73, R80). -/
def afterPacket (e : Nat) (s : State) : State :=
  let s := endPass e s
  let v := eget s e
  if v.state = .run ∧ (nextPacket s e).isNone then inc .ENG_STARVE e (eset e { v with state := .waitFetch } s) else s

/-- Microwords of a drop of packets of these opcodes: at most a maximum, and free where the kind's patch reaches one of them (R78,
R94). -/
def dropMicrowords (s : State) (e : Nat) (ops : List Nat) (maxCost : Nat) : Nat :=
  if ops.any (reached s (e % 8)) then Config.dropCost s.free else Config.dropCost s.free % (maxCost + 1)

/-- A LOOP or an item of packets with these opcodes dropped as illegal (R78): counters, the void of the shot being expanded, and its
cost. DESIGN CHOICE: a LOOP dropped with its body and an ALT item dropped whole count once (log 67). -/
def dropWhole (e : Nat) (ops : List Nat) (maxCost : Nat) (s : State) : State :=
  let s := inc .PKG_SCHED_ILLEGAL 0 (inc .ENG_ILLEGAL e s)
  let s := spend e (dropMicrowords s e ops maxCost) s
  let v := eget s e
  if v.len = 0 then voidNow 2 e s else voidNum 2 e v.shot s

/-- A packet of an opcode dropped as illegal (R78). -/
def dropIllegal (e op maxCost : Nat) (s : State) : State := dropWhole e [op] maxCost s

/-- Words that the write half has taken and not published (R265). -/
def unpublished (v : Fifo) : Nat := sumN (v.incoming.map (·.words)) + v.part.length

/-- An edge FIFO has room by its write half's view (R264, R265): two words free beyond those being written. -/
def fifoRoom (v : Fifo) : Bool := decide ((v.wp + 1024 - v.rp) % 1024 + unpublished v ≤ 510)

/-- The engine writes its formed commands while their FIFOs have room, and waits in WAIT_FIFO otherwise (R59). -/
def pushOut (e : Nat) : Nat → State → State
  | 0, s => s
  | n + 1, s =>
    let v := eget s e
    match v.out with
    | [] => s
    | o :: rest =>
      let f := fget s o.1
      if fifoRoom f then
        pushOut e n (eset e { v with out := rest, state := .run } (fset o.1 { f with incoming := f.incoming ++ [{ w0 := o.2.1, w1 := o.2.2 }] } s))
      else eset e { v with state := .waitFifo } s

/-- Emit edge commands. -/
def emit (e : Nat) (cs : List (Nat × Word × Word)) (s : State) : State :=
  let v := eget s e
  pushOut e (v.out.length + cs.length) (eset e { v with out := v.out ++ cs } s)

/-- An engine reads a schedule word with PSN (R79). DESIGN CHOICE: the read costs no microwords, as no rule gives a number
(log 82). -/
def schedPoison (e : Nat) (s : State) : State :=
  runEndFault e (inc .PKG_SCHED_POISON 0 (inc .ENG_POISON e s))

/-- A control-store fault of a cluster engine at a fetch (R100): the fault entry's microwords are executed in place of the
word, and the run ends. -/
def storeFault (e : Nat) (s : State) : State :=
  let s := inc .MCS_FAULT 0 s
  runEndFault e (spend e (Config.faultCost s.free) s)

/-- The routine of an opcode that the kind's patch reaches begins at its dispatch entry (R97, R99); a poisoned override register
is a failed fetch (log 70). -/
def startRoutine (e op : Nat) (s : State) : State :=
  let k := e % 8
  let v := eget s e
  let m : Micro := { v.micro with op := op, first := none, event := false, released := false }
  match overrideOf s k op with
  | some o =>
    if (patchOf s k).marks.contains (128 * (e / 8) + 80 + o.2) then storeFault e s
    else eset e { v with micro := { m with at_ := some (bitOf o.1 12, nfld o.1 11 0) } } s
  | none =>
    eset e { v with micro := { m with at_ := some (false, (if excludedFor k op then Config.dropHandler k else Config.romDispatch k op).toNat) } } s

/-- The words of a packet that the engine reads: up to the first that carries PSN, which ends its reading (R79, R90). -/
def wordsRead (p : List QWord) : Nat := min p.length ((p.takeWhile fun q => !q.psn).length + 1)

/-- R75 lists the opcode for the engine's kind, or an override gives it a handler of its own (R78, R99). -/
def handled (s : State) (e op : Nat) : Bool := (schedListed op && schedKind op (e % 8)) || (overrideOf s (e % 8) op).isSome

/-- Word 0 breaks no rule of TARGET, OFFSET, COUNT or BODY that R78 drops the packet for, whatever microcode expands it. -/
def headLegal (s : State) (e : Nat) (w0 : Word) : Bool :=
  let op := schedOp w0
  if 0x01 ≤ op ∧ op ≤ 0x09 ∨ op = 0x11 then (emitFifo e (eget s e) w0).isSome
  else if op = 0x10 then (emitFifo e (eget s e) w0).isSome && !schedReserved op w0 && decide (1 ≤ fld w0 47 44 ∧ fld w0 47 44 ≤ 8)
  else if op = 0x28 then decide (1 ≤ fld w0 55 48 ∧ fld w0 55 48 ≤ 128 ∧ 1 ≤ fld w0 47 32)
  else true

/-- The frame of every SCHED row: the engine must be running and its next packet must carry the row's opcode (an opcode
that R75 excludes is dropped within SCHED_NOP); a packet with PSN ends the run, a control-store fault too; an opcode not
listed for the engine, a short packet or a reserved bit drops the packet, whether a patch reaches the opcode or not; a legal packet
of an opcode that the kind's patch reaches begins its routine; otherwise the opcode's own effect follows. While a routine is under
way, or a LOOP body or ALT item is being read, the engine goes on with that: the one at its next row of any opcode, the other at
its next row of its own. A reserved bit of an ALT drops the item that it heads (R82). -/
def schedFrame (op e : Nat) (mcBad : Bool) (effect : List QWord → State → State) (s : State) : State :=
  if !canRun (eget s e) then s
  else if (eget s e).micro.at_.isSome then (if mcBad then storeFault e s else s)
  else if (eget s e).gather.isSome then
    (if (eget s e).gather.any (fun g => decide (g.op = op)) then (if mcBad then storeFault e s else effect [] s) else s)
  else
    match nextPacket s e with
    | none => inc .ENG_STARVE e (eset e { eget s e with state := .waitFetch } s)
    | some [] => s
    | some (q :: qs) =>
      let o := schedOp q.data
      if o ≠ op ∧ ¬ (op = 0 ∧ !schedListed o) then s
      else if mcBad then storeFault e s
      else if (q :: qs).any (·.psn) then schedPoison e (consume e (wordsRead (q :: qs)) s)
      else if !handled s e o then
        afterPacket e (dropIllegal e o 4 (consume e (q :: qs).length s))
      else if (q :: qs).length < packetLen o ∨ (o ≠ 0x10 ∧ schedReserved o q.data) then
        afterPacket e (dropIllegal e o (schedCost o) (consume e (q :: qs).length s))
      else if reached s (e % 8) o && headLegal s e q.data then startRoutine e o s
      else effect (q :: qs) s

/-- The effect of the emitting opcodes 0x01 to 0x09 (R74 to R77): one edge command with the operand of word 1, 0 for
HOLD. -/
def emitOpcode (op e : Nat) (ws : List QWord) (s : State) : State :=
  let w0 := (nthD ws 0 { data := 0 }).data
  let w1 := if op = 0x03 then 0 else (nthD ws 1 { data := 0 }).data
  let v := eget s e
  let s := consume e ws.length s
  match emitFifo e v w0 with
  | none => afterPacket e (dropIllegal e op (schedCost op) s)
  | some f => afterPacket e (emit e [(f, edgeWord0 v w0 op, w1)] (execOpcode e op s))

end Sys2Proof.Machine
end

