-- ==== Sys2Proof/Machine/Engines.lean ====
section
/-! DEFINITION. The schedule path and the schedule opcodes that need no barrier and no feedback (R70 to R83). -/

namespace Sys2Proof.Machine

/-- SCHEDULE_FETCH_CHUNK (R71): a 4 KB refill of a streamed engine's ring while it has room. -/
def execScheduleFetchChunk (e : EngNo) (s : State) : Out :=
  let a := aget s e.val
  let n := min 512 (a.len - a.fetched)
  if inRun s ∧ a.exist ∧ !a.resident ∧ a.fetched < a.len ∧ a.words.length + 512 ≤ 8192 ∧ !dramWaits s (a.base + 8 * a.fetched) (8 * n) then
    let r := dramRead 18 (a.base + 8 * a.fetched) n s
    .next (aset e.val { a with words := a.words ++ r.1, fetched := a.fetched + n } r.2)
  else .next s

/-- A word given to queue 0 as part of a packet of n words. -/
def queueWords (ws : List (Word × Bool)) : List QWord :=
  (List.range ws.length).map fun i =>
    let w := nthD ws i (0, false)
    { data := w.1, psn := w.2, fin := decide (i + 1 = ws.length) }

/-- The END packet the keystone adds (R73). -/
def endWord : Word := word (0xF1 * 2 ^ 56)

/-- Words still in the area and not delivered. -/
def areaLeft (a : Area) : List (Word × Bool) := if a.resident then a.words.drop a.given else a.words

/-- Deliver a packet's words to queue 0, ending a WAIT_FETCH (R71, R73). -/
def deliver (e : Nat) (ws : List (Word × Bool)) (s : State) : State :=
  let s := writePacket (32 * e) 1 (queueWords ws) s
  let v := eget s e
  if v.state = .waitFetch ∧ (nextPacket s e).isSome then eset e { v with state := .run } s else s

/-- SCHEDULE_PACKET_DELIVERY (R71, R73). -/
def execSchedulePacketDelivery (e : EngNo) (s : State) : Out :=
  let a := aget s e.val
  let q := qget s (32 * e.val)
  if !inRun s ∨ !a.exist ∨ s.run.aborted ∨ 256 ≤ q.words.length ∨ !q.waiting.isEmpty then .next s
  else if a.given < a.len then
    match areaLeft a with
    | [] => .next s
    | w :: _ =>
      let need := packetLen (schedOp w.1)
      let left := a.len - a.given
      if (areaLeft a).length < min need left then .next s
      else
        let ws := (areaLeft a).take (min need left)
        let a' := { a with given := a.given + ws.length
                           words := if a.resident then a.words else a.words.drop ws.length
                           ended := decide (left ≤ need ∧ schedOp w.1 = 0xF1) }
        .next (deliver e.val ws (aset e.val a' s))
  else if a.ended then .next s
  else .next (deliver e.val [(endWord, false)] (inc .PKG_NO_END 0 (aset e.val { a with ended := true } s)))

/-- Up to n packets of emitting opcodes from words still to read: the packets and whether the gathering ended by a packet
that stops the item, by the end of the words, or was complete. -/
def itemPackets : Nat → List QWord → List (List QWord)
  | 0, _ => []
  | _, [] => []
  | n + 1, w :: ws =>
    let op := schedOp w.data
    if 0x01 ≤ op ∧ op ≤ 0x09 then
      let m := min (packetLen op) (ws.length + 1)
      ((w :: ws).take m) :: itemPackets n ((w :: ws).drop m)
    else []

/-- Every word of the section has been read: the END packet that the keystone adds is no part of it (R73, R80, R82). -/
def streamRead (s : State) (e : Nat) : Bool := decide ((aget s e).len ≤ (eget s e).pc / 8)

/-- The LOOP or ALT item under way, empty when there is none. -/
def gathered (s : State) (e : Nat) : Gather := (eget s e).gather.getD { op := 0, head := 0 }

/-- Read n more words of whole packets from queue 0 for the LOOP or ALT item under way, up to the end of the section or a word
with PSN. -/
def gatherWords (e : Nat) : Nat → State → State
  | 0, s => s
  | n + 1, s =>
    if wholePackets (qget s (32 * e)) = 0 ∨ streamRead s e ∨ (gathered s e).psn then s
    else
      let r := readWord (32 * e) false false (passCut (32 * e) s)
      let v := eget r.2 e
      let g := gathered r.2 e
      gatherWords e n (eset e { v with pc := (v.pc + 8) % 2 ^ 64
                                       gather := some { g with words := g.words ++ [{ data := r.1.data, fin := r.1.fin }]
                                                               psn := r.1.psn } } r.2)

/-- The first word of a LOOP or ALT is read, and what follows is still to come. -/
def beginGather (e op : Nat) (w0 : Word) (s : State) : State :=
  let s := consume e 1 s
  eset e { eget s e with gather := some { op := op, head := w0 } } s

/-- The item's words are read; nothing is under way. -/
def endGather (e : Nat) (s : State) : State := eset e { eget s e with gather := none } s

/-- The engine waits for more words of a LOOP or ALT (R73). -/
def starve (e : Nat) (s : State) : State := inc .ENG_STARVE e (eset e { eget s e with state := .waitFetch } s)

/-- Read packets of emitting opcodes into an ALT item until it holds `count` of them (R82). -/
def gatherPackets (e count : Nat) : Nat → State → State
  | 0, s => s
  | n + 1, s =>
    let q := qget s (32 * e)
    let op := schedOp (nthD q.words 0 { data := 0 }).data
    if count ≤ (itemPackets count (gathered s e).words).length ∨ wholePackets q = 0 ∨ streamRead s e ∨ (gathered s e).psn ∨
        ¬ (0x01 ≤ op ∧ op ≤ 0x09) then s
    else gatherPackets e count n (gatherWords e (headLen q.words) s)

/-- The item is whole: it holds `count` packets, or no further packet can belong to it (R82). -/
def itemWhole (s : State) (e count : Nat) : Bool :=
  let q := qget s (32 * e)
  let op := schedOp (nthD q.words 0 { data := 0 }).data
  decide (count ≤ (itemPackets count (gathered s e).words).length) || streamRead s e ||
    (decide (wholePackets q ≠ 0) && !decide (0x01 ≤ op ∧ op ≤ 0x09))

/-- A contained packet of an ALT item is legal (R82). -/
def itemOk (e : Nat) (v : Engine) (target : Nat) (p : List QWord) : Bool :=
  match p with
  | [] => false
  | w :: _ =>
    let op := schedOp w.data
    schedKind op (e % 8) && decide (packetLen op ≤ p.length) && !schedReserved op w.data &&
      decide (fld w.data 52 48 = target) && (emitFifo e v w.data).isSome

/-- An ALT item is emitted whole as one unit or dropped whole (R82). A TARGET that is a bias slice is emitted too: its abutment
judges the unit (log 67). DESIGN CHOICE: the packets of the item have R75's effect whether a patch reaches their opcodes or not:
R99 names a dispatch for the next packet only (log 70). -/
def finishItem (e : Nat) (w0 : Word) (items : List (List QWord)) (s : State) : State :=
  let v := eget s e
  let count := fld w0 47 44
  let op (p : List QWord) : Nat := schedOp (nthD p 0 { data := 0 }).data
  let drop := afterPacket e (dropWhole e (0x10 :: items.map op) (5 + sumN (items.map fun p => schedCost (op p))) s)
  match emitFifo e v w0 with
  | none => drop
  | some f =>
    if 1 ≤ count ∧ count ≤ 8 ∧ items.length = count ∧ !schedReserved 0x10 w0 ∧ items.all (itemOk e v (fld w0 52 48)) then
      let stage := word (count * 2 ^ 16 + fld w0 43 42 * 2 ^ 8 + fld w0 35 32)
      let cs := items.map fun p =>
        (f, edgeWord0 v (nthD p 0 { data := 0 }).data (op p), if op p = 0x03 then 0 else (nthD p 1 { data := 0 }).data)
      let s := items.foldl (fun t p => execOpcode e (op p) t) (execOpcode e 0x10 s)
      afterPacket e (emit e ((f, edgeWord0 v w0 0x0A, stage) :: cs) s)
    else drop

/-- The effect of ALT (R82): the item is formed from the packets that follow, in a loop body from those of the body. DESIGN CHOICE: an
item whose TARGET is a bias slice is emitted too, and the abutment judges it (log 67). -/
def altEffect (e : Nat) (ws : List QWord) (s : State) : State :=
  match (eget s e).loop with
  | some l =>
    let w0 := (nthD ws 0 { data := 0 }).data
    let items := itemPackets (fld w0 47 44) ((l.rest.drop 1).map fun x => { data := x })
    finishItem e w0 items (consume e (1 + sumN (items.map (·.length))) s)
  | none =>
    let s := if (eget s e).gather.isSome then s else beginGather e 0x10 (nthD ws 0 { data := 0 }).data s
    let w0 := (gathered s e).head
    let s := gatherPackets e (fld w0 47 44) 16 s
    if (gathered s e).psn then schedPoison e (endGather e s)
    else if itemWhole s e (fld w0 47 44) then
      finishItem e w0 (itemPackets (fld w0 47 44) (gathered s e).words) (endGather e s)
    else starve e s

/-- The effect of SELECT (R83). -/
def selectEffect (e : Nat) (ws : List QWord) (s : State) : State :=
  let w0 := (nthD ws 0 { data := 0 }).data
  let v := eget s e
  let s1 := consume e 1 s
  match emitFifo e v w0 with
  | none => afterPacket e (dropIllegal e 0x11 5 s1)
  | some f => afterPacket e (emit e [(f, edgeWord0 v w0 0x0B, word (fld w0 43 42 * 2 ^ 8 + fld w0 35 32))] (execOpcode e 0x11 s1))

/-- A channel is local: positions 0 to 23 of a segment (R269). -/
def localChannel (ch : Nat) : Bool := ch % 32 < 24

/-- The wait of WAITEVT begins: the channel of the wait input, and the count of a wait that no event can end (R272, R273). -/
def beginWait (e ch : Nat) (s : State) : State :=
  let s := eset e { eget s e with state := .waitEvent, waitCh := some ch } s
  if localChannel ch ∧ ch / 32 ≠ e / 16 then inc .EVT_FOREIGN_WAIT 0 s else s

/-- The effect of WAITEVT (R81). -/
def waitevtEffect (e : Nat) (ws : List QWord) (s : State) : State :=
  let ch := fld (nthD ws 0 { data := 0 }).data 39 32
  beginWait e ch (endPass e (execOpcode e 0x20 (consume e 1 s)))

/-- A loop body is whole packets, without LOOP or END, and with BOUNDARY only under STRIDE 0 (R80). -/
def bodyOk (stride : Nat) : Nat → List Word → Bool
  | _, [] => true
  | 0, _ => false
  | n + 1, w :: ws =>
    let op := schedOp w
    let m := packetLen op
    decide (op ≠ 0x28 ∧ op ≠ 0xF1) && (decide (op ≠ 0xF0) || decide (stride = 0)) &&
      decide (m ≤ ws.length + 1) && bodyOk stride n ((w :: ws).drop m)

/-- A LOOP whose words are read begins its first pass, or is dropped with its body (R80). -/
def finishLoop (e : Nat) (w0 : Word) (b : List Word) (s : State) : State :=
  let body := fld w0 55 48
  let count := fld w0 47 32
  if 1 ≤ body ∧ body ≤ 128 ∧ b.length = body ∧ 1 ≤ count ∧ bodyOk (fld w0 31 0) 128 b then
    let s := execOpcode e 0x28 s
    eset e { eget s e with loop := some { body := b, count := count, stride := fld w0 31 0, pass := 0, rest := b } } s
  else afterPacket e (dropIllegal e 0x28 (4 + b.length) s)

/-- The effect of LOOP (R80): the BODY words that follow are read once from queue 0. A LOOP is never in a loop body. -/
def loopEffect (e : Nat) (ws : List QWord) (s : State) : State :=
  let s := if (eget s e).gather.isSome then s else beginGather e 0x28 (nthD ws 0 { data := 0 }).data s
  let w0 := (gathered s e).head
  let s := gatherWords e (fld w0 55 48 - (gathered s e).words.length) s
  if (gathered s e).psn then schedPoison e (endGather e s)
  else if (gathered s e).words.length = fld w0 55 48 ∨ streamRead s e then
    finishLoop e w0 ((gathered s e).words.map (·.data)) (endGather e s)
  else starve e s

/-- FIFO_WAIT_END (R59): an engine in WAIT_FIFO whose target has room writes on. -/
def execFifoWaitEnd (e : EngNo) (s : State) : Out :=
  let v := eget s e.val
  if v.state = .waitFifo ∧ v.out.isEmpty then
    .next (if v.micro.target.all (fun f => fifoRoom (fget s f)) then eset e.val { v with state := .run } s else s)
  else if v.state = .waitFifo then
    let s := pushOut e.val (v.out.length + 1) s
    .next (if (eget s e.val).state = .run then afterPacket e.val s else s)
  else .next s

end Sys2Proof.Machine
end

