-- ==== Sys2Proof/Machine/Truss.lean ====
section
/-! DEFINITION. The event truss: channels, producer slots, timers and marker pulses (R269 to R281). What a consumer does
with an event stands in Delivery.lean. -/

namespace Sys2Proof.Machine

/-- Home of a producer (R271): none for an excluded ID, `some none` for the keystone, `some (some g)` for region g. -/
def producerHome (id : Nat) : Option (Option Nat) :=
  if id ≤ 0x7F then some (some (id / 16))
  else if 0x100 ≤ id ∧ id ≤ 0x11F then some none
  else if 0x120 ≤ id ∧ id ≤ 0x12F then some none
  else if 0x130 ≤ id ∧ id ≤ 0x13F then some (some ((id - 0x130) / 2))
  else if id = 0x140 then some none
  else if 0x150 ≤ id ∧ id ≤ 0x157 then some (some (id - 0x150))
  else if 0x158 ≤ id ∧ id ≤ 0x15A then some none
  else if 0x160 ≤ id ∧ id ≤ 0x170 then some none
  else none

/-- The consumer IDs of R272. -/
def consumerId (id : Nat) : Bool := decide (id ≤ 0x8A) || decide (id = 0x90) || (decide (0xA0 ≤ id) && decide (id ≤ 0xBF))

/-- A consumer homed in region g (`none`: the keystone or a bias die) may listen to a channel (R272). -/
def mayListen (home : Option Nat) (ch : Nat) : Bool := !localChannel ch || (home == some (ch / 32))

/-- Shortest interval between a channel's events, in ticks (R274): 6 ns local, 12 ns package-wide. -/
def channelInterval (ch : Nat) : Nat := if localChannel ch then 15 else 30

/-- A configured choice [15] or [31] EN with its channel in [7:0] names a channel. -/
def choiceIs (v enBit ch : Nat) : Bool := bitOf v enBit && decide (v % 256 = ch)

/-- The consumers that listen to a channel now, by consumer ID (R272). -/
def listeners (s : State) (ch : Nat) : List Nat :=
  (s.engs.filterMap fun e => if e.2.waitCh = some ch ∧ mayListen (some (e.1 / 16)) ch then some e.1 else none) ++
  ((List.range 11).filterMap fun u =>
    let v := rn s .MON_START u
    if nfld v 31 30 = 2 ∧ v % 256 = ch then some (0x80 + u) else none) ++
  (if choiceIs (rn s .TRG_ARM_EVT) 15 ch then [0x90] else []) ++
  ((List.range 16).filterMap fun c => if choiceIs (rn s .TRG_CAPEVT c) 15 ch then some (0xA0 + c) else none) ++
  ((List.range 16).filterMap fun c => if choiceIs (rn s .EVT_MRK c) 31 ch then some (0xB0 + c) else none)

/-- The event of a channel on its way to a consumer, with the configuration in force now (R278). -/
def delivery (s : State) (ch : Nat) (merged : Bool) (con : Nat) : Delivery :=
  { con := con, chan := ch, merged := merged, width := if 0xB0 ≤ con then nfld (rn s .EVT_MRK (con - 0xB0)) 23 8 else 0 }

/-- CHANNEL_EVENT (R274, R275): the channel's held requests leave together as one event once its interval has passed. -/
def execChannelEvent (n : Fin 256) (s : State) : Out :=
  let ch := n.val
  let c := chget s ch
  let ready := match c.lastAt with | none => true | some t => decide (t + channelInterval ch ≤ s.elapsed)
  if c.held.isEmpty ∨ !ready then .next s
  else
    let merged := decide (2 ≤ c.held.length)
    let s := chset ch { held := [], lastAt := some s.elapsed } s
    let s := wr .EVT_CH_LAST s.tml ch (inc .EVT_CH_COUNT ch s)
    let s := if merged then inc .EVT_CH_MERGED ch s else s
    .next { s with deliveries := s.deliveries ++ (listeners s ch).map (delivery s ch merged) }

/-- A write to a producer slot (R270). -/
def writeProducer (ch slot v : Nat) (s : State) : Ans State :=
  let p := v % 512
  if !bitOf v 15 then .ok (wr .EVT_CH_PROD v (ch * 8 + slot) s)
  else
    match producerHome p with
    | none => .error abRange
    | some home =>
      if localChannel ch ∧ home ≠ some (ch / 32) then .error abRange
      else if (List.range 8).any (fun k => decide (k ≠ slot) && decide (rn s .EVT_CH_PROD (ch * 8 + k) = 0x8000 + p)) then .error abRange
      else .ok (wr .EVT_CH_PROD v (ch * 8 + slot) s)

/-- The first fire of a periodic timer at or after a grain (R279). -/
def firstFire (start period now : Nat) : Nat :=
  if now ≤ start then start else start + (now - start + period - 1) / period * period

/-- Start, restart or realign a timer (R280). `base` is the fire from which skipped fires count. -/
def aimTimer (n base fires : Nat) (s : State) : State :=
  let start := rn s .TIM_START n
  let period := rn s .TIM_PERIOD n
  if period = 0 then tset n { next := some (max start s.tml), fires := fires } s
  else
    let nf := firstFire start period s.tml
    incBy .TIM_SKIPPED (if base < nf then (nf - base) / period else 0) n (tset n { next := some nf, fires := fires } s)

/-- RUN (R280). -/
def timerRun (n : Nat) (s : State) : State := aimTimer n (rn s .TIM_START n) 0 (wr .TIM_CTRL 1 n s)

/-- STOP (R279). -/
def timerStop (n : Nat) (s : State) : State := tset n {} (wr .TIM_CTRL 0 n s)

/-- An alignment moved a timer's timeline (R280). -/
def timerRealign (n : Nat) (s : State) : State :=
  match (tget s n).next with
  | none => s
  | some g => aimTimer n g (tget s n).fires s

/-- One fire of a timer (R279), without the units it starts. -/
def timerFire (n g : Nat) (s : State) : State :=
  let t := tget s n
  let period := rn s .TIM_PERIOD n
  let limit := rn s .TIM_LIMIT n
  let s := raise (0x100 + n) (inc .TIM_FIRES n s)
  if period = 0 ∨ (limit ≠ 0 ∧ limit ≤ t.fires + 1) then timerStop n s
  else tset n { next := some (g + period), fires := t.fires + 1 } s

/-- TRUSS_PULSE_START (R281): the pulse starts, or its end moves. -/
def execTrussPulseStart (c : CluNo) (s : State) : Out :=
  let m := mkget s c.val
  match m.start with
  | some (g, width) =>
    if g ≤ s.tml then .next (mkset c.val { m with start := none, trussEnd := some (g + width) } s) else .next s
  | none => .next s

/-- TRUSS_PULSE_END (R281). -/
def execTrussPulseEnd (c : CluNo) (s : State) : Out :=
  let m := mkget s c.val
  match m.trussEnd with
  | some g => if g ≤ s.tml then .next (mkset c.val { m with trussEnd := none } s) else .next s
  | none => .next s

end Sys2Proof.Machine
end

