-- ==== Sys2Proof/Machine/AcqOps.lean ====
section
/-! DEFINITION. Records and their sets, the backlog and its gaps (R207, R212 to R217), the per-shot increments of R415,
quiet windows (R67), and the halts of LOW-SPUR (R240). -/

namespace Sys2Proof.Machine

def rsget (s : State) (n : Nat) : RecSet := mget {} s.sets n
def rsset (n : Nat) (v : RecSet) (s : State) : State := { s with sets := mput {} s.sets n v }
def rdget (s : State) (t : Nat) : ReadSlice := mget {} s.reads t
def rdset (t : Nat) (v : ReadSlice) (s : State) : State := { s with reads := mput {} s.reads t v }
def trget (s : State) (c : Nat) : TraceUnit := mget {} s.traces c
def trset (c : Nat) (v : TraceUnit) (s : State) : State := { s with traces := mput {} s.traces c v }
def aqget (s : State) (a : Nat) : AcqCh := mget {} s.acqs a
def aqset (a : Nat) (v : AcqCh) (s : State) : State := { s with acqs := mput {} s.acqs a v }
def brget (s : State) (c : Nat) : Bre := mget {} s.bres c
def brset (c : Nat) (v : Bre) (s : State) : State := { s with bres := mput {} s.bres c v }
def bcget (s : State) (k : Nat) : BCell := mget {} s.board k
def bcset (k : Nat) (v : BCell) (s : State) : State := { s with board := mput {} s.board k v }

/-! ### Records and sets -/

/-- A record header (R207). -/
def recHeader (ty len src shot : Nat) : Word := word (ty * 2 ^ 60 + len % 2 ^ 16 * 2 ^ 44 + src * 2 ^ 32 + shot % 2 ^ 32)

/-- TYPE of a record. -/
def recType (r : List Word) : Nat := fld (nthD r 0 0) 63 60

/-- Words of a list of records. -/
def recWords (rs : List (List Word)) : Nat := sumN (rs.map (·.length))

/-- Words of the backlog still to send. -/
def backlogWords (s : State) : Nat := recWords s.stream.backlog - s.stream.sent

/-- Words held in acquisition staging (R215). -/
def stagingWords (s : State) : Nat := sumN (s.sets.map fun e => recWords e.2.recs) + backlogWords s

/-- Capacity of acquisition staging (R215). -/
def stagingSize : Nat := 1048576

/-- The number of the shot that holds a grain, else PKG_SHOT (R84, R211). -/
def shotNum (s : State) (g : Nat) : Nat :=
  match shotAt s.run.shots g with
  | some i => match s.run.shots[i]? with | some sh => sh.num | none => rn s .PKG_SHOT
  | none => rn s .PKG_SHOT

/-- The shot, known or closed lately, that holds a grain. -/
def heldBy (s : State) (g : Nat) : Option Shot :=
  match (shotAt s.run.shots g).bind fun i => s.run.shots[i]? with
  | some sh => some sh
  | none => s.run.past.find? fun sh => decide (sh.start ≤ g ∧ g < sh.start + sh.len)

/-- SHOT of a local mark: of the shot that holds its fire grain, else PKG_SHOT (R211). -/
def markShotNum (s : State) (g : Nat) : Nat := match heldBy s g with | some sh => sh.num | none => rn s .PKG_SHOT

/-- A window opens in a shot: its record is awaited (R215). -/
def awaitRecord (shot n : Nat) (s : State) : State := rsset shot { rsget s shot with live := (rsget s shot).live + n } s

/-- An awaited record has reached staging or is lost. -/
def settleRecord (shot : Nat) (s : State) : State := rsset shot { rsget s shot with live := (rsget s shot).live - 1 } s

/-- The shot was voided and has closed (R415). -/
def shotGone (s : State) (shot : Nat) : Bool := (rsget s shot).closed && (rsget s shot).voided

/-- An increment that belongs to a shot (R415); of a shot voided and closed there is none. -/
def incShot (r : Reg) (i shot : Nat) (s : State) : State :=
  if shotGone s shot then s
  else if (rsget s shot).closed then inc r i s
  else
    let k := key r i * 2 ^ 32 + shot
    inc r i { s with incs := mput 0 s.incs k (mget 0 s.incs k + 1) }

/-- A host write to a counter of R414 zeroes its per-shot counts (R415). -/
def clearIncs (r : Reg) (i : Nat) (s : State) : State :=
  { s with incs := s.incs.filter fun e => !decide (e.1 / 2 ^ 32 = key r i) }

/-- A shot closes: a voided shot's counts are subtracted, and its counts are forgotten (R414, R415). -/
def closeIncs (shot : Nat) (voided : Bool) (s : State) : State :=
  let mine := s.incs.filter fun e => decide (e.1 % 2 ^ 32 = shot)
  let regs := if voided then
      mine.foldl (fun m e =>
        let k := e.1 / 2 ^ 32
        let v := mget 0 m k
        if v = 0xFFFFFFFF then m else mput 0 m k (max 0 (v - (e.2 : Int)))) s.regs
    else s.regs
  { s with regs := regs, incs := s.incs.filter fun e => !decide (e.1 % 2 ^ 32 = shot) }

/-! ### Backlog and gaps (R213, R216) -/

/-- A record of n words fits the backlog limit (R216). -/
def fits (s : State) (n : Nat) : Bool :=
  decide (backlogWords s + (if s.stream.gap.isSome then 3 else 0) + n ≤ rn s .TRG_BACKLOG_LIMIT)

/-- Append records to the backlog. -/
def appendRecords (rs : List (List Word)) (s : State) : State :=
  let s := { s with stream := { s.stream with backlog := s.stream.backlog ++ rs } }
  peak .TRG_BACKLOG_PEAK (backlogWords s) 0 s

/-- The GAP record of a pending gap (R213). -/
def gapRecord (g : Gap) : List Word :=
  let p := match g.shots with | some p => p | none => g.loose.getD (0, 0)
  [recHeader 5 3 0 p.1, word (p.2 * 2 ^ 32 + g.count), word (g.records * 2 ^ 32 + g.marks)]

/-- Append records, a pending gap first (R216). -/
def putRecords (rs : List (List Word)) (s : State) : State :=
  match s.stream.gap with
  | none => appendRecords rs s
  | some g => appendRecords rs (appendRecords [gapRecord g] (inc .TRG_GAPS 0 { s with stream := { s.stream with gap := none } }))

/-- A dropped set or VOID record joins the pending gap (R213, R216). -/
def loseShot (shot records : Nat) (s : State) : State :=
  let g := s.stream.gap.getD {}
  let g := { g with shots := some ((match g.shots with | some p => p.1 | none => shot), shot), count := g.count + 1
                    records := g.records + records }
  inc .TRG_GAP_SHOTS 0 { s with stream := { s.stream with gap := some g } }

/-- A dropped MARK or TIME record joins the pending gap. -/
def loseLoose (mark : Bool) (s : State) : State :=
  let g := s.stream.gap.getD {}
  let n := rn s .PKG_SHOT
  let g := { g with loose := some ((match g.loose with | some p => p.1 | none => n), n)
                    records := g.records + b2n (!mark), marks := g.marks + b2n mark }
  { s with stream := { s.stream with gap := some g } }

/-- A MARK or TIME record enters the backlog directly (R215, R216, R363): only the backlog limit drops it. -/
def directRecord (r : List Word) (s : State) : State :=
  let mark := decide (recType r = 3)
  if rn s .TRG_STREAM_STATE = 0 then (if mark then inc .TRG_CLOSED_DISCARD 0 s else s)
  else if !fits s r.length then loseLoose mark s
  else putRecords [r] s

/-! ### Quiet windows (R67) -/

/-- End of the latest window that holds a grain of the present shot. -/
def quietReach (s : State) (sh : Shot) (bit g : Nat) : Nat :=
  s.image.quiet.foldl (fun e q =>
    let a := sh.start + q.start
    let b := min (a + q.len) (sh.start + sh.len)
    if bitOf q.scope bit ∧ q.period ≠ 0 ∧ sh.num % q.period = q.phase ∧ a ≤ e ∧ e < b then b else e) g

/-- The end of the quiet window in force for a scope bit now: the union of overlapping entries. -/
def quietEnd (s : State) (bit : Nat) : Option Nat :=
  match s.run.shots with
  | [] => none
  | sh :: _ =>
    if !s.run.opened then none
    else
      let e := (List.range s.image.quiet.length).foldl (fun e _ => quietReach s sh bit e) s.tml
      if e = s.tml then none else some e

/-- A scope may be worked in now for at least n grains: outside a run always, in a run in a quiet window. -/
def quietFor (s : State) (bit n : Nat) : Bool :=
  if inRun s then (match quietEnd s bit with | some e => decide (s.tml + n ≤ e) | none => false) else true

/-! ### The LOW-SPUR halt (R240) -/

/-- An engine that a halt stops: at work or waiting. -/
def haltable (st : EngState) : Bool :=
  match st with
  | .run => true | .waitFetch => true | .waitFifo => true | .waitEvent => true | .barrier => true
  | _ => false

/-- The fabric of a region is halted. -/
def regionHalted (s : State) (g : Nat) : Bool := !(rgget s g).halts.isEmpty

/-- The halt rises for a CAPTURE (R240). -/
def raiseHalt (c release close : Nat) (s : State) : State :=
  let g := cluRgn c
  let v := rgget s g
  let s := if v.halts.isEmpty then
      (span (16 * g) 16).foldl (fun t e =>
        let x := eget t e
        if haltable x.state then eset e { x with halted := some x.state, state := .halt } t else t) (inc .RGN_HALTS g s)
    else s
  rgset g { v with halts := v.halts ++ [(c, release, close)] } s

/-- The engines of a region go on after a halt; one that waited for words it has since been given runs. -/
def resumeEngines (g : Nat) (s : State) : State :=
  (span (16 * g) 16).foldl (fun t e =>
    let x := eget t e
    match x.halted with
    | none => t
    | some st =>
      let t := eset e { x with halted := none, state := st } t
      if st = .waitFetch ∧ (nextPacket t e).isSome then eset e { eget t e with state := .run } t else t) s

/-- Halts whose windows have closed are lowered (R240). -/
def lowerHalts (g : Nat) (s : State) : State :=
  let v := rgget s g
  let rest := v.halts.filter fun h => decide (s.tml < h.2.2)
  if rest.length = v.halts.length then s
  else
    let s := rgset g { v with halts := rest } s
    if rest.isEmpty then resumeEngines g s else s

/-- Every halt of a region ends: it left LOW-SPUR. -/
def dropHalts (g : Nat) (s : State) : State :=
  if regionHalted s g then resumeEngines g (rgset g { rgget s g with halts := [] } s) else s

/-- HALT_RAISE (R240): 16 grains before the release of a CAPTURE of a LOW-SPUR region. -/
def execHaltRaise (c : CluNo) (s : State) : Out :=
  let g := cluRgn c.val
  let f := 1408 + c.val
  match (fget s f).path.find? (fun e => decide (edgeOp e.w0 = 0x08) && decide (s.tml < e.release + fld e.w1 47 32) &&
      !(rgget s g).halts.any (fun h => decide (h = (c.val, e.release, e.release + fld e.w1 47 32)))) with
  | none => .next s
  | some e =>
    if profileOf s g = profLowSpur ∧ e.release ≤ s.tml + 16 ∧ rfOk s (cluDie c.val) then
      .next (raiseHalt c.val e.release (e.release + fld e.w1 47 32) s)
    else .next s

end Sys2Proof.Machine
end

