-- ==== Sys2Proof/Machine/Readout.lean ====
section
/-! DEFINITION. Read-out (R165 to R188) and TRACE windows (R204 to R210): windows, integration, discrimination, verdict
output, overrange and HOT spans, ACQ calibration, kernel and table memory. -/

namespace Sys2Proof.Machine

/-! ### Arithmetic -/

/-- Rounded to nearest; the tie's direction is free. -/
def near (place : Nat) (num : Int) (den : Nat) : Int :=
  let q := num / den
  let r := num % den
  if 2 * r < den then q else if den < 2 * r then q + 1 else if Config.roundUp place num then q + 1 else q

/-- Square root of a number, rounded to nearest. -/
def rootNear (n : Nat) : Nat := let r := isqrt n; if r * r + r < n then r + 1 else r

/-- Magnitude of a complex value, rounded to nearest (R193, R208). -/
def magnitude (i q : Int) : Nat := rootNear (i * i + q * q).toNat

/-- Scale of the fixed-point rotations of `phase16`. -/
def rotOne : Int := (2 ^ 120 : Nat)

/-- Cosine and sine of 2 pi / 2^k, k = 2, 3, …, by half angles. -/
def rotations : Nat → Int × Int → List (Int × Int)
  | 0, _ => []
  | n + 1, c =>
    let half (x : Int) : Int := (isqrtGo 122 ((rotOne * (rotOne + x)) / 2).toNat 0 : Nat)
    c :: rotations n (half c.1, half (-c.1))

/-- One bit of an angle below a power: the vector is turned back where the turn leaves it in the upper half plane. -/
def turnBit (v : Int × Int × Nat) (c : Int × Int) : Int × Int × Nat :=
  let x := (v.1 * c.1 + v.2.1 * c.2) / rotOne
  let y := (v.2.1 * c.1 - v.1 * c.2) / rotOne
  if 0 ≤ y then (x, y, 2 * v.2.2 + 1) else (v.1, v.2.1, 2 * v.2.2)

/-- round(atan2(q, i) * 2^16 / 2 pi) mod 2^16, and 0 for 0 (R208). -/
def phase16 (i q : Int) : Nat :=
  if i = 0 ∧ q = 0 then 0
  else
    let cs := rotations 16 (0, rotOne)
    let h := nthD cs 15 (rotOne, 0)
    let x := i * 18446744073709551616
    let y := q * 18446744073709551616
    let x' := (x * h.1 - y * h.2) / rotOne
    let y' := (x * h.2 + y * h.1) / rotOne
    let top := if y' < 0 ∨ (y' = 0 ∧ x' < 0) then (-x', -y', 1) else (x', y', 0)
    ((cs.take 15).foldl turnBit top).2.2

/-! ### Mixing and demodulation (R165 to R168) -/

/-- An ACQ code clamped to 12 bits (R183). -/
def clampCode (x : Int) : Int := sat (-2048) 2047 x

/-- A sample of an ACQ that falls in a calibration step (R185). -/
def inCal (s : State) (c m : Nat) : Bool :=
  (aqget s c).cals.any (fun x => decide (x.1 ≤ m ∧ m < x.2)) ||
    (match (aqget s c).calFrom with | some g => decide (4 * g ≤ m ∧ m < 4 * (g + 20000)) | none => false)

/-- The ACQ code of a sample among those given from sample `first` on, as demodulation sides and signal detectors receive it: 0 in
a calibration step (R185). -/
def codeAt (s : State) (c first : Nat) (xs : List Int) (m : Nat) : Int :=
  if m < first ∨ inCal s c m then 0 else clampCode (nthD xs (m - first) 0)

/-- The codes given from sample `first` on, as they are received. -/
def codesFrom (s : State) (c first : Nat) (xs : List Int) : List Int :=
  (List.range xs.length).map fun k => codeAt s c first xs (first + k)

/-- The mixed sample b_j(m) (R165). -/
def mix (s : State) (t m : Nat) (x : Int) : Int × Int :=
  let th := theta20 s t (2 * m)
  (sat (-32768) 32767 (near 4 (16 * x * cosine th) (2 ^ 17)),
   sat (-32768) 32767 (near 5 (-16 * x * sine th) (2 ^ 17)))

/-- Weight of mixed sample m - 249 + k in the decimated sample at m, in units of 2^-24: the DC gain is 1 (R168). -/
def decimWeight (k : Nat) : Int :=
  if k < 249 then Config.decimTap k else 16777216 - sumI ((List.range 249).map Config.decimTap)

/-- The decimated sample d_j(m) from the 250 mixed samples m - 249 to m: one linear filter for both components (R168). -/
def decimated (s : State) (t first : Nat) (xs : List Int) (m : Nat) : Int × Int :=
  let bs := (List.range 250).map fun k =>
    if m + k < 249 then (0, 0) else mix s t (m + k - 249) (codeAt s (t / 64) first xs (m + k - 249))
  let filtered (place : Nat) (vs : List Int) : Int :=
    sat (-32768) 32767 (near place (sumI ((List.range 250).map fun k => decimWeight k * nthD vs k 0)) 16777216)
  (filtered 20 (bs.map (·.1)), filtered 21 (bs.map (·.2)))

/-- The multiples of 8 in a range of samples. -/
def eighths (m0 m1 : Nat) : List Nat := (List.range ((m1 + 7) / 8 - (m0 + 7) / 8)).map fun k => 8 * ((m0 + 7) / 8 + k)

/-- The amplitude stream's complex value at a multiple of 8: d_j or c_j (R193). -/
def baseband (s : State) (direct : Bool) (t first : Nat) (xs : List Int) (m : Nat) : Int × Int :=
  if direct then
    let bs := (List.range 8).map fun k => if m + k < 7 then (0, 0) else mix s t (m + k - 7) (codeAt s (t / 64) first xs (m + k - 7))
    (near 6 (sumI (bs.map (·.1))) 8, near 7 (sumI (bs.map (·.2))) 8)
  else decimated s t first xs m

/-! ### Windows -/

/-- First sample of a window: the release grain and FINE halved (R55, R169). -/
def firstSample (grain fine : Nat) : Nat := 4 * grain + fine / 2

/-- The samples that a RESULT window integrates (R169); the codes begin 249 samples before the window in a decimating
profile, with the window in a direct one. -/
def windowSamples (s : State) (t : Nat) (w : RWin) (xs : List Int) : List (Int × Int) :=
  let m0 := firstSample w.grain w.fine
  if w.direct then (List.range (4 * w.len)).map fun k => mix s t (m0 + k) (codeAt s (t / 64) m0 xs (m0 + k))
  else (eighths m0 (m0 + 4 * w.len)).map fun m => decimated s t (m0 - 249) xs m

/-- First tap word of a window (R167, R170). -/
def firstTap (t : Nat) (w : RWin) : Nat := (if w.direct then 4096 else 2560) * (t % 64 - 32) + 64 * w.kstart

/-- A kernel tap word (R171). -/
def tapWord (s : State) (c k : Nat) : Nat := mget 0 s.krn (c * 2 ^ 17 + k)

/-- The accumulation of R171: real part, imaginary part, energy. -/
def integrate (s : State) (c k0 : Nat) (ss : List (Int × Int)) : Int × Int × Int :=
  (List.range ss.length).foldl (fun a n =>
    let w := tapWord s c (k0 + n)
    let ki := sx 16 w
    let kq := sx 16 (w / 65536)
    let x := nthD ss n (0, 0)
    (a.1 + (ki * x.1 - kq * x.2), a.2.1 + (ki * x.2 + kq * x.1), a.2.2 + (x.1 * x.1 + x.2 * x.2))) (0, 0, 0)

/-- sat32 of a shifted sum (R171). -/
def sat32 (x : Int) (shift : Nat) : Int := sat (-2147483648) 2147483647 (x / (2 ^ shift : Nat))

/-- A discriminator coordinate before its clamp (R175). -/
def coord (x x0 : Int) (g : Nat) : Int := (x - x0) * g / 4294967296

/-- Byte address of a table cell in a cluster's table memory (R176). -/
def cellByte (t bank : Nat) (ci cq : Nat) : Nat := 8192 * (t % 64 - 32 + 16 * bank) + (128 * cq + ci) / 2

/-- A table cell (R176). -/
def cellAt (s : State) (c byte idx : Nat) : Nat := mget 0 s.tab (c * 2 ^ 18 + byte) / (if idx % 2 = 0 then 1 else 16) % 16

/-- A result before its flags are packed. -/
structure Result where
  i : Int
  q : Int
  energy : Int
  sat : Bool
  edge : Bool
  low : Bool
  state : Nat
  /-- a kernel word or the table cell fails parity -/
  bad : Bool
  deriving DecidableEq, Repr

/-- Integration and discrimination of a window that ran whole (R171, R175, R176). -/
def demodulate (s : State) (t : Nat) (w : RWin) (xs : List Int) : Result :=
  let c := t / 64
  let ss := windowSamples s t w xs
  let k0 := firstTap t w
  let a := integrate s c k0 ss
  let sh := rn s .TON_RES_SHIFT t
  let i := sat32 a.1 sh
  let q := sat32 a.2.1 sh
  let b1 := decide (w.bank = 1)
  let ci := coord i (rd s (if b1 then .TON_DISC_B1_I0 else .TON_DISC_I0) t) (rn s (if b1 then .TON_DISC_B1_GI else .TON_DISC_GI) t)
  let cq := coord q (rd s (if b1 then .TON_DISC_B1_Q0 else .TON_DISC_Q0) t) (rn s (if b1 then .TON_DISC_B1_GQ else .TON_DISC_GQ) t)
  let di := (sat 0 127 ci).toNat
  let dq := (sat 0 127 cq).toNat
  let byte := cellByte t w.bank di dq
  let cell := cellAt s c byte (128 * dq + di)
  { i := i, q := q, energy := a.2.2
    sat := decide (a.1 / (2 ^ sh : Nat) ≠ i) || decide (a.2.1 / (2 ^ sh : Nat) ≠ q)
    edge := decide (ci < 0 ∨ 127 < ci ∨ cq < 0 ∨ 127 < cq)
    low := bitOf cell 2
    state := cell % 4
    bad := s.krnBad.any (fun k => decide (c * 2 ^ 17 + k0 ≤ k ∧ k < c * 2 ^ 17 + k0 + ss.length)) || s.tabBad.contains (c * 2 ^ 18 + byte) }

/-- A window of samples [m0, m1) overlaps a span that ends at e, extended by ext (R183). -/
def overlaps (m0 m1 ext : Nat) (sp : Nat × Nat) : Bool := decide (sp.1 < m1) && decide (m0 ≤ sp.2 + ext)

/-- OVR (R183). -/
def ovrFlag (s : State) (c m0 m1 ext : Nat) : Bool := (aqget s c).spans.any (overlaps m0 m1 ext)

/-- NBR_OVR (R184): a neighbour span of another ACQ of the same RF die. -/
def nbrFlag (s : State) (c m0 m1 ext : Nat) : Bool :=
  (span (4 * cluDie c) 4).any fun a => decide (a ≠ c) &&
    ((aqget s a).hots.any (overlaps m0 m1 ext) || (match (aqget s a).hot with | some h => decide (h < m1) | none => false))

/-- STALE (R187). -/
def staleFlag (s : State) (c : Nat) : Bool := rn s .ACQ_CAL_STATE c ≠ 1

/-- The flag byte (R174). -/
def flagByte (fault busy stale sat edge nbr ovr low : Bool) : Nat :=
  128 * b2n fault + 64 * b2n busy + 32 * b2n stale + 16 * b2n sat + 8 * b2n edge + 4 * b2n nbr + 2 * b2n ovr + b2n low

/-- The verdict (R177). -/
def verdictOf (flags state : Nat) : Nat :=
  let valid := !bitOf flags 7 && !bitOf flags 6
  8 * b2n (bitOf flags 0 || bitOf flags 1 || bitOf flags 2 || bitOf flags 4 || bitOf flags 3) + 4 * b2n valid + (if valid then state else 0)

/-- The largest code magnitude among samples raises ACQ_PEAK. -/
def peakCodes (c : Nat) (xs : List Int) (s : State) : State := peak .ACQ_PEAK (maxN (xs.map fun x => (clampCode x).natAbs)) c s

/-- The RESULT record (R208). -/
def resultRecord (t : Nat) (w : RWin) (r : Result) (flags verdict : Nat) : List Word :=
  [recHeader 1 5 t w.shot, word (w.grain + w.len), word (pat 32 r.i * 2 ^ 32 + pat 32 r.q),
   word (magnitude r.i r.q * 2 ^ 32 + phase16 r.i r.q * 2 ^ 16 + flags * 256 + w.bank * 128 + verdict), word r.energy.toNat]

/-- The region's kernel layout differs from its profile's (R241). -/
def krnMismatch (s : State) (g : Nat) : Bool := decide (rn s .RGN_KRN_LAYOUT g ≠ b2n (directMode (profileOf s g)))

/-- t_meas_end of a window, in ACQ samples (R169). -/
def measEnd (w : RWin) : Nat := firstSample w.grain w.fine + 4 * w.len

/-- The next RESULT window of a slice to close: the first in t_meas_end, once its close has come (R225). -/
def closing (v : ReadSlice) (now : Nat) : Option RWin :=
  v.wins.foldl (fun m w =>
    if now < w.grain + w.len then m
    else match m with
      | none => some w
      | some x => if measEnd w < measEnd x then some w else m) none

/-- TON_LAST_ takes a result (R415). -/
def setLast (t : Nat) (l : LastRes) (s : State) : State :=
  wr .TON_LAST_FLAGS l.flags t (wr .TON_LAST_VERDICT l.verdict t (wr .TON_LAST_Q l.q t (wr .TON_LAST_I l.i t s)))

/-- WINDOW_CLOSE (R171 to R177, R225): the result of one slice. `bad`: a kernel word or table cell read for it fails parity. -/
def execWindowClose (t : Fin 1024) (xs : List Int) (bad : Bool) (s : State) : Out :=
  match closing (rdget s t.val) s.tml with
  | none => .next s
  | some w =>
    let c := t.val / 64
    let v := rdget s t.val
    let m0 := firstSample w.grain w.fine
    let m1 := m0 + 4 * w.len
    let ext := if w.direct then 0 else 250
    let r := demodulate s t.val w xs
    let ran := !w.busy && !w.cut && !krnMismatch s (cluRgn c)
    let parity := ran && (bad || r.bad)
    let fault := krnMismatch s (cluRgn c) || (!w.busy && (w.cut || parity))
    let good := ran && !parity
    let r := if good then r else { i := 0, q := 0, energy := 0, sat := false, edge := false, low := false, state := 0, bad := false }
    let nbr := nbrFlag s c m0 m1 ext
    let flags := flagByte fault w.busy (staleFlag s c) r.sat r.edge nbr (ovrFlag s c m0 m1 ext) r.low
    let verdict := verdictOf flags r.state
    let tend := w.grain + w.len
    let shotStart := (heldBy s tend).map (·.start)
    let ord := if v.ordShot = shotStart then v.ord else 0
    let out : Verd := { due := tend + (if w.direct then 55 else 145), tend := tend, ord := ord % 16, verdict := verdict,
                        record := resultRecord t.val w r flags verdict, shot := w.shot }
    let open_ := s.run.shots.any fun sh => decide (sh.num = w.shot ∧ sh.start ≤ w.grain)
    let last : LastRes := { shot := if open_ then some w.shot else none, i := r.i, q := r.q, verdict := verdict, flags := flags }
    let gone := shotGone s w.shot
    let s := rdset t.val { v with wins := v.wins.erase w, out := v.out ++ [out], ordShot := shotStart, ord := ord + 1
                                  hist := if gone then v.hist else last :: v.hist } s
    let s := if gone then s else setLast t.val last s
    let s := incShot .TON_RESULTS t.val w.shot s
    let s := if r.sat then incShot .TON_SAT t.val w.shot s else s
    let s := if r.edge then incShot .TON_EDGE t.val w.shot s else s
    let s := if r.low then incShot .TON_LOWCONF t.val w.shot s else s
    let s := if w.busy then inc .TON_CAP_OVERLAP t.val s else s
    let s := if fault then inc .TON_DEMOD_FAULT t.val s else s
    let s := if nbr then inc .ACQ_NBR_OVR c s else s
    let s := if parity then voidNow 3 (1408 + c) s else s
    .next (lowerHalts (cluRgn c) (peakCodes c (codesFrom s c (if w.direct then m0 else m0 - 249) xs) s))

/-- A record enters its cluster's crossing FIFO, or is dropped there when it is full (R29). -/
def crossRecord (c shot : Nat) (r : List Word) (full : Bool) (s : State) : State :=
  if full then settleRecord shot (voidNow 8 (1408 + c) (inc .TRG_CROSS_DROP c s))
  else { s with crossings := mput [] s.crossings c (mget [] s.crossings c ++ [(r, shot)]) }

/-- A message on a die's verdict bus reaches a cell of the board, or is discarded: it fails parity, or its window closed before the
present shot (R224, R226). -/
def boardWrite (d entry ord verdict tend : Nat) (bad : Bool) (s : State) : State :=
  if bad ∨ (s.run.opened ∧ tend < rn s .PKG_SHOT_START) then
    (span (4 * d) 4).foldl (fun t c => inc .CLU_FB_STRAY c t) s
  else
    let k := d * 2048 + entry * 4 + ord % 4
    let b := bcget s k
    bcset k { cur := some (ord, verdict), past := (match b.cur with | some x => x.1 :: b.past | none => b.past) } s

/-- The VERDICT message of R228 as it leaves its package. -/
def verdictMessage (pkg tone verdict ord tend : Nat) : Word :=
  word (2 ^ 60 + pkg * 2 ^ 52 + tone * 2 ^ 42 + verdict * 2 ^ 38 + ord * 2 ^ 34 + tend % 2 ^ 32)

/-- VERDICT_OUTPUT (R178, R224, R226, R227): the slice's oldest result leaves the read-out. Bit 0 of `marks`: the crossing FIFO of its
record is full; bit 1: its message on the die verdict bus fails parity. -/
def execVerdictOutput (t : Fin 1024) (marks : BitVec 2) (s : State) : Out :=
  let v := rdget s t.val
  let c := t.val / 64
  match v.out with
  | [] => .next s
  | o :: rest =>
    if s.tml < o.due then .next s
    else
      let s := rdset t.val { v with out := rest } s
      let s := boardWrite (cluDie c) (32 * (c % 4) + (t.val % 64 - 32)) o.ord o.verdict o.tend (marks.getLsbD 1) s
      let s := if bitOf (rn s .CLU_VEXPORT c) (t.val % 64 - 32) then
          { s with vre := { s.vre with inbox := s.vre.inbox ++
              [(cluDie c, verdictMessage (rn s .LNK_PKG_NO) t.val o.verdict o.ord o.tend)] } }
        else s
      .next (crossRecord c o.shot o.record (marks.getLsbD 0) s)

/-! ### TRACE windows -/

/-- Crossings of a record's own samples (R194, R209): their times in ticks from the first sample, with the period of the
stream. -/
def crossTimes (level hyst : Int) (period : Nat) : List Int → Int → Nat → Bool → List Nat
  | [], _, _, _ => []
  | x :: xs, prev, n, primed =>
    let hit := primed && decide (level ≤ x)
    let after := (primed && !hit) || decide (x < level - hyst)
    let rest := crossTimes level hyst period xs x (n + 1) after
    if hit then (((n : Int) - 1) * period + (64 * (level - prev) / (x - prev)) * period / 64).toNat :: rest else rest

/-- Largest and smallest of a list, 0 for none. -/
def largest : List Int → Int
  | [] => 0
  | x :: xs => xs.foldl max x
def smallest : List Int → Int
  | [] => 0
  | x :: xs => xs.foldl min x

/-- Words 3 to 5 of a TRACE record (R209): the first sample primes the crossings when it lies below L. -/
def traceMeasures (vals : List Int) (period : Nat) : List Word :=
  if vals.isEmpty then [0, 0, 0]
  else
    let mx := largest vals
    let mn := smallest vals
    let level := (mx + mn) / 2
    let ts := crossTimes level ((mx - mn) / 8) period (vals.drop 1) (nthD vals 0 0) 1 (decide (nthD vals 0 0 < level))
    let n := vals.length
    let ssq := (sumI (vals.map fun x => x * x)).toNat * 65536
    let root := isqrt (ssq / n)
    let rms := if root * root * n = ssq then root else if Config.roundUp 8 ssq then root + 1 else root
    let per := if ts.length < 2 then 0 else (quot 9 ((ts.getLast?.getD 0 : Nat) - (nthD ts 0 0 : Nat) : Int) (ts.length - 1)).toNat
    [word (pat 32 mx * 2 ^ 32 + pat 32 mn), word (max mx.natAbs mn.natAbs * 2 ^ 32 + rms % 2 ^ 32), word (per * 2 ^ 32 + ts.length)]

/-- 16-bit pieces packed into words, lowest first. -/
def packWords (bits : Nat) : Nat → List Nat → List Word
  | 0, _ => []
  | _, [] => []
  | n + 1, xs =>
    let k := 64 / bits
    word (sumN ((List.range k).map fun i => nthD xs i 0 % 2 ^ bits * 2 ^ (bits * i))) :: packWords bits n (xs.drop k)

/-- Words 0 to 2 of a TRACE record (R209). -/
def traceHead (w : TWin) (source samples words flags : Nat) : List Word :=
  [recHeader 2 (6 + words) source w.shot, word w.grain,
   word (w.kind * 2 ^ 62 + flags * 2 ^ 48 + w.fine / 2 * 2 ^ 46 + samples)]

/-- A sample of a TRACE record: 0 from the cut on (R205). -/
def uncut (w : TWin) (m : Nat) : Bool := match w.cut with | some k => decide (m < k) | none => true

/-- The TRACE record of KIND 01 (R209, R210). -/
def rawTrace (c : Nat) (w : TWin) (xs : List Int) (flags : Nat) : List Word :=
  let m0 := firstSample w.grain w.fine
  let raw := (List.range (4 * w.len)).map fun k => if uncut w (m0 + k) then nthD xs k 0 else 0
  let data := packWords 16 w.len (raw.map fun x => pat 12 (clampCode x) * 16 + b2n (decide (clampCode x ≠ x)))
  traceHead w c (4 * w.len) data.length flags ++ traceMeasures (raw.map clampCode) 64 ++ data

/-- A TRACE record of KIND 10 (R209, R210); the codes begin 249 samples before the window, 7 in direct mode. -/
def toneTrace (s : State) (t : Nat) (w : TWin) (xs : List Int) (flags : Nat) : List Word :=
  let m0 := firstSample w.grain w.fine
  let vals := (eighths m0 (m0 + 4 * w.len)).map fun m =>
    if uncut w m then baseband s w.direct t (m0 - (if w.direct then 7 else 249)) xs m else (0, 0)
  let data := packWords 32 ((vals.length + 1) / 2) (vals.map fun v => pat 16 v.2 * 65536 + pat 16 v.1)
  traceHead w t vals.length data.length flags ++ traceMeasures (vals.map fun v => (magnitude v.1 v.2 : Int)) 512 ++ data

/-- TRACE_WINDOW_CLOSE (R204, R205, R209). -/
def execTraceWindowClose (c : CluNo) (xs : List Int) (full : Bool) (s : State) : Out :=
  let v := trget s c.val
  match v.wins.find? (fun w => decide (w.grain + w.len ≤ s.tml)) with
  | none => .next s
  | some w =>
    let m0 := firstSample w.grain w.fine
    let m1 := m0 + 4 * w.len
    let ext := if w.kind = 1 ∨ w.direct then 0 else 250
    let flags := flagByte (w.cut.isSome && !w.busy) w.busy (staleFlag s c.val) false false (nbrFlag s c.val m0 m1 ext)
      (ovrFlag s c.val m0 m1 ext) false
    let none6 (src : Nat) : List Word := traceHead w src 0 0 flags ++ traceMeasures [] 64
    let recs := if w.kind = 1 then [if w.busy then none6 c.val else rawTrace c.val w xs flags]
      else w.tones.map fun t => if w.busy then none6 t else toneTrace s t w xs flags
    let s := trset c.val { v with wins := v.wins.erase w } s
    let s := if w.busy then incBy .TRG_TRACE_BUSY recs.length c.val s else s
    let s := recs.foldl (fun t r => crossRecord c.val w.shot r full t) s
    .next (lowerHalts (cluRgn c.val) (if w.kind = 1 then peakCodes c.val xs s
      else peakCodes c.val (codesFrom s c.val (m0 - (if w.direct then 7 else 249)) xs) s))

/-! ### Opening (R169, R172, R204 to R206) -/

/-- A region is in its profile mute (R243). -/
def inProfileMute (s : State) (g : Nat) : Bool := (rgget s g).muteEnd.isSome

/-- A window that opens now is cut: the profile changes, or the die's clock is not qualified (R20, R173, R205). -/
def cutAtOpening (s : State) (c : Nat) : Bool := inProfileMute s (cluRgn c) || !rfOk s (cluDie c)

/-- Open a RESULT window on a slice (R169, R172). -/
def openResult (t grain fine len kstart bank : Nat) (s : State) : State :=
  let g := t / 128
  let v := rdget s t
  let shot := shotNum s grain
  let busy := v.wins.any fun w => !w.busy && decide (grain < w.grain + w.len)
  let w : RWin := { grain := grain, fine := fine, len := len, kstart := kstart, bank := bank
                    direct := directMode (profileOf s g), shot := shot, busy := busy, cut := cutAtOpening s (t / 64) }
  awaitRecord shot 1 (rdset t { v with wins := v.wins ++ [w] } s)

/-- The read-out slices of a cluster that a MASK selects and the profile makes active (R50). -/
def maskTones (s : State) (c mask : Nat) : List Nat :=
  ((List.range 32).filter fun j => bitOf mask j && localActive (profileOf s (cluRgn c)) (32 + j)).map fun j => 64 * c + 32 + j

/-- The trace unit of a cluster has a window open at a grain, or an event-started one coming. -/
def traceBusy (v : TraceUnit) (grain : Nat) : Bool := v.wins.any fun w => !w.busy && decide (grain < w.grain + w.len)

/-- The slices that a TRACE operand records: none of KIND 01 (R204). -/
def traceTones (s : State) (c : Nat) (op : Word) : List Nat := if fld op 63 62 = 1 then [] else maskTones s c (fld op 31 0)

/-- A TRACE operand of KIND 10 without an active slice makes no window (R204). -/
def traceEmpty (s : State) (c : Nat) (op : Word) : Bool := decide (fld op 63 62 = 2) && (traceTones s c op).isEmpty

/-- Open a TRACE window (R204, R205). -/
def openTrace (c grain fine : Nat) (op : Word) (s : State) : State :=
  let kind := fld op 63 62
  let tones := traceTones s c op
  if traceEmpty s c op then s
  else
    let v := trget s c
    let shot := shotNum s grain
    let w : TWin := { kind := kind, grain := grain, fine := fine, len := fld op 47 32, tones := tones
                      direct := directMode (profileOf s (cluRgn c)), shot := shot, busy := traceBusy v grain
                      cut := if cutAtOpening s c then some (firstSample grain fine) else none }
    awaitRecord shot (if kind = 1 then 1 else tones.length) (trset c { v with wins := v.wins ++ [w] } s)

/-- CAPTURE at its release (R50, R169, R204). -/
def execCapture (f : FifoNo) (s : State) : Out :=
  match dueCmd s f.val 0x08 with
  | none => .next s
  | some e =>
    let c := fifoClu f.val
    let s := takeDue f.val e s
    if fld e.w1 63 62 = 0 then
      .next ((maskTones s c (fld e.w1 31 0)).foldl (fun u t =>
        openResult t e.release (edgeFine e.w0) (fld e.w1 47 32) (fld e.w1 53 48) (fld e.w1 54 54) u) s)
    else .next (openTrace c e.release (edgeFine e.w0) e.w1 s)

/-- CAPTURE_EVENT_WINDOW (R206): TRG_CAPSTARTS counts a window that opens. A CAPTURE that has opened the trace unit since the event
leaves a BUSY record (R205); with no window the event counts in TRG_CAPBUSY (log 75). -/
def execCaptureEventWindow (c : CluNo) (s : State) : Out :=
  let v := trget s c.val
  match v.capAt with
  | none => .next s
  | some (g, op) =>
    if s.tml < g then .next s
    else
      let s := trset c.val { v with capAt := none } s
      if (shotAt s.run.shots g).isNone ∨ traceEmpty s c.val op then .next (inc .TRG_CAPBUSY c.val s)
      else if traceBusy v g then .next (openTrace c.val g 0 op (inc .TRG_CAPBUSY c.val s))
      else .next (openTrace c.val g 0 op (inc .TRG_CAPSTARTS c.val s))

/-- Windows of a cluster open at a grain are cut there (R173, R205). -/
def cutWindows (c grain : Nat) (s : State) : State :=
  let s := (span (64 * c + 32) 32).foldl (fun t x =>
    let v := rdget t x
    if v.wins.isEmpty then t
    else rdset x { v with wins := v.wins.map fun w => if w.grain ≤ grain ∧ grain < w.grain + w.len then { w with cut := true } else w } t) s
  let v := trget s c
  trset c { v with wins := v.wins.map fun w =>
    if w.grain ≤ grain ∧ grain < w.grain + w.len then
      { w with cut := some (match w.cut with | some k => min k (4 * grain) | none => 4 * grain) }
    else w } s

/-- A window is open on an ACQ (R185). -/
def acqOpen (s : State) (c : Nat) : Bool :=
  s.reads.any (fun e => decide (e.1 / 64 = c) && e.2.wins.any fun w => !w.busy && decide (s.tml < w.grain + w.len)) ||
    (trget s c).wins.any fun w => !w.busy && decide (s.tml < w.grain + w.len)

/-! ### Overrange and HOT (R183, R184) -/

/-- ACQ_OVERRANGE (R183): a sample beyond full scale. A die without a qualified clock samples nothing (R31), and in a calibration
step the input is switched away. -/
def execAcqOverrange (a : CluNo) (m : Nat) (code : Int) (s : State) : Out :=
  if (-2048 ≤ code ∧ code ≤ 2047) ∨ !rfOk s (cluDie a.val) ∨ inCal s a.val m then .next s
  else
    let v := aqget s a.val
    let spans := match v.spans with
      | sp :: rest => if m < sp.2 + 16 then (min sp.1 m, max sp.2 (m + 16)) :: rest else (m, m + 16) :: v.spans
      | [] => [(m, m + 16)]
    let s := aqset a.val { v with spans := spans, ovrGrain := some (m / 4) } s
    let s := flag .ACQ_OVR a.val (peakCodes a.val [code] s)
    .next (if v.ovrGrain = some (m / 4) then s else inc .ACQ_OVR_GRAINS a.val s)

/-- HOT_TRIP (R184), on a qualified clock (R31): a trip before the last neighbour span has ended carries it on. -/
def execHotTrip (a : CluNo) (s : State) : Out :=
  let v := aqget s a.val
  let m := 4 * s.tml
  match v.hot with
  | some _ => .next s
  | none => if !rfOk s (cluDie a.val) then .next s else
    let v := match v.hots with
      | sp :: rest => if m ≤ sp.2 then { v with hot := some sp.1, hots := rest } else { v with hot := some m }
      | [] => { v with hot := some m }
    .next (inc .ACQ_HOT_COUNT a.val (flag .ACQ_HOT a.val (aqset a.val v s)))

/-- HOT_RELEASE (R184): the neighbour span ends 20 ns later. -/
def execHotRelease (a : CluNo) (s : State) : Out :=
  let v := aqget s a.val
  match v.hot with
  | none => .next s
  | some h => .next (aqset a.val { v with hot := none, hots := (h, 4 * s.tml + 200) :: v.hots } s)

/-! ### ACQ calibration (R185 to R188) -/

/-- Age of the last completed pass in ms. -/
def calAge (s : State) (a : Nat) : Option Nat := (aqget s a).calAt.map (msSince s)

/-- The deferral gap of R188 in force, by its first grain: the last 100,000 grains before a deferred boundary; a step must fit. -/
def gapNow (s : State) : Option Nat := s.run.gaps.find? fun g => decide (g ≤ s.tml ∧ s.tml + 20000 ≤ g + 100000)

/-- A pass is due or in progress on an ACQ (R185, R188). -/
def passDue (s : State) (a : Nat) : Bool :=
  rn s .ACQ_CAL_STEP a ≠ 0 ||
    (match calAge s a with | none => true | some n => decide (10 ≤ n))

/-- A step may start now (R185, R188). -/
def stepMayStart (s : State) (a : Nat) : Bool :=
  (aqget s a).calFrom.isNone && !acqOpen s a && rfOk s (cluDie a) && passDue s a &&
    (quietFor s (cluRgn a) 20000 || ((gapNow s).isSome && (match calAge s a with | none => true | some n => decide (100 ≤ n))))

/-- ACQ_CAL_STEP_START (R185, R188). -/
def execAcqCalStepStart (a : CluNo) (s : State) : Out :=
  if stepMayStart s a.val then
    let v := aqget s a.val
    let g := gapNow s
    let s := aqset a.val { v with calFrom := some s.tml, deferred := if g.isSome then g else v.deferred } s
    .next (if g.isSome ∧ v.deferred ≠ g then inc .ACQ_CAL_DEFER a.val s else s)
  else .next s

/-- ACQ_CAL_STEP_DONE (R185). -/
def execAcqCalStepDone (a : CluNo) (s : State) : Out :=
  let v := aqget s a.val
  match v.calFrom with
  | none => .next s
  | some g =>
    if s.tml < g + 20000 then .next s
    else
      let n := rn s .ACQ_CAL_STEP a.val
      let s := wr .ACQ_CAL_STEP ((n + 1) % 4 : Nat) a.val s
      let v := { v with calFrom := none, cals := (4 * g, 4 * (g + 20000)) :: v.cals }
      if n = 3 then
        .next (inc .ACQ_CAL_PASSES a.val (wr .ACQ_CAL_STATE 1 a.val (aqset a.val { v with calAt := some s.elapsed } s)))
      else .next (aqset a.val v s)

/-- A CAPTURE's arrival abandons a step in progress (R186). -/
def abandonStep (a : Nat) (s : State) : State :=
  let v := aqget s a
  match v.calFrom with
  | none => s
  | some g => inc .ACQ_CAL_ABANDON a (aqset a { v with calFrom := none, cals := (4 * g, 4 * s.tml) :: v.cals } s)

/-- ACQ_CAL_STALE (R187). -/
def execAcqCalStale (a : CluNo) (s : State) : Out :=
  if rn s .ACQ_CAL_STATE a.val = 1 ∧ 100 ≤ (calAge s a.val).getD 0 then
    .next (flag .ACQ_CAL_STALE a.val (wr .ACQ_CAL_STATE 2 a.val s))
  else .next s

/-- Spans that no window can meet any more are forgotten. -/
def pruneAcq (s : State) : State :=
  { s with acqs := mmap {} (fun _ v =>
      { v with spans := v.spans.filter (fun x => decide (4 * s.tml < x.2 + 2 ^ 21))
               hots := v.hots.filter (fun x => decide (4 * s.tml < x.2 + 2 ^ 21))
               cals := v.cals.filter (fun x => decide (4 * s.tml < x.2 + 2 ^ 21)) }) s.acqs }

/-! ### Kernel and table memory (R179 to R182) -/

/-- Store kernel words from a word address; a rewritten word is sound again. -/
def storeTaps (c : Nat) : Nat → List Nat → State → State
  | _, [], s => s
  | k, w :: ws, s =>
    storeTaps c (k + 1) ws
      { s with krn := mput 0 s.krn (c * 2 ^ 17 + k) w, krnBad := s.krnBad.filter (fun x => decide (x ≠ c * 2 ^ 17 + k)) }

/-- Store table bytes from a byte address. -/
def storeTable (c : Nat) : Nat → List Byte → State → State
  | _, [], s => s
  | k, b :: bs, s =>
    storeTable c (k + 1) bs
      { s with tab := mput 0 s.tab (c * 2 ^ 18 + k) b.toNat, tabBad := s.tabBad.filter (fun x => decide (x ≠ c * 2 ^ 18 + k)) }

/-- A table byte has both reserved cell bits 0 (R176). -/
def tableByteOk (b : Byte) : Bool := !bitOf b.toNat 3 && !bitOf b.toNat 7

/-- n bytes from a tap word on are whole words of the kernel memory (R182). -/
def kernelSpan (off n : Nat) : Bool := decide (n % 4 = 0 ∧ off + n / 4 ≤ 81920)

/-- n bytes from a table on are whole tables of the table memory (R182). -/
def tableSpan (k n : Nat) : Bool := decide (n % 8192 = 0 ∧ 8192 * k + n ≤ 262144)

/-- A write of CLU_KRN_DATA (R182) from the path's offset. -/
def writeKernel (c off : Nat) (bs : List Byte) (s : State) : Ans State :=
  if !kernelSpan off bs.length then .error abLength
  else if inRun s then .error abCannotWrite
  else .ok (storeTaps c off (words32 (bs.length / 4) bs) s)

/-- A write of CLU_DISC_DATA (R182) from the path's table. -/
def writeTables (c k : Nat) (bs : List Byte) (s : State) : Ans State :=
  if !tableSpan k bs.length then .error abLength
  else if !bs.all tableByteOk then .error abRange
  else if inRun s then .error abCannotWrite
  else .ok (storeTable c (8192 * k) bs s)

/-- The kernel words of a cluster from an offset, as bytes. -/
def readKernel (s : State) (c off : Nat) : List Byte :=
  ((List.range (81920 - off)).map fun k => leBytes 4 (tapWord s c (off + k))).flatten

/-- The tables of a cluster from a table on, as bytes. -/
def readTables (s : State) (c k : Nat) : List Byte :=
  (List.range (262144 - 8192 * k)).map fun i => BitVec.ofNat 8 (mget 0 s.tab (c * 2 ^ 18 + 8192 * k + i))

end Sys2Proof.Machine
end

