-- ==== Sys2Proof/Machine/Feedback.lean ====
section
/-! DEFINITION. Verdicts to choices (R226, R232 to R236): BRANCH, BRE's choice, the select lines and register, and the
decision an abutment reads. -/

namespace Sys2Proof.Machine

/-- A grain from its low bits: the latest at or before the arrival (R226, R228). -/
def backGrain (bits arrival x : Nat) : Nat := arrival - (arrival + 2 ^ bits - x % 2 ^ bits) % 2 ^ bits

/-- VERDICT_BUS_MESSAGE (R226): the oldest message on a die's bus. `bad`: it fails parity. -/
def execVerdictBusMessage (d : Fin 4) (bad : Bool) (s : State) : Out :=
  match mget [] s.vre.buses d.val with
  | [] => .next s
  | m :: rest =>
    let s := { s with vre := { s.vre with buses := mput [] s.vre.buses d.val rest } }
    let n := m.toNat
    .next (boardWrite d.val (nfld n 19 11) (nfld n 23 20) (nfld n 3 0) (backGrain 16 s.tml (nfld n 39 24)) bad s)

/-- The effect of BRANCH (R83, R232). DESIGN CHOICE: armings outlast an ABORT and the end of a run (log 68). -/
def branchEffect (e : Nat) (ws : List QWord) (s : State) : State :=
  let w0 := (nthD ws 0 { data := 0 }).data
  let v := eget s e
  let c := e / 8
  let off := loopBase v + fld w0 31 0
  let slot := fld w0 35 32
  let b := brget s c
  let s1 := consume e 1 s
  if v.len ≤ off ∨ b.arms.any (fun a => decide (a.slot = slot ∧ s.tml < a.d)) then afterPacket e (dropIllegal e 0x30 6 s1)
  else
    let n := c * 4096 + fld w0 47 36
    let a : Arming := { slot := slot, d := v.tshot + off, w0 := word (rn s .CLU_BR_ENTRY n), w1 := word (rn s .CLU_BR_MAP n) }
    let s2 := brset c { b with arms := b.arms.filter (fun x => decide (x.slot ≠ slot)) ++ [a], reg := mput .empty b.reg slot .empty } s1
    afterPacket e (incShot .CLU_FB_ARMS c v.shot (execOpcode e 0x30 s2))

/-- Source i of an arming (R232). -/
def armSource (a : Arming) (i : Nat) : Nat := if i = 0 then fld a.w0 63 32 else fld a.w0 31 0

/-- The board cell that a source names. -/
def sourceCell (c src : Nat) : Nat := cluDie c * 2048 + nfld src 20 12 * 4 + nfld src 3 0 % 4

/-- The verdict a source holds (R234): the cell's, when its ordinal is WIN; a cell that fails parity reads as empty (R224). -/
def sourceVerdict (s : State) (c src : Nat) : Option Nat :=
  match (bcget s (sourceCell c src)).cur with
  | some (o, v) => if o = nfld src 3 0 ∧ !(bcget s (sourceCell c src)).bad then some v else none
  | none => none

/-- The source's verdict was on the board and has been overwritten (R234). -/
def sourceLost (s : State) (c src : Nat) : Bool :=
  (sourceVerdict s c src).isNone && (bcget s (sourceCell c src)).past.contains (nfld src 3 0)

/-- A verdict is valid for a source (R234). -/
def sourceValid (src v : Nat) : Bool := bitOf v 2 && (!bitOf src 30 || !bitOf v 3)

/-- A cell is read for an enabled source (R224): a cell that fails parity, found now or before, counts for the reading cluster. -/
def readCell (c src : Nat) (bad : Bool) (s : State) : State :=
  if bitOf src 31 ∧ (bad ∨ (bcget s (sourceCell c src)).bad) then
    inc .CLU_FB_INVALID c (bcset (sourceCell c src) { bcget s (sourceCell c src) with bad := true } s)
  else s

/-- Replace an arming of a slot. -/
def putArming (c slot : Nat) (f : Arming → Arming) (s : State) : State :=
  let b := brget s c
  brset c { b with arms := b.arms.map fun a => if a.slot = slot then f a else a } s

/-- Count a source found overwritten, once per arming (R234). -/
def countLost (c : Nat) (a : Arming) (i : Nat) (s : State) : State :=
  if bitOf (armSource a i) 31 ∧ sourceLost s c (armSource a i) ∧ !a.overs.contains i then
    inc .CLU_FB_OVERWRITTEN c (putArming c a.slot (fun x => { x with overs := i :: x.overs }) s)
  else s

/-- The BRE of a cluster has no stream in this run (R88): its slots receive no choice (R236). -/
def breParked (s : State) (c : Nat) : Bool := decide ((eget s (8 * c + 7)).state = .parked)

/-- BRE_CHOICE (R234, R236): `bad` bit i, the cell read for source i fails parity. -/
def execBreChoice (c : CluNo) (slot : Fin 16) (bad : BitVec 2) (s : State) : Out :=
  match (brget s c.val).arms.find? (fun a => decide (a.slot = slot.val)) with
  | none => .next s
  | some a =>
    if a.closed ∨ a.decided ∨ breParked s c.val ∨ regionHalted s (cluRgn c.val) then .next s
    else
      let s0 := armSource a 0
      let s1 := armSource a 1
      let s := readCell c.val s1 (bad.getLsbD 1) (readCell c.val s0 (bad.getLsbD 0) s)
      let v0 := if bitOf s0 31 then sourceVerdict s c.val s0 else some 0
      let v1 := if bitOf s1 31 then sourceVerdict s c.val s1 else some 0
      match v0, v1 with
      | some x, some y =>
        let good := (!bitOf s0 31 || sourceValid s0 x) && (!bitOf s1 31 || sourceValid s1 y)
        let k := 4 * (y % 4) + x % 4
        let alt := if good then some (fld a.w1 (2 * k + 1) (2 * k)) else none
        let s := putArming c.val slot.val (fun z => { z with decided := true }) s
        let b := brget s c.val
        let s := brset c.val { b with lines := b.lines ++ [(slot.val, a.d, alt)] } s
        .next (if good then s else inc .CLU_FB_INVALID c.val s)
      | _, _ => .next (countLost c.val a 1 (countLost c.val a 0 s))

/-- SELECT_REGISTER_TAKE (R235, R236). -/
def execSelectRegisterTake (c : CluNo) (slot : Fin 16) (s : State) : Out :=
  let b := brget s c.val
  match b.lines.find? (fun l => decide (l.1 = slot.val)) with
  | none => .next s
  | some l =>
    if breParked s c.val ∨ regionHalted s (cluRgn c.val) then .next s
    else
      let b := { b with lines := b.lines.erase l }
      if s.tml + 24 ≤ l.2.1 then
        let e : SelEntry := match l.2.2 with | some a => .choice a s.tml | none => .noChoice
        .next (low .CLU_FB_SLACK ((l.2.1 : Int) - 24 - s.tml) c.val (brset c.val { b with reg := mput .empty b.reg slot.val e } s))
      else .next (inc .CLU_FB_CHOICE_LATE c.val (brset c.val b s))

/-- BRE still waits for a source of an arming (R234, R235): the board holds no verdict of an enabled one. -/
def waitsSource (s : State) (c : Nat) (a : Arming) : Bool :=
  [0, 1].any fun i => bitOf (armSource a i) 31 && (sourceVerdict s c (armSource a i)).isNone

/-- ARMING_DEADLINE (R235). -/
def execArmingDeadline (c : CluNo) (slot : Fin 16) (s : State) : Out :=
  let b := brget s c.val
  match b.arms.find? (fun a => decide (a.slot = slot.val)) with
  | none => .next s
  | some a =>
    if a.closed ∨ s.tml + 24 < a.d then .next s
    else
      let s := putArming c.val slot.val (fun x => { x with closed := true }) s
      if mget .empty b.reg slot.val = .empty then
        let b := brget s c.val
        let s := brset c.val { b with reg := mput .empty b.reg slot.val .expired } s
        .next (if !a.decided ∧ waitsSource s c.val a then inc .CLU_FB_MISSING c.val s else s)
      else .next s

/-- What an abutment reads at the decision grain of its SELECT (R236): a choice in time for it, or nothing. -/
def registerChoice (s : State) (c slot d : Nat) : Option Nat :=
  match mget .empty (brget s c).reg slot with
  | .choice a g => if g + 24 ≤ d then some a else none
  | _ => none

/-- The counts and the void of a decision point, once for the cluster's slot and decision grain (R236). -/
def decide236 (c slot d : Nat) (s : State) : State :=
  let b := brget s c
  if b.done.contains (slot, d) then s
  else
    let s := brset c { b with done := (slot, d) :: b.done } s
    match registerChoice s c slot d with
    | some a => incShot .CLU_FB_ALT (4 * c + a) (shotNum s d) (incShot .CLU_FB_CHOSEN c (shotNum s d) s)
    | none => voidAt 5 c d (inc .CLU_FB_DEFAULT c s)

end Sys2Proof.Machine
end

