-- ==== Sys2Proof/Machine/Abutment.lean ====
section
/-! DEFINITION. Edge FIFOs and abutments (R40 to R60, R264 to R267, R456): a command's arrival and judgement, the read
half, STAGE and SELECT. -/

namespace Sys2Proof.Machine

/-- The FIFO kinds that accept an opcode (R41). -/
def edgeAccepts (k : FifoKind) (op : Nat) : Bool :=
  match k with
  | .drive => [0x01, 0x02, 0x03, 0x04, 0x05, 0x09, 0x0A, 0x0B].contains op
  | .readout => [0x01, 0x02, 0x03, 0x04, 0x05, 0x09, 0x0A, 0x0B].contains op
  | .flux => [0x01, 0x02, 0x03, 0x06, 0x09, 0x0A, 0x0B].contains op
  | .bias => [0x03, 0x07].contains op
  | .capture => [0x08, 0x09, 0x0A, 0x0B].contains op

/-- The profile of a region at a grain: the one in force, or a request whose grain is known and comes before (R242). -/
def profileAt (s : State) (g grain : Nat) : Nat :=
  match (rgget s g).req with
  | some (p, _, some due) => if due ≤ grain then p else profileOf s g
  | _ => profileOf s g

/-- The number of samples a RESULT window integrates (R169). -/
def windowCount (direct : Bool) (m0 len : Nat) : Nat := if direct then 4 * len else (eighths m0 (m0 + 4 * len)).length

/-- The limits of a CAPTURE operand for a profile (R50, R167, R170, R204). -/
def captureOk (p grain fine : Nat) (w1 : Word) : Bool :=
  let kind := fld w1 63 62
  let len := fld w1 47 32
  decide (fld w1 61 55 = 0) && decide (1 ≤ len) &&
    (if kind = 0 then
       decide (fld w1 54 54 = 0 ∨ p = profSwift ∨ p = profCool) &&
       decide (fld w1 53 48 ≤ if directMode p then 63 else 39) &&
       decide (fld w1 53 48 * 64 + windowCount (directMode p) (firstSample grain fine) len ≤ if directMode p then 4096 else 2560)
     else if kind = 1 then decide (fld w1 31 0 = 0) && decide (len ≤ 16384) && decide (fld w1 54 54 = 0 ∨ p = profSwift ∨ p = profCool)
     else if kind = 2 then decide (fld w1 54 54 = 0 ∨ p = profSwift ∨ p = profCool)
     else false)

/-- The operand of an opcode has no reserved bit set and no excluded value (R43 to R54). -/
def operandOk (op p grain fine : Nat) (w1 : Word) : Bool :=
  match op with
  | 0x01 => decide (fld w1 19 0 = 0)
  | 0x02 => decide (fld w1 51 0 = 0)
  | 0x03 => decide (w1 = 0)
  | 0x04 => decide (fld w1 63 48 = 0)
  | 0x05 => decide (fld w1 63 33 = 0)
  | 0x06 => decide (fld w1 63 16 = 0)
  | 0x07 => decide (fld w1 63 32 = 0) && decide (fld w1 29 24 = 0)
  | 0x08 => captureOk p grain fine w1
  | 0x09 => decide (fld w1 63 32 = 0) && decide (fld w1 15 3 = 0) &&
      (if fld w1 1 0 = 2 then decide (fld w1 31 16 ≠ 0) else decide (fld w1 31 16 = 0))
  | 0x0A => decide (fld w1 63 20 = 0) && decide (fld w1 15 10 = 0) && decide (fld w1 7 4 = 0) &&
      decide (1 ≤ fld w1 19 16 ∧ fld w1 19 16 ≤ 8)
  | 0x0B => decide (fld w1 63 10 = 0) && decide (fld w1 7 4 = 0)
  | _ => false

/-- The form of a command in a FIFO (R40, R42): its length, opcode, reserved bits and operand values. -/
def formOk (s : State) (f : Nat) (c : EdgeIn) (release : Nat) : Bool :=
  let op := edgeOp c.w0
  decide (c.words = 2) && edgeAccepts (fifoKind f) op && decide (fld c.w0 12 8 = 0) &&
    operandOk op (profileAt s (cluRgn (fifoClu f)) release) release (edgeFine c.w0) c.w1

/-- The validity check's verdict (R56). -/
inductive Validity where
  | valid | late | far
  deriving DecidableEq, Repr

/-- The 48-bit difference of R56. -/
def releaseDiff (w0 : Word) (arrival : Nat) : Nat := (edgeRelease48 w0 + 2 ^ 48 - arrival % 2 ^ 48) % 2 ^ 48

/-- R56. -/
def validity (d : Nat) : Validity :=
  if 2 ^ 47 ≤ d then .late else if d < 32 then .late else if 2 ^ 46 ≤ d then .far else .valid

/-- The reconstructed release grain (R56, R58). -/
def fullRelease (d arrival : Nat) : Nat := if 2 ^ 47 ≤ d then arrival + d - 2 ^ 48 else arrival + d

/-- The release instant for the ordering rule (R55, R57). DESIGN CHOICE: where R55 ignores FINE, on flux and bias FIFOs, a command
other than MARK takes its place by its grain alone (log 69). -/
def orderInstant (f : Nat) (w0 : Word) (release : Nat) : Nat × Nat :=
  (release, match fifoKind f with
    | .flux => if edgeOp w0 = 0x09 then edgeFine w0 else 0
    | .bias => 0
    | _ => edgeFine w0)

/-- One instant precedes another. -/
def precedes (a b : Nat × Nat) : Bool := decide (a.1 < b.1) || (decide (a.1 = b.1) && decide (a.2 < b.2))

/-- t_shot of the shot that holds a grain, 0 when none is known. -/
def shotStartAt (s : State) (g : Nat) : Nat :=
  match shotAt s.run.shots g with
  | some i => match s.run.shots[i]? with | some sh => sh.start | none => 0
  | none => 0

/-- The notes that count for a release: accepted units of its shot whose slot no accepted SELECT closes. -/
def liveNotes (s : State) (v : Fifo) (release : Nat) : List StageNote :=
  v.notes.filter fun n => decide (n.shot = shotStartAt s release) && n.closed.isNone

/-- The staging limits for a STAGE (R53), and the place of a SELECT after its STAGEs (R54). -/
def stagingOk (s : State) (v : Fifo) (w0 w1 : Word) (release : Nat) : Bool :=
  let ns := liveNotes s v release
  let slot := fld w1 3 0
  if edgeOp w0 = 0x0A then
    let others := (ns.map (·.slot)).eraseDups.filter (fun x => decide (x ≠ slot))
    decide (others.length ≤ 1) && decide (sumN (ns.map (·.count)) + fld w1 19 16 ≤ 32) &&
      !ns.any (fun n => decide (n.slot = slot ∧ n.alt = fld w1 9 8))
  else if edgeOp w0 = 0x0B then ns.all (fun n => decide (n.slot ≠ slot ∨ n.release < release))
  else true

/-- A judgement (R456): which check failed first. `late far k`: command k of the unit. -/
inductive Judgement where
  | inactive | illegal
  | late (k : Nat) | far (k : Nat)
  | order
  | accepted
  deriving DecidableEq, Repr

/-- Command k with its verdict, unless it is valid: then what the commands after it give. -/
def invalidOr (v : Validity) (k : Nat) (later : Option (Nat × Validity)) : Option (Nat × Validity) :=
  if v = .valid then later else some (k, v)

/-- The first command of a unit that is not valid. -/
def firstInvalid (arrival : Nat) : List EdgeIn → Nat → Option (Nat × Validity)
  | [], _ => none
  | c :: cs, k => invalidOr (validity (releaseDiff c.w0 arrival)) k (firstInvalid arrival cs (k + 1))

/-- Release grain of a command of a unit that arrives now. -/
def releaseNow (s : State) (w0 : Word) : Nat := fullRelease (releaseDiff w0 s.tml) s.tml

/-- The checks of R456 in order, for a command with the commands of its unit. DESIGN CHOICE: a STAGE or SELECT in a unit makes the
whole unit ILLEGAL by its form (log 69). -/
def judge (s : State) (f : Nat) (c : EdgeIn) (unit : List EdgeIn) : Judgement :=
  let v := fget s f
  let r := releaseNow s c.w0
  if !fifoActive s f then .inactive
  else if !formOk s f c r ∨ unit.any (fun m => edgeOp m.w0 = 0x0A ∨ edgeOp m.w0 = 0x0B ∨ !formOk s f m (releaseNow s m.w0)) then
    .illegal
  else
    match firstInvalid s.tml (c :: unit) 0 with
    | some (k, .late) => .late k
    | some (k, .far) => .far k
    | _ =>
      if (match v.last with | some l => precedes (orderInstant f c.w0 r) l | none => false) then .order
      else if (match v.last with | some l => decide (l.1 = r ∧ 4 ≤ v.same) | none => false) then .illegal
      else if !stagingOk s v c.w0 c.w1 r then .illegal
      else .accepted

/-- The number of the shot that a cause at a grain voids (R58). -/
def voidShotNum (s : State) (g : Nat) : Nat :=
  match s.run.shots with
  | [] => rn s .PKG_SHOT
  | sh :: _ => if g < sh.start then sh.num else shotNum s g

/-- Counters, TML_FIRST_ objects and void of a LATE or FAR command (R58). -/
def countLate (far : Bool) (f : Nat) (w0 : Word) (s : State) : State :=
  let r := releaseNow s w0
  let s := if far then inc .TML_FAR 0 (inc .TML_F_FAR f s) else inc .TML_LATE 0 (inc .TML_F_LATE f s)
  let s := if rn s .TML_LATE_FLAG = 0 then
      wr .TML_FIRST_OPCODE (edgeOp w0) 0 (wr .TML_FIRST_ARRIVAL s.tml 0 (wr .TML_FIRST_RELEASE r 0
        (wr .TML_FIRST_SHOT (voidShotNum s r) 0 (wr .TML_FIRST_FIFO f 0 s))))
    else s
  voidAt 0 f r (flag .TML_LATE_FLAG 0 s)

/-- ILLEGAL counters and void for n commands with a release grain (R42). -/
def countIllegal (f n release : Nat) (s : State) : State :=
  voidAt 1 f release (incBy .TML_ILLEGAL n 0 (incBy .TML_F_ILLEGAL n f s))

/-- What an accepted command leaves behind: the order and limit state, the notes of its staging, its camber (R42, R53, R57,
R60). -/
def acceptCmd (f : Nat) (c : EdgeIn) (unit : List EdgeIn) (s : State) : State :=
  let v := fget s f
  let r := releaseNow s c.w0
  let slot := fld c.w1 3 0
  let note : StageNote := { slot := slot, alt := fld c.w1 9 8, count := fld c.w1 19 16, release := r, shot := shotStartAt s r }
  let notes := if edgeOp c.w0 = 0x0A then v.notes ++ [note]
    else if edgeOp c.w0 = 0x0B then v.notes.map (fun n => if n.slot = slot ∧ n.closed = none then { n with closed := some r } else n)
    else v.notes
  let same := match v.last with | some l => if l.1 = r then v.same + 1 else 1 | none => 1
  let cams := (c :: unit).map fun m => (releaseNow s m.w0, satN 0x7FFFFFFF (releaseDiff m.w0 s.tml))
  fset f { v with notes := notes, last := some (orderInstant f c.w0 r), same := same, cambers := v.cambers ++ cams } s

/-- A packet has a word that carries PSN (R266). -/
def tainted (c : EdgeIn) : Bool := c.psn0 || c.psn1 || c.more.any (·.psn)

/-- The abutment judges a command or unit that has arrived whole (R456); it stays in the FIFO until the read half takes
it. -/
def judgeArrival (f : Nat) (c : EdgeIn) (unit : List EdgeIn) (s : State) : State :=
  let j := judge s f c unit
  let r := releaseNow s c.w0
  let n := 1 + unit.length
  let cmd : EdgeCmd := { w0 := c.w0, w1 := c.w1, release := r, ok := decide (j = .accepted)
                         unit := unit.map fun m => (m.w0, m.w1, releaseNow s m.w0)
                         psn0 := c.psn0, psn1 := c.psn1
                         unitPsn := (span 1 unit.length).filter fun i => tainted (nthD (c :: unit) i c)
                         words := sumN ((c :: unit).map (·.words)), seq := (fget s f).seq
                         more := ((c :: unit).zipIdx.map fun m => m.1.more.map fun w => (m.2, w)).flatten }
  let s := if fifoKind f = .capture ∧ (c :: unit).any (fun m => decide (edgeOp m.w0 = 0x08)) then abandonStep (fifoClu f) s else s
  let s := match j with
    | .inactive => incBy .TML_F_INACTIVE n f s
    | .illegal => countIllegal f n r s
    | .late k => countLate false f (nthD (c :: unit) k c).w0 s
    | .far k => countLate true f (nthD (c :: unit) k c).w0 s
    | .order => inc .TML_ORDER 0 (countLate false f c.w0 s)
    | .accepted => acceptCmd f c unit s
  fset f { fget s f with cmds := (fget s f).cmds ++ [cmd], seq := cmd.seq + 1 } s

/-- A command reaches a write half of a die whose clock is unqualified, or belongs to a shot whose barrier completed before
the clock qualified again (R20). -/
def clockDiscard (s : State) (f : Nat) (w0 : Word) : Bool :=
  match fifoKind f with
  | .bias => false
  | _ =>
    let d := cluDie (fifoClu f)
    !rfOk s d ||
      (match mget 0 s.rfQualAt d with
       | 0 => false
       | q =>
         let sh := match shotAt s.run.shots (releaseNow s w0) with | some i => s.run.shots[i]? | none => s.run.shots.getLast?
         match sh with | some x => decide (x.barrier ≤ q) | none => false)

/-- A STAGE of the form that heads a unit (R52). DESIGN CHOICE: one with an excluded COUNT or of another length heads none, and the
commands after it are judged singly (log 69). -/
def headsUnit (f : Nat) (c : EdgeIn) : Bool :=
  decide (edgeOp c.w0 = 0x0A ∧ c.words = 2 ∧ 1 ≤ fld c.w1 19 16 ∧ fld c.w1 19 16 ≤ 8) && edgeAccepts (fifoKind f) 0x0A

/-- A command joins the unit that is being formed, heads one, or is judged by itself (R52, R56). -/
def intake (f : Nat) (c : EdgeIn) (s : State) : State :=
  match (fget s f).unit with
  | h :: ms =>
    let unit := ms ++ [c]
    if unit.length < fld h.w1 19 16 then fset f { fget s f with unit := h :: unit } s
    else judgeArrival f h unit (fset f { fget s f with unit := [] } s)
  | [] => if headsUnit f c then fset f { fget s f with unit := [c] } s else judgeArrival f c [] s

/-- EDGE_COMMAND_ARRIVAL (R456, R20, R56, R62, R90): the write half completes the next command's END word, not while the fabric of
its region halts. -/
def execEdgeCommandArrival (f : FifoNo) (s : State) : Out :=
  let v := fget s f.val
  match v.incoming with
  | [] => .next s
  | c :: rest =>
    if regionHalted s (cluRgn (fifoClu f.val)) then .next s
    else
      let s := fset f.val { v with incoming := rest } s
      if s.run.aborted then .next (inc .QUE_EF_FLUSHED f.val (inc .ENG_DISCARD (fifoEng f.val) s))
      else if clockDiscard s f.val c.w0 then .next (inc .QUE_EF_FLUSHED f.val s)
      else .next (intake f.val c (fset f.val { fget s f.val with wp := (v.wp + c.words) % 1024 } s))

/-- The notes of a poisoned command of a FIFO (R266): a STAGE's goes, and the slot of a SELECT is open again. -/
def poisonNotes (c : EdgeCmd) (ns : List StageNote) : List StageNote :=
  if edgeOp c.w0 = 0x0A then
    ns.filter fun n => decide (n.release ≠ c.release ∨ n.slot ≠ fld c.w1 3 0 ∨ n.alt ≠ fld c.w1 9 8)
  else if edgeOp c.w0 = 0x0B then
    ns.map fun n => if n.slot = fld c.w1 3 0 ∧ n.closed = some c.release then { n with closed := none } else n
  else ns

/-- A poisoned command (R266): its slice plays its fill from now on, and the shot that holds this grain is voided. -/
def poisonCmd (f : Nat) (s : State) : State :=
  let s := inc .QUE_EF_POISON f s
  let s := match fifoKind f with
    | .bias => s
    | .capture => s
    | _ => endPlay f (8 * s.tml) (dropJumps f (applyCut f (8 * (s.tml : Int) - 1) s))
  voidAt 3 f s.tml s

/-- One command is at its place in the release path: by its instant, a SELECT before what else falls on that instant, else in
FIFO order (R54, R57). -/
def pathBefore (f : Nat) (a b : EdgeCmd) : Bool :=
  let place (c : EdgeCmd) : Nat := if edgeOp c.w0 = 0x0B then 0 else c.seq + 1
  decide (instantOf f a < instantOf f b ∨ (instantOf f a = instantOf f b ∧ place a < place b))

/-- Commands are kept in the release path in the order of their instants. -/
def pathInsert (f : Nat) (c : EdgeCmd) (s : State) : State :=
  let v := fget s f
  fset f { v with path := insertBy (pathBefore f) c v.path } s

/-- Commands of a unit, counted from 1, that are poisoned as they are taken. -/
def poisonedOf (c : EdgeCmd) (bad : Nat) : List Nat :=
  (span 1 c.unit.length).filter fun i => bitOf bad (2 * i) || bitOf bad (2 * i + 1) || c.unitPsn.contains i

/-- A command is poisoned as it is taken (R266): by the parity of its word 0 or of a later word, or by a PSN tag. -/
def poisonTaken (c : EdgeCmd) (bad : Nat) : Bool :=
  bitOf bad 0 || bitOf bad 1 || c.psn0 || c.psn1 || c.more.any fun m => decide (m.1 = 0) && m.2.psn

/-- The read half has taken a command with its unit (R266): it goes on to its release unless it is discarded; each command with a
word that is bad is poisoned, and a poisoned STAGE takes its unit with it. -/
def takeHead (f : Nat) (c : EdgeCmd) (bad : Nat) (s : State) : State :=
  if poisonTaken c bad then
    let s := fset f { fget s f with notes := if c.ok then poisonNotes c (fget s f).notes else (fget s f).notes } s
    poisonCmd f s
  else
    let gone := poisonedOf c bad
    let s := gone.foldl (fun t _ => poisonCmd f t) s
    let left := (span 1 c.unit.length).filterMap fun i => if gone.contains i then none else c.unit[i - 1]?
    if c.ok then pathInsert f { c with unit := left } s else s

/-- EDGE_FIFO_READ (R266): the command at the head, once its grain has come, whatever the abutment's judgement (log 9). Bit
2i of `bad`: word 0 of command i of its unit, itself command 0, fails parity; bit 2i + 1: a word of it after word 0. -/
def execEdgeFifoRead (f : FifoNo) (bad : BitVec 18) (s : State) : Out :=
  let v := fget s f.val
  match v.cmds with
  | [] => .next s
  | c :: rest =>
    if !fifoClockOk s f.val then .next s
    else if !(bad.getLsbD 0 || c.psn0) ∧ s.tml + 32 < c.release then .next s
    else .next (takeHead f.val c bad.toNat (fset f.val { v with cmds := rest, rp := (v.rp + c.words) % 1024 } s))

/-- STAGE at its release (R52, R53). -/
def execStage (f : FifoNo) (s : State) : Out :=
  match dueCmd s f.val 0x0A with
  | none => .next s
  | some c =>
    let s := takeDue f.val c s
    let v := fget s f.val
    .next (fset f.val { v with store := v.store ++ [{ slot := fld c.w1 3 0, alt := fld c.w1 9 8, release := c.release, cmds := c.unit, seq := c.seq }] } s)

/-- A staged unit with a command that releases before the decision grain is illegal with its STAGE (R52). -/
def stagedEarly (d : Nat) (u : Staged) : Bool := u.cmds.any fun m => decide (m.2.2 < d)

/-- SELECT at its release (R54, R236): the chosen or default alternative moves into the release path, and the slot
closes. -/
def execSelect (f : FifoNo) (s : State) : Out :=
  match dueCmd s f.val 0x0B with
  | none => .next s
  | some c =>
    let s := takeDue f.val c s
    let slot := fld c.w1 3 0
    let clu := fifoClu f.val
    let s := decide236 clu slot c.release s
    let alt := (registerChoice s clu slot c.release).getD (fld c.w1 9 8)
    let v := fget s f.val
    let mine := v.store.filter fun u => decide (u.slot = slot)
    let s := fset f.val { v with store := v.store.filter fun u => decide (u.slot ≠ slot)
                                 notes := v.notes.filter fun n => decide (n.slot ≠ slot ∨ n.closed ≠ some c.release) } s
    let s := (mine.filter (stagedEarly c.release)).foldl (fun t u => countIllegal f.val (1 + u.cmds.length) u.release t) s
    .next ((mine.filter fun u => decide (u.alt = alt) && !stagedEarly c.release u).foldl (fun t u =>
      u.cmds.foldl (fun t m => pathInsert f.val { w0 := m.1, w1 := m.2.1, release := m.2.2, seq := u.seq } t) t) s)

end Sys2Proof.Machine
end

