-- ==== Sys2Proof/Machine/Profiles.lean ====
section
/-! DEFINITION. Region profiles: requests, a change at its grain, the end of its mute, and the kernel layout (R238 to
R244). -/

namespace Sys2Proof.Machine

/-- The lowest that VDDF can be in mV: for 1 ms after a change of the code the lower of the old and the new target (R443). -/
def vddfLow (s : State) : Nat :=
  match s.cool.vidfAt with
  | some t => if s.elapsed < t + msT then min s.cool.vidfFrom s.cool.vidf else s.cool.vidf
  | none => s.cool.vidf

/-- Fabric voltage of a profile in mV (R238): COOL has its own, the others follow VDDF. -/
def profileMv (s : State) (p : Nat) : Int := if p = profCool then 620 else vddfLow s

/-- The clusters of a region. -/
def rgnClus (g : Nat) : List Nat := [2 * g, 2 * g + 1]

/-- The tone slices of a region that a change of profile makes inactive (R16); with the profiles exchanged, those it makes active. -/
def losers (g old p : Nat) : List Nat :=
  (span (128 * g) 128).filter fun f => localActive old (f % 64) && !localActive p (f % 64)

/-- A slice becomes inactive: it plays its fill, and its edge FIFO is flushed and counted, an unfinished command once it has ended
(R243, R267). -/
def silence (f c : Nat) (s : State) : State :=
  let s := endPlay f (8 * c) s
  let s := slset f { slget s f with jumps := [] } s
  let v := fget s f
  let s := incBy .TML_F_INACTIVE (flushCount v) f (flushFifo f s)
  fset f { fget s f with dteIn := v.dteIn || !v.part.isEmpty } s

/-- A slice becomes active: its edge FIFO is empty (R243). The commands in it were discarded and counted as they arrived, those of a
unit that is not whole count now (R239). -/
def awaken (f : Nat) (s : State) : State :=
  let v := fget s f
  incBy .TML_F_INACTIVE v.unit.length f (fset f { v with cmds := [], unit := [], rp := v.wp } s)

/-- The profile mute ends (R136, R149, R243). -/
def endMute (g : Nat) (s : State) : State :=
  let s := (rgnClus g).foldl (fun t c => muteCluster c 3 false t) s
  let s := (span (16 * g) 16).foldl (fun t n =>
    if (flxget t n).held.isSome then flxset n { flxget t n with held := none } t else t) s
  wr .RGN_FABRIC_MV (profileMv s (profileOf s g)) g (rgset g { rgget s g with muteEnd := none } s)

/-- A change of profile at grain c (R243); `cause` is not 0 when the request was forced. -/
def applyProfile (g p cause c : Nat) (s : State) : State :=
  let s := match (rgget s g).muteEnd with
    | some m => if m ≤ c then endMute g s else s
    | none => s
  let old := profileOf s g
  let s := (rgnClus g).foldl (fun t x => cutWindows x c t) s
  let s := (losers g old p).foldl (fun t f => silence f c t) s
  let s := (losers g p old).foldl (fun t f => awaken f t) s
  let s := wr .RGN_CHANGE_GRAIN c g (wr .RGN_PROFILE p g (inc .RGN_CHANGES g s))
  let s := if cause = 0 then s else inc .RGN_FORCED_CHANGES g s
  let s := (rgnClus g).foldl (fun t x => muteCluster x 3 true t) s
  let s := (span (16 * g) 16).foldl (fun t n => flxset n { flxget t n with held := some ((flxget t n).held.getD (flxget t n).out) } t) s
  let s := if old = profLowSpur ∧ p ≠ profLowSpur then dropHalts g s else s
  rgset g { rgget s g with req := none, muteEnd := some (c + 50000) } s

/-- A request that is accepted (R242). -/
def requestProfile (g p cause : Nat) (s : State) : State :=
  let v := rgget s g
  let s := wr .RGN_PROFILE_REQ p g s
  if inRun s then rgset g { v with req := if p = profileOf s g then none else some (p, cause, none) } s
  else
    match v.muteEnd with
    | some m => rgset g { v with req := if p = profileOf s g then none else some (p, cause, some m) } s
    | none => if p = profileOf s g then rgset g { v with req := none } s else applyProfile g p cause s.tml s

/-- The refusals of a request (R242). -/
def checkProfile (s : State) (g v : Nat) : Ans Unit :=
  if 3 < v then .error abRange
  else if rn s .RGN_FORCED g ≠ 0 ∧ v ≠ profCool then .error abCannotWrite
  else .ok ()

/-- A write of RGN_PROFILE_REQ (R242). -/
def writeProfile (g v : Nat) (s : State) : Ans State := (checkProfile s g v).map fun _ => requestProfile g v 0 s

/-- A write of PKG_PROFILE_REQ (R244). -/
def writeProfiles (v : Nat) (s : State) : Ans State :=
  match (List.range 8).findSome? (fun g => match checkProfile s g (nfld v (2 * g + 1) (2 * g)) with | .error e => some e | .ok _ => none) with
  | some e => .error e
  | none =>
    .ok (wr .PKG_PROFILE_REQ v 0 ((List.range 8).foldl (fun t g =>
      let p := nfld v (2 * g + 1) (2 * g)
      if p = profileOf t g ∧ (rgget t g).req = none then t else requestProfile g p 0 t) s))

/-- A write of RGN_KRN_LAYOUT (R241). -/
def writeLayout (g v : Nat) (s : State) : Ans State :=
  if inRun s then .error abCannotWrite else .ok (wr .RGN_KRN_LAYOUT v g s)

/-- A region is forced to COOL (R400, R404): RGN_FORCED holds the highest cause, and the request is one of R242, so it replaces
one that waits. -/
def forceCool (g cause : Nat) (s : State) : State :=
  let s := wr .RGN_FORCED (max (rn s .RGN_FORCED g) cause : Nat) g
    (rgset g { rgget s g with forced := setBit (rgget s g).forced cause true } s)
  requestProfile g profCool cause (logFault clsThermal 0 g s.tml s)

/-- PROFILE_CHANGE (R243): a pending request whose grain has come. -/
def execProfileChange (g : RgnNo) (s : State) : Out :=
  match (rgget s g.val).req with
  | some (p, cause, some due) => if due ≤ s.tml then .next (applyProfile g.val p cause due s) else .next s
  | _ => .next s

/-- PROFILE_MUTE_END (R243). -/
def execProfileMuteEnd (g : RgnNo) (s : State) : Out :=
  match (rgget s g.val).muteEnd with
  | some m => if m ≤ s.tml then .next (endMute g.val s) else .next s
  | none => .next s

/-- RGN_PROFILE_STATE (R242). -/
def profileState (s : State) (g : Nat) : Nat :=
  let v := rgget s g
  match v.req.isSome, v.muteEnd.isSome with
  | false, false => 0
  | true, false => 1
  | false, true => 2
  | true, true => 3

end Sys2Proof.Machine
end

