-- ==== Sys2Proof/Machine/Compensation.lean ====
section
/-! DEFINITION. Compensation tables (R408): the value that a table gives for a temperature, and when a value in force
changes. -/

namespace Sys2Proof.Machine

def thget (s : State) (g : Nat) : Therm := mget {} s.therms g
def thset (g : Nat) (v : Therm) (s : State) : State := { s with therms := mput {} s.therms g v }

/-- A temperature in °C as the nodes keep it. -/
def degC : Int := 16777216

/-- Regions whose mean T1 a table uses. -/
def tableRegions (n : Nat) : List Nat := if n = 12 then List.range 8 else [2 * (n % 4), 2 * (n % 4) + 1]

/-- Value of a table at the sum of the T1 of `k` regions: point i stands at -10 + 16.25 i °C. -/
def tableValue (s : State) (n k : Nat) (sum : Int) : Int :=
  let pt (i : Nat) : Int := rd s .THM_COMP_PT (9 * n + i)
  let off := 4 * (sum + 10 * degC * (k : Int))
  let step : Int := 65 * degC * (k : Int)
  if off ≤ 0 then pt 0
  else if 8 * step ≤ off then pt 8
  else
    let i := (off / step).toNat
    rne (pt i * step + (pt (i + 1) - pt i) * (off - (i : Int) * step)) step.toNat

/-- What a table gives now. -/
def tableNow (s : State) (n : Nat) : Int :=
  let gs := tableRegions n
  tableValue s n gs.length (sumI (gs.map fun g => (thget s g).t1))

/-- A value comes into force. -/
def setTrim (n : Nat) (v : Int) (s : State) : State := { s with cool := { s.cool with trims := setAt s.cool.trims n v } }

/-- A reference trim changes by at most one code per application. -/
def moveTrim (n : Nat) (s : State) : State :=
  let v := nthD s.cool.trims n 0
  let w := tableNow s n
  setTrim n (if v < w then v + 1 else if w < v then v - 1 else v) s

/-- Reference trims of every RF die, at a shot boundary. -/
def refTrims (s : State) : State := (span 4 8).foldl (fun t n => moveTrim n t) s

/-- The trims at an update of a region: those of its die outside a run, and FIO's. -/
def updateTrims (g : Nat) (s : State) : State :=
  let s := if inRun s then s else moveTrim (8 + g / 2) (moveTrim (4 + g / 2) s)
  setTrim 12 (tableNow s 12) s

/-- The band of an RFPLL as its loop locks. -/
def applyBand (d : Nat) (s : State) : State := setTrim d (tableNow s d) s

/-- The reference trims and FIO's at the fuse read; a band waits for its loop's lock. -/
def initTrims (s : State) : State := (span 4 9).foldl (fun t n => setTrim n (tableNow t n) t) s

end Sys2Proof.Machine
end

