-- ==== Sys2Proof/Machine/Shots.lean ====
section
/-! DEFINITION. The run, its barriers and its shots (R84 to R90): BOUNDARY and END, the barrier and its release, the shot
boundary with rollback (R413 to R416), START, STOP and ABORT. -/

namespace Sys2Proof.Machine

/-- An engine that takes part in the barrier: it runs a stream. -/
def takesPart (v : Engine) : Bool :=
  match v.state with
  | .reset => false | .idle => false | .parked => false | .done => false
  | _ => true

/-- The arrivals at the barrier in engine order: engine, grain, END, LENGTH. -/
def arrivals (s : State) : List (Nat × Nat × Bool × Nat) :=
  s.engs.filterMap fun e => e.2.arrived.map fun a => (e.1, a)

/-- Every non-parked engine has arrived (R85). -/
def barrierFull (s : State) : Bool := s.engs.all fun e => !takesPart e.2 || e.2.arrived.isSome

/-- The engine that a mismatch names, if the arrivals mismatch (R87). -/
def mismatch (as : List (Nat × Nat × Bool × Nat)) : Option Nat :=
  match as with
  | [] => none
  | a :: rest =>
    match rest.find? (fun b => decide (b.2.2 ≠ a.2.2)) with
    | some b => some b.1
    | none => if !a.2.2.1 ∧ a.2.2.2 < 256 then some a.1 else none

/-- The words of a stream that stay unread after its END are dropped; they are no discard of STOP, ABORT or mismatch. -/
def dropStream (e : Nat) (s : State) : State :=
  let n := rd s .ENG_DISCARD e
  wr .ENG_DISCARD n e (discardStream true e s)

/-- The barrier completes as END (R85, R87, R89): no shot opens after the last known one. -/
def endBarrier (how : Nat) (s : State) : State :=
  let s := s.engs.foldl (fun t e => if takesPart e.2 then (if how = 1 then dropStream e.1 t else discardStream true e.1 t) else t) s
  if s.run.shots.isEmpty then finishRun how s else { s with run := { s.run with ending := some how, stopPending := false } }

/-- An ACQ of the package has reached an age of 1 s (R188). -/
def deferDue (s : State) : Bool :=
  (List.range 16).any fun a => match calAge s a with | some n => decide (1000 ≤ n) | none => false

/-- The boundary is deferred for calibration: the shot that the barrier closes is 100,000 grains longer (R188), and the void causes
that wait for grains of the gap are its own (R413). -/
def deferBoundary (s : State) : State :=
  match s.run.shots.getLast? with
  | none => s
  | some sh =>
    let start := s.run.nextStart + 100000
    let mine := s.run.future.filter fun x => decide (x.1 < start)
    let sh := { sh with len := sh.len + 100000, causes := mine.foldl (fun m x => setBit m x.2 true) sh.causes }
    { s with run := { s.run with shots := setAt s.run.shots (s.run.shots.length - 1) sh, nextStart := start
                                 future := s.run.future.filter fun x => !decide (x.1 < start)
                                 gaps := s.run.gaps ++ [s.run.nextStart] } }

/-- A shot becomes known: the void causes at its grains that came early are its own, and so is an abutment cause from before the
first t_shot (R413, log 15). -/
def openAtBarrier (len : Nat) (s : State) : State :=
  let r := s.run
  let mine := r.future.filter fun x => decide (x.1 < r.nextStart + len)
  let causes := mine.foldl (fun m x => setBit m x.2 true) 0
  let sh : Shot := { num := r.nextNum, start := r.nextStart, len := len, barrier := s.tml, causes := causes }
  wr .PKG_FABRIC_SHOT r.nextNum 0
    { s with run := { r with shots := r.shots ++ [sh], future := r.future.filter fun x => !decide (x.1 < r.nextStart + len)
                             nextStart := r.nextStart + len, nextNum := (r.nextNum + 1) % 2 ^ 32, barrierAt := s.tml } }

/-- The slack and the engines' own margins (R86). -/
def barrierSlack (e start : Nat) (as : List (Nat × Nat × Bool × Nat)) (s : State) : State :=
  let clamp (x : Int) : Int := sat (-2147483648) 2147483647 x
  let slack : Int := (start : Int) - s.tml
  let s := low .PKG_BARRIER_SLACK (clamp slack) 0 s
  let s := as.foldl (fun t a => low .ENG_BARRIER_MIN (clamp ((start : Int) - a.2.1)) a.1 t) s
  if slack < 32 then
    logFault clsVoid 9 e s.tml (markShot (s.run.shots.length - 1) 9 (inc .PKG_BARRIER_LATE 0 s))
  else s

/-- Pending profile requests take the t_shot of the shot that a barrier opens (R242). -/
def aimRequests (start : Nat) (s : State) : State :=
  (List.range 8).foldl (fun t g =>
    match (rgget t g).req with
    | some (p, c, none) => rgset g { rgget t g with req := some (p, c, some start) } t
    | _ => t) s

/-- The last arrival completes the barrier (R85 to R89, R188); e is the engine that made it. -/
def completeBarrier (e : Nat) (s : State) : State :=
  let as := arrivals s
  let s := as.foldl (fun t a => eset a.1 { eget t a.1 with arrived := none } t) s
  match mismatch as with
  | some bad =>
    let s := logFault clsRunEnd 0 bad s.tml (inc .PKG_BOUNDARY_MISMATCH 0 s)
    let s := if s.run.shots.isEmpty then s
      else logFault clsVoid 10 bad s.tml (markShot (s.run.shots.length - 1) 10 s)
    endBarrier 4 s
  | none =>
    match as with
    | [] => s
    | a :: _ =>
      if a.2.2.1 then endBarrier 1 s
      else if s.run.stopPending then endBarrier 2 s
      else
        let s := if deferDue s then deferBoundary s else s
        let start := s.run.nextStart
        aimRequests start (barrierSlack e start as (openAtBarrier a.2.2.2 s))

/-- An engine's arrival at the barrier, with END or with a LENGTH (R85). -/
def arriveBarrier (e : Nat) (fin : Bool) (len : Nat) (s : State) : State :=
  let s := eset e { eget s e with state := .barrier, arrived := some (s.tml, fin, len) } s
  if barrierFull s then completeBarrier e s else s

/-- The effect of BOUNDARY and END (R85): the arrival at the barrier. -/
def arriveEffect (e op : Nat) (ws : List QWord) (s : State) : State :=
  let w0 := (nthD ws 0 { data := 0 }).data
  arriveBarrier e (decide (op = 0xF1)) (if op = 0xF1 then 0 else fld w0 31 0) (endPass e (execOpcode e op (consume e 1 s)))

/-- BARRIER_RELEASE (R85 step 3): the release of the last completed barrier reaches an engine that waits for it. -/
def execBarrierRelease (e : EngNo) (s : State) : Out :=
  let v := eget s e.val
  match s.run.shots.getLast? with
  | none => .next s
  | some sh =>
    if v.state = .barrier ∧ v.arrived = none ∧ s.run.ending = none then
      let s := eset e.val { v with state := .run, shot := sh.num, tshot := sh.start, len := sh.len, micro := { v.micro with released := true } } s
      .next (if v.micro.at_.isSome then s else afterPacket e.val s)
    else .next s

/-! ### The shot boundary (R85 step 4) -/

/-- The tones whose frame state has ever left 0. -/
def framedTones (s : State) : List Nat := s.frames.map (·.1)

/-- Frame state of every tone from the snapshots (R113). -/
def restoreFrames (b : Nat) (s : State) : State :=
  (framedTones s).foldl (fun t n =>
    let f := rn t .TON_SNAP_FREQ n
    let p := rn t .TON_SNAP_FRAME n
    if frameNow t n = (f, p) then t else inc .TON_RESTORES n (setFrame n (8 * b) f p t)) s

/-- Frame snapshots of every tone (R112). -/
def takeSnapshots (s : State) : State :=
  (framedTones s).foldl (fun t n =>
    wr .TON_SNAP_FRAME (frameNow t n).2 n (wr .TON_SNAP_FREQ (frameNow t n).1 n t)) s

/-- At the opening of the first shot every frame state is 0 (R111). -/
def zeroFrames (b : Nat) (s : State) : State :=
  (framedTones s).foldl (fun t n => if frameNow t n = (0, 0) then t else setFrame n (8 * b) 0 0 t) s

/-- The results of a slice when a shot closes (R414, R415): a voided shot's are forgotten and TON_LAST_ returns to the latest
that stays; of a shot that stands the newest is kept. -/
def closeResults (shot : Nat) (voided : Bool) (s : State) : State :=
  s.reads.foldl (fun t e =>
    let v := rdget t e.1
    if v.hist.any (fun h => decide (h.shot = some shot)) then
      if voided then
        let h := v.hist.filter fun h => decide (h.shot ≠ some shot)
        setLast e.1 (h.headD { shot := none, i := 0, q := 0, verdict := 0, flags := 0 }) (rdset e.1 { v with hist := h } t)
      else
        let h := v.hist.map fun h => if h.shot = some shot then { h with shot := none } else h
        rdset e.1 { v with hist := (h.takeWhile fun x => x.shot.isSome) ++ ((h.dropWhile fun x => x.shot.isSome).take 1) ++
          ((h.dropWhile fun x => x.shot.isSome).drop 1).filter fun x => x.shot.isSome } t
    else t) s

/-- The record set of a shot closes (R215): it waits for SET_COMPLETE, unless it is empty and stands. -/
def closeSet (sh : Shot) (s : State) : State :=
  let v := rsget s sh.num
  if sh.causes = 0 ∧ v.recs.isEmpty ∧ v.live = 0 ∧ v.refused = 0 then rsset sh.num {} s
  else rsset sh.num { v with closed := true, voided := decide (sh.causes ≠ 0), causes := sh.causes, start := sh.start
                             epoch := s.stream.epoch } s

/-- Least camber of the valid commands whose release grain lies in a shot (R60). -/
def shotCamber (v : Fifo) (start b : Nat) : Nat :=
  (v.cambers.filter fun x => decide (start ≤ x.1 ∧ x.1 < b)).foldl (fun m x => min m x.2) 0x7FFFFFFF

/-- Camber minima are latched (R60). -/
def latchCambers (num start b : Nat) (s : State) : State :=
  let mins := s.fifos.map fun e => (e.1, shotCamber e.2 start b)
  let least (p : Nat → Bool) : Nat × Nat :=
    mins.foldl (fun m e => if p e.1 && decide (e.2 < m.2) then e else m) (0, 0x7FFFFFFF)
  let s := mins.foldl (fun t e =>
    let t := low .TML_F_LOW e.2 e.1 (wr .TML_F_SHOT_MIN e.2 e.1 t)
    fset e.1 { fget t e.1 with cambers := (fget t e.1).cambers.filter fun x => !decide (x.1 < b) } t) s
  let m := least fun _ => true
  let s := wr .TML_SHOT_MIN_SHOT num 0 (wr .TML_SHOT_MIN_FIFO m.1 0 (wr .TML_SHOT_MIN_CAMBER m.2 0 s))
  let s := if (m.2 : Int) < rd s .TML_LOW_CAMBER then
      wr .TML_LOW_SHOT num 0 (wr .TML_LOW_FIFO m.1 0 (wr .TML_LOW_CAMBER m.2 0 s)) else s
  (List.range 8).foldl (fun t g => wr .TML_RGN_SHOT_MIN (least fun f => decide (cluRgn (fifoClu f) = g)).2 g t) s

/-- A profile request of a region that is due by a grain applies (R242). -/
def applyDue (g b : Nat) (s : State) : State :=
  match (rgget s g).req with
  | some (p, cause, some due) => if due ≤ b then applyProfile g p cause due s else s
  | _ => s

/-- R404: at the boundary b a region with a latched minimum below 64 grains whose profile is not COOL is forced to COOL; the force
replaces a request that waits beyond b (R242). -/
def camberForce (b : Nat) (s : State) : State :=
  (List.range 8).foldl (fun t g =>
    if rd t .TML_RGN_SHOT_MIN g < 64 ∧ profileAt t g b ≠ profCool then forceCool g 1 (applyDue g b t) else t) s

/-- Staging stores are emptied (R53). -/
def emptyStores (b : Nat) (s : State) : State :=
  s.fifos.foldl (fun t e =>
    let v := fget t e.1
    if v.store.isEmpty ∧ v.notes.isEmpty then t
    else incBy .TML_STAGE_DROP (storeCount v) 0
      (fset e.1 { v with store := [], notes := v.notes.filter fun n => decide (b ≤ n.shot) } t)) s

/-- The closing boundary of a shot (R85 step 4, R113, R414, R415, R60, R53). -/
def closeShot (sh : Shot) (b : Nat) (s : State) : State :=
  let voided := decide (sh.causes ≠ 0)
  let s := if voided then inc .PKG_SHOTS_VOID 0 (restoreFrames b s) else inc .PKG_SHOTS_DONE 0 s
  let s := closeSet sh (closeResults sh.num voided (closeIncs sh.num voided s))
  emptyStores b (camberForce b (latchCambers sh.num sh.start b s))

/-- The boards and the select registers are emptied at t_shot (R224, R235). -/
def emptyBoards (s : State) : State :=
  { s with board := [], bres := mmap {} (fun _ v => { v with reg := [], done := [] }) s.bres }

/-- The opening of a shot on the edge side (R85 step 4, R112). A shot that opens while an RF die's clock is unqualified is
voided (R20). -/
def openShot (sh : Shot) (s : State) : State :=
  let s := emptyBoards (takeSnapshots s)
  let s := wr .PKG_SHOT_START sh.start 0 (wr .PKG_SHOT sh.num 0 s)
  (List.range 4).foldl (fun t d => if rfOk t d then t else voidAt 6 d sh.start t) { s with run := { s.run with opened := true } }

/-- SHOT_BOUNDARY (R85 step 4): the next boundary once its grain has come. -/
def execShotBoundary (s : State) : Out :=
  match nextBoundary s, s.run.shots with
  | some b, sh :: rest =>
    if s.tml < b then .next s
    else if !s.run.opened then .next (openShot sh (zeroFrames b (refTrims s)))
    else
      let s := closeShot sh b (refTrims s)
      let s := { s with run := { s.run with shots := rest, gaps := s.run.gaps.filter fun g => decide (b < g + 100000)
                                            past := sh :: s.run.past.filter fun x => decide (b < x.start + x.len + 65536) } }
      match rest with
      | next :: _ => .next (openShot next s)
      | [] => .next (finishRun (s.run.ending.getD 1) s)
  | _, _ => .next s

/-! ### Run control -/

/-- Every region runs the profile of the image and none has a request pending (R88). -/
def profilesReady (s : State) : Bool :=
  (List.range 8).all fun g => decide (profileOf s g = nfld s.image.profiles (2 * g + 1) (2 * g)) && (rgget s g).req.isNone

/-- An engine's stream begins, or the engine is parked (R88); one whose region is halted runs once the halt is lowered (R240). -/
def startEngine (e : Nat) (s : State) : State :=
  let v := eget s e
  let held := regionHalted s (e / 16) && (aget s e).exist
  let v := { v with state := if held then .halt else if (aget s e).exist then .run else .parked, shot := 0, pc := 0, opcodes := 0, microwords := 0
                    tshot := 0, len := 0, loop := none, out := [], waitCh := none, arrived := none
                    halted := if held then some .run else none
                    gather := none, micro := {} }
  let a := aget s e
  eset e v (aset e { a with given := 0, fetched := 0, ended := false, words := if a.resident then a.words else [] } s)

/-- START (R88): the cambers of commands that an earlier run left count in no shot of this one (R60), and CLU_REFILL_DONE counts
this run's entries (R125). -/
def startRun (s : State) : Ans State :=
  if rn s .PKG_RUN_START < s.tml + 250000 then .error abRange
  else if rn s .PKG_IMG_STATE ≠ 2 ∨ inRun s ∨ !profilesReady s ∨ (s.image.viaduct ∧ rn s .TML_SYNC_STATE ≠ 2) then .error abCannotWrite
  else
    let s := (List.range 128).foldl (fun t e => startEngine e t) (dropHeld 18 s)
    let s := s.fifos.foldl (fun t x => fset x.1 { fget t x.1 with cambers := [] } t) s
    let s := (List.range 16).foldl (fun t c => wr .CLU_REFILL_DONE 0 c t) s
    let s := (List.range 16).foldl (fun t c =>
      if (rfget t c).entries.isEmpty then t else rfset c { rfget t c with next := 0, busy := false, on := true } t) s
    .ok (wr .PKG_RUN_STATE 1 0 { s with run := { nextStart := rn s .PKG_RUN_START, nextNum := rn s .PKG_RUN_SHOT0 } })

/-- STOP (R89): it waits for the next barrier to complete. DESIGN CHOICE: a STOP while no run is in progress, or once the run has met
its END barrier or an ABORT, is accepted and changes nothing (log 68). -/
def stopRun (s : State) : State :=
  if rn s .PKG_RUN_STATE = 1 ∧ !s.run.aborted ∧ s.run.ending.isNone then
    wr .PKG_RUN_STATE 2 0 { s with run := { s.run with stopPending := true } }
  else s

end Sys2Proof.Machine
end

