-- ==== Sys2Proof/Machine/Loader.lean ====
section
/-! DEFINITION. Program images: LOAD with its checks in order, the copying of the sections, UNLOAD (R63 to R69, R122 to R124,
R134, R146, R179, R180, R233). -/

namespace Sys2Proof.Machine

/-- n bytes of a body from an offset, as a number. -/
def leAt (bs : List Byte) (off n : Nat) : Nat := leVal ((bs.drop off).take n)

/-- Every byte of a span is 0. -/
def zeroAt (bs : List Byte) (off n : Nat) : Bool := ((bs.drop off).take n).all fun b => decide (b = 0)

/-- A byte string cut into pieces of n bytes; k bounds the count. -/
def pieces (n : Nat) : Nat → List Byte → List (List Byte)
  | 0, _ => []
  | k + 1, bs => if bs.isEmpty then [] else bs.take n :: pieces n k (bs.drop n)

/-- How a load ends early: directory entry and reason (R68). -/
abbrev LoadFail := Nat × Nat

/-- A load in progress: the package and the bytes read so far. -/
structure LoadSt where
  st : State
  done : Nat

/-- Read n bytes of the image from a multiple of 64; poison fails the load for the entry (R68). -/
def loadRead (entry addr n : Nat) (l : LoadSt) : Except LoadFail (List Byte) × LoadSt :=
  let r := dramRead 19 addr ((n + 7) / 8) l.st
  if r.1.any (·.2) then (.error (entry, 0x000B), { l with st := r.2 })
  else (.ok ((wordsBytes (r.1.map (·.1))).take n), { st := r.2, done := l.done + n })

/-- The header's checks (R64, R68 step 1). -/
def headerFault (h : List Byte) (base range : Nat) : Option Nat :=
  let sections := leAt h 0x0C 2
  let len := leAt h 0x10 8
  let dir := leAt h 0x18 8
  if leAt h 0 4 ≠ 0x4D495146 then some 1
  else if leAt h 4 2 ≠ 1 ∨ leAt h 6 2 ≠ 64 then some 2
  else if crc32 (h.take 60) ≠ leAt h 0x3C 4 ∨ leAt h 0x20 2 / 2 ≠ 0 ∨ !zeroAt h 0x22 2 ∨ !zeroAt h 0x2C 16 ∨
      sections = 0 ∨ 4096 < sections ∨ len % 64 ≠ 0 then some 3
  else if len < 64 ∨ range < base + len ∨ dir % 64 ≠ 0 ∨ dir < 64 ∨ len < dir + 32 * sections then some 4
  else none

/-- A directory entry (R65). -/
structure Section where
  kind : Nat
  target : Nat
  off : Nat
  len : Nat
  crc : Nat

/-- The limit of a section kind in bytes (R66). -/
def kindLimit (k : Nat) : Option Nat :=
  match k with
  | 3 => some 327680
  | 4 => some 262144
  | 5 => some 65536
  | 8 => some 16384
  | _ => none

/-- TARGET is in range for a kind (R66). -/
def targetOk (k t : Nat) : Bool := if k = 1 then decide (t < 128) else if k = 8 then decide (t = 0xFFFF) else decide (t < 16)

/-- Two spans of bytes overlap. -/
def spansMeet (a b : Nat × Nat) : Bool := decide (a.2 ≠ 0) && decide (b.2 ≠ 0) && decide (a.1 < b.1 + b.2) && decide (b.1 < a.1 + a.2)

/-- The checks of a directory entry (R68 step 2): `before` are the entries checked. DESIGN CHOICE: KIND 0x0000, which stands in no row
of R66's table, fails as an excluded kind (log 81). -/
def entryFault (e : List Byte) (s : Section) (len dir sections : Nat) (before : List Section) : Option Nat :=
  if !zeroAt e 4 4 ∨ !zeroAt e 0x1C 4 ∨ s.off % 64 ≠ 0 ∨ len < s.off + s.len ∨ spansMeet (s.off, s.len) (0, 64) ∨
      spansMeet (s.off, s.len) (dir, 32 * sections) ∨ before.any (fun b => spansMeet (s.off, s.len) (b.off, b.len)) then some 4
  else if 0x8000 ≤ s.kind then none
  else if s.kind = 0 ∨ 8 < s.kind then some 6
  else if !targetOk s.kind s.target then some 7
  else if (kindLimit s.kind).any (fun m => decide (m < s.len)) ∨ before.any (fun b => decide (b.kind = s.kind ∧ b.target = s.target)) then
    some 8
  else none

/-- Read and check the directory, n entries left (R68 step 2). -/
def loadDir (base len dir sections : Nat) : Nat → List Section → LoadSt → Except LoadFail (List Section) × LoadSt
  | 0, before, l => (.ok before, l)
  | n + 1, before, l =>
    let i := before.length
    let a := base + dir + 32 * i
    let r := dramRead 19 (a / 64 * 64) 8 l.st
    let ws := (r.1.drop (a % 64 / 8)).take 4
    if ws.any (·.2) then (.error (i, 0x000B), { l with st := r.2 })
    else
      let e := wordsBytes (ws.map (·.1))
      let s : Section := { kind := leAt e 0 2, target := leAt e 2 2, off := leAt e 8 8, len := leAt e 0x10 8, crc := leAt e 0x18 4 }
      match entryFault e s len dir sections before with
      | some why => (.error (i, why), { st := r.2, done := l.done + 32 })
      | none => loadDir base len dir sections n (before ++ [s]) { st := r.2, done := l.done + 32 }

/-! ### Section bodies -/

/-- A descriptor entry of a SEGMENT_LIB body (R123): none when it is malformed. -/
def segEntry (samples : Nat) (e : List Byte) : Option (Nat × Seg) :=
  let d := leAt e 8 8
  let start := nfld d 63 45
  let len := nfld d 44 26
  let source := leAt e 2 1
  if 4095 < leAt e 0 2 ∨ 1 < source ∨ !zeroAt e 3 5 ∨ nfld d 25 5 ≠ 0 ∨ nfld d 3 0 ≠ 0 ∨ len = 0 ∨ segWords < start + len ∨
      (source = 0 ∧ samples < start + len) then none
  else some (leAt e 0 2, { start := start, len := len, loop := bitOf d 4, ready := decide (source = 0) })

/-- A refill entry (R124): none when it is malformed; `off` and `len` are the section's. -/
def refillEntry (base off len : Nat) (segs : List (Nat × Seg)) (e : List Byte) : Option (Nat × Nat × Nat) :=
  let src := leAt e 8 8
  match segs.find? (fun x => decide (x.1 = leAt e 0 2)) with
  | none => none
  | some x =>
    if !zeroAt e 2 2 ∨ src % 64 ≠ 0 ∨ src < off ∨ off + len < src + 4 * x.2.len then none
    else some (x.1, leAt e 4 4, base + src)

/-- A SEGMENT_LIB body (R122 to R124): how it is placed in a cluster. -/
def segLib (base off : Nat) (b : List Byte) (c : Nat) : Option (State → State) :=
  let descs := leAt b 0 2
  let samples := leAt b 4 4
  let refills := leAt b 8 4
  let endDesc := 16 + 16 * descs
  let endSamp := endDesc + 4 * samples
  let ref := endSamp + (64 - (off + endSamp) % 64) % 64
  if b.length < 16 ∨ !zeroAt b 2 2 ∨ !zeroAt b 12 4 ∨ 4096 < descs ∨ segWords < samples ∨ 16777215 < refills ∨
      b.length < ref + 16 * refills ∨ !zeroAt b endSamp (ref - endSamp) then none
  else
    match ((pieces 16 descs ((b.drop 16).take (16 * descs))).mapM (segEntry samples)) with
    | none => none
    | some segs =>
      if !(segs.map (·.1)).Nodup then none
      else
        match ((pieces 16 refills ((b.drop ref).take (16 * refills))).mapM (refillEntry base off b.length segs)) with
        | none => none
        | some list =>
          some fun s =>
            let s := { s with segs := s.segs.filter fun e => !decide (e.1 / 4096 = c) }
            let s := segs.foldl (fun t x => sset c x.1 x.2 t) s
            rfset c { entries := list } (storeSamples c 0 (words32 samples (b.drop endDesc)) s)

/-- A KERNELS body (R179). -/
def kernelsBody (b : List Byte) (c : Nat) : Option (State → State) :=
  if b.length % 4 ≠ 0 then none
  else some fun s =>
    storeTaps c 0 (words32 (b.length / 4) b)
      { s with krn := s.krn.filter (fun e => !decide (e.1 / 2 ^ 17 = c)), krnBad := s.krnBad.filter fun k => !decide (k / 2 ^ 17 = c) }

/-- A DISC_TABLES body (R180). -/
def tablesBody (b : List Byte) (c : Nat) : Option (State → State) :=
  if b.length % 8192 ≠ 0 ∨ !b.all tableByteOk then none
  else some fun s =>
    storeTable c 0 b
      { s with tab := s.tab.filter (fun e => !decide (e.1 / 2 ^ 18 = c)), tabBad := s.tabBad.filter fun k => !decide (k / 2 ^ 18 = c) }

/-- A branch table entry has no reserved bit set (R232). -/
def branchOk (w0 w1 : Nat) : Bool :=
  decide (nfld w0 61 53 = 0) && decide (nfld w0 43 36 = 0) && decide (nfld w0 29 21 = 0) && decide (nfld w0 11 4 = 0) &&
    decide (nfld w1 63 32 = 0)

/-- A BRANCH_TABLE body (R233). -/
def branchBody (b : List Byte) (c : Nat) : Option (State → State) :=
  let es := pieces 16 4096 b
  if b.length % 16 ≠ 0 ∨ !es.all (fun e => branchOk (leAt e 0 8) (leAt e 8 8)) then none
  else some fun s =>
    (List.range 4096).foldl (fun t n =>
      let e := nthD es n []
      wr .CLU_BR_MAP (leAt e 8 8) (c * 4096 + n) (wr .CLU_BR_ENTRY (leAt e 0 8) (c * 4096 + n) t)) s

/-- An XTALK_COEF body (R134). -/
def xtalkBody (b : List Byte) (c : Nat) : Option (State → State) :=
  let tapOk (k : Nat) : Bool :=
    let v := leAt b (8 * k) 8
    decide (nfld v 62 61 = 0) && decide (nfld v 55 52 = 0) && decide (nfld v 47 32 = 0) &&
      !(bitOf v 63 && decide (nfld v 60 56 / 8 = k / 8))
  if b.length ≠ 256 ∨ !(List.range 32).all tapOk then none
  else some fun s =>
    (List.range 32).foldl (fun t k => wr .DRV_XTAP (leAt b (8 * k) 8) (32 * c + k) t)
      { s with tapBad := s.tapBad.filter fun k => !decide (k / 32 = c) }

/-- A FLUX_COEF body (R146, R147). -/
def fluxBody (b : List Byte) (c : Nat) : Option (State → State) :=
  let pairOk (k : Nat) : Bool := decide (leAt b (160 * (k / 4) + 16 + 4 * (k % 4)) 4 = 0 ∨ leAt b (160 * (k / 4) + 4 * (k % 4)) 4 ≠ 0)
  if b.length ≠ 1408 ∨ !(List.range 32).all pairOk then none
  else some fun s =>
    let s := (List.range 32).foldl (fun t k =>
      wr .FLX_BETA (sx 32 (leAt b (160 * (k / 4) + 16 + 4 * (k % 4)) 4)) (32 * c + k)
        (wr .FLX_ALPHA (leAt b (160 * (k / 4) + 4 * (k % 4)) 4) (32 * c + k) t)) s
    let s := (List.range 256).foldl (fun t k => wr .FLX_FIR (sx 32 (leAt b (160 * (k / 32) + 32 + 4 * (k % 32)) 4)) (256 * c + k) t) s
    let s := (List.range 64).foldl (fun t k => wr .CLU_FLUX_MTX (sx 16 (leAt b (1280 + 2 * k) 2)) (64 * c + k) t) s
    refreshFlux c ((span (8 * c) 8).foldl (fun t n => settleFlux n t) s)

/-- A quiet-window entry (R67). -/
def quietEntry (e : List Byte) : Option Quiet :=
  let q : Quiet := { start := leAt e 0 4, len := leAt e 4 4, scope := leAt e 8 2, period := leAt e 12 2, phase := leAt e 14 2 }
  if q.len = 0 ∨ q.period = 0 ∨ q.period ≤ q.phase ∨ 2 ^ 11 ≤ q.scope ∨ !zeroAt e 10 2 then none else some q

/-- A QUIET_MAP body (R67). -/
def quietBody (b : List Byte) : Option (State → State) :=
  if b.length % 16 ≠ 0 then none
  else ((pieces 16 1024 b).mapM quietEntry).map fun qs s => { s with image := { s.image with quiet := qs } }

/-- A SCHEDULE body (R68 reason 0x0009, R71). -/
def scheduleBody (addr : Nat) (b : List Byte) (e : Nat) : Option (State → State) :=
  let ws := leWords (b.length / 8) b
  if b.length = 0 ∨ b.length % 8 ≠ 0 ∨ schedOp (nthD ws 0 0) ≠ 0xF0 then none
  else
    let resident := decide (b.length ≤ 65536)
    some (aset e { exist := true, base := addr, len := ws.length, resident := resident
                   words := if resident then ws.map fun w => (w, false) else [] })

/-- The check of a section's body and its placing (R68 steps 3 to 5): a reason, or what placing it does. -/
def sectionBody (base : Nat) (x : Section) (b : List Byte) : Except Nat (State → State) :=
  let form (o : Option (State → State)) (why : Nat) : Except Nat (State → State) := match o with | some f => .ok f | none => .error why
  if crc32 b ≠ x.crc then .error 5
  else if x.kind = 1 then form (scheduleBody (base + x.off) b x.target) 9
  else if x.kind = 2 then form (segLib base x.off b x.target) 0xA
  else if x.kind = 3 then form (kernelsBody b x.target) 0xA
  else if x.kind = 4 then form (tablesBody b x.target) 0xA
  else if x.kind = 5 then form (branchBody b x.target) 0xA
  else if x.kind = 6 then form (xtalkBody b x.target) 0xA
  else if x.kind = 7 then form (fluxBody b x.target) 0xA
  else if x.kind = 8 then form (quietBody b) 0xA
  else .ok id

/-- Read and check the sections in directory order (R68 step 3); the placings come out in that order. -/
def loadSections (base : Nat) : List Section → Nat → LoadSt → Except LoadFail (List (State → State)) × LoadSt
  | [], _, l => (.ok [], l)
  | x :: xs, i, l =>
    match loadRead i (base + x.off) x.len l with
    | (.error f, l) => (.error f, l)
    | (.ok b, l) =>
      match sectionBody base x b with
      | .error why => (.error (i, why), l)
      | .ok place =>
        match loadSections base xs (i + 1) l with
        | (.error f, l) => (.error f, l)
        | (.ok ps, l) => (.ok (place :: ps), l)

/-- The load has failed (R68). -/
def loadFailed (f : LoadFail) (l : LoadSt) : State :=
  wr .PKG_IMG_DONE (l.done / 1024 : Nat) 0 (wr .PKG_IMG_ERROR (f.1 * 65536 + f.2 : Nat) 0 (wr .PKG_IMG_STATE 3 0 l.st))

/-- The load has passed every check: the stores take the image (R66, R68, R71, R241). DESIGN CHOICE: PKG_IMG_DONE then reads LENGTH in
KB, gaps between sections included, where a failed load leaves the whole KB of the bytes it read (log 82). -/
def loadDone (h : List Byte) (places : List (State → State)) (l : LoadSt) : State :=
  let s := { l.st with areas := [], image := { base := l.st.image.base, len := leAt h 0x10 8, profiles := leAt h 0x0E 2
                                               viaduct := decide (leAt h 0x20 2 % 2 = 1), quiet := [] } }
  let s := places.foldl (fun t f => f t) s
  let s := (List.range 8).foldl (fun t g => wr .RGN_KRN_LAYOUT (b2n (directMode (nfld (leAt h 0x0E 2) (2 * g + 1) (2 * g))) : Nat) g t) s
  wr .PKG_IMG_DONE (leAt h 0x10 8 / 1024 : Nat) 0 (wr .PKG_IMG_ID (leAt h 8 4) 0 (wr .PKG_IMG_STATE 2 0 s))

/-- The whole load (R68). -/
def loadImage (s : State) : State :=
  let base := s.image.base
  match loadRead 0xFFFF base 64 { st := s, done := 0 } with
  | (.error f, l) => loadFailed f l
  | (.ok h, l) =>
    match headerFault h base (rn s .DRM_RANGE) with
    | some why => loadFailed (0xFFFF, why) l
    | none =>
      match loadDir base (leAt h 0x10 8) (leAt h 0x18 8) (leAt h 0x0C 2) (leAt h 0x0C 2) [] l with
      | (.error f, l) => loadFailed f l
      | (.ok dir, l) =>
        match loadSections base dir 0 l with
        | (.error f, l) => loadFailed f l
        | (.ok ps, l) => loadDone h ps l

/-- The span of the image being loaded or loaded (R323). -/
def imageSpan (s : State) : Option (Nat × Nat) :=
  if rn s .PKG_IMG_STATE = 1 then some (s.image.base, (dramWord s (s.image.base + 16)).1.toNat)
  else if rn s .PKG_IMG_STATE = 2 then some (s.image.base, s.image.len)
  else none

/-- The load's reads wait for a channel or for training (R295, R296). -/
def loadWaits (s : State) : Bool := (imageSpan s).any fun x => dramWaits s x.1 (max 64 x.2)

/-- LOAD_COMPLETE (R68). -/
def execLoadComplete (s : State) : Out := .next (if rn s .PKG_IMG_STATE = 1 ∧ !loadWaits s then loadImage s else s)

/-- Outside a run and with no LOAD in progress (R68, R69). -/
def mayLoad (s : State) : Bool := !inRun s && decide (rn s .PKG_IMG_STATE ≠ 1)

/-- A write of LOAD (R68, R302, R434). -/
def startLoad (s : State) : Ans State :=
  let base := rn s .PKG_IMG_BASE
  if !mayLoad s ∨ base % 4096 ≠ 0 ∨ rn s .DRM_RANGE < base + 64 ∨ rn s .DRM_STATE = 1 ∨ rn s .DRM_STATE = 2 then .error abCannotWrite
  else .ok (wr .PKG_IMG_DONE 0 0 (wr .PKG_IMG_STATE 1 0 { s with image := { base := base } }))

/-- A write of UNLOAD (R69). -/
def unloadImage (s : State) : Ans State :=
  if mayLoad s then .ok (wr .PKG_IMG_STATE 0 0 s) else .error abCannotWrite

end Sys2Proof.Machine
end

