-- ==== Sys2Proof/Machine/Ptp.lean ====
section
/-! DEFINITION. The PTP clock, its locking, the transparent clock, PPS and TIME records (R351 to R363, R214). -/

namespace Sys2Proof.Machine

/-! ### The clock (R355) -/

/-- One unit of `Ptp.acc` is this part of 2^-16 ns. -/
def accUnit : Nat := 2 ^ 32

/-- What one management clock cycle adds: T_nom, 4 ns, times 1 + RATE / 2^32. -/
def accCycle (s : State) : Nat := (262144 * ((2 : Int) ^ 32 + rd s .TNW_RATE)).toNat

/-- The clock wraps after 2^48 seconds. -/
def accWrap : Nat := 2 ^ 48 * 1000000000 * 65536 * accUnit

/-- PTP time now, in 2^-16 ns. -/
def ptpNow (s : State) : Nat := s.ptp.acc / accUnit

/-- Seconds, nanoseconds and fraction of a time. -/
def ptpSeconds (t : Nat) : Nat := t / 65536 / 1000000000
def ptpNanos (t : Nat) : Nat := t / 65536 % 1000000000
def ptpFrac (t : Nat) : Nat := t % 65536

def setPtp (p : Ptp) (s : State) : State := { s with ptp := p }

/-- The clock at the beginning of the next grain: a management clock cycle of 4 ns ends with every tenth (log 51). -/
def accNext (s : State) : Nat := if (s.elapsed + 1) % 10 = 0 then (s.ptp.acc + accCycle s) % accWrap else s.ptp.acc

/-- One grain of the clock. -/
def ptpTick (s : State) : State := setPtp { s.ptp with acc := accNext s } s

/-- PPS_OUT may be driven (R360, R362). -/
def ppsAllowed (s : State) : Bool :=
  decide (rn s .CLK_MGMT_SRC = 1) && (decide (rn s .TNW_PPS_MODE = 0) || decide (rn s .TNW_STATE = 1))

/-- A pulse that is cut does not come back (R362). -/
def settlePps (s : State) : State := if ppsAllowed s then s else setPtp { s.ptp with pps := none } s

/-! ### TIME records (R214, R363) -/

/-- PTP time at the beginning of a grain that is the present one or the next. -/
def ptpAt (s : State) (g : Nat) : Nat := (if g = s.tml then s.ptp.acc else accNext s) / accUnit

/-- A TIME record anchored at a grain (R214). -/
def timeWords (s : State) (g : Nat) : List Word :=
  let t := ptpAt s g
  [recHeader 6 4 0 (shotNum s g), word g, word (ptpSeconds t * 65536 + ptpFrac t),
   word (ptpNanos t * 2 ^ 32 + rn s .TNW_STATE * 2 ^ 30)]

/-- The first grain that begins after now. -/
def nextGrain (s : State) : Nat := if s.tmlOn then s.tml + 1 else s.tml

/-- An occasion of R363: a TIME record for grain g while the stream is open; occasions of one grain share one record. -/
def timeRecord (g : Nat) (s : State) : State :=
  if rn s .TRG_STREAM_STATE = 0 ∨ s.stream.timeAt = some g then s
  else directRecord (timeWords s g) { s with stream := { s.stream with timeAt := some g } }

/-- A TIME record whose anchor has not begun: it does not leave yet. -/
def anchorAhead (s : State) (r : List Word) : Bool := decide (recType r = 6) && (!s.tmlOn || decide (s.tml < (nthD r 1 0).toNat))

/-- A grain has begun: the record anchored at it takes the PTP value and the state of this instant. -/
def anchorNow (s : State) : State :=
  if s.stream.timeAt = some s.tml ∧ s.tmlOn then
    let r := timeWords s s.tml
    let b := s.stream.backlog.map fun x => if recType x = 6 ∧ nthD x 1 0 = word s.tml then r else x
    { s with stream := { s.stream with backlog := b } }
  else s

/-! ### State and master (R354, R357 to R360) -/

def ptpUnlocked : Nat := 0
def ptpLocked : Nat := 1
def ptpFreerun : Nat := 2

/-- TNW_STATE takes a value; a change is an occasion of R363. -/
def clockState (st : Nat) (s : State) : State :=
  if rn s .TNW_STATE = st then s else settlePps (timeRecord (nextGrain s) (wr .TNW_STATE st 0 s))

/-- A locked clock runs freely (R359). -/
def toFreerun (s : State) : State := if rn s .TNW_STATE = ptpLocked then clockState ptpFreerun s else s

/-- A free-running clock is locked again without a step (R359): f starts from the held RATE. -/
def relockClock (s : State) : State :=
  if rn s .TNW_STATE = ptpFreerun ∧ rn s .CLK_MGMT_SRC = 1 then clockState ptpLocked (setPtp { s.ptp with f := rd s .TNW_RATE } s) else s

/-- The exchanges of the former master are forgotten. -/
def freshExchanges (p : Ptp) : Ptp := { p with m2s := none, sums := [], sync := none, req := none, reqIval := none, reqAt := none, syncAt := none }

/-- The management clock runs from FIO: the state is FREERUN, and PPS_OUT stays low (R360). -/
def onFio (s : State) : State := settlePps (clockState ptpFreerun s)

/-- The management clock runs from its normal source again (R360): new exchanges. DEDUCED: a clock that has not stepped is UNLOCKED again
(R357, log 51). -/
def offFio (s : State) : State :=
  let s := setPtp (freshExchanges s.ptp) s
  if rn s .TNW_STATE = ptpFreerun ∧ !s.ptp.stepped then clockState ptpUnlocked s else s

/-- One list precedes another in lexicographic order. -/
def lexLess : List Nat → List Nat → Bool
  | [], [] => false
  | [], _ :: _ => true
  | _ :: _, [] => false
  | a :: as, b :: bs => decide (a < b) || (decide (a = b) && lexLess as bs)

/-- A record is better than another (R354). PRESUMED from IEEE 1588-2019: records of one grandmaster compare by their path, others by the
grandmaster's attributes and identity (log 51). -/
def betterRecord (a b : Foreign) : Bool :=
  if a.gm = b.gm then lexLess (a.quality.drop 5) (b.quality.drop 5)
  else lexLess (a.quality.take 5 ++ [a.gm.toNat]) (b.quality.take 5 ++ [b.gm.toNat])

/-- The port with the better record (R354): 1 TP0, 2 TP1, 0 none. -/
def bestPort (p : Ptp) : Nat :=
  match mget none p.foreign 0, mget none p.foreign 1 with
  | none, none => 0
  | some _, none => 1
  | none, some _ => 2
  | some a, some b => if betterRecord b a then 2 else 1

/-- Master selection (R354, R359). -/
def selectMaster (s : State) : State :=
  let n := bestPort s.ptp
  match mget none s.ptp.foreign (n - 1) with
  | none => s
  | some f =>
    let old := rn s .TNW_SLAVE_PORT
    if n = 0 ∨ (old = n ∧ rn s .TNW_GM_ID = f.gm.toNat) then s
    else
      let s := setPtp (freshExchanges s.ptp) (wr .TNW_GM_ID f.gm.toNat 0 (wr .TNW_SLAVE_PORT n 0 s))
      if old = 0 then relockClock s else toFreerun (inc .TNW_MASTER_CHANGES 0 s)

/-- Master loss on the slave port (R354, R359): a record of the other port is selected next. -/
def masterLoss (s : State) : State :=
  let n := rn s .TNW_SLAVE_PORT
  if n = 0 then s
  else
    let s := setPtp { freshExchanges s.ptp with foreign := mput none s.ptp.foreign (n - 1) none } s
    selectMaster (toFreerun (inc .TNW_MASTER_LOSSES 0 (wr .TNW_GM_ID 0 0 (wr .TNW_SLAVE_PORT 0 0 s))))

/-- The package's clockIdentity (R352). -/
def clockId (s : State) : BitVec 64 := BitVec.ofNat 64 (2 ^ 57 + rn s .PKG_SERIAL % 2 ^ 56)

/-! ### Frames (R351 to R353) -/

/-- A message's interval lies within R353. -/
def ivalOk (fr : PtpFrame) : Bool :=
  match fr.kind with
  | .sync | .followUp => decide (-7 ≤ fr.logIval ∧ fr.logIval ≤ 1)
  | .announce => decide (-3 ≤ fr.logIval ∧ fr.logIval ≤ 4)
  | .delayResp => decide (-7 ≤ fr.logIval ∧ fr.logIval ≤ 5)
  | _ => true

/-- The ordinary clock acts on a message (R352). -/
def ocTakes (s : State) (port : Nat) (fr : PtpFrame) : Bool :=
  decide (rn s .TNW_ENABLE = 1) && decide (fr.domain = rn s .TNW_DOMAIN) &&
    (match fr.kind with
     | .announce => true
     | .sync => decide (rn s .TNW_SLAVE_PORT = port + 1)
     | .followUp => decide (rn s .TNW_SLAVE_PORT = port + 1)
     | .delayResp => decide (rn s .TNW_SLAVE_PORT = port + 1) && decide (fr.reqClock = clockId s) && decide (fr.reqPort = port + 1)
     | _ => false)

/-- The link of a timing port is up. -/
def tpUp (s : State) (port : Nat) : Bool := bitOf (rn s .TNW_TP_LINK) port

/-- A frame takes a place in an egress direction, or is dropped there (R361). -/
def tcQueue (port : Nat) (fr : PtpFrame) (ingress : Option Int) (s : State) : State :=
  let q := mget [] s.ptp.tc port
  if 4 ≤ q.length then inc .TNW_TC_DROP 0 s
  else setPtp { s.ptp with tc := mput [] s.ptp.tc port (q ++ [(fr, ingress)]) } s

/-- PTP_FRAME_RECEIVE (R351 to R353). -/
def execPtpFrameReceive (port : Fin 2) (fr : PtpFrame) (s : State) : Out :=
  if !tpUp s port.val then .next s
  else if !fr.fcsOk ∨ 1522 < fr.bytes ∨ !fr.ptpType ∨ !fr.ptpDest ∨ fr.version ≠ 2 then .next (inc .TNW_RX_DROP 0 s)
  else
    let t : Int := ptpNow s
    let s := if tpUp s (1 - port.val) then tcQueue (1 - port.val) fr (some t) s else s
    if !ivalOk fr then .next (inc .TNW_RX_RANGE 0 s)
    else if !ocTakes s port.val fr then .next s
    else .next (setPtp { s.ptp with inbox := s.ptp.inbox ++ [(port.val, fr, t)] } s)

/-- The oldest message for the ordinary clock when it is of a kind, and the rest. -/
def ptpHead (s : State) (k : PtpKind) : Option ((Nat × PtpFrame × Int) × List (Nat × PtpFrame × Int)) :=
  match s.ptp.inbox with
  | [] => none
  | m :: rest => if m.2.1.kind = k then some (m, rest) else none

/-- The mean path delay (R358). -/
def pathDelay (p : Ptp) : Option Int := if p.sums.isEmpty then none else some (quot 6 (sumI p.sums) (2 * p.sums.length))

/-- RATE's limits (R355). -/
def rateMax : Int := 2147483

/-- The clock moves back by an offset, once (R358): a boundary passed over gives no pulse. -/
def stepClock (o : Int) (s : State) : State :=
  let acc := (((s.ptp.acc : Int) - o * (accUnit : Int)) % (accWrap : Int)).toNat
  let s := setPtp { s.ptp with acc := acc, f := 0, stepped := true, second := ptpSeconds (acc / accUnit) } s
  timeRecord (nextGrain s) (clockState ptpLocked (inc .TNW_STEPS 0 s))

/-- The rate correction (R358). -/
def steerClock (o : Int) (s : State) : State :=
  let ns := quot 7 o 65536
  let f := s.ptp.f - ns * rn s .TNW_KI / 65536
  let raw := f - ns * rn s .TNW_KP / 65536
  let rate := sat (-rateMax) rateMax raw
  let s := wr .TNW_RATE rate 0 (setPtp { s.ptp with f := f } s)
  if rate = rateMax ∨ rate = -rateMax then flag .TNW_RATE_SAT 0 s else s

/-- An offset from a completed Sync acts (R358); on FIO the clock neither steps nor steers (R360). -/
def offsetActs (m2s : Int) (s : State) : State :=
  match pathDelay s.ptp with
  | none => s
  | some d =>
    let o := m2s - d
    let s := wr .TNW_PATH_DELAY d 0 (wr .TNW_OFFSET o 0 s)
    let near := decide ((o.natAbs : Int) ≤ rn s .TNW_LOCK_NS * 65536)
    let n := if near then satN 16 (s.ptp.tol + 1) else 0
    let s := wr .TNW_IN_TOL (b2i (n = 16)) 0 (setPtp { s.ptp with tol := n } s)
    let s := relockClock s
    if rn s .CLK_MGMT_SRC ≠ 1 then s
    else if rn s .TNW_STATE = ptpUnlocked then stepClock o s
    else if rn s .TNW_STATE = ptpLocked then steerClock o s
    else s

/-- A Sync has its t1 and t2 (R358). -/
def syncDone (t1 t2 corr : Int) (s : State) : State :=
  let m := t2 - t1 - corr
  offsetActs m (setPtp { s.ptp with m2s := some m, sync := none } s)

/-- A Sync that has arrived at t2 on a port is handled (R352, R358). -/
def takeSync (port : Nat) (fr : PtpFrame) (t2 : Int) (s : State) : State :=
  if rn s .TNW_SLAVE_PORT ≠ port + 1 then s
  else
    let s := setPtp { s.ptp with syncAt := some (s.elapsed, fr.logIval) } s
    if fr.twoStep then setPtp { s.ptp with sync := some (fr.seqId, t2, fr.correction) } s
    else syncDone fr.stamp t2 fr.correction s

/-- PTP_SYNC (R352, R358). -/
def execPtpSync (s : State) : Out :=
  match ptpHead s .sync with
  | none => .next s
  | some ((port, fr, t2), rest) => .next (takeSync port fr t2 (setPtp { s.ptp with inbox := rest } s))

/-- A Sync that waits is handled before RELOCK is (R359). -/
def waitingSync (s : State) : State :=
  match s.ptp.inbox.find? fun m => decide (m.2.1.kind = .sync) with
  | none => s
  | some m => takeSync m.1 m.2.1 m.2.2 (setPtp { s.ptp with inbox := s.ptp.inbox.erase m } s)

/-- PTP_FOLLOW_UP (R352). -/
def execPtpFollowUp (s : State) : Out :=
  match ptpHead s .followUp with
  | none => .next s
  | some ((port, fr, _), rest) =>
    let s := setPtp { s.ptp with inbox := rest } s
    match s.ptp.sync with
    | some (seq, t2, corr) =>
      if seq = fr.seqId ∧ rn s .TNW_SLAVE_PORT = port + 1 then .next (syncDone fr.stamp t2 (corr + fr.correction) s) else .next s
    | none => .next s

/-- PTP_DELAY_RESP (R352, R358). -/
def execPtpDelayResp (s : State) : Out :=
  match ptpHead s .delayResp with
  | none => .next s
  | some ((_, fr, _), rest) =>
    let s := setPtp { s.ptp with inbox := rest } s
    match s.ptp.req, s.ptp.m2s with
    | some (seq, t3), some m =>
      if seq ≠ fr.seqId then .next s
      else
        let sum := m + (fr.stamp - t3 - fr.correction)
        let s := setPtp { s.ptp with sums := (sum :: s.ptp.sums).take 16, req := none, reqIval := some fr.logIval } s
        .next (wr .TNW_PATH_DELAY ((pathDelay s.ptp).getD 0) 0 s)
    | _, _ => .next s

/-- PTP_ANNOUNCE (R354). -/
def execPtpAnnounce (s : State) : Out :=
  match ptpHead s .announce with
  | none => .next s
  | some ((port, fr, _), rest) =>
    let f : Foreign := { gm := fr.gmId, quality := fr.quality, at_ := s.elapsed, ival := fr.logIval }
    .next (selectMaster (setPtp { s.ptp with inbox := rest, foreign := mput none s.ptp.foreign port (some f) } s))

/-- Ticks of 2^i seconds, times n. -/
def ivalTicks (n : Nat) (i : Int) : Nat :=
  if 0 ≤ i then n * 2500000000 * 2 ^ i.toNat else n * 2500000000 / 2 ^ (-i).toNat

/-- DELAY_REQ_SEND (R352, R361): a message of 44 bytes in the shortest Ethernet frame (PRESUMED from IEEE 1588-2019 and 802.3, log 51). -/
def execDelayReqSend (s : State) : Out :=
  let n := rn s .TNW_SLAVE_PORT
  let due := match s.ptp.reqAt, s.ptp.reqIval with
    | some t, some i => decide (t + ivalTicks 1 i ≤ s.elapsed)
    | _, _ => true
  if rn s .TNW_ENABLE ≠ 1 ∨ n = 0 ∨ !due then .next s
  else
    let fr : PtpFrame := { fcsOk := true, bytes := 64, ptpType := true, ptpDest := true, version := 2, kind := .delayReq, twoStep := false
                           domain := rn s .TNW_DOMAIN, logIval := 0, seqId := s.ptp.reqSeq, correction := 0, stamp := 0
                           reqClock := clockId s, reqPort := n, gmId := 0, quality := [] }
    .next (tcQueue (n - 1) fr none (setPtp { s.ptp with reqSeq := (s.ptp.reqSeq + 1) % 65536, reqAt := some s.elapsed } s))

/-- Event messages, whose residence is added (R352). -/
def eventKind (k : PtpKind) : Bool :=
  match k with
  | .sync => true | .delayReq => true | .pdelayReq => true | .pdelayResp => true
  | _ => false

/-- TC_FORWARD (R361): the next frame of an egress port leaves it. -/
def execTcForward (port : Fin 2) (s : State) : Out :=
  match mget [] s.ptp.tc port.val with
  | [] => .next s
  | (fr, ingress) :: rest =>
    if !tpUp s port.val then .next s
    else
      let now : Int := ptpNow s
      let s := setPtp { s.ptp with tc := mput [] s.ptp.tc port.val rest } s
      match ingress with
      | none => .next (setPtp { s.ptp with req := some (fr.seqId, now), sent := mput none s.ptp.sent port.val (some fr) } s)
      | some t =>
        let c := fr.correction + (now - t)
        let fr := if eventKind fr.kind then { fr with correction := if c < -(2 ^ 63) ∨ 2 ^ 63 ≤ c then 2 ^ 63 - 1 else c } else fr
        .next (inc .TNW_TC_FWD 0 (setPtp { s.ptp with sent := mput none s.ptp.sent port.val (some fr) } s))

/-- RECEIPT_TIMEOUT (R353, R354): three intervals without a Sync or an Announce on the slave port. -/
def execReceiptTimeout (sync : Bool) (s : State) : Out :=
  let n := rn s .TNW_SLAVE_PORT
  let last := if sync then s.ptp.syncAt else (mget none s.ptp.foreign (n - 1)).map fun f => (f.at_, f.ival)
  match last with
  | some (t, i) => if n ≠ 0 ∧ t + ivalTicks 3 i ≤ s.elapsed then .next (masterLoss s) else .next s
  | none => .next s

/-- A timing port's link goes down: its egress frames are lost, and a slave port's loss is a master loss (R354). -/
def tpDown (port : Nat) (s : State) : State :=
  let s := wrBit .TNW_TP_LINK port false 0 (setPtp { s.ptp with tc := mput [] s.ptp.tc port [], foreign := mput none s.ptp.foreign port none } s)
  if rn s .TNW_SLAVE_PORT = port + 1 then masterLoss s else s

/-- A timing port has its clock (R435): the package is out of reset and its management clock is settled (R437 bit 1). -/
def tpClocked (s : State) : Bool := decide (s.boot.phase ≠ .held) && !bitOf (rn s .PKG_BOOT_WAIT) 1

/-- TP_LINK_CHANGE (R354); a gated port's link is down (R377), and so is one whose clock has not qualified (R435). -/
def execTpLinkChange (port : Fin 2) (up : Bool) (s : State) : Out :=
  if up then .next (if bitOf s.clk.gated (12 + port.val) ∨ !tpClocked s then s else wrBit .TNW_TP_LINK port.val true 0 s)
  else .next (if tpUp s port.val then tpDown port.val s else s)

/-- The level of PPS_OUT. -/
def ppsPin (s : State) : Bool := ppsAllowed s && s.ptp.pps.isSome && !s.boot.silent

/-- PPS_EDGE (R362, R363). -/
def execPpsEdge (s : State) : Out :=
  let sec := ptpSeconds (ptpNow s)
  if sec = s.ptp.second then .next s
  else
    let stop := s.elapsed + (rn s .TNW_PPS_WIDTH * 5 + 1) / 2
    let s := setPtp { s.ptp with second := sec, pps := if ppsAllowed s then some stop else s.ptp.pps } s
    .next (if sec % rn s .TNW_TIME_PERIOD = 0 then timeRecord s.tml s else s)

/-- PPS_END (R362). -/
def execPpsEnd (s : State) : Out :=
  match s.ptp.pps with
  | some t => if t ≤ s.elapsed then .next (setPtp { s.ptp with pps := none } s) else .next s
  | none => .next s

/-- RELOCK (R359); on FIO the state stays FREERUN (R360), and the clock steps once it is off it. -/
def relock (s : State) : State :=
  let s := waitingSync s
  let s := setPtp { s.ptp with stepped := false } s
  if rn s .TNW_STATE = ptpFreerun ∧ rn s .CLK_MGMT_SRC ≠ 1 then s else clockState ptpUnlocked s

end Sys2Proof.Machine
end

