-- ==== Sys2Proof/Machine/Stream.lean ====
section
/-! DEFINITION. Acquisition staging, record sets and the stream (R215 to R219), the acquisition rings (R291), and the
packets of the stream channel (R218, R316, R319). -/

namespace Sys2Proof.Machine

/-- RECORD_ARRIVAL (R215, R217): the oldest record of a cluster's crossing FIFO reaches staging or is refused. -/
def execRecordArrival (c : CluNo) (s : State) : Out :=
  match mget [] s.crossings c.val with
  | [] => .next s
  | x :: rest =>
    let s := settleRecord x.2 { s with crossings := mput [] s.crossings c.val rest }
    let v := rsget s x.2
    if stagingSize < stagingWords s + x.1.length then
      .next (rsset x.2 { v with refused := v.refused + 1 } (inc .TRG_STAGING_FULL 0 s))
    else .next (rsset x.2 { v with recs := v.recs ++ [x.1] } s)

/-- Order of the records of a set (R216): word 1, then TYPE, then SOURCE. -/
def recordKey (r : List Word) : Nat := (nthD r 1 0).toNat * 2 ^ 16 + recType r * 2 ^ 12 + fld (nthD r 0 0) 43 32

/-- The VOID record of a set (R212). -/
def voidRecord (shot : Nat) (v : RecSet) : List Word :=
  [recHeader 4 3 0 shot, word v.start, word (v.recs.length * 2 ^ 32 + v.causes % 4096)]

/-- SET_COMPLETE (R215, R216): the set of a closed shot whose windows have all closed and whose records have all come. -/
def execSetComplete (shot : BitVec 32) (s : State) : Out :=
  let n := shot.toNat
  let v := rsget s n
  if !v.closed ∨ v.live ≠ 0 then .next s
  else
    let s := rsset n {} s
    let total := v.recs.length + v.refused
    if rn s .TRG_STREAM_STATE = 0 ∨ v.epoch ≠ s.stream.epoch then .next (incBy .TRG_CLOSED_DISCARD total 0 s)
    else if v.voided then
      let r := voidRecord n v
      .next (if fits s r.length then putRecords [r] s else loseShot n 1 s)
    else if v.refused ≠ 0 ∨ !fits s (recWords v.recs) then .next (loseShot n total s)
    else if v.recs.isEmpty then .next s
    else .next (putRecords (v.recs.foldl (fun rs r => insertBy (fun a b => decide (recordKey a < recordKey b)) r rs) []) s)

/-! ### The acquisition rings (R291) -/

/-- One word goes to a ring's writer: its address in DRAM, and the write pointer's step. -/
def ringWord (r : Nat) (w : Word) (s : State) : State :=
  let p := rn s .DRM_ARING_WPTR r
  let q := (p + 8) % rn s .DRM_ARING_SIZE r
  let ws := mget [] s.dram.rings r ++ [(rn s .DRM_ARING_BASE r + p, w)]
  let s := wr .DRM_ARING_WPTR q r { s with dram := { s.dram with rings := mput [] s.dram.rings r ws } }
  if q = 0 then inc .DRM_ARING_WRAPS r s else s

/-- A record that STE1 has sent is copied into its ring, or dropped when the writer's buffer lacks room. -/
def ringCopy (rec : List Word) (s : State) : State :=
  let r := if recType rec = 2 then 1 else 0
  let n := 8 * rec.length
  if rn s .DRM_ARING_SIZE r = 0 then s
  else if portLevel s (16 + r) < n then inc .DRM_P_DROP (16 + r) s
  else setLevel (16 + r) (portLevel s (16 + r) - n) (rec.foldl (fun t w => ringWord r w t) s)

/-- A record has left the backlog whole. -/
def recordSent (rec : List Word) (s : State) : State := ringCopy rec (incWrap 64 .TRG_RECORDS 1 0 s)

/-! ### Sending (R218, R219) -/

/-- The stream sends in a mode: open in it, or finishing the record in which it closed (R219). -/
def sendsIn (s : State) (mode : Nat) : Bool :=
  decide (streamState s = mode)

/-- Take n words of the backlog: the words, and the records that end within them. -/
def takeBacklog : Nat → Stream → List Word → List (List Word) → Stream × List Word × List (List Word)
  | 0, t, ws, rs => (t, ws, rs)
  | n + 1, t, ws, rs =>
    match t.backlog with
    | [] => (t, ws, rs)
    | r :: rest =>
      if t.sent + 1 < r.length then takeBacklog n { t with sent := t.sent + 1 } (ws ++ [nthD r t.sent 0]) rs
      else takeBacklog n { t with backlog := rest, sent := 0 } (ws ++ [nthD r t.sent 0]) (rs ++ [r])

/-- The virtual channels of R315. -/
def vcMgt : Nat := 0
def vcUpl : Nat := 1
def vcStr : Nat := 2
def vcCtl : Nat := 3

def vcget (s : State) (v : Nat) : Vc := mget {} s.hl.vcs v
def vcset (v : Nat) (x : Vc) (s : State) : State := { s with hl := { s.hl with vcs := mput {} s.hl.vcs v x } }

/-- Blocks that the partner's CREDIT still allows on a VC (R319). -/
def creditLeft (s : State) (v : Nat) : Nat := let x := vcget s v; (x.limit + 2 ^ 32 - x.sent % 2 ^ 32) % 2 ^ 32

/-- The host link is up. -/
def hostUp (s : State) : Bool := rn s .LNK_HL_STATE = 2

/-- Words of the records before one whose anchor has not begun (R363). -/
def readyWords (s : State) : List (List Word) → Nat
  | [] => 0
  | r :: rs => if anchorAhead s r then 0 else r.length + readyWords s rs

/-- Words that the stream may send now: of the record in which it closed only, when it is finishing. -/
def sendable (s : State) : Nat :=
  if s.stream.finishing ≠ 0 then (match s.stream.backlog with | r :: _ => r.length - s.stream.sent | [] => 0) else readyWords s s.stream.backlog - s.stream.sent

/-- The rest of a record has been sent after CLOSE. -/
def settleClose (s : State) : State :=
  if s.stream.finishing ≠ 0 ∧ s.stream.sent = 0 then { s with stream := { s.stream with finishing := 0 } } else s

/-- STREAM_PACKET_SEND (R218): the words that wait, at least one, at most 256 and within the STR credit beside the header. -/
def execStreamPacketSend (s : State) : Out :=
  let room := creditLeft s vcStr
  let n := min (min 256 (sendable s)) (room - 1)
  if !hostUp s ∨ !sendsIn s 1 ∨ room < 2 ∨ n = 0 ∨ !(qget s 0x2003).words.isEmpty ∨ !(qget s 0x2003).waiting.isEmpty then .next s
  else
    let t := takeBacklog n s.stream [] []
    let head := word (n * 2 ^ 40 + s.stream.offset % 2 ^ 40)
    let v := vcget s vcStr
    let s := { s with stream := { t.1 with offset := (s.stream.offset + n) % 2 ^ 40 } }
    let s := vcset vcStr { v with sent := v.sent + n + 1 } s
    let s := writePacket 0x2003 wSte1 (packetWords (head :: t.2.1)) s
    .next (settleClose (t.2.2.foldl (fun u r => recordSent r u) s))

/-- RECORD_TO_QUEUE (R218): the backlog's first record moves whole into queue 0x1000; its words wait there for room (R256). -/
def execRecordToQueue (s : State) : Out :=
  match s.stream.backlog with
  | [] => .next s
  | r :: rest =>
    let q := qget s 0x1000
    if sendsIn s 2 ∧ !anchorAhead s r ∧ q.words.length + r.length ≤ rn s .TRG_QUEUE_LIMIT ∧ q.waiting.isEmpty then
      let ws := packetWords r
      let s := { s with stream := { s.stream with backlog := rest, sent := 0 } }
      .next (settleClose (recordSent r (writePacket 0x1000 wSte1 ws s)))
    else .next s

/-- The stream closes (R219): after the record in progress, if one is, sending stops; the backlog and the gap go. `finish`:
the record in progress can still be sent. -/
def closeStream (finish : Bool) (s : State) : State :=
  let st := rn s .TRG_STREAM_STATE
  if st = 0 then s
  else
    let part := decide (s.stream.sent ≠ 0)
    let keep := if part && finish then s.stream.backlog.take 1 else []
    let lost := s.stream.backlog.length - keep.length
    let s := incBy .TRG_CLOSED_DISCARD lost 0 (wr .TRG_STREAM_STATE 0 0 s)
    { s with stream := { s.stream with backlog := keep, sent := if part && finish then s.stream.sent else 0, gap := none
                                       finishing := if part && finish then st else 0, epoch := s.stream.epoch + 1 } }

/-- OPEN in a mode (R219, R291, R363): 1 STREAM, 2 QUEUE. -/
def openStream (mode : Nat) (s : State) : Ans State :=
  if streamState s ≠ 0 ∨ (mode = 1 ∧ !hostUp s) then .error abCannotWrite
  else
    let s := wr .TRG_STREAM_STATE mode 0 (wr .DRM_ARING_WPTR 0 1 (wr .DRM_ARING_WPTR 0 0 s))
    .ok (timeRecord (nextGrain s) { s with stream := { s.stream with epoch := s.stream.epoch + 1, offset := 0, timeAt := none } })

end Sys2Proof.Machine
end

