-- ==== Sys2Proof/Machine/Links.lean ====
section
/-! DEFINITION. Lanes, training, the host link going up and down, viaduct ports, and violations (R304 to R314, R322, R324 to
R327). -/

namespace Sys2Proof.Machine

def lnget (s : State) (l : Nat) : Lane := mget {} s.lanes l
def lnset (l : Nat) (v : Lane) (s : State) : State := { s with lanes := mput {} s.lanes l v }
def vpget (s : State) (q : Nat) : VPort := mget {} s.vports q
def vpset (q : Nat) (v : VPort) (s : State) : State := { s with vports := mput {} s.vports q v }

/-- Lane states (R310). -/
def lnOff : Nat := 0
def lnSilent : Nat := 1
def lnTrain : Nat := 2
def lnAlign : Nat := 3
def lnUp : Nat := 4

def laneState (s : State) (l : Nat) : Nat := rn s .LNK_LN_STATE l
def isHost (l : Nat) : Bool := l < 16
/-- The viaduct port of a lane. -/
def portOf (l : Nat) : Nat := (l - 16) / 2
/-- Lane number within its link (R306). -/
def laneNo (l : Nat) : Nat := if isHost l then l else l % 2

/-- The lane's loop is qualified and its gate open: without that the lane has neither bit lock nor a line clock (R366, R373). -/
def laneClock (s : State) (l : Nat) : Bool := rn s .CLK_MON_STATE (9 + l / 8) = 2 ∧ !bitOf s.clk.gated (8 + l / 8)

/-- The lane is OFF: its gate closed, the package in SHUTDOWN, its port disabled, or beyond LNK_HL_WIDTH_MAX (R310, R377,
R406). -/
def laneOff (s : State) (l : Nat) : Bool :=
  bitOf s.clk.gated (8 + l / 8) || decide (rn s .THM_STATE = 2) ||
  (if isHost l then decide (rn s .LNK_HL_WIDTH_MAX ≤ l) else decide (rn s .LNK_VP_ENABLE (portOf l) = 0))

/-- A block to send carries a message or a link block. -/
def TxBlock.isData : TxBlock → Bool
  | .data .. => true
  | _ => false

/-- The lane returns to SILENT, or OFF; an exit from UP counts and is a fault (R310, R311, R409). A verdict block in progress on a
viaduct lane completes (R327), and the cadence of SHIMs runs on (R308). -/
def laneSilent (l : Nat) (s : State) : State :=
  let v := lnget s l
  let s := if laneState s l = lnUp then logFault clsLink 0 l s.tml (inc .LNK_LN_DOWNS l s) else s
  let last := if isHost l || !laneClock s l then [] else v.txq.filter TxBlock.isData
  wr .LNK_LN_STATE (if laneOff s l then 0 else 1) l
    (lnset l { out := v.out, run := v.run, rxRun := v.rxRun, txq := last, txScr := v.txScr, sinceShim := v.sinceShim } s)

/-! ### Viaduct ports (R314, R325, R327) -/

def portQueue (q : Nat) : Nat := 0x2800 + q

/-- The port is up for R230: UP or UP_ONE. -/
def portUp (s : State) (q : Nat) : Bool := rn s .LNK_VP_STATE q = 2 ∨ rn s .LNK_VP_STATE q = 3

/-- The messages that wait at a port are discarded (R327). -/
def discardPort (q : Nat) (s : State) : State :=
  let v := qget s (portQueue q)
  let n := v.words.length + v.waiting.length
  let s := abandonQueue (portQueue q) s
  if n = 0 then s
  else
    logFault clsLink 0 (32 + q) s.tml (incBy .LNK_VP_DISCARD n q s)

/-- LNK_VP_STATE follows the port's lanes; message numbers restart at port-up (R314, R326). -/
def settlePort (q : Nat) (s : State) : State :=
  let a := laneState s (16 + 2 * q)
  let b := laneState s (17 + 2 * q)
  let up (n : Nat) : Bool := decide (n = lnUp)
  let busy (n : Nat) : Bool := decide (n = lnTrain ∨ n = lnAlign)
  let st := if up a && up b then 3 else if up a || up b then 2
    else if (lnget s (16 + 2 * q)).conflict || (lnget s (17 + 2 * q)).conflict then 4
    else if busy a || busy b then 1 else 0
  let was := portUp s q
  let s := wr .LNK_VP_STATE st q s
  if portUp s q then (if was then s else vpset q { vpget s q with seq := 0, last := 63 } s)
  else if was then discardPort q s else s

/-! ### The host link (R313, R322) -/

/-- A transfer of a path closes without its LAST segment (R343, R344, R120). -/
def closeTransfer (p : Path) (abandoned : Bool) (s : State) : State :=
  let ps := pathOf s p
  match ps.transfer with
  | none => s
  | some t =>
    let s := setPath p { ps with transfer := none } s
    let s := if abandoned then inc .LNK_YDP_ABANDONED p.val s else s
    match findObj t.index t.sub with
    | .obj row _ => if t.write ∧ row.reg = .CLU_SEG_DATA then dropWrite (t.inst / 4096) (t.inst % 4096) s else s
    | _ => s

/-- The path-1 copies of the selectors return to their defaults (R334). -/
def clearSelectors (p : Nat) (s : State) : State :=
  { s with regs := s.regs.filter fun e =>
      !(decide (e.1 / 1024 % 2 = p) && objTable.any fun r => r.reg.isSelector && decide (r.reg.ctorIdx = e.1 % 1024)) }

/-- The stream loses the host link (R219, R322). -/
def loseStream (s : State) : State :=
  let s := if rn s .TRG_STREAM_STATE = 1 then closeStream false (flag .TRG_STREAM_LOST 0 s) else s
  if s.stream.finishing = 1 then
    inc .TRG_CLOSED_DISCARD 0 { s with stream := { s.stream with backlog := s.stream.backlog.drop 1, sent := 0, finishing := 0 } }
  else s

/-- The host link goes down (R313, R322): every host lane returns to SILENT. -/
def hostDown (lane : Nat) (s : State) : State :=
  let up := hostUp s
  let s := wr .LNK_HL_WIDTH 0 0 (wr .LNK_HL_STATE 0 0 s)
  let s := (List.range 16).foldl (fun t l => laneSilent l t) s
  if !up then { s with hl := { s.hl with pos := 0, sinceShim := 0 } }
  else
    let s := logFault clsLink 0 lane s.tml (loseStream s)
    let s := abandonQueue 0x2001 (abandonQueue 0x2003 (abandonQueue 0x2004 s))
    clearSelectors 1 (closeTransfer 1 true { s with hl := { viols := s.hl.viols } })

/-- The width that the lanes allow (R313). -/
def hostWidth (s : State) : Nat :=
  (([16, 8, 4, 2, 1].find? fun w => decide (w ≤ rn s .LNK_HL_WIDTH_MAX) &&
    (List.range w).all fun l => decide (laneState s l = lnAlign ∨ laneState s l = lnUp)).getD 0)

/-- All lanes of a width are UP, and their last ALIGN blocks lie within 20 ns (R313). -/
def deskewed (s : State) (w : Nat) : Bool :=
  let ats := (List.range w).filterMap fun l => if laneState s l = lnUp then (lnget s l).alignAt else none
  decide (ats.length = w) && decide (maxN ats ≤ ats.foldl min s.elapsed + 50)

/-- LNK_HL_STATE follows the host lanes: the link comes up when all lanes of its width are UP and deskewed. -/
def settleHost (s : State) : State :=
  if hostUp s then s
  else
    let w := hostWidth s
    if w ≠ 0 ∧ deskewed s w then
      let s := (List.range w).foldl (fun t l => lnset l { lnget t l with frames := 0 } t) s
      wr .LNK_HL_WIDTH w 0 (wr .LNK_HL_STATE 2 0 { s with hl := { pos := s.hl.pos, sinceShim := s.hl.sinceShim, viols := s.hl.viols } })
    else
      let busy := (List.range 16).any fun l => decide (lnTrain ≤ laneState s l)
      wr .LNK_HL_STATE (b2n busy) 0 s

/-- What the links see of a lane that has changed state. -/
def settleLane (l : Nat) (s : State) : State :=
  if isHost l then
    if hostUp s ∧ l < rn s .LNK_HL_WIDTH ∧ laneState s l ≠ lnUp then hostDown l s else settleHost s
  else settlePort (portOf l) s

/-- A lane loses its signal, its lock, its port or its clock (R310, R311). -/
def laneDown (l : Nat) (s : State) : State := settleLane l (laneSilent l s)

/-- Lanes go OFF, or leave OFF for SILENT, as their conditions change (R310). -/
def settleLanes (s : State) : State :=
  (List.range 32).foldl (fun t l => if laneOff t l = decide (laneState t l = 0) then t else laneDown l t) s

/-- LOSS_OF_SIGNAL (R311). -/
def execLossOfSignal (lane : Fin 32) (s : State) : Out :=
  if laneState s lane.val = 0 then .next s else .next (laneDown lane.val (flag .LNK_LN_LOS lane.val s))

/-- Loss of bit or block lock (R311). -/
def loseLock (l : Nat) (s : State) : State := if laneState s l = 0 then s else laneDown l (flag .LNK_LN_LOL l s)

/-- LOSS_OF_LOCK (R311). -/
def execLossOfLock (lane : Fin 32) (s : State) : Out := .next (loseLock lane.val s)

/-- PPM_MEASURE (R308). -/
def execPpmMeasure (lane : Fin 32) (ppm : BitVec 16) (s : State) : Out :=
  if laneState s lane.val = lnUp then
    .next (wr .LNK_LN_PPM (sx 16 ppm.toNat) lane.val (lnset lane.val { lnget s lane.val with measured := true } s))
  else .next s

/-- Retrain the host link (R321, R325). -/
def hostRetrain (s : State) : State := hostDown 0 (inc .LNK_RETRAINS 0 s)

/-- RETRAIN written to LNK_HL_CTRL (R313). -/
def retrainLink (s : State) : State := hostDown 0 s

/-- Retrain a viaduct port (R325). -/
def portRetrain (q : Nat) (s : State) : State :=
  let s := logFault clsLink 0 (32 + q) s.tml (inc .LNK_VP_RETRAINS q s)
  settlePort q (laneSilent (17 + 2 * q) (laneSilent (16 + 2 * q) s))

/-- A port is enabled or disabled (R327). -/
def enablePort (q v : Nat) (s : State) : State :=
  let s := wr .LNK_VP_ENABLE v q s
  settleLanes (if v = 0 then discardPort q s else s)

/-! ### Violations (R324, R325) -/

/-- One more violation in a window of 1 ms: the ticks kept, and whether the sixteenth has come. -/
def violWindow (ts : List Nat) (now : Nat) : List Nat × Bool :=
  let kept := (ts.filter fun t => decide (now < t + msT)) ++ [now]
  if 16 ≤ kept.length then ([], true) else (kept, false)

/-- A CTL block (R318). -/
def ctlWord (type vc reason seq limit : Nat) : Word :=
  word (type * 2 ^ 60 + vc * 2 ^ 58 + reason * 2 ^ 52 + seq % 4096 * 2 ^ 32 + limit % 2 ^ 32)

/-- A CTL packet to send. -/
def sendCtl (w : Word) (s : State) : State := writeWord 0x2004 wLink { data := w, fin := true } s

/-- Last SEQ accepted on a VC. -/
def lastSeq (s : State) (vc : Nat) : Nat := if vc ≤ 1 then ((vcget s vc).expect + 4095) % 4096 else 0

/-- Send a NAK (R318, R320, R324); R320 remembers the last one for each expected SEQ. -/
def sendNak (vc reason : Nat) (s : State) : State :=
  let s := vcset vc { vcget s vc with nak := some ((vcget s vc).expect, s.elapsed) } s
  sendCtl (ctlWord 2 vc reason (lastSeq s vc) 0) (inc .LNK_NAK_TX 0 s)

/-- A violation on the host link: counted, answered unless it is ignored, and the sixteenth within 1 ms retrains (R324, R325,
R409). -/
def hostViol (code vc : Nat) (answer counts : Bool) (s : State) : State :=
  let s := wr .LNK_VIOL_LAST code 0 (inc .LNK_VIOL 0 s)
  let s := if answer then sendNak vc code s else s
  if !counts then s
  else
    let w := violWindow s.hl.viols s.elapsed
    let s := { s with hl := { s.hl with viols := w.1 } }
    if w.2 then hostRetrain (logFault clsLink 0 0 s.tml s) else s

/-- A violation on a viaduct port, answered by a REJECT on the lane. -/
def portViol (l code ts : Nat) (s : State) : State :=
  let q := portOf l
  let s := wr .LNK_VIOL_LAST code 0 (inc .LNK_VP_VIOL q s)
  let v := lnget s l
  let s := lnset l { v with txq := v.txq ++ [.reject code ts] } s
  let w := violWindow (vpget s q).viols s.elapsed
  let s := vpset q { vpget s q with viols := w.1 } s
  if w.2 then portRetrain q s else s

end Sys2Proof.Machine
end

