-- ==== Sys2Proof/Machine/HostPackets.lean ====
section
/-! DEFINITION. Packets of the host link (R315 to R323): taking in link blocks, accepting packets, credits, acknowledgement,
retransmission, uploads, and the link blocks that the FQ512 sends. -/

namespace Sys2Proof.Machine

/-! ### Taking in link blocks (R315, R324) -/

def hlset (h : HostLink) (s : State) : State := { s with hl := h }

/-- LEN of a packet header (R316). -/
def packetLenField (h : Word) : Nat := fld h 48 40

/-- Mark the packet being received with a reason, the first one standing. -/
def breakPacket (code : Nat) (p : LinkPacket) : LinkPacket := { p with reason := if p.reason = 0 then code else p.reason }

/-- The packet being received is whole: it waits to be judged. -/
def closePacket (p : LinkPacket) (s : State) : State := hlset { s.hl with rx := none, packets := s.hl.packets ++ [p] } s

/-- Reason to drop a packet for its header alone: reserved bits, LEN against EOP, BYTES, a forbidden direction (R315 to R317,
R324). -/
def headerReason (vc : Nat) (h : Word) (eop : Bool) : Nat :=
  let n := packetLenField h
  let bytes := fld h 15 0
  if vc = vcStr then 7
  else if fld h 51 49 ≠ 0 ∨ (vc = vcMgt ∧ fld h 39 16 ≠ 0) then 6
  else if 256 < n ∨ eop ≠ decide (n = 0) then 4
  else if vc = vcMgt ∧ !(decide (8 * n < bytes + 8) && decide (bytes ≤ 8 * n)) then 4
  else 0

/-- A header block opens a packet, or is one (R315); `rsv`: a reserved bit of its TS is set, and the packet is dropped whole (R320,
R324). -/
def openPacket (vc : Nat) (w : Word) (eop rsv : Bool) (s : State) : State :=
  let p : LinkPacket := { vc := vc, header := w, reason := if rsv then 6 else headerReason vc w eop }
  if eop ∨ packetLenField w = 0 then closePacket p s else hlset { s.hl with rx := some p } s

/-- A CTL block (R315, R318). -/
def takeCtl (w : Word) (sop eop rsv : Bool) (s : State) : State :=
  let ty := fld w 63 60
  if rsv then hostViol 6 vcCtl true true s
  else if !(sop && eop) ∨ ty = 0 ∨ 3 < ty then hostViol 9 vcCtl true true s
  else if fld w 51 44 ≠ 0 then hostViol 6 vcCtl true true s
  else hlset { s.hl with ctls := s.hl.ctls ++ [w] } s

/-- A payload block of the packet being received (R315). -/
def payloadBlock (p : LinkPacket) (w : Word) (eop : Bool) (s : State) : State :=
  let p := { p with words := p.words ++ [w] }
  let last := decide (packetLenField p.header ≤ p.words.length)
  let p := if eop = last then p else breakPacket 4 p
  if eop || last then closePacket p s else hlset { s.hl with rx := some p } s

/-- A packet whose header already broke R324 ends before it is whole: that violation counts (R324). -/
def dropOpen (p : LinkPacket) (s : State) : State :=
  let s := hlset { s.hl with rx := none } s
  if 2 ≤ p.reason then hostViol p.reason p.vc true true s else s

/-- A data block (R315, R324). A block of another VC than the packet that is open is a violation of its own: it fills no place in the
packet (log 53). -/
def dataBlock (ts : Nat) (w : Word) (s : State) : State :=
  let vc := ts / 16
  let sop := bitOf ts 3
  let eop := bitOf ts 2
  let rsv := decide (ts % 4 ≠ 0)
  let stray (s : State) : State := if vc = vcCtl then takeCtl w sop eop rsv s else hostViol (if rsv then 6 else 2) vc true true s
  match s.hl.rx with
  | some p =>
    if sop then
      let s := hostViol 3 p.vc true true (dropOpen p s)
      if vc = vcCtl then takeCtl w sop eop rsv s else openPacket vc w eop rsv s
    else if vc ≠ p.vc then stray s
    else if rsv then hostViol 6 vc true true (payloadBlock { p with hit := true } w eop s)
    else payloadBlock p w eop s
  | none => if sop ∧ vc ≠ vcCtl then openPacket vc w eop rsv s else stray s

/-- A control block among the link blocks (R324): IDLE between packets; anything else is a violation. Inside a packet it takes the place
of no payload block, and the packet is dropped (R320). -/
def controlBlock (ts : Nat) (s : State) : State :=
  match s.hl.rx with
  | some p => hostViol 5 p.vc true true (hlset { s.hl with rx := some { p with hit := true } } s)
  | none => if ts = 0 then s else hostViol 5 vcCtl true true s

/-- One link block: none for a bad one; a control block's TS stands above 63. -/
def linkBlock (b : Option (Nat × Word)) (s : State) : State :=
  match b with
  | some (ts, w) => if ts < 64 then dataBlock ts w s else controlBlock (ts - 64) s
  | none =>
    match s.hl.rx with
    | some p => payloadBlock (breakPacket 1 p) 0 (decide (packetLenField p.header ≤ p.words.length + 1)) s
    | none => s

/-- Take link blocks in order as long as the lane that carries the next one has it (R315); `n` bounds their number. -/
def mergeLanes : Nat → State → State
  | 0, s => s
  | n + 1, s =>
    if !hostUp s then s
    else
      let v := lnget s s.hl.rxLane
      match v.fifo with
      | [] => s
      | b :: rest =>
        let s := lnset s.hl.rxLane { v with fifo := rest } s
        let s := hlset { s.hl with rxLane := (s.hl.rxLane + 1) % max 1 (rn s .LNK_HL_WIDTH) } s
        mergeLanes n (linkBlock b s)

/-! ### Accepting packets (R319, R320) -/

/-- Receive buffer of a VC in blocks, and its queue (R317). -/
def rxBuffer (vc : Nat) : Nat := if vc = vcMgt then 256 else 8192
def rxQueue (vc : Nat) : Nat := if vc = vcMgt then 0x2000 else 0x2002

/-- Words of a queue, those that wait to be written included. -/
def heldWords (s : State) (q : Nat) : Nat := (qget s q).words.length + (qget s q).waiting.length

/-- The LIMIT that a VC's buffer allows now. -/
def limitNow (s : State) (vc : Nat) : Nat := (vcget s vc).got + rxBuffer vc - heldWords s (rxQueue vc)

/-- A NAK for the expected SEQ went out less than 2 µs before `now` (R320). -/
def nakRecent (v : Vc) (now : Nat) : Bool :=
  match v.nak with
  | some (e, t) => decide (e = v.expect) && decide (now < t + 2 * usT)
  | none => false

/-- A packet of a VC is accepted (R320). -/
def nextSeq (vc : Nat) (s : State) : State :=
  let v := vcget s vc
  vcset vc { v with expect := (v.expect + 1) % 4096, owed := v.owed + 1 } s

/-- An MGT packet of these words is accepted. -/
def acceptMgt (ws : List Word) (s : State) : State :=
  writePacket (rxQueue vcMgt) wLink (packetWords ws) (inc .LNK_MGT_RX 0 (nextSeq vcMgt s))

/-- An upload of these words is accepted. -/
def acceptUpload (vc : Nat) (ws : List Word) (s : State) : State :=
  let s := inc .LNK_UPL_RX 0 (nextSeq vc s)
  writePacket (rxQueue vc) wLink (packetWords ws) (wr .LNK_UPL_PENDING (rn s .LNK_UPL_PENDING + 8 * (ws.length - 1) : Nat) 0 s)

/-- A whole packet with no fault of its own is compared with the expected SEQ (R320). -/
def sequencePacket (p : LinkPacket) (s : State) : State :=
  let v := vcget s p.vc
  let d := (fld p.header 63 52 + 4096 - v.expect) % 4096
  if d = 0 then
    if p.vc = vcMgt then acceptMgt (p.header :: p.words) s else acceptUpload p.vc (p.header :: p.words) s
  else if d < 2048 then
    let again := nakRecent v s.elapsed
    hostViol 8 p.vc (!again) false s
  else sendCtl (ctlWord 1 p.vc 0 (lastSeq s p.vc) 0) s

/-- LINK_PACKET_RECEIVE (R320): a packet with a violation that has been answered is dropped. -/
def execLinkPacketReceive (s : State) : Out :=
  match s.hl.packets with
  | [] => .next s
  | p :: rest =>
    let s := hlset { s.hl with packets := rest } s
    let n := 1 + p.words.length
    let v := vcget s p.vc
    let overs := decide (p.vc ≤ 1 ∧ v.granted < v.got + n)
    let s := vcset p.vc { v with got := v.got + n } s
    if p.reason = 1 then .next (sendNak p.vc 1 s)
    else if p.reason ≠ 0 then .next (hostViol p.reason p.vc true true s)
    else if p.hit then .next s
    else if overs then .next (hostViol 7 p.vc true true s)
    else .next (sequencePacket p s)

/-! ### Acknowledgement and retransmission (R320, R321) -/

/-- Responses up to and including a SEQ are acknowledged. -/
def retire (seq : Nat) (us : List (Nat × List Word)) : List (Nat × List Word) :=
  match us with
  | [] => []
  | u :: rest => if u.1 = seq then rest else retire seq rest

/-- The effect of an ACK or a NAK on the responses that wait for one; none when it names a SEQ that is neither outstanding
nor just acknowledged. -/
def acknowledge (seq : Nat) (s : State) : Option State :=
  let h := s.hl
  if h.unacked.any (fun u => decide (u.1 = seq)) then
    let left := retire seq h.unacked
    some (hlset { h with acked := seq, unacked := left, rtoAt := s.elapsed, timeouts := 0
                         resend := h.resend.filter fun r => left.any fun u => decide (u.1 = r.1) } s)
  else if h.acked = seq then some s
  else none

/-- The oldest CTL packet when it is of a type; the rest. -/
def takeCtlOf (type : Nat) (s : State) : Option (Word × State) :=
  match s.hl.ctls with
  | w :: rest => if fld w 63 60 = type then some (w, hlset { s.hl with ctls := rest } s) else none
  | [] => none

/-- ACK (R321). -/
def execAck (s : State) : Out :=
  match takeCtlOf 1 s with
  | none => .next s
  | some (w, s) =>
    match if fld w 59 58 = vcMgt then acknowledge (fld w 43 32) s else none with
    | some s => .next s
    | none => .next (hostViol 10 (fld w 59 58) false true s)

/-- NAK (R321); for STR and CTL it only informs (R324). -/
def execNak (s : State) : Out :=
  match takeCtlOf 2 s with
  | none => .next s
  | some (w, s) =>
    let s := inc .LNK_NAK_RX 0 s
    if 2 ≤ fld w 59 58 then .next s
    else
      match if fld w 59 58 = vcMgt then acknowledge (fld w 43 32) s else none with
      | some s => .next (hlset { s.hl with resend := s.hl.unacked } s)
      | none => .next (hostViol 10 (fld w 59 58) false true s)

/-- CREDIT (R319). -/
def execCredit (s : State) : Out :=
  match takeCtlOf 3 s with
  | none => .next s
  | some (w, s) =>
    let v := vcget s (fld w 59 58)
    let d := (fld w 31 0 + 2 ^ 32 - v.limit) % 2 ^ 32
    if 2 ^ 31 ≤ d then .next (hostViol 10 (fld w 59 58) false true s) else .next (vcset (fld w 59 58) { v with limit := fld w 31 0 } s)

/-- ACK_SEND (R320): the packets accepted and not yet acknowledged. -/
def execAckSend (s : State) : Out :=
  if !hostUp s then .next s
  else .next ([vcMgt, vcUpl].foldl (fun t v =>
    if (vcget t v).owed = 0 then t
    else sendCtl (ctlWord 1 v 0 (lastSeq t v) 0) (vcset v { vcget t v with owed := 0 } t)) s)

/-- A CREDIT is due (R319). -/
def creditDue (s : State) (vc : Nat) : Bool :=
  match (vcget s vc).grantAt with
  | none => true
  | some t => decide ((vcget s vc).granted + rxBuffer vc / 8 ≤ limitNow s vc) || decide (t + 10 * usT ≤ s.elapsed)

/-- CREDIT_SEND (R319). -/
def execCreditSend (s : State) : Out :=
  if !hostUp s then .next s
  else .next ([vcMgt, vcUpl].foldl (fun t v =>
    if !creditDue t v then t
    else
      let n := limitNow t v
      sendCtl (ctlWord 3 v 0 0 n) (vcset v { vcget t v with granted := n, grantAt := some t.elapsed } t)) s)

/-- RETRANSMIT_TIMEOUT (R321). -/
def execRetransmitTimeout (s : State) : Out :=
  let h := s.hl
  if !hostUp s ∨ h.unacked.isEmpty ∨ s.elapsed < h.rtoAt + rn s .LNK_RTO * usT then .next s
  else
    let s := hlset { h with resend := h.unacked, rtoAt := s.elapsed, timeouts := h.timeouts + 1 } s
    .next (if 8 ≤ h.timeouts + 1 then hostRetrain s else s)

/-! ### Uploads (R323) -/

/-- Why an upload is refused: 0 when it is not. -/
def uploadReason (s : State) (arg len : Nat) : Nat :=
  if rn s .DRM_STATE ≠ 3 ∧ rn s .DRM_STATE ≠ 4 then 1
  else if rn s .DRM_RANGE < arg + len then 2
  else
    match imageSpan s with
    | some (b, n) => if spansMeet (arg, len) (b, n) then 3 else 0
    | none => 0

/-- The oldest upload waits for a channel in a retraining step (R296). -/
def uploadWaits (s : State) : Bool :=
  match headView (qget s 0x2002) with
  | h :: ws => decide (uploadReason s (fld h.data 39 0) (8 * ws.length) = 0) && dramWaits s (fld h.data 39 0) (8 * ws.length)
  | [] => false

/-- UPLOAD_WRITE (R323): a poisoned packet is discarded (R251). -/
def execUploadWrite (s : State) : Out :=
  if uploadWaits s then .next s else
  match readWhole 0x2002 258 s with
  | (([], _), s) => .next s
  | ((h :: ws, psn), s) =>
    let arg := fld h 39 0
    let n := 8 * ws.length
    let s := wr .LNK_UPL_PENDING (rn s .LNK_UPL_PENDING - n : Nat) 0 s
    let why := uploadReason s arg n
    if psn then .next s
    else if why = 0 then .next (incWrap 64 .LNK_UPL_BYTES n 0 (dramWrite 20 arg (wordsBytes ws) s))
    else
      let s := if rn s .LNK_UPL_REFUSED = 0 then wr .LNK_UPL_REFUSE_WHY why 0 (wr .LNK_UPL_REFUSE_ADDR arg 0 s) else s
      .next (inc .LNK_UPL_REFUSED 0 s)

/-! ### Link blocks to send (R315, R319, R321) -/

/-- The link blocks of a packet. -/
def packetBlocks (vc : Nat) (ws : List Word) : List (Nat × Word) :=
  (List.range ws.length).map fun i => (16 * vc + (if i = 0 then 8 else 0) + (if i + 1 = ws.length then 4 else 0), nthD ws i 0)

/-- An MGT packet goes out: its blocks use credit, and LNK_RTO counts from the first one outstanding. -/
def sendMgt (ws : List Word) (s : State) : State :=
  let v := vcget s vcMgt
  let s := vcset vcMgt { v with sent := v.sent + ws.length } s
  hlset { s.hl with cur := packetBlocks vcMgt ws } s

/-- The next packet to send, in `cur`: control first, then responses to be repeated, new responses, and the stream. One that carries
PSN is discarded instead (R251). -/
def choosePacket (s : State) : State :=
  match readWhole 0x2004 2 s with
  | ((w :: _, psn), s) => if psn then s else hlset { s.hl with cur := packetBlocks vcCtl [w] } s
  | (([], _), s) =>
    match s.hl.resend with
    | (_, ws) :: rest =>
      if ws.length ≤ creditLeft s vcMgt then
        inc .LNK_MGT_RETX 0 (sendMgt ws (hlset { s.hl with resend := rest } s))
      else s
    | [] =>
      let q := qget s 0x2001
      let n := headLen q.words
      if wholePackets q ≠ 0 ∧ s.hl.unacked.length < 64 ∧ n ≤ creditLeft s vcMgt then
        let r := readWhole 0x2001 520 s
        let ws := word (s.hl.seq * 2 ^ 52 + (r.1.1.length - 1) * 2 ^ 40 + (nthD r.1.1 0 0).toNat) :: r.1.1.drop 1
        let h := r.2.hl
        let h := { h with seq := (h.seq + 1) % 4096, unacked := h.unacked ++ [(h.seq, ws)]
                          rtoAt := if h.unacked.isEmpty then s.elapsed else h.rtoAt }
        if r.1.2 then r.2 else sendMgt ws (hlset h r.2)
      else
        match readWhole 0x2003 258 s with
        | (([], _), s) => s
        | ((ws, psn), s) => if psn then s else hlset { s.hl with cur := packetBlocks vcStr ws } s

/-- The next link block: of the packet in progress, of the next packet, or IDLE. -/
def nextLinkBlock (s : State) : TxBlock × State :=
  let s := if s.hl.cur.isEmpty then choosePacket s else s
  match s.hl.cur with
  | [] => (.idle, s)
  | b :: rest => (.data b.1 b.2, hlset { s.hl with cur := rest } s)

end Sys2Proof.Machine
end

