-- ==== Sys2Proof/Machine/Blocks.lean ====
section
/-! DEFINITION. Blocks on the lanes (R304 to R309, R312): the block code, the scrambler, bit stuffing, receiving a block and
sending one. -/

namespace Sys2Proof.Machine

/-! ### The block code (R304 to R307) -/

/-- PAR of a block: odd parity over each payload byte, bit 7 over TS too (R304). -/
def blockPar (ts payload : Nat) : Nat :=
  sumN ((List.range 8).map fun i =>
    let ones := popcount 8 (nfld payload (8 * i + 7) (8 * i)) + (if i = 7 then popcount 6 ts else 0)
    if ones % 2 = 0 then 2 ^ i else 0)

/-- A block before scrambling (R304). -/
def blockBits (sync ts payload : Nat) : Nat := sync * 2 ^ 78 + ts * 2 ^ 72 + payload * 2 ^ 8 + blockPar ts payload

/-- Fields of a block. -/
def blkSync (b : Nat) : Nat := nfld b 79 78
def blkTs (b : Nat) : Nat := nfld b 77 72
def blkPayload (b : Nat) : Nat := nfld b 71 8
def blkParOk (b : Nat) : Bool := decide (nfld b 7 0 = blockPar (blkTs b) (blkPayload b))

/-- The scrambler over bits k - 1 to 0 of a block (R306): the bits that result and the new state. -/
def scrambleGo : Nat → Nat → Nat → Nat → Nat × Nat
  | 0, _, st, acc => (acc, st)
  | k + 1, b, st, acc =>
    let o := (st / 2 ^ 30 + st / 2 ^ 27) % 2
    scrambleGo k b ((2 * st + o) % 2 ^ 31) (2 * acc + (b / 2 ^ k + o) % 2)

/-- Scramble or descramble bits [77:0] of a block (R306). -/
def scramble (b st : Nat) : Nat × Nat :=
  let r := scrambleGo 78 b st 0
  (b / 2 ^ 78 * 2 ^ 78 + r.1, r.2)

/-- Scrambler state after an ALIGN on a lane (R306). -/
def scrSeed (l : Nat) : Nat := 0x7FFFFFE0 ||| laneNo l

/-- The run of equal bits on a line after one more bit (R307). -/
def nextRun (r : Bool × Nat) (x : Bool) : Bool × Nat := if x = r.1 then (x, r.2 + 1) else (x, 1)

/-- Bits k - 1 to 0 of a block on the line (R307): after each run of 48 equal bits a stuff bit of the opposite value follows, which
starts a run of 1. The bits, and the run after them. -/
def stuffed : Nat → Nat → Bool × Nat → List Bool × (Bool × Nat)
  | 0, _, r => ([], r)
  | k + 1, b, r =>
    let x := bitOf b k
    if (nextRun r x).2 = 48 then
      let t := stuffed k b (!x, 1)
      (x :: (!x) :: t.1, t.2)
    else
      let t := stuffed k b (nextRun r x)
      (x :: t.1, t.2)

/-- What remains of received bits when the bit after each run of 48 is removed (R307): the block's bits as a number, the run, and
whether a removed bit had the value of its run; then bit alignment is lost. -/
def unstuffed : List Bool → Bool × Nat → Nat → Nat × (Bool × Nat) × Bool
  | [], r, acc => (acc, r, false)
  | x :: xs, r, acc =>
    if r.2 = 48 then (if x = r.1 then (acc, (x, 1), true) else unstuffed xs (x, 1) acc)
    else unstuffed xs (nextRun r x) (2 * acc + b2n x)

/-- The payload of a SHIM (R305). -/
def shimPayload : Nat := 0x5555555555555555

/-- What a receiver makes of a block's bits: SHIM, ALIGN and TRAIN are known by their unscrambled bits; the rest is
descrambled. -/
inductive RxBlock where
  | bad | shim | align
  /-- lost at a full elastic buffer: answered as a bad block (R309) -/
  | lost
  | train (w : Nat)
  | control (ts : Nat) (w : Nat)
  | data (ts : Nat) (w : Nat)
  deriving DecidableEq, Repr

/-- A control block that a transmitter scrambles, whole as R305 gives it: IDLE, or REJECT with its reserved bits 0. -/
def scrambledKind (b : Nat) : Bool :=
  decide (blkSync b = 2) && blkParOk b &&
    (decide (blkTs b = 0 ∧ blkPayload b = 0) || decide (blkTs b = 4 ∧ nfld (blkPayload b) 57 6 = 0))

/-- Read a block (R304 to R306): what it is, and the descrambler's state after it. Within frames, bits that descramble to an IDLE or a
REJECT are one, whatever they look like on the line. -/
def readBlock (framed : Bool) (b st : Nat) : RxBlock × Nat :=
  if framed ∧ scrambledKind (scramble b st).1 then
    (.control (blkTs (scramble b st).1) (blkPayload (scramble b st).1), (scramble b st).2)
  else if blkSync b = 2 ∧ blkParOk b ∧ blkTs b = 1 ∧ blkPayload b = shimPayload then (.shim, st)
  else if blkSync b = 2 ∧ blkParOk b ∧ blkTs b = 2 then (.align, st)
  else if blkSync b = 2 ∧ blkParOk b ∧ blkTs b = 3 then (.train (blkPayload b), st)
  else
    let d := scramble b st
    if (blkSync b ≠ 1 ∧ blkSync b ≠ 2) ∨ !blkParOk d.1 then (.bad, d.2)
    else if blkSync b = 1 then (.data (blkTs d.1) (blkPayload d.1), d.2)
    else (.control (blkTs d.1) (blkPayload d.1), d.2)

/-! ### Training (R312) -/

/-- The payload of a TRAIN block that a lane sends. -/
def trainPayload (s : State) (l : Nat) : Nat :=
  let v := lnget s l
  (if isHost l then 1 else 2) * 2 ^ 62 + laneNo l * 2 ^ 57 + rn s .LNK_PKG_NO * 2 ^ 53 + rn s .LNK_CAN_NODE * 2 ^ 46 +
    b2n v.lock * 2 ^ 45 + b2n (decide (16 ≤ v.rxLocked)) * 2 ^ 44

/-- A lane moves from TRAIN to ALIGN (R312). -/
def trainDone (l : Nat) (s : State) : State :=
  let v := lnget s l
  if laneState s l = lnTrain ∧ 16 ≤ v.txReady ∧ 16 ≤ v.rxReady then settleLane l (wr .LNK_LN_STATE lnAlign l s) else s

/-- A TRAIN block received in TRAIN (R312). -/
def takeTrain (l w : Nat) (s : State) : State :=
  let v := lnget s l
  let pkg := nfld w 56 53
  let s := if isHost l then s else wr .LNK_VP_PARTNER (nfld w 52 46 * 256 + pkg : Nat) (portOf l) s
  let clash := !isHost l && (decide (nfld w 61 57 ≠ laneNo l) || decide (pkg = rn s .LNK_PKG_NO))
  if nfld w 63 62 ≠ (if isHost l then 1 else 2) ∨ nfld w 61 57 ≠ laneNo l ∨ clash then
    let s := if v.failing then s else inc .LNK_LN_DOWNS l s
    settleLane l (lnset l { v with failing := true, conflict := clash, rxLocked := 0, rxReady := 0 } s)
  else
    let up (b : Bool) (n : Nat) : Nat := if b then min 16 (n + 1) else 0
    let v := { v with failing := false, conflict := false, rxLocked := up (bitOf w 45) v.rxLocked, rxReady := up (bitOf w 44) v.rxReady }
    settleLane l (trainDone l (lnset l v s))

/-! ### Receiving (R304, R309, R310, R315, R324) -/

/-- A lane in UP passes a block on: to the host link's deskew, or to its viaduct port. -/
def passBlock (l : Nat) (b : RxBlock) (s : State) : State :=
  let v := lnget s l
  if isHost l then
    let x : Option (Nat × Word) := match b with
      | .data ts w => some (ts, word w)
      | .control ts w => some (64 + ts, word w)
      | _ => none
    let s := if v.alignAt.isSome ∨ hostUp s then lnset l { v with fifo := v.fifo ++ [x] } s else s
    mergeLanes (16 * 64) s
  else
    match b with
    | .data ts w => lnset l { v with fifo := v.fifo ++ [some (ts, word w)] } s
    | .control ts _ =>
      if ts = 0 then s
      else if ts = 4 then inc .LNK_VP_REJECT_RX (portOf l) s
      else portViol l 5 ts s
    | _ => s

/-- A lane enters UP (R312). -/
def laneUp (l : Nat) (s : State) : State :=
  settleLane l (wr .LNK_LN_STATE lnUp l (lnset l { lnget s l with fifo := [], alignAt := none, measured := false } s))

/-- An ALIGN block: the descrambler is reloaded and a frame begins; out of its place it counts as missed (R306, R310). -/
def takeAlign (l : Nat) (s : State) : State :=
  let v := lnget s l
  let misses := match v.rxPos with | none => 0 | some p => if p = 4095 then 0 else v.misses + 1
  if 2 ≤ misses then loseLock l s
  else
    let up := decide (laneState s l = lnUp)
    let v := { v with rxPos := some 0, rxScr := scrSeed l, misses := misses, clean := true
                      alignAt := if up then some s.elapsed else none, frames := v.frames + 1
                      fifo := if up && isHost l && !hostUp s then [] else v.fifo }
    settleLane l (lnset l v s)

/-- Any other block: a bad one counts; in a frame, its place, an ALIGN that did not come, and the end of a frame without a bad block
(R304, R310, R312). -/
def takeFramed (l : Nat) (b : RxBlock) (s : State) : State :=
  let v := lnget s l
  let s := if b = .bad then inc .LNK_LN_BAD l s else s
  match v.rxPos with
  | none => s
  | some p =>
    let bad := decide (b = .bad ∨ b = .lost)
    if p + 1 = 4096 ∧ 1 ≤ v.misses then loseLock l s
    else
      let v := if p + 1 = 4096 then { v with rxPos := some 0, misses := v.misses + 1, clean := false }
        else { v with rxPos := some (p + 1), clean := v.clean && !bad }
      let s := lnset l v s
      if p + 1 = 4096 then s
      else if laneState s l = lnUp then passBlock l b s
      else if laneState s l = lnAlign ∧ v.rxPos = some 4095 ∧ v.clean then laneUp l s
      else s

/-- A TRAIN block received in UP: the partner retrains, and the lane enters TRAIN at once (R312). -/
def retrainLane (l w : Nat) (s : State) : State :=
  let v := lnget s l
  let s := logFault clsLink 0 l s.tml (inc .LNK_LN_DOWNS l s)
  let s := wr .LNK_LN_STATE lnTrain l
    (lnset l { good := v.good, lock := v.lock, syncs := v.syncs, out := v.out, run := v.run, rxRun := v.rxRun
               txq := if isHost l then [] else v.txq.filter TxBlock.isData, txScr := v.txScr, sinceShim := v.sinceShim } s)
  let s := settleLane l s
  if laneState s l = lnTrain then takeTrain l w s else s

/-- The lanes whose elastic buffers insert a SHIM together: the columns of the host link, a viaduct lane alone (R309). -/
def shimLanes (s : State) (l : Nat) : List Nat := if isHost l then List.range (rn s .LNK_HL_WIDTH) else [l]

/-- The elastic buffer (R309): its level has fallen by the blocks read since the last arrival, 7 / 25 of a block a grain, and
SHIMs were inserted below 4 blocks. After more than 1 µs without a block it starts afresh. -/
def drainElastic (l gap : Nat) (s : State) : State :=
  let v := lnget s l
  if usT < gap then lnset l { v with fill := 200 } s
  else
    let left : Int := (v.fill : Int) - 7 * gap
    if left < 100 then
      let n := ((124 - left) / 25).toNat
      let s := (shimLanes s l).foldl (fun t k => incBy .LNK_LN_SHIM_INS n k (lnset k { lnget t k with fill := (lnget t k).fill + 25 * n } t)) s
      lnset l { lnget s l with fill := (left + 25 * n).toNat } s
    else lnset l { v with fill := left.toNat } s

/-- A SHIM reaches the buffer: deleted above 12 blocks; on the host link the column's first SHIM decides for the whole column, known
by its place in the frames and among the SHIMs that stand there (R309). -/
def shimDeleted (l : Nat) (s : State) : Bool × State :=
  let v := lnget s l
  let full := decide (300 < v.fill)
  if !isHost l then (full, s)
  else
    let at_ := (4096 * v.frames + v.rxPos.getD 0, v.rxShims)
    match s.hl.shims.find? fun x => decide (x.1 = at_) with
    | some x => (x.2, s)
    | none => (full, hlset { s.hl with shims := ((at_, full) :: s.hl.shims).take 8 } s)

/-- A block reaches the buffer: false when it is lost there (R309). -/
def enterElastic (l : Nat) (shim : Bool) (s : State) : Bool × State :=
  let d := if shim then shimDeleted l s else (false, s)
  let s := d.2
  let v := lnget s l
  if d.1 then (true, inc .LNK_LN_SHIM_DEL l s)
  else if 400 < v.fill + 25 then (false, inc .LNK_LN_ELASTIC l s)
  else (true, lnset l { v with fill := v.fill + 25 } s)

/-- The elastic buffer of a lane works: of a host lane, after the deskew of a link that is up (R309). -/
def elasticOn (s : State) (l : Nat) : Bool := !isHost l || (hostUp s && decide (l < rn s .LNK_HL_WIDTH))

/-- A block passes the elastic buffer, where it works: false when it is lost there. -/
def throughElastic (l : Nat) (shim : Bool) (s : State) : Bool × State :=
  let s' := lnset l { lnget s l with rxAt := s.elapsed } s
  if elasticOn s l then
    let s' := drainElastic l (s.elapsed - (lnget s l).rxAt) s'
    enterElastic l shim s'
  else (true, s')

/-- A block on a lane with block lock. -/
def lockedBlock (l raw : Nat) (s : State) : State :=
  let v := lnget s l
  let r := readBlock v.rxPos.isSome raw v.rxScr
  let shim := decide (r.1 = .shim)
  let e := throughElastic l shim (lnset l { v with rxScr := r.2, rxShims := if shim then v.rxShims + 1 else 0 } s)
  let s := e.2
  match if e.1 then r.1 else .lost with
  | .shim => s
  | .align => takeAlign l s
  | .train w =>
    if laneState s l = lnUp then retrainLane l w s
    else takeFramed l (.train w) (if laneState s l = lnTrain then takeTrain l w s else s)
  | b => takeFramed l b s

/-- The bits of a block as the line brings them, first bit first: 80, and as many more as it holds stuff bits (R307). -/
def lineBits (raw : BitVec 80) (more : List Bool) : List Bool := (List.range 80).map raw.getMsbD ++ more

/-- BLOCK_RECEIVE (R304 to R312): the bits of one block as the line brings them, its stuff bits among them. -/
def execBlockReceive (lane : Fin 32) (raw : BitVec 80) (more : List Bool) (s : State) : Out :=
  let l := lane.val
  if !laneClock s l ∨ laneState s l = 0 then .next s
  else
    let v := lnget s l
    let u := unstuffed (lineBits raw more) v.rxRun 0
    let b := u.1 % 2 ^ 80
    let stuffErr := u.2.2
    let ok := decide (blkSync b = 1 ∨ blkSync b = 2)
    let v := { v with rxRun := u.2.1, good := if ok && !stuffErr then min 64 (v.good + 1) else 0, syncs := (2 * v.syncs + b2n (!ok)) % 2 ^ 64 }
    let s := lnset l v s
    if laneState s l = lnSilent then
      if v.good = 64 then
        .next (settleLane l (wr .LNK_LN_STATE lnTrain l (lnset l { v with lock := true, syncs := 0, rxAt := s.elapsed } s)))
      else .next s
    else if stuffErr then .next (loseLock l (inc .LNK_LN_BAD l s))
    else if 16 ≤ popcount 64 v.syncs then .next (loseLock l (inc .LNK_LN_BAD l s))
    else .next (lockedBlock l b s)

/-! ### Sending (R304 to R308, R312, R315, R326) -/

/-- Blocks between two SHIMs that a lane's transmitter may send (R308). -/
def shimGap (s : State) (l : Nat) : Nat :=
  if (lnget s l).measured ∧ laneState s l = lnUp ∧ -1440 ≤ rd s .LNK_LN_PPM l then 4096 else 1024

/-- The host lanes whose frames have started. -/
def framedLanes (s : State) : List Nat := (List.range 16).filter fun l => (lnget s l).framed

/-- One more block for a lane to send. -/
def putBlock (b : TxBlock) (s : State) (l : Nat) : State := let v := lnget s l; lnset l { v with txq := v.txq ++ [b] } s

/-- Blocks since the last SHIM on a lane that takes part in the columns. -/
def joinCount (s : State) (n l : Nat) : Nat := if (lnget s l).framed then n else max n (lnget s l).sinceShim

/-- A lane starts its frames with an ALIGN column (R312). -/
def joinColumn (s : State) (l : Nat) : State :=
  let v := lnget s l
  lnset l { v with framed := true, txq := v.txq ++ [.align] } s

/-- The next column of the host lanes (R309, R315): SHIM and ALIGN columns on every framed lane, which lanes that have reached
ALIGN join at an ALIGN column, and otherwise link blocks on the lanes in use. A SHIM that one of them needs before the ALIGN goes out
on all of them (R308). -/
def formColumn (s : State) : State :=
  let on := framedLanes s
  let h := s.hl
  let cad := on.foldl (fun m l => min m (shimGap s l)) 4096
  if !on.isEmpty ∧ cad ≤ h.sinceShim + 1 then on.foldl (putBlock .shim) (hlset { h with sinceShim := 0 } s)
  else if on.isEmpty ∨ h.pos = 0 then
    let join := (List.range 16).filter fun l => decide (lnAlign ≤ laneState s l)
    let since := join.foldl (joinCount s) (if on.isEmpty then 0 else h.sinceShim)
    let need := decide (min cad 1024 ≤ since + 1) && join.any fun l => !(lnget s l).framed
    let s := if need then join.foldl (putBlock .shim) s else s
    join.foldl joinColumn (hlset { h with pos := 1, sinceShim := if need then 1 else since + 1 } s)
  else
    let s := hlset { h with pos := (h.pos + 1) % 4096, sinceShim := h.sinceShim + 1 } s
    on.foldl (fun t l =>
      if hostUp t ∧ l < rn t .LNK_HL_WIDTH then
        let b := nextLinkBlock t
        putBlock b.1 b.2 l
      else putBlock .idle t l) s

/-- The next block of a viaduct lane's frames. -/
def formBlock (l : Nat) (s : State) : State :=
  let v := lnget s l
  if !v.framed ∨ v.txPos = 0 then lnset l { v with framed := true, txPos := 1, txq := .align :: v.txq } s
  else lnset l { v with txPos := (v.txPos + 1) % 4096, txq := if v.txq.isEmpty then [.idle] else v.txq } s

/-- Put a block other than SHIM on a lane's line (R304, R306, R307), or a SHIM, which the cadence of R308 counts from. -/
def emitBits (l sync ts payload : Nat) (scrambled : Bool) (s : State) : State :=
  let v := lnget s l
  let b := blockBits sync ts payload
  let r := if scrambled then scramble b v.txScr else (b, v.txScr)
  let line := stuffed 80 r.1 v.run
  lnset l { v with out := line.1, txScr := r.2, run := line.2, sinceShim := if sync = 2 ∧ ts = 1 then 0 else v.sinceShim + 1 } s

/-- Send a block. -/
def emitBlock (l : Nat) (b : TxBlock) (s : State) : State :=
  match b with
  | .shim => emitBits l 2 1 shimPayload false s
  | .align =>
    let v := lnget s l
    let s := emitBits l 2 2 (v.frame % 2 ^ 32 * 2 ^ 32 + laneNo l) false s
    lnset l { lnget s l with txScr := scrSeed l, frame := v.frame + 1 } s
  | .idle => emitBits l 2 0 0 true s
  | .data ts w => emitBits l 1 ts w.toNat true s
  | .reject reason ts => emitBits l 2 4 (reason * 2 ^ 58 + ts) true s

/-- A TRAIN block leaves: 16 in a row with READY may end the training (R312). -/
def emitTrain (l : Nat) (s : State) : State :=
  let s := emitBits l 2 3 (trainPayload s l) false s
  let v := lnget s l
  trainDone l (lnset l { v with txReady := if 16 ≤ v.rxLocked then min 16 (v.txReady + 1) else 0 } s)

/-- Send the oldest block formed for a lane. -/
def emitFormed (l : Nat) (s : State) : State :=
  let v := lnget s l
  match v.txq with
  | [] => s
  | b :: rest => emitBlock l b (lnset l { v with txq := rest } s)

/-- BLOCK_SEND (R304 to R309, R312, R326): a lane with a clock sends its next block; an OFF lane is idle once a verdict block in
progress is out (R327). A host lane in ALIGN whose frames wait for the next ALIGN column still sends TRAIN. -/
def execBlockSend (lane : Fin 32) (s : State) : Out :=
  let l := lane.val
  let v := lnget s l
  let st := laneState s l
  if !laneClock s l ∨ (st = 0 ∧ v.txq.isEmpty) then .next s
  else if !isHost l ∧ st < lnAlign ∧ !v.txq.isEmpty ∧ v.sinceShim + 1 < 1024 then .next (emitFormed l s)
  else if isHost l ∧ lnAlign ≤ st ∧ (v.framed ∨ (framedLanes s).isEmpty) then
    .next (emitFormed l (if v.txq.isEmpty then formColumn s else s))
  else if shimGap s l ≤ v.sinceShim + 1 then .next (emitBlock l .shim s)
  else
    .next (if lnAlign ≤ st ∧ !isHost l then emitFormed l (formBlock l s) else emitTrain l s)

end Sys2Proof.Machine
end

