-- ==== Sys2Proof/Machine/Vre.lean ====
section
/-! DEFINITION. VRE (R227 to R231, R326): messages, the route table, and the verdict blocks of the viaduct ports. -/

namespace Sys2Proof.Machine

/-! ### Messages (R228) -/

def msgKind (w : Word) : Nat := fld w 63 60
def msgHops (w : Word) : Nat := fld w 59 56
def msgPkg (w : Word) : Nat := fld w 55 52
def msgSeq (w : Word) : Nat := fld w 51 36
def msgNode (w : Word) : Nat := fld w 35 29

/-- A message is of a sent kind and has no reserved bit set (R228). -/
def msgOk (w : Word) : Bool :=
  if msgKind w = 1 then decide (fld w 33 32 = 0)
  else if msgKind w = 3 then decide (fld w 35 0 = 0)
  else decide (msgKind w = 2 ∨ msgKind w = 4)

/-- Trigger messages that this package originates (R199 to R201). -/
def armMsg (pkg seq g : Nat) : Word := word (2 * 2 ^ 60 + pkg * 2 ^ 52 + seq * 2 ^ 36 + g % 2 ^ 36)
def disarmMsg (pkg seq : Nat) : Word := word (3 * 2 ^ 60 + pkg * 2 ^ 52 + seq * 2 ^ 36)
def fireMsg (pkg seq node cond tick g : Nat) : Word :=
  word (4 * 2 ^ 60 + pkg * 2 ^ 52 + seq * 2 ^ 36 + node * 2 ^ 29 + cond * 2 ^ 24 + tick * 2 ^ 16 + g % 2 ^ 16)

/-- A message reaches VRE: from RF die 0 to 3, from port 4 + q, or from this package's trigger, 12. -/
def toVre (src : Nat) (w : Word) (s : State) : State := { s with vre := { s.vre with inbox := s.vre.inbox ++ [(src, w)] } }

/-! ### Routing (R229, R230) -/

/-- Send a message on a port with HOPS + 1, within the hop limit (R229); a port that is not up accepts none (R327). -/
def vreSend (w : Word) (q : Nat) (s : State) : State :=
  if !portUp s q then s
  else if msgHops w = 15 then inc .LNK_V_HOPLIMIT 0 s
  else writeWord (portQueue q) wVre { data := word (w.toNat + 2 ^ 56), fin := true } s

/-- The route entry of a package and a read-out slice (R229). -/
def routeEntry (s : State) (pkg tone : Nat) : Nat := rn s .LNK_VROUTE (pkg * 512 + 32 * (tone / 64) + tone % 32)

/-- Deliver a verdict to an RF die's board (R226, R229). -/
def vreDeliver (w : Word) (slot d : Nat) (s : State) : State :=
  let m := BitVec.ofNat 40 (fld w 15 0 * 2 ^ 24 + fld w 37 34 * 2 ^ 20 + (128 + slot) * 2 ^ 11 + fld w 41 38)
  { s with vre := { s.vre with buses := mput [] s.vre.buses d (mget [] s.vre.buses d ++ [m]) } }

/-- A VERDICT message (R229). -/
def routeVerdict (src : Nat) (w : Word) (s : State) : State :=
  let own := decide (msgPkg w = rn s .LNK_PKG_NO)
  if own ≠ decide (src < 4) then s
  else
    let e := routeEntry s (msgPkg w) (fld w 51 42)
    if e = 0 then (if own then s else inc .LNK_V_NOROUTE 0 s)
    else
      let dies := (List.range 4).filter fun d => bitOf e d && !(own && decide (d = src))
      let s := dies.foldl (fun t d => vreDeliver w (nfld e 20 12) d t) s
      ((List.range 8).filter fun q => bitOf e (4 + q)).foldl (fun t q => vreSend w q t) s

/-- A trigger message (R198, R230): its originator sends it on every port that is up; a package that receives it, and has neither
received nor sent it before, hands it to the trigger and sends it on to the other ports. A SOLO package does neither. -/
def routeTrigger (src : Nat) (w : Word) (s : State) : State :=
  let k := (msgKind w, msgPkg w, msgSeq w, if msgKind w = 4 then msgNode w else 0)
  if rn s .TRG_ROLE = 0 ∨ (src ≠ 12 ∧ s.vre.seen.contains k) then s
  else
    let s := if s.vre.seen.contains k then s else { s with vre := { s.vre with seen := s.vre.seen ++ [k] } }
    let s := if src = 12 then s else { s with trig := { s.trig with msgs := s.trig.msgs ++ [w] } }
    ((List.range 8).filter fun q => decide (src ≠ 4 + q)).foldl (fun t q => vreSend w q t) s

/-- VRE_MESSAGE (R229, R230): the oldest message that has reached VRE. -/
def execVreMessage (s : State) : Out :=
  match s.vre.inbox with
  | [] => .next s
  | (src, w) :: rest =>
    let s := { s with vre := { s.vre with inbox := rest } }
    .next (if msgKind w = 1 then routeVerdict src w s else routeTrigger src w s)

/-! ### Verdict blocks (R231, R326) -/

/-- The lanes of a port that are UP. -/
def portLanes (s : State) (q : Nat) : List Nat := [16 + 2 * q, 17 + 2 * q].filter fun l => decide (laneState s l = lnUp)

/-- VERDICT_BLOCK_SEND (R326): the port's next message, once the block in progress has left its lanes. A poisoned one is discarded
(R251). -/
def execVerdictBlockSend (q : Fin 8) (s : State) : Out :=
  let lanes := portLanes s q.val
  if lanes.isEmpty ∨ lanes.any (fun l => (lnget s l).txq.any TxBlock.isData) then .next s
  else
    let r := readWord (portQueue q.val) false false s
    if r.1.nv then .next r.2
    else if r.1.psn then .next r.2
    else
      let v := vpget s q.val
      let s := lanes.foldl (putBlock (.data v.seq r.1.data)) r.2
      .next (inc .LNK_V_SENT 0 (vpset q.val { v with seq := (v.seq + 1) % 64 } s))

/-- VERDICT_BLOCK_RECEIVE (R228, R231): the oldest good copy on a viaduct lane. -/
def execVerdictBlockReceive (lane : Fin 16) (s : State) : Out :=
  let l := 16 + lane.val
  let q := portOf l
  match (lnget s l).fifo with
  | some (ts, w) :: rest =>
    let s := lnset l { lnget s l with fifo := rest } s
    let v := vpget s q
    let d := (ts + 64 - v.last) % 64
    if d = 0 ∨ 32 ≤ d then .next (inc .LNK_V_DUPLICATE 0 s)
    else
      let s := incBy .LNK_V_LOST (d - 1) 0 (vpset q { v with last := ts } s)
      if msgOk w then .next (toVre (4 + q) w (inc .LNK_V_RECEIVED 0 s)) else .next (portViol l 11 ts s)
  | _ => .next s

end Sys2Proof.Machine
end

