-- ==== Sys2Proof/Machine/Trigger.lean ====
section
/-! DEFINITION. Trigger conditions, arming and firing (R190 to R203), and MARK records (R211). -/

namespace Sys2Proof.Machine

/-- Trigger states and roles (R197, R198). -/
def trgIdle : Nat := 0
def trgArming : Nat := 1
def trgArmed : Nat := 2
def trgFired : Nat := 3
def roleSolo : Nat := 0
def roleMaster : Nat := 1
def roleMember : Nat := 2

def setTrig (t : Trig) (s : State) : State := { s with trig := t }

/-! ### Conditions (R191 to R196) -/

/-- KIND and INDEX of a condition's source, its enable and its edge (R191, R192). -/
def condKind (s : State) (n : Nat) : Nat := nfld (rn s .TRG_COND_SRC n) 15 14
def condIndex (s : State) (n : Nat) : Nat := nfld (rn s .TRG_COND_SRC n) 9 0
def condOn (s : State) (n : Nat) : Bool := bitOf (rn s .TRG_COND_CTRL n) 7
def condFalling (s : State) (n : Nat) : Bool := bitOf (rn s .TRG_COND_CTRL n) 0

/-- The cluster of a signal condition's source. -/
def condClu (s : State) (n : Nat) : Nat := if condKind s n = 0 then condIndex s n % 16 else condIndex s n / 64 % 16

/-- A detection with this index can fire: the state is ARMED and the index not before the arm grain, or it was met in time
before a DISARM (R197, R200). -/
def canFire (s : State) (idx : Nat) : Bool :=
  (decide (rn s .TRG_STATE = trgArmed) && decide (4 * s.trig.armAt ≤ idx)) ||
  (decide (rn s .TRG_STATE = trgIdle) && (match s.trig.disarmed with
    | some lim => decide (4 * s.trig.armAt ≤ idx) && decide (idx < lim) | none => false))

/-- A condition is met (R194, R195): it counts, and the combiner holds the detection while it can fire. -/
def condMet (n idx time : Nat) (s : State) : State :=
  let s := inc .TRG_COND_COUNT n s
  if canFire s idx then setTrig { s.trig with dets := s.trig.dets ++ [{ idx := idx, cond := n, time := time }] } s else s

/-- Samples of a signal condition's stream in order (R194): x, its index, and the sample before; `step` is a stream sample in
ACQ samples. -/
def crossSamples (n step : Nat) (level hyst : Int) : List Int → Int → Nat → State → State
  | [], _, _, s => s
  | x :: xs, prev, m, s =>
    let primed := s.trig.primed.contains n
    let hit := primed && decide (level ≤ x)
    let s := if hit then
        let q := (64 * (level - prev) / (x - prev)).toNat
        condMet n m (64 * (m - step) + q * step) (setTrig { s.trig with primed := s.trig.primed.filter (· ≠ n) } s)
      else s
    let s := if x < level - hyst ∧ !s.trig.primed.contains n then setTrig { s.trig with primed := s.trig.primed ++ [n] } s else s
    crossSamples n step level hyst xs x (m + step) s

/-- Codes that the stream sample before an index depends on, before that index (R193): of a raw stream, of an amplitude stream
direct and decimating. -/
def streamLead (raw direct : Bool) : Nat := if raw then 1 else if direct then 15 else 257

/-- A stream sample of a signal condition (R193): the code, or the amplitude of a read-out slice, among the codes given from sample
`first` on. -/
def streamAt (s : State) (raw : Bool) (idx first : Nat) (xs : List Int) (m : Nat) : Int :=
  if raw then codeAt s (idx % 16) first xs m
  else
    let z := baseband s (directMode (profileOf s (cluRgn (idx / 64 % 16)))) idx first xs m
    magnitude z.1 z.2

/-- CONDITION_CROSSING (R193, R194): the samples of an enabled signal condition's stream from ACQ index m on. `xs` are the ACQ
codes from m on, and `before` those before it that they and the stream sample before them depend on. A slice inactive in its profile
meets nothing. -/
def execConditionCrossing (n : Fin 32) (m : Nat) (before xs : List Int) (s : State) : Out :=
  let k := condKind s n.val
  let c := condClu s n.val
  if !condOn s n.val ∨ 2 ≤ k ∨ !rfOk s (cluDie c) ∨ (k = 1 ∧ !fifoActive s (condIndex s n.val)) then .next s
  else
    let raw := decide (k = 0)
    let step := if raw then 1 else 8
    let first := m - streamLead raw (directMode (profileOf s (cluRgn c)))
    let m0 := (m + (step - 1)) / step * step
    let neg := condFalling s n.val
    let f (m : Nat) : Int :=
      let x := streamAt s raw (condIndex s n.val) first (before ++ xs) m
      if neg then -x else x
    let l := rd s .TRG_COND_LEVEL n.val
    let vs := (List.range ((first + (before ++ xs).length + (step - 1) - m0) / step)).map fun i => f (m0 + step * i)
    .next (crossSamples n.val step (if neg then -l else l) (rn s .TRG_COND_HYST n.val) vs (f (m0 - step)) m0 s)

/-- The enabled conditions that watch an edge of a TRIG_IN pin (R191, R192). -/
def pinConds (s : State) (pin : Nat) (rising : Bool) : List Nat :=
  (List.range 32).filter fun n => condOn s n && decide (condKind s n = 2) && decide (condIndex s n = pin) && (condFalling s n != rising)

/-- The dead time of a TDC in ticks: at most 8 ns (R195). -/
def deadTime : Nat := min Config.tdcDead 5120

/-- TRIG_IN_EDGE (R195): an edge at this grain, with its TDC code. -/
def execTrigInEdge (pin : Fin 8) (rising : Bool) (code : Fin 32) (s : State) : Out :=
  if !rfOk s (pin.val / 2) then .next s
  else
    let t := 256 * s.tml + 8 * code.val
    let last := mget 0 s.trig.pins pin.val
    let s := setTrig { s.trig with pins := mput 0 s.trig.pins pin.val (t + 1) } s
    let cs := pinConds s pin.val rising
    if last ≠ 0 ∧ t < last - 1 + deadTime then .next (cs.foldl (fun u n => inc .TRG_COND_DEAD n u) s)
    else .next (cs.foldl (fun u n => condMet n (t / 64) t u) s)

/-! ### MARK records and fires (R201 to R203, R211) -/

/-- Bits REMOTE, RACE, NORUN, ORIGIN and ARM_SEQ of a MARK record's word 2. -/
def markFlags (s : State) (remote race : Bool) (origin seq : Nat) : Nat :=
  b2n remote * 2 ^ 31 + b2n race * 2 ^ 30 + b2n (decide (rn s .PKG_RUN_STATE ≠ 1)) * 2 ^ 29 + origin * 2 ^ 16 + seq

/-- One condition's word of a MARK record. -/
def markWord (cond tick g : Nat) : Word := word (cond * 2 ^ 56 + tick * 2 ^ 48 + g % 2 ^ 48)

/-- TRG_FIRE_* take the first fire that the package learns of (R202). -/
def noteFire (g tick cond origin : Nat) (s : State) : State :=
  wr .TRG_FIRE_GRAIN g 0 (wr .TRG_FIRE_TICK tick 0 (wr .TRG_FIRE_COND cond 0 (wr .TRG_FIRE_ORIGIN origin 0
    (wr .TRG_STATE trgFired 0 s))))

/-- The package's own node ID, as ORIGIN. -/
def nodeId (s : State) : Nat := rn s .LNK_CAN_NODE

/-- A message of this package's trigger, unless it is SOLO (R198). -/
def sendTrigger (w : Word) (s : State) : State := if rn s .TRG_ROLE = roleSolo then s else toVre 12 w s

/-- The detections of one index, one for each condition, in ascending condition order. -/
def coincident (s : State) (idx : Nat) : List Detect :=
  (List.range 32).filterMap fun n => s.trig.dets.find? fun d => decide (d.idx = idx) && decide (d.cond = n)

/-- Lowest detection index held. -/
def firstIndex (s : State) : Option Nat :=
  s.trig.dets.foldl (fun m d => match m with | none => some d.idx | some k => some (min k d.idx)) none

/-- TRIGGER_FIRE (R196, R201, R211): every die's detections for the lowest index held have arrived. -/
def execTriggerFire (m : Nat) (s : State) : Out :=
  match coincident s m with
  | [] => .next s
  | d :: ds =>
    if firstIndex s ≠ some m ∨ !canFire s m then .next s
    else
      let g := d.time / 256
      let seq := rn s .TRG_ARM_SEQ
      let all := d :: ds
      let met := sumN (all.map fun x => 2 ^ x.cond)
      let rec_ := [recHeader 3 (3 + all.length) d.cond (markShotNum s g), word g, word (met * 2 ^ 32 + markFlags s false false (nodeId s) seq)] ++
        all.map fun x => markWord x.cond (x.time % 256) (x.time / 256)
      let s := setTrig { s.trig with dets := [], disarmed := none } (noteFire g (d.time % 256) d.cond (nodeId s) (inc .TRG_FIRES 0 s))
      let s := if ds.isEmpty then s else inc .TRG_COINCIDE 0 s
      .next (sendTrigger (fireMsg (rn s .LNK_PKG_NO) seq (nodeId s) d.cond (d.time % 256) g) (raise 0x140 (directRecord rec_ s)))

/-! ### Arming (R199, R200) -/

/-- An arm with a sequence number at a grain (R199). -/
def takeArm (seq g : Nat) (s : State) : State :=
  let s := wr .TRG_STATE trgArming 0 (wr .TRG_ARM_SEQ seq 0 (inc .TRG_ARMS 0 s))
  setTrig { s.trig with armAt := g, dets := [], disarmed := none } s

/-- A SOLO or MASTER package arms (R199). -/
def armAt (g : Nat) (s : State) : State :=
  let seq := (rn s .TRG_ARM_SEQ + 1) % 65536
  let s := takeArm seq g s
  if rn s .TRG_ROLE = roleMaster then sendTrigger (armMsg (rn s .LNK_PKG_NO) seq g) s else s

/-- The trigger is IDLE or FIRED. -/
def trgRest (s : State) : Bool := rn s .TRG_STATE = trgIdle ∨ rn s .TRG_STATE = trgFired

/-- ARM written to TRG_CTRL (R198, R199). -/
def writeArm (s : State) : Ans State :=
  if rn s .TRG_ROLE = roleMember ∨ !trgRest s ∨ rn s .TRG_ARM_GRAIN < s.tml + rn s .TRG_ARM_DELAY then .error abCannotWrite
  else .ok (armAt (rn s .TRG_ARM_GRAIN) s)

/-- An arm event (R199): answers whether the trigger could take it. -/
def armEvent (s : State) : Option State :=
  if trgRest s then some (armAt (s.tml + rn s .TRG_ARM_DELAY) s) else none

/-- The trigger becomes ARMED: every condition's primed flag is cleared (R199). -/
def becomeArmed (s : State) : State := setTrig { s.trig with primed := [] } (wr .TRG_STATE trgArmed 0 s)

/-- ARM_GRAIN_REACHED (R199). -/
def execArmGrainReached (s : State) : Out :=
  .next (if rn s .TRG_STATE = trgArming ∧ s.trig.armAt ≤ s.tml then becomeArmed s else s)

/-- DISARM (R200): a detection that was met before this grain can still fire; a DISARM in IDLE leaves that as it stands. -/
def disarm (s : State) : State :=
  let was := rn s .TRG_STATE
  setTrig { s.trig with disarmed := if was = trgArmed then some (4 * s.tml) else s.trig.disarmed } (wr .TRG_STATE trgIdle 0 s)

/-- DISARM written to TRG_CTRL (R198, R200). -/
def writeDisarm (s : State) : Ans State :=
  if rn s .TRG_ROLE = roleMember then .error abCannotWrite
  else
    let s := disarm s
    .ok (if rn s .TRG_ROLE = roleMaster then sendTrigger (disarmMsg (rn s .LNK_PKG_NO) (rn s .TRG_ARM_SEQ)) s else s)

/-! ### Messages (R199 to R202) -/

/-- The oldest trigger message when it is of a kind, and the state without it. -/
def takeMsg (kind : Nat) (s : State) : Option (Word × State) :=
  match s.trig.msgs with
  | w :: rest => if msgKind w = kind then some (w, setTrig { s.trig with msgs := rest } s) else none
  | [] => none

/-- The grain nearest to now whose low 36 bits are given (R228). -/
def nearGrain (now low : Nat) : Nat :=
  let d := (low + 2 ^ 36 - now % 2 ^ 36) % 2 ^ 36
  if d < 2 ^ 35 ∨ now + d < 2 ^ 36 then now + d else now + d - 2 ^ 36

/-- ARM_MESSAGE (R198, R199). -/
def execArmMessage (s : State) : Out :=
  match takeMsg 2 s with
  | none => .next s
  | some (w, s) =>
    if rn s .TRG_ROLE ≠ roleMember then .next s
    else
      let g := nearGrain s.tml (fld w 35 0)
      let s' := takeArm (msgSeq w) g s
      .next (if g < s.tml then becomeArmed (inc .TRG_ARM_LATE 0 s') else s')

/-- DISARM_MESSAGE (R198, R200). -/
def execDisarmMessage (s : State) : Out :=
  match takeMsg 3 s with
  | none => .next s
  | some (_, s) => .next (if rn s .TRG_ROLE = roleMember then disarm s else s)

/-- FIRE_MESSAGE (R201, R202, R211). -/
def execFireMessage (s : State) : Out :=
  match takeMsg 4 s with
  | none => .next s
  | some (w, s) =>
    let st := rn s .TRG_STATE
    if msgSeq w ≠ rn s .TRG_ARM_SEQ ∨ (st ≠ trgArmed ∧ st ≠ trgFired) then .next (inc .TRG_STALE_FIRE 0 s)
    else
      let cond := fld w 28 24
      let tick := fld w 23 16
      let g := backGrain 16 s.tml (fld w 15 0)
      let race := decide (st = trgFired)
      let r := [recHeader 3 4 cond (shotNum s s.tml), word g, word (markFlags s true race (msgNode w) (msgSeq w)), markWord cond tick g]
      let s := directRecord r s
      if race then .next (inc .TRG_RACE 0 s)
      else
        let s := setTrig { s.trig with dets := [] } (noteFire g tick cond (msgNode w) (inc .TRG_REMOTE_FIRES 0 s))
        .next (raise 0x140 s)

/-! ### Writes of the condition objects (R191, R192) -/

/-- Signal conditions, other than one, that are enabled in a cluster. -/
def condsIn (s : State) (c n : Nat) : Nat :=
  ((List.range 32).filter fun k => decide (k ≠ n) && condOn s k && decide (condKind s k ≤ 1) && decide (condClu s k = c)).length

/-- The value checks of TRG_COND_SRC (R191). -/
def condSrcOk (v : Nat) : Bool :=
  let i := nfld v 9 0
  decide (nfld v 13 10 = 0) &&
    (match nfld v 15 14 with
     | 0 => decide (i < 16)
     | 1 => decide (i < 1024) && decide (32 ≤ i % 64)
     | 2 => decide (i < 8)
     | _ => false)

/-- A write of TRG_COND_SRC or TRG_COND_CTRL obeys R191: no fifth signal condition is enabled in a cluster. -/
def condFits (n src ctrl : Nat) (s : State) : Bool :=
  let t := wr .TRG_COND_CTRL ctrl n (wr .TRG_COND_SRC src n s)
  !(condOn t n && decide (condKind t n ≤ 1)) || decide (condsIn t (condClu t n) n < 4)

end Sys2Proof.Machine
end

