-- ==== Sys2Proof/Machine/Mau.lean ====
section
/-! DEFINITION. The monitor ADC units (R378 to R392): entries, conversions, sequences and their starts, the protected
sequence, injected conversions, references and self-calibration. -/

namespace Sys2Proof.Machine

def mauget (s : State) (u : Nat) : Mau := mget {} s.maus u
def mauset (u : Nat) (v : Mau) (s : State) : State := { s with maus := mput {} s.maus u v }

/-- A unit's gate is closed (R377). -/
def mauGated (s : State) (u : Nat) : Bool := bitOf s.clk.gated (14 + u)

/-! ### Entries (R379, R380, R382, R383) -/

def entInput (v : Nat) : Nat := nfld v 31 23
def entSmp (v : Nat) : Nat := nfld v 22 20
def entGain (v : Nat) : Nat := nfld v 19 18
def entIl (v : Nat) : Bool := bitOf v 17
def entAvg (v : Nat) : Nat := nfld v 16 13

/-- Ticks of one conversion of an entry (R380): 100 ns are 250. -/
def convTicks (v : Nat) : Nat := 250 * 2 ^ entSmp v + 1000

/-- Conversions of an entry (R380). -/
def entCount (v : Nat) : Nat := 2 ^ entAvg v

/-- Input codes of a unit (R379). -/
def inputOk (u code : Nat) : Bool :=
  decide (code = 0x1FF) ||
  (if u < 8 then decide (code ≤ 3 ∨ (8 ≤ code ∧ code ≤ 11) ∨ code = 0x10)
   else if u < 10 then decide (code ≤ 0x111 ∨ code = 0x118)
   else decide (code ≤ 5 ∨ (8 ≤ code ∧ code ≤ 13) ∨ code = 0x10))

/-- An entry value is legal for a unit (R380). -/
def entryOk (u v : Nat) : Bool :=
  inputOk u (entInput v) && decide (entAvg v ≤ 8) && decide (v % 2 ^ 13 = 0) && (!entIl v || decide (entSmp v = 0))

/-- Factors of a converter at a gain (R392). -/
def factorIndex (u conv gain : Nat) : Nat := 8 * u + 4 * conv + gain

/-- A corrected code before its clamp (R382). -/
def correctedRaw (s : State) (u conv gain raw : Nat) : Int :=
  near 8 (((raw : Int) - rd s .MON_CAL_OFS (factorIndex u conv gain)) * rn s .MON_CAL_GAIN (factorIndex u conv gain)) (2 ^ 30)

/-- One conversion joins its entry (R382, R391). -/
def addConversion (u conv raw : Nat) (e : Entry) (s : State) : Entry × State :=
  let x := correctedRaw s u conv (entGain e.v) raw
  let side := if raw = 0 ∨ x < 0 then some 0 else if raw = 65535 ∨ 65535 < x then some 65535 else none
  let noref := decide (rn s .MON_REF_READY u = 0)
  ({ e with codes := e.codes ++ [(sat 0 65535 x).toNat], overs := if e.overs.isSome then e.overs else side, noref := e.noref || noref },
   if noref then inc .MON_NOREF u s else s)

/-- All conversions of an entry are done (R380). -/
def entryFull (e : Entry) : Bool := decide (entCount e.v ≤ e.codes.length)

/-- The code of a whole entry (R381, R382). -/
def entryCode (e : Entry) : Nat :=
  match e.overs with
  | some c => c
  | none => (rne (sumN e.codes) e.codes.length).toNat

/-- The result of a whole entry (R383). -/
def entryResult (s : State) (u : Nat) (e : Entry) (old : Bool) : Nat :=
  2 ^ 31 + b2n e.overs.isSome * 2 ^ 30 + b2n e.noref * 2 ^ 29 + b2n (decide (rn s .MON_REF_SEL u ≠ rn s .MON_CAL_REF u)) * 2 ^ 28 +
    b2n old * 2 ^ 27 + entryCode e

/-- An over-range result counts (R382). -/
def countOver (u : Nat) (e : Entry) (s : State) : State := if e.overs.isSome then inc .MON_OVR u s else s

/-! ### The protected sequence (R389, R396, R397) -/

/-- The unit that reads the base thermistor (R396). -/
def baseUnit (s : State) : Nat := if rn s .THM_BASE_MON < 16 then 8 else 9

/-- Entries of a unit's protected sequence (R396). -/
def protEntries (s : State) (u : Nat) : List Nat :=
  if u < 8 then ([0, 1, 2, 3, 8, 9, 10, 11].map fun i => i * 2 ^ 23 + 3 * 2 ^ 20)
  else if u = baseUnit s then [(0x100 + rn s .THM_BASE_MON % 16) * 2 ^ 23 + 6 * 2 ^ 20 + 2 * 2 ^ 13]
  else []

/-- Ticks between a region's updates (R397). -/
def updatePeriod (s : State) (g : Nat) : Nat := if rn s .THM_FAST g = 1 then 100 * usT else msT

/-- The first update of a region: 2 ms after the reference buffer of its unit is ready, which it is 2 ms after it went on (R391, R433). -/
def firstUpdate (s : State) (u : Nat) : Nat := (mauget s u).bufAt.getD s.boot.goodAt + 4 * msT

/-- The tick of a region's next update (R397, R433). -/
def updateDue (s : State) (g : Nat) : Nat :=
  match (thget s g).lastAt with
  | some t => t + updatePeriod s g
  | none => firstUpdate s g

/-- The protected sequence takes CONV1 in the last 50 µs before the update that uses it, the base sequence in those before its ms is
over (R397; log 40). -/
def protFrom (s : State) (u : Nat) : Nat :=
  (if u < 8 then updateDue s u else match s.cool.baseAt with | some t => t + msT | none => firstUpdate s u) - 50 * usT

/-- Every entry of the protected sequence is whole. -/
def protWhole (s : State) (u : Nat) : Bool :=
  decide ((mauget s u).prot.length = (protEntries s u).length) && (mauget s u).prot.all entryFull

/-- The protected sequence has conversions left before the next update. -/
def protDue (s : State) (u : Nat) : Bool :=
  !(protEntries s u).isEmpty && ((mauget s u).prot.isEmpty || !protWhole s u) && decide (protFrom s u ≤ s.elapsed)

/-- The entry of the protected sequence that converts next. -/
def protEntry (s : State) (u : Nat) : Entry :=
  ((mauget s u).prot.find? fun e => !entryFull e).getD { v := nthD (protEntries s u) (mauget s u).prot.length 0 }

/-- A conversion of the protected sequence (R389); one during a calibration lengthens it (R392). -/
def protConversion (u raw : Nat) (s : State) : State :=
  let v := mauget s u
  let es := protEntries s u
  let e := protEntry s u
  let before := v.prot.filter entryFull
  let r := addConversion u 1 raw e s
  let prot := before ++ [r.1]
  let s := if entryFull r.1 then countOver u r.1 r.2 else r.2
  let v := mauget s u
  let whole := decide (prot.length = es.length) && prot.all entryFull
  let s := mauset u { v with prot := if whole ∧ 8 ≤ u then [] else prot
                             c1Free := s.elapsed
                             calMore := if v.calAt.isSome then v.calMore + convTicks e.v else v.calMore
                             done := if whole then prot.map fun x => (entryCode x, x.overs.isSome || x.noref) else v.done } s
  if whole ∧ 8 ≤ u then { s with cool := { s.cool with baseAt := some s.elapsed } } else s

/-! ### States, starts and stops (R384 to R388) -/

/-- The unit's bit of SCOPE (R67, R378). -/
def mauScope (u : Nat) : Nat := if u < 8 then u else if u = 8 then 9 else if u = 9 then 10 else 8

/-- An entry may begin by QUIET (R386). -/
def mauQuiet (s : State) (u : Nat) : Bool := !bitOf (rn s .MON_START u) 29 || quietFor s (mauScope u) 1

/-- MON_START_DELAY has passed since the start instant (R385, R387): 20 ns are 50 ticks. -/
def delayOver (s : State) (u : Nat) (q : Sequence) : Bool := decide (q.start + 50 * rn s .MON_START_DELAY u ≤ s.elapsed)

/-- An injected conversion is under way. -/
def injecting (v : Mau) : Bool := match v.inj with | some i => i.2.2 | none => false

/-- MON_STATE. -/
def mauState (s : State) (u : Nat) : Nat :=
  let v := mauget s u
  match v.seq with
  | none => if v.calAt.isSome then 4 else 0
  | some q =>
    if v.calAt.isSome ∨ injecting v then 3
    else if q.entry.isNone ∧ delayOver s u q ∧ !mauQuiet s u then 2
    else 1

/-- A start (R385, R392): refused while a sequence runs, held during a calibration. Answers whether it was taken. -/
def mauStart (u : Nat) (s : State) : Bool × State :=
  let v := mauget s u
  if v.seq.isSome ∨ v.held.isSome then (false, inc .MON_START_LOST u s)
  else if v.calAt.isSome then (true, mauset u { v with held := some s.elapsed } s)
  else (true, mauset u { v with seq := some { start := s.elapsed } } s)

/-- The entry that the unit's sequence converts, with the sequence. -/
def entryOf (v : Mau) : Option (Sequence × Entry) := v.seq.bind fun q => q.entry.map fun e => (q, e)

/-- A converter is in a conversion of the sequence. -/
def sequenceConverts (v : Mau) : Bool := (v.busy && !injecting v) || v.c1.isSome

/-- STOP (R388): the sequence ends when no converter is in a conversion of it any more. -/
def mauStop (u : Nat) (s : State) : State :=
  let v := mauget s u
  match v.seq with
  | none => mauset u { v with held := none } s
  | some q => mauset u { v with seq := if sequenceConverts v then some { q with stopping := true } else none } s

/-- CONV1 may take a conversion of the sequence's entry (R381). -/
def interleaves (v : Mau) (q : Sequence) (e : Entry) : Bool :=
  entIl e.v && !q.yield && v.c1.isNone && !q.stopping && decide (e.issued < entCount e.v)

/-- CONV1 begins a conversion of the interleaved entry at tick t, or leaves the entry to CONV0 where the protected sequence needs it
(R381). -/
def beginConv1 (u t : Nat) (q : Sequence) (e : Entry) (s : State) : State :=
  let v := mauget s u
  if !interleaves v q e then s
  else if protDue s u then inc .MON_IL_YIELD u (mauset u { v with seq := some { q with yield := true } } s)
  else mauset u { v with seq := some { q with entry := some { e with issued := e.issued + 1 } }, c1 := some t } s

/-- CONV0 goes on with the sequence's entry, and CONV1 250 ns after it (R381). -/
def sequenceNext (u : Nat) (s : State) : State :=
  let v := mauget s u
  match entryOf v with
  | none => mauset u { v with busy := false } s
  | some (q, e) =>
    if q.stopping ∨ entCount e.v ≤ e.issued then mauset u { v with busy := false } s
    else
      let e := { e with issued := e.issued + 1 }
      let q := { q with entry := some e }
      beginConv1 u (s.elapsed + 625) q e (mauset u { v with seq := some q, busy := true, c0At := s.elapsed } s)

/-- What CONV0 turns to between conversions (R390, R392): a pending injection, then a waiting calibration, which waits for CONV1 too,
then the sequence. -/
def mauNext (u : Nat) (s : State) : State :=
  let v := mauget s u
  match v.inj with
  | some (e, at_, false) =>
    let ns := satN 65535 ((s.elapsed - at_) * 2 / 5)
    wr .MON_INJ_WAIT ns u (mauset u { v with inj := some (e, at_, true), busy := true, c0At := s.elapsed } s)
  | some (_, _, true) => mauset u { v with busy := true, c0At := s.elapsed } s
  | none =>
    if v.calWait then
      if v.c1.isSome then mauset u { v with busy := false } s
      else wr .MON_CAL_STATE 2 u (mauset u { v with calWait := false, calAt := some s.elapsed, calMore := 0, busy := false } s)
    else if v.calAt.isSome then mauset u { v with busy := false } s
    else sequenceNext u s

/-- MAU_ENTRY_START (R385 to R387). -/
def execMauEntryStart (u : Fin 11) (s : State) : Out :=
  let v := mauget s u.val
  match v.seq with
  | none => .next s
  | some q =>
    if q.entry.isSome ∨ v.busy ∨ v.calAt.isSome ∨ mauGated s u.val ∨ !delayOver s u.val q ∨ !mauQuiet s u.val then .next s
    else
      let e : Entry := { v := rn s .MON_ENTRY (16 * u.val + q.idx) }
      .next (sequenceNext u.val (mauset u.val { v with seq := some { q with entry := some e, yield := false } } s))

/-- An entry of the sequence is whole: its result is written, and after the last one the sequence completes (R384), unless STOP ends
it there (R388). -/
def entryDone (u : Nat) (q : Sequence) (e : Entry) (s : State) : State :=
  let s := wr .MON_RESULT (entryResult s u e false) (16 * u + q.idx) (countOver u e s)
  let v := mauget s u
  if q.stopping then mauset u { v with seq := none } s
  else if rn s .MON_SEQ_LEN u ≤ q.idx + 1 then
    let s := wr .MON_SEQ_GRAIN s.tml u (incWrap 32 .MON_SEQ_NUMBER 1 u (mauset u { v with seq := none } s))
    raise (0x150 + u) s
  else mauset u { v with seq := some { q with idx := q.idx + 1, entry := none } } s

/-- A conversion of the sequence's entry has ended on a converter that is free again (R381, R388). -/
def sequenceConversion (u conv raw : Nat) (q : Sequence) (e : Entry) (s : State) : State :=
  let r := addConversion u conv raw e s
  if entryFull r.1 then entryDone u q r.1 r.2
  else
    let v := mauget r.2 u
    mauset u { v with seq := if q.stopping && !sequenceConverts v then none else some { q with entry := some r.1 } } r.2

/-- A conversion of the injected entry ends (R390, R392). -/
def injectedConversion (u raw : Nat) (e : Entry) (at_ : Nat) (s : State) : State :=
  let r := addConversion u 0 raw e s
  let s := r.2
  let v := mauget s u
  if entryFull r.1 then
    let s := wr .MON_INJ_RESULT (entryResult s u r.1 v.calWait) u (wr .MON_INJ_STATE 2 u (countOver u r.1 s))
    mauset u { v with inj := none } s
  else mauset u { v with inj := some (r.1, at_, true) } s

/-! ### Ends of conversions -/

/-- A conversion ends on CONV0, once its time is over (R380, R390). -/
def endConv0 (u raw : Nat) (s : State) : State :=
  let v := mauget s u
  let ended (e : Entry) : Bool := v.busy && decide (v.c0At + convTicks e.v ≤ s.elapsed)
  let s' := mauset u { v with busy := false } s
  match v.inj, entryOf v with
  | some (e, at_, true), _ => if ended e then mauNext u (injectedConversion u raw e at_ s') else s
  | _, some (q, e) => if ended e then mauNext u (sequenceConversion u 0 raw q e s') else s
  | _, none => s

/-- CONV1 goes on with the interleaved entry, unless the sequence is to pause (R381, R390, R392). -/
def conv1Next (u : Nat) (s : State) : State :=
  let v := mauget s u
  match entryOf v with
  | some (q, e) => if v.inj.isNone ∧ !v.calWait then beginConv1 u s.elapsed q e s else s
  | none => s

/-- An interleaved conversion that began at tick b ends on CONV1, once its time is over (R380, R381). -/
def endConv1 (u raw b : Nat) (s : State) : State :=
  if s.elapsed < b + convTicks 0 then s
  else
    let v := mauget s u
    let s := mauset u { v with c1 := none, c1Free := s.elapsed } s
    let s := match entryOf v with | some (q, e) => conv1Next u (sequenceConversion u 1 raw q e s) | none => s
    if (mauget s u).busy then s else mauNext u s

/-- The protected sequence ends a conversion on CONV1, once CONV1 has been its for the conversion's time (R380, R389). -/
def endProtected (u raw : Nat) (s : State) : State :=
  if protDue s u ∧ max (mauget s u).c1Free (protFrom s u) + convTicks (protEntry s u).v ≤ s.elapsed then protConversion u raw s else s

/-- CONVERSION_DONE (R380, R381, R389, R390): a conversion ends on a converter. -/
def execConversionDone (u : Fin 11) (conv : Fin 2) (raw : BitVec 16) (s : State) : Out :=
  if mauGated s u.val ∨ s.boot.phase = .held then .next s
  else if conv = 0 then .next (endConv0 u.val raw.toNat s)
  else
    match (mauget s u.val).c1 with
    | some b => .next (endConv1 u.val raw.toNat b s)
    | none => .next (endProtected u.val raw.toNat s)

/-! ### Injection, reference and calibration (R390 to R392) -/

/-- MON_INJ (R390). -/
def writeInj (u v : Nat) (s : State) : Ans State :=
  let m := mauget s u
  if !entryOk u v ∨ entIl v then .error abRange
  else if m.inj.isSome ∨ m.calAt.isSome ∨ m.calWait then .error abCannotWrite
  else
    let s := wr .MON_INJ_STATE 1 u (mauset u { m with inj := some ({ v := v }, s.elapsed, false) } s)
    .ok (if m.busy then s else mauNext u s)

/-- START written to MON_CAL_CTRL (R392). -/
def startCal (u : Nat) (s : State) : Ans State :=
  let v := mauget s u
  if v.calAt.isSome ∨ v.calWait then .error abCannotWrite
  else
    let s := mauset u { v with calWait := true } s
    .ok (if v.busy then s else mauNext u s)

/-- Factors take their places (R392). -/
def setFactors (u : Nat) (ofs : List Int) (gain : List Nat) (s : State) : State :=
  (List.range 8).foldl (fun t k =>
    wr .MON_CAL_GAIN (nthD gain k 0 % 2 ^ 32 : Nat) (8 * u + k) (wr .MON_CAL_OFS (wrapS 16 (nthD ofs k 0)) (8 * u + k) t)) s

/-- MAU_CAL_DONE (R392): at least 1.8 ms, and the time of the protected conversions in it, after the calibration began. -/
def execMauCalDone (u : Fin 11) (ofs : List Int) (gain : List Nat) (s : State) : Out :=
  let n := u.val
  let v := mauget s n
  match v.calAt with
  | none => .next s
  | some t =>
    if s.elapsed < t + 1800 * usT + v.calMore ∨ mauGated s n then .next s
    else
      let s := inc .MON_CAL_COUNT n (wr .MON_CAL_STATE 3 n (wr .MON_CAL_REF (rn s .MON_REF_SEL n) n (setFactors n ofs gain s)))
      let s := mauset n { v with calAt := none, held := none
                                 seq := match v.held with | some h => some { start := h } | none => v.seq } s
      .next (mauNext n s)

/-- The internal reference has settled: its buffer has been on for 2 ms (R391). -/
def bufferSettled (s : State) (u : Nat) : Bool :=
  decide (rn s .MON_REFBUF_EN u = 1 ∧ (mauget s u).bufAt.getD s.boot.goodAt + 2 * msT ≤ s.elapsed)

/-- REFM has stayed within its range for 100 µs (R391). -/
def refmSettled (s : State) (u : Nat) : Bool := decide ((mauget s u).refFrom + 100 * usT ≤ s.elapsed)

/-- REF_READY (R391): the internal reference becomes ready when it has settled, and is cleared by its buffer alone. REFM becomes ready
when it has settled, and begins anew when it leaves its range. -/
def execRefReady (u : Fin 11) (ready : Bool) (s : State) : Out :=
  let sel := rn s .MON_REF_SEL u.val
  if mauGated s u.val ∨ (sel = 0 ∧ !(ready && bufferSettled s u.val)) ∨ (sel = 1 ∧ ready ∧ !refmSettled s u.val) then .next s
  else
    let s := if sel = 1 ∧ !ready then mauset u.val { mauget s u.val with refFrom := s.elapsed } s else s
    .next (wr .MON_REF_READY (b2i ready) u.val s)

/-- A write of MON_REF_SEL or MON_REFBUF_EN: a reference just chosen is ready only where its buffer has settled. -/
def chooseRef (u sel en : Nat) (s : State) : State :=
  let same := decide (rn s .MON_REF_SEL u = sel) && (decide (sel ≠ 0) || decide (rn s .MON_REFBUF_EN u = en))
  let s := if rn s .MON_REFBUF_EN u = 0 ∧ en ≠ 0 then mauset u { mauget s u with bufAt := some s.elapsed } s else s
  let s := if same then s else mauset u { mauget s u with refFrom := s.elapsed } s
  let s := wr .MON_REFBUF_EN en u (wr .MON_REF_SEL sel u s)
  if same then s else wr .MON_REF_READY (b2i (decide (sel = 0) && bufferSettled s u)) u s

/-- The objects of a unit, with its factors apart, and its sequences return to their state after reset (R377, R388). -/
def resetMau (u : Nat) (s : State) : State :=
  let one : List Reg := [.MON_REF_SEL, .MON_REFBUF_EN, .MON_REF_READY, .MON_START, .MON_START_DELAY, .MON_SEQ_LEN, .MON_SEQ_NUMBER,
    .MON_SEQ_GRAIN, .MON_START_LOST, .MON_OVR, .MON_NOREF, .MON_IL_YIELD, .MON_INJ_STATE, .MON_INJ_RESULT, .MON_INJ_WAIT,
    .MON_CAL_STATE, .MON_CAL_REF, .MON_CAL_COUNT]
  let s := one.foldl (fun t r => wr r (r.dflt u) u t) s
  let s := (List.range 16).foldl (fun t k => wr .MON_RESULT 0 (16 * u + k) (wr .MON_ENTRY 0 (16 * u + k) t)) s
  let s := setFactors u ((s.boot.fuses.monOfs.drop (8 * u)).take 8) ((s.boot.fuses.monGain.drop (8 * u)).take 8) s
  mauset u { bufAt := some s.elapsed } s

end Sys2Proof.Machine
end

