-- ==== Sys2Proof/Machine/Clocks.lean ====
section
/-! DEFINITION. Clock monitors and what a trip or a qualification does (R20, R35, R365 to R375), start-up progress (R433,
R437), the frequency counter (R376), gating (R30, R377), and the alignment at SYNC (R36 to R39). -/

namespace Sys2Proof.Machine

def setClk (c : Clocks) (s : State) : State := { s with clk := c }

/-! ### Start-up progress (R433, R437) -/

/-- Microseconds since t_power_good. -/
def bootUs (s : State) : Nat := (s.elapsed - s.boot.goodAt) / usT

/-- A milestone is reached for the first time: sub-index n. -/
def milestone (n : Nat) (s : State) : State :=
  if rn s .PKG_MILESTONE (n - 1) = 0 then wr .PKG_MILESTONE (satN 0xFFFFFFFF (bootUs s)) (n - 1) s else s

/-- PKG_STATE follows PKG_BOOT_WAIT (R433). -/
def settleBoot (s : State) : State :=
  let w := rn s .PKG_BOOT_WAIT
  if w = 0 then milestone 8 (wr .PKG_STATE 3 0 s)
  else wr .PKG_STATE (if bitOf w 1 then 0 else if bitOf w 9 then 1 else 2) 0 s

/-- A condition of PKG_BOOT_WAIT is met; its bit is not set again (R437). -/
def bootMet (bit : Nat) (s : State) : State := settleBoot (wrBit .PKG_BOOT_WAIT bit false 0 s)

/-! ### DRAM training and the wipe (R285, R286, R292, R294, R301, R433) -/

def setDram (d : Dram) (s : State) : State := { s with dram := d }

/-- The channels in the table in force. -/
def listed (s : State) : List Nat := tabChans (rn s .DRM_CHTAB)

/-- The loop of a channel is qualified. -/
def dmOk (s : State) (c : Nat) : Bool := rn s .CLK_MON_STATE (13 + c / 4) = 2

/-- Listed channels read READY, trained channels that are not listed are held in self-refresh (R292). -/
def settleListed (s : State) : State :=
  (List.range 8).foldl (fun t c =>
    let st := rn t .DRM_CH_STATE c
    if st = chReady ∧ !(listed t).contains c then wr .DRM_CH_STATE chSelfref c t else t) s

/-- A wipe is to write every channel of the range that is not fenced. -/
def wipeTotals (s : State) : State :=
  let live := (listed s).filter fun c => decide (rn s .DRM_CH_STATE c ≠ chFenced)
  wr .DRM_WIPE_DONE 0 0 (wr .DRM_WIPE_TOTAL (sumN (live.map fun c => orgBytes (rn s .DRM_CH_ORG c))) 0 s)

/-- A wipe waits for training to finish (R295). -/
def pauseWipe (s : State) : State := setDram { s.dram with wipePaused := true } s

/-- A wipe of the range starts. -/
def startWipe (s : State) : State := wr .DRM_STATE 2 0 (wipeTotals (setDram { s.dram with wipePaused := false } s))

/-- A table and a map are in force: the range they give. -/
def applyTable (s : State) : State :=
  let chs := listed s
  wr .DRM_RANGE (chs.length * orgBytes (rn s .DRM_CH_ORG (nthD chs 0 0)) : Nat) 0 (settleListed s)

/-- A channel trains from step 0. -/
def trainChannel (c : Nat) (s : State) : State :=
  wr .DRM_CH_TRAIN 1 c (wr .DRM_CH_STATE chTraining c (setDch c { dch s c with step := 0, retrain := none, nextStep := 3 } s))

/-- A life-cycle transition is complete (R427 step 5): its wipe is, or there is no range to wipe (R285). -/
def endTransition (s : State) : State :=
  if s.boot.lcsReset then wr .LCS_RESULT 2 0 { s with boot := { s.boot with lcsReset := false } } else s

/-- The training of a channel is awaited (R433 step 10, R437): one that trains or whose loop is to qualify; no gated one, which restarts
when its gate opens (R377), and none that is ABSENT until the next reset (R373). -/
def awaitsTraining (s : State) (c : Nat) : Bool :=
  !bitOf s.clk.gated c && (decide (rn s .DRM_CH_STATE c = chTraining) ||
    (bitOf (rn s .PKG_BOOT_WAIT) 9 && decide (rn s .DRM_CH_TRAIN c = 0) && !dmOk s c && !(dch s c).gone))

/-- Training of every channel is over (R294, R433 step 10): at the first time the stored table is applied and the range wiped;
after that a paused wipe goes on. -/
def settleTraining (s : State) : State :=
  if rn s .DRM_STATE ≠ 1 ∨ (List.range 8).any (awaitsTraining s) then s
  else if bitOf (rn s .PKG_BOOT_WAIT) 9 then
    let s := milestone 7 (bootMet 9 s)
    if tableOk s (rn s .DRM_CHTAB) (rn s .DRM_MAP) then startWipe (applyTable s)
    else endTransition (wr .DRM_STATE 5 0 (wr .DRM_RANGE 0 0 (settleListed s)))
  else if rn s .DRM_RANGE = 0 then wr .DRM_STATE 5 0 (settleListed s)
  else if s.dram.wipePaused then wr .DRM_STATE 2 0 (setDram { s.dram with wipePaused := false } (settleListed s))
  else settleState (wr .DRM_STATE 3 0 (settleListed s))

/-! ### Trips (R20, R370, R373 to R375) -/

/-- The management clock moves to FIO and stays there (R370, R360). -/
def toFio (s : State) : State :=
  onFio (bootMet 1 (wr .CLK_MGMT_HOLD 1 0 (wr .CLK_MGMT_SRC 0 0 (flag .TNW_FIO 0 s))))

/-- The marker pins of a cluster go LOW, and their pulse ends are cancelled (R131). -/
def lowMarker (c : Nat) (s : State) : State := mkset c { mkget s c with level := false, pulseEnd := none } s

/-- The clusters of an RF die, and the edge FIFOs it carries. -/
def dieClusters (d : Nat) : List Nat := span (4 * d) 4
def dieFifos (d : Nat) : List Nat := (dieClusters d).flatMap fun c => (cluFifos c).filter fun f => fifoKind f != .bias

/-- The outputs of a die are silenced for a cause: mute bit and zero bit, markers LOW (R131, R136, R148). -/
def silenceDie (mute zbit d : Nat) (s : State) : State :=
  (dieClusters d).foldl (fun t c =>
    lowMarker c ((span (8 * c) 8).foldl (fun u n => setZero n zbit u) (muteCluster c mute true t))) s

/-- The cause ends. -/
def unsilenceDie (mute zbit d : Nat) (s : State) : State :=
  (dieClusters d).foldl (fun t c =>
    (span (8 * c) 8).foldl (fun u n => if bitOf (rn u .FLX_ZERO_CAUSE n) zbit then clearZero n zbit u else u) (muteCluster c mute false t)) s

/-- Playback of a slice stops with its die's clock (R31): a clocked block is held in reset until its clock is qualified. -/
def stopPlay (f : Nat) (s : State) : State :=
  let s := endPlay f (8 * s.tml) s
  slset f { slget s f with jumps := [] } s

/-- An RF die has lost its clock (R20, R31, R373): its monitor reads TRIPPED. -/
def rfLost (d : Nat) (s : State) : State :=
  let s := logFault clsRfClock 0 d s.tml (silenceDie 2 0 d s)
  let s := (dieFifos d).foldl (fun t f => if fget t f = {} then t else flushFifo f t) s
  let s := (dieFifos d).foldl (fun t f => if slget t f = {} then t else stopPlay f t) s
  let s := (dieClusters d).foldl (fun t c => abandonStep c (cutWindows c t.tml t)) s
  voidNow 6 d s

/-- A monitor takes its TRIPPED state, once (R371). -/
def markTrip (m : Nat) (s : State) : State :=
  let s := flag .CLK_MON_TRIPPED m (inc .CLK_MON_TRIPS m (wr .CLK_MON_STATE 3 m s))
  setClk { s.clk with mons := mput {} s.clk.mons m {} } s

/-- A monitor that trips is not already TRIPPED or SUSPENDED. -/
def canTrip (s : State) (m : Nat) : Bool := rn s .CLK_MON_STATE m ≠ 3 ∧ rn s .CLK_MON_STATE m ≠ 4

/-- RF clock trip of a die (R20). -/
def tripRf (d : Nat) (s : State) : State := if canTrip s (5 + d) then rfLost d (markTrip (5 + d) s) else s

/-- A bias die loses its forwarded reference (R375). -/
def loseBd (b : Nat) (s : State) : State :=
  let s := setClk { s.clk with bd := mput {} s.clk.bd b {} } { s with bdQual := setBit s.bdQual b false }
  if bitOf (rn s .CLK_BD_LOST) b then s
  else logFault clsBiasRef 0 b s.tml (inc .CLK_BD_LOSSES 0 (wrBit .CLK_BD_LOST b true 0 s))

/-- Keystone clock loss (R374): every RFPLL trips and both bias dies lose their reference. -/
def keystoneLoss (s : State) : State :=
  if rn s .CLK_TREF_LOST = 1 then s
  else
    let s := logFault clsKeystone 0 0 s.tml (wr .CLK_TREF_LOST 1 0 s)
    loseBd 1 (loseBd 0 ((List.range 4).foldl (fun t d => tripRf d t) s))

/-- An LNPLL has tripped: its lanes lose bit lock (R373). -/
def tripLn (k : Nat) (s : State) : State :=
  if canTrip s (9 + k) then (span (8 * k) 8).foldl (fun t l => loseLock l t) (markTrip (9 + k) s) else s

/-- A DMPLL has tripped: its listed channels are fenced, and the others read ABSENT until the next reset (R373); each is a DRAM fault
(R409). -/
def tripDm (k : Nat) (s : State) : State :=
  if canTrip s (13 + k) then
    settleTraining <| (span (4 * k) 4).foldl (fun t c =>
      if (listed t).contains c then fenceChannel c t
      else logFault clsDram 0 c t.tml (wr .DRM_CH_STATE chAbsent c (setDch c { dch t c with gone := true } t))) (markTrip (13 + k) s)
  else s

/-- The timeline reference in use: 2 XTB, 3 REFIN; none before the choice. -/
def trefMon (s : State) : Option Nat := if s.clk.trefDone then some (2 + rn s .TML_REF_SOURCE) else none

/-- The action of a monitor's trip (R371). -/
def tripMonitor (m : Nat) (s : State) : State :=
  if m = 0 ∨ m = 4 then
    let s := markTrip m s
    toFio (logFault clsMgmtClock 0 0 s.tml (setClk { s.clk with mgTrip := true } s))
  else if m = 1 then flag .CLK_FIO_FAULT 0 (markTrip m s)
  else if m = 2 ∨ m = 3 then
    let s := markTrip m s
    let s := if m = 2 then
        (List.range 2).foldl (fun t k => tripDm k t) ((List.range 4).foldl (fun t k => tripLn k t) s)
      else s
    if trefMon s = some m then keystoneLoss s else s
  else if m < 9 then tripRf (m - 5) s
  else if m < 13 then tripLn (m - 9) s
  else tripDm (m - 13) s

/-! ### Windows and qualification (R369 to R372) -/

/-- A monitor is judged now: its clock is started and its reference counts (R368, R369, R371). A fuse error has stopped the sequence
before XTA is judged (R433 step 2). -/
def judged (s : State) (m : Nat) : Bool :=
  decide (rn s .CLK_MON_STATE m ≠ 4) && decide (s.boot.phase ≠ .held) && (decide (s.boot.phase ≠ .fuseError) || decide (m = 1)) &&
  (if m = 0 ∨ m = 4 then s.clk.xtaOn
   else if m = 1 then true
   else if m = 2 ∨ m = 3 then s.clk.xtbOn && decide (rn s .CLK_MGMT_SRC = 1 ∧ rn s .CLK_MON_STATE 4 = 2)
   else if m < 9 then decide (rn s .CLK_TREF_LOST = 0) &&
     (match trefMon s with | some r => decide (rn s .CLK_MON_STATE r = 2) | none => false)
   else decide (rn s .CLK_MON_STATE 2 = 2))

/-- Tolerance of a monitor in 0.01 ppm (R371). -/
def tolerance (m : Nat) : Int := if m ≤ 1 then 20000000 else 100000

/-- Loops, which lock. -/
def isLoop (m : Nat) : Bool := 4 ≤ m

/-- A DMPLL's first qualification after a reset begins the training of its channels (R294). -/
def startTraining (k : Nat) (s : State) : State :=
  (span (4 * k) 4).foldl (fun t c =>
    if rn t .DRM_CH_TRAIN c = 0 ∧ rn t .DRM_CH_STATE c = chAbsent ∧ !bitOf t.clk.gated c ∧ !(dch t c).gone ∧
        bitOf (rn t .PKG_BOOT_WAIT) 9 then
      wr .DRM_CH_TRAIN 1 c (wr .DRM_CH_STATE chTraining c t)
    else t) (if rn s .DRM_STATE = 0 then wr .DRM_STATE 1 0 s else s)

/-- What a qualification does (R369, R370, R373). -/
def qualified (m : Nat) (s : State) : State :=
  let s := wr .CLK_MON_QUAL_GRAIN s.tml m (wr .CLK_MON_STATE 2 m s)
  if m = 2 then (if s.clk.xtbQualAt.isNone then setClk { s.clk with xtbQualAt := some s.elapsed } s else s)
  else if m = 3 then (if s.clk.refinQualAt.isNone then setClk { s.clk with refinQualAt := some s.elapsed } s else s)
  else if m = 4 then
    if rn s .CLK_MGMT_SRC = 0 ∧ !s.clk.mgTrip ∧ rn s .CLK_MGMT_HOLD = 0 then
      offFio (milestone 4 (bootMet 1 (wr .CLK_MGMT_SRC 1 0 s)))
    else s
  else if 5 ≤ m ∧ m < 9 then
    let d := m - 5
    let s := setClk { s.clk with copies := mput 0 s.clk.copies (1 + d) 0 } s
    let s := unsilenceDie 2 0 d { s with rfQualAt := mput 0 s.rfQualAt d s.tml }
    if rn s .THM_STATE = 0 then unsilenceDie 4 1 d s else s
  else if 13 ≤ m then settleTraining (startTraining (m - 13) s)
  else s

/-- The row of a monitor's window that ends now has run: its windows are 100 µs apart (R371). -/
def windowRan (s : State) (m : Nat) : Bool :=
  match (mget {} s.clk.mons m).ranAt with
  | some t => decide (s.elapsed < t + 50 * usT)
  | none => false

/-- The XTA and FIO monitors trip in one window while the clocks agree within 1 % (R372): the window is the second bad one of the other
too, whose row comes after this one. -/
def sioFault (s : State) (m : Nat) (ppm other : Int) : Bool :=
  decide (m ≤ 1) && decide (tolerance 0 < other.natAbs) && decide (1 ≤ (mget {} s.clk.mons (1 - m)).bad) && !windowRan s (1 - m) &&
    decide (100 * (ppm - other).natAbs ≤ (100000000 + other).natAbs) && canTrip s (1 - m)

/-- MONITOR_WINDOW (R371): a window of a monitor ends with a deviation in 0.01 ppm; `other` is that of the FIO monitor for XTA,
and the reverse. -/
def execMonitorWindow (m : Fin 15) (ppm other : Int) (locked : Bool) (s : State) : Out :=
  let n := m.val
  if !judged s n then .next s
  else
    let w := mget {} s.clk.mons n
    let inTol := decide (ppm.natAbs ≤ tolerance n)
    let ok := inTol && (locked || !isLoop n)
    let st := rn s .CLK_MON_STATE n
    let seen := !isLoop n || w.locked || locked
    let w := { w with good := if ok then min 16 (w.good + 1) else 0, ranAt := some s.elapsed
                      locked := locked || (w.locked && decide (st ≠ 3))
                      bad := if !seen then 0 else if inTol then 0 else min 2 (w.bad + 1) }
    let s := wr .CLK_MON_LAST_PPM (sat (-2147483648) 2147483647 ppm) n s
    let old := s.clk.mons
    let s := setClk { s.clk with mons := mput {} s.clk.mons n w } s
    let s := if st = 0 then wr .CLK_MON_STATE 1 n s else s
    let s := if 5 ≤ n ∧ n < 9 ∧ locked ∧ !(mget {} old n).locked then applyBand (n - 5) s else s
    let lost := isLoop n && (mget {} s.clk.mons n).locked && !locked
    if st ≠ 3 ∧ (w.bad = 2 ∨ lost) then
      if w.bad = 2 ∧ sioFault s n ppm other then
        .next (logFault clsMgmtClock 0 0 s.tml (wr .CLK_SIO_FAULT 1 0 (wr .CLK_MON_STATE 4 1 (wr .CLK_MON_STATE 4 0 s))))
      else .next (tripMonitor n s)
    else if w.good = 16 ∧ st ≠ 2 then .next (qualified n s)
    else .next s

/-- XTA_START_DELAY (R368): t_XTA by STDLY, after t_power_good. -/
def execXtaStartDelay (s : State) : Out :=
  let t := [250, 1000, 2000, 4000, 8000, 16000, 32000, 64000]
  if s.boot.phase ≠ .held ∧ s.boot.goodAt + nthD t (rn s .CLK_STDLY) 0 * usT ≤ s.elapsed then .next (setClk { s.clk with xtaOn := true } s) else .next s

/-- XTB_START_DELAY (R369): the boot record's t_XTB, not before the record is read. -/
def execXtbStartDelay (s : State) : Out :=
  if s.boot.phase = .served ∧ s.boot.goodAt + s.clk.xtbDelay * usT ≤ s.elapsed then
    .next (setClk { s.clk with xtbOn := true } s)
  else .next s

/-- The reference that CLK_TREF_SEL chooses now: 0 XTB, 1 REFIN; none while it must wait (R365). -/
def trefChoice (s : State) : Option Nat :=
  let ok (m : Nat) : Bool := decide (rn s .CLK_MON_STATE m = 2)
  if s.clk.trefSel = 1 then (if ok 2 then some 0 else none)
  else if s.clk.trefSel = 2 then (if ok 3 then some 1 else none)
  else
    match s.clk.xtbQualAt with
    | none => none
    | some t =>
      match s.clk.refinQualAt with
      | some r => if r ≤ t + msT then some 1 else some 0
      | none => if t + msT ≤ s.elapsed then some 0 else none

/-- TREF_SELECT (R365, R433): the timeline starts at grain 0. -/
def execTrefSelect (s : State) : Out :=
  if s.clk.trefDone then .next s
  else
    match trefChoice s with
    | none => .next s
    | some r =>
      let s := wr .TML_REF_SOURCE r 0 (setClk { s.clk with trefDone := true } { s with tml := 0, tmlOn := true })
      .next (milestone 5 (bootMet 2 (anchorNow s)))

/-- The copies that differ, as TML_COPY_FAULT numbers them. -/
def copyFaults (c : Clocks) : Nat := (List.range 7).foldl (fun b i => setBit b i (decide (mget 0 c.copies i ≠ 0))) 0

/-- TIMELINE_COPY_COMPARE (R35), every 2^20 grains: `upsets` are the copies disturbed since the last comparison (0 the shadow
counter, 1 to 4 RF0 to RF3, 5 and 6 BD0 and BD1), with the grains by which each is now off. A copy that differs goes on differing
until an alignment or the requalification of its die (log 73). -/
def execTimelineCopyCompare (upsets : List (Fin 7 × Int)) (s : State) : Out :=
  if !s.tmlOn ∨ s.tml % 2 ^ 20 ≠ 0 then .next s
  else
    let s := setClk { s.clk with copies := upsets.foldl (fun m u => mput 0 m u.1.val u.2) s.clk.copies } s
    let b := copyFaults s.clk
    let s := wr .TML_COPY_FAULT (rn s .TML_COPY_FAULT ||| b : Nat) 0 s
    let s := (List.range 4).foldl (fun t d => if bitOf b (1 + d) then tripRf d t else t) s
    let s := (List.range 2).foldl (fun t d => if bitOf b (5 + d) then loseBd d t else t) s
    .next (if bitOf b 0 then keystoneLoss s else s)

/-- BD_REF_TICK (R375). -/
def execBdRefTick (d : Fin 2) (count : Nat) (s : State) : Out :=
  let b := d.val
  if !s.clk.trefDone ∨ rn s .CLK_TREF_LOST = 1 then .next s
  else
    let ok := decide (80 ≤ count ∧ count ≤ 120)
    let w := mget {} s.clk.bd b
    let w := { w with good := if ok then min 16 (w.good + 1) else 0, bad := if ok then 0 else min 2 (w.bad + 1) }
    let s := setClk { s.clk with bd := mput {} s.clk.bd b w } s
    if w.bad = 2 ∧ bitOf s.bdQual b then .next (loseBd b s)
    else if w.good = 16 ∧ !bitOf s.bdQual b then
      let s := setClk { s.clk with copies := mput 0 s.clk.copies (5 + b) 0 } s
      .next (bootMet (7 + b) (wrBit .CLK_BD_LOST b false 0 { s with bdQual := setBit s.bdQual b true }))
    else .next s

/-- CONVERTER_CALIBRATION_DONE (R435): the CAL causes of an RF die's channels clear. -/
def execConverterCalibrationDone (d : Fin 4) (s : State) : Out :=
  if !rfOk s d.val ∨ bitOf s.clk.calDone d.val then .next s
  else
    let s := (dieClusters d.val).foldl (fun t c => muteCluster c 1 false t) s
    let s := bootMet (3 + d.val) (setClk { s.clk with calDone := setBit s.clk.calDone d.val true } s)
    .next (if s.clk.calDone = 15 then milestone 6 s else s)

/-- CLK_MGMT_SEL (R370). -/
def selectMgmt (s : State) : Ans State :=
  if rn s .CLK_MON_STATE 0 = 2 ∧ rn s .CLK_MON_STATE 4 = 2 then
    .ok (offFio (milestone 4 (wr .CLK_MGMT_HOLD 0 0 (wr .CLK_MGMT_SRC 1 0 s))))
  else .error abCannotWrite

/-! ### The frequency counter (R376) -/

/-- Nominal frequency in Hz and prescale of an FMC clock (R364, R366, R367). -/
def fmcClock (s : State) (code : Nat) : Nat × Nat :=
  if code = 0 then (200000000, 1) else if code = 1 then (1000000, 1) else if code = 2 then (25000000, 1)
  else if code ≤ 4 then (100000000, 1) else if code = 5 then (250000000, 1)
  else if code ≤ 9 then (20000000000, 64) else if code ≤ 13 then (28000000000, 64)
  else if code ≤ 15 then (rn s .DRM_RATE * 500000, 8) else (250000000, 1)

/-- Reference cycles of the gate. -/
def fmcCycles (s : State) : Nat := (near 9 ((rn s .CLK_FMC_GATE * (fmcClock s (rn s .CLK_FMC_REF)).1 : Nat)) 1000000).toNat

/-- START written to CLK_FMC_CTRL (R376). -/
def startFmc (s : State) : Ans State :=
  if 5 < rn s .CLK_FMC_REF ∨ rn s .CLK_FMC_GATE < 1 ∨ 1000000 < rn s .CLK_FMC_GATE ∨ rn s .CLK_FMC_STATE = 1 then .error abRange
  else .ok (wr .CLK_FMC_STATE 1 0 (setClk { s.clk with fmcAt := s.elapsed } s))

/-- FMC_DONE (R376): the gate closes after CLK_FMC_GATE. -/
def execFmcDone (count : Nat) (s : State) : Out :=
  if rn s .CLK_FMC_STATE ≠ 1 ∨ s.elapsed < s.clk.fmcAt + rn s .CLK_FMC_GATE * usT then .next s
  else
    let src := fmcClock s (rn s .CLK_FMC_SRC)
    let ref := (fmcClock s (rn s .CLK_FMC_REF)).1
    let n := fmcCycles s
    let hz : Int := (count * src.2 * ref : Nat)
    let freq := quot 10 (1000 * hz) (max 1 n)
    let ppm := quot 11 ((hz - (src.1 * n : Nat)) * 100000000) (max 1 (src.1 * n))
    .next (wr .CLK_FMC_STATE 2 0 (wr .CLK_FMC_PPM (wrapS 32 ppm) 0 (wr .CLK_FMC_FREQ (pat 64 freq) 0 (wr .CLK_FMC_COUNT (count % 2 ^ 64 : Nat) 0 s))))

/-! ### Gating (R30, R377) -/

/-- A closing gate of a group waits: the tick of the write and the ticks its access takes. -/
def gateWaits (s : State) (g : Nat) : Option (Nat × Nat) := (s.clk.gateWait.find? fun x => decide (x.1 = g)).map (·.2)

/-- The gate of a group stands closed or open, and waits no more. -/
def setGate (g : Nat) (on : Bool) (s : State) : State :=
  setClk { s.clk with gated := setBit s.clk.gated g on, gateWait := s.clk.gateWait.filter fun x => decide (x.1 ≠ g) } s

/-- A test of a channel whose gate closes ends (R30, R300): the reads that it has still to make are answered with poison, and fail. How
many it has made is not given: free values. -/
def cutTest (c : Nat) (s : State) : State :=
  match s.dram.bist with
  | none => s
  | some v =>
    if nfld v 31 28 ≠ 0 ∨ nfld v 27 24 ≠ c then s
    else
      let f := fresh s
      let s := setDram { f.2.dram with bist := none } f.2
      let r := Config.cutTest f.1
      wr .DRM_BIST_STATE 3 0 (wr .DRM_BIST_MASK r.2.2.toNat 0 (wr .DRM_BIST_FIRST r.2.1.toNat 0
        (wr .DRM_BIST_FAILS (satN 0xFFFFFFFF (1 + r.1)) 0 s)))

/-- A group's gate closes: its blocks stop (R377). -/
def closeGroup (g : Nat) (s : State) : State :=
  let s := setGate g true s
  if g < 8 then settleTraining (cutTest g s)
  else if g < 12 then settleLanes s
  else if g < 14 then tpDown (g - 12) s
  else
    let u := g - 14
    mauset u { done := (mauget s u).done } (if (mauget s u).inj.isSome then wr .MON_INJ_STATE 0 u s else s)

/-- A group's gate opens: the group restarts from reset; a fence, and the ABSENT that a trip left, clear only at a reset of the package
(R297, R373). -/
def openGroup (g : Nat) (s : State) : State :=
  let was := bitOf s.clk.gated g
  let s := setGate g false s
  if !was then s
  else if g < 8 then
    let s := setDch g { gone := (dch s g).gone } s
    if rn s .DRM_CH_STATE g = chFenced ∨ (dch s g).gone then s else wr .DRM_CH_TRAIN 1 g (wr .DRM_CH_STATE chTraining g s)
  else if g < 12 then settleLanes s
  else if g < 14 then s
  else resetMau (g - 14) s

/-- A write of CLK_GATE (R377): `busy` are the groups in a bus access, with the ticks that it still takes (R30). -/
def writeGate (v : Nat) (busy : List (Nat × Nat)) (s : State) : Ans State :=
  if nfld v 31 25 ≠ 0 ∨ (tabChans (rn s .DRM_CHTAB)).any (fun c => bitOf v c) then .error abRange
  else
    .ok ((List.range 25).foldl (fun t g =>
      let on := bitOf t.clk.gated g || (gateWaits t g).isSome
      if bitOf v g && !on then
        (match busy.find? fun x => decide (x.1 = g) with
         | some x => setClk { t.clk with gateWait := t.clk.gateWait ++ [(g, t.elapsed, x.2)] } t
         | none => closeGroup g t)
      else if !bitOf v g && on then openGroup g t
      else t) (wr .CLK_GATE v 0 s))

/-- The gate of a group closes by force: the access under way is answered with poison, and the group counts it (R30). -/
def forceClose (g : Nat) (s : State) : State :=
  inc .CLK_FORCED_GATE g (closeGroup g (setClk { s.clk with poisoned := s.clk.poisoned ++ [(g, s.elapsed)] } s))

/-- GATE_FORCE_CLOSE (R30, R377): a waiting gate closes when its bus has gone idle, and by force after 2 µs (log 71). -/
def execGateForceClose (group : Fin 25) (s : State) : Out :=
  match gateWaits s group.val with
  | none => .next s
  | some (t, n) =>
    if n ≤ 2 * usT then (if t + n ≤ s.elapsed then .next (closeGroup group.val s) else .next s)
    else if t + 2 * usT ≤ s.elapsed then .next (forceClose group.val s)
    else .next s

/-! ### Alignment (R36 to R39) -/

/-- No run is in progress and every edge FIFO is empty (R37). DESIGN CHOICE: commands that the read half has taken and not yet
released make their FIFO non-empty (log 74). -/
def quietPackage (s : State) : Bool :=
  !inRun s && s.fifos.all fun e => e.2.cmds.isEmpty && e.2.incoming.isEmpty && e.2.unit.isEmpty && e.2.path.isEmpty

/-- ARM (R36, R37). DESIGN CHOICE: written again while armed, it begins the alignment anew, without an edge registered or a pulse
asked for before (log 74). -/
def armSync (s : State) : Ans State :=
  if !quietPackage s then .error abCannotWrite
  else .ok (wr .TML_SYNC_STATE 1 0 (setClk { s.clk with syncFire := false, syncEdge := none } s))

/-- FIRE (R36, R37): ignored unless armed. -/
def fireSync (s : State) : Ans State :=
  if !quietPackage s then .error abCannotWrite
  else .ok (if rn s .TML_SYNC_STATE = 1 then setClk { s.clk with syncFire := true } s else s)

/-- DISARM (R38). -/
def disarmSync (s : State) : State :=
  let s := setClk { s.clk with syncFire := false } s
  if rn s .TML_SYNC_STATE = 1 ∧ s.clk.syncEdge.isNone then wr .TML_SYNC_STATE 0 0 s else s

/-- A rising edge of the timeline reference falls on this grain (R35, R37). -/
def refEdge (s : State) : Bool := s.tmlOn && decide (s.tml % 25 = 0)

/-- SYNC_OUT_PULSE (R36), on a reference edge: 4 reference periods are 100 grains. -/
def execSyncOutPulse (s : State) : Out :=
  if s.clk.syncFire ∧ refEdge s then .next (setClk { s.clk with syncFire := false, syncOut := some (s.elapsed + 100) } s) else .next s

/-- SYNC_OUT_PULSE_END (R36). -/
def execSyncOutPulseEnd (s : State) : Out :=
  match s.clk.syncOut with
  | some t => if t ≤ s.elapsed then .next (setClk { s.clk with syncOut := none } s) else .next s
  | none => .next s

/-- SYNC_IN_EDGE (R36): a reference edge samples SYNC_IN high. -/
def execSyncInEdge (s : State) : Out :=
  if rn s .TML_SYNC_STATE = 1 ∧ s.clk.syncEdge.isNone ∧ refEdge s then .next (setClk { s.clk with syncEdge := some s.elapsed } s) else .next s

/-- TML_EPOCH takes the PTP time of grain 0, when grain g is now (R39): 400 ps are 26214.4 of 2^-16 ns. -/
def loadEpoch (g : Nat) (s : State) : State :=
  let whole : Int := (2 ^ 48 * 1000000000 * 65536 : Nat)
  let t := ((ptpNow s : Int) + quot 12 (-(262144 * (g : Int))) 10) % whole
  let n := t.toNat
  wr .TML_EPOCH_FRAC (ptpFrac n) 0 (wr .TML_EPOCH_NS (ptpNanos n) 0 (wr .TML_EPOCH_S (ptpSeconds n) 0 s))

/-- A grain of the old timeline on the new one. -/
def moved (old new g : Nat) : Nat := g + new - old

/-- A bias slice's commands that wait for the next update stay due at it, whatever the count makes of their grains (log 39). -/
def moveBias (old new : Nat) (v : BiasCh) : BiasCh :=
  let at_ := if new % 10000 = 0 then new else new / 10000 * 10000 + 1
  { v with cmds := (v.cmds.filter fun c => decide ((old - 1) / 10000 * 10000 < c.release)).map fun c => { c with release := at_ } }

/-- What outlasts an alignment moves with the timeline: playback, the order of the edge FIFOs, frames, markers, mutes, bias
commands, calibration (log 39). -/
def moveTimeline (old new : Nat) (s : State) : State :=
  let m := moved old new
  let m8 := moved (8 * old) (8 * new)
  let mi (x : Int) : Int := x + 8 * (new : Int) - 8 * (old : Int)
  { s with tml := new, rfQualAt := [],
           biasAt := if new % 10000 = 0 then none else some (new / 10000 * 10000)
           clk := { s.clk with copies := [] }
           trig := { s.trig with pins := [] }
           stream := { s.stream with timeAt := none, backlog := s.stream.backlog.map fun r => if anchorAhead s r then setAt r 1 (word (new + 1)) else r }
           fifos := mmap {} (fun _ v => { v with last := v.last.map fun l => (m l.1, l.2), cambers := [] }) s.fifos
           biases := mmap {} (fun _ v => moveBias old new v) s.biases
           acqs := mmap {} (fun _ v => { v with calFrom := v.calFrom.map m, hot := v.hot.map (moved (4 * old) (4 * new))
                                                spans := [], hots := [], cals := [], ovrGrain := none }) s.acqs
           run := { s.run with past := [] }
           slices := mmap {} (fun _ v => { v with play := v.play.map fun p => { p with start := mi p.start }
                                                  jumps := v.jumps.map fun j => (mi j.1, j.2)
                                                  ended := v.ended.map fun e => (mi e.1, { e.2 with start := mi e.2.start }) }) s.slices
           frames := mmap [] (fun _ v => (v.take 1).map fun f => { f with sample := 0 }) s.frames
           markers := mmap {} (fun _ v => { v with pulseEnd := v.pulseEnd.map m8, start := v.start.map fun x => (m x.1, x.2)
                                                   trussEnd := v.trussEnd.map m, lastMark := none }) s.markers
           regions := mmap {} (fun _ v => { v with muteEnd := v.muteEnd.map m
                                                   req := v.req.map fun r => (r.1, r.2.1, r.2.2.map m)
                                                   chain := v.chain.map fun x => { x with grain := m x.grain } }) s.regions }

/-- ALIGNMENT (R36, R39, R280, R363): the grain that begins at E + 2, 50 grains after the edge, takes TML_SYNC_GRAIN. -/
def execAlignment (s : State) : Out :=
  match s.clk.syncEdge with
  | none => .next s
  | some t =>
    if s.elapsed < t + 50 then .next s
    else
      let g := rn s .TML_SYNC_GRAIN + (s.elapsed - (t + 50))
      let s := setClk { s.clk with syncEdge := none } (moveTimeline s.tml g s)
      let s := inc .TML_SYNC_COUNT 0 (wr .TML_SYNC_STATE 2 0 s)
      let s := loadEpoch g s
      .next (timeRecord g ((List.range 32).foldl (fun u n => timerRealign n u) s))

end Sys2Proof.Machine
end

