-- ==== Sys2Proof/Machine/Thermal.lean ====
section
/-! DEFINITION. Thermal management (R394 to R407): the model of a region and its inputs, broken sensors, thresholds, the
throttle ladder with VIDF (R442), and the shutdown up to the stop of the RF PLLs. -/

namespace Sys2Proof.Machine

def setCool (c : Cooling) (s : State) : State := { s with cool := c }

/-! ### Inputs (R396) -/

/-- Reference voltage of a MAU in µV (R379, R391). -/
def refMicro (s : State) (u : Nat) : Nat :=
  if rn s .MON_REF_SEL u = 0 then 2500000 else if rn s .MON_REF_SEL u = 2 then 1800000 else Config.refm u

/-- The denominator of a region power kept as a whole number: p counts 1 / 2^32 of 1 / (2.5 * 10^12) W. -/
def powerDen : Nat := 2 ^ 32 * 2500000000000

/-- Region power: the sum of voltage times current over the four rails, with full scales 2.5 V, and 20, 20, 10 and 10 A. -/
def regionPower (s : State) (g : Nat) : Nat :=
  let c := (mauget s g).done.map (·.1)
  let at_ (i : Nat) : Nat := nthD c i 0
  (20 * (at_ 0 * at_ 4) + 20 * (at_ 1 * at_ 5) + 10 * (at_ 2 * at_ 6) + 10 * (at_ 3 * at_ 7)) * refMicro s g * refMicro s g

/-- A region power in mW. -/
def powerMw (p : Nat) : Nat := (near 14 (1000 * p : Nat) powerDen).toNat

/-- Power in mW that the units of the regions last measured, but for one region's (R399). -/
def othersMw (s : State) (but : Option Nat) : Nat :=
  sumN (((List.range 8).filter fun h => decide (some h ≠ but)).map fun h => rn s .THM_PWR h)

/-- Fraction bits of the base 2 logarithm of m / 2^62, for m from 2^62 to 2^63, by squaring. -/
def logBits : Nat → Nat → Nat → Nat
  | 0, _, acc => acc
  | n + 1, m, acc =>
    let q := m * m / 2 ^ 62
    if 2 ^ 63 ≤ q then logBits n (q / 2) (2 * acc + 1) else logBits n q (2 * acc)

/-- Base 2 logarithm of a quotient of positive numbers in 2^-48. -/
def log2Quot (num den : Nat) : Int :=
  let k : Int := (num.log2 : Int) - (den.log2 : Int)
  let m := if 0 ≤ k then num * 2 ^ 62 / (den * 2 ^ k.toNat) else num * 2 ^ (62 + (-k).toNat) / den
  if m < 2 ^ 62 then (k - 1) * 2 ^ 48 + logBits 48 (2 * m) 0 else k * 2 ^ 48 + logBits 48 m 0

/-- Natural logarithm of 2 in 2^-64. -/
def ln2 : Int := 12786308645202655660

/-- Base temperature in 2^-24 °C for a code of a base unit (R396); free where the formula gives none. -/
def baseTemp (s : State) (u code : Nat) : Int :=
  let v := code * refMicro s u
  let top := rn s .THM_NTC_VTOP * 1000 * 65536
  let num := rn s .THM_NTC_RSET * v
  let den := (top - v) * rn s .THM_NTC_R25
  let beta : Int := rn s .THM_NTC_BETA
  if num = 0 ∨ top ≤ v ∨ den = 0 ∨ beta = 0 then Config.ntcOpen code
  else
    let one : Int := 2 ^ 112
    let d := 20 * one * beta + 5963 * (log2Quot num den * ln2)
    if d ≤ 0 then Config.ntcOpen code
    else quot 13 ((5963 * one * beta * 20 - 5463 * d) * degC) (20 * d).toNat

/-! ### Broken sensors (R399 to R401) -/

def tenS : Nat := 10000 * msT

/-- Samples that cover the last 10 s, newest first. -/
def recent (now : Nat) (h : List (Nat × Int × Nat)) : List (Nat × Int × Nat) :=
  let inside := h.takeWhile fun x => decide (now < x.1 + tenS)
  inside ++ (h.drop inside.length).take 1

/-- Largest less smallest of a list. -/
def spread : List Int → Int
  | [] => 0
  | x :: xs => xs.foldl max x - xs.foldl min x

/-- The stuck condition over a whole 10 s span. -/
def isStuck (now : Nat) (h : List (Nat × Int × Nat)) (least : Int) : Bool :=
  (h.any fun x => decide (x.1 + tenS ≤ now)) && decide (spread (h.map (·.2.1)) < least) &&
    decide (5000 < spread (h.map fun x => (x.2.2 : Int)))

/-- A sample joins a watch: the watch, and the sensor's state after it. -/
def watchStep (now : Nat) (v : Int) (pkgMw : Nat) (out : Bool) (least : Int) (old : Nat) (w : Watch) : Watch × Nat :=
  let h := recent now ((now, v, pkgMw) :: w.hist)
  if out then ({ hist := h, badAt := some now }, 1)
  else if isStuck now h least then ({ hist := h, badAt := some now }, 2)
  else
    match w.badAt with
    | some t => if old ≠ 0 ∧ t + tenS ≤ now then ({ hist := h, badAt := none }, 0) else ({ hist := h, badAt := w.badAt }, old)
    | none => ({ hist := h, badAt := none }, old)

/-- Region sensors broken now. -/
def brokenCount (s : State) : Nat := ((List.range 8).filter fun g => rn s .THM_SENSOR_STATE g ≠ 0).length

/-- Every region is forced to COOL with cause 3. -/
def forceAll (s : State) : State := (List.range 8).foldl (fun t g => forceCool g 3 t) s

/-- The base sensor takes a state. -/
def setBase (st : Nat) (s : State) : State :=
  let was := rn s .THM_BASE_STATE
  let s := wr .THM_BASE_STATE st 0 s
  if was = 0 ∧ st ≠ 0 then forceAll (logFault clsThermal 0 0 s.tml s) else s

/-- A region sensor takes a state. -/
def setSensor (g st : Nat) (s : State) : State :=
  let was := rn s .THM_SENSOR_STATE g
  let s := wr .THM_SENSOR_STATE st g s
  if was = 0 ∧ st ≠ 0 then
    let s := forceCool g 2 (logFault clsThermal 0 g s.tml (inc .THM_BROKEN_COUNT g s))
    if 2 ≤ brokenCount s then forceAll s else s
  else s

/-- A temperature in 0.001 °C. -/
def milli (t : Int) : Int := near 15 (1000 * t) 16777216

/-- The base sensor's evaluation, once for each base sequence; a gated unit gives no new value, and one that never gave any is out of
range. The package power is what MAU10 and every region's unit measure. -/
def baseEval (keystoneMw : Nat) (s : State) : State :=
  let u := baseUnit s
  let used := s.cool.baseUsed
  let fresh := decide (s.cool.baseAt ≠ none ∧ s.cool.baseAt ≠ used) ||
    (mauGated s u && (match used with | some t => decide (t + msT ≤ s.elapsed) | none => true))
  if !fresh then s
  else
    let r := nthD (mauget s u).done 0 (0, false)
    let tb := baseTemp s u r.1
    let out := (mauget s u).done.isEmpty || r.2 || decide (tb < 5 * degC ∨ 70 * degC < tb)
    let w := watchStep s.elapsed tb (keystoneMw + othersMw s none) out 167773 (rn s .THM_BASE_STATE) s.cool.watch
    let s := setBase w.2 (setCool { s.cool with watch := w.1, baseUsed := if mauGated s u then some s.elapsed else s.cool.baseAt } s)
    let tb := if w.2 = 0 then tb else 70 * degC
    wr .THM_BASE (milli tb) 0 (setCool { s.cool with tb := tb } s)

/-! ### The model (R394, R395) -/

def resist (s : State) (g i : Nat) : Nat := rn s .THM_R (3 * g + i)
def capac (s : State) (g i : Nat) : Nat := rn s .THM_C (3 * g + i)

/-- Steady state for the present power and base temperature. -/
def steady (s : State) (g p : Nat) (v : Therm) : Therm :=
  let rise (i : Nat) : Int := quot 16 (p * resist s g i * 16777216 : Nat) (powerDen * 1000000)
  let t3 := s.cool.tb + rise 2
  let t2 := t3 + rise 1
  { v with live := true, p := p, t3 := t3, t2 := t2, t1 := t2 + rise 0 }

/-- One update of the nodes over n ticks of 400 ps. -/
def nodes (s : State) (g p n : Nat) (v : Therm) : Therm :=
  let r (i : Nat) : Int := resist s g i
  let c (i : Nat) : Int := capac s g i
  let pw : Int := powerDen
  let m : Int := 1000000
  let n : Int := n
  let pn : Int := p
  { v with p := p
           t1 := v.t1 + quot 17 (n * (pn * degC * r 0 - (v.t1 - v.t2) * m * pw)) (usT * (c 0 * r 0 * pw)).toNat
           t2 := v.t2 + quot 18 (n * m * ((v.t1 - v.t2) * r 1 - (v.t2 - v.t3) * r 0)) (usT * (c 1 * r 0 * r 1)).toNat
           t3 := v.t3 + quot 19 (n * m * ((v.t2 - v.t3) * r 2 - (v.t3 - s.cool.tb) * r 1)) (usT * (c 2 * r 1 * r 2)).toNat }

/-- 1 ms / c × (sum of 1/r at the node) is at most 0.5 for every node (R395). -/
def settles (r c : List Nat) : Bool :=
  let at_ (xs : List Nat) (i : Nat) : Nat := nthD xs i 1
  let m := 1000000
  decide (2 * 1000 * m ≤ at_ c 0 * at_ r 0) &&
  decide (2 * 1000 * m * (at_ r 0 + at_ r 1) ≤ at_ c 1 * (at_ r 0 * at_ r 1)) &&
  decide (2 * 1000 * m * (at_ r 1 + at_ r 2) ≤ at_ c 2 * (at_ r 1 * at_ r 2))

/-- A write of THM_R (0) or THM_C (1) of a region, at position i (R395). -/
def writeCoefficient (cap : Bool) (k v : Nat) (s : State) : Ans State :=
  let g := k / 3
  let r := (List.range 3).map fun i => if !cap ∧ i = k % 3 then v else resist s g i
  let c := (List.range 3).map fun i => if cap ∧ i = k % 3 then v else capac s g i
  if settles r c then .ok (wr (if cap then .THM_C else .THM_R) v k s) else .error abRange

/-! ### Thresholds (R398) -/

def tripC (i : Nat) : Int := nthD [100, 108, 120] i 0 * degC
def releaseC (i : Nat) : Int := nthD [97, 104, 110] i 0 * degC

/-- A throttle threshold of some region is tripped. -/
def anyThrottle (s : State) : Bool := (List.range 8).any fun g => bitOf (rn s .THM_TRIPPED g) 1

/-- The shutdown sequence begins (R406). -/
def beginShutdown (s : State) : State :=
  if rn s .THM_STATE ≠ 0 then s
  else abortRun (wr .THM_STATE 1 0 (setCool { s.cool with tripAt := some s.elapsed, stage := 0 } s))

/-- A threshold of a region trips. -/
def tripThreshold (g i : Nat) (s : State) : State :=
  let s := inc .THM_TRIPS (3 * g + i) (wrBit .THM_TRIPPED i true g s)
  if i = 0 then raise (0x160 + g) (logFault clsThermal 0 g s.tml s)
  else if i = 1 then
    raise (0x168 + g) (logFault clsThermal 0 g s.tml (setCool { s.cool with owed := s.cool.owed + 1, clearAt := none } s))
  else raise 0x170 (beginShutdown (logFault clsShutdown 0 g s.tml s))

/-- A threshold of a region releases. -/
def releaseThreshold (g i : Nat) (s : State) : State :=
  let s := inc .THM_RELEASES (3 * g + i) (wrBit .THM_TRIPPED i false g s)
  if i = 1 ∧ !anyThrottle s then setCool { s.cool with clearAt := some s.elapsed } s else s

/-- One threshold at an update with a temperature. -/
def threshold (g i : Nat) (t : Int) (s : State) : State :=
  let v := thget s g
  let up := if tripC i < t then min 2 (nthD v.above i 0 + 1) else 0
  let down := if t < releaseC i then min 10 (nthD v.below i 0 + 1) else 0
  let s := thset g { v with above := setAt v.above i up, below := setAt v.below i down } s
  let on := bitOf (rn s .THM_TRIPPED g) i
  if !on ∧ up = 2 then tripThreshold g i s
  else if on ∧ down = 10 then releaseThreshold g i s
  else s

/-- What an update reports (R394, R397, R400). -/
def report (g : Nat) (t : Int) (p : Nat) (s : State) : State :=
  let v := thget s g
  let s := wr .THM_T3 (milli v.t3) g (wr .THM_T2 (milli v.t2) g (wr .THM_TJ (milli t) g s))
  let s := peak .THM_TJ_PEAK (milli t) g (wr .THM_PWR (satN 0xFFFFFFFF (powerMw p)) g s)
  wr .THM_FAST (b2i (decide (94 * degC ≤ t ∧ t ≤ 126 * degC))) g s

/-- The plausibility check against a diode reading in 0.001 °C (R402). -/
def diodeCheck (g : Nat) (diode t : Int) (s : State) : State :=
  let v := thget s g
  let far := decide (15 * degC * 1000 < (diode * degC - 1000 * t).natAbs)
  let n := if far then min 10 (v.apart + 1) else 0
  let s := wr .THM_DIODE (wrapS 32 diode) g (thset g { v with apart := n } s)
  if n = 10 then flag .THM_DIODE_DISAGREE g s else s

/-- The inputs of a region's update are there (R396, R397): a whole protected sequence since the last one, and a base sequence. A
gated unit gives none (R389). -/
def updateReady (s : State) (g : Nat) : Bool :=
  (mauGated s g || protWhole s g) && (mauGated s (baseUnit s) || s.cool.baseAt.isSome || s.cool.baseUsed.isSome)

/-- Ticks that an update covers (R397): its period, or the whole interval where it fell due while MGE restarted (R417). -/
def updateSpan (s : State) (g : Nat) : Nat :=
  match s.cool.restartAt, (thget s g).lastAt with
  | some r, some t => if r ≤ updateDue s g ∧ updateDue s g < r + 10 * usT then s.elapsed - t else updatePeriod s g
  | _, _ => updatePeriod s g

/-- THERMAL_UPDATE (R394 to R402): the power in mW that MAU10 measures and the region's diode reading come with it. No effect before
the update is due, or without its inputs. -/
def execThermalUpdate (g : RgnNo) (keystoneMw : Nat) (diode : Int) (s : State) : Out :=
  let n := g.val
  if s.boot.phase = .held ∨ s.elapsed < updateDue s n ∨ !updateReady s n then .next s
  else
    let dt := updateSpan s n
    let s := baseEval keystoneMw s
    let p := regionPower s n
    let done := (mauget s n).done
    let out := done.isEmpty || (done.any fun x => x.2) || decide (2 * p < powerDen ∨ 60 * powerDen < p)
    let was := rn s .THM_SENSOR_STATE n
    let v := thget s n
    let w := watchStep s.elapsed p (keystoneMw + othersMw s (some n)) out (powerDen / 250) was v.watch
    let s := setSensor n w.2 s
    let v := { thget s n with watch := w.1, lastAt := some s.elapsed }
    let v := if w.2 ≠ 0 then v else if !v.live ∨ was ≠ 0 then steady s n p v else nodes s n p dt v
    let s := thset n v s
    let t := if w.2 ≠ 0 then 109 * degC else v.t1
    let s := threshold n 2 t (threshold n 1 t (threshold n 0 t (diodeCheck n diode t (report n t p s))))
    .next (updateTrims n (mauset n { mauget s n with prot := [] } s))

/-! ### Ladder and VIDF (R403, R442, R443) -/

/-- Largest step. -/
def stepMax (s : State) : Nat := (rn s .THM_VNOM - 620 + 24) / 25

/-- VDDF target at a step. -/
def stepMv (s : State) (k : Nat) : Nat := max 620 (rn s .THM_VNOM - 25 * k)

/-- The ladder takes a step. -/
def setStep (k : Nat) (s : State) : State := wr .THM_VDDF_MV (stepMv s k : Nat) 0 (wr .THM_STEP k 0 s)

/-- THM_VNOM is written. -/
def writeVnom (v : Nat) (s : State) : State :=
  let s := wr .THM_VNOM v 0 s
  setStep (min (rn s .THM_STEP) (stepMax s)) s

/-- The ladder rises by 1 as far as it goes. -/
def ladderUp (owed : Nat) (s : State) : State :=
  let k := rn s .THM_STEP
  let c := { s.cool with owed := owed, raisedAt := some s.elapsed }
  if k < stepMax s then setStep (k + 1) (setCool { c with changedAt := some s.elapsed } s) else setCool c s

/-- LADDER_STEP (R403): the move that is due, if any. -/
def execLadderStep (s : State) : Out :=
  let c := s.cool
  let wait := rn s .THM_STEP_MS * msT
  let free := match c.changedAt with | some t => decide (t + msT ≤ s.elapsed) | none => true
  let again := match c.raisedAt with | some t => decide (t + wait ≤ s.elapsed) | none => false
  let fall := match c.clearAt with | some t => decide (t + wait ≤ s.elapsed) | none => false
  if c.owed ≠ 0 then .next (if free then ladderUp (c.owed - 1) s else s)
  else if anyThrottle s then .next (if again && free then ladderUp 0 s else s)
  else if fall && free && decide (rn s .THM_STEP ≠ 0) then
    .next (setStep (rn s .THM_STEP - 1) (setCool { c with clearAt := some s.elapsed, changedAt := some s.elapsed } s))
  else .next s

/-- Voltage in mV of the lowest VIDF code that covers a target: 500 mV + 5 mV × code. -/
def vidfMv (mv : Nat) : Nat := 500 + (mv - 500 + 4) / 5 * 5

/-- The regions that follow VDDF run at a voltage; one in COOL or in its mute only falls to it (R19, R443). -/
def followVddf (mv : Nat) (s : State) : State :=
  (List.range 8).foldl (fun t g =>
    let held := decide (profileOf t g = profCool) || (rgget t g).muteEnd.isSome
    wr .RGN_FABRIC_MV (if held then min (rn t .RGN_FABRIC_MV g) mv else mv : Nat) g t) s

/-- VIDF_CHANGE (R19, R442, R443): the code follows the VDDF target, at most once per ms, and during the move the fabric runs at the
lower voltage. -/
def execVidfChange (s : State) : Out :=
  let v := vidfMv (rn s .THM_VDDF_MV)
  let free := match s.cool.vidfAt with | some t => decide (t + msT ≤ s.elapsed) | none => true
  if v = s.cool.vidf ∨ !free then .next s
  else
    let s := setCool { s.cool with vidf := v, vidfAt := some s.elapsed, vidfFrom := s.cool.vidf } s
    .next (followVddf (vddfLow s) s)

/-- The move of VDDF ends 1 ms after the change of the code (R443). -/
def settleVidf (s : State) : State :=
  if s.cool.vidfAt.any fun t => decide (s.elapsed = t + msT) then followVddf s.cool.vidf s else s

/-! ### THM_FORCE_CLR (R405) -/

/-- A cause of a force is no longer in force. -/
def causeOver (s : State) (g cause : Nat) : Bool :=
  if cause = 1 then !bitOf (rn s .THM_TRIPPED g) 1
  else if cause = 2 then rn s .THM_SENSOR_STATE g = 0
  else if cause = 3 then rn s .THM_BASE_STATE = 0 && decide (brokenCount s ≤ 1)
  else true

/-- A write of THM_FORCE_CLR. -/
def clearForce (mask : Nat) (s : State) : Ans State :=
  let named := (List.range 8).filter fun g => bitOf mask g
  if inRun s ∨ !(named.all fun g => (List.range 4).all fun c => !bitOf (rgget s g).forced c || causeOver s g c) then
    .error abCannotWrite
  else .ok (named.foldl (fun t g => wr .RGN_FORCED 0 g (rgset g { rgget t g with forced := 0 } t)) s)

/-! ### Shutdown (R406) -/

/-- A step of the shutdown is due: the step before is done and `us` microseconds have passed since t_trip. -/
def shutdownDue (s : State) (stage us : Nat) : Bool :=
  decide (rn s .THM_STATE = 1) && decide (s.cool.stage = stage) &&
    (match s.cool.tripAt with | some t => decide (t + us * usT ≤ s.elapsed) | none => false)

/-- SHUTDOWN_MUTE: t_trip + 2 µs. -/
def execShutdownMute (s : State) : Out :=
  if shutdownDue s 0 2 then
    .next ((List.range 4).foldl (fun t d => silenceDie 4 1 d t) (setCool { s.cool with stage := 1 } s))
  else .next s

/-- SHUTDOWN_BIAS_FAULT: t_trip + 5 µs. -/
def execShutdownBiasFault (s : State) : Out :=
  if shutdownDue s 1 5 then .next ((List.range 256).foldl (fun t n => faultBias n t) (setCool { s.cool with stage := 2 } s)) else .next s

/-- A monitor reads SUSPENDED and counts no trip. -/
def suspend (m : Nat) (s : State) : State :=
  let s := setClk { s.clk with mons := mput {} s.clk.mons m {} } s
  wr .CLK_MON_STATE 4 m s

/-- SHUTDOWN_PLL_STOP: t_trip + 10 µs. The RF dies' windows have no clock any more and are cut. -/
def execShutdownPllStop (s : State) : Out :=
  if shutdownDue s 2 10 then
    let s := (span 5 4).foldl (fun t m => suspend m t) (setCool { s.cool with stage := 3 } s)
    let s := ((List.range 4).flatMap dieFifos).foldl (fun t f => if fget t f = {} then t else abortFifo f t) s
    .next ((List.range 16).foldl (fun t c => abandonStep c (cutWindows c t.tml t)) s)
  else .next s

end Sys2Proof.Machine
end

