-- ==== Sys2Proof/Machine/Bist.lean ====
section
/-! DEFINITION. The pattern generator and the compare helper of the built-in tests (R298, R299): the address sequences over a
target, the data backgrounds, the reading passes of the two algorithms, and what the compare helper counts and latches. -/

namespace Sys2Proof.Machine

/-! ### Targets (R298, R300) -/

def bistTarget (v : Nat) : Nat := nfld v 31 28
def bistUnit (v : Nat) : Nat := nfld v 27 24

/-- Width w of a target in units: bursts of a DRAM channel, 8-byte words of cluster memory and of the pool. -/
def bistWidth (s : State) (v : Nat) : Nat :=
  if bistTarget v = 0 then (if orgBytes (rn s .DRM_CH_ORG (bistUnit v)) = 2 ^ 35 then 29 else 30)
  else if bistTarget v = 1 then 18 else 21

/-- 8-byte words of a unit. -/
def bistWords (v : Nat) : Nat := if bistTarget v = 0 then 8 else 1

/-- Columns of a target: burst columns of DRAM, word address bits 5 to 0 of SRAM. -/
def bistCols (v : Nat) : Nat := if bistTarget v = 0 then 128 else 64

/-- Byte offset in the target of a row and a column; a DRAM row is the rest of the channel offset, as the map in force places the
column (R287). -/
def bistOffset (s : State) (v row col : Nat) : Nat :=
  if bistTarget v ≠ 0 then 8 * (64 * row + col)
  else if rn s .DRM_MAP = 0 then row / 2 * 2 ^ 14 + col * 2 ^ 7 + row % 2 * 2 ^ 6
  else row / 64 * 2 ^ 19 + col * 2 ^ 12 + row % 64 * 2 ^ 6

/-! ### Address sequences (R298) -/

/-- One step of the Galois sequence over w bits. -/
def galoisNext (w poly a : Nat) : Nat := ((2 * a) ^^^ (if bitOf a (w - 1) then poly else 0)) % 2 ^ w

/-- The k-th address of the Galois sequence, from a = 1. -/
def galoisAt (w poly : Nat) : Nat → Nat
  | 0 => 1
  | k + 1 => galoisNext w poly (galoisAt w poly k)

/-- Byte offset of the k-th unit of a test's address sequence. -/
def bistAddr (s : State) (v k : Nat) : Nat :=
  let w := bistWidth s v
  let c := bistCols v
  let r := 2 ^ w / c
  match nfld v 23 20 with
  | 0 => bistOffset s v (k % r) (k / r)
  | 1 => bistOffset s v (k / c) (k % c)
  | 2 => bistOffset s v (k % r) ((k % r + k / r) % c)
  | _ => 8 * bistWords v * (if k + 1 = 2 ^ w then 0 else galoisAt w (rn s .DRM_BIST_POLY) k)

/-! ### Data backgrounds (R299) -/

/-- Length and second tap of the generator x^n + x^t + 1 of a background. -/
def prbsTaps (bg : Nat) : Nat × Nat := if bg = 1 then (7, 6) else if bg = 2 then (15, 14) else (31, 28)

/-- The generator after k bits, from all ones. -/
def prbsState (n t : Nat) : Nat → Nat
  | 0 => 2 ^ n - 1
  | k + 1 =>
    let x := prbsState n t k
    (2 * x + (if bitOf x (n - 1) ^^ bitOf x (t - 1) then 1 else 0)) % 2 ^ n

/-- Bit k of a background in sequence order: the bit that leaves the generator (log 80). -/
def bgBit (bg k : Nat) : Bool :=
  if bg = 0 then false else bitOf (prbsState (prbsTaps bg).1 (prbsTaps bg).2 k) ((prbsTaps bg).1 - 1)

/-- Word j of the unit at position k, or its complement; bit 0 of a word comes first (log 80). -/
def bistData (v k j : Nat) (inverse : Bool) : Word :=
  let at_ := 64 * (bistWords v * k + j)
  word (sumN ((List.range 64).map fun i => if bgBit (nfld v 15 12) (at_ + i) ^^ inverse then 2 ^ i else 0))

/-! ### Passes and compare (R299) -/

/-- The reading passes of an algorithm, in order: whether the pass expects the complement, and whether it runs in reverse. -/
def bistPasses (v : Nat) : List (Bool × Bool) :=
  if nfld v 19 16 = 0 then [(false, false)] else [(false, false), (true, false), (false, true), (true, true), (false, false)]

/-- A read of a built-in test that returned other data than the test expects there, or bad parity (R299): the reading pass, the
unit's position in the address sequence, the unit's words as read, and whether a byte failed parity. -/
structure BistRead where
  pass : Nat
  pos  : Nat
  data : List Word
  par  : Bool
  deriving DecidableEq, Repr

/-- The reads that BIST_DONE carries: pass and position, words and parity of each. -/
def bistReads (at_ : List (Nat × Nat)) (data : List (List Word)) (par : List Bool) : List BistRead :=
  ((at_.zip data).zip par).map fun x => { pass := x.1.1.1, pos := x.1.1.2, data := x.1.2, par := x.2 }

/-- The data bits in which a read differs from what its pass expects, by word. -/
def bistDiff (v : Nat) (r : BistRead) : List Word :=
  let p := nthD (bistPasses v) r.pass (false, false)
  (List.range (bistWords v)).map fun j => nthD r.data j 0 ^^^ bistData v r.pos j p.1

/-- A read of the test that fails data compare or parity. -/
def bistFails (s : State) (v : Nat) (r : BistRead) : Bool :=
  decide (r.pass < (bistPasses v).length) && decide (r.pos < 2 ^ bistWidth s v) && (r.par || (bistDiff v r).any fun x => decide (x ≠ 0))

/-- The place of a read in the order in which the test makes its reads. -/
def bistOrder (s : State) (v : Nat) (r : BistRead) : Nat :=
  let n := 2 ^ bistWidth s v
  r.pass * n + (if (nthD (bistPasses v) r.pass (false, false)).2 then n - 1 - r.pos else r.pos)

/-- What the compare helper holds after a test: the units that failed, each once, the byte offset of the first failure, and the OR of
the failing data bits (log 80). -/
def bistResult (s : State) (v : Nat) (reads : List BistRead) : Nat × Nat × Nat :=
  match reads.filter (bistFails s v) with
  | [] => (0, 0, 0)
  | r :: rs =>
    let units := (r :: rs).foldl (fun (u : List Nat) x => if u.contains x.pos then u else x.pos :: u) []
    let first := rs.foldl (fun m x => if bistOrder s v x < bistOrder s v m then x else m) r
    (units.length, bistAddr s v first.pos,
     ((r :: rs).foldl (fun (m : Word) x => (bistDiff v x).foldl (fun (o : Word) d => o ||| d) m) 0).toNat)

/-! ### The start of a test (R300) -/

/-- Codes of DRM_BIST_CTRL that are not excluded, and a polynomial with bits w and 0 for the Galois sequence. -/
def bistOk (s : State) (v : Nat) : Bool :=
  decide (bistTarget v ≤ 2) &&
  (if bistTarget v = 0 then decide (bistUnit v ≤ 7) else if bistTarget v = 2 then decide (bistUnit v = 0) else true) &&
  decide (nfld v 23 20 ≤ 3 ∧ nfld v 19 16 ≤ 1 ∧ nfld v 15 12 ≤ 3 ∧ nfld v 11 1 = 0) &&
  (decide (nfld v 23 20 ≠ 3) || (bitOf (rn s .DRM_BIST_POLY) (bistWidth s v) && bitOf (rn s .DRM_BIST_POLY) 0))

/-- A test of cluster memory or of a listed channel unloads the image. -/
def bistUnloads (s : State) (v : Nat) : Bool :=
  decide (bistTarget v = 1) || (decide (bistTarget v = 0) && (listed s).contains (bistUnit v))

end Sys2Proof.Machine
end

