-- ==== Sys2Proof/Machine/Dram.lean ====
section
/-! DEFINITION. The DRAM controller's commands (R284 to R303): training, rate, table and map, arbitration, refresh, MR4,
periodic retraining, wipe, built-in tests and the host window. -/

namespace Sys2Proof.Machine

/-! ### Table, range and wipe (R285, R286, R301, R302) -/

/-- The zeroed contents of a channel, with good parity. -/
def zeroChannel (c : Nat) (s : State) : State :=
  let other (a : Nat) : Bool := decide (a / 2 ^ 36 ≠ c)
  setDram { s.dram with cells := s.dram.cells.filter fun e => other e.1, bad := s.dram.bad.filter other } s

/-- WIPE_COMPLETE (R301, R302): fenced channels take no part. The wipe ends a life-cycle transition (R427 step 5). -/
def execWipeComplete (s : State) : Out :=
  if rn s .DRM_STATE ≠ 2 then .next s
  else
    let live := (listed s).filter fun c => decide (rn s .DRM_CH_STATE c ≠ chFenced)
    let s := live.foldl (fun t c => zeroChannel c t) s
    let s := wr .DRM_WIPE_DONE (rn s .DRM_WIPE_TOTAL) 0 s
    let s := bootMet 10 (settleState (wr .DRM_STATE 3 0 s))
    .next (endTransition s)

/-- An accepted write of DRM_MAP or DRM_CHTAB (R286): the image and the rings go, and the new range is wiped. While the controller
trains the wipe waits, as a wipe in progress does (R295); before the training of start-up ends there is no range yet, and the values
are applied after it (log 45). -/
def newMap (s : State) : State :=
  let s := wr .DRM_ARING_SIZE 0 1 (wr .DRM_ARING_SIZE 0 0 (wr .PKG_IMG_STATE 0 0 s))
  if bitOf (rn s .PKG_BOOT_WAIT) 9 then s
  else if rn s .DRM_STATE = 1 then pauseWipe (wipeTotals (applyTable s))
  else startWipe (applyTable s)

/-- The state in which the map may change. -/
def mayMap (s : State) : Bool := !inRun s && decide (streamState s = 0)

/-- A write of DRM_MAP (R285): it conflicts with the table in force when it is C and the table lists another number of channels than
1, 2, 4 or 8. With no table in force, NOTABLE stands until a valid table is written. -/
def writeMap (v : Nat) (s : State) : Ans State :=
  let s' := wr .DRM_MAP v 0 s
  if rn s .DRM_RANGE ≠ 0 ∧ !mapFits v (listed s).length then .error abRange
  else if !mayMap s then .error abCannotWrite
  else if rn s .DRM_RANGE = 0 then .ok (wr .DRM_ARING_SIZE 0 1 (wr .DRM_ARING_SIZE 0 0 (wr .PKG_IMG_STATE 0 0 s')))
  else .ok (newMap s')

/-- A write of DRM_CHTAB. -/
def writeTable (v : Nat) (s : State) : Ans State :=
  if !tableOk s v (rn s .DRM_MAP) then .error abRange
  else if !mayMap s then .error abCannotWrite
  else .ok (newMap (wr .DRM_CHTAB v 0 s))

/-! ### Training (R294, R295) -/

/-- TRAINING_STEP_DONE (R294, R297): the step in progress on a channel ends; step 0 identifies the organisation, 0 for no
component that responds (R283). -/
def execTrainingStepDone (ch : Fin 8) (ok : Bool) (org : Fin 4) (s : State) : Out :=
  let c := ch.val
  let v := dch s c
  if rn s .DRM_CH_STATE c ≠ chTraining ∨ !dmOk s c ∨ bitOf s.clk.gated c then .next s
  else if v.rateChange then
    .next (inc .DRM_CH_RESTARTS c (flag .DRM_CH_RESTARTED c (setDch c { v with step := 0, rateChange := false } s)))
  else if v.step = 0 ∧ org = 0 then
    .next (settleTraining (wr .DRM_CH_ORG 0 c (wr .DRM_CH_TRAIN 0 c (wr .DRM_CH_STATE chAbsent c s))))
  else
    let s := if v.step = 0 then wr .DRM_CH_ORG org.val c s else s
    if !ok then .next (settleTraining (fenceChannel c s))
    else if v.step < 5 then .next (setDch c { v with step := v.step + 1 } s)
    else .next (settleTraining (settleListed (wr .DRM_CH_TRAIN 2 c (wr .DRM_CH_STATE chReady c s))))

/-- The loop of four channels relocks to another rate (R295, R366): its monitor qualifies afresh. -/
def relockDm (k : Nat) (s : State) : State :=
  if rn s .CLK_MON_STATE (13 + k) = 1 ∨ rn s .CLK_MON_STATE (13 + k) = 2 then
    wr .CLK_MON_STATE 0 (13 + k) (setClk { s.clk with mons := mput {} s.clk.mons (13 + k) {} } s)
  else s

/-- A write of DRM_RATE (R295): the loops relock and every channel that takes part retrains; one that is gathering restarts; a fence
stays until a reset (R297). -/
def writeRate (v : Nat) (s : State) : Ans State :=
  if inRun s then .error abCannotWrite
  else
    let s := relockDm 1 (relockDm 0 (wr .DRM_RATE v 0 s))
    let s := if rn s .DRM_STATE = 2 then pauseWipe s else s
    let s := (List.range 8).foldl (fun t c =>
      let st := rn t .DRM_CH_STATE c
      if st = chTraining then setDch c { dch t c with rateChange := true } t
      else if (st = chReady ∨ st = chSelfref) ∧ !bitOf t.clk.gated c then trainChannel c t
      else t) s
    .ok (if rn s .DRM_STATE = 0 then s else settleTraining (wr .DRM_STATE 1 0 s))

/-! ### Arbitration and refresh (R284, R289, R290, R292) -/

/-- The controller serves requests. -/
def dramServes (s : State) (c : Nat) : Bool :=
  decide (rn s .DRM_STATE = 3 ∨ rn s .DRM_STATE = 4) && (dch s c).retrain.isNone

/-- Class of a requester in the order of R290: ports in panic, the schedule fetch before the refill ports before the acquisition
writers, then ports not in panic, then the engines. -/
def reqClass (s : State) (src : Nat) : Nat :=
  if 18 < src then 4
  else if portPanic s src then (if src = 18 then 0 else if src < 16 then 1 else 2)
  else 3

/-- A request that can stand at a channel: a whole burst of it, in its port's direction. -/
def reqOk (s : State) (c : Nat) (r : BurstReq) : Bool :=
  decide (r.src ≤ 21) && decide (r.addr % 64 = 0) && (match mapAddr s r.addr with | some p => decide (p.1 = c) | none => false) &&
    (decide (18 < r.src) || r.write == portWrites r.src)

/-- The next request by class, round robin within it. -/
def pick (s : State) (c : Nat) (reqs : List BurstReq) : Option BurstReq :=
  let last (k : Nat) : Nat := mget 0 (dch s c).lastGrant k
  let rank (r : BurstReq) : Nat := let k := reqClass s r.src; 32 * k + (r.src + 32 - last k - 1) % 32
  match reqs.filter (reqOk s c) with
  | [] => none
  | r :: rs => some (rs.foldl (fun m x => if rank x < rank m then x else m) r)

/-- The ring words that a burst of an acquisition writer takes to DRAM. -/
def ringBurst (r a : Nat) (s : State) : State :=
  let inside (e : Nat × Word) : Bool := decide (a ≤ e.1) && decide (e.1 < a + 64)
  let all := mget [] s.dram.rings r
  let ws := all.filter inside
  let s := setDram { s.dram with rings := mput [] s.dram.rings r (all.filter fun e => !inside e) } s
  let s := countBurstWrite (16 + r) a s
  let s := ws.foldl (fun t e => (List.range 8).foldl (fun u i => dramPutByte (e.1 + i) (BitVec.ofNat 8 (e.2.toNat / 2 ^ (8 * i))) u) t) s
  setLevel (16 + r) (portLevel s (16 + r) + 8 * ws.length) s

/-- A word of the range keeps a byte that fails parity. -/
def markBad (x : Nat) (s : State) : State :=
  match mapAddr s x with
  | some c => if s.dram.bad.contains (cellAddr c) then s else setDram { s.dram with bad := cellAddr c :: s.dram.bad } s
  | none => s

/-- One burst (R284): `bad` marks the words of a read that fail parity. A read of a fenced channel delivers poison (R297), which fills
its port's buffer as data does. -/
def burst (c : Nat) (r : BurstReq) (bad : Nat) (s : State) : State :=
  let k := reqClass s r.src
  let s := setDch c { dch s c with lastGrant := mput 0 (dch s c).lastGrant k r.src } s
  if r.write then
    if 16 ≤ r.src ∧ r.src < 18 then ringBurst (r.src - 16) r.addr s
    else dramWrite r.src r.addr (wordsBytes ((r.data ++ List.replicate 8 0).take 8)) s
  else
    let s := (List.range 8).foldl (fun t i => if bitOf bad i then markBad (r.addr + 8 * i) t else t) s
    let s := countBurstRead r.src r.addr s
    if r.src ≤ 18 then setLevel r.src (portLevel s r.src + 64) (setHeld r.src (heldOf s r.src ++ burstWords s r.addr) s) else s

/-- Refreshes that the arbiter grants at a burst boundary (R290): a forced one always, those that are due unless a port in panic has
a request at the channel. -/
def grantRefresh (c : Nat) (urgent : Bool) (s : State) : State :=
  let v := dch s c
  setDch c { v with due := (List.range 2).foldl (fun m r => mput 0 m r (if urgent then min 4 (mget 0 v.due r) else 0)) v.due } s

/-- DRAM_BURST (R290). -/
def execDramBurst (ch : Fin 8) (reqs : List BurstReq) (badWords : BitVec 8) (s : State) : Out :=
  if !dramServes s ch.val then .next s
  else
    match pick s ch.val reqs with
    | some r => .next (burst ch.val r badWords.toNat (grantRefresh ch.val (decide (reqClass s r.src < 3)) s))
    | none => .next (grantRefresh ch.val false s)

/-- Ranks of a channel by organisation (R283). -/
def ranks (s : State) (c : Nat) : Nat := if rn s .DRM_CH_ORG c = 2 then 2 else 1

/-- tREFI in grains (R292): 3.9 µs, or 1.95 µs while the channel is hot. -/
def refreshInterval (s : State) (c : Nat) : Nat := if rn s .DRM_CH_HOT c = 1 then 4875 else 9750

/-- A rank of a channel refreshes (R292): the channel is listed and its components run, fenced or not. -/
def refreshes (s : State) (c rank : Nat) : Bool :=
  (listed s).contains c && decide (rn s .DRM_CH_STATE c = chReady ∨ rn s .DRM_CH_STATE c = chFenced) && decide (rank < ranks s c)

/-- REFRESH_DUE (R292): once per tREFI a rank's refresh is due; it is granted, or postponed while a port is in panic; the fifth is
forced. -/
def execRefreshDue (ch : Fin 8) (rank : Fin 2) (s : State) : Out :=
  let c := ch.val
  let v := dch s c
  if !refreshes s c rank.val ∨ (mget 0 v.refAt rank.val ≠ 0 ∧ s.elapsed < mget 0 v.refAt rank.val - 1 + refreshInterval s c) then .next s
  else
    let n := min 5 (mget 0 v.due rank.val + 1)
    let s := setDch c { v with due := mput 0 v.due rank.val n, refAt := mput 0 v.refAt rank.val (s.elapsed + 1) } s
    if !anyPanic s then .next (grantRefresh c false s)
    else .next (if n = 5 then inc .DRM_CH_REF_FORCED c s else s)

/-- MR4 is read from a channel (R293): it is listed or in self-refresh, where R292 holds an unlisted channel that is fenced too, and
has components. -/
def polled (s : State) (c : Nat) : Bool :=
  decide (rn s .DRM_CH_STATE c = chSelfref ∨ rn s .DRM_CH_STATE c = chFenced) ||
    ((listed s).contains c && decide (rn s .DRM_CH_STATE c ≠ chAbsent))

/-- A failed read of MR4 counts (R293). -/
def mr4Error (c : Nat) (s : State) : State := logFault clsDram 0 c s.tml (inc .DRM_CH_TEMP_ERR c s)

/-- MR4_POLL (R293): every 32 ms; bit 2c + r of `hot` is a component above 85 °C on rank r of channel c, and of `err` a read of that
rank that fails parity or times out. -/
def execMr4Poll (hot err : BitVec 16) (s : State) : Out :=
  if s.dram.mr4At.any (fun t => decide (s.elapsed < t + 32 * msT)) then .next s
  else
    .next ((List.range 8).foldl (fun t c =>
      if polled t c then
        let on (b : BitVec 16) (r : Nat) : Bool := bitOf b.toNat (2 * c + r)
        let rs := List.range (ranks t c)
        wr .DRM_CH_HOT (b2i (rs.any fun r => on err r || on hot r)) c (rs.foldl (fun u r => if on err r then mr4Error c u else u) t)
      else t) (setDram { s.dram with mr4At := some s.elapsed } s))

/-! ### Periodic retraining (R296) -/

/-- A READY channel has a retraining step to run: step 4 after step 3, or step 3 once the period has passed. -/
def retrainDue (s : State) (c : Nat) : Bool :=
  let v := dch s c
  decide (rn s .DRM_CH_STATE c = chReady) &&
    (decide (v.nextStep = 4) || !v.retrainAt.any fun t => decide (s.elapsed < t + rn s .DRM_RETRAIN_PERIOD * msT))

/-- The channel whose step comes next: the channels retrain in turn. -/
def retrainNext (s : State) : Option Nat := ((List.range 8).map fun k => (s.dram.turn + k) % 8).find? (retrainDue s)

/-- RETRAIN_STEP_START: while the controller neither trains nor wipes; with no valid table the READY channels retrain too. -/
def execRetrainStepStart (ch : Fin 8) (s : State) : Out :=
  let c := ch.val
  let v := dch s c
  if retrainNext s = some c ∧ 3 ≤ rn s .DRM_STATE ∧
      ((List.range 8).all fun x => (dch s x).retrain.isNone) ∧ !anyPanic s ∧ quietFor s 8 10000 then
    .next (setDch c { v with retrain := some v.nextStep, stepAt := s.elapsed } s)
  else .next s

/-- RETRAIN_STEP_DONE. -/
def execRetrainStepDone (ch : Fin 8) (ok : Bool) (s : State) : Out :=
  let c := ch.val
  let v := dch s c
  match v.retrain with
  | none => .next s
  | some k =>
    if !ok then .next (fenceChannel c s)
    else
      let v := { v with retrain := none, nextStep := if k = 3 then 4 else 3, retrainAt := if k = 3 then some v.stepAt else v.retrainAt }
      .next (inc .DRM_CH_RETRAINS c (setDram { s.dram with chans := mput {} s.dram.chans c v, turn := if k = 3 then c else (c + 1) % 8 } s))

/-- RETRAIN_ABANDON: the step runs again later. -/
def execRetrainAbandon (ch : Fin 8) (s : State) : Out :=
  let c := ch.val
  if (dch s c).retrain.isSome ∧ anyPanic s then
    .next (inc .DRM_CH_RETRAIN_ABANDON c (setDch c { dch s c with retrain := none } s))
  else .next s

/-! ### Built-in tests (R298 to R300) -/

/-- A write of DRM_BIST_CTRL (R300, R302). DESIGN CHOICE: the results of the last test return to 0 as a test starts (log 80). -/
def startBist (v : Nat) (s : State) : Ans State :=
  let st := rn s .DRM_CH_STATE (bistUnit v)
  if !bistOk s v then .error abRange
  else if inRun s ∨ s.dram.bist.isSome ∨ rn s .DRM_STATE = 2 ∨ (bistTarget v = 2 ∧ poolFree s ≠ 262144) ∨
      (bistTarget v = 0 ∧ st ≠ chReady ∧ st ≠ chSelfref) then .error abCannotWrite
  else
    let s := wr .DRM_BIST_CTRL v 0 s
    if v % 2 = 0 then .ok s
    else
      let s := if bistUnloads s v then wr .PKG_IMG_STATE 0 0 s else s
      .ok (wr .DRM_BIST_MASK 0 0 (wr .DRM_BIST_FIRST 0 0 (wr .DRM_BIST_FAILS 0 0 (wr .DRM_BIST_STATE 1 0
        (setDram { s.dram with bist := some v } s)))))

/-- A cluster's memory is zeroed with good parity, its segment, kernel and table memories (R18), and its segments EMPTY (R300). -/
def zeroCluster (c : Nat) (s : State) : State :=
  let other (size a : Nat) : Bool := decide (a / 2 ^ size ≠ c)
  { s with segMem := s.segMem.filter fun e => other 19 e.1, segBad := s.segBad.filter (other 19)
           krn := s.krn.filter fun e => other 17 e.1, krnBad := s.krnBad.filter (other 17)
           tab := s.tab.filter fun e => other 18 e.1, tabBad := s.tabBad.filter (other 18)
           segs := mmap {} (fun k v => if k / 4096 = c then { v with ready := false, poison := false, filling := false } else v) s.segs }

/-- BIST_DONE (R299, R300): with it come the reads that returned other data than the test expects, or bad parity. -/
def execBistDone (at_ : List (Nat × Nat)) (data : List (List Word)) (par : List Bool) (s : State) : Out :=
  match s.dram.bist with
  | none => .next s
  | some v =>
    let r := bistResult s v (bistReads at_ data par)
    let s := setDram { s.dram with bist := none } s
    let s := wr .DRM_BIST_MASK r.2.2 0 (wr .DRM_BIST_FIRST r.2.1 0 s)
    let s := wr .DRM_BIST_STATE (if r.1 = 0 then 2 else 3) 0 (wr .DRM_BIST_FAILS (satN 0xFFFFFFFF r.1) 0 s)
    let s := if bistUnloads s v then wr .PKG_IMG_STATE 0 0 s else s
    .next (if bistTarget v = 0 then zeroChannel (bistUnit v) s else if bistTarget v = 1 then zeroCluster (bistUnit v) s else s)

/-! ### The host window (R303) -/

/-- A span of the window is legal. -/
def winOk (s : State) (n : Nat) : Bool :=
  let a := rn s .DRM_WIN_ADDR
  decide (a % 64 = 0 ∧ n % 64 = 0 ∧ 0 < n ∧ n ≤ 4096 ∧ a + n ≤ rn s .DRM_RANGE)

/-- A read of DRM_WIN_DATA: the bytes, and the state after. A read that is rejected counts what it met. -/
def winRead (n : Nat) (s : State) : Ans (List Byte) × State :=
  if !winOk s n then (.error abRange, s)
  else if rn s .DRM_STATE = 2 then (.error abCannotRead, s)
  else
    let a := rn s .DRM_WIN_ADDR
    let r := dramRead 19 a (n / 8) s
    if r.1.any (·.2) then (.error abCannotRead, r.2)
    else (.ok (wordsBytes (r.1.map (·.1))), wr .DRM_WIN_ADDR (a + n : Nat) 0 r.2)

/-- A write of DRM_WIN_DATA. -/
def winWrite (bs : List Byte) (s : State) : Ans State :=
  if !winOk s bs.length then .error abRange
  else if rn s .DRM_STATE = 2 then .error abCannotWrite
  else
    let a := rn s .DRM_WIN_ADDR
    .ok (wr .DRM_WIN_ADDR (a + bs.length : Nat) 0 (dramWrite 19 a bs s))

/-! ### Acquisition ring objects and panic levels (R289, R291) -/

/-- A write of DRM_ARING_BASE (0) or DRM_ARING_SIZE (1). -/
def writeRing (sz : Bool) (r v : Nat) (s : State) : Ans State :=
  let base := if sz then rn s .DRM_ARING_BASE r else v
  let size := if sz then v else rn s .DRM_ARING_SIZE r
  if v % 4096 ≠ 0 ∨ (size ≠ 0 ∧ (size < 1048576 ∨ rn s .DRM_RANGE < base + size)) then .error abRange
  else if streamState s ≠ 0 then .error abCannotWrite
  else .ok (wr (if sz then .DRM_ARING_SIZE else .DRM_ARING_BASE) v r s)

/-- A write of DRM_P_PANIC. -/
def writePanic (p v : Nat) (s : State) : Ans State :=
  if portSize p ≤ v then .error abRange else .ok (settlePanic p (wr .DRM_P_PANIC v p s))

end Sys2Proof.Machine
end

