-- ==== Sys2Proof/Machine/Microcode.lean ====
section
/-! DEFINITION. Microwords (R92 to R100): the fetch with its redirection and its parity check, the ALU, the port actions, the
sequencing, and the running of a routine that a patch reaches. The ROM is a constant with no body; what it does by itself is
the effect that R75 gives each opcode. -/

namespace Sys2Proof.Machine

/-! ### The fetch (R97, R98, R100) -/

/-- The 12 odd parity bits of a microword, one per byte (R92). -/
def microParity (w : Nat) : Nat := sumN ((List.range 12).map fun i => b2n (oddParity (BitVec.ofNat 8 (w / 256 ^ i))) * 2 ^ i)

/-- ENG_KIND of an engine, and the place of its cells among the marks of its kind (R91, R100). -/
def engKind (e : Nat) : Nat := if e < 128 then e % 8 else e - 120
def engCells (e : Nat) : Nat := if e < 128 then 128 * (e / 8) else 0

/-- The patch RAM word at an address for an engine; none is the fault entry: past the last word, or a parity failure. -/
def patchWord (s : State) (e a : Nat) : Option Nat :=
  let v := patchOf s (engKind e)
  match v.words[a]? with
  | none => none
  | some w => if v.marks.contains (engCells e + a) ∨ nthD v.pars a 0 ≠ microParity w then none else some w

/-- The enabled match register of a ROM address, with its number. -/
def matchOf (s : State) (e a : Nat) : Option (Nat × Nat) :=
  (patchOf s (engKind e)).matchs.zipIdx.find? fun m => bitOf m.1 31 && decide (nfld m.1 11 0 = a)

/-- The microword fetched at an address (R97): `patch` is the space. A poisoned match register is a failed fetch (log 70). -/
def microFetch (s : State) (e : Nat) (patch : Bool) (a : Nat) : Option Nat :=
  if patch then patchWord s e a
  else
    match matchOf s e a with
    | some m => if (patchOf s (engKind e)).marks.contains (engCells e + 64 + m.2) then none else patchWord s e (nfld m.1 23 18)
    | none => some (Config.rom (engKind e) a).toNat

/-! ### The ALU (R95, R96) -/

/-- Width of a field for EXT and INS. -/
def microWidth (w : Nat) : Nat := if nfld w 48 43 = 0 then 64 else nfld w 48 43

/-- Operand B. -/
def operandB (v : Engine) (w : Nat) : Word :=
  match nfld w 42 41 with
  | 0 => nthD v.scratch (nfld w 66 63) 0
  | 1 => word (nfld w 31 0)
  | 2 => v.micro.port
  | _ => BitVec.ofInt 64 (sx 32 w)

/-- The result of an ALU code on A and B; none for the codes that form no result. -/
def aluResult (alu sh width : Nat) (a b : Word) : Option Word :=
  let mask : Word := word (2 ^ width - 1)
  match alu with
  | 1 => some b
  | 2 => some (a + b)
  | 3 => some (a - b)
  | 4 => some (a &&& b)
  | 5 => some (a ||| b)
  | 6 => some (a ^^^ b)
  | 7 => some (a <<< sh)
  | 8 => some (a >>> sh)
  | 9 => some ((a >>> sh) &&& mask)
  | 10 => some ((a &&& ~~~(mask <<< sh)) ||| ((b &&& mask) <<< sh))
  | _ => none

/-- C after an operation: the carry out of an addition; the others are free (log 70). -/
def aluCarry (k alu : Nat) (a b : Word) : Bool :=
  if alu = 2 then decide (2 ^ 64 ≤ a.toNat + b.toNat)
  else if alu = 3 ∨ alu = 11 then Config.subCarry (decide (a.toNat < b.toNat))
  else Config.otherCarry k

/-! ### Conditions and ports (R96) -/

/-- A condition of COND. -/
def microCond (s : State) (e k code : Nat) : Bool :=
  let v := eget s e
  match code with
  | 0 => true
  | 1 => v.zf
  | 2 => v.nf
  | 3 => v.cf
  | 4 => v.micro.nv
  | 5 => v.micro.fin
  | 6 => v.micro.psn
  | 7 => v.micro.target.any fun f => !fifoRoom (fget s f)
  | 8 => v.micro.event
  | 9 => v.micro.released
  | 10 => decide (nthD v.scratch 15 0 = 0)
  | 11 => s.run.aborted
  | _ => Config.verdictValid k

/-- The next schedule word goes into the port input (PORT 1): from the loop body under way, else from queue 0. DESIGN CHOICE: a word of
a loop body has no END, as the loop buffer keeps no tags (log 70). -/
def readPort (e : Nat) (s : State) : State :=
  let put (w : Word) (nv fin psn : Bool) (t : State) : State :=
    let v := eget t e
    let m := v.micro
    eset e { v with micro := { m with port := w, nv := nv, fin := fin, psn := psn, first := some (m.first.getD w) } } t
  match (eget s e).loop with
  | some l =>
    match l.rest with
    | [] => s
    | w :: rest => put w false false false (eset e { eget s e with loop := some { l with rest := rest } } s)
  | none =>
    let r := readWord (32 * e) false false s
    let t := put r.1.data r.1.nv r.1.fin r.1.psn r.2
    let t := eset e { eget t e with pc := ((eget t e).pc + 8) % 2 ^ 64 } t
    if r.1.psn then schedPoison e t else t

/-- A word is written to an edge FIFO, with END or without (PORT 2 and 3): a write half in discard-to-end drops it (R267). -/
def writePort (f : Nat) (fin : Bool) (w : Word) (s : State) : State :=
  let v := fget s f
  if v.dte then
    (if fin then
      incBy .TML_F_INACTIVE (b2n v.dteIn) f (inc .QUE_EF_FLUSHED f (fset f { v with dte := false, dteIn := false } s))
    else s)
  else if !fin then fset f { v with part := v.part ++ [{ data := w }] } s
  else
    let ws : List QWord := v.part ++ [{ data := w, fin := true }]
    fset f { v with part := [], incoming := v.incoming ++ [{ w0 := (nthD ws 0 { data := 0 }).data, w1 := (nthD ws 1 { data := 0 }).data
                                                             words := ws.length, more := ws.drop 2 }] } s

/-- The opcode and LENGTH that a routine's barrier arrival carries: those of the packet it expands (log 70). -/
def arrivalOf (v : Engine) : Bool × Nat :=
  let w := v.micro.first.getD v.micro.port
  (decide (schedOp w = 0xF1), if schedOp w = 0xF1 then 0 else fld w 31 0)

/-- A byte of a cluster's memory: of the samples and the kernel taps, 4 bytes a word, and of the discriminant tables; and whether it
fails parity. -/
def clusterByte (s : State) (c : Nat) (p : Nat × Nat) : Nat × Bool :=
  match p.1 % 3 with
  | 0 => let a := memKey c (p.2 / 4 % 376832); (mget 0 s.segMem a / 256 ^ (p.2 % 4) % 256, s.segBad.contains a)
  | 1 => let a := c * 2 ^ 17 + p.2 / 4 % 2 ^ 17; (mget 0 s.krn a / 256 ^ (p.2 % 4) % 256, s.krnBad.contains a)
  | _ => let a := c * 2 ^ 18 + p.2 % 2 ^ 18; (mget 0 s.tab a, s.tabBad.contains a)

/-- The word that an engine reads at an address of its cluster's memory (PORT 4), and whether a byte of it fails parity. -/
def clusterWord (s : State) (e : Nat) (a : Word) : Word × Bool :=
  let bs := (List.range 8).map fun i => clusterByte s (e / 8) (Config.memByte a i)
  (word (leVal (bs.map fun b => BitVec.ofNat 8 b.1)), bs.any (·.2))

/-- A port action on a microword's operand A and result. A keystone engine runs no schedule, has no cluster and no edge FIFO: of these
ports its loop buffer alone acts (log 70). -/
def microPort (e k code : Nat) (a r : Word) (s : State) : State :=
  let v := eget s e
  let setPort (w : Word) (psn : Bool) : State := eset e { v with micro := { v.micro with port := w, nv := false, fin := false, psn := psn } } s
  match (if e < 128 ∨ code = 7 ∨ code = 8 then code else 0) with
  | 1 => readPort e s
  | 2 => match v.micro.target with | some f => writePort f false r s | none => s
  | 3 => match v.micro.target with | some f => writePort f true r s | none => s
  | 4 => setPort (clusterWord s e a).1 (clusterWord s e a).2
  | 5 => raise e s
  | 6 => arriveBarrier e (arrivalOf v).1 (arrivalOf v).2 (eset e { v with micro := { v.micro with released := false } } s)
  | 7 => eset e { v with micro := { v.micro with buf := (v.micro.buf ++ [r]).drop ((v.micro.buf.length + 1) - 128) } } s
  | 8 =>
    let w := nthD v.micro.buf v.micro.pos (Config.portRead k)
    eset e { v with micro := { v.micro with port := w, nv := false, fin := false, psn := false
                                            pos := (v.micro.pos + 1) % max 1 v.micro.buf.length } } s
  | 9 =>
    if e % 8 = 7 then
      let c := e / 8
      let b := brget s c
      let x := Config.selectWord r
      let d := match b.arms.find? (fun y => decide (y.slot = x.1 % 16)) with | some y => y.d | none => s.tml
      brset c { b with lines := b.lines ++ [(x.1 % 16, d, x.2.map (·.val))] } s
    else s
  | 10 => if e % 8 = 7 then setPort (Config.portRead k) false else s
  | 11 => eset e { v with micro := { v.micro with target := targetFifo e (a.toNat % 32) } } s
  | _ => s

/-- A microword that must wait before it is executed, with the state in which the engine waits: no schedule word, no room in
the target, or a WAIT whose condition does not hold. A keystone engine waits in its present state. -/
def microStall (s : State) (e k w : Nat) : Option State :=
  let v := eget s e
  let port := nfld w 58 55
  let cond := microCond s e k (nfld w 80 76) ^^ bitOf w 75
  if nfld w 83 81 = 6 ∧ !cond then
    some (if 128 ≤ e then s else match nfld w 80 76 with
      | 7 => eset e { v with state := .waitFifo } s
      | 8 => beginWait e (fld v.micro.port 39 32) s
      | 9 => eset e { v with state := .barrier } s
      | _ => s)
  else if 128 ≤ e then none
  else if port = 1 ∧ (nextPacket s e).isNone then some (inc .ENG_STARVE e (eset e { v with state := .waitFetch } s))
  else if (port = 2 ∨ port = 3) ∧ v.micro.target.any (fun f => !fifoRoom (fget s f)) then some (eset e { v with state := .waitFifo } s)
  else none

/-- The results of the ALU: DST and the flags. -/
def microResult (k w : Nat) (v : Engine) : Engine × Word :=
  let alu := nfld w 74 71
  let a := nthD v.scratch (nfld w 70 67) 0
  let b := operandB v w
  let r := aluResult alu (nfld w 54 49) (microWidth w) a b
  let f := if alu = 11 then a - b else r.getD (Config.noResult k)
  let v := match r with | some x => { v with scratch := setAt v.scratch (nfld w 62 59) x } | none => v
  let v := if bitOf w 40 then { v with zf := decide (f = 0), nf := f.msb, cf := aluCarry k alu a b } else v
  (v, r.getD (Config.noResult k))

/-- Where the routine goes on after a microword at an address (R96, R97): none at a DISPATCH. The stack and S15 change with it.
DESIGN CHOICE: RETURN leaves the stacked entry, and address + 1 after 4,095 is 0 (log 70). -/
def microNext (s : State) (e k : Nat) (at_ : Bool × Nat) (w : Nat) : Option (Bool × Nat) × Engine :=
  let v := eget s e
  let next := (bitOf w 39, nfld w 95 84)
  let step := (at_.1, (at_.2 + 1) % 4096)
  match nfld w 83 81 with
  | 0 => (some next, v)
  | 1 => (some (if microCond s e k (nfld w 80 76) ^^ bitOf w 75 then next else step), v)
  | 2 => (none, v)
  | 3 => (some next, { v with ret := some step })
  | 4 => (some (v.ret.getD (Config.emptyReturn k)), v)
  | 5 =>
    let n := nthD v.scratch 15 0 - 1
    (some (if n ≠ 0 then next else step), { v with scratch := setAt v.scratch 15 n })
  | _ => (some step, v)

/-- One microword at an address is executed: its ALU operation, its port action, then the choice of the next, which is none at a
DISPATCH. -/
def microWord (e : Nat) (at_ : Bool × Nat) (w : Nat) (s : State) : Option (Bool × Nat) × State :=
  let f := fresh s
  let k := f.1
  let s := f.2
  let a := nthD (eget s e).scratch (nfld w 70 67) 0
  let r := microResult k w (eget s e)
  let s := eset e { r.1 with microwords := (r.1.microwords + 1) % 2 ^ 64 } s
  let s := if nfld w 83 81 = 6 ∧ nfld w 80 76 = 8 then eset e { eget s e with micro := { (eget s e).micro with event := false } } s else s
  let s := microPort e k (nfld w 58 55) a r.2 s
  let n := microNext s e k at_ w
  (n.1, eset e { n.2 with micro := { n.2.micro with at_ := n.1 } } s)

/-- One microword of a schedule opcode's routine, which a DISPATCH and the end of the run end. DESIGN CHOICE: once a patch reaches an
opcode, what its ROM handler does beyond the ports of R96 (the passes of LOOP, the arming of BRANCH) does not happen: the routine
has the effects of its microwords alone (log 70). -/
def microExec (e : Nat) (at_ : Bool × Nat) (w : Nat) (s : State) : State :=
  let n := microWord e at_ w s
  let v := eget n.2 e
  if v.state = .done then eset e { v with micro := { v.micro with at_ := none } } n.2
  else
    match n.1 with
    | some _ => n.2
    | none => afterPacket e (eset e { v with opcodes := (v.opcodes + 1) % 2 ^ 64 } n.2)

/-- The engine executes a routine under way until a DISPATCH, a stall or a fault, at most `fuel` microwords in one row. -/
def microRun (e : Nat) : Nat → State → State
  | 0, s => s
  | n + 1, s =>
    if !canRun (eget s e) then s
    else
      match (eget s e).micro.at_ with
      | none => s
      | some x =>
        match microFetch s e x.1 x.2 with
        | none => storeFault e s
        | some w =>
          match microStall s e s.free w with
          | some t => t
          | none => microRun e n (microExec e x w s)

/-- A keystone engine executes one microword (R92, R97): at its reset entry or after its fault entry it begins where its ROM does, and a
DISPATCH goes on at the dispatch entry of an opcode that no rule gives. None is a fetch that fails: past the last patch word, or a
cell whose parity fails. -/
def keystoneWord (e : Nat) (s : State) : Option State :=
  let x := (eget s e).micro.at_.getD (false, (Config.keystoneEntry (engKind e)).toNat)
  match microFetch s e x.1 x.2 with
  | none => none
  | some w =>
    match microStall s e s.free w with
    | some t => some t
    | none =>
      let k := s.free
      let n := microWord e x w s
      match n.1 with
      | some _ => some n.2
      | none =>
        let op := Config.keystoneOp k
        let v := eget n.2 e
        match overrideOf n.2 (engKind e) op with
        | some o =>
          if (patchOf n.2 (engKind e)).marks.contains (80 + o.2) then none
          else some (eset e { v with micro := { v.micro with at_ := some (bitOf o.1 12, nfld o.1 11 0) } } n.2)
        | none => some (eset e { v with micro := { v.micro with at_ := some (false, (Config.romDispatch (engKind e) op).toNat) } } n.2)

end Sys2Proof.Machine
end

