-- ==== Sys2Proof/Machine/ControlStore.lean ====
section
/-! DEFINITION. Control stores (R92 to R105): the check of a patch domain, loading and removing a patch, the effective dispatch
entry, and the faults of keystone engines (R417). -/

namespace Sys2Proof.Machine

/-! ### The patch domain (R95 to R102) -/

/-- A field of a patch domain: n bytes at an offset, least significant first. -/
def domAt (bs : List Byte) (off n : Nat) : Nat := leVal ((bs.drop off).take n)

/-- Counts of words, matches and overrides (R101). -/
def domWords (bs : List Byte) : Nat := domAt bs 5 1
def domMatches (bs : List Byte) : Nat := domAt bs 6 1
def domOverrides (bs : List Byte) : Nat := domAt bs 7 1

def wordList (bs : List Byte) : List Nat := (List.range (domWords bs)).map fun i => domAt bs (16 + 12 * i) 12
def matchList (bs : List Byte) : List Nat := (List.range (domMatches bs)).map fun i => domAt bs (16 + 12 * domWords bs + 4 * i) 4
def overrideList (bs : List Byte) : List Nat :=
  (List.range (domOverrides bs)).map fun i => domAt bs (16 + 12 * domWords bs + 4 * domMatches bs + 4 * i) 4

/-- A microword that a patch may hold (R95, R96, R102). -/
def microOk (words w : Nat) : Bool :=
  decide (nfld w 38 32 = 0 ∧ nfld w 83 81 ≠ 7 ∧ nfld w 80 76 ≤ 12 ∧ nfld w 74 71 ≤ 11 ∧ nfld w 58 55 ≤ 11) &&
    (!bitOf w 39 || decide (nfld w 95 84 < words))

/-- A match value (R98, R102). -/
def matchOk (words m : Nat) : Bool := bitOf m 31 && decide (nfld m 30 24 = 0 ∧ nfld m 17 12 = 0 ∧ nfld m 23 18 < words)

/-- An override value (R99, R102). -/
def overrideOk (words o : Nat) : Bool := bitOf o 31 && decide (nfld o 30 21 = 0) && (!bitOf o 12 || decide (nfld o 11 0 < words))

/-- The checks of R102 on a whole domain. -/
def checkDomain (bs : List Byte) : Ans Unit :=
  let w := domWords bs
  if bs.length < 16 ∨ bs.length ≠ 16 + 12 * w + 4 * domMatches bs + 4 * domOverrides bs then .error abLength
  else if domAt bs 0 4 ≠ 0x504D5146 ∨ 12 < domAt bs 4 1 ∨ 64 < w ∨ 16 < domMatches bs ∨ 8 < domOverrides bs ∨ domAt bs 12 4 ≠ 0 ∨
      !(wordList bs).all (microOk w) ∨ !(matchList bs).all (matchOk w) ∨ !(overrideList bs).all (overrideOk w) ∨
      !((matchList bs).map fun m => nfld m 11 0).Nodup ∨ !((overrideList bs).map fun o => nfld o 20 13).Nodup then .error abRange
  else .ok ()

/-- The patch that a domain loads; one without words, matches and overrides removes the patch (R101, R105). -/
def domPatch (bs : List Byte) : Patch :=
  if domWords bs = 0 ∧ domMatches bs = 0 ∧ domOverrides bs = 0 then {}
  else { id := domAt bs 8 4, crc := crc32 bs, words := wordList bs, matchs := matchList bs, overrides := overrideList bs
         pars := (wordList bs).map microParity }

def setPatch (k : Nat) (v : Patch) (s : State) : State := { s with patches := mput {} s.patches k v }

/-! ### Keystone engines -/

/-- ENG_STATE of a keystone engine, 128 to 132 (R91): RESET, IDLE or RUN. DESIGN CHOICE: MGE runs while a request waits or a LOAD is in
progress, STE0 while upload bytes wait to be written, STE1 while the open stream has a backlog, DTE in training, retraining and
tests, VRE while messages wait (log 82). -/
def keystoneState (s : State) (k : Nat) : Nat :=
  let busy :=
    if k = 128 then !s.path0.requests.isEmpty || !(qget s 0x2000).words.isEmpty || decide (rn s .PKG_IMG_STATE = 1)
    else if k = 129 then decide (rn s .LNK_UPL_PENDING ≠ 0)
    else if k = 130 then !s.stream.backlog.isEmpty && decide (streamState s ≠ 0)
    else if k = 131 then decide (rn s .DRM_STATE = 1) || s.dram.bist.isSome || (List.range 8).any fun c => (dch s c).retrain.isSome
    else !s.vre.inbox.isEmpty
  if s.boot.phase = .served ∨ s.boot.phase = .fuseError then (if busy then 3 else 1) else 0

/-- A write of MCS_PATCH finds the engines of the kind idle (R103). -/
def kindIdle (s : State) (k : Nat) : Bool :=
  if k ≤ 7 ∨ k = 12 then !inRun s
  else if k = 8 then false
  else keystoneState s (120 + k) = 1

/-- A write of MCS_PATCH (R102, R103): the answer and the state after; a rejected domain counts. -/
def writePatch (bs : List Byte) (s : State) : Ans Unit × State :=
  match checkDomain bs with
  | .error c => (.error c, inc .MCS_REJECTS 0 s)
  | .ok _ =>
    let k := domAt bs 4 1
    if kindIdle s k then (.ok (), setPatch k (domPatch bs) (inc .MCS_LOADS 0 s)) else (.error abCannotWrite, s)

/-- A write of MCS_BOOT_PATCH of a kind (R104): stored for the next reset. -/
def writeBootPatch (k : Nat) (bs : List Byte) (s : State) : Ans Unit × State :=
  let store := { s with nvm := { s.nvm with patches := mput [] s.nvm.patches k bs } }
  if bs.isEmpty then (.ok (), store)
  else
    match checkDomain bs with
    | .error c => (.error c, inc .MCS_REJECTS 0 s)
    | .ok _ => if domAt bs 4 1 = k then (.ok (), store) else (.error abRange, inc .MCS_REJECTS 0 s)

/-- The boot patches are applied: kind 8 first, then the others in order (R104). -/
def applyBootPatches (s : State) : State :=
  (8 :: (List.range 13).filter fun k => decide (k ≠ 8)).foldl (fun t k =>
    let bs := mget [] t.nvm.patches k
    if bs.isEmpty then t
    else
      match checkDomain bs with
      | .error _ => inc .MCS_REJECTS 0 t
      | .ok _ => if domAt bs 4 1 = k then setPatch k (domPatch bs) t else inc .MCS_REJECTS 0 t) s

/-! ### Reads (R99, R105) -/

/-- MCS_STATE. -/
def patchState (s : State) (k : Nat) : Nat :=
  let v := patchOf s k
  if v.poisoned ∨ v.marks ≠ [] then 2 else if patched s k then 1 else 0

/-- MCS_DISP_ENTRY: the enabled override of the opcode, else the ROM's entry, the drop handler's for an opcode that R75 excludes
for the kind (R99). -/
def dispatchEntry (s : State) (sel : Nat) : Nat :=
  let k := nfld sel 11 8
  let op := nfld sel 7 0
  match overrideOf s k op with
  | some o => nfld o.1 12 0
  | none => (if excludedFor k op then Config.dropHandler k else Config.romDispatch k op).toNat

/-- The cell of a patch store that holds a byte: 12 bytes a patch word, then 4 bytes a match and an override register (R92). -/
def patchCell (byte : Nat) : Option Nat :=
  if byte < 768 then some (byte / 12) else if byte < 832 then some (64 + (byte - 768) / 4)
  else if byte < 864 then some (80 + (byte - 832) / 4) else none

/-- Bad bytes of an 8-byte word of an engine's patch store: their cells are marked, and the kind reads POISONED until a patch is
loaded again (R100). -/
def poisonPatch (k clu w bad : Nat) (s : State) : State :=
  let v := patchOf s k
  let cells := (List.range 8).filterMap fun i => if bitOf bad i then (patchCell (8 * w + i)).map (128 * clu + ·) else none
  setPatch k { v with marks := v.marks ++ cells.eraseDups.filter fun x => !v.marks.contains x } s

/-! ### Faults of keystone engines (R417) -/

/-- The patch of a kind is removed as by an empty domain, and its state keeps POISONED. -/
def dropPatch (k : Nat) (s : State) : State := setPatch k { poisoned := true } s

/-- STE0 restarts: upload bytes not yet written are lost. -/
def restartSte0 (s : State) : State := wr .LNK_UPL_PENDING 0 0 (flag .FLT_UPLOAD_LOST 0 (abandonQueue 0x2002 s))

/-- The words of a packet that ends early: END and PSN on its last word. -/
def cutPacket (ws : List QWord) : List QWord := ws.dropLast ++ (ws.getLast?.map fun w => { w with fin := true, psn := true }).toList

/-- The record that STE1 is writing into queue 0x1000 ends there with END and PSN on the last word written, and is written again from
its first word. -/
def rewriteRecord (s : State) : State :=
  let v := qget s 0x1000
  if v.owner ≠ some wSte1 then s
  else
    let n := v.words.length - v.openLen
    let begun := v.words.drop n
    qset 0x1000 { v with words := v.words.take n ++ cutPacket begun, owner := none, openLen := 0
                         waiting := begun.map (fun w => (wSte1, w, false)) ++ v.waiting } s

/-- STE1 restarts: the record in progress is sent again from its first word, in STREAM mode at its offsets. -/
def restartSte1 (s : State) : State :=
  let v := s.stream
  rewriteRecord { s with stream := { v with sent := 0, offset := (v.offset + 2 ^ 40 - v.sent) % 2 ^ 40 } }

/-- DTE restarts: training in progress begins again, and a test stops with its target zeroed. -/
def restartDte (s : State) : State :=
  let s := (List.range 8).foldl (fun t c =>
    if rn t .DRM_CH_STATE c = chTraining then setDch c { dch t c with step := 0 } t else t) s
  match s.dram.bist with
  | none => s
  | some v =>
    let s := wr .DRM_BIST_STATE 0 0 (setDram { s.dram with bist := none } s)
    if bistTarget v = 0 then zeroChannel (bistUnit v) s else if bistTarget v = 1 then zeroCluster (bistUnit v) s else s

/-- VRE restarts: the messages it held are gone. -/
def restartVre (s : State) : State := { s with vre := { s.vre with inbox := [] } }

end Sys2Proof.Machine
end

