-- ==== Sys2Proof/Machine/Nvm.lean ====
section
/-! DEFINITION. Persistence: the persistent set (R347), its records (R423), the banks (R421 to R424), the commit (R348, R349)
and the load at a reset. -/

namespace Sys2Proof.Machine

def setNvm (n : Nvm) (s : State) : State := { s with nvm := n }

/-! ### The persistent set (R347) -/

/-- Instances behind one index and sub-index: the tables or ports that a selector window shows (log 46). -/
def windows (r : Reg) : Nat := if r = .THM_COMP_PT then 13 else if r = .LNK_VP_ENABLE then 8 else 1

/-- The stored instance k behind a row's index `which` and a sub-index. -/
def windowInst (row : ObjRow) (i sub k : Nat) : Nat :=
  let n := row.subHi - row.subLo + 1
  (if row.sel.isSome then k else i) * n + (sub - row.subLo)

/-- The value bytes of an RWP object: of every instance behind a window, in order. -/
def persistBytes (s : State) (row : ObjRow) (i sub : Nat) : List Byte :=
  if row.ty.isBytes then mget [] s.nvm.patches (sub - row.subLo)
  else ((List.range (windows row.reg)).map fun k => encodeVal row.ty (rd s row.reg (windowInst row i sub k))).flatten

/-- An accepted write of an RWP object enters the persistent set. -/
def persist (row : ObjRow) (i sub : Nat) (s : State) : State :=
  if row.acc = .rwp then
    wr .NVM_DIRTY 1 0 (setNvm { s.nvm with set_ := mput [] s.nvm.set_ ((row.base + i * row.stride) * 256 + sub) (persistBytes s row i sub) } s)
  else s

/-! ### Records (R423) -/

def padTo8 (bs : List Byte) : List Byte := bs ++ List.replicate ((8 - bs.length % 8) % 8) 0

/-- The type code that a record of an index and sub-index carries. -/
def typeCode (idx sub : Nat) : Nat := match findObj idx sub with | .obj row _ => row.ty.code | _ => 0

/-- One record. -/
def recordBytes (k : Nat) (v : List Byte) : List Byte :=
  leBytes 2 (k / 256) ++ leBytes 1 k ++ leBytes 1 (typeCode (k / 256) (k % 256)) ++ leBytes 2 v.length ++ leBytes 2 0 ++ padTo8 v

/-- The records of a persistent set, in ascending order of index and sub-index. -/
def setBytes (m : SMap (List Byte)) : List Byte := (m.map fun e => recordBytes e.1 e.2).flatten

/-- NVM_SET_BYTES. -/
def setLength (m : SMap (List Byte)) : Nat := sumN (m.map fun e => 8 + (e.2.length + 7) / 8 * 8)

/-- The records of a bank: index, sub-index, type and value; k bounds their number. -/
def parseRecords : Nat → List Byte → List (Nat × Nat × Nat × List Byte)
  | 0, _ => []
  | k + 1, bs =>
    if bs.length < 8 then []
    else
      let n := domAt bs 4 2
      (domAt bs 0 2, domAt bs 2 1, domAt bs 3 1, (bs.drop 8).take n) :: parseRecords k (bs.drop (8 + (n + 7) / 8 * 8))

/-- A record of an RWP object with its type and values within its range takes effect; another is skipped (R423). -/
def loadRecord (r : Nat × Nat × Nat × List Byte) (s : State) : State :=
  let skip := inc .NVM_REC_SKIPPED 0 s
  let v := r.2.2.2
  match findObj r.1 r.2.1 with
  | .obj row i =>
    let enter (t : State) : State := setNvm { t.nvm with set_ := mput [] t.nvm.set_ (r.1 * 256 + r.2.1) v } t
    if row.acc ≠ .rwp ∨ row.ty.code ≠ r.2.2.1 then skip
    else if row.ty.isBytes then
      (if v.length ≤ 880 then enter (setNvm { s.nvm with patches := mput [] s.nvm.patches (r.2.1 - row.subLo) v } s) else skip)
    else
      let n := row.ty.size
      let at_ (k : Nat) : Int := decodeVal row.ty ((v.drop (k * n)).take n)
      let ks := List.range (windows row.reg)
      if v.length ≠ n * ks.length ∨ !ks.all (fun k => inRange row.ty row.rng (at_ k)) then skip
      else enter (ks.foldl (fun t k => wr row.reg (at_ k) (windowInst row i r.2.1 k) t) s)
  | _ => skip

/-! ### Banks (R422, R424) -/

/-- Bytes of a bank from an offset in it on (R421): the header sector begins with the header page, and the records stand from 0x1000 on. -/
def Bank.bytes (b : Bank) (off n : Nat) : List Byte :=
  ((if off < 0x1000 then b.header.drop off else b.records.drop (off - 0x1000))).take n

/-- A bank's header is right, apart from the life-cycle fields. -/
def headerOk (b : Bank) : Bool :=
  let n := domAt b.header 0x0C 4
  decide (b.header.length = 256 ∧ domAt b.header 0 4 = 0x564E5146 ∧ domAt b.header 4 2 = 1 ∧ n % 8 = 0 ∧ n ≤ 65536 ∧
    domAt b.header 0xFC 4 = crc32 (b.header.take 252))

/-- The records that a header announces are there with their CRC. -/
def recordsOk (b : Bank) : Bool :=
  let n := domAt b.header 0x0C 4
  decide (n ≤ b.records.length ∧ domAt b.header 0x10 4 = crc32 (b.bytes 0x1000 n))

def bankSeq (b : Bank) : Nat := domAt b.header 8 4

/-- NVM_BANK_A and NVM_BANK_B: 0 EMPTY, 1 VALID, 2 INVALID, 3 LCS_MISMATCH, against the fuse state. -/
def bankState (lcs slots : Nat) (b : Bank) : Nat :=
  if b.header.isEmpty ∧ b.records.isEmpty then 0
  else if !headerOk b then 2
  else if domAt b.header 6 1 ≠ lcs ∨ domAt b.header 7 1 ≠ slots then 3
  else if recordsOk b then 1 else 2

/-- SEQ a is the same as b or later, the difference modulo 2^32 being below 2^31. -/
def seqLater (a b : Nat) : Bool := decide ((a + 2 ^ 32 - b) % 2 ^ 32 < 2 ^ 31)

/-! ### Life-cycle fuses (R425, R426) -/

def slotCode (lcs i : Nat) : Nat := nfld lcs (4 * i + 3) (4 * i)
def codeState (c : Nat) : Option Nat := if c = 3 then some 1 else if c = 5 then some 2 else if c = 14 then some 3 else none
/-- LCS_STATE: the highest-numbered valid slot. -/
def lcsState (lcs : Nat) : Nat := ((List.range 8).filterMap fun i => codeState (slotCode lcs i)).getLast?.getD 0
def lcsUsed (lcs : Nat) : Nat := ((List.range 8).filter fun i => slotCode lcs i ≠ 0).length
def lcsBad (lcs : Nat) : Nat := ((List.range 8).filter fun i => slotCode lcs i ≠ 0 ∧ codeState (slotCode lcs i) = none).length
def lcsNow (s : State) : Nat := s.boot.fuses.lcs.toNat
/-- The part is RETIRED. -/
def retired (s : State) : Bool := lcsState (lcsNow s) = 3

/-! ### The load at a reset (R347, R424) -/

/-- The bank that becomes active: 0 none, 1 A, 2 B. -/
def activeBank (s : State) (a b : Nat) : Nat :=
  if a = 1 ∧ b = 1 then (if seqLater (bankSeq s.nvm.bankA) (bankSeq s.nvm.bankB) then 1 else 2)
  else if a = 1 then 1 else if b = 1 then 2 else 0

def bankOf (s : State) (n : Nat) : Bank := if n = 1 then s.nvm.bankA else if n = 2 then s.nvm.bankB else {}

/-- Bytes of the flash from an offset on, within one bank (R421): bank A at 0, bank B at 128 KB. -/
def flashBytes (s : State) (off n : Nat) : List Byte := (bankOf s (off / 0x20000 + 1)).bytes (off % 0x20000) n

/-- Both banks are judged, one with a life-cycle mismatch is erased, and the persistent set of the active bank is loaded. -/
def loadPersistent (s : State) : State :=
  let st := lcsState (lcsNow s)
  let used := lcsUsed (lcsNow s)
  let a := bankState st used s.nvm.bankA
  let b := bankState st used s.nvm.bankB
  let n := activeBank s a b
  let bank := bankOf s n
  let s := wr .NVM_BANK_B b 0 (wr .NVM_BANK_A a 0 s)
  let s := setNvm { s.nvm with bankA := if a = 3 then {} else s.nvm.bankA, bankB := if b = 3 then {} else s.nvm.bankB, erased := false } s
  if n = 0 then s
  else
    let s := wr .NVM_ACTIVE_SEQ (bankSeq bank) 0 (wr .NVM_ACTIVE_BANK n 0 s)
    (parseRecords 8192 (flashBytes s (0x20000 * (n - 1) + 0x1000) (domAt bank.header 0x0C 4))).foldl (fun t r => loadRecord r t) s

/-! ### The commit (R348, R349) -/

def commitState (s : State) : Nat := rn s .NVM_COMMIT_STATE

/-- The bank a commit writes: B while A is active, else A. DESIGN CHOICE: A with no active bank (log 48). -/
def commitsToB (s : State) : Bool := rn s .NVM_ACTIVE_BANK = 1

def inactive (s : State) : Bank := if commitsToB s then s.nvm.bankB else s.nvm.bankA
def setInactive (b : Bank) (s : State) : State :=
  setNvm (if commitsToB s then { s.nvm with bankB := b } else { s.nvm with bankA := b }) s

/-- The commit ends FAILED. -/
def commitFail (s : State) : State :=
  wr .NVM_DIRTY 1 0 (inc .NVM_COMMIT_FAILS 0 (wr .NVM_COMMIT_STATE 4 0 (setNvm { s.nvm with buffer := [] } s)))

/-- A value of the persistent set is marked poisoned (R419). -/
def setPoisoned (s : State) : Bool :=
  s.nvm.set_.any fun e =>
    match findObj (e.1 / 256) (e.1 % 256) with
    | .obj row i => (List.range (windows row.reg)).any fun k => s.nvm.poisoned.contains (key row.reg (windowInst row i (e.1 % 256) k))
    | _ => false

/-- COMMIT written to NVM_CTRL. -/
def startCommit (s : State) : Ans State :=
  if commitState s = 1 ∨ commitState s = 2 then .error abCannotWrite
  else
    let s := wr .NVM_COMMIT_PAGES 0 0 (wr .NVM_DIRTY 0 0 (setNvm { s.nvm with buffer := setBytes s.nvm.set_ } s))
    .ok (if setPoisoned s then commitFail s else wr .NVM_COMMIT_STATE (if s.nvm.erased then 2 else 1) 0 s)

/-- NVM_ERASE_DONE (R348, R424): the non-active bank is erased, with no active bank both; a commit that waited for it goes on. -/
def execNvmEraseDone (s : State) : Out :=
  if s.boot.phase ≠ .served ∨ s.nvm.erased ∨ commitState s = 2 ∨ s.boot.lcsConf.isSome then .next s
  else
    let s := setInactive {} s
    let s := setNvm { s.nvm with bankB := if rn s .NVM_ACTIVE_BANK = 0 then {} else s.nvm.bankB, erased := true } s
    .next (if commitState s = 1 then wr .NVM_COMMIT_STATE 2 0 s else s)

/-- The header page of the commit in progress (R422). -/
def headerPage (s : State) : List Byte :=
  let recs := s.nvm.buffer
  let h := leBytes 4 0x564E5146 ++ leBytes 2 1 ++ leBytes 1 (lcsState (lcsNow s)) ++ leBytes 1 (lcsUsed (lcsNow s)) ++
    leBytes 4 ((rn s .NVM_ACTIVE_SEQ + 1) % 2 ^ 32) ++ leBytes 4 recs.length ++ leBytes 4 (crc32 recs) ++ List.replicate 232 0
  h ++ leBytes 4 (crc32 h)

/-- The bank just written becomes active. -/
def commitDone (s : State) : State :=
  let n := if commitsToB s then 2 else 1
  let s := wr .NVM_ACTIVE_SEQ ((rn s .NVM_ACTIVE_SEQ + 1) % 2 ^ 32 : Nat) 0 (wr .NVM_ACTIVE_BANK n 0 s)
  inc .NVM_COMMITS 0 (wr .NVM_COMMIT_STATE 3 0 (setNvm { s.nvm with erased := false, buffer := [] } s))

/-- PAGE_PROGRAM_DONE (R348, R349, R406): a page is programmed and read back, or not. DEDUCED: a flash that does not answer while a commit
waits for its erase ends the commit in the same way (log 48). -/
def execPageProgramDone (ok : Bool) (s : State) : Out :=
  if commitState s = 1 ∧ !ok then .next (commitFail s)
  else if commitState s ≠ 2 then .next s
  else if !ok then .next (commitFail (setNvm { s.nvm with erased := false } s))
  else
    let b := inactive s
    let done := rn s .NVM_COMMIT_PAGES
    let stop := decide (rn s .THM_STATE = 1)
    let s := setNvm { s.nvm with erased := false } s
    if 256 * done < s.nvm.buffer.length then
      let page := (s.nvm.buffer.drop (256 * done)).take 256
      let s := inc .NVM_COMMIT_PAGES 0 (setInactive { b with records := b.records ++ page } s)
      .next (if stop then commitFail s else s)
    else
      let s := setInactive { b with header := headerPage s } s
      .next (if stop then commitFail s else commitDone s)

end Sys2Proof.Machine
end

