-- ==== Sys2Proof/Machine/Life.lean ====
section
/-! DEFINITION. The end of a shutdown and RESUME (R406, R407), scrub (R419), and the life cycle (R425 to R427). -/

namespace Sys2Proof.Machine

/-! ### Shutdown and RESUME (R406, R407) -/

/-- SHUTDOWN_COMPLETE: steps 5 and 6, after the page program in progress and at the latest 3 ms after t_trip. -/
def execShutdownComplete (s : State) : Out :=
  if !shutdownDue s 3 10 ∨ (commitState s = 2 ∧ !shutdownDue s 3 3000) then .next s
  else
    let s := if commitState s = 1 ∨ commitState s = 2 then commitFail s else s
    let s := (4 :: span 9 6).foldl (fun t m => suspend m t) s
    let s := toFio (wr .THM_STATE 2 0 (setCool { s.cool with stage := 4, tripAt := none } s))
    let s := (listed s).foldl (fun t c =>
      let st := rn t .DRM_CH_STATE c
      if st = chReady ∨ st = chTraining then wr .DRM_CH_STATE chSelfref c (setDch c { dch t c with retrain := none } t) else t) s
    .next (settleLanes s)

/-- RESUME written to THM_CTRL (R407): the loops restart, and the channels that kept their contents retrain. -/
def resume (s : State) : Ans State :=
  if rn s .THM_STATE ≠ 2 ∨ (List.range 8).any (fun g => bitOf (rn s .THM_TRIPPED g) 2) then .error abCannotWrite
  else
    let s := (span 4 11).foldl (fun t m => wr .CLK_MON_STATE 0 m (setClk { t.clk with mons := mput {} t.clk.mons m {} } t)) s
    let s := wr .THM_STATE 0 0 (setCool { s.cool with stage := 0 } s)
    let s := if rn s .DRM_STATE = 2 then pauseWipe s else s
    let s := (List.range 8).foldl (fun t c => 
      if rn t .DRM_CH_STATE c = chSelfref ∧ !bitOf t.clk.gated c then trainChannel c t else t) s
    let s := if rn s .DRM_STATE = 0 then s else settleTraining (wr .DRM_STATE 1 0 s)
    .ok (settleLanes s)

/-! ### Scrub (R419, R250, R121, R135) -/

/-- Scrub units that exist. -/
def unitOk (u : Nat) : Bool := u ≤ 4 ∨ (16 ≤ u ∧ u < 32)

/-- The bit of a quiet window's SCOPE that a unit needs (R67). -/
def unitScope (u : Nat) : Nat := if u < 16 then 8 else cluRgn (u - 16)

/-- A bad byte in word `w` of the n-th allocated cell of the pool, cells counted by queue and then in order: every used data
word of the cell gets PSN; in word 7, the link word, a failing copy is mended from the other, and where both fail, as the shared byte 2
makes them, the link stays failed (R250, R248). -/
def scrubPool (bad : Nat) : List (Nat × Queue) → Nat → Nat → State → State
  | [], _, _, s => s
  | e :: es, n, w, s =>
    let q := qget s e.1
    let k := qcells q
    if k ≤ n then scrubPool bad es (n - k) w s
    else if w = 7 then
      if [0, 1, 2].any (bitOf bad) ∧ [2, 3, 4].any (bitOf bad) ∧ !q.dead.contains (q.first + n) then
        qset e.1 { q with dead := q.dead ++ [q.first + n] } s
      else s
    else
      let ws := (List.range q.words.length).map fun i =>
        let x := nthD q.words i { data := 0 }
        if (q.head + i) / 7 = n then { x with psn := true } else x
      inc .QUE_POOL_POISONED 0 (qset e.1 { q with words := ws } s)

/-- Word k of an engine's schedule-cache area is stored with PSN. -/
def scrubArea (e k : Nat) (s : State) : State :=
  let a := aget s e
  match a.words[k]? with
  | some w => aset e { a with words := setAt a.words k (w.1, true) } s
  | none => s

/-- The record that holds word k of a list of records. -/
def recordAt : List (List Word) → Nat → Option Nat
  | [], _ => none
  | r :: rs, k => if k < r.length then some 0 else (recordAt rs (k - r.length)).map (· + 1)

/-- Word k of the record sets, by shot, and after them of the backlog. -/
def scrubStaging : List (Nat × RecSet) → Nat → State → State
  | [], k, s =>
    match recordAt s.stream.backlog k with
    | none => s
    | some i =>
      let r := nthD s.stream.backlog i []
      let t := { s.stream with backlog := s.stream.backlog.eraseIdx i, sent := if i = 0 then 0 else s.stream.sent }
      loseLoose (decide (recType r = 3)) { s with stream := t }
  | e :: es, k, s =>
    match recordAt e.2.recs k with
    | none => scrubStaging es (k - recWords e.2.recs) s
    | some i =>
      if e.2.closed then rsset e.1 { e.2 with recs := e.2.recs.eraseIdx i, refused := e.2.refused + 1 } s
      else
        let r := nthD e.2.recs i []
        let src := fld (nthD r 0 0) 43 32
        let clu := if recType r = 2 ∧ fld (nthD r 2 0) 63 62 = 1 then src else src / 64
        voidNum 3 (1408 + clu % 16) e.1 s

/-- A bad sample word: every descriptor whose range contains it is poisoned (R121). -/
def scrubSample (c a : Nat) (s : State) : State :=
  let k := memKey c a
  let s := if s.segBad.contains k then s else { s with segBad := k :: s.segBad }
  s.segs.foldl (fun t e =>
    if e.1 / 4096 = c ∧ e.2.start ≤ a ∧ a < e.2.start + e.2.len then
      inc .CLU_SEG_POISONED c (sset c (e.1 % 4096) { e.2 with poison := true, ready := false } t)
    else t) s

/-- Bits of a step's word that fail parity in its bytes lo to lo + n - 1. -/
def badIn (bad lo n : Nat) : Bool := (span lo n).any (bitOf bad)

/-- A bad word of a cluster: segment, kernel and table memory, then control stores, verdict board and taps (log 47). -/
def scrubCluster (c a bad : Nat) (s : State) : State :=
  if a < 2 ^ 18 then
    let s := if badIn bad 0 4 then scrubSample c (2 * a) s else s
    if badIn bad 4 4 then scrubSample c (2 * a + 1) s else s
  else if a < 2 ^ 18 + 2 ^ 16 then
    let k := c * 2 ^ 17 + 2 * (a - 2 ^ 18)
    let add (x : Nat) (on : Bool) (t : State) : State := if on ∧ !t.krnBad.contains x then { t with krnBad := x :: t.krnBad } else t
    add (k + 1) (badIn bad 4 4) (add k (badIn bad 0 4) s)
  else if a < 2 ^ 18 + 2 ^ 16 + 2 ^ 15 then
    let k := c * 2 ^ 18 + 8 * (a - 2 ^ 18 - 2 ^ 16)
    (List.range 8).foldl (fun t i =>
      if bitOf bad i ∧ !t.tabBad.contains (k + i) then { t with tabBad := (k + i) :: t.tabBad } else t) s
  else
    let b := a - 2 ^ 18 - 2 ^ 16 - 2 ^ 15
    if b < 1024 then poisonPatch (b / 128) c (b % 128) bad s
    else if b < 1024 + 2048 then
      let k := cluDie c * 2048 + (b - 1024)
      bcset k { bcget s k with cur := none } s
    else if b < 1024 + 2048 + 32 then
      let n := 4 * c + (b - 3072) / 8
      let k := n * 8 + (b - 3072) % 8
      let s := if s.tapBad.contains k then s else { s with tapBad := k :: s.tapBad }
      voidNow 11 (64 * (n / 4) + 8 * (n % 4)) (inc .DRV_TAP_POISON n s)
    else s

/-- What a bad word means in its unit. -/
def scrubMark (u a bad : Nat) (s : State) : State :=
  if u = 0 then scrubPool bad s.queues (a / 8) (a % 8) s
  else if u = 1 then scrubArea (a / 8192) (a % 8192) s
  else if u = 2 then scrubStaging s.sets a s
  else if u = 3 then (if s.nvm.poisoned.contains a then s else setNvm { s.nvm with poisoned := a :: s.nvm.poisoned } s)
  else if u = 4 then (if a / 128 < 5 then poisonPatch (8 + a / 128) 0 (a % 128) bad s else s)
  else scrubCluster (u - 16) a bad s

/-- SCRUB_STEP (R419): one 8-byte word of a unit is read. Bits 0 to 7 of `bad` are its bytes that fail parity; bit 8: the step
ends a pass of the unit. -/
def execScrubStep (u : Fin 32) (addr : Nat) (bad : BitVec 9) (s : State) : Out :=
  let n := u.val
  if !unitOk n ∨ !quietFor s (unitScope n) 1 ∨ s.boot.phase = .held then .next s
  else
    let b := bad.toNat % 256
    let s := if b = 0 then s
      else
        let s := incBy .FLT_SCRUB_FOUND (popcount 8 b) n (scrubMark n addr b s)
        (List.range (popcount 8 b)).foldl (fun t _ => logFault clsScrub 0 n t.tml t) s
    .next (if bitOf bad.toNat 8 then inc .FLT_SCRUB_PASSES n { s with scrubAt := mput 0 s.scrubAt n s.elapsed } else s)

/-- FLT_SCRUB_AGE in ms. -/
def scrubAge (s : State) (u : Nat) : Nat := satN 0xFFFFFFFF (msSince s (mget 0 s.scrubAt u))

/-- SCRUB_STALE (R419). -/
def execScrubStale (u : Fin 32) (s : State) : Out :=
  if unitOk u.val ∧ rn s .FLT_SCRUB_LIMIT < scrubAge s u.val then .next (flag .FLT_SCRUB_STALE u.val s) else .next s

/-! ### Life cycle (R425 to R427) -/

/-- Targets that a state and its slots allow. -/
def lcsTargetOk (lcs v : Nat) : Bool :=
  let st := lcsState lcs
  let used := lcsUsed lcs
  (if st = 0 then decide (v = 1 ∨ v = 3) else if st = 1 then decide (v = 2 ∨ v = 3) else if st = 2 then decide (v = 1 ∨ v = 3) else false) &&
    decide (used < 7 ∨ (used = 7 ∧ v = 3))

/-- States in which a request or a confirmation is rejected. -/
def lcsBusy (s : State) : Bool := inRun s || decide (commitState s = 2)

/-- A write of LCS_REQ. -/
def writeLcsReq (v : Nat) (s : State) : Ans State :=
  if retired s then .error abCannotWrite
  else if v ≠ 0 ∧ !lcsTargetOk (lcsNow s) v then .error abRange
  else if lcsBusy s then .error abCannotWrite
  else if v = 0 then .ok (wr .LCS_REQ 0 0 s)
  else .ok (wr .LCS_RESULT 1 0 (wr .LCS_REQ v 0 { s with boot := { s.boot with lcsArmed := some (v, s.elapsed) } }))

def secT : Nat := 1000 * msT

/-- A write of LCS_CONFIRM. -/
def writeLcsConfirm (v : Nat) (s : State) : Ans State :=
  if v ≠ 0 ∧ !lcsTargetOk (lcsNow s) v then .error abRange
  else
    match s.boot.lcsArmed with
    | some (w, t) =>
      if lcsBusy s ∨ w ≠ v ∨ t + secT ≤ s.elapsed then .error abCannotWrite
      else .ok { s with boot := { s.boot with lcsArmed := none, lcsConf := some (v, s.elapsed) } }
    | none => .error abCannotWrite

/-- LCS_REQ_EXPIRE: 1 s without a confirmation. -/
def execLcsReqExpire (s : State) : Out :=
  match s.boot.lcsArmed with
  | some (_, t) =>
    if t + secT ≤ s.elapsed then .next (wr .LCS_RESULT 4 0 { s with boot := { s.boot with lcsArmed := none } }) else .next s
  | none => .next s

/-- The slot code of a target (R426). -/
def targetCode (v : Nat) : Nat := if v = 1 then 3 else if v = 2 then 5 else 14

/-- All outputs enter their power-up state (R427, R435). -/
def silenceAll (s : State) : State :=
  let s := (List.range 16).foldl (fun t c => lowMarker c (muteCluster c 1 true (muteCluster c 0 true t))) s
  { s with biases := [], boot := { s.boot with silent := true } }

end Sys2Proof.Machine
end

