-- ==== Sys2Proof/Machine/Boot.lean ====
section
/-! DEFINITION. Resets and the start-up sequence (R410, R428 to R437), and the burn of a life-cycle slot (R427). -/

namespace Sys2Proof.Machine

/-! ### Resets (R428 to R432) -/

/-- Ticks for which t_power_good waits after a reset of a cause begins: a supply must be in range for 1 ms (R410, R428), a dictionary or
life-cycle reset takes 10 µs (R429). A pin reset adds nothing to what a supply still has to wait. -/
def resetWait (cause : Nat) (s : State) : Nat :=
  let left := if s.boot.phase = .held then s.boot.wait - s.elapsed else 0
  if cause = 3 ∨ cause = 4 then 10 * usT else if cause = 2 then left else msT

/-- PKG_RESET_CAUSE of a reset that begins (R429): the first t_power_good after all rails were absent is that of POWER_ON, whatever
happens before it. -/
def resetCause (cause : Nat) (s : State) : Nat :=
  if s.boot.phase = .held ∧ rn s .PKG_RESET_CAUSE = 0 then 0 else cause

/-- The package is in reset for a cause (R429): everything returns to its state after reset but the NVM banks, the fuses, and
what the model itself keeps: the commands that wait and the counter behind the free values. -/
def holdReset (cause : Nat) (lcs : Bool) (s : State) : State :=
  wr .PKG_RESET_CAUSE (resetCause cause s) 0
    { State.reset with
      pending := s.pending
      free := s.free
      nvm := { bankA := s.nvm.bankA, bankB := s.nvm.bankB }
      boot := { phase := .held, wait := resetWait cause s, fuses := s.boot.fuses, lcsReset := lcs } }

/-- SUPPLY_LOSS (R410). -/
def execSupplyLoss (s : State) : Out := .next (holdReset 1 s.boot.lcsReset s)

/-- RESET_N_ASSERT (R430): a low pulse of `ns`; between 100 ns and 1 µs its effect is undefined. -/
def execResetNAssert (ns : Nat) (s : State) : Out :=
  if ns < 100 then .next s else if 1000 ≤ ns then .next (holdReset 2 s.boot.lcsReset s) else .fault .undefinedResetPulse

/-- POWER_GOOD (R428, R433 step 1, R436): the straps are sampled. -/
def execPowerGood (stdly : Fin 8) (node : Fin 128) (s : State) : Out :=
  if s.boot.phase ≠ .held ∨ s.elapsed < s.boot.wait then .next s
  else
    let s := { s with boot := { s.boot with phase := .step1, goodAt := s.elapsed } }
    .next (wr .CLK_STDLY stdly.val 0 (wr .PKG_STRAPS (stdly.val * 128 + node.val : Nat) 0 s))

/-- A write of PKG_RESET (R431): the reset follows the first response; a second write before it moves nothing. -/
def writeReset (v : Nat) (s : State) : Ans State :=
  if v ≠ 0x00A5 then .error abRange
  else if rn s .THM_STATE ≠ 0 ∧ (List.range 8).any (fun g => bitOf (rn s .THM_TRIPPED g) 2) then .error abCannotWrite
  else .ok { s with boot := { s.boot with resetReq := some (s.boot.resetReq.getD s.elapsed) } }

/-- DICTIONARY_RESET_BEGIN (R431). -/
def execDictionaryResetBegin (s : State) : Out :=
  match s.boot.resetReq with
  | some t => if t + 200 * usT ≤ s.elapsed then .next (holdReset 3 s.boot.lcsReset s) else .next s
  | none => .next s

/-! ### Start-up (R433) -/

/-- Node ID from the straps, 0 when they select NVM (R350). -/
def strapNode (s : State) : Nat := let n := rn s .PKG_STRAPS % 128; if n = 127 then 0 else n

/-- The node ID of R350. `nvm`: the active bank held a usable record of LNK_CAN_NODE_NVM. -/
def setNode (nvm : Bool) (s : State) : State :=
  let n := strapNode s
  if n ≠ 0 then wr .LNK_CAN_NODE_SRC 0 0 (wr .LNK_CAN_NODE n 0 s)
  else if nvm then wr .LNK_CAN_NODE_SRC 1 0 (wr .LNK_CAN_NODE (rn s .LNK_CAN_NODE_NVM) 0 s)
  else wr .LNK_CAN_NODE_SRC 2 0 (wr .LNK_CAN_NODE 126 0 s)

/-- The slots that a reading of the fuse array gives (R426, R427). DEDUCED: a burnt bit stays burnt, so that a reading holds every bit that
an earlier reading or burn left (log 49). -/
def slotsRead (f : FuseImage) (s : State) : BitVec 32 := f.lcs ||| s.boot.fuses.lcs

/-- The factory values from fuses: MAU factors (R392) and compensation points (R408). -/
def applyFuses (f : FuseImage) (s : State) : State :=
  let s := wr .PKG_SERIAL f.serial.toNat 0 { s with boot := { s.boot with fuses := { f with lcs := slotsRead f s } } }
  let s := (List.range 11).foldl (fun t u => setFactors u ((f.monOfs.drop (8 * u)).take 8) ((f.monGain.drop (8 * u)).take 8) t) s
  let s := (List.range 117).foldl (fun t k => wr .THM_COMP_PT (wrapS 16 (nthD f.comp k 0)) k t) s
  initTrims s

/-- FUSE_READ (R410, R433 step 2): two readings of the fuse array and its parity. A retired part holds its outputs. -/
def execFuseRead (a b : FuseImage) (parityOk : Bool) (s : State) : Out :=
  if s.boot.phase ≠ .step1 then .next s
  else if a = b ∧ parityOk then
    let s := applyFuses a s
    .next (milestone 1 { s with boot := { s.boot with phase := .fuses, silent := retired s } })
  else
    let s := logFault clsFuse 0 0 s.tml (wr .FLT_FUSE_ERROR 1 0 s)
    .next (setNode false { s with boot := { s.boot with phase := .fuseError, silent := true
                                                        fuses := { serial := 0, lcs := slotsRead a s, comp := [], monOfs := [], monGain := [] } } })

/-- MEMORY_WIPE_DONE (R433 step 3). -/
def execMemoryWipeDone (s : State) : Out :=
  if s.boot.phase = .fuses then .next (milestone 2 { s with boot := { s.boot with phase := .wiped } }) else .next s

/-- NVM_BOOT_READ (R421, R433 step 4): the flash answers with an SFDP table that lists 4 KB erase and 256-byte program, and its density in
Mbit, or it does not. -/
def execNvmBootRead (answers : Bool) (mbit : BitVec 16) (s : State) : Out :=
  if s.boot.phase ≠ .wiped then .next s
  else
    let s := if answers then loadPersistent (wr .NVM_FLASH_SIZE mbit.toNat 0 s) else s
    let s := applyBootPatches s
    let s := (List.range 128).foldl (fun t e => eset e { eget t e with state := .idle } t) s
    let s := setNode (s.nvm.set_.any fun e => decide (e.1 = 0x110000)) s
    let s := setClk { s.clk with trefSel := rn s .CLK_TREF_SEL, xtbDelay := rn s .CLK_XTB_DELAY } { s with boot := { s.boot with phase := .served } }
    .next (milestone 3 (bootMet 0 (settleLanes (setStep 0 s))))

/-! ### Life cycle (R427) -/

/-- LCS_BURN (R427 steps 2 and 3): 1 ms after the confirmation the outputs go to their power-up state, the next slot is burnt
and read back; a burn sets no bit outside the target's code. -/
def execLcsBurn (readBack : BitVec 4) (s : State) : Out :=
  match s.boot.lcsConf with
  | none => .next s
  | some (v, t) =>
    let code := targetCode v
    let r := readBack.toNat
    if s.elapsed < t + msT ∨ r ||| code ≠ code then .next s
    else
      let s := silenceAll s
      let lcs := lcsNow s + r * 2 ^ (4 * lcsUsed (lcsNow s))
      let s := { s with boot := { s.boot with lcsConf := none, fuses := { s.boot.fuses with lcs := BitVec.ofNat 32 lcs } } }
      if r = code then .next (holdReset 4 true s) else .next (wr .LCS_RESULT 3 0 s)

end Sys2Proof.Machine
end

