-- ==== Sys2Proof/Machine/Delivery.lean ====
section
/-! DEFINITION. What a consumer does with a truss event (R272, R276, R199, R206, R281, R385), and the fire of a timer with the
units it starts (R279, R385). -/

namespace Sys2Proof.Machine

/-- A consumer acts on an event (R276). -/
def taken (d : Delivery) (s : State) : State :=
  let s := inc .EVT_CON_TAKEN d.con s
  if d.merged then inc .EVT_CON_COINC d.con s else s

/-- An event reaches a busy consumer (R276). -/
def refused (d : Delivery) (s : State) : State := inc .EVT_CON_OVR_COUNT d.con (flag .EVT_CON_OVR d.con s)

/-- A wait input (R81, R272): before the run's first WAITEVT it has no channel, and an event still on its way is neither delivered
nor counted. -/
def deliverEngine (d : Delivery) (s : State) : State :=
  let v := eget s d.con
  if v.waitCh.isNone then s
  else if v.state = .waitEvent ∧ v.waitCh = some d.chan then taken d (eset d.con { v with state := .run, micro := { v.micro with event := true } } s) else refused d s

/-- The start of a MAU (R385); a gated unit takes nothing (R377). -/
def deliverMau (d : Delivery) (s : State) : State :=
  let u := d.con - 0x80
  if mauGated s u then s
  else
    let r := mauStart u s
    if r.1 then taken d r.2 else refused d r.2

/-- The trigger arm (R199): a MEMBER takes no part. -/
def deliverArm (d : Delivery) (s : State) : State :=
  if rn s .TRG_ROLE = roleMember then s
  else match armEvent s with
    | some t => taken d t
    | none => refused d s

/-- A capture start (R206): at the first even grain at least 32 grains after the delivery grain. -/
def deliverCapture (d : Delivery) (s : State) : State :=
  let c := d.con - 0xA0
  let v := trget s c
  if !inRun s ∨ traceBusy v s.tml ∨ v.capAt.isSome then inc .TRG_CAPBUSY c (refused d s)
  else
    let g := s.tml + 32
    taken d (trset c { v with capAt := some (g + g % 2, word (rn s .TRG_CAPOP c)) } s)

/-- A marker's truss pulse (R281): from the first grain after the delivery grain. -/
def deliverMarker (d : Delivery) (s : State) : State :=
  let c := d.con - 0xB0
  taken d (mkset c { mkget s c with start := some (s.tml + 1, d.width) } s)

/-- EVENT_DELIVERY (R274, R276): the oldest event on its way to a consumer. An event for a halted engine waits (R240). -/
def execEventDelivery (con : Fin 192) (s : State) : Out :=
  match s.deliveries.find? fun d => decide (d.con = con.val) with
  | none => .next s
  | some d =>
    if d.con < 0x80 ∧ (eget s d.con).state = .halt then .next s
    else
      let s := { s with deliveries := dropFirst (fun x => decide (x.con = con.val)) s.deliveries }
      if d.con < 0x80 then .next (deliverEngine d s)
      else if d.con < 0x8B then .next (deliverMau d s)
      else if d.con = 0x90 then .next (deliverArm d s)
      else if 0xA0 ≤ d.con ∧ d.con < 0xB0 then .next (deliverCapture d s)
      else if 0xB0 ≤ d.con then .next (deliverMarker d s)
      else .next s

/-- The units whose MON_START names a timer (R385). -/
def timedUnits (s : State) (n : Nat) : List Nat :=
  (List.range 11).filter fun u => decide (nfld (rn s .MON_START u) 31 30 = 1 ∧ rn s .MON_START u % 256 = n) && !mauGated s u

/-- TIMER_FIRE (R279): the fire whose grain has come. -/
def execTimerFire (n : Fin 32) (s : State) : Out :=
  match (tget s n.val).next with
  | some g => if s.tmlOn ∧ g ≤ s.tml then .next ((timedUnits s n.val).foldl (fun t u => (mauStart u t).2) (timerFire n.val g s)) else .next s
  | none => .next s

end Sys2Proof.Machine
end

