-- ==== Sys2Proof/Machine/Queues.lean ====
section
/-! DEFINITION. The pool-queue commands of the package's own agents, and what host software may do with the selected queue
(R257 to R263). -/

namespace Sys2Proof.Machine

/-- Queues that the package's own agents use (R70, R218, R263, R317, R327): of an engine's schedule queues queue 0 alone, five of
the host link, one for each viaduct port, and the logs. -/
def agentQueue (q : Nat) : Bool :=
  (q < 0x1000 ∧ q % 32 = 0) ∨ q = 0x1000 ∨ (0x2000 ≤ q ∧ q ≤ 0x2004) ∨ (0x2800 ≤ q ∧ q ≤ 0x2807) ∨ (0x3000 ≤ q ∧ q < 0x4000)

/-- A word to be stored: bit 0 of `tags` is END, bit 1 PSN (R245). -/
def taggedWord (w : Word) (tags : BitVec 2) (bad : Bool) : QWord :=
  { data := w, fin := tags.getLsbD 0, psn := tags.getLsbD 1, bad := bad }

/-- QUEUE_WRITE (R257): one word from a keystone engine or the link layer. `bad`: a byte of it fails its parity as stored. -/
def execQueueWrite (q : Fin 32768) (writer : Nat) (w : Word) (tags : BitVec 2) (bad : Bool) (s : State) : Out :=
  if agentQueue q.val then .next (writeWord q.val writer (taggedWord w tags bad) s) else .next s

/-- WAITING_WRITE_RESUME (R256). -/
def execWaitingWriteResume (q : Fin 32768) (s : State) : Out := .next (resumeWrite q.val s)

/-- What a READ or DROP hands to the agent that asked. -/
def answerTo (q : Nat) (r : ReadWord) (s : State) : State := qset q { qget s q with answer := some r } s

/-- QUEUE_READ (R257). -/
def execQueueRead (q : Fin 32768) (bad brokenLink : Bool) (s : State) : Out :=
  if agentQueue q.val then
    let r := readWord q.val bad brokenLink s
    .next (answerTo q.val r.1 r.2)
  else .next s

/-- QUEUE_DROP (R257): a DROP that finds nothing answers NV. -/
def execQueueDrop (q : Fin 32768) (s : State) : Out :=
  if agentQueue q.val then
    let r := dropPacket q.val s
    .next (answerTo q.val ⟨0, false, !r.1, false⟩ r.2)
  else .next s

/-- QUEUE_FLUSH (R258). -/
def execQueueFlush (q : Fin 32768) (s : State) : Out := if agentQueue q.val then .next (flushQueue q.val s) else .next s

/-- Host software may READ and DROP a queue (R263). -/
def hostReads (q : Nat) : Bool := (0x1000 ≤ q ∧ q ≤ 0x1FFF) ∨ (0x3000 ≤ q ∧ q ≤ 0x7FFF)

/-- Host software may write a queue (R263). -/
def hostWrites (q : Nat) : Bool := (0x1001 ≤ q ∧ q ≤ 0x1FFF) ∨ (0x4000 ≤ q ∧ q ≤ 0x7FFF)

/-- Host software may flush a queue (R263). -/
def hostFlushes (s : State) (q : Nat) : Bool :=
  if q ≤ 0x0FFF then !inRun s else hostReads q

/-- The 9-byte entry of a word read (R260, QUE_POP). -/
def entryBytes (r : ReadWord) : List Byte :=
  leBytes 8 r.data.toNat ++ [BitVec.ofNat 8 (b2n r.fin + 2 * b2n r.nv + 4 * b2n r.psn)]

/-- The words of a QUE_PUSH domain (R260): none when a reserved tag bit is set. -/
def pushWords : Nat → List Byte → Option (List QWord)
  | 0, _ => some []
  | n + 1, bs =>
    let tag := leVal ((bs.drop 8).take 1)
    if tag / 2 ≠ 0 then none
    else (pushWords n (bs.drop 9)).map ({ data := word (leVal (bs.take 8)), fin := decide (tag = 1) } :: ·)

/-- Longest packet of a word list. -/
def longestPacket : List QWord → Nat → Nat
  | [], n => n
  | w :: ws, n => if w.fin then max (n + 1) (longestPacket ws 0) else longestPacket ws (n + 1)

/-- QUE_PUSH (R260): the checks in the order of R345, then one step per word. -/
def pushQueue (q : Nat) (bs : List Byte) (s : State) : Ans State :=
  if bs.length = 0 ∨ bs.length % 9 ≠ 0 then .error abLength
  else
    match pushWords (bs.length / 9) bs with
    | none => .error abRange
    | some ws =>
      if (ws.getLast?.map (·.fin)) ≠ some true ∨ 65535 < longestPacket ws 0 then .error abRange
      else if !hostWrites q ∨ !qroom s q ws.length then .error abCannotWrite
      else .ok (appendPacket q 0 ws s)

/-- QUE_POP (R257, R263): nine bytes. -/
def popQueue (q : Nat) (s : State) : Ans (List Byte × State) :=
  if !hostReads q then .error abCannotRead
  else let r := readWord q false false s; .ok (entryBytes r.1, r.2)

/-- Read words until END or NV. -/
def readPacket (q : Nat) : Nat → State → List ReadWord × State
  | 0, s => ([], s)
  | n + 1, s =>
    let r := readWord q false false s
    if r.1.fin ∨ r.1.nv then ([r.1], r.2)
    else let t := readPacket q n r.2; (r.1 :: t.1, t.2)

/-- QUE_PKT (R251, R263): the rest of the current packet or the next whole one; PSN on every word if any carries it. -/
def pktQueue (q : Nat) (s : State) : Ans (List Byte × State) :=
  if !hostReads q then .error abCannotRead
  else
    let r := readPacket q ((qget s q).words.length + 1) s
    if r.1.any (·.psn) then
      let marked := (r.1.filter (fun w => !w.psn)).length
      .ok ((r.1.map fun w => entryBytes { w with psn := true }).flatten, incBy .QUE_POISON marked q r.2)
    else .ok ((r.1.map entryBytes).flatten, r.2)

/-- FLUSH written to QUE_CMD (R263): it ends BROKEN (R248). -/
def hostFlush (q : Nat) (s : State) : Ans State :=
  if hostFlushes s q then
    let s := flushQueue q s
    .ok (qset q { qget s q with broken := false } s)
  else .error abCannotWrite

/-- DROP written to QUE_CMD (R263). -/
def hostDrop (q : Nat) (s : State) : Ans State :=
  if hostReads q then .ok (dropPacket q s).2 else .error abCannotRead

/-- A watermark write (R261): with both enabled, the low one must lie below the high one. -/
def writeWatermark (high : Bool) (q v : Nat) (s : State) : Ans State :=
  let other := if high then rn s .QUE_LOW_WM q else rn s .QUE_HIGH_WM q
  let lo := if high then other else v
  let hi := if high then v else other
  if bitOf v 31 ∧ bitOf other 31 ∧ nfld hi 20 0 ≤ nfld lo 20 0 then .error abRange
  else .ok (wr (if high then .QUE_HIGH_WM else .QUE_LOW_WM) v q s)

end Sys2Proof.Machine
end

