-- ==== Sys2Proof/Machine/Dictionary.lean ====
section
/-! DEFINITION. The objects as the dictionary server reads and writes them: what each object reads as, and every owning
chapter's conditions on a write (R328 to R331, R345 steps 6 to 8). -/

namespace Sys2Proof.Machine

/-! ### Reading (R330) -/

/-- The object that PKG_DESC_SEL names: size in bytes, type code, access code; none where it does not exist. -/
def descSize (row : ObjRow) : Nat :=
  match row.reg with
  | .PKG_VENDOR => 16 | .PKG_DEVICE => 5 | .PKG_ORDER_CODE => 10 | .PKG_SI_REV => 2
  | .MCS_PATCH => 880 | .MCS_BOOT_PATCH => 880
  | .CLU_SEG_DATA => 4 * segWords | .CLU_KRN_DATA => 327680 | .CLU_DISC_DATA => 262144
  | .QUE_PUSH => 9 * 7 * (262144 - 8192) | .QUE_POP => 9 | .QUE_PKT => 9 * 65535 | .DRM_WIN_DATA => 4096
  | _ => row.ty.size

/-- The access code of PKG_DESC_ACCESS. -/
def Access.code : Access → Nat
  | .ro => 1 | .rw => 2 | .wo => 3 | .rwp => 4

/-- PKG_DESC_EXISTS, TYPE, ACCESS and SIZE of an index and sub-index. -/
def descOf (sel : Nat) : Nat × Nat × Nat × Nat :=
  match findObj (sel / 256) (sel % 256) with
  | .obj row _ => (1, row.ty.code, row.acc.code, descSize row)
  | .highest _ => (1, 2, 1, 1)
  | _ => (0, 0, 0, 0)

/-- The characters of a string. -/
def textBytes (x : String) : List Byte := x.toList.map fun c => BitVec.ofNat 8 c.toNat

/-- A slice plays a pass. -/
def playing (s : State) (f : Nat) : Option Nat :=
  match (slget s f).play with
  | some p => if p.cut then none else some p.seg
  | none => none

/-- The engine objects (R91): a keystone engine has none but its state and its kind. -/
def engineValue (s : State) (r : Reg) (e : Nat) : Int :=
  if 128 ≤ e then
    match r with
    | .ENG_STATE => keystoneState s e
    | .ENG_KIND => (e - 120 : Nat)
    | _ => 0
  else
    match r with
    | .ENG_STATE => (eget s e).state.ctorIdx
    | .ENG_KIND => (e % 8 : Nat)
    | .ENG_SHOT => (eget s e).shot
    | .ENG_PC => ((eget s e).pc % 2 ^ 64 : Nat)
    | .ENG_OPCODES => ((eget s e).opcodes % 2 ^ 64 : Nat)
    | .ENG_MICROWORDS => ((eget s e).microwords % 2 ^ 64 : Nat)
    | _ => rd s r e

/-- The value of a typed object's instance when the request is served. -/
def liveValue (s : State) (p : Path) (r : Reg) (n : Nat) : Int :=
  match r with
  | .TML_NOW => (s.tml % 2 ^ 64 : Nat)
  | .TML_F_LEVEL => (((fget s n).wp + 1024 - (fget s n).rp) % 1024 / 2 : Nat)
  | .TML_F_STAGED => storeCount (fget s n)
  | .ENG_STATE | .ENG_KIND | .ENG_SHOT | .ENG_PC | .ENG_OPCODES | .ENG_MICROWORDS | .ENG_ILLEGAL | .ENG_POISON | .ENG_STARVE
  | .ENG_DISCARD | .ENG_BARRIER_MIN => engineValue s r n
  | .MCS_DISP_ENTRY => dispatchEntry s n
  | .MCS_PATCH_ID => (patchOf s n).id
  | .MCS_PATCH_CRC => (patchOf s n).crc
  | .MCS_STATE => patchState s n
  | .TON_SEGMENT => ((playing s n).getD 0xFFFF : Nat)
  | .TON_STATE => if !fifoActive s n then 2 else if (playing s n).isSome then 1 else 0
  | .DRV_MUTE => (rn s .DRV_MUTE_CAUSE n % 2 : Nat)
  | .PRB_MUTE => (rn s .PRB_MUTE_CAUSE n % 2 : Nat)
  | .CLU_SEG_DESC => segDesc s (n / 4096) (n % 4096)
  | .CLU_SEG_STATE => segState s (n / 4096) (n % 4096)
  | .CLU_REFILL_NEXT => (rfget s n).next
  | .CLU_MRK_LEVEL => b2i (markerPin s n)
  | .FLX_INPUT => fluxInput s n s.tml / 65536
  | .FLX_OUT => fluxOut s n
  | .FLX_STATE => if rn s .FLX_ZERO_CAUSE n ≠ 0 then 2 else if (playing s (1024 + n)).isSome then 1 else 0
  | .FLX_SEGMENT => ((playing s (1024 + n)).getD 0xFFFF : Nat)
  | .BIA_STATE => biaState s n
  | .ACQ_CAL_AGE => (satN 0xFFFFFFFF ((calAge s n).getD 0) : Nat)
  | .TRG_BACKLOG => backlogWords s
  | .TRG_STREAM_STATE => streamState s
  | .RGN_PROFILE_STATE => profileState s n
  | .RGN_KRN_MISMATCH => b2i (krnMismatch s n)
  | .PKG_PROFILE_MAP => (sumN ((List.range 8).map fun g => profileOf s g * 4 ^ g) : Nat)
  | .PKG_FORCED_MAP => (sumN ((List.range 8).map fun g => if rn s .RGN_FORCED g ≠ 0 then 2 ^ g else 0) : Nat)
  | .QUE_LEVEL => (qget s n).words.length
  | .QUE_PACKETS => wholePackets (qget s n)
  | .QUE_CELLS => qcells (qget s n)
  | .QUE_STATE => queueState (qget s n)
  | .QUE_POOL_FREE => poolFree s
  | .QUE_EF_WPTR => (fget s n).wp
  | .QUE_EF_RPTR => (fget s n).rp
  | .DRM_P_LEVEL => portLevel s n
  | .DRM_P_SIZE => portSize n
  | .PKG_DESC_EXISTS => (descOf n).1
  | .PKG_DESC_TYPE => (descOf n).2.1
  | .PKG_DESC_ACCESS => (descOf n).2.2.1
  | .PKG_DESC_SIZE => (descOf n).2.2.2
  | .NVM_SET_BYTES => setLength s.nvm.set_
  | .TNW_NOW_S => ptpSeconds (ptpNow s)
  | .TNW_NOW_NS | .TNW_NOW_FRAC => rd s r p.val
  | .MON_STATE => mauState s n
  | .FLT_ACTIVE =>
    (sumN ((List.range 20).map fun c => if rn s .FLT_FLAG c ≠ 0 then 2 ^ c else 0) : Nat)
  | .FLT_SCRUB_AGE => scrubAge s n
  | .LCS_STATE => lcsState (lcsNow s)
  | .LCS_FUSES => lcsNow s
  | .LCS_TRANSITIONS => lcsUsed (lcsNow s)
  | .LCS_SLOTS_LEFT => (8 - lcsUsed (lcsNow s) : Nat)
  | .LCS_BAD_SLOTS => lcsBad (lcsNow s)
  | _ => rd s r n

/-- A read of TNW_NOW_S latches the nanoseconds and the fraction for its path (R356). -/
def latchNow (p : Path) (s : State) : State :=
  wr .TNW_NOW_FRAC (ptpFrac (ptpNow s)) p.val (wr .TNW_NOW_NS (ptpNanos (ptpNow s)) p.val s)

/-- Length in bytes of a byte string that a read does not remove, and where in its memory it begins: a path's offset for kernel and
table memory (R182, R334). -/
def domSpan (s : State) (p : Path) (r : Reg) (n : Nat) : Nat × Nat :=
  match r with
  | .CLU_SEG_DATA => (4 * (sget s (n / 4096) (n % 4096)).len, 0)
  | .CLU_KRN_DATA => (4 * (81920 - rn s .CLU_KRN_OFFSET (n * 2 + p.val)), rn s .CLU_KRN_OFFSET (n * 2 + p.val))
  | .CLU_DISC_DATA => (262144 - 8192 * rn s .CLU_DISC_OFFSET (n * 2 + p.val), rn s .CLU_DISC_OFFSET (n * 2 + p.val))
  | .MCS_BOOT_PATCH => ((mget [] s.nvm.patches n).length, 0)
  | .PKG_VENDOR => (16, 0) | .PKG_DEVICE => (5, 0) | .PKG_ORDER_CODE => (10, 0) | .PKG_SI_REV => (2, 0)
  | _ => (0, 0)

/-- One byte of a value that is read progressively (R331), counted from where its memory begins. -/
def domByte (s : State) (r : Reg) (n first i : Nat) : Byte :=
  match r with
  | .CLU_SEG_DATA =>
    let g := sget s (n / 4096) (n % 4096)
    if g.len ≤ i / 4 then 0 else BitVec.ofNat 8 (sampleWord s (n / 4096) (g.start + i / 4) / 256 ^ (i % 4))
  | .CLU_KRN_DATA => BitVec.ofNat 8 (tapWord s n (first + i / 4) / 256 ^ (i % 4))
  | .CLU_DISC_DATA => BitVec.ofNat 8 (mget 0 s.tab (n * 2 ^ 18 + 8192 * first + i))
  | .MCS_BOOT_PATCH => nthD (mget [] s.nvm.patches n) i 0
  | .PKG_VENDOR => nthD (textBytes "Abolaldo Systems") i 0
  | .PKG_DEVICE => nthD (textBytes "FQ512") i 0
  | .PKG_ORDER_CODE => nthD (textBytes "FQ512-A-LC") i 0
  | .PKG_SI_REV => nthD (textBytes "A1") i 0
  | _ => 0

/-- Bytes lo to lo + k - 1 of such a value. -/
def domBytes (s : State) (r : Reg) (n first lo k : Nat) : List Byte := (span lo k).map (domByte s r n first)

/-! ### What stops a request in the present state -/

/-- The store key of an object's value in MGE's object store (R419 unit 3, log 47). -/
def storeKey (r : Reg) (n : Nat) : Nat := key r n

/-- The object belongs to a MAU whose gate is closed (R377). -/
def gatedObject (s : State) (row : ObjRow) (n : Nat) : Bool :=
  decide (row.sel = some .MON_SEL) && mauGated s (n / (row.subHi - row.subLo + 1))

/-- The server does not serve the object at all (R377, R410). -/
def unserved (s : State) (row : ObjRow) (idx n : Nat) : Bool :=
  (decide (s.boot.phase = .fuseError) && !fuseServed idx) || gatedObject s row n

/-- A write that RETIRED rejects (R425): START, LOAD, LCS_REQ, NVM_CTRL and every RWP write. -/
def retiredWrite (s : State) (row : ObjRow) (v : Int) : Bool :=
  retired s && (decide (row.acc = .rwp) || decide (row.reg = .LCS_REQ) || decide (row.reg = .NVM_CTRL) ||
    (decide (row.reg = .PKG_RUN_CTRL) && decide (v = 1)) || (decide (row.reg = .PKG_IMG_CTRL) && decide (v = 1)))

/-! ### Writing (R330, R345 steps 7 and 8) -/

/-- Store a value outside a run only. -/
def idleWrite (r : Reg) (n : Nat) (v : Int) (s : State) : Ans State := if inRun s then .error abCannotWrite else .ok (wr r v n s)

/-- A choice of a truss channel: enabled by a bit, it names a channel that the consumer may use (R272). -/
def writeChoice (r : Reg) (enBit : Nat) (home : Option Nat) (n v : Nat) (s : State) : Ans State :=
  if bitOf v enBit ∧ !mayListen home (v % 256) then .error abRange else .ok (wr r v n s)

/-- A write of a trigger condition's object (R191, R192). -/
def writeCond (r : Reg) (n : Nat) (v : Int) (s : State) : Ans State :=
  let ok := match r with
    | .TRG_COND_SRC => condSrcOk v.toNat && condFits n v.toNat (rn s .TRG_COND_CTRL n) s
    | .TRG_COND_CTRL => decide (v.toNat &&& 0x81 = v.toNat) && condFits n (rn s .TRG_COND_SRC n) v.toNat s
    | _ => true
  if !ok then .error abRange else if !trgRest s then .error abCannotWrite else .ok (wr r v n s)

/-- A TRACE operand of event-started windows (R206): KIND 01 or 10 within R50 and R204. -/
def writeCapop (c v : Nat) (s : State) : Ans State :=
  let kind := fld (word v) 63 62
  if (kind ≠ 1 ∧ kind ≠ 2) ∨ !captureOk (profileOf s (cluRgn c)) 0 0 (word v) then .error abRange else .ok (wr .TRG_CAPOP v c s)

/-- A configuration object of a MAU (R380, R385, R391). -/
def writeMauConfig (r : Reg) (u n : Nat) (v : Int) (s : State) : Ans State :=
  let x := v.toNat
  let ok := match r with
    | .MON_REF_SEL => decide (x ≤ 2)
    | .MON_ENTRY => entryOk u x
    | .MON_START =>
      decide (nfld x 28 8 = 0) && (match nfld x 31 30 with
        | 0 => true
        | 1 => decide (x % 256 < 32)
        | 2 => mayListen (if u < 8 then some u else none) (x % 256)
        | _ => false)
    | _ => true
  if !ok then .error abRange
  else if mauState s u ≠ 0 then .error abCannotWrite
  else
    match r with
    | .MON_REF_SEL => .ok (chooseRef u x (rn s .MON_REFBUF_EN u) s)
    | .MON_REFBUF_EN => .ok (chooseRef u (rn s .MON_REF_SEL u) x s)
    | _ => .ok (wr r v n s)

/-- The commands of a package control object (R36, R68, R69, R88 to R90, R199, R200, R219): its value selects one; the value
0, "none", changes nothing but what the object reads. -/
def controlWrite (r : Reg) (v : Nat) (s : State) : Ans State :=
  match r, v with
  | .TML_SYNC_CTRL, 1 => armSync s
  | .TML_SYNC_CTRL, 2 => fireSync s
  | .TML_SYNC_CTRL, 3 => .ok (disarmSync s)
  | .PKG_IMG_CTRL, 1 => startLoad s
  | .PKG_IMG_CTRL, 2 => unloadImage s
  | .PKG_RUN_CTRL, 1 => startRun s
  | .PKG_RUN_CTRL, 2 => .ok (stopRun s)
  | .PKG_RUN_CTRL, 3 => .ok (abortRun s)
  | .TRG_CTRL, 1 => writeArm s
  | .TRG_CTRL, 2 => writeDisarm s
  | .TRG_STREAM_CTRL, 0 => .ok (closeStream true s)
  | .TRG_STREAM_CTRL, m => openStream m s
  | .NVM_CTRL, 1 => startCommit s
  | _, _ => .ok s

/-- A typed value that has passed its type's and its table's range: the owning chapter's value and state checks, and the
write's effect. `n` is the instance; `busy` are the groups in a bus access (R30). -/
def writeObject (row : ObjRow) (n : Nat) (v : Int) (busy : List (Nat × Nat)) (s : State) : Ans State :=
  let x := v.toNat
  let r := row.reg
  match r with
  | .TML_SYNC_CTRL | .PKG_IMG_CTRL | .PKG_RUN_CTRL | .TRG_CTRL | .TRG_STREAM_CTRL | .NVM_CTRL => (controlWrite r x s).map (wr r v n)
  | .TML_SYNC_GRAIN => if x % 25 = 0 then .ok (wr r v n s) else .error abRange
  | .TML_COPY_FAULT => if 128 ≤ x then .error abRange else .ok (wr r (rn s r - (rn s r &&& x) : Nat) n s)
  | .MCS_DISP_SEL => if nfld x 15 12 = 0 ∧ nfld x 11 8 ≤ 12 then .ok (wr r v n s) else .error abRange
  | .DRV_MUTE => .ok (writeMute false n x s)
  | .PRB_MUTE => .ok (writeMute true n x s)
  | .DRV_XTAP => writeTap (n / 8) (n % 8) x s
  | .CLU_SEG_DESC => writeDesc (n / 4096) (n % 4096) x s
  | .FLX_ALPHA | .FLX_BETA | .FLX_FIR | .CLU_FLUX_MTX => writeFluxCoef r n v s
  | .FLX_SET => writeFluxSet n v s
  | .BIA_SET => writeBiasSet n x s
  | .BIA_SENSE => writeBiasSense n x s
  | .TON_RES_SHIFT | .TON_DISC_I0 | .TON_DISC_Q0 | .TON_DISC_GI | .TON_DISC_GQ | .TON_DISC_B1_I0 | .TON_DISC_B1_Q0
  | .TON_DISC_B1_GI | .TON_DISC_B1_GQ | .ACQ_ZONE | .LNK_PKG_NO | .LNK_VROUTE_SEL
  | .LNK_V_SENT | .LNK_V_RECEIVED | .LNK_V_DUPLICATE | .LNK_V_LOST | .LNK_V_HOPLIMIT | .LNK_V_NOROUTE => idleWrite r n v s
  | .CLU_BR_ENTRY => if branchOk x 0 then idleWrite r n v s else .error abRange
  | .CLU_BR_MAP => if branchOk 0 x then idleWrite r n v s else .error abRange
  | .LNK_VROUTE => if nfld x 31 21 = 0 ∧ nfld x 20 12 < 384 then idleWrite r n v s else .error abRange
  | .TRG_ROLE => if rn s .TRG_STATE = trgIdle then .ok (wr r v n s) else .error abCannotWrite
  | .TRG_ARM_EVT => writeChoice r 15 none n x s
  | .TRG_CAPEVT => writeChoice r 15 (some (cluRgn n)) n x s
  | .EVT_CON_SEL => if consumerId x then .ok (wr r v n s) else .error abRange
  | .EVT_MRK => if bitOf x 31 ∧ nfld x 23 8 = 0 then .error abRange else writeChoice r 31 (some (cluRgn n)) n x s
  | .TRG_COND_SRC | .TRG_COND_LEVEL | .TRG_COND_HYST | .TRG_COND_CTRL => writeCond r n v s
  | .TRG_CAPOP => writeCapop n x s
  | .RGN_PROFILE_REQ => writeProfile n x s
  | .PKG_PROFILE_REQ => writeProfiles x s
  | .RGN_KRN_LAYOUT => writeLayout n x s
  | .QUE_HIGH_WM => writeWatermark true n x s
  | .QUE_LOW_WM => writeWatermark false n x s
  | .QUE_CMD => if x = 1 then hostFlush n s else hostDrop n s
  | .EVT_CH_PROD => writeProducer (n / 8) (n % 8) x s
  | .TIM_CTRL => .ok (if x = 1 then timerRun n s else timerStop n s)
  | .TIM_START | .TIM_PERIOD | .TIM_LIMIT => if rn s .TIM_CTRL n = 0 then .ok (wr r v n s) else .error abCannotWrite
  | .DRM_RATE => writeRate x s
  | .DRM_MAP => writeMap x s
  | .DRM_CHTAB => writeTable x s
  | .DRM_P_PANIC => writePanic n x s
  | .DRM_ARING_WRAPS => if streamState s ≠ 0 then .error abCannotWrite else .ok (wr r v n s)
  | .DRM_ARING_BASE => writeRing false n x s
  | .DRM_ARING_SIZE => writeRing true n x s
  | .DRM_BIST_CTRL => startBist x s
  | .LNK_HL_WIDTH_MAX => .ok (settleLanes (wr r v n s))
  | .LNK_HL_CTRL => .ok (retrainLink s)
  | .LNK_VP_ENABLE => .ok (enablePort n x s)
  | .TNW_CTRL => .ok (relock s)
  | .TNW_PPS_MODE => .ok (settlePps (wr r v n s))
  | .CLK_MGMT_SEL => selectMgmt s
  | .CLK_FMC_CTRL => startFmc s
  | .CLK_GATE => writeGate x busy s
  | .MON_REF_SEL | .MON_REFBUF_EN | .MON_START | .MON_START_DELAY | .MON_SEQ_LEN => writeMauConfig r n n v s
  | .MON_ENTRY => writeMauConfig r (n / 16) n v s
  | .MON_SEQ_CTRL => .ok (if x = 1 then (mauStart n s).2 else mauStop n s)
  | .MON_INJ => writeInj n x s
  | .MON_CAL_CTRL => startCal n s
  | .THM_CTRL => resume s
  | .THM_FORCE_CLR => clearForce x s
  | .THM_VNOM => .ok (writeVnom x s)
  | .THM_R => writeCoefficient false n x s
  | .THM_C => writeCoefficient true n x s
  | .LCS_REQ => writeLcsReq x s
  | .LCS_CONFIRM => writeLcsConfirm x s
  | .PKG_RESET => writeReset x s
  | _ => match row.rng with
    | .only _ => .ok (clearIncs r n (wr r v n s))
    | _ => .ok (wr r v n s)

/-! ### A write that comes in segments (R342, R345) -/

/-- Some values of a table's range: its first and its last ones, or those it lists. -/
def sampleValues : Range → List Int
  | .any => [0] | .mask _ => [0]
  | .span lo hi => ((List.range 8).map fun (k : Nat) => lo + (k : Int)).filter (fun v => decide (v ≤ hi)) ++ [hi]
  | .only x => [x]
  | .among vs => vs

/-- Values of an object whose checks look at more than its table's range, one for each state that they may meet: a descriptor of one
sample (R119), the table in force and those of one channel (R285), and every target of a test (R300). -/
def checkedValues (r : Reg) (s : State) : List Int :=
  let nats : List Nat := match r with
    | .CLU_SEG_DESC => [2 ^ 26]
    | .DRM_CHTAB => rn s .DRM_CHTAB :: (List.range 8).map (· + 8)
    | .DRM_BIST_CTRL => 2 ^ 29 :: 2 ^ 28 :: (List.range 8).map (· * 2 ^ 24)
    | _ => []
  nats.map Int.ofNat

/-- The present state alone refuses a typed object's write: each value above that the object takes, and the one it holds, is refused for
the state. -/
def stateRefuses (row : ObjRow) (n : Nat) (s : State) : Bool :=
  let vs := (rd s row.reg n :: checkedValues row.reg s ++ sampleValues row.rng).filter (inRange row.ty row.rng)
  let codes := vs.filterMap fun v =>
    match writeObject row n v [] s with | .error c => if c = abCannotWrite then some true else none | .ok _ => some false
  !codes.isEmpty && codes.all id

/-- The length and state checks of a byte string's write of a total length (R342): those that need none of its bytes. -/
def checkBytes (row : ObjRow) (n first total : Nat) (s : State) : Ans Unit :=
  let judge (span : Bool) (c : Nat) (may : Bool) : Ans Unit := if !span then .error c else if !may then .error abCannotWrite else .ok ()
  match row.reg with
  | .CLU_SEG_DATA => checkSegData (n / 4096) (n % 4096) total s
  | .CLU_KRN_DATA => judge (kernelSpan first total) abLength (!inRun s)
  | .CLU_DISC_DATA => judge (tableSpan first total) abLength (!inRun s)
  | .QUE_PUSH => judge (decide (total ≠ 0 ∧ total % 9 = 0)) abLength (hostWrites n && qroom s n (total / 9))
  | .DRM_WIN_DATA => judge (winOk s total) abRange (decide (rn s .DRM_STATE ≠ 2))
  | _ => judge (decide (total ≤ descSize row)) abLength true

/-- The checks of WRITE_INIT beside those of its frame (R342, R345 steps 6 to 8): the length that the object's definition fixes, and the
present state. -/
def checkInit (s : State) (row : ObjRow) (idx n first total : Nat) : Ans Unit :=
  let stopped := unserved s row idx n || retiredWrite s row 0
  if row.ty.isBytes then
    match checkBytes row n first total s with
    | .error c => .error c
    | .ok _ => if stopped then .error abCannotWrite else .ok ()
  else if total ≠ row.ty.size then .error abLength
  else if stopped || stateRefuses row n s then .error abCannotWrite
  else .ok ()

/-! ### Whole writes -/

/-- What an accepted write leaves beside its effect: the value is sound again (R419), and a persistent one enters the
persistent set (R347). -/
def accepted (row : ObjRow) (i sub n : Nat) (s : State) : State :=
  persist row i sub { s with nvm := { s.nvm with poisoned := s.nvm.poisoned.filter fun k => decide (k ≠ storeKey row.reg n) } }

/-- Errors of the steps before the present state (R345). -/
def beforeState (c : Nat) : Bool := decide (c = abLength) || decide (c = abRange)

/-- A rejected segment write counts where R119 rejects it. -/
def segRejected (row : ObjRow) (n c : Nat) (s : State) : State :=
  if (row.reg = .CLU_SEG_DESC ∨ row.reg = .CLU_SEG_DATA) ∧ c = abCannotWrite then inc .CLU_SEG_WRITE_REJ (n / 4096) s else s

/-- A whole byte string is written: the answer and the state after. `first` is where in its memory it begins. -/
def writeBytes (row : ObjRow) (sub n first : Nat) (bs : List Byte) (s : State) : Ans Unit × State :=
  let keep (a : Ans State) : Ans Unit × State := match a with | .ok t => (.ok (), t) | .error c => (.error c, s)
  match row.reg with
  | .CLU_SEG_DATA => keep (writeSegData (n / 4096) (n % 4096) bs s)
  | .CLU_KRN_DATA => keep (writeKernel n first bs s)
  | .CLU_DISC_DATA => keep (writeTables n first bs s)
  | .QUE_PUSH => keep (pushQueue n bs s)
  | .MCS_PATCH => writePatch bs s
  | .MCS_BOOT_PATCH => writeBootPatch (sub - row.subLo) bs s
  | .DRM_WIN_DATA => keep (winWrite bs s)
  | _ => (.error abCannotWrite, s)

/-- A write of a whole value to an object that exists and may be written (R345 steps 6 to 8): the answer and the state
after. A rejected write changes nothing but what counts rejections. -/
def writeValue (row : ObjRow) (idx i sub n first : Nat) (bs : List Byte) (busy : List (Nat × Nat)) (s : State) : Ans Unit × State :=
  let v := decodeVal row.ty bs
  let r : Ans Unit × State :=
    if row.ty.isBytes then writeBytes row sub n first bs s
    else if bs.length ≠ row.ty.size then (.error abLength, s)
    else if !inRange row.ty row.rng v then (.error abRange, s)
    else match writeObject row n v busy s with | .ok t => (.ok (), t) | .error c => (.error c, s)
  let stopped := unserved s row idx n || retiredWrite s row v
  match r with
  | (.error c, t) => if beforeState c ∨ !stopped then (.error c, segRejected row n c t) else (.error abCannotWrite, s)
  | (.ok _, t) => if stopped then (.error abCannotWrite, s) else (.ok (), accepted row i sub n t)

/-- A read is answered at once, or by a segmented transfer (R341, R342). -/
inductive ReadOut where
  | value (bs : List Byte)
  /-- total length, where the memory begins, and the bytes of a value that the read removed -/
  | long (total first : Nat) (taken : List Byte)

/-- The answer of a removing read. -/
def removed (a : Ans (List Byte × State)) (s : State) : Ans ReadOut × State :=
  match a with
  | .error c => (.error c, s)
  | .ok (bs, t) => (.ok (if bs.length ≤ 56 then .value bs else .long bs.length 0 bs), t)

/-- Bytes that a READ of DRM_WIN_DATA returns where nothing else gives its length: to the end of the range, at most 4,096
(log 59). -/
def winLength (s : State) : Nat := min 4096 (rn s .DRM_RANGE - rn s .DRM_WIN_ADDR)

/-- A read of an object that exists and may be read: the answer and the state after (R330, R331, R341, R344). `win` is the
length of a read of DRM_WIN_DATA. -/
def readValue (p : Path) (row : ObjRow) (idx n win : Nat) (s : State) : Ans ReadOut × State :=
  if unserved s row idx n then (.error abCannotRead, s)
  else if row.ty.isBytes then
    match row.reg with
    | .QUE_POP => removed (popQueue n s) s
    | .QUE_PKT => removed (pktQueue n s) s
    | .DRM_WIN_DATA =>
      match winRead win s with
      | (.error c, t) => (.error c, t)
      | (.ok bs, t) => (.ok (.long bs.length (rn s .DRM_WIN_ADDR) []), t)
    | r =>
      let sp := domSpan s p r n
      if s.nvm.poisoned.contains (storeKey r n) then (.error abPoisoned, s) else
      if sp.1 ≤ 56 then (.ok (.value (domBytes s r n sp.2 0 sp.1)), s) else (.ok (.long sp.1 sp.2 []), s)
  else if s.nvm.poisoned.contains (storeKey row.reg n) then (.error abPoisoned, s)
  else
    let v := encodeVal row.ty (liveValue s p row.reg n)
    (.ok (.value v), if row.reg = .TNW_NOW_S then latchNow p s else s)

end Sys2Proof.Machine
end

