-- ==== Sys2Proof/Machine/Server.lean ====
section
/-! DEFINITION. The dictionary server (R335 to R346): its checks in order, expedited and segmented transfers, the requests
that wait on the two paths, the CAN FD controller, and the restart of a keystone engine (R417). -/

namespace Sys2Proof.Machine

/-! ### One request (R337, R338, R345) -/

/-- What a request takes from outside the dictionary: the groups in a bus access with the ticks it still takes (R30), and the length of a read
of DRM_WIN_DATA. -/
structure Extra where
  busy : List (Nat × Nat) := []
  win : Option Nat := none

/-- Most data bytes of a frame on a path (R337), which is also what a READ_SEG_DATA carries (R342). -/
def pathLimit (p : Path) : Nat := if p = 0 then 56 else 2040

/-- The other path. -/
def otherPath (p : Path) : Path := if p = 0 then 1 else 0

/-- FLAGS bits that a command uses (R338). -/
def flagsUsed (cmd : Nat) : Nat := if cmd = 4 then 3 else if cmd = 5 then 1 else 0

/-- Steps 3 and 4: existence and access. -/
def resolve (idx sub : Nat) (write : Bool) : Ans Found :=
  match findObj idx sub with
  | .absent => .error abNoObject
  | .noSub => .error abNoSub
  | .highest n => if write then .error abReadOnly else .ok (.highest n)
  | .obj row i =>
    if write ∧ row.acc = .ro then .error abReadOnly
    else if !write ∧ row.acc = .wo then .error abWriteOnly
    else .ok (.obj row i)

/-- Step 5: the instance of a DOM object is in an open transfer of the other path (R344). -/
def inUse (s : State) (p : Path) (row : ObjRow) (idx sub n : Nat) : Bool :=
  decide (row.ty = .dom) &&
    (match (pathOf s (otherPath p)).transfer with
     | some t => decide (t.index = idx ∧ t.sub = sub ∧ t.inst = n)
     | none => false)

/-- A new transfer opens on a path: one that was open is abandoned (R343), and a timeout of the same object is forgotten (log 55). -/
def openTransfer (p : Path) (t : Transfer) (s : State) : State :=
  let s := closeTransfer p true s
  let ps := pathOf s p
  setPath p { ps with transfer := some t, timedOut := ps.timedOut.filter fun o => decide (o ≠ (t.index, t.sub)) } s

/-- The transfer of a path, changed. -/
def putTransfer (p : Path) (t : Option Transfer) (s : State) : State := setPath p { pathOf s p with transfer := t } s

/-- READ (R341). -/
def serveRead (x : Extra) (p : Path) (tag : Byte) (idx sub len : Nat) (s : State) : State :=
  let stop (c : Nat) (t : State) : State := respondAbort p 1 tag idx sub c t
  match resolve idx sub false with
  | .error c => stop c s
  | .ok (.obj row i) =>
    let n := instOf s p row i sub
    if inUse s p row idx sub n then stop abInUse s
    else if len ≠ 0 then stop abLength s
    else
      match readValue p row idx n (x.win.getD (winLength s)) s with
      | (.error c, t) => stop c t
      | (.ok (.value bs), t) => respond p 0x81 tag idx sub 0 bs t
      | (.ok (.long total first taken), t) =>
        respond p 0x82 tag idx sub 0 (leBytes 8 total)
          (openTransfer p { write := false, index := idx, sub := sub, inst := n, total := total, first := first, data := taken,
                            at_ := s.elapsed } t)
  | .ok (.highest n) =>
    if len ≠ 0 then stop abLength s
    else if s.boot.phase = .fuseError ∧ !fuseServed idx then stop abCannotRead s
    else respond p 0x81 tag idx sub 0 (leBytes 1 n) s
  | .ok _ => stop abNoObject s

/-- WRITE (R341). -/
def serveWrite (x : Extra) (p : Path) (tag : Byte) (idx sub : Nat) (body : List Byte) (s : State) : State :=
  let stop (c : Nat) (t : State) : State := respondAbort p 2 tag idx sub c t
  match resolve idx sub true with
  | .error c => stop c s
  | .ok (.obj row i) =>
    let n := instOf s p row i sub
    if inUse s p row idx sub n then stop abInUse s
    else if 56 < body.length then stop abLength s
    else
      match writeValue row idx i sub n (domSpan s p row.reg n).2 body x.busy s with
      | (.error c, t) => stop c t
      | (.ok _, t) => respond p 0x83 tag idx sub 0 [] t
  | .ok _ => stop abNoObject s

/-- WRITE_INIT (R342). -/
def serveInit (p : Path) (tag : Byte) (idx sub : Nat) (body : List Byte) (s : State) : State :=
  let stop (c : Nat) (t : State) : State := respondAbort p 3 tag idx sub c t
  match resolve idx sub true with
  | .error c => stop c s
  | .ok (.obj row i) =>
    let n := instOf s p row i sub
    let total := leVal body
    if inUse s p row idx sub n then stop abInUse s
    else if body.length ≠ 8 then stop abLength s
    else
      let first := (domSpan s p row.reg n).2
      match checkInit s row idx n first total with
      | .error c => stop c (segRejected row n c s)
      | .ok _ =>
        let s := openTransfer p { write := true, index := idx, sub := sub, inst := n, total := total, first := first, at_ := s.elapsed } s
        let s := if row.reg = .CLU_SEG_DATA then beginWrite (n / 4096) (n % 4096) s else s
        respond p 0x84 tag idx sub 0 [] s
  | .ok _ => stop abNoObject s

/-- Samples that an accepted segment completes are stored (R120). -/
def storeSegment (n done : Nat) (data : List Byte) (s : State) : State :=
  let g := sget s (n / 4096) (n % 4096)
  if g.filling then
    storeSamples (n / 4096) (g.start + done / 4) (words32 (data.length / 4 - done / 4) (data.drop (done / 4 * 4))) s
  else s

/-- An accepted segment's bytes take effect, and the write when it is the last: samples as they come, everything else with
LAST (R120, R344). -/
def takeSegment (x : Extra) (t : Transfer) (data : List Byte) (last : Bool) (s : State) : Ans Unit × State :=
  match findObj t.index t.sub with
  | .obj row i =>
    if row.reg = .CLU_SEG_DATA then
      let s := storeSegment t.inst t.done data s
      if last && (sget s (t.inst / 4096) (t.inst % 4096)).filling then (.ok (), completeWrite (t.inst / 4096) (t.inst % 4096) s)
      else (.ok (), s)
    else if last then writeValue row t.index i t.sub t.inst t.first data x.busy s
    else (.ok (), s)
  | _ => (.ok (), s)

/-- The TOGGLE that the next segment must carry. -/
def nextToggle (t : Transfer) : Bool := match t.last with | some (g, _, _) => !g | none => false

/-- WRITE_SEG for the open transfer t (R342). -/
def serveWriteSeg (x : Extra) (p : Path) (tag : Byte) (t : Transfer) (flags : Nat) (body : List Byte) (s : State) : State :=
  let tog := bitOf flags 0
  let last := bitOf flags 1
  let n := body.length
  let fail (c : Nat) (u : State) : State := respondAbort p 4 tag t.index t.sub c (closeTransfer p false u)
  let done (u : State) : State := respond p 0x85 tag t.index t.sub flags [] u
  if tog ≠ nextToggle t then
    (if t.last = some (tog, n, last) then done (putTransfer p (some { t with at_ := s.elapsed }) s) else fail abToggle s)
  else if n = 0 ∨ t.total < t.done + n ∨ last ≠ decide (t.done + n = t.total) then fail abLength s
  else
    match takeSegment x t (t.data ++ body) last s with
    | (.error c, u) => fail c u
    | (.ok _, u) =>
      done (putTransfer p (if last then none else
        some { t with data := t.data ++ body, done := t.done + n, last := some (tog, n, last), at_ := s.elapsed }) u)

/-- The next n bytes of a read of DRM_WIN_DATA, as they are when a segment is served (R303, R331); the rest of the last burst waits for
the segment after it (R284). -/
def windowSegment (p : Path) (t : Transfer) (n : Nat) (s : State) : Ans (List Byte) × State :=
  if rn s .DRM_STATE = 2 then (.error abCannotRead, s)
  else
    let port := 22 + p.val
    let s := if t.done = 0 then dropHeld port s else s
    let next := t.first + t.done + n
    let r := dramRead port (t.first + t.done) (n / 8) s
    let rest := if next % 64 = 0 then [] else (burstWords s (next / 64 * 64)).filter fun w => decide (next ≤ w.1)
    let u := setHeld port rest r.2
    if r.1.any (·.2) then (.error abCannotRead, u) else (.ok (wordsBytes (r.1.map (·.1))), u)

/-- The next n bytes of a read transfer (R331): of the value that the READ removed, or of the object as it is now. -/
def nextSegment (p : Path) (t : Transfer) (n : Nat) (s : State) : Ans (List Byte) × State :=
  if !t.data.isEmpty then (.ok ((t.data.drop t.done).take n), s)
  else
    match findObj t.index t.sub with
    | .obj row _ =>
      if row.reg = .DRM_WIN_DATA then windowSegment p t n s else (.ok (domBytes s row.reg t.inst t.first t.done n), s)
    | _ => (.ok [], s)

/-- READ_SEG for the open transfer t (R331, R342). -/
def serveReadSeg (p : Path) (tag : Byte) (t : Transfer) (flags len : Nat) (s : State) : State :=
  let tog := bitOf flags 0
  let fail (c : Nat) (u : State) : State := respondAbort p 5 tag t.index t.sub c (closeTransfer p false u)
  let again := match t.last with | some (g, _, l) => if g = tog then some l else none | none => none
  if tog ≠ nextToggle t ∧ again = none then fail abToggle s
  else if len ≠ 0 then fail abLength s
  else
    match again with
    | some l => respond p 0x86 tag t.index t.sub (b2n tog + 2 * b2n l) t.seg (putTransfer p (some { t with at_ := s.elapsed }) s)
    | none =>
      let n := min (pathLimit p) (t.total - t.done)
      let last := decide (t.done + n = t.total)
      match nextSegment p t n s with
      | (.error c, u) => fail c u
      | (.ok seg, u) =>
        respond p 0x86 tag t.index t.sub (b2n tog + 2 * b2n last) seg
          (putTransfer p (if last then none else
            some { t with done := t.done + n, seg := seg, last := some (tog, n, last), at_ := s.elapsed }) u)

/-- WRITE_SEG, READ_SEG and ABORT (R342, R343, R345). -/
def serveSequel (x : Extra) (p : Path) (cmd : Nat) (tag : Byte) (idx sub flags len : Nat) (body : List Byte) (s : State) : State :=
  let ps := pathOf s p
  if cmd ≠ 6 ∧ ps.timedOut.contains (idx, sub) then
    respondAbort p cmd tag idx sub abTimedOut (setPath p { ps with timedOut := ps.timedOut.filter fun o => decide (o ≠ (idx, sub)) } s)
  else
    match ps.transfer with
    | none => respondAbort p cmd tag idx sub abSequence s
    | some t =>
      if t.index ≠ idx ∨ t.sub ≠ sub ∨ (cmd = 4 ∧ !t.write) ∨ (cmd = 5 ∧ t.write) then respondAbort p cmd tag idx sub abSequence s
      else if cmd = 4 then serveWriteSeg x p tag t flags body s
      else if cmd = 5 then serveReadSeg p tag t flags len s
      else if len ≠ 0 then respondAbort p cmd tag idx sub abLength (closeTransfer p false s)
      else respond p 0x87 tag idx sub 0 [] (closeTransfer p false s)

/-- CMD of a request: 0 where the frame holds none (R345). -/
def frameCmd (bs : List Byte) : Nat := domAt bs 0 1

/-- The path's turn is taken (R335). -/
def turn (p : Path) (s : State) : State := { s with lastPath := p }

/-- One request, served whole (R335, R345). -/
def serveFrame (x : Extra) (p : Path) (bs : List Byte) (s : State) : State :=
  let s := turn p s
  let cmd := frameCmd bs
  let tag := BitVec.ofNat 8 (domAt bs 1 1)
  let idx := domAt bs 2 2
  let sub := domAt bs 4 1
  let flags := domAt bs 5 1
  let len := domAt bs 6 2
  let body := (bs.drop 8).take len
  if bs.length < 8 + len ∨ pathLimit p < len ∨ flags &&& flagsUsed cmd ≠ flags then respondAbort p cmd tag idx sub abFrame s
  else
    match cmd with
    | 1 => serveRead x p tag idx sub len s
    | 2 => serveWrite x p tag idx sub body s
    | 3 => serveInit p tag idx sub body s
    | 4 => serveSequel x p cmd tag idx sub flags len body s
    | 5 => serveSequel x p cmd tag idx sub flags len body s
    | 6 => serveSequel x p cmd tag idx sub flags len body s
    | _ => respondAbort p cmd tag idx sub abCommand s

/-! ### Requests that wait (R335, R339, R340) -/

/-- The oldest MGT packet of queue 0x2000, none when there is no whole one. -/
def headPacket (s : State) : List QWord := if wholePackets (qget s 0x2000) = 0 then [] else headView (qget s 0x2000)

/-- The oldest request that waits on a path: on the host link, the payload of the oldest MGT packet, BYTES long (R316), unless it
is poisoned (R251). -/
def headRequest (s : State) (p : Path) : Option (List Byte) :=
  if p = 0 then s.path0.requests.head?
  else
    match headPacket s with
    | [] => none
    | h :: rest => if (h :: rest).any (·.psn) then none else some ((wordsBytes (rest.map (·.data))).take (fld h.data 15 0))

/-- Take it. -/
def takeRequest (p : Path) (s : State) : State :=
  if p = 0 then { s with path0 := { s.path0 with requests := s.path0.requests.drop 1 } } else (readWhole 0x2000 258 s).2

/-- A request waits on its handshake with the DRAM (R295, R296): one that reads or writes through DRM_WIN_DATA, whose checks it
passes. -/
def frameWaits (x : Extra) (s : State) (p : Path) (bs : List Byte) : Bool :=
  if domAt bs 2 2 ≠ 0x2451 ∨ domAt bs 4 1 ≠ 0 ∨ rn s .DRM_STATE = 2 then false
  else
    let a := rn s .DRM_WIN_ADDR
    match frameCmd bs, (pathOf s p).transfer with
    | 1, _ => let n := x.win.getD (winLength s); winOk s n && dramWaits s a n
    | 4, some t => t.write && decide (t.index = 0x2451) && decide (t.total ≤ t.done + domAt bs 6 2) && winOk s t.total && dramWaits s a t.total
    | 5, some t => !t.write && decide (t.index = 0x2451) && dramWaits s (t.first + t.done) (min (pathLimit p) (t.total - t.done))
    | _, _ => false

/-- It is the path's turn (R335): the other path has no request that waits, or was served last. -/
def myTurn (s : State) (p : Path) : Bool := decide (s.lastPath ≠ p) || (headRequest s (otherPath p)).isNone

/-- The server takes the oldest request of a path: it runs, one waits and may be served, and it is the path's turn. -/
def mayServe (s : State) (p : Path) : Bool :=
  served s && (headRequest s p).any (fun bs => !frameWaits {} s p bs) && myTurn s p

/-- Serve the oldest request of a path where its CMD is one that the row names; a poisoned packet is discarded unanswered (R251). -/
def serveNext (p : Path) (cmdOk : Nat → Bool) (s : State) : Out :=
  match headRequest s p with
  | some bs => .next (if mayServe s p && cmdOk (frameCmd bs) then serveFrame {} p bs (takeRequest p s) else s)
  | none => .next (if served s ∧ p ≠ 0 ∧ !(headPacket s).isEmpty then takeRequest p s else s)

/-- YDP_READ (R341); requests with an excluded CMD, and empty ones, are answered here too (R345). -/
def execYdpRead (p : Path) (s : State) : Out := serveNext p (fun c => decide (c < 2 ∨ 6 < c)) s
/-- YDP_WRITE (R341). -/
def execYdpWrite (p : Path) (s : State) : Out := serveNext p (fun c => decide (c = 2)) s
/-- WRITE_INIT (R342). -/
def execWriteInit (p : Path) (s : State) : Out := serveNext p (fun c => decide (c = 3)) s
/-- WRITE_SEG (R342). -/
def execWriteSeg (p : Path) (s : State) : Out := serveNext p (fun c => decide (c = 4)) s
/-- READ_SEG (R342). -/
def execReadSeg (p : Path) (s : State) : Out := serveNext p (fun c => decide (c = 5)) s
/-- ABORT (R345). -/
def execYdpAbort (p : Path) (s : State) : Out := serveNext p (fun c => decide (c = 6)) s

/-- The bytes of each whole packet of a queue's words. -/
def packetFrames : List QWord → List (List Byte)
  | [] => []
  | w :: ws =>
    let bytes := leBytes 8 w.data.toNat
    if w.fin then bytes :: packetFrames ws
    else
      match packetFrames ws with
      | b :: bs => (bytes ++ b) :: bs
      | [] => []

/-- The YDP frames that have arrived on a path and wait there: on the host link each follows its packet's header (R340). -/
def framesWaiting (s : State) (p : Path) : List (List Byte) :=
  if p = 0 then s.path0.requests else (packetFrames (qget s 0x2000).words).map (·.drop 8)

/-- A WRITE_SEG or READ_SEG for the path's open transfer has arrived and waits to be served (R343). -/
def segmentWaits (s : State) (p : Path) (t : Transfer) : Bool :=
  (framesWaiting s p).any fun bs =>
    decide (frameCmd bs = (if t.write then 4 else 5) ∧ domAt bs 2 2 = t.index ∧ domAt bs 4 1 = t.sub)

/-- SEGMENT_TIMEOUT (R343). DEDUCED: the time runs from the opening of the transfer or from the service of its last segment, and a
segment that has arrived and waits to be served keeps it open (log 55). -/
def execSegmentTimeout (p : Path) (s : State) : Out :=
  match (pathOf s p).transfer with
  | none => .next s
  | some t =>
    if s.elapsed < t.at_ + rn s .LNK_YDP_SEG_TIMEOUT * msT ∨ segmentWaits s p t then .next s
    else
      let s := inc .LNK_YDP_TIMEOUTS p.val (closeTransfer p true s)
      let ps := pathOf s p
      .next (setPath p { ps with timedOut := (t.index, t.sub) :: ps.timedOut.filter fun o => decide (o ≠ (t.index, t.sub)) } s)

/-! ### A request of a host command (R335) -/

/-- A request on a path can reach the server. -/
def reachable (s : State) (p : Path) : Bool := served s && (if p = 0 then decide (rn s .LNK_CAN_STATE ≠ 2) else hostUp s)

/-- The path's open write transfer is that of an object. -/
def writing (s : State) (p : Path) (idx sub : Nat) : Bool :=
  match (pathOf s p).transfer with
  | some t => t.write && decide (t.index = idx ∧ t.sub = sub)
  | none => false

/-- A request frame reaches the controller's receive buffer, which holds 4 (R339). -/
def bufferCan (bs : List Byte) (s : State) : State :=
  if 4 ≤ s.path0.requests.length then inc .LNK_CAN_RX_OVERFLOW 0 s
  else { s with path0 := { s.path0 with requests := s.path0.requests ++ [bs] } }

/-- A request comes to wait on its path: in the CAN FD buffer, or as the next MGT packet that the host link accepts (R339, R340). -/
def enqueue (p : Path) (bs : List Byte) (s : State) : State :=
  if p = 0 then bufferCan bs s
  else
    let v := vcget s vcMgt
    let ws := frameWords bs
    acceptMgt (word (v.expect * 2 ^ 52 + ws.length * 2 ^ 40 + bs.length) :: ws) (vcset vcMgt { v with got := v.got + 1 + ws.length } s)

/-- No request waits on a path. -/
def pathIdle (s : State) (p : Path) : Bool := if p = 0 then s.path0.requests.isEmpty else (headPacket s).isEmpty

/-- A request that arrives is served at once (R335): none waits before it, it is its path's turn, and no handshake keeps it. -/
def atOnce (x : Extra) (p : Path) (bs : List Byte) (s : State) : Bool := pathIdle s p && myTurn s p && !frameWaits x s p bs

/-- A request that is served at once has arrived: on the host link its packet is accepted first, and MGE takes it from queue 0x2000
(R317, R340). -/
def arrived (p : Path) (bs : List Byte) (s : State) : State := if p = 0 then s else takeRequest p (enqueue p bs s)

/-- A request finds room on its path: on the host link its packet is whole in queue 0x2000 (R255). -/
def findsRoom (p : Path) (bs : List Byte) (s : State) : Bool := decide (p = 0) || !(headPacket (enqueue p bs s)).isEmpty

/-- Serve a request that arrives: on the host link one whose packet finds no room waits (R255). -/
def serveNow (x : Extra) (p : Path) (bs : List Byte) (s : State) : State :=
  if findsRoom p bs s then serveFrame x p bs (arrived p bs s) else enqueue p bs s

/-- A request of host software arrives on a path: served at once, or it waits for the YDP commands to serve it. -/
def hostFrame (x : Extra) (p : Path) (bs : List Byte) (s : State) : State :=
  if atOnce x p bs s then serveNow x p bs s else enqueue p bs s

/-- The WRITE_SEG frames of a value, each sent when the one before is answered, as long as the transfer stays open. One that must wait is
the last: host software goes on when it is answered. `fuel` bounds their number. -/
def sendSegments (x : Extra) (p : Path) (tag : Byte) (idx sub : Nat) : Nat → Bool → List Byte → State → State
  | 0, _, _, s => s
  | fuel + 1, tog, bs, s =>
    if !writing s p idx sub then s
    else
      let k := pathLimit p
      let last := decide (bs.length ≤ k)
      let f := frameBytes 4 tag idx sub (b2n tog + 2 * b2n last) (bs.take k)
      if last ∨ !atOnce x p f s ∨ !findsRoom p f s then hostFrame x p f s
      else sendSegments x p tag idx sub fuel (!tog) (bs.drop k) (serveNow x p f s)

/-- Host software writes an object on a path: with WRITE where the value has at most 56 bytes, else with WRITE_INIT and
segments (R341, R342). A request that cannot reach the server has no effect (R434). -/
def hostWrite (p : Path) (tag : Byte) (idx sub : Nat) (bs : List Byte) (s : State) (x : Extra := {}) : Out :=
  if !reachable s p then .next s
  else if bs.length ≤ 56 then .next (hostFrame x p (frameBytes 2 tag idx sub 0 bs) s)
  else
    let f := frameBytes 3 tag idx sub 0 (leBytes 8 bs.length)
    .next (if atOnce x p f s && findsRoom p f s then sendSegments x p tag idx sub bs.length false bs (serveNow x p f s) else enqueue p f s)

/-- Host software reads an object on a path (R341). -/
def hostRead (p : Path) (tag : Byte) (idx sub : Nat) (s : State) (x : Extra := {}) : Out :=
  .next (if reachable s p then hostFrame x p (frameBytes 1 tag idx sub 0 []) s else s)

/-! ### The CAN FD controller (R339) -/

/-- CAN_FRAME_RECEIVE (R339): extended-identifier frames, remote frames and those of other identifiers are ignored. -/
def execCanFrameReceive (extended : Bool) (kind : CanKind) (id : BitVec 29) (bytes : List Byte) (s : State) : Out :=
  if !reachable s 0 ∨ extended ∨ kind = .remote ∨ id.toNat ≠ 0x400 + rn s .LNK_CAN_NODE then .next s
  else if kind = .classic then .next (inc .LNK_CAN_CLASSIC 0 s)
  else .next (bufferCan bytes s)

/-- CAN_BUS_ERROR (R339): the error counters after an error; error-passive above 127, bus-off above 255 (log 60). -/
def execCanBusError (tec rec : Nat) (s : State) : Out :=
  if !served s ∨ rn s .LNK_CAN_STATE = 2 then .next s
  else
    let s := wr .LNK_CAN_REC (satN 255 rec) 0 (wr .LNK_CAN_TEC (satN 255 tec) 0 s)
    if 255 < tec then .next (inc .LNK_CAN_BUSOFF 0 (wr .LNK_CAN_STATE 2 0 s))
    else .next (wr .LNK_CAN_STATE (if 127 < tec ∨ 127 < rec then 1 else 0) 0 s)

/-- BUS_OFF_RECOVERY (R339). -/
def execBusOffRecovery (s : State) : Out :=
  if rn s .LNK_CAN_STATE = 2 then .next (wr .LNK_CAN_REC 0 0 (wr .LNK_CAN_TEC 0 0 (wr .LNK_CAN_STATE 0 0 s))) else .next s

/-! ### A keystone engine restarts (R417) -/

/-- MGE restarts: the request in service has no effect, and a thermal update that falls due in the 10 µs of the restart covers its
whole interval. -/
def restartMge (s : State) : State :=
  let s := { s with cool := { s.cool with restartAt := some s.elapsed } }
  let p : Path := if mayServe s 0 then 0 else 1
  match headRequest s p with
  | some bs =>
    if mayServe s p then
      let cmd := frameCmd bs
      let idx := domAt bs 2 2
      let sub := domAt bs 4 1
      let s := turn p (takeRequest p s)
      let mine := decide (4 ≤ cmd ∧ cmd ≤ 6) &&
        (match (pathOf s p).transfer with | some t => decide (t.index = idx ∧ t.sub = sub) | none => false)
      respondAbort p cmd (BitVec.ofNat 8 (domAt bs 1 1)) idx sub (if cmd = 1 ∨ cmd = 5 then abCannotRead else abCannotWrite)
        (if mine then closeTransfer p false s else s)
    else s
  | none => s

/-- A control-store fault of keystone engine 128 + k (R100, R417); `ramFault`: in patch RAM, a match or an override register. The
engine goes on at its ROM reset entry. -/
def keystoneFault (k : Fin 5) (ramFault : Bool) (s : State) : State :=
  let s := logFault clsEngine 0 (128 + k.val) s.tml (inc .MCS_FAULT 0 s)
  let s := if ramFault then dropPatch (8 + k.val) s else s
  let v := eget s (128 + k.val)
  let s := eset (128 + k.val) { v with micro := { v.micro with at_ := none } } s
  match k with
  | 0 => restartMge s
  | 1 => restartSte0 s
  | 2 => restartSte1 s
  | 3 => restartDte s
  | 4 => restartVre s

/-- ENGINE_RESTART (R100, R417): a microword that a keystone engine fetches fails its parity check. -/
def execEngineRestart (k : Fin 5) (ramFault : Bool) (s : State) : Out :=
  if !served s then .next s else .next (keystoneFault k ramFault s)

/-- Keystone engine 128 + k in one grain (R92, R93, R97): it executes a microword when its handshake cycle ends, whatever its work is. A
fetch that fails restarts it; its fault lies in patch space or a redirection. DESIGN CHOICE: the work of a keystone engine has the
effects that its chapter gives it, whatever its microwords are (log 70). -/
def keystoneStep (k : Fin 5) (s : State) : State :=
  let f := fresh s
  if !Config.keystoneCycle f.1 then f.2
  else match keystoneWord (128 + k.val) f.2 with
    | some s => s
    | none => keystoneFault k true f.2

/-- The keystone engines in one grain. -/
def keystoneGrain (s : State) : State :=
  if served s then keystoneStep 4 (keystoneStep 3 (keystoneStep 2 (keystoneStep 1 (keystoneStep 0 s)))) else s

end Sys2Proof.Machine
end

