-- ==== Sys2Proof/Machine/HostWrites.lean ====
section
/-! DEFINITION. The commands that are one host write or read: each reaches the dictionary server as a request on its path
(R330, R341), and the object's owning chapter gives its effect. -/

namespace Sys2Proof.Machine

/-! ### Package, clocks and alignment -/

/-- PKG_RESET (R431). -/
def execPkgReset (p : Path) (tag : Byte) (v : BitVec 16) (s : State) : Out := hostWrite p tag 0x2002 0 (leBytes 2 v.toNat) s
/-- CLK_MGMT_SEL (R370). -/
def execClkMgmtSel (p : Path) (tag : Byte) (v : Byte) (s : State) : Out := hostWrite p tag 0x2201 2 [v] s
/-- FMC_START (R376). -/
def execFmcStart (p : Path) (tag : Byte) (v : Byte) (s : State) : Out := hostWrite p tag 0x2220 4 [v] s
/-- CLK_GATE (R377); `busy` are the groups in a bus access, with the ticks that it still takes (R30). -/
def execClkGate (p : Path) (tag : Byte) (v : BitVec 32) (busy : List (Fin 25 × Nat)) (s : State) : Out :=
  hostWrite p tag 0x2230 0 (leBytes 4 v.toNat) s { busy := busy.map fun x => (x.1.val, x.2) }
/-- SYNC_ARM (R36). -/
def execSyncArm (p : Path) (tag : Byte) (s : State) : Out := hostWrite p tag 0x2101 0 [1] s
/-- SYNC_FIRE (R36). -/
def execSyncFire (p : Path) (tag : Byte) (s : State) : Out := hostWrite p tag 0x2101 0 [2] s
/-- SYNC_DISARM (R38). -/
def execSyncDisarm (p : Path) (tag : Byte) (s : State) : Out := hostWrite p tag 0x2101 0 [3] s
/-- RELOCK (R359). -/
def execRelock (p : Path) (tag : Byte) (s : State) : Out := hostWrite p tag 0x2182 0 [1] s

/-! ### Image, run, stream and trigger -/

/-- LOAD (R68). -/
def execLoad (p : Path) (tag : Byte) (s : State) : Out := hostWrite p tag 0x2011 0 [1] s
/-- UNLOAD (R69). -/
def execUnload (p : Path) (tag : Byte) (s : State) : Out := hostWrite p tag 0x2011 0 [2] s
/-- START (R88). -/
def execStart (p : Path) (tag : Byte) (s : State) : Out := hostWrite p tag 0x2018 0 [1] s
/-- STOP (R89). -/
def execStop (p : Path) (tag : Byte) (s : State) : Out := hostWrite p tag 0x2018 0 [2] s
/-- ABORT (R90). -/
def execAbort (p : Path) (tag : Byte) (s : State) : Out := hostWrite p tag 0x2018 0 [3] s
/-- STREAM_CLOSE (R219). -/
def execStreamClose (p : Path) (tag : Byte) (s : State) : Out := hostWrite p tag 0x8340 0 [0] s
/-- OPEN_STREAM (R219). -/
def execOpenStream (p : Path) (tag : Byte) (s : State) : Out := hostWrite p tag 0x8340 0 [1] s
/-- OPEN_QUEUE (R219). -/
def execOpenQueue (p : Path) (tag : Byte) (s : State) : Out := hostWrite p tag 0x8340 0 [2] s
/-- TRG_ARM (R199). -/
def execTrgArm (p : Path) (tag : Byte) (s : State) : Out := hostWrite p tag 0x8300 0 [1] s
/-- TRG_DISARM (R200). -/
def execTrgDisarm (p : Path) (tag : Byte) (s : State) : Out := hostWrite p tag 0x8300 0 [2] s

/-! ### Profiles -/

/-- RGN_PROFILE_REQ (R242). -/
def execRgnProfileReq (p : Path) (tag : Byte) (g : RgnNo) (v : Byte) (s : State) : Out := hostWrite p tag (0x3000 + 0x100 * g.val) 2 [v] s
/-- PKG_PROFILE_REQ (R244). -/
def execPkgProfileReq (p : Path) (tag : Byte) (v : BitVec 16) (s : State) : Out := hostWrite p tag 0x2020 0 (leBytes 2 v.toNat) s
/-- RGN_KRN_LAYOUT (R241). -/
def execRgnKrnLayout (p : Path) (tag : Byte) (g : RgnNo) (v : Byte) (s : State) : Out := hostWrite p tag (0x3000 + 0x100 * g.val) 9 [v] s

/-! ### Queues, truss and timers -/

/-- QUE_PUSH (R260). -/
def execQuePush (p : Path) (tag : Byte) (bytes : List Byte) (s : State) : Out := hostWrite p tag 0x8005 0 bytes s
/-- QUE_POP (R257). -/
def execQuePop (p : Path) (tag : Byte) (s : State) : Out := hostRead p tag 0x8006 0 s
/-- QUE_PKT (R251). -/
def execQuePkt (p : Path) (tag : Byte) (s : State) : Out := hostRead p tag 0x8007 0 s
/-- QUE_CMD_FLUSH (R263). -/
def execQueCmdFlush (p : Path) (tag : Byte) (s : State) : Out := hostWrite p tag 0x8004 0 [1] s
/-- QUE_CMD_DROP (R263). -/
def execQueCmdDrop (p : Path) (tag : Byte) (s : State) : Out := hostWrite p tag 0x8004 0 [2] s
/-- EVT_CH_PROD (R270). -/
def execEvtChProd (p : Path) (tag : Byte) (slot : Fin 8) (v : BitVec 16) (s : State) : Out :=
  hostWrite p tag 0x8101 (slot.val + 1) (leBytes 2 v.toNat) s
/-- TIM_RUN (R280). -/
def execTimRun (p : Path) (tag : Byte) (n : Fin 32) (s : State) : Out := hostWrite p tag (0x8140 + n.val) 1 [1] s
/-- TIM_STOP (R279). -/
def execTimStop (p : Path) (tag : Byte) (n : Fin 32) (s : State) : Out := hostWrite p tag (0x8140 + n.val) 1 [0] s

/-! ### Control store -/

/-- MCS_PATCH (R103). -/
def execMcsPatch (p : Path) (tag : Byte) (bytes : List Byte) (s : State) : Out := hostWrite p tag 0x8210 0 bytes s
/-- MCS_BOOT_PATCH (R104). -/
def execMcsBootPatch (p : Path) (tag : Byte) (kind : Fin 13) (bytes : List Byte) (s : State) : Out :=
  hostWrite p tag 0x8211 (kind.val + 1) bytes s

/-! ### Cluster memories, outputs and coefficients -/

/-- CLU_SEG_DESC (R119). -/
def execCluSegDesc (p : Path) (tag : Byte) (c : CluNo) (v : Word) (s : State) : Out :=
  hostWrite p tag (0x4011 + 0x100 * c.val) 1 (leBytes 8 v.toNat) s
/-- CLU_SEG_DATA (R120). -/
def execCluSegData (p : Path) (tag : Byte) (c : CluNo) (bytes : List Byte) (s : State) : Out :=
  hostWrite p tag (0x4012 + 0x100 * c.val) 0 bytes s
/-- DRV_MUTE, or PRB_MUTE (R136); there is no PRB channel above 15. -/
def execDrvMute (p : Path) (tag : Byte) (prb : Bool) (n : Fin 64) (v : Byte) (s : State) : Out :=
  if prb then (if n.val < 16 then hostWrite p tag (0x5800 + 0x20 * n.val) 2 [v] s else .next s)
  else hostWrite p tag (0x5000 + 0x20 * n.val) 2 [v] s
/-- DRV_XTAP (R134). -/
def execDrvXtap (p : Path) (tag : Byte) (n : Fin 64) (tap : Fin 8) (v : Word) (s : State) : Out :=
  hostWrite p tag (0x5001 + 0x20 * n.val) (tap.val + 1) (leBytes 8 v.toNat) s

/-- An index and sub-index name a flux coefficient (R145). -/
def isFluxCoef (idx sub : Nat) : Option ObjType :=
  match findObj idx sub with
  | .obj row _ =>
    if row.reg = .FLX_ALPHA ∨ row.reg = .FLX_BETA ∨ row.reg = .FLX_FIR ∨ row.reg = .CLU_FLUX_MTX then some row.ty else none
  | _ => none

/-- FLX_COEF_WRITE (R147): ALPHA, BETA, FIR or matrix coefficient by index and sub-index; the low bytes of v are its value. -/
def execFlxCoefWrite (p : Path) (tag : Byte) (index : BitVec 16) (sub : Byte) (v : BitVec 32) (s : State) : Out :=
  match isFluxCoef index.toNat sub.toNat with
  | some ty => hostWrite p tag index.toNat sub.toNat (leBytes ty.size v.toNat) s
  | none => .next s
/-- FLX_SET (R160). -/
def execFlxSet (p : Path) (tag : Byte) (n : Fin 128) (v : BitVec 16) (s : State) : Out :=
  hostWrite p tag (0x5C04 + 8 * n.val) 5 (leBytes 2 v.toNat) s
/-- BIA_SET (R160). -/
def execBiaSet (p : Path) (tag : Byte) (n : Fin 256) (v : Word) (s : State) : Out :=
  hostWrite p tag (0x6000 + 8 * n.val) 6 (leBytes 8 v.toNat) s
/-- BIA_SENSE (R158). -/
def execBiaSense (p : Path) (tag : Byte) (n : Fin 256) (v : Byte) (s : State) : Out := hostWrite p tag (0x6000 + 8 * n.val) 5 [v] s
/-- CLU_KRN_DATA (R182). -/
def execCluKrnData (p : Path) (tag : Byte) (c : CluNo) (bytes : List Byte) (s : State) : Out :=
  hostWrite p tag (0x4031 + 0x100 * c.val) 0 bytes s
/-- CLU_DISC_DATA (R182). -/
def execCluDiscData (p : Path) (tag : Byte) (c : CluNo) (bytes : List Byte) (s : State) : Out :=
  hostWrite p tag (0x4033 + 0x100 * c.val) 0 bytes s

/-! ### DRAM -/

/-- DRM_RATE (R295). -/
def execDrmRate (p : Path) (tag : Byte) (v : BitVec 16) (s : State) : Out := hostWrite p tag 0x2401 0 (leBytes 2 v.toNat) s
/-- DRM_MAP (R286). -/
def execDrmMap (p : Path) (tag : Byte) (v : Byte) (s : State) : Out := hostWrite p tag 0x2402 0 [v] s
/-- DRM_CHTAB (R285). -/
def execDrmChtab (p : Path) (tag : Byte) (v : BitVec 32) (s : State) : Out := hostWrite p tag 0x2403 0 (leBytes 4 v.toNat) s
/-- DRM_BIST_START (R300). -/
def execDrmBistStart (p : Path) (tag : Byte) (v : BitVec 32) (s : State) : Out := hostWrite p tag 0x2460 1 (leBytes 4 v.toNat) s
/-- DRM_WIN_READ (R303): a read of `len` bytes from DRM_WIN_ADDR on. -/
def execDrmWinRead (p : Path) (tag : Byte) (len : Nat) (s : State) : Out := hostRead p tag 0x2451 0 s { win := some len }
/-- DRM_WIN_WRITE (R303). -/
def execDrmWinWrite (p : Path) (tag : Byte) (bytes : List Byte) (s : State) : Out := hostWrite p tag 0x2451 0 bytes s

/-! ### Links, persistence, monitor ADC, thermal and life cycle -/

/-- LNK_HL_RETRAIN (R313). -/
def execLnkHlRetrain (p : Path) (tag : Byte) (v : Byte) (s : State) : Out := hostWrite p tag 0x2510 4 [v] s
/-- LNK_VP_ENABLE (R327). -/
def execLnkVpEnable (p : Path) (tag : Byte) (v : Byte) (s : State) : Out := hostWrite p tag 0x2531 1 [v] s
/-- REGISTER_WRITE (R330): any object, by index and sub-index. -/
def execRegisterWrite (p : Path) (tag : Byte) (index : BitVec 16) (sub : Byte) (bytes : List Byte) (s : State) : Out :=
  hostWrite p tag index.toNat sub.toNat bytes s
/-- COMMIT (R348). -/
def execCommit (p : Path) (tag : Byte) (s : State) : Out := hostWrite p tag 0x2700 0 [1] s
/-- MON_SEQ_START (R385). -/
def execMonSeqStart (p : Path) (tag : Byte) (s : State) : Out := hostWrite p tag 0x2381 8 [1] s
/-- MON_SEQ_STOP (R388). -/
def execMonSeqStop (p : Path) (tag : Byte) (s : State) : Out := hostWrite p tag 0x2381 8 [2] s
/-- MON_INJ (R390). -/
def execMonInj (p : Path) (tag : Byte) (v : BitVec 32) (s : State) : Out := hostWrite p tag 0x2384 1 (leBytes 4 v.toNat) s
/-- MON_CAL_START (R392). -/
def execMonCalStart (p : Path) (tag : Byte) (s : State) : Out := hostWrite p tag 0x2385 1 [1] s
/-- THM_FORCE_CLR (R405). -/
def execThmForceClr (p : Path) (tag : Byte) (v : Byte) (s : State) : Out := hostWrite p tag 0x2302 0 [v] s
/-- RESUME (R407). -/
def execResume (p : Path) (tag : Byte) (s : State) : Out := hostWrite p tag 0x2301 0 [1] s
/-- LCS_REQ (R427). -/
def execLcsReq (p : Path) (tag : Byte) (v : Byte) (s : State) : Out := hostWrite p tag 0x2713 0 [v] s
/-- LCS_CONFIRM (R427). -/
def execLcsConfirm (p : Path) (tag : Byte) (v : Byte) (s : State) : Out := hostWrite p tag 0x2714 0 [v] s

end Sys2Proof.Machine
end

