-- ==== Sys2Proof/Machine/Schedule.lean ====
section
/-! DEFINITION. The schedule rows (R75): one packet of an engine's stream, or the going on of a routine that a patch reaches. -/

namespace Sys2Proof.Machine

/-- A routine that a patch reaches is under way, or begins with the engine's next packet (R97, R99). -/
def patchRuns (s : State) (e : Nat) : Bool :=
  (eget s e).micro.at_.isSome ||
    (nextPacket s e).any fun p => p.head?.any fun q => reached s (e % 8) (schedOp q.data)

/-- A row of an engine's schedule opcode: the frame with the opcode's effect, and the routine where a patch reaches it; a routine
of more than 256 microwords goes on at the engine's next row. -/
def schedRow (op : Nat) (e : EngNo) (mcBad : Bool) (effect : List QWord → State → State) (s : State) : Out :=
  let t := schedFrame op e.val mcBad effect s
  .next (if patchRuns s e.val then microRun e.val 256 t else t)

/-- SCHED_NOP (R75), and the drop of an excluded opcode (R78). -/
def execSchedNop (e : EngNo) (mcBad : Bool) (s : State) : Out :=
  schedRow 0x00 e mcBad (fun ws t => afterPacket e.val (execOpcode e.val 0x00 (consume e.val ws.length t))) s

/-- SCHED_PLAY (R74). -/
def execSchedPlay (e : EngNo) (mcBad : Bool) (s : State) : Out :=
  schedRow 0x01 e mcBad (emitOpcode 0x01 e.val) s

/-- SCHED_JUMP (R74). -/
def execSchedJump (e : EngNo) (mcBad : Bool) (s : State) : Out :=
  schedRow 0x02 e mcBad (emitOpcode 0x02 e.val) s

/-- SCHED_HOLD (R74). -/
def execSchedHold (e : EngNo) (mcBad : Bool) (s : State) : Out :=
  schedRow 0x03 e mcBad (emitOpcode 0x03 e.val) s

/-- SCHED_FREQ (R74). -/
def execSchedFreq (e : EngNo) (mcBad : Bool) (s : State) : Out :=
  schedRow 0x04 e mcBad (emitOpcode 0x04 e.val) s

/-- SCHED_PHASE (R74). -/
def execSchedPhase (e : EngNo) (mcBad : Bool) (s : State) : Out :=
  schedRow 0x05 e mcBad (emitOpcode 0x05 e.val) s

/-- SCHED_FLUX (R74). -/
def execSchedFlux (e : EngNo) (mcBad : Bool) (s : State) : Out :=
  schedRow 0x06 e mcBad (emitOpcode 0x06 e.val) s

/-- SCHED_BIAS (R74). -/
def execSchedBias (e : EngNo) (mcBad : Bool) (s : State) : Out :=
  schedRow 0x07 e mcBad (emitOpcode 0x07 e.val) s

/-- SCHED_CAPTURE (R74). -/
def execSchedCapture (e : EngNo) (mcBad : Bool) (s : State) : Out :=
  schedRow 0x08 e mcBad (emitOpcode 0x08 e.val) s

/-- SCHED_MARK (R74). -/
def execSchedMark (e : EngNo) (mcBad : Bool) (s : State) : Out :=
  schedRow 0x09 e mcBad (emitOpcode 0x09 e.val) s

/-- SCHED_ALT (R82). -/
def execSchedAlt (e : EngNo) (mcBad : Bool) (s : State) : Out :=
  schedRow 0x10 e mcBad (altEffect e.val) s

/-- SCHED_SELECT (R83). -/
def execSchedSelect (e : EngNo) (mcBad : Bool) (s : State) : Out :=
  schedRow 0x11 e mcBad (selectEffect e.val) s

/-- SCHED_WAITEVT (R81). -/
def execSchedWaitevt (e : EngNo) (mcBad : Bool) (s : State) : Out :=
  schedRow 0x20 e mcBad (waitevtEffect e.val) s

/-- SCHED_RAISE (R81, R271). -/
def execSchedRaise (e : EngNo) (mcBad : Bool) (s : State) : Out :=
  schedRow 0x21 e mcBad (fun _ t => afterPacket e.val (raise e.val (execOpcode e.val 0x21 (consume e.val 1 t)))) s

/-- SCHED_LOOP (R80). -/
def execSchedLoop (e : EngNo) (mcBad : Bool) (s : State) : Out :=
  schedRow 0x28 e mcBad (loopEffect e.val) s

/-- SCHED_BRANCH (R83, R232). -/
def execSchedBranch (e : EngNo) (mcBad : Bool) (s : State) : Out :=
  schedRow 0x30 e mcBad (branchEffect e.val) s

/-- SCHED_BOUNDARY (R85). -/
def execSchedBoundary (e : EngNo) (mcBad : Bool) (s : State) : Out :=
  schedRow 0xF0 e mcBad (arriveEffect e.val 0xF0) s

/-- SCHED_END (R85). -/
def execSchedEnd (e : EngNo) (mcBad : Bool) (s : State) : Out :=
  schedRow 0xF1 e mcBad (arriveEffect e.val 0xF1) s

end Sys2Proof.Machine
end

