-- ==== Sys2Proof/Machine/Dispatch.lean ====
section
/-! DEFINITION. One arm per command: the meaning it calls. -/

namespace Sys2Proof.Machine

/-- The effect of a command on everything but the queue. -/
def exec (i : Instr) (s : State) : Host.Outcome State Fault Refusal :=
  match i with
  | .powerGood stdly node => Sys2Proof.Machine.execPowerGood stdly node s
  | .supplyLoss => Sys2Proof.Machine.execSupplyLoss s
  | .resetNAssert ns => Sys2Proof.Machine.execResetNAssert ns s
  | .pkgReset p tag v => Sys2Proof.Machine.execPkgReset p tag v s
  | .dictionaryResetBegin => Sys2Proof.Machine.execDictionaryResetBegin s
  | .fuseRead a b parityOk => Sys2Proof.Machine.execFuseRead a b parityOk s
  | .memoryWipeDone => Sys2Proof.Machine.execMemoryWipeDone s
  | .nvmBootRead answers mbit => Sys2Proof.Machine.execNvmBootRead answers mbit s
  | .xtaStartDelay => Sys2Proof.Machine.execXtaStartDelay s
  | .xtbStartDelay => Sys2Proof.Machine.execXtbStartDelay s
  | .trefSelect => Sys2Proof.Machine.execTrefSelect s
  | .monitorWindow m ppm other locked => Sys2Proof.Machine.execMonitorWindow m ppm other locked s
  | .timelineCopyCompare bad => Sys2Proof.Machine.execTimelineCopyCompare bad s
  | .bdRefTick d count => Sys2Proof.Machine.execBdRefTick d count s
  | .converterCalibrationDone d => Sys2Proof.Machine.execConverterCalibrationDone d s
  | .clkMgmtSel p tag v => Sys2Proof.Machine.execClkMgmtSel p tag v s
  | .fmcStart p tag v => Sys2Proof.Machine.execFmcStart p tag v s
  | .fmcDone count => Sys2Proof.Machine.execFmcDone count s
  | .clkGate p tag v busy => Sys2Proof.Machine.execClkGate p tag v busy s
  | .gateForceClose group => Sys2Proof.Machine.execGateForceClose group s
  | .vidfChange => Sys2Proof.Machine.execVidfChange s
  | .syncArm p tag => Sys2Proof.Machine.execSyncArm p tag s
  | .syncFire p tag => Sys2Proof.Machine.execSyncFire p tag s
  | .syncDisarm p tag => Sys2Proof.Machine.execSyncDisarm p tag s
  | .syncOutPulse => Sys2Proof.Machine.execSyncOutPulse s
  | .syncInEdge => Sys2Proof.Machine.execSyncInEdge s
  | .alignment => Sys2Proof.Machine.execAlignment s
  | .load p tag => Sys2Proof.Machine.execLoad p tag s
  | .loadComplete => Sys2Proof.Machine.execLoadComplete s
  | .unload p tag => Sys2Proof.Machine.execUnload p tag s
  | .start p tag => Sys2Proof.Machine.execStart p tag s
  | .stop p tag => Sys2Proof.Machine.execStop p tag s
  | .abort p tag => Sys2Proof.Machine.execAbort p tag s
  | .scheduleFetchChunk e => Sys2Proof.Machine.execScheduleFetchChunk e s
  | .schedulePacketDelivery e => Sys2Proof.Machine.execSchedulePacketDelivery e s
  | .schedNop e mcBad => Sys2Proof.Machine.execSchedNop e mcBad s
  | .schedPlay e mcBad => Sys2Proof.Machine.execSchedPlay e mcBad s
  | .schedJump e mcBad => Sys2Proof.Machine.execSchedJump e mcBad s
  | .schedHold e mcBad => Sys2Proof.Machine.execSchedHold e mcBad s
  | .schedFreq e mcBad => Sys2Proof.Machine.execSchedFreq e mcBad s
  | .schedPhase e mcBad => Sys2Proof.Machine.execSchedPhase e mcBad s
  | .schedFlux e mcBad => Sys2Proof.Machine.execSchedFlux e mcBad s
  | .schedBias e mcBad => Sys2Proof.Machine.execSchedBias e mcBad s
  | .schedCapture e mcBad => Sys2Proof.Machine.execSchedCapture e mcBad s
  | .schedMark e mcBad => Sys2Proof.Machine.execSchedMark e mcBad s
  | .schedAlt e mcBad => Sys2Proof.Machine.execSchedAlt e mcBad s
  | .schedSelect e mcBad => Sys2Proof.Machine.execSchedSelect e mcBad s
  | .schedWaitevt e mcBad => Sys2Proof.Machine.execSchedWaitevt e mcBad s
  | .schedRaise e mcBad => Sys2Proof.Machine.execSchedRaise e mcBad s
  | .schedLoop e mcBad => Sys2Proof.Machine.execSchedLoop e mcBad s
  | .schedBranch e mcBad => Sys2Proof.Machine.execSchedBranch e mcBad s
  | .schedBoundary e mcBad => Sys2Proof.Machine.execSchedBoundary e mcBad s
  | .schedEnd e mcBad => Sys2Proof.Machine.execSchedEnd e mcBad s
  | .barrierRelease e => Sys2Proof.Machine.execBarrierRelease e s
  | .fifoWaitEnd e => Sys2Proof.Machine.execFifoWaitEnd e s
  | .edgeCommandArrival f => Sys2Proof.Machine.execEdgeCommandArrival f s
  | .edgeFifoRead f bad => Sys2Proof.Machine.execEdgeFifoRead f bad s
  | .play f badAt => Sys2Proof.Machine.execPlay f badAt s
  | .jump f => Sys2Proof.Machine.execJump f s
  | .hold f => Sys2Proof.Machine.execHold f s
  | .freq f => Sys2Proof.Machine.execFreq f s
  | .phase f => Sys2Proof.Machine.execPhase f s
  | .flux f => Sys2Proof.Machine.execFlux f s
  | .bias f => Sys2Proof.Machine.execBias f s
  | .capture f => Sys2Proof.Machine.execCapture f s
  | .mark f => Sys2Proof.Machine.execMark f s
  | .stage f => Sys2Proof.Machine.execStage f s
  | .select f => Sys2Proof.Machine.execSelect f s
  | .jumpSamplingPoint f => Sys2Proof.Machine.execJumpSamplingPoint f s
  | .segmentBoundary f badAt => Sys2Proof.Machine.execSegmentBoundary f badAt s
  | .markPulseEnd c => Sys2Proof.Machine.execMarkPulseEnd c s
  | .tapParityFailure n tap => Sys2Proof.Machine.execTapParityFailure n tap s
  | .biasUpdate limited senseBad => Sys2Proof.Machine.execBiasUpdate limited senseBad s
  | .biasSafeLoad d => Sys2Proof.Machine.execBiasSafeLoad d s
  | .windowClose t xs bad => Sys2Proof.Machine.execWindowClose t xs bad s
  | .traceWindowClose c xs full => Sys2Proof.Machine.execTraceWindowClose c xs full s
  | .verdictOutput t marks => Sys2Proof.Machine.execVerdictOutput t marks s
  | .hotTrip a => Sys2Proof.Machine.execHotTrip a s
  | .hotRelease a => Sys2Proof.Machine.execHotRelease a s
  | .acqCalStepStart a => Sys2Proof.Machine.execAcqCalStepStart a s
  | .acqCalStepDone a => Sys2Proof.Machine.execAcqCalStepDone a s
  | .acqCalStale a => Sys2Proof.Machine.execAcqCalStale a s
  | .haltRaise c => Sys2Proof.Machine.execHaltRaise c s
  | .shotBoundary => Sys2Proof.Machine.execShotBoundary s
  | .recordArrival c => Sys2Proof.Machine.execRecordArrival c s
  | .setComplete shot => Sys2Proof.Machine.execSetComplete shot s
  | .streamPacketSend => Sys2Proof.Machine.execStreamPacketSend s
  | .recordToQueue => Sys2Proof.Machine.execRecordToQueue s
  | .streamClose p tag => Sys2Proof.Machine.execStreamClose p tag s
  | .openStream p tag => Sys2Proof.Machine.execOpenStream p tag s
  | .openQueue p tag => Sys2Proof.Machine.execOpenQueue p tag s
  | .conditionCrossing n m before xs => Sys2Proof.Machine.execConditionCrossing n m before xs s
  | .trigInEdge pin rising code => Sys2Proof.Machine.execTrigInEdge pin rising code s
  | .triggerFire m => Sys2Proof.Machine.execTriggerFire m s
  | .trgArm p tag => Sys2Proof.Machine.execTrgArm p tag s
  | .trgDisarm p tag => Sys2Proof.Machine.execTrgDisarm p tag s
  | .armGrainReached => Sys2Proof.Machine.execArmGrainReached s
  | .armMessage => Sys2Proof.Machine.execArmMessage s
  | .disarmMessage => Sys2Proof.Machine.execDisarmMessage s
  | .fireMessage => Sys2Proof.Machine.execFireMessage s
  | .captureEventWindow c => Sys2Proof.Machine.execCaptureEventWindow c s
  | .verdictBusMessage d bad => Sys2Proof.Machine.execVerdictBusMessage d bad s
  | .vreMessage => Sys2Proof.Machine.execVreMessage s
  | .verdictBlockSend q => Sys2Proof.Machine.execVerdictBlockSend q s
  | .verdictBlockReceive lane => Sys2Proof.Machine.execVerdictBlockReceive lane s
  | .breChoice c slot bad => Sys2Proof.Machine.execBreChoice c slot bad s
  | .selectRegisterTake c slot => Sys2Proof.Machine.execSelectRegisterTake c slot s
  | .armingDeadline c slot => Sys2Proof.Machine.execArmingDeadline c slot s
  | .rgnProfileReq p tag g v => Sys2Proof.Machine.execRgnProfileReq p tag g v s
  | .pkgProfileReq p tag v => Sys2Proof.Machine.execPkgProfileReq p tag v s
  | .profileChange g => Sys2Proof.Machine.execProfileChange g s
  | .profileMuteEnd g => Sys2Proof.Machine.execProfileMuteEnd g s
  | .rgnKrnLayout p tag g v => Sys2Proof.Machine.execRgnKrnLayout p tag g v s
  | .queueWrite q writer w tags bad => Sys2Proof.Machine.execQueueWrite q writer w tags bad s
  | .waitingWriteResume q => Sys2Proof.Machine.execWaitingWriteResume q s
  | .queueRead q bad brokenLink => Sys2Proof.Machine.execQueueRead q bad brokenLink s
  | .queueDrop q => Sys2Proof.Machine.execQueueDrop q s
  | .queueFlush q => Sys2Proof.Machine.execQueueFlush q s
  | .quePush p tag bytes => Sys2Proof.Machine.execQuePush p tag bytes s
  | .quePop p tag => Sys2Proof.Machine.execQuePop p tag s
  | .quePkt p tag => Sys2Proof.Machine.execQuePkt p tag s
  | .queCmdFlush p tag => Sys2Proof.Machine.execQueCmdFlush p tag s
  | .queCmdDrop p tag => Sys2Proof.Machine.execQueCmdDrop p tag s
  | .channelEvent ch => Sys2Proof.Machine.execChannelEvent ch s
  | .eventDelivery con => Sys2Proof.Machine.execEventDelivery con s
  | .evtChProd p tag slot v => Sys2Proof.Machine.execEvtChProd p tag slot v s
  | .timerFire n => Sys2Proof.Machine.execTimerFire n s
  | .timRun p tag n => Sys2Proof.Machine.execTimRun p tag n s
  | .timStop p tag n => Sys2Proof.Machine.execTimStop p tag n s
  | .trussPulseStart c => Sys2Proof.Machine.execTrussPulseStart c s
  | .trussPulseEnd c => Sys2Proof.Machine.execTrussPulseEnd c s
  | .mcsPatch p tag bytes => Sys2Proof.Machine.execMcsPatch p tag bytes s
  | .mcsBootPatch p tag kind bytes => Sys2Proof.Machine.execMcsBootPatch p tag kind bytes s
  | .engineRestart k ramFault => Sys2Proof.Machine.execEngineRestart k ramFault s
  | .cluSegDesc p tag c v => Sys2Proof.Machine.execCluSegDesc p tag c v s
  | .cluSegData p tag c bytes => Sys2Proof.Machine.execCluSegData p tag c bytes s
  | .refillEntryStart c => Sys2Proof.Machine.execRefillEntryStart c s
  | .refillEntryDone c => Sys2Proof.Machine.execRefillEntryDone c s
  | .drvMute p tag prb n v => Sys2Proof.Machine.execDrvMute p tag prb n v s
  | .drvXtap p tag n tap v => Sys2Proof.Machine.execDrvXtap p tag n tap v s
  | .flxCoefWrite p tag index sub v => Sys2Proof.Machine.execFlxCoefWrite p tag index sub v s
  | .flxSet p tag n v => Sys2Proof.Machine.execFlxSet p tag n v s
  | .biaSet p tag n v => Sys2Proof.Machine.execBiaSet p tag n v s
  | .biaSense p tag n v => Sys2Proof.Machine.execBiaSense p tag n v s
  | .cluKrnData p tag c bytes => Sys2Proof.Machine.execCluKrnData p tag c bytes s
  | .cluDiscData p tag c bytes => Sys2Proof.Machine.execCluDiscData p tag c bytes s
  | .drmRate p tag v => Sys2Proof.Machine.execDrmRate p tag v s
  | .drmMap p tag v => Sys2Proof.Machine.execDrmMap p tag v s
  | .drmChtab p tag v => Sys2Proof.Machine.execDrmChtab p tag v s
  | .trainingStepDone ch ok org => Sys2Proof.Machine.execTrainingStepDone ch ok org s
  | .retrainStepStart ch => Sys2Proof.Machine.execRetrainStepStart ch s
  | .retrainStepDone ch ok => Sys2Proof.Machine.execRetrainStepDone ch ok s
  | .retrainAbandon ch => Sys2Proof.Machine.execRetrainAbandon ch s
  | .dramBurst ch reqs badWords => Sys2Proof.Machine.execDramBurst ch reqs badWords s
  | .refreshDue ch rank => Sys2Proof.Machine.execRefreshDue ch rank s
  | .mr4Poll hot err => Sys2Proof.Machine.execMr4Poll hot err s
  | .wipeComplete => Sys2Proof.Machine.execWipeComplete s
  | .drmBistStart p tag v => Sys2Proof.Machine.execDrmBistStart p tag v s
  | .bistDone at_ data par => Sys2Proof.Machine.execBistDone at_ data par s
  | .drmWinRead p tag len => Sys2Proof.Machine.execDrmWinRead p tag len s
  | .drmWinWrite p tag bytes => Sys2Proof.Machine.execDrmWinWrite p tag bytes s
  | .blockReceive lane raw more => Sys2Proof.Machine.execBlockReceive lane raw more s
  | .ppmMeasure lane ppm => Sys2Proof.Machine.execPpmMeasure lane ppm s
  | .lossOfSignal lane => Sys2Proof.Machine.execLossOfSignal lane s
  | .lossOfLock lane => Sys2Proof.Machine.execLossOfLock lane s
  | .lnkHlRetrain p tag v => Sys2Proof.Machine.execLnkHlRetrain p tag v s
  | .linkPacketReceive => Sys2Proof.Machine.execLinkPacketReceive s
  | .ack => Sys2Proof.Machine.execAck s
  | .nak => Sys2Proof.Machine.execNak s
  | .credit => Sys2Proof.Machine.execCredit s
  | .ackSend => Sys2Proof.Machine.execAckSend s
  | .creditSend => Sys2Proof.Machine.execCreditSend s
  | .retransmitTimeout => Sys2Proof.Machine.execRetransmitTimeout s
  | .uploadWrite => Sys2Proof.Machine.execUploadWrite s
  | .lnkVpEnable p tag v => Sys2Proof.Machine.execLnkVpEnable p tag v s
  | .ydpRead p => Sys2Proof.Machine.execYdpRead p s
  | .ydpWrite p => Sys2Proof.Machine.execYdpWrite p s
  | .writeInit p => Sys2Proof.Machine.execWriteInit p s
  | .writeSeg p => Sys2Proof.Machine.execWriteSeg p s
  | .readSeg p => Sys2Proof.Machine.execReadSeg p s
  | .ydpAbort p => Sys2Proof.Machine.execYdpAbort p s
  | .segmentTimeout p => Sys2Proof.Machine.execSegmentTimeout p s
  | .registerWrite p tag index sub bytes => Sys2Proof.Machine.execRegisterWrite p tag index sub bytes s
  | .commit p tag => Sys2Proof.Machine.execCommit p tag s
  | .nvmEraseDone => Sys2Proof.Machine.execNvmEraseDone s
  | .pageProgramDone ok => Sys2Proof.Machine.execPageProgramDone ok s
  | .ptpFrameReceive port fr => Sys2Proof.Machine.execPtpFrameReceive port fr s
  | .ptpSync => Sys2Proof.Machine.execPtpSync s
  | .ptpFollowUp => Sys2Proof.Machine.execPtpFollowUp s
  | .ptpDelayResp => Sys2Proof.Machine.execPtpDelayResp s
  | .ptpAnnounce => Sys2Proof.Machine.execPtpAnnounce s
  | .delayReqSend => Sys2Proof.Machine.execDelayReqSend s
  | .tcForward port => Sys2Proof.Machine.execTcForward port s
  | .receiptTimeout sync => Sys2Proof.Machine.execReceiptTimeout sync s
  | .tpLinkChange port up => Sys2Proof.Machine.execTpLinkChange port up s
  | .relock p tag => Sys2Proof.Machine.execRelock p tag s
  | .ppsEdge => Sys2Proof.Machine.execPpsEdge s
  | .ppsEnd => Sys2Proof.Machine.execPpsEnd s
  | .monSeqStart p tag => Sys2Proof.Machine.execMonSeqStart p tag s
  | .monSeqStop p tag => Sys2Proof.Machine.execMonSeqStop p tag s
  | .mauEntryStart u => Sys2Proof.Machine.execMauEntryStart u s
  | .conversionDone u conv raw => Sys2Proof.Machine.execConversionDone u conv raw s
  | .monInj p tag v => Sys2Proof.Machine.execMonInj p tag v s
  | .monCalStart p tag => Sys2Proof.Machine.execMonCalStart p tag s
  | .mauCalDone u ofs gain => Sys2Proof.Machine.execMauCalDone u ofs gain s
  | .refReady u ready => Sys2Proof.Machine.execRefReady u ready s
  | .thermalUpdate g pkgMw diode => Sys2Proof.Machine.execThermalUpdate g pkgMw diode s
  | .ladderStep => Sys2Proof.Machine.execLadderStep s
  | .thmForceClr p tag v => Sys2Proof.Machine.execThmForceClr p tag v s
  | .shutdownMute => Sys2Proof.Machine.execShutdownMute s
  | .shutdownBiasFault => Sys2Proof.Machine.execShutdownBiasFault s
  | .shutdownPllStop => Sys2Proof.Machine.execShutdownPllStop s
  | .shutdownComplete => Sys2Proof.Machine.execShutdownComplete s
  | .resume p tag => Sys2Proof.Machine.execResume p tag s
  | .scrubStep u addr bad => Sys2Proof.Machine.execScrubStep u addr bad s
  | .lcsReq p tag v => Sys2Proof.Machine.execLcsReq p tag v s
  | .lcsConfirm p tag v => Sys2Proof.Machine.execLcsConfirm p tag v s
  | .lcsReqExpire => Sys2Proof.Machine.execLcsReqExpire s
  | .lcsBurn readBack => Sys2Proof.Machine.execLcsBurn readBack s
  | .acqOverrange a m code => Sys2Proof.Machine.execAcqOverrange a m code s
  | .syncOutPulseEnd => Sys2Proof.Machine.execSyncOutPulseEnd s
  | .scrubStale u => Sys2Proof.Machine.execScrubStale u s
  | .blockSend lane => Sys2Proof.Machine.execBlockSend lane s
  | .canFrameReceive extended kind id bytes => Sys2Proof.Machine.execCanFrameReceive extended kind id bytes s
  | .canBusError tec rec => Sys2Proof.Machine.execCanBusError tec rec s
  | .busOffRecovery => Sys2Proof.Machine.execBusOffRecovery s

end Sys2Proof.Machine
end

