-- ==== Sys2Proof/Machine/Tick.lean ====
section
/-! DEFINITION. One grain passes (R3, R33): what the clocked edge and the counters do in it whatever is commanded. A step on
an empty queue is one tick (log 2). -/

namespace Sys2Proof.Machine

/-- Halts that stand in this grain count it (R240). -/
def haltGrain (s : State) : State :=
  (List.range 8).foldl (fun t g => if regionHalted t g then inc .RGN_HALT_GRAINS g t else t) s

/-- Halts end with the grain in which their windows close (R240). -/
def settleHalts (s : State) : State := (List.range 8).foldl (fun t g => lowerHalts g t) s

/-- Ports in panic count their grains (R289). -/
def panicGrain (s : State) : State :=
  (List.range 19).foldl (fun t p =>
    let t := settlePanic p t
    if t.dram.panic.contains p then incTo (2 ^ 64 - 1) .DRM_P_PANIC_GRAINS 1 p t else t) s

/-- The grain that begins at the present value of the timeline: the sample and flux chains (R34, R106, R140). -/
def edgeGrain (s : State) : State :=
  if s.tmlOn then pruneAcq (pruneTones s.tml (fluxGrain s.tml (toneGrain s.tml s))) else s

/-- The clocks go on by one grain (R3, R33, R355, R360, R363). -/
def advance (s : State) : State :=
  let t := ptpTick s
  let s := anchorNow { t with elapsed := t.elapsed + 1, tml := nextGrain t }
  if rn s .CLK_MGMT_SRC = 0 then flag .TNW_FIO 0 s else s

/-- One grain. While the reset is held nothing runs (R428). -/
def tick (s : State) : State :=
  if s.boot.phase = .held then { s with elapsed := s.elapsed + 1 }
  else settleVidf (settleHalts (advance (keystoneGrain (panicGrain (haltGrain (edgeGrain s))))))

end Sys2Proof.Machine
end

