-- ==== Sys2Proof/Safety.lean ====
section
/-! DEFINITION. What counts as a safe state and a safe run. A safe state holds its memories in canonical form and a run
state of R83; a safe run is one that no fault and no refusal stops. -/

namespace Sys2Proof.Machine

/-- The memories and buffers the spec gives the package are in canonical form: DRAM, segment, kernel and table memory, the
pool queues and the edge FIFOs list no entry that reads as an unlisted one, in rising order, and the dictionary's stored
values rise by key. -/
def Memory.wf (s : State) : Bool :=
  mwf 0 s.dram.cells && mwf 0 s.segMem && mwf 0 s.krn && mwf 0 s.tab && mwf {} s.queues && mwf {} s.fifos && mrising s.regs

/-- The run state is one of object 0x201B:01: IDLE, RUNNING, STOPPING or DONE. -/
def RunLegal (s : State) : Prop := rn s .PKG_RUN_STATE ≤ 3

/-- A run of n steps is safe: neither a fault nor a refusal stops it. -/
def SafeFor : Nat → State → Prop
  | 0, _ => True
  | n + 1, s => ∃ t, step s = .next t ∧ SafeFor n t

end Sys2Proof.Machine
end

