-- ==== Sys2Proof/Certificates/Slice0/Obligations.lean ====
section
/-! DEFINITION. The statements about the FQ512 for the provers: what a step is, what reset leaves, what every step keeps, and
for every command where it completes and what it leaves. A statement that rests on a choice of the model names the log entry. -/

namespace Sys2Proof.Claims

open Sys2Proof.Machine

/-- The answer of a command is a next state with a property. -/
def Gives (c : Instr) (s : State) (P : State → Prop) : Prop := ∃ t, exec c s = .next t ∧ P t

/-- PKG_RESET_CAUSE of a reset that begins (R429): POWER_ON stays until the first t_power_good. -/
def causeIn (cause : Nat) (s : State) : Nat := if s.boot.phase = .held ∧ rn s .PKG_RESET_CAUSE = 0 then 0 else cause

/-- Every stored object keeps its value but those that `f` names. -/
def RegsKept (s t : State) (f : Reg → Nat → Prop) : Prop := ∀ r i, ¬f r i → rd t r i = rd s r i

/-- The queue objects and their defaults (R268). -/
def queueDefaults : List (Reg × Int) := [(.QUE_SEL, 0), (.QUE_LIMIT, 1835008), (.QUE_HIGH_WM, 0), (.QUE_LOW_WM, 0), (.QUE_HIGH_FLAG, 0),
  (.QUE_LOW_FLAG, 0), (.QUE_HIGH_COUNT, 0), (.QUE_LOW_COUNT, 0), (.QUE_PEAK, 0), (.QUE_TROUGH, 0xFFFFFFFF), (.QUE_FLUSH_DISCARD, 0),
  (.QUE_FLUSH_CUTS, 0), (.QUE_DROPPED, 0), (.QUE_POISON, 0), (.QUE_FORCED_END, 0), (.QUE_FLUSHES, 0), (.QUE_OVERWRITTEN, 0),
  (.QUE_POOL_LOW, 262144), (.QUE_POOL_RESERVE, 8192), (.QUE_POOL_POISONED, 0), (.QUE_POOL_WAITS, 0), (.QUE_BROKEN, 0), (.QUE_EF_SEL, 0),
  (.QUE_EF_POISON, 0), (.QUE_EF_FLUSHED, 0), (.QUE_WM_EVT, 0)]

/-- The pool and the queues as every reset leaves them (R268): all cells free, every queue empty and closed with no writer in
discard-to-end, every queue object at its default, those computed from the queues and the edge FIFOs among them. -/
structure QueuesReset (t : State) : Prop where
  pool : t.queues = [] ∧ t.poolLost = 0 ∧ poolFree t = 262144
  queues : ∀ q, q < 32768 → qget t q = {} ∧ queueState (qget t q) = 0
  objects : ∀ x ∈ queueDefaults, ∀ i, rd t x.1 i = x.2
  fifos : ∀ f, (fget t f).wp = 0 ∧ (fget t f).rp = 0

/-- Everything the package holds is at its value after reset but the cause, the fuses, the NVM banks, and the commands that
wait (R429). -/
structure InReset (cause : Nat) (s t : State) : Prop where
  pending : t.pending = s.pending
  held : t.boot.phase = .held
  fuses : t.boot.fuses = s.boot.fuses
  bankA : t.nvm.bankA = s.nvm.bankA
  bankB : t.nvm.bankB = s.nvm.bankB
  cause : rn t .PKG_RESET_CAUSE = cause
  objects : ∀ r i, (r ≠ .PKG_RESET_CAUSE ∨ i ≠ 0) → rd t r i = r.dflt i
  timeline : t.tml = 0 ∧ t.tmlOn = false ∧ t.ptp = {}
  dram : t.dram = {}
  memory : t.segMem = [] ∧ t.segs = [] ∧ t.krn = [] ∧ t.tab = []
  queues : t.queues = [] ∧ t.poolLost = 0 ∧ poolFree t = 262144
  buffers : t.fifos = [] ∧ t.crossings = [] ∧ t.sets = [] ∧ t.stream = {}
  engines : t.engs = [] ∧ t.areas = [] ∧ t.run = {} ∧ t.image = {} ∧ t.patches = []
  host : t.path0 = {} ∧ t.path1 = {} ∧ t.hl = {} ∧ t.lanes = []

/-- Engine e runs outside a loop, with no command waiting to be written and no LOOP, ALT or routine under way; queue 0 begins with a
packet of the words `ws`, read without a fault so far, and its links are whole. -/
structure Heads (e : Nat) (ws : List (Word × Bool)) (rest : List QWord) (s : State) : Prop where
  run : (eget s e).state = .run
  loop : (eget s e).loop = none
  out : (eget s e).out = []
  gather : (eget s e).gather = none
  routine : (eget s e).micro.at_ = none
  words : (qget s (32 * e)).words = queueWords ws ++ rest
  clean : (qget s (32 * e)).cut = false ∧ (qget s (32 * e)).tainted = false ∧ (qget s (32 * e)).dead = []

/-- The engine stands at a packet without poison, whose opcode no patch of its kind reaches (R94, R97). -/
structure AtPacket (e : Nat) (ws : List Word) (rest : List QWord) (s : State) : Prop where
  heads : Heads e (ws.map fun w => (w, false)) rest s
  rom : reached s (e % 8) (schedOp (nthD ws 0 0)) = false

/-- The run ends as if host software had written ABORT (R90): at the closing boundary of the shot that ABORT voids, or at once where
there is none. -/
def EndsAsAbort (s t : State) : Prop :=
  match abortShot s with
  | some i => t.run.shots.length = i + 1 ∧ t.run.ending = some 3 ∧ t.run.aborted = true ∧ t.run.stopPending = false
  | none => t.run = { past := s.run.past } ∧ rn t .PKG_RUN_STATE = 3 ∧ rn t .PKG_RUN_END = 3

/-- The packet of n words has been executed: it has left queue 0, and ENG_PC and ENG_OPCODES have counted it. -/
structure Executed (e n : Nat) (rest : List QWord) (s t : State) : Prop where
  words : (qget t (32 * e)).words = rest
  pc : (eget t e).pc = ((eget s e).pc + 8 * n) % 2 ^ 64
  opcodes : (eget t e).opcodes = ((eget s e).opcodes + 1) % 2 ^ 64

/-- The row of an emitting opcode forms one edge command of its packet and writes it to the edge FIFO that TARGET names. -/
def Emits (row : EngNo → Bool → Instr) (op : Nat) : Prop :=
  ∀ (e : EngNo) (w0 : Word) (ws : List Word) (rest : List QWord) (f : Nat) (s : State), AtPacket e (w0 :: ws) rest s →
    schedOp w0 = op → ws.length + 1 = packetLen op → schedKind op (e.val % 8) = true → schedReserved op w0 = false →
    emitFifo e (eget s e) w0 = some f → fifoRoom (fget s f) = true →
    Gives (row e false) s fun t => Executed e (ws.length + 1) rest s t ∧
      (fget t f).incoming = (fget s f).incoming ++ [{ w0 := edgeWord0 (eget s e) w0 op, w1 := nthD ws 0 0 }] ∧
      ∀ g, g ≠ f → fget t g = fget s g

/-- A packet of n words breaks a rule: its engine does not have the opcode and no override gives it a handler, it is too short, a reserved
bit is set, or its TARGET or OFFSET is out of range (R76 to R78, R99). -/
def BreaksRule (e op n : Nat) (w0 : Word) (s : State) : Prop :=
  (schedKind op (e % 8) = false ∧ overrideOf s (e % 8) op = none) ∨ n < packetLen op ∨ (op ≠ 0x10 ∧ schedReserved op w0 = true) ∨
  ((1 ≤ op ∧ op ≤ 9 ∨ op = 0x11 ∧ n = 1) ∧ emitFifo e (eget s e) w0 = none)

/-- A row drops a packet of its opcode that breaks a rule, whether a patch reaches the opcode or not: nothing is emitted, the drop is
counted, and the shot that the engine expands is void with the cause 2 (R78, R413). -/
def DropsIllegal (row : EngNo → Bool → Instr) (op : Nat) : Prop :=
  ∀ (e : EngNo) (w0 : Word) (ws : List Word) (rest : List QWord) (s : State), Heads e ((w0 :: ws).map fun w => (w, false)) rest s →
    schedOp w0 = op → BreaksRule e op (ws.length + 1) w0 s →
    Gives (row e false) s fun t => rn t .ENG_ILLEGAL e = min 0xFFFFFFFF (rn s .ENG_ILLEGAL e + 1) ∧
      rn t .PKG_SCHED_ILLEGAL = min 0xFFFFFFFF (rn s .PKG_SCHED_ILLEGAL + 1) ∧ t.fifos = s.fifos ∧
      (eget t e).pc = ((eget s e).pc + 8 * (ws.length + 1)) % 2 ^ 64 ∧
      ((eget s e).len ≠ 0 → ∀ x ∈ s.run.shots, x.num = (eget s e).shot →
        ∃ y ∈ t.run.shots, y.num = x.num ∧ bitOf y.causes 2 = true)

/-- What ABORT does to the run, the engines, the schedule areas and the edge FIFOs, in a state u (R90). -/
structure AsAbort (u t : State) : Prop where
  run : t.run = (abortRun u).run
  state : rn t .PKG_RUN_STATE = rn (abortRun u) .PKG_RUN_STATE ∧ rn t .PKG_RUN_END = rn (abortRun u) .PKG_RUN_END
  engines : t.engs = (abortRun u).engs ∧ t.areas = (abortRun u).areas
  fifos : t.fifos = (abortRun u).fifos ∧ ∀ e, rn t .ENG_DISCARD e = rn (abortRun u) .ENG_DISCARD e

/-- An engine reads a poisoned word: both counters rise, and the run ends as by ABORT at the state in which the words read have left
queue 0 (R79). -/
def EndsPoisoned (e : Nat) (s t : State) : Prop :=
  rn t .ENG_POISON e = min 0xFFFFFFFF (rn s .ENG_POISON e + 1) ∧
  rn t .PKG_SCHED_POISON = min 0xFFFFFFFF (rn s .PKG_SCHED_POISON + 1) ∧
  ∃ u, AsAbort u t ∧ u.run = s.run ∧ u.tml = s.tml ∧ u.fifos = s.fifos ∧ u.areas = s.areas ∧ ∀ x, x ≠ e → eget u x = eget s x

/-- A row that reads a packet with PSN set in one of its words counts it, and the run ends as by ABORT (R79). -/
def PoisonEndsRun (row : EngNo → Bool → Instr) (op : Nat) : Prop :=
  ∀ (e : EngNo) (w : Word × Bool) (ws : List (Word × Bool)) (rest : List QWord) (s : State), Heads e (w :: ws) rest s →
    schedOp w.1 = op → (w :: ws).any (·.2) = true → inRun s = true → s.run.aborted = false → Gives (row e false) s (EndsPoisoned e s)

/-- The engine fetches a microword for a row of an opcode: at a packet of that opcode, in the LOOP body or ALT item that it reads, or
in a routine under way. -/
def Fetches (e op : Nat) (s : State) : Prop :=
  (eget s e).state = .run ∧
  ((eget s e).micro.at_.isSome = true ∨
   (eget s e).micro.at_ = none ∧ (∃ g, (eget s e).gather = some g ∧ g.op = op) ∨
   (eget s e).micro.at_ = none ∧ (eget s e).gather = none ∧ ∃ w ws, nextPacket s e = some (w :: ws) ∧ schedOp w.data = op)

/-- A row whose opcode meets a microword that fails parity counts it, and the run ends as by ABORT (R100). -/
def FaultEndsRun (row : EngNo → Bool → Instr) (op : Nat) : Prop :=
  ∀ (e : EngNo) (s : State), Fetches e op s → inRun s = true → s.run.aborted = false →
    Gives (row e true) s fun t => rn t .MCS_FAULT = min 0xFFFFFFFF (rn s .MCS_FAULT + 1) ∧ EndsAsAbort s t

/-- The loop after n words of its present pass, which have left `tail`: at the end of the words the next pass begins, or the loop ends
(R80). -/
def loopAfter (l : Loop) (tail : List Word) : Option Loop :=
  if tail ≠ [] then some { l with rest := tail }
  else if l.pass + 1 < l.count then some { l with pass := l.pass + 1, rest := l.body } else none

/-- The row of an emitting opcode forms the edge command of a packet in a loop body: its release has the loop base of its pass, and queue
0 keeps its words (R77, R80). -/
def EmitsInLoop (row : EngNo → Bool → Instr) (op : Nat) : Prop :=
  ∀ (e : EngNo) (l : Loop) (w0 : Word) (ws tail : List Word) (f : Nat) (s : State), (eget s e).state = .run → (eget s e).gather = none →
    (eget s e).out = [] → (eget s e).micro.at_ = none → (eget s e).loop = some l → l.rest = w0 :: ws ++ tail →
    schedOp w0 = op → ws.length + 1 = packetLen op → reached s (e.val % 8) op = false → schedKind op (e.val % 8) = true →
    schedReserved op w0 = false → emitFifo e (eget s e) w0 = some f → fifoRoom (fget s f) = true →
    Gives (row e false) s fun t => (fget t f).incoming = (fget s f).incoming ++
        [{ w0 := edgeWord0 (eget s e) w0 op, w1 := if op = 0x03 then 0 else nthD ws 0 0 }] ∧
      (∀ g, g ≠ f → fget t g = fget s g) ∧ (eget t e).loop = loopAfter l tail ∧ (eget t e).pc = (eget s e).pc ∧
      (eget t e).opcodes = ((eget s e).opcodes + 1) % 2 ^ 64 ∧ (qget t (32 * e.val)).words = (qget s (32 * e.val)).words

/-- Packets whose words carry no poison, as queue 0 holds them. -/
def cleanPackets (ps : List (List Word)) : List QWord := (ps.map fun p => queueWords (p.map fun w => (w, false))).flatten

/-- The engine's section goes on for the words of the packets after the word at ENG_PC. -/
def InSection (e : Nat) (ps : List (List Word)) (s : State) : Prop :=
  (eget s e).pc / 8 + ps.flatten.length < (aget s e).len ∧ (eget s e).pc + 8 * (1 + ps.flatten.length) < 2 ^ 64

/-- The engine has read a LOOP or ALT with the words `ws` of what belongs to it, and queue 0 goes on with packets of its section. -/
structure Gathers (e op : Nat) (w0 : Word) (ws : List Word) (ps : List (List Word)) (rest : List QWord) (s : State) : Prop where
  run : (eget s e).state = .run
  loop : (eget s e).loop = none
  out : (eget s e).out = []
  routine : (eget s e).micro.at_ = none
  gather : (eget s e).gather.map (fun g => (g.op, g.head, g.words.map (·.data), g.psn)) = some (op, w0, ws, false)
  words : (qget s (32 * e)).words = cleanPackets ps ++ rest
  clean : (qget s (32 * e)).cut = false ∧ (qget s (32 * e)).tainted = false ∧ (qget s (32 * e)).dead = []
  section_ : (eget s e).pc / 8 + ps.flatten.length ≤ (aget s e).len ∧ (eget s e).pc + 8 * ps.flatten.length < 2 ^ 64

/-- R80's conditions on a LOOP with a body. -/
def loopLegal (w0 : Word) (body : List Word) : Bool :=
  decide (1 ≤ fld w0 55 48 ∧ fld w0 55 48 ≤ 128 ∧ 1 ≤ fld w0 47 32) && bodyOk (fld w0 31 0) 128 body

/-- A loop's first pass has begun, and its words have left queue 0. -/
structure LoopBegun (e : Nat) (w0 : Word) (body : List Word) (rest : List QWord) (s t : State) : Prop where
  loop : (eget t e).loop = some { body := body, count := fld w0 47 32, stride := fld w0 31 0, pass := 0, rest := body }
  gather : (eget t e).gather = none
  words : (qget t (32 * e)).words = rest
  opcodes : (eget t e).opcodes = ((eget s e).opcodes + 1) % 2 ^ 64
  fifos : t.fifos = s.fifos

/-- R82's conditions on an item of ALT, and room for all of it in its edge FIFO. -/
structure ItemLegal (e : Nat) (w0 : Word) (ps : List (List Word)) (f : Nat) (s : State) : Prop where
  kind : schedKind 0x10 (e % 8) = true
  head : schedReserved 0x10 w0 = false
  count : fld w0 47 44 = ps.length ∧ 1 ≤ ps.length ∧ ps.length ≤ 8
  target : emitFifo e (eget s e) w0 = some f
  members : ∀ p ∈ ps, p.length = packetLen (schedOp (nthD p 0 0)) ∧ 1 ≤ schedOp (nthD p 0 0) ∧ schedOp (nthD p 0 0) ≤ 9 ∧
    schedKind (schedOp (nthD p 0 0)) (e % 8) = true ∧ schedReserved (schedOp (nthD p 0 0)) (nthD p 0 0) = false ∧
    fld (nthD p 0 0) 52 48 = fld w0 52 48 ∧ (emitFifo e (eget s e) (nthD p 0 0)).isSome = true
  room : ((fget s f).wp + 1024 - (fget s f).rp) % 1024 + unpublished (fget s f) + 2 * ps.length ≤ 510

/-- The edge commands of an item: a STAGE, and each alternative's own with the operand 0 for HOLD. -/
def itemCmds (v : Engine) (w0 : Word) (ps : List (List Word)) : List EdgeIn :=
  { w0 := edgeWord0 v w0 0x0A, w1 := word (ps.length * 2 ^ 16 + fld w0 43 42 * 2 ^ 8 + fld w0 35 32) } ::
    ps.map fun p => { w0 := edgeWord0 v (nthD p 0 0) (schedOp (nthD p 0 0)), w1 := if schedOp (nthD p 0 0) = 0x03 then 0 else nthD p 1 0 }

/-- An item has been written whole, and its words have left queue 0. -/
structure ItemWritten (e : Nat) (w0 : Word) (ps : List (List Word)) (rest : List QWord) (f : Nat) (s t : State) : Prop where
  incoming : (fget t f).incoming = (fget s f).incoming ++ itemCmds (eget s e) w0 ps
  gather : (eget t e).gather = none
  words : (qget t (32 * e)).words = rest
  opcodes : (eget t e).opcodes = ((eget s e).opcodes + 1 + ps.length) % 2 ^ 64

/-- A TRACE window as an operand opens it (R204, R205): cut at its first sample where the die's clock or profile forbids samples. -/
structure OpensTrace (c g x : Nat) (op : Word) (b : Bool) (w : TWin) (s : State) : Prop where
  kind : w.kind = fld op 63 62
  grain : w.grain = g
  fine : w.fine = x
  len : w.len = fld op 47 32
  tones : w.tones = traceTones s c op
  shot : w.shot = shotNum s g
  busy : w.busy = b
  cut : w.cut = if cutAtOpening s c then some (firstSample g x) else none

/-- The engine stands at a BOUNDARY or END packet without poison, in queue 0 or in a loop body, that no patch of its kind reaches. -/
structure AtBarrier (e op : Nat) (w0 : Word) (s : State) : Prop where
  run : (eget s e).state = .run
  gather : (eget s e).gather = none
  routine : (eget s e).micro.at_ = none
  packet : ∃ w, nextPacket s e = some [w] ∧ w.data = w0 ∧ w.psn = false
  opcode : schedOp w0 = op
  reserved : schedReserved op w0 = false
  rom : reached s (e % 8) op = false

/-- What an arrival at the barrier carries: END, or LENGTH (R85). -/
def arrival (op : Nat) (w0 : Word) : Bool × Nat := if op = 0xF1 then (true, 0) else (false, fld w0 31 0)

/-- Every other engine that takes part has arrived. -/
def OthersArrived (e : Nat) (s : State) : Prop := ∀ y ∈ s.engs, y.1 ≠ e → takesPart y.2 = true → y.2.arrived.isSome = true

/-- Every arrival of another engine carries the same. -/
def OthersAgree (e : Nat) (x : Bool × Nat) (s : State) : Prop := ∀ y ∈ s.engs, y.1 ≠ e → ∀ a, y.2.arrived = some a → a.2 = x

/-- No shot opens after the last known one, and the run ends with it, or at once where none is known (R89). -/
def EndsAs (how : Nat) (s t : State) : Prop :=
  if s.run.shots = [] then rn t .PKG_RUN_STATE = 3 ∧ rn t .PKG_RUN_END = how ∧ t.run = { past := s.run.past }
  else t.run.ending = some how ∧ t.run.stopPending = false ∧ t.run.shots.map (·.num) = s.run.shots.map (·.num)

/-- A row of the barrier: the engine waits there for the others; arrivals that differ are a mismatch (R85, R87). -/
def ArrivesAtBarrier (row : EngNo → Bool → Instr) (op : Nat) : Prop :=
  (∀ (e : EngNo) (w0 : Word) (x : Nat) (s : State), AtBarrier e op w0 s → x ≠ e → takesPart (eget s x) = true →
    (eget s x).arrived = none → Gives (row e false) s fun t => (eget t e).state = .barrier ∧
      (eget t e).arrived = some (s.tml, arrival op w0) ∧ t.run = s.run ∧
      ∀ rest, AtPacket e [w0] rest s → (qget t (32 * e.val)).words = rest) ∧
  (∀ (e : EngNo) (w0 : Word) (s : State), AtBarrier e op w0 s → OthersArrived e s → ¬OthersAgree e (arrival op w0) s →
    Gives (row e false) s fun t => rn t .PKG_BOUNDARY_MISMATCH = min 0xFFFFFFFF (rn s .PKG_BOUNDARY_MISMATCH + 1) ∧ EndsAs 4 s t)

/-- A void cause waits for a grain of a span that begins at b and has the length n (R413). -/
def Awaits (s : State) (b n k : Nat) : Prop := ∃ g, (g, k) ∈ s.run.future ∧ b ≤ g ∧ g < b + n

/-- The shot that a barrier makes known: after the last one, 100,000 grains later where the boundary is deferred, with the causes that
came early at its grains and that of a late barrier (R85, R86, R188, R413). A cause from before the first t_shot is the first shot's, the
model's choice (log 15). -/
structure Opened (len : Nat) (sh : Shot) (s : State) : Prop where
  num : sh.num = s.run.nextNum
  start : sh.start = s.run.nextStart + if deferDue s = true ∧ s.run.shots ≠ [] then 100000 else 0
  len : sh.len = len
  barrier : sh.barrier = s.tml
  causes : ∀ k, bitOf sh.causes k = true ↔
    (if deferDue s = true ∧ s.run.shots ≠ [] then Awaits s sh.start sh.len k else Awaits s 0 (sh.start + sh.len) k) ∨
      k = 9 ∧ sh.start < s.tml + 32

/-- The shot that a deferred boundary closes: 100,000 grains longer, with the causes that wait for those grains (R188, R413). -/
structure Deferred (s : State) (l m : Shot) : Prop where
  kept : m = { l with len := l.len + 100000, causes := m.causes }
  causes : ∀ k, bitOf m.causes k = true ↔ bitOf l.causes k = true ∨ Awaits s 0 (s.run.nextStart + 100000) k

/-- A command with an opcode is the next to be released in an edge FIFO, its grain has come and nothing holds it back. -/
structure Due (f op : Nat) (c : EdgeCmd) (rest : List EdgeCmd) (s : State) : Prop where
  path : (fget s f).path = c :: rest
  op : edgeOp c.w0 = op
  time : c.release ≤ s.tml
  clock : fifoClockOk s f = true
  boundary : beforeBoundary s c.release = true

/-- No sample that the slice's playback has still to read fails parity. -/
def ReadsGood (f : Nat) (s : State) : Prop := ∀ p, (slget s f).play = some p → nextBad s (fifoClu f) p = none

/-- The write half completes a command's words: its region does not halt, no ABORT is in force, and the die has its clock. -/
structure Arrives (f : Nat) (c : EdgeIn) (rest : List EdgeIn) (s : State) : Prop where
  incoming : (fget s f).incoming = c :: rest
  fabric : regionHalted s (cluRgn (fifoClu f)) = false
  live : s.run.aborted = false
  clock : clockDiscard s f c.w0 = false

/-- It is the turn of a path, whose oldest request is the frame of these fields (R335, R337). -/
structure Request (p : Path) (cmd : Nat) (tag : Byte) (idx sub flags : Nat) (data : List Byte) (s : State) : Prop where
  head : headRequest s p = some (frameBytes cmd tag idx sub flags data)
  turn : mayServe s p = true
  index : idx < 65536
  sub : sub < 256

/-- The state in which the oldest request of a path is served: it has left its FIFO, and the path was served last. -/
def requestTaken (p : Path) (s : State) : State := turn p (takeRequest p s)

/-- The dictionary server takes a request of a path at once: it runs, none waits before it, it is the path's turn and its packet finds
room in queue 0x2000, which is empty and whole; and the package is not retired (R255, R330, R335, R340, R410, R425). -/
structure Serves (p : Path) (s : State) : Prop where
  reach : reachable s p = true
  phase : s.boot.phase = .served
  alive : retired s = false
  idle : pathIdle s p = true
  order : myTurn s p = true
  room : ∀ bs : List Byte, bs.length ≤ 2048 → findsRoom p bs s = true
  link : p = 1 → (qget s 0x2000).words = [] ∧ (qget s 0x2000).dead = [] ∧ (qget s 0x2000).cut = false

/-- The package when a request that is served at once has arrived: on the host link its packet has passed queue 0x2000 (R340), and the
path's turn is taken (R335). -/
def received (p : Path) (bs : List Byte) (s : State) : State := turn p (arrived p bs s)

/-- No request waits on the other path, so that the frames of a segmented write are served one after the other (R335, R342). -/
def Alone (p : Path) (s : State) : Prop := headRequest s (otherPath p) = none ∧ s.path0.transfer = none ∧ s.path1.transfer = none

/-- The range of the table and map now in force is wiped from its beginning, at once or after the training in progress (R286, R295). -/
def WipesNewRange (s u : State) : Prop :=
  rn u .DRM_RANGE = (listed u).length * orgBytes (rn u .DRM_CH_ORG (nthD (listed u) 0 0)) ∧ rn u .DRM_WIPE_DONE = 0 ∧
    if rn s .DRM_STATE = 1 then rn u .DRM_STATE = 1 ∧ u.dram.wipePaused = true else rn u .DRM_STATE = 2 ∧ u.dram.wipePaused = false

/-- The first frame of a write of a byte string: WRITE, or WRITE_INIT above 56 bytes (R341, R342). -/
def firstFrame (tag : Byte) (idx sub : Nat) (bs : List Byte) : List Byte :=
  if bs.length ≤ 56 then frameBytes 2 tag idx sub 0 bs else frameBytes 3 tag idx sub 0 (leBytes 8 bs.length)

/-- The write of the bytes `bs` that a command stands for is answered WRITTEN on its path (R341); the property relates the package as the
request has arrived in it to the package as the object's effect leaves it, before the answer is queued. -/
def Accepts (c : Instr) (p : Path) (tag : Byte) (idx sub : Nat) (bs : List Byte) (s : State) (P : State → State → Prop) : Prop :=
  ∃ u, exec c s = .next (respond p 0x83 tag idx sub 0 [] u) ∧ P (received p (frameBytes 2 tag idx sub 0 bs) s) u

/-- A monitor's trip: its state, its flag and its count, and what the monitored clock's loss does (R370, R371, R373, R374). -/
structure Trips (m : Nat) (s t : State) : Prop where
  state : rn t .CLK_MON_STATE m = 3
  flag : rn t .CLK_MON_TRIPPED m = 1
  count : rn t .CLK_MON_TRIPS m = min 0xFFFFFFFF (rn s .CLK_MON_TRIPS m + 1)
  mgmt : m = 0 ∨ m = 4 → rn t .CLK_MGMT_SRC = 0 ∧ rn t .CLK_MGMT_HOLD = 1
  fio : m = 1 → rn t .CLK_FIO_FAULT = 1
  tref : m = 2 ∨ m = 3 → s.clk.trefDone = true → rn s .TML_REF_SOURCE = m - 2 → rn t .CLK_TREF_LOST = 1
  rf : ∀ n < 64, m = 5 + n / 16 → bitOf (rn t .DRV_MUTE_CAUSE n) 2 = true
  lanes : ∀ l < 32, m = 9 + l / 8 → laneOff s l = false → laneState s l ≠ 0 → rn t .LNK_LN_LOL l = 1
  channels : ∀ c < 8, m = 13 + c / 4 → rn t .DRM_CH_STATE c = if (listed s).contains c then chFenced else chAbsent

/-- The two clocks of the SIO check lie beyond their tolerance together and agree within 1 % (R372). -/
def SioAgrees (ppm other : Int) : Prop :=
  20000000 < other.natAbs ∧ 100 * (ppm - other).natAbs ≤ (100000000 + other).natAbs

/-- The temperature that thresholds and THM_TJ use after an update: T1, or 109 °C while the region sensor is broken (R394, R400). -/
def usedTemp (g : Nat) (t : State) : Int := if rn t .THM_SENSOR_STATE g = 0 then (thget t g).t1 else 109 * degC

/-- A threshold after an update at which it stood `on` before, with a temperature: it trips at the second update in a row above its trip
temperature, and releases at the tenth in a row below its release temperature (R398). -/
def stands (s : State) (g i : Nat) (temp : Int) (on : Bool) : Bool :=
  if on then !(decide (temp < releaseC i) && decide (9 ≤ nthD (thget s g).below i 0))
  else decide (tripC i < temp) && decide (1 ≤ nthD (thget s g).above i 0)

/-- What every update of region g leaves (R394, R397, R398, R402). -/
structure Updated (g : Nat) (diode : Int) (s t : State) : Prop where
  diode : rd t .THM_DIODE g = wrapS 32 diode
  power : rn t .THM_PWR g = satN 0xFFFFFFFF (powerMw (regionPower s g))
  at_ : (thget t g).lastAt = some s.elapsed
  prot : (mauget t g).prot = []
  temp : rd t .THM_TJ g = milli (usedTemp g t)
  fast : rn t .THM_FAST g = if 94 * degC ≤ usedTemp g t ∧ usedTemp g t ≤ 126 * degC then 1 else 0
  tripped : ∀ i < 3, bitOf (rn t .THM_TRIPPED g) i = stands s g i (usedTemp g t) (bitOf (rn s .THM_TRIPPED g) i)
  trips : ∀ i < 3, rn t .THM_TRIPS (3 * g + i) = if bitOf (rn s .THM_TRIPPED g) i = false ∧ bitOf (rn t .THM_TRIPPED g) i = true then
    min 0xFFFFFFFF (rn s .THM_TRIPS (3 * g + i) + 1) else rn s .THM_TRIPS (3 * g + i)
  releases : ∀ i < 3, rn t .THM_RELEASES (3 * g + i) = if bitOf (rn s .THM_TRIPPED g) i = true ∧ bitOf (rn t .THM_TRIPPED g) i = false then
    min 0xFFFFFFFF (rn s .THM_RELEASES (3 * g + i) + 1) else rn s .THM_RELEASES (3 * g + i)

/-- An update of a region is due, and its inputs are there (R389, R397, R433). -/
structure UpdateDue (g : Nat) (s : State) : Prop where
  phase : s.boot.phase ≠ .held
  later : ∀ t0, (thget s g).lastAt = some t0 → t0 + updatePeriod s g ≤ s.elapsed
  first : (thget s g).lastAt = none → (mauget s g).bufAt.getD s.boot.goodAt + 4 * msT ≤ s.elapsed
  inputs : mauGated s g = true ∨ protWhole s g = true
  base : mauGated s (baseUnit s) = true ∨ s.cool.baseAt ≠ none ∨ s.cool.baseUsed ≠ none

/-- The sensor of a region gives a power in range, and the package power that its unit and MAU10 measure with it does not show it stuck
(R399). -/
structure SensorGood (g keystoneMw : Nat) (s : State) : Prop where
  results : (mauget s g).done ≠ [] ∧ ∀ x ∈ (mauget s g).done, x.2 = false
  range : powerDen ≤ 2 * regionPower s g ∧ regionPower s g ≤ 60 * powerDen
  moves : isStuck s.elapsed (recent s.elapsed ((s.elapsed, (regionPower s g : Int), keystoneMw + othersMw s (some g)) ::
    (thget s g).watch.hist)) (powerDen / 250) = false

/-- x is within one unit of 2^-24 °C of num / den. -/
def nearQuot (x num den : Int) : Prop := (x * den - num).natAbs < den.natAbs

/-- The steady state of R394 for a power and the base temperature. -/
def AtSteady (g p : Nat) (s : State) (v : Therm) : Prop :=
  nearQuot (v.t3 - s.cool.tb) (p * resist s g 2 * degC) (powerDen * 1000000) ∧
  nearQuot (v.t2 - v.t3) (p * resist s g 1 * degC) (powerDen * 1000000) ∧
  nearQuot (v.t1 - v.t2) (p * resist s g 0 * degC) (powerDen * 1000000)

/-- One step of R394's equations over n ticks of 400 ps. -/
def NodesStep (g p n : Nat) (s : State) (v w : Therm) : Prop :=
  nearQuot (w.t1 - v.t1) (n * (p * degC * resist s g 0 - (v.t1 - v.t2) * 1000000 * powerDen)) (2500 * (capac s g 0 * resist s g 0 * powerDen)) ∧
  nearQuot (w.t2 - v.t2) (n * 1000000 * ((v.t1 - v.t2) * resist s g 1 - (v.t2 - v.t3) * resist s g 0))
    (2500 * (capac s g 1 * resist s g 0 * resist s g 1)) ∧
  nearQuot (w.t3 - v.t3) (n * 1000000 * ((v.t2 - v.t3) * resist s g 2 - (v.t3 - s.cool.tb) * resist s g 1))
    (2500 * (capac s g 2 * resist s g 1 * resist s g 2))

/-- The regions that follow VDDF run at a voltage; one in COOL or in its mute only falls to it (R19, R238, R443). -/
def FollowsVddf (mv : Nat) (s t : State) : Prop :=
  ∀ g < 8, rn t .RGN_FABRIC_MV g =
    if rn s .RGN_PROFILE g = profCool ∨ (rgget s g).muteEnd.isSome then min (rn s .RGN_FABRIC_MV g) mv else mv

/-- The move of the throttle ladder that the spec allows next: 1 ms after the last (R403, R442). -/
def LadderFree (s : State) : Prop := ∀ t0, s.cool.changedAt = some t0 → t0 + msT ≤ s.elapsed

/-! ### Parts of the package for the frame statements -/

/-- The parts of the package that a frame names: the fields of State but the objects, and the bytes of the DRAM. -/
inductive Piece where
  | pending | elapsed | free | tml | tmlOn | queues | poolLost | fifos | engs | areas | run | image | patches | channels | deliveries |
  timers | markers | path0 | path1 | lastPath | nvm | boot | flog | scrubAt | dram | segs | segMem | segBad | refills | slices | frames
  | tapBad | fluxes | biases | biasAt | regions | bdQual | rfQualAt | reads | traces | acqs | krn | krnBad | tab | tabBad | crossings |
  sets | stream | incs | trig | board | bres | vre | clk | ptp | lanes | hl | vports | maus | therms | cool | dramBytes
  deriving DecidableEq, Repr

/-- A part is the same in two states. -/
def Piece.same (s t : State) : Piece → Prop
  | .pending => t.pending = s.pending
  | .elapsed => t.elapsed = s.elapsed
  | .free => t.free = s.free
  | .tml => t.tml = s.tml
  | .tmlOn => t.tmlOn = s.tmlOn
  | .queues => t.queues = s.queues
  | .poolLost => t.poolLost = s.poolLost
  | .fifos => t.fifos = s.fifos
  | .engs => t.engs = s.engs
  | .areas => t.areas = s.areas
  | .run => t.run = s.run
  | .image => t.image = s.image
  | .patches => t.patches = s.patches
  | .channels => t.channels = s.channels
  | .deliveries => t.deliveries = s.deliveries
  | .timers => t.timers = s.timers
  | .markers => t.markers = s.markers
  | .path0 => t.path0 = s.path0
  | .path1 => t.path1 = s.path1
  | .lastPath => t.lastPath = s.lastPath
  | .nvm => t.nvm = s.nvm
  | .boot => t.boot = s.boot
  | .flog => t.flog = s.flog
  | .scrubAt => t.scrubAt = s.scrubAt
  | .dram => t.dram = s.dram
  | .segs => t.segs = s.segs
  | .segMem => t.segMem = s.segMem
  | .segBad => t.segBad = s.segBad
  | .refills => t.refills = s.refills
  | .slices => t.slices = s.slices
  | .frames => t.frames = s.frames
  | .tapBad => t.tapBad = s.tapBad
  | .fluxes => t.fluxes = s.fluxes
  | .biases => t.biases = s.biases
  | .biasAt => t.biasAt = s.biasAt
  | .regions => t.regions = s.regions
  | .bdQual => t.bdQual = s.bdQual
  | .rfQualAt => t.rfQualAt = s.rfQualAt
  | .reads => t.reads = s.reads
  | .traces => t.traces = s.traces
  | .acqs => t.acqs = s.acqs
  | .krn => t.krn = s.krn
  | .krnBad => t.krnBad = s.krnBad
  | .tab => t.tab = s.tab
  | .tabBad => t.tabBad = s.tabBad
  | .crossings => t.crossings = s.crossings
  | .sets => t.sets = s.sets
  | .stream => t.stream = s.stream
  | .incs => t.incs = s.incs
  | .trig => t.trig = s.trig
  | .board => t.board = s.board
  | .bres => t.bres = s.bres
  | .vre => t.vre = s.vre
  | .clk => t.clk = s.clk
  | .ptp => t.ptp = s.ptp
  | .lanes => t.lanes = s.lanes
  | .hl => t.hl = s.hl
  | .vports => t.vports = s.vports
  | .maus => t.maus = s.maus
  | .therms => t.therms = s.therms
  | .cool => t.cool = s.cool
  | .dramBytes => t.dram.cells = s.dram.cells

/-- Whatever the state, a command leaves every part but those of the lists `ps` and every object but those of the lists `rs` as it
found them. -/
def ChangesOnly (c : Instr) (ps : List (List Piece)) (rs : List (List Reg)) : Prop :=
  ∀ s t : State, exec c s = .next t → (∀ x, x ∉ ps.flatten → x.same s t) ∧ RegsKept s t fun r _ => r ∈ rs.flatten

/-- As `ChangesOnly`, from the states that `P` names. -/
def ChangesOnlyFrom (P : State → Prop) (c : Instr) (ps : List (List Piece)) (rs : List (List Reg)) : Prop :=
  ∀ s t : State, P s → exec c s = .next t → (∀ x, x ∉ ps.flatten → x.same s t) ∧ RegsKept s t fun r _ => r ∈ rs.flatten

/-- No routine of a patch runs at an engine's row: none is under way, and none begins with the engine's next packet (R97). -/
def NoRoutine (e : EngNo) (s : State) : Prop := patchRuns s e.val = false

/-- Whatever the state, a command leaves the parts `ps` as it found them. -/
def Leaves (c : Instr) (ps : List Piece) : Prop := ∀ s t : State, exec c s = .next t → ∀ x ∈ ps, x.same s t

/-- What may change when a fault is counted, kept and logged. -/
def faultPieces : List Piece := [.queues, .channels, .flog]

/-- The objects that may change with `faultPieces`. -/
def faultObjs : List Reg := [.QUE_HIGH_FLAG, .QUE_LOW_FLAG, .QUE_HIGH_COUNT, .QUE_LOW_COUNT, .QUE_PEAK, .QUE_TROUGH, .QUE_FLUSH_CUTS,
    .QUE_FORCED_END, .QUE_OVERWRITTEN, .QUE_POOL_LOW, .QUE_FLUSH_DISCARD, .QUE_POOL_WAITS, .FLT_COUNT, .FLT_FLAG, .FLT_FIRST_GRAIN,
    .FLT_LAST_GRAIN, .FLT_LAST_UNIT, .FLT_LAST_DETAIL, .FLT_LOG_SUPPRESSED]

/-- What may change when a word is written to a queue: the queue, its marks and the events they raise. -/
def wordPieces : List Piece := [.queues, .channels]

/-- The objects that may change with `wordPieces`. -/
def wordObjs : List Reg := [.QUE_HIGH_FLAG, .QUE_LOW_FLAG, .QUE_HIGH_COUNT, .QUE_LOW_COUNT, .QUE_PEAK, .QUE_TROUGH,
    .QUE_FLUSH_DISCARD, .QUE_FLUSH_CUTS, .QUE_FORCED_END, .QUE_OVERWRITTEN, .QUE_POOL_LOW, .QUE_POOL_WAITS]

/-- What may change when a queue is flushed: what changes when words leave it, and the cells lost to a failed link, given back. -/
def flushPieces : List Piece := [.queues, .channels, .poolLost]

/-- What may change when words leave a queue: the queue, its marks and the events they raise. -/
def clearPieces : List Piece := [.queues, .channels]

/-- The objects that may change with `clearPieces`. -/
def clearObjs : List Reg := [.QUE_HIGH_FLAG, .QUE_LOW_FLAG, .QUE_HIGH_COUNT, .QUE_LOW_COUNT, .QUE_PEAK, .QUE_TROUGH, .QUE_POOL_LOW]

/-- What may change when the PTP clock leaves LOCKED for FREERUN, with the TIME record of it. -/
def freePieces : List Piece := [.stream, .ptp]

/-- The objects that may change with `freePieces`. -/
def freeObjs : List Reg := [.TRG_BACKLOG_PEAK, .TRG_GAPS, .TRG_CLOSED_DISCARD, .TNW_STATE]

/-- What may change when a DRAM channel ends its training, and with the last one the boot goes on. -/
def trainPieces : List Piece := [.dram, .boot]

/-- The objects that may change with `trainPieces`. -/
def trainObjs : List Reg := [.LCS_RESULT, .DRM_STATE, .DRM_RANGE, .DRM_WIPE_DONE, .DRM_WIPE_TOTAL, .DRM_CH_STATE, .PKG_STATE, .PKG_BOOT_WAIT,
    .PKG_MILESTONE]

/-- What may change when an engine takes its next packet: the engine, its queue and FIFO, the run when it ends, and a fault record. -/
def packetPieces : List Piece := faultPieces ++ [.free, .poolLost, .fifos, .engs, .areas, .run, .segs, .refills, .regions]

/-- The objects that may change with `packetPieces`. -/
def packetObjs : List Reg := faultObjs ++ [.TML_F_INACTIVE, .PKG_RUN_STATE, .PKG_RUN_END, .PKG_SCHED_ILLEGAL, .PKG_SCHED_POISON, .ENG_ILLEGAL,
    .ENG_POISON, .ENG_STARVE, .ENG_DISCARD, .MCS_FAULT, .QUE_POISON, .QUE_BROKEN, .QUE_FLUSHES, .QUE_EF_FLUSHED]

/-- What else a routine of a patch may change: the SELECT lines of a branch engine. -/
def routinePieces : List Piece := packetPieces ++ [.bres]

/-- The objects that may change with `routinePieces`: those of a wait and of a barrier arrival too. -/
def routineObjs : List Reg := packetObjs ++ [.EVT_FOREIGN_WAIT, .PKG_FABRIC_SHOT, .PKG_BARRIER_LATE, .PKG_BOUNDARY_MISMATCH,
    .PKG_BARRIER_SLACK, .ENG_BARRIER_MIN]

/-- What may change when the host link goes down: its lanes and buffers, the transfers of its path, the selectors, the stream, and a
fault record. -/
def downPieces : List Piece := faultPieces ++ [.poolLost, .path0, .path1, .segs, .stream, .lanes, .hl]

/-- The objects that may change with `downPieces`. -/
def downObjs : List Reg := faultObjs ++ [.TML_FIFO_SEL, .ENG_SEL, .MCS_DISP_SEL, .CLU_SEG_SEL, .CLU_KRN_OFFSET, .CLU_DISC_OFFSET, .TRG_STREAM_STATE, .TRG_CLOSED_DISCARD,
    .TRG_STREAM_LOST, .CLU_BR_SEL, .LNK_VROUTE_SEL, .QUE_SEL, .QUE_FLUSHES, .QUE_EF_SEL, .EVT_CH_SEL, .EVT_CON_SEL, .DRM_CH_SEL, .DRM_PORT_SEL,
    .LNK_LANE_SEL, .LNK_LN_STATE, .LNK_LN_DOWNS, .LNK_HL_STATE, .LNK_HL_WIDTH, .LNK_VP_SEL, .PKG_DESC_SEL, .LNK_YDP_ABANDONED,
    .CLK_MON_SEL, .MON_SEL, .THM_COMP_SEL, .FLT_CLASS_SEL, .FLT_SCRUB_SEL]

/-- What may change when a playback pass starts: the slice, its segment, the flux values a poisoned segment leaves, and a fault
record. -/
def passPieces : List Piece := faultPieces ++ [.run, .segs, .segBad, .slices, .fluxes]

/-- The objects that may change with `passPieces`. -/
def passObjs : List Reg := faultObjs ++ [.TON_JUMP_REPLACED, .TON_POISON_PLAY, .CLU_SEG_POISONED]

/-- What may change when the server answers a request: the path, the response it queues and an abort packet; and
the mark of poison in the NVM image that an accepted write clears (log 18). -/
def answerPieces : List Piece := wordPieces ++ [.path0, .path1, .lastPath, .nvm]

/-- The objects that may change with `answerPieces`. -/
def answerObjs : List Reg := wordObjs ++ [.LNK_YDP_REQUESTS, .LNK_YDP_ABORTS, .LNK_YDP_LAST_ABORT, .LNK_YDP_LAST_OBJ]

/-- What may change when a command of the host brings a request: the answer, or the host link that takes it to wait. -/
def requestPieces : List Piece := answerPieces ++ [.hl, .poolLost]

/-- The objects that may change with `requestPieces`. -/
def requestObjs : List Reg := answerObjs ++ [.LNK_CAN_RX_OVERFLOW, .LNK_MGT_RX, .QUE_POISON, .QUE_BROKEN]

/-- What may change when a request reads an object: what the answer changes, a transfer it opens or abandons, the entry it takes from
a queue, and the DRAM window. -/
def readPieces : List Piece := answerPieces ++ [.poolLost, .segs]

/-- The objects that may change with `readPieces`. -/
def readObjs : List Reg := answerObjs ++ [.QUE_POISON, .QUE_BROKEN, .DRM_CH_PAR_ERR, .DRM_CH_FIRST_PAR, .DRM_CH_FENCE_READS,
    .DRM_P_FENCE_HIT, .DRM_WIN_ADDR, .LNK_YDP_ABANDONED, .TNW_NOW_NS, .TNW_NOW_FRAC]

end Sys2Proof.Claims

open Sys2Proof Sys2Proof.Machine Sys2Proof.Claims

/-! ### The block -/

/-- A step takes the command at the front of the queue and gives it its meaning on the rest. -/
def Obligations.StepRunsTheFrontCommand : Prop :=
  ∀ (c : Instr) (rest : List Instr) (s : State), s.pending = c :: rest → step s = exec c { s with pending := rest }

/-- On an empty queue one grain of 400 ps passes, the model's choice (log 2): the timeline counts once it has started, the
time base counts always. -/
def Obligations.EmptyQueueIsOneGrain : Prop :=
  ∀ s : State, s.pending = [] → s.boot.phase ≠ .held →
    ∃ t, step s = .next t ∧ t.elapsed = s.elapsed + 1 ∧ t.tmlOn = s.tmlOn ∧ t.tml = (if s.tmlOn then s.tml + 1 else s.tml)

/-- Only a RESET_N pulse of 100 ns or longer and shorter than 1 µs, whose effect is undefined, stops the machine (R430; that it stops there
is the choice of log 50); every other command gives a next state on every state, the choice of log 4 for the commands that find nothing
to act on. A shorter pulse is ignored. -/
def Obligations.OnlyAnUndefinedResetPulseStops : Prop :=
  ∀ (c : Instr) (s : State),
    (∃ ns, c = .resetNAssert ns ∧ 100 ≤ ns ∧ ns < 1000 ∧ exec c s = .fault .undefinedResetPulse) ∨
    ((∀ ns, c = .resetNAssert ns → ns < 100 ∨ 1000 ≤ ns) ∧ (∃ t, exec c s = .next t) ∧ ∀ ns, c = .resetNAssert ns → ns < 100 → exec c s = .next s)

/-- Every step keeps the canonical form of the memories, the queues and the dictionary, and takes at most the front command
from the queue. -/
def Obligations.StepKeepsMemoryForm : Prop :=
  ∀ s t : State, step s = .next t → Memory.wf s = true → Memory.wf t = true ∧ t.pending = s.pending.tail

/-- Every reset zeroes the pool with all its 262,144 cells free, and leaves every queue empty and closed with no writer in
discard-to-end, and every queue object at its default; watermark settings and QUE_WM_EVT are not persistent (R268). -/
def Obligations.EveryResetEmptiesTheQueues : Prop :=
  QueuesReset State.reset ∧ (∀ s : State, Gives .supplyLoss s QueuesReset) ∧
  (∀ (ns : Nat) (s : State), 1000 ≤ ns → Gives (.resetNAssert ns) s QueuesReset) ∧
  (∀ (t0 : Nat) (s : State), s.boot.resetReq = some t0 → t0 + 200 * usT ≤ s.elapsed → Gives .dictionaryResetBegin s QueuesReset) ∧
  (∀ (v t0 : Nat) (rb : BitVec 4) (s : State), s.boot.lcsConf = some (v, t0) → t0 + msT ≤ s.elapsed → rb.toNat = targetCode v →
    Gives (.lcsBurn rb) s QueuesReset) ∧
  (∀ (idx sub i : Nat) (row : ObjRow), findObj idx sub = .obj row i → row.reg ∈ [Reg.QUE_HIGH_WM, .QUE_LOW_WM, .QUE_WM_EVT] →
    row.acc ≠ .rwp)

/-- Right after reset every object reads its default (R429; the defaults that the spec does not give are the model's choice,
log 1), the timeline stands at grain 0, no memory, queue or FIFO holds anything, the memories are in their canonical form and no command
waits. -/
def Obligations.ResetValues : Prop :=
  Memory.wf State.reset = true ∧ State.reset.pending = [] ∧
  (∀ (r : Reg) (i : Nat), rd State.reset r i = r.dflt i) ∧ State.reset.tml = 0 ∧ State.reset.tmlOn = false ∧
  rn State.reset .PKG_STATE = 0 ∧ rn State.reset .PKG_RESET_CAUSE = 0 ∧ rn State.reset .PKG_BOOT_WAIT = 0x7FF ∧
  (∀ n : Fin 64, rn State.reset .DRV_MUTE_CAUSE n = 3 ∧ rn State.reset .DRV_SCALE n = 0x1000) ∧
  (∀ k, rn State.reset .PKG_MILESTONE k = 0) ∧ rn State.reset .THM_STATE = 0 ∧ rn State.reset .TRG_STATE = 0 ∧
  (∀ a, mget 0 State.reset.dram.cells a = 0) ∧ (∀ q, (qget State.reset q).words = []) ∧
  (∀ f, (fget State.reset f).cmds = []) ∧ State.reset.deliveries = []

/-! ### Resets and start-up -/

/-- A supply loss, a RESET_N pulse, a dictionary reset 200 µs after its answer, and a life-cycle burn that reads back right reset
the package with the same effects and their own cause: the pool zeroed with all its cells free, the queues empty and closed, every
object at its default, which is the model's choice where the spec gives none (log 1), and the waiting commands kept, the model's choice
too (log 5) (R268, R410, R427, R429, R431). The second burn clause is the failed read-back. -/
def Obligations.EveryResetHasTheSameEffects : Prop :=
  (∀ s : State, Gives .supplyLoss s (InReset (causeIn 1 s) s)) ∧
  (∀ (ns : Nat) (s : State), 1000 ≤ ns → Gives (.resetNAssert ns) s (InReset (causeIn 2 s) s)) ∧
  (∀ (t0 : Nat) (s : State), s.boot.resetReq = some t0 → t0 + 200 * usT ≤ s.elapsed →
    Gives .dictionaryResetBegin s (InReset (causeIn 3 s) s)) ∧
  (∀ (t0 : Nat) (s : State), s.boot.resetReq = some t0 → s.elapsed < t0 + 200 * usT → exec .dictionaryResetBegin s = .next s) ∧
  (∀ (v t0 : Nat) (rb : BitVec 4) (s : State), s.boot.lcsConf = some (v, t0) → t0 + msT ≤ s.elapsed → rb.toNat = targetCode v →
    Gives (.lcsBurn rb) s fun t => t.boot.lcsReset = true ∧ InReset (causeIn 4 s) { s with boot := { s.boot with
      fuses := { s.boot.fuses with lcs := BitVec.ofNat 32 (lcsNow s + targetCode v * 2 ^ (4 * lcsUsed (lcsNow s))) } } } t) ∧
  (∀ (v t0 : Nat) (rb : BitVec 4) (s : State), s.boot.lcsConf = some (v, t0) → t0 + msT ≤ s.elapsed →
    rb.toNat ||| targetCode v = targetCode v → rb.toNat ≠ targetCode v →
    Gives (.lcsBurn rb) s fun t => rn t .LCS_RESULT = 3 ∧ t.boot.phase = s.boot.phase ∧ t.boot.lcsConf = none)

/-- Start-up: straps, fuses, wipe and the NVM read take the sequence from t_power_good to the served dictionary, which a supply must
precede by 1 ms; a fuse mismatch or parity failure ends it with FLT_FUSE_ERROR (R410, R428, R433, R436, R437). A slot bit burnt before
is in every reading, the model's choice (log 49). -/
def Obligations.StartUpSteps : Prop :=
  (∀ (d : Fin 8) (n : Fin 128) (s : State), s.boot.phase = .held → s.boot.wait ≤ s.elapsed →
    Gives (.powerGood d n) s fun t => t.boot.phase = .step1 ∧ t.boot.goodAt = s.elapsed ∧ rn t .CLK_STDLY = d.val ∧
      rn t .PKG_STRAPS = d.val * 128 + n.val ∧
      RegsKept s t fun r i => (r = .CLK_STDLY ∨ r = .PKG_STRAPS) ∧ i = 0) ∧
  (∀ (d : Fin 8) (n : Fin 128) (s : State), s.boot.phase ≠ .held ∨ s.elapsed < s.boot.wait → exec (.powerGood d n) s = .next s) ∧
  (State.reset.boot.phase = .held ∧ State.reset.boot.wait = msT ∧
    ∀ (s t : State), exec .supplyLoss s = .next t → t.boot.wait = msT ∧ t.elapsed = 0) ∧
  (∀ (a : FuseImage) (s : State), s.boot.phase = .step1 →
    Gives (.fuseRead a a true) s fun t => t.boot.phase = .fuses ∧ t.boot.fuses = { a with lcs := a.lcs ||| s.boot.fuses.lcs } ∧
      rn t .PKG_SERIAL = a.serial.toNat ∧ rn t .FLT_FUSE_ERROR = rn s .FLT_FUSE_ERROR) ∧
  (∀ (a b : FuseImage) (ok : Bool) (s : State), s.boot.phase = .step1 → a ≠ b ∨ ok = false →
    Gives (.fuseRead a b ok) s fun t => t.boot.phase = .fuseError ∧ rn t .FLT_FUSE_ERROR = 1 ∧ t.boot.silent = true) ∧
  (∀ s : State, s.boot.phase = .fuses →
    Gives .memoryWipeDone s fun t => t.boot.phase = .wiped ∧ RegsKept s t fun r i => r = .PKG_MILESTONE ∧ i = 1) ∧
  (∀ (ans : Bool) (mbit : BitVec 16) (s : State), s.boot.phase = .wiped →
    Gives (.nvmBootRead ans mbit) s fun t => t.boot.phase = .served ∧ (∀ e : Fin 128, (eget t e).state = .idle) ∧
      t.clk.xtbDelay = rn t .CLK_XTB_DELAY ∧ t.clk.trefSel = rn t .CLK_TREF_SEL)

/-! ### Clocks, monitors and the timeline -/

/-- The start-up of the clocks: XTA and XTB are judged once their delays have passed, that of XTB as the boot record gave it, and the
timeline starts at grain 0 on the reference that CLK_TREF_SEL chose (R365, R368, R369). -/
def Obligations.ClocksStart : Prop :=
  (∀ s : State, s.boot.phase ≠ .held →
    s.boot.goodAt + nthD [250, 1000, 2000, 4000, 8000, 16000, 32000, 64000] (rn s .CLK_STDLY) 0 * usT ≤ s.elapsed →
    Gives .xtaStartDelay s fun t => t = { s with clk := { s.clk with xtaOn := true } }) ∧
  (∀ s : State, s.boot.phase = .held ∨
    s.elapsed < s.boot.goodAt + nthD [250, 1000, 2000, 4000, 8000, 16000, 32000, 64000] (rn s .CLK_STDLY) 0 * usT →
    exec .xtaStartDelay s = .next s) ∧
  (∀ s : State, s.boot.phase = .served → s.boot.goodAt + s.clk.xtbDelay * usT ≤ s.elapsed →
    Gives .xtbStartDelay s fun t => t = { s with clk := { s.clk with xtbOn := true } }) ∧
  (∀ s : State, s.boot.phase ≠ .served ∨ s.elapsed < s.boot.goodAt + s.clk.xtbDelay * usT → exec .xtbStartDelay s = .next s) ∧
  (∀ s : State, s.clk.trefDone = false → s.clk.trefSel = 1 → rn s .CLK_MON_STATE 2 = 2 → Gives .trefSelect s fun t =>
    t.tmlOn = true ∧ t.tml = 0 ∧ rn t .TML_REF_SOURCE = 0 ∧ t.clk.trefDone = true ∧ bitOf (rn t .PKG_BOOT_WAIT) 2 = false) ∧
  (∀ s : State, s.clk.trefDone = false → s.clk.trefSel = 2 → rn s .CLK_MON_STATE 3 = 2 → Gives .trefSelect s fun t =>
    t.tmlOn = true ∧ t.tml = 0 ∧ rn t .TML_REF_SOURCE = 1 ∧ t.clk.trefDone = true ∧ bitOf (rn t .PKG_BOOT_WAIT) 2 = false) ∧
  (∀ (t0 r : Nat) (s : State), s.clk.trefDone = false → s.clk.trefSel ≠ 1 → s.clk.trefSel ≠ 2 → s.clk.xtbQualAt = some t0 →
    s.clk.refinQualAt = some r → Gives .trefSelect s fun t =>
    t.tmlOn = true ∧ t.tml = 0 ∧ rn t .TML_REF_SOURCE = (if r ≤ t0 + msT then 1 else 0) ∧ t.clk.trefDone = true) ∧
  (∀ (t0 : Nat) (s : State), s.clk.trefDone = false → s.clk.trefSel ≠ 1 → s.clk.trefSel ≠ 2 → s.clk.xtbQualAt = some t0 →
    s.clk.refinQualAt = none → t0 + msT ≤ s.elapsed → Gives .trefSelect s fun t =>
    t.tmlOn = true ∧ t.tml = 0 ∧ rn t .TML_REF_SOURCE = 0 ∧ t.clk.trefDone = true) ∧
  (∀ (t0 : Nat) (s : State), s.clk.trefSel ≠ 1 → s.clk.trefSel ≠ 2 → s.clk.xtbQualAt = some t0 → s.clk.refinQualAt = none →
    s.elapsed < t0 + msT → exec .trefSelect s = .next s) ∧
  (∀ s : State, s.clk.trefDone = true → exec .trefSelect s = .next s)

/-- A monitor: a window that is judged gives CLK_MON_LAST_PPM, the sixteenth good one in a row qualifies, and a second bad one in a row
trips, as does at once the loss of a loop's lock; where XTA and FIO are bad together and agree, it is the SIO that has failed, and
neither trips (R370 to R374). That the row of the other clock's window comes after this one is the order of log 36. -/
def Obligations.MonitorWindows : Prop :=
  (∀ (m : Fin 15) (ppm other : Int) (locked : Bool) (s : State), judged s m = false → exec (.monitorWindow m ppm other locked) s = .next s) ∧
  (∀ (m : Fin 15) (ppm other : Int) (locked : Bool) (s : State), judged s m = true → rn s .CLK_MON_STATE m ≠ 2 →
    ppm.natAbs ≤ tolerance m → locked = true ∨ m.val < 4 → 15 ≤ (mget {} s.clk.mons m.val).good →
    Gives (.monitorWindow m ppm other locked) s fun t =>
      rn t .CLK_MON_STATE m = 2 ∧ rn t .CLK_MON_QUAL_GRAIN m = s.tml ∧ rd t .CLK_MON_LAST_PPM m = ppm) ∧
  (∀ (m : Fin 15) (ppm other : Int) (locked : Bool) (s : State), judged s m = true → rn s .CLK_MON_STATE m ≠ 3 →
    tolerance m < ppm.natAbs → (4 ≤ m.val → locked = true ∨ (mget {} s.clk.mons m.val).locked = true) →
    1 ≤ (mget {} s.clk.mons m.val).bad →
    (m.val ≤ 1 → (mget {} s.clk.mons (1 - m.val)).bad = 0 ∨ windowRan s (1 - m.val) = true ∨ ¬SioAgrees ppm other) →
    Gives (.monitorWindow m ppm other locked) s (Trips m s)) ∧
  (∀ (m : Fin 15) (ppm other : Int) (s : State), judged s m = true → rn s .CLK_MON_STATE m ≠ 3 → 4 ≤ m.val →
    (mget {} s.clk.mons m.val).locked = true → Gives (.monitorWindow m ppm other false) s (Trips m s)) ∧
  (∀ (m : Fin 15) (ppm other : Int) (locked : Bool) (s : State), m.val ≤ 1 → judged s m = true → rn s .CLK_MON_STATE m ≠ 3 →
    tolerance m < ppm.natAbs → 1 ≤ (mget {} s.clk.mons m.val).bad → 1 ≤ (mget {} s.clk.mons (1 - m.val)).bad →
    windowRan s (1 - m.val) = false → SioAgrees ppm other → rn s .CLK_MON_STATE (1 - m.val) ≠ 3 → rn s .CLK_MON_STATE (1 - m.val) ≠ 4 →
    Gives (.monitorWindow m ppm other locked) s fun t => rn t .CLK_SIO_FAULT = 1 ∧ rn t .CLK_MON_STATE 0 = 4 ∧ rn t .CLK_MON_STATE 1 = 4 ∧
      rn t .CLK_MON_TRIPS m = rn s .CLK_MON_TRIPS m ∧ rn t .CLK_MGMT_SRC = rn s .CLK_MGMT_SRC)

/-- The forwarded reference of a bias die qualifies after 16 good ticks and is lost after two bad ones; the converters of an RF
die leave calibration; copies of the timeline that differ are recorded (R35, R375, R435). -/
def Obligations.ReferencesAndCalibration : Prop :=
  (∀ (d : Fin 2) (count : Nat) (s : State), s.clk.trefDone = true → rn s .CLK_TREF_LOST ≠ 1 → 80 ≤ count → count ≤ 120 →
    15 ≤ (mget {} s.clk.bd d.val).good → bitOf s.bdQual d = false → Gives (.bdRefTick d count) s fun t =>
      bitOf t.bdQual d = true ∧ bitOf (rn t .CLK_BD_LOST) d = false ∧ bitOf (rn t .PKG_BOOT_WAIT) (7 + d) = false) ∧
  (∀ (d : Fin 2) (count : Nat) (s : State), s.clk.trefDone = true → rn s .CLK_TREF_LOST ≠ 1 → count < 80 ∨ 120 < count →
    1 ≤ (mget {} s.clk.bd d.val).bad → bitOf s.bdQual d = true → bitOf (rn s .CLK_BD_LOST) d = false → Gives (.bdRefTick d count) s fun t =>
      bitOf t.bdQual d = false ∧ mget {} t.clk.bd d.val = {} ∧ bitOf (rn t .CLK_BD_LOST) d = true ∧ rn t .CLK_BD_LOSSES = min 0xFFFFFFFF (rn s .CLK_BD_LOSSES + 1)) ∧
  (∀ (d : Fin 4) (s : State), rn s .CLK_MON_STATE (5 + d) = 2 → bitOf s.clk.calDone d = false →
    Gives (.converterCalibrationDone d) s fun t =>
      bitOf t.clk.calDone d = true ∧ bitOf (rn t .PKG_BOOT_WAIT) (3 + d) = false ∧
      ∀ n < 64, n / 16 = d.val → bitOf (rn t .DRV_MUTE_CAUSE n) 1 = false) ∧
  (∀ (ups : List (Fin 7 × Int)) (off : SMap Int) (s : State), s.tmlOn = true → s.tml % 2 ^ 20 = 0 →
    off = ups.foldl (fun m u => mput 0 m u.1.val u.2) s.clk.copies → Gives (.timelineCopyCompare ups) s fun t =>
      (∀ i, i < 7 → bitOf (rn t .TML_COPY_FAULT) i = (bitOf (rn s .TML_COPY_FAULT) i || decide (mget 0 off i ≠ 0))) ∧
      (∀ d, d < 4 → mget 0 off (1 + d) ≠ 0 → rn s .CLK_MON_STATE (5 + d) ≠ 4 → rn t .CLK_MON_STATE (5 + d) = 3) ∧
      ∀ d, d < 2 → mget 0 off (5 + d) ≠ 0 → bitOf t.bdQual d = false ∧ bitOf (rn t .CLK_BD_LOST) d = true) ∧
  (∀ (ups : List (Fin 7 × Int)) (s : State), s.tmlOn = false ∨ s.tml % 2 ^ 20 ≠ 0 → exec (.timelineCopyCompare ups) s = .next s)

/-- The frequency counter counts for CLK_FMC_GATE, and a closing gate that waits for its group's bus closes when the bus goes idle, by
force at the latest 2 µs after the write: that is counted, and the access under way is answered with poison (R30, R376, R377; the record
of that answer is the model's own, log 71). -/
def Obligations.CounterAndGates : Prop :=
  (∀ (count : Nat) (s : State), rn s .CLK_FMC_STATE = 1 → s.clk.fmcAt + rn s .CLK_FMC_GATE * usT ≤ s.elapsed →
    Gives (.fmcDone count) s fun t => rn t .CLK_FMC_STATE = 2 ∧ rn t .CLK_FMC_COUNT = count % 2 ^ 64 ∧
      RegsKept s t fun r i => (r = .CLK_FMC_STATE ∨ r = .CLK_FMC_COUNT ∨ r = .CLK_FMC_FREQ ∨ r = .CLK_FMC_PPM) ∧ i = 0) ∧
  (∀ (count : Nat) (s : State), rn s .CLK_FMC_STATE ≠ 1 ∨ s.elapsed < s.clk.fmcAt + rn s .CLK_FMC_GATE * usT →
    exec (.fmcDone count) s = .next s) ∧
  (∀ (g : Fin 25) (t0 n : Nat) (s : State), gateWaits s g = some (t0, n) → 2 * usT < n → t0 + 2 * usT ≤ s.elapsed →
    Gives (.gateForceClose g) s fun t => rn t .CLK_FORCED_GATE g = min 0xFFFFFFFF (rn s .CLK_FORCED_GATE g + 1) ∧
      bitOf t.clk.gated g = true ∧ gateWaits t g = none ∧ t.clk.poisoned = s.clk.poisoned ++ [(g.val, s.elapsed)]) ∧
  (∀ (g : Fin 25) (t0 n : Nat) (s : State), gateWaits s g = some (t0, n) → n ≤ 2 * usT → t0 + n ≤ s.elapsed →
    Gives (.gateForceClose g) s fun t => rn t .CLK_FORCED_GATE g = rn s .CLK_FORCED_GATE g ∧ bitOf t.clk.gated g = true ∧
      gateWaits t g = none) ∧
  (∀ (g : Fin 25) (t0 n : Nat) (s : State), gateWaits s g = some (t0, n) → s.elapsed < t0 + min n (2 * usT) →
    exec (.gateForceClose g) s = .next s) ∧
  (∀ (g : Fin 25) (s : State), gateWaits s g = none → exec (.gateForceClose g) s = .next s)

/-- Alignment at SYNC: FIRE gives a pulse of 100 grains from a reference edge on, SYNC_IN counts at a reference edge and only when
armed, and the grain that begins 50 grains after the edge takes TML_SYNC_GRAIN (R36, R39). -/
def Obligations.AlignmentAtSync : Prop :=
  (∀ s : State, s.clk.syncFire = true → s.tmlOn = true → s.tml % 25 = 0 →
    exec .syncOutPulse s = .next { s with clk := { s.clk with syncFire := false, syncOut := some (s.elapsed + 100) } }) ∧
  (∀ (e : Nat) (s : State), s.clk.syncOut = some e → e ≤ s.elapsed →
    exec .syncOutPulseEnd s = .next { s with clk := { s.clk with syncOut := none } }) ∧
  (∀ s : State, rn s .TML_SYNC_STATE = 1 → s.clk.syncEdge = none → s.tmlOn = true → s.tml % 25 = 0 →
    exec .syncInEdge s = .next { s with clk := { s.clk with syncEdge := some s.elapsed } }) ∧
  (∀ s : State, s.tml % 25 ≠ 0 → exec .syncInEdge s = .next s ∧ exec .syncOutPulse s = .next s) ∧
  (∀ s : State, rn s .TML_SYNC_STATE ≠ 1 → exec .syncInEdge s = .next s) ∧
  (∀ (e : Nat) (s : State), s.clk.syncEdge = some e → e + 50 ≤ s.elapsed → Gives .alignment s fun t =>
    t.tml = rn s .TML_SYNC_GRAIN + (s.elapsed - (e + 50)) ∧ rn t .TML_SYNC_STATE = 2 ∧ rn t .TML_SYNC_COUNT = min 0xFFFFFFFF (rn s .TML_SYNC_COUNT + 1) ∧
    t.clk.syncEdge = none ∧ t.elapsed = s.elapsed)

/-! ### Thermal management and the monitor ADC -/

/-- The thermal model runs an update when it is due and its inputs are there: the nodes follow R394 to within 2^-24 °C, from the steady
state at the first update and at a recovery; a broken sensor is taken as 109 °C, keeps its nodes and forces COOL; thresholds trip and
release by R398; an update that is not due, or has no inputs, changes nothing (R389, R394 to R402, R417). The rounding below 2^-24 °C is
free (log 41). -/
def Obligations.ThermalUpdates : Prop :=
  (∀ (g : RgnNo) (mw : Nat) (diode : Int) (s : State), UpdateDue g s → Gives (.thermalUpdate g mw diode) s (Updated g diode s)) ∧
  (∀ (g : RgnNo) (mw : Nat) (diode : Int) (s : State), UpdateDue g s → SensorGood g mw s → rn s .THM_SENSOR_STATE g = 0 →
    (∀ i < 3, 0 < resist s g i ∧ 0 < capac s g i) → s.cool.restartAt = none → Gives (.thermalUpdate g mw diode) s fun t =>
      rn t .THM_SENSOR_STATE g = 0 ∧ (thget t g).live = true ∧
      if (thget s g).live then NodesStep g (regionPower s g) (updatePeriod s g) { s with cool := t.cool } (thget s g) (thget t g)
      else AtSteady g (regionPower s g) t (thget t g)) ∧
  (∀ (g : RgnNo) (mw : Nat) (diode : Int) (t0 r : Nat) (s : State), UpdateDue g s → SensorGood g mw s → rn s .THM_SENSOR_STATE g = 0 →
    (∀ i < 3, 0 < resist s g i ∧ 0 < capac s g i) → (thget s g).live = true → (thget s g).lastAt = some t0 →
    s.cool.restartAt = some r → r ≤ t0 + updatePeriod s g → t0 + updatePeriod s g < r + 10 * usT →
    Gives (.thermalUpdate g mw diode) s fun t =>
      NodesStep g (regionPower s g) (s.elapsed - t0) { s with cool := t.cool } (thget s g) (thget t g)) ∧
  (∀ (g : RgnNo) (mw : Nat) (diode : Int) (s : State), UpdateDue g s →
    (mauget s g).done = [] ∨ (∃ x ∈ (mauget s g).done, x.2 = true) ∨ 2 * regionPower s g < powerDen ∨ 60 * powerDen < regionPower s g →
    Gives (.thermalUpdate g mw diode) s fun t => rn t .THM_SENSOR_STATE g = 1 ∧ rd t .THM_TJ g = 109000 ∧
      ((thget t g).t1, (thget t g).t2, (thget t g).t3, (thget t g).live) = ((thget s g).t1, (thget s g).t2, (thget s g).t3, (thget s g).live) ∧
      (rn s .THM_SENSOR_STATE g = 0 → 2 ≤ rn t .RGN_FORCED g ∧ rn t .THM_BROKEN_COUNT g = min 0xFFFFFFFF (rn s .THM_BROKEN_COUNT g + 1))) ∧
  (∀ (g : RgnNo) (mw : Nat) (diode : Int) (t0 : Nat) (s : State), UpdateDue g s → SensorGood g mw s → rn s .THM_SENSOR_STATE g ≠ 0 →
    (thget s g).watch.badAt = some t0 → Gives (.thermalUpdate g mw diode) s fun t =>
      if t0 + 10000 * msT ≤ s.elapsed then rn t .THM_SENSOR_STATE g = 0 ∧ AtSteady g (regionPower s g) t (thget t g)
      else rn t .THM_SENSOR_STATE g = rn s .THM_SENSOR_STATE g ∧ rd t .THM_TJ g = 109000) ∧
  (∀ (g : RgnNo) (mw : Nat) (diode : Int) (s : State),
    (∃ t0, (thget s g).lastAt = some t0 ∧ s.elapsed < t0 + updatePeriod s g) ∨
    ((thget s g).lastAt = none ∧ s.elapsed < (mauget s g).bufAt.getD s.boot.goodAt + 4 * msT) ∨
    (mauGated s g = false ∧ protWhole s g = false) →
    exec (.thermalUpdate g mw diode) s = .next s)

/-- The throttle ladder moves by one step, VDDF with it, at most once per ms: for a trip that is owed, for a throttle that stays tripped,
and down after the last release; and VIDF follows, at most once per ms, with every region that it feeds at the lower of the old and the
new voltage until the move's 1 ms is over (R19, R403, R442, R443). VIDF is rounded up to its next code (log 42). -/
def Obligations.LadderAndVidf : Prop :=
  (∀ s : State, s.cool.owed ≠ 0 → LadderFree s → rn s .THM_STEP < stepMax s → Gives .ladderStep s fun t =>
    rn t .THM_STEP = rn s .THM_STEP + 1 ∧ rn t .THM_VDDF_MV = max 620 (rn s .THM_VNOM - 25 * (rn s .THM_STEP + 1)) ∧
    t.cool.owed = s.cool.owed - 1 ∧ t.cool.changedAt = some s.elapsed) ∧
  (∀ s : State, s.cool.owed ≠ 0 → ¬LadderFree s → exec .ladderStep s = .next s) ∧
  (∀ (t0 : Nat) (s : State), s.cool.owed = 0 → anyThrottle s = true → s.cool.raisedAt = some t0 →
    t0 + rn s .THM_STEP_MS * msT ≤ s.elapsed → LadderFree s → rn s .THM_STEP < stepMax s → Gives .ladderStep s fun t =>
    rn t .THM_STEP = rn s .THM_STEP + 1 ∧ rn t .THM_VDDF_MV = max 620 (rn s .THM_VNOM - 25 * (rn s .THM_STEP + 1)) ∧
    t.cool.raisedAt = some s.elapsed) ∧
  (∀ (t0 : Nat) (s : State), s.cool.owed = 0 → anyThrottle s = false → s.cool.clearAt = some t0 →
    t0 + rn s .THM_STEP_MS * msT ≤ s.elapsed → LadderFree s → rn s .THM_STEP ≠ 0 → Gives .ladderStep s fun t =>
    rn t .THM_STEP = rn s .THM_STEP - 1 ∧ rn t .THM_VDDF_MV = max 620 (rn s .THM_VNOM - 25 * (rn s .THM_STEP - 1)) ∧
    t.cool.clearAt = some s.elapsed) ∧
  (∀ s : State, s.cool.vidf ≠ 500 + (rn s .THM_VDDF_MV - 500 + 4) / 5 * 5 →
    (∀ t0, s.cool.vidfAt = some t0 → t0 + msT ≤ s.elapsed) → Gives .vidfChange s fun t =>
    t.cool.vidf = 500 + (rn s .THM_VDDF_MV - 500 + 4) / 5 * 5 ∧ t.cool.vidfAt = some s.elapsed ∧
    FollowsVddf (min s.cool.vidf t.cool.vidf) s t) ∧
  (∀ (t0 : Nat) (s : State), s.pending = [] → s.boot.phase ≠ .held → s.cool.vidfAt = some t0 → s.elapsed + 1 = t0 + msT →
    ∃ t, step s = .next t ∧ FollowsVddf s.cool.vidf s t) ∧
  (∀ (t0 : Nat) (s : State), s.cool.vidfAt = some t0 → s.elapsed < t0 + msT → exec .vidfChange s = .next s) ∧
  (∀ s : State, s.cool.vidf = 500 + (rn s .THM_VDDF_MV - 500 + 4) / 5 * 5 → exec .vidfChange s = .next s)

/-- The shutdown: every channel muted for THERMAL, every bias output at its fault level, every RF PLL's monitor SUSPENDED, each
at its time after t_trip (R406). -/
def Obligations.ThermalShutdown : Prop :=
  (∀ (t0 : Nat) (s : State), rn s .THM_STATE = 1 → s.cool.stage = 0 → s.cool.tripAt = some t0 → t0 + 2 * usT ≤ s.elapsed →
    Gives .shutdownMute s fun t => t.cool.stage = 1 ∧ (∀ n < 64, bitOf (rn t .DRV_MUTE_CAUSE n) 4 = true) ∧
      (∀ c < 16, bitOf (rn t .PRB_MUTE_CAUSE c) 4 = true)) ∧
  (∀ (t0 : Nat) (s : State), rn s .THM_STATE = 1 → s.cool.stage = 1 → s.cool.tripAt = some t0 → t0 + 5 * usT ≤ s.elapsed →
    Gives .shutdownBiasFault s fun t => t.cool.stage = 2 ∧
      ∀ n < 256, (biaget t n).mode = .fault ∧ (biaget t n).cmds = [] ∧ rd t .BIA_TARGET n = rd s .BIA_SAFE_CODE n) ∧
  (∀ (t0 : Nat) (s : State), rn s .THM_STATE = 1 → s.cool.stage = 2 → s.cool.tripAt = some t0 → t0 + 10 * usT ≤ s.elapsed →
    Gives .shutdownPllStop s fun t => t.cool.stage = 3 ∧ ∀ d < 4, rn t .CLK_MON_STATE (5 + d) = 4) ∧
  (∀ s : State, rn s .THM_STATE ≠ 1 → exec .shutdownMute s = .next s ∧ exec .shutdownBiasFault s = .next s ∧
    exec .shutdownPllStop s = .next s)

/-- A monitor ADC unit: an entry begins, a conversion that completes it gives its result, on CONV0, on CONV1 for an interleaved one, and
for an injected one, each once its time is over; one that does not joins its codes, and CONV0 goes on; CONV1 goes through the protected
sequence, and leaves an interleaved entry to it; a STOP lets the conversion in progress end and raises no event; a calibration ends with
its factors, and a reference's readiness is stored, that of the internal one when its buffer has settled and that of REFM after 100 µs
(R380, R381, R383, R385, R388 to R392). When CONV1 begins after CONV0 is log 35. -/
def Obligations.MonitorAdc : Prop :=
  (∀ (u : Fin 11) (q : Sequence) (s : State), (mauget s u).seq = some q → q.entry = none → (mauget s u).busy = false → q.stopping = false →
    (mauget s u).c1 = none → (mauget s u).calAt = none → bitOf s.clk.gated (14 + u) = false →
    q.start + 50 * rn s .MON_START_DELAY u ≤ s.elapsed → bitOf (rn s .MON_START u) 29 = false → Gives (.mauEntryStart u) s fun t =>
      (mauget t u).busy = true ∧ (mauget t u).c0At = s.elapsed ∧
      (mauget t u).c1 = (if entIl (rn s .MON_ENTRY (16 * u + q.idx)) ∧ 0 < entAvg (rn s .MON_ENTRY (16 * u + q.idx)) ∧ protDue s u = false then
        some (s.elapsed + 625) else none) ∧
      (mauget t u).seq.map (·.idx) = some q.idx ∧
      ∃ e, (mauget t u).seq.bind (·.entry) = some e ∧ e.v = rn s .MON_ENTRY (16 * u + q.idx) ∧ e.codes = []) ∧
  (∀ (u : Fin 11) (raw : BitVec 16) (q : Sequence) (e : Entry) (s : State), s.boot.phase ≠ .held → bitOf s.clk.gated (14 + u) = false →
    (mauget s u).busy = true → (mauget s u).inj = none → (mauget s u).seq = some q → q.entry = some e →
    (mauget s u).c0At + convTicks e.v ≤ s.elapsed → 2 ^ entAvg e.v ≤ e.codes.length + 1 → Gives (.conversionDone u 0 raw) s fun t =>
      rn t .MON_RESULT (16 * u + q.idx) = entryResult s u (addConversion u 0 raw.toNat e s).1 false ∧
      rn t .MON_SEQ_NUMBER u = if q.stopping = false ∧ rn s .MON_SEQ_LEN u ≤ q.idx + 1 then (rn s .MON_SEQ_NUMBER u + 1) % 2 ^ 32
        else rn s .MON_SEQ_NUMBER u) ∧
  (∀ (u : Fin 11) (raw : BitVec 16) (q : Sequence) (e : Entry) (s : State), s.boot.phase ≠ .held → bitOf s.clk.gated (14 + u) = false →
    (mauget s u).busy = true → (mauget s u).inj = none → (mauget s u).calWait = false → (mauget s u).calAt = none →
    (mauget s u).seq = some q → q.entry = some e → q.stopping = false → (mauget s u).c0At + convTicks e.v ≤ s.elapsed →
    e.issued < 2 ^ entAvg e.v → e.codes.length + 1 < 2 ^ entAvg e.v →
    Gives (.conversionDone u 0 raw) s fun t => (mauget t u).busy = true ∧ (mauget t u).c0At = s.elapsed ∧
      (mauget t u).seq.bind (fun q => q.entry.map (·.codes)) = some (addConversion u 0 raw.toNat e s).1.codes) ∧
  (∀ (u : Fin 11) (raw : BitVec 16) (q : Sequence) (e : Entry) (s : State), s.boot.phase ≠ .held → bitOf s.clk.gated (14 + u) = false →
    (mauget s u).busy = true → (mauget s u).inj = none → (mauget s u).c1 = none → (mauget s u).seq = some q → q.entry = some e →
    q.stopping = true → (mauget s u).c0At + convTicks e.v ≤ s.elapsed → e.codes.length + 1 < 2 ^ entAvg e.v →
    Gives (.conversionDone u 0 raw) s fun t => (mauget t u).seq = none ∧ rn t .MON_SEQ_NUMBER u = rn s .MON_SEQ_NUMBER u ∧
      rn t .MON_RESULT (16 * u + q.idx) = rn s .MON_RESULT (16 * u + q.idx)) ∧
  (∀ (u : Fin 11) (raw : BitVec 16) (e : Entry) (at_ : Nat) (s : State), s.boot.phase ≠ .held → bitOf s.clk.gated (14 + u) = false →
    (mauget s u).busy = true → (mauget s u).inj = some (e, at_, true) → (mauget s u).c0At + convTicks e.v ≤ s.elapsed →
    2 ^ entAvg e.v ≤ e.codes.length + 1 →
    Gives (.conversionDone u 0 raw) s fun t => rn t .MON_INJ_STATE u = 2 ∧ (mauget t u).inj = none ∧
      rn t .MON_INJ_RESULT u = entryResult s u (addConversion u 0 raw.toNat e s).1 (mauget s u).calWait) ∧
  (∀ (u : Fin 11) (raw : BitVec 16) (q : Sequence) (e : Entry) (b : Nat) (s : State), s.boot.phase ≠ .held →
    bitOf s.clk.gated (14 + u) = false → (mauget s u).c1 = some b → b + 1250 ≤ s.elapsed → (mauget s u).seq = some q →
    q.entry = some e → 2 ^ entAvg e.v ≤ e.codes.length + 1 → Gives (.conversionDone u 1 raw) s fun t =>
      rn t .MON_RESULT (16 * u + q.idx) = entryResult s u (addConversion u 1 raw.toNat e s).1 false) ∧
  (∀ (u : Fin 11) (raw : BitVec 16) (q : Sequence) (e : Entry) (b : Nat) (s : State), s.boot.phase ≠ .held →
    bitOf s.clk.gated (14 + u) = false → (mauget s u).c1 = some b → b + 1250 ≤ s.elapsed → (mauget s u).seq = some q →
    q.entry = some e → entIl e.v = true → q.yield = false → q.stopping = false → (mauget s u).inj = none → (mauget s u).calWait = false →
    (mauget s u).calAt = none → (mauget s u).busy = true → e.issued < 2 ^ entAvg e.v → e.codes.length + 1 < 2 ^ entAvg e.v →
    Gives (.conversionDone u 1 raw) s fun t =>
      if protDue s u then (mauget t u).c1 = none ∧ (mauget t u).seq.map (·.yield) = some true ∧
        rn t .MON_IL_YIELD u = min 0xFFFFFFFF (rn s .MON_IL_YIELD u + 1)
      else (mauget t u).c1 = some s.elapsed ∧ rn t .MON_IL_YIELD u = rn s .MON_IL_YIELD u) ∧
  (∀ (u : Fin 11) (raw : BitVec 16) (e : Entry) (s : State), s.boot.phase ≠ .held → bitOf s.clk.gated (14 + u) = false →
    (mauget s u).c1 = none → protDue s u = true → u.val < 8 → e = protEntry s u →
    (mauget s u).c1Free + convTicks e.v ≤ s.elapsed → protFrom s u + convTicks e.v ≤ s.elapsed →
    Gives (.conversionDone u 1 raw) s fun t =>
      (mauget t u).prot = (mauget s u).prot.filter entryFull ++ [(addConversion u 1 raw.toNat e s).1] ∧
      (mauget t u).calMore = (mauget s u).calMore + if (mauget s u).calAt = none then 0 else convTicks e.v) ∧
  (∀ (u : Fin 11) (raw : BitVec 16) (s : State), (mauget s u).busy = false →
    exec (.conversionDone u 0 raw) s = .next s) ∧
  (∀ (u : Fin 11) (ofs : List Int) (gain : List Nat) (t0 : Nat) (s : State), (mauget s u).calAt = some t0 → (mauget s u).calWait = false →
    t0 + 1800 * usT + (mauget s u).calMore ≤ s.elapsed → bitOf s.clk.gated (14 + u) = false → Gives (.mauCalDone u ofs gain) s fun t =>
      rn t .MON_CAL_STATE u = 3 ∧ rn t .MON_CAL_COUNT u = min 0xFFFFFFFF (rn s .MON_CAL_COUNT u + 1) ∧ (mauget t u).calAt = none ∧
      rn t .MON_CAL_REF u = rn s .MON_REF_SEL u ∧ ∀ k < 8, rd t .MON_CAL_OFS (8 * u + k) = wrapS 16 (nthD ofs k 0)) ∧
  (∀ (u : Fin 11) (ready : Bool) (s : State), bitOf s.clk.gated (14 + u) = false →
    rn s .MON_REF_SEL u ≠ 0 ∨ ready = true ∧ bufferSettled s u = true →
    rn s .MON_REF_SEL u ≠ 1 ∨ ready = false ∨ (mauget s u).refFrom + 100 * usT ≤ s.elapsed → Gives (.refReady u ready) s fun t =>
      rn t .MON_REF_READY u = (if ready then 1 else 0) ∧ (RegsKept s t fun r i => r = .MON_REF_READY ∧ i = u.val) ∧
      (mauget t u).refFrom = if rn s .MON_REF_SEL u = 1 ∧ ready = false then s.elapsed else (mauget s u).refFrom) ∧
  (∀ (u : Fin 11) (ready : Bool) (s : State), rn s .MON_REF_SEL u = 0 → ready = false ∨ rn s .MON_REFBUF_EN u = 0 ∨
    s.elapsed < (mauget s u).bufAt.getD s.boot.goodAt + 2 * msT → exec (.refReady u ready) s = .next s) ∧
  (∀ (u : Fin 11) (s : State), rn s .MON_REF_SEL u = 1 → s.elapsed < (mauget s u).refFrom + 100 * usT → exec (.refReady u true) s = .next s)

/-! ### Queues and the schedule -/

/-- A word written to a queue whose tail is free is appended; without room the write waits and is counted once; a held tail makes it
wait, and discard-to-end drops it (R70, R246, R249, R255, R256, R258). That a queue which no agent of the package uses is not written is
the model's choice (log 4, log 78), and so is the order in which waiting writers go on (log 78). -/
def Obligations.QueueWrites : Prop :=
  (∀ (q : Fin 32768) (wr : Nat) (w : Word) (tags : BitVec 2) (bad : Bool) (s : State), agentQueue q = true → (qget s q).discard ≠ some wr →
    tailHeld (qget s q) wr = false → (qget s q).waiting = [] → qroom s q 1 = true → Gives (.queueWrite q wr w tags bad) s fun t =>
      (qget t q).words = (qget s q).words ++
        [{ data := w, fin := tags.getLsbD 0 || decide ((qget s q).openLen + 1 = 65535), psn := tags.getLsbD 1, bad := bad }] ∧
      (qget t q).owner = (if tags.getLsbD 0 ∨ (qget s q).openLen + 1 = 65535 then none else some wr) ∧
      rn t .QUE_FORCED_END q = (if tags.getLsbD 0 = false ∧ (qget s q).openLen + 1 = 65535 then
        min 0xFFFFFFFF (rn s .QUE_FORCED_END q + 1) else rn s .QUE_FORCED_END q) ∧
      rd t .QUE_PEAK q = max (rd s .QUE_PEAK q) ((qget s q).words.length + 1 : Nat)) ∧
  (∀ (q : Fin 32768) (wr : Nat) (w : Word) (tags : BitVec 2) (bad : Bool) (s : State), agentQueue q = true → (qget s q).discard ≠ some wr →
    tailHeld (qget s q) wr = false → (qget s q).waiting = [] → logQueue q = false → qroom s q 1 = false →
    Gives (.queueWrite q wr w tags bad) s fun t => (qget t q).words = (qget s q).words ∧
      (qget t q).waiting = [(wr, { data := w, fin := tags.getLsbD 0, psn := tags.getLsbD 1, bad := bad }, true)] ∧
      rn t .QUE_POOL_WAITS = min 0xFFFFFFFF (rn s .QUE_POOL_WAITS + 1)) ∧
  (∀ (q : Fin 32768) (wr : Nat) (w : Word) (tags : BitVec 2) (bad : Bool) (s : State), agentQueue q = true → (qget s q).discard ≠ some wr →
    tailHeld (qget s q) wr = true → Gives (.queueWrite q wr w tags bad) s fun t => (qget t q).words = (qget s q).words ∧
      (qget t q).waiting = (qget s q).waiting ++ [(wr, { data := w, fin := tags.getLsbD 0, psn := tags.getLsbD 1, bad := bad }, false)] ∧ t.regs = s.regs) ∧
  (∀ (q : Fin 32768) (wr : Nat) (w : Word) (tags : BitVec 2) (bad : Bool) (s : State), agentQueue q = true → (qget s q).discard = some wr →
    (qget s q).waiting = [] → Gives (.queueWrite q wr w tags bad) s fun t => (qget t q).words = (qget s q).words ∧
      (qget t q).discard = (if tags.getLsbD 0 then none else some wr) ∧
      rn t .QUE_FLUSH_DISCARD q = min 0xFFFFFFFF (rn s .QUE_FLUSH_DISCARD q + 1)) ∧
  (∀ (q : Fin 32768) (wr : Nat) (w : QWord) (counted : Bool) (ws : List (Nat × QWord × Bool)) (s : State),
    (qget s q).waiting = (wr, w, counted) :: ws → tailHeld (qget s q) wr = false → (qget s q).discard ≠ some wr → qroom s q 1 = true →
    Gives (.waitingWriteResume q) s fun t => (qget t q).waiting = ws ∧
      (qget t q).words = (qget s q).words ++ [{ w with fin := w.fin || decide ((qget s q).openLen + 1 = 65535) }]) ∧
  (∀ (q : Fin 32768) (wr : Nat) (w : QWord) (counted : Bool) (ws : List (Nat × QWord × Bool)) (s : State),
    (qget s q).waiting = (wr, w, counted) :: ws → tailHeld (qget s q) wr = false → (qget s q).discard ≠ some wr → logQueue q = false →
    qroom s q 1 = false → Gives (.waitingWriteResume q) s fun t => (qget t q).words = (qget s q).words ∧ rn t .QUE_POOL_WAITS =
      if counted then rn s .QUE_POOL_WAITS else min 0xFFFFFFFF (rn s .QUE_POOL_WAITS + 1)) ∧
  (∀ (q : Fin 32768) (s : State), (qget s q).waiting = [] → exec (.waitingWriteResume q) s = .next s) ∧
  (∀ (q : Fin 32768) (wr : Nat) (w : Word) (tags : BitVec 2) (bad link : Bool) (s : State), agentQueue q = false →
    ∀ c ∈ [Instr.queueWrite q wr w tags bad, .queueRead q bad link, .queueDrop q, .queueFlush q], exec c s = .next s)

/-- A read delivers the oldest word of a whole packet, and NV where there is none; a failed link breaks the queue; a drop removes the
head packet, a flush every word (R248, R251, R252, R257, R258, R259). What a read delivers stands in the queue's answer, the model's
own field (log 78). -/
def Obligations.QueueReads : Prop :=
  (∀ (q : Fin 32768) (w : QWord) (ws : List QWord) (bad : Bool) (s : State), agentQueue q = true → (qget s q).words = w :: ws →
    wholePackets (qget s q) ≠ 0 → (qget s q).cut = false → (qget s q).dead = [] → Gives (.queueRead q bad false) s fun t =>
      (qget t q).words = ws ∧ (qget t q).reading = !w.fin ∧ rd t .QUE_TROUGH q = min (rd s .QUE_TROUGH q) ws.length ∧
      (qget t q).answer = some ⟨w.data, w.fin, false, w.psn || w.bad || bad || (qget s q).tainted⟩ ∧
      rn t .QUE_POISON q = (if w.psn ∨ w.bad ∨ bad ∨ (qget s q).tainted then min 0xFFFFFFFF (rn s .QUE_POISON q + 1) else rn s .QUE_POISON q)) ∧
  (∀ (q : Fin 32768) (bad brokenLink : Bool) (s : State), agentQueue q = true → wholePackets (qget s q) = 0 → (qget s q).cut = false →
    exec (.queueRead q bad brokenLink) s = .next (answerTo q ⟨0, false, true, false⟩ s)) ∧
  (∀ (q : Fin 32768) (bad brokenLink : Bool) (s : State), agentQueue q = true → (qget s q).cut = true →
    Gives (.queueRead q bad brokenLink) s fun t => (qget t q).answer = some ⟨0, true, true, false⟩ ∧ (qget t q).cut = false ∧
      (qget t q).words = (qget s q).words ∧ t.regs = s.regs) ∧
  (∀ (q : Fin 32768) (bad link : Bool) (s : State), agentQueue q = true → wholePackets (qget s q) ≠ 0 → (qget s q).cut = false →
    (qget s q).head = 0 → (qget s q).first ≠ 0 → link = true ∨ (qget s q).first - 1 ∈ (qget s q).dead →
    Gives (.queueRead q bad link) s fun t => (qget t q).words = [] ∧ (qget t q).broken = true ∧
      (qget t q).answer = some ⟨0, true, false, true⟩ ∧
      rn t .QUE_BROKEN = min 0xFFFFFFFF (rn s .QUE_BROKEN + 1) ∧ t.poolLost = s.poolLost + qcells (qget s q)) ∧
  (∀ (q : Fin 32768) (s : State), agentQueue q = true → wholePackets (qget s q) ≠ 0 → (qget s q).dead = [] →
    Gives (.queueDrop q) s fun t =>
    (qget t q).words = (qget s q).words.drop (headLen (qget s q).words) ∧ (qget t q).reading = false ∧
    rn t .QUE_DROPPED q = min 0xFFFFFFFF (rn s .QUE_DROPPED q + headLen (qget s q).words)) ∧
  (∀ (q : Fin 32768) (s : State), agentQueue q = true → wholePackets (qget s q) = 0 →
    exec (.queueDrop q) s = .next (answerTo q ⟨0, false, true, false⟩ s)) ∧
  (∀ (q : Fin 32768) (s : State), agentQueue q = true → Gives (.queueFlush q) s fun t =>
    (qget t q).words = [] ∧ (qget t q).broken = (qget s q).broken ∧ (qget t q).openLen = 0 ∧
    (qget t q).cut = ((qget s q).cut || (qget s q).reading) ∧
    (qget t q).discard = (match (qget s q).owner with | some o => some o | none => (qget s q).discard) ∧
    rn t .QUE_FLUSHES q = min 0xFFFFFFFF (rn s .QUE_FLUSHES q + 1))

/-! ### The engines -/

/-- The nine emitting opcodes (R74 to R77): one edge command with the release of OFFSET and the operand of word 1 (0 for HOLD), out of
queue 0 and out of a loop body, where the loop base is added (R80). -/
def Obligations.EmittingOpcodes : Prop :=
  Emits .schedPlay 0x01 ∧ Emits .schedJump 0x02 ∧ Emits .schedHold 0x03 ∧ Emits .schedFreq 0x04 ∧ Emits .schedPhase 0x05 ∧
  Emits .schedFlux 0x06 ∧ Emits .schedBias 0x07 ∧ Emits .schedCapture 0x08 ∧ Emits .schedMark 0x09 ∧
  EmitsInLoop .schedPlay 0x01 ∧ EmitsInLoop .schedJump 0x02 ∧ EmitsInLoop .schedHold 0x03 ∧ EmitsInLoop .schedFreq 0x04 ∧
  EmitsInLoop .schedPhase 0x05 ∧ EmitsInLoop .schedFlux 0x06 ∧ EmitsInLoop .schedBias 0x07 ∧ EmitsInLoop .schedCapture 0x08 ∧
  EmitsInLoop .schedMark 0x09

/-- The opcodes that emit nothing of their own, and SELECT: NOP only counts, RAISE requests every channel slot whose
producer the engine is, WAITEVT waits for its channel, SELECT writes a SELECT command (R75, R81, R83). An opcode that an override
sends past the last word of the patch faults, and so does one whose microword fails parity: the run ends (R97, R99, R100). Which shot an
ABORT voids in a corner that R90 does not give is log 68. -/
def Obligations.OtherOpcodes : Prop :=
  (∀ (e : EngNo) (w0 : Word) (rest : List QWord) (s : State), AtPacket e [w0] rest s → schedOp w0 = 0x00 → fld w0 55 0 = 0 →
    Gives (.schedNop e false) s fun t => Executed e 1 rest s t ∧ t.fifos = s.fifos) ∧
  (∀ (e : EngNo) (w0 : Word) (rest : List QWord) (s : State), AtPacket e [w0] rest s → schedOp w0 = 0x21 → fld w0 55 0 = 0 →
    Gives (.schedRaise e false) s fun t => Executed e 1 rest s t ∧ t.fifos = s.fifos ∧
      ∀ ch slot, slot < 8 → rd s .EVT_CH_PROD (8 * ch + slot) = ((0x8000 + e.val : Nat) : Int) → slot ∈ (chget t ch).held) ∧
  (∀ (e : EngNo) (w0 : Word) (rest : List QWord) (s : State), AtPacket e [w0] rest s → schedOp w0 = 0x20 →
    fld w0 55 40 = 0 → fld w0 31 0 = 0 → Gives (.schedWaitevt e false) s fun t => Executed e 1 rest s t ∧
      (eget t e).state = .waitEvent ∧ (eget t e).waitCh = some (fld w0 39 32)) ∧
  (∀ (e : EngNo) (w0 : Word) (rest : List QWord) (f : Nat) (s : State), AtPacket e [w0] rest s → schedOp w0 = 0x11 →
    schedKind 0x11 (e.val % 8) = true → schedReserved 0x11 w0 = false → emitFifo e (eget s e) w0 = some f → fifoRoom (fget s f) = true →
    Gives (.schedSelect e false) s fun t => Executed e 1 rest s t ∧ (fget t f).incoming =
      (fget s f).incoming ++ [{ w0 := edgeWord0 (eget s e) w0 0x0B, w1 := word (fld w0 43 42 * 2 ^ 8 + fld w0 35 32) }]) ∧
  (∀ (e : EngNo) (w : QWord) (ws : List QWord) (o : Nat × Nat) (s : State), (eget s e).state = .run → (eget s e).gather = none →
    (eget s e).micro.at_ = none → nextPacket s e = some (w :: ws) → schedOp w.data = 0x00 → overrideOf s (e.val % 8) 0x00 = some o →
    bitOf o.1 12 = true → (patchOf s (e.val % 8)).words.length ≤ nfld o.1 11 0 → inRun s = true → s.run.aborted = false →
    Gives (.schedNop e false) s fun t => rn t .MCS_FAULT = min 0xFFFFFFFF (rn s .MCS_FAULT + 1) ∧ EndsAsAbort s t) ∧
  FaultEndsRun .schedNop 0x00 ∧ FaultEndsRun .schedPlay 0x01 ∧ FaultEndsRun .schedJump 0x02 ∧ FaultEndsRun .schedHold 0x03 ∧
  FaultEndsRun .schedFreq 0x04 ∧ FaultEndsRun .schedPhase 0x05 ∧ FaultEndsRun .schedFlux 0x06 ∧ FaultEndsRun .schedBias 0x07 ∧
  FaultEndsRun .schedCapture 0x08 ∧ FaultEndsRun .schedMark 0x09 ∧ FaultEndsRun .schedAlt 0x10 ∧ FaultEndsRun .schedSelect 0x11 ∧
  FaultEndsRun .schedWaitevt 0x20 ∧ FaultEndsRun .schedRaise 0x21 ∧ FaultEndsRun .schedLoop 0x28 ∧ FaultEndsRun .schedBranch 0x30 ∧
  FaultEndsRun .schedBoundary 0xF0 ∧ FaultEndsRun .schedEnd 0xF1

/-- LOOP takes the BODY words that follow it and begins its passes, or is dropped with them; an item of ALT is written as one STAGE
command and its alternatives, or dropped whole; while words of either are missing the engine waits for them (R73, R80, R82). A LOOP or an
item dropped with its words counts once, the model's choice (log 67). -/
def Obligations.LoopAndAlt : Prop :=
  (∀ (e : EngNo) (w0 : Word) (ps : List (List Word)) (rest : List QWord) (s : State), AtPacket e [w0] (cleanPackets ps ++ rest) s →
    schedOp w0 = 0x28 → InSection e ps s → ps.flatten.length = fld w0 55 48 → loopLegal w0 ps.flatten = true →
    Gives (.schedLoop e false) s (LoopBegun e w0 ps.flatten rest s)) ∧
  (∀ (e : EngNo) (w0 : Word) (ws : List Word) (ps : List (List Word)) (rest : List QWord) (s : State),
    Gathers e 0x28 w0 ws ps rest s → ws.length + ps.flatten.length = fld w0 55 48 → loopLegal w0 (ws ++ ps.flatten) = true →
    Gives (.schedLoop e false) s (LoopBegun e w0 (ws ++ ps.flatten) rest s)) ∧
  (∀ (e : EngNo) (w0 : Word) (ps : List (List Word)) (rest : List QWord) (s : State), AtPacket e [w0] (cleanPackets ps ++ rest) s →
    schedOp w0 = 0x28 → InSection e ps s → ps.flatten.length = fld w0 55 48 → loopLegal w0 ps.flatten = false →
    Gives (.schedLoop e false) s fun t => (qget t (32 * e)).words = rest ∧ (eget t e).loop = none ∧ t.fifos = s.fifos ∧
      rn t .ENG_ILLEGAL e = min 0xFFFFFFFF (rn s .ENG_ILLEGAL e + 1)) ∧
  (∀ (e : EngNo) (w0 : Word) (rest : List QWord) (s : State), AtPacket e [w0] rest s → schedOp w0 = 0x28 → rest.any (·.fin) = false →
    InSection e [[0]] s → fld w0 55 48 ≠ 0 → Gives (.schedLoop e false) s fun t => (eget t e).state = .waitFetch ∧
      (eget t e).gather = some { op := 0x28, head := w0 } ∧ rn t .ENG_STARVE e = min 0xFFFFFFFF (rn s .ENG_STARVE e + 1)) ∧
  (∀ (e : EngNo) (w0 : Word) (ps : List (List Word)) (rest : List QWord) (f : Nat) (s : State),
    AtPacket e [w0] (cleanPackets ps ++ rest) s → schedOp w0 = 0x10 → InSection e ps s → ItemLegal e w0 ps f s →
    Gives (.schedAlt e false) s (ItemWritten e w0 ps rest f s)) ∧
  (∀ (e : EngNo) (w0 : Word) (qs ps : List (List Word)) (rest : List QWord) (f : Nat) (s : State),
    Gathers e 0x10 w0 qs.flatten ps rest s → ItemLegal e w0 (qs ++ ps) f s →
    Gives (.schedAlt e false) s (ItemWritten e w0 (qs ++ ps) rest f s)) ∧
  (∀ (e : EngNo) (w0 : Word) (l : Loop) (ps : List (List Word)) (tail : List Word) (f : Nat) (s : State), (eget s e).state = .run →
    (eget s e).gather = none → (eget s e).micro.at_ = none → (eget s e).out = [] → reached s (e.val % 8) 0x10 = false →
    (eget s e).loop = some l → l.rest = w0 :: ps.flatten ++ tail → schedOp w0 = 0x10 → ItemLegal e w0 ps f s →
    Gives (.schedAlt e false) s fun t => (fget t f).incoming = (fget s f).incoming ++ itemCmds (eget s e) w0 ps ∧
      (qget t (32 * e)).words = (qget s (32 * e)).words) ∧
  (∀ (e : EngNo) (w0 w1 : Word) (rest : List QWord) (s : State), AtPacket e [w0] (cleanPackets [[w1]] ++ rest) s → schedOp w0 = 0x10 →
    schedKind 0x10 (e.val % 8) = true → schedOp w1 = 0x00 → Gives (.schedAlt e false) s fun t =>
      (qget t (32 * e)).words = cleanPackets [[w1]] ++ rest ∧ t.fifos = s.fifos ∧
      rn t .ENG_ILLEGAL e = min 0xFFFFFFFF (rn s .ENG_ILLEGAL e + 1)) ∧
  (∀ (e : EngNo) (w0 : Word) (rest : List QWord) (s : State), AtPacket e [w0] rest s → schedOp w0 = 0x10 →
    schedKind 0x10 (e.val % 8) = true → rest.any (·.fin) = false → InSection e [[0]] s → fld w0 47 44 ≠ 0 →
    Gives (.schedAlt e false) s fun t => (eget t e).state = .waitFetch ∧ (eget t e).gather = some { op := 0x10, head := w0 } ∧
      rn t .ENG_STARVE e = min 0xFFFFFFFF (rn s .ENG_STARVE e + 1))

/-- A packet of an opcode that its engine does not have, that is too short, that has a reserved bit set, or whose TARGET or OFFSET is out of
range, is dropped and counted, and voids the shot that its engine expands (R76 to R78). -/
def Obligations.IllegalPacketsAreDropped : Prop :=
  DropsIllegal .schedNop 0x00 ∧ DropsIllegal .schedPlay 0x01 ∧ DropsIllegal .schedJump 0x02 ∧ DropsIllegal .schedHold 0x03 ∧
  DropsIllegal .schedFreq 0x04 ∧ DropsIllegal .schedPhase 0x05 ∧ DropsIllegal .schedFlux 0x06 ∧ DropsIllegal .schedBias 0x07 ∧
  DropsIllegal .schedCapture 0x08 ∧ DropsIllegal .schedMark 0x09 ∧ DropsIllegal .schedAlt 0x10 ∧ DropsIllegal .schedSelect 0x11 ∧
  DropsIllegal .schedWaitevt 0x20 ∧ DropsIllegal .schedRaise 0x21 ∧ DropsIllegal .schedBranch 0x30 ∧ DropsIllegal .schedBoundary 0xF0 ∧
  DropsIllegal .schedEnd 0xF1 ∧
  (∀ (e : EngNo) (w0 : Word) (rest : List QWord) (s : State), Heads e [(w0, false)] rest s → schedListed (schedOp w0) = false →
    overrideOf s (e.val % 8) (schedOp w0) = none →
    Gives (.schedNop e false) s fun t => rn t .ENG_ILLEGAL e = min 0xFFFFFFFF (rn s .ENG_ILLEGAL e + 1) ∧ t.fifos = s.fifos ∧
      (eget t e).pc = ((eget s e).pc + 8) % 2 ^ 64)

/-- A schedule word read with PSN set, in a packet of any opcode, in the body that a LOOP reads or in the item that an ALT reads,
increments ENG_POISON and PKG_SCHED_POISON, and the run ends as if host software had written ABORT (R79). -/
def Obligations.PoisonedPacketEndsTheRun : Prop :=
  PoisonEndsRun .schedNop 0x00 ∧ PoisonEndsRun .schedPlay 0x01 ∧ PoisonEndsRun .schedJump 0x02 ∧ PoisonEndsRun .schedHold 0x03 ∧
  PoisonEndsRun .schedFreq 0x04 ∧ PoisonEndsRun .schedPhase 0x05 ∧ PoisonEndsRun .schedFlux 0x06 ∧ PoisonEndsRun .schedBias 0x07 ∧
  PoisonEndsRun .schedCapture 0x08 ∧ PoisonEndsRun .schedMark 0x09 ∧ PoisonEndsRun .schedAlt 0x10 ∧ PoisonEndsRun .schedSelect 0x11 ∧
  PoisonEndsRun .schedWaitevt 0x20 ∧ PoisonEndsRun .schedRaise 0x21 ∧ PoisonEndsRun .schedLoop 0x28 ∧ PoisonEndsRun .schedBranch 0x30 ∧
  PoisonEndsRun .schedBoundary 0xF0 ∧ PoisonEndsRun .schedEnd 0xF1 ∧
  (∀ (e : EngNo) (w0 : Word) (ps : List (List Word)) (ws : List (Word × Bool)) (rest : List QWord) (s : State),
    AtPacket e [w0] (cleanPackets ps ++ (queueWords ws ++ rest)) s → schedOp w0 = 0x28 → InSection e (ps ++ [ws.map (·.1)]) s →
    ws.any (·.2) = true → ps.flatten.length + ws.length ≤ fld w0 55 48 → inRun s = true → s.run.aborted = false →
    Gives (.schedLoop e false) s (EndsPoisoned e s)) ∧
  (∀ (e : EngNo) (w0 : Word) (ps : List (List Word)) (w : Word × Bool) (ws : List (Word × Bool)) (rest : List QWord) (s : State),
    AtPacket e [w0] (cleanPackets ps ++ (queueWords (w :: ws) ++ rest)) s → schedOp w0 = 0x10 → schedKind 0x10 (e.val % 8) = true →
    InSection e (ps ++ [(w :: ws).map (·.1)]) s → (w :: ws).any (·.2) = true → ps.length < fld w0 47 44 →
    (∀ p ∈ ps.map (nthD · 0 0) ++ [w.1], 1 ≤ schedOp p ∧ schedOp p ≤ 9) → (∀ p ∈ ps, p.length = packetLen (schedOp (nthD p 0 0))) →
    inRun s = true → s.run.aborted = false → Gives (.schedAlt e false) s (EndsPoisoned e s))

/-- The schedule path: a chunk of 4 KB refills a streamed area, a packet goes from the area to queue 0, the keystone adds END to a
stream that ends without one, and an engine in WAIT_FIFO writes on when its FIFO has room, or goes on with its routine (R59, R71, R73, R296). -/
def Obligations.SchedulePath : Prop :=
  (∀ (e : EngNo) (s : State), inRun s = true → (aget s e).exist = true → (aget s e).resident = false → (aget s e).fetched < (aget s e).len →
    (aget s e).words.length + 512 ≤ 8192 →
    dramWaits s ((aget s e).base + 8 * (aget s e).fetched) (8 * min 512 ((aget s e).len - (aget s e).fetched)) = false →
    Gives (.scheduleFetchChunk e) s fun t =>
      (aget t e).fetched = (aget s e).fetched + min 512 ((aget s e).len - (aget s e).fetched) ∧
      (aget t e).words = (aget s e).words ++ (dramRead 18 ((aget s e).base + 8 * (aget s e).fetched)
        (min 512 ((aget s e).len - (aget s e).fetched)) s).1) ∧
  (∀ (e : EngNo) (s : State), dramWaits s ((aget s e).base + 8 * (aget s e).fetched)
    (8 * min 512 ((aget s e).len - (aget s e).fetched)) = true → exec (.scheduleFetchChunk e) s = .next s) ∧
  (∀ (e : EngNo) (w : Word × Bool) (ws : List (Word × Bool)) (s : State), inRun s = true → (aget s e).exist = true → s.run.aborted = false →
    (qget s (32 * e)).words.length < 256 → (qget s (32 * e)).waiting = [] → (aget s e).resident = false → (aget s e).words = w :: ws →
    packetLen (schedOp w.1) = 1 → (aget s e).given < (aget s e).len → (qget s (32 * e)).discard = none →
    tailHeld (qget s (32 * e)) 1 = false → qroom s (32 * e) 1 = true → Gives (.schedulePacketDelivery e) s fun t =>
      (aget t e).given = (aget s e).given + 1 ∧ (aget t e).words = ws ∧
      (qget t (32 * e)).words = (qget s (32 * e)).words ++ [{ data := w.1, psn := w.2, fin := true }]) ∧
  (∀ (e : EngNo) (w v : Word × Bool) (ws : List (Word × Bool)) (s : State), inRun s = true → (aget s e).exist = true →
    s.run.aborted = false → (qget s (32 * e)).words.length < 256 → (qget s (32 * e)).waiting = [] →
    areaLeft (aget s e) = w :: v :: ws → packetLen (schedOp w.1) = 2 → (aget s e).given + 2 ≤ (aget s e).len →
    (qget s (32 * e)).discard = none → tailHeld (qget s (32 * e)) 1 = false → (qget s (32 * e)).openLen = 0 →
    qroom s (32 * e) 1 = true → qroom s (32 * e) 2 = true → Gives (.schedulePacketDelivery e) s fun t =>
      (aget t e).given = (aget s e).given + 2 ∧ areaLeft (aget t e) = ws ∧
      (qget t (32 * e)).words = (qget s (32 * e)).words ++ queueWords [w, v]) ∧
  (∀ (e : EngNo) (s : State), inRun s = true → (aget s e).exist = true → s.run.aborted = false → (qget s (32 * e)).words.length < 256 →
    (qget s (32 * e)).waiting = [] → (aget s e).given = (aget s e).len → (aget s e).ended = false → Gives (.schedulePacketDelivery e) s fun t =>
      (aget t e).ended = true ∧ rn t .PKG_NO_END = min 0xFFFFFFFF (rn s .PKG_NO_END + 1)) ∧
  (∀ (e : EngNo) (o : Nat × Word × Word) (s : State), (eget s e).state = .waitFifo → (eget s e).out = [o] → fifoRoom (fget s o.1) = true →
    Gives (.fifoWaitEnd e) s fun t => (fget t o.1).incoming = (fget s o.1).incoming ++ [{ w0 := o.2.1, w1 := o.2.2 }] ∧
      (eget t e).out = []) ∧
  (∀ (e : EngNo) (s : State), (eget s e).state = .waitFifo → (eget s e).out = [] →
    (∀ f, (eget s e).micro.target = some f → fifoRoom (fget s f) = true) → Gives (.fifoWaitEnd e) s fun t =>
      eget t e = { eget s e with state := .run } ∧ t.fifos = s.fifos) ∧
  (∀ (e : EngNo) (s : State), (eget s e).state ≠ .waitFifo → exec (.fifoWaitEnd e) s = .next s)

/-! ### Edge FIFOs and abutments -/

/-- A command whose words the write half completes is judged and stays in the FIFO, accepted when it passes every check of R456; a STAGE
waits for its unit; while the region halts nothing completes, and after ABORT or on a die without a clock a command is
discarded (R20, R42, R52, R56, R58, R62, R90, R456). -/
def Obligations.CommandArrival : Prop :=
  (∀ (f : FifoNo) (c : EdgeIn) (rest : List EdgeIn) (s : State), Arrives f c rest s → (fget s f).unit = [] → headsUnit f c = false →
    Gives (.edgeCommandArrival f) s fun t => (fget t f).incoming = rest ∧ (fget t f).wp = ((fget s f).wp + c.words) % 1024 ∧
      ∃ ok, (fget t f).cmds = (fget s f).cmds ++ [{ w0 := c.w0, w1 := c.w1, release := releaseNow s c.w0, ok := ok, psn0 := c.psn0,
                                                    psn1 := c.psn1, words := c.words, seq := (fget s f).seq,
                                                    more := c.more.map fun w => (0, w) }]) ∧
  (∀ (f : FifoNo) (c : EdgeIn) (rest : List EdgeIn) (s : State), Arrives f c rest s → (fget s f).unit = [] → headsUnit f c = false →
    fifoActive s f = true → formOk s f c (releaseNow s c.w0) = true → validity (releaseDiff c.w0 s.tml) = .valid →
    (∀ l, (fget s f).last = some l → precedes (orderInstant f c.w0 (releaseNow s c.w0)) l = false ∧
      (l.1 = releaseNow s c.w0 → (fget s f).same < 4)) → (fget s f).notes = [] → Gives (.edgeCommandArrival f) s fun t =>
      ((fget t f).cmds.getLast?.map (·.ok)) = some true ∧ (fget t f).last = some (orderInstant f c.w0 (releaseNow s c.w0)) ∧
      t.run = s.run) ∧
  (∀ (f : FifoNo) (c : EdgeIn) (rest : List EdgeIn) (l : Nat × Nat) (s : State), Arrives f c rest s → (fget s f).unit = [] →
    headsUnit f c = false → fifoActive s f = true → formOk s f c (releaseNow s c.w0) = true →
    validity (releaseDiff c.w0 s.tml) = .valid → (fget s f).last = some l →
    precedes (orderInstant f c.w0 (releaseNow s c.w0)) l = true → Gives (.edgeCommandArrival f) s fun t =>
      ((fget t f).cmds.getLast?.map (·.ok)) = some false ∧ (fget t f).last = some l ∧
      rn t .TML_ORDER = min 0xFFFFFFFF (rn s .TML_ORDER + 1) ∧ rn t .TML_LATE = min 0xFFFFFFFF (rn s .TML_LATE + 1)) ∧
  (∀ (f : FifoNo) (c : EdgeIn) (rest : List EdgeIn) (l : Nat × Nat) (s : State), Arrives f c rest s → (fget s f).unit = [] →
    headsUnit f c = false → fifoActive s f = true → formOk s f c (releaseNow s c.w0) = true →
    validity (releaseDiff c.w0 s.tml) = .valid → (fget s f).last = some l →
    precedes (orderInstant f c.w0 (releaseNow s c.w0)) l = false → l.1 = releaseNow s c.w0 → 4 ≤ (fget s f).same →
    Gives (.edgeCommandArrival f) s fun t => ((fget t f).cmds.getLast?.map (·.ok)) = some false ∧ (fget t f).last = some l ∧
      rn t .TML_ILLEGAL = min 0xFFFFFFFF (rn s .TML_ILLEGAL + 1)) ∧
  (∀ (f : FifoNo) (c : EdgeIn) (rest : List EdgeIn) (s : State), Arrives f c rest s → (fget s f).unit = [] → headsUnit f c = false →
    fifoActive s f = true → formOk s f c (releaseNow s c.w0) = true → validity (releaseDiff c.w0 s.tml) = .late →
    Gives (.edgeCommandArrival f) s fun t => ((fget t f).cmds.getLast?.map (·.ok)) = some false ∧
      rn t .TML_LATE = min 0xFFFFFFFF (rn s .TML_LATE + 1) ∧ rn t .TML_F_LATE f = min 0xFFFFFFFF (rn s .TML_F_LATE f + 1) ∧
      rn t .TML_LATE_FLAG = 1 ∧ (rn s .TML_LATE_FLAG = 0 → rn t .TML_FIRST_FIFO = f ∧ rn t .TML_FIRST_ARRIVAL = s.tml)) ∧
  (∀ (f : FifoNo) (c : EdgeIn) (rest : List EdgeIn) (s : State), Arrives f c rest s → (fget s f).unit = [] → headsUnit f c = false →
    fifoActive s f = true → c.words ≠ 2 ∨ edgeAccepts (fifoKind f) (edgeOp c.w0) = false ∨ fld c.w0 12 8 ≠ 0 →
    Gives (.edgeCommandArrival f) s fun t => ((fget t f).cmds.getLast?.map (·.ok)) = some false ∧
      rn t .TML_ILLEGAL = min 0xFFFFFFFF (rn s .TML_ILLEGAL + 1) ∧
      rn t .TML_F_ILLEGAL f = min 0xFFFFFFFF (rn s .TML_F_ILLEGAL f + 1)) ∧
  (∀ (f : FifoNo) (c : EdgeIn) (rest : List EdgeIn) (s : State), Arrives f c rest s → (fget s f).unit = [] → headsUnit f c = false →
    fifoActive s f = false → Gives (.edgeCommandArrival f) s fun t => ((fget t f).cmds.getLast?.map (·.ok)) = some false ∧
      rn t .TML_F_INACTIVE f = min 0xFFFFFFFF (rn s .TML_F_INACTIVE f + 1) ∧ t.run = s.run) ∧
  (∀ (f : FifoNo) (c : EdgeIn) (rest : List EdgeIn) (s : State), Arrives f c rest s → (fget s f).unit = [] → edgeOp c.w0 = 0x0A →
    c.words = 2 → edgeAccepts (fifoKind f) 0x0A = true → 1 ≤ fld c.w1 19 16 → fld c.w1 19 16 ≤ 8 →
    Gives (.edgeCommandArrival f) s fun t => (fget t f).incoming = rest ∧ (fget t f).unit = [c] ∧ (fget t f).cmds = (fget s f).cmds ∧
      (fget t f).wp = ((fget s f).wp + 2) % 1024) ∧
  (∀ (f : FifoNo) (c h : EdgeIn) (rest ms : List EdgeIn) (s : State), Arrives f c rest s → (fget s f).unit = h :: ms →
    Gives (.edgeCommandArrival f) s fun t => (fget t f).incoming = rest ∧ (fget t f).wp = ((fget s f).wp + c.words) % 1024 ∧
      if ms.length + 1 < fld h.w1 19 16
      then (fget t f).unit = h :: ms ++ [c] ∧ (fget t f).cmds = (fget s f).cmds
      else (fget t f).unit = [] ∧ ∃ x, (fget t f).cmds = (fget s f).cmds ++ [x] ∧ x.w0 = h.w0 ∧ x.w1 = h.w1 ∧
        x.release = releaseNow s h.w0 ∧ x.unit = (ms ++ [c]).map fun m => (m.w0, m.w1, releaseNow s m.w0)) ∧
  (∀ (f : FifoNo) (c : EdgeIn) (rest : List EdgeIn) (s : State), (fget s f).incoming = c :: rest →
    regionHalted s (cluRgn (fifoClu f)) = true → exec (.edgeCommandArrival f) s = .next s) ∧
  (∀ (f : FifoNo) (s : State), (fget s f).incoming = [] → exec (.edgeCommandArrival f) s = .next s) ∧
  (∀ (f : FifoNo) (c : EdgeIn) (rest : List EdgeIn) (s : State), (fget s f).incoming = c :: rest →
    regionHalted s (cluRgn (fifoClu f)) = false → s.run.aborted = true →
    Gives (.edgeCommandArrival f) s fun t => (fget t f).incoming = rest ∧ (fget t f).cmds = (fget s f).cmds ∧
      rn t .ENG_DISCARD (fifoEng f) = min 0xFFFFFFFF (rn s .ENG_DISCARD (fifoEng f) + 1) ∧
      rn t .QUE_EF_FLUSHED f = min 0xFFFFFFFF (rn s .QUE_EF_FLUSHED f + 1)) ∧
  (∀ (f : FifoNo) (c : EdgeIn) (rest : List EdgeIn) (s : State), (fget s f).incoming = c :: rest →
    regionHalted s (cluRgn (fifoClu f)) = false → s.run.aborted = false → clockDiscard s f c.w0 = true →
    Gives (.edgeCommandArrival f) s fun t => (fget t f).incoming = rest ∧ (fget t f).cmds = (fget s f).cmds ∧
      rn t .QUE_EF_FLUSHED f = min 0xFFFFFFFF (rn s .QUE_EF_FLUSHED f + 1))

/-- The read half takes a command, whatever its judgement, 32 grains before its release at the earliest, and one whose first word is bad
at once; a poisoned command counts and is not released, a poisoned alternative alone leaves its unit; a STAGE at its release fills
the staging store and a SELECT closes its slot (R52, R54, R236, R266). That a command is taken whatever its judgement, and that a poisoned
alternative alone leaves its unit, are the model's choices (log 9). -/
def Obligations.EdgeFifoReads : Prop :=
  (∀ (f : FifoNo) (c : EdgeCmd) (rest : List EdgeCmd) (s : State), (fget s f).cmds = c :: rest → fifoClockOk s f = true →
    c.release ≤ s.tml + 32 → c.psn0 = false → c.psn1 = false → c.unitPsn = [] → (∀ m ∈ c.more, m.2.psn = false) →
    Gives (.edgeFifoRead f 0) s fun t =>
      (fget t f).cmds = rest ∧ (fget t f).rp = ((fget s f).rp + c.words) % 1024 ∧
      rn t .QUE_EF_POISON f = rn s .QUE_EF_POISON f ∧
      (fget t f).path = if c.ok then insertBy (pathBefore f) c (fget s f).path else (fget s f).path) ∧
  (∀ (f : FifoNo) (c : EdgeCmd) (rest : List EdgeCmd) (bad : BitVec 18) (s : State), (fget s f).cmds = c :: rest → c.psn0 = false →
    bad.getLsbD 0 = false → s.tml + 32 < c.release → exec (.edgeFifoRead f bad) s = .next s) ∧
  (∀ (f : FifoNo) (c : EdgeCmd) (rest : List EdgeCmd) (bad : BitVec 18) (s : State), (fget s f).cmds = c :: rest →
    fifoClockOk s f = true → bad.getLsbD 0 = true ∨ c.psn0 = true ∨
      (bad.getLsbD 1 = true ∨ c.psn1 = true ∨ ∃ m ∈ c.more, m.1 = 0 ∧ m.2.psn = true) ∧ c.release ≤ s.tml + 32 →
    Gives (.edgeFifoRead f bad) s fun t => (fget t f).cmds = rest ∧ (fget t f).path = (fget s f).path ∧
      rn t .QUE_EF_POISON f = min 0xFFFFFFFF (rn s .QUE_EF_POISON f + 1)) ∧
  (∀ (f : FifoNo) (c : EdgeCmd) (m : Word × Word × Nat) (ms : List (Word × Word × Nat)) (rest : List EdgeCmd) (s : State),
    (fget s f).cmds = c :: rest → fifoClockOk s f = true → c.ok = true → c.release ≤ s.tml + 32 → c.psn0 = false → c.psn1 = false →
    c.unitPsn = [] → (∀ m ∈ c.more, m.2.psn = false) → c.unit = m :: ms → Gives (.edgeFifoRead f 4) s fun t => (fget t f).cmds = rest ∧
      (fget t f).path = insertBy (pathBefore f) { c with unit := ms } (fget s f).path ∧
      rn t .QUE_EF_POISON f = min 0xFFFFFFFF (rn s .QUE_EF_POISON f + 1)) ∧
  (∀ (f : FifoNo) (c : EdgeCmd) (rest : List EdgeCmd) (s : State), Due f 0x0A c rest s → Gives (.stage f) s fun t =>
    (fget t f).path = rest ∧ (fget t f).store = (fget s f).store ++
      [{ slot := fld c.w1 3 0, alt := fld c.w1 9 8, release := c.release, cmds := c.unit, seq := c.seq }]) ∧
  (∀ (f : FifoNo) (c : EdgeCmd) (rest : List EdgeCmd) (s : State), Due f 0x0B c rest s → Gives (.select f) s fun t =>
    (fget t f).store = (fget s f).store.filter fun u => decide (u.slot ≠ fld c.w1 3 0)) ∧
  (∀ (f : FifoNo) (c : EdgeCmd) (rest : List EdgeCmd) (u : Staged) (s : State), Due f 0x0B c rest s → u ∈ (fget s f).store →
    u.slot = fld c.w1 3 0 → u.alt = (registerChoice s (fifoClu f) u.slot c.release).getD (fld c.w1 9 8) → stagedEarly c.release u = false →
    Gives (.select f) s fun t => ∀ m ∈ u.cmds, ∃ x ∈ (fget t f).path, x.w0 = m.1 ∧ x.w1 = m.2.1 ∧ x.release = m.2.2 ∧ x.seq = u.seq) ∧
  (∀ (f : FifoNo) (c : EdgeCmd) (rest : List EdgeCmd) (s : State), Due f 0x0B c rest s →
    (fld c.w1 3 0, c.release) ∉ (brget s (fifoClu f)).done → registerChoice s (fifoClu f) (fld c.w1 3 0) c.release = none →
    Gives (.select f) s fun t =>
      rn t .CLU_FB_DEFAULT (fifoClu f) = min 0xFFFFFFFF (rn s .CLU_FB_DEFAULT (fifoClu f) + 1))

/-! ### Playback -/

/-- Tone and flux commands at their release: FREQ and PHASE set the frame state, FLUX holds its code unless a zero cause is in
force, BIAS waits for its update grain, HOLD ends a playback (R45 to R49, R111, R148, R156). -/
def Obligations.ReleasedCommands : Prop :=
  (∀ (f : FifoNo) (c : EdgeCmd) (rest : List EdgeCmd) (s : State), Due f 0x04 c rest s → Gives (.freq f) s fun t =>
    rn t .TON_FREQ f = fld c.w1 47 0 ∧ rn t .TON_FRAME f = rn s .TON_FRAME f ∧ (fget t f).path = rest) ∧
  (∀ (f : FifoNo) (c : EdgeCmd) (rest : List EdgeCmd) (s : State), Due f 0x05 c rest s → Gives (.phase f) s fun t =>
    rn t .TON_FRAME f = (if bitOf c.w1.toNat 32 then fld c.w1 31 0 else (rn s .TON_FRAME f + fld c.w1 31 0) % 2 ^ 32) ∧
    rn t .TON_FREQ f = rn s .TON_FREQ f ∧ (fget t f).path = rest) ∧
  (∀ (f : FifoNo) (c : EdgeCmd) (rest : List EdgeCmd) (s : State), Due f 0x06 c rest s → rn s .FLX_ZERO_CAUSE (fluxOf f) = 0 →
    Gives (.flux f) s fun t => (flxget t (fluxOf f)).x = sx 16 (fld c.w1 15 0) * flux1 ∧ (slget t f).play = none ∧ (fget t f).path = rest) ∧
  (∀ (f : FifoNo) (c : EdgeCmd) (rest : List EdgeCmd) (s : State), Due f 0x06 c rest s → fifoKind f = .flux →
    rn s .FLX_ZERO_CAUSE (fluxOf f) ≠ 0 → Gives (.flux f) s fun t =>
      rn t .FLX_ZERO_DISCARD (fluxOf f) = min 0xFFFFFFFF (rn s .FLX_ZERO_DISCARD (fluxOf f) + 1) ∧ t.fluxes = s.fluxes) ∧
  (∀ (f : FifoNo) (c : EdgeCmd) (rest : List EdgeCmd) (s : State), Due f 0x07 c rest s → (biaget s (f - 1152)).mode ≠ .fault →
    Gives (.bias f) s fun t => (fget t f).path = rest ∧ (biaget t (f - 1152)).cmds =
      (biaget s (f - 1152)).cmds ++ [{ release := c.release, hold := false, opnd := c.w1 }]) ∧
  (∀ (f : FifoNo) (c : EdgeCmd) (rest : List EdgeCmd) (s : State), Due f 0x07 c rest s → (biaget s (f - 1152)).mode = .fault →
    Gives (.bias f) s fun t => t.biases = s.biases ∧
      rn t .BIA_FAULT_DISCARD (f - 1152) = min 0xFFFFFFFF (rn s .BIA_FAULT_DISCARD (f - 1152) + 1)) ∧
  (∀ (f : FifoNo) (c : EdgeCmd) (rest : List EdgeCmd) (s : State), Due f 0x03 c rest s → fifoKind f ≠ .bias →
    Gives (.hold f) s fun t => (slget t f).play = none ∧ (slget t f).jumps = [] ∧ (fget t f).path = rest) ∧
  (∀ (f : FifoNo) (c : EdgeCmd) (rest : List EdgeCmd) (s : State), Due f 0x03 c rest s → fifoKind f = .bias →
    Gives (.hold f) s fun t => (fget t f).path = rest ∧ if (biaget s (f - 1152)).mode = .fault
      then t.biases = s.biases ∧ rn t .BIA_FAULT_DISCARD (f - 1152) = min 0xFFFFFFFF (rn s .BIA_FAULT_DISCARD (f - 1152) + 1)
      else (biaget t (f - 1152)).cmds = (biaget s (f - 1152)).cmds ++ [{ release := c.release, hold := true, opnd := 0 }])

/-- PLAY starts its segment when it is READY, and counts when it is not; JUMP joins the jumps of a playback, and counts as late without
one; MARK sets its cluster's pin, and one MARK at the instant of another FIFO's counts the collision (R43, R44, R51, R127 to R131). -/
def Obligations.PlayJumpMark : Prop :=
  (∀ (f : FifoNo) (c : EdgeCmd) (rest : List EdgeCmd) (s : State), Due f 0x01 c rest s → zeroed s f = false → ReadsGood f s →
    (sget s (fifoClu f) (fld c.w1 63 52)).ready = true →
    firstBad s (fifoClu f) (sget s (fifoClu f) (fld c.w1 63 52)).start (sget s (fifoClu f) (fld c.w1 63 52)).len = none →
    Gives (.play f none) s fun t => (fget t f).path = rest ∧ ∃ p, (slget t f).play = some p ∧ p.seg = fld c.w1 63 52 ∧ p.start = instantOf f c ∧
      p.gain = sx 16 (fld c.w1 51 36) ∧ p.len = (sget s (fifoClu f) (fld c.w1 63 52)).len ∧
      p.left = (if (sget s (fifoClu f) (fld c.w1 63 52)).loop then (if fld c.w1 35 20 = 0xFFFF then none else some (fld c.w1 35 20)) else some 0)) ∧
  (∀ (f : FifoNo) (c : EdgeCmd) (rest : List EdgeCmd) (s : State), Due f 0x01 c rest s → zeroed s f = false → ReadsGood f s →
    (sget s (fifoClu f) (fld c.w1 63 52)).ready = false → f.val < 1024 → Gives (.play f none) s fun t => (slget t f).play = none ∧
      rn t .TON_NOT_READY f = min 0xFFFFFFFF (rn s .TON_NOT_READY f + 1) ∧ rn t .CLU_REFILL_UNDERRUN (fifoClu f) = 1) ∧
  (∀ (f : FifoNo) (c : EdgeCmd) (rest : List EdgeCmd) (p : Play) (s : State), Due f 0x02 c rest s → (slget s f).play = some p → ReadsGood f s →
    p.cut = false → Gives (.jump f) s fun t => (fget t f).path = rest ∧
      (slget t f).jumps = (slget s f).jumps ++ [((instantOf f c : Int), fld c.w1 63 52)]) ∧
  (∀ (f : FifoNo) (c : EdgeCmd) (rest : List EdgeCmd) (s : State), Due f 0x02 c rest s → (slget s f).play = none → f.val < 1024 →
    Gives (.jump f) s fun t => (slget t f).jumps = (slget s f).jumps ∧ rn t .TON_LATE_JUMP f = min 0xFFFFFFFF (rn s .TON_LATE_JUMP f + 1)) ∧
  (∀ (f : FifoNo) (c : EdgeCmd) (rest : List EdgeCmd) (s : State), Due f 0x09 c rest s →
    (∀ h ∈ markHeads s (fifoClu f), h.2 = f ∨ instantOf f c < h.1 ∨ (instantOf f c = h.1 ∧ f ≤ h.2)) → Gives (.mark f) s fun t =>
      rn t .TML_MARK_COLLIDE = (if (mkget s (fifoClu f)).collided = false ∧
        (mkget s (fifoClu f)).lastMark.any (fun x => decide (x.1 = instantOf f c ∧ x.2 ≠ f.val)) = true
        then min 0xFFFFFFFF (rn s .TML_MARK_COLLIDE + 1) else rn s .TML_MARK_COLLIDE) ∧
      (mkget t (fifoClu f)).level = (if fld c.w1 1 0 = 0 then false else if fld c.w1 1 0 = 3 then !(mkget s (fifoClu f)).level else true) ∧
      (mkget t (fifoClu f)).pulseEnd = (if fld c.w1 1 0 = 2 then some (instantOf f c + 8 * fld c.w1 31 16) else none) ∧ (fget t f).path = rest)

/-- A playback goes on: the sampling point takes the latest jump, the boundary gives the target of a jump, the next pass or the fill; a
word that fails parity ends the pass and poisons its segment; a marker's pulse ends, a tap with bad parity is taken out; a die
without a qualified clock plays nothing on (R31, R121, R129 to R131, R135). -/
def Obligations.PlaybackProgress : Prop :=
  (∀ (f : FifoNo) (p : Play) (s : State), (slget s f).play = some p → ReadsGood f s → p.sampled = false → p.cut = false →
    samplingPoint p ≤ 8 * s.tml + 7 → fifoClockOk s f = true → Gives (.jumpSamplingPoint f) s fun t => ∃ q, (slget t f).play = some q ∧ q.sampled = true ∧
      q.taken = (((slget s f).jumps.filter fun j => decide (j.1 ≤ samplingPoint p)).getLast?.map (·.2))) ∧
  (∀ (f : FifoNo) (p : Play) (s : State), (slget s f).play = some p → p.sampled = true → p.taken = none →
    p.left = some 0 → p.start + 8 * p.len ≤ 8 * s.tml + 7 → fifoClockOk s f = true → Gives (.segmentBoundary f none) s fun t =>
      (slget t f).play = none ∧ (slget t f).jumps = []) ∧
  (∀ (f : FifoNo) (p : Play) (seg : Nat) (s : State), (slget s f).play = some p → ReadsGood f s → p.sampled = true → p.taken = some seg →
    p.start + 8 * p.len ≤ 8 * s.tml + 7 → fifoClockOk s f = true → (sget s (fifoClu f) seg).ready = true →
    firstBad s (fifoClu f) (sget s (fifoClu f) seg).start (sget s (fifoClu f) seg).len = none →
    Gives (.segmentBoundary f none) s fun t => ∃ q, (slget t f).play = some q ∧ q.seg = seg ∧ q.start = p.start + 8 * p.len ∧
      q.gain = p.gain ∧ q.left = if (sget s (fifoClu f) seg).loop then none else some 0) ∧
  (∀ (f : FifoNo) (p : Play) (k : Nat) (s : State), (slget s f).play = some p → p.cut = false → p.taken = none →
    nextBad s (fifoClu f) p = some k → k < p.len → p.start + 8 * p.len ≤ 8 * s.tml + 7 → fifoClockOk s f = true → Gives (.segmentBoundary f none) s fun t =>
      (slget t f).play = none ∧ (sget t (fifoClu f) p.seg).poison = true ∧ (sget t (fifoClu f) p.seg).ready = false ∧
      rn t .CLU_SEG_POISONED (fifoClu f) = min 0xFFFFFFFF (rn s .CLU_SEG_POISONED (fifoClu f) + 1)) ∧
  (∀ (f : FifoNo) (p : Play) (n : Nat) (s : State), (slget s f).play = some p → ReadsGood f s → p.sampled = true → p.taken = none →
    p.left = some (n + 1) → p.start + 8 * p.len ≤ 8 * s.tml + 7 → fifoClockOk s f = true →
    firstBad s (fifoClu f) (sget s (fifoClu f) p.seg).start (sget s (fifoClu f) p.seg).len = none →
    Gives (.segmentBoundary f none) s fun t => ∃ q, (slget t f).play = some q ∧ q.seg = p.seg ∧ q.start = p.start + 8 * p.len ∧ q.left = some n) ∧
  (∀ (f : FifoNo) (p : Play) (s : State), (slget s f).play = some p → 8 * s.tml + 7 < p.start + 8 * p.len →
    exec (.segmentBoundary f none) s = .next s) ∧
  (∀ (f : FifoNo) (bad : Option Nat) (s : State), fifoClockOk s f = false →
    exec (.segmentBoundary f bad) s = .next s ∧ exec (.jumpSamplingPoint f) s = .next s) ∧
  (∀ (c : CluNo) (e : Nat) (s : State), (mkget s c).pulseEnd = some e → e ≤ 8 * s.tml + 7 →
    Gives (.markPulseEnd c) s fun t => (mkget t c).level = false ∧ (mkget t c).pulseEnd = none) ∧
  (∀ (n : Fin 64) (tap : Fin 8) (s : State), Gives (.tapParityFailure n tap) s fun t =>
    8 * n.val + tap.val ∈ t.tapBad ∧ rn t .DRV_TAP_POISON n = min 0xFFFFFFFF (rn s .DRV_TAP_POISON n + 1))

/-! ### From verdict to choice -/

/-- BRANCH arms its slot with the branch table entry; a message on a die's verdict bus writes its cell, and one of a closed shot or
with bad parity counts as stray (R83, R224, R226, R232). -/
def Obligations.VerdictsAndArmings : Prop :=
  (∀ (e : EngNo) (w0 : Word) (rest : List QWord) (s : State), AtPacket e [w0] rest s → schedOp w0 = 0x30 → e.val % 8 = 7 →
    fld w0 55 48 = 0 → fld w0 31 0 < (eget s e).len → (∀ a ∈ (brget s (e.val / 8)).arms, a.slot = fld w0 35 32 → a.d ≤ s.tml) →
    (rsget s (eget s e).shot).closed = false → Gives (.schedBranch e false) s fun t => Executed e 1 rest s t ∧
      mget .empty (brget t (e.val / 8)).reg (fld w0 35 32) = .empty ∧ (brget t (e.val / 8)).arms =
        (brget s (e.val / 8)).arms.filter (fun a => decide (a.slot ≠ fld w0 35 32)) ++ [Arming.mk (fld w0 35 32) ((eget s e).tshot + fld w0 31 0) (word (rn s .CLU_BR_ENTRY (e.val / 8 * 4096 + fld w0 47 36)))
        (word (rn s .CLU_BR_MAP (e.val / 8 * 4096 + fld w0 47 36))) false false []] ∧
      rn t .CLU_FB_ARMS (e.val / 8) = min 0xFFFFFFFF (rn s .CLU_FB_ARMS (e.val / 8) + 1)) ∧
  (∀ (e : EngNo) (w0 : Word) (rest : List QWord) (s : State), AtPacket e [w0] rest s → schedOp w0 = 0x30 → e.val % 8 = 7 →
    fld w0 55 48 = 0 → (eget s e).len ≤ fld w0 31 0 ∨ (∃ a ∈ (brget s (e.val / 8)).arms, a.slot = fld w0 35 32 ∧ s.tml < a.d) →
    Gives (.schedBranch e false) s fun t => (qget t (32 * e.val)).words = rest ∧ t.bres = s.bres ∧
      rn t .ENG_ILLEGAL e = min 0xFFFFFFFF (rn s .ENG_ILLEGAL e + 1)) ∧
  (∀ (d : Fin 4) (m : BitVec 40) (rest : List (BitVec 40)) (s : State), mget [] s.vre.buses d = m :: rest →
    rn s .PKG_SHOT_START ≤ backGrain 16 s.tml (nfld m.toNat 39 24) → Gives (.verdictBusMessage d false) s fun t =>
      (bcget t (2048 * d.val + 4 * nfld m.toNat 19 11 + nfld m.toNat 23 20 % 4)).cur = some (nfld m.toNat 23 20, nfld m.toNat 3 0) ∧ mget [] t.vre.buses d = rest ∧
      t.regs = s.regs) ∧
  (∀ (d : Fin 4) (m : BitVec 40) (rest : List (BitVec 40)) (bad : Bool) (s : State), mget [] s.vre.buses d = m :: rest →
    bad = true ∨ (s.run.opened = true ∧ backGrain 16 s.tml (nfld m.toNat 39 24) < rn s .PKG_SHOT_START) →
    Gives (.verdictBusMessage d bad) s fun t => t.board = s.board ∧
      ∀ c, c < 4 → rn t .CLU_FB_STRAY (4 * d.val + c) = min 0xFFFFFFFF (rn s .CLU_FB_STRAY (4 * d.val + c) + 1))

/-- BRE's choice once its source holds its verdict, the register's take up to 24 grains before the decision, and the deadline: an
arming without a choice expires; the slots of a parked BRE receive no choice, nor do any while their region halts (R234 to R236, R240). -/
def Obligations.ChoicesAndDeadlines : Prop :=
  (∀ (c : CluNo) (slot : Fin 16) (a : Arming) (v : Nat) (s : State), (brget s c).arms.find? (fun x => decide (x.slot = slot.val)) = some a →
    a.closed = false →
    a.decided = false → breParked s c = false → regionHalted s (cluRgn c) = false → bitOf (fld a.w0 63 32) 31 = true →
    bitOf (fld a.w0 31 0) 31 = false → sourceVerdict s c (fld a.w0 63 32) = some v → Gives (.breChoice c slot 0) s fun t =>
      (brget t c).lines = (brget s c).lines ++ [(slot.val, a.d, if sourceValid (fld a.w0 63 32) v then
        some (fld a.w1 (2 * (v % 4) + 1) (2 * (v % 4))) else none)] ∧
      rn t .CLU_FB_INVALID c = (if sourceValid (fld a.w0 63 32) v then rn s .CLU_FB_INVALID c else min 0xFFFFFFFF (rn s .CLU_FB_INVALID c + 1))) ∧
  (∀ (c : CluNo) (slot : Fin 16) (a : Arming) (x y : Nat) (s : State), (brget s c).arms.find? (fun x => decide (x.slot = slot.val)) = some a →
    a.closed = false → a.decided = false → breParked s c = false → regionHalted s (cluRgn c) = false →
    bitOf (fld a.w0 63 32) 31 = true → bitOf (fld a.w0 31 0) 31 = true → sourceVerdict s c (fld a.w0 63 32) = some x → sourceVerdict s c (fld a.w0 31 0) = some y →
    Gives (.breChoice c slot 0) s fun t => (brget t c).lines = (brget s c).lines ++ [(slot.val, a.d,
      if sourceValid (fld a.w0 63 32) x ∧ sourceValid (fld a.w0 31 0) y then
        some (fld a.w1 (2 * (4 * (y % 4) + x % 4) + 1) (2 * (4 * (y % 4) + x % 4))) else none)]) ∧
  (∀ (c : CluNo) (slot : Fin 16) (a : Arming) (bad : BitVec 2) (s : State), (brget s c).arms.find? (fun x => decide (x.slot = slot.val)) = some a →
    a.closed = false → a.decided = false → regionHalted s (cluRgn c) = false → bitOf (fld a.w0 63 32) 31 = true →
    sourceVerdict s c (fld a.w0 63 32) = none ∨ bad.getLsbD 0 = true → Gives (.breChoice c slot bad) s fun t =>
      (brget t c).lines = (brget s c).lines) ∧
  (∀ (c : CluNo) (slot : Fin 16) (a : Arming) (s : State), (brget s c).arms.find? (fun x => decide (x.slot = slot.val)) = some a →
    a.closed = false → a.decided = false → breParked s c = false → regionHalted s (cluRgn c) = false → bitOf (fld a.w0 63 32) 31 = false →
    bitOf (fld a.w0 31 0) 31 = false →
    Gives (.breChoice c slot 0) s fun t => (brget t c).lines = (brget s c).lines ++ [(slot.val, a.d, some (fld a.w1 1 0))]) ∧
  (∀ (c : CluNo) (slot : Fin 16) (d : Nat) (alt : Option Nat) (rest : List (Nat × Nat × Option Nat)) (s : State),
    (brget s c).lines = (slot.val, d, alt) :: rest → breParked s c = false → regionHalted s (cluRgn c) = false → s.tml + 24 ≤ d →
    Gives (.selectRegisterTake c slot) s fun t => (brget t c).lines = rest ∧
      mget .empty (brget t c).reg slot = (match alt with | some a => .choice a s.tml | none => .noChoice) ∧
      rd t .CLU_FB_SLACK c = min (rd s .CLU_FB_SLACK c) ((d : Int) - 24 - s.tml)) ∧
  (∀ (c : CluNo) (slot : Fin 16) (d : Nat) (alt : Option Nat) (rest : List (Nat × Nat × Option Nat)) (s : State),
    (brget s c).lines = (slot.val, d, alt) :: rest → breParked s c = false → regionHalted s (cluRgn c) = false → d < s.tml + 24 →
    Gives (.selectRegisterTake c slot) s fun t => (brget t c).lines = rest ∧ (brget t c).reg = (brget s c).reg ∧
      rn t .CLU_FB_CHOICE_LATE c = min 0xFFFFFFFF (rn s .CLU_FB_CHOICE_LATE c + 1)) ∧
  (∀ (c : CluNo) (slot : Fin 16) (a : Arming) (s : State), (brget s c).arms.find? (fun x => decide (x.slot = slot.val)) = some a →
    a.closed = false → a.d ≤ s.tml + 24 → Gives (.armingDeadline c slot) s fun t =>
      (brget t c).arms = (brget s c).arms.map (fun x => if x.slot = slot.val then { x with closed := true } else x) ∧
      mget .empty (brget t c).reg slot = (if mget .empty (brget s c).reg slot = .empty then .expired else mget .empty (brget s c).reg slot) ∧
      rn t .CLU_FB_MISSING c = if mget .empty (brget s c).reg slot = .empty ∧ a.decided = false ∧ waitsSource s c a = true
        then min 0xFFFFFFFF (rn s .CLU_FB_MISSING c + 1) else rn s .CLU_FB_MISSING c) ∧
  (∀ (c : CluNo) (slot : Fin 16) (a : Arming) (s : State), (brget s c).arms.find? (fun x => decide (x.slot = slot.val)) = some a →
    a.closed = true ∨ s.tml + 24 < a.d → exec (.armingDeadline c slot) s = .next s) ∧
  (∀ (c : CluNo) (slot : Fin 16) (bad : BitVec 2) (s : State), breParked s c = true ∨ regionHalted s (cluRgn c) = true →
    exec (.breChoice c slot bad) s = .next s ∧ exec (.selectRegisterTake c slot) s = .next s)

/-! ### The barrier and the shots -/

/-- BOUNDARY and END: the engine waits at the barrier for the others; the arrival that completes it makes a shot known, ends the run
(END, or STOP before) or finds a mismatch, to which a LENGTH below 256 belongs; the release sets t_shot of each engine (R85 to R89,
R188). That END with a STOP pending ends the run as END, and what PKG_FABRIC_SHOT counts, is log 13. -/
def Obligations.BarrierArrivals : Prop :=
  ArrivesAtBarrier .schedBoundary 0xF0 ∧ ArrivesAtBarrier .schedEnd 0xF1 ∧
  (∀ (e : EngNo) (w0 : Word) (s : State), AtBarrier e 0xF0 w0 s → OthersArrived e s → OthersAgree e (false, fld w0 31 0) s →
    256 ≤ fld w0 31 0 → s.run.stopPending = false → Gives (.schedBoundary e false) s fun t =>
      (∀ x, (eget t x).arrived = none) ∧ rn t .PKG_FABRIC_SHOT = s.run.nextNum ∧ t.run.nextNum = (s.run.nextNum + 1) % 2 ^ 32 ∧
      ∃ sh old, Opened (fld w0 31 0) sh s ∧ t.run.nextStart = sh.start + sh.len ∧ t.run.shots = old ++ [sh] ∧
        (if deferDue s = true ∧ s.run.shots ≠ [] then ∃ ls l m, s.run.shots = ls ++ [l] ∧ old = ls ++ [m] ∧ Deferred s l m
          else old = s.run.shots) ∧
        rd t .PKG_BARRIER_SLACK 0 = min (rd s .PKG_BARRIER_SLACK) (sat (-2147483648) 2147483647 ((sh.start : Int) - s.tml)) ∧
        rn t .PKG_BARRIER_LATE = if sh.start < s.tml + 32 then min 0xFFFFFFFF (rn s .PKG_BARRIER_LATE + 1) else rn s .PKG_BARRIER_LATE) ∧
  (∀ (e : EngNo) (w0 : Word) (s : State), AtBarrier e 0xF0 w0 s → OthersArrived e s → OthersAgree e (false, fld w0 31 0) s →
    fld w0 31 0 < 256 → Gives (.schedBoundary e false) s fun t =>
      rn t .PKG_BOUNDARY_MISMATCH = min 0xFFFFFFFF (rn s .PKG_BOUNDARY_MISMATCH + 1) ∧ EndsAs 4 s t) ∧
  (∀ (e : EngNo) (w0 : Word) (s : State), AtBarrier e 0xF0 w0 s → OthersArrived e s → OthersAgree e (false, fld w0 31 0) s →
    256 ≤ fld w0 31 0 → s.run.stopPending = true → Gives (.schedBoundary e false) s (EndsAs 2 s)) ∧
  (∀ (e : EngNo) (w0 : Word) (s : State), AtBarrier e 0xF1 w0 s → OthersArrived e s → OthersAgree e (true, 0) s →
    Gives (.schedEnd e false) s fun t => EndsAs 1 s t ∧ rn t .PKG_BOUNDARY_MISMATCH = rn s .PKG_BOUNDARY_MISMATCH) ∧
  (∀ (e : EngNo) (sh : Shot) (s : State), s.run.shots.getLast? = some sh → (eget s e).state = .barrier → (eget s e).arrived = none →
    s.run.ending = none → Gives (.barrierRelease e) s fun t => t.run = s.run ∧
      (eget t e).tshot = sh.start ∧ (eget t e).shot = sh.num ∧ (eget t e).len = sh.len ∧ (eget t e).micro.released = true ∧
      ((eget s e).micro.at_ = none → (eget t e).state = if (nextPacket t e).isSome then .run else .waitFetch)) ∧
  (∀ (e : EngNo) (s : State), s.run.shots = [] ∨ (eget s e).state ≠ .barrier ∨ (eget s e).arrived ≠ none ∨ s.run.ending ≠ none →
    exec (.barrierRelease e) s = .next s)

/-- At a boundary of the edge side: the first shot opens, a shot closes and the next opens, and the run ends with the closing boundary
of its last shot; before the grain nothing happens (R85). -/
def Obligations.ShotBoundaries : Prop :=
  (∀ (sh : Shot) (rest : List Shot) (s : State), s.run.shots = sh :: rest → s.run.opened = false → sh.start ≤ s.tml →
    Gives .shotBoundary s fun t => rn t .PKG_SHOT = sh.num ∧ rn t .PKG_SHOT_START = sh.start ∧ t.run.opened = true ∧ t.board = [] ∧
      rn t .PKG_SHOTS_DONE = rn s .PKG_SHOTS_DONE) ∧
  (∀ (sh next : Shot) (rest : List Shot) (s : State), s.run.shots = sh :: next :: rest → s.run.opened = true → sh.start + sh.len ≤ s.tml →
    sh.causes = 0 → Gives .shotBoundary s fun t => rn t .PKG_SHOT = next.num ∧ rn t .PKG_SHOT_START = next.start ∧ t.board = [] ∧
      rn t .PKG_SHOTS_DONE = min 0xFFFFFFFF (rn s .PKG_SHOTS_DONE + 1) ∧ rn t .PKG_SHOTS_VOID = rn s .PKG_SHOTS_VOID) ∧
  (∀ (sh : Shot) (how : Nat) (s : State), s.run.shots = [sh] → s.run.opened = true → s.run.ending = some how → sh.start + sh.len ≤ s.tml →
    sh.causes ≠ 0 → s.incs = [] → Gives .shotBoundary s fun t => rn t .PKG_RUN_STATE = 3 ∧ rn t .PKG_RUN_END = how ∧
      (∃ past, t.run = { past := sh :: past } ∧ ∀ x ∈ past, x ∈ s.run.past) ∧ rn t .PKG_SHOTS_VOID = min 0xFFFFFFFF (rn s .PKG_SHOTS_VOID + 1) ∧ rn t .PKG_SHOTS_DONE = rn s .PKG_SHOTS_DONE) ∧
  (∀ (sh : Shot) (rest : List Shot) (s : State), s.run.shots = sh :: rest → s.tml < sh.start → exec .shotBoundary s = .next s)

/-! ### Read-out -/

/-- CAPTURE opens a RESULT window on each selected slice, busy when the previous one is still open, or a TRACE window; an event opens
the window of TRG_CAPOP in a run, and is counted as busy outside one, without a slice, or while a window is open; a window that opens
without a qualified clock or in a profile mute is cut (R20, R50, R169, R172, R204, R205, R206). What an event capture
without a shot or a slice counts, and one whose window is busy, is the model's choice (log 27, log 75). -/
def Obligations.CapturesOpenWindows : Prop :=
  (∀ (f : FifoNo) (c : EdgeCmd) (rest : List EdgeCmd) (s : State), Due f 0x08 c rest s → fld c.w1 63 62 = 0 →
    Gives (.capture f) s fun t => (fget t f).path = rest ∧
      (∀ n, n ∉ maskTones s (fifoClu f) (fld c.w1 31 0) → rdget t n = rdget s n) ∧
      ∀ n ∈ maskTones s (fifoClu f) (fld c.w1 31 0), ∃ w, (rdget t n).wins = (rdget s n).wins ++ [w] ∧ w.grain = c.release ∧
        w.fine = edgeFine c.w0 ∧ w.len = fld c.w1 47 32 ∧ w.kstart = fld c.w1 53 48 ∧ w.bank = fld c.w1 54 54 ∧
        w.shot = shotNum s c.release ∧ w.cut = cutAtOpening s (n / 64) ∧
        (w.busy = true ↔ ∃ v ∈ (rdget s n).wins, v.busy = false ∧ c.release < v.grain + v.len)) ∧
  (∀ (f : FifoNo) (c : EdgeCmd) (rest : List EdgeCmd) (s : State), Due f 0x08 c rest s → fld c.w1 63 62 ≠ 0 →
    traceEmpty s (fifoClu f) c.w1 = false → Gives (.capture f) s fun t => (fget t f).path = rest ∧ t.reads = s.reads ∧
      ∃ w, (trget t (fifoClu f)).wins = (trget s (fifoClu f)).wins ++ [w] ∧
        OpensTrace (fifoClu f) c.release (edgeFine c.w0) c.w1 (traceBusy (trget s (fifoClu f)) c.release) w s) ∧
  (∀ (f : FifoNo) (c : EdgeCmd) (rest : List EdgeCmd) (s : State), Due f 0x08 c rest s → fld c.w1 63 62 ≠ 0 →
    traceEmpty s (fifoClu f) c.w1 = true → Gives (.capture f) s fun t => (fget t f).path = rest ∧ t.reads = s.reads ∧ t.traces = s.traces) ∧
  (∀ (c : CluNo) (g : Nat) (op : Word) (s : State), (trget s c).capAt = some (g, op) → g ≤ s.tml →
    (shotAt s.run.shots g).isSome = true → traceEmpty s c op = false → Gives (.captureEventWindow c) s fun t => (trget t c).capAt = none ∧
      (∃ w, (trget t c).wins = (trget s c).wins ++ [w] ∧ OpensTrace c g 0 op (traceBusy (trget s c) g) w s) ∧
      if traceBusy (trget s c) g then rn t .TRG_CAPBUSY c = min 0xFFFFFFFF (rn s .TRG_CAPBUSY c + 1) ∧ rn t .TRG_CAPSTARTS c = rn s .TRG_CAPSTARTS c
      else rn t .TRG_CAPSTARTS c = min 0xFFFFFFFF (rn s .TRG_CAPSTARTS c + 1) ∧ rn t .TRG_CAPBUSY c = rn s .TRG_CAPBUSY c) ∧
  (∀ (c : CluNo) (g : Nat) (op : Word) (s : State), (trget s c).capAt = some (g, op) → g ≤ s.tml →
    shotAt s.run.shots g = none ∨ traceEmpty s c op = true → Gives (.captureEventWindow c) s fun t => (trget t c).capAt = none ∧
      (trget t c).wins = (trget s c).wins ∧ rn t .TRG_CAPBUSY c = min 0xFFFFFFFF (rn s .TRG_CAPBUSY c + 1)) ∧
  (∀ (c : CluNo) (s : State), (∀ g op, (trget s c).capAt = some (g, op) → s.tml < g) → exec (.captureEventWindow c) s = .next s)

/-- The result of a window that ran whole, of a busy one and of a cut one; under a kernel layout that is not the profile's every result
carries FAULT; one of a voided shot that has closed leaves TON_LAST_ as it is (R171, R172, R173, R177, R241, R415). -/
def Obligations.WindowResults : Prop :=
  (∀ (n : Fin 1024) (w : RWin) (xs : List Int) (s : State), closing (rdget s n) s.tml = some w → w.busy = false →
    w.cut = false → krnMismatch s (cluRgn (n.val / 64)) = false → (demodulate s n w xs).bad = false → shotGone s w.shot = false →
    Gives (.windowClose n xs false) s fun t => (rdget t n).wins = (rdget s n).wins.erase w ∧
      rd t .TON_LAST_I n = sat32 (integrate s (n.val / 64) (firstTap n w) (windowSamples s n w xs)).1 (rn s .TON_RES_SHIFT n) ∧
      rd t .TON_LAST_Q n = sat32 (integrate s (n.val / 64) (firstTap n w) (windowSamples s n w xs)).2.1 (rn s .TON_RES_SHIFT n) ∧
      bitOf (rn t .TON_LAST_VERDICT n) 2 = true ∧ rn t .TON_LAST_VERDICT n % 4 = (demodulate s n w xs).state ∧
      rn t .TON_DEMOD_FAULT n = rn s .TON_DEMOD_FAULT n) ∧
  (∀ (n : Fin 1024) (w : RWin) (xs : List Int) (bad : Bool) (s : State), closing (rdget s n) s.tml = some w →
    w.busy = true → shotGone s w.shot = false → Gives (.windowClose n xs bad) s fun t => (rdget t n).wins = (rdget s n).wins.erase w ∧
      rd t .TON_LAST_I n = 0 ∧ rd t .TON_LAST_Q n = 0 ∧ bitOf (rn t .TON_LAST_VERDICT n) 2 = false ∧
      bitOf (rn t .TON_LAST_FLAGS n) 6 = true ∧ rn t .TON_CAP_OVERLAP n = min 0xFFFFFFFF (rn s .TON_CAP_OVERLAP n + 1) ∧
      bitOf (rn t .TON_LAST_FLAGS n) 7 = krnMismatch s (cluRgn (n.val / 64)) ∧ rn t .TON_DEMOD_FAULT n =
        if krnMismatch s (cluRgn (n.val / 64)) then min 0xFFFFFFFF (rn s .TON_DEMOD_FAULT n + 1) else rn s .TON_DEMOD_FAULT n) ∧
  (∀ (n : Fin 1024) (w : RWin) (xs : List Int) (bad : Bool) (s : State), closing (rdget s n) s.tml = some w →
    w.busy = false → w.cut = true ∨ krnMismatch s (cluRgn (n.val / 64)) = true ∨ bad = true ∨ (demodulate s n w xs).bad = true →
    shotGone s w.shot = false → Gives (.windowClose n xs bad) s fun t => (rdget t n).wins = (rdget s n).wins.erase w ∧
      rd t .TON_LAST_I n = 0 ∧ rd t .TON_LAST_Q n = 0 ∧ bitOf (rn t .TON_LAST_VERDICT n) 2 = false ∧
      bitOf (rn t .TON_LAST_FLAGS n) 7 = true ∧ rn t .TON_DEMOD_FAULT n = min 0xFFFFFFFF (rn s .TON_DEMOD_FAULT n + 1) ∧
      rn t .TON_CAP_OVERLAP n = rn s .TON_CAP_OVERLAP n) ∧
  (∀ (n : Fin 1024) (w : RWin) (xs : List Int) (bad : Bool) (s : State), closing (rdget s n) s.tml = some w → shotGone s w.shot = true →
    Gives (.windowClose n xs bad) s fun t => (rdget t n).wins = (rdget s n).wins.erase w ∧ rd t .TON_LAST_I n = rd s .TON_LAST_I n ∧
      rd t .TON_LAST_Q n = rd s .TON_LAST_Q n ∧ rn t .TON_LAST_VERDICT n = rn s .TON_LAST_VERDICT n ∧
      rn t .TON_RESULTS n = rn s .TON_RESULTS n) ∧
  (∀ (n : Fin 1024) (xs : List Int) (bad : Bool) (s : State), closing (rdget s n) s.tml = none → exec (.windowClose n xs bad) s = .next s)

/-- A verdict leaves at its due grain: its cell on the die's board, counted as stray when its bus message fails parity, and its record to
the crossing FIFO, dropped there when the FIFO is full; a TRACE window gives its records at its close (R29, R178, R204, R205, R209, R224,
R226). -/
def Obligations.VerdictAndTraceRecords : Prop :=
  (∀ (n : Fin 1024) (o : Verd) (rest : List Verd) (s : State), (rdget s n).out = o :: rest → o.due ≤ s.tml →
    s.run.opened = false ∨ rn s .PKG_SHOT_START ≤ o.tend → Gives (.verdictOutput n 0) s fun t => (rdget t n).out = rest ∧
      mget [] t.crossings (n.val / 64) = mget [] s.crossings (n.val / 64) ++ [(o.record, o.shot)] ∧
      (bcget t (cluDie (n.val / 64) * 2048 + (32 * (n.val / 64 % 4) + (n.val % 64 - 32)) * 4 + o.ord % 4)).cur = some (o.ord, o.verdict)) ∧
  (∀ (n : Fin 1024) (o : Verd) (rest : List Verd) (marks : BitVec 2) (s : State), (rdget s n).out = o :: rest → o.due ≤ s.tml →
    marks.getLsbD 0 = false → marks.getLsbD 1 = true ∨ (s.run.opened = true ∧ o.tend < rn s .PKG_SHOT_START) → Gives (.verdictOutput n marks) s fun t =>
      (rdget t n).out = rest ∧ t.board = s.board ∧
      mget [] t.crossings (n.val / 64) = mget [] s.crossings (n.val / 64) ++ [(o.record, o.shot)] ∧
      ∀ c, c < 4 → rn t .CLU_FB_STRAY (4 * cluDie (n.val / 64) + c) = min 0xFFFFFFFF (rn s .CLU_FB_STRAY (4 * cluDie (n.val / 64) + c) + 1)) ∧
  (∀ (n : Fin 1024) (o : Verd) (rest : List Verd) (marks : BitVec 2) (s : State), (rdget s n).out = o :: rest → o.due ≤ s.tml →
    marks.getLsbD 0 = true → Gives (.verdictOutput n marks) s fun t => (rdget t n).out = rest ∧ t.crossings = s.crossings ∧
      rn t .TRG_CROSS_DROP (n.val / 64) = min 0xFFFFFFFF (rn s .TRG_CROSS_DROP (n.val / 64) + 1)) ∧
  (∀ (n : Fin 1024) (o : Verd) (rest : List Verd) (marks : BitVec 2) (s : State), (rdget s n).out = o :: rest → s.tml < o.due →
    exec (.verdictOutput n marks) s = .next s) ∧
  (∀ (c : CluNo) (w : TWin) (xs : List Int) (s : State), (trget s c).wins.find? (fun x => decide (x.grain + x.len ≤ s.tml)) = some w →
    w.busy = false → Gives (.traceWindowClose c xs false) s fun t => (trget t c).wins = (trget s c).wins.erase w ∧ ∃ flags,
      mget [] t.crossings c = mget [] s.crossings c ++
        if w.kind = 1 then [(rawTrace c w xs flags, w.shot)] else w.tones.map fun n => (toneTrace s n w xs flags, w.shot)) ∧
  (∀ (c : CluNo) (w : TWin) (xs : List Int) (s : State), (trget s c).wins.find? (fun x => decide (x.grain + x.len ≤ s.tml)) = some w →
    w.busy = true → Gives (.traceWindowClose c xs false) s fun t => (trget t c).wins = (trget s c).wins.erase w ∧
      rn t .TRG_TRACE_BUSY c = min 0xFFFFFFFF (rn s .TRG_TRACE_BUSY c + if w.kind = 1 then 1 else w.tones.length)) ∧
  (∀ (c : CluNo) (xs : List Int) (full : Bool) (s : State), (∀ w ∈ (trget s c).wins, s.tml < w.grain + w.len) →
    exec (.traceWindowClose c xs full) s = .next s)

/-- Overrange and HOT: a code beyond full scale sets ACQ_OVR and opens a span of 16 samples or carries the last one on; a trip sets ACQ_HOT
and counts, the release ends the neighbour span 20 ns (200 samples) later; a die without a qualified clock samples nothing (R31, R183,
R184). -/
def Obligations.OverrangeAndHot : Prop :=
  (∀ (a : CluNo) (m : Nat) (code : Int) (s : State), code < -2048 ∨ 2047 < code → rfOk s (cluDie a) = true → inCal s a m = false →
    (∀ sp rest, (aqget s a).spans = sp :: rest → sp.2 + 16 ≤ m) →
    (aqget s a).ovrGrain ≠ some (m / 4) → Gives (.acqOverrange a m code) s fun t => rn t .ACQ_OVR a = 1 ∧
      (aqget t a).spans = (m, m + 16) :: (aqget s a).spans ∧ rn t .ACQ_OVR_GRAINS a = min 0xFFFFFFFF (rn s .ACQ_OVR_GRAINS a + 1)) ∧
  (∀ (a : CluNo) (m b e : Nat) (rest : List (Nat × Nat)) (code : Int) (s : State), code < -2048 ∨ 2047 < code →
    rfOk s (cluDie a) = true → inCal s a m = false → (aqget s a).spans = (b, e) :: rest →
    b ≤ m → m < e + 16 → e ≤ m + 16 → (aqget s a).ovrGrain = some (m / 4) → Gives (.acqOverrange a m code) s fun t =>
      (aqget t a).spans = (b, m + 16) :: rest ∧ rn t .ACQ_OVR_GRAINS a = rn s .ACQ_OVR_GRAINS a) ∧
  (∀ (a : CluNo) (m : Nat) (code : Int) (s : State), (-2048 ≤ code ∧ code ≤ 2047) ∨ rfOk s (cluDie a) = false ∨ inCal s a m = true →
    exec (.acqOverrange a m code) s = .next s) ∧
  (∀ (a : CluNo) (s : State), (aqget s a).hot = none → rfOk s (cluDie a) = true → Gives (.hotTrip a) s fun t =>
    (aqget t a).hot = some (match (aqget s a).hots with | sp :: _ => if 4 * s.tml ≤ sp.2 then sp.1 else 4 * s.tml | [] => 4 * s.tml) ∧
      rn t .ACQ_HOT a = 1 ∧ rn t .ACQ_HOT_COUNT a = min 0xFFFFFFFF (rn s .ACQ_HOT_COUNT a + 1)) ∧
  (∀ (a : CluNo) (s : State), (aqget s a).hot ≠ none ∨ rfOk s (cluDie a) = false → exec (.hotTrip a) s = .next s) ∧
  (∀ (a : CluNo) (h : Nat) (s : State), (aqget s a).hot = some h → Gives (.hotRelease a) s fun t =>
    (aqget t a).hot = none ∧ (aqget t a).hots = (h, 4 * s.tml + 200) :: (aqget s a).hots ∧ t.regs = s.regs) ∧
  (∀ (a : CluNo) (s : State), (aqget s a).hot = none → exec (.hotRelease a) s = .next s)

/-- ACQ calibration: a step starts when the channel is free and the region is quiet or deferred, takes 20,000
grains, and the fourth completes the pass; at an age of 100 ms the state is STALE. A LOW-SPUR region halts its engines from 16 grains before a CAPTURE (R185, R187, R188, R240). -/
def Obligations.AcqCalibrationAndHalt : Prop :=
  (∀ (a : CluNo) (s : State), (aqget s a).calFrom = none → inRun s = false → acqOpen s a = false → rfOk s (cluDie a) = true →
    passDue s a = true → Gives (.acqCalStepStart a) s fun t => (aqget t a).calFrom = some s.tml) ∧
  (∀ (a : CluNo) (s : State), stepMayStart s a = true → Gives (.acqCalStepStart a) s fun t => (aqget t a).calFrom = some s.tml ∧
    rn t .ACQ_CAL_DEFER a = if (gapNow s).isSome ∧ (aqget s a).deferred ≠ gapNow s then min 0xFFFFFFFF (rn s .ACQ_CAL_DEFER a + 1)
      else rn s .ACQ_CAL_DEFER a) ∧
  (∀ (a : CluNo) (s : State), stepMayStart s a = false → exec (.acqCalStepStart a) s = .next s) ∧
  (∀ (a : CluNo) (g : Nat) (s : State), (aqget s a).calFrom = some g → g + 20000 ≤ s.tml → rn s .ACQ_CAL_STEP a < 3 →
    Gives (.acqCalStepDone a) s fun t => rn t .ACQ_CAL_STEP a = rn s .ACQ_CAL_STEP a + 1 ∧ (aqget t a).calFrom = none ∧
      rn t .ACQ_CAL_STATE a = rn s .ACQ_CAL_STATE a ∧ rn t .ACQ_CAL_PASSES a = rn s .ACQ_CAL_PASSES a) ∧
  (∀ (a : CluNo) (g : Nat) (s : State), (aqget s a).calFrom = some g → g + 20000 ≤ s.tml → rn s .ACQ_CAL_STEP a = 3 →
    Gives (.acqCalStepDone a) s fun t => rn t .ACQ_CAL_STEP a = 0 ∧ rn t .ACQ_CAL_STATE a = 1 ∧ (aqget t a).calAt = some s.elapsed ∧
      rn t .ACQ_CAL_PASSES a = min 0xFFFFFFFF (rn s .ACQ_CAL_PASSES a + 1)) ∧
  (∀ (a : CluNo) (n : Nat) (s : State), rn s .ACQ_CAL_STATE a = 1 → calAge s a = some n → 100 ≤ n → Gives (.acqCalStale a) s fun t =>
    rn t .ACQ_CAL_STATE a = 2 ∧ rn t .ACQ_CAL_STALE a = 1) ∧
  (∀ (c : CluNo) (e : EdgeCmd) (s : State), (fget s (1408 + c.val)).path = [e] → edgeOp e.w0 = 0x08 → profileOf s (cluRgn c) = profLowSpur →
    e.release ≤ s.tml + 16 → s.tml < e.release + fld e.w1 47 32 → rfOk s (cluDie c) = true → (rgget s (cluRgn c)).halts = [] →
    Gives (.haltRaise c) s fun t => (rgget t (cluRgn c)).halts = [(c.val, e.release, e.release + fld e.w1 47 32)] ∧
      rn t .RGN_HALTS (cluRgn c) = min 0xFFFFFFFF (rn s .RGN_HALTS (cluRgn c) + 1) ∧
      ∀ k, k < 16 → haltable (eget s (16 * cluRgn c + k)).state = true → (eget t (16 * cluRgn c + k)).state = .halt)

/-! ### Bias -/

/-- The bias update: at most once for each multiple of 10,000 grains, the newest command released since the last one applies, and one
step is taken by each qualified output towards its target; a safe load brings an OFF output to code 0 in its safe range (R151, R153, R155). -/
def Obligations.BiasUpdates : Prop :=
  (∀ (lim sen : List (Fin 256)) (n : Nat) (s : State), s.tmlOn = true → s.biasAt ≠ some (s.tml / 10000 * 10000) → n < 256 →
    bdOk s (n / 128) = true → (biaget s n).mode = .run → (biaget s n).cmds = [] → (biaget s n).dest = rn s .BIA_RANGE n →
    Gives (.biasUpdate lim sen) s fun t => t.biasAt = some (s.tml / 10000 * 10000) ∧
      rd t .BIA_CODE n = toward (rd s .BIA_CODE n) (rd s .BIA_TARGET n) (biaget s n).step ∧ rd t .BIA_TARGET n = rd s .BIA_TARGET n) ∧
  (∀ (lim sen : List (Fin 256)) (n : Nat) (c : BiasCmd) (s : State), s.tmlOn = true → s.biasAt ≠ some (s.tml / 10000 * 10000) → n < 256 →
    bdOk s (n / 128) = true → (biaget s n).mode = .run → (dueBias (biaget s n) (s.tml / 10000 * 10000)).getLast? = some c → c.hold = false →
    fld c.opnd 31 30 = 0 → (biaget s n).dest = rn s .BIA_RANGE n → Gives (.biasUpdate lim sen) s fun t =>
      rd t .BIA_TARGET n = sx 20 (fld c.opnd 19 0) ∧
      rd t .BIA_CODE n = toward (rd s .BIA_CODE n) (sx 20 (fld c.opnd 19 0)) (slewStep (fld c.opnd 23 20)) ∧
      rn t .BIA_REPLACED n = min 0xFFFFFFFF (rn s .BIA_REPLACED n + ((dueBias (biaget s n) (s.tml / 10000 * 10000)).length - 1)) ∧
      ∀ b ∈ (biaget t n).cmds, s.tml / 10000 * 10000 < b.release) ∧
  (∀ (lim sen : List (Fin 256)) (s : State), s.tmlOn = false ∨ s.biasAt = some (s.tml / 10000 * 10000) →
    exec (.biasUpdate lim sen) s = .next s) ∧
  (∀ (d : Fin 2) (n : Nat) (s : State), served s = true → s.boot.phase ≠ .fuseError → s.boot.silent = false → bdOk s d = true →
    n < 128 → (biaget s (128 * d.val + n)).mode = .off → Gives (.biasSafeLoad d) s fun t =>
      (biaget t (128 * d.val + n)).mode = .loaded ∧ rd t .BIA_CODE (128 * d.val + n) = 0 ∧
      rn t .BIA_RANGE (128 * d.val + n) = rn s .BIA_SAFE_RANGE (128 * d.val + n))

/-! ### Records and the stream -/

/-- A record reaches staging or is refused; the set of a closed shot goes to the backlog, as one VOID record when the shot was voided, or
to the pending gap beyond the limit; the stream sends the backlog to the host link or to queue 0x1000, a TIME record
not before its anchor (R213, R215, R216, R218, R219, R363). -/
def Obligations.RecordsAndStream : Prop :=
  (∀ (c : CluNo) (x : List Word × Nat) (rest : List (List Word × Nat)) (s : State), mget [] s.crossings c = x :: rest →
    stagingWords (settleRecord x.2 s) + x.1.length ≤ stagingSize → Gives (.recordArrival c) s fun t => mget [] t.crossings c = rest ∧
      (rsget t x.2).recs = (rsget s x.2).recs ++ [x.1] ∧ (rsget t x.2).live = (rsget s x.2).live - 1 ∧ t.regs = s.regs) ∧
  (∀ (c : CluNo) (x : List Word × Nat) (rest : List (List Word × Nat)) (s : State), mget [] s.crossings c = x :: rest →
    stagingSize < stagingWords (settleRecord x.2 s) + x.1.length → Gives (.recordArrival c) s fun t => mget [] t.crossings c = rest ∧
      (rsget t x.2).recs = (rsget s x.2).recs ∧ (rsget t x.2).refused = (rsget s x.2).refused + 1 ∧
      rn t .TRG_STAGING_FULL = min 0xFFFFFFFF (rn s .TRG_STAGING_FULL + 1)) ∧
  (∀ (n : BitVec 32) (s : State), (rsget s n.toNat).closed = true → (rsget s n.toNat).live = 0 →
    rn s .TRG_STREAM_STATE = 0 ∨ (rsget s n.toNat).epoch ≠ s.stream.epoch →
    Gives (.setComplete n) s fun t => rsget t n.toNat = {} ∧ t.stream = s.stream ∧ rn t .TRG_CLOSED_DISCARD =
      min 0xFFFFFFFF (rn s .TRG_CLOSED_DISCARD + ((rsget s n.toNat).recs.length + (rsget s n.toNat).refused))) ∧
  (∀ (n : BitVec 32) (s : State), (rsget s n.toNat).closed = true → (rsget s n.toNat).live = 0 → rn s .TRG_STREAM_STATE ≠ 0 →
    (rsget s n.toNat).epoch = s.stream.epoch → (rsget s n.toNat).voided = true → fits s 3 = true →
    Gives (.setComplete n) s fun t => rsget t n.toNat = {} ∧ t.stream.gap = none ∧ t.stream.backlog =
      s.stream.backlog ++ s.stream.gap.toList.map gapRecord ++ [voidRecord n.toNat (rsget s n.toNat)]) ∧
  (∀ (n : BitVec 32) (s : State), (rsget s n.toNat).closed = true → (rsget s n.toNat).live = 0 → rn s .TRG_STREAM_STATE ≠ 0 →
    (rsget s n.toNat).epoch = s.stream.epoch → (rsget s n.toNat).voided = false → (rsget s n.toNat).refused = 0 →
    (rsget s n.toNat).recs ≠ [] → fits s (recWords (rsget s n.toNat).recs) = true →
    Gives (.setComplete n) s fun t => rsget t n.toNat = {} ∧ t.stream.gap = none ∧ t.stream.backlog =
      s.stream.backlog ++ s.stream.gap.toList.map gapRecord ++
        (rsget s n.toNat).recs.foldl (fun rs r => insertBy (fun a b => decide (recordKey a < recordKey b)) r rs) []) ∧
  (∀ (n : BitVec 32) (s : State), (rsget s n.toNat).closed = true → (rsget s n.toNat).live = 0 → rn s .TRG_STREAM_STATE ≠ 0 →
    (rsget s n.toNat).epoch = s.stream.epoch → (if (rsget s n.toNat).voided then fits s 3 = false
      else (rsget s n.toNat).refused ≠ 0 ∨ fits s (recWords (rsget s n.toNat).recs) = false) → Gives (.setComplete n) s fun t =>
      t.stream.backlog = s.stream.backlog ∧ (∃ g, t.stream.gap = some g ∧ g.count = (s.stream.gap.getD {}).count + 1 ∧
        g.shots = some (((s.stream.gap.bind (·.shots)).map (·.1)).getD n.toNat, n.toNat)) ∧
      rn t .TRG_GAP_SHOTS = min 0xFFFFFFFF (rn s .TRG_GAP_SHOTS + 1)) ∧
  (∀ (n : BitVec 32) (s : State), (rsget s n.toNat).closed = false ∨ (rsget s n.toNat).live ≠ 0 → exec (.setComplete n) s = .next s) ∧
  (∀ (n : Nat) (s : State), hostUp s = true → sendsIn s 1 = true → 2 ≤ creditLeft s vcStr → 1 ≤ sendable s →
    (qget s 0x2003).words = [] → (qget s 0x2003).waiting = [] → n = min (min 256 (sendable s)) (creditLeft s vcStr - 1) →
    Gives .streamPacketSend s fun t => t.stream.offset = (s.stream.offset + n) % 2 ^ 40 ∧
      (vcget t vcStr).sent = (vcget s vcStr).sent + n + 1 ∧ t.stream.backlog = (takeBacklog n s.stream [] []).1.backlog) ∧
  (∀ (r : List Word) (s : State), s.stream.backlog = [r] → s.stream.sent = 0 → s.stream.finishing = 0 → rn s .TRG_STREAM_STATE = 1 →
    hostUp s = true → anchorAhead s r = false → r.length ≤ 256 → 1 ≤ r.length → r.length + 1 ≤ creditLeft s vcStr → (qget s 0x2003).words = [] →
    (qget s 0x2003).waiting = [] → Gives .streamPacketSend s fun t => t.stream.backlog = [] ∧
      t.stream.offset = (s.stream.offset + r.length) % 2 ^ 40 ∧ (vcget t vcStr).sent = (vcget s vcStr).sent + r.length + 1) ∧
  (∀ (r : List Word) (rest : List (List Word)) (s : State), s.stream.backlog = r :: rest → sendsIn s 2 = true → anchorAhead s r = false →
    (qget s 0x1000).words.length + r.length ≤ rn s .TRG_QUEUE_LIMIT → (qget s 0x1000).waiting = [] → Gives .recordToQueue s fun t =>
      t.stream.backlog = rest ∧ t.stream.sent = 0) ∧
  (∀ (r : List Word) (rest : List (List Word)) (s : State), s.stream.backlog = r :: rest → anchorAhead s r = true →
    exec .recordToQueue s = .next s ∧ (s.stream.finishing = 0 → sendable s = 0))

/-! ### Triggers -/

/-- Conditions count what meets them, an edge within the TDC's dead time counts apart, and the first detection fires the armed trigger;
arming, disarming and fires of other packages act by role and state (R194, R195, R199 to R202). Which FIRE is
stale or ignored by state and role is the model's choice (log 29). -/
def Obligations.TriggerEvents : Prop :=
  (∀ (n : Fin 32) (m lead : Nat) (x code : Int) (before : List Int) (s : State), condOn s n = true → condKind s n ≤ 1 →
    rfOk s (cluDie (condClu s n)) = true → (condKind s n = 1 → fifoActive s (condIndex s n) = true ∧ m % 8 = 0) →
    lead = streamLead (condKind s n = 0) (directMode (profileOf s (cluRgn (condClu s n)))) → lead ≤ m → before.length = lead →
    x = streamAt s (condKind s n = 0) (condIndex s n) (m - lead) (before ++ [code]) m →
    (if condFalling s n then x ≤ rd s .TRG_COND_LEVEL n else rd s .TRG_COND_LEVEL n ≤ x) → n.val ∈ s.trig.primed →
    rn s .TRG_STATE = trgArmed → 4 * s.trig.armAt ≤ m → Gives (.conditionCrossing n m before [code]) s fun t =>
      rn t .TRG_COND_COUNT n = min 0xFFFFFFFF (rn s .TRG_COND_COUNT n + 1) ∧
      ∃ time, t.trig.dets = s.trig.dets ++ [{ idx := m, cond := n, time := time }]) ∧
  (∀ (n : Fin 32) (m : Nat) (before xs : List Int) (s : State), condOn s n = false ∨ rfOk s (cluDie (condClu s n)) = false ∨
    (condKind s n = 1 ∧ fifoActive s (condIndex s n) = false) → exec (.conditionCrossing n m before xs) s = .next s) ∧
  (∀ (pin : Fin 8) (rising : Bool) (code : Fin 32) (s : State), rfOk s (pin.val / 2) = true →
    mget 0 s.trig.pins pin = 0 ∨ (∃ last, mget 0 s.trig.pins pin = last + 1 ∧ last + deadTime ≤ 256 * s.tml + 8 * code.val) →
    Gives (.trigInEdge pin rising code) s fun t =>
      (∀ n ∈ pinConds s pin rising, rn t .TRG_COND_COUNT n = min 0xFFFFFFFF (rn s .TRG_COND_COUNT n + 1)) ∧
      t.trig.dets = s.trig.dets ++ if canFire s (4 * s.tml + code.val / 8) then (pinConds s pin rising).map fun n =>
        { idx := 4 * s.tml + code.val / 8, cond := n, time := 256 * s.tml + 8 * code.val } else []) ∧
  (∀ (pin : Fin 8) (last : Nat) (rising : Bool) (code : Fin 32) (s : State), rfOk s (pin.val / 2) = true →
    mget 0 s.trig.pins pin = last + 1 → 256 * s.tml + 8 * code.val < last + deadTime → Gives (.trigInEdge pin rising code) s fun t =>
      (∀ n ∈ pinConds s pin rising, rn t .TRG_COND_DEAD n = min 0xFFFFFFFF (rn s .TRG_COND_DEAD n + 1)) ∧ t.trig.dets = s.trig.dets) ∧
  deadTime ≤ 20 * 256 ∧
  (∀ (m : Nat) (d : Detect) (ds : List Detect) (s : State), coincident s m = d :: ds → firstIndex s = some m → canFire s m = true →
    Gives (.triggerFire m) s fun t => rn t .TRG_STATE = trgFired ∧ rn t .TRG_FIRE_GRAIN = d.time / 256 ∧
      rn t .TRG_FIRE_TICK = d.time % 256 ∧ rn t .TRG_FIRE_COND = d.cond ∧ t.trig.dets = [] ∧
      rn t .TRG_FIRES = min 0xFFFFFFFF (rn s .TRG_FIRES + 1) ∧
      rn t .TRG_COINCIDE = if ds = [] then rn s .TRG_COINCIDE else min 0xFFFFFFFF (rn s .TRG_COINCIDE + 1)) ∧
  (∀ (s : State), rn s .TRG_STATE = trgArming → s.trig.armAt ≤ s.tml → Gives .armGrainReached s fun t =>
    rn t .TRG_STATE = trgArmed ∧ t.trig.primed = []) ∧
  (∀ (w : Word) (rest : List Word) (s : State), s.trig.msgs = w :: rest → msgKind w = 2 → rn s .TRG_ROLE = roleMember →
    Gives .armMessage s fun t => t.trig.msgs = rest ∧ rn t .TRG_ARM_SEQ = msgSeq w ∧ t.trig.armAt = nearGrain s.tml (fld w 35 0) ∧
      rn t .TRG_STATE = (if nearGrain s.tml (fld w 35 0) < s.tml then trgArmed else trgArming) ∧
      rn t .TRG_ARM_LATE = (if nearGrain s.tml (fld w 35 0) < s.tml then min 0xFFFFFFFF (rn s .TRG_ARM_LATE + 1) else rn s .TRG_ARM_LATE)) ∧
  (∀ (w : Word) (rest : List Word) (s : State), s.trig.msgs = w :: rest → msgKind w = 3 → rn s .TRG_ROLE = roleMember →
    Gives .disarmMessage s fun t => t.trig.msgs = rest ∧ rn t .TRG_STATE = trgIdle ∧
      t.trig.disarmed = if rn s .TRG_STATE = trgArmed then some (4 * s.tml) else s.trig.disarmed) ∧
  (∀ (w : Word) (rest : List Word) (s : State), s.trig.msgs = w :: rest → msgKind w = 4 →
    msgSeq w ≠ rn s .TRG_ARM_SEQ ∨ rn s .TRG_STATE = trgIdle ∨ rn s .TRG_STATE = trgArming → Gives .fireMessage s fun t => t.trig.msgs = rest ∧ rn t .TRG_STATE = rn s .TRG_STATE ∧
      rn t .TRG_STALE_FIRE = min 0xFFFFFFFF (rn s .TRG_STALE_FIRE + 1)) ∧
  (∀ (w : Word) (rest : List Word) (s : State), s.trig.msgs = w :: rest → msgKind w = 4 → msgSeq w = rn s .TRG_ARM_SEQ →
    rn s .TRG_STATE = trgArmed → Gives .fireMessage s fun t => rn t .TRG_STATE = trgFired ∧ rn t .TRG_FIRE_COND = fld w 28 24 ∧
      rn t .TRG_FIRE_ORIGIN = msgNode w ∧ rn t .TRG_REMOTE_FIRES = min 0xFFFFFFFF (rn s .TRG_REMOTE_FIRES + 1)) ∧
  (∀ (w : Word) (rest : List Word) (s : State), s.trig.msgs = w :: rest → msgKind w = 4 → msgSeq w = rn s .TRG_ARM_SEQ →
    rn s .TRG_STATE = trgFired → Gives .fireMessage s fun t => rn t .TRG_STATE = trgFired ∧ rn t .TRG_FIRE_COND = rn s .TRG_FIRE_COND ∧
      rn t .TRG_RACE = min 0xFFFFFFFF (rn s .TRG_RACE + 1))

/-! ### VRE -/

/-- A verdict follows its route entry to dies and ports, a trigger message is taken once; a viaduct port sends its next message as one
block on each lane that is up and takes a received message once (R229 to R231, R326). The package's own trigger messages are always sent
and recorded, the model's choice (log 79). -/
def Obligations.VerdictRouting : Prop :=
  (∀ (src d : Nat) (w : Word) (rest : List (Nat × Word)) (s : State), s.vre.inbox = (src, w) :: rest → msgKind w = 1 → 4 ≤ src →
    msgPkg w ≠ rn s .LNK_PKG_NO → d < 4 → routeEntry s (msgPkg w) (fld w 51 42) % 4096 = 2 ^ d → Gives .vreMessage s fun t =>
      t.vre.inbox = rest ∧ t.regs = s.regs ∧ ∃ m, mget [] t.vre.buses d = mget [] s.vre.buses d ++ [m] ∧
        nfld m.toNat 19 11 = (128 + nfld (routeEntry s (msgPkg w) (fld w 51 42)) 20 12) % 512 ∧ nfld m.toNat 3 0 = fld w 41 38) ∧
  (∀ (src : Nat) (w : Word) (rest : List (Nat × Word)) (s : State), s.vre.inbox = (src, w) :: rest → msgKind w = 1 → 4 ≤ src →
    msgPkg w ≠ rn s .LNK_PKG_NO → routeEntry s (msgPkg w) (fld w 51 42) = 0 → Gives .vreMessage s fun t => t.vre.inbox = rest ∧
      t.vre.buses = s.vre.buses ∧ rn t .LNK_V_NOROUTE = min 0xFFFFFFFF (rn s .LNK_V_NOROUTE + 1)) ∧
  (∀ (src : Nat) (w : Word) (rest : List (Nat × Word)) (s : State), s.vre.inbox = (src, w) :: rest → 2 ≤ msgKind w →
    rn s .TRG_ROLE ≠ 0 → (msgKind w, msgPkg w, msgSeq w, if msgKind w = 4 then msgNode w else 0) ∉ s.vre.seen → src ≠ 12 →
    Gives .vreMessage s fun t => t.vre.inbox = rest ∧ t.trig.msgs = s.trig.msgs ++ [w] ∧
      t.vre.seen = s.vre.seen ++ [(msgKind w, msgPkg w, msgSeq w, if msgKind w = 4 then msgNode w else 0)]) ∧
  (∀ (q : Nat) (src : Nat) (w : Word) (rest : List (Nat × Word)) (s : State), s.vre.inbox = (src, w) :: rest → 2 ≤ msgKind w →
    rn s .TRG_ROLE ≠ 0 → src = 12 ∨ (msgKind w, msgPkg w, msgSeq w, if msgKind w = 4 then msgNode w else 0) ∉ s.vre.seen →
    q < 8 → src ≠ 4 + q → portUp s q = true → (∀ r, r ≠ q → portUp s r = false) → msgHops w < 15 →
    (qget s (portQueue q)).discard ≠ some wVre → tailHeld (qget s (portQueue q)) wVre = false → (qget s (portQueue q)).waiting = [] →
    qroom s (portQueue q) 1 = true → Gives .vreMessage s fun t => t.vre.inbox = rest ∧
      (qget t (portQueue q)).words = (qget s (portQueue q)).words ++ [{ data := word (w.toNat + 2 ^ 56), fin := true }]) ∧
  (∀ (src : Nat) (w : Word) (rest : List (Nat × Word)) (s : State), s.vre.inbox = (src, w) :: rest → msgKind w = 2 ∨ msgKind w = 3 →
    src ≠ 12 → (msgKind w, msgPkg w, msgSeq w, 0) ∈ s.vre.seen → Gives .vreMessage s fun t => t.vre.inbox = rest ∧ t.trig.msgs = s.trig.msgs ∧
      t.vre.seen = s.vre.seen ∧ t.queues = s.queues) ∧
  (∀ (q : Fin 8) (w : Word) (rest : List QWord) (s : State), portLanes s q ≠ [] →
    (∀ l ∈ portLanes s q, (lnget s l).txq.any TxBlock.isData = false) →
    (qget s (portQueue q)).words = { data := w, fin := true } :: rest → (qget s (portQueue q)).cut = false →
    (qget s (portQueue q)).tainted = false → (qget s (portQueue q)).dead = [] → Gives (.verdictBlockSend q) s fun t =>
      (∀ l ∈ portLanes s q, (lnget t l).txq = (lnget s l).txq ++ [.data (vpget s q).seq w]) ∧
      (vpget t q).seq = ((vpget s q).seq + 1) % 64 ∧ (qget t (portQueue q)).words = rest ∧
      rn t .LNK_V_SENT = min 0xFFFFFFFF (rn s .LNK_V_SENT + 1)) ∧
  (∀ (n : Fin 16) (ts d : Nat) (w : Word) (rest : List (Option (Nat × Word))) (s : State), (lnget s (16 + n.val)).fifo = some (ts, w) :: rest →
    d = (ts + 64 - (vpget s (n.val / 2)).last) % 64 → 1 ≤ d → d < 32 → msgOk w = true →
    rn s .LNK_V_LOST ≤ 0xFFFFFFFF → Gives (.verdictBlockReceive n) s fun t =>
      (lnget t (16 + n.val)).fifo = rest ∧ t.vre.inbox = s.vre.inbox ++ [(4 + n.val / 2, w)] ∧ (vpget t (n.val / 2)).last = ts ∧
      rn t .LNK_V_RECEIVED = min 0xFFFFFFFF (rn s .LNK_V_RECEIVED + 1) ∧ rn t .LNK_V_LOST = min 0xFFFFFFFF (rn s .LNK_V_LOST + (d - 1))) ∧
  (∀ (n : Fin 16) (ts d : Nat) (w : Word) (rest : List (Option (Nat × Word))) (s : State), (lnget s (16 + n.val)).fifo = some (ts, w) :: rest →
    d = (ts + 64 - (vpget s (n.val / 2)).last) % 64 → d = 0 ∨ 32 ≤ d → Gives (.verdictBlockReceive n) s fun t => t.vre = s.vre ∧ t.vports = s.vports ∧
      rn t .LNK_V_DUPLICATE = min 0xFFFFFFFF (rn s .LNK_V_DUPLICATE + 1))

/-! ### Profiles and refills -/

/-- A profile request applies at its grain, mutes the region for 50,000 grains, and the mute's end sets the fabric voltage; a refill
entry starts when its shot has opened and its segment is free, and its end makes the segment READY, on a qualified clock (R31, R124, R125, R238,
R243). When RGN_FABRIC_MV takes the new value is the model's choice (log 32). -/
def Obligations.ProfilesAndRefills : Prop :=
  (∀ (g : RgnNo) (p cause due : Nat) (s : State), (rgget s g).req = some (p, cause, some due) → due ≤ s.tml → Gives (.profileChange g) s fun t =>
    rn t .RGN_PROFILE g = p ∧ rn t .RGN_CHANGE_GRAIN g = due ∧ (rgget t g).req = none ∧ (rgget t g).muteEnd = some (due + 50000) ∧
      rn t .RGN_CHANGES g = min 0xFFFFFFFF (rn s .RGN_CHANGES g + 1) ∧
      rn t .RGN_FORCED_CHANGES g = if cause = 0 then rn s .RGN_FORCED_CHANGES g else min 0xFFFFFFFF (rn s .RGN_FORCED_CHANGES g + 1)) ∧
  (∀ (g : RgnNo) (p cause due : Nat) (s : State), (rgget s g).req = some (p, cause, some due) → s.tml < due →
    exec (.profileChange g) s = .next s) ∧
  (∀ (g : RgnNo) (m : Nat) (s : State), (rgget s g).muteEnd = some m → m ≤ s.tml → Gives (.profileMuteEnd g) s fun t =>
    (rgget t g).muteEnd = none ∧ rd t .RGN_FABRIC_MV g = profileMv s (profileOf s g) ∧ rn t .RGN_PROFILE g = rn s .RGN_PROFILE g) ∧
  (∀ (c : CluNo) (e : Nat × Nat × Nat) (s : State), (rfget s c).entries[(rfget s c).next]? = some e → (rfget s c).on = true →
    rfOk s (cluDie c) = true → (rfget s c).busy = false → shotOpened s e.2.1 = true → segBusy s c e.1 = false → Gives (.refillEntryStart c) s fun t =>
      (rfget t c).busy = true ∧ (sget t c e.1).filling = true ∧ (sget t c e.1).ready = false ∧ t.segMem = s.segMem) ∧
  (∀ (c : CluNo) (e : Nat × Nat × Nat) (s : State), (rfget s c).entries[(rfget s c).next]? = some e →
    rfOk s (cluDie c) = false ∨ (rfget s c).on = false ∨ (rfget s c).busy = true ∨ shotOpened s e.2.1 = false ∨ segBusy s c e.1 = true →
    exec (.refillEntryStart c) s = .next s) ∧
  (∀ (c : CluNo) (e : Nat × Nat × Nat) (s : State), (rfget s c).entries[(rfget s c).next]? = some e →
    rfOk s (cluDie c) = false ∨ (rfget s c).busy = false ∨ dramWaits s e.2.2 (4 * (sget s c e.1).len) = true → exec (.refillEntryDone c) s = .next s) ∧
  (∀ (c : CluNo) (e : Nat × Nat × Nat) (s : State), (rfget s c).entries[(rfget s c).next]? = some e → (rfget s c).busy = true →
    rfOk s (cluDie c) = true → dramWaits s e.2.2 (4 * (sget s c e.1).len) = false → ((dramRead c.val e.2.2 (((sget s c e.1).len + 1) / 2) s).1.any (·.2)) = true →
    Gives (.refillEntryDone c) s fun t => (rfget t c).busy = false ∧ (rfget t c).next = (rfget s c).next + 1 ∧
      (sget t c e.1).poison = true ∧ (sget t c e.1).ready = false ∧ (sget t c e.1).filling = false ∧
      rn t .CLU_SEG_POISONED c = min 0xFFFFFFFF (rn s .CLU_SEG_POISONED c + 1)) ∧
  (∀ (c : CluNo) (e : Nat × Nat × Nat) (s : State), (rfget s c).entries[(rfget s c).next]? = some e → (rfget s c).busy = true →
    rfOk s (cluDie c) = true → dramWaits s e.2.2 (4 * (sget s c e.1).len) = false → ((dramRead c.val e.2.2 (((sget s c e.1).len + 1) / 2) s).1.any (·.2)) = false → Gives (.refillEntryDone c) s fun t =>
      (rfget t c).busy = false ∧ (rfget t c).next = (rfget s c).next + 1 ∧ (sget t c e.1).ready = true ∧
      (sget t c e.1).filling = false ∧ (sget t c e.1).gen = ((sget s c e.1).gen + 1) % 256 ∧
      rn t .CLU_REFILL_DONE c = min 0xFFFFFFFF (rn s .CLU_REFILL_DONE c + 1))

/-! ### The event truss -/

/-- The held requests of a channel leave as one event to each listener, a waiting engine takes it, and so do a MAU, the trigger's arm,
a capture start and a marker, a busy consumer counts it; timers fire at their grain and marker pulses begin and end at theirs (R199,
R206, R272, R274, R275, R276, R278, R279, R281). -/
def Obligations.TrussEvents : Prop :=
  (∀ (n : Fin 256) (s : State), (chget s n).held ≠ [] → (∀ a, (chget s n).lastAt = some a → a + channelInterval n ≤ s.elapsed) → Gives (.channelEvent n) s fun t =>
    (chget t n).held = [] ∧ (chget t n).lastAt = some s.elapsed ∧ rn t .EVT_CH_LAST n = s.tml ∧
      rn t .EVT_CH_COUNT n = min 0xFFFFFFFF (rn s .EVT_CH_COUNT n + 1) ∧ rn t .EVT_CH_MERGED n =
        (if 2 ≤ (chget s n).held.length then min 0xFFFFFFFF (rn s .EVT_CH_MERGED n + 1) else rn s .EVT_CH_MERGED n) ∧
      t.deliveries = s.deliveries ++ (listeners s n).map (delivery s n (decide (2 ≤ (chget s n).held.length)))) ∧
  (∀ (n : Fin 256) (a : Nat) (s : State), (chget s n).lastAt = some a → s.elapsed < a + channelInterval n →
    exec (.channelEvent n) s = .next s) ∧
  (∀ (con : Fin 192) (d : Delivery) (rest : List Delivery) (s : State), con.val < 128 → s.deliveries = d :: rest → d.con = con →
    (eget s con).state = .waitEvent → (eget s con).waitCh = some d.chan → Gives (.eventDelivery con) s fun t =>
      t.deliveries = rest ∧ (eget t con).state = .run ∧ rn t .EVT_CON_TAKEN con = min 0xFFFFFFFF (rn s .EVT_CON_TAKEN con + 1) ∧
      rn t .EVT_CON_COINC con = (if d.merged then min 0xFFFFFFFF (rn s .EVT_CON_COINC con + 1) else rn s .EVT_CON_COINC con)) ∧
  (∀ (con : Fin 192) (d : Delivery) (rest : List Delivery) (s : State), con.val < 128 → s.deliveries = d :: rest → d.con = con →
    (eget s con).state = .run → (eget s con).waitCh.isSome = true → Gives (.eventDelivery con) s fun t => t.deliveries = rest ∧
      eget t con = eget s con ∧
      rn t .EVT_CON_OVR con = 1 ∧ rn t .EVT_CON_OVR_COUNT con = min 0xFFFFFFFF (rn s .EVT_CON_OVR_COUNT con + 1)) ∧
  (∀ (con : Fin 192) (d : Delivery) (rest : List Delivery) (s : State), con.val < 128 → s.deliveries = d :: rest → d.con = con →
    (eget s con).state ≠ .halt → (eget s con).waitCh = none → exec (.eventDelivery con) s = .next { s with deliveries := rest }) ∧
  (∀ (con : Fin 192) (d : Delivery) (rest : List Delivery) (s : State), con.val < 128 → s.deliveries = d :: rest → d.con = con →
    (eget s con).state = .halt → exec (.eventDelivery con) s = .next s) ∧
  (∀ (u : Fin 11) (con : Fin 192) (d : Delivery) (rest : List Delivery) (s : State), con.val = 0x80 + u.val → s.deliveries = d :: rest →
    d.con = con → mauGated s u = false → Gives (.eventDelivery con) s fun t => t.deliveries = rest ∧
      if (mauStart u s).1 then rn t .EVT_CON_TAKEN con = min 0xFFFFFFFF (rn s .EVT_CON_TAKEN con + 1)
      else rn t .EVT_CON_OVR con = 1 ∧ rn t .EVT_CON_OVR_COUNT con = min 0xFFFFFFFF (rn s .EVT_CON_OVR_COUNT con + 1)) ∧
  (∀ (con : Fin 192) (d : Delivery) (rest : List Delivery) (s : State), con.val = 0x90 → s.deliveries = d :: rest → d.con = con →
    rn s .TRG_ROLE ≠ roleMember → rn s .TRG_STATE = trgIdle ∨ rn s .TRG_STATE = trgFired → Gives (.eventDelivery con) s fun t =>
      t.deliveries = rest ∧ rn t .TRG_STATE = trgArming ∧ t.trig.armAt = s.tml + rn s .TRG_ARM_DELAY ∧
      rn t .EVT_CON_TAKEN con = min 0xFFFFFFFF (rn s .EVT_CON_TAKEN con + 1)) ∧
  (∀ (c : CluNo) (con : Fin 192) (d : Delivery) (rest : List Delivery) (s : State), con.val = 0xA0 + c.val → s.deliveries = d :: rest →
    d.con = con → inRun s = true → traceBusy (trget s c) s.tml = false → (trget s c).capAt = none → Gives (.eventDelivery con) s fun t =>
      t.deliveries = rest ∧ (trget t c).capAt = some (s.tml + 32 + (s.tml + 32) % 2, word (rn s .TRG_CAPOP c)) ∧
      rn t .EVT_CON_TAKEN con = min 0xFFFFFFFF (rn s .EVT_CON_TAKEN con + 1)) ∧
  (∀ (c : CluNo) (con : Fin 192) (d : Delivery) (rest : List Delivery) (s : State), con.val = 0xB0 + c.val → s.deliveries = d :: rest →
    d.con = con → Gives (.eventDelivery con) s fun t => t.deliveries = rest ∧ (mkget t c).start = some (s.tml + 1, d.width) ∧
      rn t .EVT_CON_TAKEN con = min 0xFFFFFFFF (rn s .EVT_CON_TAKEN con + 1)) ∧
  (∀ (n : Fin 32) (g : Nat) (s : State), (tget s n).next = some g → s.tmlOn = true → g ≤ s.tml → rn s .TIM_PERIOD n ≠ 0 →
    rn s .TIM_LIMIT n = 0 → Gives (.timerFire n) s fun t => (tget t n).next = some (g + rn s .TIM_PERIOD n) ∧
      rn t .TIM_FIRES n = min 0xFFFFFFFF (rn s .TIM_FIRES n + 1)) ∧
  (∀ (n : Fin 32) (g : Nat) (s : State), (tget s n).next = some g → s.tmlOn = true → g ≤ s.tml → rn s .TIM_PERIOD n = 0 →
    Gives (.timerFire n) s fun t => (tget t n).next = none ∧ rn t .TIM_CTRL n = 0 ∧
      rn t .TIM_FIRES n = min 0xFFFFFFFF (rn s .TIM_FIRES n + 1)) ∧
  (∀ (c : CluNo) (g width : Nat) (s : State), (mkget s c).start = some (g, width) → g ≤ s.tml → Gives (.trussPulseStart c) s fun t =>
    (mkget t c).start = none ∧ (mkget t c).trussEnd = some (g + width) ∧ (mkget t c).level = (mkget s c).level) ∧
  (∀ (c : CluNo) (g : Nat) (s : State), (mkget s c).trussEnd = some g → g ≤ s.tml → Gives (.trussPulseEnd c) s fun t =>
    (mkget t c).trussEnd = none ∧ (mkget t c).level = (mkget s c).level)

/-! ### The dictionary server -/

/-- Requests that pass the checks: READ and WRITE of a typed object, WRITE_INIT, the segments of a transfer, and ABORT (R341,
R342, R345). What a row leaves of a transfer, and when its time begins, is the model's choice (log 55). -/
def Obligations.RequestsAreAnswered : Prop :=
  (∀ (p : Path) (tag : Byte) (idx sub i n : Nat) (row : ObjRow) (s u : State), Request p 1 tag idx sub 0 [] s → u = requestTaken p s →
    findObj idx sub = .obj row i → row.acc ≠ .wo → row.ty.isBytes = false → n = instOf u p row i sub → unserved u row idx n = false →
    u.nvm.poisoned.contains (storeKey row.reg n) = false → row.reg ≠ .TNW_NOW_S →
    exec (.ydpRead p) s = .next (respond p 0x81 tag idx sub 0 (encodeVal row.ty (liveValue u p row.reg n)) u)) ∧
  (∀ (p : Path) (tag : Byte) (idx sub i n len first : Nat) (row : ObjRow) (s u : State), Request p 1 tag idx sub 0 [] s → u = requestTaken p s →
    findObj idx sub = .obj row i → row.acc ≠ .wo → row.ty.isBytes = true → n = instOf u p row i sub → unserved u row idx n = false →
    inUse u p row idx sub n = false → u.nvm.poisoned.contains (storeKey row.reg n) = false → row.reg ≠ .QUE_POP → row.reg ≠ .QUE_PKT → row.reg ≠ .DRM_WIN_DATA →
    domSpan u p row.reg n = (len, first) → exec (.ydpRead p) s = .next (if len ≤ 56
      then respond p 0x81 tag idx sub 0 (domBytes u row.reg n first 0 len) u
      else respond p 0x82 tag idx sub 0 (leBytes 8 len)
        (openTransfer p { write := false, index := idx, sub := sub, inst := n, total := len, first := first, at_ := u.elapsed } u))) ∧
  (∀ (p : Path) (tag : Byte) (idx sub i n : Nat) (row : ObjRow) (bs : List Byte) (s u v : State), Request p 2 tag idx sub 0 bs s →
    u = requestTaken p s → findObj idx sub = .obj row i → row.acc ≠ .ro → row.ty.isBytes = false → n = instOf u p row i sub →
    unserved u row idx n = false → retiredWrite u row (decodeVal row.ty bs) = false → bs.length = row.ty.size →
    inRange row.ty row.rng (decodeVal row.ty bs) = true → writeObject row n (decodeVal row.ty bs) [] u = .ok v →
    exec (.ydpWrite p) s = .next (respond p 0x83 tag idx sub 0 [] (accepted row i sub n v))) ∧
  (∀ (p : Path) (tag : Byte) (idx sub i n total : Nat) (row : ObjRow) (x : Transfer) (s u : State), Request p 3 tag idx sub 0 (leBytes 8 total) s →
    x = { write := true, index := idx, sub := sub, inst := n, total := total, first := (domSpan u p row.reg n).2, at_ := u.elapsed } →
    total < 2 ^ 64 → u = requestTaken p s → findObj idx sub = .obj row i → row.acc ≠ .ro → n = instOf u p row i sub →
    inUse u p row idx sub n = false → checkInit u row idx n (domSpan u p row.reg n).2 total = .ok () →
    exec (.writeInit p) s = .next (respond p 0x84 tag idx sub 0 [] (if row.reg = .CLU_SEG_DATA
      then beginWrite (n / 4096) (n % 4096) (openTransfer p x u) else openTransfer p x u))) ∧
  (∀ (p : Path) (x : Transfer) (s : State), (pathOf s p).transfer = none → openTransfer p x s = setPath p { pathOf s p with
    transfer := some x, timedOut := (pathOf s p).timedOut.filter (fun o => !decide (o = (x.index, x.sub))) } s) ∧
  (∀ (p : Path) (tag : Byte) (idx sub i : Nat) (tog : Bool) (row : ObjRow) (bs : List Byte) (t : Transfer) (s u : State),
    Request p 4 tag idx sub (b2n tog) bs s → u = requestTaken p s → (pathOf u p).transfer = some t → (pathOf u p).timedOut.contains (idx, sub) = false →
    t.write = true → t.index = idx → t.sub = sub → findObj idx sub = .obj row i → row.reg ≠ .CLU_SEG_DATA → tog = nextToggle t →
    1 ≤ bs.length → bs.length ≤ pathLimit p → t.done + bs.length < t.total →
    exec (.writeSeg p) s = .next (respond p 0x85 tag idx sub (b2n tog) [] (putTransfer p (some { t with
      data := t.data ++ bs, done := t.done + bs.length, last := some (tog, bs.length, false), at_ := u.elapsed }) u))) ∧
  (∀ (p : Path) (tag : Byte) (idx sub i : Nat) (tog : Bool) (row : ObjRow) (bs : List Byte) (t : Transfer) (s u v : State),
    Request p 4 tag idx sub (b2n tog + 2) bs s → u = requestTaken p s → (pathOf u p).transfer = some t → (pathOf u p).timedOut.contains (idx, sub) = false →
    t.write = true → t.index = idx → t.sub = sub → findObj idx sub = .obj row i → row.reg ≠ .CLU_SEG_DATA → tog = nextToggle t →
    1 ≤ bs.length → bs.length ≤ pathLimit p → t.done + bs.length = t.total →
    writeValue row idx i sub t.inst t.first (t.data ++ bs) [] u = (.ok (), v) →
    exec (.writeSeg p) s = .next (respond p 0x85 tag idx sub (b2n tog + 2) [] (putTransfer p none v))) ∧
  (∀ (p : Path) (tag : Byte) (idx sub i n : Nat) (tog : Bool) (row : ObjRow) (t : Transfer) (s u : State),
    Request p 5 tag idx sub (b2n tog) [] s → u = requestTaken p s → (pathOf u p).transfer = some t → (pathOf u p).timedOut.contains (idx, sub) = false →
    t.write = false → t.index = idx → t.sub = sub → t.data = [] → findObj idx sub = .obj row i → row.reg ≠ .DRM_WIN_DATA → tog = nextToggle t →
    n = pathLimit p → t.done + n < t.total →
    exec (.readSeg p) s = .next (respond p 0x86 tag idx sub (b2n tog) (domBytes u row.reg t.inst t.first t.done n)
      (putTransfer p (some { t with done := t.done + n, seg := domBytes u row.reg t.inst t.first t.done n, last := some (tog, n, false),
                                    at_ := u.elapsed }) u))) ∧
  (∀ (p : Path) (tag : Byte) (idx sub i n : Nat) (tog : Bool) (row : ObjRow) (t : Transfer) (s u : State),
    Request p 5 tag idx sub (b2n tog) [] s → u = requestTaken p s → (pathOf u p).transfer = some t → (pathOf u p).timedOut.contains (idx, sub) = false →
    t.write = false → t.index = idx → t.sub = sub → t.data = [] → findObj idx sub = .obj row i → row.reg ≠ .DRM_WIN_DATA → tog = nextToggle t →
    n ≤ pathLimit p → t.done + n = t.total →
    exec (.readSeg p) s = .next (respond p 0x86 tag idx sub (b2n tog + 2) (domBytes u row.reg t.inst t.first t.done n)
      (putTransfer p none u))) ∧
  (∀ (p : Path) (tag : Byte) (idx sub n : Nat) (tog : Bool) (t : Transfer) (bs : List Byte) (s u v : State),
    Request p 5 tag idx sub (b2n tog) [] s → u = requestTaken p s → (pathOf u p).transfer = some t →
    (pathOf u p).timedOut.contains (idx, sub) = false → t.write = false → t.index = idx → t.sub = sub → tog = nextToggle t →
    n = min (pathLimit p) (t.total - t.done) → nextSegment p t n u = (.ok bs, v) →
    exec (.readSeg p) s = .next (respond p 0x86 tag idx sub (b2n tog + 2 * b2n (decide (t.done + n = t.total))) bs
      (putTransfer p (if t.done + n = t.total then none else some { t with done := t.done + n, seg := bs, last := some (tog, n, false),
                                                                            at_ := u.elapsed }) v))) ∧
  (∀ (p : Path) (tag : Byte) (idx sub : Nat) (t : Transfer) (s u : State), Request p 6 tag idx sub 0 [] s → u = requestTaken p s →
    (pathOf u p).transfer = some t → t.index = idx → t.sub = sub →
    exec (.ydpAbort p) s = .next (respond p 0x87 tag idx sub 0 [] (closeTransfer p false u)))

/-- The first check of R345 that a request fails decides its abort code; a path whose turn it is not, or with no request, waits, and a
poisoned request is discarded, unanswered by the model's choice (log 78) (R251, R335, R338, R343, R345). -/
def Obligations.RequestsAreRefused : Prop :=
  (∀ (p : Path) (cmd : Nat) (tag : Byte) (idx sub : Nat) (bs : List Byte) (s : State), Request p cmd tag idx sub 0 bs s →
    cmd = 0 ∨ 6 < cmd ∧ cmd < 256 → bs.length ≤ 56 →
    exec (.ydpRead p) s = .next (respondAbort p cmd tag idx sub 0x01000002 (requestTaken p s))) ∧
  (∀ (p : Path) (tag : Byte) (idx sub : Nat) (s : State), Request p 1 tag idx sub 0 [] s → findObj idx sub = .absent →
    exec (.ydpRead p) s = .next (respondAbort p 1 tag idx sub 0x02000001 (requestTaken p s))) ∧
  (∀ (p : Path) (tag : Byte) (idx sub : Nat) (s : State), Request p 1 tag idx sub 0 [] s → findObj idx sub = .noSub →
    exec (.ydpRead p) s = .next (respondAbort p 1 tag idx sub 0x02000002 (requestTaken p s))) ∧
  (∀ (p : Path) (tag : Byte) (idx sub i : Nat) (row : ObjRow) (s : State), Request p 1 tag idx sub 0 [] s →
    findObj idx sub = .obj row i → row.acc = .wo →
    exec (.ydpRead p) s = .next (respondAbort p 1 tag idx sub 0x02000003 (requestTaken p s))) ∧
  (∀ (p : Path) (tag : Byte) (idx sub i : Nat) (row : ObjRow) (bs : List Byte) (s : State), Request p 2 tag idx sub 0 bs s →
    bs.length ≤ 56 → findObj idx sub = .obj row i → row.acc = .ro →
    exec (.ydpWrite p) s = .next (respondAbort p 2 tag idx sub 0x02000004 (requestTaken p s))) ∧
  (∀ (p : Path) (tag : Byte) (idx sub i : Nat) (row : ObjRow) (bs : List Byte) (s : State), Request p 2 tag idx sub 0 bs s →
    bs.length ≤ 56 → findObj idx sub = .obj row i → row.acc ≠ .ro → row.ty.isBytes = false → bs.length ≠ row.ty.size →
    exec (.ydpWrite p) s = .next (respondAbort p 2 tag idx sub 0x03000001 (requestTaken p s))) ∧
  (∀ (p : Path) (tag : Byte) (idx sub i : Nat) (row : ObjRow) (bs : List Byte) (s : State), Request p 2 tag idx sub 0 bs s →
    findObj idx sub = .obj row i → row.acc ≠ .ro → row.ty.isBytes = false → bs.length = row.ty.size →
    inRange row.ty row.rng (decodeVal row.ty bs) = false →
    exec (.ydpWrite p) s = .next (respondAbort p 2 tag idx sub 0x03000002 (requestTaken p s))) ∧
  (∀ (p : Path) (tag : Byte) (idx sub i n : Nat) (row : ObjRow) (bs : List Byte) (s u v : State), Request p 2 tag idx sub 0 bs s →
    u = requestTaken p s → findObj idx sub = .obj row i → row.acc ≠ .ro → row.ty.isBytes = false → n = instOf u p row i sub →
    bs.length = row.ty.size → inRange row.ty row.rng (decodeVal row.ty bs) = true →
    writeObject row n (decodeVal row.ty bs) [] u = .ok v →
    unserved u row idx n = true ∨ retiredWrite u row (decodeVal row.ty bs) = true →
    exec (.ydpWrite p) s = .next (respondAbort p 2 tag idx sub 0x04000002 u)) ∧
  (∀ (p : Path) (cmd : Nat) (tag : Byte) (idx sub : Nat) (s : State), Request p cmd tag idx sub 0 [] s → cmd = 5 ∨ cmd = 6 →
    (pathOf (requestTaken p s) p).transfer = none → (pathOf (requestTaken p s) p).timedOut.contains (idx, sub) = false →
    exec (if cmd = 5 then .readSeg p else .ydpAbort p) s = .next (respondAbort p cmd tag idx sub 0x01000003 (requestTaken p s))) ∧
  (∀ (p : Path) (cmd : Nat) (tag : Byte) (idx sub tog : Nat) (bs : List Byte) (s : State), Request p cmd tag idx sub tog bs s →
    cmd = 4 ∧ tog < 4 ∨ cmd = 5 ∧ tog < 2 → bs.length ≤ 56 → (pathOf (requestTaken p s) p).timedOut.contains (idx, sub) = true →
    Gives (if cmd = 4 then .writeSeg p else .readSeg p) s fun t => ∃ u, t = respondAbort p cmd tag idx sub 0x01000005 u ∧
      (pathOf u p).timedOut = (pathOf (requestTaken p s) p).timedOut.filter fun o => decide (o ≠ (idx, sub))) ∧
  (∀ (p : Path) (s : State), mayServe s p = false → p = 0 ∨ headPacket s = [] ∨ headRequest s p ≠ none →
    ∀ c ∈ [Instr.ydpRead p, .ydpWrite p, .writeInit p, .writeSeg p, .readSeg p, .ydpAbort p], exec c s = .next s) ∧
  (∀ s : State, served s = true → headPacket s ≠ [] → headRequest s 1 = none →
    ∀ c ∈ [Instr.ydpRead 1, .ydpWrite 1, .writeInit 1, .writeSeg 1, .readSeg 1, .ydpAbort 1], exec c s = .next (takeRequest 1 s))

/-- A transfer times out; frames and errors of the CAN bus; a restart of a keystone engine counts, and undoes what R417 gives
(R339, R343, R417). From when the time of a transfer runs and that a segment which waits keeps it open (log 55), what an error leaves in
the bus counters (log 60) and what a restart finds in service (log 61) are the model's choices. -/
def Obligations.TimeoutsBusAndRestarts : Prop :=
  (∀ (p : Path) (x : Transfer) (s : State), (pathOf s p).transfer = some x →
    x.at_ + 2500000 * rn s .LNK_YDP_SEG_TIMEOUT ≤ s.elapsed → segmentWaits s p x = false → Gives (.segmentTimeout p) s fun t => (pathOf t p).transfer = none ∧
      (x.index, x.sub) ∈ (pathOf t p).timedOut ∧ (∀ o ∈ (pathOf s p).timedOut, o ∈ (pathOf t p).timedOut) ∧ rn t .LNK_YDP_TIMEOUTS p.val = min 0xFFFFFFFF (rn s .LNK_YDP_TIMEOUTS p.val + 1) ∧
      rn t .LNK_YDP_ABANDONED p.val = min 0xFFFFFFFF (rn s .LNK_YDP_ABANDONED p.val + 1)) ∧
  (∀ (p : Path) (x : Transfer) (s : State), (pathOf s p).transfer = some x →
    s.elapsed < x.at_ + 2500000 * rn s .LNK_YDP_SEG_TIMEOUT ∨ segmentWaits s p x = true → exec (.segmentTimeout p) s = .next s) ∧
  (∀ (id : BitVec 29) (bs : List Byte) (s : State), reachable s 0 = true → id.toNat = 0x400 + rn s .LNK_CAN_NODE →
    s.path0.requests.length < 4 → Gives (.canFrameReceive false .fd id bs) s fun t =>
      t.path0.requests = s.path0.requests ++ [bs] ∧ t.regs = s.regs) ∧
  (∀ (id : BitVec 29) (bs : List Byte) (s : State), reachable s 0 = true → id.toNat = 0x400 + rn s .LNK_CAN_NODE →
    4 ≤ s.path0.requests.length → Gives (.canFrameReceive false .fd id bs) s fun t =>
      t.path0 = s.path0 ∧ rn t .LNK_CAN_RX_OVERFLOW = min 0xFFFFFFFF (rn s .LNK_CAN_RX_OVERFLOW + 1)) ∧
  (∀ (id : BitVec 29) (bs : List Byte) (s : State), reachable s 0 = true → id.toNat = 0x400 + rn s .LNK_CAN_NODE →
    Gives (.canFrameReceive false .classic id bs) s fun t =>
      t.path0 = s.path0 ∧ rn t .LNK_CAN_CLASSIC = min 0xFFFFFFFF (rn s .LNK_CAN_CLASSIC + 1)) ∧
  (∀ (ext : Bool) (kind : CanKind) (id : BitVec 29) (bs : List Byte) (s : State),
    ext = true ∨ kind = .remote ∨ id.toNat ≠ 0x400 + rn s .LNK_CAN_NODE ∨ reachable s 0 = false →
    exec (.canFrameReceive ext kind id bs) s = .next s) ∧
  (∀ (tec rec : Nat) (s : State), served s = true → rn s .LNK_CAN_STATE ≠ 2 → Gives (.canBusError tec rec) s fun t =>
    rn t .LNK_CAN_TEC = min 255 tec ∧ rn t .LNK_CAN_REC = min 255 rec ∧
    rn t .LNK_CAN_STATE = (if 255 < tec then 2 else if 127 < tec ∨ 127 < rec then 1 else 0) ∧
    rn t .LNK_CAN_BUSOFF = if 255 < tec then min 0xFFFFFFFF (rn s .LNK_CAN_BUSOFF + 1) else rn s .LNK_CAN_BUSOFF) ∧
  (∀ s : State, rn s .LNK_CAN_STATE = 2 → Gives .busOffRecovery s fun t =>
    rn t .LNK_CAN_STATE = 0 ∧ rn t .LNK_CAN_TEC = 0 ∧ rn t .LNK_CAN_REC = 0 ∧
    RegsKept s t fun r i => (r = .LNK_CAN_STATE ∨ r = .LNK_CAN_TEC ∨ r = .LNK_CAN_REC) ∧ i = 0) ∧
  (∀ (k : Fin 5) (bad : Bool) (s : State), served s = true → (k = 0 → s.path0.requests = [] ∧ (qget s 0x2000).words = []) →
    Gives (.engineRestart k bad) s fun t => rn t .MCS_FAULT = min 0xFFFFFFFF (rn s .MCS_FAULT + 1) ∧
      (bad = true → mget {} t.patches (8 + k.val) = { poisoned := true }) ∧
      (k = 1 → rn t .LNK_UPL_PENDING = 0 ∧ rn t .FLT_UPLOAD_LOST = 1 ∧ (qget t 0x2002).words = []) ∧
      (k = 2 → t.stream.sent = 0 ∧ t.stream.backlog = s.stream.backlog ∧
        t.stream.offset = (s.stream.offset + 2 ^ 40 - s.stream.sent) % 2 ^ 40) ∧
      (k = 3 → t.dram.bist = none ∧ ∀ c, c < 8 → rn s .DRM_CH_STATE c = 1 → (dch t c).step = 0) ∧ (k = 4 → t.vre.inbox = [])) ∧
  (∀ (tag : Byte) (idx sub : Nat) (s w : State), Request 0 1 tag idx sub 0 [] s → w = logFault clsEngine 0 128 s.tml (inc .MCS_FAULT 0 s) →
    exec (.engineRestart 0 false) s = .next (respondAbort 0 1 tag idx sub 0x04000001 (requestTaken 0
      { eset 128 { eget w 128 with micro := { (eget w 128).micro with at_ := none } } w with
        cool := { w.cool with restartAt := some w.elapsed } })))

/-! ### DRAM -/

/-- Training takes a channel through its steps, and a failed step fences it; the wipe zeroes the listed channels; a rate change restarts
training; a test ends with what it counted and zeroes its target (R283, R294, R295, R297 to R302). The order of training, what a test reads and what
its end leaves are the model's choices (logs 45, 64, 80). -/
def Obligations.DramTrainingWipeAndTests : Prop :=
  (∀ s : State, rn s .DRM_STATE = 2 → Gives .wipeComplete s fun t =>
    rn t .DRM_WIPE_DONE = rn s .DRM_WIPE_TOTAL ∧ (rn t .DRM_STATE = 3 ∨ rn t .DRM_STATE = 4) ∧
    ∀ c a, c ∈ listed s → rn s .DRM_CH_STATE c ≠ 3 → a / 2 ^ 36 = c → mget 0 t.dram.cells a = 0 ∧ a ∉ t.dram.bad) ∧
  (∀ s : State, rn s .DRM_STATE ≠ 2 → exec .wipeComplete s = .next s) ∧
  (∀ (ch : Fin 8) (org : Fin 4) (s : State), rn s .DRM_CH_STATE ch = 1 → dmOk s ch = true → bitOf s.clk.gated ch = false →
    (dch s ch).rateChange = false → (dch s ch).step < 5 → (dch s ch).step ≠ 0 ∨ org ≠ 0 →
    Gives (.trainingStepDone ch true org) s fun t => (dch t ch).step = (dch s ch).step + 1 ∧
      rn t .DRM_CH_ORG ch = (if (dch s ch).step = 0 then org.val else rn s .DRM_CH_ORG ch) ∧
      RegsKept s t fun r i => r = .DRM_CH_ORG ∧ i = ch) ∧
  (∀ (ch : Fin 8) (org : Fin 4) (s : State), rn s .DRM_CH_STATE ch = 1 → dmOk s ch = true → bitOf s.clk.gated ch = false →
    (dch s ch).rateChange = false → (dch s ch).step = 5 →
    Gives (.trainingStepDone ch true org) s fun t => rn t .DRM_CH_TRAIN ch = 2 ∧
      rn t .DRM_CH_STATE ch = if ch.val ∈ listed s then 2 else 4) ∧
  (∀ (ch : Fin 8) (org : Fin 4) (s : State), rn s .DRM_CH_STATE ch = 1 → dmOk s ch = true → bitOf s.clk.gated ch = false →
    (dch s ch).rateChange = false → (dch s ch).step ≠ 0 ∨ org ≠ 0 →
    Gives (.trainingStepDone ch false org) s fun t => rn t .DRM_CH_STATE ch = 3 ∧ rn t .DRM_CH_TRAIN ch = 3 ∧
      rn t .FLT_COUNT 6 = min 0xFFFFFFFF (rn s .FLT_COUNT 6 + 1) ∧ rn t .FLT_LAST_UNIT 6 = ch.val) ∧
  (∀ (ch : Fin 8) (ok : Bool) (s : State), rn s .DRM_CH_STATE ch = 1 → dmOk s ch = true → bitOf s.clk.gated ch = false →
    (dch s ch).rateChange = false → (dch s ch).step = 0 →
    Gives (.trainingStepDone ch ok 0) s fun t => rn t .DRM_CH_STATE ch = 0 ∧ rn t .DRM_CH_ORG ch = 0) ∧
  (∀ (ch : Fin 8) (ok : Bool) (org : Fin 4) (s : State), rn s .DRM_CH_STATE ch = 1 → dmOk s ch = true → bitOf s.clk.gated ch = false →
    (dch s ch).rateChange = true → Gives (.trainingStepDone ch ok org) s fun t => (dch t ch).step = 0 ∧ (dch t ch).rateChange = false ∧
      rn t .DRM_CH_RESTARTED ch = 1 ∧ rn t .DRM_CH_RESTARTS ch = min 0xFFFFFFFF (rn s .DRM_CH_RESTARTS ch + 1)) ∧
  (∀ (v fails first mask : Nat) (at_ : List (Nat × Nat)) (data : List (List Word)) (par : List Bool) (s : State),
    s.dram.bist = some v → bistResult s v (bistReads at_ data par) = (fails, first, mask) →
    Gives (.bistDone at_ data par) s fun t => t.dram.bist = none ∧ rn t .DRM_BIST_STATE = (if fails = 0 then 2 else 3) ∧
    rn t .DRM_BIST_FAILS = min 0xFFFFFFFF fails ∧ rn t .DRM_BIST_FIRST = first ∧ rn t .DRM_BIST_MASK = mask ∧
    (bistUnloads s v = true → rn t .PKG_IMG_STATE = 0) ∧
    (bistTarget v = 0 → ∀ a, a / 2 ^ 36 = bistUnit v → mget 0 t.dram.cells a = 0 ∧ a ∉ t.dram.bad) ∧
    (bistTarget v = 1 → (∀ a, a / 2 ^ 19 = bistUnit v → mget 0 t.segMem a = 0 ∧ a ∉ t.segBad) ∧
      (∀ a, a / 2 ^ 17 = bistUnit v → mget 0 t.krn a = 0 ∧ a ∉ t.krnBad) ∧
      (∀ a, a / 2 ^ 18 = bistUnit v → mget 0 t.tab a = 0 ∧ a ∉ t.tabBad) ∧
      ∀ k, k / 4096 = bistUnit v → (mget {} t.segs k).ready = false)) ∧
  (∀ (at_ : List (Nat × Nat)) (data : List (List Word)) (par : List Bool) (s : State), s.dram.bist = none →
    exec (.bistDone at_ data par) s = .next s)

/-- A burst that the arbiter grants takes effect, and a refresh that is due once per tREFI is granted while no port is in panic; MR4 polls
mark hot channels; a READY channel retrains periodically (R284, R289, R290, R292, R293, R296, R297). When a
refresh falls due and which polls and retrainings the rows stand for are the model's choices (logs 45, 64, 80). -/
def Obligations.DramTrafficAndUpkeep : Prop :=
  (∀ (ch : Fin 8) (r : BurstReq) (bad : BitVec 8) (off : Nat) (s : State), dramServes s ch = true → reqOk s ch r = true →
    r.write = true → 18 < r.src → r.data.length = 8 → rn s .DRM_CH_STATE ch ≠ 3 →
    (∀ i, i < 64 → mapAddr s (r.addr + i) = some (ch.val, off + i)) → Gives (.dramBurst ch [r] bad) s fun t =>
      ∀ a, mget 0 t.dram.cells a = if cellAddr (ch.val, off) ≤ a ∧ a < cellAddr (ch.val, off) + 64
        then nthD (wordsBytes r.data) (a - cellAddr (ch.val, off)) 0 else mget 0 s.dram.cells a) ∧
  (∀ (ch : Fin 8) (r : BurstReq) (s : State), dramServes s ch = true → reqOk s ch r = true → r.write = false → r.src ≤ 18 →
    rn s .DRM_CH_STATE ch ≠ 3 → portLevel s r.src + 64 ≤ portSize r.src → Gives (.dramBurst ch [r] 0) s fun t =>
      portLevel t r.src = portLevel s r.src + 64 ∧ t.dram.cells = s.dram.cells ∧ t.dram.bad = s.dram.bad) ∧
  (∀ (ch : Fin 8) (r : BurstReq) (c : Nat × Nat) (s : State), dramServes s ch = true → reqOk s ch r = true → r.write = false → r.src ≤ 18 →
    mapAddr s r.addr = some c → rn s .DRM_CH_STATE ch = 3 → portLevel s r.src + 64 ≤ portSize r.src →
    Gives (.dramBurst ch [r] 0) s fun t => portLevel t r.src = portLevel s r.src + 64 ∧ rn t .DRM_P_FENCE_HIT r.src = 1 ∧
      rn t .DRM_CH_FENCE_READS ch = min 0xFFFFFFFF (rn s .DRM_CH_FENCE_READS ch + 1) ∧ t.dram.cells = s.dram.cells) ∧
  (∀ (ch : Fin 8) (rank : Fin 2) (s : State), refreshes s ch rank = true → mget 0 (dch s ch).refAt rank = 0 ∨
    mget 0 (dch s ch).refAt rank - 1 + refreshInterval s ch ≤ s.elapsed → anyPanic s = false →
    Gives (.refreshDue ch rank) s fun t => mget 0 (dch t ch).due 0 = 0 ∧ mget 0 (dch t ch).due 1 = 0 ∧
      mget 0 (dch t ch).refAt rank = s.elapsed + 1 ∧ t.regs = s.regs) ∧
  (∀ (ch : Fin 8) (rank : Fin 2) (s : State), refreshes s ch rank = true → mget 0 (dch s ch).refAt rank = 0 ∨
    mget 0 (dch s ch).refAt rank - 1 + refreshInterval s ch ≤ s.elapsed → anyPanic s = true → Gives (.refreshDue ch rank) s fun t =>
      mget 0 (dch t ch).due rank = min 5 (mget 0 (dch s ch).due rank + 1) ∧ mget 0 (dch t ch).refAt rank = s.elapsed + 1 ∧
      rn t .DRM_CH_REF_FORCED ch =
        if 4 ≤ mget 0 (dch s ch).due rank then min 0xFFFFFFFF (rn s .DRM_CH_REF_FORCED ch + 1) else rn s .DRM_CH_REF_FORCED ch) ∧
  (∀ (ch : Fin 8) (rank : Fin 2) (s : State), refreshes s ch rank = false → exec (.refreshDue ch rank) s = .next s) ∧
  (∀ (hot err : BitVec 16) (s : State), (∀ a, s.dram.mr4At = some a → a + 32 * msT ≤ s.elapsed) → Gives (.mr4Poll hot err) s fun t =>
    t.dram.mr4At = some s.elapsed ∧ ∀ c failed, c < 8 → polled s c = true →
      failed = (List.range (ranks s c)).filter (fun r => bitOf err.toNat (2 * c + r)) →
      rn t .DRM_CH_HOT c = b2n ((List.range (ranks s c)).any fun r => bitOf err.toNat (2 * c + r) || bitOf hot.toNat (2 * c + r)) ∧
      rn t .DRM_CH_TEMP_ERR c =
        if failed = [] then rn s .DRM_CH_TEMP_ERR c else min 0xFFFFFFFF (rn s .DRM_CH_TEMP_ERR c + failed.length)) ∧
  (∀ (ch : Fin 8) (s : State), retrainNext s = some ch.val → 3 ≤ rn s .DRM_STATE →
    (∀ x, x < 8 → (dch s x).retrain = none) → anyPanic s = false → quietFor s 8 10000 = true → Gives (.retrainStepStart ch) s fun t =>
      (dch t ch).retrain = some (dch s ch).nextStep ∧ (dch t ch).stepAt = s.elapsed ∧ t.regs = s.regs) ∧
  (∀ (ch : Fin 8) (k : Nat) (s : State), (dch s ch).retrain = some k → Gives (.retrainStepDone ch true) s fun t =>
    (dch t ch).retrain = none ∧ (dch t ch).nextStep = (if k = 3 then 4 else 3) ∧
    (dch t ch).retrainAt = (if k = 3 then some (dch s ch).stepAt else (dch s ch).retrainAt) ∧
    t.dram.turn = (if k = 3 then ch.val else (ch.val + 1) % 8) ∧
    rn t .DRM_CH_RETRAINS ch = min 0xFFFFFFFF (rn s .DRM_CH_RETRAINS ch + 1)) ∧
  (∀ (ch : Fin 8) (k : Nat) (s : State), (dch s ch).retrain = some k → Gives (.retrainStepDone ch false) s fun t =>
    (dch t ch).retrain = none ∧ rn t .DRM_CH_STATE ch = 3 ∧ rn t .DRM_CH_TRAIN ch = 3) ∧
  (∀ (ch : Fin 8) (k : Nat) (s : State), (dch s ch).retrain = some k → anyPanic s = true → Gives (.retrainAbandon ch) s fun t =>
    (dch t ch).retrain = none ∧ (dch t ch).nextStep = (dch s ch).nextStep ∧ (dch t ch).retrainAt = (dch s ch).retrainAt ∧
    rn t .DRM_CH_RETRAIN_ABANDON ch = min 0xFFFFFFFF (rn s .DRM_CH_RETRAIN_ABANDON ch + 1))

/-! ### Lanes and the host link -/

/-- A lane that loses its signal or its lock leaves its state; blocks lead it from SILENT to training and carry link blocks in UP; a lane
sends SHIM, TRAIN and ALIGN blocks and what its frames carry (R304 to R312). -/
def Obligations.LanesReceiveAndSend : Prop :=
  (∀ (l : Fin 32) (s : State), rn s .LNK_LN_STATE l ≠ 0 → Gives (.lossOfSignal l) s fun t => rn t .LNK_LN_LOS l = 1 ∧
    rn t .LNK_LN_STATE l = if laneOff s l then 0 else 1) ∧
  (∀ (l : Fin 32) (s : State), rn s .LNK_LN_STATE l ≠ 0 → Gives (.lossOfLock l) s fun t => rn t .LNK_LN_LOL l = 1 ∧
    rn t .LNK_LN_STATE l = if laneOff s l then 0 else 1) ∧
  (∀ (l : Fin 32) (ppm : BitVec 16) (raw : BitVec 80) (more : List Bool) (s : State), rn s .LNK_LN_STATE l = 0 →
    ∀ c ∈ [Instr.lossOfSignal l, .lossOfLock l, .ppmMeasure l ppm, .blockReceive l raw more], exec c s = .next s) ∧
  (∀ (l : Fin 32) (s : State), rn s .LNK_LN_STATE l = 0 → (lnget s l).txq = [] → exec (.blockSend l) s = .next s) ∧
  (∀ (l : Fin 32) (ts : Nat) (w : Word) (rest : List TxBlock) (s : State), laneClock s l = true → 16 ≤ l.val → rn s .LNK_LN_STATE l = 0 →
    (lnget s l).txq = .data ts w :: rest → (lnget s l).sinceShim + 1 < 1024 → Gives (.blockSend l) s fun t => (lnget t l).txq = rest ∧
      t.regs = s.regs ∧ (lnget t l).out = (stuffed 80 (scramble (blockBits 1 ts w.toNat) (lnget s l).txScr).1 (lnget s l).run).1) ∧
  (∀ (l : Fin 32) (ppm : BitVec 16) (s : State), rn s .LNK_LN_STATE l = 4 → Gives (.ppmMeasure l ppm) s fun t =>
    rd t .LNK_LN_PPM l = ppm.toInt ∧ (lnget t l).measured = true ∧ RegsKept s t fun r i => r = .LNK_LN_PPM ∧ i = l) ∧
  (∀ (l : Fin 32) (raw : BitVec 80) (more : List Bool) (b : Nat) (r : Bool × Nat) (s : State), laneClock s l = true → rn s .LNK_LN_STATE l = 1 →
    unstuffed (lineBits raw more) (lnget s l).rxRun 0 = (b, r, false) → blkSync (b % 2 ^ 80) = 1 ∨ blkSync (b % 2 ^ 80) = 2 →
    (lnget s l).good + 1 < 64 → Gives (.blockReceive l raw more) s fun t =>
      (lnget t l).good = (lnget s l).good + 1 ∧ (lnget t l).rxRun = r ∧ t.regs = s.regs) ∧
  (∀ (l : Fin 32) (raw : BitVec 80) (more : List Bool) (b : Nat) (r : Bool × Nat) (s : State), laneClock s l = true → 16 ≤ l.val →
    rn s .LNK_LN_STATE l = 1 → unstuffed (lineBits raw more) (lnget s l).rxRun 0 = (b, r, false) →
    blkSync (b % 2 ^ 80) = 1 ∨ blkSync (b % 2 ^ 80) = 2 → (lnget s l).good = 63 → Gives (.blockReceive l raw more) s fun t =>
      (lnget t l).lock = true ∧ (lnget t l).rxRun = r ∧ rn t .LNK_LN_STATE l = 2) ∧
  (∀ (l : Fin 32) (raw : BitVec 80) (more : List Bool) (b : Nat) (r : Bool × Nat) (s : State), laneClock s l = true → 2 ≤ rn s .LNK_LN_STATE l →
    unstuffed (lineBits raw more) (lnget s l).rxRun 0 = (b, r, true) → Gives (.blockReceive l raw more) s fun t =>
      rn t .LNK_LN_BAD l = min 0xFFFFFFFF (rn s .LNK_LN_BAD l + 1) ∧ rn t .LNK_LN_LOL l = 1 ∧
      rn t .LNK_LN_STATE l = if laneOff s l then 0 else 1) ∧
  (∀ (l : Fin 32) (raw : BitVec 80) (more : List Bool) (b ts st p : Nat) (r : Bool × Nat) (w : Nat) (s : State), laneClock s l = true → 16 ≤ l.val →
    rn s .LNK_LN_STATE l = 4 → unstuffed (lineBits raw more) (lnget s l).rxRun 0 = (b, r, false) → blkSync (b % 2 ^ 80) = 1 →
    popcount 64 (2 * (lnget s l).syncs % 2 ^ 64) < 16 → readBlock true (b % 2 ^ 80) (lnget s l).rxScr = (.data ts w, st) →
    (lnget s l).rxPos = some p → p + 1 < 4096 → s.elapsed = (lnget s l).rxAt →
    100 ≤ (lnget s l).fill → (lnget s l).fill ≤ 375 → Gives (.blockReceive l raw more) s fun t =>
      (lnget t l).fifo = (lnget s l).fifo ++ [some (ts, word w)] ∧ (lnget t l).rxPos = some (p + 1) ∧ (lnget t l).rxScr = st ∧
      (lnget t l).fill = (lnget s l).fill + 25 ∧ t.regs = s.regs) ∧
  (∀ (l : Fin 32) (s : State), laneClock s l = true → rn s .LNK_LN_STATE l = 1 ∨ rn s .LNK_LN_STATE l = 2 →
    isHost l = true ∨ (lnget s l).txq = [] → shimGap s l ≤ (lnget s l).sinceShim + 1 → Gives (.blockSend l) s fun t =>
      ((lnget t l).out, (lnget t l).run) = stuffed 80 (blockBits 2 1 shimPayload) (lnget s l).run ∧ (lnget t l).sinceShim = 0 ∧
      t.regs = s.regs) ∧
  (∀ (l : Fin 32) (s : State), laneClock s l = true → rn s .LNK_LN_STATE l = 1 ∨ rn s .LNK_LN_STATE l = 2 →
    isHost l = true ∨ (lnget s l).txq = [] → (lnget s l).sinceShim + 1 < shimGap s l → Gives (.blockSend l) s fun t =>
      ((lnget t l).out, (lnget t l).run) = stuffed 80 (blockBits 2 3 (trainPayload s l)) (lnget s l).run ∧
      (rn s .LNK_LN_STATE l = 1 → (lnget t l).sinceShim = (lnget s l).sinceShim + 1 ∧ t.regs = s.regs)) ∧
  (∀ (l : Fin 32) (ts : Nat) (w : Word) (rest : List TxBlock) (s : State), laneClock s l = true → isHost l = true →
    3 ≤ rn s .LNK_LN_STATE l → (lnget s l).framed = true → (lnget s l).txq = .data ts w :: rest → Gives (.blockSend l) s fun t =>
      ((lnget t l).out, (lnget t l).run) =
        stuffed 80 (scramble (blockBits 1 ts w.toNat) (lnget s l).txScr).1 (lnget s l).run ∧
      (lnget t l).txq = rest ∧ t.regs = s.regs) ∧
  (∀ (l : Fin 32) (ts : Nat) (w : Word) (rest : List TxBlock) (s : State), laneClock s l = true → 16 ≤ l.val → 3 ≤ rn s .LNK_LN_STATE l →
    (lnget s l).sinceShim + 1 < shimGap s l → (lnget s l).framed = true → (lnget s l).txPos ≠ 0 → (lnget s l).txq = .data ts w :: rest →
    Gives (.blockSend l) s fun t =>
      ((lnget t l).out, (lnget t l).run) =
        stuffed 80 (scramble (blockBits 1 ts w.toNat) (lnget s l).txScr).1 (lnget s l).run ∧
      (lnget t l).txq = rest ∧ (lnget t l).txPos = ((lnget s l).txPos + 1) % 4096 ∧ t.regs = s.regs)

/-- Every block that a lane sends is read back by a receiver whose descrambler stands where the sender's scrambler stood: a data block with
its TS and payload, an IDLE and a REJECT within frames, and a SHIM, an ALIGN and a TRAIN block for what they are where their bits do not
descramble to an IDLE or a REJECT. What stuffing puts on the line is the block again without its stuff bits (R304 to R307, R312). -/
def Obligations.BlocksAreReadBack : Prop :=
  (∀ (framed : Bool) (ts w st : Nat), ts < 2 ^ 6 → w < 2 ^ 64 → st < 2 ^ 31 →
    readBlock framed (scramble (blockBits 1 ts w) st).1 st = (.data ts w, (scramble (blockBits 1 ts w) st).2)) ∧
  (∀ st : Nat, st < 2 ^ 31 → readBlock true (scramble (blockBits 2 0 0) st).1 st = (.control 0 0, (scramble (blockBits 2 0 0) st).2)) ∧
  (∀ reason ts st : Nat, reason < 2 ^ 6 → ts < 2 ^ 6 → st < 2 ^ 31 →
    readBlock true (scramble (blockBits 2 4 (reason * 2 ^ 58 + ts)) st).1 st =
      (.control 4 (reason * 2 ^ 58 + ts), (scramble (blockBits 2 4 (reason * 2 ^ 58 + ts)) st).2)) ∧
  (∀ (framed : Bool) (w st : Nat), w < 2 ^ 64 →
    (framed = true → ∀ ts p, (ts, p) ∈ [(1, shimPayload), (2, w), (3, w)] → scrambledKind (scramble (blockBits 2 ts p) st).1 = false) →
    readBlock framed (blockBits 2 1 shimPayload) st = (.shim, st) ∧ readBlock framed (blockBits 2 2 w) st = (.align, st) ∧
    readBlock framed (blockBits 2 3 w) st = (.train w, st)) ∧
  (∀ (b : Nat) (x : Bool) (n : Nat), b < 2 ^ 80 → n < 48 →
    unstuffed (stuffed 80 b (x, n)).1 (x, n) 0 = (b, (stuffed 80 b (x, n)).2, false) ∧ (stuffed 80 b (x, n)).2.2 < 48)

/-- Packets of the host link: accepted in sequence, answered with a NAK or an ACK otherwise; acknowledgement, retransmission, credit, and
uploads (R319 to R324). -/
def Obligations.HostLinkPackets : Prop :=
  (∀ (p : LinkPacket) (rest : List LinkPacket) (s : State), s.hl.packets = p :: rest → p.vc = 0 → p.reason = 0 → p.hit = false →
    fld p.header 63 52 = (vcget s 0).expect → (vcget s 0).got + 1 + p.words.length ≤ (vcget s 0).granted →
    Gives .linkPacketReceive s fun t => t.hl.packets = rest ∧ (vcget t 0).expect = ((vcget s 0).expect + 1) % 4096 ∧
      (vcget t 0).owed = (vcget s 0).owed + 1 ∧ (vcget t 0).got = (vcget s 0).got + 1 + p.words.length ∧
      rn t .LNK_MGT_RX = min 0xFFFFFFFF (rn s .LNK_MGT_RX + 1)) ∧
  (∀ (p : LinkPacket) (rest : List LinkPacket) (s : State), s.hl.packets = p :: rest → p.reason = 1 → Gives .linkPacketReceive s fun t =>
    t.hl.packets = rest ∧ (vcget t p.vc).expect = (vcget s p.vc).expect ∧ rn t .LNK_NAK_TX = min 0xFFFFFFFF (rn s .LNK_NAK_TX + 1) ∧
    rn t .LNK_VIOL = rn s .LNK_VIOL) ∧
  (∀ (p : LinkPacket) (rest : List LinkPacket) (s : State), s.hl.packets = p :: rest → p.vc ≤ 1 → p.reason = 0 → p.hit = false →
    (fld p.header 63 52 + 4096 - (vcget s p.vc).expect) % 4096 ≠ 0 → (fld p.header 63 52 + 4096 - (vcget s p.vc).expect) % 4096 < 2048 →
    (vcget s p.vc).nak = none → (vcget s p.vc).got + 1 + p.words.length ≤ (vcget s p.vc).granted → Gives .linkPacketReceive s fun t =>
      (vcget t p.vc).expect = (vcget s p.vc).expect ∧ (vcget t p.vc).nak = some ((vcget s p.vc).expect, s.elapsed) ∧
      rn t .LNK_VIOL_LAST = 8 ∧ rn t .LNK_NAK_TX = min 0xFFFFFFFF (rn s .LNK_NAK_TX + 1)) ∧
  (∀ s : State, s.hl.packets = [] → exec .linkPacketReceive s = .next s) ∧
  (∀ (w : Word) (rest : List Word) (us : List Word) (more : List (Nat × List Word)) (s : State), s.hl.ctls = w :: rest →
    fld w 63 60 = 1 → fld w 59 58 = 0 → s.hl.unacked = (fld w 43 32, us) :: more → s.hl.resend = [] → Gives .ack s fun t =>
      t.hl.ctls = rest ∧ t.hl.unacked = more ∧ t.hl.acked = fld w 43 32 ∧ t.hl.timeouts = 0 ∧ t.regs = s.regs) ∧
  (∀ (w : Word) (rest : List Word) (s : State), s.hl.ctls = w :: rest → fld w 63 60 = 2 → fld w 59 58 = 0 → s.hl.acked = fld w 43 32 →
    (∀ u ∈ s.hl.unacked, u.1 ≠ fld w 43 32) → Gives .nak s fun t => t.hl.ctls = rest ∧ t.hl.resend = s.hl.unacked ∧
      t.hl.unacked = s.hl.unacked ∧ rn t .LNK_NAK_RX = min 0xFFFFFFFF (rn s .LNK_NAK_RX + 1)) ∧
  (∀ (w : Word) (rest : List Word) (s : State), s.hl.ctls = w :: rest → fld w 63 60 = 3 →
    (fld w 31 0 + 2 ^ 32 - (vcget s (fld w 59 58)).limit) % 2 ^ 32 < 2 ^ 31 → Gives .credit s fun t =>
      t.hl.ctls = rest ∧ (vcget t (fld w 59 58)).limit = fld w 31 0 ∧ t.regs = s.regs) ∧
  (∀ s : State, hostUp s = true → Gives .ackSend s fun t => (vcget t 0).owed = 0 ∧ (vcget t 1).owed = 0 ∧
    (vcget t 0).expect = (vcget s 0).expect ∧ (vcget t 1).expect = (vcget s 1).expect) ∧
  (∀ s : State, hostUp s = true → creditDue s 0 = true → (vcget s 1).grantAt = some s.elapsed →
    limitNow s 1 < (vcget s 1).granted + 1024 → Gives .creditSend s fun t => (vcget t 0).granted = limitNow s 0 ∧
      (vcget t 0).grantAt = some s.elapsed ∧ vcget t 1 = vcget s 1) ∧
  (∀ s : State, hostUp s = true → s.hl.unacked ≠ [] → s.hl.rtoAt + 2500 * rn s .LNK_RTO ≤ s.elapsed → s.hl.timeouts < 7 →
    Gives .retransmitTimeout s fun t => t.hl.resend = s.hl.unacked ∧ t.hl.timeouts = s.hl.timeouts + 1 ∧ t.hl.rtoAt = s.elapsed ∧
      t.regs = s.regs) ∧
  (∀ (h : Word) (ws : List Word) (s u : State), uploadWaits s = false → readWhole 0x2002 258 s = ((h :: ws, false), u) →
    uploadReason u (fld h 39 0) (8 * ws.length) = 0 →
    Gives .uploadWrite s fun t => t.dram = (dramWrite 20 (fld h 39 0) (wordsBytes ws) u).dram ∧
      rn t .LNK_UPL_BYTES = (rn u .LNK_UPL_BYTES + 8 * ws.length) % 2 ^ 64 ∧
      rn t .LNK_UPL_PENDING = rn u .LNK_UPL_PENDING - 8 * ws.length) ∧
  (∀ (h : Word) (ws : List Word) (s u : State), uploadWaits s = false → readWhole 0x2002 258 s = ((h :: ws, true), u) →
    Gives .uploadWrite s fun t => t.dram = s.dram ∧ rn t .LNK_UPL_REFUSED = rn u .LNK_UPL_REFUSED ∧
      rn t .LNK_UPL_BYTES = rn u .LNK_UPL_BYTES ∧ rn t .LNK_UPL_PENDING = rn u .LNK_UPL_PENDING - 8 * ws.length) ∧
  (∀ s : State, uploadWaits s = true → exec .uploadWrite s = .next s) ∧
  (∀ (h : Word) (ws : List Word) (s u : State), uploadWaits s = false → readWhole 0x2002 258 s = ((h :: ws, false), u) →
    uploadReason u (fld h 39 0) (8 * ws.length) ≠ 0 →
    rn u .LNK_UPL_REFUSED = 0 → Gives .uploadWrite s fun t => t.dram = u.dram ∧ rn t .LNK_UPL_REFUSED = 1 ∧
      rn t .LNK_UPL_REFUSE_WHY = uploadReason u (fld h 39 0) (8 * ws.length) ∧ rn t .LNK_UPL_REFUSE_ADDR = fld h 39 0)

/-! ### The PTP clock -/

/-- PTP frames: dropped, forwarded to the other timing port, or taken by the ordinary clock; Announce, Sync, Follow_Up and Delay_Resp select
the master and give offset and delay, by which the clock steps or steers unless it runs from FIO; Delay_Req, forwarding, timeouts, links
and PPS (R351 to R362, R435). The 64 bytes of a Delay_Req, and that a link waits for bit 1 of PKG_BOOT_WAIT, are the model's choices
(log 51). -/
def Obligations.PtpClock : Prop :=
  (∀ (p : Fin 2) (fr : PtpFrame) (s : State), tpUp s p = false → exec (.ptpFrameReceive p fr) s = .next s) ∧
  (∀ (p : Fin 2) (fr : PtpFrame) (s : State), tpUp s p = true →
    fr.fcsOk = false ∨ 1522 < fr.bytes ∨ fr.ptpType = false ∨ fr.ptpDest = false ∨ fr.version ≠ 2 →
    Gives (.ptpFrameReceive p fr) s fun t => t.ptp = s.ptp ∧ rn t .TNW_RX_DROP = min 0xFFFFFFFF (rn s .TNW_RX_DROP + 1)) ∧
  (∀ (p : Fin 2) (fr : PtpFrame) (s : State), tpUp s p = true → tpUp s (1 - p.val) = false → fr.fcsOk = true → fr.bytes ≤ 1522 →
    fr.ptpType = true → fr.ptpDest = true → fr.version = 2 → ocTakes s p fr = true → ivalOk fr = true → Gives (.ptpFrameReceive p fr) s fun t =>
      t.ptp.inbox = s.ptp.inbox ++ [(p.val, fr, (ptpNow s : Int))] ∧ t.ptp.tc = s.ptp.tc ∧ t.regs = s.regs) ∧
  (∀ (p : Fin 2) (fr : PtpFrame) (s : State), tpUp s p = true → fr.fcsOk = true → fr.bytes ≤ 1522 → fr.ptpType = true → fr.ptpDest = true →
    fr.version = 2 → ivalOk fr = false → Gives (.ptpFrameReceive p fr) s fun t => t.ptp.inbox = s.ptp.inbox ∧
      rn t .TNW_RX_RANGE = min 0xFFFFFFFF (rn s .TNW_RX_RANGE + 1)) ∧
  (∀ (p : Fin 2) (fr : PtpFrame) (s : State), tpUp s p = true → tpUp s (1 - p.val) = true → fr.fcsOk = true → fr.bytes ≤ 1522 →
    fr.ptpType = true → fr.ptpDest = true → fr.version = 2 → ocTakes s p fr = false → Gives (.ptpFrameReceive p fr) s fun t =>
      mget [] t.ptp.tc (1 - p.val) = (if (mget [] s.ptp.tc (1 - p.val)).length < 4
        then mget [] s.ptp.tc (1 - p.val) ++ [(fr, some (ptpNow s : Int))] else mget [] s.ptp.tc (1 - p.val)) ∧
      t.ptp.inbox = s.ptp.inbox ∧ rn t .TNW_TC_DROP =
        if (mget [] s.ptp.tc (1 - p.val)).length < 4 then rn s .TNW_TC_DROP else min 0xFFFFFFFF (rn s .TNW_TC_DROP + 1)) ∧
  (∀ (p : Nat) (fr : PtpFrame) (t2 : Int) (rest : List (Nat × PtpFrame × Int)) (s : State), s.ptp.inbox = (p, fr, t2) :: rest →
    fr.kind = .sync → rn s .TNW_SLAVE_PORT = p + 1 → fr.twoStep = true → Gives .ptpSync s fun t => t.ptp.inbox = rest ∧
      t.ptp.sync = some (fr.seqId, t2, fr.correction) ∧ t.ptp.syncAt = some (s.elapsed, fr.logIval) ∧ t.regs = s.regs) ∧
  (∀ (p : Nat) (fr : PtpFrame) (t2 : Int) (rest : List (Nat × PtpFrame × Int)) (s : State), s.ptp.inbox = (p, fr, t2) :: rest →
    fr.kind = .sync → rn s .TNW_SLAVE_PORT = p + 1 → fr.twoStep = false → s.ptp.sums = [] → Gives .ptpSync s fun t =>
      t.ptp.m2s = some (t2 - fr.stamp - fr.correction) ∧ t.ptp.sync = none ∧ t.ptp.acc = s.ptp.acc ∧ t.regs = s.regs) ∧
  (∀ (p : Nat) (fr : PtpFrame) (t2 d : Int) (rest : List (Nat × PtpFrame × Int)) (s : State), s.ptp.inbox = (p, fr, t2) :: rest →
    fr.kind = .sync → rn s .TNW_SLAVE_PORT = p + 1 → fr.twoStep = false → pathDelay s.ptp = some d → rn s .TNW_STATE = 0 →
    rn s .CLK_MGMT_SRC = 1 → rn s .TRG_STREAM_STATE = 0 → Gives .ptpSync s fun t => rd t .TNW_OFFSET = t2 - fr.stamp - fr.correction - d ∧
      rd t .TNW_PATH_DELAY = d ∧ rn t .TNW_STATE = 1 ∧ rn t .TNW_STEPS = min 0xFFFFFFFF (rn s .TNW_STEPS + 1) ∧ t.ptp.f = 0 ∧
      t.ptp.acc = (((s.ptp.acc : Int) - (t2 - fr.stamp - fr.correction - d) * accUnit) % accWrap).toNat) ∧
  (∀ (p : Nat) (fr : PtpFrame) (t2 d o : Int) (rest : List (Nat × PtpFrame × Int)) (s : State), s.ptp.inbox = (p, fr, t2) :: rest →
    fr.kind = .sync → rn s .TNW_SLAVE_PORT = p + 1 → fr.twoStep = false → pathDelay s.ptp = some d → rn s .TNW_STATE = 1 →
    rn s .CLK_MGMT_SRC = 1 → o = t2 - fr.stamp - fr.correction - d → Gives .ptpSync s fun t => rd t .TNW_OFFSET = o ∧ rn t .TNW_STATE = 1 ∧
      t.ptp.acc = s.ptp.acc ∧ t.ptp.f = s.ptp.f - quot 7 o 65536 * rn s .TNW_KI / 65536 ∧
      rd t .TNW_RATE = sat (-2147483) 2147483 (t.ptp.f - quot 7 o 65536 * rn s .TNW_KP / 65536)) ∧
  (∀ (p : Nat) (fr : PtpFrame) (t2 d : Int) (rest : List (Nat × PtpFrame × Int)) (s : State), s.ptp.inbox = (p, fr, t2) :: rest →
    fr.kind = .sync → rn s .TNW_SLAVE_PORT = p + 1 → fr.twoStep = false → pathDelay s.ptp = some d → rn s .CLK_MGMT_SRC ≠ 1 →
    Gives .ptpSync s fun t => rd t .TNW_OFFSET = t2 - fr.stamp - fr.correction - d ∧ t.ptp.acc = s.ptp.acc ∧ t.ptp.f = s.ptp.f ∧
      rn t .TNW_STATE = rn s .TNW_STATE ∧ rd t .TNW_RATE = rd s .TNW_RATE ∧ rn t .TNW_STEPS = rn s .TNW_STEPS) ∧
  (∀ (p : Nat) (fr : PtpFrame) (u t2 c : Int) (rest : List (Nat × PtpFrame × Int)) (s : State), s.ptp.inbox = (p, fr, u) :: rest →
    fr.kind = .followUp → rn s .TNW_SLAVE_PORT = p + 1 → s.ptp.sync = some (fr.seqId, t2, c) → s.ptp.sums = [] →
    Gives .ptpFollowUp s fun t => t.ptp.m2s = some (t2 - fr.stamp - (c + fr.correction)) ∧ t.ptp.sync = none ∧ t.regs = s.regs) ∧
  (∀ (p : Nat) (fr : PtpFrame) (u t3 m : Int) (rest : List (Nat × PtpFrame × Int)) (s : State), s.ptp.inbox = (p, fr, u) :: rest →
    fr.kind = .delayResp → s.ptp.req = some (fr.seqId, t3) → s.ptp.m2s = some m → Gives .ptpDelayResp s fun t =>
      t.ptp.sums = ((m + (fr.stamp - t3 - fr.correction)) :: s.ptp.sums).take 16 ∧ t.ptp.req = none ∧
      t.ptp.reqIval = some fr.logIval ∧ pathDelay t.ptp = some (rd t .TNW_PATH_DELAY)) ∧
  (∀ (p : Nat) (fr : PtpFrame) (u : Int) (rest : List (Nat × PtpFrame × Int)) (s : State), s.ptp.inbox = (p, fr, u) :: rest →
    fr.kind = .announce → p < 2 → s.ptp.foreign = [] → rn s .TNW_SLAVE_PORT = 0 → rn s .TNW_STATE = 0 → Gives .ptpAnnounce s fun t =>
      rn t .TNW_SLAVE_PORT = p + 1 ∧ rn t .TNW_GM_ID = fr.gmId.toNat ∧ rn t .TNW_STATE = 0 ∧ t.ptp.inbox = rest ∧
      mget none t.ptp.foreign p = some { gm := fr.gmId, quality := fr.quality, at_ := s.elapsed, ival := fr.logIval }) ∧
  (∀ (n : Nat) (s : State), rn s .TNW_ENABLE = 1 → rn s .TNW_SLAVE_PORT = n + 1 →
    (∀ t i, s.ptp.reqAt = some t → s.ptp.reqIval = some i → t + ivalTicks 1 i ≤ s.elapsed) → (mget [] s.ptp.tc n).length < 4 → Gives .delayReqSend s fun t => t.ptp.reqSeq = (s.ptp.reqSeq + 1) % 65536 ∧
      t.ptp.reqAt = some s.elapsed ∧ t.regs = s.regs ∧ ∃ fr, mget [] t.ptp.tc n = mget [] s.ptp.tc n ++ [(fr, none)] ∧
      fr.kind = .delayReq ∧ fr.seqId = s.ptp.reqSeq ∧ fr.domain = rn s .TNW_DOMAIN ∧ fr.reqClock = clockId s ∧ fr.bytes = 64) ∧
  (∀ (t : Nat) (i : Int) (s : State), s.ptp.reqAt = some t → s.ptp.reqIval = some i → s.elapsed < t + ivalTicks 1 i →
    exec .delayReqSend s = .next s) ∧
  (∀ (p : Fin 2) (fr : PtpFrame) (u : Int) (rest : List (PtpFrame × Option Int)) (s : State), tpUp s p = true →
    mget [] s.ptp.tc p = (fr, some u) :: rest → eventKind fr.kind = true → -(2 ^ 63) ≤ fr.correction + (ptpNow s - u) →
    fr.correction + (ptpNow s - u) < 2 ^ 63 → Gives (.tcForward p) s fun t => mget [] t.ptp.tc p = rest ∧
      mget none t.ptp.sent p = some { fr with correction := fr.correction + (ptpNow s - u) } ∧
      rn t .TNW_TC_FWD = min 0xFFFFFFFF (rn s .TNW_TC_FWD + 1)) ∧
  (∀ (p : Fin 2) (fr : PtpFrame) (rest : List (PtpFrame × Option Int)) (s : State), tpUp s p = true →
    mget [] s.ptp.tc p = (fr, none) :: rest → Gives (.tcForward p) s fun t => mget [] t.ptp.tc p = rest ∧
      mget none t.ptp.sent p = some fr ∧ t.ptp.req = some (fr.seqId, (ptpNow s : Int)) ∧ t.regs = s.regs) ∧
  (∀ (u : Nat) (i : Int) (s : State), s.ptp.syncAt = some (u, i) → rn s .TNW_SLAVE_PORT ≠ 0 → u + ivalTicks 3 i ≤ s.elapsed →
    (∀ q, q + 1 ≠ rn s .TNW_SLAVE_PORT → mget none s.ptp.foreign q = none) → Gives (.receiptTimeout true) s fun t => rn t .TNW_SLAVE_PORT = 0 ∧ rn t .TNW_GM_ID = 0 ∧
      rn t .TNW_MASTER_LOSSES = min 0xFFFFFFFF (rn s .TNW_MASTER_LOSSES + 1) ∧ t.ptp.sums = [] ∧ t.ptp.m2s = none) ∧
  (∀ (p : Fin 2) (u : Nat) (i : Int) (f : Foreign) (s : State), s.ptp.syncAt = some (u, i) → rn s .TNW_SLAVE_PORT = p.val + 1 →
    u + ivalTicks 3 i ≤ s.elapsed → mget none s.ptp.foreign (1 - p.val) = some f → Gives (.receiptTimeout true) s fun t =>
      rn t .TNW_SLAVE_PORT = 1 - p.val + 1 ∧ rn t .TNW_GM_ID = f.gm.toNat ∧ mget none t.ptp.foreign p.val = none ∧
      rn t .TNW_MASTER_LOSSES = min 0xFFFFFFFF (rn s .TNW_MASTER_LOSSES + 1) ∧ t.ptp.sums = [] ∧ t.ptp.m2s = none) ∧
  (∀ (p : Fin 2) (s : State), bitOf s.clk.gated (12 + p.val) = true ∨ tpClocked s = false → exec (.tpLinkChange p true) s = .next s) ∧
  (∀ (p : Fin 2) (s : State), bitOf s.clk.gated (12 + p.val) = false → tpClocked s = true → Gives (.tpLinkChange p true) s fun t =>
    tpUp t p = true ∧ tpUp t (1 - p.val) = tpUp s (1 - p.val) ∧ t.ptp = s.ptp) ∧
  (∀ (p : Fin 2) (s : State), rn s .TNW_SLAVE_PORT ≠ p.val + 1 → tpUp s p = true → Gives (.tpLinkChange p false) s fun t =>
    tpUp t p = false ∧ mget [] t.ptp.tc p = [] ∧ mget none t.ptp.foreign p = none ∧ rn t .TNW_SLAVE_PORT = rn s .TNW_SLAVE_PORT) ∧
  (∀ s : State, ptpSeconds (ptpNow s) ≠ s.ptp.second → ptpSeconds (ptpNow s) % rn s .TNW_TIME_PERIOD ≠ 0 → Gives .ppsEdge s fun t =>
    t.ptp.second = ptpSeconds (ptpNow s) ∧ t.ptp.pps = (if ppsAllowed s then some (s.elapsed + (5 * rn s .TNW_PPS_WIDTH + 1) / 2)
      else s.ptp.pps) ∧ t.regs = s.regs ∧ t.stream = s.stream) ∧
  (∀ s : State, ptpSeconds (ptpNow s) = s.ptp.second → exec .ppsEdge s = .next s) ∧
  (∀ (u : Nat) (s : State), s.ptp.pps = some u → Gives .ppsEnd s fun t =>
    t.ptp.pps = (if u ≤ s.elapsed then none else some u) ∧ t.regs = s.regs)

/-! ### Shutdown, scrub, persistence, life cycle and the load -/

/-- The end of a shutdown; scrub steps count what they find; a request of a life-cycle change expires; erase and page programs lead a commit
to its bank; a load ends LOADED or FAILED (R68, R348, R349, R406, R419, R422, R424, R427). That both banks are erased where none is active,
and that a flash which does not answer while a commit waits for its erase fails it, are the model's choices (log 48). -/
def Obligations.ShutdownScrubAndPersistence : Prop :=
  (∀ s : State, shutdownDue s 3 10 = true → commitState s ≠ 1 → commitState s ≠ 2 → Gives .shutdownComplete s fun t =>
    rn t .THM_STATE = 2 ∧ t.cool.stage = 4 ∧ t.cool.tripAt = none ∧
    ∀ c, c ∈ listed s → rn s .DRM_CH_STATE c = 1 ∨ rn s .DRM_CH_STATE c = 2 → rn t .DRM_CH_STATE c = 4) ∧
  (∀ s : State, shutdownDue s 3 10 = false → exec .shutdownComplete s = .next s) ∧
  (∀ (u : Fin 32) (a : Nat) (s : State), unitOk u = true → quietFor s (unitScope u) 1 = true → s.boot.phase ≠ .held →
    exec (.scrubStep u a 0) s = .next s) ∧
  (∀ (u : Fin 32) (a : Nat) (s : State), unitOk u = true → quietFor s (unitScope u) 1 = true → s.boot.phase ≠ .held →
    Gives (.scrubStep u a 256) s fun t => rn t .FLT_SCRUB_PASSES u = min 0xFFFFFFFF (rn s .FLT_SCRUB_PASSES u + 1) ∧
      mget 0 t.scrubAt u = s.elapsed ∧ RegsKept s t fun r i => r = .FLT_SCRUB_PASSES ∧ i = u) ∧
  (∀ (a : Nat) (s : State), quietFor s 8 1 = true → s.boot.phase ≠ .held → Gives (.scrubStep 3 a 1) s fun t =>
    rn t .FLT_SCRUB_FOUND 3 = min 0xFFFFFFFF (rn s .FLT_SCRUB_FOUND 3 + 1) ∧ a ∈ t.nvm.poisoned ∧
    rn t .FLT_COUNT 8 = min 0xFFFFFFFF (rn s .FLT_COUNT 8 + 1) ∧ rn t .FLT_LAST_UNIT 8 = 3) ∧
  (∀ (u : Fin 32) (s : State), unitOk u = true → rn s .FLT_SCRUB_LIMIT < scrubAge s u → Gives (.scrubStale u) s fun t =>
    rn t .FLT_SCRUB_STALE u = 1 ∧ RegsKept s t fun r i => r = .FLT_SCRUB_STALE ∧ i = u) ∧
  (∀ (v a : Nat) (s : State), s.boot.lcsArmed = some (v, a) → a + 2500000000 ≤ s.elapsed → Gives .lcsReqExpire s fun t =>
    rn t .LCS_RESULT = 4 ∧ t.boot.lcsArmed = none ∧ RegsKept s t fun r i => r = .LCS_RESULT ∧ i = 0) ∧
  (∀ s : State, s.boot.phase = .served → s.nvm.erased = false → commitState s ≠ 2 → s.boot.lcsConf = none → Gives .nvmEraseDone s
    fun t => t.nvm.erased = true ∧ inactive t = {} ∧ commitState t = (if commitState s = 1 then 2 else commitState s) ∧
      (rn s .NVM_ACTIVE_BANK ≠ 0 → if commitsToB s then t.nvm.bankA = s.nvm.bankA else t.nvm.bankB = s.nvm.bankB) ∧
      (rn s .NVM_ACTIVE_BANK = 0 → t.nvm.bankA = {} ∧ t.nvm.bankB = {})) ∧
  (∀ s : State, commitState s = 1 → Gives (.pageProgramDone false) s fun t => commitState t = 4 ∧ rn t .NVM_DIRTY = 1 ∧
    rn t .NVM_COMMIT_FAILS = min 0xFFFFFFFF (rn s .NVM_COMMIT_FAILS + 1) ∧ t.nvm.bankA = s.nvm.bankA ∧ t.nvm.bankB = s.nvm.bankB) ∧
  (∀ s : State, commitState s = 2 → rn s .THM_STATE ≠ 1 → 256 * rn s .NVM_COMMIT_PAGES < s.nvm.buffer.length → rn s .NVM_COMMIT_PAGES < 0xFFFF →
    Gives (.pageProgramDone true) s fun t => commitState t = 2 ∧ rn t .NVM_COMMIT_PAGES = rn s .NVM_COMMIT_PAGES + 1 ∧
      (inactive t).records = (inactive s).records ++ (s.nvm.buffer.drop (256 * rn s .NVM_COMMIT_PAGES)).take 256) ∧
  (∀ s : State, commitState s = 2 → rn s .THM_STATE ≠ 1 → s.nvm.buffer.length ≤ 256 * rn s .NVM_COMMIT_PAGES →
    Gives (.pageProgramDone true) s fun t => commitState t = 3 ∧ rn t .NVM_COMMITS = min 0xFFFFFFFF (rn s .NVM_COMMITS + 1) ∧
      rn t .NVM_ACTIVE_BANK = (if rn s .NVM_ACTIVE_BANK = 1 then 2 else 1) ∧
      rn t .NVM_ACTIVE_SEQ = (rn s .NVM_ACTIVE_SEQ + 1) % 2 ^ 32 ∧
      (bankOf t (rn t .NVM_ACTIVE_BANK)).header = headerPage s ∧ (bankOf t (rn t .NVM_ACTIVE_BANK)).records = (inactive s).records) ∧
  (∀ s : State, commitState s = 2 → Gives (.pageProgramDone false) s fun t => commitState t = 4 ∧ rn t .NVM_DIRTY = 1 ∧
    rn t .NVM_COMMIT_FAILS = min 0xFFFFFFFF (rn s .NVM_COMMIT_FAILS + 1) ∧ t.nvm.bankA = s.nvm.bankA ∧ t.nvm.bankB = s.nvm.bankB) ∧
  (∀ s : State, rn s .PKG_IMG_STATE = 1 → Gives .loadComplete s fun t => rn t .PKG_IMG_STATE = 2 ∨ rn t .PKG_IMG_STATE = 3) ∧
  (∀ (h : List Byte) (l : LoadSt) (why : Nat) (s : State), rn s .PKG_IMG_STATE = 1 →
    loadRead 0xFFFF s.image.base 64 { st := s, done := 0 } = (.ok h, l) → headerFault h s.image.base (rn s .DRM_RANGE) = some why →
    Gives .loadComplete s fun t => rn t .PKG_IMG_STATE = 3 ∧ rn t .PKG_IMG_ERROR = 0xFFFF * 65536 + why) ∧
  (∀ (h : List Byte) (dir : List Section) (ps : List (State → State)) (l m n : LoadSt) (s : State), rn s .PKG_IMG_STATE = 1 →
    loadRead 0xFFFF s.image.base 64 { st := s, done := 0 } = (.ok h, l) → headerFault h s.image.base (rn s .DRM_RANGE) = none →
    loadDir s.image.base (leAt h 0x10 8) (leAt h 0x18 8) (leAt h 0x0C 2) (leAt h 0x0C 2) [] l = (.ok dir, m) →
    loadSections s.image.base dir 0 m = (.ok ps, n) → Gives .loadComplete s fun t =>
      rn t .PKG_IMG_STATE = 2 ∧ rn t .PKG_IMG_ID = leAt h 8 4 ∧ rn t .PKG_IMG_DONE = leAt h 0x10 8 / 1024) ∧
  (∀ s : State, rn s .PKG_IMG_STATE ≠ 1 → exec .loadComplete s = .next s)

/-! ### Host writes -/

/-- The host's commands to the package: reset, clocks, alignment, image, run, stream, trigger, profiles, persistence, thermal and life
cycle (R30, R36, R38, R68, R69, R88 to R90, R199, R200, R219, R240 to R242, R244, R348, R359, R360, R370, R376, R377, R405, R407, R427,
R431). Which shot an ABORT voids and that a STOP or an ABORT without a run to end changes nothing is the model's choice (log 68). -/
def Obligations.PackageWrites : Prop :=
  (∀ (p : Path) (tag : Byte) (s : State), Serves p s → rn s .THM_STATE = 0 ∨ (∀ g, g < 8 → bitOf (rn s .THM_TRIPPED g) 2 = false) →
    Accepts (.pkgReset p tag 0x00A5) p tag 0x2002 0 [0xA5, 0] s fun s u => u.boot.resetReq = some (s.boot.resetReq.getD s.elapsed) ∧ RegsKept s u fun _ _ => False) ∧
  (∀ (p : Path) (tag : Byte) (s : State), Serves p s → rn s .CLK_MON_STATE 0 = 2 → rn s .CLK_MON_STATE 4 = 2 →
    Accepts (.clkMgmtSel p tag 1) p tag 0x2201 2 [1] s fun s u => rn u .CLK_MGMT_SRC = 1 ∧ rn u .CLK_MGMT_HOLD = 0 ∧
      u.ptp.m2s = none ∧ u.ptp.sums = [] ∧ (rn s .TNW_STATE = 2 → s.ptp.stepped = false → rn u .TNW_STATE = 0) ∧
      (rn s .TNW_STATE ≠ 2 ∨ s.ptp.stepped = true →
        RegsKept s u fun r i => (r = .CLK_MGMT_SRC ∨ r = .CLK_MGMT_HOLD) ∧ i = 0 ∨ r = .PKG_MILESTONE ∧ i = 3)) ∧
  (∀ (p : Path) (tag : Byte) (s : State), Serves p s → rn s .CLK_FMC_REF ≤ 5 → 1 ≤ rn s .CLK_FMC_GATE → rn s .CLK_FMC_GATE ≤ 1000000 →
    rn s .CLK_FMC_STATE ≠ 1 → Accepts (.fmcStart p tag 1) p tag 0x2220 4 [1] s fun s u => rn u .CLK_FMC_STATE = 1 ∧ u.clk.fmcAt = s.elapsed ∧
      RegsKept s u fun r i => r = .CLK_FMC_STATE ∧ i = 0) ∧
  (∀ (p : Path) (tag : Byte) (v : BitVec 32) (busy : List (Fin 25 × Nat)) (s : State), Serves p s → v.toNat < 2 ^ 25 →
    (∀ c ∈ tabChans (rn s .DRM_CHTAB), bitOf v.toNat c = false) → Accepts (.clkGate p tag v busy) p tag 0x2230 0 (leBytes 4 v.toNat) s fun s u =>
      rn u .CLK_GATE = v.toNat ∧ ∀ g access, g < 25 → access = busy.find? (fun x => decide (x.1.val = g)) →
        bitOf u.clk.gated g = (bitOf v.toNat g && (bitOf s.clk.gated g || (gateWaits s g).isNone && access.isNone)) ∧
        gateWaits u g = if bitOf v.toNat g = false then none
          else if bitOf s.clk.gated g = true ∨ (gateWaits s g).isSome = true then gateWaits s g
          else access.map fun x => (s.elapsed, x.2)) ∧
  (∀ (p : Path) (tag : Byte) (s : State), Serves p s → quietPackage s = true →
    Accepts (.syncArm p tag) p tag 0x2101 0 [1] s fun s u => rn u .TML_SYNC_CTRL = 1 ∧ rn u .TML_SYNC_STATE = 1 ∧ u.clk.syncFire = false ∧
      u.clk.syncEdge = none ∧ RegsKept s u fun r i => (r = .TML_SYNC_CTRL ∨ r = .TML_SYNC_STATE) ∧ i = 0) ∧
  (∀ (p : Path) (tag : Byte) (s : State), Serves p s → quietPackage s = true →
    Accepts (.syncFire p tag) p tag 0x2101 0 [2] s fun s u => rn u .TML_SYNC_CTRL = 2 ∧ (rn s .TML_SYNC_STATE = 1 → u.clk.syncFire = true) ∧
      (rn s .TML_SYNC_STATE ≠ 1 → u.clk = s.clk) ∧ RegsKept s u fun r i => r = .TML_SYNC_CTRL ∧ i = 0) ∧
  (∀ (p : Path) (tag : Byte) (s : State), Serves p s → Accepts (.syncDisarm p tag) p tag 0x2101 0 [3] s fun s u =>
    u.clk.syncFire = false ∧ (rn s .TML_SYNC_STATE = 1 → s.clk.syncEdge = none → rn u .TML_SYNC_STATE = 0) ∧
    RegsKept s u fun r i => (r = .TML_SYNC_CTRL ∨ r = .TML_SYNC_STATE) ∧ i = 0) ∧
  (∀ (p : Path) (tag : Byte) (s : State), Serves p s → Accepts (.relock p tag) p tag 0x2182 0 [1] s fun s u =>
    u.ptp.stepped = false ∧ (rn s .CLK_MGMT_SRC = 1 → rn u .TNW_STATE = 0) ∧
    (∀ m rest, s.ptp.inbox = m :: rest → m.2.1.kind = .sync → u.ptp.inbox = rest) ∧
    ((∀ m ∈ s.ptp.inbox, m.2.1.kind ≠ .sync) → rn s .CLK_MGMT_SRC ≠ 1 → rn s .TNW_STATE = 2 →
      rn u .TNW_STATE = 2 ∧ u.ptp = { s.ptp with stepped := false }) ∧
    ((∀ m ∈ s.ptp.inbox, m.2.1.kind ≠ .sync) → rn s .CLK_MGMT_SRC = 1 → u.ptp = { s.ptp with
      stepped := false, pps := (if rn s .TNW_STATE = 0 ∨ rn s .TNW_PPS_MODE = 0 then s.ptp.pps else none) })) ∧
  (∀ (p : Path) (tag : Byte) (s : State), Serves p s → inRun s = false → rn s .PKG_IMG_STATE ≠ 1 → rn s .PKG_IMG_BASE % 4096 = 0 →
    rn s .PKG_IMG_BASE + 64 ≤ rn s .DRM_RANGE → rn s .DRM_STATE ≠ 1 → rn s .DRM_STATE ≠ 2 →
    Accepts (.load p tag) p tag 0x2011 0 [1] s fun s u => rn u .PKG_IMG_STATE = 1 ∧ rn u .PKG_IMG_DONE = 0 ∧
      u.image = { base := rn s .PKG_IMG_BASE } ∧ RegsKept s u fun r i => (r = .PKG_IMG_CTRL ∨ r = .PKG_IMG_STATE ∨ r = .PKG_IMG_DONE) ∧ i = 0) ∧
  (∀ (p : Path) (tag : Byte) (s : State), Serves p s → inRun s = false → rn s .PKG_IMG_STATE ≠ 1 →
    Accepts (.unload p tag) p tag 0x2011 0 [2] s fun s u => rn u .PKG_IMG_STATE = 0 ∧
      RegsKept s u fun r i => (r = .PKG_IMG_CTRL ∨ r = .PKG_IMG_STATE) ∧ i = 0) ∧
  (∀ (p : Path) (tag : Byte) (s : State), Serves p s → s.tml + 250000 ≤ rn s .PKG_RUN_START → rn s .PKG_IMG_STATE = 2 → inRun s = false →
    (∀ g, g < 8 → profileOf s g = nfld s.image.profiles (2 * g + 1) (2 * g) ∧ (rgget s g).req = none) →
    (s.image.viaduct = true → rn s .TML_SYNC_STATE = 2) → Accepts (.start p tag) p tag 0x2018 0 [1] s fun s u =>
      rn u .PKG_RUN_STATE = 1 ∧ u.run = { nextStart := rn s .PKG_RUN_START, nextNum := rn s .PKG_RUN_SHOT0 } ∧
      (∀ e, e < 128 → (eget u e).state = (if (aget s e).exist then if regionHalted s (e / 16) then .halt else .run else .parked) ∧ (eget u e).pc = 0 ∧ (eget u e).shot = 0 ∧
        (eget u e).out = [] ∧ (eget u e).loop = none ∧ (eget u e).gather = none ∧ (eget u e).micro = {}) ∧
      (∀ f, (fget u f).cambers = []) ∧ (∀ c, c < 16 → rn u .CLU_REFILL_DONE c = 0) ∧
      RegsKept s u fun r i => (r = .PKG_RUN_CTRL ∨ r = .PKG_RUN_STATE) ∧ i = 0 ∨ r = .CLU_REFILL_DONE ∧ i < 16 ∨ r = .DRM_P_PANICS ∧ i = 18) ∧
  (∀ (p : Path) (tag : Byte) (s : State), Serves p s → rn s .PKG_RUN_STATE = 1 → s.run.aborted = false → s.run.ending = none →
    Accepts (.stop p tag) p tag 0x2018 0 [2] s fun s u => rn u .PKG_RUN_STATE = 2 ∧ u.run = { s.run with stopPending := true } ∧
      RegsKept s u fun r i => (r = .PKG_RUN_CTRL ∨ r = .PKG_RUN_STATE) ∧ i = 0) ∧
  (∀ (p : Path) (tag : Byte) (s : State), Serves p s → rn s .PKG_RUN_STATE ≠ 1 ∨ s.run.aborted = true ∨ s.run.ending ≠ none →
    Accepts (.stop p tag) p tag 0x2018 0 [2] s fun s u =>
    u.run = s.run ∧ RegsKept s u fun r i => r = .PKG_RUN_CTRL ∧ i = 0) ∧
  (∀ (p : Path) (tag : Byte) (s : State), Serves p s → inRun s = true → s.run.aborted = false →
    Accepts (.abort p tag) p tag 0x2018 0 [3] s fun s u => EndsAsAbort s u ∧ ∀ sh rest i, s.run.shots = sh :: rest → sh.start ≤ s.tml →
      shotAt s.run.shots s.tml = some i → u.run.shots.length = i + 1 ∧ u.run.ending = some 3) ∧
  (∀ (p : Path) (tag : Byte) (s : State), Serves p s → inRun s = false ∨ s.run.aborted = true →
    Accepts (.abort p tag) p tag 0x2018 0 [3] s fun s u => u.run = s.run ∧ RegsKept s u fun r i => r = .PKG_RUN_CTRL ∧ i = 0) ∧
  (∀ (p : Path) (tag : Byte) (s : State), Serves p s → rn s .TRG_STREAM_STATE ≠ 0 →
    Accepts (.streamClose p tag) p tag 0x8340 0 [0] s fun s u => rn u .TRG_STREAM_STATE = 0 ∧ u.stream.epoch = s.stream.epoch + 1 ∧
      (s.stream.sent = 0 → u.stream.backlog = [] ∧ u.stream.finishing = 0 ∧
        rn u .TRG_CLOSED_DISCARD = min 0xFFFFFFFF (rn s .TRG_CLOSED_DISCARD + s.stream.backlog.length)) ∧
      (s.stream.sent ≠ 0 → u.stream.backlog = s.stream.backlog.take 1 ∧ u.stream.finishing = rn s .TRG_STREAM_STATE)) ∧
  (∀ (p : Path) (tag : Byte) (q : Bool) (s : State), Serves p s → streamState s = 0 → q = true ∨ rn s .LNK_HL_STATE = 2 →
    Accepts (if q then .openQueue p tag else .openStream p tag) p tag 0x8340 0 [if q then 2 else 1] s fun s u =>
      rn u .TRG_STREAM_STATE = (if q then 2 else 1) ∧ rn u .DRM_ARING_WPTR 0 = 0 ∧ rn u .DRM_ARING_WPTR 1 = 0 ∧
      u.stream.epoch = s.stream.epoch + 1 ∧ u.stream.offset = 0 ∧ u.stream.timeAt = some (nextGrain s)) ∧
  (∀ (p : Path) (tag : Byte) (s : State), Serves p s → rn s .TRG_ROLE ≠ roleMember → rn s .TRG_STATE = trgIdle ∨ rn s .TRG_STATE = trgFired →
    s.tml + rn s .TRG_ARM_DELAY ≤ rn s .TRG_ARM_GRAIN → Accepts (.trgArm p tag) p tag 0x8300 0 [1] s fun s u =>
      rn u .TRG_STATE = trgArming ∧ rn u .TRG_ARM_SEQ = (rn s .TRG_ARM_SEQ + 1) % 65536 ∧
      rn u .TRG_ARMS = min 0xFFFFFFFF (rn s .TRG_ARMS + 1) ∧ u.trig.armAt = rn s .TRG_ARM_GRAIN ∧ u.trig.dets = [] ∧
      u.vre.inbox = if rn s .TRG_ROLE = roleMaster
        then s.vre.inbox ++ [(12, armMsg (rn s .LNK_PKG_NO) ((rn s .TRG_ARM_SEQ + 1) % 65536) (rn s .TRG_ARM_GRAIN))] else s.vre.inbox) ∧
  (∀ (p : Path) (tag : Byte) (s : State), Serves p s → rn s .TRG_ROLE ≠ roleMember →
    Accepts (.trgDisarm p tag) p tag 0x8300 0 [2] s fun s u => rn u .TRG_STATE = trgIdle ∧
      u.vre.inbox = (if rn s .TRG_ROLE = roleMaster
        then s.vre.inbox ++ [(12, disarmMsg (rn s .LNK_PKG_NO) (rn s .TRG_ARM_SEQ))] else s.vre.inbox) ∧
      RegsKept s u fun r i => (r = .TRG_CTRL ∨ r = .TRG_STATE) ∧ i = 0) ∧
  (∀ (p : Path) (tag : Byte) (g : RgnNo) (v : Byte) (s : State), Serves p s → v.toNat ≤ 3 → rn s .RGN_FORCED g = 0 ∨ v.toNat = profCool →
    Accepts (.rgnProfileReq p tag g v) p tag (0x3000 + 0x100 * g.val) 2 [v] s fun s u => rn u .RGN_PROFILE_REQ g = v.toNat ∧
      (inRun s = true → (rgget u g).req = (if v.toNat = profileOf s g then none else some (v.toNat, 0, none)) ∧
        profileOf u g = profileOf s g) ∧
      (inRun s = false → (rgget s g).muteEnd = none → v.toNat ≠ profileOf s g → profileOf u g = v.toNat ∧
        rn u .RGN_CHANGE_GRAIN g = s.tml ∧ (rgget u g).muteEnd = some (s.tml + 50000))) ∧
  (∀ (p : Path) (tag : Byte) (v : BitVec 16) (s : State), Serves p s →
    (∀ g, g < 8 → rn s .RGN_FORCED g = 0 ∨ nfld v.toNat (2 * g + 1) (2 * g) = profCool) →
    Accepts (.pkgProfileReq p tag v) p tag 0x2020 0 (leBytes 2 v.toNat) s fun s u => rn u .PKG_PROFILE_REQ = v.toNat ∧
      (inRun s = true → ∀ g, g < 8 → (rgget u g).req = (if nfld v.toNat (2 * g + 1) (2 * g) = profileOf s g then none
        else some (nfld v.toNat (2 * g + 1) (2 * g), 0, none)) ∧ profileOf u g = profileOf s g) ∧
      (inRun s = false → ∀ g, g < 8 → (rgget s g).muteEnd = none → profileOf u g = nfld v.toNat (2 * g + 1) (2 * g))) ∧
  (∀ (p : Path) (tag : Byte) (g : RgnNo) (v : Byte) (s : State), Serves p s → v.toNat ≤ 1 → inRun s = false →
    Accepts (.rgnKrnLayout p tag g v) p tag (0x3000 + 0x100 * g.val) 9 [v] s fun s u => rn u .RGN_KRN_LAYOUT g = v.toNat ∧
      RegsKept s u fun r i => r = .RGN_KRN_LAYOUT ∧ i = g.val) ∧
  (∀ (p : Path) (tag : Byte) (s : State), Serves p s → rn s .NVM_COMMIT_STATE ≠ 1 → rn s .NVM_COMMIT_STATE ≠ 2 →
    Accepts (.commit p tag) p tag 0x2700 0 [1] s fun s u =>
      if setPoisoned s = true
      then rn u .NVM_COMMIT_STATE = 4 ∧ rn u .NVM_COMMIT_FAILS = min 0xFFFFFFFF (rn s .NVM_COMMIT_FAILS + 1) ∧ rn u .NVM_DIRTY = 1
      else rn u .NVM_COMMIT_STATE = (if s.nvm.erased then 2 else 1) ∧ rn u .NVM_DIRTY = 0 ∧ rn u .NVM_COMMIT_PAGES = 0 ∧
        u.nvm.buffer = setBytes s.nvm.set_) ∧
  (∀ (p : Path) (tag : Byte) (v : Byte) (s : State), Serves p s → inRun s = false →
    (∀ g, g < 8 → bitOf v.toNat g = true → ∀ c, c < 4 → bitOf (rgget s g).forced c = true → causeOver s g c = true) →
    Accepts (.thmForceClr p tag v) p tag 0x2302 0 [v] s fun s u => ∀ g, g < 8 →
      rn u .RGN_FORCED g = (if bitOf v.toNat g then 0 else rn s .RGN_FORCED g) ∧
      (rgget u g).forced = (if bitOf v.toNat g then 0 else (rgget s g).forced)) ∧
  (∀ (p : Path) (tag : Byte) (s : State), Serves p s → rn s .THM_STATE = 2 → (∀ g, g < 8 → bitOf (rn s .THM_TRIPPED g) 2 = false) →
    Accepts (.resume p tag) p tag 0x2301 0 [1] s fun s u => rn u .THM_STATE = 0 ∧ u.cool.stage = 0 ∧
      (∀ m, 4 ≤ m → m ≤ 14 → rn u .CLK_MON_STATE m = 0) ∧ (rn s .DRM_STATE = 0 → rn u .DRM_STATE = 0) ∧
      ∀ c, c < 8 → bitOf s.clk.gated c = false → rn s .DRM_CH_STATE c = chSelfref ∨ rn s .DRM_CH_STATE c = chTraining →
        rn u .DRM_CH_STATE c = chTraining ∧ (rn s .DRM_STATE ≠ 0 → rn u .DRM_STATE = 1)) ∧
  (∀ (p : Path) (tag : Byte) (v : Byte) (s : State), Serves p s → v.toNat ≤ 3 → v ≠ 0 → lcsTargetOk (lcsNow s) v.toNat = true →
    inRun s = false → rn s .NVM_COMMIT_STATE ≠ 2 → Accepts (.lcsReq p tag v) p tag 0x2713 0 [v] s fun s u =>
      rn u .LCS_REQ = v.toNat ∧ rn u .LCS_RESULT = 1 ∧ u.boot.lcsArmed = some (v.toNat, s.elapsed) ∧
      RegsKept s u fun r i => (r = .LCS_REQ ∨ r = .LCS_RESULT) ∧ i = 0) ∧
  (∀ (p : Path) (tag : Byte) (v : Byte) (t : Nat) (s : State), Serves p s → 1 ≤ v.toNat → v.toNat ≤ 3 →
    lcsTargetOk (lcsNow s) v.toNat = true → s.boot.lcsArmed = some (v.toNat, t) → s.elapsed < t + 2500000000 →
    inRun s = false → rn s .NVM_COMMIT_STATE ≠ 2 → Accepts (.lcsConfirm p tag v) p tag 0x2714 0 [v] s fun s u =>
      u.boot.lcsArmed = none ∧ u.boot.lcsConf = some (v.toNat, s.elapsed) ∧ RegsKept s u fun _ _ => False)

/-- The host's commands to a unit: queues, truss channels and timers, segment descriptors, outputs, coefficients, bias, DRAM, links and
monitor ADCs; and a write of any typed object. What a write finds in progress and leaves of it is the model's choice for DRAM tests (logs
45, 64, 80) and for the converters (log 35) (R119, R134, R136, R145, R147, R158, R160, R263, R270, R279, R280, R285, R286, R295,
R300, R313, R327, R330, R385, R388, R390, R392). -/
def Obligations.UnitWrites : Prop :=
  (∀ (p : Path) (tag : Byte) (q : Nat) (s : State), Serves p s → q = rn s .QUE_SEL p.val →
    q ≤ 0x0FFF ∧ inRun s = false ∨ 0x1000 ≤ q ∧ q ≤ 0x1FFF ∨ 0x3000 ≤ q ∧ q ≤ 0x7FFF →
    Accepts (.queCmdFlush p tag) p tag 0x8004 0 [1] s fun s u => (qget u q).words = [] ∧ (qget u q).owner = none ∧ (qget u q).broken = false ∧
      rn u .QUE_FLUSHES q = min 0xFFFFFFFF (rn s .QUE_FLUSHES q + 1) ∧ ∀ x, x ≠ q → qget u x = qget s x) ∧
  (∀ (p : Path) (tag : Byte) (q : Nat) (s : State), Serves p s → q = rn s .QUE_SEL p.val →
    0x1000 ≤ q ∧ q ≤ 0x1FFF ∨ 0x3000 ≤ q ∧ q ≤ 0x7FFF → wholePackets (qget s q) ≠ 0 → (qget s q).dead = [] →
    Accepts (.queCmdDrop p tag) p tag 0x8004 0 [2] s fun s u => (qget u q).words = (qget s q).words.drop (headLen (qget s q).words) ∧
      rn u .QUE_DROPPED q = min 0xFFFFFFFF (rn s .QUE_DROPPED q + headLen (qget s q).words) ∧ ∀ x, x ≠ q → qget u x = qget s x) ∧
  (∀ (p : Path) (tag : Byte) (slot : Fin 8) (v : BitVec 16) (ch : Nat) (s : State), Serves p s → ch = rn s .EVT_CH_SEL p.val →
    v.toNat &&& 0x81FF = v.toNat → (bitOf v.toNat 15 = true → ∃ home, producerHome (v.toNat % 512) = some home ∧
      (localChannel ch = true → home = some (ch / 32)) ∧
      ∀ k, k < 8 → k ≠ slot.val → rn s .EVT_CH_PROD (8 * ch + k) ≠ 0x8000 + v.toNat % 512) →
    Accepts (.evtChProd p tag slot v) p tag 0x8101 (slot.val + 1) (leBytes 2 v.toNat) s fun s u => rn u .EVT_CH_PROD (8 * ch + slot) = v.toNat ∧
      RegsKept s u fun r i => r = .EVT_CH_PROD ∧ i = 8 * ch + slot.val) ∧
  (∀ (p : Path) (tag : Byte) (n : Fin 32) (s : State), Serves p s → Accepts (.timRun p tag n) p tag (0x8140 + n.val) 1 [1] s fun s u =>
    rn u .TIM_CTRL n = 1 ∧ tget u n = { next := some (if rn s .TIM_PERIOD n = 0 then max (rn s .TIM_START n) s.tml
      else firstFire (rn s .TIM_START n) (rn s .TIM_PERIOD n) s.tml), fires := 0 } ∧
    RegsKept s u fun r i => (r = .TIM_CTRL ∨ r = .TIM_SKIPPED) ∧ i = n.val) ∧
  (∀ (p : Path) (tag : Byte) (n : Fin 32) (s : State), Serves p s → Accepts (.timStop p tag n) p tag (0x8140 + n.val) 1 [0] s fun s u =>
    rn u .TIM_CTRL n = 0 ∧ tget u n = {} ∧ RegsKept s u fun r i => r = .TIM_CTRL ∧ i = n.val) ∧
  (∀ (p : Path) (tag : Byte) (c : CluNo) (v : Word) (k : Nat) (s : State), Serves p s → k = rn s .CLU_SEG_SEL (2 * c + p) → k < 4096 →
    nfld v.toNat 17 5 = 0 → bitOf v.toNat 0 = false → nfld v.toNat 44 26 ≠ 0 →
    nfld v.toNat 63 45 + nfld v.toNat 44 26 ≤ segWords → segBusy s c k = false →
    Accepts (.cluSegDesc p tag c v) p tag (0x4011 + 0x100 * c.val) 1 (leBytes 8 v.toNat) s fun s u => sget u c k = { sget s c k with
      start := nfld v.toNat 63 45, len := nfld v.toNat 44 26, loop := bitOf v.toNat 4, ready := false } ∧ u.segMem = s.segMem ∧
      RegsKept s u fun _ _ => False) ∧
  (∀ (p : Path) (tag : Byte) (prb : Bool) (n : Fin 64) (v : Byte) (s : State), Serves p s → v.toNat ≤ 1 → (prb = true → n.val < 16) →
    Accepts (.drvMute p tag prb n v) p tag (if prb then 0x5800 + 0x20 * n.val else 0x5000 + 0x20 * n.val) 2 [v] s fun s u =>
      (∀ b, bitOf (rn u (if prb then .PRB_MUTE_CAUSE else .DRV_MUTE_CAUSE) n) b =
        if b = 0 then decide (v.toNat = 1) else bitOf (rn s (if prb then .PRB_MUTE_CAUSE else .DRV_MUTE_CAUSE) n) b) ∧
      RegsKept s u fun r i => r = (if prb then .PRB_MUTE_CAUSE else .DRV_MUTE_CAUSE) ∧ i = n.val) ∧
  (∀ (p : Path) (tag : Byte) (n : Fin 64) (tap : Fin 8) (v : Word) (s : State), Serves p s → nfld v.toNat 62 61 = 0 →
    nfld v.toNat 55 52 = 0 → nfld v.toNat 47 32 = 0 → (bitOf v.toNat 63 = true → nfld v.toNat 60 56 / 8 ≠ n.val % 4) → inRun s = false →
    Accepts (.drvXtap p tag n tap v) p tag (0x5001 + 0x20 * n.val) (tap.val + 1) (leBytes 8 v.toNat) s fun s u =>
      rn u .DRV_XTAP (n.val * 8 + tap) = v.toNat ∧ (n.val * 8 + tap.val) ∉ u.tapBad ∧
      RegsKept s u fun r i => r = .DRV_XTAP ∧ i = n.val * 8 + tap.val) ∧
  (∀ (p : Path) (tag : Byte) (n : Fin 128) (k : Fin 4) (v : BitVec 32) (s : State), Serves p s → inRun s = false →
    v ≠ 0 ∨ rd s .FLX_BETA (n.val * 4 + k) = 0 →
    Accepts (.flxCoefWrite p tag (BitVec.ofNat 16 (0x5C00 + 8 * n.val)) (BitVec.ofNat 8 (k.val + 1)) v) p tag (0x5C00 + 8 * n.val) (k.val + 1) (leBytes 4 v.toNat) s
      fun s u => rd u .FLX_ALPHA (n.val * 4 + k) = v.toNat ∧ RegsKept s u fun r i => r = .FLX_ALPHA ∧ i = n.val * 4 + k.val) ∧
  (∀ (p : Path) (tag : Byte) (n : Fin 128) (k : Fin 4) (v : BitVec 32) (s : State), Serves p s → inRun s = false →
    v = 0 ∨ rn s .FLX_ALPHA (n.val * 4 + k) ≠ 0 →
    Accepts (.flxCoefWrite p tag (BitVec.ofNat 16 (0x5C01 + 8 * n.val)) (BitVec.ofNat 8 (k.val + 1)) v) p tag (0x5C01 + 8 * n.val) (k.val + 1) (leBytes 4 v.toNat) s
      fun s u => rd u .FLX_BETA (n.val * 4 + k) = v.toInt ∧ RegsKept s u fun r i => r = .FLX_BETA ∧ i = n.val * 4 + k.val) ∧
  (∀ (p : Path) (tag : Byte) (n : Fin 128) (k : Fin 32) (v : BitVec 32) (s : State), Serves p s → inRun s = false →
    Accepts (.flxCoefWrite p tag (BitVec.ofNat 16 (0x5C02 + 8 * n.val)) (BitVec.ofNat 8 (k.val + 1)) v) p tag (0x5C02 + 8 * n.val) (k.val + 1) (leBytes 4 v.toNat) s
      fun s u => rd u .FLX_FIR (n.val * 32 + k) = v.toInt ∧ RegsKept s u fun r i => r = .FLX_FIR ∧ i = n.val * 32 + k.val) ∧
  (∀ (p : Path) (tag : Byte) (c : CluNo) (k : Fin 64) (v : BitVec 16) (s : State), Serves p s → inRun s = false →
    Accepts (.flxCoefWrite p tag (BitVec.ofNat 16 (0x4020 + 256 * c.val)) (BitVec.ofNat 8 (k.val + 1)) (v.setWidth 32)) p tag (0x4020 + 256 * c.val)
      (k.val + 1) (leBytes 2 v.toNat) s fun s u => rd u .CLU_FLUX_MTX (c.val * 64 + k) = v.toInt ∧
        RegsKept s u fun r i => r = .CLU_FLUX_MTX ∧ i = c.val * 64 + k.val) ∧
  (∀ (p : Path) (tag : Byte) (index : BitVec 16) (sub : Byte) (v : BitVec 32) (s : State), isFluxCoef index.toNat sub.toNat = none →
    exec (.flxCoefWrite p tag index sub v) s = .next s) ∧
  (∀ (p : Path) (tag : Byte) (n : Fin 128) (v : BitVec 16) (s : State), Serves p s → inRun s = false →
    Accepts (.flxSet p tag n v) p tag (0x5C04 + 8 * n.val) 5 (leBytes 2 v.toNat) s fun s u =>
      if rn s .FLX_ZERO_CAUSE n = 0 then (flxget u n).x = v.toInt * 16777216 ∧ (slget u (1024 + n)).play = none ∧ (slget u (1024 + n)).jumps = []
      else u.fluxes = s.fluxes ∧ rn u .FLX_ZERO_DISCARD n = min 0xFFFFFFFF (rn s .FLX_ZERO_DISCARD n + 1)) ∧
  (∀ (p : Path) (tag : Byte) (n : Fin 256) (v : Word) (s : State), Serves p s → inRun s = false → nfld v.toNat 63 32 = 0 →
    nfld v.toNat 29 24 = 0 → Accepts (.biaSet p tag n v) p tag (0x6000 + 8 * n.val) 6 (leBytes 8 v.toNat) s fun s u =>
      if (biaget s n).mode = .fault then u.biases = s.biases ∧ rn u .BIA_FAULT_DISCARD n = min 0xFFFFFFFF (rn s .BIA_FAULT_DISCARD n + 1)
      else (biaget u n).cmds = (biaget s n).cmds ++ [{ release := s.tml, hold := false, opnd := v }] ∧ RegsKept s u fun _ _ => False) ∧
  (∀ (p : Path) (tag : Byte) (n : Fin 256) (v : Byte) (s : State), Serves p s → v.toNat ≤ 1 → biaState s n = 0 ∨ biaState s n = 2 →
    Accepts (.biaSense p tag n v) p tag (0x6000 + 8 * n.val) 5 [v] s fun s u => rn u .BIA_SENSE n = v.toNat ∧
      RegsKept s u fun r i => r = .BIA_SENSE ∧ i = n.val) ∧
  (∀ (p : Path) (tag : Byte) (v : BitVec 16) (s : State), Serves p s → v.toNat ∈ [3200, 4000, 4800, 5600, 6400] → inRun s = false →
    Accepts (.drmRate p tag v) p tag 0x2401 0 (leBytes 2 v.toNat) s fun s u => rn u .DRM_RATE = v.toNat ∧ rn u .NVM_DIRTY = 1 ∧
      (rn s .DRM_STATE = 0 → rn u .DRM_STATE = 0) ∧ ∀ c, c < 8 →
        (bitOf s.clk.gated c = false → rn s .DRM_CH_STATE c = chReady ∨ rn s .DRM_CH_STATE c = chSelfref → rn u .DRM_CH_STATE c = chTraining) ∧
        (rn s .DRM_CH_STATE c ≠ chReady → rn s .DRM_CH_STATE c ≠ chSelfref → rn u .DRM_CH_STATE c = rn s .DRM_CH_STATE c) ∧
        (bitOf s.clk.gated c = false → rn u .DRM_CH_STATE c = chTraining → rn s .DRM_STATE ≠ 0 → rn u .DRM_STATE = 1)) ∧
  (∀ (p : Path) (tag : Byte) (v : Byte) (s : State), Serves p s → v.toNat ≤ 2 → rn s .DRM_RANGE = 0 ∨ mapFits v.toNat (listed s).length = true →
    inRun s = false → streamState s = 0 → Accepts (.drmMap p tag v) p tag 0x2402 0 [v] s fun s u => rn u .DRM_MAP = v.toNat ∧
      rn u .PKG_IMG_STATE = 0 ∧ rn u .DRM_ARING_SIZE 0 = 0 ∧ rn u .DRM_ARING_SIZE 1 = 0 ∧ rn u .NVM_DIRTY = 1 ∧
      if rn s .DRM_RANGE = 0 ∨ bitOf (rn s .PKG_BOOT_WAIT) 9 = true then u.dram = s.dram ∧ rn u .DRM_STATE = rn s .DRM_STATE
      else WipesNewRange s u) ∧
  (∀ (p : Path) (tag : Byte) (v : BitVec 32) (s : State), Serves p s → tableOk s v.toNat (rn s .DRM_MAP) = true → inRun s = false →
    streamState s = 0 → Accepts (.drmChtab p tag v) p tag 0x2403 0 (leBytes 4 v.toNat) s fun s u => rn u .DRM_CHTAB = v.toNat ∧
      rn u .PKG_IMG_STATE = 0 ∧ rn u .DRM_ARING_SIZE 0 = 0 ∧ rn u .DRM_ARING_SIZE 1 = 0 ∧ rn u .NVM_DIRTY = 1 ∧
      if bitOf (rn s .PKG_BOOT_WAIT) 9 = true then u.dram = s.dram ∧ rn u .DRM_STATE = rn s .DRM_STATE else WipesNewRange s u) ∧
  (∀ (p : Path) (tag : Byte) (v : BitVec 32) (s : State), Serves p s → bistOk s v.toNat = true → inRun s = false → s.dram.bist = none →
    rn s .DRM_STATE ≠ 2 → (bistTarget v.toNat = 2 → poolFree s = 262144) →
    (bistTarget v.toNat = 0 → rn s .DRM_CH_STATE (bistUnit v.toNat) = chReady ∨ rn s .DRM_CH_STATE (bistUnit v.toNat) = chSelfref) →
    Accepts (.drmBistStart p tag v) p tag 0x2460 1 (leBytes 4 v.toNat) s fun s u => rn u .DRM_BIST_CTRL = v.toNat ∧
      if v.toNat % 2 = 0 then u.dram = s.dram ∧ RegsKept s u fun r i => r = .DRM_BIST_CTRL ∧ i = 0
      else u.dram.bist = some v.toNat ∧ rn u .DRM_BIST_STATE = 1 ∧ rn u .DRM_BIST_FAILS = 0 ∧ rn u .DRM_BIST_FIRST = 0 ∧
        rn u .DRM_BIST_MASK = 0 ∧ rn u .PKG_IMG_STATE = if bistUnloads s v.toNat then 0 else rn s .PKG_IMG_STATE) ∧
  (∀ (p : Path) (tag : Byte) (s : State), Serves p s → Accepts (.lnkHlRetrain p tag 1) p tag 0x2510 4 [1] s fun s u => rn u .LNK_HL_STATE = 0 ∧
    rn u .LNK_HL_WIDTH = 0 ∧ (∀ l, l < 16 → rn u .LNK_LN_STATE l = if laneOff s l then 0 else 1) ∧
    (rn s .LNK_HL_STATE = 2 → (qget u 0x2001).words = [] ∧ (qget u 0x2003).words = [] ∧ (qget u 0x2004).words = [] ∧
      u.path1.transfer = none)) ∧
  (∀ (p : Path) (tag : Byte) (v : Byte) (q : Nat) (s : State), Serves p s → q = rn s .LNK_VP_SEL p.val → q < 8 → v.toNat ≤ 1 →
    Accepts (.lnkVpEnable p tag v) p tag 0x2531 1 [v] s fun s u => rn u .LNK_VP_ENABLE q = v.toNat ∧ rn u .NVM_DIRTY = 1 ∧
      (v = 0 → (qget u (portQueue q)).words = [] ∧ rn u .LNK_VP_DISCARD q =
        if (qget s (portQueue q)).words.length + (qget s (portQueue q)).waiting.length = 0 then rn s .LNK_VP_DISCARD q
        else min 0xFFFFFFFF (rn s .LNK_VP_DISCARD q +
          ((qget s (portQueue q)).words.length + (qget s (portQueue q)).waiting.length)))) ∧
  (∀ (p : Path) (tag : Byte) (m : Nat) (s : State), Serves p s → m = rn s .MON_SEL p.val → mauGated s m = false →
    Accepts (.monSeqStart p tag) p tag 0x2381 8 [1] s fun s u =>
      if (mauget s m).seq ≠ none ∨ (mauget s m).held ≠ none
      then u.maus = s.maus ∧ rn u .MON_START_LOST m = min 0xFFFFFFFF (rn s .MON_START_LOST m + 1)
      else mauget u m = (if (mauget s m).calAt ≠ none then { mauget s m with held := some s.elapsed }
        else { mauget s m with seq := some { start := s.elapsed } }) ∧ RegsKept s u fun _ _ => False) ∧
  (∀ (p : Path) (tag : Byte) (m : Nat) (s : State), Serves p s → m = rn s .MON_SEL p.val → mauGated s m = false →
    Accepts (.monSeqStop p tag) p tag 0x2381 8 [2] s fun s u => RegsKept s u (fun _ _ => False) ∧
      ((mauget s m).seq = none → mauget u m = { mauget s m with held := none }) ∧
      ((mauget s m).seq ≠ none → sequenceConverts (mauget s m) = false → (mauget u m).seq = none) ∧
      ∀ x, (mauget s m).seq = some x → sequenceConverts (mauget s m) = true → (mauget u m).seq = some { x with stopping := true }) ∧
  (∀ (p : Path) (tag : Byte) (v : BitVec 32) (m : Nat) (s : State), Serves p s → m = rn s .MON_SEL p.val → mauGated s m = false →
    entryOk m v.toNat = true → entIl v.toNat = false → (mauget s m).inj = none → (mauget s m).calAt = none → (mauget s m).calWait = false →
    Accepts (.monInj p tag v) p tag 0x2384 1 (leBytes 4 v.toNat) s fun s u => rn u .MON_INJ_STATE m = 1 ∧ (mauget u m).busy = true ∧
      (mauget u m).inj = some ({ v := v.toNat }, s.elapsed, !(mauget s m).busy)) ∧
  (∀ (p : Path) (tag : Byte) (m : Nat) (s : State), Serves p s → m = rn s .MON_SEL p.val → mauGated s m = false →
    (mauget s m).calAt = none → (mauget s m).calWait = false → Accepts (.monCalStart p tag) p tag 0x2385 1 [1] s fun s u =>
      if (mauget s m).busy = true then mauget u m = { mauget s m with calWait := true }
      else if (mauget s m).inj = none then
        if (mauget s m).c1 = none then rn u .MON_CAL_STATE m = 2 ∧ (mauget u m).calAt = some s.elapsed ∧ (mauget u m).calWait = false
        else (mauget u m).calWait = true ∧ (mauget u m).calAt = none
      else (mauget u m).calWait = true ∧ (mauget u m).busy = true) ∧
  (∀ (p : Path) (tag : Byte) (index : BitVec 16) (sub : Byte) (bs : List Byte) (row : ObjRow) (i n : Nat) (s w v : State),
    reachable s p = true → pathIdle s p = true → myTurn s p = true → findsRoom p (frameBytes 2 tag index.toNat sub.toNat 0 bs) s = true →
    w = received p (frameBytes 2 tag index.toNat sub.toNat 0 bs) s → findObj index.toNat sub.toNat = .obj row i → row.acc ≠ .ro →
    row.ty.isBytes = false → bs.length = row.ty.size → inRange row.ty row.rng (decodeVal row.ty bs) = true → n = instOf w p row i sub.toNat →
    unserved w row index.toNat n = false → retiredWrite w row (decodeVal row.ty bs) = false →
    writeObject row n (decodeVal row.ty bs) [] w = .ok v →
    exec (.registerWrite p tag index sub bs) s =
      .next (respond p 0x83 tag index.toNat sub.toNat 0 [] (accepted row i sub.toNat n v))) ∧
  (∀ (p : Path) (tag : Byte) (index : BitVec 16) (sub : Byte) (bs : List Byte) (row : ObjRow) (i n code : Nat) (s w : State),
    reachable s p = true → pathIdle s p = true → myTurn s p = true → findsRoom p (frameBytes 2 tag index.toNat sub.toNat 0 bs) s = true →
    w = received p (frameBytes 2 tag index.toNat sub.toNat 0 bs) s → findObj index.toNat sub.toNat = .obj row i → row.acc ≠ .ro →
    row.ty.isBytes = false → bs.length = row.ty.size → inRange row.ty row.rng (decodeVal row.ty bs) = true → n = instOf w p row i sub.toNat →
    unserved w row index.toNat n = false → retiredWrite w row (decodeVal row.ty bs) = false →
    writeObject row n (decodeVal row.ty bs) [] w = .error code → row.reg ≠ .CLU_SEG_DESC →
    exec (.registerWrite p tag index sub bs) s = .next (respondAbort p 2 tag index.toNat sub.toNat code w))

/-- Byte strings of the host: packets pushed, popped and read whole, control-store patches, samples, kernel taps, discriminator tables,
and the DRAM window; no command of a path that cannot reach the server has an effect, and one that is not served at once waits on its path.
That a command sends the segments of a long value itself, and what waits, are the model's choices (logs 56, 59) (R103, R104, R120, R182, R251, R257, R260, R303, R335, R342, R434). -/
def Obligations.ByteStrings : Prop :=
  (∀ (p : Path) (tag : Byte) (q : Nat) (bs : List Byte) (ws : List QWord) (s : State), Serves p s → Alone p s →
    bs.length ≤ 56 ∨ p = 0 → bs.length < 2 ^ 64 → q = rn s .QUE_SEL p.val → hostWrites q = true →
    bs.length % 9 = 0 → pushWords (bs.length / 9) bs = some ws → ws.getLast?.map (·.fin) = some true → longestPacket ws 0 ≤ 65535 →
    qroom s q ws.length = true → (qget s q).openLen = 0 →
    Gives (.quePush p tag bs) s fun t => (qget t q).words = (qget s q).words ++ ws ∧ (qget t q).openLen = 0) ∧
  (∀ (p : Path) (tag : Byte) (q : Nat) (w : QWord) (rest : List QWord) (s : State), Serves p s → s.path0.transfer = none →
    s.path1.transfer = none → q = rn s .QUE_SEL p.val → hostReads q = true → (qget s q).cut = false → wholePackets (qget s q) ≠ 0 →
    (qget s q).words = w :: rest → w.psn = false → w.bad = false → (qget s q).tainted = false → (qget s q).dead = [] →
    ∃ u, exec (.quePop p tag) s = .next (respond p 0x81 tag 0x8006 0 0 (leBytes 8 w.data.toNat ++ [if w.fin then 1 else 0]) u) ∧
      (qget u q).words = rest ∧ ∀ x, x ≠ q → qget u x = qget (received p (frameBytes 1 tag 0x8006 0 0 []) s) x) ∧
  (∀ (p : Path) (tag : Byte) (q : Nat) (s : State), Serves p s → s.path0.transfer = none → s.path1.transfer = none →
    q = rn s .QUE_SEL p.val → hostReads q = true → (qget s q).cut = false → wholePackets (qget s q) = 0 →
    exec (.quePop p tag) s = .next (respond p 0x81 tag 0x8006 0 0 (leBytes 8 0 ++ [2]) (received p (frameBytes 1 tag 0x8006 0 0 []) s))) ∧
  (∀ (p : Path) (tag : Byte) (q : Nat) (ws : List Word) (last : Word) (rest : List QWord) (bs : List Byte) (s : State), Serves p s →
    s.path0.transfer = none → s.path1.transfer = none → q = rn s .QUE_SEL p.val → hostReads q = true → (qget s q).cut = false →
    (qget s q).tainted = false → (qget s q).dead = [] → (qget s q).words = (ws.map fun d => { data := d }) ++ { data := last, fin := true } :: rest →
    bs = (ws.map fun d => leBytes 8 d.toNat ++ [0]).flatten ++ (leBytes 8 last.toNat ++ [1]) →
    ∃ u, (qget u q).words = rest ∧
      if bs.length ≤ 56 then exec (.quePkt p tag) s = .next (respond p 0x81 tag 0x8007 0 0 bs u)
      else exec (.quePkt p tag) s = .next (respond p 0x82 tag 0x8007 0 0 (leBytes 8 bs.length) u) ∧ (pathOf u p).transfer =
        some { write := false, index := 0x8007, sub := 0, inst := q, total := bs.length, first := 0, data := bs, at_ := s.elapsed }) ∧
  (∀ (p : Path) (tag : Byte) (bs : List Byte) (s : State), Serves p s → Alone p s → bs.length ≤ 56 ∨ p = 0 →
    bs.length < 2 ^ 64 → checkDomain bs = .ok () → kindIdle s (domAt bs 4 1) = true → Gives (.mcsPatch p tag bs) s fun t =>
      mget {} t.patches (domAt bs 4 1) = domPatch bs ∧ (∀ k, k ≠ domAt bs 4 1 → mget {} t.patches k = mget {} s.patches k) ∧
      rn t .MCS_LOADS = min 0xFFFFFFFF (rn s .MCS_LOADS + 1)) ∧
  (∀ (p : Path) (tag : Byte) (k : Fin 13) (bs : List Byte) (s : State), Serves p s → Alone p s →
    bs.length ≤ 56 ∨ p = 0 → bs.length < 2 ^ 64 → bs = [] ∨ checkDomain bs = .ok () ∧ domAt bs 4 1 = k.val → Gives (.mcsBootPatch p tag k bs) s fun t =>
      mget [] t.nvm.patches k.val = bs ∧ (∀ j, j ≠ k.val → mget [] t.nvm.patches j = mget [] s.nvm.patches j) ∧ t.patches = s.patches ∧
      rn t .NVM_DIRTY = 1) ∧
  (∀ (p : Path) (tag : Byte) (c : CluNo) (k : Nat) (bs : List Byte) (s : State), Serves p s → Alone p s →
    bs.length ≤ 56 ∨ p = 0 → k = rn s .CLU_SEG_SEL (2 * c + p) → k < 4096 → (sget s c k).len ≠ 0 → bs.length = 4 * (sget s c k).len →
    bs.length < 2 ^ 64 → segBusy s c k = false → Gives (.cluSegData p tag c bs) s fun t =>
      sget t c k = { sget s c k with ready := true, poison := false, filling := false, gen := ((sget s c k).gen + 1) % 256 } ∧
      (∀ j, j < (sget s c k).len → sampleWord t c ((sget s c k).start + j) = leVal ((bs.drop (4 * j)).take 4)) ∧
      ∀ x, x < (sget s c k).start ∨ (sget s c k).start + (sget s c k).len ≤ x → sampleWord t c x = sampleWord s c x) ∧
  (∀ (p : Path) (tag : Byte) (c : CluNo) (o : Nat) (bs : List Byte) (s : State), Serves p s → Alone p s →
    bs.length ≤ 56 ∨ p = 0 → o = rn s .CLU_KRN_OFFSET (2 * c + p) → bs.length % 4 = 0 → o + bs.length / 4 ≤ 81920 → inRun s = false →
    Gives (.cluKrnData p tag c bs) s fun t => (∀ j, j < bs.length / 4 → tapWord t c (o + j) = leVal ((bs.drop (4 * j)).take 4)) ∧
      ∀ x, x < o ∨ o + bs.length / 4 ≤ x → tapWord t c x = tapWord s c x) ∧
  (∀ (p : Path) (tag : Byte) (c : CluNo) (o : Nat) (bs : List Byte) (s : State), Serves p s → Alone p s →
    bs.length ≤ 56 ∨ p = 0 → o = rn s .CLU_DISC_OFFSET (2 * c + p) → bs.length % 8192 = 0 → 8192 * o + bs.length ≤ 262144 →
    bs.all tableByteOk = true → inRun s = false → Gives (.cluDiscData p tag c bs) s fun t =>
      (∀ j, j < bs.length → mget 0 t.tab (c.val * 2 ^ 18 + (8192 * o + j)) = (nthD bs j 0).toNat) ∧
      ∀ x, x < 8192 * o ∨ 8192 * o + bs.length ≤ x → mget 0 t.tab (c.val * 2 ^ 18 + x) = mget 0 s.tab (c.val * 2 ^ 18 + x)) ∧
  (∀ (p : Path) (tag : Byte) (n a : Nat) (s : State), Serves p s → s.path0.transfer = none → s.path1.transfer = none →
    winOk s n = true → rn s .DRM_STATE ≠ 2 → a = rn s .DRM_WIN_ADDR → dramWaits s a n = false → (∀ i, i < n / 8 → (dramWord s (a + 8 * i)).2 = false) →
    ∃ u, exec (.drmWinRead p tag n) s = .next (respond p 0x82 tag 0x2451 0 0 (leBytes 8 n) u) ∧ rn u .DRM_WIN_ADDR = a + n ∧
      u.dram.cells = s.dram.cells ∧ (pathOf u p).transfer =
        some { write := false, index := 0x2451, sub := 0, inst := 0, total := n, first := a, data := [], at_ := s.elapsed }) ∧
  (∀ (p : Path) (tag : Byte) (a : Nat) (bs : List Byte) (s : State), Serves p s → Alone p s →
    bs.length ≤ 56 ∨ p = 0 → winOk s bs.length = true → rn s .DRM_STATE ≠ 2 → a = rn s .DRM_WIN_ADDR → dramWaits s a bs.length = false → Gives (.drmWinWrite p tag bs) s fun t =>
      rn t .DRM_WIN_ADDR = a + bs.length ∧
      t.dram.cells = ((List.range bs.length).foldl (fun u i => dramPutByte (a + i) (nthD bs i 0) u) s).dram.cells) ∧
  (∀ (p : Path) (tag : Byte) (c : CluNo) (k : Fin 13) (bs : List Byte) (s : State), Serves p s → 56 < bs.length →
    ∀ m idx sub, (m, idx, sub) ∈ [(Instr.quePush p tag bs, 0x8005, 0), (.mcsPatch p tag bs, 0x8210, 0), (.mcsBootPatch p tag k bs, 0x8211, k.val + 1),
      (.cluSegData p tag c bs, 0x4012 + 0x100 * c.val, 0), (.cluKrnData p tag c bs, 0x4031 + 0x100 * c.val, 0),
      (.cluDiscData p tag c bs, 0x4033 + 0x100 * c.val, 0), (.drmWinWrite p tag bs, 0x2451, 0)] →
    ∀ f, f = frameBytes 3 tag idx sub 0 (leBytes 8 bs.length) →
      exec m s = .next (sendSegments {} p tag idx sub bs.length false bs (serveFrame {} p f (arrived p f s)))) ∧
  (∀ (p : Path) (tag : Byte) (idx sub k : Nat) (tog : Bool) (bs f : List Byte) (s : State), writing s p idx sub = true →
    f = frameBytes 4 tag idx sub (b2n tog + 2 * b2n (decide (bs.length ≤ pathLimit p))) (bs.take (pathLimit p)) →
    atOnce {} p f s = true → findsRoom p f s = true → sendSegments {} p tag idx sub (k + 1) tog bs s =
      if bs.length ≤ pathLimit p then serveFrame {} p f (arrived p f s)
      else sendSegments {} p tag idx sub k (!tog) (bs.drop (pathLimit p)) (serveFrame {} p f (arrived p f s))) ∧
  (∀ (p : Path) (tag : Byte) (idx sub k : Nat) (tog : Bool) (bs : List Byte) (s : State), writing s p idx sub = false →
    sendSegments {} p tag idx sub k tog bs s = s) ∧
  (∀ (p : Path) (tag : Byte) (b : Byte) (h : BitVec 16) (w : BitVec 32) (v : Word) (bs : List Byte) (n : Nat) (g : RgnNo) (c : CluNo)
    (i3 : Fin 8) (i13 : Fin 13) (i32 : Fin 32) (i64 : Fin 64) (i128 : Fin 128) (i256 : Fin 256) (prb : Bool)
    (busy : List (Fin 25 × Nat)) (s : State),
    reachable s p = false → ∀ m ∈ [Instr.pkgReset p tag h, .clkMgmtSel p tag b, .fmcStart p tag b, .clkGate p tag w busy, .syncArm p tag,
      .syncFire p tag, .syncDisarm p tag, .relock p tag, .load p tag, .unload p tag, .start p tag, .stop p tag, .abort p tag,
      .streamClose p tag, .openStream p tag, .openQueue p tag, .trgArm p tag, .trgDisarm p tag, .rgnProfileReq p tag g b,
      .pkgProfileReq p tag h, .rgnKrnLayout p tag g b, .quePush p tag bs, .quePop p tag, .quePkt p tag, .queCmdFlush p tag,
      .queCmdDrop p tag, .evtChProd p tag i3 h, .timRun p tag i32, .timStop p tag i32, .mcsPatch p tag bs, .mcsBootPatch p tag i13 bs,
      .cluSegDesc p tag c v, .cluSegData p tag c bs, .drvMute p tag prb i64 b, .drvXtap p tag i64 i3 v, .flxCoefWrite p tag h b w,
      .flxSet p tag i128 h, .biaSet p tag i256 v, .biaSense p tag i256 b, .cluKrnData p tag c bs, .cluDiscData p tag c bs,
      .drmRate p tag h, .drmMap p tag b, .drmChtab p tag w, .drmBistStart p tag w, .drmWinRead p tag n, .drmWinWrite p tag bs,
      .lnkHlRetrain p tag b, .lnkVpEnable p tag b, .registerWrite p tag h b bs, .commit p tag, .monSeqStart p tag, .monSeqStop p tag,
      .monInj p tag w, .monCalStart p tag, .thmForceClr p tag b, .resume p tag, .lcsReq p tag b, .lcsConfirm p tag b],
      exec m s = .next s) ∧
  (∀ (p : Path) (tag : Byte) (b : Byte) (h : BitVec 16) (w : BitVec 32) (v : Word) (bs : List Byte) (n : Nat) (g : RgnNo) (c : CluNo)
    (i3 : Fin 8) (i13 : Fin 13) (i32 : Fin 32) (i64 : Fin 64) (i128 : Fin 128) (i256 : Fin 256) (busy : List (Fin 25 × Nat)) (s : State),
    reachable s p = true → ∀ m f, (m, f) ∈ [
      (Instr.pkgReset p tag h, firstFrame tag 0x2002 0 (leBytes 2 h.toNat)), (.clkMgmtSel p tag b, firstFrame tag 0x2201 2 [b]),
      (.fmcStart p tag b, firstFrame tag 0x2220 4 [b]), (.clkGate p tag w busy, firstFrame tag 0x2230 0 (leBytes 4 w.toNat)),
      (.syncArm p tag, firstFrame tag 0x2101 0 [1]), (.syncFire p tag, firstFrame tag 0x2101 0 [2]),
      (.syncDisarm p tag, firstFrame tag 0x2101 0 [3]), (.relock p tag, firstFrame tag 0x2182 0 [1]),
      (.load p tag, firstFrame tag 0x2011 0 [1]), (.unload p tag, firstFrame tag 0x2011 0 [2]),
      (.start p tag, firstFrame tag 0x2018 0 [1]), (.stop p tag, firstFrame tag 0x2018 0 [2]),
      (.abort p tag, firstFrame tag 0x2018 0 [3]), (.streamClose p tag, firstFrame tag 0x8340 0 [0]),
      (.openStream p tag, firstFrame tag 0x8340 0 [1]), (.openQueue p tag, firstFrame tag 0x8340 0 [2]),
      (.trgArm p tag, firstFrame tag 0x8300 0 [1]), (.trgDisarm p tag, firstFrame tag 0x8300 0 [2]),
      (.rgnProfileReq p tag g b, firstFrame tag (0x3000 + 0x100 * g.val) 2 [b]),
      (.pkgProfileReq p tag h, firstFrame tag 0x2020 0 (leBytes 2 h.toNat)),
      (.rgnKrnLayout p tag g b, firstFrame tag (0x3000 + 0x100 * g.val) 9 [b]), (.quePush p tag bs, firstFrame tag 0x8005 0 bs),
      (.queCmdFlush p tag, firstFrame tag 0x8004 0 [1]), (.queCmdDrop p tag, firstFrame tag 0x8004 0 [2]),
      (.evtChProd p tag i3 h, firstFrame tag 0x8101 (i3.val + 1) (leBytes 2 h.toNat)),
      (.timRun p tag i32, firstFrame tag (0x8140 + i32.val) 1 [1]), (.timStop p tag i32, firstFrame tag (0x8140 + i32.val) 1 [0]),
      (.mcsPatch p tag bs, firstFrame tag 0x8210 0 bs), (.mcsBootPatch p tag i13 bs, firstFrame tag 0x8211 (i13.val + 1) bs),
      (.cluSegDesc p tag c v, firstFrame tag (0x4011 + 0x100 * c.val) 1 (leBytes 8 v.toNat)),
      (.cluSegData p tag c bs, firstFrame tag (0x4012 + 0x100 * c.val) 0 bs),
      (.drvMute p tag false i64 b, firstFrame tag (0x5000 + 0x20 * i64.val) 2 [b]),
      (.drvXtap p tag i64 i3 v, firstFrame tag (0x5001 + 0x20 * i64.val) (i3.val + 1) (leBytes 8 v.toNat)),
      (.flxSet p tag i128 h, firstFrame tag (0x5C04 + 8 * i128.val) 5 (leBytes 2 h.toNat)),
      (.biaSet p tag i256 v, firstFrame tag (0x6000 + 8 * i256.val) 6 (leBytes 8 v.toNat)),
      (.biaSense p tag i256 b, firstFrame tag (0x6000 + 8 * i256.val) 5 [b]),
      (.cluKrnData p tag c bs, firstFrame tag (0x4031 + 0x100 * c.val) 0 bs),
      (.cluDiscData p tag c bs, firstFrame tag (0x4033 + 0x100 * c.val) 0 bs),
      (.drmRate p tag h, firstFrame tag 0x2401 0 (leBytes 2 h.toNat)), (.drmMap p tag b, firstFrame tag 0x2402 0 [b]),
      (.drmChtab p tag w, firstFrame tag 0x2403 0 (leBytes 4 w.toNat)),
      (.drmBistStart p tag w, firstFrame tag 0x2460 1 (leBytes 4 w.toNat)), (.drmWinWrite p tag bs, firstFrame tag 0x2451 0 bs),
      (.lnkHlRetrain p tag b, firstFrame tag 0x2510 4 [b]), (.lnkVpEnable p tag b, firstFrame tag 0x2531 1 [b]),
      (.registerWrite p tag h b bs, firstFrame tag h.toNat b.toNat bs), (.commit p tag, firstFrame tag 0x2700 0 [1]),
      (.monSeqStart p tag, firstFrame tag 0x2381 8 [1]), (.monSeqStop p tag, firstFrame tag 0x2381 8 [2]),
      (.monInj p tag w, firstFrame tag 0x2384 1 (leBytes 4 w.toNat)), (.monCalStart p tag, firstFrame tag 0x2385 1 [1]),
      (.thmForceClr p tag b, firstFrame tag 0x2302 0 [b]), (.resume p tag, firstFrame tag 0x2301 0 [1]),
      (.lcsReq p tag b, firstFrame tag 0x2713 0 [b]), (.lcsConfirm p tag b, firstFrame tag 0x2714 0 [b]),
      (.quePop p tag, frameBytes 1 tag 0x8006 0 0 []), (.quePkt p tag, frameBytes 1 tag 0x8007 0 0 []),
      (.drmWinRead p tag n, frameBytes 1 tag 0x2451 0 0 [])] →
      pathIdle s p = false ∨ myTurn s p = false ∨ findsRoom p f s = false → exec m s = .next (enqueue p f s)) ∧
  (∀ (p : Path) (tag : Byte) (n : Fin 16) (b : Byte) (s : State), reachable s p = true → pathIdle s p = false ∨ myTurn s p = false →
    exec (.drvMute p tag true ⟨n, by omega⟩ b) s = .next (enqueue p (firstFrame tag (0x5800 + 0x20 * n.val) 2 [b]) s)) ∧
  (∀ (p : Path) (tag : Byte) (index : BitVec 16) (sub : Byte) (v : BitVec 32) (ty : ObjType) (s : State), reachable s p = true →
    isFluxCoef index.toNat sub.toNat = some ty → pathIdle s p = false ∨ myTurn s p = false → exec (.flxCoefWrite p tag index sub v) s =
      .next (enqueue p (firstFrame tag index.toNat sub.toNat (leBytes ty.size v.toNat)) s)) ∧
  (∀ (p : Path) (bs : List Byte) (s : State), enqueue p bs s = if p = 0
    then (if 4 ≤ s.path0.requests.length then inc .LNK_CAN_RX_OVERFLOW 0 s
      else { s with path0 := { s.path0 with requests := s.path0.requests ++ [bs] } })
    else acceptMgt (word ((vcget s 0).expect * 2 ^ 52 + (frameWords bs).length * 2 ^ 40 + bs.length) :: frameWords bs)
      (vcset 0 { vcget s 0 with got := (vcget s 0).got + 1 + (frameWords bs).length } s))

/-! ### What nothing else changes -/

/-- Every row of the package's agents changes what its rules name and nothing else: each other part of the state and each other
object is as it was, every byte of the DRAM and of the cluster memories among them (log 4). The two Leaves clauses are of the rows
that write objects by name from the NVM image or from the counters that a shot closes; the four resets have a statement of their own. -/
def Obligations.AgentsChangeNothingElse : Prop :=
  (∀ stdly node, ChangesOnly (.powerGood stdly node) [[.boot]] [[.CLK_STDLY, .PKG_STRAPS]]) ∧
  (∀ a b parityOk, ChangesOnly (.fuseRead a b parityOk) [faultPieces, [.boot, .cool]] [faultObjs, [.PKG_SERIAL, .LNK_CAN_NODE,
    .LNK_CAN_NODE_SRC, .MON_CAL_OFS, .MON_CAL_GAIN, .THM_COMP_PT, .FLT_FUSE_ERROR, .PKG_MILESTONE]]) ∧
  ChangesOnly .memoryWipeDone [[.boot]] [[.PKG_MILESTONE]] ∧
  (∀ answers mbit, Leaves (.nvmBootRead answers mbit) [.pending, .elapsed, .free, .tml, .tmlOn, .fifos, .areas, .run,
    .image, .deliveries, .timers, .markers, .lastPath, .scrubAt, .dram, .segMem, .segBad, .refills, .slices, .frames, .tapBad,
    .fluxes, .biases, .biasAt, .regions, .bdQual, .rfQualAt, .reads, .traces, .acqs, .krn, .krnBad, .tab, .tabBad, .crossings,
    .sets, .incs, .trig, .board, .bres, .vre, .ptp, .maus, .therms, .cool, .dramBytes]) ∧
  (∀ c ∈ [Instr.xtaStartDelay, .xtbStartDelay, .syncOutPulse, .syncInEdge, .syncOutPulseEnd], ChangesOnly c [[.clk]] []) ∧
  ChangesOnly .trefSelect [[.tml, .tmlOn, .stream, .clk]] [[.TML_REF_SOURCE, .PKG_STATE, .PKG_BOOT_WAIT, .PKG_MILESTONE]] ∧
  (∀ m ppm other locked, ChangesOnly (.monitorWindow m ppm other locked) [downPieces, trainPieces, freePieces, [.fifos, .run,
    .markers, .slices, .fluxes, .bdQual, .rfQualAt, .reads, .traces, .acqs, .clk, .vports, .cool]] [downObjs, trainObjs, freeObjs,
    [.DRV_MUTE_CAUSE, .FLX_ZERO_CAUSE, .PRB_MUTE_CAUSE, .ACQ_CAL_ABANDON, .QUE_EF_FLUSHED, .DRM_CH_TRAIN, .LNK_LN_LOL,
    .LNK_VP_STATE, .LNK_VP_DISCARD, .TNW_FIO, .CLK_MGMT_SRC, .CLK_MGMT_HOLD, .CLK_TREF_LOST, .CLK_SIO_FAULT, .CLK_FIO_FAULT,
    .CLK_BD_LOST, .CLK_BD_LOSSES, .CLK_MON_STATE, .CLK_MON_TRIPPED, .CLK_MON_TRIPS, .CLK_MON_LAST_PPM, .CLK_MON_QUAL_GRAIN]]) ∧
  (∀ ups, ChangesOnly (.timelineCopyCompare ups) [faultPieces, [.fifos, .run, .markers, .slices, .fluxes, .bdQual, .reads, .traces, .acqs,
    .clk]] [faultObjs, [.TML_COPY_FAULT, .DRV_MUTE_CAUSE, .FLX_ZERO_CAUSE, .PRB_MUTE_CAUSE, .ACQ_CAL_ABANDON, .QUE_EF_FLUSHED,
    .CLK_TREF_LOST, .CLK_BD_LOST, .CLK_BD_LOSSES, .CLK_MON_STATE, .CLK_MON_TRIPPED, .CLK_MON_TRIPS]]) ∧
  (∀ d count, ChangesOnly (.bdRefTick d count) [faultPieces, [.bdQual, .clk]] [faultObjs, [.CLK_BD_LOST, .CLK_BD_LOSSES, .PKG_STATE,
    .PKG_BOOT_WAIT, .PKG_MILESTONE]]) ∧
  (∀ d, ChangesOnly (.converterCalibrationDone d) [[.clk]] [[.DRV_MUTE_CAUSE, .PRB_MUTE_CAUSE, .PKG_STATE, .PKG_BOOT_WAIT,
    .PKG_MILESTONE]]) ∧
  (∀ count, ChangesOnly (.fmcDone count) [] [[.CLK_FMC_STATE, .CLK_FMC_COUNT, .CLK_FMC_FREQ, .CLK_FMC_PPM]]) ∧
  (∀ group, ChangesOnly (.gateForceClose group) [downPieces, trainPieces, freePieces, [.free, .clk, .vports, .maus]] [downObjs, trainObjs, freeObjs,
    [.DRM_BIST_STATE, .DRM_BIST_FAILS, .DRM_BIST_FIRST, .DRM_BIST_MASK, .LNK_VP_STATE, .LNK_VP_DISCARD, .TNW_SLAVE_PORT, .TNW_GM_ID, .TNW_TP_LINK, .TNW_MASTER_LOSSES, .CLK_FORCED_GATE,
    .MON_INJ_STATE]]) ∧
  ChangesOnly .vidfChange [[.cool]] [[.RGN_FABRIC_MV]] ∧
  ChangesOnly .alignment [[.tml, .fifos, .run, .timers, .markers, .slices, .frames, .biases, .biasAt, .regions, .rfQualAt, .acqs,
    .stream, .trig, .clk]] [[.TML_SYNC_STATE,
    .TML_SYNC_COUNT, .TML_EPOCH_S, .TML_EPOCH_NS, .TML_EPOCH_FRAC, .TRG_BACKLOG_PEAK, .TRG_GAPS, .TRG_CLOSED_DISCARD,
    .TIM_SKIPPED]] ∧
  ChangesOnly .loadComplete [[.areas, .image, .dram, .segs, .segMem, .segBad, .refills, .tapBad, .fluxes, .krn, .krnBad, .tab, .tabBad]]
    [[.PKG_IMG_STATE, .PKG_IMG_ERROR, .PKG_IMG_ID, .PKG_IMG_DONE, .DRM_P_PANICS, .DRV_XTAP, .FLX_ALPHA, .FLX_BETA, .FLX_FIR, .CLU_FLUX_MTX,
    .CLU_BR_ENTRY, .CLU_BR_MAP, .RGN_KRN_LAYOUT, .DRM_CH_PAR_ERR, .DRM_CH_FIRST_PAR, .DRM_CH_FENCE_READS, .DRM_P_FENCE_HIT]] ∧
  (∀ e, ChangesOnly (.scheduleFetchChunk e) [[.areas, .dram]] [[.DRM_CH_PAR_ERR, .DRM_CH_FIRST_PAR, .DRM_CH_FENCE_READS,
    .DRM_P_PANICS, .DRM_P_FENCE_HIT]]) ∧
  (∀ e, ChangesOnly (.schedulePacketDelivery e) [wordPieces, [.engs, .areas]] [wordObjs, [.PKG_NO_END]]) ∧
  (∀ e mcBad, ∀ c ∈ [Instr.schedNop e mcBad, .schedPlay e mcBad, .schedJump e mcBad, .schedHold e mcBad, .schedFreq e mcBad,
    .schedPhase e mcBad, .schedFlux e mcBad, .schedBias e mcBad, .schedCapture e mcBad, .schedMark e mcBad, .schedAlt e mcBad,
    .schedSelect e mcBad, .schedRaise e mcBad, .schedLoop e mcBad], ChangesOnlyFrom (NoRoutine e) c [packetPieces] [packetObjs]) ∧
  (∀ e mcBad, ChangesOnlyFrom (NoRoutine e) (.schedWaitevt e mcBad) [packetPieces] [packetObjs, [.EVT_FOREIGN_WAIT]]) ∧
  (∀ e mcBad, ChangesOnlyFrom (NoRoutine e) (.schedBranch e mcBad) [packetPieces, [.incs, .bres]] [packetObjs, [.CLU_FB_ARMS]]) ∧
  (∀ e mcBad, ∀ c ∈ [Instr.schedBoundary e mcBad, .schedEnd e mcBad], ChangesOnlyFrom (NoRoutine e) c [packetPieces] [packetObjs,
    [.PKG_FABRIC_SHOT, .PKG_BARRIER_LATE, .PKG_BOUNDARY_MISMATCH, .PKG_BARRIER_SLACK, .ENG_BARRIER_MIN]]) ∧
  (∀ e mcBad, ∀ c ∈ [Instr.schedNop e mcBad, .schedPlay e mcBad, .schedJump e mcBad, .schedHold e mcBad, .schedFreq e mcBad,
    .schedPhase e mcBad, .schedFlux e mcBad, .schedBias e mcBad, .schedCapture e mcBad, .schedMark e mcBad, .schedAlt e mcBad,
    .schedSelect e mcBad, .schedRaise e mcBad, .schedLoop e mcBad, .schedWaitevt e mcBad, .schedBoundary e mcBad,
    .schedEnd e mcBad], ChangesOnly c [routinePieces] [routineObjs]) ∧
  (∀ e mcBad, ChangesOnly (.schedBranch e mcBad) [routinePieces, [.incs]] [routineObjs, [.CLU_FB_ARMS]]) ∧
  (∀ e, ChangesOnly (.barrierRelease e) [[.free, .engs]] [[.ENG_STARVE]]) ∧
  (∀ e, ChangesOnly (.fifoWaitEnd e) [[.free, .fifos, .engs]] [[.ENG_STARVE]]) ∧
  (∀ f, ChangesOnly (.edgeCommandArrival f) [faultPieces, [.fifos, .run, .acqs]] [faultObjs, [.TML_LATE, .TML_FAR, .TML_ORDER,
    .TML_ILLEGAL, .TML_FIRST_FIFO, .TML_FIRST_SHOT, .TML_FIRST_RELEASE, .TML_FIRST_ARRIVAL, .TML_FIRST_OPCODE, .TML_LATE_FLAG,
    .TML_F_LATE, .TML_F_FAR, .TML_F_ILLEGAL, .TML_F_INACTIVE, .ENG_DISCARD, .ACQ_CAL_ABANDON, .QUE_EF_FLUSHED]]) ∧
  (∀ f bad, ChangesOnly (.edgeFifoRead f bad) [passPieces, [.fifos]] [passObjs, [.QUE_EF_POISON]]) ∧
  (∀ f badAt, ChangesOnly (.play f badAt) [passPieces, [.fifos]] [passObjs, [.TML_FINE_IGNORED, .TON_NOT_READY, .CLU_REFILL_UNDERRUN,
    .FLX_ZERO_DISCARD]]) ∧
  (∀ f, ChangesOnly (.jump f) [passPieces, [.fifos]] [passObjs, [.TML_FINE_IGNORED, .TON_LATE_JUMP]]) ∧
  (∀ f, ChangesOnly (.hold f) [passPieces, [.fifos, .biases]] [passObjs, [.TML_FINE_IGNORED, .BIA_FAULT_DISCARD]]) ∧
  (∀ f, ∀ c ∈ [Instr.freq f, .phase f], ChangesOnly c [[.fifos, .frames]] [[.TML_FINE_IGNORED, .TON_FREQ, .TON_FRAME]]) ∧
  (∀ f, ChangesOnly (.flux f) [passPieces, [.fifos]] [passObjs, [.TML_FINE_IGNORED, .FLX_ZERO_DISCARD]]) ∧
  (∀ f, ChangesOnly (.bias f) [[.fifos, .biases]] [[.TML_FINE_IGNORED, .BIA_FAULT_DISCARD]]) ∧
  (∀ f, ChangesOnly (.capture f) [[.fifos, .reads, .traces, .sets]] [[.TML_FINE_IGNORED]]) ∧
  (∀ f, ChangesOnly (.mark f) [[.fifos, .channels, .markers]] [[.TML_FINE_IGNORED, .TML_MARK_COLLIDE]]) ∧
  (∀ f, ChangesOnly (.stage f) [[.fifos]] [[.TML_FINE_IGNORED]]) ∧
  (∀ f, ChangesOnly (.select f) [faultPieces, [.fifos, .run, .incs, .bres]] [faultObjs, [.TML_ILLEGAL, .TML_FINE_IGNORED,
    .TML_F_ILLEGAL, .CLU_FB_CHOSEN, .CLU_FB_DEFAULT, .CLU_FB_ALT]]) ∧
  (∀ f, ChangesOnly (.jumpSamplingPoint f) [passPieces] [passObjs]) ∧
  (∀ f badAt, ChangesOnly (.segmentBoundary f badAt) [passPieces] [passObjs, [.TON_NOT_READY, .CLU_REFILL_UNDERRUN]]) ∧
  (∀ c, ∀ cmd ∈ [Instr.markPulseEnd c, .trussPulseStart c, .trussPulseEnd c], ChangesOnly cmd [[.markers]] []) ∧
  (∀ n tap, ChangesOnly (.tapParityFailure n tap) [faultPieces, [.run, .tapBad]] [faultObjs, [.DRV_TAP_POISON]]) ∧
  (∀ limited senseBad, ChangesOnly (.biasUpdate limited senseBad) [[.biases, .biasAt]] [[.BIA_CODE, .BIA_TARGET, .BIA_RANGE,
    .BIA_REPLACED, .BIA_RANGE_CHANGES, .BIA_ILIMIT, .BIA_ILIMIT_COUNT, .BIA_SENSE_FAULT]]) ∧
  (∀ d, ChangesOnly (.biasSafeLoad d) [[.biases]] [[.BIA_CODE, .BIA_RANGE]]) ∧
  (∀ t xs bad, ChangesOnly (.windowClose t xs bad) [faultPieces, [.engs, .run, .regions, .reads, .incs]] [faultObjs, [.TON_LAST_I,
    .TON_LAST_Q, .TON_LAST_VERDICT, .TON_LAST_FLAGS, .TON_RESULTS, .TON_CAP_OVERLAP, .TON_DEMOD_FAULT, .TON_SAT, .TON_EDGE,
    .TON_LOWCONF, .ACQ_NBR_OVR, .ACQ_PEAK]]) ∧
  (∀ c xs full, ChangesOnly (.traceWindowClose c xs full) [faultPieces, [.engs, .run, .regions, .traces, .crossings, .sets]]
    [faultObjs, [.ACQ_PEAK, .TRG_TRACE_BUSY, .TRG_CROSS_DROP]]) ∧
  (∀ t marks, ChangesOnly (.verdictOutput t marks) [faultPieces, [.run, .reads, .crossings, .sets, .board, .vre]] [faultObjs,
    [.TRG_CROSS_DROP, .CLU_FB_STRAY]]) ∧
  (∀ a, ChangesOnly (.hotTrip a) [[.acqs]] [[.ACQ_HOT, .ACQ_HOT_COUNT]]) ∧
  (∀ a, ChangesOnly (.hotRelease a) [[.acqs]] []) ∧
  (∀ a, ChangesOnly (.acqCalStepStart a) [[.acqs]] [[.ACQ_CAL_DEFER]]) ∧
  (∀ a, ChangesOnly (.acqCalStepDone a) [[.acqs]] [[.ACQ_CAL_STATE, .ACQ_CAL_STEP, .ACQ_CAL_PASSES]]) ∧
  (∀ a, ChangesOnly (.acqCalStale a) [] [[.ACQ_CAL_STATE, .ACQ_CAL_STALE]]) ∧
  (∀ c, ChangesOnly (.haltRaise c) [[.engs, .regions]] [[.RGN_HALTS]]) ∧
  Leaves .shotBoundary [.pending, .elapsed, .free, .tml, .tmlOn, .poolLost, .areas, .image, .patches, .deliveries, .timers, .markers,
    .path0, .path1, .lastPath, .nvm, .boot, .scrubAt, .dram, .segMem, .segBad, .tapBad, .biases, .biasAt, .bdQual, .rfQualAt, .acqs,
    .krn, .krnBad, .tab, .tabBad, .crossings, .stream, .trig, .vre, .clk, .ptp, .lanes, .hl, .vports, .maus, .therms, .dramBytes] ∧
  (∀ c, ChangesOnly (.recordArrival c) [[.crossings, .sets]] [[.TRG_STAGING_FULL]]) ∧
  (∀ shot, ChangesOnly (.setComplete shot) [[.sets, .stream]] [[.TRG_BACKLOG_PEAK, .TRG_GAPS, .TRG_GAP_SHOTS, .TRG_CLOSED_DISCARD]]) ∧
  ChangesOnly .streamPacketSend [wordPieces, [.dram, .stream, .hl]] [wordObjs, [.TRG_RECORDS, .DRM_P_PANICS, .DRM_P_DROP,
    .DRM_ARING_WPTR, .DRM_ARING_WRAPS]] ∧
  ChangesOnly .recordToQueue [wordPieces, [.dram, .stream]] [wordObjs, [.TRG_RECORDS, .DRM_P_PANICS, .DRM_P_DROP,
    .DRM_ARING_WPTR, .DRM_ARING_WRAPS]] ∧
  (∀ n m before xs, ChangesOnly (.conditionCrossing n m before xs) [[.trig]] [[.TRG_COND_COUNT]]) ∧
  (∀ pin rising code, ChangesOnly (.trigInEdge pin rising code) [[.trig]] [[.TRG_COND_COUNT, .TRG_COND_DEAD]]) ∧
  (∀ m, ChangesOnly (.triggerFire m) [[.channels, .stream, .trig, .vre]] [[.TRG_STATE, .TRG_FIRE_GRAIN, .TRG_FIRE_TICK,
    .TRG_FIRE_COND, .TRG_FIRE_ORIGIN, .TRG_FIRES, .TRG_COINCIDE, .TRG_BACKLOG_PEAK, .TRG_GAPS, .TRG_CLOSED_DISCARD]]) ∧
  (∀ c ∈ [Instr.armGrainReached, .disarmMessage], ChangesOnly c [[.trig]] [[.TRG_STATE]]) ∧
  ChangesOnly .armMessage [[.trig]] [[.TRG_STATE, .TRG_ARM_SEQ, .TRG_ARMS, .TRG_ARM_LATE]] ∧
  ChangesOnly .fireMessage [[.channels, .stream, .trig]] [[.TRG_STATE, .TRG_FIRE_GRAIN, .TRG_FIRE_TICK, .TRG_FIRE_COND,
    .TRG_FIRE_ORIGIN, .TRG_REMOTE_FIRES, .TRG_RACE, .TRG_STALE_FIRE, .TRG_BACKLOG_PEAK, .TRG_GAPS, .TRG_CLOSED_DISCARD]] ∧
  (∀ c, ChangesOnly (.captureEventWindow c) [[.traces, .sets]] [[.TRG_CAPSTARTS, .TRG_CAPBUSY]]) ∧
  (∀ d bad, ChangesOnly (.verdictBusMessage d bad) [[.board, .vre]] [[.CLU_FB_STRAY]]) ∧
  ChangesOnly .vreMessage [wordPieces, [.trig, .vre]] [wordObjs, [.LNK_V_HOPLIMIT, .LNK_V_NOROUTE]] ∧
  (∀ q, ChangesOnly (.verdictBlockSend q) [clearPieces, [.poolLost, .lanes, .vports]] [clearObjs, [.LNK_V_SENT, .QUE_POISON,
    .QUE_BROKEN]]) ∧
  (∀ lane, ChangesOnly (.verdictBlockReceive lane) [faultPieces, [.poolLost, .vre, .lanes, .vports]] [faultObjs, [.QUE_FLUSHES, .LNK_V_RECEIVED,
    .LNK_V_DUPLICATE, .LNK_V_LOST, .LNK_LN_STATE, .LNK_LN_DOWNS, .LNK_VIOL_LAST, .LNK_VP_STATE, .LNK_VP_VIOL, .LNK_VP_RETRAINS,
    .LNK_VP_DISCARD]]) ∧
  (∀ c slot bad, ChangesOnly (.breChoice c slot bad) [[.board, .bres]] [[.CLU_FB_INVALID, .CLU_FB_OVERWRITTEN]]) ∧
  (∀ c slot, ChangesOnly (.selectRegisterTake c slot) [[.bres]] [[.CLU_FB_CHOICE_LATE, .CLU_FB_SLACK]]) ∧
  (∀ c slot, ChangesOnly (.armingDeadline c slot) [[.bres]] [[.CLU_FB_MISSING]]) ∧
  (∀ g, ChangesOnly (.profileChange g) [[.fifos, .engs, .slices, .fluxes, .regions, .reads, .traces]] [[.TML_F_INACTIVE,
    .DRV_MUTE_CAUSE, .PRB_MUTE_CAUSE, .RGN_PROFILE, .RGN_CHANGE_GRAIN, .RGN_CHANGES, .RGN_FORCED_CHANGES, .RGN_FABRIC_MV,
    .QUE_EF_FLUSHED]]) ∧
  (∀ g, ChangesOnly (.profileMuteEnd g) [[.fluxes, .regions]] [[.DRV_MUTE_CAUSE, .PRB_MUTE_CAUSE, .RGN_FABRIC_MV]]) ∧
  (∀ q writer w tags bad, ChangesOnly (.queueWrite q writer w tags bad) [wordPieces] [wordObjs]) ∧
  (∀ q, ChangesOnly (.waitingWriteResume q) [clearPieces] [wordObjs]) ∧
  (∀ q bad brokenLink, ChangesOnly (.queueRead q bad brokenLink) [clearPieces, [.poolLost]] [clearObjs, [.QUE_POISON, .QUE_BROKEN]]) ∧
  (∀ q, ChangesOnly (.queueDrop q) [clearPieces] [clearObjs, [.QUE_DROPPED]]) ∧
  (∀ q, ChangesOnly (.queueFlush q) [flushPieces] [clearObjs, [.QUE_FLUSH_CUTS, .QUE_FLUSHES]]) ∧
  (∀ ch, ChangesOnly (.channelEvent ch) [[.channels, .deliveries]] [[.EVT_CH_COUNT, .EVT_CH_MERGED, .EVT_CH_LAST]]) ∧
  (∀ con, ChangesOnly (.eventDelivery con) [[.engs, .deliveries, .markers, .traces, .trig, .vre, .maus]] [[.TRG_STATE, .TRG_ARM_SEQ,
    .TRG_ARMS, .TRG_CAPBUSY, .EVT_CON_OVR, .EVT_CON_OVR_COUNT, .EVT_CON_COINC, .EVT_CON_TAKEN, .MON_START_LOST]]) ∧
  (∀ n, ChangesOnly (.timerFire n) [[.channels, .timers, .maus]] [[.TIM_CTRL, .TIM_FIRES, .MON_START_LOST]]) ∧
  (∀ k ramFault, ChangesOnly (.engineRestart k ramFault) [faultPieces, [.poolLost, .engs, .cool, .patches, .path0, .path1, .lastPath, .dram, .segs,
    .segMem, .segBad, .krn, .krnBad, .tab, .tabBad, .stream, .vre, .dramBytes]] [faultObjs, [.MCS_FAULT, .QUE_FLUSHES, .QUE_POISON,
    .QUE_BROKEN, .DRM_BIST_STATE, .LNK_UPL_PENDING, .LNK_YDP_REQUESTS, .LNK_YDP_ABORTS, .LNK_YDP_LAST_ABORT, .LNK_YDP_LAST_OBJ,
    .LNK_YDP_ABANDONED, .FLT_UPLOAD_LOST]]) ∧
  (∀ c, ChangesOnly (.refillEntryStart c) [[.dram, .segs, .refills]] [[.DRM_P_PANICS]]) ∧
  (∀ c, ChangesOnly (.refillEntryDone c) [[.dram, .segs, .segMem, .segBad, .refills]] [[.CLU_REFILL_DONE, .CLU_SEG_POISONED,
    .DRM_CH_PAR_ERR, .DRM_CH_FIRST_PAR, .DRM_CH_FENCE_READS, .DRM_P_PANICS, .DRM_P_FENCE_HIT]]) ∧
  (∀ ch ok org, ChangesOnly (.trainingStepDone ch ok org) [trainPieces, faultPieces] [trainObjs, faultObjs, [.DRM_CH_ORG,
    .DRM_CH_TRAIN, .DRM_CH_RESTARTED, .DRM_CH_RESTARTS]]) ∧
  (∀ ch, ChangesOnly (.retrainStepStart ch) [[.dram]] []) ∧
  (∀ ch ok, ChangesOnly (.retrainStepDone ch ok) [faultPieces, [.dram]] [faultObjs, [.DRM_STATE, .DRM_WIPE_TOTAL, .DRM_CH_STATE,
    .DRM_CH_TRAIN, .DRM_CH_RETRAINS]]) ∧
  (∀ ch, ChangesOnly (.retrainAbandon ch) [[.dram]] [[.DRM_CH_RETRAIN_ABANDON]]) ∧
  (∀ ch reqs badWords, ChangesOnly (.dramBurst ch reqs badWords) [[.dram, .dramBytes]] [[.DRM_CH_PAR_ERR, .DRM_CH_FIRST_PAR,
    .DRM_CH_FENCE_READS, .DRM_CH_FENCE_WRITES, .DRM_P_PANICS, .DRM_P_FENCE_HIT]]) ∧
  (∀ ch rank, ChangesOnly (.refreshDue ch rank) [[.dram]] [[.DRM_CH_REF_FORCED]]) ∧
  (∀ hot err, ChangesOnly (.mr4Poll hot err) [faultPieces, [.dram]] [faultObjs, [.DRM_CH_HOT, .DRM_CH_TEMP_ERR]]) ∧
  ChangesOnly .wipeComplete [[.boot, .dram, .dramBytes]] [[.DRM_STATE, .DRM_WIPE_DONE, .LCS_RESULT, .PKG_STATE, .PKG_BOOT_WAIT,
    .PKG_MILESTONE]] ∧
  (∀ at_ data par, ChangesOnly (.bistDone at_ data par) [[.dram, .segs, .segMem, .segBad, .krn, .krnBad, .tab, .tabBad, .dramBytes]] [[.PKG_IMG_STATE,
    .DRM_BIST_STATE, .DRM_BIST_FAILS, .DRM_BIST_FIRST, .DRM_BIST_MASK]]) ∧
  (∀ lane raw more, ChangesOnly (.blockReceive lane raw more) [downPieces, [.vports]] [downObjs, [.LNK_LN_LOL, .LNK_LN_BAD, .LNK_LN_SHIM_DEL, .LNK_LN_SHIM_INS, .LNK_LN_ELASTIC, .LNK_NAK_TX, .LNK_VIOL,
    .LNK_VIOL_LAST, .LNK_RETRAINS, .LNK_VP_STATE, .LNK_VP_PARTNER, .LNK_VP_VIOL, .LNK_VP_RETRAINS, .LNK_VP_REJECT_RX,
    .LNK_VP_DISCARD]]) ∧
  (∀ lane ppm, ChangesOnly (.ppmMeasure lane ppm) [[.lanes]] [[.LNK_LN_PPM]]) ∧
  (∀ lane, ChangesOnly (.lossOfSignal lane) [downPieces, [.vports]] [downObjs, [.LNK_LN_LOS, .LNK_VP_STATE, .LNK_VP_DISCARD]]) ∧
  (∀ lane, ChangesOnly (.lossOfLock lane) [downPieces, [.vports]] [downObjs, [.LNK_LN_LOL, .LNK_VP_STATE, .LNK_VP_DISCARD]]) ∧
  ChangesOnly .linkPacketReceive [downPieces] [downObjs, [.LNK_MGT_RX, .LNK_UPL_RX, .LNK_NAK_TX,
    .LNK_VIOL, .LNK_VIOL_LAST, .LNK_RETRAINS, .LNK_UPL_PENDING]] ∧
  (∀ c ∈ [Instr.ack, .credit], ChangesOnly c [downPieces] [downObjs, [.LNK_NAK_TX, .LNK_VIOL, .LNK_VIOL_LAST,
    .LNK_RETRAINS]]) ∧
  ChangesOnly .nak [downPieces] [downObjs, [.LNK_NAK_TX, .LNK_NAK_RX, .LNK_VIOL, .LNK_VIOL_LAST, .LNK_RETRAINS]] ∧
  (∀ c ∈ [Instr.ackSend, .creditSend], ChangesOnly c [wordPieces, [.hl]] [wordObjs]) ∧
  ChangesOnly .retransmitTimeout [downPieces] [downObjs, [.LNK_RETRAINS]] ∧
  ChangesOnly .uploadWrite [clearPieces, [.poolLost, .dram, .dramBytes]] [clearObjs, [.QUE_POISON, .QUE_BROKEN, .DRM_CH_FENCE_WRITES,
    .DRM_P_FENCE_HIT, .LNK_UPL_BYTES, .LNK_UPL_PENDING, .LNK_UPL_REFUSED, .LNK_UPL_REFUSE_ADDR, .LNK_UPL_REFUSE_WHY]] ∧
  (∀ p, ChangesOnly (.segmentTimeout p) [[.path0, .path1, .segs]] [[.LNK_YDP_ABANDONED, .LNK_YDP_TIMEOUTS]]) ∧
  ChangesOnly .nvmEraseDone [[.nvm]] [[.NVM_COMMIT_STATE]] ∧
  (∀ ok, ChangesOnly (.pageProgramDone ok) [[.nvm]] [[.NVM_COMMIT_STATE, .NVM_DIRTY, .NVM_ACTIVE_BANK, .NVM_ACTIVE_SEQ,
    .NVM_COMMIT_PAGES, .NVM_COMMITS, .NVM_COMMIT_FAILS]]) ∧
  (∀ port fr, ChangesOnly (.ptpFrameReceive port fr) [[.ptp]] [[.TNW_TC_DROP, .TNW_RX_DROP, .TNW_RX_RANGE]]) ∧
  (∀ c ∈ [Instr.ptpSync, .ptpFollowUp], ChangesOnly c [freePieces] [freeObjs, [.TNW_IN_TOL, .TNW_OFFSET, .TNW_PATH_DELAY,
    .TNW_RATE, .TNW_RATE_SAT, .TNW_STEPS]]) ∧
  ChangesOnly .ptpDelayResp [[.ptp]] [[.TNW_PATH_DELAY]] ∧
  ChangesOnly .ptpAnnounce [freePieces] [freeObjs, [.TNW_SLAVE_PORT, .TNW_GM_ID, .TNW_MASTER_CHANGES]] ∧
  ChangesOnly .delayReqSend [[.ptp]] [[.TNW_TC_DROP]] ∧
  (∀ port, ChangesOnly (.tcForward port) [[.ptp]] [[.TNW_TC_FWD]]) ∧
  (∀ sync, ChangesOnly (.receiptTimeout sync) [freePieces] [freeObjs, [.TNW_SLAVE_PORT, .TNW_GM_ID, .TNW_MASTER_LOSSES]]) ∧
  (∀ port up, ChangesOnly (.tpLinkChange port up) [freePieces] [freeObjs, [.TNW_SLAVE_PORT, .TNW_GM_ID, .TNW_TP_LINK,
    .TNW_MASTER_LOSSES]]) ∧
  ChangesOnly .ppsEdge [[.stream, .ptp]] [[.TRG_BACKLOG_PEAK, .TRG_GAPS, .TRG_CLOSED_DISCARD]] ∧
  ChangesOnly .ppsEnd [[.ptp]] [] ∧
  (∀ u, ChangesOnly (.mauEntryStart u) [[.maus]] [[.MON_IL_YIELD]]) ∧
  (∀ u conv raw, ChangesOnly (.conversionDone u conv raw) [[.channels, .maus, .cool]] [[.MON_SEQ_NUMBER, .MON_SEQ_GRAIN, .MON_OVR,
    .MON_NOREF, .MON_IL_YIELD, .MON_RESULT, .MON_INJ_STATE, .MON_INJ_RESULT, .MON_INJ_WAIT, .MON_CAL_STATE]]) ∧
  (∀ u ofs gain, ChangesOnly (.mauCalDone u ofs gain) [[.maus]] [[.MON_IL_YIELD, .MON_INJ_WAIT, .MON_CAL_STATE, .MON_CAL_REF, .MON_CAL_COUNT,
    .MON_CAL_OFS, .MON_CAL_GAIN]]) ∧
  (∀ u ready, ChangesOnly (.refReady u ready) [[.maus]] [[.MON_REF_READY]]) ∧
  (∀ g pkgMw diode, ChangesOnly (.thermalUpdate g pkgMw diode) [faultPieces, [.poolLost, .fifos, .engs, .areas, .run, .segs, .refills, .slices,
    .fluxes, .regions, .reads, .traces, .maus, .therms, .cool]] [faultObjs, [.QUE_FLUSHES, .TML_F_INACTIVE, .PKG_RUN_STATE, .PKG_RUN_END,
    .ENG_DISCARD, .DRV_MUTE_CAUSE, .PRB_MUTE_CAUSE, .RGN_PROFILE, .RGN_PROFILE_REQ, .RGN_FORCED, .RGN_CHANGE_GRAIN, .RGN_CHANGES,
    .RGN_FORCED_CHANGES, .RGN_FABRIC_MV, .QUE_EF_FLUSHED, .THM_STATE, .THM_BASE, .THM_BASE_STATE, .THM_TJ, .THM_T2, .THM_T3,
    .THM_PWR, .THM_TJ_PEAK, .THM_SENSOR_STATE, .THM_DIODE, .THM_DIODE_DISAGREE, .THM_FAST, .THM_TRIPPED, .THM_TRIPS, .THM_RELEASES,
    .THM_BROKEN_COUNT]]) ∧
  ChangesOnly .ladderStep [[.cool]] [[.THM_STEP, .THM_VDDF_MV]] ∧
  ChangesOnly .shutdownMute [[.markers, .fluxes, .cool]] [[.DRV_MUTE_CAUSE, .FLX_ZERO_CAUSE, .PRB_MUTE_CAUSE]] ∧
  ChangesOnly .shutdownBiasFault [[.biases, .cool]] [[.BIA_TARGET, .BIA_FAULT_DISCARD]] ∧
  ChangesOnly .shutdownPllStop [[.fifos, .reads, .traces, .acqs, .clk, .cool]] [[.TML_F_INACTIVE, .ENG_DISCARD, .ACQ_CAL_ABANDON, .QUE_EF_FLUSHED,
    .CLK_MON_STATE]] ∧
  ChangesOnly .shutdownComplete [downPieces, freePieces, [.nvm, .dram, .clk, .vports, .cool]] [downObjs, freeObjs, [.DRM_CH_STATE,
    .LNK_VP_STATE, .LNK_VP_DISCARD, .NVM_COMMIT_STATE, .NVM_DIRTY, .NVM_COMMIT_FAILS, .TNW_FIO, .CLK_MGMT_SRC, .CLK_MGMT_HOLD,
    .CLK_MON_STATE, .THM_STATE, .PKG_STATE, .PKG_BOOT_WAIT, .PKG_MILESTONE]] ∧
  (∀ u addr bad, ChangesOnly (.scrubStep u addr bad) [faultPieces, [.areas, .run, .patches, .nvm, .scrubAt, .segs, .segBad, .tapBad,
    .krnBad, .tabBad, .sets, .stream, .board]] [faultObjs, [.DRV_TAP_POISON, .CLU_SEG_POISONED, .QUE_POOL_POISONED,
    .FLT_SCRUB_PASSES, .FLT_SCRUB_FOUND]]) ∧
  ChangesOnly .lcsReqExpire [[.boot]] [[.LCS_RESULT]] ∧
  (∀ a m code, ChangesOnly (.acqOverrange a m code) [[.acqs]] [[.ACQ_OVR, .ACQ_OVR_GRAINS, .ACQ_PEAK]]) ∧
  (∀ u, ChangesOnly (.scrubStale u) [] [[.FLT_SCRUB_STALE]]) ∧
  (∀ lane, ChangesOnly (.blockSend lane) [downPieces, [.vports]] [downObjs, [.QUE_POISON, .QUE_BROKEN, .LNK_MGT_RETX,
    .LNK_VP_STATE, .LNK_VP_DISCARD]]) ∧
  (∀ extended kind id bytes, ChangesOnly (.canFrameReceive extended kind id bytes) [[.path0]] [[.LNK_CAN_RX_OVERFLOW,
    .LNK_CAN_CLASSIC]]) ∧
  (∀ tec rec, ChangesOnly (.canBusError tec rec) [] [[.LNK_CAN_STATE, .LNK_CAN_TEC, .LNK_CAN_REC, .LNK_CAN_BUSOFF]]) ∧
  ChangesOnly .busOffRecovery [] [[.LNK_CAN_STATE, .LNK_CAN_TEC, .LNK_CAN_REC]]

/-- Every command of the host changes what its object's effect names and what the server's answer takes, and nothing else; a write
of any object leaves the parts that no object's effect reaches. -/
def Obligations.HostChangesNothingElse : Prop :=
  (∀ p tag v, ChangesOnly (.pkgReset p tag v) [requestPieces, [.boot]] [requestObjs]) ∧
  (∀ p tag v, ChangesOnly (.clkMgmtSel p tag v) [requestPieces, freePieces] [requestObjs, freeObjs, [.PKG_MILESTONE, .CLK_MGMT_SRC, .CLK_MGMT_HOLD]]) ∧
  (∀ p tag v, ChangesOnly (.fmcStart p tag v) [requestPieces, [.clk]] [requestObjs, [.CLK_FMC_STATE]]) ∧
  (∀ p tag v busy, ChangesOnly (.clkGate p tag v busy) [requestPieces, downPieces, trainPieces, freePieces, [.free, .clk, .vports,
    .maus]] [requestObjs, downObjs, trainObjs, freeObjs, [.DRM_CH_TRAIN, .DRM_BIST_STATE, .DRM_BIST_FAILS, .DRM_BIST_FIRST, .DRM_BIST_MASK, .LNK_VP_STATE, .LNK_VP_DISCARD, .TNW_SLAVE_PORT, .TNW_GM_ID,
    .TNW_TP_LINK, .TNW_MASTER_LOSSES, .CLK_GATE, .MON_REF_SEL, .MON_REFBUF_EN, .MON_REF_READY, .MON_START, .MON_START_DELAY,
    .MON_SEQ_LEN, .MON_SEQ_NUMBER, .MON_SEQ_GRAIN, .MON_START_LOST, .MON_OVR, .MON_NOREF, .MON_IL_YIELD, .MON_ENTRY, .MON_RESULT,
    .MON_INJ_STATE, .MON_INJ_RESULT, .MON_INJ_WAIT, .MON_CAL_STATE, .MON_CAL_REF, .MON_CAL_COUNT, .MON_CAL_OFS, .MON_CAL_GAIN]]) ∧
  (∀ p tag, ∀ c ∈ [Instr.syncArm p tag, .syncDisarm p tag], ChangesOnly c [requestPieces, [.clk]] [requestObjs, [.TML_SYNC_CTRL,
    .TML_SYNC_STATE]]) ∧
  (∀ p tag, ChangesOnly (.syncFire p tag) [requestPieces, [.clk]] [requestObjs, [.TML_SYNC_CTRL]]) ∧
  (∀ p tag, ChangesOnly (.relock p tag) [requestPieces, freePieces] [requestObjs, freeObjs, [.TNW_IN_TOL, .TNW_OFFSET, .TNW_PATH_DELAY,
    .TNW_RATE, .TNW_RATE_SAT, .TNW_STEPS]]) ∧
  (∀ p tag, ChangesOnly (.load p tag) [requestPieces, [.image]] [requestObjs, [.PKG_IMG_CTRL, .PKG_IMG_STATE, .PKG_IMG_DONE]]) ∧
  (∀ p tag, ChangesOnly (.unload p tag) [requestPieces] [requestObjs, [.PKG_IMG_CTRL, .PKG_IMG_STATE]]) ∧
  (∀ p tag, ChangesOnly (.start p tag) [requestPieces, [.fifos, .engs, .areas, .run, .dram, .refills]]
    [requestObjs, [.DRM_P_PANICS, .PKG_RUN_CTRL, .PKG_RUN_STATE, .CLU_REFILL_DONE]]) ∧
  (∀ p tag, ChangesOnly (.stop p tag) [requestPieces, [.run]] [requestObjs, [.PKG_RUN_CTRL, .PKG_RUN_STATE]]) ∧
  (∀ p tag, ChangesOnly (.abort p tag) [requestPieces, faultPieces, [.poolLost, .fifos, .engs, .areas, .run, .segs, .refills,
    .regions]] [requestObjs, faultObjs, [.TML_F_INACTIVE, .PKG_RUN_CTRL, .PKG_RUN_STATE, .PKG_RUN_END, .ENG_DISCARD, .QUE_FLUSHES, .QUE_EF_FLUSHED]]) ∧
  (∀ p tag, ChangesOnly (.streamClose p tag) [requestPieces, [.stream]] [requestObjs, [.TRG_STREAM_CTRL, .TRG_STREAM_STATE,
    .TRG_CLOSED_DISCARD]]) ∧
  (∀ p tag, ∀ c ∈ [Instr.openStream p tag, .openQueue p tag], ChangesOnly c [requestPieces, [.stream]] [requestObjs, [.TRG_STREAM_CTRL,
    .TRG_STREAM_STATE, .TRG_BACKLOG_PEAK, .TRG_GAPS, .TRG_CLOSED_DISCARD, .DRM_ARING_WPTR]]) ∧
  (∀ p tag, ChangesOnly (.trgArm p tag) [requestPieces, [.trig, .vre]] [requestObjs, [.TRG_CTRL, .TRG_STATE, .TRG_ARM_SEQ, .TRG_ARMS]]) ∧
  (∀ p tag, ChangesOnly (.trgDisarm p tag) [requestPieces, [.trig, .vre]] [requestObjs, [.TRG_CTRL, .TRG_STATE]]) ∧
  (∀ p tag g v, ChangesOnly (.rgnProfileReq p tag g v) [requestPieces, [.fifos, .engs, .slices, .fluxes, .regions, .reads, .traces]]
    [requestObjs, [.TML_F_INACTIVE, .DRV_MUTE_CAUSE, .PRB_MUTE_CAUSE, .RGN_PROFILE, .RGN_PROFILE_REQ, .RGN_CHANGE_GRAIN,
    .RGN_CHANGES, .RGN_FORCED_CHANGES, .RGN_FABRIC_MV, .QUE_EF_FLUSHED]]) ∧
  (∀ p tag v, ChangesOnly (.pkgProfileReq p tag v) [requestPieces, [.fifos, .engs, .slices, .fluxes, .regions, .reads, .traces]]
    [requestObjs, [.TML_F_INACTIVE, .DRV_MUTE_CAUSE, .PRB_MUTE_CAUSE, .RGN_PROFILE, .RGN_PROFILE_REQ, .RGN_CHANGE_GRAIN,
    .RGN_CHANGES, .RGN_FORCED_CHANGES, .RGN_FABRIC_MV, .PKG_PROFILE_REQ, .QUE_EF_FLUSHED]]) ∧
  (∀ p tag g v, ChangesOnly (.rgnKrnLayout p tag g v) [requestPieces] [requestObjs, [.RGN_KRN_LAYOUT]]) ∧
  (∀ p tag, ChangesOnly (.queCmdFlush p tag) [requestPieces, [.poolLost]] [requestObjs, [.QUE_FLUSHES]]) ∧
  (∀ p tag, ChangesOnly (.queCmdDrop p tag) [requestPieces] [requestObjs, [.QUE_DROPPED]]) ∧
  (∀ p tag slot v, ChangesOnly (.evtChProd p tag slot v) [requestPieces] [requestObjs, [.EVT_CH_PROD]]) ∧
  (∀ p tag n, ChangesOnly (.timRun p tag n) [requestPieces, [.timers]] [requestObjs, [.TIM_CTRL, .TIM_SKIPPED]]) ∧
  (∀ p tag n, ChangesOnly (.timStop p tag n) [requestPieces, [.timers]] [requestObjs, [.TIM_CTRL]]) ∧
  (∀ p tag c v, ChangesOnly (.cluSegDesc p tag c v) [requestPieces, [.segs]] [requestObjs, [.CLU_SEG_WRITE_REJ]]) ∧
  (∀ p tag n tap v, ChangesOnly (.drvXtap p tag n tap v) [requestPieces, [.tapBad]] [requestObjs, [.DRV_XTAP]]) ∧
  (∀ p tag n v, ChangesOnly (.flxSet p tag n v) [requestPieces, [.slices, .fluxes]] [requestObjs, [.TON_JUMP_REPLACED,
    .FLX_ZERO_DISCARD]]) ∧
  (∀ p tag n v, ChangesOnly (.biaSet p tag n v) [requestPieces, [.biases]] [requestObjs, [.BIA_FAULT_DISCARD]]) ∧
  (∀ p tag n v, ChangesOnly (.biaSense p tag n v) [requestPieces] [requestObjs, [.BIA_SENSE]]) ∧
  (∀ p tag v, ChangesOnly (.drmRate p tag v) [requestPieces, trainPieces, [.clk]] [requestObjs, trainObjs, [.DRM_RATE,
    .DRM_CH_TRAIN, .CLK_MON_STATE, .NVM_DIRTY]]) ∧
  (∀ p tag v, ChangesOnly (.drmMap p tag v) [requestPieces, [.dram]] [requestObjs, [.PKG_IMG_STATE, .DRM_STATE, .DRM_MAP, .DRM_RANGE,
    .DRM_WIPE_DONE, .DRM_WIPE_TOTAL, .DRM_CH_STATE, .DRM_ARING_SIZE, .NVM_DIRTY]]) ∧
  (∀ p tag v, ChangesOnly (.drmChtab p tag v) [requestPieces, [.dram]] [requestObjs, [.PKG_IMG_STATE, .DRM_STATE, .DRM_CHTAB,
    .DRM_RANGE, .DRM_WIPE_DONE, .DRM_WIPE_TOTAL, .DRM_CH_STATE, .DRM_ARING_SIZE, .NVM_DIRTY]]) ∧
  (∀ p tag v, ChangesOnly (.drmBistStart p tag v) [requestPieces, [.dram]] [requestObjs, [.PKG_IMG_STATE, .DRM_BIST_CTRL,
    .DRM_BIST_STATE, .DRM_BIST_FAILS, .DRM_BIST_FIRST, .DRM_BIST_MASK]]) ∧
  (∀ p tag v, ChangesOnly (.lnkHlRetrain p tag v) [requestPieces, downPieces] [requestObjs, downObjs]) ∧
  (∀ p tag v, ChangesOnly (.lnkVpEnable p tag v) [requestPieces, downPieces, [.vports]] [requestObjs, downObjs, [.LNK_VP_ENABLE,
    .LNK_VP_STATE, .LNK_VP_DISCARD, .NVM_DIRTY]]) ∧
  (∀ p tag, ChangesOnly (.commit p tag) [requestPieces] [requestObjs, [.NVM_CTRL, .NVM_COMMIT_STATE, .NVM_DIRTY, .NVM_COMMIT_PAGES,
    .NVM_COMMIT_FAILS]]) ∧
  (∀ p tag, ChangesOnly (.monSeqStart p tag) [requestPieces, [.maus]] [requestObjs, [.MON_START_LOST]]) ∧
  (∀ p tag, ChangesOnly (.monSeqStop p tag) [requestPieces, [.maus]] [requestObjs]) ∧
  (∀ p tag v, ChangesOnly (.monInj p tag v) [requestPieces, [.maus]] [requestObjs, [.MON_INJ_STATE, .MON_INJ_WAIT, .MON_CAL_STATE]]) ∧
  (∀ p tag, ChangesOnly (.monCalStart p tag) [requestPieces, [.maus]] [requestObjs, [.MON_INJ_WAIT, .MON_CAL_STATE]]) ∧
  (∀ p tag v, ChangesOnly (.thmForceClr p tag v) [requestPieces, [.regions]] [requestObjs, [.RGN_FORCED]]) ∧
  (∀ p tag, ChangesOnly (.resume p tag) [requestPieces, downPieces, trainPieces, [.clk, .vports, .cool]] [requestObjs, downObjs,
    trainObjs, [.DRM_CH_TRAIN, .LNK_VP_STATE, .LNK_VP_DISCARD, .CLK_MON_STATE, .THM_STATE]]) ∧
  (∀ p tag v, ChangesOnly (.lcsReq p tag v) [requestPieces, [.boot]] [requestObjs, [.LCS_REQ, .LCS_RESULT]]) ∧
  (∀ p tag v, ChangesOnly (.lcsConfirm p tag v) [requestPieces, [.boot]] [requestObjs]) ∧
  (∀ p tag prb n v, ChangesOnly (.drvMute p tag prb n v) [requestPieces] [requestObjs, [.DRV_MUTE_CAUSE, .PRB_MUTE_CAUSE]]) ∧
  (∀ p tag index sub v, ChangesOnly (.flxCoefWrite p tag index sub v) [requestPieces, [.fluxes]] [requestObjs, [.FLX_ALPHA, .FLX_BETA,
    .FLX_FIR, .CLU_FLUX_MTX]]) ∧
  (∀ p tag bytes, ChangesOnly (.quePush p tag bytes) [requestPieces, [.segs]] [requestObjs, [.LNK_YDP_ABANDONED]]) ∧
  (∀ p tag bytes, ChangesOnly (.mcsPatch p tag bytes) [requestPieces, [.patches, .segs]] [requestObjs, [.MCS_LOADS, .MCS_REJECTS,
    .LNK_YDP_ABANDONED]]) ∧
  (∀ p tag kind bytes, ChangesOnly (.mcsBootPatch p tag kind bytes) [requestPieces, [.segs]] [requestObjs, [.MCS_REJECTS,
    .LNK_YDP_ABANDONED, .NVM_DIRTY]]) ∧
  (∀ p tag c bytes, ChangesOnly (.cluSegData p tag c bytes) [requestPieces, [.segs, .segMem, .segBad]] [requestObjs,
    [.CLU_SEG_WRITE_REJ, .LNK_YDP_ABANDONED]]) ∧
  (∀ p tag c bytes, ChangesOnly (.cluKrnData p tag c bytes) [requestPieces, [.segs, .krn, .krnBad]] [requestObjs, [.LNK_YDP_ABANDONED]]) ∧
  (∀ p tag c bytes, ChangesOnly (.cluDiscData p tag c bytes) [requestPieces, [.segs, .tab, .tabBad]] [requestObjs,
    [.LNK_YDP_ABANDONED]]) ∧
  (∀ p tag bytes, ChangesOnly (.drmWinWrite p tag bytes) [requestPieces, [.dram, .segs, .dramBytes]] [requestObjs,
    [.DRM_CH_FENCE_WRITES, .DRM_P_FENCE_HIT, .DRM_WIN_ADDR, .LNK_YDP_ABANDONED]]) ∧
  (∀ p tag, ∀ c ∈ [Instr.quePop p tag, .quePkt p tag], ChangesOnly c [requestPieces, readPieces] [requestObjs, readObjs]) ∧
  (∀ p tag len, ChangesOnly (.drmWinRead p tag len) [requestPieces, readPieces, [.dram]] [requestObjs, readObjs, [.DRM_P_PANICS]]) ∧
  (∀ p, ChangesOnly (.ydpRead p) [readPieces, [.dram]] [readObjs, [.DRM_P_PANICS]]) ∧
  (∀ p, ChangesOnly (.readSeg p) [wordPieces, [.poolLost, .path0, .path1, .lastPath, .dram, .segs]] [wordObjs, [.DRM_P_PANICS, .QUE_POISON, .QUE_BROKEN,
    .DRM_CH_PAR_ERR, .DRM_CH_FIRST_PAR, .DRM_CH_FENCE_READS, .DRM_P_FENCE_HIT, .LNK_YDP_REQUESTS, .LNK_YDP_ABORTS,
    .LNK_YDP_LAST_ABORT, .LNK_YDP_LAST_OBJ, .LNK_YDP_ABANDONED]]) ∧
  (∀ p, ChangesOnly (.ydpAbort p) [wordPieces, [.poolLost, .path0, .path1, .lastPath, .segs]] [wordObjs, [.QUE_POISON, .QUE_BROKEN,
    .LNK_YDP_REQUESTS, .LNK_YDP_ABORTS, .LNK_YDP_LAST_ABORT, .LNK_YDP_LAST_OBJ, .LNK_YDP_ABANDONED]]) ∧
  (∀ p, ChangesOnly (.writeInit p) [wordPieces, [.poolLost, .path0, .path1, .lastPath, .segs]] [wordObjs,
    [.CLU_SEG_WRITE_REJ, .QUE_POISON, .QUE_BROKEN, .LNK_YDP_REQUESTS, .LNK_YDP_ABORTS, .LNK_YDP_LAST_ABORT, .LNK_YDP_LAST_OBJ,
    .LNK_YDP_ABANDONED]]) ∧
  (∀ p, ∀ c ∈ [Instr.ydpWrite p, .writeSeg p], Leaves c [.pending, .elapsed, .tml, .tmlOn, .deliveries, .markers, .scrubAt,
    .frames, .biasAt, .bdQual, .rfQualAt, .acqs, .crossings, .sets, .board, .bres, .therms]) ∧
  (∀ p tag index sub bytes, Leaves (.registerWrite p tag index sub bytes) [.pending, .elapsed, .tml, .tmlOn, .deliveries,
    .markers, .scrubAt, .frames, .biasAt, .bdQual, .rfQualAt, .acqs, .crossings, .sets, .board, .bres, .therms])
end

