-- ==== Sys2Proof/Laws/State.lean ====
section
/-! SUPPORT. One lemma for each field of State and each named update: what the update leaves alone, and the dictionary's
stored values after an update of another part. -/

namespace Sys2Proof.Machine

-- One proof at a time: proofs elaborated side by side take more memory than the check grants.
set_option Elab.async false

/-! ### rsset -/

@[simp] theorem rsset_pending (n : Nat) (v : RecSet) (s : State) : (rsset n v s).pending = s.pending := rfl
@[simp] theorem rsset_elapsed (n : Nat) (v : RecSet) (s : State) : (rsset n v s).elapsed = s.elapsed := rfl
@[simp] theorem rsset_free (n : Nat) (v : RecSet) (s : State) : (rsset n v s).free = s.free := rfl
@[simp] theorem rsset_tml (n : Nat) (v : RecSet) (s : State) : (rsset n v s).tml = s.tml := rfl
@[simp] theorem rsset_tmlOn (n : Nat) (v : RecSet) (s : State) : (rsset n v s).tmlOn = s.tmlOn := rfl
@[simp] theorem rsset_regs (n : Nat) (v : RecSet) (s : State) : (rsset n v s).regs = s.regs := rfl
@[simp] theorem rsset_queues (n : Nat) (v : RecSet) (s : State) : (rsset n v s).queues = s.queues := rfl
@[simp] theorem rsset_poolLost (n : Nat) (v : RecSet) (s : State) : (rsset n v s).poolLost = s.poolLost := rfl
@[simp] theorem rsset_fifos (n : Nat) (v : RecSet) (s : State) : (rsset n v s).fifos = s.fifos := rfl
@[simp] theorem rsset_engs (n : Nat) (v : RecSet) (s : State) : (rsset n v s).engs = s.engs := rfl
@[simp] theorem rsset_areas (n : Nat) (v : RecSet) (s : State) : (rsset n v s).areas = s.areas := rfl
@[simp] theorem rsset_run (n : Nat) (v : RecSet) (s : State) : (rsset n v s).run = s.run := rfl
@[simp] theorem rsset_image (n : Nat) (v : RecSet) (s : State) : (rsset n v s).image = s.image := rfl
@[simp] theorem rsset_patches (n : Nat) (v : RecSet) (s : State) : (rsset n v s).patches = s.patches := rfl
@[simp] theorem rsset_channels (n : Nat) (v : RecSet) (s : State) : (rsset n v s).channels = s.channels := rfl
@[simp] theorem rsset_deliveries (n : Nat) (v : RecSet) (s : State) : (rsset n v s).deliveries = s.deliveries := rfl
@[simp] theorem rsset_timers (n : Nat) (v : RecSet) (s : State) : (rsset n v s).timers = s.timers := rfl
@[simp] theorem rsset_markers (n : Nat) (v : RecSet) (s : State) : (rsset n v s).markers = s.markers := rfl
@[simp] theorem rsset_path0 (n : Nat) (v : RecSet) (s : State) : (rsset n v s).path0 = s.path0 := rfl
@[simp] theorem rsset_path1 (n : Nat) (v : RecSet) (s : State) : (rsset n v s).path1 = s.path1 := rfl
@[simp] theorem rsset_lastPath (n : Nat) (v : RecSet) (s : State) : (rsset n v s).lastPath = s.lastPath := rfl
@[simp] theorem rsset_nvm (n : Nat) (v : RecSet) (s : State) : (rsset n v s).nvm = s.nvm := rfl
@[simp] theorem rsset_boot (n : Nat) (v : RecSet) (s : State) : (rsset n v s).boot = s.boot := rfl
@[simp] theorem rsset_flog (n : Nat) (v : RecSet) (s : State) : (rsset n v s).flog = s.flog := rfl
@[simp] theorem rsset_scrubAt (n : Nat) (v : RecSet) (s : State) : (rsset n v s).scrubAt = s.scrubAt := rfl
@[simp] theorem rsset_dram (n : Nat) (v : RecSet) (s : State) : (rsset n v s).dram = s.dram := rfl
@[simp] theorem rsset_segs (n : Nat) (v : RecSet) (s : State) : (rsset n v s).segs = s.segs := rfl
@[simp] theorem rsset_segMem (n : Nat) (v : RecSet) (s : State) : (rsset n v s).segMem = s.segMem := rfl
@[simp] theorem rsset_segBad (n : Nat) (v : RecSet) (s : State) : (rsset n v s).segBad = s.segBad := rfl
@[simp] theorem rsset_refills (n : Nat) (v : RecSet) (s : State) : (rsset n v s).refills = s.refills := rfl
@[simp] theorem rsset_slices (n : Nat) (v : RecSet) (s : State) : (rsset n v s).slices = s.slices := rfl
@[simp] theorem rsset_frames (n : Nat) (v : RecSet) (s : State) : (rsset n v s).frames = s.frames := rfl
@[simp] theorem rsset_tapBad (n : Nat) (v : RecSet) (s : State) : (rsset n v s).tapBad = s.tapBad := rfl
@[simp] theorem rsset_fluxes (n : Nat) (v : RecSet) (s : State) : (rsset n v s).fluxes = s.fluxes := rfl
@[simp] theorem rsset_biases (n : Nat) (v : RecSet) (s : State) : (rsset n v s).biases = s.biases := rfl
@[simp] theorem rsset_biasAt (n : Nat) (v : RecSet) (s : State) : (rsset n v s).biasAt = s.biasAt := rfl
@[simp] theorem rsset_regions (n : Nat) (v : RecSet) (s : State) : (rsset n v s).regions = s.regions := rfl
@[simp] theorem rsset_bdQual (n : Nat) (v : RecSet) (s : State) : (rsset n v s).bdQual = s.bdQual := rfl
@[simp] theorem rsset_rfQualAt (n : Nat) (v : RecSet) (s : State) : (rsset n v s).rfQualAt = s.rfQualAt := rfl
@[simp] theorem rsset_reads (n : Nat) (v : RecSet) (s : State) : (rsset n v s).reads = s.reads := rfl
@[simp] theorem rsset_traces (n : Nat) (v : RecSet) (s : State) : (rsset n v s).traces = s.traces := rfl
@[simp] theorem rsset_acqs (n : Nat) (v : RecSet) (s : State) : (rsset n v s).acqs = s.acqs := rfl
@[simp] theorem rsset_krn (n : Nat) (v : RecSet) (s : State) : (rsset n v s).krn = s.krn := rfl
@[simp] theorem rsset_krnBad (n : Nat) (v : RecSet) (s : State) : (rsset n v s).krnBad = s.krnBad := rfl
@[simp] theorem rsset_tab (n : Nat) (v : RecSet) (s : State) : (rsset n v s).tab = s.tab := rfl
@[simp] theorem rsset_tabBad (n : Nat) (v : RecSet) (s : State) : (rsset n v s).tabBad = s.tabBad := rfl
@[simp] theorem rsset_crossings (n : Nat) (v : RecSet) (s : State) : (rsset n v s).crossings = s.crossings := rfl
@[simp] theorem rsset_stream (n : Nat) (v : RecSet) (s : State) : (rsset n v s).stream = s.stream := rfl
@[simp] theorem rsset_incs (n : Nat) (v : RecSet) (s : State) : (rsset n v s).incs = s.incs := rfl
@[simp] theorem rsset_trig (n : Nat) (v : RecSet) (s : State) : (rsset n v s).trig = s.trig := rfl
@[simp] theorem rsset_board (n : Nat) (v : RecSet) (s : State) : (rsset n v s).board = s.board := rfl
@[simp] theorem rsset_bres (n : Nat) (v : RecSet) (s : State) : (rsset n v s).bres = s.bres := rfl
@[simp] theorem rsset_vre (n : Nat) (v : RecSet) (s : State) : (rsset n v s).vre = s.vre := rfl
@[simp] theorem rsset_clk (n : Nat) (v : RecSet) (s : State) : (rsset n v s).clk = s.clk := rfl
@[simp] theorem rsset_ptp (n : Nat) (v : RecSet) (s : State) : (rsset n v s).ptp = s.ptp := rfl
@[simp] theorem rsset_lanes (n : Nat) (v : RecSet) (s : State) : (rsset n v s).lanes = s.lanes := rfl
@[simp] theorem rsset_hl (n : Nat) (v : RecSet) (s : State) : (rsset n v s).hl = s.hl := rfl
@[simp] theorem rsset_vports (n : Nat) (v : RecSet) (s : State) : (rsset n v s).vports = s.vports := rfl
@[simp] theorem rsset_maus (n : Nat) (v : RecSet) (s : State) : (rsset n v s).maus = s.maus := rfl
@[simp] theorem rsset_therms (n : Nat) (v : RecSet) (s : State) : (rsset n v s).therms = s.therms := rfl
@[simp] theorem rsset_cool (n : Nat) (v : RecSet) (s : State) : (rsset n v s).cool = s.cool := rfl
@[simp] theorem rd_rsset (n : Nat) (v : RecSet) (s : State) (r : Reg) (j : Nat) : rd (rsset n v s) r j = rd s r j := rfl
@[simp] theorem rn_rsset (n : Nat) (v : RecSet) (s : State) (r : Reg) (j : Nat) : rn (rsset n v s) r j = rn s r j := rfl

/-! ### rdset -/

@[simp] theorem rdset_pending (t : Nat) (v : ReadSlice) (s : State) : (rdset t v s).pending = s.pending := rfl
@[simp] theorem rdset_elapsed (t : Nat) (v : ReadSlice) (s : State) : (rdset t v s).elapsed = s.elapsed := rfl
@[simp] theorem rdset_free (t : Nat) (v : ReadSlice) (s : State) : (rdset t v s).free = s.free := rfl
@[simp] theorem rdset_tml (t : Nat) (v : ReadSlice) (s : State) : (rdset t v s).tml = s.tml := rfl
@[simp] theorem rdset_tmlOn (t : Nat) (v : ReadSlice) (s : State) : (rdset t v s).tmlOn = s.tmlOn := rfl
@[simp] theorem rdset_regs (t : Nat) (v : ReadSlice) (s : State) : (rdset t v s).regs = s.regs := rfl
@[simp] theorem rdset_queues (t : Nat) (v : ReadSlice) (s : State) : (rdset t v s).queues = s.queues := rfl
@[simp] theorem rdset_poolLost (t : Nat) (v : ReadSlice) (s : State) : (rdset t v s).poolLost = s.poolLost := rfl
@[simp] theorem rdset_fifos (t : Nat) (v : ReadSlice) (s : State) : (rdset t v s).fifos = s.fifos := rfl
@[simp] theorem rdset_engs (t : Nat) (v : ReadSlice) (s : State) : (rdset t v s).engs = s.engs := rfl
@[simp] theorem rdset_areas (t : Nat) (v : ReadSlice) (s : State) : (rdset t v s).areas = s.areas := rfl
@[simp] theorem rdset_run (t : Nat) (v : ReadSlice) (s : State) : (rdset t v s).run = s.run := rfl
@[simp] theorem rdset_image (t : Nat) (v : ReadSlice) (s : State) : (rdset t v s).image = s.image := rfl
@[simp] theorem rdset_patches (t : Nat) (v : ReadSlice) (s : State) : (rdset t v s).patches = s.patches := rfl
@[simp] theorem rdset_channels (t : Nat) (v : ReadSlice) (s : State) : (rdset t v s).channels = s.channels := rfl
@[simp] theorem rdset_deliveries (t : Nat) (v : ReadSlice) (s : State) : (rdset t v s).deliveries = s.deliveries := rfl
@[simp] theorem rdset_timers (t : Nat) (v : ReadSlice) (s : State) : (rdset t v s).timers = s.timers := rfl
@[simp] theorem rdset_markers (t : Nat) (v : ReadSlice) (s : State) : (rdset t v s).markers = s.markers := rfl
@[simp] theorem rdset_path0 (t : Nat) (v : ReadSlice) (s : State) : (rdset t v s).path0 = s.path0 := rfl
@[simp] theorem rdset_path1 (t : Nat) (v : ReadSlice) (s : State) : (rdset t v s).path1 = s.path1 := rfl
@[simp] theorem rdset_lastPath (t : Nat) (v : ReadSlice) (s : State) : (rdset t v s).lastPath = s.lastPath := rfl
@[simp] theorem rdset_nvm (t : Nat) (v : ReadSlice) (s : State) : (rdset t v s).nvm = s.nvm := rfl
@[simp] theorem rdset_boot (t : Nat) (v : ReadSlice) (s : State) : (rdset t v s).boot = s.boot := rfl
@[simp] theorem rdset_flog (t : Nat) (v : ReadSlice) (s : State) : (rdset t v s).flog = s.flog := rfl
@[simp] theorem rdset_scrubAt (t : Nat) (v : ReadSlice) (s : State) : (rdset t v s).scrubAt = s.scrubAt := rfl
@[simp] theorem rdset_dram (t : Nat) (v : ReadSlice) (s : State) : (rdset t v s).dram = s.dram := rfl
@[simp] theorem rdset_segs (t : Nat) (v : ReadSlice) (s : State) : (rdset t v s).segs = s.segs := rfl
@[simp] theorem rdset_segMem (t : Nat) (v : ReadSlice) (s : State) : (rdset t v s).segMem = s.segMem := rfl
@[simp] theorem rdset_segBad (t : Nat) (v : ReadSlice) (s : State) : (rdset t v s).segBad = s.segBad := rfl
@[simp] theorem rdset_refills (t : Nat) (v : ReadSlice) (s : State) : (rdset t v s).refills = s.refills := rfl
@[simp] theorem rdset_slices (t : Nat) (v : ReadSlice) (s : State) : (rdset t v s).slices = s.slices := rfl
@[simp] theorem rdset_frames (t : Nat) (v : ReadSlice) (s : State) : (rdset t v s).frames = s.frames := rfl
@[simp] theorem rdset_tapBad (t : Nat) (v : ReadSlice) (s : State) : (rdset t v s).tapBad = s.tapBad := rfl
@[simp] theorem rdset_fluxes (t : Nat) (v : ReadSlice) (s : State) : (rdset t v s).fluxes = s.fluxes := rfl
@[simp] theorem rdset_biases (t : Nat) (v : ReadSlice) (s : State) : (rdset t v s).biases = s.biases := rfl
@[simp] theorem rdset_biasAt (t : Nat) (v : ReadSlice) (s : State) : (rdset t v s).biasAt = s.biasAt := rfl
@[simp] theorem rdset_regions (t : Nat) (v : ReadSlice) (s : State) : (rdset t v s).regions = s.regions := rfl
@[simp] theorem rdset_bdQual (t : Nat) (v : ReadSlice) (s : State) : (rdset t v s).bdQual = s.bdQual := rfl
@[simp] theorem rdset_rfQualAt (t : Nat) (v : ReadSlice) (s : State) : (rdset t v s).rfQualAt = s.rfQualAt := rfl
@[simp] theorem rdset_traces (t : Nat) (v : ReadSlice) (s : State) : (rdset t v s).traces = s.traces := rfl
@[simp] theorem rdset_acqs (t : Nat) (v : ReadSlice) (s : State) : (rdset t v s).acqs = s.acqs := rfl
@[simp] theorem rdset_krn (t : Nat) (v : ReadSlice) (s : State) : (rdset t v s).krn = s.krn := rfl
@[simp] theorem rdset_krnBad (t : Nat) (v : ReadSlice) (s : State) : (rdset t v s).krnBad = s.krnBad := rfl
@[simp] theorem rdset_tab (t : Nat) (v : ReadSlice) (s : State) : (rdset t v s).tab = s.tab := rfl
@[simp] theorem rdset_tabBad (t : Nat) (v : ReadSlice) (s : State) : (rdset t v s).tabBad = s.tabBad := rfl
@[simp] theorem rdset_crossings (t : Nat) (v : ReadSlice) (s : State) : (rdset t v s).crossings = s.crossings := rfl
@[simp] theorem rdset_sets (t : Nat) (v : ReadSlice) (s : State) : (rdset t v s).sets = s.sets := rfl
@[simp] theorem rdset_stream (t : Nat) (v : ReadSlice) (s : State) : (rdset t v s).stream = s.stream := rfl
@[simp] theorem rdset_incs (t : Nat) (v : ReadSlice) (s : State) : (rdset t v s).incs = s.incs := rfl
@[simp] theorem rdset_trig (t : Nat) (v : ReadSlice) (s : State) : (rdset t v s).trig = s.trig := rfl
@[simp] theorem rdset_board (t : Nat) (v : ReadSlice) (s : State) : (rdset t v s).board = s.board := rfl
@[simp] theorem rdset_bres (t : Nat) (v : ReadSlice) (s : State) : (rdset t v s).bres = s.bres := rfl
@[simp] theorem rdset_vre (t : Nat) (v : ReadSlice) (s : State) : (rdset t v s).vre = s.vre := rfl
@[simp] theorem rdset_clk (t : Nat) (v : ReadSlice) (s : State) : (rdset t v s).clk = s.clk := rfl
@[simp] theorem rdset_ptp (t : Nat) (v : ReadSlice) (s : State) : (rdset t v s).ptp = s.ptp := rfl
@[simp] theorem rdset_lanes (t : Nat) (v : ReadSlice) (s : State) : (rdset t v s).lanes = s.lanes := rfl
@[simp] theorem rdset_hl (t : Nat) (v : ReadSlice) (s : State) : (rdset t v s).hl = s.hl := rfl
@[simp] theorem rdset_vports (t : Nat) (v : ReadSlice) (s : State) : (rdset t v s).vports = s.vports := rfl
@[simp] theorem rdset_maus (t : Nat) (v : ReadSlice) (s : State) : (rdset t v s).maus = s.maus := rfl
@[simp] theorem rdset_therms (t : Nat) (v : ReadSlice) (s : State) : (rdset t v s).therms = s.therms := rfl
@[simp] theorem rdset_cool (t : Nat) (v : ReadSlice) (s : State) : (rdset t v s).cool = s.cool := rfl
@[simp] theorem rd_rdset (t : Nat) (v : ReadSlice) (s : State) (r : Reg) (j : Nat) : rd (rdset t v s) r j = rd s r j := rfl
@[simp] theorem rn_rdset (t : Nat) (v : ReadSlice) (s : State) (r : Reg) (j : Nat) : rn (rdset t v s) r j = rn s r j := rfl

/-! ### trset -/

@[simp] theorem trset_pending (c : Nat) (v : TraceUnit) (s : State) : (trset c v s).pending = s.pending := rfl
@[simp] theorem trset_elapsed (c : Nat) (v : TraceUnit) (s : State) : (trset c v s).elapsed = s.elapsed := rfl
@[simp] theorem trset_free (c : Nat) (v : TraceUnit) (s : State) : (trset c v s).free = s.free := rfl
@[simp] theorem trset_tml (c : Nat) (v : TraceUnit) (s : State) : (trset c v s).tml = s.tml := rfl
@[simp] theorem trset_tmlOn (c : Nat) (v : TraceUnit) (s : State) : (trset c v s).tmlOn = s.tmlOn := rfl
@[simp] theorem trset_regs (c : Nat) (v : TraceUnit) (s : State) : (trset c v s).regs = s.regs := rfl
@[simp] theorem trset_queues (c : Nat) (v : TraceUnit) (s : State) : (trset c v s).queues = s.queues := rfl
@[simp] theorem trset_poolLost (c : Nat) (v : TraceUnit) (s : State) : (trset c v s).poolLost = s.poolLost := rfl
@[simp] theorem trset_fifos (c : Nat) (v : TraceUnit) (s : State) : (trset c v s).fifos = s.fifos := rfl
@[simp] theorem trset_engs (c : Nat) (v : TraceUnit) (s : State) : (trset c v s).engs = s.engs := rfl
@[simp] theorem trset_areas (c : Nat) (v : TraceUnit) (s : State) : (trset c v s).areas = s.areas := rfl
@[simp] theorem trset_run (c : Nat) (v : TraceUnit) (s : State) : (trset c v s).run = s.run := rfl
@[simp] theorem trset_image (c : Nat) (v : TraceUnit) (s : State) : (trset c v s).image = s.image := rfl
@[simp] theorem trset_patches (c : Nat) (v : TraceUnit) (s : State) : (trset c v s).patches = s.patches := rfl
@[simp] theorem trset_channels (c : Nat) (v : TraceUnit) (s : State) : (trset c v s).channels = s.channels := rfl
@[simp] theorem trset_deliveries (c : Nat) (v : TraceUnit) (s : State) : (trset c v s).deliveries = s.deliveries := rfl
@[simp] theorem trset_timers (c : Nat) (v : TraceUnit) (s : State) : (trset c v s).timers = s.timers := rfl
@[simp] theorem trset_markers (c : Nat) (v : TraceUnit) (s : State) : (trset c v s).markers = s.markers := rfl
@[simp] theorem trset_path0 (c : Nat) (v : TraceUnit) (s : State) : (trset c v s).path0 = s.path0 := rfl
@[simp] theorem trset_path1 (c : Nat) (v : TraceUnit) (s : State) : (trset c v s).path1 = s.path1 := rfl
@[simp] theorem trset_lastPath (c : Nat) (v : TraceUnit) (s : State) : (trset c v s).lastPath = s.lastPath := rfl
@[simp] theorem trset_nvm (c : Nat) (v : TraceUnit) (s : State) : (trset c v s).nvm = s.nvm := rfl
@[simp] theorem trset_boot (c : Nat) (v : TraceUnit) (s : State) : (trset c v s).boot = s.boot := rfl
@[simp] theorem trset_flog (c : Nat) (v : TraceUnit) (s : State) : (trset c v s).flog = s.flog := rfl
@[simp] theorem trset_scrubAt (c : Nat) (v : TraceUnit) (s : State) : (trset c v s).scrubAt = s.scrubAt := rfl
@[simp] theorem trset_dram (c : Nat) (v : TraceUnit) (s : State) : (trset c v s).dram = s.dram := rfl
@[simp] theorem trset_segs (c : Nat) (v : TraceUnit) (s : State) : (trset c v s).segs = s.segs := rfl
@[simp] theorem trset_segMem (c : Nat) (v : TraceUnit) (s : State) : (trset c v s).segMem = s.segMem := rfl
@[simp] theorem trset_segBad (c : Nat) (v : TraceUnit) (s : State) : (trset c v s).segBad = s.segBad := rfl
@[simp] theorem trset_refills (c : Nat) (v : TraceUnit) (s : State) : (trset c v s).refills = s.refills := rfl
@[simp] theorem trset_slices (c : Nat) (v : TraceUnit) (s : State) : (trset c v s).slices = s.slices := rfl
@[simp] theorem trset_frames (c : Nat) (v : TraceUnit) (s : State) : (trset c v s).frames = s.frames := rfl
@[simp] theorem trset_tapBad (c : Nat) (v : TraceUnit) (s : State) : (trset c v s).tapBad = s.tapBad := rfl
@[simp] theorem trset_fluxes (c : Nat) (v : TraceUnit) (s : State) : (trset c v s).fluxes = s.fluxes := rfl
@[simp] theorem trset_biases (c : Nat) (v : TraceUnit) (s : State) : (trset c v s).biases = s.biases := rfl
@[simp] theorem trset_biasAt (c : Nat) (v : TraceUnit) (s : State) : (trset c v s).biasAt = s.biasAt := rfl
@[simp] theorem trset_regions (c : Nat) (v : TraceUnit) (s : State) : (trset c v s).regions = s.regions := rfl
@[simp] theorem trset_bdQual (c : Nat) (v : TraceUnit) (s : State) : (trset c v s).bdQual = s.bdQual := rfl
@[simp] theorem trset_rfQualAt (c : Nat) (v : TraceUnit) (s : State) : (trset c v s).rfQualAt = s.rfQualAt := rfl
@[simp] theorem trset_reads (c : Nat) (v : TraceUnit) (s : State) : (trset c v s).reads = s.reads := rfl
@[simp] theorem trset_acqs (c : Nat) (v : TraceUnit) (s : State) : (trset c v s).acqs = s.acqs := rfl
@[simp] theorem trset_krn (c : Nat) (v : TraceUnit) (s : State) : (trset c v s).krn = s.krn := rfl
@[simp] theorem trset_krnBad (c : Nat) (v : TraceUnit) (s : State) : (trset c v s).krnBad = s.krnBad := rfl
@[simp] theorem trset_tab (c : Nat) (v : TraceUnit) (s : State) : (trset c v s).tab = s.tab := rfl
@[simp] theorem trset_tabBad (c : Nat) (v : TraceUnit) (s : State) : (trset c v s).tabBad = s.tabBad := rfl
@[simp] theorem trset_crossings (c : Nat) (v : TraceUnit) (s : State) : (trset c v s).crossings = s.crossings := rfl
@[simp] theorem trset_sets (c : Nat) (v : TraceUnit) (s : State) : (trset c v s).sets = s.sets := rfl
@[simp] theorem trset_stream (c : Nat) (v : TraceUnit) (s : State) : (trset c v s).stream = s.stream := rfl
@[simp] theorem trset_incs (c : Nat) (v : TraceUnit) (s : State) : (trset c v s).incs = s.incs := rfl
@[simp] theorem trset_trig (c : Nat) (v : TraceUnit) (s : State) : (trset c v s).trig = s.trig := rfl
@[simp] theorem trset_board (c : Nat) (v : TraceUnit) (s : State) : (trset c v s).board = s.board := rfl
@[simp] theorem trset_bres (c : Nat) (v : TraceUnit) (s : State) : (trset c v s).bres = s.bres := rfl
@[simp] theorem trset_vre (c : Nat) (v : TraceUnit) (s : State) : (trset c v s).vre = s.vre := rfl
@[simp] theorem trset_clk (c : Nat) (v : TraceUnit) (s : State) : (trset c v s).clk = s.clk := rfl
@[simp] theorem trset_ptp (c : Nat) (v : TraceUnit) (s : State) : (trset c v s).ptp = s.ptp := rfl
@[simp] theorem trset_lanes (c : Nat) (v : TraceUnit) (s : State) : (trset c v s).lanes = s.lanes := rfl
@[simp] theorem trset_hl (c : Nat) (v : TraceUnit) (s : State) : (trset c v s).hl = s.hl := rfl
@[simp] theorem trset_vports (c : Nat) (v : TraceUnit) (s : State) : (trset c v s).vports = s.vports := rfl
@[simp] theorem trset_maus (c : Nat) (v : TraceUnit) (s : State) : (trset c v s).maus = s.maus := rfl
@[simp] theorem trset_therms (c : Nat) (v : TraceUnit) (s : State) : (trset c v s).therms = s.therms := rfl
@[simp] theorem trset_cool (c : Nat) (v : TraceUnit) (s : State) : (trset c v s).cool = s.cool := rfl
@[simp] theorem rd_trset (c : Nat) (v : TraceUnit) (s : State) (r : Reg) (j : Nat) : rd (trset c v s) r j = rd s r j := rfl
@[simp] theorem rn_trset (c : Nat) (v : TraceUnit) (s : State) (r : Reg) (j : Nat) : rn (trset c v s) r j = rn s r j := rfl

/-! ### aqset -/

@[simp] theorem aqset_pending (a : Nat) (v : AcqCh) (s : State) : (aqset a v s).pending = s.pending := rfl
@[simp] theorem aqset_elapsed (a : Nat) (v : AcqCh) (s : State) : (aqset a v s).elapsed = s.elapsed := rfl
@[simp] theorem aqset_free (a : Nat) (v : AcqCh) (s : State) : (aqset a v s).free = s.free := rfl
@[simp] theorem aqset_tml (a : Nat) (v : AcqCh) (s : State) : (aqset a v s).tml = s.tml := rfl
@[simp] theorem aqset_tmlOn (a : Nat) (v : AcqCh) (s : State) : (aqset a v s).tmlOn = s.tmlOn := rfl
@[simp] theorem aqset_regs (a : Nat) (v : AcqCh) (s : State) : (aqset a v s).regs = s.regs := rfl
@[simp] theorem aqset_queues (a : Nat) (v : AcqCh) (s : State) : (aqset a v s).queues = s.queues := rfl
@[simp] theorem aqset_poolLost (a : Nat) (v : AcqCh) (s : State) : (aqset a v s).poolLost = s.poolLost := rfl
@[simp] theorem aqset_fifos (a : Nat) (v : AcqCh) (s : State) : (aqset a v s).fifos = s.fifos := rfl
@[simp] theorem aqset_engs (a : Nat) (v : AcqCh) (s : State) : (aqset a v s).engs = s.engs := rfl
@[simp] theorem aqset_areas (a : Nat) (v : AcqCh) (s : State) : (aqset a v s).areas = s.areas := rfl
@[simp] theorem aqset_run (a : Nat) (v : AcqCh) (s : State) : (aqset a v s).run = s.run := rfl
@[simp] theorem aqset_image (a : Nat) (v : AcqCh) (s : State) : (aqset a v s).image = s.image := rfl
@[simp] theorem aqset_patches (a : Nat) (v : AcqCh) (s : State) : (aqset a v s).patches = s.patches := rfl
@[simp] theorem aqset_channels (a : Nat) (v : AcqCh) (s : State) : (aqset a v s).channels = s.channels := rfl
@[simp] theorem aqset_deliveries (a : Nat) (v : AcqCh) (s : State) : (aqset a v s).deliveries = s.deliveries := rfl
@[simp] theorem aqset_timers (a : Nat) (v : AcqCh) (s : State) : (aqset a v s).timers = s.timers := rfl
@[simp] theorem aqset_markers (a : Nat) (v : AcqCh) (s : State) : (aqset a v s).markers = s.markers := rfl
@[simp] theorem aqset_path0 (a : Nat) (v : AcqCh) (s : State) : (aqset a v s).path0 = s.path0 := rfl
@[simp] theorem aqset_path1 (a : Nat) (v : AcqCh) (s : State) : (aqset a v s).path1 = s.path1 := rfl
@[simp] theorem aqset_lastPath (a : Nat) (v : AcqCh) (s : State) : (aqset a v s).lastPath = s.lastPath := rfl
@[simp] theorem aqset_nvm (a : Nat) (v : AcqCh) (s : State) : (aqset a v s).nvm = s.nvm := rfl
@[simp] theorem aqset_boot (a : Nat) (v : AcqCh) (s : State) : (aqset a v s).boot = s.boot := rfl
@[simp] theorem aqset_flog (a : Nat) (v : AcqCh) (s : State) : (aqset a v s).flog = s.flog := rfl
@[simp] theorem aqset_scrubAt (a : Nat) (v : AcqCh) (s : State) : (aqset a v s).scrubAt = s.scrubAt := rfl
@[simp] theorem aqset_dram (a : Nat) (v : AcqCh) (s : State) : (aqset a v s).dram = s.dram := rfl
@[simp] theorem aqset_segs (a : Nat) (v : AcqCh) (s : State) : (aqset a v s).segs = s.segs := rfl
@[simp] theorem aqset_segMem (a : Nat) (v : AcqCh) (s : State) : (aqset a v s).segMem = s.segMem := rfl
@[simp] theorem aqset_segBad (a : Nat) (v : AcqCh) (s : State) : (aqset a v s).segBad = s.segBad := rfl
@[simp] theorem aqset_refills (a : Nat) (v : AcqCh) (s : State) : (aqset a v s).refills = s.refills := rfl
@[simp] theorem aqset_slices (a : Nat) (v : AcqCh) (s : State) : (aqset a v s).slices = s.slices := rfl
@[simp] theorem aqset_frames (a : Nat) (v : AcqCh) (s : State) : (aqset a v s).frames = s.frames := rfl
@[simp] theorem aqset_tapBad (a : Nat) (v : AcqCh) (s : State) : (aqset a v s).tapBad = s.tapBad := rfl
@[simp] theorem aqset_fluxes (a : Nat) (v : AcqCh) (s : State) : (aqset a v s).fluxes = s.fluxes := rfl
@[simp] theorem aqset_biases (a : Nat) (v : AcqCh) (s : State) : (aqset a v s).biases = s.biases := rfl
@[simp] theorem aqset_biasAt (a : Nat) (v : AcqCh) (s : State) : (aqset a v s).biasAt = s.biasAt := rfl
@[simp] theorem aqset_regions (a : Nat) (v : AcqCh) (s : State) : (aqset a v s).regions = s.regions := rfl
@[simp] theorem aqset_bdQual (a : Nat) (v : AcqCh) (s : State) : (aqset a v s).bdQual = s.bdQual := rfl
@[simp] theorem aqset_rfQualAt (a : Nat) (v : AcqCh) (s : State) : (aqset a v s).rfQualAt = s.rfQualAt := rfl
@[simp] theorem aqset_reads (a : Nat) (v : AcqCh) (s : State) : (aqset a v s).reads = s.reads := rfl
@[simp] theorem aqset_traces (a : Nat) (v : AcqCh) (s : State) : (aqset a v s).traces = s.traces := rfl
@[simp] theorem aqset_krn (a : Nat) (v : AcqCh) (s : State) : (aqset a v s).krn = s.krn := rfl
@[simp] theorem aqset_krnBad (a : Nat) (v : AcqCh) (s : State) : (aqset a v s).krnBad = s.krnBad := rfl
@[simp] theorem aqset_tab (a : Nat) (v : AcqCh) (s : State) : (aqset a v s).tab = s.tab := rfl
@[simp] theorem aqset_tabBad (a : Nat) (v : AcqCh) (s : State) : (aqset a v s).tabBad = s.tabBad := rfl
@[simp] theorem aqset_crossings (a : Nat) (v : AcqCh) (s : State) : (aqset a v s).crossings = s.crossings := rfl
@[simp] theorem aqset_sets (a : Nat) (v : AcqCh) (s : State) : (aqset a v s).sets = s.sets := rfl
@[simp] theorem aqset_stream (a : Nat) (v : AcqCh) (s : State) : (aqset a v s).stream = s.stream := rfl
@[simp] theorem aqset_incs (a : Nat) (v : AcqCh) (s : State) : (aqset a v s).incs = s.incs := rfl
@[simp] theorem aqset_trig (a : Nat) (v : AcqCh) (s : State) : (aqset a v s).trig = s.trig := rfl
@[simp] theorem aqset_board (a : Nat) (v : AcqCh) (s : State) : (aqset a v s).board = s.board := rfl
@[simp] theorem aqset_bres (a : Nat) (v : AcqCh) (s : State) : (aqset a v s).bres = s.bres := rfl
@[simp] theorem aqset_vre (a : Nat) (v : AcqCh) (s : State) : (aqset a v s).vre = s.vre := rfl
@[simp] theorem aqset_clk (a : Nat) (v : AcqCh) (s : State) : (aqset a v s).clk = s.clk := rfl
@[simp] theorem aqset_ptp (a : Nat) (v : AcqCh) (s : State) : (aqset a v s).ptp = s.ptp := rfl
@[simp] theorem aqset_lanes (a : Nat) (v : AcqCh) (s : State) : (aqset a v s).lanes = s.lanes := rfl
@[simp] theorem aqset_hl (a : Nat) (v : AcqCh) (s : State) : (aqset a v s).hl = s.hl := rfl
@[simp] theorem aqset_vports (a : Nat) (v : AcqCh) (s : State) : (aqset a v s).vports = s.vports := rfl
@[simp] theorem aqset_maus (a : Nat) (v : AcqCh) (s : State) : (aqset a v s).maus = s.maus := rfl
@[simp] theorem aqset_therms (a : Nat) (v : AcqCh) (s : State) : (aqset a v s).therms = s.therms := rfl
@[simp] theorem aqset_cool (a : Nat) (v : AcqCh) (s : State) : (aqset a v s).cool = s.cool := rfl
@[simp] theorem rd_aqset (a : Nat) (v : AcqCh) (s : State) (r : Reg) (j : Nat) : rd (aqset a v s) r j = rd s r j := rfl
@[simp] theorem rn_aqset (a : Nat) (v : AcqCh) (s : State) (r : Reg) (j : Nat) : rn (aqset a v s) r j = rn s r j := rfl

/-! ### brset -/

@[simp] theorem brset_pending (c : Nat) (v : Bre) (s : State) : (brset c v s).pending = s.pending := rfl
@[simp] theorem brset_elapsed (c : Nat) (v : Bre) (s : State) : (brset c v s).elapsed = s.elapsed := rfl
@[simp] theorem brset_free (c : Nat) (v : Bre) (s : State) : (brset c v s).free = s.free := rfl
@[simp] theorem brset_tml (c : Nat) (v : Bre) (s : State) : (brset c v s).tml = s.tml := rfl
@[simp] theorem brset_tmlOn (c : Nat) (v : Bre) (s : State) : (brset c v s).tmlOn = s.tmlOn := rfl
@[simp] theorem brset_regs (c : Nat) (v : Bre) (s : State) : (brset c v s).regs = s.regs := rfl
@[simp] theorem brset_queues (c : Nat) (v : Bre) (s : State) : (brset c v s).queues = s.queues := rfl
@[simp] theorem brset_poolLost (c : Nat) (v : Bre) (s : State) : (brset c v s).poolLost = s.poolLost := rfl
@[simp] theorem brset_fifos (c : Nat) (v : Bre) (s : State) : (brset c v s).fifos = s.fifos := rfl
@[simp] theorem brset_engs (c : Nat) (v : Bre) (s : State) : (brset c v s).engs = s.engs := rfl
@[simp] theorem brset_areas (c : Nat) (v : Bre) (s : State) : (brset c v s).areas = s.areas := rfl
@[simp] theorem brset_run (c : Nat) (v : Bre) (s : State) : (brset c v s).run = s.run := rfl
@[simp] theorem brset_image (c : Nat) (v : Bre) (s : State) : (brset c v s).image = s.image := rfl
@[simp] theorem brset_patches (c : Nat) (v : Bre) (s : State) : (brset c v s).patches = s.patches := rfl
@[simp] theorem brset_channels (c : Nat) (v : Bre) (s : State) : (brset c v s).channels = s.channels := rfl
@[simp] theorem brset_deliveries (c : Nat) (v : Bre) (s : State) : (brset c v s).deliveries = s.deliveries := rfl
@[simp] theorem brset_timers (c : Nat) (v : Bre) (s : State) : (brset c v s).timers = s.timers := rfl
@[simp] theorem brset_markers (c : Nat) (v : Bre) (s : State) : (brset c v s).markers = s.markers := rfl
@[simp] theorem brset_path0 (c : Nat) (v : Bre) (s : State) : (brset c v s).path0 = s.path0 := rfl
@[simp] theorem brset_path1 (c : Nat) (v : Bre) (s : State) : (brset c v s).path1 = s.path1 := rfl
@[simp] theorem brset_lastPath (c : Nat) (v : Bre) (s : State) : (brset c v s).lastPath = s.lastPath := rfl
@[simp] theorem brset_nvm (c : Nat) (v : Bre) (s : State) : (brset c v s).nvm = s.nvm := rfl
@[simp] theorem brset_boot (c : Nat) (v : Bre) (s : State) : (brset c v s).boot = s.boot := rfl
@[simp] theorem brset_flog (c : Nat) (v : Bre) (s : State) : (brset c v s).flog = s.flog := rfl
@[simp] theorem brset_scrubAt (c : Nat) (v : Bre) (s : State) : (brset c v s).scrubAt = s.scrubAt := rfl
@[simp] theorem brset_dram (c : Nat) (v : Bre) (s : State) : (brset c v s).dram = s.dram := rfl
@[simp] theorem brset_segs (c : Nat) (v : Bre) (s : State) : (brset c v s).segs = s.segs := rfl
@[simp] theorem brset_segMem (c : Nat) (v : Bre) (s : State) : (brset c v s).segMem = s.segMem := rfl
@[simp] theorem brset_segBad (c : Nat) (v : Bre) (s : State) : (brset c v s).segBad = s.segBad := rfl
@[simp] theorem brset_refills (c : Nat) (v : Bre) (s : State) : (brset c v s).refills = s.refills := rfl
@[simp] theorem brset_slices (c : Nat) (v : Bre) (s : State) : (brset c v s).slices = s.slices := rfl
@[simp] theorem brset_frames (c : Nat) (v : Bre) (s : State) : (brset c v s).frames = s.frames := rfl
@[simp] theorem brset_tapBad (c : Nat) (v : Bre) (s : State) : (brset c v s).tapBad = s.tapBad := rfl
@[simp] theorem brset_fluxes (c : Nat) (v : Bre) (s : State) : (brset c v s).fluxes = s.fluxes := rfl
@[simp] theorem brset_biases (c : Nat) (v : Bre) (s : State) : (brset c v s).biases = s.biases := rfl
@[simp] theorem brset_biasAt (c : Nat) (v : Bre) (s : State) : (brset c v s).biasAt = s.biasAt := rfl
@[simp] theorem brset_regions (c : Nat) (v : Bre) (s : State) : (brset c v s).regions = s.regions := rfl
@[simp] theorem brset_bdQual (c : Nat) (v : Bre) (s : State) : (brset c v s).bdQual = s.bdQual := rfl
@[simp] theorem brset_rfQualAt (c : Nat) (v : Bre) (s : State) : (brset c v s).rfQualAt = s.rfQualAt := rfl
@[simp] theorem brset_reads (c : Nat) (v : Bre) (s : State) : (brset c v s).reads = s.reads := rfl
@[simp] theorem brset_traces (c : Nat) (v : Bre) (s : State) : (brset c v s).traces = s.traces := rfl
@[simp] theorem brset_acqs (c : Nat) (v : Bre) (s : State) : (brset c v s).acqs = s.acqs := rfl
@[simp] theorem brset_krn (c : Nat) (v : Bre) (s : State) : (brset c v s).krn = s.krn := rfl
@[simp] theorem brset_krnBad (c : Nat) (v : Bre) (s : State) : (brset c v s).krnBad = s.krnBad := rfl
@[simp] theorem brset_tab (c : Nat) (v : Bre) (s : State) : (brset c v s).tab = s.tab := rfl
@[simp] theorem brset_tabBad (c : Nat) (v : Bre) (s : State) : (brset c v s).tabBad = s.tabBad := rfl
@[simp] theorem brset_crossings (c : Nat) (v : Bre) (s : State) : (brset c v s).crossings = s.crossings := rfl
@[simp] theorem brset_sets (c : Nat) (v : Bre) (s : State) : (brset c v s).sets = s.sets := rfl
@[simp] theorem brset_stream (c : Nat) (v : Bre) (s : State) : (brset c v s).stream = s.stream := rfl
@[simp] theorem brset_incs (c : Nat) (v : Bre) (s : State) : (brset c v s).incs = s.incs := rfl
@[simp] theorem brset_trig (c : Nat) (v : Bre) (s : State) : (brset c v s).trig = s.trig := rfl
@[simp] theorem brset_board (c : Nat) (v : Bre) (s : State) : (brset c v s).board = s.board := rfl
@[simp] theorem brset_vre (c : Nat) (v : Bre) (s : State) : (brset c v s).vre = s.vre := rfl
@[simp] theorem brset_clk (c : Nat) (v : Bre) (s : State) : (brset c v s).clk = s.clk := rfl
@[simp] theorem brset_ptp (c : Nat) (v : Bre) (s : State) : (brset c v s).ptp = s.ptp := rfl
@[simp] theorem brset_lanes (c : Nat) (v : Bre) (s : State) : (brset c v s).lanes = s.lanes := rfl
@[simp] theorem brset_hl (c : Nat) (v : Bre) (s : State) : (brset c v s).hl = s.hl := rfl
@[simp] theorem brset_vports (c : Nat) (v : Bre) (s : State) : (brset c v s).vports = s.vports := rfl
@[simp] theorem brset_maus (c : Nat) (v : Bre) (s : State) : (brset c v s).maus = s.maus := rfl
@[simp] theorem brset_therms (c : Nat) (v : Bre) (s : State) : (brset c v s).therms = s.therms := rfl
@[simp] theorem brset_cool (c : Nat) (v : Bre) (s : State) : (brset c v s).cool = s.cool := rfl
@[simp] theorem rd_brset (c : Nat) (v : Bre) (s : State) (r : Reg) (j : Nat) : rd (brset c v s) r j = rd s r j := rfl
@[simp] theorem rn_brset (c : Nat) (v : Bre) (s : State) (r : Reg) (j : Nat) : rn (brset c v s) r j = rn s r j := rfl

/-! ### bcset -/

@[simp] theorem bcset_pending (k : Nat) (v : BCell) (s : State) : (bcset k v s).pending = s.pending := rfl
@[simp] theorem bcset_elapsed (k : Nat) (v : BCell) (s : State) : (bcset k v s).elapsed = s.elapsed := rfl
@[simp] theorem bcset_free (k : Nat) (v : BCell) (s : State) : (bcset k v s).free = s.free := rfl
@[simp] theorem bcset_tml (k : Nat) (v : BCell) (s : State) : (bcset k v s).tml = s.tml := rfl
@[simp] theorem bcset_tmlOn (k : Nat) (v : BCell) (s : State) : (bcset k v s).tmlOn = s.tmlOn := rfl
@[simp] theorem bcset_regs (k : Nat) (v : BCell) (s : State) : (bcset k v s).regs = s.regs := rfl
@[simp] theorem bcset_queues (k : Nat) (v : BCell) (s : State) : (bcset k v s).queues = s.queues := rfl
@[simp] theorem bcset_poolLost (k : Nat) (v : BCell) (s : State) : (bcset k v s).poolLost = s.poolLost := rfl
@[simp] theorem bcset_fifos (k : Nat) (v : BCell) (s : State) : (bcset k v s).fifos = s.fifos := rfl
@[simp] theorem bcset_engs (k : Nat) (v : BCell) (s : State) : (bcset k v s).engs = s.engs := rfl
@[simp] theorem bcset_areas (k : Nat) (v : BCell) (s : State) : (bcset k v s).areas = s.areas := rfl
@[simp] theorem bcset_run (k : Nat) (v : BCell) (s : State) : (bcset k v s).run = s.run := rfl
@[simp] theorem bcset_image (k : Nat) (v : BCell) (s : State) : (bcset k v s).image = s.image := rfl
@[simp] theorem bcset_patches (k : Nat) (v : BCell) (s : State) : (bcset k v s).patches = s.patches := rfl
@[simp] theorem bcset_channels (k : Nat) (v : BCell) (s : State) : (bcset k v s).channels = s.channels := rfl
@[simp] theorem bcset_deliveries (k : Nat) (v : BCell) (s : State) : (bcset k v s).deliveries = s.deliveries := rfl
@[simp] theorem bcset_timers (k : Nat) (v : BCell) (s : State) : (bcset k v s).timers = s.timers := rfl
@[simp] theorem bcset_markers (k : Nat) (v : BCell) (s : State) : (bcset k v s).markers = s.markers := rfl
@[simp] theorem bcset_path0 (k : Nat) (v : BCell) (s : State) : (bcset k v s).path0 = s.path0 := rfl
@[simp] theorem bcset_path1 (k : Nat) (v : BCell) (s : State) : (bcset k v s).path1 = s.path1 := rfl
@[simp] theorem bcset_lastPath (k : Nat) (v : BCell) (s : State) : (bcset k v s).lastPath = s.lastPath := rfl
@[simp] theorem bcset_nvm (k : Nat) (v : BCell) (s : State) : (bcset k v s).nvm = s.nvm := rfl
@[simp] theorem bcset_boot (k : Nat) (v : BCell) (s : State) : (bcset k v s).boot = s.boot := rfl
@[simp] theorem bcset_flog (k : Nat) (v : BCell) (s : State) : (bcset k v s).flog = s.flog := rfl
@[simp] theorem bcset_scrubAt (k : Nat) (v : BCell) (s : State) : (bcset k v s).scrubAt = s.scrubAt := rfl
@[simp] theorem bcset_dram (k : Nat) (v : BCell) (s : State) : (bcset k v s).dram = s.dram := rfl
@[simp] theorem bcset_segs (k : Nat) (v : BCell) (s : State) : (bcset k v s).segs = s.segs := rfl
@[simp] theorem bcset_segMem (k : Nat) (v : BCell) (s : State) : (bcset k v s).segMem = s.segMem := rfl
@[simp] theorem bcset_segBad (k : Nat) (v : BCell) (s : State) : (bcset k v s).segBad = s.segBad := rfl
@[simp] theorem bcset_refills (k : Nat) (v : BCell) (s : State) : (bcset k v s).refills = s.refills := rfl
@[simp] theorem bcset_slices (k : Nat) (v : BCell) (s : State) : (bcset k v s).slices = s.slices := rfl
@[simp] theorem bcset_frames (k : Nat) (v : BCell) (s : State) : (bcset k v s).frames = s.frames := rfl
@[simp] theorem bcset_tapBad (k : Nat) (v : BCell) (s : State) : (bcset k v s).tapBad = s.tapBad := rfl
@[simp] theorem bcset_fluxes (k : Nat) (v : BCell) (s : State) : (bcset k v s).fluxes = s.fluxes := rfl
@[simp] theorem bcset_biases (k : Nat) (v : BCell) (s : State) : (bcset k v s).biases = s.biases := rfl
@[simp] theorem bcset_biasAt (k : Nat) (v : BCell) (s : State) : (bcset k v s).biasAt = s.biasAt := rfl
@[simp] theorem bcset_regions (k : Nat) (v : BCell) (s : State) : (bcset k v s).regions = s.regions := rfl
@[simp] theorem bcset_bdQual (k : Nat) (v : BCell) (s : State) : (bcset k v s).bdQual = s.bdQual := rfl
@[simp] theorem bcset_rfQualAt (k : Nat) (v : BCell) (s : State) : (bcset k v s).rfQualAt = s.rfQualAt := rfl
@[simp] theorem bcset_reads (k : Nat) (v : BCell) (s : State) : (bcset k v s).reads = s.reads := rfl
@[simp] theorem bcset_traces (k : Nat) (v : BCell) (s : State) : (bcset k v s).traces = s.traces := rfl
@[simp] theorem bcset_acqs (k : Nat) (v : BCell) (s : State) : (bcset k v s).acqs = s.acqs := rfl
@[simp] theorem bcset_krn (k : Nat) (v : BCell) (s : State) : (bcset k v s).krn = s.krn := rfl
@[simp] theorem bcset_krnBad (k : Nat) (v : BCell) (s : State) : (bcset k v s).krnBad = s.krnBad := rfl
@[simp] theorem bcset_tab (k : Nat) (v : BCell) (s : State) : (bcset k v s).tab = s.tab := rfl
@[simp] theorem bcset_tabBad (k : Nat) (v : BCell) (s : State) : (bcset k v s).tabBad = s.tabBad := rfl
@[simp] theorem bcset_crossings (k : Nat) (v : BCell) (s : State) : (bcset k v s).crossings = s.crossings := rfl
@[simp] theorem bcset_sets (k : Nat) (v : BCell) (s : State) : (bcset k v s).sets = s.sets := rfl
@[simp] theorem bcset_stream (k : Nat) (v : BCell) (s : State) : (bcset k v s).stream = s.stream := rfl
@[simp] theorem bcset_incs (k : Nat) (v : BCell) (s : State) : (bcset k v s).incs = s.incs := rfl
@[simp] theorem bcset_trig (k : Nat) (v : BCell) (s : State) : (bcset k v s).trig = s.trig := rfl
@[simp] theorem bcset_bres (k : Nat) (v : BCell) (s : State) : (bcset k v s).bres = s.bres := rfl
@[simp] theorem bcset_vre (k : Nat) (v : BCell) (s : State) : (bcset k v s).vre = s.vre := rfl
@[simp] theorem bcset_clk (k : Nat) (v : BCell) (s : State) : (bcset k v s).clk = s.clk := rfl
@[simp] theorem bcset_ptp (k : Nat) (v : BCell) (s : State) : (bcset k v s).ptp = s.ptp := rfl
@[simp] theorem bcset_lanes (k : Nat) (v : BCell) (s : State) : (bcset k v s).lanes = s.lanes := rfl
@[simp] theorem bcset_hl (k : Nat) (v : BCell) (s : State) : (bcset k v s).hl = s.hl := rfl
@[simp] theorem bcset_vports (k : Nat) (v : BCell) (s : State) : (bcset k v s).vports = s.vports := rfl
@[simp] theorem bcset_maus (k : Nat) (v : BCell) (s : State) : (bcset k v s).maus = s.maus := rfl
@[simp] theorem bcset_therms (k : Nat) (v : BCell) (s : State) : (bcset k v s).therms = s.therms := rfl
@[simp] theorem bcset_cool (k : Nat) (v : BCell) (s : State) : (bcset k v s).cool = s.cool := rfl
@[simp] theorem rd_bcset (k : Nat) (v : BCell) (s : State) (r : Reg) (j : Nat) : rd (bcset k v s) r j = rd s r j := rfl
@[simp] theorem rn_bcset (k : Nat) (v : BCell) (s : State) (r : Reg) (j : Nat) : rn (bcset k v s) r j = rn s r j := rfl

/-! ### setClk -/

@[simp] theorem setClk_pending (c : Clocks) (s : State) : (setClk c s).pending = s.pending := rfl
@[simp] theorem setClk_elapsed (c : Clocks) (s : State) : (setClk c s).elapsed = s.elapsed := rfl
@[simp] theorem setClk_free (c : Clocks) (s : State) : (setClk c s).free = s.free := rfl
@[simp] theorem setClk_tml (c : Clocks) (s : State) : (setClk c s).tml = s.tml := rfl
@[simp] theorem setClk_tmlOn (c : Clocks) (s : State) : (setClk c s).tmlOn = s.tmlOn := rfl
@[simp] theorem setClk_regs (c : Clocks) (s : State) : (setClk c s).regs = s.regs := rfl
@[simp] theorem setClk_queues (c : Clocks) (s : State) : (setClk c s).queues = s.queues := rfl
@[simp] theorem setClk_poolLost (c : Clocks) (s : State) : (setClk c s).poolLost = s.poolLost := rfl
@[simp] theorem setClk_fifos (c : Clocks) (s : State) : (setClk c s).fifos = s.fifos := rfl
@[simp] theorem setClk_engs (c : Clocks) (s : State) : (setClk c s).engs = s.engs := rfl
@[simp] theorem setClk_areas (c : Clocks) (s : State) : (setClk c s).areas = s.areas := rfl
@[simp] theorem setClk_run (c : Clocks) (s : State) : (setClk c s).run = s.run := rfl
@[simp] theorem setClk_image (c : Clocks) (s : State) : (setClk c s).image = s.image := rfl
@[simp] theorem setClk_patches (c : Clocks) (s : State) : (setClk c s).patches = s.patches := rfl
@[simp] theorem setClk_channels (c : Clocks) (s : State) : (setClk c s).channels = s.channels := rfl
@[simp] theorem setClk_deliveries (c : Clocks) (s : State) : (setClk c s).deliveries = s.deliveries := rfl
@[simp] theorem setClk_timers (c : Clocks) (s : State) : (setClk c s).timers = s.timers := rfl
@[simp] theorem setClk_markers (c : Clocks) (s : State) : (setClk c s).markers = s.markers := rfl
@[simp] theorem setClk_path0 (c : Clocks) (s : State) : (setClk c s).path0 = s.path0 := rfl
@[simp] theorem setClk_path1 (c : Clocks) (s : State) : (setClk c s).path1 = s.path1 := rfl
@[simp] theorem setClk_lastPath (c : Clocks) (s : State) : (setClk c s).lastPath = s.lastPath := rfl
@[simp] theorem setClk_nvm (c : Clocks) (s : State) : (setClk c s).nvm = s.nvm := rfl
@[simp] theorem setClk_boot (c : Clocks) (s : State) : (setClk c s).boot = s.boot := rfl
@[simp] theorem setClk_flog (c : Clocks) (s : State) : (setClk c s).flog = s.flog := rfl
@[simp] theorem setClk_scrubAt (c : Clocks) (s : State) : (setClk c s).scrubAt = s.scrubAt := rfl
@[simp] theorem setClk_dram (c : Clocks) (s : State) : (setClk c s).dram = s.dram := rfl
@[simp] theorem setClk_segs (c : Clocks) (s : State) : (setClk c s).segs = s.segs := rfl
@[simp] theorem setClk_segMem (c : Clocks) (s : State) : (setClk c s).segMem = s.segMem := rfl
@[simp] theorem setClk_segBad (c : Clocks) (s : State) : (setClk c s).segBad = s.segBad := rfl
@[simp] theorem setClk_refills (c : Clocks) (s : State) : (setClk c s).refills = s.refills := rfl
@[simp] theorem setClk_slices (c : Clocks) (s : State) : (setClk c s).slices = s.slices := rfl
@[simp] theorem setClk_frames (c : Clocks) (s : State) : (setClk c s).frames = s.frames := rfl
@[simp] theorem setClk_tapBad (c : Clocks) (s : State) : (setClk c s).tapBad = s.tapBad := rfl
@[simp] theorem setClk_fluxes (c : Clocks) (s : State) : (setClk c s).fluxes = s.fluxes := rfl
@[simp] theorem setClk_biases (c : Clocks) (s : State) : (setClk c s).biases = s.biases := rfl
@[simp] theorem setClk_biasAt (c : Clocks) (s : State) : (setClk c s).biasAt = s.biasAt := rfl
@[simp] theorem setClk_regions (c : Clocks) (s : State) : (setClk c s).regions = s.regions := rfl
@[simp] theorem setClk_bdQual (c : Clocks) (s : State) : (setClk c s).bdQual = s.bdQual := rfl
@[simp] theorem setClk_rfQualAt (c : Clocks) (s : State) : (setClk c s).rfQualAt = s.rfQualAt := rfl
@[simp] theorem setClk_reads (c : Clocks) (s : State) : (setClk c s).reads = s.reads := rfl
@[simp] theorem setClk_traces (c : Clocks) (s : State) : (setClk c s).traces = s.traces := rfl
@[simp] theorem setClk_acqs (c : Clocks) (s : State) : (setClk c s).acqs = s.acqs := rfl
@[simp] theorem setClk_krn (c : Clocks) (s : State) : (setClk c s).krn = s.krn := rfl
@[simp] theorem setClk_krnBad (c : Clocks) (s : State) : (setClk c s).krnBad = s.krnBad := rfl
@[simp] theorem setClk_tab (c : Clocks) (s : State) : (setClk c s).tab = s.tab := rfl
@[simp] theorem setClk_tabBad (c : Clocks) (s : State) : (setClk c s).tabBad = s.tabBad := rfl
@[simp] theorem setClk_crossings (c : Clocks) (s : State) : (setClk c s).crossings = s.crossings := rfl
@[simp] theorem setClk_sets (c : Clocks) (s : State) : (setClk c s).sets = s.sets := rfl
@[simp] theorem setClk_stream (c : Clocks) (s : State) : (setClk c s).stream = s.stream := rfl
@[simp] theorem setClk_incs (c : Clocks) (s : State) : (setClk c s).incs = s.incs := rfl
@[simp] theorem setClk_trig (c : Clocks) (s : State) : (setClk c s).trig = s.trig := rfl
@[simp] theorem setClk_board (c : Clocks) (s : State) : (setClk c s).board = s.board := rfl
@[simp] theorem setClk_bres (c : Clocks) (s : State) : (setClk c s).bres = s.bres := rfl
@[simp] theorem setClk_vre (c : Clocks) (s : State) : (setClk c s).vre = s.vre := rfl
@[simp] theorem setClk_ptp (c : Clocks) (s : State) : (setClk c s).ptp = s.ptp := rfl
@[simp] theorem setClk_lanes (c : Clocks) (s : State) : (setClk c s).lanes = s.lanes := rfl
@[simp] theorem setClk_hl (c : Clocks) (s : State) : (setClk c s).hl = s.hl := rfl
@[simp] theorem setClk_vports (c : Clocks) (s : State) : (setClk c s).vports = s.vports := rfl
@[simp] theorem setClk_maus (c : Clocks) (s : State) : (setClk c s).maus = s.maus := rfl
@[simp] theorem setClk_therms (c : Clocks) (s : State) : (setClk c s).therms = s.therms := rfl
@[simp] theorem setClk_cool (c : Clocks) (s : State) : (setClk c s).cool = s.cool := rfl
@[simp] theorem rd_setClk (c : Clocks) (s : State) (r : Reg) (j : Nat) : rd (setClk c s) r j = rd s r j := rfl
@[simp] theorem rn_setClk (c : Clocks) (s : State) (r : Reg) (j : Nat) : rn (setClk c s) r j = rn s r j := rfl

/-! ### setDram -/

@[simp] theorem setDram_pending (d : Dram) (s : State) : (setDram d s).pending = s.pending := rfl
@[simp] theorem setDram_elapsed (d : Dram) (s : State) : (setDram d s).elapsed = s.elapsed := rfl
@[simp] theorem setDram_free (d : Dram) (s : State) : (setDram d s).free = s.free := rfl
@[simp] theorem setDram_tml (d : Dram) (s : State) : (setDram d s).tml = s.tml := rfl
@[simp] theorem setDram_tmlOn (d : Dram) (s : State) : (setDram d s).tmlOn = s.tmlOn := rfl
@[simp] theorem setDram_regs (d : Dram) (s : State) : (setDram d s).regs = s.regs := rfl
@[simp] theorem setDram_queues (d : Dram) (s : State) : (setDram d s).queues = s.queues := rfl
@[simp] theorem setDram_poolLost (d : Dram) (s : State) : (setDram d s).poolLost = s.poolLost := rfl
@[simp] theorem setDram_fifos (d : Dram) (s : State) : (setDram d s).fifos = s.fifos := rfl
@[simp] theorem setDram_engs (d : Dram) (s : State) : (setDram d s).engs = s.engs := rfl
@[simp] theorem setDram_areas (d : Dram) (s : State) : (setDram d s).areas = s.areas := rfl
@[simp] theorem setDram_run (d : Dram) (s : State) : (setDram d s).run = s.run := rfl
@[simp] theorem setDram_image (d : Dram) (s : State) : (setDram d s).image = s.image := rfl
@[simp] theorem setDram_patches (d : Dram) (s : State) : (setDram d s).patches = s.patches := rfl
@[simp] theorem setDram_channels (d : Dram) (s : State) : (setDram d s).channels = s.channels := rfl
@[simp] theorem setDram_deliveries (d : Dram) (s : State) : (setDram d s).deliveries = s.deliveries := rfl
@[simp] theorem setDram_timers (d : Dram) (s : State) : (setDram d s).timers = s.timers := rfl
@[simp] theorem setDram_markers (d : Dram) (s : State) : (setDram d s).markers = s.markers := rfl
@[simp] theorem setDram_path0 (d : Dram) (s : State) : (setDram d s).path0 = s.path0 := rfl
@[simp] theorem setDram_path1 (d : Dram) (s : State) : (setDram d s).path1 = s.path1 := rfl
@[simp] theorem setDram_lastPath (d : Dram) (s : State) : (setDram d s).lastPath = s.lastPath := rfl
@[simp] theorem setDram_nvm (d : Dram) (s : State) : (setDram d s).nvm = s.nvm := rfl
@[simp] theorem setDram_boot (d : Dram) (s : State) : (setDram d s).boot = s.boot := rfl
@[simp] theorem setDram_flog (d : Dram) (s : State) : (setDram d s).flog = s.flog := rfl
@[simp] theorem setDram_scrubAt (d : Dram) (s : State) : (setDram d s).scrubAt = s.scrubAt := rfl
@[simp] theorem setDram_segs (d : Dram) (s : State) : (setDram d s).segs = s.segs := rfl
@[simp] theorem setDram_segMem (d : Dram) (s : State) : (setDram d s).segMem = s.segMem := rfl
@[simp] theorem setDram_segBad (d : Dram) (s : State) : (setDram d s).segBad = s.segBad := rfl
@[simp] theorem setDram_refills (d : Dram) (s : State) : (setDram d s).refills = s.refills := rfl
@[simp] theorem setDram_slices (d : Dram) (s : State) : (setDram d s).slices = s.slices := rfl
@[simp] theorem setDram_frames (d : Dram) (s : State) : (setDram d s).frames = s.frames := rfl
@[simp] theorem setDram_tapBad (d : Dram) (s : State) : (setDram d s).tapBad = s.tapBad := rfl
@[simp] theorem setDram_fluxes (d : Dram) (s : State) : (setDram d s).fluxes = s.fluxes := rfl
@[simp] theorem setDram_biases (d : Dram) (s : State) : (setDram d s).biases = s.biases := rfl
@[simp] theorem setDram_biasAt (d : Dram) (s : State) : (setDram d s).biasAt = s.biasAt := rfl
@[simp] theorem setDram_regions (d : Dram) (s : State) : (setDram d s).regions = s.regions := rfl
@[simp] theorem setDram_bdQual (d : Dram) (s : State) : (setDram d s).bdQual = s.bdQual := rfl
@[simp] theorem setDram_rfQualAt (d : Dram) (s : State) : (setDram d s).rfQualAt = s.rfQualAt := rfl
@[simp] theorem setDram_reads (d : Dram) (s : State) : (setDram d s).reads = s.reads := rfl
@[simp] theorem setDram_traces (d : Dram) (s : State) : (setDram d s).traces = s.traces := rfl
@[simp] theorem setDram_acqs (d : Dram) (s : State) : (setDram d s).acqs = s.acqs := rfl
@[simp] theorem setDram_krn (d : Dram) (s : State) : (setDram d s).krn = s.krn := rfl
@[simp] theorem setDram_krnBad (d : Dram) (s : State) : (setDram d s).krnBad = s.krnBad := rfl
@[simp] theorem setDram_tab (d : Dram) (s : State) : (setDram d s).tab = s.tab := rfl
@[simp] theorem setDram_tabBad (d : Dram) (s : State) : (setDram d s).tabBad = s.tabBad := rfl
@[simp] theorem setDram_crossings (d : Dram) (s : State) : (setDram d s).crossings = s.crossings := rfl
@[simp] theorem setDram_sets (d : Dram) (s : State) : (setDram d s).sets = s.sets := rfl
@[simp] theorem setDram_stream (d : Dram) (s : State) : (setDram d s).stream = s.stream := rfl
@[simp] theorem setDram_incs (d : Dram) (s : State) : (setDram d s).incs = s.incs := rfl
@[simp] theorem setDram_trig (d : Dram) (s : State) : (setDram d s).trig = s.trig := rfl
@[simp] theorem setDram_board (d : Dram) (s : State) : (setDram d s).board = s.board := rfl
@[simp] theorem setDram_bres (d : Dram) (s : State) : (setDram d s).bres = s.bres := rfl
@[simp] theorem setDram_vre (d : Dram) (s : State) : (setDram d s).vre = s.vre := rfl
@[simp] theorem setDram_clk (d : Dram) (s : State) : (setDram d s).clk = s.clk := rfl
@[simp] theorem setDram_ptp (d : Dram) (s : State) : (setDram d s).ptp = s.ptp := rfl
@[simp] theorem setDram_lanes (d : Dram) (s : State) : (setDram d s).lanes = s.lanes := rfl
@[simp] theorem setDram_hl (d : Dram) (s : State) : (setDram d s).hl = s.hl := rfl
@[simp] theorem setDram_vports (d : Dram) (s : State) : (setDram d s).vports = s.vports := rfl
@[simp] theorem setDram_maus (d : Dram) (s : State) : (setDram d s).maus = s.maus := rfl
@[simp] theorem setDram_therms (d : Dram) (s : State) : (setDram d s).therms = s.therms := rfl
@[simp] theorem setDram_cool (d : Dram) (s : State) : (setDram d s).cool = s.cool := rfl
@[simp] theorem rd_setDram (d : Dram) (s : State) (r : Reg) (j : Nat) : rd (setDram d s) r j = rd s r j := rfl
@[simp] theorem rn_setDram (d : Dram) (s : State) (r : Reg) (j : Nat) : rn (setDram d s) r j = rn s r j := rfl

/-! ### thset -/

@[simp] theorem thset_pending (g : Nat) (v : Therm) (s : State) : (thset g v s).pending = s.pending := rfl
@[simp] theorem thset_elapsed (g : Nat) (v : Therm) (s : State) : (thset g v s).elapsed = s.elapsed := rfl
@[simp] theorem thset_free (g : Nat) (v : Therm) (s : State) : (thset g v s).free = s.free := rfl
@[simp] theorem thset_tml (g : Nat) (v : Therm) (s : State) : (thset g v s).tml = s.tml := rfl
@[simp] theorem thset_tmlOn (g : Nat) (v : Therm) (s : State) : (thset g v s).tmlOn = s.tmlOn := rfl
@[simp] theorem thset_regs (g : Nat) (v : Therm) (s : State) : (thset g v s).regs = s.regs := rfl
@[simp] theorem thset_queues (g : Nat) (v : Therm) (s : State) : (thset g v s).queues = s.queues := rfl
@[simp] theorem thset_poolLost (g : Nat) (v : Therm) (s : State) : (thset g v s).poolLost = s.poolLost := rfl
@[simp] theorem thset_fifos (g : Nat) (v : Therm) (s : State) : (thset g v s).fifos = s.fifos := rfl
@[simp] theorem thset_engs (g : Nat) (v : Therm) (s : State) : (thset g v s).engs = s.engs := rfl
@[simp] theorem thset_areas (g : Nat) (v : Therm) (s : State) : (thset g v s).areas = s.areas := rfl
@[simp] theorem thset_run (g : Nat) (v : Therm) (s : State) : (thset g v s).run = s.run := rfl
@[simp] theorem thset_image (g : Nat) (v : Therm) (s : State) : (thset g v s).image = s.image := rfl
@[simp] theorem thset_patches (g : Nat) (v : Therm) (s : State) : (thset g v s).patches = s.patches := rfl
@[simp] theorem thset_channels (g : Nat) (v : Therm) (s : State) : (thset g v s).channels = s.channels := rfl
@[simp] theorem thset_deliveries (g : Nat) (v : Therm) (s : State) : (thset g v s).deliveries = s.deliveries := rfl
@[simp] theorem thset_timers (g : Nat) (v : Therm) (s : State) : (thset g v s).timers = s.timers := rfl
@[simp] theorem thset_markers (g : Nat) (v : Therm) (s : State) : (thset g v s).markers = s.markers := rfl
@[simp] theorem thset_path0 (g : Nat) (v : Therm) (s : State) : (thset g v s).path0 = s.path0 := rfl
@[simp] theorem thset_path1 (g : Nat) (v : Therm) (s : State) : (thset g v s).path1 = s.path1 := rfl
@[simp] theorem thset_lastPath (g : Nat) (v : Therm) (s : State) : (thset g v s).lastPath = s.lastPath := rfl
@[simp] theorem thset_nvm (g : Nat) (v : Therm) (s : State) : (thset g v s).nvm = s.nvm := rfl
@[simp] theorem thset_boot (g : Nat) (v : Therm) (s : State) : (thset g v s).boot = s.boot := rfl
@[simp] theorem thset_flog (g : Nat) (v : Therm) (s : State) : (thset g v s).flog = s.flog := rfl
@[simp] theorem thset_scrubAt (g : Nat) (v : Therm) (s : State) : (thset g v s).scrubAt = s.scrubAt := rfl
@[simp] theorem thset_dram (g : Nat) (v : Therm) (s : State) : (thset g v s).dram = s.dram := rfl
@[simp] theorem thset_segs (g : Nat) (v : Therm) (s : State) : (thset g v s).segs = s.segs := rfl
@[simp] theorem thset_segMem (g : Nat) (v : Therm) (s : State) : (thset g v s).segMem = s.segMem := rfl
@[simp] theorem thset_segBad (g : Nat) (v : Therm) (s : State) : (thset g v s).segBad = s.segBad := rfl
@[simp] theorem thset_refills (g : Nat) (v : Therm) (s : State) : (thset g v s).refills = s.refills := rfl
@[simp] theorem thset_slices (g : Nat) (v : Therm) (s : State) : (thset g v s).slices = s.slices := rfl
@[simp] theorem thset_frames (g : Nat) (v : Therm) (s : State) : (thset g v s).frames = s.frames := rfl
@[simp] theorem thset_tapBad (g : Nat) (v : Therm) (s : State) : (thset g v s).tapBad = s.tapBad := rfl
@[simp] theorem thset_fluxes (g : Nat) (v : Therm) (s : State) : (thset g v s).fluxes = s.fluxes := rfl
@[simp] theorem thset_biases (g : Nat) (v : Therm) (s : State) : (thset g v s).biases = s.biases := rfl
@[simp] theorem thset_biasAt (g : Nat) (v : Therm) (s : State) : (thset g v s).biasAt = s.biasAt := rfl
@[simp] theorem thset_regions (g : Nat) (v : Therm) (s : State) : (thset g v s).regions = s.regions := rfl
@[simp] theorem thset_bdQual (g : Nat) (v : Therm) (s : State) : (thset g v s).bdQual = s.bdQual := rfl
@[simp] theorem thset_rfQualAt (g : Nat) (v : Therm) (s : State) : (thset g v s).rfQualAt = s.rfQualAt := rfl
@[simp] theorem thset_reads (g : Nat) (v : Therm) (s : State) : (thset g v s).reads = s.reads := rfl
@[simp] theorem thset_traces (g : Nat) (v : Therm) (s : State) : (thset g v s).traces = s.traces := rfl
@[simp] theorem thset_acqs (g : Nat) (v : Therm) (s : State) : (thset g v s).acqs = s.acqs := rfl
@[simp] theorem thset_krn (g : Nat) (v : Therm) (s : State) : (thset g v s).krn = s.krn := rfl
@[simp] theorem thset_krnBad (g : Nat) (v : Therm) (s : State) : (thset g v s).krnBad = s.krnBad := rfl
@[simp] theorem thset_tab (g : Nat) (v : Therm) (s : State) : (thset g v s).tab = s.tab := rfl
@[simp] theorem thset_tabBad (g : Nat) (v : Therm) (s : State) : (thset g v s).tabBad = s.tabBad := rfl
@[simp] theorem thset_crossings (g : Nat) (v : Therm) (s : State) : (thset g v s).crossings = s.crossings := rfl
@[simp] theorem thset_sets (g : Nat) (v : Therm) (s : State) : (thset g v s).sets = s.sets := rfl
@[simp] theorem thset_stream (g : Nat) (v : Therm) (s : State) : (thset g v s).stream = s.stream := rfl
@[simp] theorem thset_incs (g : Nat) (v : Therm) (s : State) : (thset g v s).incs = s.incs := rfl
@[simp] theorem thset_trig (g : Nat) (v : Therm) (s : State) : (thset g v s).trig = s.trig := rfl
@[simp] theorem thset_board (g : Nat) (v : Therm) (s : State) : (thset g v s).board = s.board := rfl
@[simp] theorem thset_bres (g : Nat) (v : Therm) (s : State) : (thset g v s).bres = s.bres := rfl
@[simp] theorem thset_vre (g : Nat) (v : Therm) (s : State) : (thset g v s).vre = s.vre := rfl
@[simp] theorem thset_clk (g : Nat) (v : Therm) (s : State) : (thset g v s).clk = s.clk := rfl
@[simp] theorem thset_ptp (g : Nat) (v : Therm) (s : State) : (thset g v s).ptp = s.ptp := rfl
@[simp] theorem thset_lanes (g : Nat) (v : Therm) (s : State) : (thset g v s).lanes = s.lanes := rfl
@[simp] theorem thset_hl (g : Nat) (v : Therm) (s : State) : (thset g v s).hl = s.hl := rfl
@[simp] theorem thset_vports (g : Nat) (v : Therm) (s : State) : (thset g v s).vports = s.vports := rfl
@[simp] theorem thset_maus (g : Nat) (v : Therm) (s : State) : (thset g v s).maus = s.maus := rfl
@[simp] theorem thset_cool (g : Nat) (v : Therm) (s : State) : (thset g v s).cool = s.cool := rfl
@[simp] theorem rd_thset (g : Nat) (v : Therm) (s : State) (r : Reg) (j : Nat) : rd (thset g v s) r j = rd s r j := rfl
@[simp] theorem rn_thset (g : Nat) (v : Therm) (s : State) (r : Reg) (j : Nat) : rn (thset g v s) r j = rn s r j := rfl

/-! ### setPatch -/

@[simp] theorem setPatch_pending (k : Nat) (v : Patch) (s : State) : (setPatch k v s).pending = s.pending := rfl
@[simp] theorem setPatch_elapsed (k : Nat) (v : Patch) (s : State) : (setPatch k v s).elapsed = s.elapsed := rfl
@[simp] theorem setPatch_free (k : Nat) (v : Patch) (s : State) : (setPatch k v s).free = s.free := rfl
@[simp] theorem setPatch_tml (k : Nat) (v : Patch) (s : State) : (setPatch k v s).tml = s.tml := rfl
@[simp] theorem setPatch_tmlOn (k : Nat) (v : Patch) (s : State) : (setPatch k v s).tmlOn = s.tmlOn := rfl
@[simp] theorem setPatch_regs (k : Nat) (v : Patch) (s : State) : (setPatch k v s).regs = s.regs := rfl
@[simp] theorem setPatch_queues (k : Nat) (v : Patch) (s : State) : (setPatch k v s).queues = s.queues := rfl
@[simp] theorem setPatch_poolLost (k : Nat) (v : Patch) (s : State) : (setPatch k v s).poolLost = s.poolLost := rfl
@[simp] theorem setPatch_fifos (k : Nat) (v : Patch) (s : State) : (setPatch k v s).fifos = s.fifos := rfl
@[simp] theorem setPatch_engs (k : Nat) (v : Patch) (s : State) : (setPatch k v s).engs = s.engs := rfl
@[simp] theorem setPatch_areas (k : Nat) (v : Patch) (s : State) : (setPatch k v s).areas = s.areas := rfl
@[simp] theorem setPatch_run (k : Nat) (v : Patch) (s : State) : (setPatch k v s).run = s.run := rfl
@[simp] theorem setPatch_image (k : Nat) (v : Patch) (s : State) : (setPatch k v s).image = s.image := rfl
@[simp] theorem setPatch_channels (k : Nat) (v : Patch) (s : State) : (setPatch k v s).channels = s.channels := rfl
@[simp] theorem setPatch_deliveries (k : Nat) (v : Patch) (s : State) : (setPatch k v s).deliveries = s.deliveries := rfl
@[simp] theorem setPatch_timers (k : Nat) (v : Patch) (s : State) : (setPatch k v s).timers = s.timers := rfl
@[simp] theorem setPatch_markers (k : Nat) (v : Patch) (s : State) : (setPatch k v s).markers = s.markers := rfl
@[simp] theorem setPatch_path0 (k : Nat) (v : Patch) (s : State) : (setPatch k v s).path0 = s.path0 := rfl
@[simp] theorem setPatch_path1 (k : Nat) (v : Patch) (s : State) : (setPatch k v s).path1 = s.path1 := rfl
@[simp] theorem setPatch_lastPath (k : Nat) (v : Patch) (s : State) : (setPatch k v s).lastPath = s.lastPath := rfl
@[simp] theorem setPatch_nvm (k : Nat) (v : Patch) (s : State) : (setPatch k v s).nvm = s.nvm := rfl
@[simp] theorem setPatch_boot (k : Nat) (v : Patch) (s : State) : (setPatch k v s).boot = s.boot := rfl
@[simp] theorem setPatch_flog (k : Nat) (v : Patch) (s : State) : (setPatch k v s).flog = s.flog := rfl
@[simp] theorem setPatch_scrubAt (k : Nat) (v : Patch) (s : State) : (setPatch k v s).scrubAt = s.scrubAt := rfl
@[simp] theorem setPatch_dram (k : Nat) (v : Patch) (s : State) : (setPatch k v s).dram = s.dram := rfl
@[simp] theorem setPatch_segs (k : Nat) (v : Patch) (s : State) : (setPatch k v s).segs = s.segs := rfl
@[simp] theorem setPatch_segMem (k : Nat) (v : Patch) (s : State) : (setPatch k v s).segMem = s.segMem := rfl
@[simp] theorem setPatch_segBad (k : Nat) (v : Patch) (s : State) : (setPatch k v s).segBad = s.segBad := rfl
@[simp] theorem setPatch_refills (k : Nat) (v : Patch) (s : State) : (setPatch k v s).refills = s.refills := rfl
@[simp] theorem setPatch_slices (k : Nat) (v : Patch) (s : State) : (setPatch k v s).slices = s.slices := rfl
@[simp] theorem setPatch_frames (k : Nat) (v : Patch) (s : State) : (setPatch k v s).frames = s.frames := rfl
@[simp] theorem setPatch_tapBad (k : Nat) (v : Patch) (s : State) : (setPatch k v s).tapBad = s.tapBad := rfl
@[simp] theorem setPatch_fluxes (k : Nat) (v : Patch) (s : State) : (setPatch k v s).fluxes = s.fluxes := rfl
@[simp] theorem setPatch_biases (k : Nat) (v : Patch) (s : State) : (setPatch k v s).biases = s.biases := rfl
@[simp] theorem setPatch_biasAt (k : Nat) (v : Patch) (s : State) : (setPatch k v s).biasAt = s.biasAt := rfl
@[simp] theorem setPatch_regions (k : Nat) (v : Patch) (s : State) : (setPatch k v s).regions = s.regions := rfl
@[simp] theorem setPatch_bdQual (k : Nat) (v : Patch) (s : State) : (setPatch k v s).bdQual = s.bdQual := rfl
@[simp] theorem setPatch_rfQualAt (k : Nat) (v : Patch) (s : State) : (setPatch k v s).rfQualAt = s.rfQualAt := rfl
@[simp] theorem setPatch_reads (k : Nat) (v : Patch) (s : State) : (setPatch k v s).reads = s.reads := rfl
@[simp] theorem setPatch_traces (k : Nat) (v : Patch) (s : State) : (setPatch k v s).traces = s.traces := rfl
@[simp] theorem setPatch_acqs (k : Nat) (v : Patch) (s : State) : (setPatch k v s).acqs = s.acqs := rfl
@[simp] theorem setPatch_krn (k : Nat) (v : Patch) (s : State) : (setPatch k v s).krn = s.krn := rfl
@[simp] theorem setPatch_krnBad (k : Nat) (v : Patch) (s : State) : (setPatch k v s).krnBad = s.krnBad := rfl
@[simp] theorem setPatch_tab (k : Nat) (v : Patch) (s : State) : (setPatch k v s).tab = s.tab := rfl
@[simp] theorem setPatch_tabBad (k : Nat) (v : Patch) (s : State) : (setPatch k v s).tabBad = s.tabBad := rfl
@[simp] theorem setPatch_crossings (k : Nat) (v : Patch) (s : State) : (setPatch k v s).crossings = s.crossings := rfl
@[simp] theorem setPatch_sets (k : Nat) (v : Patch) (s : State) : (setPatch k v s).sets = s.sets := rfl
@[simp] theorem setPatch_stream (k : Nat) (v : Patch) (s : State) : (setPatch k v s).stream = s.stream := rfl
@[simp] theorem setPatch_incs (k : Nat) (v : Patch) (s : State) : (setPatch k v s).incs = s.incs := rfl
@[simp] theorem setPatch_trig (k : Nat) (v : Patch) (s : State) : (setPatch k v s).trig = s.trig := rfl
@[simp] theorem setPatch_board (k : Nat) (v : Patch) (s : State) : (setPatch k v s).board = s.board := rfl
@[simp] theorem setPatch_bres (k : Nat) (v : Patch) (s : State) : (setPatch k v s).bres = s.bres := rfl
@[simp] theorem setPatch_vre (k : Nat) (v : Patch) (s : State) : (setPatch k v s).vre = s.vre := rfl
@[simp] theorem setPatch_clk (k : Nat) (v : Patch) (s : State) : (setPatch k v s).clk = s.clk := rfl
@[simp] theorem setPatch_ptp (k : Nat) (v : Patch) (s : State) : (setPatch k v s).ptp = s.ptp := rfl
@[simp] theorem setPatch_lanes (k : Nat) (v : Patch) (s : State) : (setPatch k v s).lanes = s.lanes := rfl
@[simp] theorem setPatch_hl (k : Nat) (v : Patch) (s : State) : (setPatch k v s).hl = s.hl := rfl
@[simp] theorem setPatch_vports (k : Nat) (v : Patch) (s : State) : (setPatch k v s).vports = s.vports := rfl
@[simp] theorem setPatch_maus (k : Nat) (v : Patch) (s : State) : (setPatch k v s).maus = s.maus := rfl
@[simp] theorem setPatch_therms (k : Nat) (v : Patch) (s : State) : (setPatch k v s).therms = s.therms := rfl
@[simp] theorem setPatch_cool (k : Nat) (v : Patch) (s : State) : (setPatch k v s).cool = s.cool := rfl
@[simp] theorem rd_setPatch (k : Nat) (v : Patch) (s : State) (r : Reg) (j : Nat) : rd (setPatch k v s) r j = rd s r j := rfl
@[simp] theorem rn_setPatch (k : Nat) (v : Patch) (s : State) (r : Reg) (j : Nat) : rn (setPatch k v s) r j = rn s r j := rfl

/-! ### setDch -/

@[simp] theorem setDch_pending (c : Nat) (v : DramCh) (s : State) : (setDch c v s).pending = s.pending := rfl
@[simp] theorem setDch_elapsed (c : Nat) (v : DramCh) (s : State) : (setDch c v s).elapsed = s.elapsed := rfl
@[simp] theorem setDch_free (c : Nat) (v : DramCh) (s : State) : (setDch c v s).free = s.free := rfl
@[simp] theorem setDch_tml (c : Nat) (v : DramCh) (s : State) : (setDch c v s).tml = s.tml := rfl
@[simp] theorem setDch_tmlOn (c : Nat) (v : DramCh) (s : State) : (setDch c v s).tmlOn = s.tmlOn := rfl
@[simp] theorem setDch_regs (c : Nat) (v : DramCh) (s : State) : (setDch c v s).regs = s.regs := rfl
@[simp] theorem setDch_queues (c : Nat) (v : DramCh) (s : State) : (setDch c v s).queues = s.queues := rfl
@[simp] theorem setDch_poolLost (c : Nat) (v : DramCh) (s : State) : (setDch c v s).poolLost = s.poolLost := rfl
@[simp] theorem setDch_fifos (c : Nat) (v : DramCh) (s : State) : (setDch c v s).fifos = s.fifos := rfl
@[simp] theorem setDch_engs (c : Nat) (v : DramCh) (s : State) : (setDch c v s).engs = s.engs := rfl
@[simp] theorem setDch_areas (c : Nat) (v : DramCh) (s : State) : (setDch c v s).areas = s.areas := rfl
@[simp] theorem setDch_run (c : Nat) (v : DramCh) (s : State) : (setDch c v s).run = s.run := rfl
@[simp] theorem setDch_image (c : Nat) (v : DramCh) (s : State) : (setDch c v s).image = s.image := rfl
@[simp] theorem setDch_patches (c : Nat) (v : DramCh) (s : State) : (setDch c v s).patches = s.patches := rfl
@[simp] theorem setDch_channels (c : Nat) (v : DramCh) (s : State) : (setDch c v s).channels = s.channels := rfl
@[simp] theorem setDch_deliveries (c : Nat) (v : DramCh) (s : State) : (setDch c v s).deliveries = s.deliveries := rfl
@[simp] theorem setDch_timers (c : Nat) (v : DramCh) (s : State) : (setDch c v s).timers = s.timers := rfl
@[simp] theorem setDch_markers (c : Nat) (v : DramCh) (s : State) : (setDch c v s).markers = s.markers := rfl
@[simp] theorem setDch_path0 (c : Nat) (v : DramCh) (s : State) : (setDch c v s).path0 = s.path0 := rfl
@[simp] theorem setDch_path1 (c : Nat) (v : DramCh) (s : State) : (setDch c v s).path1 = s.path1 := rfl
@[simp] theorem setDch_lastPath (c : Nat) (v : DramCh) (s : State) : (setDch c v s).lastPath = s.lastPath := rfl
@[simp] theorem setDch_nvm (c : Nat) (v : DramCh) (s : State) : (setDch c v s).nvm = s.nvm := rfl
@[simp] theorem setDch_boot (c : Nat) (v : DramCh) (s : State) : (setDch c v s).boot = s.boot := rfl
@[simp] theorem setDch_flog (c : Nat) (v : DramCh) (s : State) : (setDch c v s).flog = s.flog := rfl
@[simp] theorem setDch_scrubAt (c : Nat) (v : DramCh) (s : State) : (setDch c v s).scrubAt = s.scrubAt := rfl
@[simp] theorem setDch_segs (c : Nat) (v : DramCh) (s : State) : (setDch c v s).segs = s.segs := rfl
@[simp] theorem setDch_segMem (c : Nat) (v : DramCh) (s : State) : (setDch c v s).segMem = s.segMem := rfl
@[simp] theorem setDch_segBad (c : Nat) (v : DramCh) (s : State) : (setDch c v s).segBad = s.segBad := rfl
@[simp] theorem setDch_refills (c : Nat) (v : DramCh) (s : State) : (setDch c v s).refills = s.refills := rfl
@[simp] theorem setDch_slices (c : Nat) (v : DramCh) (s : State) : (setDch c v s).slices = s.slices := rfl
@[simp] theorem setDch_frames (c : Nat) (v : DramCh) (s : State) : (setDch c v s).frames = s.frames := rfl
@[simp] theorem setDch_tapBad (c : Nat) (v : DramCh) (s : State) : (setDch c v s).tapBad = s.tapBad := rfl
@[simp] theorem setDch_fluxes (c : Nat) (v : DramCh) (s : State) : (setDch c v s).fluxes = s.fluxes := rfl
@[simp] theorem setDch_biases (c : Nat) (v : DramCh) (s : State) : (setDch c v s).biases = s.biases := rfl
@[simp] theorem setDch_biasAt (c : Nat) (v : DramCh) (s : State) : (setDch c v s).biasAt = s.biasAt := rfl
@[simp] theorem setDch_regions (c : Nat) (v : DramCh) (s : State) : (setDch c v s).regions = s.regions := rfl
@[simp] theorem setDch_bdQual (c : Nat) (v : DramCh) (s : State) : (setDch c v s).bdQual = s.bdQual := rfl
@[simp] theorem setDch_rfQualAt (c : Nat) (v : DramCh) (s : State) : (setDch c v s).rfQualAt = s.rfQualAt := rfl
@[simp] theorem setDch_reads (c : Nat) (v : DramCh) (s : State) : (setDch c v s).reads = s.reads := rfl
@[simp] theorem setDch_traces (c : Nat) (v : DramCh) (s : State) : (setDch c v s).traces = s.traces := rfl
@[simp] theorem setDch_acqs (c : Nat) (v : DramCh) (s : State) : (setDch c v s).acqs = s.acqs := rfl
@[simp] theorem setDch_krn (c : Nat) (v : DramCh) (s : State) : (setDch c v s).krn = s.krn := rfl
@[simp] theorem setDch_krnBad (c : Nat) (v : DramCh) (s : State) : (setDch c v s).krnBad = s.krnBad := rfl
@[simp] theorem setDch_tab (c : Nat) (v : DramCh) (s : State) : (setDch c v s).tab = s.tab := rfl
@[simp] theorem setDch_tabBad (c : Nat) (v : DramCh) (s : State) : (setDch c v s).tabBad = s.tabBad := rfl
@[simp] theorem setDch_crossings (c : Nat) (v : DramCh) (s : State) : (setDch c v s).crossings = s.crossings := rfl
@[simp] theorem setDch_sets (c : Nat) (v : DramCh) (s : State) : (setDch c v s).sets = s.sets := rfl
@[simp] theorem setDch_stream (c : Nat) (v : DramCh) (s : State) : (setDch c v s).stream = s.stream := rfl
@[simp] theorem setDch_incs (c : Nat) (v : DramCh) (s : State) : (setDch c v s).incs = s.incs := rfl
@[simp] theorem setDch_trig (c : Nat) (v : DramCh) (s : State) : (setDch c v s).trig = s.trig := rfl
@[simp] theorem setDch_board (c : Nat) (v : DramCh) (s : State) : (setDch c v s).board = s.board := rfl
@[simp] theorem setDch_bres (c : Nat) (v : DramCh) (s : State) : (setDch c v s).bres = s.bres := rfl
@[simp] theorem setDch_vre (c : Nat) (v : DramCh) (s : State) : (setDch c v s).vre = s.vre := rfl
@[simp] theorem setDch_clk (c : Nat) (v : DramCh) (s : State) : (setDch c v s).clk = s.clk := rfl
@[simp] theorem setDch_ptp (c : Nat) (v : DramCh) (s : State) : (setDch c v s).ptp = s.ptp := rfl
@[simp] theorem setDch_lanes (c : Nat) (v : DramCh) (s : State) : (setDch c v s).lanes = s.lanes := rfl
@[simp] theorem setDch_hl (c : Nat) (v : DramCh) (s : State) : (setDch c v s).hl = s.hl := rfl
@[simp] theorem setDch_vports (c : Nat) (v : DramCh) (s : State) : (setDch c v s).vports = s.vports := rfl
@[simp] theorem setDch_maus (c : Nat) (v : DramCh) (s : State) : (setDch c v s).maus = s.maus := rfl
@[simp] theorem setDch_therms (c : Nat) (v : DramCh) (s : State) : (setDch c v s).therms = s.therms := rfl
@[simp] theorem setDch_cool (c : Nat) (v : DramCh) (s : State) : (setDch c v s).cool = s.cool := rfl
@[simp] theorem rd_setDch (c : Nat) (v : DramCh) (s : State) (r : Reg) (j : Nat) : rd (setDch c v s) r j = rd s r j := rfl
@[simp] theorem rn_setDch (c : Nat) (v : DramCh) (s : State) (r : Reg) (j : Nat) : rn (setDch c v s) r j = rn s r j := rfl

/-! ### hlset -/

@[simp] theorem hlset_pending (h : HostLink) (s : State) : (hlset h s).pending = s.pending := rfl
@[simp] theorem hlset_elapsed (h : HostLink) (s : State) : (hlset h s).elapsed = s.elapsed := rfl
@[simp] theorem hlset_free (h : HostLink) (s : State) : (hlset h s).free = s.free := rfl
@[simp] theorem hlset_tml (h : HostLink) (s : State) : (hlset h s).tml = s.tml := rfl
@[simp] theorem hlset_tmlOn (h : HostLink) (s : State) : (hlset h s).tmlOn = s.tmlOn := rfl
@[simp] theorem hlset_regs (h : HostLink) (s : State) : (hlset h s).regs = s.regs := rfl
@[simp] theorem hlset_queues (h : HostLink) (s : State) : (hlset h s).queues = s.queues := rfl
@[simp] theorem hlset_poolLost (h : HostLink) (s : State) : (hlset h s).poolLost = s.poolLost := rfl
@[simp] theorem hlset_fifos (h : HostLink) (s : State) : (hlset h s).fifos = s.fifos := rfl
@[simp] theorem hlset_engs (h : HostLink) (s : State) : (hlset h s).engs = s.engs := rfl
@[simp] theorem hlset_areas (h : HostLink) (s : State) : (hlset h s).areas = s.areas := rfl
@[simp] theorem hlset_run (h : HostLink) (s : State) : (hlset h s).run = s.run := rfl
@[simp] theorem hlset_image (h : HostLink) (s : State) : (hlset h s).image = s.image := rfl
@[simp] theorem hlset_patches (h : HostLink) (s : State) : (hlset h s).patches = s.patches := rfl
@[simp] theorem hlset_channels (h : HostLink) (s : State) : (hlset h s).channels = s.channels := rfl
@[simp] theorem hlset_deliveries (h : HostLink) (s : State) : (hlset h s).deliveries = s.deliveries := rfl
@[simp] theorem hlset_timers (h : HostLink) (s : State) : (hlset h s).timers = s.timers := rfl
@[simp] theorem hlset_markers (h : HostLink) (s : State) : (hlset h s).markers = s.markers := rfl
@[simp] theorem hlset_path0 (h : HostLink) (s : State) : (hlset h s).path0 = s.path0 := rfl
@[simp] theorem hlset_path1 (h : HostLink) (s : State) : (hlset h s).path1 = s.path1 := rfl
@[simp] theorem hlset_lastPath (h : HostLink) (s : State) : (hlset h s).lastPath = s.lastPath := rfl
@[simp] theorem hlset_nvm (h : HostLink) (s : State) : (hlset h s).nvm = s.nvm := rfl
@[simp] theorem hlset_boot (h : HostLink) (s : State) : (hlset h s).boot = s.boot := rfl
@[simp] theorem hlset_flog (h : HostLink) (s : State) : (hlset h s).flog = s.flog := rfl
@[simp] theorem hlset_scrubAt (h : HostLink) (s : State) : (hlset h s).scrubAt = s.scrubAt := rfl
@[simp] theorem hlset_dram (h : HostLink) (s : State) : (hlset h s).dram = s.dram := rfl
@[simp] theorem hlset_segs (h : HostLink) (s : State) : (hlset h s).segs = s.segs := rfl
@[simp] theorem hlset_segMem (h : HostLink) (s : State) : (hlset h s).segMem = s.segMem := rfl
@[simp] theorem hlset_segBad (h : HostLink) (s : State) : (hlset h s).segBad = s.segBad := rfl
@[simp] theorem hlset_refills (h : HostLink) (s : State) : (hlset h s).refills = s.refills := rfl
@[simp] theorem hlset_slices (h : HostLink) (s : State) : (hlset h s).slices = s.slices := rfl
@[simp] theorem hlset_frames (h : HostLink) (s : State) : (hlset h s).frames = s.frames := rfl
@[simp] theorem hlset_tapBad (h : HostLink) (s : State) : (hlset h s).tapBad = s.tapBad := rfl
@[simp] theorem hlset_fluxes (h : HostLink) (s : State) : (hlset h s).fluxes = s.fluxes := rfl
@[simp] theorem hlset_biases (h : HostLink) (s : State) : (hlset h s).biases = s.biases := rfl
@[simp] theorem hlset_biasAt (h : HostLink) (s : State) : (hlset h s).biasAt = s.biasAt := rfl
@[simp] theorem hlset_regions (h : HostLink) (s : State) : (hlset h s).regions = s.regions := rfl
@[simp] theorem hlset_bdQual (h : HostLink) (s : State) : (hlset h s).bdQual = s.bdQual := rfl
@[simp] theorem hlset_rfQualAt (h : HostLink) (s : State) : (hlset h s).rfQualAt = s.rfQualAt := rfl
@[simp] theorem hlset_reads (h : HostLink) (s : State) : (hlset h s).reads = s.reads := rfl
@[simp] theorem hlset_traces (h : HostLink) (s : State) : (hlset h s).traces = s.traces := rfl
@[simp] theorem hlset_acqs (h : HostLink) (s : State) : (hlset h s).acqs = s.acqs := rfl
@[simp] theorem hlset_krn (h : HostLink) (s : State) : (hlset h s).krn = s.krn := rfl
@[simp] theorem hlset_krnBad (h : HostLink) (s : State) : (hlset h s).krnBad = s.krnBad := rfl
@[simp] theorem hlset_tab (h : HostLink) (s : State) : (hlset h s).tab = s.tab := rfl
@[simp] theorem hlset_tabBad (h : HostLink) (s : State) : (hlset h s).tabBad = s.tabBad := rfl
@[simp] theorem hlset_crossings (h : HostLink) (s : State) : (hlset h s).crossings = s.crossings := rfl
@[simp] theorem hlset_sets (h : HostLink) (s : State) : (hlset h s).sets = s.sets := rfl
@[simp] theorem hlset_stream (h : HostLink) (s : State) : (hlset h s).stream = s.stream := rfl
@[simp] theorem hlset_incs (h : HostLink) (s : State) : (hlset h s).incs = s.incs := rfl
@[simp] theorem hlset_trig (h : HostLink) (s : State) : (hlset h s).trig = s.trig := rfl
@[simp] theorem hlset_board (h : HostLink) (s : State) : (hlset h s).board = s.board := rfl
@[simp] theorem hlset_bres (h : HostLink) (s : State) : (hlset h s).bres = s.bres := rfl
@[simp] theorem hlset_vre (h : HostLink) (s : State) : (hlset h s).vre = s.vre := rfl
@[simp] theorem hlset_clk (h : HostLink) (s : State) : (hlset h s).clk = s.clk := rfl
@[simp] theorem hlset_ptp (h : HostLink) (s : State) : (hlset h s).ptp = s.ptp := rfl
@[simp] theorem hlset_lanes (h : HostLink) (s : State) : (hlset h s).lanes = s.lanes := rfl
@[simp] theorem hlset_vports (h : HostLink) (s : State) : (hlset h s).vports = s.vports := rfl
@[simp] theorem hlset_maus (h : HostLink) (s : State) : (hlset h s).maus = s.maus := rfl
@[simp] theorem hlset_therms (h : HostLink) (s : State) : (hlset h s).therms = s.therms := rfl
@[simp] theorem hlset_cool (h : HostLink) (s : State) : (hlset h s).cool = s.cool := rfl
@[simp] theorem rd_hlset (h : HostLink) (s : State) (r : Reg) (j : Nat) : rd (hlset h s) r j = rd s r j := rfl
@[simp] theorem rn_hlset (h : HostLink) (s : State) (r : Reg) (j : Nat) : rn (hlset h s) r j = rn s r j := rfl

/-! ### lnset -/

@[simp] theorem lnset_pending (l : Nat) (v : Lane) (s : State) : (lnset l v s).pending = s.pending := rfl
@[simp] theorem lnset_elapsed (l : Nat) (v : Lane) (s : State) : (lnset l v s).elapsed = s.elapsed := rfl
@[simp] theorem lnset_free (l : Nat) (v : Lane) (s : State) : (lnset l v s).free = s.free := rfl
@[simp] theorem lnset_tml (l : Nat) (v : Lane) (s : State) : (lnset l v s).tml = s.tml := rfl
@[simp] theorem lnset_tmlOn (l : Nat) (v : Lane) (s : State) : (lnset l v s).tmlOn = s.tmlOn := rfl
@[simp] theorem lnset_regs (l : Nat) (v : Lane) (s : State) : (lnset l v s).regs = s.regs := rfl
@[simp] theorem lnset_queues (l : Nat) (v : Lane) (s : State) : (lnset l v s).queues = s.queues := rfl
@[simp] theorem lnset_poolLost (l : Nat) (v : Lane) (s : State) : (lnset l v s).poolLost = s.poolLost := rfl
@[simp] theorem lnset_fifos (l : Nat) (v : Lane) (s : State) : (lnset l v s).fifos = s.fifos := rfl
@[simp] theorem lnset_engs (l : Nat) (v : Lane) (s : State) : (lnset l v s).engs = s.engs := rfl
@[simp] theorem lnset_areas (l : Nat) (v : Lane) (s : State) : (lnset l v s).areas = s.areas := rfl
@[simp] theorem lnset_run (l : Nat) (v : Lane) (s : State) : (lnset l v s).run = s.run := rfl
@[simp] theorem lnset_image (l : Nat) (v : Lane) (s : State) : (lnset l v s).image = s.image := rfl
@[simp] theorem lnset_patches (l : Nat) (v : Lane) (s : State) : (lnset l v s).patches = s.patches := rfl
@[simp] theorem lnset_channels (l : Nat) (v : Lane) (s : State) : (lnset l v s).channels = s.channels := rfl
@[simp] theorem lnset_deliveries (l : Nat) (v : Lane) (s : State) : (lnset l v s).deliveries = s.deliveries := rfl
@[simp] theorem lnset_timers (l : Nat) (v : Lane) (s : State) : (lnset l v s).timers = s.timers := rfl
@[simp] theorem lnset_markers (l : Nat) (v : Lane) (s : State) : (lnset l v s).markers = s.markers := rfl
@[simp] theorem lnset_path0 (l : Nat) (v : Lane) (s : State) : (lnset l v s).path0 = s.path0 := rfl
@[simp] theorem lnset_path1 (l : Nat) (v : Lane) (s : State) : (lnset l v s).path1 = s.path1 := rfl
@[simp] theorem lnset_lastPath (l : Nat) (v : Lane) (s : State) : (lnset l v s).lastPath = s.lastPath := rfl
@[simp] theorem lnset_nvm (l : Nat) (v : Lane) (s : State) : (lnset l v s).nvm = s.nvm := rfl
@[simp] theorem lnset_boot (l : Nat) (v : Lane) (s : State) : (lnset l v s).boot = s.boot := rfl
@[simp] theorem lnset_flog (l : Nat) (v : Lane) (s : State) : (lnset l v s).flog = s.flog := rfl
@[simp] theorem lnset_scrubAt (l : Nat) (v : Lane) (s : State) : (lnset l v s).scrubAt = s.scrubAt := rfl
@[simp] theorem lnset_dram (l : Nat) (v : Lane) (s : State) : (lnset l v s).dram = s.dram := rfl
@[simp] theorem lnset_segs (l : Nat) (v : Lane) (s : State) : (lnset l v s).segs = s.segs := rfl
@[simp] theorem lnset_segMem (l : Nat) (v : Lane) (s : State) : (lnset l v s).segMem = s.segMem := rfl
@[simp] theorem lnset_segBad (l : Nat) (v : Lane) (s : State) : (lnset l v s).segBad = s.segBad := rfl
@[simp] theorem lnset_refills (l : Nat) (v : Lane) (s : State) : (lnset l v s).refills = s.refills := rfl
@[simp] theorem lnset_slices (l : Nat) (v : Lane) (s : State) : (lnset l v s).slices = s.slices := rfl
@[simp] theorem lnset_frames (l : Nat) (v : Lane) (s : State) : (lnset l v s).frames = s.frames := rfl
@[simp] theorem lnset_tapBad (l : Nat) (v : Lane) (s : State) : (lnset l v s).tapBad = s.tapBad := rfl
@[simp] theorem lnset_fluxes (l : Nat) (v : Lane) (s : State) : (lnset l v s).fluxes = s.fluxes := rfl
@[simp] theorem lnset_biases (l : Nat) (v : Lane) (s : State) : (lnset l v s).biases = s.biases := rfl
@[simp] theorem lnset_biasAt (l : Nat) (v : Lane) (s : State) : (lnset l v s).biasAt = s.biasAt := rfl
@[simp] theorem lnset_regions (l : Nat) (v : Lane) (s : State) : (lnset l v s).regions = s.regions := rfl
@[simp] theorem lnset_bdQual (l : Nat) (v : Lane) (s : State) : (lnset l v s).bdQual = s.bdQual := rfl
@[simp] theorem lnset_rfQualAt (l : Nat) (v : Lane) (s : State) : (lnset l v s).rfQualAt = s.rfQualAt := rfl
@[simp] theorem lnset_reads (l : Nat) (v : Lane) (s : State) : (lnset l v s).reads = s.reads := rfl
@[simp] theorem lnset_traces (l : Nat) (v : Lane) (s : State) : (lnset l v s).traces = s.traces := rfl
@[simp] theorem lnset_acqs (l : Nat) (v : Lane) (s : State) : (lnset l v s).acqs = s.acqs := rfl
@[simp] theorem lnset_krn (l : Nat) (v : Lane) (s : State) : (lnset l v s).krn = s.krn := rfl
@[simp] theorem lnset_krnBad (l : Nat) (v : Lane) (s : State) : (lnset l v s).krnBad = s.krnBad := rfl
@[simp] theorem lnset_tab (l : Nat) (v : Lane) (s : State) : (lnset l v s).tab = s.tab := rfl
@[simp] theorem lnset_tabBad (l : Nat) (v : Lane) (s : State) : (lnset l v s).tabBad = s.tabBad := rfl
@[simp] theorem lnset_crossings (l : Nat) (v : Lane) (s : State) : (lnset l v s).crossings = s.crossings := rfl
@[simp] theorem lnset_sets (l : Nat) (v : Lane) (s : State) : (lnset l v s).sets = s.sets := rfl
@[simp] theorem lnset_stream (l : Nat) (v : Lane) (s : State) : (lnset l v s).stream = s.stream := rfl
@[simp] theorem lnset_incs (l : Nat) (v : Lane) (s : State) : (lnset l v s).incs = s.incs := rfl
@[simp] theorem lnset_trig (l : Nat) (v : Lane) (s : State) : (lnset l v s).trig = s.trig := rfl
@[simp] theorem lnset_board (l : Nat) (v : Lane) (s : State) : (lnset l v s).board = s.board := rfl
@[simp] theorem lnset_bres (l : Nat) (v : Lane) (s : State) : (lnset l v s).bres = s.bres := rfl
@[simp] theorem lnset_vre (l : Nat) (v : Lane) (s : State) : (lnset l v s).vre = s.vre := rfl
@[simp] theorem lnset_clk (l : Nat) (v : Lane) (s : State) : (lnset l v s).clk = s.clk := rfl
@[simp] theorem lnset_ptp (l : Nat) (v : Lane) (s : State) : (lnset l v s).ptp = s.ptp := rfl
@[simp] theorem lnset_hl (l : Nat) (v : Lane) (s : State) : (lnset l v s).hl = s.hl := rfl
@[simp] theorem lnset_vports (l : Nat) (v : Lane) (s : State) : (lnset l v s).vports = s.vports := rfl
@[simp] theorem lnset_maus (l : Nat) (v : Lane) (s : State) : (lnset l v s).maus = s.maus := rfl
@[simp] theorem lnset_therms (l : Nat) (v : Lane) (s : State) : (lnset l v s).therms = s.therms := rfl
@[simp] theorem lnset_cool (l : Nat) (v : Lane) (s : State) : (lnset l v s).cool = s.cool := rfl
@[simp] theorem rd_lnset (l : Nat) (v : Lane) (s : State) (r : Reg) (j : Nat) : rd (lnset l v s) r j = rd s r j := rfl
@[simp] theorem rn_lnset (l : Nat) (v : Lane) (s : State) (r : Reg) (j : Nat) : rn (lnset l v s) r j = rn s r j := rfl

/-! ### vpset -/

@[simp] theorem vpset_pending (q : Nat) (v : VPort) (s : State) : (vpset q v s).pending = s.pending := rfl
@[simp] theorem vpset_elapsed (q : Nat) (v : VPort) (s : State) : (vpset q v s).elapsed = s.elapsed := rfl
@[simp] theorem vpset_free (q : Nat) (v : VPort) (s : State) : (vpset q v s).free = s.free := rfl
@[simp] theorem vpset_tml (q : Nat) (v : VPort) (s : State) : (vpset q v s).tml = s.tml := rfl
@[simp] theorem vpset_tmlOn (q : Nat) (v : VPort) (s : State) : (vpset q v s).tmlOn = s.tmlOn := rfl
@[simp] theorem vpset_regs (q : Nat) (v : VPort) (s : State) : (vpset q v s).regs = s.regs := rfl
@[simp] theorem vpset_queues (q : Nat) (v : VPort) (s : State) : (vpset q v s).queues = s.queues := rfl
@[simp] theorem vpset_poolLost (q : Nat) (v : VPort) (s : State) : (vpset q v s).poolLost = s.poolLost := rfl
@[simp] theorem vpset_fifos (q : Nat) (v : VPort) (s : State) : (vpset q v s).fifos = s.fifos := rfl
@[simp] theorem vpset_engs (q : Nat) (v : VPort) (s : State) : (vpset q v s).engs = s.engs := rfl
@[simp] theorem vpset_areas (q : Nat) (v : VPort) (s : State) : (vpset q v s).areas = s.areas := rfl
@[simp] theorem vpset_run (q : Nat) (v : VPort) (s : State) : (vpset q v s).run = s.run := rfl
@[simp] theorem vpset_image (q : Nat) (v : VPort) (s : State) : (vpset q v s).image = s.image := rfl
@[simp] theorem vpset_patches (q : Nat) (v : VPort) (s : State) : (vpset q v s).patches = s.patches := rfl
@[simp] theorem vpset_channels (q : Nat) (v : VPort) (s : State) : (vpset q v s).channels = s.channels := rfl
@[simp] theorem vpset_deliveries (q : Nat) (v : VPort) (s : State) : (vpset q v s).deliveries = s.deliveries := rfl
@[simp] theorem vpset_timers (q : Nat) (v : VPort) (s : State) : (vpset q v s).timers = s.timers := rfl
@[simp] theorem vpset_markers (q : Nat) (v : VPort) (s : State) : (vpset q v s).markers = s.markers := rfl
@[simp] theorem vpset_path0 (q : Nat) (v : VPort) (s : State) : (vpset q v s).path0 = s.path0 := rfl
@[simp] theorem vpset_path1 (q : Nat) (v : VPort) (s : State) : (vpset q v s).path1 = s.path1 := rfl
@[simp] theorem vpset_lastPath (q : Nat) (v : VPort) (s : State) : (vpset q v s).lastPath = s.lastPath := rfl
@[simp] theorem vpset_nvm (q : Nat) (v : VPort) (s : State) : (vpset q v s).nvm = s.nvm := rfl
@[simp] theorem vpset_boot (q : Nat) (v : VPort) (s : State) : (vpset q v s).boot = s.boot := rfl
@[simp] theorem vpset_flog (q : Nat) (v : VPort) (s : State) : (vpset q v s).flog = s.flog := rfl
@[simp] theorem vpset_scrubAt (q : Nat) (v : VPort) (s : State) : (vpset q v s).scrubAt = s.scrubAt := rfl
@[simp] theorem vpset_dram (q : Nat) (v : VPort) (s : State) : (vpset q v s).dram = s.dram := rfl
@[simp] theorem vpset_segs (q : Nat) (v : VPort) (s : State) : (vpset q v s).segs = s.segs := rfl
@[simp] theorem vpset_segMem (q : Nat) (v : VPort) (s : State) : (vpset q v s).segMem = s.segMem := rfl
@[simp] theorem vpset_segBad (q : Nat) (v : VPort) (s : State) : (vpset q v s).segBad = s.segBad := rfl
@[simp] theorem vpset_refills (q : Nat) (v : VPort) (s : State) : (vpset q v s).refills = s.refills := rfl
@[simp] theorem vpset_slices (q : Nat) (v : VPort) (s : State) : (vpset q v s).slices = s.slices := rfl
@[simp] theorem vpset_frames (q : Nat) (v : VPort) (s : State) : (vpset q v s).frames = s.frames := rfl
@[simp] theorem vpset_tapBad (q : Nat) (v : VPort) (s : State) : (vpset q v s).tapBad = s.tapBad := rfl
@[simp] theorem vpset_fluxes (q : Nat) (v : VPort) (s : State) : (vpset q v s).fluxes = s.fluxes := rfl
@[simp] theorem vpset_biases (q : Nat) (v : VPort) (s : State) : (vpset q v s).biases = s.biases := rfl
@[simp] theorem vpset_biasAt (q : Nat) (v : VPort) (s : State) : (vpset q v s).biasAt = s.biasAt := rfl
@[simp] theorem vpset_regions (q : Nat) (v : VPort) (s : State) : (vpset q v s).regions = s.regions := rfl
@[simp] theorem vpset_bdQual (q : Nat) (v : VPort) (s : State) : (vpset q v s).bdQual = s.bdQual := rfl
@[simp] theorem vpset_rfQualAt (q : Nat) (v : VPort) (s : State) : (vpset q v s).rfQualAt = s.rfQualAt := rfl
@[simp] theorem vpset_reads (q : Nat) (v : VPort) (s : State) : (vpset q v s).reads = s.reads := rfl
@[simp] theorem vpset_traces (q : Nat) (v : VPort) (s : State) : (vpset q v s).traces = s.traces := rfl
@[simp] theorem vpset_acqs (q : Nat) (v : VPort) (s : State) : (vpset q v s).acqs = s.acqs := rfl
@[simp] theorem vpset_krn (q : Nat) (v : VPort) (s : State) : (vpset q v s).krn = s.krn := rfl
@[simp] theorem vpset_krnBad (q : Nat) (v : VPort) (s : State) : (vpset q v s).krnBad = s.krnBad := rfl
@[simp] theorem vpset_tab (q : Nat) (v : VPort) (s : State) : (vpset q v s).tab = s.tab := rfl
@[simp] theorem vpset_tabBad (q : Nat) (v : VPort) (s : State) : (vpset q v s).tabBad = s.tabBad := rfl
@[simp] theorem vpset_crossings (q : Nat) (v : VPort) (s : State) : (vpset q v s).crossings = s.crossings := rfl
@[simp] theorem vpset_sets (q : Nat) (v : VPort) (s : State) : (vpset q v s).sets = s.sets := rfl
@[simp] theorem vpset_stream (q : Nat) (v : VPort) (s : State) : (vpset q v s).stream = s.stream := rfl
@[simp] theorem vpset_incs (q : Nat) (v : VPort) (s : State) : (vpset q v s).incs = s.incs := rfl
@[simp] theorem vpset_trig (q : Nat) (v : VPort) (s : State) : (vpset q v s).trig = s.trig := rfl
@[simp] theorem vpset_board (q : Nat) (v : VPort) (s : State) : (vpset q v s).board = s.board := rfl
@[simp] theorem vpset_bres (q : Nat) (v : VPort) (s : State) : (vpset q v s).bres = s.bres := rfl
@[simp] theorem vpset_vre (q : Nat) (v : VPort) (s : State) : (vpset q v s).vre = s.vre := rfl
@[simp] theorem vpset_clk (q : Nat) (v : VPort) (s : State) : (vpset q v s).clk = s.clk := rfl
@[simp] theorem vpset_ptp (q : Nat) (v : VPort) (s : State) : (vpset q v s).ptp = s.ptp := rfl
@[simp] theorem vpset_lanes (q : Nat) (v : VPort) (s : State) : (vpset q v s).lanes = s.lanes := rfl
@[simp] theorem vpset_hl (q : Nat) (v : VPort) (s : State) : (vpset q v s).hl = s.hl := rfl
@[simp] theorem vpset_maus (q : Nat) (v : VPort) (s : State) : (vpset q v s).maus = s.maus := rfl
@[simp] theorem vpset_therms (q : Nat) (v : VPort) (s : State) : (vpset q v s).therms = s.therms := rfl
@[simp] theorem vpset_cool (q : Nat) (v : VPort) (s : State) : (vpset q v s).cool = s.cool := rfl
@[simp] theorem rd_vpset (q : Nat) (v : VPort) (s : State) (r : Reg) (j : Nat) : rd (vpset q v s) r j = rd s r j := rfl
@[simp] theorem rn_vpset (q : Nat) (v : VPort) (s : State) (r : Reg) (j : Nat) : rn (vpset q v s) r j = rn s r j := rfl

/-! ### mauset -/

@[simp] theorem mauset_pending (u : Nat) (v : Mau) (s : State) : (mauset u v s).pending = s.pending := rfl
@[simp] theorem mauset_elapsed (u : Nat) (v : Mau) (s : State) : (mauset u v s).elapsed = s.elapsed := rfl
@[simp] theorem mauset_free (u : Nat) (v : Mau) (s : State) : (mauset u v s).free = s.free := rfl
@[simp] theorem mauset_tml (u : Nat) (v : Mau) (s : State) : (mauset u v s).tml = s.tml := rfl
@[simp] theorem mauset_tmlOn (u : Nat) (v : Mau) (s : State) : (mauset u v s).tmlOn = s.tmlOn := rfl
@[simp] theorem mauset_regs (u : Nat) (v : Mau) (s : State) : (mauset u v s).regs = s.regs := rfl
@[simp] theorem mauset_queues (u : Nat) (v : Mau) (s : State) : (mauset u v s).queues = s.queues := rfl
@[simp] theorem mauset_poolLost (u : Nat) (v : Mau) (s : State) : (mauset u v s).poolLost = s.poolLost := rfl
@[simp] theorem mauset_fifos (u : Nat) (v : Mau) (s : State) : (mauset u v s).fifos = s.fifos := rfl
@[simp] theorem mauset_engs (u : Nat) (v : Mau) (s : State) : (mauset u v s).engs = s.engs := rfl
@[simp] theorem mauset_areas (u : Nat) (v : Mau) (s : State) : (mauset u v s).areas = s.areas := rfl
@[simp] theorem mauset_run (u : Nat) (v : Mau) (s : State) : (mauset u v s).run = s.run := rfl
@[simp] theorem mauset_image (u : Nat) (v : Mau) (s : State) : (mauset u v s).image = s.image := rfl
@[simp] theorem mauset_patches (u : Nat) (v : Mau) (s : State) : (mauset u v s).patches = s.patches := rfl
@[simp] theorem mauset_channels (u : Nat) (v : Mau) (s : State) : (mauset u v s).channels = s.channels := rfl
@[simp] theorem mauset_deliveries (u : Nat) (v : Mau) (s : State) : (mauset u v s).deliveries = s.deliveries := rfl
@[simp] theorem mauset_timers (u : Nat) (v : Mau) (s : State) : (mauset u v s).timers = s.timers := rfl
@[simp] theorem mauset_markers (u : Nat) (v : Mau) (s : State) : (mauset u v s).markers = s.markers := rfl
@[simp] theorem mauset_path0 (u : Nat) (v : Mau) (s : State) : (mauset u v s).path0 = s.path0 := rfl
@[simp] theorem mauset_path1 (u : Nat) (v : Mau) (s : State) : (mauset u v s).path1 = s.path1 := rfl
@[simp] theorem mauset_lastPath (u : Nat) (v : Mau) (s : State) : (mauset u v s).lastPath = s.lastPath := rfl
@[simp] theorem mauset_nvm (u : Nat) (v : Mau) (s : State) : (mauset u v s).nvm = s.nvm := rfl
@[simp] theorem mauset_boot (u : Nat) (v : Mau) (s : State) : (mauset u v s).boot = s.boot := rfl
@[simp] theorem mauset_flog (u : Nat) (v : Mau) (s : State) : (mauset u v s).flog = s.flog := rfl
@[simp] theorem mauset_scrubAt (u : Nat) (v : Mau) (s : State) : (mauset u v s).scrubAt = s.scrubAt := rfl
@[simp] theorem mauset_dram (u : Nat) (v : Mau) (s : State) : (mauset u v s).dram = s.dram := rfl
@[simp] theorem mauset_segs (u : Nat) (v : Mau) (s : State) : (mauset u v s).segs = s.segs := rfl
@[simp] theorem mauset_segMem (u : Nat) (v : Mau) (s : State) : (mauset u v s).segMem = s.segMem := rfl
@[simp] theorem mauset_segBad (u : Nat) (v : Mau) (s : State) : (mauset u v s).segBad = s.segBad := rfl
@[simp] theorem mauset_refills (u : Nat) (v : Mau) (s : State) : (mauset u v s).refills = s.refills := rfl
@[simp] theorem mauset_slices (u : Nat) (v : Mau) (s : State) : (mauset u v s).slices = s.slices := rfl
@[simp] theorem mauset_frames (u : Nat) (v : Mau) (s : State) : (mauset u v s).frames = s.frames := rfl
@[simp] theorem mauset_tapBad (u : Nat) (v : Mau) (s : State) : (mauset u v s).tapBad = s.tapBad := rfl
@[simp] theorem mauset_fluxes (u : Nat) (v : Mau) (s : State) : (mauset u v s).fluxes = s.fluxes := rfl
@[simp] theorem mauset_biases (u : Nat) (v : Mau) (s : State) : (mauset u v s).biases = s.biases := rfl
@[simp] theorem mauset_biasAt (u : Nat) (v : Mau) (s : State) : (mauset u v s).biasAt = s.biasAt := rfl
@[simp] theorem mauset_regions (u : Nat) (v : Mau) (s : State) : (mauset u v s).regions = s.regions := rfl
@[simp] theorem mauset_bdQual (u : Nat) (v : Mau) (s : State) : (mauset u v s).bdQual = s.bdQual := rfl
@[simp] theorem mauset_rfQualAt (u : Nat) (v : Mau) (s : State) : (mauset u v s).rfQualAt = s.rfQualAt := rfl
@[simp] theorem mauset_reads (u : Nat) (v : Mau) (s : State) : (mauset u v s).reads = s.reads := rfl
@[simp] theorem mauset_traces (u : Nat) (v : Mau) (s : State) : (mauset u v s).traces = s.traces := rfl
@[simp] theorem mauset_acqs (u : Nat) (v : Mau) (s : State) : (mauset u v s).acqs = s.acqs := rfl
@[simp] theorem mauset_krn (u : Nat) (v : Mau) (s : State) : (mauset u v s).krn = s.krn := rfl
@[simp] theorem mauset_krnBad (u : Nat) (v : Mau) (s : State) : (mauset u v s).krnBad = s.krnBad := rfl
@[simp] theorem mauset_tab (u : Nat) (v : Mau) (s : State) : (mauset u v s).tab = s.tab := rfl
@[simp] theorem mauset_tabBad (u : Nat) (v : Mau) (s : State) : (mauset u v s).tabBad = s.tabBad := rfl
@[simp] theorem mauset_crossings (u : Nat) (v : Mau) (s : State) : (mauset u v s).crossings = s.crossings := rfl
@[simp] theorem mauset_sets (u : Nat) (v : Mau) (s : State) : (mauset u v s).sets = s.sets := rfl
@[simp] theorem mauset_stream (u : Nat) (v : Mau) (s : State) : (mauset u v s).stream = s.stream := rfl
@[simp] theorem mauset_incs (u : Nat) (v : Mau) (s : State) : (mauset u v s).incs = s.incs := rfl
@[simp] theorem mauset_trig (u : Nat) (v : Mau) (s : State) : (mauset u v s).trig = s.trig := rfl
@[simp] theorem mauset_board (u : Nat) (v : Mau) (s : State) : (mauset u v s).board = s.board := rfl
@[simp] theorem mauset_bres (u : Nat) (v : Mau) (s : State) : (mauset u v s).bres = s.bres := rfl
@[simp] theorem mauset_vre (u : Nat) (v : Mau) (s : State) : (mauset u v s).vre = s.vre := rfl
@[simp] theorem mauset_clk (u : Nat) (v : Mau) (s : State) : (mauset u v s).clk = s.clk := rfl
@[simp] theorem mauset_ptp (u : Nat) (v : Mau) (s : State) : (mauset u v s).ptp = s.ptp := rfl
@[simp] theorem mauset_lanes (u : Nat) (v : Mau) (s : State) : (mauset u v s).lanes = s.lanes := rfl
@[simp] theorem mauset_hl (u : Nat) (v : Mau) (s : State) : (mauset u v s).hl = s.hl := rfl
@[simp] theorem mauset_vports (u : Nat) (v : Mau) (s : State) : (mauset u v s).vports = s.vports := rfl
@[simp] theorem mauset_therms (u : Nat) (v : Mau) (s : State) : (mauset u v s).therms = s.therms := rfl
@[simp] theorem mauset_cool (u : Nat) (v : Mau) (s : State) : (mauset u v s).cool = s.cool := rfl
@[simp] theorem rd_mauset (u : Nat) (v : Mau) (s : State) (r : Reg) (j : Nat) : rd (mauset u v s) r j = rd s r j := rfl
@[simp] theorem rn_mauset (u : Nat) (v : Mau) (s : State) (r : Reg) (j : Nat) : rn (mauset u v s) r j = rn s r j := rfl

/-! ### setNvm -/

@[simp] theorem setNvm_pending (n : Nvm) (s : State) : (setNvm n s).pending = s.pending := rfl
@[simp] theorem setNvm_elapsed (n : Nvm) (s : State) : (setNvm n s).elapsed = s.elapsed := rfl
@[simp] theorem setNvm_free (n : Nvm) (s : State) : (setNvm n s).free = s.free := rfl
@[simp] theorem setNvm_tml (n : Nvm) (s : State) : (setNvm n s).tml = s.tml := rfl
@[simp] theorem setNvm_tmlOn (n : Nvm) (s : State) : (setNvm n s).tmlOn = s.tmlOn := rfl
@[simp] theorem setNvm_regs (n : Nvm) (s : State) : (setNvm n s).regs = s.regs := rfl
@[simp] theorem setNvm_queues (n : Nvm) (s : State) : (setNvm n s).queues = s.queues := rfl
@[simp] theorem setNvm_poolLost (n : Nvm) (s : State) : (setNvm n s).poolLost = s.poolLost := rfl
@[simp] theorem setNvm_fifos (n : Nvm) (s : State) : (setNvm n s).fifos = s.fifos := rfl
@[simp] theorem setNvm_engs (n : Nvm) (s : State) : (setNvm n s).engs = s.engs := rfl
@[simp] theorem setNvm_areas (n : Nvm) (s : State) : (setNvm n s).areas = s.areas := rfl
@[simp] theorem setNvm_run (n : Nvm) (s : State) : (setNvm n s).run = s.run := rfl
@[simp] theorem setNvm_image (n : Nvm) (s : State) : (setNvm n s).image = s.image := rfl
@[simp] theorem setNvm_patches (n : Nvm) (s : State) : (setNvm n s).patches = s.patches := rfl
@[simp] theorem setNvm_channels (n : Nvm) (s : State) : (setNvm n s).channels = s.channels := rfl
@[simp] theorem setNvm_deliveries (n : Nvm) (s : State) : (setNvm n s).deliveries = s.deliveries := rfl
@[simp] theorem setNvm_timers (n : Nvm) (s : State) : (setNvm n s).timers = s.timers := rfl
@[simp] theorem setNvm_markers (n : Nvm) (s : State) : (setNvm n s).markers = s.markers := rfl
@[simp] theorem setNvm_path0 (n : Nvm) (s : State) : (setNvm n s).path0 = s.path0 := rfl
@[simp] theorem setNvm_path1 (n : Nvm) (s : State) : (setNvm n s).path1 = s.path1 := rfl
@[simp] theorem setNvm_lastPath (n : Nvm) (s : State) : (setNvm n s).lastPath = s.lastPath := rfl
@[simp] theorem setNvm_boot (n : Nvm) (s : State) : (setNvm n s).boot = s.boot := rfl
@[simp] theorem setNvm_flog (n : Nvm) (s : State) : (setNvm n s).flog = s.flog := rfl
@[simp] theorem setNvm_scrubAt (n : Nvm) (s : State) : (setNvm n s).scrubAt = s.scrubAt := rfl
@[simp] theorem setNvm_dram (n : Nvm) (s : State) : (setNvm n s).dram = s.dram := rfl
@[simp] theorem setNvm_segs (n : Nvm) (s : State) : (setNvm n s).segs = s.segs := rfl
@[simp] theorem setNvm_segMem (n : Nvm) (s : State) : (setNvm n s).segMem = s.segMem := rfl
@[simp] theorem setNvm_segBad (n : Nvm) (s : State) : (setNvm n s).segBad = s.segBad := rfl
@[simp] theorem setNvm_refills (n : Nvm) (s : State) : (setNvm n s).refills = s.refills := rfl
@[simp] theorem setNvm_slices (n : Nvm) (s : State) : (setNvm n s).slices = s.slices := rfl
@[simp] theorem setNvm_frames (n : Nvm) (s : State) : (setNvm n s).frames = s.frames := rfl
@[simp] theorem setNvm_tapBad (n : Nvm) (s : State) : (setNvm n s).tapBad = s.tapBad := rfl
@[simp] theorem setNvm_fluxes (n : Nvm) (s : State) : (setNvm n s).fluxes = s.fluxes := rfl
@[simp] theorem setNvm_biases (n : Nvm) (s : State) : (setNvm n s).biases = s.biases := rfl
@[simp] theorem setNvm_biasAt (n : Nvm) (s : State) : (setNvm n s).biasAt = s.biasAt := rfl
@[simp] theorem setNvm_regions (n : Nvm) (s : State) : (setNvm n s).regions = s.regions := rfl
@[simp] theorem setNvm_bdQual (n : Nvm) (s : State) : (setNvm n s).bdQual = s.bdQual := rfl
@[simp] theorem setNvm_rfQualAt (n : Nvm) (s : State) : (setNvm n s).rfQualAt = s.rfQualAt := rfl
@[simp] theorem setNvm_reads (n : Nvm) (s : State) : (setNvm n s).reads = s.reads := rfl
@[simp] theorem setNvm_traces (n : Nvm) (s : State) : (setNvm n s).traces = s.traces := rfl
@[simp] theorem setNvm_acqs (n : Nvm) (s : State) : (setNvm n s).acqs = s.acqs := rfl
@[simp] theorem setNvm_krn (n : Nvm) (s : State) : (setNvm n s).krn = s.krn := rfl
@[simp] theorem setNvm_krnBad (n : Nvm) (s : State) : (setNvm n s).krnBad = s.krnBad := rfl
@[simp] theorem setNvm_tab (n : Nvm) (s : State) : (setNvm n s).tab = s.tab := rfl
@[simp] theorem setNvm_tabBad (n : Nvm) (s : State) : (setNvm n s).tabBad = s.tabBad := rfl
@[simp] theorem setNvm_crossings (n : Nvm) (s : State) : (setNvm n s).crossings = s.crossings := rfl
@[simp] theorem setNvm_sets (n : Nvm) (s : State) : (setNvm n s).sets = s.sets := rfl
@[simp] theorem setNvm_stream (n : Nvm) (s : State) : (setNvm n s).stream = s.stream := rfl
@[simp] theorem setNvm_incs (n : Nvm) (s : State) : (setNvm n s).incs = s.incs := rfl
@[simp] theorem setNvm_trig (n : Nvm) (s : State) : (setNvm n s).trig = s.trig := rfl
@[simp] theorem setNvm_board (n : Nvm) (s : State) : (setNvm n s).board = s.board := rfl
@[simp] theorem setNvm_bres (n : Nvm) (s : State) : (setNvm n s).bres = s.bres := rfl
@[simp] theorem setNvm_vre (n : Nvm) (s : State) : (setNvm n s).vre = s.vre := rfl
@[simp] theorem setNvm_clk (n : Nvm) (s : State) : (setNvm n s).clk = s.clk := rfl
@[simp] theorem setNvm_ptp (n : Nvm) (s : State) : (setNvm n s).ptp = s.ptp := rfl
@[simp] theorem setNvm_lanes (n : Nvm) (s : State) : (setNvm n s).lanes = s.lanes := rfl
@[simp] theorem setNvm_hl (n : Nvm) (s : State) : (setNvm n s).hl = s.hl := rfl
@[simp] theorem setNvm_vports (n : Nvm) (s : State) : (setNvm n s).vports = s.vports := rfl
@[simp] theorem setNvm_maus (n : Nvm) (s : State) : (setNvm n s).maus = s.maus := rfl
@[simp] theorem setNvm_therms (n : Nvm) (s : State) : (setNvm n s).therms = s.therms := rfl
@[simp] theorem setNvm_cool (n : Nvm) (s : State) : (setNvm n s).cool = s.cool := rfl
@[simp] theorem rd_setNvm (n : Nvm) (s : State) (r : Reg) (j : Nat) : rd (setNvm n s) r j = rd s r j := rfl
@[simp] theorem rn_setNvm (n : Nvm) (s : State) (r : Reg) (j : Nat) : rn (setNvm n s) r j = rn s r j := rfl

/-! ### wr -/

@[simp] theorem wr_pending (r : Reg) (v : Int) (i : Nat) (s : State) : (wr r v i s).pending = s.pending := rfl
@[simp] theorem wr_elapsed (r : Reg) (v : Int) (i : Nat) (s : State) : (wr r v i s).elapsed = s.elapsed := rfl
@[simp] theorem wr_free (r : Reg) (v : Int) (i : Nat) (s : State) : (wr r v i s).free = s.free := rfl
@[simp] theorem wr_tml (r : Reg) (v : Int) (i : Nat) (s : State) : (wr r v i s).tml = s.tml := rfl
@[simp] theorem wr_tmlOn (r : Reg) (v : Int) (i : Nat) (s : State) : (wr r v i s).tmlOn = s.tmlOn := rfl
@[simp] theorem wr_queues (r : Reg) (v : Int) (i : Nat) (s : State) : (wr r v i s).queues = s.queues := rfl
@[simp] theorem wr_poolLost (r : Reg) (v : Int) (i : Nat) (s : State) : (wr r v i s).poolLost = s.poolLost := rfl
@[simp] theorem wr_fifos (r : Reg) (v : Int) (i : Nat) (s : State) : (wr r v i s).fifos = s.fifos := rfl
@[simp] theorem wr_engs (r : Reg) (v : Int) (i : Nat) (s : State) : (wr r v i s).engs = s.engs := rfl
@[simp] theorem wr_areas (r : Reg) (v : Int) (i : Nat) (s : State) : (wr r v i s).areas = s.areas := rfl
@[simp] theorem wr_run (r : Reg) (v : Int) (i : Nat) (s : State) : (wr r v i s).run = s.run := rfl
@[simp] theorem wr_image (r : Reg) (v : Int) (i : Nat) (s : State) : (wr r v i s).image = s.image := rfl
@[simp] theorem wr_patches (r : Reg) (v : Int) (i : Nat) (s : State) : (wr r v i s).patches = s.patches := rfl
@[simp] theorem wr_channels (r : Reg) (v : Int) (i : Nat) (s : State) : (wr r v i s).channels = s.channels := rfl
@[simp] theorem wr_deliveries (r : Reg) (v : Int) (i : Nat) (s : State) : (wr r v i s).deliveries = s.deliveries := rfl
@[simp] theorem wr_timers (r : Reg) (v : Int) (i : Nat) (s : State) : (wr r v i s).timers = s.timers := rfl
@[simp] theorem wr_markers (r : Reg) (v : Int) (i : Nat) (s : State) : (wr r v i s).markers = s.markers := rfl
@[simp] theorem wr_path0 (r : Reg) (v : Int) (i : Nat) (s : State) : (wr r v i s).path0 = s.path0 := rfl
@[simp] theorem wr_path1 (r : Reg) (v : Int) (i : Nat) (s : State) : (wr r v i s).path1 = s.path1 := rfl
@[simp] theorem wr_lastPath (r : Reg) (v : Int) (i : Nat) (s : State) : (wr r v i s).lastPath = s.lastPath := rfl
@[simp] theorem wr_nvm (r : Reg) (v : Int) (i : Nat) (s : State) : (wr r v i s).nvm = s.nvm := rfl
@[simp] theorem wr_boot (r : Reg) (v : Int) (i : Nat) (s : State) : (wr r v i s).boot = s.boot := rfl
@[simp] theorem wr_flog (r : Reg) (v : Int) (i : Nat) (s : State) : (wr r v i s).flog = s.flog := rfl
@[simp] theorem wr_scrubAt (r : Reg) (v : Int) (i : Nat) (s : State) : (wr r v i s).scrubAt = s.scrubAt := rfl
@[simp] theorem wr_dram (r : Reg) (v : Int) (i : Nat) (s : State) : (wr r v i s).dram = s.dram := rfl
@[simp] theorem wr_segs (r : Reg) (v : Int) (i : Nat) (s : State) : (wr r v i s).segs = s.segs := rfl
@[simp] theorem wr_segMem (r : Reg) (v : Int) (i : Nat) (s : State) : (wr r v i s).segMem = s.segMem := rfl
@[simp] theorem wr_segBad (r : Reg) (v : Int) (i : Nat) (s : State) : (wr r v i s).segBad = s.segBad := rfl
@[simp] theorem wr_refills (r : Reg) (v : Int) (i : Nat) (s : State) : (wr r v i s).refills = s.refills := rfl
@[simp] theorem wr_slices (r : Reg) (v : Int) (i : Nat) (s : State) : (wr r v i s).slices = s.slices := rfl
@[simp] theorem wr_frames (r : Reg) (v : Int) (i : Nat) (s : State) : (wr r v i s).frames = s.frames := rfl
@[simp] theorem wr_tapBad (r : Reg) (v : Int) (i : Nat) (s : State) : (wr r v i s).tapBad = s.tapBad := rfl
@[simp] theorem wr_fluxes (r : Reg) (v : Int) (i : Nat) (s : State) : (wr r v i s).fluxes = s.fluxes := rfl
@[simp] theorem wr_biases (r : Reg) (v : Int) (i : Nat) (s : State) : (wr r v i s).biases = s.biases := rfl
@[simp] theorem wr_biasAt (r : Reg) (v : Int) (i : Nat) (s : State) : (wr r v i s).biasAt = s.biasAt := rfl
@[simp] theorem wr_regions (r : Reg) (v : Int) (i : Nat) (s : State) : (wr r v i s).regions = s.regions := rfl
@[simp] theorem wr_bdQual (r : Reg) (v : Int) (i : Nat) (s : State) : (wr r v i s).bdQual = s.bdQual := rfl
@[simp] theorem wr_rfQualAt (r : Reg) (v : Int) (i : Nat) (s : State) : (wr r v i s).rfQualAt = s.rfQualAt := rfl
@[simp] theorem wr_reads (r : Reg) (v : Int) (i : Nat) (s : State) : (wr r v i s).reads = s.reads := rfl
@[simp] theorem wr_traces (r : Reg) (v : Int) (i : Nat) (s : State) : (wr r v i s).traces = s.traces := rfl
@[simp] theorem wr_acqs (r : Reg) (v : Int) (i : Nat) (s : State) : (wr r v i s).acqs = s.acqs := rfl
@[simp] theorem wr_krn (r : Reg) (v : Int) (i : Nat) (s : State) : (wr r v i s).krn = s.krn := rfl
@[simp] theorem wr_krnBad (r : Reg) (v : Int) (i : Nat) (s : State) : (wr r v i s).krnBad = s.krnBad := rfl
@[simp] theorem wr_tab (r : Reg) (v : Int) (i : Nat) (s : State) : (wr r v i s).tab = s.tab := rfl
@[simp] theorem wr_tabBad (r : Reg) (v : Int) (i : Nat) (s : State) : (wr r v i s).tabBad = s.tabBad := rfl
@[simp] theorem wr_crossings (r : Reg) (v : Int) (i : Nat) (s : State) : (wr r v i s).crossings = s.crossings := rfl
@[simp] theorem wr_sets (r : Reg) (v : Int) (i : Nat) (s : State) : (wr r v i s).sets = s.sets := rfl
@[simp] theorem wr_stream (r : Reg) (v : Int) (i : Nat) (s : State) : (wr r v i s).stream = s.stream := rfl
@[simp] theorem wr_incs (r : Reg) (v : Int) (i : Nat) (s : State) : (wr r v i s).incs = s.incs := rfl
@[simp] theorem wr_trig (r : Reg) (v : Int) (i : Nat) (s : State) : (wr r v i s).trig = s.trig := rfl
@[simp] theorem wr_board (r : Reg) (v : Int) (i : Nat) (s : State) : (wr r v i s).board = s.board := rfl
@[simp] theorem wr_bres (r : Reg) (v : Int) (i : Nat) (s : State) : (wr r v i s).bres = s.bres := rfl
@[simp] theorem wr_vre (r : Reg) (v : Int) (i : Nat) (s : State) : (wr r v i s).vre = s.vre := rfl
@[simp] theorem wr_clk (r : Reg) (v : Int) (i : Nat) (s : State) : (wr r v i s).clk = s.clk := rfl
@[simp] theorem wr_ptp (r : Reg) (v : Int) (i : Nat) (s : State) : (wr r v i s).ptp = s.ptp := rfl
@[simp] theorem wr_lanes (r : Reg) (v : Int) (i : Nat) (s : State) : (wr r v i s).lanes = s.lanes := rfl
@[simp] theorem wr_hl (r : Reg) (v : Int) (i : Nat) (s : State) : (wr r v i s).hl = s.hl := rfl
@[simp] theorem wr_vports (r : Reg) (v : Int) (i : Nat) (s : State) : (wr r v i s).vports = s.vports := rfl
@[simp] theorem wr_maus (r : Reg) (v : Int) (i : Nat) (s : State) : (wr r v i s).maus = s.maus := rfl
@[simp] theorem wr_therms (r : Reg) (v : Int) (i : Nat) (s : State) : (wr r v i s).therms = s.therms := rfl
@[simp] theorem wr_cool (r : Reg) (v : Int) (i : Nat) (s : State) : (wr r v i s).cool = s.cool := rfl

/-! ### qset -/

@[simp] theorem qset_pending (q : Nat) (v : Queue) (s : State) : (qset q v s).pending = s.pending := rfl
@[simp] theorem qset_elapsed (q : Nat) (v : Queue) (s : State) : (qset q v s).elapsed = s.elapsed := rfl
@[simp] theorem qset_free (q : Nat) (v : Queue) (s : State) : (qset q v s).free = s.free := rfl
@[simp] theorem qset_tml (q : Nat) (v : Queue) (s : State) : (qset q v s).tml = s.tml := rfl
@[simp] theorem qset_tmlOn (q : Nat) (v : Queue) (s : State) : (qset q v s).tmlOn = s.tmlOn := rfl
@[simp] theorem qset_regs (q : Nat) (v : Queue) (s : State) : (qset q v s).regs = s.regs := rfl
@[simp] theorem qset_poolLost (q : Nat) (v : Queue) (s : State) : (qset q v s).poolLost = s.poolLost := rfl
@[simp] theorem qset_fifos (q : Nat) (v : Queue) (s : State) : (qset q v s).fifos = s.fifos := rfl
@[simp] theorem qset_engs (q : Nat) (v : Queue) (s : State) : (qset q v s).engs = s.engs := rfl
@[simp] theorem qset_areas (q : Nat) (v : Queue) (s : State) : (qset q v s).areas = s.areas := rfl
@[simp] theorem qset_run (q : Nat) (v : Queue) (s : State) : (qset q v s).run = s.run := rfl
@[simp] theorem qset_image (q : Nat) (v : Queue) (s : State) : (qset q v s).image = s.image := rfl
@[simp] theorem qset_patches (q : Nat) (v : Queue) (s : State) : (qset q v s).patches = s.patches := rfl
@[simp] theorem qset_channels (q : Nat) (v : Queue) (s : State) : (qset q v s).channels = s.channels := rfl
@[simp] theorem qset_deliveries (q : Nat) (v : Queue) (s : State) : (qset q v s).deliveries = s.deliveries := rfl
@[simp] theorem qset_timers (q : Nat) (v : Queue) (s : State) : (qset q v s).timers = s.timers := rfl
@[simp] theorem qset_markers (q : Nat) (v : Queue) (s : State) : (qset q v s).markers = s.markers := rfl
@[simp] theorem qset_path0 (q : Nat) (v : Queue) (s : State) : (qset q v s).path0 = s.path0 := rfl
@[simp] theorem qset_path1 (q : Nat) (v : Queue) (s : State) : (qset q v s).path1 = s.path1 := rfl
@[simp] theorem qset_lastPath (q : Nat) (v : Queue) (s : State) : (qset q v s).lastPath = s.lastPath := rfl
@[simp] theorem qset_nvm (q : Nat) (v : Queue) (s : State) : (qset q v s).nvm = s.nvm := rfl
@[simp] theorem qset_boot (q : Nat) (v : Queue) (s : State) : (qset q v s).boot = s.boot := rfl
@[simp] theorem qset_flog (q : Nat) (v : Queue) (s : State) : (qset q v s).flog = s.flog := rfl
@[simp] theorem qset_scrubAt (q : Nat) (v : Queue) (s : State) : (qset q v s).scrubAt = s.scrubAt := rfl
@[simp] theorem qset_dram (q : Nat) (v : Queue) (s : State) : (qset q v s).dram = s.dram := rfl
@[simp] theorem qset_segs (q : Nat) (v : Queue) (s : State) : (qset q v s).segs = s.segs := rfl
@[simp] theorem qset_segMem (q : Nat) (v : Queue) (s : State) : (qset q v s).segMem = s.segMem := rfl
@[simp] theorem qset_segBad (q : Nat) (v : Queue) (s : State) : (qset q v s).segBad = s.segBad := rfl
@[simp] theorem qset_refills (q : Nat) (v : Queue) (s : State) : (qset q v s).refills = s.refills := rfl
@[simp] theorem qset_slices (q : Nat) (v : Queue) (s : State) : (qset q v s).slices = s.slices := rfl
@[simp] theorem qset_frames (q : Nat) (v : Queue) (s : State) : (qset q v s).frames = s.frames := rfl
@[simp] theorem qset_tapBad (q : Nat) (v : Queue) (s : State) : (qset q v s).tapBad = s.tapBad := rfl
@[simp] theorem qset_fluxes (q : Nat) (v : Queue) (s : State) : (qset q v s).fluxes = s.fluxes := rfl
@[simp] theorem qset_biases (q : Nat) (v : Queue) (s : State) : (qset q v s).biases = s.biases := rfl
@[simp] theorem qset_biasAt (q : Nat) (v : Queue) (s : State) : (qset q v s).biasAt = s.biasAt := rfl
@[simp] theorem qset_regions (q : Nat) (v : Queue) (s : State) : (qset q v s).regions = s.regions := rfl
@[simp] theorem qset_bdQual (q : Nat) (v : Queue) (s : State) : (qset q v s).bdQual = s.bdQual := rfl
@[simp] theorem qset_rfQualAt (q : Nat) (v : Queue) (s : State) : (qset q v s).rfQualAt = s.rfQualAt := rfl
@[simp] theorem qset_reads (q : Nat) (v : Queue) (s : State) : (qset q v s).reads = s.reads := rfl
@[simp] theorem qset_traces (q : Nat) (v : Queue) (s : State) : (qset q v s).traces = s.traces := rfl
@[simp] theorem qset_acqs (q : Nat) (v : Queue) (s : State) : (qset q v s).acqs = s.acqs := rfl
@[simp] theorem qset_krn (q : Nat) (v : Queue) (s : State) : (qset q v s).krn = s.krn := rfl
@[simp] theorem qset_krnBad (q : Nat) (v : Queue) (s : State) : (qset q v s).krnBad = s.krnBad := rfl
@[simp] theorem qset_tab (q : Nat) (v : Queue) (s : State) : (qset q v s).tab = s.tab := rfl
@[simp] theorem qset_tabBad (q : Nat) (v : Queue) (s : State) : (qset q v s).tabBad = s.tabBad := rfl
@[simp] theorem qset_crossings (q : Nat) (v : Queue) (s : State) : (qset q v s).crossings = s.crossings := rfl
@[simp] theorem qset_sets (q : Nat) (v : Queue) (s : State) : (qset q v s).sets = s.sets := rfl
@[simp] theorem qset_stream (q : Nat) (v : Queue) (s : State) : (qset q v s).stream = s.stream := rfl
@[simp] theorem qset_incs (q : Nat) (v : Queue) (s : State) : (qset q v s).incs = s.incs := rfl
@[simp] theorem qset_trig (q : Nat) (v : Queue) (s : State) : (qset q v s).trig = s.trig := rfl
@[simp] theorem qset_board (q : Nat) (v : Queue) (s : State) : (qset q v s).board = s.board := rfl
@[simp] theorem qset_bres (q : Nat) (v : Queue) (s : State) : (qset q v s).bres = s.bres := rfl
@[simp] theorem qset_vre (q : Nat) (v : Queue) (s : State) : (qset q v s).vre = s.vre := rfl
@[simp] theorem qset_clk (q : Nat) (v : Queue) (s : State) : (qset q v s).clk = s.clk := rfl
@[simp] theorem qset_ptp (q : Nat) (v : Queue) (s : State) : (qset q v s).ptp = s.ptp := rfl
@[simp] theorem qset_lanes (q : Nat) (v : Queue) (s : State) : (qset q v s).lanes = s.lanes := rfl
@[simp] theorem qset_hl (q : Nat) (v : Queue) (s : State) : (qset q v s).hl = s.hl := rfl
@[simp] theorem qset_vports (q : Nat) (v : Queue) (s : State) : (qset q v s).vports = s.vports := rfl
@[simp] theorem qset_maus (q : Nat) (v : Queue) (s : State) : (qset q v s).maus = s.maus := rfl
@[simp] theorem qset_therms (q : Nat) (v : Queue) (s : State) : (qset q v s).therms = s.therms := rfl
@[simp] theorem qset_cool (q : Nat) (v : Queue) (s : State) : (qset q v s).cool = s.cool := rfl
@[simp] theorem rd_qset (q : Nat) (v : Queue) (s : State) (r : Reg) (j : Nat) : rd (qset q v s) r j = rd s r j := rfl
@[simp] theorem rn_qset (q : Nat) (v : Queue) (s : State) (r : Reg) (j : Nat) : rn (qset q v s) r j = rn s r j := rfl

/-! ### fset -/

@[simp] theorem fset_pending (f : Nat) (v : Fifo) (s : State) : (fset f v s).pending = s.pending := rfl
@[simp] theorem fset_elapsed (f : Nat) (v : Fifo) (s : State) : (fset f v s).elapsed = s.elapsed := rfl
@[simp] theorem fset_free (f : Nat) (v : Fifo) (s : State) : (fset f v s).free = s.free := rfl
@[simp] theorem fset_tml (f : Nat) (v : Fifo) (s : State) : (fset f v s).tml = s.tml := rfl
@[simp] theorem fset_tmlOn (f : Nat) (v : Fifo) (s : State) : (fset f v s).tmlOn = s.tmlOn := rfl
@[simp] theorem fset_regs (f : Nat) (v : Fifo) (s : State) : (fset f v s).regs = s.regs := rfl
@[simp] theorem fset_queues (f : Nat) (v : Fifo) (s : State) : (fset f v s).queues = s.queues := rfl
@[simp] theorem fset_poolLost (f : Nat) (v : Fifo) (s : State) : (fset f v s).poolLost = s.poolLost := rfl
@[simp] theorem fset_engs (f : Nat) (v : Fifo) (s : State) : (fset f v s).engs = s.engs := rfl
@[simp] theorem fset_areas (f : Nat) (v : Fifo) (s : State) : (fset f v s).areas = s.areas := rfl
@[simp] theorem fset_run (f : Nat) (v : Fifo) (s : State) : (fset f v s).run = s.run := rfl
@[simp] theorem fset_image (f : Nat) (v : Fifo) (s : State) : (fset f v s).image = s.image := rfl
@[simp] theorem fset_patches (f : Nat) (v : Fifo) (s : State) : (fset f v s).patches = s.patches := rfl
@[simp] theorem fset_channels (f : Nat) (v : Fifo) (s : State) : (fset f v s).channels = s.channels := rfl
@[simp] theorem fset_deliveries (f : Nat) (v : Fifo) (s : State) : (fset f v s).deliveries = s.deliveries := rfl
@[simp] theorem fset_timers (f : Nat) (v : Fifo) (s : State) : (fset f v s).timers = s.timers := rfl
@[simp] theorem fset_markers (f : Nat) (v : Fifo) (s : State) : (fset f v s).markers = s.markers := rfl
@[simp] theorem fset_path0 (f : Nat) (v : Fifo) (s : State) : (fset f v s).path0 = s.path0 := rfl
@[simp] theorem fset_path1 (f : Nat) (v : Fifo) (s : State) : (fset f v s).path1 = s.path1 := rfl
@[simp] theorem fset_lastPath (f : Nat) (v : Fifo) (s : State) : (fset f v s).lastPath = s.lastPath := rfl
@[simp] theorem fset_nvm (f : Nat) (v : Fifo) (s : State) : (fset f v s).nvm = s.nvm := rfl
@[simp] theorem fset_boot (f : Nat) (v : Fifo) (s : State) : (fset f v s).boot = s.boot := rfl
@[simp] theorem fset_flog (f : Nat) (v : Fifo) (s : State) : (fset f v s).flog = s.flog := rfl
@[simp] theorem fset_scrubAt (f : Nat) (v : Fifo) (s : State) : (fset f v s).scrubAt = s.scrubAt := rfl
@[simp] theorem fset_dram (f : Nat) (v : Fifo) (s : State) : (fset f v s).dram = s.dram := rfl
@[simp] theorem fset_segs (f : Nat) (v : Fifo) (s : State) : (fset f v s).segs = s.segs := rfl
@[simp] theorem fset_segMem (f : Nat) (v : Fifo) (s : State) : (fset f v s).segMem = s.segMem := rfl
@[simp] theorem fset_segBad (f : Nat) (v : Fifo) (s : State) : (fset f v s).segBad = s.segBad := rfl
@[simp] theorem fset_refills (f : Nat) (v : Fifo) (s : State) : (fset f v s).refills = s.refills := rfl
@[simp] theorem fset_slices (f : Nat) (v : Fifo) (s : State) : (fset f v s).slices = s.slices := rfl
@[simp] theorem fset_frames (f : Nat) (v : Fifo) (s : State) : (fset f v s).frames = s.frames := rfl
@[simp] theorem fset_tapBad (f : Nat) (v : Fifo) (s : State) : (fset f v s).tapBad = s.tapBad := rfl
@[simp] theorem fset_fluxes (f : Nat) (v : Fifo) (s : State) : (fset f v s).fluxes = s.fluxes := rfl
@[simp] theorem fset_biases (f : Nat) (v : Fifo) (s : State) : (fset f v s).biases = s.biases := rfl
@[simp] theorem fset_biasAt (f : Nat) (v : Fifo) (s : State) : (fset f v s).biasAt = s.biasAt := rfl
@[simp] theorem fset_regions (f : Nat) (v : Fifo) (s : State) : (fset f v s).regions = s.regions := rfl
@[simp] theorem fset_bdQual (f : Nat) (v : Fifo) (s : State) : (fset f v s).bdQual = s.bdQual := rfl
@[simp] theorem fset_rfQualAt (f : Nat) (v : Fifo) (s : State) : (fset f v s).rfQualAt = s.rfQualAt := rfl
@[simp] theorem fset_reads (f : Nat) (v : Fifo) (s : State) : (fset f v s).reads = s.reads := rfl
@[simp] theorem fset_traces (f : Nat) (v : Fifo) (s : State) : (fset f v s).traces = s.traces := rfl
@[simp] theorem fset_acqs (f : Nat) (v : Fifo) (s : State) : (fset f v s).acqs = s.acqs := rfl
@[simp] theorem fset_krn (f : Nat) (v : Fifo) (s : State) : (fset f v s).krn = s.krn := rfl
@[simp] theorem fset_krnBad (f : Nat) (v : Fifo) (s : State) : (fset f v s).krnBad = s.krnBad := rfl
@[simp] theorem fset_tab (f : Nat) (v : Fifo) (s : State) : (fset f v s).tab = s.tab := rfl
@[simp] theorem fset_tabBad (f : Nat) (v : Fifo) (s : State) : (fset f v s).tabBad = s.tabBad := rfl
@[simp] theorem fset_crossings (f : Nat) (v : Fifo) (s : State) : (fset f v s).crossings = s.crossings := rfl
@[simp] theorem fset_sets (f : Nat) (v : Fifo) (s : State) : (fset f v s).sets = s.sets := rfl
@[simp] theorem fset_stream (f : Nat) (v : Fifo) (s : State) : (fset f v s).stream = s.stream := rfl
@[simp] theorem fset_incs (f : Nat) (v : Fifo) (s : State) : (fset f v s).incs = s.incs := rfl
@[simp] theorem fset_trig (f : Nat) (v : Fifo) (s : State) : (fset f v s).trig = s.trig := rfl
@[simp] theorem fset_board (f : Nat) (v : Fifo) (s : State) : (fset f v s).board = s.board := rfl
@[simp] theorem fset_bres (f : Nat) (v : Fifo) (s : State) : (fset f v s).bres = s.bres := rfl
@[simp] theorem fset_vre (f : Nat) (v : Fifo) (s : State) : (fset f v s).vre = s.vre := rfl
@[simp] theorem fset_clk (f : Nat) (v : Fifo) (s : State) : (fset f v s).clk = s.clk := rfl
@[simp] theorem fset_ptp (f : Nat) (v : Fifo) (s : State) : (fset f v s).ptp = s.ptp := rfl
@[simp] theorem fset_lanes (f : Nat) (v : Fifo) (s : State) : (fset f v s).lanes = s.lanes := rfl
@[simp] theorem fset_hl (f : Nat) (v : Fifo) (s : State) : (fset f v s).hl = s.hl := rfl
@[simp] theorem fset_vports (f : Nat) (v : Fifo) (s : State) : (fset f v s).vports = s.vports := rfl
@[simp] theorem fset_maus (f : Nat) (v : Fifo) (s : State) : (fset f v s).maus = s.maus := rfl
@[simp] theorem fset_therms (f : Nat) (v : Fifo) (s : State) : (fset f v s).therms = s.therms := rfl
@[simp] theorem fset_cool (f : Nat) (v : Fifo) (s : State) : (fset f v s).cool = s.cool := rfl
@[simp] theorem rd_fset (f : Nat) (v : Fifo) (s : State) (r : Reg) (j : Nat) : rd (fset f v s) r j = rd s r j := rfl
@[simp] theorem rn_fset (f : Nat) (v : Fifo) (s : State) (r : Reg) (j : Nat) : rn (fset f v s) r j = rn s r j := rfl

/-! ### eset -/

@[simp] theorem eset_pending (e : Nat) (v : Engine) (s : State) : (eset e v s).pending = s.pending := rfl
@[simp] theorem eset_elapsed (e : Nat) (v : Engine) (s : State) : (eset e v s).elapsed = s.elapsed := rfl
@[simp] theorem eset_free (e : Nat) (v : Engine) (s : State) : (eset e v s).free = s.free := rfl
@[simp] theorem eset_tml (e : Nat) (v : Engine) (s : State) : (eset e v s).tml = s.tml := rfl
@[simp] theorem eset_tmlOn (e : Nat) (v : Engine) (s : State) : (eset e v s).tmlOn = s.tmlOn := rfl
@[simp] theorem eset_regs (e : Nat) (v : Engine) (s : State) : (eset e v s).regs = s.regs := rfl
@[simp] theorem eset_queues (e : Nat) (v : Engine) (s : State) : (eset e v s).queues = s.queues := rfl
@[simp] theorem eset_poolLost (e : Nat) (v : Engine) (s : State) : (eset e v s).poolLost = s.poolLost := rfl
@[simp] theorem eset_fifos (e : Nat) (v : Engine) (s : State) : (eset e v s).fifos = s.fifos := rfl
@[simp] theorem eset_areas (e : Nat) (v : Engine) (s : State) : (eset e v s).areas = s.areas := rfl
@[simp] theorem eset_run (e : Nat) (v : Engine) (s : State) : (eset e v s).run = s.run := rfl
@[simp] theorem eset_image (e : Nat) (v : Engine) (s : State) : (eset e v s).image = s.image := rfl
@[simp] theorem eset_patches (e : Nat) (v : Engine) (s : State) : (eset e v s).patches = s.patches := rfl
@[simp] theorem eset_channels (e : Nat) (v : Engine) (s : State) : (eset e v s).channels = s.channels := rfl
@[simp] theorem eset_deliveries (e : Nat) (v : Engine) (s : State) : (eset e v s).deliveries = s.deliveries := rfl
@[simp] theorem eset_timers (e : Nat) (v : Engine) (s : State) : (eset e v s).timers = s.timers := rfl
@[simp] theorem eset_markers (e : Nat) (v : Engine) (s : State) : (eset e v s).markers = s.markers := rfl
@[simp] theorem eset_path0 (e : Nat) (v : Engine) (s : State) : (eset e v s).path0 = s.path0 := rfl
@[simp] theorem eset_path1 (e : Nat) (v : Engine) (s : State) : (eset e v s).path1 = s.path1 := rfl
@[simp] theorem eset_lastPath (e : Nat) (v : Engine) (s : State) : (eset e v s).lastPath = s.lastPath := rfl
@[simp] theorem eset_nvm (e : Nat) (v : Engine) (s : State) : (eset e v s).nvm = s.nvm := rfl
@[simp] theorem eset_boot (e : Nat) (v : Engine) (s : State) : (eset e v s).boot = s.boot := rfl
@[simp] theorem eset_flog (e : Nat) (v : Engine) (s : State) : (eset e v s).flog = s.flog := rfl
@[simp] theorem eset_scrubAt (e : Nat) (v : Engine) (s : State) : (eset e v s).scrubAt = s.scrubAt := rfl
@[simp] theorem eset_dram (e : Nat) (v : Engine) (s : State) : (eset e v s).dram = s.dram := rfl
@[simp] theorem eset_segs (e : Nat) (v : Engine) (s : State) : (eset e v s).segs = s.segs := rfl
@[simp] theorem eset_segMem (e : Nat) (v : Engine) (s : State) : (eset e v s).segMem = s.segMem := rfl
@[simp] theorem eset_segBad (e : Nat) (v : Engine) (s : State) : (eset e v s).segBad = s.segBad := rfl
@[simp] theorem eset_refills (e : Nat) (v : Engine) (s : State) : (eset e v s).refills = s.refills := rfl
@[simp] theorem eset_slices (e : Nat) (v : Engine) (s : State) : (eset e v s).slices = s.slices := rfl
@[simp] theorem eset_frames (e : Nat) (v : Engine) (s : State) : (eset e v s).frames = s.frames := rfl
@[simp] theorem eset_tapBad (e : Nat) (v : Engine) (s : State) : (eset e v s).tapBad = s.tapBad := rfl
@[simp] theorem eset_fluxes (e : Nat) (v : Engine) (s : State) : (eset e v s).fluxes = s.fluxes := rfl
@[simp] theorem eset_biases (e : Nat) (v : Engine) (s : State) : (eset e v s).biases = s.biases := rfl
@[simp] theorem eset_biasAt (e : Nat) (v : Engine) (s : State) : (eset e v s).biasAt = s.biasAt := rfl
@[simp] theorem eset_regions (e : Nat) (v : Engine) (s : State) : (eset e v s).regions = s.regions := rfl
@[simp] theorem eset_bdQual (e : Nat) (v : Engine) (s : State) : (eset e v s).bdQual = s.bdQual := rfl
@[simp] theorem eset_rfQualAt (e : Nat) (v : Engine) (s : State) : (eset e v s).rfQualAt = s.rfQualAt := rfl
@[simp] theorem eset_reads (e : Nat) (v : Engine) (s : State) : (eset e v s).reads = s.reads := rfl
@[simp] theorem eset_traces (e : Nat) (v : Engine) (s : State) : (eset e v s).traces = s.traces := rfl
@[simp] theorem eset_acqs (e : Nat) (v : Engine) (s : State) : (eset e v s).acqs = s.acqs := rfl
@[simp] theorem eset_krn (e : Nat) (v : Engine) (s : State) : (eset e v s).krn = s.krn := rfl
@[simp] theorem eset_krnBad (e : Nat) (v : Engine) (s : State) : (eset e v s).krnBad = s.krnBad := rfl
@[simp] theorem eset_tab (e : Nat) (v : Engine) (s : State) : (eset e v s).tab = s.tab := rfl
@[simp] theorem eset_tabBad (e : Nat) (v : Engine) (s : State) : (eset e v s).tabBad = s.tabBad := rfl
@[simp] theorem eset_crossings (e : Nat) (v : Engine) (s : State) : (eset e v s).crossings = s.crossings := rfl
@[simp] theorem eset_sets (e : Nat) (v : Engine) (s : State) : (eset e v s).sets = s.sets := rfl
@[simp] theorem eset_stream (e : Nat) (v : Engine) (s : State) : (eset e v s).stream = s.stream := rfl
@[simp] theorem eset_incs (e : Nat) (v : Engine) (s : State) : (eset e v s).incs = s.incs := rfl
@[simp] theorem eset_trig (e : Nat) (v : Engine) (s : State) : (eset e v s).trig = s.trig := rfl
@[simp] theorem eset_board (e : Nat) (v : Engine) (s : State) : (eset e v s).board = s.board := rfl
@[simp] theorem eset_bres (e : Nat) (v : Engine) (s : State) : (eset e v s).bres = s.bres := rfl
@[simp] theorem eset_vre (e : Nat) (v : Engine) (s : State) : (eset e v s).vre = s.vre := rfl
@[simp] theorem eset_clk (e : Nat) (v : Engine) (s : State) : (eset e v s).clk = s.clk := rfl
@[simp] theorem eset_ptp (e : Nat) (v : Engine) (s : State) : (eset e v s).ptp = s.ptp := rfl
@[simp] theorem eset_lanes (e : Nat) (v : Engine) (s : State) : (eset e v s).lanes = s.lanes := rfl
@[simp] theorem eset_hl (e : Nat) (v : Engine) (s : State) : (eset e v s).hl = s.hl := rfl
@[simp] theorem eset_vports (e : Nat) (v : Engine) (s : State) : (eset e v s).vports = s.vports := rfl
@[simp] theorem eset_maus (e : Nat) (v : Engine) (s : State) : (eset e v s).maus = s.maus := rfl
@[simp] theorem eset_therms (e : Nat) (v : Engine) (s : State) : (eset e v s).therms = s.therms := rfl
@[simp] theorem eset_cool (e : Nat) (v : Engine) (s : State) : (eset e v s).cool = s.cool := rfl
@[simp] theorem rd_eset (e : Nat) (v : Engine) (s : State) (r : Reg) (j : Nat) : rd (eset e v s) r j = rd s r j := rfl
@[simp] theorem rn_eset (e : Nat) (v : Engine) (s : State) (r : Reg) (j : Nat) : rn (eset e v s) r j = rn s r j := rfl

/-! ### aset -/

@[simp] theorem aset_pending (e : Nat) (v : Area) (s : State) : (aset e v s).pending = s.pending := rfl
@[simp] theorem aset_elapsed (e : Nat) (v : Area) (s : State) : (aset e v s).elapsed = s.elapsed := rfl
@[simp] theorem aset_free (e : Nat) (v : Area) (s : State) : (aset e v s).free = s.free := rfl
@[simp] theorem aset_tml (e : Nat) (v : Area) (s : State) : (aset e v s).tml = s.tml := rfl
@[simp] theorem aset_tmlOn (e : Nat) (v : Area) (s : State) : (aset e v s).tmlOn = s.tmlOn := rfl
@[simp] theorem aset_regs (e : Nat) (v : Area) (s : State) : (aset e v s).regs = s.regs := rfl
@[simp] theorem aset_queues (e : Nat) (v : Area) (s : State) : (aset e v s).queues = s.queues := rfl
@[simp] theorem aset_poolLost (e : Nat) (v : Area) (s : State) : (aset e v s).poolLost = s.poolLost := rfl
@[simp] theorem aset_fifos (e : Nat) (v : Area) (s : State) : (aset e v s).fifos = s.fifos := rfl
@[simp] theorem aset_engs (e : Nat) (v : Area) (s : State) : (aset e v s).engs = s.engs := rfl
@[simp] theorem aset_run (e : Nat) (v : Area) (s : State) : (aset e v s).run = s.run := rfl
@[simp] theorem aset_image (e : Nat) (v : Area) (s : State) : (aset e v s).image = s.image := rfl
@[simp] theorem aset_patches (e : Nat) (v : Area) (s : State) : (aset e v s).patches = s.patches := rfl
@[simp] theorem aset_channels (e : Nat) (v : Area) (s : State) : (aset e v s).channels = s.channels := rfl
@[simp] theorem aset_deliveries (e : Nat) (v : Area) (s : State) : (aset e v s).deliveries = s.deliveries := rfl
@[simp] theorem aset_timers (e : Nat) (v : Area) (s : State) : (aset e v s).timers = s.timers := rfl
@[simp] theorem aset_markers (e : Nat) (v : Area) (s : State) : (aset e v s).markers = s.markers := rfl
@[simp] theorem aset_path0 (e : Nat) (v : Area) (s : State) : (aset e v s).path0 = s.path0 := rfl
@[simp] theorem aset_path1 (e : Nat) (v : Area) (s : State) : (aset e v s).path1 = s.path1 := rfl
@[simp] theorem aset_lastPath (e : Nat) (v : Area) (s : State) : (aset e v s).lastPath = s.lastPath := rfl
@[simp] theorem aset_nvm (e : Nat) (v : Area) (s : State) : (aset e v s).nvm = s.nvm := rfl
@[simp] theorem aset_boot (e : Nat) (v : Area) (s : State) : (aset e v s).boot = s.boot := rfl
@[simp] theorem aset_flog (e : Nat) (v : Area) (s : State) : (aset e v s).flog = s.flog := rfl
@[simp] theorem aset_scrubAt (e : Nat) (v : Area) (s : State) : (aset e v s).scrubAt = s.scrubAt := rfl
@[simp] theorem aset_dram (e : Nat) (v : Area) (s : State) : (aset e v s).dram = s.dram := rfl
@[simp] theorem aset_segs (e : Nat) (v : Area) (s : State) : (aset e v s).segs = s.segs := rfl
@[simp] theorem aset_segMem (e : Nat) (v : Area) (s : State) : (aset e v s).segMem = s.segMem := rfl
@[simp] theorem aset_segBad (e : Nat) (v : Area) (s : State) : (aset e v s).segBad = s.segBad := rfl
@[simp] theorem aset_refills (e : Nat) (v : Area) (s : State) : (aset e v s).refills = s.refills := rfl
@[simp] theorem aset_slices (e : Nat) (v : Area) (s : State) : (aset e v s).slices = s.slices := rfl
@[simp] theorem aset_frames (e : Nat) (v : Area) (s : State) : (aset e v s).frames = s.frames := rfl
@[simp] theorem aset_tapBad (e : Nat) (v : Area) (s : State) : (aset e v s).tapBad = s.tapBad := rfl
@[simp] theorem aset_fluxes (e : Nat) (v : Area) (s : State) : (aset e v s).fluxes = s.fluxes := rfl
@[simp] theorem aset_biases (e : Nat) (v : Area) (s : State) : (aset e v s).biases = s.biases := rfl
@[simp] theorem aset_biasAt (e : Nat) (v : Area) (s : State) : (aset e v s).biasAt = s.biasAt := rfl
@[simp] theorem aset_regions (e : Nat) (v : Area) (s : State) : (aset e v s).regions = s.regions := rfl
@[simp] theorem aset_bdQual (e : Nat) (v : Area) (s : State) : (aset e v s).bdQual = s.bdQual := rfl
@[simp] theorem aset_rfQualAt (e : Nat) (v : Area) (s : State) : (aset e v s).rfQualAt = s.rfQualAt := rfl
@[simp] theorem aset_reads (e : Nat) (v : Area) (s : State) : (aset e v s).reads = s.reads := rfl
@[simp] theorem aset_traces (e : Nat) (v : Area) (s : State) : (aset e v s).traces = s.traces := rfl
@[simp] theorem aset_acqs (e : Nat) (v : Area) (s : State) : (aset e v s).acqs = s.acqs := rfl
@[simp] theorem aset_krn (e : Nat) (v : Area) (s : State) : (aset e v s).krn = s.krn := rfl
@[simp] theorem aset_krnBad (e : Nat) (v : Area) (s : State) : (aset e v s).krnBad = s.krnBad := rfl
@[simp] theorem aset_tab (e : Nat) (v : Area) (s : State) : (aset e v s).tab = s.tab := rfl
@[simp] theorem aset_tabBad (e : Nat) (v : Area) (s : State) : (aset e v s).tabBad = s.tabBad := rfl
@[simp] theorem aset_crossings (e : Nat) (v : Area) (s : State) : (aset e v s).crossings = s.crossings := rfl
@[simp] theorem aset_sets (e : Nat) (v : Area) (s : State) : (aset e v s).sets = s.sets := rfl
@[simp] theorem aset_stream (e : Nat) (v : Area) (s : State) : (aset e v s).stream = s.stream := rfl
@[simp] theorem aset_incs (e : Nat) (v : Area) (s : State) : (aset e v s).incs = s.incs := rfl
@[simp] theorem aset_trig (e : Nat) (v : Area) (s : State) : (aset e v s).trig = s.trig := rfl
@[simp] theorem aset_board (e : Nat) (v : Area) (s : State) : (aset e v s).board = s.board := rfl
@[simp] theorem aset_bres (e : Nat) (v : Area) (s : State) : (aset e v s).bres = s.bres := rfl
@[simp] theorem aset_vre (e : Nat) (v : Area) (s : State) : (aset e v s).vre = s.vre := rfl
@[simp] theorem aset_clk (e : Nat) (v : Area) (s : State) : (aset e v s).clk = s.clk := rfl
@[simp] theorem aset_ptp (e : Nat) (v : Area) (s : State) : (aset e v s).ptp = s.ptp := rfl
@[simp] theorem aset_lanes (e : Nat) (v : Area) (s : State) : (aset e v s).lanes = s.lanes := rfl
@[simp] theorem aset_hl (e : Nat) (v : Area) (s : State) : (aset e v s).hl = s.hl := rfl
@[simp] theorem aset_vports (e : Nat) (v : Area) (s : State) : (aset e v s).vports = s.vports := rfl
@[simp] theorem aset_maus (e : Nat) (v : Area) (s : State) : (aset e v s).maus = s.maus := rfl
@[simp] theorem aset_therms (e : Nat) (v : Area) (s : State) : (aset e v s).therms = s.therms := rfl
@[simp] theorem aset_cool (e : Nat) (v : Area) (s : State) : (aset e v s).cool = s.cool := rfl
@[simp] theorem rd_aset (e : Nat) (v : Area) (s : State) (r : Reg) (j : Nat) : rd (aset e v s) r j = rd s r j := rfl
@[simp] theorem rn_aset (e : Nat) (v : Area) (s : State) (r : Reg) (j : Nat) : rn (aset e v s) r j = rn s r j := rfl

/-! ### chset -/

@[simp] theorem chset_pending (c : Nat) (v : Channel) (s : State) : (chset c v s).pending = s.pending := rfl
@[simp] theorem chset_elapsed (c : Nat) (v : Channel) (s : State) : (chset c v s).elapsed = s.elapsed := rfl
@[simp] theorem chset_free (c : Nat) (v : Channel) (s : State) : (chset c v s).free = s.free := rfl
@[simp] theorem chset_tml (c : Nat) (v : Channel) (s : State) : (chset c v s).tml = s.tml := rfl
@[simp] theorem chset_tmlOn (c : Nat) (v : Channel) (s : State) : (chset c v s).tmlOn = s.tmlOn := rfl
@[simp] theorem chset_regs (c : Nat) (v : Channel) (s : State) : (chset c v s).regs = s.regs := rfl
@[simp] theorem chset_queues (c : Nat) (v : Channel) (s : State) : (chset c v s).queues = s.queues := rfl
@[simp] theorem chset_poolLost (c : Nat) (v : Channel) (s : State) : (chset c v s).poolLost = s.poolLost := rfl
@[simp] theorem chset_fifos (c : Nat) (v : Channel) (s : State) : (chset c v s).fifos = s.fifos := rfl
@[simp] theorem chset_engs (c : Nat) (v : Channel) (s : State) : (chset c v s).engs = s.engs := rfl
@[simp] theorem chset_areas (c : Nat) (v : Channel) (s : State) : (chset c v s).areas = s.areas := rfl
@[simp] theorem chset_run (c : Nat) (v : Channel) (s : State) : (chset c v s).run = s.run := rfl
@[simp] theorem chset_image (c : Nat) (v : Channel) (s : State) : (chset c v s).image = s.image := rfl
@[simp] theorem chset_patches (c : Nat) (v : Channel) (s : State) : (chset c v s).patches = s.patches := rfl
@[simp] theorem chset_deliveries (c : Nat) (v : Channel) (s : State) : (chset c v s).deliveries = s.deliveries := rfl
@[simp] theorem chset_timers (c : Nat) (v : Channel) (s : State) : (chset c v s).timers = s.timers := rfl
@[simp] theorem chset_markers (c : Nat) (v : Channel) (s : State) : (chset c v s).markers = s.markers := rfl
@[simp] theorem chset_path0 (c : Nat) (v : Channel) (s : State) : (chset c v s).path0 = s.path0 := rfl
@[simp] theorem chset_path1 (c : Nat) (v : Channel) (s : State) : (chset c v s).path1 = s.path1 := rfl
@[simp] theorem chset_lastPath (c : Nat) (v : Channel) (s : State) : (chset c v s).lastPath = s.lastPath := rfl
@[simp] theorem chset_nvm (c : Nat) (v : Channel) (s : State) : (chset c v s).nvm = s.nvm := rfl
@[simp] theorem chset_boot (c : Nat) (v : Channel) (s : State) : (chset c v s).boot = s.boot := rfl
@[simp] theorem chset_flog (c : Nat) (v : Channel) (s : State) : (chset c v s).flog = s.flog := rfl
@[simp] theorem chset_scrubAt (c : Nat) (v : Channel) (s : State) : (chset c v s).scrubAt = s.scrubAt := rfl
@[simp] theorem chset_dram (c : Nat) (v : Channel) (s : State) : (chset c v s).dram = s.dram := rfl
@[simp] theorem chset_segs (c : Nat) (v : Channel) (s : State) : (chset c v s).segs = s.segs := rfl
@[simp] theorem chset_segMem (c : Nat) (v : Channel) (s : State) : (chset c v s).segMem = s.segMem := rfl
@[simp] theorem chset_segBad (c : Nat) (v : Channel) (s : State) : (chset c v s).segBad = s.segBad := rfl
@[simp] theorem chset_refills (c : Nat) (v : Channel) (s : State) : (chset c v s).refills = s.refills := rfl
@[simp] theorem chset_slices (c : Nat) (v : Channel) (s : State) : (chset c v s).slices = s.slices := rfl
@[simp] theorem chset_frames (c : Nat) (v : Channel) (s : State) : (chset c v s).frames = s.frames := rfl
@[simp] theorem chset_tapBad (c : Nat) (v : Channel) (s : State) : (chset c v s).tapBad = s.tapBad := rfl
@[simp] theorem chset_fluxes (c : Nat) (v : Channel) (s : State) : (chset c v s).fluxes = s.fluxes := rfl
@[simp] theorem chset_biases (c : Nat) (v : Channel) (s : State) : (chset c v s).biases = s.biases := rfl
@[simp] theorem chset_biasAt (c : Nat) (v : Channel) (s : State) : (chset c v s).biasAt = s.biasAt := rfl
@[simp] theorem chset_regions (c : Nat) (v : Channel) (s : State) : (chset c v s).regions = s.regions := rfl
@[simp] theorem chset_bdQual (c : Nat) (v : Channel) (s : State) : (chset c v s).bdQual = s.bdQual := rfl
@[simp] theorem chset_rfQualAt (c : Nat) (v : Channel) (s : State) : (chset c v s).rfQualAt = s.rfQualAt := rfl
@[simp] theorem chset_reads (c : Nat) (v : Channel) (s : State) : (chset c v s).reads = s.reads := rfl
@[simp] theorem chset_traces (c : Nat) (v : Channel) (s : State) : (chset c v s).traces = s.traces := rfl
@[simp] theorem chset_acqs (c : Nat) (v : Channel) (s : State) : (chset c v s).acqs = s.acqs := rfl
@[simp] theorem chset_krn (c : Nat) (v : Channel) (s : State) : (chset c v s).krn = s.krn := rfl
@[simp] theorem chset_krnBad (c : Nat) (v : Channel) (s : State) : (chset c v s).krnBad = s.krnBad := rfl
@[simp] theorem chset_tab (c : Nat) (v : Channel) (s : State) : (chset c v s).tab = s.tab := rfl
@[simp] theorem chset_tabBad (c : Nat) (v : Channel) (s : State) : (chset c v s).tabBad = s.tabBad := rfl
@[simp] theorem chset_crossings (c : Nat) (v : Channel) (s : State) : (chset c v s).crossings = s.crossings := rfl
@[simp] theorem chset_sets (c : Nat) (v : Channel) (s : State) : (chset c v s).sets = s.sets := rfl
@[simp] theorem chset_stream (c : Nat) (v : Channel) (s : State) : (chset c v s).stream = s.stream := rfl
@[simp] theorem chset_incs (c : Nat) (v : Channel) (s : State) : (chset c v s).incs = s.incs := rfl
@[simp] theorem chset_trig (c : Nat) (v : Channel) (s : State) : (chset c v s).trig = s.trig := rfl
@[simp] theorem chset_board (c : Nat) (v : Channel) (s : State) : (chset c v s).board = s.board := rfl
@[simp] theorem chset_bres (c : Nat) (v : Channel) (s : State) : (chset c v s).bres = s.bres := rfl
@[simp] theorem chset_vre (c : Nat) (v : Channel) (s : State) : (chset c v s).vre = s.vre := rfl
@[simp] theorem chset_clk (c : Nat) (v : Channel) (s : State) : (chset c v s).clk = s.clk := rfl
@[simp] theorem chset_ptp (c : Nat) (v : Channel) (s : State) : (chset c v s).ptp = s.ptp := rfl
@[simp] theorem chset_lanes (c : Nat) (v : Channel) (s : State) : (chset c v s).lanes = s.lanes := rfl
@[simp] theorem chset_hl (c : Nat) (v : Channel) (s : State) : (chset c v s).hl = s.hl := rfl
@[simp] theorem chset_vports (c : Nat) (v : Channel) (s : State) : (chset c v s).vports = s.vports := rfl
@[simp] theorem chset_maus (c : Nat) (v : Channel) (s : State) : (chset c v s).maus = s.maus := rfl
@[simp] theorem chset_therms (c : Nat) (v : Channel) (s : State) : (chset c v s).therms = s.therms := rfl
@[simp] theorem chset_cool (c : Nat) (v : Channel) (s : State) : (chset c v s).cool = s.cool := rfl
@[simp] theorem rd_chset (c : Nat) (v : Channel) (s : State) (r : Reg) (j : Nat) : rd (chset c v s) r j = rd s r j := rfl
@[simp] theorem rn_chset (c : Nat) (v : Channel) (s : State) (r : Reg) (j : Nat) : rn (chset c v s) r j = rn s r j := rfl

/-! ### tset -/

@[simp] theorem tset_pending (n : Nat) (v : Timer) (s : State) : (tset n v s).pending = s.pending := rfl
@[simp] theorem tset_elapsed (n : Nat) (v : Timer) (s : State) : (tset n v s).elapsed = s.elapsed := rfl
@[simp] theorem tset_free (n : Nat) (v : Timer) (s : State) : (tset n v s).free = s.free := rfl
@[simp] theorem tset_tml (n : Nat) (v : Timer) (s : State) : (tset n v s).tml = s.tml := rfl
@[simp] theorem tset_tmlOn (n : Nat) (v : Timer) (s : State) : (tset n v s).tmlOn = s.tmlOn := rfl
@[simp] theorem tset_regs (n : Nat) (v : Timer) (s : State) : (tset n v s).regs = s.regs := rfl
@[simp] theorem tset_queues (n : Nat) (v : Timer) (s : State) : (tset n v s).queues = s.queues := rfl
@[simp] theorem tset_poolLost (n : Nat) (v : Timer) (s : State) : (tset n v s).poolLost = s.poolLost := rfl
@[simp] theorem tset_fifos (n : Nat) (v : Timer) (s : State) : (tset n v s).fifos = s.fifos := rfl
@[simp] theorem tset_engs (n : Nat) (v : Timer) (s : State) : (tset n v s).engs = s.engs := rfl
@[simp] theorem tset_areas (n : Nat) (v : Timer) (s : State) : (tset n v s).areas = s.areas := rfl
@[simp] theorem tset_run (n : Nat) (v : Timer) (s : State) : (tset n v s).run = s.run := rfl
@[simp] theorem tset_image (n : Nat) (v : Timer) (s : State) : (tset n v s).image = s.image := rfl
@[simp] theorem tset_patches (n : Nat) (v : Timer) (s : State) : (tset n v s).patches = s.patches := rfl
@[simp] theorem tset_channels (n : Nat) (v : Timer) (s : State) : (tset n v s).channels = s.channels := rfl
@[simp] theorem tset_deliveries (n : Nat) (v : Timer) (s : State) : (tset n v s).deliveries = s.deliveries := rfl
@[simp] theorem tset_markers (n : Nat) (v : Timer) (s : State) : (tset n v s).markers = s.markers := rfl
@[simp] theorem tset_path0 (n : Nat) (v : Timer) (s : State) : (tset n v s).path0 = s.path0 := rfl
@[simp] theorem tset_path1 (n : Nat) (v : Timer) (s : State) : (tset n v s).path1 = s.path1 := rfl
@[simp] theorem tset_lastPath (n : Nat) (v : Timer) (s : State) : (tset n v s).lastPath = s.lastPath := rfl
@[simp] theorem tset_nvm (n : Nat) (v : Timer) (s : State) : (tset n v s).nvm = s.nvm := rfl
@[simp] theorem tset_boot (n : Nat) (v : Timer) (s : State) : (tset n v s).boot = s.boot := rfl
@[simp] theorem tset_flog (n : Nat) (v : Timer) (s : State) : (tset n v s).flog = s.flog := rfl
@[simp] theorem tset_scrubAt (n : Nat) (v : Timer) (s : State) : (tset n v s).scrubAt = s.scrubAt := rfl
@[simp] theorem tset_dram (n : Nat) (v : Timer) (s : State) : (tset n v s).dram = s.dram := rfl
@[simp] theorem tset_segs (n : Nat) (v : Timer) (s : State) : (tset n v s).segs = s.segs := rfl
@[simp] theorem tset_segMem (n : Nat) (v : Timer) (s : State) : (tset n v s).segMem = s.segMem := rfl
@[simp] theorem tset_segBad (n : Nat) (v : Timer) (s : State) : (tset n v s).segBad = s.segBad := rfl
@[simp] theorem tset_refills (n : Nat) (v : Timer) (s : State) : (tset n v s).refills = s.refills := rfl
@[simp] theorem tset_slices (n : Nat) (v : Timer) (s : State) : (tset n v s).slices = s.slices := rfl
@[simp] theorem tset_frames (n : Nat) (v : Timer) (s : State) : (tset n v s).frames = s.frames := rfl
@[simp] theorem tset_tapBad (n : Nat) (v : Timer) (s : State) : (tset n v s).tapBad = s.tapBad := rfl
@[simp] theorem tset_fluxes (n : Nat) (v : Timer) (s : State) : (tset n v s).fluxes = s.fluxes := rfl
@[simp] theorem tset_biases (n : Nat) (v : Timer) (s : State) : (tset n v s).biases = s.biases := rfl
@[simp] theorem tset_biasAt (n : Nat) (v : Timer) (s : State) : (tset n v s).biasAt = s.biasAt := rfl
@[simp] theorem tset_regions (n : Nat) (v : Timer) (s : State) : (tset n v s).regions = s.regions := rfl
@[simp] theorem tset_bdQual (n : Nat) (v : Timer) (s : State) : (tset n v s).bdQual = s.bdQual := rfl
@[simp] theorem tset_rfQualAt (n : Nat) (v : Timer) (s : State) : (tset n v s).rfQualAt = s.rfQualAt := rfl
@[simp] theorem tset_reads (n : Nat) (v : Timer) (s : State) : (tset n v s).reads = s.reads := rfl
@[simp] theorem tset_traces (n : Nat) (v : Timer) (s : State) : (tset n v s).traces = s.traces := rfl
@[simp] theorem tset_acqs (n : Nat) (v : Timer) (s : State) : (tset n v s).acqs = s.acqs := rfl
@[simp] theorem tset_krn (n : Nat) (v : Timer) (s : State) : (tset n v s).krn = s.krn := rfl
@[simp] theorem tset_krnBad (n : Nat) (v : Timer) (s : State) : (tset n v s).krnBad = s.krnBad := rfl
@[simp] theorem tset_tab (n : Nat) (v : Timer) (s : State) : (tset n v s).tab = s.tab := rfl
@[simp] theorem tset_tabBad (n : Nat) (v : Timer) (s : State) : (tset n v s).tabBad = s.tabBad := rfl
@[simp] theorem tset_crossings (n : Nat) (v : Timer) (s : State) : (tset n v s).crossings = s.crossings := rfl
@[simp] theorem tset_sets (n : Nat) (v : Timer) (s : State) : (tset n v s).sets = s.sets := rfl
@[simp] theorem tset_stream (n : Nat) (v : Timer) (s : State) : (tset n v s).stream = s.stream := rfl
@[simp] theorem tset_incs (n : Nat) (v : Timer) (s : State) : (tset n v s).incs = s.incs := rfl
@[simp] theorem tset_trig (n : Nat) (v : Timer) (s : State) : (tset n v s).trig = s.trig := rfl
@[simp] theorem tset_board (n : Nat) (v : Timer) (s : State) : (tset n v s).board = s.board := rfl
@[simp] theorem tset_bres (n : Nat) (v : Timer) (s : State) : (tset n v s).bres = s.bres := rfl
@[simp] theorem tset_vre (n : Nat) (v : Timer) (s : State) : (tset n v s).vre = s.vre := rfl
@[simp] theorem tset_clk (n : Nat) (v : Timer) (s : State) : (tset n v s).clk = s.clk := rfl
@[simp] theorem tset_ptp (n : Nat) (v : Timer) (s : State) : (tset n v s).ptp = s.ptp := rfl
@[simp] theorem tset_lanes (n : Nat) (v : Timer) (s : State) : (tset n v s).lanes = s.lanes := rfl
@[simp] theorem tset_hl (n : Nat) (v : Timer) (s : State) : (tset n v s).hl = s.hl := rfl
@[simp] theorem tset_vports (n : Nat) (v : Timer) (s : State) : (tset n v s).vports = s.vports := rfl
@[simp] theorem tset_maus (n : Nat) (v : Timer) (s : State) : (tset n v s).maus = s.maus := rfl
@[simp] theorem tset_therms (n : Nat) (v : Timer) (s : State) : (tset n v s).therms = s.therms := rfl
@[simp] theorem tset_cool (n : Nat) (v : Timer) (s : State) : (tset n v s).cool = s.cool := rfl
@[simp] theorem rd_tset (n : Nat) (v : Timer) (s : State) (r : Reg) (j : Nat) : rd (tset n v s) r j = rd s r j := rfl
@[simp] theorem rn_tset (n : Nat) (v : Timer) (s : State) (r : Reg) (j : Nat) : rn (tset n v s) r j = rn s r j := rfl

/-! ### mkset -/

@[simp] theorem mkset_pending (c : Nat) (v : Marker) (s : State) : (mkset c v s).pending = s.pending := rfl
@[simp] theorem mkset_elapsed (c : Nat) (v : Marker) (s : State) : (mkset c v s).elapsed = s.elapsed := rfl
@[simp] theorem mkset_free (c : Nat) (v : Marker) (s : State) : (mkset c v s).free = s.free := rfl
@[simp] theorem mkset_tml (c : Nat) (v : Marker) (s : State) : (mkset c v s).tml = s.tml := rfl
@[simp] theorem mkset_tmlOn (c : Nat) (v : Marker) (s : State) : (mkset c v s).tmlOn = s.tmlOn := rfl
@[simp] theorem mkset_regs (c : Nat) (v : Marker) (s : State) : (mkset c v s).regs = s.regs := rfl
@[simp] theorem mkset_queues (c : Nat) (v : Marker) (s : State) : (mkset c v s).queues = s.queues := rfl
@[simp] theorem mkset_poolLost (c : Nat) (v : Marker) (s : State) : (mkset c v s).poolLost = s.poolLost := rfl
@[simp] theorem mkset_fifos (c : Nat) (v : Marker) (s : State) : (mkset c v s).fifos = s.fifos := rfl
@[simp] theorem mkset_engs (c : Nat) (v : Marker) (s : State) : (mkset c v s).engs = s.engs := rfl
@[simp] theorem mkset_areas (c : Nat) (v : Marker) (s : State) : (mkset c v s).areas = s.areas := rfl
@[simp] theorem mkset_run (c : Nat) (v : Marker) (s : State) : (mkset c v s).run = s.run := rfl
@[simp] theorem mkset_image (c : Nat) (v : Marker) (s : State) : (mkset c v s).image = s.image := rfl
@[simp] theorem mkset_patches (c : Nat) (v : Marker) (s : State) : (mkset c v s).patches = s.patches := rfl
@[simp] theorem mkset_channels (c : Nat) (v : Marker) (s : State) : (mkset c v s).channels = s.channels := rfl
@[simp] theorem mkset_deliveries (c : Nat) (v : Marker) (s : State) : (mkset c v s).deliveries = s.deliveries := rfl
@[simp] theorem mkset_timers (c : Nat) (v : Marker) (s : State) : (mkset c v s).timers = s.timers := rfl
@[simp] theorem mkset_path0 (c : Nat) (v : Marker) (s : State) : (mkset c v s).path0 = s.path0 := rfl
@[simp] theorem mkset_path1 (c : Nat) (v : Marker) (s : State) : (mkset c v s).path1 = s.path1 := rfl
@[simp] theorem mkset_lastPath (c : Nat) (v : Marker) (s : State) : (mkset c v s).lastPath = s.lastPath := rfl
@[simp] theorem mkset_nvm (c : Nat) (v : Marker) (s : State) : (mkset c v s).nvm = s.nvm := rfl
@[simp] theorem mkset_boot (c : Nat) (v : Marker) (s : State) : (mkset c v s).boot = s.boot := rfl
@[simp] theorem mkset_flog (c : Nat) (v : Marker) (s : State) : (mkset c v s).flog = s.flog := rfl
@[simp] theorem mkset_scrubAt (c : Nat) (v : Marker) (s : State) : (mkset c v s).scrubAt = s.scrubAt := rfl
@[simp] theorem mkset_dram (c : Nat) (v : Marker) (s : State) : (mkset c v s).dram = s.dram := rfl
@[simp] theorem mkset_segs (c : Nat) (v : Marker) (s : State) : (mkset c v s).segs = s.segs := rfl
@[simp] theorem mkset_segMem (c : Nat) (v : Marker) (s : State) : (mkset c v s).segMem = s.segMem := rfl
@[simp] theorem mkset_segBad (c : Nat) (v : Marker) (s : State) : (mkset c v s).segBad = s.segBad := rfl
@[simp] theorem mkset_refills (c : Nat) (v : Marker) (s : State) : (mkset c v s).refills = s.refills := rfl
@[simp] theorem mkset_slices (c : Nat) (v : Marker) (s : State) : (mkset c v s).slices = s.slices := rfl
@[simp] theorem mkset_frames (c : Nat) (v : Marker) (s : State) : (mkset c v s).frames = s.frames := rfl
@[simp] theorem mkset_tapBad (c : Nat) (v : Marker) (s : State) : (mkset c v s).tapBad = s.tapBad := rfl
@[simp] theorem mkset_fluxes (c : Nat) (v : Marker) (s : State) : (mkset c v s).fluxes = s.fluxes := rfl
@[simp] theorem mkset_biases (c : Nat) (v : Marker) (s : State) : (mkset c v s).biases = s.biases := rfl
@[simp] theorem mkset_biasAt (c : Nat) (v : Marker) (s : State) : (mkset c v s).biasAt = s.biasAt := rfl
@[simp] theorem mkset_regions (c : Nat) (v : Marker) (s : State) : (mkset c v s).regions = s.regions := rfl
@[simp] theorem mkset_bdQual (c : Nat) (v : Marker) (s : State) : (mkset c v s).bdQual = s.bdQual := rfl
@[simp] theorem mkset_rfQualAt (c : Nat) (v : Marker) (s : State) : (mkset c v s).rfQualAt = s.rfQualAt := rfl
@[simp] theorem mkset_reads (c : Nat) (v : Marker) (s : State) : (mkset c v s).reads = s.reads := rfl
@[simp] theorem mkset_traces (c : Nat) (v : Marker) (s : State) : (mkset c v s).traces = s.traces := rfl
@[simp] theorem mkset_acqs (c : Nat) (v : Marker) (s : State) : (mkset c v s).acqs = s.acqs := rfl
@[simp] theorem mkset_krn (c : Nat) (v : Marker) (s : State) : (mkset c v s).krn = s.krn := rfl
@[simp] theorem mkset_krnBad (c : Nat) (v : Marker) (s : State) : (mkset c v s).krnBad = s.krnBad := rfl
@[simp] theorem mkset_tab (c : Nat) (v : Marker) (s : State) : (mkset c v s).tab = s.tab := rfl
@[simp] theorem mkset_tabBad (c : Nat) (v : Marker) (s : State) : (mkset c v s).tabBad = s.tabBad := rfl
@[simp] theorem mkset_crossings (c : Nat) (v : Marker) (s : State) : (mkset c v s).crossings = s.crossings := rfl
@[simp] theorem mkset_sets (c : Nat) (v : Marker) (s : State) : (mkset c v s).sets = s.sets := rfl
@[simp] theorem mkset_stream (c : Nat) (v : Marker) (s : State) : (mkset c v s).stream = s.stream := rfl
@[simp] theorem mkset_incs (c : Nat) (v : Marker) (s : State) : (mkset c v s).incs = s.incs := rfl
@[simp] theorem mkset_trig (c : Nat) (v : Marker) (s : State) : (mkset c v s).trig = s.trig := rfl
@[simp] theorem mkset_board (c : Nat) (v : Marker) (s : State) : (mkset c v s).board = s.board := rfl
@[simp] theorem mkset_bres (c : Nat) (v : Marker) (s : State) : (mkset c v s).bres = s.bres := rfl
@[simp] theorem mkset_vre (c : Nat) (v : Marker) (s : State) : (mkset c v s).vre = s.vre := rfl
@[simp] theorem mkset_clk (c : Nat) (v : Marker) (s : State) : (mkset c v s).clk = s.clk := rfl
@[simp] theorem mkset_ptp (c : Nat) (v : Marker) (s : State) : (mkset c v s).ptp = s.ptp := rfl
@[simp] theorem mkset_lanes (c : Nat) (v : Marker) (s : State) : (mkset c v s).lanes = s.lanes := rfl
@[simp] theorem mkset_hl (c : Nat) (v : Marker) (s : State) : (mkset c v s).hl = s.hl := rfl
@[simp] theorem mkset_vports (c : Nat) (v : Marker) (s : State) : (mkset c v s).vports = s.vports := rfl
@[simp] theorem mkset_maus (c : Nat) (v : Marker) (s : State) : (mkset c v s).maus = s.maus := rfl
@[simp] theorem mkset_therms (c : Nat) (v : Marker) (s : State) : (mkset c v s).therms = s.therms := rfl
@[simp] theorem mkset_cool (c : Nat) (v : Marker) (s : State) : (mkset c v s).cool = s.cool := rfl
@[simp] theorem rd_mkset (c : Nat) (v : Marker) (s : State) (r : Reg) (j : Nat) : rd (mkset c v s) r j = rd s r j := rfl
@[simp] theorem rn_mkset (c : Nat) (v : Marker) (s : State) (r : Reg) (j : Nat) : rn (mkset c v s) r j = rn s r j := rfl

/-! ### sset -/

@[simp] theorem sset_pending (c k : Nat) (v : Seg) (s : State) : (sset c k v s).pending = s.pending := rfl
@[simp] theorem sset_elapsed (c k : Nat) (v : Seg) (s : State) : (sset c k v s).elapsed = s.elapsed := rfl
@[simp] theorem sset_free (c k : Nat) (v : Seg) (s : State) : (sset c k v s).free = s.free := rfl
@[simp] theorem sset_tml (c k : Nat) (v : Seg) (s : State) : (sset c k v s).tml = s.tml := rfl
@[simp] theorem sset_tmlOn (c k : Nat) (v : Seg) (s : State) : (sset c k v s).tmlOn = s.tmlOn := rfl
@[simp] theorem sset_regs (c k : Nat) (v : Seg) (s : State) : (sset c k v s).regs = s.regs := rfl
@[simp] theorem sset_queues (c k : Nat) (v : Seg) (s : State) : (sset c k v s).queues = s.queues := rfl
@[simp] theorem sset_poolLost (c k : Nat) (v : Seg) (s : State) : (sset c k v s).poolLost = s.poolLost := rfl
@[simp] theorem sset_fifos (c k : Nat) (v : Seg) (s : State) : (sset c k v s).fifos = s.fifos := rfl
@[simp] theorem sset_engs (c k : Nat) (v : Seg) (s : State) : (sset c k v s).engs = s.engs := rfl
@[simp] theorem sset_areas (c k : Nat) (v : Seg) (s : State) : (sset c k v s).areas = s.areas := rfl
@[simp] theorem sset_run (c k : Nat) (v : Seg) (s : State) : (sset c k v s).run = s.run := rfl
@[simp] theorem sset_image (c k : Nat) (v : Seg) (s : State) : (sset c k v s).image = s.image := rfl
@[simp] theorem sset_patches (c k : Nat) (v : Seg) (s : State) : (sset c k v s).patches = s.patches := rfl
@[simp] theorem sset_channels (c k : Nat) (v : Seg) (s : State) : (sset c k v s).channels = s.channels := rfl
@[simp] theorem sset_deliveries (c k : Nat) (v : Seg) (s : State) : (sset c k v s).deliveries = s.deliveries := rfl
@[simp] theorem sset_timers (c k : Nat) (v : Seg) (s : State) : (sset c k v s).timers = s.timers := rfl
@[simp] theorem sset_markers (c k : Nat) (v : Seg) (s : State) : (sset c k v s).markers = s.markers := rfl
@[simp] theorem sset_path0 (c k : Nat) (v : Seg) (s : State) : (sset c k v s).path0 = s.path0 := rfl
@[simp] theorem sset_path1 (c k : Nat) (v : Seg) (s : State) : (sset c k v s).path1 = s.path1 := rfl
@[simp] theorem sset_lastPath (c k : Nat) (v : Seg) (s : State) : (sset c k v s).lastPath = s.lastPath := rfl
@[simp] theorem sset_nvm (c k : Nat) (v : Seg) (s : State) : (sset c k v s).nvm = s.nvm := rfl
@[simp] theorem sset_boot (c k : Nat) (v : Seg) (s : State) : (sset c k v s).boot = s.boot := rfl
@[simp] theorem sset_flog (c k : Nat) (v : Seg) (s : State) : (sset c k v s).flog = s.flog := rfl
@[simp] theorem sset_scrubAt (c k : Nat) (v : Seg) (s : State) : (sset c k v s).scrubAt = s.scrubAt := rfl
@[simp] theorem sset_dram (c k : Nat) (v : Seg) (s : State) : (sset c k v s).dram = s.dram := rfl
@[simp] theorem sset_segMem (c k : Nat) (v : Seg) (s : State) : (sset c k v s).segMem = s.segMem := rfl
@[simp] theorem sset_segBad (c k : Nat) (v : Seg) (s : State) : (sset c k v s).segBad = s.segBad := rfl
@[simp] theorem sset_refills (c k : Nat) (v : Seg) (s : State) : (sset c k v s).refills = s.refills := rfl
@[simp] theorem sset_slices (c k : Nat) (v : Seg) (s : State) : (sset c k v s).slices = s.slices := rfl
@[simp] theorem sset_frames (c k : Nat) (v : Seg) (s : State) : (sset c k v s).frames = s.frames := rfl
@[simp] theorem sset_tapBad (c k : Nat) (v : Seg) (s : State) : (sset c k v s).tapBad = s.tapBad := rfl
@[simp] theorem sset_fluxes (c k : Nat) (v : Seg) (s : State) : (sset c k v s).fluxes = s.fluxes := rfl
@[simp] theorem sset_biases (c k : Nat) (v : Seg) (s : State) : (sset c k v s).biases = s.biases := rfl
@[simp] theorem sset_biasAt (c k : Nat) (v : Seg) (s : State) : (sset c k v s).biasAt = s.biasAt := rfl
@[simp] theorem sset_regions (c k : Nat) (v : Seg) (s : State) : (sset c k v s).regions = s.regions := rfl
@[simp] theorem sset_bdQual (c k : Nat) (v : Seg) (s : State) : (sset c k v s).bdQual = s.bdQual := rfl
@[simp] theorem sset_rfQualAt (c k : Nat) (v : Seg) (s : State) : (sset c k v s).rfQualAt = s.rfQualAt := rfl
@[simp] theorem sset_reads (c k : Nat) (v : Seg) (s : State) : (sset c k v s).reads = s.reads := rfl
@[simp] theorem sset_traces (c k : Nat) (v : Seg) (s : State) : (sset c k v s).traces = s.traces := rfl
@[simp] theorem sset_acqs (c k : Nat) (v : Seg) (s : State) : (sset c k v s).acqs = s.acqs := rfl
@[simp] theorem sset_krn (c k : Nat) (v : Seg) (s : State) : (sset c k v s).krn = s.krn := rfl
@[simp] theorem sset_krnBad (c k : Nat) (v : Seg) (s : State) : (sset c k v s).krnBad = s.krnBad := rfl
@[simp] theorem sset_tab (c k : Nat) (v : Seg) (s : State) : (sset c k v s).tab = s.tab := rfl
@[simp] theorem sset_tabBad (c k : Nat) (v : Seg) (s : State) : (sset c k v s).tabBad = s.tabBad := rfl
@[simp] theorem sset_crossings (c k : Nat) (v : Seg) (s : State) : (sset c k v s).crossings = s.crossings := rfl
@[simp] theorem sset_sets (c k : Nat) (v : Seg) (s : State) : (sset c k v s).sets = s.sets := rfl
@[simp] theorem sset_stream (c k : Nat) (v : Seg) (s : State) : (sset c k v s).stream = s.stream := rfl
@[simp] theorem sset_incs (c k : Nat) (v : Seg) (s : State) : (sset c k v s).incs = s.incs := rfl
@[simp] theorem sset_trig (c k : Nat) (v : Seg) (s : State) : (sset c k v s).trig = s.trig := rfl
@[simp] theorem sset_board (c k : Nat) (v : Seg) (s : State) : (sset c k v s).board = s.board := rfl
@[simp] theorem sset_bres (c k : Nat) (v : Seg) (s : State) : (sset c k v s).bres = s.bres := rfl
@[simp] theorem sset_vre (c k : Nat) (v : Seg) (s : State) : (sset c k v s).vre = s.vre := rfl
@[simp] theorem sset_clk (c k : Nat) (v : Seg) (s : State) : (sset c k v s).clk = s.clk := rfl
@[simp] theorem sset_ptp (c k : Nat) (v : Seg) (s : State) : (sset c k v s).ptp = s.ptp := rfl
@[simp] theorem sset_lanes (c k : Nat) (v : Seg) (s : State) : (sset c k v s).lanes = s.lanes := rfl
@[simp] theorem sset_hl (c k : Nat) (v : Seg) (s : State) : (sset c k v s).hl = s.hl := rfl
@[simp] theorem sset_vports (c k : Nat) (v : Seg) (s : State) : (sset c k v s).vports = s.vports := rfl
@[simp] theorem sset_maus (c k : Nat) (v : Seg) (s : State) : (sset c k v s).maus = s.maus := rfl
@[simp] theorem sset_therms (c k : Nat) (v : Seg) (s : State) : (sset c k v s).therms = s.therms := rfl
@[simp] theorem sset_cool (c k : Nat) (v : Seg) (s : State) : (sset c k v s).cool = s.cool := rfl
@[simp] theorem rd_sset (c k : Nat) (v : Seg) (s : State) (r : Reg) (j : Nat) : rd (sset c k v s) r j = rd s r j := rfl
@[simp] theorem rn_sset (c k : Nat) (v : Seg) (s : State) (r : Reg) (j : Nat) : rn (sset c k v s) r j = rn s r j := rfl

/-! ### slset -/

@[simp] theorem slset_pending (f : Nat) (v : Slice) (s : State) : (slset f v s).pending = s.pending := rfl
@[simp] theorem slset_elapsed (f : Nat) (v : Slice) (s : State) : (slset f v s).elapsed = s.elapsed := rfl
@[simp] theorem slset_free (f : Nat) (v : Slice) (s : State) : (slset f v s).free = s.free := rfl
@[simp] theorem slset_tml (f : Nat) (v : Slice) (s : State) : (slset f v s).tml = s.tml := rfl
@[simp] theorem slset_tmlOn (f : Nat) (v : Slice) (s : State) : (slset f v s).tmlOn = s.tmlOn := rfl
@[simp] theorem slset_regs (f : Nat) (v : Slice) (s : State) : (slset f v s).regs = s.regs := rfl
@[simp] theorem slset_queues (f : Nat) (v : Slice) (s : State) : (slset f v s).queues = s.queues := rfl
@[simp] theorem slset_poolLost (f : Nat) (v : Slice) (s : State) : (slset f v s).poolLost = s.poolLost := rfl
@[simp] theorem slset_fifos (f : Nat) (v : Slice) (s : State) : (slset f v s).fifos = s.fifos := rfl
@[simp] theorem slset_engs (f : Nat) (v : Slice) (s : State) : (slset f v s).engs = s.engs := rfl
@[simp] theorem slset_areas (f : Nat) (v : Slice) (s : State) : (slset f v s).areas = s.areas := rfl
@[simp] theorem slset_run (f : Nat) (v : Slice) (s : State) : (slset f v s).run = s.run := rfl
@[simp] theorem slset_image (f : Nat) (v : Slice) (s : State) : (slset f v s).image = s.image := rfl
@[simp] theorem slset_patches (f : Nat) (v : Slice) (s : State) : (slset f v s).patches = s.patches := rfl
@[simp] theorem slset_channels (f : Nat) (v : Slice) (s : State) : (slset f v s).channels = s.channels := rfl
@[simp] theorem slset_deliveries (f : Nat) (v : Slice) (s : State) : (slset f v s).deliveries = s.deliveries := rfl
@[simp] theorem slset_timers (f : Nat) (v : Slice) (s : State) : (slset f v s).timers = s.timers := rfl
@[simp] theorem slset_markers (f : Nat) (v : Slice) (s : State) : (slset f v s).markers = s.markers := rfl
@[simp] theorem slset_path0 (f : Nat) (v : Slice) (s : State) : (slset f v s).path0 = s.path0 := rfl
@[simp] theorem slset_path1 (f : Nat) (v : Slice) (s : State) : (slset f v s).path1 = s.path1 := rfl
@[simp] theorem slset_lastPath (f : Nat) (v : Slice) (s : State) : (slset f v s).lastPath = s.lastPath := rfl
@[simp] theorem slset_nvm (f : Nat) (v : Slice) (s : State) : (slset f v s).nvm = s.nvm := rfl
@[simp] theorem slset_boot (f : Nat) (v : Slice) (s : State) : (slset f v s).boot = s.boot := rfl
@[simp] theorem slset_flog (f : Nat) (v : Slice) (s : State) : (slset f v s).flog = s.flog := rfl
@[simp] theorem slset_scrubAt (f : Nat) (v : Slice) (s : State) : (slset f v s).scrubAt = s.scrubAt := rfl
@[simp] theorem slset_dram (f : Nat) (v : Slice) (s : State) : (slset f v s).dram = s.dram := rfl
@[simp] theorem slset_segs (f : Nat) (v : Slice) (s : State) : (slset f v s).segs = s.segs := rfl
@[simp] theorem slset_segMem (f : Nat) (v : Slice) (s : State) : (slset f v s).segMem = s.segMem := rfl
@[simp] theorem slset_segBad (f : Nat) (v : Slice) (s : State) : (slset f v s).segBad = s.segBad := rfl
@[simp] theorem slset_refills (f : Nat) (v : Slice) (s : State) : (slset f v s).refills = s.refills := rfl
@[simp] theorem slset_frames (f : Nat) (v : Slice) (s : State) : (slset f v s).frames = s.frames := rfl
@[simp] theorem slset_tapBad (f : Nat) (v : Slice) (s : State) : (slset f v s).tapBad = s.tapBad := rfl
@[simp] theorem slset_fluxes (f : Nat) (v : Slice) (s : State) : (slset f v s).fluxes = s.fluxes := rfl
@[simp] theorem slset_biases (f : Nat) (v : Slice) (s : State) : (slset f v s).biases = s.biases := rfl
@[simp] theorem slset_biasAt (f : Nat) (v : Slice) (s : State) : (slset f v s).biasAt = s.biasAt := rfl
@[simp] theorem slset_regions (f : Nat) (v : Slice) (s : State) : (slset f v s).regions = s.regions := rfl
@[simp] theorem slset_bdQual (f : Nat) (v : Slice) (s : State) : (slset f v s).bdQual = s.bdQual := rfl
@[simp] theorem slset_rfQualAt (f : Nat) (v : Slice) (s : State) : (slset f v s).rfQualAt = s.rfQualAt := rfl
@[simp] theorem slset_reads (f : Nat) (v : Slice) (s : State) : (slset f v s).reads = s.reads := rfl
@[simp] theorem slset_traces (f : Nat) (v : Slice) (s : State) : (slset f v s).traces = s.traces := rfl
@[simp] theorem slset_acqs (f : Nat) (v : Slice) (s : State) : (slset f v s).acqs = s.acqs := rfl
@[simp] theorem slset_krn (f : Nat) (v : Slice) (s : State) : (slset f v s).krn = s.krn := rfl
@[simp] theorem slset_krnBad (f : Nat) (v : Slice) (s : State) : (slset f v s).krnBad = s.krnBad := rfl
@[simp] theorem slset_tab (f : Nat) (v : Slice) (s : State) : (slset f v s).tab = s.tab := rfl
@[simp] theorem slset_tabBad (f : Nat) (v : Slice) (s : State) : (slset f v s).tabBad = s.tabBad := rfl
@[simp] theorem slset_crossings (f : Nat) (v : Slice) (s : State) : (slset f v s).crossings = s.crossings := rfl
@[simp] theorem slset_sets (f : Nat) (v : Slice) (s : State) : (slset f v s).sets = s.sets := rfl
@[simp] theorem slset_stream (f : Nat) (v : Slice) (s : State) : (slset f v s).stream = s.stream := rfl
@[simp] theorem slset_incs (f : Nat) (v : Slice) (s : State) : (slset f v s).incs = s.incs := rfl
@[simp] theorem slset_trig (f : Nat) (v : Slice) (s : State) : (slset f v s).trig = s.trig := rfl
@[simp] theorem slset_board (f : Nat) (v : Slice) (s : State) : (slset f v s).board = s.board := rfl
@[simp] theorem slset_bres (f : Nat) (v : Slice) (s : State) : (slset f v s).bres = s.bres := rfl
@[simp] theorem slset_vre (f : Nat) (v : Slice) (s : State) : (slset f v s).vre = s.vre := rfl
@[simp] theorem slset_clk (f : Nat) (v : Slice) (s : State) : (slset f v s).clk = s.clk := rfl
@[simp] theorem slset_ptp (f : Nat) (v : Slice) (s : State) : (slset f v s).ptp = s.ptp := rfl
@[simp] theorem slset_lanes (f : Nat) (v : Slice) (s : State) : (slset f v s).lanes = s.lanes := rfl
@[simp] theorem slset_hl (f : Nat) (v : Slice) (s : State) : (slset f v s).hl = s.hl := rfl
@[simp] theorem slset_vports (f : Nat) (v : Slice) (s : State) : (slset f v s).vports = s.vports := rfl
@[simp] theorem slset_maus (f : Nat) (v : Slice) (s : State) : (slset f v s).maus = s.maus := rfl
@[simp] theorem slset_therms (f : Nat) (v : Slice) (s : State) : (slset f v s).therms = s.therms := rfl
@[simp] theorem slset_cool (f : Nat) (v : Slice) (s : State) : (slset f v s).cool = s.cool := rfl
@[simp] theorem rd_slset (f : Nat) (v : Slice) (s : State) (r : Reg) (j : Nat) : rd (slset f v s) r j = rd s r j := rfl
@[simp] theorem rn_slset (f : Nat) (v : Slice) (s : State) (r : Reg) (j : Nat) : rn (slset f v s) r j = rn s r j := rfl

/-! ### flxset -/

@[simp] theorem flxset_pending (n : Nat) (v : FluxCh) (s : State) : (flxset n v s).pending = s.pending := rfl
@[simp] theorem flxset_elapsed (n : Nat) (v : FluxCh) (s : State) : (flxset n v s).elapsed = s.elapsed := rfl
@[simp] theorem flxset_free (n : Nat) (v : FluxCh) (s : State) : (flxset n v s).free = s.free := rfl
@[simp] theorem flxset_tml (n : Nat) (v : FluxCh) (s : State) : (flxset n v s).tml = s.tml := rfl
@[simp] theorem flxset_tmlOn (n : Nat) (v : FluxCh) (s : State) : (flxset n v s).tmlOn = s.tmlOn := rfl
@[simp] theorem flxset_regs (n : Nat) (v : FluxCh) (s : State) : (flxset n v s).regs = s.regs := rfl
@[simp] theorem flxset_queues (n : Nat) (v : FluxCh) (s : State) : (flxset n v s).queues = s.queues := rfl
@[simp] theorem flxset_poolLost (n : Nat) (v : FluxCh) (s : State) : (flxset n v s).poolLost = s.poolLost := rfl
@[simp] theorem flxset_fifos (n : Nat) (v : FluxCh) (s : State) : (flxset n v s).fifos = s.fifos := rfl
@[simp] theorem flxset_engs (n : Nat) (v : FluxCh) (s : State) : (flxset n v s).engs = s.engs := rfl
@[simp] theorem flxset_areas (n : Nat) (v : FluxCh) (s : State) : (flxset n v s).areas = s.areas := rfl
@[simp] theorem flxset_run (n : Nat) (v : FluxCh) (s : State) : (flxset n v s).run = s.run := rfl
@[simp] theorem flxset_image (n : Nat) (v : FluxCh) (s : State) : (flxset n v s).image = s.image := rfl
@[simp] theorem flxset_patches (n : Nat) (v : FluxCh) (s : State) : (flxset n v s).patches = s.patches := rfl
@[simp] theorem flxset_channels (n : Nat) (v : FluxCh) (s : State) : (flxset n v s).channels = s.channels := rfl
@[simp] theorem flxset_deliveries (n : Nat) (v : FluxCh) (s : State) : (flxset n v s).deliveries = s.deliveries := rfl
@[simp] theorem flxset_timers (n : Nat) (v : FluxCh) (s : State) : (flxset n v s).timers = s.timers := rfl
@[simp] theorem flxset_markers (n : Nat) (v : FluxCh) (s : State) : (flxset n v s).markers = s.markers := rfl
@[simp] theorem flxset_path0 (n : Nat) (v : FluxCh) (s : State) : (flxset n v s).path0 = s.path0 := rfl
@[simp] theorem flxset_path1 (n : Nat) (v : FluxCh) (s : State) : (flxset n v s).path1 = s.path1 := rfl
@[simp] theorem flxset_lastPath (n : Nat) (v : FluxCh) (s : State) : (flxset n v s).lastPath = s.lastPath := rfl
@[simp] theorem flxset_nvm (n : Nat) (v : FluxCh) (s : State) : (flxset n v s).nvm = s.nvm := rfl
@[simp] theorem flxset_boot (n : Nat) (v : FluxCh) (s : State) : (flxset n v s).boot = s.boot := rfl
@[simp] theorem flxset_flog (n : Nat) (v : FluxCh) (s : State) : (flxset n v s).flog = s.flog := rfl
@[simp] theorem flxset_scrubAt (n : Nat) (v : FluxCh) (s : State) : (flxset n v s).scrubAt = s.scrubAt := rfl
@[simp] theorem flxset_dram (n : Nat) (v : FluxCh) (s : State) : (flxset n v s).dram = s.dram := rfl
@[simp] theorem flxset_segs (n : Nat) (v : FluxCh) (s : State) : (flxset n v s).segs = s.segs := rfl
@[simp] theorem flxset_segMem (n : Nat) (v : FluxCh) (s : State) : (flxset n v s).segMem = s.segMem := rfl
@[simp] theorem flxset_segBad (n : Nat) (v : FluxCh) (s : State) : (flxset n v s).segBad = s.segBad := rfl
@[simp] theorem flxset_refills (n : Nat) (v : FluxCh) (s : State) : (flxset n v s).refills = s.refills := rfl
@[simp] theorem flxset_slices (n : Nat) (v : FluxCh) (s : State) : (flxset n v s).slices = s.slices := rfl
@[simp] theorem flxset_frames (n : Nat) (v : FluxCh) (s : State) : (flxset n v s).frames = s.frames := rfl
@[simp] theorem flxset_tapBad (n : Nat) (v : FluxCh) (s : State) : (flxset n v s).tapBad = s.tapBad := rfl
@[simp] theorem flxset_biases (n : Nat) (v : FluxCh) (s : State) : (flxset n v s).biases = s.biases := rfl
@[simp] theorem flxset_biasAt (n : Nat) (v : FluxCh) (s : State) : (flxset n v s).biasAt = s.biasAt := rfl
@[simp] theorem flxset_regions (n : Nat) (v : FluxCh) (s : State) : (flxset n v s).regions = s.regions := rfl
@[simp] theorem flxset_bdQual (n : Nat) (v : FluxCh) (s : State) : (flxset n v s).bdQual = s.bdQual := rfl
@[simp] theorem flxset_rfQualAt (n : Nat) (v : FluxCh) (s : State) : (flxset n v s).rfQualAt = s.rfQualAt := rfl
@[simp] theorem flxset_reads (n : Nat) (v : FluxCh) (s : State) : (flxset n v s).reads = s.reads := rfl
@[simp] theorem flxset_traces (n : Nat) (v : FluxCh) (s : State) : (flxset n v s).traces = s.traces := rfl
@[simp] theorem flxset_acqs (n : Nat) (v : FluxCh) (s : State) : (flxset n v s).acqs = s.acqs := rfl
@[simp] theorem flxset_krn (n : Nat) (v : FluxCh) (s : State) : (flxset n v s).krn = s.krn := rfl
@[simp] theorem flxset_krnBad (n : Nat) (v : FluxCh) (s : State) : (flxset n v s).krnBad = s.krnBad := rfl
@[simp] theorem flxset_tab (n : Nat) (v : FluxCh) (s : State) : (flxset n v s).tab = s.tab := rfl
@[simp] theorem flxset_tabBad (n : Nat) (v : FluxCh) (s : State) : (flxset n v s).tabBad = s.tabBad := rfl
@[simp] theorem flxset_crossings (n : Nat) (v : FluxCh) (s : State) : (flxset n v s).crossings = s.crossings := rfl
@[simp] theorem flxset_sets (n : Nat) (v : FluxCh) (s : State) : (flxset n v s).sets = s.sets := rfl
@[simp] theorem flxset_stream (n : Nat) (v : FluxCh) (s : State) : (flxset n v s).stream = s.stream := rfl
@[simp] theorem flxset_incs (n : Nat) (v : FluxCh) (s : State) : (flxset n v s).incs = s.incs := rfl
@[simp] theorem flxset_trig (n : Nat) (v : FluxCh) (s : State) : (flxset n v s).trig = s.trig := rfl
@[simp] theorem flxset_board (n : Nat) (v : FluxCh) (s : State) : (flxset n v s).board = s.board := rfl
@[simp] theorem flxset_bres (n : Nat) (v : FluxCh) (s : State) : (flxset n v s).bres = s.bres := rfl
@[simp] theorem flxset_vre (n : Nat) (v : FluxCh) (s : State) : (flxset n v s).vre = s.vre := rfl
@[simp] theorem flxset_clk (n : Nat) (v : FluxCh) (s : State) : (flxset n v s).clk = s.clk := rfl
@[simp] theorem flxset_ptp (n : Nat) (v : FluxCh) (s : State) : (flxset n v s).ptp = s.ptp := rfl
@[simp] theorem flxset_lanes (n : Nat) (v : FluxCh) (s : State) : (flxset n v s).lanes = s.lanes := rfl
@[simp] theorem flxset_hl (n : Nat) (v : FluxCh) (s : State) : (flxset n v s).hl = s.hl := rfl
@[simp] theorem flxset_vports (n : Nat) (v : FluxCh) (s : State) : (flxset n v s).vports = s.vports := rfl
@[simp] theorem flxset_maus (n : Nat) (v : FluxCh) (s : State) : (flxset n v s).maus = s.maus := rfl
@[simp] theorem flxset_therms (n : Nat) (v : FluxCh) (s : State) : (flxset n v s).therms = s.therms := rfl
@[simp] theorem flxset_cool (n : Nat) (v : FluxCh) (s : State) : (flxset n v s).cool = s.cool := rfl
@[simp] theorem rd_flxset (n : Nat) (v : FluxCh) (s : State) (r : Reg) (j : Nat) : rd (flxset n v s) r j = rd s r j := rfl
@[simp] theorem rn_flxset (n : Nat) (v : FluxCh) (s : State) (r : Reg) (j : Nat) : rn (flxset n v s) r j = rn s r j := rfl

/-! ### biaset -/

@[simp] theorem biaset_pending (n : Nat) (v : BiasCh) (s : State) : (biaset n v s).pending = s.pending := rfl
@[simp] theorem biaset_elapsed (n : Nat) (v : BiasCh) (s : State) : (biaset n v s).elapsed = s.elapsed := rfl
@[simp] theorem biaset_free (n : Nat) (v : BiasCh) (s : State) : (biaset n v s).free = s.free := rfl
@[simp] theorem biaset_tml (n : Nat) (v : BiasCh) (s : State) : (biaset n v s).tml = s.tml := rfl
@[simp] theorem biaset_tmlOn (n : Nat) (v : BiasCh) (s : State) : (biaset n v s).tmlOn = s.tmlOn := rfl
@[simp] theorem biaset_regs (n : Nat) (v : BiasCh) (s : State) : (biaset n v s).regs = s.regs := rfl
@[simp] theorem biaset_queues (n : Nat) (v : BiasCh) (s : State) : (biaset n v s).queues = s.queues := rfl
@[simp] theorem biaset_poolLost (n : Nat) (v : BiasCh) (s : State) : (biaset n v s).poolLost = s.poolLost := rfl
@[simp] theorem biaset_fifos (n : Nat) (v : BiasCh) (s : State) : (biaset n v s).fifos = s.fifos := rfl
@[simp] theorem biaset_engs (n : Nat) (v : BiasCh) (s : State) : (biaset n v s).engs = s.engs := rfl
@[simp] theorem biaset_areas (n : Nat) (v : BiasCh) (s : State) : (biaset n v s).areas = s.areas := rfl
@[simp] theorem biaset_run (n : Nat) (v : BiasCh) (s : State) : (biaset n v s).run = s.run := rfl
@[simp] theorem biaset_image (n : Nat) (v : BiasCh) (s : State) : (biaset n v s).image = s.image := rfl
@[simp] theorem biaset_patches (n : Nat) (v : BiasCh) (s : State) : (biaset n v s).patches = s.patches := rfl
@[simp] theorem biaset_channels (n : Nat) (v : BiasCh) (s : State) : (biaset n v s).channels = s.channels := rfl
@[simp] theorem biaset_deliveries (n : Nat) (v : BiasCh) (s : State) : (biaset n v s).deliveries = s.deliveries := rfl
@[simp] theorem biaset_timers (n : Nat) (v : BiasCh) (s : State) : (biaset n v s).timers = s.timers := rfl
@[simp] theorem biaset_markers (n : Nat) (v : BiasCh) (s : State) : (biaset n v s).markers = s.markers := rfl
@[simp] theorem biaset_path0 (n : Nat) (v : BiasCh) (s : State) : (biaset n v s).path0 = s.path0 := rfl
@[simp] theorem biaset_path1 (n : Nat) (v : BiasCh) (s : State) : (biaset n v s).path1 = s.path1 := rfl
@[simp] theorem biaset_lastPath (n : Nat) (v : BiasCh) (s : State) : (biaset n v s).lastPath = s.lastPath := rfl
@[simp] theorem biaset_nvm (n : Nat) (v : BiasCh) (s : State) : (biaset n v s).nvm = s.nvm := rfl
@[simp] theorem biaset_boot (n : Nat) (v : BiasCh) (s : State) : (biaset n v s).boot = s.boot := rfl
@[simp] theorem biaset_flog (n : Nat) (v : BiasCh) (s : State) : (biaset n v s).flog = s.flog := rfl
@[simp] theorem biaset_scrubAt (n : Nat) (v : BiasCh) (s : State) : (biaset n v s).scrubAt = s.scrubAt := rfl
@[simp] theorem biaset_dram (n : Nat) (v : BiasCh) (s : State) : (biaset n v s).dram = s.dram := rfl
@[simp] theorem biaset_segs (n : Nat) (v : BiasCh) (s : State) : (biaset n v s).segs = s.segs := rfl
@[simp] theorem biaset_segMem (n : Nat) (v : BiasCh) (s : State) : (biaset n v s).segMem = s.segMem := rfl
@[simp] theorem biaset_segBad (n : Nat) (v : BiasCh) (s : State) : (biaset n v s).segBad = s.segBad := rfl
@[simp] theorem biaset_refills (n : Nat) (v : BiasCh) (s : State) : (biaset n v s).refills = s.refills := rfl
@[simp] theorem biaset_slices (n : Nat) (v : BiasCh) (s : State) : (biaset n v s).slices = s.slices := rfl
@[simp] theorem biaset_frames (n : Nat) (v : BiasCh) (s : State) : (biaset n v s).frames = s.frames := rfl
@[simp] theorem biaset_tapBad (n : Nat) (v : BiasCh) (s : State) : (biaset n v s).tapBad = s.tapBad := rfl
@[simp] theorem biaset_fluxes (n : Nat) (v : BiasCh) (s : State) : (biaset n v s).fluxes = s.fluxes := rfl
@[simp] theorem biaset_biasAt (n : Nat) (v : BiasCh) (s : State) : (biaset n v s).biasAt = s.biasAt := rfl
@[simp] theorem biaset_regions (n : Nat) (v : BiasCh) (s : State) : (biaset n v s).regions = s.regions := rfl
@[simp] theorem biaset_bdQual (n : Nat) (v : BiasCh) (s : State) : (biaset n v s).bdQual = s.bdQual := rfl
@[simp] theorem biaset_rfQualAt (n : Nat) (v : BiasCh) (s : State) : (biaset n v s).rfQualAt = s.rfQualAt := rfl
@[simp] theorem biaset_reads (n : Nat) (v : BiasCh) (s : State) : (biaset n v s).reads = s.reads := rfl
@[simp] theorem biaset_traces (n : Nat) (v : BiasCh) (s : State) : (biaset n v s).traces = s.traces := rfl
@[simp] theorem biaset_acqs (n : Nat) (v : BiasCh) (s : State) : (biaset n v s).acqs = s.acqs := rfl
@[simp] theorem biaset_krn (n : Nat) (v : BiasCh) (s : State) : (biaset n v s).krn = s.krn := rfl
@[simp] theorem biaset_krnBad (n : Nat) (v : BiasCh) (s : State) : (biaset n v s).krnBad = s.krnBad := rfl
@[simp] theorem biaset_tab (n : Nat) (v : BiasCh) (s : State) : (biaset n v s).tab = s.tab := rfl
@[simp] theorem biaset_tabBad (n : Nat) (v : BiasCh) (s : State) : (biaset n v s).tabBad = s.tabBad := rfl
@[simp] theorem biaset_crossings (n : Nat) (v : BiasCh) (s : State) : (biaset n v s).crossings = s.crossings := rfl
@[simp] theorem biaset_sets (n : Nat) (v : BiasCh) (s : State) : (biaset n v s).sets = s.sets := rfl
@[simp] theorem biaset_stream (n : Nat) (v : BiasCh) (s : State) : (biaset n v s).stream = s.stream := rfl
@[simp] theorem biaset_incs (n : Nat) (v : BiasCh) (s : State) : (biaset n v s).incs = s.incs := rfl
@[simp] theorem biaset_trig (n : Nat) (v : BiasCh) (s : State) : (biaset n v s).trig = s.trig := rfl
@[simp] theorem biaset_board (n : Nat) (v : BiasCh) (s : State) : (biaset n v s).board = s.board := rfl
@[simp] theorem biaset_bres (n : Nat) (v : BiasCh) (s : State) : (biaset n v s).bres = s.bres := rfl
@[simp] theorem biaset_vre (n : Nat) (v : BiasCh) (s : State) : (biaset n v s).vre = s.vre := rfl
@[simp] theorem biaset_clk (n : Nat) (v : BiasCh) (s : State) : (biaset n v s).clk = s.clk := rfl
@[simp] theorem biaset_ptp (n : Nat) (v : BiasCh) (s : State) : (biaset n v s).ptp = s.ptp := rfl
@[simp] theorem biaset_lanes (n : Nat) (v : BiasCh) (s : State) : (biaset n v s).lanes = s.lanes := rfl
@[simp] theorem biaset_hl (n : Nat) (v : BiasCh) (s : State) : (biaset n v s).hl = s.hl := rfl
@[simp] theorem biaset_vports (n : Nat) (v : BiasCh) (s : State) : (biaset n v s).vports = s.vports := rfl
@[simp] theorem biaset_maus (n : Nat) (v : BiasCh) (s : State) : (biaset n v s).maus = s.maus := rfl
@[simp] theorem biaset_therms (n : Nat) (v : BiasCh) (s : State) : (biaset n v s).therms = s.therms := rfl
@[simp] theorem biaset_cool (n : Nat) (v : BiasCh) (s : State) : (biaset n v s).cool = s.cool := rfl
@[simp] theorem rd_biaset (n : Nat) (v : BiasCh) (s : State) (r : Reg) (j : Nat) : rd (biaset n v s) r j = rd s r j := rfl
@[simp] theorem rn_biaset (n : Nat) (v : BiasCh) (s : State) (r : Reg) (j : Nat) : rn (biaset n v s) r j = rn s r j := rfl

/-! ### rgset -/

@[simp] theorem rgset_pending (g : Nat) (v : Region) (s : State) : (rgset g v s).pending = s.pending := rfl
@[simp] theorem rgset_elapsed (g : Nat) (v : Region) (s : State) : (rgset g v s).elapsed = s.elapsed := rfl
@[simp] theorem rgset_free (g : Nat) (v : Region) (s : State) : (rgset g v s).free = s.free := rfl
@[simp] theorem rgset_tml (g : Nat) (v : Region) (s : State) : (rgset g v s).tml = s.tml := rfl
@[simp] theorem rgset_tmlOn (g : Nat) (v : Region) (s : State) : (rgset g v s).tmlOn = s.tmlOn := rfl
@[simp] theorem rgset_regs (g : Nat) (v : Region) (s : State) : (rgset g v s).regs = s.regs := rfl
@[simp] theorem rgset_queues (g : Nat) (v : Region) (s : State) : (rgset g v s).queues = s.queues := rfl
@[simp] theorem rgset_poolLost (g : Nat) (v : Region) (s : State) : (rgset g v s).poolLost = s.poolLost := rfl
@[simp] theorem rgset_fifos (g : Nat) (v : Region) (s : State) : (rgset g v s).fifos = s.fifos := rfl
@[simp] theorem rgset_engs (g : Nat) (v : Region) (s : State) : (rgset g v s).engs = s.engs := rfl
@[simp] theorem rgset_areas (g : Nat) (v : Region) (s : State) : (rgset g v s).areas = s.areas := rfl
@[simp] theorem rgset_run (g : Nat) (v : Region) (s : State) : (rgset g v s).run = s.run := rfl
@[simp] theorem rgset_image (g : Nat) (v : Region) (s : State) : (rgset g v s).image = s.image := rfl
@[simp] theorem rgset_patches (g : Nat) (v : Region) (s : State) : (rgset g v s).patches = s.patches := rfl
@[simp] theorem rgset_channels (g : Nat) (v : Region) (s : State) : (rgset g v s).channels = s.channels := rfl
@[simp] theorem rgset_deliveries (g : Nat) (v : Region) (s : State) : (rgset g v s).deliveries = s.deliveries := rfl
@[simp] theorem rgset_timers (g : Nat) (v : Region) (s : State) : (rgset g v s).timers = s.timers := rfl
@[simp] theorem rgset_markers (g : Nat) (v : Region) (s : State) : (rgset g v s).markers = s.markers := rfl
@[simp] theorem rgset_path0 (g : Nat) (v : Region) (s : State) : (rgset g v s).path0 = s.path0 := rfl
@[simp] theorem rgset_path1 (g : Nat) (v : Region) (s : State) : (rgset g v s).path1 = s.path1 := rfl
@[simp] theorem rgset_lastPath (g : Nat) (v : Region) (s : State) : (rgset g v s).lastPath = s.lastPath := rfl
@[simp] theorem rgset_nvm (g : Nat) (v : Region) (s : State) : (rgset g v s).nvm = s.nvm := rfl
@[simp] theorem rgset_boot (g : Nat) (v : Region) (s : State) : (rgset g v s).boot = s.boot := rfl
@[simp] theorem rgset_flog (g : Nat) (v : Region) (s : State) : (rgset g v s).flog = s.flog := rfl
@[simp] theorem rgset_scrubAt (g : Nat) (v : Region) (s : State) : (rgset g v s).scrubAt = s.scrubAt := rfl
@[simp] theorem rgset_dram (g : Nat) (v : Region) (s : State) : (rgset g v s).dram = s.dram := rfl
@[simp] theorem rgset_segs (g : Nat) (v : Region) (s : State) : (rgset g v s).segs = s.segs := rfl
@[simp] theorem rgset_segMem (g : Nat) (v : Region) (s : State) : (rgset g v s).segMem = s.segMem := rfl
@[simp] theorem rgset_segBad (g : Nat) (v : Region) (s : State) : (rgset g v s).segBad = s.segBad := rfl
@[simp] theorem rgset_refills (g : Nat) (v : Region) (s : State) : (rgset g v s).refills = s.refills := rfl
@[simp] theorem rgset_slices (g : Nat) (v : Region) (s : State) : (rgset g v s).slices = s.slices := rfl
@[simp] theorem rgset_frames (g : Nat) (v : Region) (s : State) : (rgset g v s).frames = s.frames := rfl
@[simp] theorem rgset_tapBad (g : Nat) (v : Region) (s : State) : (rgset g v s).tapBad = s.tapBad := rfl
@[simp] theorem rgset_fluxes (g : Nat) (v : Region) (s : State) : (rgset g v s).fluxes = s.fluxes := rfl
@[simp] theorem rgset_biases (g : Nat) (v : Region) (s : State) : (rgset g v s).biases = s.biases := rfl
@[simp] theorem rgset_biasAt (g : Nat) (v : Region) (s : State) : (rgset g v s).biasAt = s.biasAt := rfl
@[simp] theorem rgset_bdQual (g : Nat) (v : Region) (s : State) : (rgset g v s).bdQual = s.bdQual := rfl
@[simp] theorem rgset_rfQualAt (g : Nat) (v : Region) (s : State) : (rgset g v s).rfQualAt = s.rfQualAt := rfl
@[simp] theorem rgset_reads (g : Nat) (v : Region) (s : State) : (rgset g v s).reads = s.reads := rfl
@[simp] theorem rgset_traces (g : Nat) (v : Region) (s : State) : (rgset g v s).traces = s.traces := rfl
@[simp] theorem rgset_acqs (g : Nat) (v : Region) (s : State) : (rgset g v s).acqs = s.acqs := rfl
@[simp] theorem rgset_krn (g : Nat) (v : Region) (s : State) : (rgset g v s).krn = s.krn := rfl
@[simp] theorem rgset_krnBad (g : Nat) (v : Region) (s : State) : (rgset g v s).krnBad = s.krnBad := rfl
@[simp] theorem rgset_tab (g : Nat) (v : Region) (s : State) : (rgset g v s).tab = s.tab := rfl
@[simp] theorem rgset_tabBad (g : Nat) (v : Region) (s : State) : (rgset g v s).tabBad = s.tabBad := rfl
@[simp] theorem rgset_crossings (g : Nat) (v : Region) (s : State) : (rgset g v s).crossings = s.crossings := rfl
@[simp] theorem rgset_sets (g : Nat) (v : Region) (s : State) : (rgset g v s).sets = s.sets := rfl
@[simp] theorem rgset_stream (g : Nat) (v : Region) (s : State) : (rgset g v s).stream = s.stream := rfl
@[simp] theorem rgset_incs (g : Nat) (v : Region) (s : State) : (rgset g v s).incs = s.incs := rfl
@[simp] theorem rgset_trig (g : Nat) (v : Region) (s : State) : (rgset g v s).trig = s.trig := rfl
@[simp] theorem rgset_board (g : Nat) (v : Region) (s : State) : (rgset g v s).board = s.board := rfl
@[simp] theorem rgset_bres (g : Nat) (v : Region) (s : State) : (rgset g v s).bres = s.bres := rfl
@[simp] theorem rgset_vre (g : Nat) (v : Region) (s : State) : (rgset g v s).vre = s.vre := rfl
@[simp] theorem rgset_clk (g : Nat) (v : Region) (s : State) : (rgset g v s).clk = s.clk := rfl
@[simp] theorem rgset_ptp (g : Nat) (v : Region) (s : State) : (rgset g v s).ptp = s.ptp := rfl
@[simp] theorem rgset_lanes (g : Nat) (v : Region) (s : State) : (rgset g v s).lanes = s.lanes := rfl
@[simp] theorem rgset_hl (g : Nat) (v : Region) (s : State) : (rgset g v s).hl = s.hl := rfl
@[simp] theorem rgset_vports (g : Nat) (v : Region) (s : State) : (rgset g v s).vports = s.vports := rfl
@[simp] theorem rgset_maus (g : Nat) (v : Region) (s : State) : (rgset g v s).maus = s.maus := rfl
@[simp] theorem rgset_therms (g : Nat) (v : Region) (s : State) : (rgset g v s).therms = s.therms := rfl
@[simp] theorem rgset_cool (g : Nat) (v : Region) (s : State) : (rgset g v s).cool = s.cool := rfl
@[simp] theorem rd_rgset (g : Nat) (v : Region) (s : State) (r : Reg) (j : Nat) : rd (rgset g v s) r j = rd s r j := rfl
@[simp] theorem rn_rgset (g : Nat) (v : Region) (s : State) (r : Reg) (j : Nat) : rn (rgset g v s) r j = rn s r j := rfl

/-! ### rfset -/

@[simp] theorem rfset_pending (c : Nat) (v : Refill) (s : State) : (rfset c v s).pending = s.pending := rfl
@[simp] theorem rfset_elapsed (c : Nat) (v : Refill) (s : State) : (rfset c v s).elapsed = s.elapsed := rfl
@[simp] theorem rfset_free (c : Nat) (v : Refill) (s : State) : (rfset c v s).free = s.free := rfl
@[simp] theorem rfset_tml (c : Nat) (v : Refill) (s : State) : (rfset c v s).tml = s.tml := rfl
@[simp] theorem rfset_tmlOn (c : Nat) (v : Refill) (s : State) : (rfset c v s).tmlOn = s.tmlOn := rfl
@[simp] theorem rfset_regs (c : Nat) (v : Refill) (s : State) : (rfset c v s).regs = s.regs := rfl
@[simp] theorem rfset_queues (c : Nat) (v : Refill) (s : State) : (rfset c v s).queues = s.queues := rfl
@[simp] theorem rfset_poolLost (c : Nat) (v : Refill) (s : State) : (rfset c v s).poolLost = s.poolLost := rfl
@[simp] theorem rfset_fifos (c : Nat) (v : Refill) (s : State) : (rfset c v s).fifos = s.fifos := rfl
@[simp] theorem rfset_engs (c : Nat) (v : Refill) (s : State) : (rfset c v s).engs = s.engs := rfl
@[simp] theorem rfset_areas (c : Nat) (v : Refill) (s : State) : (rfset c v s).areas = s.areas := rfl
@[simp] theorem rfset_run (c : Nat) (v : Refill) (s : State) : (rfset c v s).run = s.run := rfl
@[simp] theorem rfset_image (c : Nat) (v : Refill) (s : State) : (rfset c v s).image = s.image := rfl
@[simp] theorem rfset_patches (c : Nat) (v : Refill) (s : State) : (rfset c v s).patches = s.patches := rfl
@[simp] theorem rfset_channels (c : Nat) (v : Refill) (s : State) : (rfset c v s).channels = s.channels := rfl
@[simp] theorem rfset_deliveries (c : Nat) (v : Refill) (s : State) : (rfset c v s).deliveries = s.deliveries := rfl
@[simp] theorem rfset_timers (c : Nat) (v : Refill) (s : State) : (rfset c v s).timers = s.timers := rfl
@[simp] theorem rfset_markers (c : Nat) (v : Refill) (s : State) : (rfset c v s).markers = s.markers := rfl
@[simp] theorem rfset_path0 (c : Nat) (v : Refill) (s : State) : (rfset c v s).path0 = s.path0 := rfl
@[simp] theorem rfset_path1 (c : Nat) (v : Refill) (s : State) : (rfset c v s).path1 = s.path1 := rfl
@[simp] theorem rfset_lastPath (c : Nat) (v : Refill) (s : State) : (rfset c v s).lastPath = s.lastPath := rfl
@[simp] theorem rfset_nvm (c : Nat) (v : Refill) (s : State) : (rfset c v s).nvm = s.nvm := rfl
@[simp] theorem rfset_boot (c : Nat) (v : Refill) (s : State) : (rfset c v s).boot = s.boot := rfl
@[simp] theorem rfset_flog (c : Nat) (v : Refill) (s : State) : (rfset c v s).flog = s.flog := rfl
@[simp] theorem rfset_scrubAt (c : Nat) (v : Refill) (s : State) : (rfset c v s).scrubAt = s.scrubAt := rfl
@[simp] theorem rfset_dram (c : Nat) (v : Refill) (s : State) : (rfset c v s).dram = s.dram := rfl
@[simp] theorem rfset_segs (c : Nat) (v : Refill) (s : State) : (rfset c v s).segs = s.segs := rfl
@[simp] theorem rfset_segMem (c : Nat) (v : Refill) (s : State) : (rfset c v s).segMem = s.segMem := rfl
@[simp] theorem rfset_segBad (c : Nat) (v : Refill) (s : State) : (rfset c v s).segBad = s.segBad := rfl
@[simp] theorem rfset_slices (c : Nat) (v : Refill) (s : State) : (rfset c v s).slices = s.slices := rfl
@[simp] theorem rfset_frames (c : Nat) (v : Refill) (s : State) : (rfset c v s).frames = s.frames := rfl
@[simp] theorem rfset_tapBad (c : Nat) (v : Refill) (s : State) : (rfset c v s).tapBad = s.tapBad := rfl
@[simp] theorem rfset_fluxes (c : Nat) (v : Refill) (s : State) : (rfset c v s).fluxes = s.fluxes := rfl
@[simp] theorem rfset_biases (c : Nat) (v : Refill) (s : State) : (rfset c v s).biases = s.biases := rfl
@[simp] theorem rfset_biasAt (c : Nat) (v : Refill) (s : State) : (rfset c v s).biasAt = s.biasAt := rfl
@[simp] theorem rfset_regions (c : Nat) (v : Refill) (s : State) : (rfset c v s).regions = s.regions := rfl
@[simp] theorem rfset_bdQual (c : Nat) (v : Refill) (s : State) : (rfset c v s).bdQual = s.bdQual := rfl
@[simp] theorem rfset_rfQualAt (c : Nat) (v : Refill) (s : State) : (rfset c v s).rfQualAt = s.rfQualAt := rfl
@[simp] theorem rfset_reads (c : Nat) (v : Refill) (s : State) : (rfset c v s).reads = s.reads := rfl
@[simp] theorem rfset_traces (c : Nat) (v : Refill) (s : State) : (rfset c v s).traces = s.traces := rfl
@[simp] theorem rfset_acqs (c : Nat) (v : Refill) (s : State) : (rfset c v s).acqs = s.acqs := rfl
@[simp] theorem rfset_krn (c : Nat) (v : Refill) (s : State) : (rfset c v s).krn = s.krn := rfl
@[simp] theorem rfset_krnBad (c : Nat) (v : Refill) (s : State) : (rfset c v s).krnBad = s.krnBad := rfl
@[simp] theorem rfset_tab (c : Nat) (v : Refill) (s : State) : (rfset c v s).tab = s.tab := rfl
@[simp] theorem rfset_tabBad (c : Nat) (v : Refill) (s : State) : (rfset c v s).tabBad = s.tabBad := rfl
@[simp] theorem rfset_crossings (c : Nat) (v : Refill) (s : State) : (rfset c v s).crossings = s.crossings := rfl
@[simp] theorem rfset_sets (c : Nat) (v : Refill) (s : State) : (rfset c v s).sets = s.sets := rfl
@[simp] theorem rfset_stream (c : Nat) (v : Refill) (s : State) : (rfset c v s).stream = s.stream := rfl
@[simp] theorem rfset_incs (c : Nat) (v : Refill) (s : State) : (rfset c v s).incs = s.incs := rfl
@[simp] theorem rfset_trig (c : Nat) (v : Refill) (s : State) : (rfset c v s).trig = s.trig := rfl
@[simp] theorem rfset_board (c : Nat) (v : Refill) (s : State) : (rfset c v s).board = s.board := rfl
@[simp] theorem rfset_bres (c : Nat) (v : Refill) (s : State) : (rfset c v s).bres = s.bres := rfl
@[simp] theorem rfset_vre (c : Nat) (v : Refill) (s : State) : (rfset c v s).vre = s.vre := rfl
@[simp] theorem rfset_clk (c : Nat) (v : Refill) (s : State) : (rfset c v s).clk = s.clk := rfl
@[simp] theorem rfset_ptp (c : Nat) (v : Refill) (s : State) : (rfset c v s).ptp = s.ptp := rfl
@[simp] theorem rfset_lanes (c : Nat) (v : Refill) (s : State) : (rfset c v s).lanes = s.lanes := rfl
@[simp] theorem rfset_hl (c : Nat) (v : Refill) (s : State) : (rfset c v s).hl = s.hl := rfl
@[simp] theorem rfset_vports (c : Nat) (v : Refill) (s : State) : (rfset c v s).vports = s.vports := rfl
@[simp] theorem rfset_maus (c : Nat) (v : Refill) (s : State) : (rfset c v s).maus = s.maus := rfl
@[simp] theorem rfset_therms (c : Nat) (v : Refill) (s : State) : (rfset c v s).therms = s.therms := rfl
@[simp] theorem rfset_cool (c : Nat) (v : Refill) (s : State) : (rfset c v s).cool = s.cool := rfl
@[simp] theorem rd_rfset (c : Nat) (v : Refill) (s : State) (r : Reg) (j : Nat) : rd (rfset c v s) r j = rd s r j := rfl
@[simp] theorem rn_rfset (c : Nat) (v : Refill) (s : State) (r : Reg) (j : Nat) : rn (rfset c v s) r j = rn s r j := rfl

/-! ### setPtp -/

@[simp] theorem setPtp_pending (p : Ptp) (s : State) : (setPtp p s).pending = s.pending := rfl
@[simp] theorem setPtp_elapsed (p : Ptp) (s : State) : (setPtp p s).elapsed = s.elapsed := rfl
@[simp] theorem setPtp_free (p : Ptp) (s : State) : (setPtp p s).free = s.free := rfl
@[simp] theorem setPtp_tml (p : Ptp) (s : State) : (setPtp p s).tml = s.tml := rfl
@[simp] theorem setPtp_tmlOn (p : Ptp) (s : State) : (setPtp p s).tmlOn = s.tmlOn := rfl
@[simp] theorem setPtp_regs (p : Ptp) (s : State) : (setPtp p s).regs = s.regs := rfl
@[simp] theorem setPtp_queues (p : Ptp) (s : State) : (setPtp p s).queues = s.queues := rfl
@[simp] theorem setPtp_poolLost (p : Ptp) (s : State) : (setPtp p s).poolLost = s.poolLost := rfl
@[simp] theorem setPtp_fifos (p : Ptp) (s : State) : (setPtp p s).fifos = s.fifos := rfl
@[simp] theorem setPtp_engs (p : Ptp) (s : State) : (setPtp p s).engs = s.engs := rfl
@[simp] theorem setPtp_areas (p : Ptp) (s : State) : (setPtp p s).areas = s.areas := rfl
@[simp] theorem setPtp_run (p : Ptp) (s : State) : (setPtp p s).run = s.run := rfl
@[simp] theorem setPtp_image (p : Ptp) (s : State) : (setPtp p s).image = s.image := rfl
@[simp] theorem setPtp_patches (p : Ptp) (s : State) : (setPtp p s).patches = s.patches := rfl
@[simp] theorem setPtp_channels (p : Ptp) (s : State) : (setPtp p s).channels = s.channels := rfl
@[simp] theorem setPtp_deliveries (p : Ptp) (s : State) : (setPtp p s).deliveries = s.deliveries := rfl
@[simp] theorem setPtp_timers (p : Ptp) (s : State) : (setPtp p s).timers = s.timers := rfl
@[simp] theorem setPtp_markers (p : Ptp) (s : State) : (setPtp p s).markers = s.markers := rfl
@[simp] theorem setPtp_path0 (p : Ptp) (s : State) : (setPtp p s).path0 = s.path0 := rfl
@[simp] theorem setPtp_path1 (p : Ptp) (s : State) : (setPtp p s).path1 = s.path1 := rfl
@[simp] theorem setPtp_lastPath (p : Ptp) (s : State) : (setPtp p s).lastPath = s.lastPath := rfl
@[simp] theorem setPtp_nvm (p : Ptp) (s : State) : (setPtp p s).nvm = s.nvm := rfl
@[simp] theorem setPtp_boot (p : Ptp) (s : State) : (setPtp p s).boot = s.boot := rfl
@[simp] theorem setPtp_flog (p : Ptp) (s : State) : (setPtp p s).flog = s.flog := rfl
@[simp] theorem setPtp_scrubAt (p : Ptp) (s : State) : (setPtp p s).scrubAt = s.scrubAt := rfl
@[simp] theorem setPtp_dram (p : Ptp) (s : State) : (setPtp p s).dram = s.dram := rfl
@[simp] theorem setPtp_segs (p : Ptp) (s : State) : (setPtp p s).segs = s.segs := rfl
@[simp] theorem setPtp_segMem (p : Ptp) (s : State) : (setPtp p s).segMem = s.segMem := rfl
@[simp] theorem setPtp_segBad (p : Ptp) (s : State) : (setPtp p s).segBad = s.segBad := rfl
@[simp] theorem setPtp_refills (p : Ptp) (s : State) : (setPtp p s).refills = s.refills := rfl
@[simp] theorem setPtp_slices (p : Ptp) (s : State) : (setPtp p s).slices = s.slices := rfl
@[simp] theorem setPtp_frames (p : Ptp) (s : State) : (setPtp p s).frames = s.frames := rfl
@[simp] theorem setPtp_tapBad (p : Ptp) (s : State) : (setPtp p s).tapBad = s.tapBad := rfl
@[simp] theorem setPtp_fluxes (p : Ptp) (s : State) : (setPtp p s).fluxes = s.fluxes := rfl
@[simp] theorem setPtp_biases (p : Ptp) (s : State) : (setPtp p s).biases = s.biases := rfl
@[simp] theorem setPtp_biasAt (p : Ptp) (s : State) : (setPtp p s).biasAt = s.biasAt := rfl
@[simp] theorem setPtp_regions (p : Ptp) (s : State) : (setPtp p s).regions = s.regions := rfl
@[simp] theorem setPtp_bdQual (p : Ptp) (s : State) : (setPtp p s).bdQual = s.bdQual := rfl
@[simp] theorem setPtp_rfQualAt (p : Ptp) (s : State) : (setPtp p s).rfQualAt = s.rfQualAt := rfl
@[simp] theorem setPtp_reads (p : Ptp) (s : State) : (setPtp p s).reads = s.reads := rfl
@[simp] theorem setPtp_traces (p : Ptp) (s : State) : (setPtp p s).traces = s.traces := rfl
@[simp] theorem setPtp_acqs (p : Ptp) (s : State) : (setPtp p s).acqs = s.acqs := rfl
@[simp] theorem setPtp_krn (p : Ptp) (s : State) : (setPtp p s).krn = s.krn := rfl
@[simp] theorem setPtp_krnBad (p : Ptp) (s : State) : (setPtp p s).krnBad = s.krnBad := rfl
@[simp] theorem setPtp_tab (p : Ptp) (s : State) : (setPtp p s).tab = s.tab := rfl
@[simp] theorem setPtp_tabBad (p : Ptp) (s : State) : (setPtp p s).tabBad = s.tabBad := rfl
@[simp] theorem setPtp_crossings (p : Ptp) (s : State) : (setPtp p s).crossings = s.crossings := rfl
@[simp] theorem setPtp_sets (p : Ptp) (s : State) : (setPtp p s).sets = s.sets := rfl
@[simp] theorem setPtp_stream (p : Ptp) (s : State) : (setPtp p s).stream = s.stream := rfl
@[simp] theorem setPtp_incs (p : Ptp) (s : State) : (setPtp p s).incs = s.incs := rfl
@[simp] theorem setPtp_trig (p : Ptp) (s : State) : (setPtp p s).trig = s.trig := rfl
@[simp] theorem setPtp_board (p : Ptp) (s : State) : (setPtp p s).board = s.board := rfl
@[simp] theorem setPtp_bres (p : Ptp) (s : State) : (setPtp p s).bres = s.bres := rfl
@[simp] theorem setPtp_vre (p : Ptp) (s : State) : (setPtp p s).vre = s.vre := rfl
@[simp] theorem setPtp_clk (p : Ptp) (s : State) : (setPtp p s).clk = s.clk := rfl
@[simp] theorem setPtp_lanes (p : Ptp) (s : State) : (setPtp p s).lanes = s.lanes := rfl
@[simp] theorem setPtp_hl (p : Ptp) (s : State) : (setPtp p s).hl = s.hl := rfl
@[simp] theorem setPtp_vports (p : Ptp) (s : State) : (setPtp p s).vports = s.vports := rfl
@[simp] theorem setPtp_maus (p : Ptp) (s : State) : (setPtp p s).maus = s.maus := rfl
@[simp] theorem setPtp_therms (p : Ptp) (s : State) : (setPtp p s).therms = s.therms := rfl
@[simp] theorem setPtp_cool (p : Ptp) (s : State) : (setPtp p s).cool = s.cool := rfl
@[simp] theorem rd_setPtp (p : Ptp) (s : State) (r : Reg) (j : Nat) : rd (setPtp p s) r j = rd s r j := rfl
@[simp] theorem rn_setPtp (p : Ptp) (s : State) (r : Reg) (j : Nat) : rn (setPtp p s) r j = rn s r j := rfl

/-! ### turn -/

@[simp] theorem turn_pending (p : Path) (s : State) : (turn p s).pending = s.pending := rfl
@[simp] theorem turn_elapsed (p : Path) (s : State) : (turn p s).elapsed = s.elapsed := rfl
@[simp] theorem turn_free (p : Path) (s : State) : (turn p s).free = s.free := rfl
@[simp] theorem turn_tml (p : Path) (s : State) : (turn p s).tml = s.tml := rfl
@[simp] theorem turn_tmlOn (p : Path) (s : State) : (turn p s).tmlOn = s.tmlOn := rfl
@[simp] theorem turn_regs (p : Path) (s : State) : (turn p s).regs = s.regs := rfl
@[simp] theorem turn_queues (p : Path) (s : State) : (turn p s).queues = s.queues := rfl
@[simp] theorem turn_poolLost (p : Path) (s : State) : (turn p s).poolLost = s.poolLost := rfl
@[simp] theorem turn_fifos (p : Path) (s : State) : (turn p s).fifos = s.fifos := rfl
@[simp] theorem turn_engs (p : Path) (s : State) : (turn p s).engs = s.engs := rfl
@[simp] theorem turn_areas (p : Path) (s : State) : (turn p s).areas = s.areas := rfl
@[simp] theorem turn_run (p : Path) (s : State) : (turn p s).run = s.run := rfl
@[simp] theorem turn_image (p : Path) (s : State) : (turn p s).image = s.image := rfl
@[simp] theorem turn_patches (p : Path) (s : State) : (turn p s).patches = s.patches := rfl
@[simp] theorem turn_channels (p : Path) (s : State) : (turn p s).channels = s.channels := rfl
@[simp] theorem turn_deliveries (p : Path) (s : State) : (turn p s).deliveries = s.deliveries := rfl
@[simp] theorem turn_timers (p : Path) (s : State) : (turn p s).timers = s.timers := rfl
@[simp] theorem turn_markers (p : Path) (s : State) : (turn p s).markers = s.markers := rfl
@[simp] theorem turn_path0 (p : Path) (s : State) : (turn p s).path0 = s.path0 := rfl
@[simp] theorem turn_path1 (p : Path) (s : State) : (turn p s).path1 = s.path1 := rfl
@[simp] theorem turn_nvm (p : Path) (s : State) : (turn p s).nvm = s.nvm := rfl
@[simp] theorem turn_boot (p : Path) (s : State) : (turn p s).boot = s.boot := rfl
@[simp] theorem turn_flog (p : Path) (s : State) : (turn p s).flog = s.flog := rfl
@[simp] theorem turn_scrubAt (p : Path) (s : State) : (turn p s).scrubAt = s.scrubAt := rfl
@[simp] theorem turn_dram (p : Path) (s : State) : (turn p s).dram = s.dram := rfl
@[simp] theorem turn_segs (p : Path) (s : State) : (turn p s).segs = s.segs := rfl
@[simp] theorem turn_segMem (p : Path) (s : State) : (turn p s).segMem = s.segMem := rfl
@[simp] theorem turn_segBad (p : Path) (s : State) : (turn p s).segBad = s.segBad := rfl
@[simp] theorem turn_refills (p : Path) (s : State) : (turn p s).refills = s.refills := rfl
@[simp] theorem turn_slices (p : Path) (s : State) : (turn p s).slices = s.slices := rfl
@[simp] theorem turn_frames (p : Path) (s : State) : (turn p s).frames = s.frames := rfl
@[simp] theorem turn_tapBad (p : Path) (s : State) : (turn p s).tapBad = s.tapBad := rfl
@[simp] theorem turn_fluxes (p : Path) (s : State) : (turn p s).fluxes = s.fluxes := rfl
@[simp] theorem turn_biases (p : Path) (s : State) : (turn p s).biases = s.biases := rfl
@[simp] theorem turn_biasAt (p : Path) (s : State) : (turn p s).biasAt = s.biasAt := rfl
@[simp] theorem turn_regions (p : Path) (s : State) : (turn p s).regions = s.regions := rfl
@[simp] theorem turn_bdQual (p : Path) (s : State) : (turn p s).bdQual = s.bdQual := rfl
@[simp] theorem turn_rfQualAt (p : Path) (s : State) : (turn p s).rfQualAt = s.rfQualAt := rfl
@[simp] theorem turn_reads (p : Path) (s : State) : (turn p s).reads = s.reads := rfl
@[simp] theorem turn_traces (p : Path) (s : State) : (turn p s).traces = s.traces := rfl
@[simp] theorem turn_acqs (p : Path) (s : State) : (turn p s).acqs = s.acqs := rfl
@[simp] theorem turn_krn (p : Path) (s : State) : (turn p s).krn = s.krn := rfl
@[simp] theorem turn_krnBad (p : Path) (s : State) : (turn p s).krnBad = s.krnBad := rfl
@[simp] theorem turn_tab (p : Path) (s : State) : (turn p s).tab = s.tab := rfl
@[simp] theorem turn_tabBad (p : Path) (s : State) : (turn p s).tabBad = s.tabBad := rfl
@[simp] theorem turn_crossings (p : Path) (s : State) : (turn p s).crossings = s.crossings := rfl
@[simp] theorem turn_sets (p : Path) (s : State) : (turn p s).sets = s.sets := rfl
@[simp] theorem turn_stream (p : Path) (s : State) : (turn p s).stream = s.stream := rfl
@[simp] theorem turn_incs (p : Path) (s : State) : (turn p s).incs = s.incs := rfl
@[simp] theorem turn_trig (p : Path) (s : State) : (turn p s).trig = s.trig := rfl
@[simp] theorem turn_board (p : Path) (s : State) : (turn p s).board = s.board := rfl
@[simp] theorem turn_bres (p : Path) (s : State) : (turn p s).bres = s.bres := rfl
@[simp] theorem turn_vre (p : Path) (s : State) : (turn p s).vre = s.vre := rfl
@[simp] theorem turn_clk (p : Path) (s : State) : (turn p s).clk = s.clk := rfl
@[simp] theorem turn_ptp (p : Path) (s : State) : (turn p s).ptp = s.ptp := rfl
@[simp] theorem turn_lanes (p : Path) (s : State) : (turn p s).lanes = s.lanes := rfl
@[simp] theorem turn_hl (p : Path) (s : State) : (turn p s).hl = s.hl := rfl
@[simp] theorem turn_vports (p : Path) (s : State) : (turn p s).vports = s.vports := rfl
@[simp] theorem turn_maus (p : Path) (s : State) : (turn p s).maus = s.maus := rfl
@[simp] theorem turn_therms (p : Path) (s : State) : (turn p s).therms = s.therms := rfl
@[simp] theorem turn_cool (p : Path) (s : State) : (turn p s).cool = s.cool := rfl
@[simp] theorem rd_turn (p : Path) (s : State) (r : Reg) (j : Nat) : rd (turn p s) r j = rd s r j := rfl
@[simp] theorem rn_turn (p : Path) (s : State) (r : Reg) (j : Nat) : rn (turn p s) r j = rn s r j := rfl

/-! ### vcset -/

@[simp] theorem vcset_pending (v : Nat) (x : Vc) (s : State) : (vcset v x s).pending = s.pending := rfl
@[simp] theorem vcset_elapsed (v : Nat) (x : Vc) (s : State) : (vcset v x s).elapsed = s.elapsed := rfl
@[simp] theorem vcset_free (v : Nat) (x : Vc) (s : State) : (vcset v x s).free = s.free := rfl
@[simp] theorem vcset_tml (v : Nat) (x : Vc) (s : State) : (vcset v x s).tml = s.tml := rfl
@[simp] theorem vcset_tmlOn (v : Nat) (x : Vc) (s : State) : (vcset v x s).tmlOn = s.tmlOn := rfl
@[simp] theorem vcset_regs (v : Nat) (x : Vc) (s : State) : (vcset v x s).regs = s.regs := rfl
@[simp] theorem vcset_queues (v : Nat) (x : Vc) (s : State) : (vcset v x s).queues = s.queues := rfl
@[simp] theorem vcset_poolLost (v : Nat) (x : Vc) (s : State) : (vcset v x s).poolLost = s.poolLost := rfl
@[simp] theorem vcset_fifos (v : Nat) (x : Vc) (s : State) : (vcset v x s).fifos = s.fifos := rfl
@[simp] theorem vcset_engs (v : Nat) (x : Vc) (s : State) : (vcset v x s).engs = s.engs := rfl
@[simp] theorem vcset_areas (v : Nat) (x : Vc) (s : State) : (vcset v x s).areas = s.areas := rfl
@[simp] theorem vcset_run (v : Nat) (x : Vc) (s : State) : (vcset v x s).run = s.run := rfl
@[simp] theorem vcset_image (v : Nat) (x : Vc) (s : State) : (vcset v x s).image = s.image := rfl
@[simp] theorem vcset_patches (v : Nat) (x : Vc) (s : State) : (vcset v x s).patches = s.patches := rfl
@[simp] theorem vcset_channels (v : Nat) (x : Vc) (s : State) : (vcset v x s).channels = s.channels := rfl
@[simp] theorem vcset_deliveries (v : Nat) (x : Vc) (s : State) : (vcset v x s).deliveries = s.deliveries := rfl
@[simp] theorem vcset_timers (v : Nat) (x : Vc) (s : State) : (vcset v x s).timers = s.timers := rfl
@[simp] theorem vcset_markers (v : Nat) (x : Vc) (s : State) : (vcset v x s).markers = s.markers := rfl
@[simp] theorem vcset_path0 (v : Nat) (x : Vc) (s : State) : (vcset v x s).path0 = s.path0 := rfl
@[simp] theorem vcset_path1 (v : Nat) (x : Vc) (s : State) : (vcset v x s).path1 = s.path1 := rfl
@[simp] theorem vcset_lastPath (v : Nat) (x : Vc) (s : State) : (vcset v x s).lastPath = s.lastPath := rfl
@[simp] theorem vcset_nvm (v : Nat) (x : Vc) (s : State) : (vcset v x s).nvm = s.nvm := rfl
@[simp] theorem vcset_boot (v : Nat) (x : Vc) (s : State) : (vcset v x s).boot = s.boot := rfl
@[simp] theorem vcset_flog (v : Nat) (x : Vc) (s : State) : (vcset v x s).flog = s.flog := rfl
@[simp] theorem vcset_scrubAt (v : Nat) (x : Vc) (s : State) : (vcset v x s).scrubAt = s.scrubAt := rfl
@[simp] theorem vcset_dram (v : Nat) (x : Vc) (s : State) : (vcset v x s).dram = s.dram := rfl
@[simp] theorem vcset_segs (v : Nat) (x : Vc) (s : State) : (vcset v x s).segs = s.segs := rfl
@[simp] theorem vcset_segMem (v : Nat) (x : Vc) (s : State) : (vcset v x s).segMem = s.segMem := rfl
@[simp] theorem vcset_segBad (v : Nat) (x : Vc) (s : State) : (vcset v x s).segBad = s.segBad := rfl
@[simp] theorem vcset_refills (v : Nat) (x : Vc) (s : State) : (vcset v x s).refills = s.refills := rfl
@[simp] theorem vcset_slices (v : Nat) (x : Vc) (s : State) : (vcset v x s).slices = s.slices := rfl
@[simp] theorem vcset_frames (v : Nat) (x : Vc) (s : State) : (vcset v x s).frames = s.frames := rfl
@[simp] theorem vcset_tapBad (v : Nat) (x : Vc) (s : State) : (vcset v x s).tapBad = s.tapBad := rfl
@[simp] theorem vcset_fluxes (v : Nat) (x : Vc) (s : State) : (vcset v x s).fluxes = s.fluxes := rfl
@[simp] theorem vcset_biases (v : Nat) (x : Vc) (s : State) : (vcset v x s).biases = s.biases := rfl
@[simp] theorem vcset_biasAt (v : Nat) (x : Vc) (s : State) : (vcset v x s).biasAt = s.biasAt := rfl
@[simp] theorem vcset_regions (v : Nat) (x : Vc) (s : State) : (vcset v x s).regions = s.regions := rfl
@[simp] theorem vcset_bdQual (v : Nat) (x : Vc) (s : State) : (vcset v x s).bdQual = s.bdQual := rfl
@[simp] theorem vcset_rfQualAt (v : Nat) (x : Vc) (s : State) : (vcset v x s).rfQualAt = s.rfQualAt := rfl
@[simp] theorem vcset_reads (v : Nat) (x : Vc) (s : State) : (vcset v x s).reads = s.reads := rfl
@[simp] theorem vcset_traces (v : Nat) (x : Vc) (s : State) : (vcset v x s).traces = s.traces := rfl
@[simp] theorem vcset_acqs (v : Nat) (x : Vc) (s : State) : (vcset v x s).acqs = s.acqs := rfl
@[simp] theorem vcset_krn (v : Nat) (x : Vc) (s : State) : (vcset v x s).krn = s.krn := rfl
@[simp] theorem vcset_krnBad (v : Nat) (x : Vc) (s : State) : (vcset v x s).krnBad = s.krnBad := rfl
@[simp] theorem vcset_tab (v : Nat) (x : Vc) (s : State) : (vcset v x s).tab = s.tab := rfl
@[simp] theorem vcset_tabBad (v : Nat) (x : Vc) (s : State) : (vcset v x s).tabBad = s.tabBad := rfl
@[simp] theorem vcset_crossings (v : Nat) (x : Vc) (s : State) : (vcset v x s).crossings = s.crossings := rfl
@[simp] theorem vcset_sets (v : Nat) (x : Vc) (s : State) : (vcset v x s).sets = s.sets := rfl
@[simp] theorem vcset_stream (v : Nat) (x : Vc) (s : State) : (vcset v x s).stream = s.stream := rfl
@[simp] theorem vcset_incs (v : Nat) (x : Vc) (s : State) : (vcset v x s).incs = s.incs := rfl
@[simp] theorem vcset_trig (v : Nat) (x : Vc) (s : State) : (vcset v x s).trig = s.trig := rfl
@[simp] theorem vcset_board (v : Nat) (x : Vc) (s : State) : (vcset v x s).board = s.board := rfl
@[simp] theorem vcset_bres (v : Nat) (x : Vc) (s : State) : (vcset v x s).bres = s.bres := rfl
@[simp] theorem vcset_vre (v : Nat) (x : Vc) (s : State) : (vcset v x s).vre = s.vre := rfl
@[simp] theorem vcset_clk (v : Nat) (x : Vc) (s : State) : (vcset v x s).clk = s.clk := rfl
@[simp] theorem vcset_ptp (v : Nat) (x : Vc) (s : State) : (vcset v x s).ptp = s.ptp := rfl
@[simp] theorem vcset_lanes (v : Nat) (x : Vc) (s : State) : (vcset v x s).lanes = s.lanes := rfl
@[simp] theorem vcset_vports (v : Nat) (x : Vc) (s : State) : (vcset v x s).vports = s.vports := rfl
@[simp] theorem vcset_maus (v : Nat) (x : Vc) (s : State) : (vcset v x s).maus = s.maus := rfl
@[simp] theorem vcset_therms (v : Nat) (x : Vc) (s : State) : (vcset v x s).therms = s.therms := rfl
@[simp] theorem vcset_cool (v : Nat) (x : Vc) (s : State) : (vcset v x s).cool = s.cool := rfl
@[simp] theorem rd_vcset (v : Nat) (x : Vc) (s : State) (r : Reg) (j : Nat) : rd (vcset v x s) r j = rd s r j := rfl
@[simp] theorem rn_vcset (v : Nat) (x : Vc) (s : State) (r : Reg) (j : Nat) : rn (vcset v x s) r j = rn s r j := rfl

/-! ### setCool -/

@[simp] theorem setCool_pending (c : Cooling) (s : State) : (setCool c s).pending = s.pending := rfl
@[simp] theorem setCool_elapsed (c : Cooling) (s : State) : (setCool c s).elapsed = s.elapsed := rfl
@[simp] theorem setCool_free (c : Cooling) (s : State) : (setCool c s).free = s.free := rfl
@[simp] theorem setCool_tml (c : Cooling) (s : State) : (setCool c s).tml = s.tml := rfl
@[simp] theorem setCool_tmlOn (c : Cooling) (s : State) : (setCool c s).tmlOn = s.tmlOn := rfl
@[simp] theorem setCool_regs (c : Cooling) (s : State) : (setCool c s).regs = s.regs := rfl
@[simp] theorem setCool_queues (c : Cooling) (s : State) : (setCool c s).queues = s.queues := rfl
@[simp] theorem setCool_poolLost (c : Cooling) (s : State) : (setCool c s).poolLost = s.poolLost := rfl
@[simp] theorem setCool_fifos (c : Cooling) (s : State) : (setCool c s).fifos = s.fifos := rfl
@[simp] theorem setCool_engs (c : Cooling) (s : State) : (setCool c s).engs = s.engs := rfl
@[simp] theorem setCool_areas (c : Cooling) (s : State) : (setCool c s).areas = s.areas := rfl
@[simp] theorem setCool_run (c : Cooling) (s : State) : (setCool c s).run = s.run := rfl
@[simp] theorem setCool_image (c : Cooling) (s : State) : (setCool c s).image = s.image := rfl
@[simp] theorem setCool_patches (c : Cooling) (s : State) : (setCool c s).patches = s.patches := rfl
@[simp] theorem setCool_channels (c : Cooling) (s : State) : (setCool c s).channels = s.channels := rfl
@[simp] theorem setCool_deliveries (c : Cooling) (s : State) : (setCool c s).deliveries = s.deliveries := rfl
@[simp] theorem setCool_timers (c : Cooling) (s : State) : (setCool c s).timers = s.timers := rfl
@[simp] theorem setCool_markers (c : Cooling) (s : State) : (setCool c s).markers = s.markers := rfl
@[simp] theorem setCool_path0 (c : Cooling) (s : State) : (setCool c s).path0 = s.path0 := rfl
@[simp] theorem setCool_path1 (c : Cooling) (s : State) : (setCool c s).path1 = s.path1 := rfl
@[simp] theorem setCool_lastPath (c : Cooling) (s : State) : (setCool c s).lastPath = s.lastPath := rfl
@[simp] theorem setCool_nvm (c : Cooling) (s : State) : (setCool c s).nvm = s.nvm := rfl
@[simp] theorem setCool_boot (c : Cooling) (s : State) : (setCool c s).boot = s.boot := rfl
@[simp] theorem setCool_flog (c : Cooling) (s : State) : (setCool c s).flog = s.flog := rfl
@[simp] theorem setCool_scrubAt (c : Cooling) (s : State) : (setCool c s).scrubAt = s.scrubAt := rfl
@[simp] theorem setCool_dram (c : Cooling) (s : State) : (setCool c s).dram = s.dram := rfl
@[simp] theorem setCool_segs (c : Cooling) (s : State) : (setCool c s).segs = s.segs := rfl
@[simp] theorem setCool_segMem (c : Cooling) (s : State) : (setCool c s).segMem = s.segMem := rfl
@[simp] theorem setCool_segBad (c : Cooling) (s : State) : (setCool c s).segBad = s.segBad := rfl
@[simp] theorem setCool_refills (c : Cooling) (s : State) : (setCool c s).refills = s.refills := rfl
@[simp] theorem setCool_slices (c : Cooling) (s : State) : (setCool c s).slices = s.slices := rfl
@[simp] theorem setCool_frames (c : Cooling) (s : State) : (setCool c s).frames = s.frames := rfl
@[simp] theorem setCool_tapBad (c : Cooling) (s : State) : (setCool c s).tapBad = s.tapBad := rfl
@[simp] theorem setCool_fluxes (c : Cooling) (s : State) : (setCool c s).fluxes = s.fluxes := rfl
@[simp] theorem setCool_biases (c : Cooling) (s : State) : (setCool c s).biases = s.biases := rfl
@[simp] theorem setCool_biasAt (c : Cooling) (s : State) : (setCool c s).biasAt = s.biasAt := rfl
@[simp] theorem setCool_regions (c : Cooling) (s : State) : (setCool c s).regions = s.regions := rfl
@[simp] theorem setCool_bdQual (c : Cooling) (s : State) : (setCool c s).bdQual = s.bdQual := rfl
@[simp] theorem setCool_rfQualAt (c : Cooling) (s : State) : (setCool c s).rfQualAt = s.rfQualAt := rfl
@[simp] theorem setCool_reads (c : Cooling) (s : State) : (setCool c s).reads = s.reads := rfl
@[simp] theorem setCool_traces (c : Cooling) (s : State) : (setCool c s).traces = s.traces := rfl
@[simp] theorem setCool_acqs (c : Cooling) (s : State) : (setCool c s).acqs = s.acqs := rfl
@[simp] theorem setCool_krn (c : Cooling) (s : State) : (setCool c s).krn = s.krn := rfl
@[simp] theorem setCool_krnBad (c : Cooling) (s : State) : (setCool c s).krnBad = s.krnBad := rfl
@[simp] theorem setCool_tab (c : Cooling) (s : State) : (setCool c s).tab = s.tab := rfl
@[simp] theorem setCool_tabBad (c : Cooling) (s : State) : (setCool c s).tabBad = s.tabBad := rfl
@[simp] theorem setCool_crossings (c : Cooling) (s : State) : (setCool c s).crossings = s.crossings := rfl
@[simp] theorem setCool_sets (c : Cooling) (s : State) : (setCool c s).sets = s.sets := rfl
@[simp] theorem setCool_stream (c : Cooling) (s : State) : (setCool c s).stream = s.stream := rfl
@[simp] theorem setCool_incs (c : Cooling) (s : State) : (setCool c s).incs = s.incs := rfl
@[simp] theorem setCool_trig (c : Cooling) (s : State) : (setCool c s).trig = s.trig := rfl
@[simp] theorem setCool_board (c : Cooling) (s : State) : (setCool c s).board = s.board := rfl
@[simp] theorem setCool_bres (c : Cooling) (s : State) : (setCool c s).bres = s.bres := rfl
@[simp] theorem setCool_vre (c : Cooling) (s : State) : (setCool c s).vre = s.vre := rfl
@[simp] theorem setCool_clk (c : Cooling) (s : State) : (setCool c s).clk = s.clk := rfl
@[simp] theorem setCool_ptp (c : Cooling) (s : State) : (setCool c s).ptp = s.ptp := rfl
@[simp] theorem setCool_lanes (c : Cooling) (s : State) : (setCool c s).lanes = s.lanes := rfl
@[simp] theorem setCool_hl (c : Cooling) (s : State) : (setCool c s).hl = s.hl := rfl
@[simp] theorem setCool_vports (c : Cooling) (s : State) : (setCool c s).vports = s.vports := rfl
@[simp] theorem setCool_maus (c : Cooling) (s : State) : (setCool c s).maus = s.maus := rfl
@[simp] theorem setCool_therms (c : Cooling) (s : State) : (setCool c s).therms = s.therms := rfl
@[simp] theorem rd_setCool (c : Cooling) (s : State) (r : Reg) (j : Nat) : rd (setCool c s) r j = rd s r j := rfl
@[simp] theorem rn_setCool (c : Cooling) (s : State) (r : Reg) (j : Nat) : rn (setCool c s) r j = rn s r j := rfl

/-! ### setTrig -/

@[simp] theorem setTrig_pending (t : Trig) (s : State) : (setTrig t s).pending = s.pending := rfl
@[simp] theorem setTrig_elapsed (t : Trig) (s : State) : (setTrig t s).elapsed = s.elapsed := rfl
@[simp] theorem setTrig_free (t : Trig) (s : State) : (setTrig t s).free = s.free := rfl
@[simp] theorem setTrig_tml (t : Trig) (s : State) : (setTrig t s).tml = s.tml := rfl
@[simp] theorem setTrig_tmlOn (t : Trig) (s : State) : (setTrig t s).tmlOn = s.tmlOn := rfl
@[simp] theorem setTrig_regs (t : Trig) (s : State) : (setTrig t s).regs = s.regs := rfl
@[simp] theorem setTrig_queues (t : Trig) (s : State) : (setTrig t s).queues = s.queues := rfl
@[simp] theorem setTrig_poolLost (t : Trig) (s : State) : (setTrig t s).poolLost = s.poolLost := rfl
@[simp] theorem setTrig_fifos (t : Trig) (s : State) : (setTrig t s).fifos = s.fifos := rfl
@[simp] theorem setTrig_engs (t : Trig) (s : State) : (setTrig t s).engs = s.engs := rfl
@[simp] theorem setTrig_areas (t : Trig) (s : State) : (setTrig t s).areas = s.areas := rfl
@[simp] theorem setTrig_run (t : Trig) (s : State) : (setTrig t s).run = s.run := rfl
@[simp] theorem setTrig_image (t : Trig) (s : State) : (setTrig t s).image = s.image := rfl
@[simp] theorem setTrig_patches (t : Trig) (s : State) : (setTrig t s).patches = s.patches := rfl
@[simp] theorem setTrig_channels (t : Trig) (s : State) : (setTrig t s).channels = s.channels := rfl
@[simp] theorem setTrig_deliveries (t : Trig) (s : State) : (setTrig t s).deliveries = s.deliveries := rfl
@[simp] theorem setTrig_timers (t : Trig) (s : State) : (setTrig t s).timers = s.timers := rfl
@[simp] theorem setTrig_markers (t : Trig) (s : State) : (setTrig t s).markers = s.markers := rfl
@[simp] theorem setTrig_path0 (t : Trig) (s : State) : (setTrig t s).path0 = s.path0 := rfl
@[simp] theorem setTrig_path1 (t : Trig) (s : State) : (setTrig t s).path1 = s.path1 := rfl
@[simp] theorem setTrig_lastPath (t : Trig) (s : State) : (setTrig t s).lastPath = s.lastPath := rfl
@[simp] theorem setTrig_nvm (t : Trig) (s : State) : (setTrig t s).nvm = s.nvm := rfl
@[simp] theorem setTrig_boot (t : Trig) (s : State) : (setTrig t s).boot = s.boot := rfl
@[simp] theorem setTrig_flog (t : Trig) (s : State) : (setTrig t s).flog = s.flog := rfl
@[simp] theorem setTrig_scrubAt (t : Trig) (s : State) : (setTrig t s).scrubAt = s.scrubAt := rfl
@[simp] theorem setTrig_dram (t : Trig) (s : State) : (setTrig t s).dram = s.dram := rfl
@[simp] theorem setTrig_segs (t : Trig) (s : State) : (setTrig t s).segs = s.segs := rfl
@[simp] theorem setTrig_segMem (t : Trig) (s : State) : (setTrig t s).segMem = s.segMem := rfl
@[simp] theorem setTrig_segBad (t : Trig) (s : State) : (setTrig t s).segBad = s.segBad := rfl
@[simp] theorem setTrig_refills (t : Trig) (s : State) : (setTrig t s).refills = s.refills := rfl
@[simp] theorem setTrig_slices (t : Trig) (s : State) : (setTrig t s).slices = s.slices := rfl
@[simp] theorem setTrig_frames (t : Trig) (s : State) : (setTrig t s).frames = s.frames := rfl
@[simp] theorem setTrig_tapBad (t : Trig) (s : State) : (setTrig t s).tapBad = s.tapBad := rfl
@[simp] theorem setTrig_fluxes (t : Trig) (s : State) : (setTrig t s).fluxes = s.fluxes := rfl
@[simp] theorem setTrig_biases (t : Trig) (s : State) : (setTrig t s).biases = s.biases := rfl
@[simp] theorem setTrig_biasAt (t : Trig) (s : State) : (setTrig t s).biasAt = s.biasAt := rfl
@[simp] theorem setTrig_regions (t : Trig) (s : State) : (setTrig t s).regions = s.regions := rfl
@[simp] theorem setTrig_bdQual (t : Trig) (s : State) : (setTrig t s).bdQual = s.bdQual := rfl
@[simp] theorem setTrig_rfQualAt (t : Trig) (s : State) : (setTrig t s).rfQualAt = s.rfQualAt := rfl
@[simp] theorem setTrig_reads (t : Trig) (s : State) : (setTrig t s).reads = s.reads := rfl
@[simp] theorem setTrig_traces (t : Trig) (s : State) : (setTrig t s).traces = s.traces := rfl
@[simp] theorem setTrig_acqs (t : Trig) (s : State) : (setTrig t s).acqs = s.acqs := rfl
@[simp] theorem setTrig_krn (t : Trig) (s : State) : (setTrig t s).krn = s.krn := rfl
@[simp] theorem setTrig_krnBad (t : Trig) (s : State) : (setTrig t s).krnBad = s.krnBad := rfl
@[simp] theorem setTrig_tab (t : Trig) (s : State) : (setTrig t s).tab = s.tab := rfl
@[simp] theorem setTrig_tabBad (t : Trig) (s : State) : (setTrig t s).tabBad = s.tabBad := rfl
@[simp] theorem setTrig_crossings (t : Trig) (s : State) : (setTrig t s).crossings = s.crossings := rfl
@[simp] theorem setTrig_sets (t : Trig) (s : State) : (setTrig t s).sets = s.sets := rfl
@[simp] theorem setTrig_stream (t : Trig) (s : State) : (setTrig t s).stream = s.stream := rfl
@[simp] theorem setTrig_incs (t : Trig) (s : State) : (setTrig t s).incs = s.incs := rfl
@[simp] theorem setTrig_board (t : Trig) (s : State) : (setTrig t s).board = s.board := rfl
@[simp] theorem setTrig_bres (t : Trig) (s : State) : (setTrig t s).bres = s.bres := rfl
@[simp] theorem setTrig_vre (t : Trig) (s : State) : (setTrig t s).vre = s.vre := rfl
@[simp] theorem setTrig_clk (t : Trig) (s : State) : (setTrig t s).clk = s.clk := rfl
@[simp] theorem setTrig_ptp (t : Trig) (s : State) : (setTrig t s).ptp = s.ptp := rfl
@[simp] theorem setTrig_lanes (t : Trig) (s : State) : (setTrig t s).lanes = s.lanes := rfl
@[simp] theorem setTrig_hl (t : Trig) (s : State) : (setTrig t s).hl = s.hl := rfl
@[simp] theorem setTrig_vports (t : Trig) (s : State) : (setTrig t s).vports = s.vports := rfl
@[simp] theorem setTrig_maus (t : Trig) (s : State) : (setTrig t s).maus = s.maus := rfl
@[simp] theorem setTrig_therms (t : Trig) (s : State) : (setTrig t s).therms = s.therms := rfl
@[simp] theorem setTrig_cool (t : Trig) (s : State) : (setTrig t s).cool = s.cool := rfl
@[simp] theorem rd_setTrig (t : Trig) (s : State) (r : Reg) (j : Nat) : rd (setTrig t s) r j = rd s r j := rfl
@[simp] theorem rn_setTrig (t : Trig) (s : State) (r : Reg) (j : Nat) : rn (setTrig t s) r j = rn s r j := rfl

/-! ### setPath -/

@[simp] theorem setPath_pending (p : Path) (v : PathState) (s : State) : (setPath p v s).pending = s.pending := by unfold setPath; split <;> rfl
@[simp] theorem setPath_elapsed (p : Path) (v : PathState) (s : State) : (setPath p v s).elapsed = s.elapsed := by unfold setPath; split <;> rfl
@[simp] theorem setPath_free (p : Path) (v : PathState) (s : State) : (setPath p v s).free = s.free := by unfold setPath; split <;> rfl
@[simp] theorem setPath_tml (p : Path) (v : PathState) (s : State) : (setPath p v s).tml = s.tml := by unfold setPath; split <;> rfl
@[simp] theorem setPath_tmlOn (p : Path) (v : PathState) (s : State) : (setPath p v s).tmlOn = s.tmlOn := by unfold setPath; split <;> rfl
@[simp] theorem setPath_regs (p : Path) (v : PathState) (s : State) : (setPath p v s).regs = s.regs := by unfold setPath; split <;> rfl
@[simp] theorem setPath_queues (p : Path) (v : PathState) (s : State) : (setPath p v s).queues = s.queues := by unfold setPath; split <;> rfl
@[simp] theorem setPath_poolLost (p : Path) (v : PathState) (s : State) : (setPath p v s).poolLost = s.poolLost := by unfold setPath; split <;> rfl
@[simp] theorem setPath_fifos (p : Path) (v : PathState) (s : State) : (setPath p v s).fifos = s.fifos := by unfold setPath; split <;> rfl
@[simp] theorem setPath_engs (p : Path) (v : PathState) (s : State) : (setPath p v s).engs = s.engs := by unfold setPath; split <;> rfl
@[simp] theorem setPath_areas (p : Path) (v : PathState) (s : State) : (setPath p v s).areas = s.areas := by unfold setPath; split <;> rfl
@[simp] theorem setPath_run (p : Path) (v : PathState) (s : State) : (setPath p v s).run = s.run := by unfold setPath; split <;> rfl
@[simp] theorem setPath_image (p : Path) (v : PathState) (s : State) : (setPath p v s).image = s.image := by unfold setPath; split <;> rfl
@[simp] theorem setPath_patches (p : Path) (v : PathState) (s : State) : (setPath p v s).patches = s.patches := by unfold setPath; split <;> rfl
@[simp] theorem setPath_channels (p : Path) (v : PathState) (s : State) : (setPath p v s).channels = s.channels := by unfold setPath; split <;> rfl
@[simp] theorem setPath_deliveries (p : Path) (v : PathState) (s : State) : (setPath p v s).deliveries = s.deliveries := by unfold setPath; split <;> rfl
@[simp] theorem setPath_timers (p : Path) (v : PathState) (s : State) : (setPath p v s).timers = s.timers := by unfold setPath; split <;> rfl
@[simp] theorem setPath_markers (p : Path) (v : PathState) (s : State) : (setPath p v s).markers = s.markers := by unfold setPath; split <;> rfl
@[simp] theorem setPath_lastPath (p : Path) (v : PathState) (s : State) : (setPath p v s).lastPath = s.lastPath := by unfold setPath; split <;> rfl
@[simp] theorem setPath_nvm (p : Path) (v : PathState) (s : State) : (setPath p v s).nvm = s.nvm := by unfold setPath; split <;> rfl
@[simp] theorem setPath_boot (p : Path) (v : PathState) (s : State) : (setPath p v s).boot = s.boot := by unfold setPath; split <;> rfl
@[simp] theorem setPath_flog (p : Path) (v : PathState) (s : State) : (setPath p v s).flog = s.flog := by unfold setPath; split <;> rfl
@[simp] theorem setPath_scrubAt (p : Path) (v : PathState) (s : State) : (setPath p v s).scrubAt = s.scrubAt := by unfold setPath; split <;> rfl
@[simp] theorem setPath_dram (p : Path) (v : PathState) (s : State) : (setPath p v s).dram = s.dram := by unfold setPath; split <;> rfl
@[simp] theorem setPath_segs (p : Path) (v : PathState) (s : State) : (setPath p v s).segs = s.segs := by unfold setPath; split <;> rfl
@[simp] theorem setPath_segMem (p : Path) (v : PathState) (s : State) : (setPath p v s).segMem = s.segMem := by unfold setPath; split <;> rfl
@[simp] theorem setPath_segBad (p : Path) (v : PathState) (s : State) : (setPath p v s).segBad = s.segBad := by unfold setPath; split <;> rfl
@[simp] theorem setPath_refills (p : Path) (v : PathState) (s : State) : (setPath p v s).refills = s.refills := by unfold setPath; split <;> rfl
@[simp] theorem setPath_slices (p : Path) (v : PathState) (s : State) : (setPath p v s).slices = s.slices := by unfold setPath; split <;> rfl
@[simp] theorem setPath_frames (p : Path) (v : PathState) (s : State) : (setPath p v s).frames = s.frames := by unfold setPath; split <;> rfl
@[simp] theorem setPath_tapBad (p : Path) (v : PathState) (s : State) : (setPath p v s).tapBad = s.tapBad := by unfold setPath; split <;> rfl
@[simp] theorem setPath_fluxes (p : Path) (v : PathState) (s : State) : (setPath p v s).fluxes = s.fluxes := by unfold setPath; split <;> rfl
@[simp] theorem setPath_biases (p : Path) (v : PathState) (s : State) : (setPath p v s).biases = s.biases := by unfold setPath; split <;> rfl
@[simp] theorem setPath_biasAt (p : Path) (v : PathState) (s : State) : (setPath p v s).biasAt = s.biasAt := by unfold setPath; split <;> rfl
@[simp] theorem setPath_regions (p : Path) (v : PathState) (s : State) : (setPath p v s).regions = s.regions := by unfold setPath; split <;> rfl
@[simp] theorem setPath_bdQual (p : Path) (v : PathState) (s : State) : (setPath p v s).bdQual = s.bdQual := by unfold setPath; split <;> rfl
@[simp] theorem setPath_rfQualAt (p : Path) (v : PathState) (s : State) : (setPath p v s).rfQualAt = s.rfQualAt := by unfold setPath; split <;> rfl
@[simp] theorem setPath_reads (p : Path) (v : PathState) (s : State) : (setPath p v s).reads = s.reads := by unfold setPath; split <;> rfl
@[simp] theorem setPath_traces (p : Path) (v : PathState) (s : State) : (setPath p v s).traces = s.traces := by unfold setPath; split <;> rfl
@[simp] theorem setPath_acqs (p : Path) (v : PathState) (s : State) : (setPath p v s).acqs = s.acqs := by unfold setPath; split <;> rfl
@[simp] theorem setPath_krn (p : Path) (v : PathState) (s : State) : (setPath p v s).krn = s.krn := by unfold setPath; split <;> rfl
@[simp] theorem setPath_krnBad (p : Path) (v : PathState) (s : State) : (setPath p v s).krnBad = s.krnBad := by unfold setPath; split <;> rfl
@[simp] theorem setPath_tab (p : Path) (v : PathState) (s : State) : (setPath p v s).tab = s.tab := by unfold setPath; split <;> rfl
@[simp] theorem setPath_tabBad (p : Path) (v : PathState) (s : State) : (setPath p v s).tabBad = s.tabBad := by unfold setPath; split <;> rfl
@[simp] theorem setPath_crossings (p : Path) (v : PathState) (s : State) : (setPath p v s).crossings = s.crossings := by unfold setPath; split <;> rfl
@[simp] theorem setPath_sets (p : Path) (v : PathState) (s : State) : (setPath p v s).sets = s.sets := by unfold setPath; split <;> rfl
@[simp] theorem setPath_stream (p : Path) (v : PathState) (s : State) : (setPath p v s).stream = s.stream := by unfold setPath; split <;> rfl
@[simp] theorem setPath_incs (p : Path) (v : PathState) (s : State) : (setPath p v s).incs = s.incs := by unfold setPath; split <;> rfl
@[simp] theorem setPath_trig (p : Path) (v : PathState) (s : State) : (setPath p v s).trig = s.trig := by unfold setPath; split <;> rfl
@[simp] theorem setPath_board (p : Path) (v : PathState) (s : State) : (setPath p v s).board = s.board := by unfold setPath; split <;> rfl
@[simp] theorem setPath_bres (p : Path) (v : PathState) (s : State) : (setPath p v s).bres = s.bres := by unfold setPath; split <;> rfl
@[simp] theorem setPath_vre (p : Path) (v : PathState) (s : State) : (setPath p v s).vre = s.vre := by unfold setPath; split <;> rfl
@[simp] theorem setPath_clk (p : Path) (v : PathState) (s : State) : (setPath p v s).clk = s.clk := by unfold setPath; split <;> rfl
@[simp] theorem setPath_ptp (p : Path) (v : PathState) (s : State) : (setPath p v s).ptp = s.ptp := by unfold setPath; split <;> rfl
@[simp] theorem setPath_lanes (p : Path) (v : PathState) (s : State) : (setPath p v s).lanes = s.lanes := by unfold setPath; split <;> rfl
@[simp] theorem setPath_hl (p : Path) (v : PathState) (s : State) : (setPath p v s).hl = s.hl := by unfold setPath; split <;> rfl
@[simp] theorem setPath_vports (p : Path) (v : PathState) (s : State) : (setPath p v s).vports = s.vports := by unfold setPath; split <;> rfl
@[simp] theorem setPath_maus (p : Path) (v : PathState) (s : State) : (setPath p v s).maus = s.maus := by unfold setPath; split <;> rfl
@[simp] theorem setPath_therms (p : Path) (v : PathState) (s : State) : (setPath p v s).therms = s.therms := by unfold setPath; split <;> rfl
@[simp] theorem setPath_cool (p : Path) (v : PathState) (s : State) : (setPath p v s).cool = s.cool := by unfold setPath; split <;> rfl
@[simp] theorem rd_setPath (p : Path) (v : PathState) (s : State) (r : Reg) (j : Nat) : rd (setPath p v s) r j = rd s r j := by
  simp [rd]
@[simp] theorem rn_setPath (p : Path) (v : PathState) (s : State) (r : Reg) (j : Nat) : rn (setPath p v s) r j = rn s r j := by
  simp [rn]
@[simp] theorem pathOf_setPath (p : Path) (v : PathState) (s : State) : pathOf (setPath p v s) p = v := by
  unfold pathOf setPath; split <;> rfl

end Sys2Proof.Machine
end

