-- ==== Sys2Proof/Laws/Store.lean ====
section
/-! SUPPORT. What the operations of sparse storage do: a read after a write gives the value written, a write leaves every
other key alone, and every operation keeps the canonical form. -/

namespace Sys2Proof.Machine

-- One proof at a time: proofs elaborated side by side take more memory than the check grants.
set_option Elab.async false

/-- Every key of a storage is above a bound. -/
def mabove {V : Type} (k : Nat) (m : SMap V) : Prop := ∀ e ∈ m, k < e.1

theorem mrising_cons {V : Type} (e : Nat × V) (m : SMap V) : mrising (e :: m) = true ↔ mabove e.1 m ∧ mrising m = true := by
  induction m generalizing e with
  | nil => simp [mrising, mabove]
  | cons a m ih =>
    simp only [mrising, Bool.and_eq_true, decide_eq_true_eq, mabove, List.mem_cons, forall_eq_or_imp]
    constructor
    · rintro ⟨h, hm⟩
      exact ⟨⟨h, fun x hx => Nat.lt_trans h (((ih a).1 hm).1 x hx)⟩, hm⟩
    · rintro ⟨⟨h, _⟩, hm⟩
      exact ⟨h, hm⟩

theorem mrising_tail {V : Type} {e : Nat × V} {m : SMap V} (h : mrising (e :: m) = true) : mrising m = true :=
  ((mrising_cons e m).1 h).2

theorem mem_mdel {V : Type} {m : SMap V} {k : Nat} {x : Nat × V} : x ∈ mdel m k ↔ x ∈ m ∧ x.1 ≠ k := by
  induction m with
  | nil => simp [mdel]
  | cons e m ih =>
    simp only [mdel]
    split
    · next h =>
      simp only [ih, List.mem_cons]
      constructor
      · rintro ⟨a, b⟩; exact ⟨Or.inr a, b⟩
      · rintro ⟨rfl | a, b⟩
        · exact absurd h b
        · exact ⟨a, b⟩
    · next h =>
      simp only [List.mem_cons, ih]
      constructor
      · rintro (rfl | ⟨a, b⟩)
        · exact ⟨Or.inl rfl, h⟩
        · exact ⟨Or.inr a, b⟩
      · rintro ⟨rfl | a, b⟩
        · exact Or.inl rfl
        · exact Or.inr ⟨a, b⟩

theorem mem_mins {V : Type} {m : SMap V} {k : Nat} {v : V} {x : Nat × V} : x ∈ mins k v m ↔ x = (k, v) ∨ x ∈ m := by
  induction m with
  | nil => simp [mins]
  | cons e m ih =>
    simp only [mins]
    split
    · simp
    · simp only [List.mem_cons, ih]
      constructor <;> rintro (h | h | h) <;> simp [h]

theorem mrising_mdel {V : Type} {m : SMap V} (k : Nat) (h : mrising m = true) : mrising (mdel m k) = true := by
  induction m with
  | nil => rfl
  | cons e m ih =>
    simp only [mdel]
    have hm := (mrising_cons e m).1 h
    split
    · exact ih hm.2
    · exact (mrising_cons _ _).2 ⟨fun x hx => hm.1 x (mem_mdel.1 hx).1, ih hm.2⟩

theorem mrising_mins {V : Type} {m : SMap V} {k : Nat} (v : V) (h : mrising m = true) (hk : ∀ e ∈ m, e.1 ≠ k) :
    mrising (mins k v m) = true := by
  induction m with
  | nil => rfl
  | cons e m ih =>
    have hm := (mrising_cons e m).1 h
    simp only [mins]
    split
    · next hlt =>
      refine (mrising_cons _ _).2 ⟨?_, h⟩
      intro x hx
      rcases List.mem_cons.1 hx with rfl | hx
      · exact hlt
      · exact Nat.lt_trans hlt (hm.1 x hx)
    · next hge =>
      refine (mrising_cons _ _).2 ⟨?_, ih hm.2 fun x hx => hk x (List.mem_cons_of_mem _ hx)⟩
      intro x hx
      rcases mem_mins.1 hx with rfl | hx
      · have := hk e (List.mem_cons_self ..)
        show e.1 < k
        omega
      · exact hm.1 x hx

/-- A write keeps the keys rising. -/
theorem mrising_mput {V : Type} [DecidableEq V] {d : V} {m : SMap V} (k : Nat) (v : V) (h : mrising m = true) :
    mrising (mput d m k v) = true := by
  unfold mput
  split
  · exact mrising_mdel k h
  · exact mrising_mins v (mrising_mdel k h) fun e he => (mem_mdel.1 he).2

theorem mwf_iff {V : Type} [DecidableEq V] {d : V} {m : SMap V} : mwf d m = true ↔ mrising m = true ∧ ∀ e ∈ m, e.2 ≠ d := by
  simp [mwf]

/-- A write keeps the canonical form. -/
theorem mwf_mput {V : Type} [DecidableEq V] {d : V} {m : SMap V} (k : Nat) (v : V) (h : mwf d m = true) :
    mwf d (mput d m k v) = true := by
  have hm := mwf_iff.1 h
  refine mwf_iff.2 ⟨mrising_mput k v hm.1, ?_⟩
  intro e he
  unfold mput at he
  split at he
  · exact hm.2 e (mem_mdel.1 he).1
  · next hv =>
    rcases mem_mins.1 he with rfl | he
    · exact hv
    · exact hm.2 e (mem_mdel.1 he).1

theorem mrising_filter {V : Type} {m : SMap V} (p : Nat × V → Bool) (h : mrising m = true) : mrising (m.filter p) = true := by
  induction m with
  | nil => rfl
  | cons e m ih =>
    have hm := (mrising_cons e m).1 h
    simp only [List.filter_cons]
    split
    · exact (mrising_cons _ _).2 ⟨fun x hx => hm.1 x (List.mem_filter.1 hx).1, ih hm.2⟩
    · exact ih hm.2

/-- Dropping entries keeps the canonical form. -/
theorem mwf_filter {V : Type} [DecidableEq V] {d : V} {m : SMap V} (p : Nat × V → Bool) (h : mwf d m = true) :
    mwf d (m.filter p) = true := by
  have hm := mwf_iff.1 h
  exact mwf_iff.2 ⟨mrising_filter p hm.1, fun e he => hm.2 e (List.mem_filter.1 he).1⟩

theorem mrising_map {V W : Type} {m : SMap V} (f : Nat → V → W) (h : mrising m = true) :
    mrising (m.map fun e => (e.1, f e.1 e.2)) = true := by
  induction m with
  | nil => rfl
  | cons e m ih =>
    have hm := (mrising_cons e m).1 h
    refine (mrising_cons _ _).2 ⟨?_, ih hm.2⟩
    intro x hx
    obtain ⟨y, hy, rfl⟩ := List.mem_map.1 hx
    exact hm.1 y hy

/-- Changing every value keeps the canonical form. -/
theorem mwf_mmap {V : Type} [DecidableEq V] {d : V} {m : SMap V} (f : Nat → V → V) (h : mwf d m = true) :
    mwf d (mmap d f m) = true := by
  refine mwf_iff.2 ⟨mrising_filter _ (mrising_map f (mwf_iff.1 h).1), ?_⟩
  intro e he
  simpa using (List.mem_filter.1 he).2

theorem mget_mdel {V : Type} (d : V) (m : SMap V) (k j : Nat) : mget d (mdel m k) j = if j = k then d else mget d m j := by
  induction m with
  | nil => simp [mdel, mget]
  | cons e m ih =>
    simp only [mdel]
    split
    · next h =>
      rw [ih]
      subst h
      split
      · rfl
      · next hne => simp [mget, Ne.symm hne]
    · next h =>
      simp only [mget, ih]
      split
      · next he => subst he; simp [h]
      · rfl

theorem mget_mins {V : Type} (d : V) (m : SMap V) (k j : Nat) (v : V) (hk : ∀ e ∈ m, e.1 ≠ k) :
    mget d (mins k v m) j = if j = k then v else mget d m j := by
  induction m with
  | nil =>
    simp only [mins, mget]
    by_cases h : j = k
    · simp [h]
    · simp [h, Ne.symm h]
  | cons e m ih =>
    have hm : ∀ x ∈ m, x.1 ≠ k := fun x hx => hk x (List.mem_cons_of_mem _ hx)
    have he : e.1 ≠ k := hk e (List.mem_cons_self ..)
    simp only [mins]
    split
    · simp only [mget]
      by_cases h : j = k
      · simp [h]
      · simp [h, Ne.symm h]
    · simp only [mget, ih hm]
      by_cases h : e.1 = j
      · have : j ≠ k := fun hj => he (h.trans hj)
        simp [h, this]
      · simp [h]

/-- A read after a write: the value written, and every other key as before. -/
theorem mget_mput {V : Type} [DecidableEq V] (d : V) (m : SMap V) (k j : Nat) (v : V) :
    mget d (mput d m k v) j = if j = k then v else mget d m j := by
  unfold mput
  split
  · next h => rw [mget_mdel, h]
  · rw [mget_mins _ _ _ _ _ fun e he => (mem_mdel.1 he).2, mget_mdel]
    by_cases h : j = k <;> simp [h]

@[simp] theorem mget_mput_same {V : Type} [DecidableEq V] (d : V) (m : SMap V) (k : Nat) (v : V) :
    mget d (mput d m k v) k = v := by simp [mget_mput]

theorem mget_mput_other {V : Type} [DecidableEq V] (d : V) (m : SMap V) {k j : Nat} (v : V) (h : j ≠ k) :
    mget d (mput d m k v) j = mget d m j := by simp [mget_mput, h]

/-- A write of another default's storage: what a key reads as with a default of its own. -/
theorem mget_mput_of_ne {V : Type} [DecidableEq V] (d d' : V) (m : SMap V) {k j : Nat} (v : V) (h : j ≠ k) :
    mget d (mput d' m k v) j = mget d m j := by
  unfold mput
  split
  · rw [mget_mdel]; simp [h]
  · rw [mget_mins _ _ _ _ _ fun e he => (mem_mdel.1 he).2, mget_mdel]; simp [h]

end Sys2Proof.Machine
end

