-- ==== Sys2Proof/Laws/Ops.lean ====
section
/-! SUPPORT. Stored values of the dictionary: a value read after a write, a counter, a flag, and what leaves it alone. -/

namespace Sys2Proof.Machine

-- One proof at a time: proofs elaborated side by side take more memory than the check grants.
set_option Elab.async false

theorem Reg.ctorIdx_lt (r : Reg) : r.ctorIdx < 1024 := by cases r <;> decide

theorem Reg.ctorIdx_inj {r q : Reg} (h : r.ctorIdx = q.ctorIdx) : r = q := by
  rw [← Reg.ofNat_ctorIdx r, ← Reg.ofNat_ctorIdx q, h]

/-- Two objects or two instances never share a key. -/
theorem key_inj {r q : Reg} {i j : Nat} (h : key r i = key q j) : r = q ∧ i = j := by
  have hr := r.ctorIdx_lt
  have hq := q.ctorIdx_lt
  simp only [key] at h
  exact ⟨Reg.ctorIdx_inj (by omega), by omega⟩

/-- A value read after a write. -/
theorem rd_wr (r q : Reg) (v : Int) (i j : Nat) (s : State) : rd (wr r v i s) q j = if q = r ∧ j = i then v else rd s q j := by
  by_cases h : key q j = key r i
  · obtain ⟨rfl, rfl⟩ := key_inj h
    simp [rd, wr]
  · have : ¬(q = r ∧ j = i) := fun e => h (by rw [e.1, e.2])
    simp only [this, if_false]
    exact mget_mput_of_ne _ _ _ _ h

@[simp] theorem rd_wr_same (r : Reg) (v : Int) (i : Nat) (s : State) : rd (wr r v i s) r i = v := by simp [rd_wr]

@[simp] theorem rd_wr_reg {r q : Reg} (h : q ≠ r) (v : Int) (i j : Nat) (s : State) : rd (wr r v i s) q j = rd s q j := by
  simp [rd_wr, h]

theorem rd_wr_inst (r : Reg) {i j : Nat} (h : j ≠ i) (v : Int) (s : State) : rd (wr r v i s) r j = rd s r j := by
  simp [rd_wr, h]

theorem rn_wr (r q : Reg) (v : Int) (i j : Nat) (s : State) :
    rn (wr r v i s) q j = if q = r ∧ j = i then v.toNat else rn s q j := by
  simp only [rn, rd_wr]; split <;> rfl

@[simp] theorem rn_wr_same (r : Reg) (v : Int) (i : Nat) (s : State) : rn (wr r v i s) r i = v.toNat := by simp [rn]

@[simp] theorem rn_wr_reg {r q : Reg} (h : q ≠ r) (v : Int) (i j : Nat) (s : State) : rn (wr r v i s) q j = rn s q j := by
  simp [rn, h]

theorem rn_wr_inst (r : Reg) {i j : Nat} (h : j ≠ i) (v : Int) (s : State) : rn (wr r v i s) r j = rn s r j := by
  simp [rn, rd_wr_inst r h]

theorem satN_eq_min (hi n : Nat) : satN hi n = min hi n := by
  unfold satN; split <;> omega

/-- A counter after an addition that saturates at `top` (R8). -/
@[simp] theorem rn_incTo_same (top : Nat) (r : Reg) (n i : Nat) (s : State) :
    rn (incTo top r n i s) r i = min top (rn s r i + n) := by
  unfold incTo
  rw [rn_wr_same, satN_eq_min, Int.toNat_natCast]

/-- A counter after an increment: one more, and no more than 0xFFFFFFFF (R8). -/
@[simp] theorem rn_inc_same (r : Reg) (i : Nat) (s : State) : rn (inc r i s) r i = min 0xFFFFFFFF (rn s r i + 1) :=
  rn_incTo_same _ r 1 i s

@[simp] theorem rn_incBy_same (r : Reg) (n i : Nat) (s : State) : rn (incBy r n i s) r i = min 0xFFFFFFFF (rn s r i + n) :=
  rn_incTo_same _ r n i s

@[simp] theorem rd_inc_reg {r q : Reg} (h : q ≠ r) (i j : Nat) (s : State) : rd (inc r i s) q j = rd s q j := by
  simp [inc, incBy, incTo, h]
@[simp] theorem rn_inc_reg {r q : Reg} (h : q ≠ r) (i j : Nat) (s : State) : rn (inc r i s) q j = rn s q j := by
  simp [rn, h]
@[simp] theorem rd_incBy_reg {r q : Reg} (h : q ≠ r) (n i j : Nat) (s : State) : rd (incBy r n i s) q j = rd s q j := by
  simp [incBy, incTo, h]
@[simp] theorem rn_incBy_reg {r q : Reg} (h : q ≠ r) (n i j : Nat) (s : State) : rn (incBy r n i s) q j = rn s q j := by
  simp [rn, h]
@[simp] theorem rd_incTo_reg {r q : Reg} (h : q ≠ r) (top n i j : Nat) (s : State) : rd (incTo top r n i s) q j = rd s q j := by
  simp [incTo, h]
@[simp] theorem rn_incTo_reg {r q : Reg} (h : q ≠ r) (top n i j : Nat) (s : State) : rn (incTo top r n i s) q j = rn s q j := by
  simp [rn, h]

/-- A sticky flag once it is set (R9). -/
@[simp] theorem rd_flag_same (r : Reg) (i : Nat) (s : State) : rd (flag r i s) r i = 1 := by simp [flag]
@[simp] theorem rn_flag_same (r : Reg) (i : Nat) (s : State) : rn (flag r i s) r i = 1 := by simp [flag]
@[simp] theorem rd_flag_reg {r q : Reg} (h : q ≠ r) (i j : Nat) (s : State) : rd (flag r i s) q j = rd s q j := by simp [flag, h]
@[simp] theorem rn_flag_reg {r q : Reg} (h : q ≠ r) (i j : Nat) (s : State) : rn (flag r i s) q j = rn s q j := by simp [rn, h]

@[simp] theorem rd_wrBit_reg {r q : Reg} (h : q ≠ r) (b : Nat) (v : Bool) (i j : Nat) (s : State) :
    rd (wrBit r b v i s) q j = rd s q j := by simp [wrBit, h]
@[simp] theorem rn_wrBit_reg {r q : Reg} (h : q ≠ r) (b : Nat) (v : Bool) (i j : Nat) (s : State) :
    rn (wrBit r b v i s) q j = rn s q j := by simp [rn, h]

@[simp] theorem rd_peak_reg {r q : Reg} (h : q ≠ r) (v : Int) (i j : Nat) (s : State) : rd (peak r v i s) q j = rd s q j := by
  unfold peak; split <;> simp [h]
@[simp] theorem rn_peak_reg {r q : Reg} (h : q ≠ r) (v : Int) (i j : Nat) (s : State) : rn (peak r v i s) q j = rn s q j := by
  simp [rn, h]
@[simp] theorem rd_low_reg {r q : Reg} (h : q ≠ r) (v : Int) (i j : Nat) (s : State) : rd (low r v i s) q j = rd s q j := by
  unfold low; split <;> simp [h]
@[simp] theorem rn_low_reg {r q : Reg} (h : q ≠ r) (v : Int) (i j : Nat) (s : State) : rn (low r v i s) q j = rn s q j := by
  simp [rn, h]

/-- A peak-level object after a level: the larger of the two (R9). -/
@[simp] theorem rd_peak_same (r : Reg) (v : Int) (i : Nat) (s : State) : rd (peak r v i s) r i = max (rd s r i) v := by
  unfold peak
  split
  · rw [rd_wr_same]; omega
  · omega

/-- A low-water object after a level: the smaller of the two (R60). -/
@[simp] theorem rd_low_same (r : Reg) (v : Int) (i : Nat) (s : State) : rd (low r v i s) r i = min (rd s r i) v := by
  unfold low
  split
  · rw [rd_wr_same]; omega
  · omega

/-! ### Parts of the state by instance -/

@[simp] theorem qget_qset (q : Nat) (v : Queue) (s : State) : qget (qset q v s) q = v := by simp [qget, qset]
theorem qget_qset_other {q p : Nat} (h : p ≠ q) (v : Queue) (s : State) : qget (qset q v s) p = qget s p := by
  simp [qget, qset, mget_mput, h]
@[simp] theorem fget_fset (f : Nat) (v : Fifo) (s : State) : fget (fset f v s) f = v := by simp [fget, fset]
theorem fget_fset_other {f p : Nat} (h : p ≠ f) (v : Fifo) (s : State) : fget (fset f v s) p = fget s p := by
  simp [fget, fset, mget_mput, h]
@[simp] theorem eget_eset (e : Nat) (v : Engine) (s : State) : eget (eset e v s) e = v := by simp [eget, eset]
theorem eget_eset_other {e p : Nat} (h : p ≠ e) (v : Engine) (s : State) : eget (eset e v s) p = eget s p := by
  simp [eget, eset, mget_mput, h]
@[simp] theorem aget_aset (e : Nat) (v : Area) (s : State) : aget (aset e v s) e = v := by simp [aget, aset]
@[simp] theorem chget_chset (c : Nat) (v : Channel) (s : State) : chget (chset c v s) c = v := by simp [chget, chset]
@[simp] theorem tget_tset (n : Nat) (v : Timer) (s : State) : tget (tset n v s) n = v := by simp [tget, tset]
@[simp] theorem mkget_mkset (c : Nat) (v : Marker) (s : State) : mkget (mkset c v s) c = v := by simp [mkget, mkset]
@[simp] theorem sget_sset (c k : Nat) (v : Seg) (s : State) : sget (sset c k v s) c k = v := by simp [sget, sset]
@[simp] theorem slget_slset (f : Nat) (v : Slice) (s : State) : slget (slset f v s) f = v := by simp [slget, slset]
@[simp] theorem flxget_flxset (n : Nat) (v : FluxCh) (s : State) : flxget (flxset n v s) n = v := by simp [flxget, flxset]
@[simp] theorem biaget_biaset (n : Nat) (v : BiasCh) (s : State) : biaget (biaset n v s) n = v := by simp [biaget, biaset]
@[simp] theorem rgget_rgset (g : Nat) (v : Region) (s : State) : rgget (rgset g v s) g = v := by simp [rgget, rgset]
@[simp] theorem rfget_rfset (c : Nat) (v : Refill) (s : State) : rfget (rfset c v s) c = v := by simp [rfget, rfset]

end Sys2Proof.Machine
end

