-- ==== Sys2Proof/Laws/Bits.lean ====
section
/-! SUPPORT. One bit of a number after it is set or cleared, of an object and of the number alone. -/

namespace Sys2Proof.Machine

-- One proof at a time: proofs elaborated side by side take more memory than the check grants.
set_option Elab.async false

theorem bitOf_eq_testBit (n i : Nat) : bitOf n i = n.testBit i := by
  rw [bitOf, Nat.testBit_eq_decide_div_mod_eq]

theorem testBit_setBit (n i : Nat) (b : Bool) (j : Nat) : (setBit n i b).testBit j = if j = i then b else n.testBit j := by
  have hl : n % 2 ^ i < 2 ^ i := Nat.mod_lt _ (Nat.two_pow_pos i)
  have e : setBit n i b = 2 ^ i * (2 * (n / 2 ^ (i + 1)) + b.toNat) + n % 2 ^ i := by
    unfold setBit
    simp only [Nat.pow_succ]
    rw [Nat.mul_add, ← Nat.mul_assoc, Nat.mul_comm (n / (2 ^ i * 2))]
    cases b <;> simp [Nat.mul_assoc, Nat.mul_comm 2]
  rw [e, Nat.testBit_two_pow_mul_add _ hl]
  by_cases h : j < i
  · rw [if_pos h, if_neg (by omega), Nat.testBit_mod_two_pow]
    simp [h]
  · rw [if_neg h]
    by_cases k : j = i
    · subst k
      rw [Nat.sub_self, if_pos rfl, Nat.testBit_zero]
      cases b <;> simp
    · rw [if_neg k]
      obtain ⟨m, rfl⟩ : ∃ m, j = i + 1 + m := ⟨j - i - 1, by omega⟩
      rw [show i + 1 + m - i = m + 1 by omega, Nat.testBit_succ]
      have : (2 * (n / 2 ^ (i + 1)) + b.toNat) / 2 = n / 2 ^ (i + 1) := by
        cases b <;> simp; omega
      rw [this, Nat.testBit_div_two_pow, Nat.add_comm m]

@[simp] theorem bitOf_setBit_same (n i : Nat) (b : Bool) : bitOf (setBit n i b) i = b := by
  simp [bitOf_eq_testBit, testBit_setBit]

theorem bitOf_setBit (n i : Nat) (b : Bool) (j : Nat) : bitOf (setBit n i b) j = if j = i then b else bitOf n j := by
  simp [bitOf_eq_testBit, testBit_setBit]

theorem rn_wrBit (r q : Reg) (b : Nat) (v : Bool) (i j : Nat) (s : State) :
    rn (wrBit r b v i s) q j = if q = r ∧ j = i then setBit (rn s r i) b v else rn s q j := by
  simp [wrBit, rn_wr]

@[simp] theorem rn_wrBit_same (r : Reg) (b : Nat) (v : Bool) (i : Nat) (s : State) :
    rn (wrBit r b v i s) r i = setBit (rn s r i) b v := by simp [rn_wrBit]

/-- A bit of an object after one is written. -/
theorem bitOf_rn_wrBit (r q : Reg) (b c : Nat) (v : Bool) (i j : Nat) (s : State) :
    bitOf (rn (wrBit r b v i s) q j) c = if q = r ∧ j = i ∧ c = b then v else bitOf (rn s q j) c := by
  rw [rn_wrBit]
  by_cases h : q = r ∧ j = i
  · obtain ⟨rfl, rfl⟩ := h
    simp [bitOf_setBit]
  · rw [if_neg h, if_neg (fun k => h ⟨k.1, k.2.1⟩)]

end Sys2Proof.Machine
end

