-- ==== Sys2Proof/Laws/Kept.lean ====
section
/-! SUPPORT. What every operation but a step keeps: the commands that wait and the canonical form of the memories (Memory.wf). One
lemma for each operation says so, from the operations it uses. -/

namespace Sys2Proof.Machine

-- One proof at a time: proofs elaborated side by side take more memory than the check grants.
set_option Elab.async false
set_option linter.all false

/-- What every operation but the end of a command's wait keeps: the commands that wait, and the canonical form of the
memories. -/
structure Kept (s t : State) : Prop where
  pending : t.pending = s.pending
  wf : Memory.wf s = true → Memory.wf t = true

theorem Kept.refl (s : State) : Kept s s := ⟨rfl, id⟩

theorem Kept.trans {s t u : State} (h : Kept s t) (k : Kept t u) : Kept s u :=
  ⟨k.pending.trans h.pending, fun w => k.wf (h.wf w)⟩

/-- An update of other parts. -/
theorem Kept.upd {s t u : State} (h : Kept s t) (h0 : u.pending = t.pending) (h1 : u.dram.cells = t.dram.cells)
    (h2 : u.segMem = t.segMem) (h3 : u.krn = t.krn) (h4 : u.tab = t.tab) (h5 : u.queues = t.queues)
    (h6 : u.fifos = t.fifos) (h7 : u.regs = t.regs) : Kept s u :=
  ⟨h0.trans h.pending, fun w => by have := h.wf w; unfold Memory.wf at this ⊢; rw [h1, h2, h3, h4, h5, h6, h7]; exact this⟩

/-- An update of other parts, as a record update unfolds. -/
theorem Kept_mk {s x : State} {f_elapsed : Nat} {f_free : Nat} {f_tml : Nat} {f_tmlOn : Bool}
    {f_poolLost : Nat} {f_engs : SMap Engine} {f_areas : SMap Area} {f_run : RunState}
    {f_image : ImageInfo} {f_patches : SMap Patch} {f_channels : SMap Channel} {f_deliveries : List Delivery}
    {f_timers : SMap Timer} {f_markers : SMap Marker} {f_path0 : PathState} {f_path1 : PathState}
    {f_lastPath : Path} {f_nvm : Nvm} {f_boot : Boot} {f_flog : FaultLog}
    {f_scrubAt : SMap Nat} {f_dram : Dram} {f_segs : SMap Seg} {f_segBad : List Nat}
    {f_refills : SMap Refill} {f_slices : SMap Slice} {f_frames : SMap (List FrameAt)} {f_tapBad : List Nat}
    {f_fluxes : SMap FluxCh} {f_biases : SMap BiasCh} {f_biasAt : Option Nat} {f_regions : SMap Region}
    {f_bdQual : Nat} {f_rfQualAt : SMap Nat} {f_reads : SMap ReadSlice} {f_traces : SMap TraceUnit}
    {f_acqs : SMap AcqCh} {f_krnBad : List Nat} {f_tabBad : List Nat} {f_crossings : SMap (List (List Word × Nat))}
    {f_sets : SMap RecSet} {f_stream : Stream} {f_incs : SMap Nat} {f_trig : Trig}
    {f_board : SMap BCell} {f_bres : SMap Bre} {f_vre : Vre} {f_clk : Clocks}
    {f_ptp : Ptp} {f_lanes : SMap Lane} {f_hl : HostLink} {f_vports : SMap VPort}
    {f_maus : SMap Mau} {f_therms : SMap Therm} {f_cool : Cooling} (h : Kept s x) (e : f_dram.cells = x.dram.cells) :
    Kept s (State.mk x.pending f_elapsed f_free f_tml f_tmlOn x.regs x.queues f_poolLost x.fifos f_engs f_areas f_run f_image f_patches f_channels f_deliveries f_timers f_markers f_path0 f_path1 f_lastPath f_nvm f_boot f_flog f_scrubAt f_dram f_segs x.segMem f_segBad f_refills f_slices f_frames f_tapBad f_fluxes f_biases f_biasAt f_regions f_bdQual f_rfQualAt f_reads f_traces f_acqs x.krn f_krnBad x.tab f_tabBad f_crossings f_sets f_stream f_incs f_trig f_board f_bres f_vre f_clk f_ptp f_lanes f_hl f_vports f_maus f_therms f_cool) :=
  Kept.upd h rfl e rfl rfl rfl rfl rfl rfl

/-- An update of the memories too: each keeps its form. -/
theorem Kept_mk' {s x : State} {f_elapsed : Nat} {f_free : Nat} {f_tml : Nat} {f_tmlOn : Bool}
    {f_regs : SMap Int} {f_queues : SMap Queue} {f_poolLost : Nat} {f_fifos : SMap Fifo}
    {f_engs : SMap Engine} {f_areas : SMap Area} {f_run : RunState} {f_image : ImageInfo}
    {f_patches : SMap Patch} {f_channels : SMap Channel} {f_deliveries : List Delivery} {f_timers : SMap Timer}
    {f_markers : SMap Marker} {f_path0 : PathState} {f_path1 : PathState} {f_lastPath : Path}
    {f_nvm : Nvm} {f_boot : Boot} {f_flog : FaultLog} {f_scrubAt : SMap Nat}
    {f_dram : Dram} {f_segs : SMap Seg} {f_segMem : SMap Nat} {f_segBad : List Nat}
    {f_refills : SMap Refill} {f_slices : SMap Slice} {f_frames : SMap (List FrameAt)} {f_tapBad : List Nat}
    {f_fluxes : SMap FluxCh} {f_biases : SMap BiasCh} {f_biasAt : Option Nat} {f_regions : SMap Region}
    {f_bdQual : Nat} {f_rfQualAt : SMap Nat} {f_reads : SMap ReadSlice} {f_traces : SMap TraceUnit}
    {f_acqs : SMap AcqCh} {f_krn : SMap Nat} {f_krnBad : List Nat} {f_tab : SMap Nat}
    {f_tabBad : List Nat} {f_crossings : SMap (List (List Word × Nat))} {f_sets : SMap RecSet} {f_stream : Stream}
    {f_incs : SMap Nat} {f_trig : Trig} {f_board : SMap BCell} {f_bres : SMap Bre}
    {f_vre : Vre} {f_clk : Clocks} {f_ptp : Ptp} {f_lanes : SMap Lane}
    {f_hl : HostLink} {f_vports : SMap VPort} {f_maus : SMap Mau} {f_therms : SMap Therm}
    {f_cool : Cooling} (h : Kept s x)
    (e1 : mwf 0 x.dram.cells = true → mwf 0 f_dram.cells = true) (e2 : mwf 0 x.segMem = true → mwf 0 f_segMem = true)
    (e3 : mwf 0 x.krn = true → mwf 0 f_krn = true) (e4 : mwf 0 x.tab = true → mwf 0 f_tab = true)
    (e5 : mwf {} x.queues = true → mwf {} f_queues = true) (e6 : mwf {} x.fifos = true → mwf {} f_fifos = true)
    (e7 : mrising x.regs = true → mrising f_regs = true) : Kept s (State.mk x.pending f_elapsed f_free f_tml f_tmlOn f_regs f_queues f_poolLost f_fifos f_engs f_areas f_run f_image f_patches f_channels f_deliveries f_timers f_markers f_path0 f_path1 f_lastPath f_nvm f_boot f_flog f_scrubAt f_dram f_segs f_segMem f_segBad f_refills f_slices f_frames f_tapBad f_fluxes f_biases f_biasAt f_regions f_bdQual f_rfQualAt f_reads f_traces f_acqs f_krn f_krnBad f_tab f_tabBad f_crossings f_sets f_stream f_incs f_trig f_board f_bres f_vre f_clk f_ptp f_lanes f_hl f_vports f_maus f_therms f_cool) := by
  refine ⟨h.pending, fun w => ?_⟩
  have w := h.wf w
  simp only [Memory.wf, Bool.and_eq_true, and_assoc] at w ⊢
  obtain ⟨w1, w2, w3, w4, w5, w6, w7⟩ := w
  exact ⟨e1 w1, e2 w2, e3 w3, e4 w4, e5 w5, e6 w6, e7 w7⟩

/-- What an outcome keeps, where it is a next state. -/
def KeptO (s : State) : Out → Prop
  | .next u => Kept s u
  | .fault _ => True
  | .refused _ => True

/-- What an answer keeps, where it is one. -/
def KeptA (s : State) : Ans State → Prop
  | .ok u => Kept s u
  | .error _ => True

def KeptM (s : State) : Option State → Prop
  | some u => Kept s u
  | none => True

def KeptAP {α : Type} (s : State) : Ans (α × State) → Prop
  | .ok u => Kept s u.2
  | .error _ => True

def KeptMP {α : Type} (s : State) : Option (α × State) → Prop
  | some u => Kept s u.2
  | none => True

theorem KeptO_next {s u : State} (h : Kept s u) : KeptO s (.next u) := h
theorem KeptO_ite {s : State} {c : Prop} [Decidable c] {a b : Out} (h : KeptO s a) (k : KeptO s b) :
    KeptO s (if c then a else b) := by
  by_cases e : c
  · rw [if_pos e]; exact h
  · rw [if_neg e]; exact k
theorem KeptA_ok {s u : State} (h : Kept s u) : KeptA s (.ok u) := h
theorem KeptA_err {s : State} {c : Nat} : KeptA s (.error c) := True.intro
theorem KeptM_some {s u : State} (h : Kept s u) : KeptM s (some u) := h
theorem KeptM_none {s : State} : KeptM s none := True.intro
theorem KeptAP_ok {α : Type} {s u : State} {a : α} (h : Kept s u) : KeptAP s (.ok (a, u)) := h
theorem KeptAP_err {α : Type} {s : State} {c : Nat} : KeptAP (α := α) s (.error c) := True.intro
theorem KeptMP_some {α : Type} {s u : State} {a : α} (h : Kept s u) : KeptMP s (some (a, u)) := h
theorem KeptMP_none {α : Type} {s : State} : KeptMP (α := α) s none := True.intro
theorem KeptP_mk {α : Type} {s u : State} {a : α} (h : Kept s u) : Kept s (a, u).2 := h
theorem KeptO.next {s u : State} {o : Out} (h : KeptO s o) (e : o = .next u) : Kept s u := by subst e; exact h
theorem KeptA.ok {s u : State} {o : Ans State} (h : KeptA s o) (e : o = .ok u) : Kept s u := by subst e; exact h
theorem KeptM.some {s u : State} {o : Option State} (h : KeptM s o) (e : o = .some u) : Kept s u := by subst e; exact h
theorem KeptAP.ok {α : Type} {s u : State} {a : α} {o : Ans (α × State)} (h : KeptAP s o) (e : o = .ok (a, u)) : Kept s u := by
  subst e; exact h
theorem KeptMP.some {α : Type} {s u : State} {a : α} {o : Option (α × State)} (h : KeptMP s o) (e : o = .some (a, u)) :
    Kept s u := by subst e; exact h
theorem KeptP.snd {α : Type} {s u : State} {a : α} {o : α × State} (h : Kept s o.2) (e : o = (a, u)) : Kept s u := by
  subst e; exact h
theorem KeptA_map {s : State} {o : Ans State} {f : State → State} (h : KeptA s o) (k : ∀ u, Kept s u → Kept s (f u)) :
    KeptA s (o.map f) := by
  cases o with
  | error => trivial
  | ok u => exact k u h

theorem KeptA_map' {α : Type} {s : State} {o : Ans α} {f : α → State} (k : ∀ a, Kept s (f a)) : KeptA s (o.map f) := by
  cases o with
  | error => trivial
  | ok u => exact k u

theorem Kept_foldl {α : Type} {s t : State} {g : State → α → State} {l : List α} (k : ∀ u x, Kept s u → Kept s (g u x))
    (h : Kept s t) : Kept s (l.foldl g t) := by
  induction l generalizing t with
  | nil => exact h
  | cons x l ih => exact ih (k t x h)

/-- A stored value of the dictionary. -/
theorem wr_k {s t : State} {r : Reg} {v : Int} {i : Nat} (h : Kept s t) : Kept s (wr r v i t) := by
  refine ⟨h.pending, fun w => ?_⟩
  have := h.wf w
  simp only [Memory.wf, Bool.and_eq_true, wr_dram, wr_segMem, wr_krn, wr_tab, wr_queues, wr_fifos] at this ⊢
  exact ⟨this.1, mrising_mput _ _ this.2⟩

/-- A pool queue. -/
theorem qset_k {s t : State} {q : Nat} {v : Queue} (h : Kept s t) : Kept s (qset q v t) := by
  refine ⟨h.pending, fun w => ?_⟩
  have := h.wf w
  simp only [Memory.wf, Bool.and_eq_true, qset_dram, qset_segMem, qset_krn, qset_tab, qset_regs, qset_fifos] at this ⊢
  exact ⟨⟨⟨this.1.1.1, mwf_mput _ _ this.1.1.2⟩, this.1.2⟩, this.2⟩

/-- An edge FIFO. -/
theorem fset_k {s t : State} {f : Nat} {v : Fifo} (h : Kept s t) : Kept s (fset f v t) := by
  refine ⟨h.pending, fun w => ?_⟩
  have := h.wf w
  simp only [Memory.wf, Bool.and_eq_true, fset_dram, fset_segMem, fset_krn, fset_tab, fset_regs, fset_queues] at this ⊢
  exact ⟨⟨this.1.1, mwf_mput _ _ this.1.2⟩, this.2⟩

/-! ### Ops -/

theorem incTo_k {s t : State} {a0 : _} {a1 : _} {a2 : _} {a3 : _} (h : Kept s t) : Kept s (incTo a0 a1 a2 a3 t) := by
  unfold incTo
  repeat' first
    | with_reducible assumption | with_reducible refine wr_k ?_ | split

theorem incBy_k {s t : State} {a0 : _} {a1 : _} {a2 : _} (h : Kept s t) : Kept s (incBy a0 a1 a2 t) := by
  unfold incBy
  repeat' first
    | with_reducible assumption | with_reducible refine incTo_k ?_ | split

theorem inc_k {s t : State} {a0 : _} {a1 : _} (h : Kept s t) : Kept s (inc a0 a1 t) := by
  unfold inc
  repeat' first
    | with_reducible assumption | with_reducible refine incBy_k ?_ | split

theorem incWrap_k {s t : State} {a0 : _} {a1 : _} {a2 : _} {a3 : _} (h : Kept s t) : Kept s (incWrap a0 a1 a2 a3 t) := by
  unfold incWrap
  repeat' first
    | with_reducible assumption | with_reducible refine wr_k ?_ | split

theorem flag_k {s t : State} {a0 : _} {a1 : _} (h : Kept s t) : Kept s (flag a0 a1 t) := by
  unfold flag
  repeat' first
    | with_reducible assumption | with_reducible refine wr_k ?_ | split

theorem peak_k {s t : State} {a0 : _} {a1 : _} {a2 : _} (h : Kept s t) : Kept s (peak a0 a1 a2 t) := by
  unfold peak
  repeat' first
    | with_reducible assumption | with_reducible refine wr_k ?_ | split

theorem low_k {s t : State} {a0 : _} {a1 : _} {a2 : _} (h : Kept s t) : Kept s (low a0 a1 a2 t) := by
  unfold low
  repeat' first
    | with_reducible assumption | with_reducible refine wr_k ?_ | split

theorem wrBit_k {s t : State} {a0 : _} {a1 : _} {a2 : _} {a3 : _} (h : Kept s t) : Kept s (wrBit a0 a1 a2 a3 t) := by
  unfold wrBit
  repeat' first
    | with_reducible assumption | with_reducible refine wr_k ?_ | split

theorem fresh_k {s t : State} (h : Kept s t) : Kept s (fresh t).2 := by
  unfold fresh
  repeat' first
    | with_reducible assumption | (with_reducible refine Kept_mk (by with_reducible assumption) ?_; rfl) | split
    | with_reducible refine KeptP_mk ?_

theorem eset_k {s t : State} {a0 : _} {a1 : _} (h : Kept s t) : Kept s (eset a0 a1 t) := by
  unfold eset
  repeat' first
    | with_reducible assumption | (with_reducible refine Kept_mk (by with_reducible assumption) ?_; rfl) | split

theorem aset_k {s t : State} {a0 : _} {a1 : _} (h : Kept s t) : Kept s (aset a0 a1 t) := by
  unfold aset
  repeat' first
    | with_reducible assumption | (with_reducible refine Kept_mk (by with_reducible assumption) ?_; rfl) | split

theorem chset_k {s t : State} {a0 : _} {a1 : _} (h : Kept s t) : Kept s (chset a0 a1 t) := by
  unfold chset
  repeat' first
    | with_reducible assumption | (with_reducible refine Kept_mk (by with_reducible assumption) ?_; rfl) | split

theorem tset_k {s t : State} {a0 : _} {a1 : _} (h : Kept s t) : Kept s (tset a0 a1 t) := by
  unfold tset
  repeat' first
    | with_reducible assumption | (with_reducible refine Kept_mk (by with_reducible assumption) ?_; rfl) | split

theorem mkset_k {s t : State} {a0 : _} {a1 : _} (h : Kept s t) : Kept s (mkset a0 a1 t) := by
  unfold mkset
  repeat' first
    | with_reducible assumption | (with_reducible refine Kept_mk (by with_reducible assumption) ?_; rfl) | split

theorem setPath_k {s t : State} {a0 : _} {a1 : _} (h : Kept s t) : Kept s (setPath a0 a1 t) := by
  unfold setPath
  repeat' first
    | with_reducible assumption | (with_reducible refine Kept_mk (by with_reducible assumption) ?_; rfl)
    | (with_reducible refine Kept_mk (by with_reducible assumption) ?_; rfl) | split

theorem sset_k {s t : State} {a0 : _} {a1 : _} {a2 : _} (h : Kept s t) : Kept s (sset a0 a1 a2 t) := by
  unfold sset
  repeat' first
    | with_reducible assumption | (with_reducible refine Kept_mk (by with_reducible assumption) ?_; rfl) | split

theorem slset_k {s t : State} {a0 : _} {a1 : _} (h : Kept s t) : Kept s (slset a0 a1 t) := by
  unfold slset
  repeat' first
    | with_reducible assumption | (with_reducible refine Kept_mk (by with_reducible assumption) ?_; rfl) | split

theorem flxset_k {s t : State} {a0 : _} {a1 : _} (h : Kept s t) : Kept s (flxset a0 a1 t) := by
  unfold flxset
  repeat' first
    | with_reducible assumption | (with_reducible refine Kept_mk (by with_reducible assumption) ?_; rfl) | split

theorem biaset_k {s t : State} {a0 : _} {a1 : _} (h : Kept s t) : Kept s (biaset a0 a1 t) := by
  unfold biaset
  repeat' first
    | with_reducible assumption | (with_reducible refine Kept_mk (by with_reducible assumption) ?_; rfl) | split

theorem rgset_k {s t : State} {a0 : _} {a1 : _} (h : Kept s t) : Kept s (rgset a0 a1 t) := by
  unfold rgset
  repeat' first
    | with_reducible assumption | (with_reducible refine Kept_mk (by with_reducible assumption) ?_; rfl) | split

theorem rfset_k {s t : State} {a0 : _} {a1 : _} (h : Kept s t) : Kept s (rfset a0 a1 t) := by
  unfold rfset
  repeat' first
    | with_reducible assumption | (with_reducible refine Kept_mk (by with_reducible assumption) ?_; rfl) | split

theorem raise_k {s t : State} {a0 : _} (h : Kept s t) : Kept s (raise a0 t) := by
  unfold raise
  repeat' first
    | with_reducible assumption | (extract_lets +onlyGivenNames x; clear_value x) | with_reducible refine chset_k ?_
    | (with_reducible refine Kept_foldl ?_ ?_; intro _ _ _) | split

/-! ### QueueOps -/

theorem crossing_k {s t : State} {a0 : _} {a1 : _} (h : Kept s t) : Kept s (crossing a0 a1 t) := by
  unfold crossing
  repeat' first
    | with_reducible assumption
    | (extract_lets +onlyGivenNames x; (refine (fun (hx : Kept s x) => ?_) (?_ : Kept s x); all_goals first | (guard_target =ₐ Kept s x; unfold x; clear x) | clear_value x))
    | with_reducible refine raise_k ?_ | with_reducible refine flag_k ?_ | with_reducible refine incTo_k ?_
    | (with_reducible refine Kept_foldl ?_ ?_; intro _ _ _) | split

theorem levelStep_k {s t : State} {a0 : _} {a1 : _} {a2 : _} (h : Kept s t) : Kept s (levelStep a0 a1 a2 t) := by
  unfold levelStep
  repeat' first
    | with_reducible assumption
    | (extract_lets +onlyGivenNames x; first | (refine (fun (hx : Kept s x) => ?_) (?_ : Kept s x); all_goals first | (guard_target =ₐ Kept s x; unfold x; clear x) | clear_value x) | clear_value x)
    | with_reducible refine crossing_k ?_ | with_reducible refine low_k ?_ | with_reducible refine peak_k ?_ | split

theorem appendWord_k {s t : State} {a0 : _} {a1 : _} {a2 : _} (h : Kept s t) : Kept s (appendWord a0 a1 a2 t) := by
  unfold appendWord
  repeat' first
    | with_reducible assumption
    | (extract_lets +onlyGivenNames x; first | (refine (fun (hx : Kept s x) => ?_) (?_ : Kept s x); all_goals first | (guard_target =ₐ Kept s x; unfold x; clear x) | clear_value x) | clear_value x)
    | with_reducible refine levelStep_k ?_ | with_reducible refine qset_k ?_ | with_reducible refine inc_k ?_ | split

theorem discardWord_k {s t : State} {a0 : _} {a1 : _} (h : Kept s t) : Kept s (discardWord a0 a1 t) := by
  unfold discardWord
  repeat' first
    | with_reducible assumption | (extract_lets +onlyGivenNames x; clear_value x) | with_reducible refine qset_k ?_
    | with_reducible refine inc_k ?_ | split

theorem logMakeRoom_k {s t : State} {a0 : _} {a1 : _} {a2 : _} (h : Kept s t) : Kept s (logMakeRoom a0 a1 a2 t) := by
  induction a2 generalizing t with
  | zero =>
    unfold logMakeRoom
    repeat' first
      | with_reducible assumption
      | (extract_lets +onlyGivenNames x; first | (refine (fun (hx : Kept s x) => ?_) (?_ : Kept s x); all_goals first | (guard_target =ₐ Kept s x; unfold x; clear x) | clear_value x) | clear_value x)
      | with_reducible refine levelStep_k ?_ | with_reducible refine qset_k ?_ | with_reducible refine inc_k ?_ | split
  | succ n ih =>
    unfold logMakeRoom
    repeat' first
      | with_reducible assumption
      | (extract_lets +onlyGivenNames x; first | (refine (fun (hx : Kept s x) => ?_) (?_ : Kept s x); all_goals first | (guard_target =ₐ Kept s x; unfold x; clear x) | clear_value x) | clear_value x)
      | with_reducible refine levelStep_k ?_ | with_reducible refine qset_k ?_ | with_reducible refine inc_k ?_
      | with_reducible refine ih ?_ | split

theorem logWord_k {s t : State} {a0 : _} {a1 : _} {a2 : _} (h : Kept s t) : Kept s (logWord a0 a1 a2 t) := by
  unfold logWord
  repeat' first
    | with_reducible assumption
    | (extract_lets +onlyGivenNames x; first | (refine (fun (hx : Kept s x) => ?_) (?_ : Kept s x); all_goals first | (guard_target =ₐ Kept s x; unfold x; clear x) | clear_value x) | clear_value x)
    | with_reducible refine logMakeRoom_k ?_ | with_reducible refine appendWord_k ?_
    | with_reducible refine levelStep_k ?_ | with_reducible refine qset_k ?_ | with_reducible refine inc_k ?_ | split

theorem writeWord_k {s t : State} {a0 : _} {a1 : _} {a2 : _} (h : Kept s t) : Kept s (writeWord a0 a1 a2 t) := by
  unfold writeWord
  repeat' first
    | with_reducible assumption | (extract_lets +onlyGivenNames x; clear_value x) | with_reducible refine logWord_k ?_
    | with_reducible refine discardWord_k ?_ | with_reducible refine appendWord_k ?_ | with_reducible refine qset_k ?_
    | with_reducible refine inc_k ?_ | split

theorem resumeWrite_k {s t : State} {a0 : _} (h : Kept s t) : Kept s (resumeWrite a0 t) := by
  unfold resumeWrite
  repeat' first
    | with_reducible assumption | (extract_lets +onlyGivenNames x; clear_value x) | with_reducible refine logWord_k ?_
    | with_reducible refine discardWord_k ?_ | with_reducible refine appendWord_k ?_ | with_reducible refine qset_k ?_
    | with_reducible refine inc_k ?_ | split

theorem writePacket_k {s t : State} {a0 : _} {a1 : _} {a2 : _} (h : Kept s t) : Kept s (writePacket a0 a1 a2 t) := by
  unfold writePacket
  repeat' first
    | with_reducible assumption | with_reducible refine writeWord_k ?_
    | (with_reducible refine Kept_foldl ?_ ?_; intro _ _ _) | split

theorem logPacket_k {s t : State} {a0 : _} {a1 : _} (h : Kept s t) : Kept s (logPacket a0 a1 t) := by
  unfold logPacket
  repeat' first
    | with_reducible assumption
    | (extract_lets +onlyGivenNames x; (refine (fun (hx : Kept s x) => ?_) (?_ : Kept s x); all_goals first | (guard_target =ₐ Kept s x; unfold x; clear x) | clear_value x))
    | with_reducible refine writePacket_k ?_ | with_reducible refine logMakeRoom_k ?_ | with_reducible refine inc_k ?_
    | split

theorem appendPacket_k {s t : State} {a0 : _} {a1 : _} {a2 : _} (h : Kept s t) : Kept s (appendPacket a0 a1 a2 t) := by
  unfold appendPacket
  repeat' first
    | with_reducible assumption | with_reducible refine appendWord_k ?_
    | (with_reducible refine Kept_foldl ?_ ?_; intro _ _ _) | split

theorem breakQueue_k {s t : State} {a0 : _} (h : Kept s t) : Kept s (breakQueue a0 t) := by
  unfold breakQueue
  repeat' first
    | with_reducible assumption | (with_reducible refine Kept_mk (by with_reducible assumption) ?_; rfl)
    | (extract_lets +onlyGivenNames x; first | (refine (fun (hx : Kept s x) => ?_) (?_ : Kept s x); all_goals first | (guard_target =ₐ Kept s x; unfold x; clear x) | clear_value x) | clear_value x)
    | with_reducible refine levelStep_k ?_ | with_reducible refine qset_k ?_ | with_reducible refine inc_k ?_ | split

theorem readWord_k {s t : State} {a0 : _} {a1 : _} {a2 : _} (h : Kept s t) : Kept s (readWord a0 a1 a2 t).2 := by
  unfold readWord
  repeat' first
    | with_reducible assumption
    | (extract_lets +onlyGivenNames x; first | (refine (fun (hx : Kept s x) => ?_) (?_ : Kept s x); all_goals first | (guard_target =ₐ Kept s x; unfold x; clear x) | clear_value x) | clear_value x)
    | with_reducible refine breakQueue_k ?_ | with_reducible refine levelStep_k ?_ | with_reducible refine qset_k ?_
    | with_reducible refine inc_k ?_ | split | with_reducible refine KeptP_mk ?_

theorem dropPacket_k {s t : State} {a0 : _} (h : Kept s t) : Kept s (dropPacket a0 t).2 := by
  unfold dropPacket
  repeat' first
    | with_reducible assumption | (extract_lets +onlyGivenNames x; clear_value x) | with_reducible refine levelStep_k ?_
    | with_reducible refine qset_k ?_ | with_reducible refine incBy_k ?_ | split | with_reducible refine KeptP_mk ?_

theorem flushQueue_k {s t : State} {a0 : _} (h : Kept s t) : Kept s (flushQueue a0 t) := by
  unfold flushQueue
  repeat' first
    | with_reducible assumption | (with_reducible refine Kept_mk (by with_reducible assumption) ?_; rfl)
    | (extract_lets +onlyGivenNames x; first | (refine (fun (hx : Kept s x) => ?_) (?_ : Kept s x); all_goals first | (guard_target =ₐ Kept s x; unfold x; clear x) | clear_value x) | clear_value x)
    | with_reducible refine levelStep_k ?_ | with_reducible refine qset_k ?_ | with_reducible refine inc_k ?_ | split

theorem abandonQueue_k {s t : State} {a0 : _} (h : Kept s t) : Kept s (abandonQueue a0 t) := by
  unfold abandonQueue
  repeat' first
    | with_reducible assumption
    | (extract_lets +onlyGivenNames x; first | (refine (fun (hx : Kept s x) => ?_) (?_ : Kept s x); all_goals first | (guard_target =ₐ Kept s x; unfold x; clear x) | clear_value x) | clear_value x)
    | with_reducible refine flushQueue_k ?_ | with_reducible refine qset_k ?_ | with_reducible refine incBy_k ?_ | split

theorem passCut_k {s t : State} {a0 : _} (h : Kept s t) : Kept s (passCut a0 t) := by
  unfold passCut
  repeat' first
    | with_reducible assumption | with_reducible refine readWord_k ?_
    | with_reducible refine KeptP.snd (readWord_k ?_) (by assumption) | split

theorem readWords_k {s t : State} {a0 : _} {a1 : _} (h : Kept s t) : Kept s (readWords a0 a1 t).2 := by
  induction a1 generalizing t with
  | zero =>
    unfold readWords
    repeat' first
      | with_reducible assumption
      | (extract_lets +onlyGivenNames x; (refine (fun (hx : Kept s x.2) => ?_) (?_ : Kept s x.2); all_goals first | (guard_target =ₐ Kept s x.2; unfold x; clear x) | clear_value x))
      | with_reducible refine readWord_k ?_ | with_reducible refine KeptP.snd (readWord_k ?_) (by assumption) | split
      | with_reducible refine KeptP_mk ?_
  | succ n ih =>
    unfold readWords
    repeat' first
      | with_reducible assumption
      | (extract_lets +onlyGivenNames x; (refine (fun (hx : Kept s x.2) => ?_) (?_ : Kept s x.2); all_goals first | (guard_target =ₐ Kept s x.2; unfold x; clear x) | clear_value x))
      | with_reducible refine readWord_k ?_ | with_reducible refine KeptP.snd (readWord_k ?_) (by assumption)
      | with_reducible refine ih ?_ | split | with_reducible refine KeptP_mk ?_

theorem readWhole_k {s t : State} {a0 : _} {a1 : _} (h : Kept s t) : Kept s (readWhole a0 a1 t).2 := by
  unfold readWhole
  repeat' first
    | with_reducible assumption | with_reducible refine readWords_k ?_
    | with_reducible refine KeptP.snd (readWords_k ?_) (by assumption) | with_reducible refine passCut_k ?_ | split
    | with_reducible refine KeptP_mk ?_

/-! ### FaultOps -/

theorem logFault_k {s t : State} {a0 : _} {a1 : _} {a2 : _} {a3 : _} (h : Kept s t) : Kept s (logFault a0 a1 a2 a3 t) := by
  unfold logFault
  repeat' first
    | with_reducible assumption | (with_reducible refine Kept_mk (by with_reducible assumption) ?_; rfl)
    | (extract_lets +onlyGivenNames x; first | (refine (fun (hx : Kept s x) => ?_) (?_ : Kept s x); all_goals first | (guard_target =ₐ Kept s x; unfold x; clear x) | clear_value x) | clear_value x)
    | with_reducible refine logPacket_k ?_ | with_reducible refine flag_k ?_ | with_reducible refine inc_k ?_
    | with_reducible refine wr_k ?_ | split

theorem markShot_k {s t : State} {a0 : _} {a1 : _} (h : Kept s t) : Kept s (markShot a0 a1 t) := by
  unfold markShot
  repeat' first
    | with_reducible assumption | (with_reducible refine Kept_mk (by with_reducible assumption) ?_; rfl)
    | (extract_lets +onlyGivenNames x; clear_value x) | split

theorem voidAt_k {s t : State} {a0 : _} {a1 : _} {a2 : _} (h : Kept s t) : Kept s (voidAt a0 a1 a2 t) := by
  unfold voidAt
  repeat' first
    | with_reducible assumption | (with_reducible refine Kept_mk (by with_reducible assumption) ?_; rfl)
    | (extract_lets +onlyGivenNames x; clear_value x) | with_reducible refine markShot_k ?_
    | with_reducible refine logFault_k ?_ | split

theorem voidNow_k {s t : State} {a0 : _} {a1 : _} (h : Kept s t) : Kept s (voidNow a0 a1 t) := by
  unfold voidNow
  repeat' first
    | with_reducible assumption | with_reducible refine voidAt_k ?_ | split

theorem voidNum_k {s t : State} {a0 : _} {a1 : _} {a2 : _} (h : Kept s t) : Kept s (voidNum a0 a1 a2 t) := by
  unfold voidNum
  repeat' first
    | with_reducible assumption | with_reducible refine markShot_k ?_ | with_reducible refine logFault_k ?_ | split

theorem flushFifo_k {s t : State} {a0 : _} (h : Kept s t) : Kept s (flushFifo a0 t) := by
  unfold flushFifo
  repeat' first
    | with_reducible assumption | (extract_lets +onlyGivenNames x; clear_value x) | with_reducible refine fset_k ?_
    | with_reducible refine incBy_k ?_ | split

theorem abortFifo_k {s t : State} {a0 : _} (h : Kept s t) : Kept s (abortFifo a0 t) := by
  unfold abortFifo
  repeat' first
    | with_reducible assumption
    | (extract_lets +onlyGivenNames x; first | (refine (fun (hx : Kept s x) => ?_) (?_ : Kept s x); all_goals first | (guard_target =ₐ Kept s x; unfold x; clear x) | clear_value x) | clear_value x)
    | with_reducible refine flushFifo_k ?_ | with_reducible refine fset_k ?_ | with_reducible refine incBy_k ?_ | split

theorem discardStream_k {s t : State} {a0 : _} {a1 : _} (h : Kept s t) : Kept s (discardStream a0 a1 t) := by
  unfold discardStream
  repeat' first
    | with_reducible assumption
    | (extract_lets +onlyGivenNames x; first | (refine (fun (hx : Kept s x) => ?_) (?_ : Kept s x); all_goals first | (guard_target =ₐ Kept s x; unfold x; clear x) | clear_value x) | clear_value x)
    | with_reducible refine abandonQueue_k ?_ | with_reducible refine aset_k ?_ | with_reducible refine incBy_k ?_ | split

theorem abortEngine_k {s t : State} {a0 : _} (h : Kept s t) : Kept s (abortEngine a0 t) := by
  unfold abortEngine
  repeat' first
    | with_reducible assumption
    | (extract_lets +onlyGivenNames x; first | (refine (fun (hx : Kept s x) => ?_) (?_ : Kept s x); all_goals first | (guard_target =ₐ Kept s x; unfold x; clear x) | clear_value x) | clear_value x)
    | with_reducible refine discardStream_k ?_ | with_reducible refine eset_k ?_ | with_reducible refine inc_k ?_
    | (with_reducible refine Kept_foldl ?_ ?_; intro _ _ _) | split

theorem dropWrite_k {s t : State} {a0 : _} {a1 : _} (h : Kept s t) : Kept s (dropWrite a0 a1 t) := by
  unfold dropWrite
  repeat' first
    | with_reducible assumption | (extract_lets +onlyGivenNames x; clear_value x) | with_reducible refine sset_k ?_
    | split

theorem stopRefill_k {s t : State} {a0 : _} (h : Kept s t) : Kept s (stopRefill a0 t) := by
  unfold stopRefill
  repeat' first
    | with_reducible assumption
    | (extract_lets +onlyGivenNames x; first | (refine (fun (hx : Kept s x) => ?_) (?_ : Kept s x); all_goals first | (guard_target =ₐ Kept s x; unfold x; clear x) | clear_value x) | clear_value x)
    | with_reducible refine dropWrite_k ?_ | with_reducible refine rfset_k ?_ | split

theorem settleRequests_k {s t : State} (h : Kept s t) : Kept s (settleRequests t) := by
  unfold settleRequests
  repeat' first
    | with_reducible assumption | (extract_lets +onlyGivenNames x; clear_value x) | with_reducible refine rgset_k ?_
    | (with_reducible refine Kept_foldl ?_ ?_; intro _ _ _) | split

theorem finishRun_k {s t : State} {a0 : _} (h : Kept s t) : Kept s (finishRun a0 t) := by
  unfold finishRun
  repeat' first
    | with_reducible assumption | (with_reducible refine Kept_mk (by with_reducible assumption) ?_; rfl)
    | (extract_lets +onlyGivenNames x; first | (refine (fun (hx : Kept s x) => ?_) (?_ : Kept s x); all_goals first | (guard_target =ₐ Kept s x; unfold x; clear x) | clear_value x) | clear_value x)
    | with_reducible refine settleRequests_k ?_ | with_reducible refine stopRefill_k ?_ | with_reducible refine eset_k ?_
    | with_reducible refine wr_k ?_ | (with_reducible refine Kept_foldl ?_ ?_; intro _ _ _) | split

theorem abortRun_k {s t : State} (h : Kept s t) : Kept s (abortRun t) := by
  unfold abortRun
  repeat' first
    | with_reducible assumption | (with_reducible refine Kept_mk (by with_reducible assumption) ?_; rfl)
    | (extract_lets +onlyGivenNames x; first | (refine (fun (hx : Kept s x) => ?_) (?_ : Kept s x); all_goals first | (guard_target =ₐ Kept s x; unfold x; clear x) | clear_value x) | clear_value x)
    | with_reducible refine finishRun_k ?_ | with_reducible refine abortEngine_k ?_ | with_reducible refine abortFifo_k ?_
    | with_reducible refine markShot_k ?_ | with_reducible refine logFault_k ?_
    | (with_reducible refine Kept_foldl ?_ ?_; intro _ _ _) | split

theorem runEndFault_k {s t : State} {a0 : _} (h : Kept s t) : Kept s (runEndFault a0 t) := by
  unfold runEndFault
  repeat' first
    | with_reducible assumption | with_reducible refine abortRun_k ?_ | with_reducible refine logFault_k ?_ | split

/-! ### DictOps -/

theorem send_k {s t : State} {a0 : _} {a1 : _} (h : Kept s t) : Kept s (send a0 a1 t) := by
  unfold send
  repeat' first
    | with_reducible assumption | (extract_lets +onlyGivenNames x; clear_value x) | with_reducible refine writePacket_k ?_
    | with_reducible refine setPath_k ?_ | split

theorem respond_k {s t : State} {a0 : _} {a1 : _} {a2 : _} {a3 : _} {a4 : _} {a5 : _} {a6 : _} (h : Kept s t) : Kept s (respond a0 a1 a2 a3 a4 a5 a6 t) := by
  unfold respond
  repeat' first
    | with_reducible assumption | with_reducible refine send_k ?_ | with_reducible refine inc_k ?_ | split

theorem respondAbort_k {s t : State} {a0 : _} {a1 : _} {a2 : _} {a3 : _} {a4 : _} {a5 : _} (h : Kept s t) : Kept s (respondAbort a0 a1 a2 a3 a4 a5 t) := by
  unfold respondAbort
  repeat' first
    | with_reducible assumption
    | (extract_lets +onlyGivenNames x; (refine (fun (hx : Kept s x) => ?_) (?_ : Kept s x); all_goals first | (guard_target =ₐ Kept s x; unfold x; clear x) | clear_value x))
    | with_reducible refine respond_k ?_ | with_reducible refine logPacket_k ?_ | with_reducible refine inc_k ?_
    | with_reducible refine wr_k ?_ | split

/-! ### DramOps -/

theorem setDch_k {s t : State} {a0 : _} {a1 : _} (h : Kept s t) : Kept s (setDch a0 a1 t) := by
  unfold setDch
  repeat' first
    | with_reducible assumption | (with_reducible refine Kept_mk (by with_reducible assumption) ?_; rfl)
    | (extract_lets +onlyGivenNames x; first | (have _ : (x : Dram) = x := rfl; subst x) | clear_value x) | split

theorem fenceHit_k {s t : State} {a0 : _} (h : Kept s t) : Kept s (fenceHit a0 t) := by
  unfold fenceHit
  repeat' first
    | with_reducible assumption | with_reducible refine flag_k ?_ | split

theorem countBurstRead_k {s t : State} {a0 : _} {a1 : _} (h : Kept s t) : Kept s (countBurstRead a0 a1 t) := by
  unfold countBurstRead
  repeat' first
    | with_reducible assumption
    | (extract_lets +onlyGivenNames x; (refine (fun (hx : Kept s x) => ?_) (?_ : Kept s x); all_goals first | (guard_target =ₐ Kept s x; unfold x; clear x) | clear_value x))
    | with_reducible refine fenceHit_k ?_ | with_reducible refine inc_k ?_ | with_reducible refine wr_k ?_
    | (with_reducible refine Kept_foldl ?_ ?_; intro _ _ _) | split

theorem settlePanic_k {s t : State} {a0 : _} (h : Kept s t) : Kept s (settlePanic a0 t) := by
  unfold settlePanic
  repeat' first
    | with_reducible assumption | (with_reducible refine Kept_mk (by with_reducible assumption) ?_; rfl)
    | (extract_lets +onlyGivenNames x; first | (refine (fun (hx : Kept s x) => ?_) (?_ : Kept s x); all_goals first | (guard_target =ₐ Kept s x; unfold x; clear x) | clear_value x) | (have _ : (x : Dram) = x := rfl; subst x) | clear_value x)
    | with_reducible refine inc_k ?_ | split

theorem setLevel_k {s t : State} {a0 : _} {a1 : _} (h : Kept s t) : Kept s (setLevel a0 a1 t) := by
  unfold setLevel
  repeat' first
    | with_reducible assumption | (with_reducible refine Kept_mk (by with_reducible assumption) ?_; rfl)
    | (extract_lets +onlyGivenNames x; first | (have _ : (x : Dram) = x := rfl; subst x) | clear_value x)
    | with_reducible refine settlePanic_k ?_ | split

theorem setHeld_k {s t : State} {a0 : _} {a1 : _} (h : Kept s t) : Kept s (setHeld a0 a1 t) := by
  unfold setHeld
  repeat' first
    | with_reducible assumption | (with_reducible refine Kept_mk (by with_reducible assumption) ?_; rfl)
    | (extract_lets +onlyGivenNames x; first | (have _ : (x : Dram) = x := rfl; subst x) | clear_value x) | split

theorem dropHeld_k {s t : State} {a0 : _} (h : Kept s t) : Kept s (dropHeld a0 t) := by
  unfold dropHeld
  repeat' first
    | with_reducible assumption
    | (extract_lets +onlyGivenNames x; (refine (fun (hx : Kept s x) => ?_) (?_ : Kept s x); all_goals first | (guard_target =ₐ Kept s x; unfold x; clear x) | clear_value x))
    | with_reducible refine setHeld_k ?_ | with_reducible refine setLevel_k ?_ | split

theorem dramRead_k {s t : State} {a0 : _} {a1 : _} {a2 : _} (h : Kept s t) : Kept s (dramRead a0 a1 a2 t).2 := by
  unfold dramRead
  repeat' first
    | with_reducible assumption
    | (extract_lets +onlyGivenNames x; first | (refine (fun (hx : Kept s x) => ?_) (?_ : Kept s x); all_goals first | (guard_target =ₐ Kept s x; unfold x; clear x) | clear_value x) | clear_value x)
    | with_reducible refine setHeld_k ?_ | with_reducible refine setLevel_k ?_ | with_reducible refine countBurstRead_k ?_
    | (with_reducible refine Kept_foldl ?_ ?_; intro _ _ _) | split | with_reducible refine KeptP_mk ?_

theorem dramPutByte_k {s t : State} {x : Nat} {b : Byte} (h : Kept s t) : Kept s (dramPutByte x b t) := by
  unfold dramPutByte
  split
  · exact h
  · split
    · exact h
    · exact Kept_mk' h (fun w => mwf_mput _ _ w) id id id id id id

theorem countBurstWrite_k {s t : State} {a0 : _} {a1 : _} (h : Kept s t) : Kept s (countBurstWrite a0 a1 t) := by
  unfold countBurstWrite
  repeat' first
    | with_reducible assumption | with_reducible refine fenceHit_k ?_ | with_reducible refine inc_k ?_ | split

theorem dramWrite_k {s t : State} {a0 : _} {a1 : _} {a2 : _} (h : Kept s t) : Kept s (dramWrite a0 a1 a2 t) := by
  unfold dramWrite
  repeat' first
    | with_reducible assumption
    | (extract_lets +onlyGivenNames x; (refine (fun (hx : Kept s x) => ?_) (?_ : Kept s x); all_goals first | (guard_target =ₐ Kept s x; unfold x; clear x) | clear_value x))
    | with_reducible refine countBurstWrite_k ?_ | with_reducible refine dramPutByte_k ?_
    | (with_reducible refine Kept_foldl ?_ ?_; intro _ _ _) | split

theorem settleState_k {s t : State} (h : Kept s t) : Kept s (settleState t) := by
  unfold settleState
  repeat' first
    | with_reducible assumption | with_reducible refine wr_k ?_ | split

theorem fenceChannel_k {s t : State} {a0 : _} (h : Kept s t) : Kept s (fenceChannel a0 t) := by
  unfold fenceChannel
  repeat' first
    | with_reducible assumption
    | (extract_lets +onlyGivenNames x; first | (refine (fun (hx : Kept s x) => ?_) (?_ : Kept s x); all_goals first | (guard_target =ₐ Kept s x; unfold x; clear x) | clear_value x) | clear_value x)
    | with_reducible refine settleState_k ?_ | with_reducible refine setDch_k ?_ | with_reducible refine logFault_k ?_
    | with_reducible refine wr_k ?_ | split

/-! ### SegmentOps -/

theorem writeDesc_k {s t : State} {a0 : _} {a1 : _} {a2 : _} (h : Kept s t) : KeptA s (writeDesc a0 a1 a2 t) := by
  unfold writeDesc
  repeat' first
    | with_reducible assumption | (extract_lets +onlyGivenNames x; clear_value x) | with_reducible refine sset_k ?_
    | split | with_reducible refine KeptA_ok ?_ | with_reducible exact KeptA_err

theorem storeSamples_k {s t : State} {a0 : _} {a1 : _} {a2 : _} (h : Kept s t) : Kept s (storeSamples a0 a1 a2 t) := by
  induction a2 generalizing t a1 with
  | nil =>
    unfold storeSamples
    repeat' first
      | with_reducible assumption
      | (with_reducible refine Kept_mk' (by with_reducible assumption) ?_ ?_ ?_ ?_ ?_ ?_ ?_; all_goals first | exact id | exact fun w => mwf_mput _ _ w | exact fun w => mwf_filter _ w | exact fun w => mwf_mmap _ w)
      | split
  | cons y l ih =>
    unfold storeSamples
    repeat' first
      | with_reducible assumption
      | (with_reducible refine Kept_mk' (by with_reducible assumption) ?_ ?_ ?_ ?_ ?_ ?_ ?_; all_goals first | exact id | exact fun w => mwf_mput _ _ w | exact fun w => mwf_filter _ w | exact fun w => mwf_mmap _ w)
      | with_reducible refine ih ?_ | split

theorem completeWrite_k {s t : State} {a0 : _} {a1 : _} (h : Kept s t) : Kept s (completeWrite a0 a1 t) := by
  unfold completeWrite
  repeat' first
    | with_reducible assumption | (extract_lets +onlyGivenNames x; clear_value x) | with_reducible refine sset_k ?_
    | split

theorem beginWrite_k {s t : State} {a0 : _} {a1 : _} (h : Kept s t) : Kept s (beginWrite a0 a1 t) := by
  unfold beginWrite
  repeat' first
    | with_reducible assumption | (extract_lets +onlyGivenNames x; clear_value x) | with_reducible refine sset_k ?_
    | split

theorem writeSegData_k {s t : State} {a0 : _} {a1 : _} {a2 : _} (h : Kept s t) : KeptA s (writeSegData a0 a1 a2 t) := by
  unfold writeSegData
  repeat' first
    | with_reducible assumption | with_reducible refine beginWrite_k ?_ | with_reducible refine completeWrite_k ?_
    | with_reducible refine storeSamples_k ?_ | (with_reducible refine KeptA_map ?_ (fun _ _ => ?_))
    | with_reducible refine KeptA_map' (fun _ => ?_) | split | with_reducible refine KeptA_ok ?_
    | with_reducible exact KeptA_err

theorem execRefillEntryStart_k {s t : State} {a0 : _} (h : Kept s t) : KeptO s (execRefillEntryStart a0 t) := by
  unfold execRefillEntryStart
  repeat' first
    | with_reducible assumption | (extract_lets +onlyGivenNames x; clear_value x) | with_reducible refine beginWrite_k ?_
    | with_reducible refine dropHeld_k ?_ | with_reducible refine rfset_k ?_ | split | with_reducible refine KeptO_next ?_

theorem execRefillEntryDone_k {s t : State} {a0 : _} (h : Kept s t) : KeptO s (execRefillEntryDone a0 t) := by
  unfold execRefillEntryDone
  repeat' first
    | with_reducible assumption
    | (extract_lets +onlyGivenNames x; first | (refine (fun (hx : Kept s x) => ?_) (?_ : Kept s x); all_goals first | (guard_target =ₐ Kept s x; unfold x; clear x) | clear_value x) | (refine (fun (hx : Kept s x.2) => ?_) (?_ : Kept s x.2); all_goals first | (guard_target =ₐ Kept s x.2; unfold x; clear x) | clear_value x) | clear_value x)
    | with_reducible refine completeWrite_k ?_ | with_reducible refine storeSamples_k ?_
    | with_reducible refine dramRead_k ?_ | with_reducible refine KeptP.snd (dramRead_k ?_) (by assumption)
    | with_reducible refine rfset_k ?_ | with_reducible refine sset_k ?_ | with_reducible refine inc_k ?_ | split
    | with_reducible refine KeptO_next ?_

/-! ### Playback -/

theorem takeDue_k {s t : State} {a0 : _} {a1 : _} (h : Kept s t) : Kept s (takeDue a0 a1 t) := by
  unfold takeDue
  repeat' first
    | with_reducible assumption
    | (extract_lets +onlyGivenNames x; first | (refine (fun (hx : Kept s x) => ?_) (?_ : Kept s x); all_goals first | (guard_target =ₐ Kept s x; unfold x; clear x) | clear_value x) | clear_value x)
    | with_reducible refine fset_k ?_ | with_reducible refine inc_k ?_ | split

theorem tinc_k {s t : State} {a0 : _} {a1 : _} {a2 : _} (h : Kept s t) : Kept s (tinc a0 a1 a2 t) := by
  unfold tinc
  repeat' first
    | with_reducible assumption | with_reducible refine incBy_k ?_ | split

theorem endPlay_k {s t : State} {a0 : _} {a1 : _} (h : Kept s t) : Kept s (endPlay a0 a1 t) := by
  unfold endPlay
  repeat' first
    | with_reducible assumption
    | (extract_lets +onlyGivenNames x; first | (refine (fun (hx : Kept s x) => ?_) (?_ : Kept s x); all_goals first | (guard_target =ₐ Kept s x; unfold x; clear x) | clear_value x) | clear_value x)
    | with_reducible refine flxset_k ?_ | with_reducible refine slset_k ?_ | split

theorem dropJumps_k {s t : State} {a0 : _} (h : Kept s t) : Kept s (dropJumps a0 t) := by
  unfold dropJumps
  repeat' first
    | with_reducible assumption | (extract_lets +onlyGivenNames x; clear_value x) | with_reducible refine tinc_k ?_
    | with_reducible refine slset_k ?_ | split

theorem cutPass_k {s t : State} {a0 : _} {a1 : _} {a2 : _} (h : Kept s t) : Kept s (cutPass a0 a1 a2 t) := by
  unfold cutPass
  repeat' first
    | with_reducible assumption | (with_reducible refine Kept_mk (by with_reducible assumption) ?_; rfl)
    | (extract_lets +onlyGivenNames x; first | (refine (fun (hx : Kept s x) => ?_) (?_ : Kept s x); all_goals first | (guard_target =ₐ Kept s x; unfold x; clear x) | clear_value x) | clear_value x)
    | with_reducible refine endPlay_k ?_ | with_reducible refine tinc_k ?_ | with_reducible refine voidAt_k ?_
    | with_reducible refine slset_k ?_ | with_reducible refine sset_k ?_ | with_reducible refine inc_k ?_ | split

theorem applyCut_k {s t : State} {a0 : _} {a1 : _} (h : Kept s t) : Kept s (applyCut a0 a1 t) := by
  unfold applyCut
  repeat' first
    | with_reducible assumption | (extract_lets +onlyGivenNames x; clear_value x) | with_reducible refine cutPass_k ?_
    | with_reducible refine slset_k ?_ | split

theorem notReady_k {s t : State} {a0 : _} {a1 : _} (h : Kept s t) : Kept s (notReady a0 a1 t) := by
  unfold notReady
  repeat' first
    | with_reducible assumption
    | (extract_lets +onlyGivenNames x; (refine (fun (hx : Kept s x) => ?_) (?_ : Kept s x); all_goals first | (guard_target =ₐ Kept s x; unfold x; clear x) | clear_value x))
    | with_reducible refine tinc_k ?_ | with_reducible refine voidAt_k ?_ | with_reducible refine flag_k ?_ | split

theorem startPass_k {s t : State} {a0 : _} {a1 : _} {a2 : _} {a3 : _} {a4 : _} {a5 : _} {a6 : _} (h : Kept s t) : Kept s (startPass a0 a1 a2 a3 a4 a5 a6 t) := by
  unfold startPass
  repeat' first
    | with_reducible assumption | (extract_lets +onlyGivenNames x; clear_value x) | with_reducible refine applyCut_k ?_
    | with_reducible refine slset_k ?_ | split

theorem execPlay_k {s t : State} {a0 : _} {a1 : _} (h : Kept s t) : KeptO s (execPlay a0 a1 t) := by
  unfold execPlay
  repeat' first
    | with_reducible assumption
    | (extract_lets +onlyGivenNames x; first | (refine (fun (hx : Kept s x) => ?_) (?_ : Kept s x); all_goals first | (guard_target =ₐ Kept s x; unfold x; clear x) | clear_value x) | clear_value x)
    | with_reducible refine startPass_k ?_ | with_reducible refine notReady_k ?_ | with_reducible refine applyCut_k ?_
    | with_reducible refine dropJumps_k ?_ | with_reducible refine endPlay_k ?_ | with_reducible refine takeDue_k ?_
    | with_reducible refine inc_k ?_ | split | with_reducible refine KeptO_next ?_

theorem execJump_k {s t : State} {a0 : _} (h : Kept s t) : KeptO s (execJump a0 t) := by
  unfold execJump
  repeat' first
    | with_reducible assumption
    | (extract_lets +onlyGivenNames x; first | (refine (fun (hx : Kept s x) => ?_) (?_ : Kept s x); all_goals first | (guard_target =ₐ Kept s x; unfold x; clear x) | clear_value x) | clear_value x)
    | with_reducible refine applyCut_k ?_ | with_reducible refine tinc_k ?_ | with_reducible refine takeDue_k ?_
    | with_reducible refine slset_k ?_ | split | with_reducible refine KeptO_next ?_

theorem sampleJumps_k {s t : State} {a0 : _} {a1 : _} (h : Kept s t) : Kept s (sampleJumps a0 a1 t) := by
  unfold sampleJumps
  repeat' first
    | with_reducible assumption | (extract_lets +onlyGivenNames x; clear_value x) | with_reducible refine tinc_k ?_
    | with_reducible refine slset_k ?_ | split

theorem execJumpSamplingPoint_k {s t : State} {a0 : _} (h : Kept s t) : KeptO s (execJumpSamplingPoint a0 t) := by
  unfold execJumpSamplingPoint
  repeat' first
    | with_reducible assumption
    | (extract_lets +onlyGivenNames x; (refine (fun (hx : Kept s x) => ?_) (?_ : Kept s x); all_goals first | (guard_target =ₐ Kept s x; unfold x; clear x) | clear_value x))
    | with_reducible refine sampleJumps_k ?_ | with_reducible refine applyCut_k ?_ | split
    | with_reducible refine KeptO_next ?_

theorem execSegmentBoundary_k {s t : State} {a0 : _} {a1 : _} (h : Kept s t) : KeptO s (execSegmentBoundary a0 a1 t) := by
  unfold execSegmentBoundary
  repeat' first
    | with_reducible assumption
    | (extract_lets +onlyGivenNames x; first | (refine (fun (hx : Kept s x) => ?_) (?_ : Kept s x); all_goals first | (guard_target =ₐ Kept s x; unfold x; clear x) | clear_value x) | clear_value x)
    | with_reducible refine sampleJumps_k ?_ | with_reducible refine startPass_k ?_ | with_reducible refine notReady_k ?_
    | with_reducible refine applyCut_k ?_ | with_reducible refine endPlay_k ?_ | with_reducible refine slset_k ?_ | split
    | with_reducible refine KeptO_next ?_

theorem setFrame_k {s t : State} {a0 : _} {a1 : _} {a2 : _} {a3 : _} (h : Kept s t) : Kept s (setFrame a0 a1 a2 a3 t) := by
  unfold setFrame
  repeat' first
    | with_reducible assumption | (with_reducible refine Kept_mk (by with_reducible assumption) ?_; rfl)
    | (extract_lets +onlyGivenNames x; (refine (fun (hx : Kept s x) => ?_) (?_ : Kept s x); all_goals first | (guard_target =ₐ Kept s x; unfold x; clear x) | clear_value x))
    | with_reducible refine wr_k ?_ | split

theorem execFreq_k {s t : State} {a0 : _} (h : Kept s t) : KeptO s (execFreq a0 t) := by
  unfold execFreq
  repeat' first
    | with_reducible assumption
    | (extract_lets +onlyGivenNames x; (refine (fun (hx : Kept s x) => ?_) (?_ : Kept s x); all_goals first | (guard_target =ₐ Kept s x; unfold x; clear x) | clear_value x))
    | with_reducible refine setFrame_k ?_ | with_reducible refine takeDue_k ?_ | split
    | with_reducible refine KeptO_next ?_

theorem execPhase_k {s t : State} {a0 : _} (h : Kept s t) : KeptO s (execPhase a0 t) := by
  unfold execPhase
  repeat' first
    | with_reducible assumption
    | (extract_lets +onlyGivenNames x; first | (refine (fun (hx : Kept s x) => ?_) (?_ : Kept s x); all_goals first | (guard_target =ₐ Kept s x; unfold x; clear x) | clear_value x) | clear_value x)
    | with_reducible refine setFrame_k ?_ | with_reducible refine takeDue_k ?_ | split
    | with_reducible refine KeptO_next ?_

theorem queueBias_k {s t : State} {a0 : _} {a1 : _} (h : Kept s t) : Kept s (queueBias a0 a1 t) := by
  unfold queueBias
  repeat' first
    | with_reducible assumption | (extract_lets +onlyGivenNames x; clear_value x) | with_reducible refine biaset_k ?_
    | with_reducible refine inc_k ?_ | split

theorem execHold_k {s t : State} {a0 : _} (h : Kept s t) : KeptO s (execHold a0 t) := by
  unfold execHold
  repeat' first
    | with_reducible assumption
    | (extract_lets +onlyGivenNames x; first | (refine (fun (hx : Kept s x) => ?_) (?_ : Kept s x); all_goals first | (guard_target =ₐ Kept s x; unfold x; clear x) | clear_value x) | clear_value x)
    | with_reducible refine queueBias_k ?_ | with_reducible refine applyCut_k ?_ | with_reducible refine dropJumps_k ?_
    | with_reducible refine endPlay_k ?_ | with_reducible refine takeDue_k ?_ | split
    | with_reducible refine KeptO_next ?_

theorem holdFlux_k {s t : State} {a0 : _} {a1 : _} (h : Kept s t) : Kept s (holdFlux a0 a1 t) := by
  unfold holdFlux
  repeat' first
    | with_reducible assumption | (extract_lets +onlyGivenNames x; clear_value x) | with_reducible refine flxset_k ?_
    | with_reducible refine inc_k ?_ | split

theorem execFlux_k {s t : State} {a0 : _} (h : Kept s t) : KeptO s (execFlux a0 t) := by
  unfold execFlux
  repeat' first
    | with_reducible assumption
    | (extract_lets +onlyGivenNames x; first | (refine (fun (hx : Kept s x) => ?_) (?_ : Kept s x); all_goals first | (guard_target =ₐ Kept s x; unfold x; clear x) | clear_value x) | clear_value x)
    | with_reducible refine holdFlux_k ?_ | with_reducible refine applyCut_k ?_ | with_reducible refine dropJumps_k ?_
    | with_reducible refine endPlay_k ?_ | with_reducible refine takeDue_k ?_ | with_reducible refine inc_k ?_ | split
    | with_reducible refine KeptO_next ?_

theorem execBias_k {s t : State} {a0 : _} (h : Kept s t) : KeptO s (execBias a0 t) := by
  unfold execBias
  repeat' first
    | with_reducible assumption | with_reducible refine queueBias_k ?_ | with_reducible refine takeDue_k ?_ | split
    | with_reducible refine KeptO_next ?_

theorem execMark_k {s t : State} {a0 : _} (h : Kept s t) : KeptO s (execMark a0 t) := by
  unfold execMark
  repeat' first
    | with_reducible assumption
    | (extract_lets +onlyGivenNames x; first | (refine (fun (hx : Kept s x) => ?_) (?_ : Kept s x); all_goals first | (guard_target =ₐ Kept s x; unfold x; clear x) | clear_value x) | clear_value x)
    | with_reducible refine takeDue_k ?_ | with_reducible refine raise_k ?_ | with_reducible refine mkset_k ?_
    | with_reducible refine inc_k ?_ | split | with_reducible refine KeptO_next ?_

theorem execMarkPulseEnd_k {s t : State} {a0 : _} (h : Kept s t) : KeptO s (execMarkPulseEnd a0 t) := by
  unfold execMarkPulseEnd
  repeat' first
    | with_reducible assumption | (extract_lets +onlyGivenNames x; clear_value x) | with_reducible refine mkset_k ?_
    | split | with_reducible refine KeptO_next ?_

theorem writeTap_k {s t : State} {a0 : _} {a1 : _} {a2 : _} (h : Kept s t) : KeptA s (writeTap a0 a1 a2 t) := by
  unfold writeTap
  repeat' first
    | with_reducible assumption | (with_reducible refine Kept_mk (by with_reducible assumption) ?_; rfl)
    | with_reducible refine wr_k ?_ | split | with_reducible refine KeptA_ok ?_ | with_reducible exact KeptA_err

theorem execTapParityFailure_k {s t : State} {a0 : _} {a1 : _} (h : Kept s t) : KeptO s (execTapParityFailure a0 a1 t) := by
  unfold execTapParityFailure
  repeat' first
    | with_reducible assumption | (with_reducible refine Kept_mk (by with_reducible assumption) ?_; rfl)
    | (extract_lets +onlyGivenNames x; first | (refine (fun (hx : Kept s x) => ?_) (?_ : Kept s x); all_goals first | (guard_target =ₐ Kept s x; unfold x; clear x) | clear_value x) | clear_value x)
    | with_reducible refine voidNow_k ?_ | with_reducible refine inc_k ?_ | split | with_reducible refine KeptO_next ?_

theorem setMute_k {s t : State} {a0 : _} {a1 : _} {a2 : _} (h : Kept s t) : Kept s (setMute a0 a1 a2 t) := by
  unfold setMute
  repeat' first
    | with_reducible assumption
    | (extract_lets +onlyGivenNames x; first | (refine (fun (hx : Kept s x) => ?_) (?_ : Kept s x); all_goals first | (guard_target =ₐ Kept s x; unfold x; clear x) | clear_value x) | clear_value x)
    | with_reducible refine wrBit_k ?_ | split

theorem clearMute_k {s t : State} {a0 : _} {a1 : _} {a2 : _} (h : Kept s t) : Kept s (clearMute a0 a1 a2 t) := by
  unfold clearMute
  repeat' first
    | with_reducible assumption | with_reducible refine wrBit_k ?_ | split

theorem writeMute_k {s t : State} {a0 : _} {a1 : _} {a2 : _} (h : Kept s t) : Kept s (writeMute a0 a1 a2 t) := by
  unfold writeMute
  repeat' first
    | with_reducible assumption | with_reducible refine wrBit_k ?_ | split

theorem muteCluster_k {s t : State} {a0 : _} {a1 : _} {a2 : _} (h : Kept s t) : Kept s (muteCluster a0 a1 a2 t) := by
  unfold muteCluster
  repeat' first
    | with_reducible assumption
    | (extract_lets +onlyGivenNames x; first | (refine (fun (hf3 : ∀ a b u, Kept s u → Kept s (x a b u)) => ?_) (?_ : ∀ a b u, Kept s u → Kept s (x a b u)); all_goals first | (guard_target =ₐ ∀ a b u, Kept s u → Kept s (x a b u); unfold x; clear x; intro _ _ _ _) | clear_value x) | clear_value x)
    | with_reducible refine hf3 _ _ _ ?_ | with_reducible refine clearMute_k ?_ | with_reducible refine setMute_k ?_
    | (with_reducible refine Kept_foldl ?_ ?_; intro _ _ _) | split

/-! ### FluxBias -/

theorem fluxSlice_k {s t : State} {a0 : _} {a1 : _} (h : Kept s t) : Kept s (fluxSlice a0 a1 t) := by
  unfold fluxSlice
  repeat' first
    | with_reducible assumption | (extract_lets +onlyGivenNames x; clear_value x) | with_reducible refine flxset_k ?_
    | split

theorem fluxEmit_k {s t : State} {a0 : _} (h : Kept s t) : Kept s (fluxEmit a0 t) := by
  unfold fluxEmit
  repeat' first
    | with_reducible assumption
    | (extract_lets +onlyGivenNames x; first | (refine (fun (hx : Kept s x) => ?_) (?_ : Kept s x); all_goals first | (guard_target =ₐ Kept s x; unfold x; clear x) | clear_value x) | clear_value x)
    | with_reducible refine flxset_k ?_ | with_reducible refine peak_k ?_ | with_reducible refine inc_k ?_ | split

theorem fluxGrain_k {s t : State} {a0 : _} (h : Kept s t) : Kept s (fluxGrain a0 t) := by
  unfold fluxGrain
  repeat' first
    | with_reducible assumption
    | (extract_lets +onlyGivenNames x; (refine (fun (hx : Kept s x) => ?_) (?_ : Kept s x); all_goals first | (guard_target =ₐ Kept s x; unfold x; clear x) | clear_value x))
    | with_reducible refine fluxEmit_k ?_ | with_reducible refine fluxSlice_k ?_
    | (with_reducible refine Kept_foldl ?_ ?_; intro _ _ _) | split

theorem settleFlux_k {s t : State} {a0 : _} (h : Kept s t) : Kept s (settleFlux a0 t) := by
  unfold settleFlux
  repeat' first
    | with_reducible assumption | (extract_lets +onlyGivenNames x; clear_value x) | with_reducible refine flxset_k ?_
    | split

theorem refreshFlux_k {s t : State} {a0 : _} (h : Kept s t) : Kept s (refreshFlux a0 t) := by
  unfold refreshFlux
  repeat' first
    | with_reducible assumption | (extract_lets +onlyGivenNames x; clear_value x) | with_reducible refine flxset_k ?_
    | (with_reducible refine Kept_foldl ?_ ?_; intro _ _ _) | split

theorem writeFluxCoef_k {s t : State} {a0 : _} {a1 : _} {a2 : _} (h : Kept s t) : KeptA s (writeFluxCoef a0 a1 a2 t) := by
  unfold writeFluxCoef
  repeat' first
    | with_reducible assumption
    | (extract_lets +onlyGivenNames x; (refine (fun (hx : Kept s x) => ?_) (?_ : Kept s x); all_goals first | (guard_target =ₐ Kept s x; unfold x; clear x) | clear_value x))
    | with_reducible refine refreshFlux_k ?_ | with_reducible refine settleFlux_k ?_ | with_reducible refine wr_k ?_
    | split | with_reducible refine KeptA_ok ?_ | with_reducible exact KeptA_err

theorem setZero_k {s t : State} {a0 : _} {a1 : _} (h : Kept s t) : Kept s (setZero a0 a1 t) := by
  unfold setZero
  repeat' first
    | with_reducible assumption | (extract_lets +onlyGivenNames x; clear_value x) | with_reducible refine flxset_k ?_
    | with_reducible refine wrBit_k ?_ | split

theorem clearZero_k {s t : State} {a0 : _} {a1 : _} (h : Kept s t) : Kept s (clearZero a0 a1 t) := by
  unfold clearZero
  repeat' first
    | with_reducible assumption
    | (extract_lets +onlyGivenNames x; first | (refine (fun (hx : Kept s x) => ?_) (?_ : Kept s x); all_goals first | (guard_target =ₐ Kept s x; unfold x; clear x) | clear_value x) | clear_value x)
    | with_reducible refine flxset_k ?_ | with_reducible refine slset_k ?_ | with_reducible refine wrBit_k ?_ | split

theorem writeFluxSet_k {s t : State} {a0 : _} {a1 : _} (h : Kept s t) : KeptA s (writeFluxSet a0 a1 t) := by
  unfold writeFluxSet
  repeat' first
    | with_reducible assumption | with_reducible refine holdFlux_k ?_ | with_reducible refine dropJumps_k ?_
    | with_reducible refine endPlay_k ?_ | with_reducible refine inc_k ?_ | split | with_reducible refine KeptA_ok ?_
    | with_reducible exact KeptA_err

theorem takeBias_k {s t : State} {a0 : _} {a1 : _} (h : Kept s t) : Kept s (takeBias a0 a1 t) := by
  unfold takeBias
  repeat' first
    | with_reducible assumption | (extract_lets +onlyGivenNames x; clear_value x) | with_reducible refine biaset_k ?_
    | with_reducible refine wr_k ?_ | split

theorem stepBias_k {s t : State} {a0 : _} (h : Kept s t) : Kept s (stepBias a0 t) := by
  unfold stepBias
  repeat' first
    | with_reducible assumption | (extract_lets +onlyGivenNames x; clear_value x) | with_reducible refine inc_k ?_
    | with_reducible refine wr_k ?_ | split

theorem takeNewest_k {s t : State} {a0 : _} {a1 : _} (h : Kept s t) : Kept s (takeNewest a0 a1 t) := by
  unfold takeNewest
  repeat' first
    | with_reducible assumption
    | (extract_lets +onlyGivenNames x; first | (refine (fun (hx : Kept s x) => ?_) (?_ : Kept s x); all_goals first | (guard_target =ₐ Kept s x; unfold x; clear x) | clear_value x) | clear_value x)
    | with_reducible refine takeBias_k ?_ | with_reducible refine biaset_k ?_ | with_reducible refine incBy_k ?_ | split

theorem updateBias_k {s t : State} {a0 : _} {a1 : _} (h : Kept s t) : Kept s (updateBias a0 a1 t) := by
  unfold updateBias
  repeat' first
    | with_reducible assumption
    | (extract_lets +onlyGivenNames x; first | (refine (fun (hx : Kept s x) => ?_) (?_ : Kept s x); all_goals first | (guard_target =ₐ Kept s x; unfold x; clear x) | clear_value x) | clear_value x)
    | with_reducible refine takeNewest_k ?_ | with_reducible refine stepBias_k ?_ | with_reducible refine biaset_k ?_
    | with_reducible refine wr_k ?_ | split

theorem checkBias_k {s t : State} {a0 : _} {a1 : _} {a2 : _} (h : Kept s t) : Kept s (checkBias a0 a1 a2 t) := by
  unfold checkBias
  repeat' first
    | with_reducible assumption
    | (extract_lets +onlyGivenNames x; (refine (fun (hx : Kept s x) => ?_) (?_ : Kept s x); all_goals first | (guard_target =ₐ Kept s x; unfold x; clear x) | clear_value x))
    | with_reducible refine flag_k ?_ | with_reducible refine inc_k ?_ | split

theorem execBiasUpdate_k {s t : State} {a0 : _} {a1 : _} (h : Kept s t) : KeptO s (execBiasUpdate a0 a1 t) := by
  unfold execBiasUpdate
  repeat' first
    | with_reducible assumption | (with_reducible refine Kept_mk (by with_reducible assumption) ?_; rfl)
    | (extract_lets +onlyGivenNames x; clear_value x) | with_reducible refine checkBias_k ?_
    | with_reducible refine updateBias_k ?_ | (with_reducible refine Kept_foldl ?_ ?_; intro _ _ _) | split
    | with_reducible refine KeptO_next ?_

theorem execBiasSafeLoad_k {s t : State} {a0 : _} (h : Kept s t) : KeptO s (execBiasSafeLoad a0 t) := by
  unfold execBiasSafeLoad
  repeat' first
    | with_reducible assumption | (extract_lets +onlyGivenNames x; clear_value x) | with_reducible refine biaset_k ?_
    | with_reducible refine wr_k ?_ | (with_reducible refine Kept_foldl ?_ ?_; intro _ _ _) | split
    | with_reducible refine KeptO_next ?_

theorem faultBias_k {s t : State} {a0 : _} (h : Kept s t) : Kept s (faultBias a0 t) := by
  unfold faultBias
  repeat' first
    | with_reducible assumption
    | (extract_lets +onlyGivenNames x; first | (refine (fun (hx : Kept s x) => ?_) (?_ : Kept s x); all_goals first | (guard_target =ₐ Kept s x; unfold x; clear x) | clear_value x) | clear_value x)
    | with_reducible refine biaset_k ?_ | with_reducible refine incBy_k ?_ | with_reducible refine wr_k ?_ | split

theorem writeBiasSet_k {s t : State} {a0 : _} {a1 : _} (h : Kept s t) : KeptA s (writeBiasSet a0 a1 t) := by
  unfold writeBiasSet
  repeat' first
    | with_reducible assumption | with_reducible refine queueBias_k ?_ | split | with_reducible refine KeptA_ok ?_
    | with_reducible exact KeptA_err

theorem writeBiasSense_k {s t : State} {a0 : _} {a1 : _} (h : Kept s t) : KeptA s (writeBiasSense a0 a1 t) := by
  unfold writeBiasSense
  repeat' first
    | with_reducible assumption | with_reducible refine wr_k ?_ | split | with_reducible refine KeptA_ok ?_
    | with_reducible exact KeptA_err

/-! ### Synthesis -/

theorem noteChain_k {s t : State} {a0 : _} {a1 : _} (h : Kept s t) : Kept s (noteChain a0 a1 t) := by
  unfold noteChain
  repeat' first
    | with_reducible assumption | (extract_lets +onlyGivenNames x; clear_value x) | with_reducible refine rgset_k ?_
    | split

theorem channelGrain_k {s t : State} {a0 : _} {a1 : _} {a2 : _} (h : Kept s t) : Kept s (channelGrain a0 a1 a2 t) := by
  unfold channelGrain
  repeat' first
    | with_reducible assumption
    | (extract_lets +onlyGivenNames x; first | (refine (fun (hx : Kept s x) => ?_) (?_ : Kept s x); all_goals first | (guard_target =ₐ Kept s x; unfold x; clear x) | clear_value x) | clear_value x)
    | with_reducible refine peak_k ?_ | with_reducible refine inc_k ?_
    | (with_reducible refine Kept_foldl ?_ ?_; intro _ _ _) | split

theorem toneGrain_k {s t : State} {a0 : _} (h : Kept s t) : Kept s (toneGrain a0 t) := by
  unfold toneGrain
  repeat' first
    | with_reducible assumption
    | (extract_lets +onlyGivenNames x; (refine (fun (hx : Kept s x) => ?_) (?_ : Kept s x); all_goals first | (guard_target =ₐ Kept s x; unfold x; clear x) | clear_value x))
    | with_reducible refine channelGrain_k ?_ | with_reducible refine noteChain_k ?_ | with_reducible refine applyCut_k ?_
    | (with_reducible refine Kept_foldl ?_ ?_; intro _ _ _) | split

theorem pruneTones_k {s t : State} {a0 : _} (h : Kept s t) : Kept s (pruneTones a0 t) := by
  unfold pruneTones
  repeat' first
    | with_reducible assumption | (with_reducible refine Kept_mk (by with_reducible assumption) ?_; rfl)
    | (extract_lets +onlyGivenNames x; first | (refine (fun (hx : Kept s x) => ?_) (?_ : Kept s x); all_goals first | (guard_target =ₐ Kept s x; unfold x; clear x) | clear_value x) | clear_value x)
    | with_reducible refine slset_k ?_ | (with_reducible refine Kept_foldl ?_ ?_; intro _ _ _) | split

/-! ### EngineOps -/

theorem spend_k {s t : State} {a0 : _} {a1 : _} (h : Kept s t) : Kept s (spend a0 a1 t) := by
  unfold spend
  repeat' first
    | with_reducible assumption
    | (extract_lets +onlyGivenNames x; first | (refine (fun (hx : Kept s x.2) => ?_) (?_ : Kept s x.2); all_goals first | (guard_target =ₐ Kept s x.2; unfold x; clear x) | clear_value x) | clear_value x)
    | with_reducible refine eset_k ?_ | with_reducible refine fresh_k ?_
    | with_reducible refine KeptP.snd (fresh_k ?_) (by assumption) | split

theorem execOpcode_k {s t : State} {a0 : _} {a1 : _} (h : Kept s t) : Kept s (execOpcode a0 a1 t) := by
  unfold execOpcode
  repeat' first
    | with_reducible assumption
    | (extract_lets +onlyGivenNames x; first | (refine (fun (hx : Kept s x) => ?_) (?_ : Kept s x); all_goals first | (guard_target =ₐ Kept s x; unfold x; clear x) | clear_value x) | clear_value x)
    | with_reducible refine spend_k ?_ | with_reducible refine eset_k ?_ | split

theorem takeQueue_k {s t : State} {a0 : _} {a1 : _} (h : Kept s t) : Kept s (takeQueue a0 a1 t) := by
  induction a1 generalizing t with
  | zero =>
    unfold takeQueue
    repeat' first
      | with_reducible assumption | with_reducible refine passCut_k ?_ | with_reducible refine readWord_k ?_
      | with_reducible refine KeptP.snd (readWord_k ?_) (by assumption) | split
  | succ n ih =>
    unfold takeQueue
    repeat' first
      | with_reducible assumption | with_reducible refine passCut_k ?_ | with_reducible refine readWord_k ?_
      | with_reducible refine KeptP.snd (readWord_k ?_) (by assumption) | with_reducible refine ih ?_ | split

theorem endPass_k {s t : State} {a0 : _} (h : Kept s t) : Kept s (endPass a0 t) := by
  unfold endPass
  repeat' first
    | with_reducible assumption | (extract_lets +onlyGivenNames x; clear_value x) | with_reducible refine spend_k ?_
    | with_reducible refine eset_k ?_ | split

theorem consume_k {s t : State} {a0 : _} {a1 : _} (h : Kept s t) : Kept s (consume a0 a1 t) := by
  unfold consume
  repeat' first
    | with_reducible assumption
    | (extract_lets +onlyGivenNames x; first | (refine (fun (hx : Kept s x) => ?_) (?_ : Kept s x); all_goals first | (guard_target =ₐ Kept s x; unfold x; clear x) | clear_value x) | clear_value x)
    | with_reducible refine takeQueue_k ?_ | with_reducible refine eset_k ?_ | split

theorem afterPacket_k {s t : State} {a0 : _} (h : Kept s t) : Kept s (afterPacket a0 t) := by
  unfold afterPacket
  repeat' first
    | with_reducible assumption
    | (extract_lets +onlyGivenNames x; first | (refine (fun (hx : Kept s x) => ?_) (?_ : Kept s x); all_goals first | (guard_target =ₐ Kept s x; unfold x; clear x) | clear_value x) | clear_value x)
    | with_reducible refine endPass_k ?_ | with_reducible refine eset_k ?_ | with_reducible refine inc_k ?_ | split

theorem dropWhole_k {s t : State} {a0 : _} {a1 : _} {a2 : _} (h : Kept s t) : Kept s (dropWhole a0 a1 a2 t) := by
  unfold dropWhole
  repeat' first
    | with_reducible assumption
    | (extract_lets +onlyGivenNames x; first | (refine (fun (hx : Kept s x) => ?_) (?_ : Kept s x); all_goals first | (guard_target =ₐ Kept s x; unfold x; clear x) | clear_value x) | clear_value x)
    | with_reducible refine spend_k ?_ | with_reducible refine voidNum_k ?_ | with_reducible refine voidNow_k ?_
    | with_reducible refine inc_k ?_ | split

theorem dropIllegal_k {s t : State} {a0 : _} {a1 : _} {a2 : _} (h : Kept s t) : Kept s (dropIllegal a0 a1 a2 t) := by
  unfold dropIllegal
  repeat' first
    | with_reducible assumption | with_reducible refine dropWhole_k ?_ | split

theorem pushOut_k {s t : State} {a0 : _} {a1 : _} (h : Kept s t) : Kept s (pushOut a0 a1 t) := by
  induction a1 generalizing t with
  | zero =>
    unfold pushOut
    repeat' first
      | with_reducible assumption | (extract_lets +onlyGivenNames x; clear_value x) | with_reducible refine eset_k ?_
      | with_reducible refine fset_k ?_ | split
  | succ n ih =>
    unfold pushOut
    repeat' first
      | with_reducible assumption | (extract_lets +onlyGivenNames x; clear_value x) | with_reducible refine eset_k ?_
      | with_reducible refine fset_k ?_ | with_reducible refine ih ?_ | split

theorem emit_k {s t : State} {a0 : _} {a1 : _} (h : Kept s t) : Kept s (emit a0 a1 t) := by
  unfold emit
  repeat' first
    | with_reducible assumption | (extract_lets +onlyGivenNames x; clear_value x) | with_reducible refine pushOut_k ?_
    | with_reducible refine eset_k ?_ | split

theorem schedPoison_k {s t : State} {a0 : _} (h : Kept s t) : Kept s (schedPoison a0 t) := by
  unfold schedPoison
  repeat' first
    | with_reducible assumption | with_reducible refine runEndFault_k ?_ | with_reducible refine inc_k ?_ | split

theorem storeFault_k {s t : State} {a0 : _} (h : Kept s t) : Kept s (storeFault a0 t) := by
  unfold storeFault
  repeat' first
    | with_reducible assumption
    | (extract_lets +onlyGivenNames x; (refine (fun (hx : Kept s x) => ?_) (?_ : Kept s x); all_goals first | (guard_target =ₐ Kept s x; unfold x; clear x) | clear_value x))
    | with_reducible refine spend_k ?_ | with_reducible refine runEndFault_k ?_ | with_reducible refine inc_k ?_ | split

theorem startRoutine_k {s t : State} {a0 : _} {a1 : _} (h : Kept s t) : Kept s (startRoutine a0 a1 t) := by
  unfold startRoutine
  repeat' first
    | with_reducible assumption | (extract_lets +onlyGivenNames x; clear_value x) | with_reducible refine storeFault_k ?_
    | with_reducible refine eset_k ?_ | split

theorem schedFrame_k {s t : State} {op e : Nat} {b : Bool} {f : List QWord → State → State} (h : Kept s t)
    (hf : ∀ qs, Kept s (f qs t)) : Kept s (schedFrame op e b f t) := by
  unfold schedFrame
  split
  · exact h
  split
  · split
    · exact storeFault_k h
    · exact h
  split
  · split
    · split
      · exact storeFault_k h
      · exact hf _
    · exact h
  split
  · exact inc_k (eset_k h)
  · exact h
  · extract_lets o
    split
    · exact h
    split
    · exact storeFault_k h
    split
    · exact schedPoison_k (consume_k h)
    split
    · exact afterPacket_k (dropIllegal_k (consume_k h))
    split
    · exact afterPacket_k (dropIllegal_k (consume_k h))
    split
    · exact startRoutine_k h
    · exact hf _

theorem emitOpcode_k {s t : State} {a0 : _} {a1 : _} {a2 : _} (h : Kept s t) : Kept s (emitOpcode a0 a1 a2 t) := by
  unfold emitOpcode
  repeat' first
    | with_reducible assumption
    | (extract_lets +onlyGivenNames x; first | (refine (fun (hx : Kept s x) => ?_) (?_ : Kept s x); all_goals first | (guard_target =ₐ Kept s x; unfold x; clear x) | clear_value x) | clear_value x)
    | with_reducible refine emit_k ?_ | with_reducible refine dropIllegal_k ?_ | with_reducible refine afterPacket_k ?_
    | with_reducible refine consume_k ?_ | with_reducible refine execOpcode_k ?_ | split

/-! ### Engines -/

theorem execScheduleFetchChunk_k {s t : State} {a0 : _} (h : Kept s t) : KeptO s (execScheduleFetchChunk a0 t) := by
  unfold execScheduleFetchChunk
  repeat' first
    | with_reducible assumption
    | (extract_lets +onlyGivenNames x; first | (refine (fun (hx : Kept s x.2) => ?_) (?_ : Kept s x.2); all_goals first | (guard_target =ₐ Kept s x.2; unfold x; clear x) | clear_value x) | clear_value x)
    | with_reducible refine dramRead_k ?_ | with_reducible refine KeptP.snd (dramRead_k ?_) (by assumption)
    | with_reducible refine aset_k ?_ | split | with_reducible refine KeptO_next ?_

theorem deliver_k {s t : State} {a0 : _} {a1 : _} (h : Kept s t) : Kept s (deliver a0 a1 t) := by
  unfold deliver
  repeat' first
    | with_reducible assumption
    | (extract_lets +onlyGivenNames x; first | (refine (fun (hx : Kept s x) => ?_) (?_ : Kept s x); all_goals first | (guard_target =ₐ Kept s x; unfold x; clear x) | clear_value x) | clear_value x)
    | with_reducible refine writePacket_k ?_ | with_reducible refine eset_k ?_ | split

theorem execSchedulePacketDelivery_k {s t : State} {a0 : _} (h : Kept s t) : KeptO s (execSchedulePacketDelivery a0 t) := by
  unfold execSchedulePacketDelivery
  repeat' first
    | with_reducible assumption | (extract_lets +onlyGivenNames x; clear_value x) | with_reducible refine deliver_k ?_
    | with_reducible refine aset_k ?_ | with_reducible refine inc_k ?_ | split | with_reducible refine KeptO_next ?_

theorem gatherWords_k {s t : State} {a0 : _} {a1 : _} (h : Kept s t) : Kept s (gatherWords a0 a1 t) := by
  induction a1 generalizing t with
  | zero =>
    unfold gatherWords
    repeat' first
      | with_reducible assumption
      | (extract_lets +onlyGivenNames x; first | (refine (fun (hx : Kept s x.2) => ?_) (?_ : Kept s x.2); all_goals first | (guard_target =ₐ Kept s x.2; unfold x; clear x) | clear_value x) | clear_value x)
      | with_reducible refine passCut_k ?_ | with_reducible refine readWord_k ?_
      | with_reducible refine KeptP.snd (readWord_k ?_) (by assumption) | with_reducible refine eset_k ?_ | split
  | succ n ih =>
    unfold gatherWords
    repeat' first
      | with_reducible assumption
      | (extract_lets +onlyGivenNames x; first | (refine (fun (hx : Kept s x.2) => ?_) (?_ : Kept s x.2); all_goals first | (guard_target =ₐ Kept s x.2; unfold x; clear x) | clear_value x) | clear_value x)
      | with_reducible refine passCut_k ?_ | with_reducible refine readWord_k ?_
      | with_reducible refine KeptP.snd (readWord_k ?_) (by assumption) | with_reducible refine eset_k ?_
      | with_reducible refine ih ?_ | split

theorem beginGather_k {s t : State} {a0 : _} {a1 : _} {a2 : _} (h : Kept s t) : Kept s (beginGather a0 a1 a2 t) := by
  unfold beginGather
  repeat' first
    | with_reducible assumption
    | (extract_lets +onlyGivenNames x; first | (refine (fun (hx : Kept s x) => ?_) (?_ : Kept s x); all_goals first | (guard_target =ₐ Kept s x; unfold x; clear x) | clear_value x) | clear_value x)
    | with_reducible refine consume_k ?_ | with_reducible refine eset_k ?_ | split

theorem endGather_k {s t : State} {a0 : _} (h : Kept s t) : Kept s (endGather a0 t) := by
  unfold endGather
  repeat' first
    | with_reducible assumption | (extract_lets +onlyGivenNames x; clear_value x) | with_reducible refine eset_k ?_
    | split

theorem starve_k {s t : State} {a0 : _} (h : Kept s t) : Kept s (starve a0 t) := by
  unfold starve
  repeat' first
    | with_reducible assumption | (extract_lets +onlyGivenNames x; clear_value x) | with_reducible refine eset_k ?_
    | with_reducible refine inc_k ?_ | split

theorem gatherPackets_k {s t : State} {a0 : _} {a1 : _} {a2 : _} (h : Kept s t) : Kept s (gatherPackets a0 a1 a2 t) := by
  induction a2 generalizing t with
  | zero =>
    unfold gatherPackets
    repeat' first
      | with_reducible assumption | (extract_lets +onlyGivenNames x; clear_value x) | with_reducible refine gatherWords_k ?_
      | split
  | succ n ih =>
    unfold gatherPackets
    repeat' first
      | with_reducible assumption | (extract_lets +onlyGivenNames x; clear_value x) | with_reducible refine gatherWords_k ?_
      | with_reducible refine ih ?_ | split

theorem finishItem_k {s t : State} {a0 : _} {a1 : _} {a2 : _} (h : Kept s t) : Kept s (finishItem a0 a1 a2 t) := by
  unfold finishItem
  repeat' first
    | with_reducible assumption
    | (extract_lets +onlyGivenNames x; first | (refine (fun (hx : Kept s x) => ?_) (?_ : Kept s x); all_goals first | (guard_target =ₐ Kept s x; unfold x; clear x) | clear_value x) | clear_value x)
    | with_reducible refine emit_k ?_ | with_reducible refine dropWhole_k ?_ | with_reducible refine afterPacket_k ?_
    | with_reducible refine execOpcode_k ?_ | (with_reducible refine Kept_foldl ?_ ?_; intro _ _ _) | split

theorem altEffect_k {s t : State} {a0 : _} {a1 : _} (h : Kept s t) : Kept s (altEffect a0 a1 t) := by
  unfold altEffect
  repeat' first
    | with_reducible assumption
    | (extract_lets +onlyGivenNames x; first | (refine (fun (hx : Kept s x) => ?_) (?_ : Kept s x); all_goals first | (guard_target =ₐ Kept s x; unfold x; clear x) | clear_value x) | clear_value x)
    | with_reducible refine finishItem_k ?_ | with_reducible refine gatherPackets_k ?_ | with_reducible refine starve_k ?_
    | with_reducible refine endGather_k ?_ | with_reducible refine beginGather_k ?_
    | with_reducible refine schedPoison_k ?_ | with_reducible refine consume_k ?_ | split

theorem selectEffect_k {s t : State} {a0 : _} {a1 : _} (h : Kept s t) : Kept s (selectEffect a0 a1 t) := by
  unfold selectEffect
  repeat' first
    | with_reducible assumption
    | (extract_lets +onlyGivenNames x; first | (refine (fun (hx : Kept s x) => ?_) (?_ : Kept s x); all_goals first | (guard_target =ₐ Kept s x; unfold x; clear x) | clear_value x) | clear_value x)
    | with_reducible refine emit_k ?_ | with_reducible refine dropIllegal_k ?_ | with_reducible refine afterPacket_k ?_
    | with_reducible refine consume_k ?_ | with_reducible refine execOpcode_k ?_ | split

theorem beginWait_k {s t : State} {a0 : _} {a1 : _} (h : Kept s t) : Kept s (beginWait a0 a1 t) := by
  unfold beginWait
  repeat' first
    | with_reducible assumption
    | (extract_lets +onlyGivenNames x; first | (refine (fun (hx : Kept s x) => ?_) (?_ : Kept s x); all_goals first | (guard_target =ₐ Kept s x; unfold x; clear x) | clear_value x) | clear_value x)
    | with_reducible refine eset_k ?_ | with_reducible refine inc_k ?_ | split

theorem waitevtEffect_k {s t : State} {a0 : _} {a1 : _} (h : Kept s t) : Kept s (waitevtEffect a0 a1 t) := by
  unfold waitevtEffect
  repeat' first
    | with_reducible assumption | (extract_lets +onlyGivenNames x; clear_value x) | with_reducible refine beginWait_k ?_
    | with_reducible refine consume_k ?_ | with_reducible refine endPass_k ?_ | with_reducible refine execOpcode_k ?_
    | split

theorem finishLoop_k {s t : State} {a0 : _} {a1 : _} {a2 : _} (h : Kept s t) : Kept s (finishLoop a0 a1 a2 t) := by
  unfold finishLoop
  repeat' first
    | with_reducible assumption
    | (extract_lets +onlyGivenNames x; first | (refine (fun (hx : Kept s x) => ?_) (?_ : Kept s x); all_goals first | (guard_target =ₐ Kept s x; unfold x; clear x) | clear_value x) | clear_value x)
    | with_reducible refine dropIllegal_k ?_ | with_reducible refine afterPacket_k ?_
    | with_reducible refine execOpcode_k ?_ | with_reducible refine eset_k ?_ | split

theorem loopEffect_k {s t : State} {a0 : _} {a1 : _} (h : Kept s t) : Kept s (loopEffect a0 a1 t) := by
  unfold loopEffect
  repeat' first
    | with_reducible assumption
    | (extract_lets +onlyGivenNames x; first | (refine (fun (hx : Kept s x) => ?_) (?_ : Kept s x); all_goals first | (guard_target =ₐ Kept s x; unfold x; clear x) | clear_value x) | clear_value x)
    | with_reducible refine finishLoop_k ?_ | with_reducible refine starve_k ?_ | with_reducible refine endGather_k ?_
    | with_reducible refine beginGather_k ?_ | with_reducible refine gatherWords_k ?_
    | with_reducible refine schedPoison_k ?_ | split

theorem execFifoWaitEnd_k {s t : State} {a0 : _} (h : Kept s t) : KeptO s (execFifoWaitEnd a0 t) := by
  unfold execFifoWaitEnd
  repeat' first
    | with_reducible assumption
    | (extract_lets +onlyGivenNames x; first | (refine (fun (hx : Kept s x) => ?_) (?_ : Kept s x); all_goals first | (guard_target =ₐ Kept s x; unfold x; clear x) | clear_value x) | clear_value x)
    | with_reducible refine pushOut_k ?_ | with_reducible refine afterPacket_k ?_ | with_reducible refine eset_k ?_
    | split | with_reducible refine KeptO_next ?_

/-! ### Truss -/

theorem execChannelEvent_k {s t : State} {a0 : _} (h : Kept s t) : KeptO s (execChannelEvent a0 t) := by
  unfold execChannelEvent
  repeat' first
    | with_reducible assumption | (with_reducible refine Kept_mk (by with_reducible assumption) ?_; rfl)
    | (extract_lets +onlyGivenNames x; first | (refine (fun (hx : Kept s x) => ?_) (?_ : Kept s x); all_goals first | (guard_target =ₐ Kept s x; unfold x; clear x) | clear_value x) | clear_value x)
    | with_reducible refine chset_k ?_ | with_reducible refine inc_k ?_ | with_reducible refine wr_k ?_ | split
    | with_reducible refine KeptO_next ?_

theorem writeProducer_k {s t : State} {a0 : _} {a1 : _} {a2 : _} (h : Kept s t) : KeptA s (writeProducer a0 a1 a2 t) := by
  unfold writeProducer
  repeat' first
    | with_reducible assumption | (extract_lets +onlyGivenNames x; clear_value x) | with_reducible refine wr_k ?_ | split
    | with_reducible refine KeptA_ok ?_ | with_reducible exact KeptA_err

theorem aimTimer_k {s t : State} {a0 : _} {a1 : _} {a2 : _} (h : Kept s t) : Kept s (aimTimer a0 a1 a2 t) := by
  unfold aimTimer
  repeat' first
    | with_reducible assumption | (extract_lets +onlyGivenNames x; clear_value x) | with_reducible refine tset_k ?_
    | with_reducible refine incBy_k ?_ | split

theorem timerRun_k {s t : State} {a0 : _} (h : Kept s t) : Kept s (timerRun a0 t) := by
  unfold timerRun
  repeat' first
    | with_reducible assumption | with_reducible refine aimTimer_k ?_ | with_reducible refine wr_k ?_ | split

theorem timerStop_k {s t : State} {a0 : _} (h : Kept s t) : Kept s (timerStop a0 t) := by
  unfold timerStop
  repeat' first
    | with_reducible assumption | with_reducible refine tset_k ?_ | with_reducible refine wr_k ?_ | split

theorem timerRealign_k {s t : State} {a0 : _} (h : Kept s t) : Kept s (timerRealign a0 t) := by
  unfold timerRealign
  repeat' first
    | with_reducible assumption | with_reducible refine aimTimer_k ?_ | split

theorem timerFire_k {s t : State} {a0 : _} {a1 : _} (h : Kept s t) : Kept s (timerFire a0 a1 t) := by
  unfold timerFire
  repeat' first
    | with_reducible assumption
    | (extract_lets +onlyGivenNames x; first | (refine (fun (hx : Kept s x) => ?_) (?_ : Kept s x); all_goals first | (guard_target =ₐ Kept s x; unfold x; clear x) | clear_value x) | clear_value x)
    | with_reducible refine timerStop_k ?_ | with_reducible refine raise_k ?_ | with_reducible refine tset_k ?_
    | with_reducible refine inc_k ?_ | split

theorem execTrussPulseStart_k {s t : State} {a0 : _} (h : Kept s t) : KeptO s (execTrussPulseStart a0 t) := by
  unfold execTrussPulseStart
  repeat' first
    | with_reducible assumption | (extract_lets +onlyGivenNames x; clear_value x) | with_reducible refine mkset_k ?_
    | split | with_reducible refine KeptO_next ?_

theorem execTrussPulseEnd_k {s t : State} {a0 : _} (h : Kept s t) : KeptO s (execTrussPulseEnd a0 t) := by
  unfold execTrussPulseEnd
  repeat' first
    | with_reducible assumption | (extract_lets +onlyGivenNames x; clear_value x) | with_reducible refine mkset_k ?_
    | split | with_reducible refine KeptO_next ?_

end Sys2Proof.Machine
end

