-- ==== Sys2Proof/Laws/KeptEdge.lean ====
section
/-! SUPPORT. The waiting commands and the memories' form are kept by the acquisition side, read-out, feedback, the abutments, profiles, compensation and shots. -/

namespace Sys2Proof.Machine

-- One proof at a time: proofs elaborated side by side take more memory than the check grants.
set_option Elab.async false
set_option linter.all false

/-! ### AcqOps -/

theorem rsset_k {s t : State} {a0 : _} {a1 : _} (h : Kept s t) : Kept s (rsset a0 a1 t) := by
  unfold rsset
  repeat' first
    | with_reducible assumption | (with_reducible refine Kept_mk (by with_reducible assumption) ?_; rfl) | split

theorem rdset_k {s t : State} {a0 : _} {a1 : _} (h : Kept s t) : Kept s (rdset a0 a1 t) := by
  unfold rdset
  repeat' first
    | with_reducible assumption | (with_reducible refine Kept_mk (by with_reducible assumption) ?_; rfl) | split

theorem trset_k {s t : State} {a0 : _} {a1 : _} (h : Kept s t) : Kept s (trset a0 a1 t) := by
  unfold trset
  repeat' first
    | with_reducible assumption | (with_reducible refine Kept_mk (by with_reducible assumption) ?_; rfl) | split

theorem aqset_k {s t : State} {a0 : _} {a1 : _} (h : Kept s t) : Kept s (aqset a0 a1 t) := by
  unfold aqset
  repeat' first
    | with_reducible assumption | (with_reducible refine Kept_mk (by with_reducible assumption) ?_; rfl) | split

theorem brset_k {s t : State} {a0 : _} {a1 : _} (h : Kept s t) : Kept s (brset a0 a1 t) := by
  unfold brset
  repeat' first
    | with_reducible assumption | (with_reducible refine Kept_mk (by with_reducible assumption) ?_; rfl) | split

theorem bcset_k {s t : State} {a0 : _} {a1 : _} (h : Kept s t) : Kept s (bcset a0 a1 t) := by
  unfold bcset
  repeat' first
    | with_reducible assumption | (with_reducible refine Kept_mk (by with_reducible assumption) ?_; rfl) | split

theorem awaitRecord_k {s t : State} {a0 : _} {a1 : _} (h : Kept s t) : Kept s (awaitRecord a0 a1 t) := by
  unfold awaitRecord
  repeat' first
    | with_reducible assumption | (extract_lets +onlyGivenNames x; clear_value x) | with_reducible refine rsset_k ?_
    | split

theorem settleRecord_k {s t : State} {a0 : _} (h : Kept s t) : Kept s (settleRecord a0 t) := by
  unfold settleRecord
  repeat' first
    | with_reducible assumption | (extract_lets +onlyGivenNames x; clear_value x) | with_reducible refine rsset_k ?_
    | split

theorem incShot_k {s t : State} {a0 : _} {a1 : _} {a2 : _} (h : Kept s t) : Kept s (incShot a0 a1 a2 t) := by
  unfold incShot
  repeat' first
    | with_reducible assumption | (with_reducible refine Kept_mk (by with_reducible assumption) ?_; rfl)
    | (extract_lets +onlyGivenNames x; clear_value x) | with_reducible refine inc_k ?_ | split

theorem clearIncs_k {s t : State} {a0 : _} {a1 : _} (h : Kept s t) : Kept s (clearIncs a0 a1 t) := by
  unfold clearIncs
  repeat' first
    | with_reducible assumption | (with_reducible refine Kept_mk (by with_reducible assumption) ?_; rfl) | split

theorem closeIncs_k {s t : State} {n : Nat} {v : Bool} (h : Kept s t) : Kept s (closeIncs n v t) := by
  unfold closeIncs
  refine Kept_mk' h id id id id id id (fun w => ?_)
  dsimp only
  split
  · refine List.foldlRecOn (motive := fun m => mrising m = true) _ _ w ?_
    intro m hm e _
    split
    · exact hm
    · exact mrising_mput _ _ hm
  · exact w

theorem appendRecords_k {s t : State} {a0 : _} (h : Kept s t) : Kept s (appendRecords a0 t) := by
  unfold appendRecords
  repeat' first
    | with_reducible assumption | (with_reducible refine Kept_mk (by with_reducible assumption) ?_; rfl)
    | (extract_lets +onlyGivenNames x; first | (refine (fun (hx : Kept s x) => ?_) (?_ : Kept s x); all_goals first | (guard_target =ₐ Kept s x; unfold x; clear x) | clear_value x) | clear_value x)
    | with_reducible refine peak_k ?_ | split

theorem putRecords_k {s t : State} {a0 : _} (h : Kept s t) : Kept s (putRecords a0 t) := by
  unfold putRecords
  repeat' first
    | with_reducible assumption | (with_reducible refine Kept_mk (by with_reducible assumption) ?_; rfl)
    | (extract_lets +onlyGivenNames x; clear_value x) | with_reducible refine appendRecords_k ?_
    | with_reducible refine inc_k ?_ | split

theorem loseShot_k {s t : State} {a0 : _} {a1 : _} (h : Kept s t) : Kept s (loseShot a0 a1 t) := by
  unfold loseShot
  repeat' first
    | with_reducible assumption | (with_reducible refine Kept_mk (by with_reducible assumption) ?_; rfl)
    | (extract_lets +onlyGivenNames x; clear_value x) | with_reducible refine inc_k ?_ | split

theorem loseLoose_k {s t : State} {a0 : _} (h : Kept s t) : Kept s (loseLoose a0 t) := by
  unfold loseLoose
  repeat' first
    | with_reducible assumption | (with_reducible refine Kept_mk (by with_reducible assumption) ?_; rfl)
    | (extract_lets +onlyGivenNames x; clear_value x) | split

theorem directRecord_k {s t : State} {a0 : _} (h : Kept s t) : Kept s (directRecord a0 t) := by
  unfold directRecord
  repeat' first
    | with_reducible assumption | (extract_lets +onlyGivenNames x; clear_value x) | with_reducible refine loseLoose_k ?_
    | with_reducible refine putRecords_k ?_ | with_reducible refine inc_k ?_ | split

theorem raiseHalt_k {s t : State} {a0 : _} {a1 : _} {a2 : _} (h : Kept s t) : Kept s (raiseHalt a0 a1 a2 t) := by
  unfold raiseHalt
  repeat' first
    | with_reducible assumption
    | (extract_lets +onlyGivenNames x; first | (refine (fun (hx : Kept s x) => ?_) (?_ : Kept s x); all_goals first | (guard_target =ₐ Kept s x; unfold x; clear x) | clear_value x) | clear_value x)
    | with_reducible refine rgset_k ?_ | with_reducible refine eset_k ?_ | with_reducible refine inc_k ?_
    | (with_reducible refine Kept_foldl ?_ ?_; intro _ _ _) | split

theorem resumeEngines_k {s t : State} {a0 : _} (h : Kept s t) : Kept s (resumeEngines a0 t) := by
  unfold resumeEngines
  repeat' first
    | with_reducible assumption
    | (extract_lets +onlyGivenNames x; first | (refine (fun (hx : Kept s x) => ?_) (?_ : Kept s x); all_goals first | (guard_target =ₐ Kept s x; unfold x; clear x) | clear_value x) | clear_value x)
    | with_reducible refine eset_k ?_ | (with_reducible refine Kept_foldl ?_ ?_; intro _ _ _) | split

theorem lowerHalts_k {s t : State} {a0 : _} (h : Kept s t) : Kept s (lowerHalts a0 t) := by
  unfold lowerHalts
  repeat' first
    | with_reducible assumption
    | (extract_lets +onlyGivenNames x; first | (refine (fun (hx : Kept s x) => ?_) (?_ : Kept s x); all_goals first | (guard_target =ₐ Kept s x; unfold x; clear x) | clear_value x) | clear_value x)
    | with_reducible refine resumeEngines_k ?_ | with_reducible refine rgset_k ?_ | split

theorem dropHalts_k {s t : State} {a0 : _} (h : Kept s t) : Kept s (dropHalts a0 t) := by
  unfold dropHalts
  repeat' first
    | with_reducible assumption | (extract_lets +onlyGivenNames x; clear_value x)
    | with_reducible refine resumeEngines_k ?_ | with_reducible refine rgset_k ?_ | split

theorem execHaltRaise_k {s t : State} {a0 : _} (h : Kept s t) : KeptO s (execHaltRaise a0 t) := by
  unfold execHaltRaise
  repeat' first
    | with_reducible assumption | (extract_lets +onlyGivenNames x; clear_value x) | with_reducible refine raiseHalt_k ?_
    | split | with_reducible refine KeptO_next ?_

/-! ### Readout -/

theorem peakCodes_k {s t : State} {a0 : _} {a1 : _} (h : Kept s t) : Kept s (peakCodes a0 a1 t) := by
  unfold peakCodes
  repeat' first
    | with_reducible assumption | with_reducible refine peak_k ?_ | split

theorem setLast_k {s t : State} {a0 : _} {a1 : _} (h : Kept s t) : Kept s (setLast a0 a1 t) := by
  unfold setLast
  repeat' first
    | with_reducible assumption | with_reducible refine wr_k ?_ | split

theorem execWindowClose_k {s t : State} {a0 : _} {a1 : _} {a2 : _} (h : Kept s t) : KeptO s (execWindowClose a0 a1 a2 t) := by
  unfold execWindowClose
  repeat' first
    | with_reducible assumption
    | (extract_lets +onlyGivenNames x; first | (refine (fun (hx : Kept s x) => ?_) (?_ : Kept s x); all_goals first | (guard_target =ₐ Kept s x; unfold x; clear x) | clear_value x) | clear_value x)
    | with_reducible refine setLast_k ?_ | with_reducible refine peakCodes_k ?_ | with_reducible refine lowerHalts_k ?_
    | with_reducible refine incShot_k ?_ | with_reducible refine rdset_k ?_ | with_reducible refine voidNow_k ?_
    | with_reducible refine inc_k ?_ | split | with_reducible refine KeptO_next ?_

theorem crossRecord_k {s t : State} {a0 : _} {a1 : _} {a2 : _} {a3 : _} (h : Kept s t) : Kept s (crossRecord a0 a1 a2 a3 t) := by
  unfold crossRecord
  repeat' first
    | with_reducible assumption | (with_reducible refine Kept_mk (by with_reducible assumption) ?_; rfl)
    | with_reducible refine settleRecord_k ?_ | with_reducible refine voidNow_k ?_ | with_reducible refine inc_k ?_
    | split

theorem boardWrite_k {s t : State} {a0 : _} {a1 : _} {a2 : _} {a3 : _} {a4 : _} {a5 : _} (h : Kept s t) : Kept s (boardWrite a0 a1 a2 a3 a4 a5 t) := by
  unfold boardWrite
  repeat' first
    | with_reducible assumption | (extract_lets +onlyGivenNames x; clear_value x) | with_reducible refine bcset_k ?_
    | with_reducible refine inc_k ?_ | (with_reducible refine Kept_foldl ?_ ?_; intro _ _ _) | split

theorem execVerdictOutput_k {s t : State} {a0 : _} {a1 : _} (h : Kept s t) : KeptO s (execVerdictOutput a0 a1 t) := by
  unfold execVerdictOutput
  repeat' first
    | with_reducible assumption | (with_reducible refine Kept_mk (by with_reducible assumption) ?_; rfl)
    | (extract_lets +onlyGivenNames x; first | (refine (fun (hx : Kept s x) => ?_) (?_ : Kept s x); all_goals first | (guard_target =ₐ Kept s x; unfold x; clear x) | clear_value x) | clear_value x)
    | with_reducible refine boardWrite_k ?_ | with_reducible refine crossRecord_k ?_ | with_reducible refine rdset_k ?_
    | split | with_reducible refine KeptO_next ?_

theorem execTraceWindowClose_k {s t : State} {a0 : _} {a1 : _} {a2 : _} (h : Kept s t) : KeptO s (execTraceWindowClose a0 a1 a2 t) := by
  unfold execTraceWindowClose
  repeat' first
    | with_reducible assumption
    | (extract_lets +onlyGivenNames x; first | (refine (fun (hx : Kept s x) => ?_) (?_ : Kept s x); all_goals first | (guard_target =ₐ Kept s x; unfold x; clear x) | clear_value x) | clear_value x)
    | with_reducible refine crossRecord_k ?_ | with_reducible refine peakCodes_k ?_
    | with_reducible refine lowerHalts_k ?_ | with_reducible refine trset_k ?_ | with_reducible refine incBy_k ?_
    | (with_reducible refine Kept_foldl ?_ ?_; intro _ _ _) | split | with_reducible refine KeptO_next ?_

theorem openResult_k {s t : State} {a0 : _} {a1 : _} {a2 : _} {a3 : _} {a4 : _} {a5 : _} (h : Kept s t) : Kept s (openResult a0 a1 a2 a3 a4 a5 t) := by
  unfold openResult
  repeat' first
    | with_reducible assumption | (extract_lets +onlyGivenNames x; clear_value x) | with_reducible refine awaitRecord_k ?_
    | with_reducible refine rdset_k ?_ | split

theorem openTrace_k {s t : State} {a0 : _} {a1 : _} {a2 : _} {a3 : _} (h : Kept s t) : Kept s (openTrace a0 a1 a2 a3 t) := by
  unfold openTrace
  repeat' first
    | with_reducible assumption | (extract_lets +onlyGivenNames x; clear_value x) | with_reducible refine awaitRecord_k ?_
    | with_reducible refine trset_k ?_ | split

theorem execCapture_k {s t : State} {a0 : _} (h : Kept s t) : KeptO s (execCapture a0 t) := by
  unfold execCapture
  repeat' first
    | with_reducible assumption
    | (extract_lets +onlyGivenNames x; first | (refine (fun (hx : Kept s x) => ?_) (?_ : Kept s x); all_goals first | (guard_target =ₐ Kept s x; unfold x; clear x) | clear_value x) | clear_value x)
    | with_reducible refine openTrace_k ?_ | with_reducible refine openResult_k ?_ | with_reducible refine takeDue_k ?_
    | (with_reducible refine Kept_foldl ?_ ?_; intro _ _ _) | split | with_reducible refine KeptO_next ?_

theorem execCaptureEventWindow_k {s t : State} {a0 : _} (h : Kept s t) : KeptO s (execCaptureEventWindow a0 t) := by
  unfold execCaptureEventWindow
  repeat' first
    | with_reducible assumption
    | (extract_lets +onlyGivenNames x; first | (refine (fun (hx : Kept s x) => ?_) (?_ : Kept s x); all_goals first | (guard_target =ₐ Kept s x; unfold x; clear x) | clear_value x) | clear_value x)
    | with_reducible refine openTrace_k ?_ | with_reducible refine trset_k ?_ | with_reducible refine inc_k ?_ | split
    | with_reducible refine KeptO_next ?_

theorem cutWindows_k {s t : State} {a0 : _} {a1 : _} (h : Kept s t) : Kept s (cutWindows a0 a1 t) := by
  unfold cutWindows
  repeat' first
    | with_reducible assumption
    | (extract_lets +onlyGivenNames x; first | (refine (fun (hx : Kept s x) => ?_) (?_ : Kept s x); all_goals first | (guard_target =ₐ Kept s x; unfold x; clear x) | clear_value x) | clear_value x)
    | with_reducible refine trset_k ?_ | with_reducible refine rdset_k ?_
    | (with_reducible refine Kept_foldl ?_ ?_; intro _ _ _) | split

theorem execAcqOverrange_k {s t : State} {a0 : _} {a1 : _} {a2 : _} (h : Kept s t) : KeptO s (execAcqOverrange a0 a1 a2 t) := by
  unfold execAcqOverrange
  repeat' first
    | with_reducible assumption
    | (extract_lets +onlyGivenNames x; first | (refine (fun (hx : Kept s x) => ?_) (?_ : Kept s x); all_goals first | (guard_target =ₐ Kept s x; unfold x; clear x) | clear_value x) | clear_value x)
    | with_reducible refine peakCodes_k ?_ | with_reducible refine aqset_k ?_ | with_reducible refine flag_k ?_
    | with_reducible refine inc_k ?_ | split | with_reducible refine KeptO_next ?_

theorem execHotTrip_k {s t : State} {a0 : _} (h : Kept s t) : KeptO s (execHotTrip a0 t) := by
  unfold execHotTrip
  repeat' first
    | with_reducible assumption | (extract_lets +onlyGivenNames x; clear_value x) | with_reducible refine aqset_k ?_
    | with_reducible refine flag_k ?_ | with_reducible refine inc_k ?_ | split | with_reducible refine KeptO_next ?_

theorem execHotRelease_k {s t : State} {a0 : _} (h : Kept s t) : KeptO s (execHotRelease a0 t) := by
  unfold execHotRelease
  repeat' first
    | with_reducible assumption | (extract_lets +onlyGivenNames x; clear_value x) | with_reducible refine aqset_k ?_
    | split | with_reducible refine KeptO_next ?_

theorem execAcqCalStepStart_k {s t : State} {a0 : _} (h : Kept s t) : KeptO s (execAcqCalStepStart a0 t) := by
  unfold execAcqCalStepStart
  repeat' first
    | with_reducible assumption
    | (extract_lets +onlyGivenNames x; first | (refine (fun (hx : Kept s x) => ?_) (?_ : Kept s x); all_goals first | (guard_target =ₐ Kept s x; unfold x; clear x) | clear_value x) | clear_value x)
    | with_reducible refine aqset_k ?_ | with_reducible refine inc_k ?_ | split | with_reducible refine KeptO_next ?_

theorem execAcqCalStepDone_k {s t : State} {a0 : _} (h : Kept s t) : KeptO s (execAcqCalStepDone a0 t) := by
  unfold execAcqCalStepDone
  repeat' first
    | with_reducible assumption
    | (extract_lets +onlyGivenNames x; first | (refine (fun (hx : Kept s x) => ?_) (?_ : Kept s x); all_goals first | (guard_target =ₐ Kept s x; unfold x; clear x) | clear_value x) | clear_value x)
    | with_reducible refine aqset_k ?_ | with_reducible refine inc_k ?_ | with_reducible refine wr_k ?_ | split
    | with_reducible refine KeptO_next ?_

theorem abandonStep_k {s t : State} {a0 : _} (h : Kept s t) : Kept s (abandonStep a0 t) := by
  unfold abandonStep
  repeat' first
    | with_reducible assumption | (extract_lets +onlyGivenNames x; clear_value x) | with_reducible refine aqset_k ?_
    | with_reducible refine inc_k ?_ | split

theorem execAcqCalStale_k {s t : State} {a0 : _} (h : Kept s t) : KeptO s (execAcqCalStale a0 t) := by
  unfold execAcqCalStale
  repeat' first
    | with_reducible assumption | with_reducible refine flag_k ?_ | with_reducible refine wr_k ?_ | split
    | with_reducible refine KeptO_next ?_

theorem pruneAcq_k {s t : State} (h : Kept s t) : Kept s (pruneAcq t) := by
  unfold pruneAcq
  repeat' first
    | with_reducible assumption | (with_reducible refine Kept_mk (by with_reducible assumption) ?_; rfl) | split

theorem storeTaps_k {s t : State} {a0 : _} {a1 : _} {a2 : _} (h : Kept s t) : Kept s (storeTaps a0 a1 a2 t) := by
  induction a2 generalizing t a1 with
  | nil =>
    unfold storeTaps
    repeat' first
      | with_reducible assumption
      | (with_reducible refine Kept_mk' (by with_reducible assumption) ?_ ?_ ?_ ?_ ?_ ?_ ?_; all_goals first | exact id | exact fun w => mwf_mput _ _ w | exact fun w => mwf_filter _ w | exact fun w => mwf_mmap _ w)
      | split
  | cons y l ih =>
    unfold storeTaps
    repeat' first
      | with_reducible assumption
      | (with_reducible refine Kept_mk' (by with_reducible assumption) ?_ ?_ ?_ ?_ ?_ ?_ ?_; all_goals first | exact id | exact fun w => mwf_mput _ _ w | exact fun w => mwf_filter _ w | exact fun w => mwf_mmap _ w)
      | with_reducible refine ih ?_ | split

theorem storeTable_k {s t : State} {a0 : _} {a1 : _} {a2 : _} (h : Kept s t) : Kept s (storeTable a0 a1 a2 t) := by
  induction a2 generalizing t a1 with
  | nil =>
    unfold storeTable
    repeat' first
      | with_reducible assumption
      | (with_reducible refine Kept_mk' (by with_reducible assumption) ?_ ?_ ?_ ?_ ?_ ?_ ?_; all_goals first | exact id | exact fun w => mwf_mput _ _ w | exact fun w => mwf_filter _ w | exact fun w => mwf_mmap _ w)
      | split
  | cons y l ih =>
    unfold storeTable
    repeat' first
      | with_reducible assumption
      | (with_reducible refine Kept_mk' (by with_reducible assumption) ?_ ?_ ?_ ?_ ?_ ?_ ?_; all_goals first | exact id | exact fun w => mwf_mput _ _ w | exact fun w => mwf_filter _ w | exact fun w => mwf_mmap _ w)
      | with_reducible refine ih ?_ | split

theorem writeKernel_k {s t : State} {a0 : _} {a1 : _} {a2 : _} (h : Kept s t) : KeptA s (writeKernel a0 a1 a2 t) := by
  unfold writeKernel
  repeat' first
    | with_reducible assumption | with_reducible refine storeTaps_k ?_ | split | with_reducible refine KeptA_ok ?_
    | with_reducible exact KeptA_err

theorem writeTables_k {s t : State} {a0 : _} {a1 : _} {a2 : _} (h : Kept s t) : KeptA s (writeTables a0 a1 a2 t) := by
  unfold writeTables
  repeat' first
    | with_reducible assumption | with_reducible refine storeTable_k ?_ | split | with_reducible refine KeptA_ok ?_
    | with_reducible exact KeptA_err

/-! ### Feedback -/

theorem execVerdictBusMessage_k {s t : State} {a0 : _} {a1 : _} (h : Kept s t) : KeptO s (execVerdictBusMessage a0 a1 t) := by
  unfold execVerdictBusMessage
  repeat' first
    | with_reducible assumption | (with_reducible refine Kept_mk (by with_reducible assumption) ?_; rfl)
    | (extract_lets +onlyGivenNames x; first | (refine (fun (hx : Kept s x) => ?_) (?_ : Kept s x); all_goals first | (guard_target =ₐ Kept s x; unfold x; clear x) | clear_value x) | clear_value x)
    | with_reducible refine boardWrite_k ?_ | split | with_reducible refine KeptO_next ?_

theorem branchEffect_k {s t : State} {a0 : _} {a1 : _} (h : Kept s t) : Kept s (branchEffect a0 a1 t) := by
  unfold branchEffect
  repeat' first
    | with_reducible assumption
    | (extract_lets +onlyGivenNames x; first | (refine (fun (hx : Kept s x) => ?_) (?_ : Kept s x); all_goals first | (guard_target =ₐ Kept s x; unfold x; clear x) | clear_value x) | clear_value x)
    | with_reducible refine incShot_k ?_ | with_reducible refine brset_k ?_ | with_reducible refine dropIllegal_k ?_
    | with_reducible refine afterPacket_k ?_ | with_reducible refine consume_k ?_ | with_reducible refine execOpcode_k ?_
    | split

theorem readCell_k {s t : State} {a0 : _} {a1 : _} {a2 : _} (h : Kept s t) : Kept s (readCell a0 a1 a2 t) := by
  unfold readCell
  repeat' first
    | with_reducible assumption | (extract_lets +onlyGivenNames x; clear_value x) | with_reducible refine bcset_k ?_
    | with_reducible refine inc_k ?_ | split

theorem putArming_k {s t : State} {a0 : _} {a1 : _} {a2 : _} (h : Kept s t) : Kept s (putArming a0 a1 a2 t) := by
  unfold putArming
  repeat' first
    | with_reducible assumption | (extract_lets +onlyGivenNames x; clear_value x) | with_reducible refine brset_k ?_
    | split

theorem countLost_k {s t : State} {a0 : _} {a1 : _} {a2 : _} (h : Kept s t) : Kept s (countLost a0 a1 a2 t) := by
  unfold countLost
  repeat' first
    | with_reducible assumption | with_reducible refine putArming_k ?_ | with_reducible refine inc_k ?_ | split

theorem execBreChoice_k {s t : State} {a0 : _} {a1 : _} {a2 : _} (h : Kept s t) : KeptO s (execBreChoice a0 a1 a2 t) := by
  unfold execBreChoice
  repeat' first
    | with_reducible assumption
    | (extract_lets +onlyGivenNames x; first | (refine (fun (hx : Kept s x) => ?_) (?_ : Kept s x); all_goals first | (guard_target =ₐ Kept s x; unfold x; clear x) | clear_value x) | clear_value x)
    | with_reducible refine countLost_k ?_ | with_reducible refine putArming_k ?_ | with_reducible refine readCell_k ?_
    | with_reducible refine brset_k ?_ | with_reducible refine inc_k ?_ | split | with_reducible refine KeptO_next ?_

theorem execSelectRegisterTake_k {s t : State} {a0 : _} {a1 : _} (h : Kept s t) : KeptO s (execSelectRegisterTake a0 a1 t) := by
  unfold execSelectRegisterTake
  repeat' first
    | with_reducible assumption | (extract_lets +onlyGivenNames x; clear_value x) | with_reducible refine brset_k ?_
    | with_reducible refine low_k ?_ | with_reducible refine inc_k ?_ | split | with_reducible refine KeptO_next ?_

theorem execArmingDeadline_k {s t : State} {a0 : _} {a1 : _} (h : Kept s t) : KeptO s (execArmingDeadline a0 a1 t) := by
  unfold execArmingDeadline
  repeat' first
    | with_reducible assumption
    | (extract_lets +onlyGivenNames x; first | (refine (fun (hx : Kept s x) => ?_) (?_ : Kept s x); all_goals first | (guard_target =ₐ Kept s x; unfold x; clear x) | clear_value x) | clear_value x)
    | with_reducible refine putArming_k ?_ | with_reducible refine brset_k ?_ | with_reducible refine inc_k ?_ | split
    | with_reducible refine KeptO_next ?_

theorem decide236_k {s t : State} {a0 : _} {a1 : _} {a2 : _} (h : Kept s t) : Kept s (decide236 a0 a1 a2 t) := by
  unfold decide236
  repeat' first
    | with_reducible assumption
    | (extract_lets +onlyGivenNames x; first | (refine (fun (hx : Kept s x) => ?_) (?_ : Kept s x); all_goals first | (guard_target =ₐ Kept s x; unfold x; clear x) | clear_value x) | clear_value x)
    | with_reducible refine incShot_k ?_ | with_reducible refine brset_k ?_ | with_reducible refine voidAt_k ?_
    | with_reducible refine inc_k ?_ | split

/-! ### Abutment -/

theorem countLate_k {s t : State} {a0 : _} {a1 : _} {a2 : _} (h : Kept s t) : Kept s (countLate a0 a1 a2 t) := by
  unfold countLate
  repeat' first
    | with_reducible assumption
    | (extract_lets +onlyGivenNames x; first | (refine (fun (hx : Kept s x) => ?_) (?_ : Kept s x); all_goals first | (guard_target =ₐ Kept s x; unfold x; clear x) | clear_value x) | clear_value x)
    | with_reducible refine voidAt_k ?_ | with_reducible refine flag_k ?_ | with_reducible refine inc_k ?_
    | with_reducible refine wr_k ?_ | split

theorem countIllegal_k {s t : State} {a0 : _} {a1 : _} {a2 : _} (h : Kept s t) : Kept s (countIllegal a0 a1 a2 t) := by
  unfold countIllegal
  repeat' first
    | with_reducible assumption | with_reducible refine voidAt_k ?_ | with_reducible refine incBy_k ?_ | split

theorem acceptCmd_k {s t : State} {a0 : _} {a1 : _} {a2 : _} (h : Kept s t) : Kept s (acceptCmd a0 a1 a2 t) := by
  unfold acceptCmd
  repeat' first
    | with_reducible assumption | (extract_lets +onlyGivenNames x; clear_value x) | with_reducible refine fset_k ?_
    | split

theorem judgeArrival_k {s t : State} {a0 : _} {a1 : _} {a2 : _} (h : Kept s t) : Kept s (judgeArrival a0 a1 a2 t) := by
  unfold judgeArrival
  repeat' first
    | with_reducible assumption
    | (extract_lets +onlyGivenNames x; first | (refine (fun (hx : Kept s x) => ?_) (?_ : Kept s x); all_goals first | (guard_target =ₐ Kept s x; unfold x; clear x) | clear_value x) | clear_value x)
    | with_reducible refine acceptCmd_k ?_ | with_reducible refine countIllegal_k ?_
    | with_reducible refine countLate_k ?_ | with_reducible refine abandonStep_k ?_ | with_reducible refine fset_k ?_
    | with_reducible refine inc_k ?_ | with_reducible refine incBy_k ?_ | split

theorem intake_k {s t : State} {a0 : _} {a1 : _} (h : Kept s t) : Kept s (intake a0 a1 t) := by
  unfold intake
  repeat' first
    | with_reducible assumption | (extract_lets +onlyGivenNames x; clear_value x)
    | with_reducible refine judgeArrival_k ?_ | with_reducible refine fset_k ?_ | split

theorem execEdgeCommandArrival_k {s t : State} {a0 : _} (h : Kept s t) : KeptO s (execEdgeCommandArrival a0 t) := by
  unfold execEdgeCommandArrival
  repeat' first
    | with_reducible assumption
    | (extract_lets +onlyGivenNames x; first | (refine (fun (hx : Kept s x) => ?_) (?_ : Kept s x); all_goals first | (guard_target =ₐ Kept s x; unfold x; clear x) | clear_value x) | clear_value x)
    | with_reducible refine intake_k ?_ | with_reducible refine fset_k ?_ | with_reducible refine inc_k ?_ | split
    | with_reducible refine KeptO_next ?_

theorem poisonCmd_k {s t : State} {a0 : _} (h : Kept s t) : Kept s (poisonCmd a0 t) := by
  unfold poisonCmd
  repeat' first
    | with_reducible assumption
    | (extract_lets +onlyGivenNames x; (refine (fun (hx : Kept s x) => ?_) (?_ : Kept s x); all_goals first | (guard_target =ₐ Kept s x; unfold x; clear x) | clear_value x))
    | with_reducible refine applyCut_k ?_ | with_reducible refine dropJumps_k ?_ | with_reducible refine endPlay_k ?_
    | with_reducible refine voidAt_k ?_ | with_reducible refine inc_k ?_ | split

theorem pathInsert_k {s t : State} {a0 : _} {a1 : _} (h : Kept s t) : Kept s (pathInsert a0 a1 t) := by
  unfold pathInsert
  repeat' first
    | with_reducible assumption | (extract_lets +onlyGivenNames x; clear_value x) | with_reducible refine fset_k ?_
    | split

theorem takeHead_k {s t : State} {a0 : _} {a1 : _} {a2 : _} (h : Kept s t) : Kept s (takeHead a0 a1 a2 t) := by
  unfold takeHead
  repeat' first
    | with_reducible assumption
    | (extract_lets +onlyGivenNames x; first | (refine (fun (hx : Kept s x) => ?_) (?_ : Kept s x); all_goals first | (guard_target =ₐ Kept s x; unfold x; clear x) | clear_value x) | clear_value x)
    | with_reducible refine pathInsert_k ?_ | with_reducible refine poisonCmd_k ?_ | with_reducible refine fset_k ?_
    | (with_reducible refine Kept_foldl ?_ ?_; intro _ _ _) | split

theorem execEdgeFifoRead_k {s t : State} {a0 : _} {a1 : _} (h : Kept s t) : KeptO s (execEdgeFifoRead a0 a1 t) := by
  unfold execEdgeFifoRead
  repeat' first
    | with_reducible assumption | (extract_lets +onlyGivenNames x; clear_value x) | with_reducible refine takeHead_k ?_
    | with_reducible refine fset_k ?_ | split | with_reducible refine KeptO_next ?_

theorem execStage_k {s t : State} {a0 : _} (h : Kept s t) : KeptO s (execStage a0 t) := by
  unfold execStage
  repeat' first
    | with_reducible assumption
    | (extract_lets +onlyGivenNames x; first | (refine (fun (hx : Kept s x) => ?_) (?_ : Kept s x); all_goals first | (guard_target =ₐ Kept s x; unfold x; clear x) | clear_value x) | clear_value x)
    | with_reducible refine takeDue_k ?_ | with_reducible refine fset_k ?_ | split | with_reducible refine KeptO_next ?_

theorem execSelect_k {s t : State} {a0 : _} (h : Kept s t) : KeptO s (execSelect a0 t) := by
  unfold execSelect
  repeat' first
    | with_reducible assumption
    | (extract_lets +onlyGivenNames x; first | (refine (fun (hx : Kept s x) => ?_) (?_ : Kept s x); all_goals first | (guard_target =ₐ Kept s x; unfold x; clear x) | clear_value x) | clear_value x)
    | with_reducible refine pathInsert_k ?_ | with_reducible refine countIllegal_k ?_
    | with_reducible refine decide236_k ?_ | with_reducible refine takeDue_k ?_ | with_reducible refine fset_k ?_
    | (with_reducible refine Kept_foldl ?_ ?_; intro _ _ _) | split | with_reducible refine KeptO_next ?_

/-! ### Profiles -/

theorem silence_k {s t : State} {a0 : _} {a1 : _} (h : Kept s t) : Kept s (silence a0 a1 t) := by
  unfold silence
  repeat' first
    | with_reducible assumption
    | (extract_lets +onlyGivenNames x; first | (refine (fun (hx : Kept s x) => ?_) (?_ : Kept s x); all_goals first | (guard_target =ₐ Kept s x; unfold x; clear x) | clear_value x) | clear_value x)
    | with_reducible refine endPlay_k ?_ | with_reducible refine flushFifo_k ?_ | with_reducible refine slset_k ?_
    | with_reducible refine fset_k ?_ | with_reducible refine incBy_k ?_ | split

theorem awaken_k {s t : State} {a0 : _} (h : Kept s t) : Kept s (awaken a0 t) := by
  unfold awaken
  repeat' first
    | with_reducible assumption | (extract_lets +onlyGivenNames x; clear_value x) | with_reducible refine fset_k ?_
    | with_reducible refine incBy_k ?_ | split

theorem endMute_k {s t : State} {a0 : _} (h : Kept s t) : Kept s (endMute a0 t) := by
  unfold endMute
  repeat' first
    | with_reducible assumption
    | (extract_lets +onlyGivenNames x; first | (refine (fun (hx : Kept s x) => ?_) (?_ : Kept s x); all_goals first | (guard_target =ₐ Kept s x; unfold x; clear x) | clear_value x) | clear_value x)
    | with_reducible refine muteCluster_k ?_ | with_reducible refine rgset_k ?_ | with_reducible refine flxset_k ?_
    | with_reducible refine wr_k ?_ | (with_reducible refine Kept_foldl ?_ ?_; intro _ _ _) | split

theorem applyProfile_k {s t : State} {a0 : _} {a1 : _} {a2 : _} {a3 : _} (h : Kept s t) : Kept s (applyProfile a0 a1 a2 a3 t) := by
  unfold applyProfile
  repeat' first
    | with_reducible assumption
    | (extract_lets +onlyGivenNames x; first | (refine (fun (hx : Kept s x) => ?_) (?_ : Kept s x); all_goals first | (guard_target =ₐ Kept s x; unfold x; clear x) | clear_value x) | clear_value x)
    | with_reducible refine endMute_k ?_ | with_reducible refine awaken_k ?_ | with_reducible refine silence_k ?_
    | with_reducible refine cutWindows_k ?_ | with_reducible refine dropHalts_k ?_
    | with_reducible refine muteCluster_k ?_ | with_reducible refine rgset_k ?_ | with_reducible refine flxset_k ?_
    | with_reducible refine inc_k ?_ | with_reducible refine wr_k ?_
    | (with_reducible refine Kept_foldl ?_ ?_; intro _ _ _) | split

theorem requestProfile_k {s t : State} {a0 : _} {a1 : _} {a2 : _} (h : Kept s t) : Kept s (requestProfile a0 a1 a2 t) := by
  unfold requestProfile
  repeat' first
    | with_reducible assumption
    | (extract_lets +onlyGivenNames x; first | (refine (fun (hx : Kept s x) => ?_) (?_ : Kept s x); all_goals first | (guard_target =ₐ Kept s x; unfold x; clear x) | clear_value x) | clear_value x)
    | with_reducible refine applyProfile_k ?_ | with_reducible refine rgset_k ?_ | with_reducible refine wr_k ?_ | split

theorem writeProfile_k {s t : State} {a0 : _} {a1 : _} (h : Kept s t) : KeptA s (writeProfile a0 a1 t) := by
  unfold writeProfile
  repeat' first
    | with_reducible assumption | with_reducible refine requestProfile_k ?_
    | (with_reducible refine KeptA_map ?_ (fun _ _ => ?_)) | with_reducible refine KeptA_map' (fun _ => ?_) | split
    | with_reducible refine KeptA_ok ?_ | with_reducible exact KeptA_err

theorem writeProfiles_k {s t : State} {a0 : _} (h : Kept s t) : KeptA s (writeProfiles a0 t) := by
  unfold writeProfiles
  repeat' first
    | with_reducible assumption | (extract_lets +onlyGivenNames x; clear_value x)
    | with_reducible refine requestProfile_k ?_ | with_reducible refine wr_k ?_
    | (with_reducible refine Kept_foldl ?_ ?_; intro _ _ _) | split | with_reducible refine KeptA_ok ?_
    | with_reducible exact KeptA_err

theorem writeLayout_k {s t : State} {a0 : _} {a1 : _} (h : Kept s t) : KeptA s (writeLayout a0 a1 t) := by
  unfold writeLayout
  repeat' first
    | with_reducible assumption | with_reducible refine wr_k ?_ | split | with_reducible refine KeptA_ok ?_
    | with_reducible exact KeptA_err

theorem forceCool_k {s t : State} {a0 : _} {a1 : _} (h : Kept s t) : Kept s (forceCool a0 a1 t) := by
  unfold forceCool
  repeat' first
    | with_reducible assumption
    | (extract_lets +onlyGivenNames x; first | (refine (fun (hx : Kept s x) => ?_) (?_ : Kept s x); all_goals first | (guard_target =ₐ Kept s x; unfold x; clear x) | clear_value x) | clear_value x)
    | with_reducible refine requestProfile_k ?_ | with_reducible refine logFault_k ?_ | with_reducible refine rgset_k ?_
    | with_reducible refine wr_k ?_ | split

theorem execProfileChange_k {s t : State} {a0 : _} (h : Kept s t) : KeptO s (execProfileChange a0 t) := by
  unfold execProfileChange
  repeat' first
    | with_reducible assumption | with_reducible refine applyProfile_k ?_ | split | with_reducible refine KeptO_next ?_

theorem execProfileMuteEnd_k {s t : State} {a0 : _} (h : Kept s t) : KeptO s (execProfileMuteEnd a0 t) := by
  unfold execProfileMuteEnd
  repeat' first
    | with_reducible assumption | with_reducible refine endMute_k ?_ | split | with_reducible refine KeptO_next ?_

/-! ### Compensation -/

theorem thset_k {s t : State} {a0 : _} {a1 : _} (h : Kept s t) : Kept s (thset a0 a1 t) := by
  unfold thset
  repeat' first
    | with_reducible assumption | (with_reducible refine Kept_mk (by with_reducible assumption) ?_; rfl) | split

theorem setTrim_k {s t : State} {a0 : _} {a1 : _} (h : Kept s t) : Kept s (setTrim a0 a1 t) := by
  unfold setTrim
  repeat' first
    | with_reducible assumption | (with_reducible refine Kept_mk (by with_reducible assumption) ?_; rfl)
    | (extract_lets +onlyGivenNames x; clear_value x) | split

theorem moveTrim_k {s t : State} {a0 : _} (h : Kept s t) : Kept s (moveTrim a0 t) := by
  unfold moveTrim
  repeat' first
    | with_reducible assumption | (extract_lets +onlyGivenNames x; clear_value x) | with_reducible refine setTrim_k ?_
    | split

theorem refTrims_k {s t : State} (h : Kept s t) : Kept s (refTrims t) := by
  unfold refTrims
  repeat' first
    | with_reducible assumption | with_reducible refine moveTrim_k ?_
    | (with_reducible refine Kept_foldl ?_ ?_; intro _ _ _) | split

theorem updateTrims_k {s t : State} {a0 : _} (h : Kept s t) : Kept s (updateTrims a0 t) := by
  unfold updateTrims
  repeat' first
    | with_reducible assumption
    | (extract_lets +onlyGivenNames x; (refine (fun (hx : Kept s x) => ?_) (?_ : Kept s x); all_goals first | (guard_target =ₐ Kept s x; unfold x; clear x) | clear_value x))
    | with_reducible refine moveTrim_k ?_ | with_reducible refine setTrim_k ?_ | split

theorem applyBand_k {s t : State} {a0 : _} (h : Kept s t) : Kept s (applyBand a0 t) := by
  unfold applyBand
  repeat' first
    | with_reducible assumption | with_reducible refine setTrim_k ?_ | split

theorem initTrims_k {s t : State} (h : Kept s t) : Kept s (initTrims t) := by
  unfold initTrims
  repeat' first
    | with_reducible assumption | with_reducible refine setTrim_k ?_
    | (with_reducible refine Kept_foldl ?_ ?_; intro _ _ _) | split

/-! ### Shots -/

theorem dropStream_k {s t : State} {a0 : _} (h : Kept s t) : Kept s (dropStream a0 t) := by
  unfold dropStream
  repeat' first
    | with_reducible assumption | (extract_lets +onlyGivenNames x; clear_value x)
    | with_reducible refine discardStream_k ?_ | with_reducible refine wr_k ?_ | split

theorem endBarrier_k {s t : State} {a0 : _} (h : Kept s t) : Kept s (endBarrier a0 t) := by
  unfold endBarrier
  repeat' first
    | with_reducible assumption | (with_reducible refine Kept_mk (by with_reducible assumption) ?_; rfl)
    | (extract_lets +onlyGivenNames x; first | (refine (fun (hx : Kept s x) => ?_) (?_ : Kept s x); all_goals first | (guard_target =ₐ Kept s x; unfold x; clear x) | clear_value x) | clear_value x)
    | with_reducible refine dropStream_k ?_ | with_reducible refine finishRun_k ?_
    | with_reducible refine discardStream_k ?_ | (with_reducible refine Kept_foldl ?_ ?_; intro _ _ _) | split

theorem deferBoundary_k {s t : State} (h : Kept s t) : Kept s (deferBoundary t) := by
  unfold deferBoundary
  repeat' first
    | with_reducible assumption | (with_reducible refine Kept_mk (by with_reducible assumption) ?_; rfl)
    | (extract_lets +onlyGivenNames x; clear_value x) | (with_reducible refine Kept_foldl ?_ ?_; intro _ _ _) | split

theorem openAtBarrier_k {s t : State} {a0 : _} (h : Kept s t) : Kept s (openAtBarrier a0 t) := by
  unfold openAtBarrier
  repeat' first
    | with_reducible assumption | (with_reducible refine Kept_mk (by with_reducible assumption) ?_; rfl)
    | (extract_lets +onlyGivenNames x; clear_value x) | with_reducible refine wr_k ?_
    | (with_reducible refine Kept_foldl ?_ ?_; intro _ _ _) | split

theorem barrierSlack_k {s t : State} {a0 : _} {a1 : _} {a2 : _} (h : Kept s t) : Kept s (barrierSlack a0 a1 a2 t) := by
  unfold barrierSlack
  repeat' first
    | with_reducible assumption
    | (extract_lets +onlyGivenNames x; first | (refine (fun (hx : Kept s x) => ?_) (?_ : Kept s x); all_goals first | (guard_target =ₐ Kept s x; unfold x; clear x) | clear_value x) | clear_value x)
    | with_reducible refine markShot_k ?_ | with_reducible refine logFault_k ?_ | with_reducible refine low_k ?_
    | with_reducible refine inc_k ?_ | (with_reducible refine Kept_foldl ?_ ?_; intro _ _ _) | split

theorem aimRequests_k {s t : State} {a0 : _} (h : Kept s t) : Kept s (aimRequests a0 t) := by
  unfold aimRequests
  repeat' first
    | with_reducible assumption | (extract_lets +onlyGivenNames x; clear_value x) | with_reducible refine rgset_k ?_
    | (with_reducible refine Kept_foldl ?_ ?_; intro _ _ _) | split

theorem completeBarrier_k {s t : State} {a0 : _} (h : Kept s t) : Kept s (completeBarrier a0 t) := by
  unfold completeBarrier
  repeat' first
    | with_reducible assumption
    | (extract_lets +onlyGivenNames x; first | (refine (fun (hx : Kept s x) => ?_) (?_ : Kept s x); all_goals first | (guard_target =ₐ Kept s x; unfold x; clear x) | clear_value x) | clear_value x)
    | with_reducible refine aimRequests_k ?_ | with_reducible refine barrierSlack_k ?_
    | with_reducible refine openAtBarrier_k ?_ | with_reducible refine deferBoundary_k ?_
    | with_reducible refine endBarrier_k ?_ | with_reducible refine markShot_k ?_ | with_reducible refine logFault_k ?_
    | with_reducible refine eset_k ?_ | with_reducible refine inc_k ?_
    | (with_reducible refine Kept_foldl ?_ ?_; intro _ _ _) | split

theorem arriveBarrier_k {s t : State} {a0 : _} {a1 : _} {a2 : _} (h : Kept s t) : Kept s (arriveBarrier a0 a1 a2 t) := by
  unfold arriveBarrier
  repeat' first
    | with_reducible assumption
    | (extract_lets +onlyGivenNames x; first | (refine (fun (hx : Kept s x) => ?_) (?_ : Kept s x); all_goals first | (guard_target =ₐ Kept s x; unfold x; clear x) | clear_value x) | clear_value x)
    | with_reducible refine completeBarrier_k ?_ | with_reducible refine eset_k ?_ | split

theorem arriveEffect_k {s t : State} {a0 : _} {a1 : _} {a2 : _} (h : Kept s t) : Kept s (arriveEffect a0 a1 a2 t) := by
  unfold arriveEffect
  repeat' first
    | with_reducible assumption | (extract_lets +onlyGivenNames x; clear_value x)
    | with_reducible refine arriveBarrier_k ?_ | with_reducible refine consume_k ?_ | with_reducible refine endPass_k ?_
    | with_reducible refine execOpcode_k ?_ | split

theorem execBarrierRelease_k {s t : State} {a0 : _} (h : Kept s t) : KeptO s (execBarrierRelease a0 t) := by
  unfold execBarrierRelease
  repeat' first
    | with_reducible assumption
    | (extract_lets +onlyGivenNames x; first | (refine (fun (hx : Kept s x) => ?_) (?_ : Kept s x); all_goals first | (guard_target =ₐ Kept s x; unfold x; clear x) | clear_value x) | clear_value x)
    | with_reducible refine afterPacket_k ?_ | with_reducible refine eset_k ?_ | split
    | with_reducible refine KeptO_next ?_

theorem restoreFrames_k {s t : State} {a0 : _} (h : Kept s t) : Kept s (restoreFrames a0 t) := by
  unfold restoreFrames
  repeat' first
    | with_reducible assumption | (extract_lets +onlyGivenNames x; clear_value x) | with_reducible refine setFrame_k ?_
    | with_reducible refine inc_k ?_ | (with_reducible refine Kept_foldl ?_ ?_; intro _ _ _) | split

theorem takeSnapshots_k {s t : State} (h : Kept s t) : Kept s (takeSnapshots t) := by
  unfold takeSnapshots
  repeat' first
    | with_reducible assumption | with_reducible refine wr_k ?_ | (with_reducible refine Kept_foldl ?_ ?_; intro _ _ _)
    | split

theorem zeroFrames_k {s t : State} {a0 : _} (h : Kept s t) : Kept s (zeroFrames a0 t) := by
  unfold zeroFrames
  repeat' first
    | with_reducible assumption | with_reducible refine setFrame_k ?_
    | (with_reducible refine Kept_foldl ?_ ?_; intro _ _ _) | split

theorem closeResults_k {s t : State} {a0 : _} {a1 : _} (h : Kept s t) : Kept s (closeResults a0 a1 t) := by
  unfold closeResults
  repeat' first
    | with_reducible assumption | (extract_lets +onlyGivenNames x; clear_value x) | with_reducible refine setLast_k ?_
    | with_reducible refine rdset_k ?_ | (with_reducible refine Kept_foldl ?_ ?_; intro _ _ _) | split

theorem closeSet_k {s t : State} {a0 : _} (h : Kept s t) : Kept s (closeSet a0 t) := by
  unfold closeSet
  repeat' first
    | with_reducible assumption | (extract_lets +onlyGivenNames x; clear_value x) | with_reducible refine rsset_k ?_
    | split

theorem latchCambers_k {s t : State} {a0 : _} {a1 : _} {a2 : _} (h : Kept s t) : Kept s (latchCambers a0 a1 a2 t) := by
  unfold latchCambers
  repeat' first
    | with_reducible assumption
    | (extract_lets +onlyGivenNames x; first | (refine (fun (hx : Kept s x) => ?_) (?_ : Kept s x); all_goals first | (guard_target =ₐ Kept s x; unfold x; clear x) | clear_value x) | clear_value x)
    | with_reducible refine fset_k ?_ | with_reducible refine low_k ?_ | with_reducible refine wr_k ?_
    | (with_reducible refine Kept_foldl ?_ ?_; intro _ _ _) | split

theorem applyDue_k {s t : State} {a0 : _} {a1 : _} (h : Kept s t) : Kept s (applyDue a0 a1 t) := by
  unfold applyDue
  repeat' first
    | with_reducible assumption | with_reducible refine applyProfile_k ?_ | split

theorem camberForce_k {s t : State} {a0 : _} (h : Kept s t) : Kept s (camberForce a0 t) := by
  unfold camberForce
  repeat' first
    | with_reducible assumption | with_reducible refine applyDue_k ?_ | with_reducible refine forceCool_k ?_
    | (with_reducible refine Kept_foldl ?_ ?_; intro _ _ _) | split

theorem emptyStores_k {s t : State} {a0 : _} (h : Kept s t) : Kept s (emptyStores a0 t) := by
  unfold emptyStores
  repeat' first
    | with_reducible assumption | (extract_lets +onlyGivenNames x; clear_value x) | with_reducible refine fset_k ?_
    | with_reducible refine incBy_k ?_ | (with_reducible refine Kept_foldl ?_ ?_; intro _ _ _) | split

theorem closeShot_k {s t : State} {a0 : _} {a1 : _} (h : Kept s t) : Kept s (closeShot a0 a1 t) := by
  unfold closeShot
  repeat' first
    | with_reducible assumption
    | (extract_lets +onlyGivenNames x; first | (refine (fun (hx : Kept s x) => ?_) (?_ : Kept s x); all_goals first | (guard_target =ₐ Kept s x; unfold x; clear x) | clear_value x) | clear_value x)
    | with_reducible refine emptyStores_k ?_ | with_reducible refine camberForce_k ?_
    | with_reducible refine latchCambers_k ?_ | with_reducible refine closeSet_k ?_
    | with_reducible refine closeResults_k ?_ | with_reducible refine restoreFrames_k ?_
    | with_reducible refine closeIncs_k ?_ | with_reducible refine inc_k ?_ | split

theorem emptyBoards_k {s t : State} (h : Kept s t) : Kept s (emptyBoards t) := by
  unfold emptyBoards
  repeat' first
    | with_reducible assumption | (with_reducible refine Kept_mk (by with_reducible assumption) ?_; rfl) | split

theorem openShot_k {s t : State} {a0 : _} (h : Kept s t) : Kept s (openShot a0 t) := by
  unfold openShot
  repeat' first
    | with_reducible assumption | (with_reducible refine Kept_mk (by with_reducible assumption) ?_; rfl)
    | (extract_lets +onlyGivenNames x; first | (refine (fun (hx : Kept s x) => ?_) (?_ : Kept s x); all_goals first | (guard_target =ₐ Kept s x; unfold x; clear x) | clear_value x) | clear_value x)
    | with_reducible refine emptyBoards_k ?_ | with_reducible refine takeSnapshots_k ?_
    | with_reducible refine voidAt_k ?_ | with_reducible refine wr_k ?_
    | (with_reducible refine Kept_foldl ?_ ?_; intro _ _ _) | split

theorem execShotBoundary_k {s t : State} (h : Kept s t) : KeptO s (execShotBoundary t) := by
  unfold execShotBoundary
  repeat' first
    | with_reducible assumption | (with_reducible refine Kept_mk (by with_reducible assumption) ?_; rfl)
    | (extract_lets +onlyGivenNames x; first | (refine (fun (hx : Kept s x) => ?_) (?_ : Kept s x); all_goals first | (guard_target =ₐ Kept s x; unfold x; clear x) | clear_value x) | clear_value x)
    | with_reducible refine openShot_k ?_ | with_reducible refine closeShot_k ?_ | with_reducible refine zeroFrames_k ?_
    | with_reducible refine refTrims_k ?_ | with_reducible refine finishRun_k ?_ | split
    | with_reducible refine KeptO_next ?_

theorem startEngine_k {s t : State} {a0 : _} (h : Kept s t) : Kept s (startEngine a0 t) := by
  unfold startEngine
  repeat' first
    | with_reducible assumption | (extract_lets +onlyGivenNames x; clear_value x) | with_reducible refine aset_k ?_
    | with_reducible refine eset_k ?_ | split

theorem startRun_k {s t : State} (h : Kept s t) : KeptA s (startRun t) := by
  unfold startRun
  repeat' first
    | with_reducible assumption | (with_reducible refine Kept_mk (by with_reducible assumption) ?_; rfl)
    | (extract_lets +onlyGivenNames x; first | (refine (fun (hx : Kept s x) => ?_) (?_ : Kept s x); all_goals first | (guard_target =ₐ Kept s x; unfold x; clear x) | clear_value x) | clear_value x)
    | with_reducible refine startEngine_k ?_ | with_reducible refine dropHeld_k ?_ | with_reducible refine rfset_k ?_
    | with_reducible refine fset_k ?_ | with_reducible refine wr_k ?_
    | (with_reducible refine Kept_foldl ?_ ?_; intro _ _ _) | split | with_reducible refine KeptA_ok ?_
    | with_reducible exact KeptA_err

theorem stopRun_k {s t : State} (h : Kept s t) : Kept s (stopRun t) := by
  unfold stopRun
  repeat' first
    | with_reducible assumption | (with_reducible refine Kept_mk (by with_reducible assumption) ?_; rfl)
    | (extract_lets +onlyGivenNames x; clear_value x) | with_reducible refine wr_k ?_ | split

end Sys2Proof.Machine
end

