-- ==== Sys2Proof/Laws/KeptRun.lean ====
section
/-! SUPPORT. The waiting commands and the memories' form are kept by the loader, PTP, streams, links, the host's packets and blocks, the verdict exchange and the trigger. -/

namespace Sys2Proof.Machine

-- One proof at a time: proofs elaborated side by side take more memory than the check grants.
set_option Elab.async false
set_option linter.all false

/-! ### Loader -/

theorem storeBody_k {s t : State} (h : Kept s t) : True := trivial

/-- What a placing of a section keeps. -/
def KeptPlace (f : State → State) : Prop := ∀ s t, Kept s t → Kept s (f t)

theorem mapPlace_k {α : Type} {o : Option α} {g : α → State → State} (k : ∀ a, KeptPlace (g a)) {f : State → State}
    (e : o.map g = some f) : KeptPlace f := by
  cases o with
  | none => cases e
  | some a => cases e; exact k a

theorem segLib_k {base off : Nat} {b : List Byte} {c : Nat} {f : State → State} (e : segLib base off b c = some f) : KeptPlace f := by
  unfold segLib at e
  dsimp only at e
  split at e
  · cases e
  · split at e
    · cases e
    · split at e
      · cases e
      · split at e
        · cases e
        · cases e
          intro s t h
          refine rfset_k (storeSamples_k (Kept_foldl (fun _ _ k => sset_k k) ?_))
          exact Kept_mk h rfl

theorem scheduleBody_k {a : Nat} {b : List Byte} {e : Nat} {f : State → State} (h : scheduleBody a b e = some f) : KeptPlace f := by
  unfold scheduleBody at h
  dsimp only at h
  split at h
  · cases h
  · cases h
    intro s t k
    exact aset_k k

theorem quietBody_k {b : List Byte} {f : State → State} (h : quietBody b = some f) : KeptPlace f := by
  unfold quietBody at h
  split at h
  · cases h
  · exact mapPlace_k (fun a s t k => Kept_mk k rfl) h

theorem kernelsBody_k {b : List Byte} {c : Nat} {f : State → State} (h : kernelsBody b c = some f) : KeptPlace f := by
  unfold kernelsBody at h
  split at h
  · cases h
  · cases h
    intro s t k
    exact storeTaps_k (Kept_mk' k id id (fun w => mwf_filter _ w) id id id id)

theorem tablesBody_k {b : List Byte} {c : Nat} {f : State → State} (h : tablesBody b c = some f) : KeptPlace f := by
  unfold tablesBody at h
  split at h
  · cases h
  · cases h
    intro s t k
    exact storeTable_k (Kept_mk' k id id id (fun w => mwf_filter _ w) id id id)

theorem branchBody_k {b : List Byte} {c : Nat} {f : State → State} (h : branchBody b c = some f) : KeptPlace f := by
  unfold branchBody at h
  dsimp only at h
  split at h
  · cases h
  · have e := Option.some.inj h
    intro s t k
    rw [← e]
    with_reducible exact Kept_foldl (fun _ _ k => wr_k (wr_k k)) k

theorem xtalkBody_k {b : List Byte} {c : Nat} {f : State → State} (h : xtalkBody b c = some f) : KeptPlace f := by
  unfold xtalkBody at h
  dsimp only at h
  split at h
  · cases h
  · have e := Option.some.inj h
    intro s t k
    rw [← e]
    with_reducible exact Kept_foldl (fun _ _ k => wr_k k) (Kept_mk k rfl)

theorem fluxBody_k {b : List Byte} {c : Nat} {f : State → State} (h : fluxBody b c = some f) : KeptPlace f := by
  unfold fluxBody at h
  dsimp only at h
  split at h
  · cases h
  · have e := Option.some.inj h
    intro s t k
    rw [← e]
    with_reducible exact refreshFlux_k (Kept_foldl (fun _ _ k => settleFlux_k k)
      (Kept_foldl (fun _ _ k => wr_k k) (Kept_foldl (fun _ _ k => wr_k k) (Kept_foldl (fun _ _ k => wr_k (wr_k k)) k))))

/-- The state a load has reached. -/
theorem loadRead_k {s : State} {i a n : Nat} {l : LoadSt} (h : Kept s l.st) : Kept s (loadRead i a n l).2.st := by
  unfold loadRead
  dsimp only
  split
  · dsimp only; exact dramRead_k h
  · dsimp only; exact dramRead_k h

theorem loadDir_k {s : State} {base len dir sections n : Nat} {before : List Section} {l : LoadSt} (h : Kept s l.st) :
    Kept s (loadDir base len dir sections n before l).2.st := by
  induction n generalizing before l with
  | zero => exact h
  | succ n ih =>
    unfold loadDir
    dsimp only
    split
    · dsimp only; exact dramRead_k h
    · split
      · dsimp only; exact dramRead_k h
      · exact ih (by dsimp only; exact dramRead_k h)

theorem loadFailed_k {s : State} {f : LoadFail} {l : LoadSt} (h : Kept s l.st) : Kept s (loadFailed f l) := wr_k (wr_k (wr_k h))

theorem sectionBody_k {base : Nat} {x : Section} {b : List Byte} {f : State → State} (h : sectionBody base x b = .ok f) :
    KeptPlace f := by
  have key : ∀ {o : Option (State → State)} {w : Nat}, (∀ g, o = some g → KeptPlace g) →
      (match o with | some g => Except.ok g | none => .error w : Except Nat (State → State)) = .ok f → KeptPlace f := by
    intro o w k e
    cases o with
    | none => cases e
    | some g => cases e; exact k _ rfl
  unfold sectionBody at h
  dsimp only at h
  split at h
  · cases h
  split at h
  · exact key (fun g e => scheduleBody_k e) h
  split at h
  · exact key (fun g e => segLib_k e) h
  split at h
  · exact key (fun g e => kernelsBody_k e) h
  split at h
  · exact key (fun g e => tablesBody_k e) h
  split at h
  · exact key (fun g e => branchBody_k e) h
  split at h
  · exact key (fun g e => xtalkBody_k e) h
  split at h
  · exact key (fun g e => fluxBody_k e) h
  split at h
  · exact key (fun g e => quietBody_k e) h
  · cases h; exact fun _ _ k => k

theorem loadSections_k {s : State} {base : Nat} {xs : List Section} {i : Nat} {l : LoadSt} (h : Kept s l.st) :
    Kept s (loadSections base xs i l).2.st ∧ ∀ ps, (loadSections base xs i l).1 = .ok ps → ∀ f ∈ ps, KeptPlace f := by
  induction xs generalizing i l with
  | nil => exact ⟨h, fun ps e => by cases e; simp⟩
  | cons x xs ih =>
    unfold loadSections
    have hr := loadRead_k (i := i) (a := base + x.off) (n := x.len) h
    split
    · next e => rw [e] at hr; exact ⟨hr, fun ps e => by cases e⟩
    · next e =>
      rw [e] at hr
      split
      · exact ⟨hr, fun ps e => by cases e⟩
      · next hp =>
        have := ih (i := i + 1) hr
        split
        · next e2 => rw [e2] at this; exact ⟨this.1, fun ps e => by cases e⟩
        · next e2 =>
          rw [e2] at this
          refine ⟨this.1, fun ps e => ?_⟩
          cases e
          intro f hf
          rcases List.mem_cons.1 hf with rfl | hf
          · exact sectionBody_k hp
          · exact this.2 _ rfl f hf

theorem Kept_places {s t : State} {ps : List (State → State)} (hp : ∀ f ∈ ps, KeptPlace f) (h : Kept s t) :
    Kept s (ps.foldl (fun t f => f t) t) := by
  induction ps generalizing t with
  | nil => exact h
  | cons f ps ih => exact ih (fun g hg => hp g (List.mem_cons_of_mem _ hg)) (hp f (List.mem_cons_self ..) _ _ h)

theorem loadDone_k {s : State} {h : List Byte} {ps : List (State → State)} {l : LoadSt} (k : Kept s l.st)
    (hp : ∀ f ∈ ps, KeptPlace f) : Kept s (loadDone h ps l) := by
  unfold loadDone
  dsimp only
  refine wr_k (wr_k (wr_k (Kept_foldl (fun _ _ k => wr_k k) ?_)))
  exact Kept_places hp (Kept_mk k rfl)

theorem loadImage_k {s t : State} (h : Kept s t) : Kept s (loadImage t) := by
  unfold loadImage
  dsimp only
  have h1 := loadRead_k (i := 0xFFFF) (a := t.image.base) (n := 64) (l := { st := t, done := 0 }) h
  split
  · next e => rw [e] at h1; exact loadFailed_k h1
  · next e =>
    rw [e] at h1
    split
    · exact loadFailed_k h1
    · split
      · next e2 => exact loadFailed_k ((congrArg (fun x => Kept s x.2.st) e2).mp (loadDir_k h1))
      · next e2 =>
        have h2 := (congrArg (fun x => Kept s x.2.st) e2).mp (loadDir_k h1)
        split
        · next e3 => exact loadFailed_k ((congrArg (fun x => Kept s x.2.st) e3).mp (loadSections_k h2).1)
        · next e3 =>
          exact loadDone_k ((congrArg (fun x => Kept s x.2.st) e3).mp (loadSections_k h2).1) ((loadSections_k h2).2 _ (congrArg Prod.fst e3))

theorem execLoadComplete_k {s t : State} (h : Kept s t) : KeptO s (execLoadComplete t) := by
  unfold execLoadComplete
  repeat' first
    | with_reducible assumption | with_reducible refine loadImage_k ?_ | split | with_reducible refine KeptO_next ?_

theorem startLoad_k {s t : State} (h : Kept s t) : KeptA s (startLoad t) := by
  unfold startLoad
  repeat' first
    | with_reducible assumption | (with_reducible refine Kept_mk (by with_reducible assumption) ?_; rfl)
    | (extract_lets +onlyGivenNames x; clear_value x) | with_reducible refine wr_k ?_ | split
    | with_reducible refine KeptA_ok ?_ | with_reducible exact KeptA_err

theorem unloadImage_k {s t : State} (h : Kept s t) : KeptA s (unloadImage t) := by
  unfold unloadImage
  repeat' first
    | with_reducible assumption | with_reducible refine wr_k ?_ | split | with_reducible refine KeptA_ok ?_
    | with_reducible exact KeptA_err

/-! ### Ptp -/

theorem setPtp_k {s t : State} {a0 : _} (h : Kept s t) : Kept s (setPtp a0 t) := by
  unfold setPtp
  repeat' first
    | with_reducible assumption | (with_reducible refine Kept_mk (by with_reducible assumption) ?_; rfl) | split

theorem ptpTick_k {s t : State} (h : Kept s t) : Kept s (ptpTick t) := by
  unfold ptpTick
  repeat' first
    | with_reducible assumption | (extract_lets +onlyGivenNames x; clear_value x) | with_reducible refine setPtp_k ?_
    | split

theorem settlePps_k {s t : State} (h : Kept s t) : Kept s (settlePps t) := by
  unfold settlePps
  repeat' first
    | with_reducible assumption | (extract_lets +onlyGivenNames x; clear_value x) | with_reducible refine setPtp_k ?_
    | split

theorem timeRecord_k {s t : State} {a0 : _} (h : Kept s t) : Kept s (timeRecord a0 t) := by
  unfold timeRecord
  repeat' first
    | with_reducible assumption | (with_reducible refine Kept_mk (by with_reducible assumption) ?_; rfl)
    | (extract_lets +onlyGivenNames x; clear_value x) | with_reducible refine directRecord_k ?_ | split

theorem anchorNow_k {s t : State} (h : Kept s t) : Kept s (anchorNow t) := by
  unfold anchorNow
  repeat' first
    | with_reducible assumption | (with_reducible refine Kept_mk (by with_reducible assumption) ?_; rfl)
    | (extract_lets +onlyGivenNames x; clear_value x) | split

theorem clockState_k {s t : State} {a0 : _} (h : Kept s t) : Kept s (clockState a0 t) := by
  unfold clockState
  repeat' first
    | with_reducible assumption | with_reducible refine timeRecord_k ?_ | with_reducible refine settlePps_k ?_
    | with_reducible refine wr_k ?_ | split

theorem toFreerun_k {s t : State} (h : Kept s t) : Kept s (toFreerun t) := by
  unfold toFreerun
  repeat' first
    | with_reducible assumption | with_reducible refine clockState_k ?_ | split

theorem relockClock_k {s t : State} (h : Kept s t) : Kept s (relockClock t) := by
  unfold relockClock
  repeat' first
    | with_reducible assumption | (extract_lets +onlyGivenNames x; clear_value x) | with_reducible refine clockState_k ?_
    | with_reducible refine setPtp_k ?_ | split

theorem onFio_k {s t : State} (h : Kept s t) : Kept s (onFio t) := by
  unfold onFio
  repeat' first
    | with_reducible assumption | with_reducible refine clockState_k ?_ | with_reducible refine settlePps_k ?_ | split

theorem offFio_k {s t : State} (h : Kept s t) : Kept s (offFio t) := by
  unfold offFio
  repeat' first
    | with_reducible assumption
    | (extract_lets +onlyGivenNames x; (refine (fun (hx : Kept s x) => ?_) (?_ : Kept s x); all_goals first | (guard_target =ₐ Kept s x; unfold x; clear x) | clear_value x))
    | with_reducible refine clockState_k ?_ | with_reducible refine setPtp_k ?_ | split

theorem selectMaster_k {s t : State} (h : Kept s t) : Kept s (selectMaster t) := by
  unfold selectMaster
  repeat' first
    | with_reducible assumption
    | (extract_lets +onlyGivenNames x; first | (refine (fun (hx : Kept s x) => ?_) (?_ : Kept s x); all_goals first | (guard_target =ₐ Kept s x; unfold x; clear x) | clear_value x) | clear_value x)
    | with_reducible refine relockClock_k ?_ | with_reducible refine toFreerun_k ?_ | with_reducible refine setPtp_k ?_
    | with_reducible refine inc_k ?_ | with_reducible refine wr_k ?_ | split

theorem masterLoss_k {s t : State} (h : Kept s t) : Kept s (masterLoss t) := by
  unfold masterLoss
  repeat' first
    | with_reducible assumption
    | (extract_lets +onlyGivenNames x; first | (refine (fun (hx : Kept s x) => ?_) (?_ : Kept s x); all_goals first | (guard_target =ₐ Kept s x; unfold x; clear x) | clear_value x) | clear_value x)
    | with_reducible refine selectMaster_k ?_ | with_reducible refine toFreerun_k ?_ | with_reducible refine setPtp_k ?_
    | with_reducible refine inc_k ?_ | with_reducible refine wr_k ?_ | split

theorem tcQueue_k {s t : State} {a0 : _} {a1 : _} {a2 : _} (h : Kept s t) : Kept s (tcQueue a0 a1 a2 t) := by
  unfold tcQueue
  repeat' first
    | with_reducible assumption | (extract_lets +onlyGivenNames x; clear_value x) | with_reducible refine setPtp_k ?_
    | with_reducible refine inc_k ?_ | split

theorem execPtpFrameReceive_k {s t : State} {a0 : _} {a1 : _} (h : Kept s t) : KeptO s (execPtpFrameReceive a0 a1 t) := by
  unfold execPtpFrameReceive
  repeat' first
    | with_reducible assumption
    | (extract_lets +onlyGivenNames x; first | (refine (fun (hx : Kept s x) => ?_) (?_ : Kept s x); all_goals first | (guard_target =ₐ Kept s x; unfold x; clear x) | clear_value x) | clear_value x)
    | with_reducible refine tcQueue_k ?_ | with_reducible refine setPtp_k ?_ | with_reducible refine inc_k ?_ | split
    | with_reducible refine KeptO_next ?_

theorem stepClock_k {s t : State} {a0 : _} (h : Kept s t) : Kept s (stepClock a0 t) := by
  unfold stepClock
  repeat' first
    | with_reducible assumption
    | (extract_lets +onlyGivenNames x; first | (refine (fun (hx : Kept s x) => ?_) (?_ : Kept s x); all_goals first | (guard_target =ₐ Kept s x; unfold x; clear x) | clear_value x) | clear_value x)
    | with_reducible refine clockState_k ?_ | with_reducible refine timeRecord_k ?_ | with_reducible refine setPtp_k ?_
    | with_reducible refine inc_k ?_ | split

theorem steerClock_k {s t : State} {a0 : _} (h : Kept s t) : Kept s (steerClock a0 t) := by
  unfold steerClock
  repeat' first
    | with_reducible assumption
    | (extract_lets +onlyGivenNames x; first | (refine (fun (hx : Kept s x) => ?_) (?_ : Kept s x); all_goals first | (guard_target =ₐ Kept s x; unfold x; clear x) | clear_value x) | clear_value x)
    | with_reducible refine setPtp_k ?_ | with_reducible refine flag_k ?_ | with_reducible refine wr_k ?_ | split

theorem offsetActs_k {s t : State} {a0 : _} (h : Kept s t) : Kept s (offsetActs a0 t) := by
  unfold offsetActs
  repeat' first
    | with_reducible assumption
    | (extract_lets +onlyGivenNames x; first | (refine (fun (hx : Kept s x) => ?_) (?_ : Kept s x); all_goals first | (guard_target =ₐ Kept s x; unfold x; clear x) | clear_value x) | clear_value x)
    | with_reducible refine steerClock_k ?_ | with_reducible refine stepClock_k ?_
    | with_reducible refine relockClock_k ?_ | with_reducible refine setPtp_k ?_ | with_reducible refine wr_k ?_ | split

theorem syncDone_k {s t : State} {a0 : _} {a1 : _} {a2 : _} (h : Kept s t) : Kept s (syncDone a0 a1 a2 t) := by
  unfold syncDone
  repeat' first
    | with_reducible assumption | (extract_lets +onlyGivenNames x; clear_value x) | with_reducible refine offsetActs_k ?_
    | with_reducible refine setPtp_k ?_ | split

theorem takeSync_k {s t : State} {a0 : _} {a1 : _} {a2 : _} (h : Kept s t) : Kept s (takeSync a0 a1 a2 t) := by
  unfold takeSync
  repeat' first
    | with_reducible assumption
    | (extract_lets +onlyGivenNames x; first | (refine (fun (hx : Kept s x) => ?_) (?_ : Kept s x); all_goals first | (guard_target =ₐ Kept s x; unfold x; clear x) | clear_value x) | clear_value x)
    | with_reducible refine syncDone_k ?_ | with_reducible refine setPtp_k ?_ | split

theorem execPtpSync_k {s t : State} (h : Kept s t) : KeptO s (execPtpSync t) := by
  unfold execPtpSync
  repeat' first
    | with_reducible assumption | (extract_lets +onlyGivenNames x; clear_value x) | with_reducible refine takeSync_k ?_
    | with_reducible refine setPtp_k ?_ | split | with_reducible refine KeptO_next ?_

theorem waitingSync_k {s t : State} (h : Kept s t) : Kept s (waitingSync t) := by
  unfold waitingSync
  repeat' first
    | with_reducible assumption | (extract_lets +onlyGivenNames x; clear_value x) | with_reducible refine takeSync_k ?_
    | with_reducible refine setPtp_k ?_ | split

theorem execPtpFollowUp_k {s t : State} (h : Kept s t) : KeptO s (execPtpFollowUp t) := by
  unfold execPtpFollowUp
  repeat' first
    | with_reducible assumption
    | (extract_lets +onlyGivenNames x; first | (refine (fun (hx : Kept s x) => ?_) (?_ : Kept s x); all_goals first | (guard_target =ₐ Kept s x; unfold x; clear x) | clear_value x) | clear_value x)
    | with_reducible refine syncDone_k ?_ | with_reducible refine setPtp_k ?_ | split
    | with_reducible refine KeptO_next ?_

theorem execPtpDelayResp_k {s t : State} (h : Kept s t) : KeptO s (execPtpDelayResp t) := by
  unfold execPtpDelayResp
  repeat' first
    | with_reducible assumption
    | (extract_lets +onlyGivenNames x; first | (refine (fun (hx : Kept s x) => ?_) (?_ : Kept s x); all_goals first | (guard_target =ₐ Kept s x; unfold x; clear x) | clear_value x) | clear_value x)
    | with_reducible refine setPtp_k ?_ | with_reducible refine wr_k ?_ | split | with_reducible refine KeptO_next ?_

theorem execPtpAnnounce_k {s t : State} (h : Kept s t) : KeptO s (execPtpAnnounce t) := by
  unfold execPtpAnnounce
  repeat' first
    | with_reducible assumption | (extract_lets +onlyGivenNames x; clear_value x)
    | with_reducible refine selectMaster_k ?_ | with_reducible refine setPtp_k ?_ | split
    | with_reducible refine KeptO_next ?_

theorem execDelayReqSend_k {s t : State} (h : Kept s t) : KeptO s (execDelayReqSend t) := by
  unfold execDelayReqSend
  repeat' first
    | with_reducible assumption | (extract_lets +onlyGivenNames x; clear_value x) | with_reducible refine tcQueue_k ?_
    | with_reducible refine setPtp_k ?_ | split | with_reducible refine KeptO_next ?_

theorem execTcForward_k {s t : State} {a0 : _} (h : Kept s t) : KeptO s (execTcForward a0 t) := by
  unfold execTcForward
  repeat' first
    | with_reducible assumption
    | (extract_lets +onlyGivenNames x; first | (refine (fun (hx : Kept s x) => ?_) (?_ : Kept s x); all_goals first | (guard_target =ₐ Kept s x; unfold x; clear x) | clear_value x) | clear_value x)
    | with_reducible refine setPtp_k ?_ | with_reducible refine inc_k ?_ | split | with_reducible refine KeptO_next ?_

theorem execReceiptTimeout_k {s t : State} {a0 : _} (h : Kept s t) : KeptO s (execReceiptTimeout a0 t) := by
  unfold execReceiptTimeout
  repeat' first
    | with_reducible assumption | (extract_lets +onlyGivenNames x; clear_value x) | with_reducible refine masterLoss_k ?_
    | split | with_reducible refine KeptO_next ?_

theorem tpDown_k {s t : State} {a0 : _} (h : Kept s t) : Kept s (tpDown a0 t) := by
  unfold tpDown
  repeat' first
    | with_reducible assumption
    | (extract_lets +onlyGivenNames x; first | (refine (fun (hx : Kept s x) => ?_) (?_ : Kept s x); all_goals first | (guard_target =ₐ Kept s x; unfold x; clear x) | clear_value x) | clear_value x)
    | with_reducible refine masterLoss_k ?_ | with_reducible refine setPtp_k ?_ | with_reducible refine wrBit_k ?_ | split

theorem execTpLinkChange_k {s t : State} {a0 : _} {a1 : _} (h : Kept s t) : KeptO s (execTpLinkChange a0 a1 t) := by
  unfold execTpLinkChange
  repeat' first
    | with_reducible assumption | with_reducible refine tpDown_k ?_ | with_reducible refine wrBit_k ?_ | split
    | with_reducible refine KeptO_next ?_

theorem execPpsEdge_k {s t : State} (h : Kept s t) : KeptO s (execPpsEdge t) := by
  unfold execPpsEdge
  repeat' first
    | with_reducible assumption
    | (extract_lets +onlyGivenNames x; first | (refine (fun (hx : Kept s x) => ?_) (?_ : Kept s x); all_goals first | (guard_target =ₐ Kept s x; unfold x; clear x) | clear_value x) | clear_value x)
    | with_reducible refine timeRecord_k ?_ | with_reducible refine setPtp_k ?_ | split
    | with_reducible refine KeptO_next ?_

theorem execPpsEnd_k {s t : State} (h : Kept s t) : KeptO s (execPpsEnd t) := by
  unfold execPpsEnd
  repeat' first
    | with_reducible assumption | (extract_lets +onlyGivenNames x; clear_value x) | with_reducible refine setPtp_k ?_
    | split | with_reducible refine KeptO_next ?_

theorem relock_k {s t : State} (h : Kept s t) : Kept s (relock t) := by
  unfold relock
  repeat' first
    | with_reducible assumption
    | (extract_lets +onlyGivenNames x; first | (refine (fun (hx : Kept s x) => ?_) (?_ : Kept s x); all_goals first | (guard_target =ₐ Kept s x; unfold x; clear x) | clear_value x) | clear_value x)
    | with_reducible refine waitingSync_k ?_ | with_reducible refine clockState_k ?_ | with_reducible refine setPtp_k ?_
    | split

/-! ### Stream -/

theorem execRecordArrival_k {s t : State} {a0 : _} (h : Kept s t) : KeptO s (execRecordArrival a0 t) := by
  unfold execRecordArrival
  repeat' first
    | with_reducible assumption | (with_reducible refine Kept_mk (by with_reducible assumption) ?_; rfl)
    | (extract_lets +onlyGivenNames x; first | (refine (fun (hx : Kept s x) => ?_) (?_ : Kept s x); all_goals first | (guard_target =ₐ Kept s x; unfold x; clear x) | clear_value x) | clear_value x)
    | with_reducible refine settleRecord_k ?_ | with_reducible refine rsset_k ?_ | with_reducible refine inc_k ?_ | split
    | with_reducible refine KeptO_next ?_

theorem execSetComplete_k {s t : State} {a0 : _} (h : Kept s t) : KeptO s (execSetComplete a0 t) := by
  unfold execSetComplete
  repeat' first
    | with_reducible assumption
    | (extract_lets +onlyGivenNames x; first | (refine (fun (hx : Kept s x) => ?_) (?_ : Kept s x); all_goals first | (guard_target =ₐ Kept s x; unfold x; clear x) | clear_value x) | clear_value x)
    | with_reducible refine loseShot_k ?_ | with_reducible refine putRecords_k ?_ | with_reducible refine rsset_k ?_
    | with_reducible refine incBy_k ?_ | (with_reducible refine Kept_foldl ?_ ?_; intro _ _ _) | split
    | with_reducible refine KeptO_next ?_

theorem ringWord_k {s t : State} {a0 : _} {a1 : _} (h : Kept s t) : Kept s (ringWord a0 a1 t) := by
  unfold ringWord
  repeat' first
    | with_reducible assumption | (with_reducible refine Kept_mk (by with_reducible assumption) ?_; rfl)
    | (extract_lets +onlyGivenNames x; first | (refine (fun (hx : Kept s x) => ?_) (?_ : Kept s x); all_goals first | (guard_target =ₐ Kept s x; unfold x; clear x) | clear_value x) | (have _ : (x : Dram) = x := rfl; subst x) | clear_value x)
    | with_reducible refine inc_k ?_ | with_reducible refine wr_k ?_ | split

theorem ringCopy_k {s t : State} {a0 : _} (h : Kept s t) : Kept s (ringCopy a0 t) := by
  unfold ringCopy
  repeat' first
    | with_reducible assumption | (extract_lets +onlyGivenNames x; clear_value x) | with_reducible refine ringWord_k ?_
    | with_reducible refine setLevel_k ?_ | with_reducible refine inc_k ?_
    | (with_reducible refine Kept_foldl ?_ ?_; intro _ _ _) | split

theorem recordSent_k {s t : State} {a0 : _} (h : Kept s t) : Kept s (recordSent a0 t) := by
  unfold recordSent
  repeat' first
    | with_reducible assumption | with_reducible refine ringCopy_k ?_ | with_reducible refine incWrap_k ?_ | split

theorem vcset_k {s t : State} {a0 : _} {a1 : _} (h : Kept s t) : Kept s (vcset a0 a1 t) := by
  unfold vcset
  repeat' first
    | with_reducible assumption | (with_reducible refine Kept_mk (by with_reducible assumption) ?_; rfl)
    | (extract_lets +onlyGivenNames x; clear_value x) | split

theorem settleClose_k {s t : State} (h : Kept s t) : Kept s (settleClose t) := by
  unfold settleClose
  repeat' first
    | with_reducible assumption | (with_reducible refine Kept_mk (by with_reducible assumption) ?_; rfl)
    | (extract_lets +onlyGivenNames x; clear_value x) | split

theorem execStreamPacketSend_k {s t : State} (h : Kept s t) : KeptO s (execStreamPacketSend t) := by
  unfold execStreamPacketSend
  repeat' first
    | with_reducible assumption | (with_reducible refine Kept_mk (by with_reducible assumption) ?_; rfl)
    | (extract_lets +onlyGivenNames x; first | (refine (fun (hx : Kept s x) => ?_) (?_ : Kept s x); all_goals first | (guard_target =ₐ Kept s x; unfold x; clear x) | clear_value x) | clear_value x)
    | with_reducible refine settleClose_k ?_ | with_reducible refine vcset_k ?_ | with_reducible refine recordSent_k ?_
    | with_reducible refine writePacket_k ?_ | (with_reducible refine Kept_foldl ?_ ?_; intro _ _ _) | split
    | with_reducible refine KeptO_next ?_

theorem execRecordToQueue_k {s t : State} (h : Kept s t) : KeptO s (execRecordToQueue t) := by
  unfold execRecordToQueue
  repeat' first
    | with_reducible assumption | (with_reducible refine Kept_mk (by with_reducible assumption) ?_; rfl)
    | (extract_lets +onlyGivenNames x; first | (refine (fun (hx : Kept s x) => ?_) (?_ : Kept s x); all_goals first | (guard_target =ₐ Kept s x; unfold x; clear x) | clear_value x) | clear_value x)
    | with_reducible refine settleClose_k ?_ | with_reducible refine recordSent_k ?_
    | with_reducible refine writePacket_k ?_ | split | with_reducible refine KeptO_next ?_

theorem closeStream_k {s t : State} {a0 : _} (h : Kept s t) : Kept s (closeStream a0 t) := by
  unfold closeStream
  repeat' first
    | with_reducible assumption | (with_reducible refine Kept_mk (by with_reducible assumption) ?_; rfl)
    | (extract_lets +onlyGivenNames x; first | (refine (fun (hx : Kept s x) => ?_) (?_ : Kept s x); all_goals first | (guard_target =ₐ Kept s x; unfold x; clear x) | clear_value x) | clear_value x)
    | with_reducible refine incBy_k ?_ | with_reducible refine wr_k ?_ | split

theorem openStream_k {s t : State} {a0 : _} (h : Kept s t) : KeptA s (openStream a0 t) := by
  unfold openStream
  repeat' first
    | with_reducible assumption | (with_reducible refine Kept_mk (by with_reducible assumption) ?_; rfl)
    | (extract_lets +onlyGivenNames x; first | (refine (fun (hx : Kept s x) => ?_) (?_ : Kept s x); all_goals first | (guard_target =ₐ Kept s x; unfold x; clear x) | clear_value x) | clear_value x)
    | with_reducible refine timeRecord_k ?_ | with_reducible refine wr_k ?_ | split | with_reducible refine KeptA_ok ?_
    | with_reducible exact KeptA_err

/-! ### Links -/

theorem lnset_k {s t : State} {a0 : _} {a1 : _} (h : Kept s t) : Kept s (lnset a0 a1 t) := by
  unfold lnset
  repeat' first
    | with_reducible assumption | (with_reducible refine Kept_mk (by with_reducible assumption) ?_; rfl) | split

theorem vpset_k {s t : State} {a0 : _} {a1 : _} (h : Kept s t) : Kept s (vpset a0 a1 t) := by
  unfold vpset
  repeat' first
    | with_reducible assumption | (with_reducible refine Kept_mk (by with_reducible assumption) ?_; rfl) | split

theorem laneSilent_k {s t : State} {a0 : _} (h : Kept s t) : Kept s (laneSilent a0 t) := by
  unfold laneSilent
  repeat' first
    | with_reducible assumption
    | (extract_lets +onlyGivenNames x; first | (refine (fun (hx : Kept s x) => ?_) (?_ : Kept s x); all_goals first | (guard_target =ₐ Kept s x; unfold x; clear x) | clear_value x) | clear_value x)
    | with_reducible refine lnset_k ?_ | with_reducible refine logFault_k ?_ | with_reducible refine inc_k ?_
    | with_reducible refine wr_k ?_ | split

theorem discardPort_k {s t : State} {a0 : _} (h : Kept s t) : Kept s (discardPort a0 t) := by
  unfold discardPort
  repeat' first
    | with_reducible assumption
    | (extract_lets +onlyGivenNames x; first | (refine (fun (hx : Kept s x) => ?_) (?_ : Kept s x); all_goals first | (guard_target =ₐ Kept s x; unfold x; clear x) | clear_value x) | clear_value x)
    | with_reducible refine logFault_k ?_ | with_reducible refine abandonQueue_k ?_ | with_reducible refine incBy_k ?_
    | split

theorem settlePort_k {s t : State} {a0 : _} (h : Kept s t) : Kept s (settlePort a0 t) := by
  unfold settlePort
  repeat' first
    | with_reducible assumption
    | (extract_lets +onlyGivenNames x; first | (refine (fun (hx : Kept s x) => ?_) (?_ : Kept s x); all_goals first | (guard_target =ₐ Kept s x; unfold x; clear x) | clear_value x) | clear_value x)
    | with_reducible refine discardPort_k ?_ | with_reducible refine vpset_k ?_ | with_reducible refine wr_k ?_ | split

theorem closeTransfer_k {s t : State} {a0 : _} {a1 : _} (h : Kept s t) : Kept s (closeTransfer a0 a1 t) := by
  unfold closeTransfer
  repeat' first
    | with_reducible assumption
    | (extract_lets +onlyGivenNames x; first | (refine (fun (hx : Kept s x) => ?_) (?_ : Kept s x); all_goals first | (guard_target =ₐ Kept s x; unfold x; clear x) | clear_value x) | clear_value x)
    | with_reducible refine dropWrite_k ?_ | with_reducible refine setPath_k ?_ | with_reducible refine inc_k ?_ | split

theorem clearSelectors_k {s t : State} {p : Nat} (h : Kept s t) : Kept s (clearSelectors p t) := by
  unfold clearSelectors
  exact Kept_mk' h id id id id id id (fun w => mrising_filter _ w)

theorem loseStream_k {s t : State} (h : Kept s t) : Kept s (loseStream t) := by
  unfold loseStream
  repeat' first
    | with_reducible assumption | (with_reducible refine Kept_mk (by with_reducible assumption) ?_; rfl)
    | (extract_lets +onlyGivenNames x; first | (refine (fun (hx : Kept s x) => ?_) (?_ : Kept s x); all_goals first | (guard_target =ₐ Kept s x; unfold x; clear x) | clear_value x) | clear_value x)
    | with_reducible refine closeStream_k ?_ | with_reducible refine flag_k ?_ | with_reducible refine inc_k ?_ | split

theorem hostDown_k {s t : State} {a0 : _} (h : Kept s t) : Kept s (hostDown a0 t) := by
  unfold hostDown
  repeat' first
    | with_reducible assumption | (with_reducible refine Kept_mk (by with_reducible assumption) ?_; rfl)
    | (extract_lets +onlyGivenNames x; first | (refine (fun (hx : Kept s x) => ?_) (?_ : Kept s x); all_goals first | (guard_target =ₐ Kept s x; unfold x; clear x) | clear_value x) | clear_value x)
    | with_reducible refine loseStream_k ?_ | with_reducible refine clearSelectors_k ?_
    | with_reducible refine closeTransfer_k ?_ | with_reducible refine laneSilent_k ?_
    | with_reducible refine logFault_k ?_ | with_reducible refine abandonQueue_k ?_ | with_reducible refine wr_k ?_
    | (with_reducible refine Kept_foldl ?_ ?_; intro _ _ _) | split

theorem settleHost_k {s t : State} (h : Kept s t) : Kept s (settleHost t) := by
  unfold settleHost
  repeat' first
    | with_reducible assumption | (with_reducible refine Kept_mk (by with_reducible assumption) ?_; rfl)
    | (extract_lets +onlyGivenNames x; first | (refine (fun (hx : Kept s x) => ?_) (?_ : Kept s x); all_goals first | (guard_target =ₐ Kept s x; unfold x; clear x) | clear_value x) | clear_value x)
    | with_reducible refine lnset_k ?_ | with_reducible refine wr_k ?_
    | (with_reducible refine Kept_foldl ?_ ?_; intro _ _ _) | split

theorem settleLane_k {s t : State} {a0 : _} (h : Kept s t) : Kept s (settleLane a0 t) := by
  unfold settleLane
  repeat' first
    | with_reducible assumption | with_reducible refine settleHost_k ?_ | with_reducible refine hostDown_k ?_
    | with_reducible refine settlePort_k ?_ | split

theorem laneDown_k {s t : State} {a0 : _} (h : Kept s t) : Kept s (laneDown a0 t) := by
  unfold laneDown
  repeat' first
    | with_reducible assumption | with_reducible refine settleLane_k ?_ | with_reducible refine laneSilent_k ?_ | split

theorem settleLanes_k {s t : State} (h : Kept s t) : Kept s (settleLanes t) := by
  unfold settleLanes
  repeat' first
    | with_reducible assumption | with_reducible refine laneDown_k ?_
    | (with_reducible refine Kept_foldl ?_ ?_; intro _ _ _) | split

theorem execLossOfSignal_k {s t : State} {a0 : _} (h : Kept s t) : KeptO s (execLossOfSignal a0 t) := by
  unfold execLossOfSignal
  repeat' first
    | with_reducible assumption | with_reducible refine laneDown_k ?_ | with_reducible refine flag_k ?_ | split
    | with_reducible refine KeptO_next ?_

theorem loseLock_k {s t : State} {a0 : _} (h : Kept s t) : Kept s (loseLock a0 t) := by
  unfold loseLock
  repeat' first
    | with_reducible assumption | with_reducible refine laneDown_k ?_ | with_reducible refine flag_k ?_ | split

theorem execLossOfLock_k {s t : State} {a0 : _} (h : Kept s t) : KeptO s (execLossOfLock a0 t) := by
  unfold execLossOfLock
  repeat' first
    | with_reducible assumption | with_reducible refine loseLock_k ?_ | split | with_reducible refine KeptO_next ?_

theorem execPpmMeasure_k {s t : State} {a0 : _} {a1 : _} (h : Kept s t) : KeptO s (execPpmMeasure a0 a1 t) := by
  unfold execPpmMeasure
  repeat' first
    | with_reducible assumption | (extract_lets +onlyGivenNames x; clear_value x) | with_reducible refine lnset_k ?_
    | with_reducible refine wr_k ?_ | split | with_reducible refine KeptO_next ?_

theorem hostRetrain_k {s t : State} (h : Kept s t) : Kept s (hostRetrain t) := by
  unfold hostRetrain
  repeat' first
    | with_reducible assumption | with_reducible refine hostDown_k ?_ | with_reducible refine inc_k ?_ | split

theorem retrainLink_k {s t : State} (h : Kept s t) : Kept s (retrainLink t) := by
  unfold retrainLink
  repeat' first
    | with_reducible assumption | with_reducible refine hostDown_k ?_ | split

theorem portRetrain_k {s t : State} {a0 : _} (h : Kept s t) : Kept s (portRetrain a0 t) := by
  unfold portRetrain
  repeat' first
    | with_reducible assumption
    | (extract_lets +onlyGivenNames x; (refine (fun (hx : Kept s x) => ?_) (?_ : Kept s x); all_goals first | (guard_target =ₐ Kept s x; unfold x; clear x) | clear_value x))
    | with_reducible refine settlePort_k ?_ | with_reducible refine laneSilent_k ?_ | with_reducible refine logFault_k ?_
    | with_reducible refine inc_k ?_ | split

theorem enablePort_k {s t : State} {a0 : _} {a1 : _} (h : Kept s t) : Kept s (enablePort a0 a1 t) := by
  unfold enablePort
  repeat' first
    | with_reducible assumption
    | (extract_lets +onlyGivenNames x; (refine (fun (hx : Kept s x) => ?_) (?_ : Kept s x); all_goals first | (guard_target =ₐ Kept s x; unfold x; clear x) | clear_value x))
    | with_reducible refine settleLanes_k ?_ | with_reducible refine discardPort_k ?_ | with_reducible refine wr_k ?_
    | split

theorem sendCtl_k {s t : State} {a0 : _} (h : Kept s t) : Kept s (sendCtl a0 t) := by
  unfold sendCtl
  repeat' first
    | with_reducible assumption | with_reducible refine writeWord_k ?_ | split

theorem sendNak_k {s t : State} {a0 : _} {a1 : _} (h : Kept s t) : Kept s (sendNak a0 a1 t) := by
  unfold sendNak
  repeat' first
    | with_reducible assumption
    | (extract_lets +onlyGivenNames x; first | (refine (fun (hx : Kept s x) => ?_) (?_ : Kept s x); all_goals first | (guard_target =ₐ Kept s x; unfold x; clear x) | clear_value x) | clear_value x)
    | with_reducible refine sendCtl_k ?_ | with_reducible refine vcset_k ?_ | with_reducible refine inc_k ?_ | split

theorem hostViol_k {s t : State} {a0 : _} {a1 : _} {a2 : _} {a3 : _} (h : Kept s t) : Kept s (hostViol a0 a1 a2 a3 t) := by
  unfold hostViol
  repeat' first
    | with_reducible assumption | (with_reducible refine Kept_mk (by with_reducible assumption) ?_; rfl)
    | (extract_lets +onlyGivenNames x; first | (refine (fun (hx : Kept s x) => ?_) (?_ : Kept s x); all_goals first | (guard_target =ₐ Kept s x; unfold x; clear x) | clear_value x) | clear_value x)
    | with_reducible refine sendNak_k ?_ | with_reducible refine hostRetrain_k ?_ | with_reducible refine logFault_k ?_
    | with_reducible refine inc_k ?_ | with_reducible refine wr_k ?_ | split

theorem portViol_k {s t : State} {a0 : _} {a1 : _} {a2 : _} (h : Kept s t) : Kept s (portViol a0 a1 a2 t) := by
  unfold portViol
  repeat' first
    | with_reducible assumption
    | (extract_lets +onlyGivenNames x; first | (refine (fun (hx : Kept s x) => ?_) (?_ : Kept s x); all_goals first | (guard_target =ₐ Kept s x; unfold x; clear x) | clear_value x) | clear_value x)
    | with_reducible refine portRetrain_k ?_ | with_reducible refine vpset_k ?_ | with_reducible refine lnset_k ?_
    | with_reducible refine inc_k ?_ | with_reducible refine wr_k ?_ | split

/-! ### HostPackets -/

theorem hlset_k {s t : State} {a0 : _} (h : Kept s t) : Kept s (hlset a0 t) := by
  unfold hlset
  repeat' first
    | with_reducible assumption | (with_reducible refine Kept_mk (by with_reducible assumption) ?_; rfl) | split

theorem closePacket_k {s t : State} {a0 : _} (h : Kept s t) : Kept s (closePacket a0 t) := by
  unfold closePacket
  repeat' first
    | with_reducible assumption | (extract_lets +onlyGivenNames x; clear_value x) | with_reducible refine hlset_k ?_
    | split

theorem openPacket_k {s t : State} {a0 : _} {a1 : _} {a2 : _} {a3 : _} (h : Kept s t) : Kept s (openPacket a0 a1 a2 a3 t) := by
  unfold openPacket
  repeat' first
    | with_reducible assumption | (extract_lets +onlyGivenNames x; clear_value x) | with_reducible refine closePacket_k ?_
    | with_reducible refine hlset_k ?_ | split

theorem takeCtl_k {s t : State} {a0 : _} {a1 : _} {a2 : _} {a3 : _} (h : Kept s t) : Kept s (takeCtl a0 a1 a2 a3 t) := by
  unfold takeCtl
  repeat' first
    | with_reducible assumption | (extract_lets +onlyGivenNames x; clear_value x) | with_reducible refine hlset_k ?_
    | with_reducible refine hostViol_k ?_ | split

theorem payloadBlock_k {s t : State} {a0 : _} {a1 : _} {a2 : _} (h : Kept s t) : Kept s (payloadBlock a0 a1 a2 t) := by
  unfold payloadBlock
  repeat' first
    | with_reducible assumption | (extract_lets +onlyGivenNames x; clear_value x) | with_reducible refine closePacket_k ?_
    | with_reducible refine hlset_k ?_ | split

theorem dropOpen_k {s t : State} {a0 : _} (h : Kept s t) : Kept s (dropOpen a0 t) := by
  unfold dropOpen
  repeat' first
    | with_reducible assumption
    | (extract_lets +onlyGivenNames x; first | (refine (fun (hx : Kept s x) => ?_) (?_ : Kept s x); all_goals first | (guard_target =ₐ Kept s x; unfold x; clear x) | clear_value x) | clear_value x)
    | with_reducible refine hlset_k ?_ | with_reducible refine hostViol_k ?_ | split

theorem dataBlock_k {s t : State} {a0 : _} {a1 : _} (h : Kept s t) : Kept s (dataBlock a0 a1 t) := by
  unfold dataBlock
  repeat' first
    | with_reducible assumption
    | (extract_lets +onlyGivenNames x; first | (refine (fun (hx : Kept s x) => ?_) (?_ : Kept s x); all_goals first | (guard_target =ₐ Kept s x; unfold x; clear x) | clear_value x) | (refine (fun (hf1 : ∀ u, Kept s u → Kept s (x u)) => ?_) (?_ : ∀ u, Kept s u → Kept s (x u)); all_goals first | (guard_target =ₐ ∀ u, Kept s u → Kept s (x u); unfold x; clear x; intro _ _) | clear_value x) | clear_value x)
    | with_reducible refine hf1 _ ?_ | with_reducible refine dropOpen_k ?_ | with_reducible refine payloadBlock_k ?_
    | with_reducible refine takeCtl_k ?_ | with_reducible refine openPacket_k ?_ | with_reducible refine hostViol_k ?_
    | split

theorem controlBlock_k {s t : State} {a0 : _} (h : Kept s t) : Kept s (controlBlock a0 t) := by
  unfold controlBlock
  repeat' first
    | with_reducible assumption | (extract_lets +onlyGivenNames x; clear_value x) | with_reducible refine hlset_k ?_
    | with_reducible refine hostViol_k ?_ | split

theorem linkBlock_k {s t : State} {a0 : _} (h : Kept s t) : Kept s (linkBlock a0 t) := by
  unfold linkBlock
  repeat' first
    | with_reducible assumption | with_reducible refine controlBlock_k ?_ | with_reducible refine dataBlock_k ?_
    | with_reducible refine payloadBlock_k ?_ | split

theorem mergeLanes_k {s t : State} {a0 : _} (h : Kept s t) : Kept s (mergeLanes a0 t) := by
  induction a0 generalizing t with
  | zero =>
    unfold mergeLanes
    repeat' first
      | with_reducible assumption
      | (extract_lets +onlyGivenNames x; first | (refine (fun (hx : Kept s x) => ?_) (?_ : Kept s x); all_goals first | (guard_target =ₐ Kept s x; unfold x; clear x) | clear_value x) | clear_value x)
      | with_reducible refine linkBlock_k ?_ | with_reducible refine hlset_k ?_ | with_reducible refine lnset_k ?_ | split
  | succ n ih =>
    unfold mergeLanes
    repeat' first
      | with_reducible assumption
      | (extract_lets +onlyGivenNames x; first | (refine (fun (hx : Kept s x) => ?_) (?_ : Kept s x); all_goals first | (guard_target =ₐ Kept s x; unfold x; clear x) | clear_value x) | clear_value x)
      | with_reducible refine linkBlock_k ?_ | with_reducible refine hlset_k ?_ | with_reducible refine lnset_k ?_
      | with_reducible refine ih ?_ | split

theorem nextSeq_k {s t : State} {a0 : _} (h : Kept s t) : Kept s (nextSeq a0 t) := by
  unfold nextSeq
  repeat' first
    | with_reducible assumption | (extract_lets +onlyGivenNames x; clear_value x) | with_reducible refine vcset_k ?_
    | split

theorem acceptMgt_k {s t : State} {a0 : _} (h : Kept s t) : Kept s (acceptMgt a0 t) := by
  unfold acceptMgt
  repeat' first
    | with_reducible assumption | with_reducible refine nextSeq_k ?_ | with_reducible refine writePacket_k ?_
    | with_reducible refine inc_k ?_ | split

theorem acceptUpload_k {s t : State} {a0 : _} {a1 : _} (h : Kept s t) : Kept s (acceptUpload a0 a1 t) := by
  unfold acceptUpload
  repeat' first
    | with_reducible assumption
    | (extract_lets +onlyGivenNames x; (refine (fun (hx : Kept s x) => ?_) (?_ : Kept s x); all_goals first | (guard_target =ₐ Kept s x; unfold x; clear x) | clear_value x))
    | with_reducible refine nextSeq_k ?_ | with_reducible refine writePacket_k ?_ | with_reducible refine inc_k ?_
    | with_reducible refine wr_k ?_ | split

theorem sequencePacket_k {s t : State} {a0 : _} (h : Kept s t) : Kept s (sequencePacket a0 t) := by
  unfold sequencePacket
  repeat' first
    | with_reducible assumption | (extract_lets +onlyGivenNames x; clear_value x)
    | with_reducible refine acceptUpload_k ?_ | with_reducible refine acceptMgt_k ?_ | with_reducible refine hostViol_k ?_
    | with_reducible refine sendCtl_k ?_ | split

theorem execLinkPacketReceive_k {s t : State} (h : Kept s t) : KeptO s (execLinkPacketReceive t) := by
  unfold execLinkPacketReceive
  repeat' first
    | with_reducible assumption
    | (extract_lets +onlyGivenNames x; first | (refine (fun (hx : Kept s x) => ?_) (?_ : Kept s x); all_goals first | (guard_target =ₐ Kept s x; unfold x; clear x) | clear_value x) | clear_value x)
    | with_reducible refine sequencePacket_k ?_ | with_reducible refine hlset_k ?_ | with_reducible refine hostViol_k ?_
    | with_reducible refine sendNak_k ?_ | with_reducible refine vcset_k ?_ | split | with_reducible refine KeptO_next ?_

theorem acknowledge_k {s t : State} {a0 : _} (h : Kept s t) : KeptM s (acknowledge a0 t) := by
  unfold acknowledge
  repeat' first
    | with_reducible assumption | (extract_lets +onlyGivenNames x; clear_value x) | with_reducible refine hlset_k ?_
    | split | with_reducible refine KeptM_some ?_ | with_reducible exact KeptM_none

theorem takeCtlOf_k {s t : State} {a0 : _} (h : Kept s t) : KeptMP s (takeCtlOf a0 t) := by
  unfold takeCtlOf
  repeat' first
    | with_reducible assumption | (extract_lets +onlyGivenNames x; clear_value x) | with_reducible refine hlset_k ?_
    | split | with_reducible refine KeptMP_some ?_ | with_reducible exact KeptMP_none

theorem execAck_k {s t : State} (h : Kept s t) : KeptO s (execAck t) := by
  unfold execAck
  split
  · exact h
  · next e =>
    have h1 := KeptMP.some (takeCtlOf_k h) e
    split
    · next e2 =>
      split at e2
      · exact KeptM.some (acknowledge_k h1) e2
      · cases e2
    · exact hostViol_k h1

theorem execNak_k {s t : State} (h : Kept s t) : KeptO s (execNak t) := by
  unfold execNak
  split
  · exact h
  · next e =>
    have h1 := inc_k (a0 := .LNK_NAK_RX) (a1 := 0) (KeptMP.some (takeCtlOf_k h) e)
    extract_lets s1
    change Kept s s1 at h1
    clear_value s1
    split
    · exact h1
    · split
      · next e2 =>
        split at e2
        · exact hlset_k (KeptM.some (acknowledge_k h1) e2)
        · cases e2
      · exact hostViol_k h1

theorem execCredit_k {s t : State} (h : Kept s t) : KeptO s (execCredit t) := by
  unfold execCredit
  repeat' first
    | with_reducible assumption | (extract_lets +onlyGivenNames x; first | clear_value x | subst x)
    | with_reducible refine KeptMP.some (takeCtlOf_k ?_) (by assumption) | with_reducible refine hostViol_k ?_
    | with_reducible refine vcset_k ?_ | split | with_reducible refine KeptO_next ?_

theorem execAckSend_k {s t : State} (h : Kept s t) : KeptO s (execAckSend t) := by
  unfold execAckSend
  repeat' first
    | with_reducible assumption | (extract_lets +onlyGivenNames x; clear_value x) | with_reducible refine sendCtl_k ?_
    | with_reducible refine vcset_k ?_ | (with_reducible refine Kept_foldl ?_ ?_; intro _ _ _) | split
    | with_reducible refine KeptO_next ?_

theorem execCreditSend_k {s t : State} (h : Kept s t) : KeptO s (execCreditSend t) := by
  unfold execCreditSend
  repeat' first
    | with_reducible assumption | (extract_lets +onlyGivenNames x; clear_value x) | with_reducible refine sendCtl_k ?_
    | with_reducible refine vcset_k ?_ | (with_reducible refine Kept_foldl ?_ ?_; intro _ _ _) | split
    | with_reducible refine KeptO_next ?_

theorem execRetransmitTimeout_k {s t : State} (h : Kept s t) : KeptO s (execRetransmitTimeout t) := by
  unfold execRetransmitTimeout
  repeat' first
    | with_reducible assumption
    | (extract_lets +onlyGivenNames x; first | (refine (fun (hx : Kept s x) => ?_) (?_ : Kept s x); all_goals first | (guard_target =ₐ Kept s x; unfold x; clear x) | clear_value x) | clear_value x)
    | with_reducible refine hlset_k ?_ | with_reducible refine hostRetrain_k ?_ | split
    | with_reducible refine KeptO_next ?_

theorem execUploadWrite_k {s t : State} (h : Kept s t) : KeptO s (execUploadWrite t) := by
  unfold execUploadWrite
  repeat' first
    | with_reducible assumption
    | (extract_lets +onlyGivenNames x; first | (refine (fun (hx : Kept s x) => ?_) (?_ : Kept s x); all_goals first | (guard_target =ₐ Kept s x; unfold x; clear x) | clear_value x) | clear_value x)
    | with_reducible refine dramWrite_k ?_ | with_reducible refine readWhole_k ?_
    | with_reducible refine KeptP.snd (readWhole_k ?_) (by assumption) | with_reducible refine incWrap_k ?_
    | with_reducible refine inc_k ?_ | with_reducible refine wr_k ?_ | split | with_reducible refine KeptO_next ?_

theorem sendMgt_k {s t : State} {a0 : _} (h : Kept s t) : Kept s (sendMgt a0 t) := by
  unfold sendMgt
  repeat' first
    | with_reducible assumption
    | (extract_lets +onlyGivenNames x; first | (refine (fun (hx : Kept s x) => ?_) (?_ : Kept s x); all_goals first | (guard_target =ₐ Kept s x; unfold x; clear x) | clear_value x) | clear_value x)
    | with_reducible refine hlset_k ?_ | with_reducible refine vcset_k ?_ | split

theorem choosePacket_k {s t : State} (h : Kept s t) : Kept s (choosePacket t) := by
  unfold choosePacket
  repeat' first
    | with_reducible assumption
    | (extract_lets +onlyGivenNames x; first | (refine (fun (hx : Kept s x.2) => ?_) (?_ : Kept s x.2); all_goals first | (guard_target =ₐ Kept s x.2; unfold x; clear x) | clear_value x) | clear_value x)
    | with_reducible refine sendMgt_k ?_ | with_reducible refine hlset_k ?_ | with_reducible refine readWhole_k ?_
    | with_reducible refine KeptP.snd (readWhole_k ?_) (by assumption) | with_reducible refine inc_k ?_ | split

theorem nextLinkBlock_k {s t : State} (h : Kept s t) : Kept s (nextLinkBlock t).2 := by
  unfold nextLinkBlock
  repeat' first
    | with_reducible assumption
    | (extract_lets +onlyGivenNames x; first | (refine (fun (hx : Kept s x) => ?_) (?_ : Kept s x); all_goals first | (guard_target =ₐ Kept s x; unfold x; clear x) | clear_value x) | clear_value x)
    | with_reducible refine choosePacket_k ?_ | with_reducible refine hlset_k ?_ | split
    | with_reducible refine KeptP_mk ?_

/-! ### Blocks -/

theorem trainDone_k {s t : State} {a0 : _} (h : Kept s t) : Kept s (trainDone a0 t) := by
  unfold trainDone
  repeat' first
    | with_reducible assumption | (extract_lets +onlyGivenNames x; clear_value x) | with_reducible refine settleLane_k ?_
    | with_reducible refine wr_k ?_ | split

theorem takeTrain_k {s t : State} {a0 : _} {a1 : _} (h : Kept s t) : Kept s (takeTrain a0 a1 t) := by
  unfold takeTrain
  repeat' first
    | with_reducible assumption
    | (extract_lets +onlyGivenNames x; first | (refine (fun (hx : Kept s x) => ?_) (?_ : Kept s x); all_goals first | (guard_target =ₐ Kept s x; unfold x; clear x) | clear_value x) | clear_value x)
    | with_reducible refine trainDone_k ?_ | with_reducible refine settleLane_k ?_ | with_reducible refine lnset_k ?_
    | with_reducible refine inc_k ?_ | with_reducible refine wr_k ?_ | split

theorem passBlock_k {s t : State} {a0 : _} {a1 : _} (h : Kept s t) : Kept s (passBlock a0 a1 t) := by
  unfold passBlock
  repeat' first
    | with_reducible assumption
    | (extract_lets +onlyGivenNames x; first | (refine (fun (hx : Kept s x) => ?_) (?_ : Kept s x); all_goals first | (guard_target =ₐ Kept s x; unfold x; clear x) | clear_value x) | clear_value x)
    | with_reducible refine mergeLanes_k ?_ | with_reducible refine portViol_k ?_ | with_reducible refine lnset_k ?_
    | with_reducible refine inc_k ?_ | split

theorem laneUp_k {s t : State} {a0 : _} (h : Kept s t) : Kept s (laneUp a0 t) := by
  unfold laneUp
  repeat' first
    | with_reducible assumption | (extract_lets +onlyGivenNames x; clear_value x) | with_reducible refine settleLane_k ?_
    | with_reducible refine lnset_k ?_ | with_reducible refine wr_k ?_ | split

theorem takeAlign_k {s t : State} {a0 : _} (h : Kept s t) : Kept s (takeAlign a0 t) := by
  unfold takeAlign
  repeat' first
    | with_reducible assumption | (extract_lets +onlyGivenNames x; first | clear_value x | subst x)
    | with_reducible refine loseLock_k ?_ | with_reducible refine settleLane_k ?_ | with_reducible refine lnset_k ?_
    | split

theorem takeFramed_k {s t : State} {a0 : _} {a1 : _} (h : Kept s t) : Kept s (takeFramed a0 a1 t) := by
  unfold takeFramed
  repeat' first
    | with_reducible assumption
    | (extract_lets +onlyGivenNames x; first | (refine (fun (hx : Kept s x) => ?_) (?_ : Kept s x); all_goals first | (guard_target =ₐ Kept s x; unfold x; clear x) | clear_value x) | clear_value x)
    | with_reducible refine laneUp_k ?_ | with_reducible refine passBlock_k ?_ | with_reducible refine loseLock_k ?_
    | with_reducible refine lnset_k ?_ | with_reducible refine inc_k ?_ | split

theorem retrainLane_k {s t : State} {a0 : _} {a1 : _} (h : Kept s t) : Kept s (retrainLane a0 a1 t) := by
  unfold retrainLane
  repeat' first
    | with_reducible assumption
    | (extract_lets +onlyGivenNames x; first | (refine (fun (hx : Kept s x) => ?_) (?_ : Kept s x); all_goals first | (guard_target =ₐ Kept s x; unfold x; clear x) | clear_value x) | clear_value x)
    | with_reducible refine takeTrain_k ?_ | with_reducible refine settleLane_k ?_ | with_reducible refine lnset_k ?_
    | with_reducible refine logFault_k ?_ | with_reducible refine inc_k ?_ | with_reducible refine wr_k ?_ | split

theorem drainElastic_k {s t : State} {a0 : _} {a1 : _} (h : Kept s t) : Kept s (drainElastic a0 a1 t) := by
  unfold drainElastic
  repeat' first
    | with_reducible assumption
    | (extract_lets +onlyGivenNames x; first | (refine (fun (hx : Kept s x) => ?_) (?_ : Kept s x); all_goals first | (guard_target =ₐ Kept s x; unfold x; clear x) | clear_value x) | clear_value x)
    | with_reducible refine lnset_k ?_ | with_reducible refine incBy_k ?_
    | (with_reducible refine Kept_foldl ?_ ?_; intro _ _ _) | split

theorem shimDeleted_k {s t : State} {a0 : _} (h : Kept s t) : Kept s (shimDeleted a0 t).2 := by
  unfold shimDeleted
  repeat' first
    | with_reducible assumption | (extract_lets +onlyGivenNames x; clear_value x) | with_reducible refine hlset_k ?_
    | split | with_reducible refine KeptP_mk ?_

theorem enterElastic_k {s t : State} {a0 : _} {a1 : _} (h : Kept s t) : Kept s (enterElastic a0 a1 t).2 := by
  unfold enterElastic
  repeat' first
    | with_reducible assumption
    | (extract_lets +onlyGivenNames x; first | (refine (fun (hx : Kept s x) => ?_) (?_ : Kept s x); all_goals first | (guard_target =ₐ Kept s x; unfold x; clear x) | clear_value x) | (refine (fun (hx : Kept s x.2) => ?_) (?_ : Kept s x.2); all_goals first | (guard_target =ₐ Kept s x.2; unfold x; clear x) | clear_value x) | clear_value x)
    | with_reducible refine shimDeleted_k ?_ | with_reducible refine KeptP.snd (shimDeleted_k ?_) (by assumption)
    | with_reducible refine lnset_k ?_ | with_reducible refine inc_k ?_ | split | with_reducible refine KeptP_mk ?_

theorem throughElastic_k {s t : State} {a0 : _} {a1 : _} (h : Kept s t) : Kept s (throughElastic a0 a1 t).2 := by
  unfold throughElastic
  repeat' first
    | with_reducible assumption
    | (extract_lets +onlyGivenNames x; first | (refine (fun (hx : Kept s x) => ?_) (?_ : Kept s x); all_goals first | (guard_target =ₐ Kept s x; unfold x; clear x) | clear_value x) | clear_value x)
    | with_reducible refine enterElastic_k ?_ | with_reducible refine KeptP.snd (enterElastic_k ?_) (by assumption)
    | with_reducible refine drainElastic_k ?_ | with_reducible refine lnset_k ?_ | split
    | with_reducible refine KeptP_mk ?_

theorem lockedBlock_k {s t : State} {a0 : _} {a1 : _} (h : Kept s t) : Kept s (lockedBlock a0 a1 t) := by
  unfold lockedBlock
  repeat' first
    | with_reducible assumption
    | (extract_lets +onlyGivenNames x; first | (refine (fun (hx : Kept s x) => ?_) (?_ : Kept s x); all_goals first | (guard_target =ₐ Kept s x; unfold x; clear x) | clear_value x) | (refine (fun (hx : Kept s x.2) => ?_) (?_ : Kept s x.2); all_goals first | (guard_target =ₐ Kept s x.2; unfold x; clear x) | clear_value x) | clear_value x)
    | with_reducible refine throughElastic_k ?_ | with_reducible refine KeptP.snd (throughElastic_k ?_) (by assumption)
    | with_reducible refine retrainLane_k ?_ | with_reducible refine takeFramed_k ?_
    | with_reducible refine takeAlign_k ?_ | with_reducible refine takeTrain_k ?_ | with_reducible refine lnset_k ?_
    | split

theorem execBlockReceive_k {s t : State} {l : Fin 32} {r : BitVec 80} {m : List Bool} (h : Kept s t) :
    KeptO s (execBlockReceive l r m t) := by
  unfold execBlockReceive
  extract_lets a v u b e ok x s1
  have h1 : Kept s s1 := by unfold s1; with_reducible exact lnset_k h
  clear_value s1 x ok e b u v a
  with_reducible refine KeptO_ite (KeptO_next h) ?_
  with_reducible refine KeptO_ite ?_ ?_
  · with_reducible refine KeptO_ite ?_ (KeptO_next h1)
    exact KeptO_next (settleLane_k (wr_k (lnset_k h1)))
  · with_reducible refine KeptO_ite (KeptO_next (loseLock_k (inc_k h1))) ?_
    with_reducible refine KeptO_ite (KeptO_next (loseLock_k (inc_k h1))) ?_
    exact KeptO_next (lockedBlock_k h1)

theorem putBlock_k {s t : State} {a0 : _} {a1 : _} (h : Kept s t) : Kept s (putBlock a0 t a1) := by
  unfold putBlock
  repeat' first
    | with_reducible assumption | (extract_lets +onlyGivenNames x; clear_value x) | with_reducible refine lnset_k ?_
    | split

theorem joinColumn_k {s t : State} {a0 : _} (h : Kept s t) : Kept s (joinColumn t a0) := by
  unfold joinColumn
  repeat' first
    | with_reducible assumption | (extract_lets +onlyGivenNames x; clear_value x) | with_reducible refine lnset_k ?_
    | split

theorem formColumn_k {s t : State} (h : Kept s t) : Kept s (formColumn t) := by
  unfold formColumn
  repeat' first
    | with_reducible assumption
    | (extract_lets +onlyGivenNames x; first | (refine (fun (hx : Kept s x) => ?_) (?_ : Kept s x); all_goals first | (guard_target =ₐ Kept s x; unfold x; clear x) | clear_value x) | (refine (fun (hx : Kept s x.2) => ?_) (?_ : Kept s x.2); all_goals first | (guard_target =ₐ Kept s x.2; unfold x; clear x) | clear_value x) | clear_value x)
    | with_reducible refine joinColumn_k ?_ | with_reducible refine putBlock_k ?_
    | with_reducible refine nextLinkBlock_k ?_ | with_reducible refine KeptP.snd (nextLinkBlock_k ?_) (by assumption)
    | with_reducible refine hlset_k ?_ | (with_reducible refine Kept_foldl ?_ ?_; intro _ _ _) | split

theorem formBlock_k {s t : State} {a0 : _} (h : Kept s t) : Kept s (formBlock a0 t) := by
  unfold formBlock
  repeat' first
    | with_reducible assumption | (extract_lets +onlyGivenNames x; clear_value x) | with_reducible refine lnset_k ?_
    | split

theorem emitBits_k {s t : State} {a0 : _} {a1 : _} {a2 : _} {a3 : _} {a4 : _} (h : Kept s t) : Kept s (emitBits a0 a1 a2 a3 a4 t) := by
  unfold emitBits
  repeat' first
    | with_reducible assumption | (extract_lets +onlyGivenNames x; clear_value x) | with_reducible refine lnset_k ?_
    | split

theorem emitBlock_k {s t : State} {a0 : _} {a1 : _} (h : Kept s t) : Kept s (emitBlock a0 a1 t) := by
  unfold emitBlock
  repeat' first
    | with_reducible assumption
    | (extract_lets +onlyGivenNames x; first | (refine (fun (hx : Kept s x) => ?_) (?_ : Kept s x); all_goals first | (guard_target =ₐ Kept s x; unfold x; clear x) | clear_value x) | clear_value x)
    | with_reducible refine emitBits_k ?_ | with_reducible refine lnset_k ?_ | split

theorem emitTrain_k {s t : State} {a0 : _} (h : Kept s t) : Kept s (emitTrain a0 t) := by
  unfold emitTrain
  repeat' first
    | with_reducible assumption
    | (extract_lets +onlyGivenNames x; first | (refine (fun (hx : Kept s x) => ?_) (?_ : Kept s x); all_goals first | (guard_target =ₐ Kept s x; unfold x; clear x) | clear_value x) | clear_value x)
    | with_reducible refine emitBits_k ?_ | with_reducible refine trainDone_k ?_ | with_reducible refine lnset_k ?_
    | split

theorem emitFormed_k {s t : State} {a0 : _} (h : Kept s t) : Kept s (emitFormed a0 t) := by
  unfold emitFormed
  repeat' first
    | with_reducible assumption | (extract_lets +onlyGivenNames x; clear_value x) | with_reducible refine emitBlock_k ?_
    | with_reducible refine lnset_k ?_ | split

theorem execBlockSend_k {s t : State} {a0 : _} (h : Kept s t) : KeptO s (execBlockSend a0 t) := by
  unfold execBlockSend
  repeat' first
    | with_reducible assumption | (extract_lets +onlyGivenNames x; clear_value x) | with_reducible refine emitFormed_k ?_
    | with_reducible refine emitTrain_k ?_ | with_reducible refine emitBlock_k ?_ | with_reducible refine formBlock_k ?_
    | with_reducible refine formColumn_k ?_ | split | with_reducible refine KeptO_next ?_

/-! ### Vre -/

theorem toVre_k {s t : State} {a0 : _} {a1 : _} (h : Kept s t) : Kept s (toVre a0 a1 t) := by
  unfold toVre
  repeat' first
    | with_reducible assumption | (with_reducible refine Kept_mk (by with_reducible assumption) ?_; rfl)
    | (extract_lets +onlyGivenNames x; clear_value x) | split

theorem vreSend_k {s t : State} {a0 : _} {a1 : _} (h : Kept s t) : Kept s (vreSend a0 a1 t) := by
  unfold vreSend
  repeat' first
    | with_reducible assumption | with_reducible refine writeWord_k ?_ | with_reducible refine inc_k ?_ | split

theorem vreDeliver_k {s t : State} {a0 : _} {a1 : _} {a2 : _} (h : Kept s t) : Kept s (vreDeliver a0 a1 a2 t) := by
  unfold vreDeliver
  repeat' first
    | with_reducible assumption | (with_reducible refine Kept_mk (by with_reducible assumption) ?_; rfl)
    | (extract_lets +onlyGivenNames x; clear_value x) | split

theorem routeVerdict_k {s t : State} {a0 : _} {a1 : _} (h : Kept s t) : Kept s (routeVerdict a0 a1 t) := by
  unfold routeVerdict
  repeat' first
    | with_reducible assumption
    | (extract_lets +onlyGivenNames x; first | (refine (fun (hx : Kept s x) => ?_) (?_ : Kept s x); all_goals first | (guard_target =ₐ Kept s x; unfold x; clear x) | clear_value x) | clear_value x)
    | with_reducible refine vreDeliver_k ?_ | with_reducible refine vreSend_k ?_ | with_reducible refine inc_k ?_
    | (with_reducible refine Kept_foldl ?_ ?_; intro _ _ _) | split

theorem routeTrigger_k {s t : State} {a0 : _} {a1 : _} (h : Kept s t) : Kept s (routeTrigger a0 a1 t) := by
  unfold routeTrigger
  repeat' first
    | with_reducible assumption | (with_reducible refine Kept_mk (by with_reducible assumption) ?_; rfl)
    | (with_reducible refine Kept_mk (by with_reducible assumption) ?_; rfl)
    | (extract_lets +onlyGivenNames x; first | (refine (fun (hx : Kept s x) => ?_) (?_ : Kept s x); all_goals first | (guard_target =ₐ Kept s x; unfold x; clear x) | clear_value x) | clear_value x)
    | with_reducible refine vreSend_k ?_ | (with_reducible refine Kept_foldl ?_ ?_; intro _ _ _) | split

theorem execVreMessage_k {s t : State} (h : Kept s t) : KeptO s (execVreMessage t) := by
  unfold execVreMessage
  repeat' first
    | with_reducible assumption | (with_reducible refine Kept_mk (by with_reducible assumption) ?_; rfl)
    | (extract_lets +onlyGivenNames x; first | (refine (fun (hx : Kept s x) => ?_) (?_ : Kept s x); all_goals first | (guard_target =ₐ Kept s x; unfold x; clear x) | clear_value x) | clear_value x)
    | with_reducible refine routeTrigger_k ?_ | with_reducible refine routeVerdict_k ?_ | split
    | with_reducible refine KeptO_next ?_

theorem execVerdictBlockSend_k {s t : State} {a0 : _} (h : Kept s t) : KeptO s (execVerdictBlockSend a0 t) := by
  unfold execVerdictBlockSend
  repeat' first
    | with_reducible assumption
    | (extract_lets +onlyGivenNames x; first | (refine (fun (hx : Kept s x) => ?_) (?_ : Kept s x); all_goals first | (guard_target =ₐ Kept s x; unfold x; clear x) | clear_value x) | (refine (fun (hx : Kept s x.2) => ?_) (?_ : Kept s x.2); all_goals first | (guard_target =ₐ Kept s x.2; unfold x; clear x) | clear_value x) | clear_value x)
    | with_reducible refine putBlock_k ?_ | with_reducible refine vpset_k ?_ | with_reducible refine readWord_k ?_
    | with_reducible refine KeptP.snd (readWord_k ?_) (by assumption) | with_reducible refine inc_k ?_
    | (with_reducible refine Kept_foldl ?_ ?_; intro _ _ _) | split | with_reducible refine KeptO_next ?_

theorem execVerdictBlockReceive_k {s t : State} {a0 : _} (h : Kept s t) : KeptO s (execVerdictBlockReceive a0 t) := by
  unfold execVerdictBlockReceive
  repeat' first
    | with_reducible assumption
    | (extract_lets +onlyGivenNames x; first | (refine (fun (hx : Kept s x) => ?_) (?_ : Kept s x); all_goals first | (guard_target =ₐ Kept s x; unfold x; clear x) | clear_value x) | clear_value x)
    | with_reducible refine toVre_k ?_ | with_reducible refine portViol_k ?_ | with_reducible refine vpset_k ?_
    | with_reducible refine lnset_k ?_ | with_reducible refine inc_k ?_ | with_reducible refine incBy_k ?_ | split
    | with_reducible refine KeptO_next ?_

/-! ### Trigger -/

theorem setTrig_k {s t : State} {a0 : _} (h : Kept s t) : Kept s (setTrig a0 t) := by
  unfold setTrig
  repeat' first
    | with_reducible assumption | (with_reducible refine Kept_mk (by with_reducible assumption) ?_; rfl) | split

theorem condMet_k {s t : State} {a0 : _} {a1 : _} {a2 : _} (h : Kept s t) : Kept s (condMet a0 a1 a2 t) := by
  unfold condMet
  repeat' first
    | with_reducible assumption
    | (extract_lets +onlyGivenNames x; first | (refine (fun (hx : Kept s x) => ?_) (?_ : Kept s x); all_goals first | (guard_target =ₐ Kept s x; unfold x; clear x) | clear_value x) | clear_value x)
    | with_reducible refine setTrig_k ?_ | with_reducible refine inc_k ?_ | split

theorem crossSamples_k {s t : State} {a0 : _} {a1 : _} {a2 : _} {a3 : _} {a4 : _} {a5 : _} {a6 : _} (h : Kept s t) : Kept s (crossSamples a0 a1 a2 a3 a4 a5 a6 t) := by
  induction a4 generalizing t a5 a6 with
  | nil =>
    unfold crossSamples
    repeat' first
      | with_reducible assumption
      | (extract_lets +onlyGivenNames x; first | (refine (fun (hx : Kept s x) => ?_) (?_ : Kept s x); all_goals first | (guard_target =ₐ Kept s x; unfold x; clear x) | clear_value x) | clear_value x)
      | with_reducible refine condMet_k ?_ | with_reducible refine setTrig_k ?_ | split
  | cons y l ih =>
    unfold crossSamples
    repeat' first
      | with_reducible assumption
      | (extract_lets +onlyGivenNames x; first | (refine (fun (hx : Kept s x) => ?_) (?_ : Kept s x); all_goals first | (guard_target =ₐ Kept s x; unfold x; clear x) | clear_value x) | clear_value x)
      | with_reducible refine condMet_k ?_ | with_reducible refine setTrig_k ?_ | with_reducible refine ih ?_ | split

theorem execConditionCrossing_k {s t : State} {a0 : _} {a1 : _} {a2 : _} {a3 : _} (h : Kept s t) : KeptO s (execConditionCrossing a0 a1 a2 a3 t) := by
  unfold execConditionCrossing
  repeat' first
    | with_reducible assumption | (extract_lets +onlyGivenNames x; clear_value x)
    | with_reducible refine crossSamples_k ?_ | split | with_reducible refine KeptO_next ?_

theorem execTrigInEdge_k {s t : State} {a0 : _} {a1 : _} {a2 : _} (h : Kept s t) : KeptO s (execTrigInEdge a0 a1 a2 t) := by
  unfold execTrigInEdge
  repeat' first
    | with_reducible assumption
    | (extract_lets +onlyGivenNames x; first | (refine (fun (hx : Kept s x) => ?_) (?_ : Kept s x); all_goals first | (guard_target =ₐ Kept s x; unfold x; clear x) | clear_value x) | clear_value x)
    | with_reducible refine condMet_k ?_ | with_reducible refine setTrig_k ?_ | with_reducible refine inc_k ?_
    | (with_reducible refine Kept_foldl ?_ ?_; intro _ _ _) | split | with_reducible refine KeptO_next ?_

theorem noteFire_k {s t : State} {a0 : _} {a1 : _} {a2 : _} {a3 : _} (h : Kept s t) : Kept s (noteFire a0 a1 a2 a3 t) := by
  unfold noteFire
  repeat' first
    | with_reducible assumption | with_reducible refine wr_k ?_ | split

theorem sendTrigger_k {s t : State} {a0 : _} (h : Kept s t) : Kept s (sendTrigger a0 t) := by
  unfold sendTrigger
  repeat' first
    | with_reducible assumption | with_reducible refine toVre_k ?_ | split

theorem execTriggerFire_k {s t : State} {a0 : _} (h : Kept s t) : KeptO s (execTriggerFire a0 t) := by
  unfold execTriggerFire
  repeat' first
    | with_reducible assumption
    | (extract_lets +onlyGivenNames x; first | (refine (fun (hx : Kept s x) => ?_) (?_ : Kept s x); all_goals first | (guard_target =ₐ Kept s x; unfold x; clear x) | clear_value x) | clear_value x)
    | with_reducible refine sendTrigger_k ?_ | with_reducible refine noteFire_k ?_ | with_reducible refine setTrig_k ?_
    | with_reducible refine directRecord_k ?_ | with_reducible refine raise_k ?_ | with_reducible refine inc_k ?_ | split
    | with_reducible refine KeptO_next ?_

theorem takeArm_k {s t : State} {a0 : _} {a1 : _} (h : Kept s t) : Kept s (takeArm a0 a1 t) := by
  unfold takeArm
  repeat' first
    | with_reducible assumption
    | (extract_lets +onlyGivenNames x; first | (refine (fun (hx : Kept s x) => ?_) (?_ : Kept s x); all_goals first | (guard_target =ₐ Kept s x; unfold x; clear x) | clear_value x) | clear_value x)
    | with_reducible refine setTrig_k ?_ | with_reducible refine inc_k ?_ | with_reducible refine wr_k ?_ | split

theorem armAt_k {s t : State} {a0 : _} (h : Kept s t) : Kept s (armAt a0 t) := by
  unfold armAt
  repeat' first
    | with_reducible assumption
    | (extract_lets +onlyGivenNames x; first | (refine (fun (hx : Kept s x) => ?_) (?_ : Kept s x); all_goals first | (guard_target =ₐ Kept s x; unfold x; clear x) | clear_value x) | clear_value x)
    | with_reducible refine takeArm_k ?_ | with_reducible refine sendTrigger_k ?_ | split

theorem writeArm_k {s t : State} (h : Kept s t) : KeptA s (writeArm t) := by
  unfold writeArm
  repeat' first
    | with_reducible assumption | with_reducible refine armAt_k ?_ | split | with_reducible refine KeptA_ok ?_
    | with_reducible exact KeptA_err

theorem armEvent_k {s t : State} (h : Kept s t) : KeptM s (armEvent t) := by
  unfold armEvent
  repeat' first
    | with_reducible assumption | with_reducible refine armAt_k ?_ | split | with_reducible refine KeptM_some ?_
    | with_reducible exact KeptM_none

theorem becomeArmed_k {s t : State} (h : Kept s t) : Kept s (becomeArmed t) := by
  unfold becomeArmed
  repeat' first
    | with_reducible assumption | (extract_lets +onlyGivenNames x; clear_value x) | with_reducible refine setTrig_k ?_
    | with_reducible refine wr_k ?_ | split

theorem execArmGrainReached_k {s t : State} (h : Kept s t) : KeptO s (execArmGrainReached t) := by
  unfold execArmGrainReached
  repeat' first
    | with_reducible assumption | with_reducible refine becomeArmed_k ?_ | split | with_reducible refine KeptO_next ?_

theorem disarm_k {s t : State} (h : Kept s t) : Kept s (disarm t) := by
  unfold disarm
  repeat' first
    | with_reducible assumption | (extract_lets +onlyGivenNames x; clear_value x) | with_reducible refine setTrig_k ?_
    | with_reducible refine wr_k ?_ | split

theorem writeDisarm_k {s t : State} (h : Kept s t) : KeptA s (writeDisarm t) := by
  unfold writeDisarm
  repeat' first
    | with_reducible assumption
    | (extract_lets +onlyGivenNames x; (refine (fun (hx : Kept s x) => ?_) (?_ : Kept s x); all_goals first | (guard_target =ₐ Kept s x; unfold x; clear x) | clear_value x))
    | with_reducible refine disarm_k ?_ | with_reducible refine sendTrigger_k ?_ | split
    | with_reducible refine KeptA_ok ?_ | with_reducible exact KeptA_err

theorem takeMsg_k {s t : State} {a0 : _} (h : Kept s t) : KeptMP s (takeMsg a0 t) := by
  unfold takeMsg
  repeat' first
    | with_reducible assumption | (extract_lets +onlyGivenNames x; clear_value x) | with_reducible refine setTrig_k ?_
    | split | with_reducible refine KeptMP_some ?_ | with_reducible exact KeptMP_none

theorem execArmMessage_k {s t : State} (h : Kept s t) : KeptO s (execArmMessage t) := by
  unfold execArmMessage
  repeat' first
    | with_reducible assumption
    | (extract_lets +onlyGivenNames x; first | (refine (fun (hx : Kept s x) => ?_) (?_ : Kept s x); all_goals first | (guard_target =ₐ Kept s x; unfold x; clear x) | clear_value x) | clear_value x)
    | with_reducible refine KeptMP.some (takeMsg_k ?_) (by assumption) | with_reducible refine becomeArmed_k ?_
    | with_reducible refine takeArm_k ?_ | with_reducible refine inc_k ?_ | split | with_reducible refine KeptO_next ?_

theorem execDisarmMessage_k {s t : State} (h : Kept s t) : KeptO s (execDisarmMessage t) := by
  unfold execDisarmMessage
  repeat' first
    | with_reducible assumption | with_reducible refine KeptMP.some (takeMsg_k ?_) (by assumption)
    | with_reducible refine disarm_k ?_ | split | with_reducible refine KeptO_next ?_

theorem execFireMessage_k {s t : State} (h : Kept s t) : KeptO s (execFireMessage t) := by
  unfold execFireMessage
  repeat' first
    | with_reducible assumption
    | (extract_lets +onlyGivenNames x; first | (refine (fun (hx : Kept s x) => ?_) (?_ : Kept s x); all_goals first | (guard_target =ₐ Kept s x; unfold x; clear x) | clear_value x) | clear_value x)
    | with_reducible refine KeptMP.some (takeMsg_k ?_) (by assumption) | with_reducible refine noteFire_k ?_
    | with_reducible refine setTrig_k ?_ | with_reducible refine directRecord_k ?_ | with_reducible refine raise_k ?_
    | with_reducible refine inc_k ?_ | split | with_reducible refine KeptO_next ?_

end Sys2Proof.Machine
end

