-- ==== Sys2Proof/Laws/KeptUnits.lean ====
section
/-! SUPPORT. The waiting commands and the memories' form are kept by monitors, clocks, thermal control, DRAM, the control store, the NVM, the life cycle, start-up, deliveries, the queues' commands. -/

namespace Sys2Proof.Machine

-- One proof at a time: proofs elaborated side by side take more memory than the check grants.
set_option Elab.async false
set_option linter.all false

/-! ### Mau -/

theorem mauset_k {s t : State} {a0 : _} {a1 : _} (h : Kept s t) : Kept s (mauset a0 a1 t) := by
  unfold mauset
  repeat' first
    | with_reducible assumption | (with_reducible refine Kept_mk (by with_reducible assumption) ?_; rfl) | split

theorem addConversion_k {s t : State} {a0 : _} {a1 : _} {a2 : _} {a3 : _} (h : Kept s t) : Kept s (addConversion a0 a1 a2 a3 t).2 := by
  unfold addConversion
  repeat' first
    | with_reducible assumption | (extract_lets +onlyGivenNames x; clear_value x) | with_reducible refine inc_k ?_ | split
    | with_reducible refine KeptP_mk ?_

theorem countOver_k {s t : State} {a0 : _} {a1 : _} (h : Kept s t) : Kept s (countOver a0 a1 t) := by
  unfold countOver
  repeat' first
    | with_reducible assumption | with_reducible refine inc_k ?_ | split

theorem protConversion_k {s t : State} {a0 : _} {a1 : _} (h : Kept s t) : Kept s (protConversion a0 a1 t) := by
  unfold protConversion
  repeat' first
    | with_reducible assumption | (with_reducible refine Kept_mk (by with_reducible assumption) ?_; rfl)
    | (extract_lets +onlyGivenNames x; first | (refine (fun (hx : Kept s x) => ?_) (?_ : Kept s x); all_goals first | (guard_target =ₐ Kept s x; unfold x; clear x) | clear_value x) | (refine (fun (hx : Kept s x.2) => ?_) (?_ : Kept s x.2); all_goals first | (guard_target =ₐ Kept s x.2; unfold x; clear x) | clear_value x) | clear_value x)
    | with_reducible refine countOver_k ?_ | with_reducible refine addConversion_k ?_
    | with_reducible refine KeptP.snd (addConversion_k ?_) (by assumption) | with_reducible refine mauset_k ?_ | split

theorem mauStart_k {s t : State} {a0 : _} (h : Kept s t) : Kept s (mauStart a0 t).2 := by
  unfold mauStart
  repeat' first
    | with_reducible assumption | (extract_lets +onlyGivenNames x; clear_value x) | with_reducible refine mauset_k ?_
    | with_reducible refine inc_k ?_ | split | with_reducible refine KeptP_mk ?_

theorem mauStop_k {s t : State} {a0 : _} (h : Kept s t) : Kept s (mauStop a0 t) := by
  unfold mauStop
  repeat' first
    | with_reducible assumption | (extract_lets +onlyGivenNames x; clear_value x) | with_reducible refine mauset_k ?_
    | split

theorem beginConv1_k {s t : State} {a0 : _} {a1 : _} {a2 : _} {a3 : _} (h : Kept s t) : Kept s (beginConv1 a0 a1 a2 a3 t) := by
  unfold beginConv1
  repeat' first
    | with_reducible assumption | (extract_lets +onlyGivenNames x; clear_value x) | with_reducible refine mauset_k ?_
    | with_reducible refine inc_k ?_ | split

theorem sequenceNext_k {s t : State} {a0 : _} (h : Kept s t) : Kept s (sequenceNext a0 t) := by
  unfold sequenceNext
  repeat' first
    | with_reducible assumption | (extract_lets +onlyGivenNames x; clear_value x) | with_reducible refine beginConv1_k ?_
    | with_reducible refine mauset_k ?_ | split

theorem mauNext_k {s t : State} {a0 : _} (h : Kept s t) : Kept s (mauNext a0 t) := by
  unfold mauNext
  repeat' first
    | with_reducible assumption | (extract_lets +onlyGivenNames x; clear_value x)
    | with_reducible refine sequenceNext_k ?_ | with_reducible refine mauset_k ?_ | with_reducible refine wr_k ?_ | split

theorem execMauEntryStart_k {s t : State} {a0 : _} (h : Kept s t) : KeptO s (execMauEntryStart a0 t) := by
  unfold execMauEntryStart
  repeat' first
    | with_reducible assumption | (extract_lets +onlyGivenNames x; clear_value x)
    | with_reducible refine sequenceNext_k ?_ | with_reducible refine mauset_k ?_ | split
    | with_reducible refine KeptO_next ?_

theorem entryDone_k {s t : State} {a0 : _} {a1 : _} {a2 : _} (h : Kept s t) : Kept s (entryDone a0 a1 a2 t) := by
  unfold entryDone
  repeat' first
    | with_reducible assumption
    | (extract_lets +onlyGivenNames x; first | (refine (fun (hx : Kept s x) => ?_) (?_ : Kept s x); all_goals first | (guard_target =ₐ Kept s x; unfold x; clear x) | clear_value x) | clear_value x)
    | with_reducible refine countOver_k ?_ | with_reducible refine mauset_k ?_ | with_reducible refine raise_k ?_
    | with_reducible refine incWrap_k ?_ | with_reducible refine wr_k ?_ | split

theorem sequenceConversion_k {s t : State} {a0 : _} {a1 : _} {a2 : _} {a3 : _} {a4 : _} (h : Kept s t) : Kept s (sequenceConversion a0 a1 a2 a3 a4 t) := by
  unfold sequenceConversion
  repeat' first
    | with_reducible assumption
    | (extract_lets +onlyGivenNames x; first | (refine (fun (hx : Kept s x.2) => ?_) (?_ : Kept s x.2); all_goals first | (guard_target =ₐ Kept s x.2; unfold x; clear x) | clear_value x) | clear_value x)
    | with_reducible refine entryDone_k ?_ | with_reducible refine addConversion_k ?_
    | with_reducible refine KeptP.snd (addConversion_k ?_) (by assumption) | with_reducible refine mauset_k ?_ | split

theorem injectedConversion_k {s t : State} {a0 : _} {a1 : _} {a2 : _} {a3 : _} (h : Kept s t) : Kept s (injectedConversion a0 a1 a2 a3 t) := by
  unfold injectedConversion
  repeat' first
    | with_reducible assumption
    | (extract_lets +onlyGivenNames x; first | (refine (fun (hx : Kept s x) => ?_) (?_ : Kept s x); all_goals first | (guard_target =ₐ Kept s x; unfold x; clear x) | clear_value x) | (refine (fun (hx : Kept s x.2) => ?_) (?_ : Kept s x.2); all_goals first | (guard_target =ₐ Kept s x.2; unfold x; clear x) | clear_value x) | clear_value x)
    | with_reducible refine countOver_k ?_ | with_reducible refine addConversion_k ?_
    | with_reducible refine KeptP.snd (addConversion_k ?_) (by assumption) | with_reducible refine mauset_k ?_
    | with_reducible refine wr_k ?_ | split

theorem endConv0_k {s t : State} {a0 : _} {a1 : _} (h : Kept s t) : Kept s (endConv0 a0 a1 t) := by
  unfold endConv0
  repeat' first
    | with_reducible assumption
    | (extract_lets +onlyGivenNames x; first | (refine (fun (hx : Kept s x) => ?_) (?_ : Kept s x); all_goals first | (guard_target =ₐ Kept s x; unfold x; clear x) | clear_value x) | clear_value x)
    | with_reducible refine injectedConversion_k ?_ | with_reducible refine sequenceConversion_k ?_
    | with_reducible refine mauNext_k ?_ | with_reducible refine mauset_k ?_ | split

theorem conv1Next_k {s t : State} {a0 : _} (h : Kept s t) : Kept s (conv1Next a0 t) := by
  unfold conv1Next
  repeat' first
    | with_reducible assumption | (extract_lets +onlyGivenNames x; clear_value x) | with_reducible refine beginConv1_k ?_
    | split

theorem endConv1_k {s t : State} {a0 : _} {a1 : _} {a2 : _} (h : Kept s t) : Kept s (endConv1 a0 a1 a2 t) := by
  unfold endConv1
  repeat' first
    | with_reducible assumption
    | (extract_lets +onlyGivenNames x; first | (refine (fun (hx : Kept s x) => ?_) (?_ : Kept s x); all_goals first | (guard_target =ₐ Kept s x; unfold x; clear x) | clear_value x) | clear_value x)
    | with_reducible refine conv1Next_k ?_ | with_reducible refine sequenceConversion_k ?_
    | with_reducible refine mauNext_k ?_ | with_reducible refine mauset_k ?_ | split

theorem endProtected_k {s t : State} {a0 : _} {a1 : _} (h : Kept s t) : Kept s (endProtected a0 a1 t) := by
  unfold endProtected
  repeat' first
    | with_reducible assumption | with_reducible refine protConversion_k ?_ | split

theorem execConversionDone_k {s t : State} {a0 : _} {a1 : _} {a2 : _} (h : Kept s t) : KeptO s (execConversionDone a0 a1 a2 t) := by
  unfold execConversionDone
  repeat' first
    | with_reducible assumption | with_reducible refine endProtected_k ?_ | with_reducible refine endConv1_k ?_
    | with_reducible refine endConv0_k ?_ | split | with_reducible refine KeptO_next ?_

theorem writeInj_k {s t : State} {a0 : _} {a1 : _} (h : Kept s t) : KeptA s (writeInj a0 a1 t) := by
  unfold writeInj
  repeat' first
    | with_reducible assumption
    | (extract_lets +onlyGivenNames x; first | (refine (fun (hx : Kept s x) => ?_) (?_ : Kept s x); all_goals first | (guard_target =ₐ Kept s x; unfold x; clear x) | clear_value x) | clear_value x)
    | with_reducible refine mauNext_k ?_ | with_reducible refine mauset_k ?_ | with_reducible refine wr_k ?_ | split
    | with_reducible refine KeptA_ok ?_ | with_reducible exact KeptA_err

theorem startCal_k {s t : State} {a0 : _} (h : Kept s t) : KeptA s (startCal a0 t) := by
  unfold startCal
  repeat' first
    | with_reducible assumption
    | (extract_lets +onlyGivenNames x; first | (refine (fun (hx : Kept s x) => ?_) (?_ : Kept s x); all_goals first | (guard_target =ₐ Kept s x; unfold x; clear x) | clear_value x) | clear_value x)
    | with_reducible refine mauNext_k ?_ | with_reducible refine mauset_k ?_ | split | with_reducible refine KeptA_ok ?_
    | with_reducible exact KeptA_err

theorem setFactors_k {s t : State} {a0 : _} {a1 : _} {a2 : _} (h : Kept s t) : Kept s (setFactors a0 a1 a2 t) := by
  unfold setFactors
  repeat' first
    | with_reducible assumption | with_reducible refine wr_k ?_ | (with_reducible refine Kept_foldl ?_ ?_; intro _ _ _)
    | split

theorem execMauCalDone_k {s t : State} {a0 : _} {a1 : _} {a2 : _} (h : Kept s t) : KeptO s (execMauCalDone a0 a1 a2 t) := by
  unfold execMauCalDone
  repeat' first
    | with_reducible assumption
    | (extract_lets +onlyGivenNames x; first | (refine (fun (hx : Kept s x) => ?_) (?_ : Kept s x); all_goals first | (guard_target =ₐ Kept s x; unfold x; clear x) | clear_value x) | clear_value x)
    | with_reducible refine setFactors_k ?_ | with_reducible refine mauNext_k ?_ | with_reducible refine mauset_k ?_
    | with_reducible refine inc_k ?_ | with_reducible refine wr_k ?_ | split | with_reducible refine KeptO_next ?_

theorem execRefReady_k {s t : State} {a0 : _} {a1 : _} (h : Kept s t) : KeptO s (execRefReady a0 a1 t) := by
  unfold execRefReady
  repeat' first
    | with_reducible assumption
    | (extract_lets +onlyGivenNames x; first | (refine (fun (hx : Kept s x) => ?_) (?_ : Kept s x); all_goals first | (guard_target =ₐ Kept s x; unfold x; clear x) | clear_value x) | clear_value x)
    | with_reducible refine mauset_k ?_ | with_reducible refine wr_k ?_ | split | with_reducible refine KeptO_next ?_

theorem chooseRef_k {s t : State} {a0 : _} {a1 : _} {a2 : _} (h : Kept s t) : Kept s (chooseRef a0 a1 a2 t) := by
  unfold chooseRef
  repeat' first
    | with_reducible assumption
    | (extract_lets +onlyGivenNames x; first | (refine (fun (hx : Kept s x) => ?_) (?_ : Kept s x); all_goals first | (guard_target =ₐ Kept s x; unfold x; clear x) | clear_value x) | clear_value x)
    | with_reducible refine mauset_k ?_ | with_reducible refine wr_k ?_ | split

theorem resetMau_k {s t : State} {a0 : _} (h : Kept s t) : Kept s (resetMau a0 t) := by
  unfold resetMau
  repeat' first
    | with_reducible assumption
    | (extract_lets +onlyGivenNames x; first | (refine (fun (hx : Kept s x) => ?_) (?_ : Kept s x); all_goals first | (guard_target =ₐ Kept s x; unfold x; clear x) | clear_value x) | clear_value x)
    | with_reducible refine setFactors_k ?_ | with_reducible refine mauset_k ?_ | with_reducible refine wr_k ?_
    | (with_reducible refine Kept_foldl ?_ ?_; intro _ _ _) | split

/-! ### Clocks -/

theorem setClk_k {s t : State} {a0 : _} (h : Kept s t) : Kept s (setClk a0 t) := by
  unfold setClk
  repeat' first
    | with_reducible assumption | (with_reducible refine Kept_mk (by with_reducible assumption) ?_; rfl) | split

theorem milestone_k {s t : State} {a0 : _} (h : Kept s t) : Kept s (milestone a0 t) := by
  unfold milestone
  repeat' first
    | with_reducible assumption | with_reducible refine wr_k ?_ | split

theorem settleBoot_k {s t : State} (h : Kept s t) : Kept s (settleBoot t) := by
  unfold settleBoot
  repeat' first
    | with_reducible assumption | (extract_lets +onlyGivenNames x; clear_value x) | with_reducible refine milestone_k ?_
    | with_reducible refine wr_k ?_ | split

theorem bootMet_k {s t : State} {a0 : _} (h : Kept s t) : Kept s (bootMet a0 t) := by
  unfold bootMet
  repeat' first
    | with_reducible assumption | with_reducible refine settleBoot_k ?_ | with_reducible refine wrBit_k ?_ | split

theorem setDram_k {s t : State} {d : Dram} (h : Kept s t) (e : d.cells = t.dram.cells) : Kept s (setDram d t) := by
  unfold setDram
  exact Kept_mk h e

theorem settleListed_k {s t : State} (h : Kept s t) : Kept s (settleListed t) := by
  unfold settleListed
  repeat' first
    | with_reducible assumption | (extract_lets +onlyGivenNames x; clear_value x) | with_reducible refine wr_k ?_
    | (with_reducible refine Kept_foldl ?_ ?_; intro _ _ _) | split

theorem wipeTotals_k {s t : State} (h : Kept s t) : Kept s (wipeTotals t) := by
  unfold wipeTotals
  repeat' first
    | with_reducible assumption | (extract_lets +onlyGivenNames x; clear_value x) | with_reducible refine wr_k ?_ | split

theorem pauseWipe_k {s t : State} (h : Kept s t) : Kept s (pauseWipe t) := by
  unfold pauseWipe
  repeat' first
    | with_reducible assumption
    | (extract_lets +onlyGivenNames x; first | (have _ : (x : Dram) = x := rfl; subst x) | clear_value x)
    | (with_reducible refine setDram_k ?_ ?_; rotate_left; rfl) | split

theorem startWipe_k {s t : State} (h : Kept s t) : Kept s (startWipe t) := by
  unfold startWipe
  repeat' first
    | with_reducible assumption
    | (extract_lets +onlyGivenNames x; first | (have _ : (x : Dram) = x := rfl; subst x) | clear_value x)
    | with_reducible refine wipeTotals_k ?_ | (with_reducible refine setDram_k ?_ ?_; rotate_left; rfl)
    | with_reducible refine wr_k ?_ | split

theorem applyTable_k {s t : State} (h : Kept s t) : Kept s (applyTable t) := by
  unfold applyTable
  repeat' first
    | with_reducible assumption | (extract_lets +onlyGivenNames x; clear_value x)
    | with_reducible refine settleListed_k ?_ | with_reducible refine wr_k ?_ | split

theorem trainChannel_k {s t : State} {a0 : _} (h : Kept s t) : Kept s (trainChannel a0 t) := by
  unfold trainChannel
  repeat' first
    | with_reducible assumption | (extract_lets +onlyGivenNames x; clear_value x) | with_reducible refine setDch_k ?_
    | with_reducible refine wr_k ?_ | split

theorem endTransition_k {s t : State} (h : Kept s t) : Kept s (endTransition t) := by
  unfold endTransition
  repeat' first
    | with_reducible assumption | (with_reducible refine Kept_mk (by with_reducible assumption) ?_; rfl)
    | (extract_lets +onlyGivenNames x; clear_value x) | with_reducible refine wr_k ?_ | split

theorem settleListed_dram (s : State) : (settleListed s).dram = s.dram := by
  unfold settleListed
  refine List.foldlRecOn (motive := fun t : State => t.dram = s.dram) _ _ rfl ?_
  intro t ht c _
  dsimp only
  split
  · exact ht
  · exact ht

theorem settleTraining_k {s t : State} (h : Kept s t) : Kept s (settleTraining t) := by
  unfold settleTraining
  have h2 : ∀ {u}, Kept s u → Kept s (settleListed u) := fun q => settleListed_k q
  split
  · exact h
  split
  · extract_lets s1
    have h1 : Kept s s1 := milestone_k (bootMet_k h)
    clear_value s1
    split
    · exact startWipe_k (applyTable_k h1)
    · exact endTransition_k (wr_k (wr_k (h2 h1)))
  split
  · exact wr_k (h2 h)
  split
  · exact wr_k (setDram_k (h2 h) (by rw [settleListed_dram]))
  · exact settleState_k (wr_k (h2 h))

theorem toFio_k {s t : State} (h : Kept s t) : Kept s (toFio t) := by
  unfold toFio
  repeat' first
    | with_reducible assumption | with_reducible refine bootMet_k ?_ | with_reducible refine onFio_k ?_
    | with_reducible refine flag_k ?_ | with_reducible refine wr_k ?_ | split

theorem lowMarker_k {s t : State} {a0 : _} (h : Kept s t) : Kept s (lowMarker a0 t) := by
  unfold lowMarker
  repeat' first
    | with_reducible assumption | (extract_lets +onlyGivenNames x; clear_value x) | with_reducible refine mkset_k ?_
    | split

theorem silenceDie_k {s t : State} {a0 : _} {a1 : _} {a2 : _} (h : Kept s t) : Kept s (silenceDie a0 a1 a2 t) := by
  unfold silenceDie
  repeat' first
    | with_reducible assumption | with_reducible refine lowMarker_k ?_ | with_reducible refine setZero_k ?_
    | with_reducible refine muteCluster_k ?_ | (with_reducible refine Kept_foldl ?_ ?_; intro _ _ _) | split

theorem unsilenceDie_k {s t : State} {a0 : _} {a1 : _} {a2 : _} (h : Kept s t) : Kept s (unsilenceDie a0 a1 a2 t) := by
  unfold unsilenceDie
  repeat' first
    | with_reducible assumption | with_reducible refine clearZero_k ?_ | with_reducible refine muteCluster_k ?_
    | (with_reducible refine Kept_foldl ?_ ?_; intro _ _ _) | split

theorem stopPlay_k {s t : State} {a0 : _} (h : Kept s t) : Kept s (stopPlay a0 t) := by
  unfold stopPlay
  repeat' first
    | with_reducible assumption
    | (extract_lets +onlyGivenNames x; first | (refine (fun (hx : Kept s x) => ?_) (?_ : Kept s x); all_goals first | (guard_target =ₐ Kept s x; unfold x; clear x) | clear_value x) | clear_value x)
    | with_reducible refine endPlay_k ?_ | with_reducible refine slset_k ?_ | split

theorem rfLost_k {s t : State} {a0 : _} (h : Kept s t) : Kept s (rfLost a0 t) := by
  unfold rfLost
  repeat' first
    | with_reducible assumption
    | (extract_lets +onlyGivenNames x; (refine (fun (hx : Kept s x) => ?_) (?_ : Kept s x); all_goals first | (guard_target =ₐ Kept s x; unfold x; clear x) | clear_value x))
    | with_reducible refine stopPlay_k ?_ | with_reducible refine silenceDie_k ?_ | with_reducible refine abandonStep_k ?_
    | with_reducible refine cutWindows_k ?_ | with_reducible refine flushFifo_k ?_ | with_reducible refine voidNow_k ?_
    | with_reducible refine logFault_k ?_ | (with_reducible refine Kept_foldl ?_ ?_; intro _ _ _) | split

theorem markTrip_k {s t : State} {a0 : _} (h : Kept s t) : Kept s (markTrip a0 t) := by
  unfold markTrip
  repeat' first
    | with_reducible assumption
    | (extract_lets +onlyGivenNames x; first | (refine (fun (hx : Kept s x) => ?_) (?_ : Kept s x); all_goals first | (guard_target =ₐ Kept s x; unfold x; clear x) | clear_value x) | clear_value x)
    | with_reducible refine setClk_k ?_ | with_reducible refine flag_k ?_ | with_reducible refine inc_k ?_
    | with_reducible refine wr_k ?_ | split

theorem tripRf_k {s t : State} {a0 : _} (h : Kept s t) : Kept s (tripRf a0 t) := by
  unfold tripRf
  repeat' first
    | with_reducible assumption | with_reducible refine markTrip_k ?_ | with_reducible refine rfLost_k ?_ | split

theorem loseBd_k {s t : State} {a0 : _} (h : Kept s t) : Kept s (loseBd a0 t) := by
  unfold loseBd
  repeat' first
    | with_reducible assumption | (with_reducible refine Kept_mk (by with_reducible assumption) ?_; rfl)
    | (extract_lets +onlyGivenNames x; first | (refine (fun (hx : Kept s x) => ?_) (?_ : Kept s x); all_goals first | (guard_target =ₐ Kept s x; unfold x; clear x) | clear_value x) | clear_value x)
    | with_reducible refine setClk_k ?_ | with_reducible refine logFault_k ?_ | with_reducible refine wrBit_k ?_
    | with_reducible refine inc_k ?_ | split

theorem keystoneLoss_k {s t : State} (h : Kept s t) : Kept s (keystoneLoss t) := by
  unfold keystoneLoss
  repeat' first
    | with_reducible assumption
    | (extract_lets +onlyGivenNames x; (refine (fun (hx : Kept s x) => ?_) (?_ : Kept s x); all_goals first | (guard_target =ₐ Kept s x; unfold x; clear x) | clear_value x))
    | with_reducible refine loseBd_k ?_ | with_reducible refine tripRf_k ?_ | with_reducible refine logFault_k ?_
    | with_reducible refine wr_k ?_ | (with_reducible refine Kept_foldl ?_ ?_; intro _ _ _) | split

theorem tripLn_k {s t : State} {a0 : _} (h : Kept s t) : Kept s (tripLn a0 t) := by
  unfold tripLn
  repeat' first
    | with_reducible assumption | with_reducible refine markTrip_k ?_ | with_reducible refine loseLock_k ?_
    | (with_reducible refine Kept_foldl ?_ ?_; intro _ _ _) | split

theorem tripDm_k {s t : State} {a0 : _} (h : Kept s t) : Kept s (tripDm a0 t) := by
  unfold tripDm
  repeat' first
    | with_reducible assumption | (extract_lets +onlyGivenNames x; clear_value x) | with_reducible refine markTrip_k ?_
    | with_reducible refine settleTraining_k ?_ | with_reducible refine fenceChannel_k ?_
    | with_reducible refine setDch_k ?_ | with_reducible refine logFault_k ?_ | with_reducible refine wr_k ?_
    | (with_reducible refine Kept_foldl ?_ ?_; intro _ _ _) | split

theorem tripMonitor_k {s t : State} {a0 : _} (h : Kept s t) : Kept s (tripMonitor a0 t) := by
  unfold tripMonitor
  repeat' first
    | with_reducible assumption
    | (extract_lets +onlyGivenNames x; first | (refine (fun (hx : Kept s x) => ?_) (?_ : Kept s x); all_goals first | (guard_target =ₐ Kept s x; unfold x; clear x) | clear_value x) | clear_value x)
    | with_reducible refine tripDm_k ?_ | with_reducible refine tripLn_k ?_ | with_reducible refine keystoneLoss_k ?_
    | with_reducible refine tripRf_k ?_ | with_reducible refine markTrip_k ?_ | with_reducible refine toFio_k ?_
    | with_reducible refine setClk_k ?_ | with_reducible refine logFault_k ?_ | with_reducible refine flag_k ?_
    | (with_reducible refine Kept_foldl ?_ ?_; intro _ _ _) | split

theorem startTraining_k {s t : State} {a0 : _} (h : Kept s t) : Kept s (startTraining a0 t) := by
  unfold startTraining
  repeat' first
    | with_reducible assumption | with_reducible refine wr_k ?_ | (with_reducible refine Kept_foldl ?_ ?_; intro _ _ _)
    | split

theorem qualified_k {s t : State} {a0 : _} (h : Kept s t) : Kept s (qualified a0 t) := by
  unfold qualified
  repeat' first
    | with_reducible assumption | (with_reducible refine Kept_mk (by with_reducible assumption) ?_; rfl)
    | (extract_lets +onlyGivenNames x; first | (refine (fun (hx : Kept s x) => ?_) (?_ : Kept s x); all_goals first | (guard_target =ₐ Kept s x; unfold x; clear x) | clear_value x) | clear_value x)
    | with_reducible refine startTraining_k ?_ | with_reducible refine unsilenceDie_k ?_
    | with_reducible refine settleTraining_k ?_ | with_reducible refine bootMet_k ?_
    | with_reducible refine milestone_k ?_ | with_reducible refine setClk_k ?_ | with_reducible refine offFio_k ?_
    | with_reducible refine wr_k ?_ | split

theorem execMonitorWindow_k {s t : State} {a0 : _} {a1 : _} {a2 : _} {a3 : _} (h : Kept s t) : KeptO s (execMonitorWindow a0 a1 a2 a3 t) := by
  unfold execMonitorWindow
  repeat' first
    | with_reducible assumption
    | (extract_lets +onlyGivenNames x; first | (refine (fun (hx : Kept s x) => ?_) (?_ : Kept s x); all_goals first | (guard_target =ₐ Kept s x; unfold x; clear x) | clear_value x) | clear_value x)
    | with_reducible refine qualified_k ?_ | with_reducible refine tripMonitor_k ?_ | with_reducible refine setClk_k ?_
    | with_reducible refine applyBand_k ?_ | with_reducible refine logFault_k ?_ | with_reducible refine wr_k ?_ | split
    | with_reducible refine KeptO_next ?_

theorem execXtaStartDelay_k {s t : State} (h : Kept s t) : KeptO s (execXtaStartDelay t) := by
  unfold execXtaStartDelay
  repeat' first
    | with_reducible assumption | (extract_lets +onlyGivenNames x; clear_value x) | with_reducible refine setClk_k ?_
    | split | with_reducible refine KeptO_next ?_

theorem execXtbStartDelay_k {s t : State} (h : Kept s t) : KeptO s (execXtbStartDelay t) := by
  unfold execXtbStartDelay
  repeat' first
    | with_reducible assumption | (extract_lets +onlyGivenNames x; clear_value x) | with_reducible refine setClk_k ?_
    | split | with_reducible refine KeptO_next ?_

theorem execTrefSelect_k {s t : State} (h : Kept s t) : KeptO s (execTrefSelect t) := by
  unfold execTrefSelect
  repeat' first
    | with_reducible assumption | (with_reducible refine Kept_mk (by with_reducible assumption) ?_; rfl)
    | (extract_lets +onlyGivenNames x; first | (refine (fun (hx : Kept s x) => ?_) (?_ : Kept s x); all_goals first | (guard_target =ₐ Kept s x; unfold x; clear x) | clear_value x) | clear_value x)
    | with_reducible refine bootMet_k ?_ | with_reducible refine milestone_k ?_ | with_reducible refine setClk_k ?_
    | with_reducible refine anchorNow_k ?_ | with_reducible refine wr_k ?_ | split | with_reducible refine KeptO_next ?_

theorem execTimelineCopyCompare_k {s t : State} {a0 : _} (h : Kept s t) : KeptO s (execTimelineCopyCompare a0 t) := by
  unfold execTimelineCopyCompare
  repeat' first
    | with_reducible assumption
    | (extract_lets +onlyGivenNames x; first | (refine (fun (hx : Kept s x) => ?_) (?_ : Kept s x); all_goals first | (guard_target =ₐ Kept s x; unfold x; clear x) | clear_value x) | clear_value x)
    | with_reducible refine keystoneLoss_k ?_ | with_reducible refine loseBd_k ?_ | with_reducible refine tripRf_k ?_
    | with_reducible refine setClk_k ?_ | with_reducible refine wr_k ?_
    | (with_reducible refine Kept_foldl ?_ ?_; intro _ _ _) | split | with_reducible refine KeptO_next ?_

theorem execBdRefTick_k {s t : State} {a0 : _} {a1 : _} (h : Kept s t) : KeptO s (execBdRefTick a0 a1 t) := by
  unfold execBdRefTick
  repeat' first
    | with_reducible assumption | (with_reducible refine Kept_mk (by with_reducible assumption) ?_; rfl)
    | (extract_lets +onlyGivenNames x; first | (refine (fun (hx : Kept s x) => ?_) (?_ : Kept s x); all_goals first | (guard_target =ₐ Kept s x; unfold x; clear x) | clear_value x) | clear_value x)
    | with_reducible refine loseBd_k ?_ | with_reducible refine bootMet_k ?_ | with_reducible refine setClk_k ?_
    | with_reducible refine wrBit_k ?_ | split | with_reducible refine KeptO_next ?_

theorem execConverterCalibrationDone_k {s t : State} {a0 : _} (h : Kept s t) : KeptO s (execConverterCalibrationDone a0 t) := by
  unfold execConverterCalibrationDone
  repeat' first
    | with_reducible assumption
    | (extract_lets +onlyGivenNames x; first | (refine (fun (hx : Kept s x) => ?_) (?_ : Kept s x); all_goals first | (guard_target =ₐ Kept s x; unfold x; clear x) | clear_value x) | clear_value x)
    | with_reducible refine bootMet_k ?_ | with_reducible refine milestone_k ?_ | with_reducible refine setClk_k ?_
    | with_reducible refine muteCluster_k ?_ | (with_reducible refine Kept_foldl ?_ ?_; intro _ _ _) | split
    | with_reducible refine KeptO_next ?_

theorem selectMgmt_k {s t : State} (h : Kept s t) : KeptA s (selectMgmt t) := by
  unfold selectMgmt
  repeat' first
    | with_reducible assumption | with_reducible refine milestone_k ?_ | with_reducible refine offFio_k ?_
    | with_reducible refine wr_k ?_ | split | with_reducible refine KeptA_ok ?_ | with_reducible exact KeptA_err

theorem startFmc_k {s t : State} (h : Kept s t) : KeptA s (startFmc t) := by
  unfold startFmc
  repeat' first
    | with_reducible assumption | (extract_lets +onlyGivenNames x; clear_value x) | with_reducible refine setClk_k ?_
    | with_reducible refine wr_k ?_ | split | with_reducible refine KeptA_ok ?_ | with_reducible exact KeptA_err

theorem execFmcDone_k {s t : State} {a0 : _} (h : Kept s t) : KeptO s (execFmcDone a0 t) := by
  unfold execFmcDone
  repeat' first
    | with_reducible assumption | (extract_lets +onlyGivenNames x; clear_value x) | with_reducible refine wr_k ?_ | split
    | with_reducible refine KeptO_next ?_

theorem setGate_k {s t : State} {a0 : _} {a1 : _} (h : Kept s t) : Kept s (setGate a0 a1 t) := by
  unfold setGate
  repeat' first
    | with_reducible assumption | (extract_lets +onlyGivenNames x; clear_value x) | with_reducible refine setClk_k ?_
    | split

theorem cutTest_k {s t : State} {a0 : _} (h : Kept s t) : Kept s (cutTest a0 t) := by
  unfold cutTest
  repeat' first
    | with_reducible assumption
    | (extract_lets +onlyGivenNames x; first | (refine (fun (hx : Kept s x) => ?_) (?_ : Kept s x); all_goals first | (guard_target =ₐ Kept s x; unfold x; clear x) | clear_value x) | (refine (fun (hx : Kept s x.2) => ?_) (?_ : Kept s x.2); all_goals first | (guard_target =ₐ Kept s x.2; unfold x; clear x) | clear_value x) | (have _ : (x : Dram) = x := rfl; subst x) | clear_value x)
    | (with_reducible refine setDram_k ?_ ?_; rotate_left; rfl) | with_reducible refine fresh_k ?_
    | with_reducible refine KeptP.snd (fresh_k ?_) (by assumption) | with_reducible refine wr_k ?_ | split

theorem closeGroup_k {s t : State} {a0 : _} (h : Kept s t) : Kept s (closeGroup a0 t) := by
  unfold closeGroup
  repeat' first
    | with_reducible assumption
    | (extract_lets +onlyGivenNames x; first | (refine (fun (hx : Kept s x) => ?_) (?_ : Kept s x); all_goals first | (guard_target =ₐ Kept s x; unfold x; clear x) | clear_value x) | clear_value x)
    | with_reducible refine cutTest_k ?_ | with_reducible refine setGate_k ?_ | with_reducible refine settleTraining_k ?_
    | with_reducible refine mauset_k ?_ | with_reducible refine settleLanes_k ?_ | with_reducible refine tpDown_k ?_
    | with_reducible refine wr_k ?_ | split

theorem openGroup_k {s t : State} {a0 : _} (h : Kept s t) : Kept s (openGroup a0 t) := by
  unfold openGroup
  repeat' first
    | with_reducible assumption
    | (extract_lets +onlyGivenNames x; first | (refine (fun (hx : Kept s x) => ?_) (?_ : Kept s x); all_goals first | (guard_target =ₐ Kept s x; unfold x; clear x) | clear_value x) | clear_value x)
    | with_reducible refine setGate_k ?_ | with_reducible refine resetMau_k ?_ | with_reducible refine settleLanes_k ?_
    | with_reducible refine setDch_k ?_ | with_reducible refine wr_k ?_ | split

theorem writeGate_k {s t : State} {a0 : _} {a1 : _} (h : Kept s t) : KeptA s (writeGate a0 a1 t) := by
  unfold writeGate
  repeat' first
    | with_reducible assumption | (extract_lets +onlyGivenNames x; clear_value x) | with_reducible refine openGroup_k ?_
    | with_reducible refine closeGroup_k ?_ | with_reducible refine setClk_k ?_ | with_reducible refine wr_k ?_
    | (with_reducible refine Kept_foldl ?_ ?_; intro _ _ _) | split | with_reducible refine KeptA_ok ?_
    | with_reducible exact KeptA_err

theorem forceClose_k {s t : State} {a0 : _} (h : Kept s t) : Kept s (forceClose a0 t) := by
  unfold forceClose
  repeat' first
    | with_reducible assumption | (extract_lets +onlyGivenNames x; clear_value x) | with_reducible refine closeGroup_k ?_
    | with_reducible refine setClk_k ?_ | with_reducible refine inc_k ?_ | split

theorem execGateForceClose_k {s t : State} {a0 : _} (h : Kept s t) : KeptO s (execGateForceClose a0 t) := by
  unfold execGateForceClose
  repeat' first
    | with_reducible assumption | with_reducible refine forceClose_k ?_ | with_reducible refine closeGroup_k ?_ | split
    | with_reducible refine KeptO_next ?_

theorem armSync_k {s t : State} (h : Kept s t) : KeptA s (armSync t) := by
  unfold armSync
  repeat' first
    | with_reducible assumption | (extract_lets +onlyGivenNames x; clear_value x) | with_reducible refine setClk_k ?_
    | with_reducible refine wr_k ?_ | split | with_reducible refine KeptA_ok ?_ | with_reducible exact KeptA_err

theorem fireSync_k {s t : State} (h : Kept s t) : KeptA s (fireSync t) := by
  unfold fireSync
  repeat' first
    | with_reducible assumption | (extract_lets +onlyGivenNames x; clear_value x) | with_reducible refine setClk_k ?_
    | split | with_reducible refine KeptA_ok ?_ | with_reducible exact KeptA_err

theorem disarmSync_k {s t : State} (h : Kept s t) : Kept s (disarmSync t) := by
  unfold disarmSync
  repeat' first
    | with_reducible assumption
    | (extract_lets +onlyGivenNames x; first | (refine (fun (hx : Kept s x) => ?_) (?_ : Kept s x); all_goals first | (guard_target =ₐ Kept s x; unfold x; clear x) | clear_value x) | clear_value x)
    | with_reducible refine setClk_k ?_ | with_reducible refine wr_k ?_ | split

theorem execSyncOutPulse_k {s t : State} (h : Kept s t) : KeptO s (execSyncOutPulse t) := by
  unfold execSyncOutPulse
  repeat' first
    | with_reducible assumption | (extract_lets +onlyGivenNames x; clear_value x) | with_reducible refine setClk_k ?_
    | split | with_reducible refine KeptO_next ?_

theorem execSyncOutPulseEnd_k {s t : State} (h : Kept s t) : KeptO s (execSyncOutPulseEnd t) := by
  unfold execSyncOutPulseEnd
  repeat' first
    | with_reducible assumption | (extract_lets +onlyGivenNames x; clear_value x) | with_reducible refine setClk_k ?_
    | split | with_reducible refine KeptO_next ?_

theorem execSyncInEdge_k {s t : State} (h : Kept s t) : KeptO s (execSyncInEdge t) := by
  unfold execSyncInEdge
  repeat' first
    | with_reducible assumption | (extract_lets +onlyGivenNames x; clear_value x) | with_reducible refine setClk_k ?_
    | split | with_reducible refine KeptO_next ?_

theorem loadEpoch_k {s t : State} {a0 : _} (h : Kept s t) : Kept s (loadEpoch a0 t) := by
  unfold loadEpoch
  repeat' first
    | with_reducible assumption | (extract_lets +onlyGivenNames x; clear_value x) | with_reducible refine wr_k ?_ | split

theorem moveTimeline_k {s t : State} {a0 : _} {a1 : _} (h : Kept s t) : Kept s (moveTimeline a0 a1 t) := by
  unfold moveTimeline
  repeat' first
    | with_reducible assumption
    | (with_reducible refine Kept_mk' (by with_reducible assumption) ?_ ?_ ?_ ?_ ?_ ?_ ?_; all_goals first | exact id | exact fun w => mwf_mput _ _ w | exact fun w => mwf_filter _ w | exact fun w => mwf_mmap _ w)
    | (extract_lets +onlyGivenNames x; clear_value x) | split

theorem execAlignment_k {s t : State} (h : Kept s t) : KeptO s (execAlignment t) := by
  unfold execAlignment
  repeat' first
    | with_reducible assumption
    | (extract_lets +onlyGivenNames x; first | (refine (fun (hx : Kept s x) => ?_) (?_ : Kept s x); all_goals first | (guard_target =ₐ Kept s x; unfold x; clear x) | clear_value x) | clear_value x)
    | with_reducible refine moveTimeline_k ?_ | with_reducible refine loadEpoch_k ?_ | with_reducible refine setClk_k ?_
    | with_reducible refine timeRecord_k ?_ | with_reducible refine timerRealign_k ?_ | with_reducible refine inc_k ?_
    | with_reducible refine wr_k ?_ | (with_reducible refine Kept_foldl ?_ ?_; intro _ _ _) | split
    | with_reducible refine KeptO_next ?_

/-! ### Thermal -/

theorem setCool_k {s t : State} {a0 : _} (h : Kept s t) : Kept s (setCool a0 t) := by
  unfold setCool
  repeat' first
    | with_reducible assumption | (with_reducible refine Kept_mk (by with_reducible assumption) ?_; rfl) | split

theorem forceAll_k {s t : State} (h : Kept s t) : Kept s (forceAll t) := by
  unfold forceAll
  repeat' first
    | with_reducible assumption | with_reducible refine forceCool_k ?_
    | (with_reducible refine Kept_foldl ?_ ?_; intro _ _ _) | split

theorem setBase_k {s t : State} {a0 : _} (h : Kept s t) : Kept s (setBase a0 t) := by
  unfold setBase
  repeat' first
    | with_reducible assumption
    | (extract_lets +onlyGivenNames x; first | (refine (fun (hx : Kept s x) => ?_) (?_ : Kept s x); all_goals first | (guard_target =ₐ Kept s x; unfold x; clear x) | clear_value x) | clear_value x)
    | with_reducible refine forceAll_k ?_ | with_reducible refine logFault_k ?_ | with_reducible refine wr_k ?_ | split

theorem setSensor_k {s t : State} {a0 : _} {a1 : _} (h : Kept s t) : Kept s (setSensor a0 a1 t) := by
  unfold setSensor
  repeat' first
    | with_reducible assumption
    | (extract_lets +onlyGivenNames x; first | (refine (fun (hx : Kept s x) => ?_) (?_ : Kept s x); all_goals first | (guard_target =ₐ Kept s x; unfold x; clear x) | clear_value x) | clear_value x)
    | with_reducible refine forceAll_k ?_ | with_reducible refine forceCool_k ?_ | with_reducible refine logFault_k ?_
    | with_reducible refine inc_k ?_ | with_reducible refine wr_k ?_ | split

theorem baseEval_k {s t : State} {a0 : _} (h : Kept s t) : Kept s (baseEval a0 t) := by
  unfold baseEval
  repeat' first
    | with_reducible assumption
    | (extract_lets +onlyGivenNames x; first | (refine (fun (hx : Kept s x) => ?_) (?_ : Kept s x); all_goals first | (guard_target =ₐ Kept s x; unfold x; clear x) | clear_value x) | clear_value x)
    | with_reducible refine setBase_k ?_ | with_reducible refine setCool_k ?_ | with_reducible refine wr_k ?_ | split

theorem writeCoefficient_k {s t : State} {a0 : _} {a1 : _} {a2 : _} (h : Kept s t) : KeptA s (writeCoefficient a0 a1 a2 t) := by
  unfold writeCoefficient
  repeat' first
    | with_reducible assumption | (extract_lets +onlyGivenNames x; clear_value x) | with_reducible refine wr_k ?_ | split
    | with_reducible refine KeptA_ok ?_ | with_reducible exact KeptA_err

theorem beginShutdown_k {s t : State} (h : Kept s t) : Kept s (beginShutdown t) := by
  unfold beginShutdown
  repeat' first
    | with_reducible assumption | (extract_lets +onlyGivenNames x; clear_value x) | with_reducible refine setCool_k ?_
    | with_reducible refine abortRun_k ?_ | with_reducible refine wr_k ?_ | split

theorem tripThreshold_k {s t : State} {a0 : _} {a1 : _} (h : Kept s t) : Kept s (tripThreshold a0 a1 t) := by
  unfold tripThreshold
  repeat' first
    | with_reducible assumption
    | (extract_lets +onlyGivenNames x; first | (refine (fun (hx : Kept s x) => ?_) (?_ : Kept s x); all_goals first | (guard_target =ₐ Kept s x; unfold x; clear x) | clear_value x) | clear_value x)
    | with_reducible refine beginShutdown_k ?_ | with_reducible refine setCool_k ?_ | with_reducible refine logFault_k ?_
    | with_reducible refine raise_k ?_ | with_reducible refine wrBit_k ?_ | with_reducible refine inc_k ?_ | split

theorem releaseThreshold_k {s t : State} {a0 : _} {a1 : _} (h : Kept s t) : Kept s (releaseThreshold a0 a1 t) := by
  unfold releaseThreshold
  repeat' first
    | with_reducible assumption
    | (extract_lets +onlyGivenNames x; first | (refine (fun (hx : Kept s x) => ?_) (?_ : Kept s x); all_goals first | (guard_target =ₐ Kept s x; unfold x; clear x) | clear_value x) | clear_value x)
    | with_reducible refine setCool_k ?_ | with_reducible refine wrBit_k ?_ | with_reducible refine inc_k ?_ | split

theorem threshold_k {s t : State} {a0 : _} {a1 : _} {a2 : _} (h : Kept s t) : Kept s (threshold a0 a1 a2 t) := by
  unfold threshold
  repeat' first
    | with_reducible assumption
    | (extract_lets +onlyGivenNames x; first | (refine (fun (hx : Kept s x) => ?_) (?_ : Kept s x); all_goals first | (guard_target =ₐ Kept s x; unfold x; clear x) | clear_value x) | clear_value x)
    | with_reducible refine releaseThreshold_k ?_ | with_reducible refine tripThreshold_k ?_
    | with_reducible refine thset_k ?_ | split

theorem report_k {s t : State} {a0 : _} {a1 : _} {a2 : _} (h : Kept s t) : Kept s (report a0 a1 a2 t) := by
  unfold report
  repeat' first
    | with_reducible assumption
    | (extract_lets +onlyGivenNames x; first | (refine (fun (hx : Kept s x) => ?_) (?_ : Kept s x); all_goals first | (guard_target =ₐ Kept s x; unfold x; clear x) | clear_value x) | clear_value x)
    | with_reducible refine peak_k ?_ | with_reducible refine wr_k ?_ | split

theorem diodeCheck_k {s t : State} {a0 : _} {a1 : _} {a2 : _} (h : Kept s t) : Kept s (diodeCheck a0 a1 a2 t) := by
  unfold diodeCheck
  repeat' first
    | with_reducible assumption
    | (extract_lets +onlyGivenNames x; first | (refine (fun (hx : Kept s x) => ?_) (?_ : Kept s x); all_goals first | (guard_target =ₐ Kept s x; unfold x; clear x) | clear_value x) | clear_value x)
    | with_reducible refine thset_k ?_ | with_reducible refine flag_k ?_ | with_reducible refine wr_k ?_ | split

theorem execThermalUpdate_k {s t : State} {a0 : _} {a1 : _} {a2 : _} (h : Kept s t) : KeptO s (execThermalUpdate a0 a1 a2 t) := by
  unfold execThermalUpdate
  repeat' first
    | with_reducible assumption
    | (extract_lets +onlyGivenNames x; first | (refine (fun (hx : Kept s x) => ?_) (?_ : Kept s x); all_goals first | (guard_target =ₐ Kept s x; unfold x; clear x) | clear_value x) | clear_value x)
    | with_reducible refine diodeCheck_k ?_ | with_reducible refine report_k ?_ | with_reducible refine threshold_k ?_
    | with_reducible refine baseEval_k ?_ | with_reducible refine setSensor_k ?_ | with_reducible refine mauset_k ?_
    | with_reducible refine updateTrims_k ?_ | with_reducible refine thset_k ?_ | split
    | with_reducible refine KeptO_next ?_

theorem setStep_k {s t : State} {a0 : _} (h : Kept s t) : Kept s (setStep a0 t) := by
  unfold setStep
  repeat' first
    | with_reducible assumption | with_reducible refine wr_k ?_ | split

theorem writeVnom_k {s t : State} {a0 : _} (h : Kept s t) : Kept s (writeVnom a0 t) := by
  unfold writeVnom
  repeat' first
    | with_reducible assumption
    | (extract_lets +onlyGivenNames x; (refine (fun (hx : Kept s x) => ?_) (?_ : Kept s x); all_goals first | (guard_target =ₐ Kept s x; unfold x; clear x) | clear_value x))
    | with_reducible refine setStep_k ?_ | with_reducible refine wr_k ?_ | split

theorem ladderUp_k {s t : State} {a0 : _} (h : Kept s t) : Kept s (ladderUp a0 t) := by
  unfold ladderUp
  repeat' first
    | with_reducible assumption | (extract_lets +onlyGivenNames x; clear_value x) | with_reducible refine setStep_k ?_
    | with_reducible refine setCool_k ?_ | split

theorem execLadderStep_k {s t : State} (h : Kept s t) : KeptO s (execLadderStep t) := by
  unfold execLadderStep
  repeat' first
    | with_reducible assumption | (extract_lets +onlyGivenNames x; clear_value x) | with_reducible refine ladderUp_k ?_
    | with_reducible refine setStep_k ?_ | with_reducible refine setCool_k ?_ | split
    | with_reducible refine KeptO_next ?_

theorem followVddf_k {s t : State} {a0 : _} (h : Kept s t) : Kept s (followVddf a0 t) := by
  unfold followVddf
  repeat' first
    | with_reducible assumption | (extract_lets +onlyGivenNames x; clear_value x) | with_reducible refine wr_k ?_
    | (with_reducible refine Kept_foldl ?_ ?_; intro _ _ _) | split

theorem execVidfChange_k {s t : State} (h : Kept s t) : KeptO s (execVidfChange t) := by
  unfold execVidfChange
  repeat' first
    | with_reducible assumption
    | (extract_lets +onlyGivenNames x; first | (refine (fun (hx : Kept s x) => ?_) (?_ : Kept s x); all_goals first | (guard_target =ₐ Kept s x; unfold x; clear x) | clear_value x) | clear_value x)
    | with_reducible refine followVddf_k ?_ | with_reducible refine setCool_k ?_ | split
    | with_reducible refine KeptO_next ?_

theorem settleVidf_k {s t : State} (h : Kept s t) : Kept s (settleVidf t) := by
  unfold settleVidf
  repeat' first
    | with_reducible assumption | with_reducible refine followVddf_k ?_ | split

theorem clearForce_k {s t : State} {a0 : _} (h : Kept s t) : KeptA s (clearForce a0 t) := by
  unfold clearForce
  repeat' first
    | with_reducible assumption | (extract_lets +onlyGivenNames x; clear_value x) | with_reducible refine rgset_k ?_
    | with_reducible refine wr_k ?_ | (with_reducible refine Kept_foldl ?_ ?_; intro _ _ _) | split
    | with_reducible refine KeptA_ok ?_ | with_reducible exact KeptA_err

theorem execShutdownMute_k {s t : State} (h : Kept s t) : KeptO s (execShutdownMute t) := by
  unfold execShutdownMute
  repeat' first
    | with_reducible assumption | (extract_lets +onlyGivenNames x; clear_value x) | with_reducible refine setCool_k ?_
    | with_reducible refine silenceDie_k ?_ | (with_reducible refine Kept_foldl ?_ ?_; intro _ _ _) | split
    | with_reducible refine KeptO_next ?_

theorem execShutdownBiasFault_k {s t : State} (h : Kept s t) : KeptO s (execShutdownBiasFault t) := by
  unfold execShutdownBiasFault
  repeat' first
    | with_reducible assumption | (extract_lets +onlyGivenNames x; clear_value x) | with_reducible refine setCool_k ?_
    | with_reducible refine faultBias_k ?_ | (with_reducible refine Kept_foldl ?_ ?_; intro _ _ _) | split
    | with_reducible refine KeptO_next ?_

theorem suspend_k {s t : State} {a0 : _} (h : Kept s t) : Kept s (suspend a0 t) := by
  unfold suspend
  repeat' first
    | with_reducible assumption
    | (extract_lets +onlyGivenNames x; first | (refine (fun (hx : Kept s x) => ?_) (?_ : Kept s x); all_goals first | (guard_target =ₐ Kept s x; unfold x; clear x) | clear_value x) | clear_value x)
    | with_reducible refine setClk_k ?_ | with_reducible refine wr_k ?_ | split

theorem execShutdownPllStop_k {s t : State} (h : Kept s t) : KeptO s (execShutdownPllStop t) := by
  unfold execShutdownPllStop
  repeat' first
    | with_reducible assumption
    | (extract_lets +onlyGivenNames x; first | (refine (fun (hx : Kept s x) => ?_) (?_ : Kept s x); all_goals first | (guard_target =ₐ Kept s x; unfold x; clear x) | clear_value x) | clear_value x)
    | with_reducible refine suspend_k ?_ | with_reducible refine setCool_k ?_ | with_reducible refine abandonStep_k ?_
    | with_reducible refine cutWindows_k ?_ | with_reducible refine abortFifo_k ?_
    | (with_reducible refine Kept_foldl ?_ ?_; intro _ _ _) | split | with_reducible refine KeptO_next ?_

/-! ### Dram -/

theorem zeroChannel_k {s t : State} {c : Nat} (h : Kept s t) : Kept s (zeroChannel c t) := by
  unfold zeroChannel setDram
  exact Kept_mk' h (fun w => mwf_filter _ w) id id id id id id

theorem execWipeComplete_k {s t : State} (h : Kept s t) : KeptO s (execWipeComplete t) := by
  unfold execWipeComplete
  repeat' first
    | with_reducible assumption
    | (extract_lets +onlyGivenNames x; first | (refine (fun (hx : Kept s x) => ?_) (?_ : Kept s x); all_goals first | (guard_target =ₐ Kept s x; unfold x; clear x) | clear_value x) | clear_value x)
    | with_reducible refine zeroChannel_k ?_ | with_reducible refine endTransition_k ?_
    | with_reducible refine bootMet_k ?_ | with_reducible refine settleState_k ?_ | with_reducible refine wr_k ?_
    | (with_reducible refine Kept_foldl ?_ ?_; intro _ _ _) | split | with_reducible refine KeptO_next ?_

theorem newMap_k {s t : State} (h : Kept s t) : Kept s (newMap t) := by
  unfold newMap
  repeat' first
    | with_reducible assumption
    | (extract_lets +onlyGivenNames x; (refine (fun (hx : Kept s x) => ?_) (?_ : Kept s x); all_goals first | (guard_target =ₐ Kept s x; unfold x; clear x) | clear_value x))
    | with_reducible refine applyTable_k ?_ | with_reducible refine startWipe_k ?_ | with_reducible refine pauseWipe_k ?_
    | with_reducible refine wipeTotals_k ?_ | with_reducible refine wr_k ?_ | split

theorem writeMap_k {s t : State} {a0 : _} (h : Kept s t) : KeptA s (writeMap a0 t) := by
  unfold writeMap
  repeat' first
    | with_reducible assumption
    | (extract_lets +onlyGivenNames x; (refine (fun (hx : Kept s x) => ?_) (?_ : Kept s x); all_goals first | (guard_target =ₐ Kept s x; unfold x; clear x) | clear_value x))
    | with_reducible refine newMap_k ?_ | with_reducible refine wr_k ?_ | split | with_reducible refine KeptA_ok ?_
    | with_reducible exact KeptA_err

theorem writeTable_k {s t : State} {a0 : _} (h : Kept s t) : KeptA s (writeTable a0 t) := by
  unfold writeTable
  repeat' first
    | with_reducible assumption | with_reducible refine newMap_k ?_ | with_reducible refine wr_k ?_ | split
    | with_reducible refine KeptA_ok ?_ | with_reducible exact KeptA_err

theorem execTrainingStepDone_k {s t : State} {a0 : _} {a1 : _} {a2 : _} (h : Kept s t) : KeptO s (execTrainingStepDone a0 a1 a2 t) := by
  unfold execTrainingStepDone
  repeat' first
    | with_reducible assumption
    | (extract_lets +onlyGivenNames x; first | (refine (fun (hx : Kept s x) => ?_) (?_ : Kept s x); all_goals first | (guard_target =ₐ Kept s x; unfold x; clear x) | clear_value x) | clear_value x)
    | with_reducible refine settleTraining_k ?_ | with_reducible refine settleListed_k ?_
    | with_reducible refine fenceChannel_k ?_ | with_reducible refine setDch_k ?_ | with_reducible refine flag_k ?_
    | with_reducible refine inc_k ?_ | with_reducible refine wr_k ?_ | split | with_reducible refine KeptO_next ?_

theorem relockDm_k {s t : State} {a0 : _} (h : Kept s t) : Kept s (relockDm a0 t) := by
  unfold relockDm
  repeat' first
    | with_reducible assumption | (extract_lets +onlyGivenNames x; clear_value x) | with_reducible refine setClk_k ?_
    | with_reducible refine wr_k ?_ | split

theorem writeRate_k {s t : State} {a0 : _} (h : Kept s t) : KeptA s (writeRate a0 t) := by
  unfold writeRate
  repeat' first
    | with_reducible assumption
    | (extract_lets +onlyGivenNames x; first | (refine (fun (hx : Kept s x) => ?_) (?_ : Kept s x); all_goals first | (guard_target =ₐ Kept s x; unfold x; clear x) | clear_value x) | clear_value x)
    | with_reducible refine relockDm_k ?_ | with_reducible refine settleTraining_k ?_
    | with_reducible refine trainChannel_k ?_ | with_reducible refine pauseWipe_k ?_ | with_reducible refine setDch_k ?_
    | with_reducible refine wr_k ?_ | (with_reducible refine Kept_foldl ?_ ?_; intro _ _ _) | split
    | with_reducible refine KeptA_ok ?_ | with_reducible exact KeptA_err

theorem ringBurst_k {s t : State} {a0 : _} {a1 : _} (h : Kept s t) : Kept s (ringBurst a0 a1 t) := by
  unfold ringBurst
  repeat' first
    | with_reducible assumption
    | (extract_lets +onlyGivenNames x; first | (refine (fun (hx : Kept s x) => ?_) (?_ : Kept s x); all_goals first | (guard_target =ₐ Kept s x; unfold x; clear x) | clear_value x) | (have _ : (x : Dram) = x := rfl; subst x) | clear_value x)
    | (with_reducible refine setDram_k ?_ ?_; rotate_left; rfl) | with_reducible refine countBurstWrite_k ?_
    | with_reducible refine dramPutByte_k ?_ | with_reducible refine setLevel_k ?_
    | (with_reducible refine Kept_foldl ?_ ?_; intro _ _ _) | split

theorem markBad_k {s t : State} {a0 : _} (h : Kept s t) : Kept s (markBad a0 t) := by
  unfold markBad
  repeat' first
    | with_reducible assumption
    | (extract_lets +onlyGivenNames x; first | (have _ : (x : Dram) = x := rfl; subst x) | clear_value x)
    | (with_reducible refine setDram_k ?_ ?_; rotate_left; rfl) | split

theorem burst_k {s t : State} {a0 : _} {a1 : _} {a2 : _} (h : Kept s t) : Kept s (burst a0 a1 a2 t) := by
  unfold burst
  repeat' first
    | with_reducible assumption
    | (extract_lets +onlyGivenNames x; first | (refine (fun (hx : Kept s x) => ?_) (?_ : Kept s x); all_goals first | (guard_target =ₐ Kept s x; unfold x; clear x) | clear_value x) | clear_value x)
    | with_reducible refine markBad_k ?_ | with_reducible refine ringBurst_k ?_ | with_reducible refine dramWrite_k ?_
    | with_reducible refine setHeld_k ?_ | with_reducible refine setLevel_k ?_ | with_reducible refine countBurstRead_k ?_
    | with_reducible refine setDch_k ?_ | (with_reducible refine Kept_foldl ?_ ?_; intro _ _ _) | split

theorem grantRefresh_k {s t : State} {a0 : _} {a1 : _} (h : Kept s t) : Kept s (grantRefresh a0 a1 t) := by
  unfold grantRefresh
  repeat' first
    | with_reducible assumption | (extract_lets +onlyGivenNames x; clear_value x) | with_reducible refine setDch_k ?_
    | (with_reducible refine Kept_foldl ?_ ?_; intro _ _ _) | split

theorem execDramBurst_k {s t : State} {a0 : _} {a1 : _} {a2 : _} (h : Kept s t) : KeptO s (execDramBurst a0 a1 a2 t) := by
  unfold execDramBurst
  repeat' first
    | with_reducible assumption | with_reducible refine grantRefresh_k ?_ | with_reducible refine burst_k ?_ | split
    | with_reducible refine KeptO_next ?_

theorem execRefreshDue_k {s t : State} {a0 : _} {a1 : _} (h : Kept s t) : KeptO s (execRefreshDue a0 a1 t) := by
  unfold execRefreshDue
  repeat' first
    | with_reducible assumption
    | (extract_lets +onlyGivenNames x; first | (refine (fun (hx : Kept s x) => ?_) (?_ : Kept s x); all_goals first | (guard_target =ₐ Kept s x; unfold x; clear x) | clear_value x) | clear_value x)
    | with_reducible refine grantRefresh_k ?_ | with_reducible refine setDch_k ?_ | with_reducible refine inc_k ?_ | split
    | with_reducible refine KeptO_next ?_

theorem mr4Error_k {s t : State} {a0 : _} (h : Kept s t) : Kept s (mr4Error a0 t) := by
  unfold mr4Error
  repeat' first
    | with_reducible assumption | with_reducible refine logFault_k ?_ | with_reducible refine inc_k ?_ | split

theorem execMr4Poll_k {s t : State} {a0 : _} {a1 : _} (h : Kept s t) : KeptO s (execMr4Poll a0 a1 t) := by
  unfold execMr4Poll
  repeat' first
    | with_reducible assumption
    | (extract_lets +onlyGivenNames x; first | (have _ : (x : Dram) = x := rfl; subst x) | clear_value x)
    | with_reducible refine mr4Error_k ?_ | (with_reducible refine setDram_k ?_ ?_; rotate_left; rfl)
    | with_reducible refine wr_k ?_ | (with_reducible refine Kept_foldl ?_ ?_; intro _ _ _) | split
    | with_reducible refine KeptO_next ?_

theorem execRetrainStepStart_k {s t : State} {a0 : _} (h : Kept s t) : KeptO s (execRetrainStepStart a0 t) := by
  unfold execRetrainStepStart
  repeat' first
    | with_reducible assumption | (extract_lets +onlyGivenNames x; clear_value x) | with_reducible refine setDch_k ?_
    | split | with_reducible refine KeptO_next ?_

theorem execRetrainStepDone_k {s t : State} {a0 : _} {a1 : _} (h : Kept s t) : KeptO s (execRetrainStepDone a0 a1 t) := by
  unfold execRetrainStepDone
  repeat' first
    | with_reducible assumption
    | (extract_lets +onlyGivenNames x; first | (have _ : (x : Dram) = x := rfl; subst x) | clear_value x)
    | (with_reducible refine setDram_k ?_ ?_; rotate_left; rfl) | with_reducible refine fenceChannel_k ?_
    | with_reducible refine inc_k ?_ | split | with_reducible refine KeptO_next ?_

theorem execRetrainAbandon_k {s t : State} {a0 : _} (h : Kept s t) : KeptO s (execRetrainAbandon a0 t) := by
  unfold execRetrainAbandon
  repeat' first
    | with_reducible assumption | (extract_lets +onlyGivenNames x; clear_value x) | with_reducible refine setDch_k ?_
    | with_reducible refine inc_k ?_ | split | with_reducible refine KeptO_next ?_

theorem startBist_k {s t : State} {a0 : _} (h : Kept s t) : KeptA s (startBist a0 t) := by
  unfold startBist
  repeat' first
    | with_reducible assumption
    | (extract_lets +onlyGivenNames x; first | (refine (fun (hx : Kept s x) => ?_) (?_ : Kept s x); all_goals first | (guard_target =ₐ Kept s x; unfold x; clear x) | clear_value x) | (have _ : (x : Dram) = x := rfl; subst x) | clear_value x)
    | (with_reducible refine setDram_k ?_ ?_; rotate_left; rfl) | with_reducible refine wr_k ?_ | split
    | with_reducible refine KeptA_ok ?_ | with_reducible exact KeptA_err

theorem zeroCluster_k {s t : State} {c : Nat} (h : Kept s t) : Kept s (zeroCluster c t) := by
  unfold zeroCluster
  exact Kept_mk' h id (fun w => mwf_filter _ w) (fun w => mwf_filter _ w) (fun w => mwf_filter _ w) id id id

theorem execBistDone_k {s t : State} {a0 : _} {a1 : _} {a2 : _} (h : Kept s t) : KeptO s (execBistDone a0 a1 a2 t) := by
  unfold execBistDone
  repeat' first
    | with_reducible assumption
    | (extract_lets +onlyGivenNames x; first | (refine (fun (hx : Kept s x) => ?_) (?_ : Kept s x); all_goals first | (guard_target =ₐ Kept s x; unfold x; clear x) | clear_value x) | (have _ : (x : Dram) = x := rfl; subst x) | clear_value x)
    | with_reducible refine zeroCluster_k ?_ | with_reducible refine zeroChannel_k ?_
    | (with_reducible refine setDram_k ?_ ?_; rotate_left; rfl) | with_reducible refine wr_k ?_ | split
    | with_reducible refine KeptO_next ?_

theorem winRead_k {s t : State} {a0 : _} (h : Kept s t) : Kept s (winRead a0 t).2 := by
  unfold winRead
  repeat' first
    | with_reducible assumption
    | (extract_lets +onlyGivenNames x; first | (refine (fun (hx : Kept s x.2) => ?_) (?_ : Kept s x.2); all_goals first | (guard_target =ₐ Kept s x.2; unfold x; clear x) | clear_value x) | clear_value x)
    | with_reducible refine dramRead_k ?_ | with_reducible refine KeptP.snd (dramRead_k ?_) (by assumption)
    | with_reducible refine wr_k ?_ | split | with_reducible refine KeptP_mk ?_

theorem winWrite_k {s t : State} {a0 : _} (h : Kept s t) : KeptA s (winWrite a0 t) := by
  unfold winWrite
  repeat' first
    | with_reducible assumption | (extract_lets +onlyGivenNames x; clear_value x) | with_reducible refine dramWrite_k ?_
    | with_reducible refine wr_k ?_ | split | with_reducible refine KeptA_ok ?_ | with_reducible exact KeptA_err

theorem writeRing_k {s t : State} {a0 : _} {a1 : _} {a2 : _} (h : Kept s t) : KeptA s (writeRing a0 a1 a2 t) := by
  unfold writeRing
  repeat' first
    | with_reducible assumption | (extract_lets +onlyGivenNames x; clear_value x) | with_reducible refine wr_k ?_ | split
    | with_reducible refine KeptA_ok ?_ | with_reducible exact KeptA_err

theorem writePanic_k {s t : State} {a0 : _} {a1 : _} (h : Kept s t) : KeptA s (writePanic a0 a1 t) := by
  unfold writePanic
  repeat' first
    | with_reducible assumption | with_reducible refine settlePanic_k ?_ | with_reducible refine wr_k ?_ | split
    | with_reducible refine KeptA_ok ?_ | with_reducible exact KeptA_err

/-! ### Microcode -/

theorem readPort_k {s t : State} {a0 : _} (h : Kept s t) : Kept s (readPort a0 t) := by
  unfold readPort
  repeat' first
    | with_reducible assumption
    | (extract_lets +onlyGivenNames x; first | (refine (fun (hx : Kept s x) => ?_) (?_ : Kept s x); all_goals first | (guard_target =ₐ Kept s x; unfold x; clear x) | clear_value x) | (refine (fun (hx : Kept s x.2) => ?_) (?_ : Kept s x.2); all_goals first | (guard_target =ₐ Kept s x.2; unfold x; clear x) | clear_value x) | (refine (fun (hf5 : ∀ a b c d u, Kept s u → Kept s (x a b c d u)) => ?_) (?_ : ∀ a b c d u, Kept s u → Kept s (x a b c d u)); all_goals first | (guard_target =ₐ ∀ a b c d u, Kept s u → Kept s (x a b c d u); unfold x; clear x; intro _ _ _ _ _ _) | clear_value x) | clear_value x)
    | with_reducible refine hf5 _ _ _ _ _ ?_ | with_reducible refine schedPoison_k ?_
    | with_reducible refine readWord_k ?_ | with_reducible refine KeptP.snd (readWord_k ?_) (by assumption)
    | with_reducible refine eset_k ?_ | split

theorem writePort_k {s t : State} {a0 : _} {a1 : _} {a2 : _} (h : Kept s t) : Kept s (writePort a0 a1 a2 t) := by
  unfold writePort
  repeat' first
    | with_reducible assumption | (extract_lets +onlyGivenNames x; clear_value x) | with_reducible refine fset_k ?_
    | with_reducible refine inc_k ?_ | with_reducible refine incBy_k ?_ | split

theorem microPort_k {s t : State} {a0 : _} {a1 : _} {a2 : _} {a3 : _} {a4 : _} (h : Kept s t) : Kept s (microPort a0 a1 a2 a3 a4 t) := by
  unfold microPort
  repeat' first
    | with_reducible assumption
    | (extract_lets +onlyGivenNames x; first | (refine (fun (hg2 : ∀ a b, Kept s (x a b)) => ?_) (?_ : ∀ a b, Kept s (x a b)); all_goals first | (guard_target =ₐ ∀ a b, Kept s (x a b); unfold x; clear x; intro _ _) | clear_value x) | clear_value x)
    | exact hg2 _ _ | with_reducible refine writePort_k ?_ | with_reducible refine readPort_k ?_
    | with_reducible refine arriveBarrier_k ?_ | with_reducible refine brset_k ?_ | with_reducible refine raise_k ?_
    | with_reducible refine eset_k ?_ | split

theorem microStall_k {s t : State} {a0 : _} {a1 : _} {a2 : _} (h : Kept s t) : KeptM s (microStall t a0 a1 a2) := by
  unfold microStall
  repeat' first
    | with_reducible assumption | (extract_lets +onlyGivenNames x; clear_value x) | with_reducible refine beginWait_k ?_
    | with_reducible refine eset_k ?_ | with_reducible refine inc_k ?_ | split | with_reducible refine KeptM_some ?_
    | with_reducible exact KeptM_none

theorem microWord_k {s t : State} {a0 : _} {a1 : _} {a2 : _} (h : Kept s t) : Kept s (microWord a0 a1 a2 t).2 := by
  unfold microWord
  repeat' first
    | with_reducible assumption
    | (extract_lets +onlyGivenNames x; first | (refine (fun (hx : Kept s x) => ?_) (?_ : Kept s x); all_goals first | (guard_target =ₐ Kept s x; unfold x; clear x) | clear_value x) | (refine (fun (hx : Kept s x.2) => ?_) (?_ : Kept s x.2); all_goals first | (guard_target =ₐ Kept s x.2; unfold x; clear x) | clear_value x) | clear_value x)
    | with_reducible refine microPort_k ?_ | with_reducible refine eset_k ?_ | with_reducible refine fresh_k ?_
    | with_reducible refine KeptP.snd (fresh_k ?_) (by assumption) | split | with_reducible refine KeptP_mk ?_

theorem microExec_k {s t : State} {a0 : _} {a1 : _} {a2 : _} (h : Kept s t) : Kept s (microExec a0 a1 a2 t) := by
  unfold microExec
  repeat' first
    | with_reducible assumption
    | (extract_lets +onlyGivenNames x; first | (refine (fun (hx : Kept s x.2) => ?_) (?_ : Kept s x.2); all_goals first | (guard_target =ₐ Kept s x.2; unfold x; clear x) | clear_value x) | clear_value x)
    | with_reducible refine microWord_k ?_ | with_reducible refine KeptP.snd (microWord_k ?_) (by assumption)
    | with_reducible refine afterPacket_k ?_ | with_reducible refine eset_k ?_ | split

theorem microRun_k {s t : State} {a0 : _} {a1 : _} (h : Kept s t) : Kept s (microRun a0 a1 t) := by
  induction a1 generalizing t with
  | zero =>
    unfold microRun
    repeat' first
      | with_reducible assumption | with_reducible refine microExec_k ?_
      | with_reducible refine KeptM.some (microStall_k ?_) (by assumption) | with_reducible refine storeFault_k ?_ | split
  | succ n ih =>
    unfold microRun
    repeat' first
      | with_reducible assumption | with_reducible refine microExec_k ?_
      | with_reducible refine KeptM.some (microStall_k ?_) (by assumption) | with_reducible refine storeFault_k ?_
      | with_reducible refine ih ?_ | split

theorem keystoneWord_k {s t : State} {a0 : _} (h : Kept s t) : KeptM s (keystoneWord a0 t) := by
  unfold keystoneWord
  repeat' first
    | with_reducible assumption
    | (extract_lets +onlyGivenNames x; first | (refine (fun (hx : Kept s x.2) => ?_) (?_ : Kept s x.2); all_goals first | (guard_target =ₐ Kept s x.2; unfold x; clear x) | clear_value x) | clear_value x)
    | with_reducible refine microWord_k ?_ | with_reducible refine KeptP.snd (microWord_k ?_) (by assumption)
    | with_reducible refine microStall_k ?_ | with_reducible refine KeptM.some (microStall_k ?_) (by assumption)
    | with_reducible refine eset_k ?_ | split | with_reducible refine KeptM_some ?_ | with_reducible exact KeptM_none

/-! ### ControlStore -/

theorem setPatch_k {s t : State} {a0 : _} {a1 : _} (h : Kept s t) : Kept s (setPatch a0 a1 t) := by
  unfold setPatch
  repeat' first
    | with_reducible assumption | (with_reducible refine Kept_mk (by with_reducible assumption) ?_; rfl) | split

theorem writePatch_k {s t : State} {a0 : _} (h : Kept s t) : Kept s (writePatch a0 t).2 := by
  unfold writePatch
  repeat' first
    | with_reducible assumption | (extract_lets +onlyGivenNames x; clear_value x) | with_reducible refine setPatch_k ?_
    | with_reducible refine inc_k ?_ | split | with_reducible refine KeptP_mk ?_

theorem writeBootPatch_k {s t : State} {a0 : _} {a1 : _} (h : Kept s t) : Kept s (writeBootPatch a0 a1 t).2 := by
  unfold writeBootPatch
  repeat' first
    | with_reducible assumption | (with_reducible refine Kept_mk (by with_reducible assumption) ?_; rfl)
    | (extract_lets +onlyGivenNames x; first | (refine (fun (hx : Kept s x) => ?_) (?_ : Kept s x); all_goals first | (guard_target =ₐ Kept s x; unfold x; clear x) | clear_value x) | clear_value x)
    | with_reducible refine inc_k ?_ | split | with_reducible refine KeptP_mk ?_

theorem applyBootPatches_k {s t : State} (h : Kept s t) : Kept s (applyBootPatches t) := by
  unfold applyBootPatches
  repeat' first
    | with_reducible assumption | (extract_lets +onlyGivenNames x; clear_value x) | with_reducible refine setPatch_k ?_
    | with_reducible refine inc_k ?_ | (with_reducible refine Kept_foldl ?_ ?_; intro _ _ _) | split

theorem poisonPatch_k {s t : State} {a0 : _} {a1 : _} {a2 : _} {a3 : _} (h : Kept s t) : Kept s (poisonPatch a0 a1 a2 a3 t) := by
  unfold poisonPatch
  repeat' first
    | with_reducible assumption | (extract_lets +onlyGivenNames x; clear_value x) | with_reducible refine setPatch_k ?_
    | split

theorem dropPatch_k {s t : State} {a0 : _} (h : Kept s t) : Kept s (dropPatch a0 t) := by
  unfold dropPatch
  repeat' first
    | with_reducible assumption | with_reducible refine setPatch_k ?_ | split

theorem restartSte0_k {s t : State} (h : Kept s t) : Kept s (restartSte0 t) := by
  unfold restartSte0
  repeat' first
    | with_reducible assumption | with_reducible refine abandonQueue_k ?_ | with_reducible refine flag_k ?_
    | with_reducible refine wr_k ?_ | split

theorem rewriteRecord_k {s t : State} (h : Kept s t) : Kept s (rewriteRecord t) := by
  unfold rewriteRecord
  repeat' first
    | with_reducible assumption | (extract_lets +onlyGivenNames x; clear_value x) | with_reducible refine qset_k ?_
    | split

theorem restartSte1_k {s t : State} (h : Kept s t) : Kept s (restartSte1 t) := by
  unfold restartSte1
  repeat' first
    | with_reducible assumption | (with_reducible refine Kept_mk (by with_reducible assumption) ?_; rfl)
    | (extract_lets +onlyGivenNames x; clear_value x) | with_reducible refine rewriteRecord_k ?_ | split

theorem restartDte_k {s t : State} (h : Kept s t) : Kept s (restartDte t) := by
  unfold restartDte
  repeat' first
    | with_reducible assumption
    | (extract_lets +onlyGivenNames x; first | (refine (fun (hx : Kept s x) => ?_) (?_ : Kept s x); all_goals first | (guard_target =ₐ Kept s x; unfold x; clear x) | clear_value x) | (have _ : (x : Dram) = x := rfl; subst x) | clear_value x)
    | with_reducible refine zeroCluster_k ?_ | with_reducible refine zeroChannel_k ?_
    | (with_reducible refine setDram_k ?_ ?_; rotate_left; rfl) | with_reducible refine setDch_k ?_
    | with_reducible refine wr_k ?_ | (with_reducible refine Kept_foldl ?_ ?_; intro _ _ _) | split

theorem restartVre_k {s t : State} (h : Kept s t) : Kept s (restartVre t) := by
  unfold restartVre
  repeat' first
    | with_reducible assumption | (with_reducible refine Kept_mk (by with_reducible assumption) ?_; rfl)
    | (extract_lets +onlyGivenNames x; clear_value x) | split

/-! ### Nvm -/

theorem setNvm_k {s t : State} {a0 : _} (h : Kept s t) : Kept s (setNvm a0 t) := by
  unfold setNvm
  repeat' first
    | with_reducible assumption | (with_reducible refine Kept_mk (by with_reducible assumption) ?_; rfl) | split

theorem persist_k {s t : State} {a0 : _} {a1 : _} {a2 : _} (h : Kept s t) : Kept s (persist a0 a1 a2 t) := by
  unfold persist
  repeat' first
    | with_reducible assumption | (extract_lets +onlyGivenNames x; clear_value x) | with_reducible refine setNvm_k ?_
    | with_reducible refine wr_k ?_ | split

theorem loadRecord_k {s t : State} {a0 : _} (h : Kept s t) : Kept s (loadRecord a0 t) := by
  unfold loadRecord
  repeat' first
    | with_reducible assumption
    | (extract_lets +onlyGivenNames x; first | (refine (fun (hx : Kept s x) => ?_) (?_ : Kept s x); all_goals first | (guard_target =ₐ Kept s x; unfold x; clear x) | clear_value x) | (refine (fun (hf1 : ∀ u, Kept s u → Kept s (x u)) => ?_) (?_ : ∀ u, Kept s u → Kept s (x u)); all_goals first | (guard_target =ₐ ∀ u, Kept s u → Kept s (x u); unfold x; clear x; intro _ _) | clear_value x) | clear_value x)
    | with_reducible refine hf1 _ ?_ | with_reducible refine setNvm_k ?_ | with_reducible refine inc_k ?_
    | with_reducible refine wr_k ?_ | (with_reducible refine Kept_foldl ?_ ?_; intro _ _ _) | split

theorem loadPersistent_k {s t : State} (h : Kept s t) : Kept s (loadPersistent t) := by
  unfold loadPersistent
  repeat' first
    | with_reducible assumption
    | (extract_lets +onlyGivenNames x; first | (refine (fun (hx : Kept s x) => ?_) (?_ : Kept s x); all_goals first | (guard_target =ₐ Kept s x; unfold x; clear x) | clear_value x) | clear_value x)
    | with_reducible refine loadRecord_k ?_ | with_reducible refine setNvm_k ?_ | with_reducible refine wr_k ?_
    | (with_reducible refine Kept_foldl ?_ ?_; intro _ _ _) | split

theorem setInactive_k {s t : State} {a0 : _} (h : Kept s t) : Kept s (setInactive a0 t) := by
  unfold setInactive
  repeat' first
    | with_reducible assumption | (extract_lets +onlyGivenNames x; clear_value x) | with_reducible refine setNvm_k ?_
    | split

theorem commitFail_k {s t : State} (h : Kept s t) : Kept s (commitFail t) := by
  unfold commitFail
  repeat' first
    | with_reducible assumption | (extract_lets +onlyGivenNames x; clear_value x) | with_reducible refine setNvm_k ?_
    | with_reducible refine inc_k ?_ | with_reducible refine wr_k ?_ | split

theorem startCommit_k {s t : State} (h : Kept s t) : KeptA s (startCommit t) := by
  unfold startCommit
  repeat' first
    | with_reducible assumption
    | (extract_lets +onlyGivenNames x; first | (refine (fun (hx : Kept s x) => ?_) (?_ : Kept s x); all_goals first | (guard_target =ₐ Kept s x; unfold x; clear x) | clear_value x) | clear_value x)
    | with_reducible refine commitFail_k ?_ | with_reducible refine setNvm_k ?_ | with_reducible refine wr_k ?_ | split
    | with_reducible refine KeptA_ok ?_ | with_reducible exact KeptA_err

theorem execNvmEraseDone_k {s t : State} (h : Kept s t) : KeptO s (execNvmEraseDone t) := by
  unfold execNvmEraseDone
  repeat' first
    | with_reducible assumption
    | (extract_lets +onlyGivenNames x; first | (refine (fun (hx : Kept s x) => ?_) (?_ : Kept s x); all_goals first | (guard_target =ₐ Kept s x; unfold x; clear x) | clear_value x) | clear_value x)
    | with_reducible refine setInactive_k ?_ | with_reducible refine setNvm_k ?_ | with_reducible refine wr_k ?_ | split
    | with_reducible refine KeptO_next ?_

theorem commitDone_k {s t : State} (h : Kept s t) : Kept s (commitDone t) := by
  unfold commitDone
  repeat' first
    | with_reducible assumption
    | (extract_lets +onlyGivenNames x; first | (refine (fun (hx : Kept s x) => ?_) (?_ : Kept s x); all_goals first | (guard_target =ₐ Kept s x; unfold x; clear x) | clear_value x) | clear_value x)
    | with_reducible refine setNvm_k ?_ | with_reducible refine inc_k ?_ | with_reducible refine wr_k ?_ | split

theorem execPageProgramDone_k {s t : State} {a0 : _} (h : Kept s t) : KeptO s (execPageProgramDone a0 t) := by
  unfold execPageProgramDone
  repeat' first
    | with_reducible assumption
    | (extract_lets +onlyGivenNames x; first | (refine (fun (hx : Kept s x) => ?_) (?_ : Kept s x); all_goals first | (guard_target =ₐ Kept s x; unfold x; clear x) | clear_value x) | clear_value x)
    | with_reducible refine commitDone_k ?_ | with_reducible refine commitFail_k ?_
    | with_reducible refine setInactive_k ?_ | with_reducible refine setNvm_k ?_ | with_reducible refine inc_k ?_ | split
    | with_reducible refine KeptO_next ?_

/-! ### Life -/

theorem execShutdownComplete_k {s t : State} (h : Kept s t) : KeptO s (execShutdownComplete t) := by
  unfold execShutdownComplete
  repeat' first
    | with_reducible assumption
    | (extract_lets +onlyGivenNames x; first | (refine (fun (hx : Kept s x) => ?_) (?_ : Kept s x); all_goals first | (guard_target =ₐ Kept s x; unfold x; clear x) | clear_value x) | clear_value x)
    | with_reducible refine commitFail_k ?_ | with_reducible refine suspend_k ?_ | with_reducible refine setCool_k ?_
    | with_reducible refine toFio_k ?_ | with_reducible refine settleLanes_k ?_ | with_reducible refine setDch_k ?_
    | with_reducible refine wr_k ?_ | (with_reducible refine Kept_foldl ?_ ?_; intro _ _ _) | split
    | with_reducible refine KeptO_next ?_

theorem resume_k {s t : State} (h : Kept s t) : KeptA s (resume t) := by
  unfold resume
  repeat' first
    | with_reducible assumption
    | (extract_lets +onlyGivenNames x; first | (refine (fun (hx : Kept s x) => ?_) (?_ : Kept s x); all_goals first | (guard_target =ₐ Kept s x; unfold x; clear x) | clear_value x) | clear_value x)
    | with_reducible refine setCool_k ?_ | with_reducible refine settleTraining_k ?_
    | with_reducible refine trainChannel_k ?_ | with_reducible refine pauseWipe_k ?_ | with_reducible refine setClk_k ?_
    | with_reducible refine settleLanes_k ?_ | with_reducible refine wr_k ?_
    | (with_reducible refine Kept_foldl ?_ ?_; intro _ _ _) | split | with_reducible refine KeptA_ok ?_
    | with_reducible exact KeptA_err

theorem scrubPool_k {s t : State} {a0 : _} {a1 : _} {a2 : _} {a3 : _} (h : Kept s t) : Kept s (scrubPool a0 a1 a2 a3 t) := by
  induction a1 generalizing t a2 a3 with
  | nil =>
    unfold scrubPool
    repeat' first
      | with_reducible assumption | (extract_lets +onlyGivenNames x; clear_value x) | with_reducible refine qset_k ?_
      | with_reducible refine inc_k ?_ | split
  | cons y l ih =>
    unfold scrubPool
    repeat' first
      | with_reducible assumption | (extract_lets +onlyGivenNames x; clear_value x) | with_reducible refine qset_k ?_
      | with_reducible refine inc_k ?_ | with_reducible refine ih ?_ | split

theorem scrubArea_k {s t : State} {a0 : _} {a1 : _} (h : Kept s t) : Kept s (scrubArea a0 a1 t) := by
  unfold scrubArea
  repeat' first
    | with_reducible assumption | (extract_lets +onlyGivenNames x; clear_value x) | with_reducible refine aset_k ?_
    | split

theorem scrubStaging_k {s t : State} {a0 : _} {a1 : _} (h : Kept s t) : Kept s (scrubStaging a0 a1 t) := by
  induction a0 generalizing t a1 with
  | nil =>
    unfold scrubStaging
    repeat' first
      | with_reducible assumption | (with_reducible refine Kept_mk (by with_reducible assumption) ?_; rfl)
      | (extract_lets +onlyGivenNames x; clear_value x) | with_reducible refine loseLoose_k ?_
      | with_reducible refine rsset_k ?_ | with_reducible refine voidNum_k ?_ | split
  | cons y l ih =>
    unfold scrubStaging
    repeat' first
      | with_reducible assumption | (with_reducible refine Kept_mk (by with_reducible assumption) ?_; rfl)
      | (extract_lets +onlyGivenNames x; clear_value x) | with_reducible refine loseLoose_k ?_
      | with_reducible refine rsset_k ?_ | with_reducible refine voidNum_k ?_ | with_reducible refine ih ?_ | split

theorem scrubSample_k {s t : State} {a0 : _} {a1 : _} (h : Kept s t) : Kept s (scrubSample a0 a1 t) := by
  unfold scrubSample
  repeat' first
    | with_reducible assumption | (with_reducible refine Kept_mk (by with_reducible assumption) ?_; rfl)
    | (extract_lets +onlyGivenNames x; first | (refine (fun (hx : Kept s x) => ?_) (?_ : Kept s x); all_goals first | (guard_target =ₐ Kept s x; unfold x; clear x) | clear_value x) | clear_value x)
    | with_reducible refine sset_k ?_ | with_reducible refine inc_k ?_
    | (with_reducible refine Kept_foldl ?_ ?_; intro _ _ _) | split

theorem scrubCluster_k {s t : State} {a0 : _} {a1 : _} {a2 : _} (h : Kept s t) : Kept s (scrubCluster a0 a1 a2 t) := by
  unfold scrubCluster
  repeat' first
    | with_reducible assumption | (with_reducible refine Kept_mk (by with_reducible assumption) ?_; rfl)
    | (with_reducible refine Kept_mk (by with_reducible assumption) ?_; rfl)
    | (with_reducible refine Kept_mk (by with_reducible assumption) ?_; rfl)
    | (extract_lets +onlyGivenNames x; first | (refine (fun (hx : Kept s x) => ?_) (?_ : Kept s x); all_goals first | (guard_target =ₐ Kept s x; unfold x; clear x) | clear_value x) | (refine (fun (hf3 : ∀ a b u, Kept s u → Kept s (x a b u)) => ?_) (?_ : ∀ a b u, Kept s u → Kept s (x a b u)); all_goals first | (guard_target =ₐ ∀ a b u, Kept s u → Kept s (x a b u); unfold x; clear x; intro _ _ _ _) | clear_value x) | clear_value x)
    | with_reducible refine hf3 _ _ _ ?_ | with_reducible refine scrubSample_k ?_ | with_reducible refine poisonPatch_k ?_
    | with_reducible refine bcset_k ?_ | with_reducible refine voidNow_k ?_ | with_reducible refine inc_k ?_
    | (with_reducible refine Kept_foldl ?_ ?_; intro _ _ _) | split

theorem scrubMark_k {s t : State} {a0 : _} {a1 : _} {a2 : _} (h : Kept s t) : Kept s (scrubMark a0 a1 a2 t) := by
  unfold scrubMark
  repeat' first
    | with_reducible assumption | (extract_lets +onlyGivenNames x; clear_value x)
    | with_reducible refine scrubCluster_k ?_ | with_reducible refine scrubStaging_k ?_
    | with_reducible refine scrubArea_k ?_ | with_reducible refine scrubPool_k ?_ | with_reducible refine setNvm_k ?_
    | with_reducible refine poisonPatch_k ?_ | split

theorem execScrubStep_k {s t : State} {a0 : _} {a1 : _} {a2 : _} (h : Kept s t) : KeptO s (execScrubStep a0 a1 a2 t) := by
  unfold execScrubStep
  repeat' first
    | with_reducible assumption | (with_reducible refine Kept_mk (by with_reducible assumption) ?_; rfl)
    | (extract_lets +onlyGivenNames x; first | (refine (fun (hx : Kept s x) => ?_) (?_ : Kept s x); all_goals first | (guard_target =ₐ Kept s x; unfold x; clear x) | clear_value x) | clear_value x)
    | with_reducible refine scrubMark_k ?_ | with_reducible refine logFault_k ?_ | with_reducible refine inc_k ?_
    | with_reducible refine incBy_k ?_ | (with_reducible refine Kept_foldl ?_ ?_; intro _ _ _) | split
    | with_reducible refine KeptO_next ?_

theorem execScrubStale_k {s t : State} {a0 : _} (h : Kept s t) : KeptO s (execScrubStale a0 t) := by
  unfold execScrubStale
  repeat' first
    | with_reducible assumption | with_reducible refine flag_k ?_ | split | with_reducible refine KeptO_next ?_

theorem writeLcsReq_k {s t : State} {a0 : _} (h : Kept s t) : KeptA s (writeLcsReq a0 t) := by
  unfold writeLcsReq
  repeat' first
    | with_reducible assumption | (with_reducible refine Kept_mk (by with_reducible assumption) ?_; rfl)
    | (extract_lets +onlyGivenNames x; clear_value x) | with_reducible refine wr_k ?_ | split
    | with_reducible refine KeptA_ok ?_ | with_reducible exact KeptA_err

theorem writeLcsConfirm_k {s t : State} {a0 : _} (h : Kept s t) : KeptA s (writeLcsConfirm a0 t) := by
  unfold writeLcsConfirm
  repeat' first
    | with_reducible assumption | (with_reducible refine Kept_mk (by with_reducible assumption) ?_; rfl)
    | (extract_lets +onlyGivenNames x; clear_value x) | split | with_reducible refine KeptA_ok ?_
    | with_reducible exact KeptA_err

theorem execLcsReqExpire_k {s t : State} (h : Kept s t) : KeptO s (execLcsReqExpire t) := by
  unfold execLcsReqExpire
  repeat' first
    | with_reducible assumption | (with_reducible refine Kept_mk (by with_reducible assumption) ?_; rfl)
    | (extract_lets +onlyGivenNames x; clear_value x) | with_reducible refine wr_k ?_ | split
    | with_reducible refine KeptO_next ?_

theorem silenceAll_k {s t : State} (h : Kept s t) : Kept s (silenceAll t) := by
  unfold silenceAll
  repeat' first
    | with_reducible assumption | (with_reducible refine Kept_mk (by with_reducible assumption) ?_; rfl)
    | (extract_lets +onlyGivenNames x; first | (refine (fun (hx : Kept s x) => ?_) (?_ : Kept s x); all_goals first | (guard_target =ₐ Kept s x; unfold x; clear x) | clear_value x) | clear_value x)
    | with_reducible refine lowMarker_k ?_ | with_reducible refine muteCluster_k ?_
    | (with_reducible refine Kept_foldl ?_ ?_; intro _ _ _) | split

/-! ### Boot -/

theorem holdReset_k {s t : State} {c : Nat} {l : Bool} (h : Kept s t) : Kept s (holdReset c l t) := by
  have r : Memory.wf State.reset = true := by decide
  unfold holdReset
  exact wr_k ⟨h.pending, fun _ => r⟩

theorem execSupplyLoss_k {s t : State} (h : Kept s t) : KeptO s (execSupplyLoss t) := by
  unfold execSupplyLoss
  repeat' first
    | with_reducible assumption | with_reducible refine holdReset_k ?_ | split | with_reducible refine KeptO_next ?_

theorem execResetNAssert_k {s t : State} {n : Nat} (h : Kept s t) : KeptO s (execResetNAssert n t) := by
  unfold execResetNAssert
  split
  · exact h
  · split
    · exact holdReset_k h
    · trivial

theorem execPowerGood_k {s t : State} {a0 : _} {a1 : _} (h : Kept s t) : KeptO s (execPowerGood a0 a1 t) := by
  unfold execPowerGood
  repeat' first
    | with_reducible assumption | (with_reducible refine Kept_mk (by with_reducible assumption) ?_; rfl)
    | (extract_lets +onlyGivenNames x; first | (refine (fun (hx : Kept s x) => ?_) (?_ : Kept s x); all_goals first | (guard_target =ₐ Kept s x; unfold x; clear x) | clear_value x) | clear_value x)
    | with_reducible refine wr_k ?_ | split | with_reducible refine KeptO_next ?_

theorem writeReset_k {s t : State} {a0 : _} (h : Kept s t) : KeptA s (writeReset a0 t) := by
  unfold writeReset
  repeat' first
    | with_reducible assumption | (with_reducible refine Kept_mk (by with_reducible assumption) ?_; rfl)
    | (extract_lets +onlyGivenNames x; clear_value x) | split | with_reducible refine KeptA_ok ?_
    | with_reducible exact KeptA_err

theorem execDictionaryResetBegin_k {s t : State} (h : Kept s t) : KeptO s (execDictionaryResetBegin t) := by
  unfold execDictionaryResetBegin
  repeat' first
    | with_reducible assumption | with_reducible refine holdReset_k ?_ | split | with_reducible refine KeptO_next ?_

theorem setNode_k {s t : State} {a0 : _} (h : Kept s t) : Kept s (setNode a0 t) := by
  unfold setNode
  repeat' first
    | with_reducible assumption | (extract_lets +onlyGivenNames x; clear_value x) | with_reducible refine wr_k ?_ | split

theorem applyFuses_k {s t : State} {a0 : _} (h : Kept s t) : Kept s (applyFuses a0 t) := by
  unfold applyFuses
  repeat' first
    | with_reducible assumption | (with_reducible refine Kept_mk (by with_reducible assumption) ?_; rfl)
    | (extract_lets +onlyGivenNames x; first | (refine (fun (hx : Kept s x) => ?_) (?_ : Kept s x); all_goals first | (guard_target =ₐ Kept s x; unfold x; clear x) | clear_value x) | clear_value x)
    | with_reducible refine setFactors_k ?_ | with_reducible refine initTrims_k ?_ | with_reducible refine wr_k ?_
    | (with_reducible refine Kept_foldl ?_ ?_; intro _ _ _) | split

theorem execFuseRead_k {s t : State} {a0 : _} {a1 : _} {a2 : _} (h : Kept s t) : KeptO s (execFuseRead a0 a1 a2 t) := by
  unfold execFuseRead
  repeat' first
    | with_reducible assumption | (with_reducible refine Kept_mk (by with_reducible assumption) ?_; rfl)
    | (extract_lets +onlyGivenNames x; first | (refine (fun (hx : Kept s x) => ?_) (?_ : Kept s x); all_goals first | (guard_target =ₐ Kept s x; unfold x; clear x) | clear_value x) | clear_value x)
    | with_reducible refine applyFuses_k ?_ | with_reducible refine setNode_k ?_ | with_reducible refine milestone_k ?_
    | with_reducible refine logFault_k ?_ | with_reducible refine wr_k ?_ | split | with_reducible refine KeptO_next ?_

theorem execMemoryWipeDone_k {s t : State} (h : Kept s t) : KeptO s (execMemoryWipeDone t) := by
  unfold execMemoryWipeDone
  repeat' first
    | with_reducible assumption | (with_reducible refine Kept_mk (by with_reducible assumption) ?_; rfl)
    | (extract_lets +onlyGivenNames x; clear_value x) | with_reducible refine milestone_k ?_ | split
    | with_reducible refine KeptO_next ?_

theorem execNvmBootRead_k {s t : State} {a0 : _} {a1 : _} (h : Kept s t) : KeptO s (execNvmBootRead a0 a1 t) := by
  unfold execNvmBootRead
  repeat' first
    | with_reducible assumption | (with_reducible refine Kept_mk (by with_reducible assumption) ?_; rfl)
    | (extract_lets +onlyGivenNames x; first | (refine (fun (hx : Kept s x) => ?_) (?_ : Kept s x); all_goals first | (guard_target =ₐ Kept s x; unfold x; clear x) | clear_value x) | clear_value x)
    | with_reducible refine setNode_k ?_ | with_reducible refine loadPersistent_k ?_
    | with_reducible refine applyBootPatches_k ?_ | with_reducible refine setStep_k ?_
    | with_reducible refine bootMet_k ?_ | with_reducible refine milestone_k ?_ | with_reducible refine setClk_k ?_
    | with_reducible refine settleLanes_k ?_ | with_reducible refine eset_k ?_ | with_reducible refine wr_k ?_
    | (with_reducible refine Kept_foldl ?_ ?_; intro _ _ _) | split | with_reducible refine KeptO_next ?_

theorem execLcsBurn_k {s t : State} {a0 : _} (h : Kept s t) : KeptO s (execLcsBurn a0 t) := by
  unfold execLcsBurn
  repeat' first
    | with_reducible assumption | (with_reducible refine Kept_mk (by with_reducible assumption) ?_; rfl)
    | (extract_lets +onlyGivenNames x; first | (refine (fun (hx : Kept s x) => ?_) (?_ : Kept s x); all_goals first | (guard_target =ₐ Kept s x; unfold x; clear x) | clear_value x) | clear_value x)
    | with_reducible refine holdReset_k ?_ | with_reducible refine silenceAll_k ?_ | with_reducible refine wr_k ?_ | split
    | with_reducible refine KeptO_next ?_

/-! ### Delivery -/

theorem taken_k {s t : State} {a0 : _} (h : Kept s t) : Kept s (taken a0 t) := by
  unfold taken
  repeat' first
    | with_reducible assumption
    | (extract_lets +onlyGivenNames x; (refine (fun (hx : Kept s x) => ?_) (?_ : Kept s x); all_goals first | (guard_target =ₐ Kept s x; unfold x; clear x) | clear_value x))
    | with_reducible refine inc_k ?_ | split

theorem refused_k {s t : State} {a0 : _} (h : Kept s t) : Kept s (refused a0 t) := by
  unfold refused
  repeat' first
    | with_reducible assumption | with_reducible refine flag_k ?_ | with_reducible refine inc_k ?_ | split

theorem deliverEngine_k {s t : State} {a0 : _} (h : Kept s t) : Kept s (deliverEngine a0 t) := by
  unfold deliverEngine
  repeat' first
    | with_reducible assumption | (extract_lets +onlyGivenNames x; clear_value x) | with_reducible refine refused_k ?_
    | with_reducible refine taken_k ?_ | with_reducible refine eset_k ?_ | split

theorem deliverMau_k {s t : State} {a0 : _} (h : Kept s t) : Kept s (deliverMau a0 t) := by
  unfold deliverMau
  repeat' first
    | with_reducible assumption
    | (extract_lets +onlyGivenNames x; first | (refine (fun (hx : Kept s x.2) => ?_) (?_ : Kept s x.2); all_goals first | (guard_target =ₐ Kept s x.2; unfold x; clear x) | clear_value x) | clear_value x)
    | with_reducible refine refused_k ?_ | with_reducible refine taken_k ?_ | with_reducible refine mauStart_k ?_
    | with_reducible refine KeptP.snd (mauStart_k ?_) (by assumption) | split

theorem deliverArm_k {s t : State} {a0 : _} (h : Kept s t) : Kept s (deliverArm a0 t) := by
  unfold deliverArm
  repeat' first
    | with_reducible assumption | with_reducible refine refused_k ?_ | with_reducible refine taken_k ?_
    | with_reducible refine KeptM.some (armEvent_k ?_) (by assumption) | split

theorem deliverCapture_k {s t : State} {a0 : _} (h : Kept s t) : Kept s (deliverCapture a0 t) := by
  unfold deliverCapture
  repeat' first
    | with_reducible assumption | (extract_lets +onlyGivenNames x; clear_value x) | with_reducible refine refused_k ?_
    | with_reducible refine taken_k ?_ | with_reducible refine trset_k ?_ | with_reducible refine inc_k ?_ | split

theorem deliverMarker_k {s t : State} {a0 : _} (h : Kept s t) : Kept s (deliverMarker a0 t) := by
  unfold deliverMarker
  repeat' first
    | with_reducible assumption | (extract_lets +onlyGivenNames x; clear_value x) | with_reducible refine taken_k ?_
    | with_reducible refine mkset_k ?_ | split

theorem execEventDelivery_k {s t : State} {a0 : _} (h : Kept s t) : KeptO s (execEventDelivery a0 t) := by
  unfold execEventDelivery
  repeat' first
    | with_reducible assumption | (with_reducible refine Kept_mk (by with_reducible assumption) ?_; rfl)
    | (extract_lets +onlyGivenNames x; (refine (fun (hx : Kept s x) => ?_) (?_ : Kept s x); all_goals first | (guard_target =ₐ Kept s x; unfold x; clear x) | clear_value x))
    | with_reducible refine deliverMarker_k ?_ | with_reducible refine deliverCapture_k ?_
    | with_reducible refine deliverArm_k ?_ | with_reducible refine deliverMau_k ?_
    | with_reducible refine deliverEngine_k ?_ | split | with_reducible refine KeptO_next ?_

theorem execTimerFire_k {s t : State} {a0 : _} (h : Kept s t) : KeptO s (execTimerFire a0 t) := by
  unfold execTimerFire
  repeat' first
    | with_reducible assumption | with_reducible refine mauStart_k ?_
    | with_reducible refine KeptP.snd (mauStart_k ?_) (by assumption) | with_reducible refine timerFire_k ?_
    | (with_reducible refine Kept_foldl ?_ ?_; intro _ _ _) | split | with_reducible refine KeptO_next ?_

/-! ### Queues -/

theorem execQueueWrite_k {s t : State} {a0 : _} {a1 : _} {a2 : _} {a3 : _} {a4 : _} (h : Kept s t) : KeptO s (execQueueWrite a0 a1 a2 a3 a4 t) := by
  unfold execQueueWrite
  repeat' first
    | with_reducible assumption | with_reducible refine writeWord_k ?_ | split | with_reducible refine KeptO_next ?_

theorem execWaitingWriteResume_k {s t : State} {a0 : _} (h : Kept s t) : KeptO s (execWaitingWriteResume a0 t) := by
  unfold execWaitingWriteResume
  repeat' first
    | with_reducible assumption | with_reducible refine resumeWrite_k ?_ | split | with_reducible refine KeptO_next ?_

theorem answerTo_k {s t : State} {a0 : _} {a1 : _} (h : Kept s t) : Kept s (answerTo a0 a1 t) := by
  unfold answerTo
  repeat' first
    | with_reducible assumption | (extract_lets +onlyGivenNames x; clear_value x) | with_reducible refine qset_k ?_
    | split

theorem execQueueRead_k {s t : State} {a0 : _} {a1 : _} {a2 : _} (h : Kept s t) : KeptO s (execQueueRead a0 a1 a2 t) := by
  unfold execQueueRead
  repeat' first
    | with_reducible assumption
    | (extract_lets +onlyGivenNames x; (refine (fun (hx : Kept s x.2) => ?_) (?_ : Kept s x.2); all_goals first | (guard_target =ₐ Kept s x.2; unfold x; clear x) | clear_value x))
    | with_reducible refine answerTo_k ?_ | with_reducible refine readWord_k ?_
    | with_reducible refine KeptP.snd (readWord_k ?_) (by assumption) | split | with_reducible refine KeptO_next ?_

theorem execQueueDrop_k {s t : State} {a0 : _} (h : Kept s t) : KeptO s (execQueueDrop a0 t) := by
  unfold execQueueDrop
  repeat' first
    | with_reducible assumption
    | (extract_lets +onlyGivenNames x; (refine (fun (hx : Kept s x.2) => ?_) (?_ : Kept s x.2); all_goals first | (guard_target =ₐ Kept s x.2; unfold x; clear x) | clear_value x))
    | with_reducible refine answerTo_k ?_ | with_reducible refine dropPacket_k ?_
    | with_reducible refine KeptP.snd (dropPacket_k ?_) (by assumption) | split | with_reducible refine KeptO_next ?_

theorem execQueueFlush_k {s t : State} {a0 : _} (h : Kept s t) : KeptO s (execQueueFlush a0 t) := by
  unfold execQueueFlush
  repeat' first
    | with_reducible assumption | with_reducible refine flushQueue_k ?_ | split | with_reducible refine KeptO_next ?_

theorem pushQueue_k {s t : State} {a0 : _} {a1 : _} (h : Kept s t) : KeptA s (pushQueue a0 a1 t) := by
  unfold pushQueue
  repeat' first
    | with_reducible assumption | with_reducible refine appendPacket_k ?_ | split | with_reducible refine KeptA_ok ?_
    | with_reducible exact KeptA_err

theorem popQueue_k {s t : State} {a0 : _} (h : Kept s t) : KeptAP s (popQueue a0 t) := by
  unfold popQueue
  repeat' first
    | with_reducible assumption
    | (extract_lets +onlyGivenNames x; (refine (fun (hx : Kept s x.2) => ?_) (?_ : Kept s x.2); all_goals first | (guard_target =ₐ Kept s x.2; unfold x; clear x) | clear_value x))
    | with_reducible refine readWord_k ?_ | with_reducible refine KeptP.snd (readWord_k ?_) (by assumption) | split
    | with_reducible refine KeptAP_ok ?_ | with_reducible exact KeptAP_err

theorem readPacket_k {s t : State} {a0 : _} {a1 : _} (h : Kept s t) : Kept s (readPacket a0 a1 t).2 := by
  induction a1 generalizing t with
  | zero =>
    unfold readPacket
    repeat' first
      | with_reducible assumption
      | (extract_lets +onlyGivenNames x; (refine (fun (hx : Kept s x.2) => ?_) (?_ : Kept s x.2); all_goals first | (guard_target =ₐ Kept s x.2; unfold x; clear x) | clear_value x))
      | with_reducible refine readWord_k ?_ | with_reducible refine KeptP.snd (readWord_k ?_) (by assumption) | split
      | with_reducible refine KeptP_mk ?_
  | succ n ih =>
    unfold readPacket
    repeat' first
      | with_reducible assumption
      | (extract_lets +onlyGivenNames x; (refine (fun (hx : Kept s x.2) => ?_) (?_ : Kept s x.2); all_goals first | (guard_target =ₐ Kept s x.2; unfold x; clear x) | clear_value x))
      | with_reducible refine readWord_k ?_ | with_reducible refine KeptP.snd (readWord_k ?_) (by assumption)
      | with_reducible refine ih ?_ | split | with_reducible refine KeptP_mk ?_

theorem pktQueue_k {s t : State} {a0 : _} (h : Kept s t) : KeptAP s (pktQueue a0 t) := by
  unfold pktQueue
  repeat' first
    | with_reducible assumption
    | (extract_lets +onlyGivenNames x; first | (refine (fun (hx : Kept s x.2) => ?_) (?_ : Kept s x.2); all_goals first | (guard_target =ₐ Kept s x.2; unfold x; clear x) | clear_value x) | clear_value x)
    | with_reducible refine readPacket_k ?_ | with_reducible refine KeptP.snd (readPacket_k ?_) (by assumption)
    | with_reducible refine incBy_k ?_ | split | with_reducible refine KeptAP_ok ?_ | with_reducible exact KeptAP_err

theorem hostFlush_k {s t : State} {a0 : _} (h : Kept s t) : KeptA s (hostFlush a0 t) := by
  unfold hostFlush
  repeat' first
    | with_reducible assumption
    | (extract_lets +onlyGivenNames x; first | (refine (fun (hx : Kept s x) => ?_) (?_ : Kept s x); all_goals first | (guard_target =ₐ Kept s x; unfold x; clear x) | clear_value x) | clear_value x)
    | with_reducible refine flushQueue_k ?_ | with_reducible refine qset_k ?_ | split | with_reducible refine KeptA_ok ?_
    | with_reducible exact KeptA_err

theorem hostDrop_k {s t : State} {a0 : _} (h : Kept s t) : KeptA s (hostDrop a0 t) := by
  unfold hostDrop
  repeat' first
    | with_reducible assumption | with_reducible refine dropPacket_k ?_
    | with_reducible refine KeptP.snd (dropPacket_k ?_) (by assumption) | split | with_reducible refine KeptA_ok ?_
    | with_reducible exact KeptA_err

theorem writeWatermark_k {s t : State} {a0 : _} {a1 : _} {a2 : _} (h : Kept s t) : KeptA s (writeWatermark a0 a1 a2 t) := by
  unfold writeWatermark
  repeat' first
    | with_reducible assumption | (extract_lets +onlyGivenNames x; clear_value x) | with_reducible refine wr_k ?_ | split
    | with_reducible refine KeptA_ok ?_ | with_reducible exact KeptA_err

end Sys2Proof.Machine
end

