-- ==== Sys2Proof/Laws/KeptHost.lean ====
section
/-! SUPPORT. The waiting commands and the memories' form are kept by the dictionary, its server, the grain, the rows that write objects, the schedule's opcodes and the dispatch. -/

namespace Sys2Proof.Machine

-- One proof at a time: proofs elaborated side by side take more memory than the check grants.
set_option Elab.async false
set_option linter.all false

/-! ### Dictionary -/

theorem latchNow_k {s t : State} {a0 : _} (h : Kept s t) : Kept s (latchNow a0 t) := by
  unfold latchNow
  repeat' first
    | with_reducible assumption | with_reducible refine wr_k ?_ | split

theorem idleWrite_k {s t : State} {a0 : _} {a1 : _} {a2 : _} (h : Kept s t) : KeptA s (idleWrite a0 a1 a2 t) := by
  unfold idleWrite
  repeat' first
    | with_reducible assumption | with_reducible refine wr_k ?_ | split | with_reducible refine KeptA_ok ?_
    | with_reducible exact KeptA_err

theorem writeChoice_k {s t : State} {a0 : _} {a1 : _} {a2 : _} {a3 : _} {a4 : _} (h : Kept s t) : KeptA s (writeChoice a0 a1 a2 a3 a4 t) := by
  unfold writeChoice
  repeat' first
    | with_reducible assumption | with_reducible refine wr_k ?_ | split | with_reducible refine KeptA_ok ?_
    | with_reducible exact KeptA_err

theorem writeCond_k {s t : State} {a0 : _} {a1 : _} {a2 : _} (h : Kept s t) : KeptA s (writeCond a0 a1 a2 t) := by
  unfold writeCond
  repeat' first
    | with_reducible assumption | (extract_lets +onlyGivenNames x; clear_value x) | with_reducible refine wr_k ?_ | split
    | with_reducible refine KeptA_ok ?_ | with_reducible exact KeptA_err

theorem writeCapop_k {s t : State} {a0 : _} {a1 : _} (h : Kept s t) : KeptA s (writeCapop a0 a1 t) := by
  unfold writeCapop
  repeat' first
    | with_reducible assumption | (extract_lets +onlyGivenNames x; clear_value x) | with_reducible refine wr_k ?_ | split
    | with_reducible refine KeptA_ok ?_ | with_reducible exact KeptA_err

theorem writeMauConfig_k {s t : State} {a0 : _} {a1 : _} {a2 : _} {a3 : _} (h : Kept s t) : KeptA s (writeMauConfig a0 a1 a2 a3 t) := by
  unfold writeMauConfig
  repeat' first
    | with_reducible assumption | (extract_lets +onlyGivenNames x; clear_value x) | with_reducible refine chooseRef_k ?_
    | with_reducible refine wr_k ?_ | split | with_reducible refine KeptA_ok ?_ | with_reducible exact KeptA_err

theorem controlWrite_k {s t : State} {a0 : _} {a1 : _} (h : Kept s t) : KeptA s (controlWrite a0 a1 t) := by
  unfold controlWrite
  repeat' first
    | with_reducible assumption | with_reducible refine startCommit_k ?_ | with_reducible refine disarmSync_k ?_
    | with_reducible refine fireSync_k ?_ | with_reducible refine armSync_k ?_ | with_reducible refine writeDisarm_k ?_
    | with_reducible refine writeArm_k ?_ | with_reducible refine openStream_k ?_ | with_reducible refine closeStream_k ?_
    | with_reducible refine unloadImage_k ?_ | with_reducible refine startLoad_k ?_ | with_reducible refine stopRun_k ?_
    | with_reducible refine startRun_k ?_ | with_reducible refine abortRun_k ?_ | split
    | with_reducible refine KeptA_ok ?_ | with_reducible exact KeptA_err

theorem writeObject_k {s t : State} {a0 : _} {a1 : _} {a2 : _} {a3 : _} (h : Kept s t) : KeptA s (writeObject a0 a1 a2 a3 t) := by
  unfold writeObject
  repeat' first
    | with_reducible assumption | (extract_lets +onlyGivenNames x; clear_value x)
    | with_reducible refine controlWrite_k ?_ | with_reducible refine writeMauConfig_k ?_
    | with_reducible refine writeCapop_k ?_ | with_reducible refine writeCond_k ?_
    | with_reducible refine writeChoice_k ?_ | with_reducible refine idleWrite_k ?_
    | with_reducible refine writeWatermark_k ?_ | with_reducible refine hostDrop_k ?_
    | with_reducible refine hostFlush_k ?_ | with_reducible refine writeReset_k ?_
    | with_reducible refine writeLcsConfirm_k ?_ | with_reducible refine writeLcsReq_k ?_
    | with_reducible refine resume_k ?_ | with_reducible refine writePanic_k ?_ | with_reducible refine writeRing_k ?_
    | with_reducible refine startBist_k ?_ | with_reducible refine writeRate_k ?_ | with_reducible refine writeTable_k ?_
    | with_reducible refine writeMap_k ?_ | with_reducible refine clearForce_k ?_ | with_reducible refine writeVnom_k ?_
    | with_reducible refine writeCoefficient_k ?_ | with_reducible refine writeGate_k ?_
    | with_reducible refine startFmc_k ?_ | with_reducible refine selectMgmt_k ?_ | with_reducible refine startCal_k ?_
    | with_reducible refine writeInj_k ?_ | with_reducible refine mauStop_k ?_ | with_reducible refine mauStart_k ?_
    | with_reducible refine KeptP.snd (mauStart_k ?_) (by assumption) | with_reducible refine enablePort_k ?_
    | with_reducible refine retrainLink_k ?_ | with_reducible refine settleLanes_k ?_ | with_reducible refine relock_k ?_
    | with_reducible refine settlePps_k ?_ | with_reducible refine writeLayout_k ?_
    | with_reducible refine writeProfiles_k ?_ | with_reducible refine writeProfile_k ?_
    | with_reducible refine clearIncs_k ?_ | with_reducible refine timerStop_k ?_ | with_reducible refine timerRun_k ?_
    | with_reducible refine writeProducer_k ?_ | with_reducible refine writeBiasSense_k ?_
    | with_reducible refine writeBiasSet_k ?_ | with_reducible refine writeFluxSet_k ?_
    | with_reducible refine writeFluxCoef_k ?_ | with_reducible refine writeMute_k ?_
    | with_reducible refine writeTap_k ?_ | with_reducible refine writeDesc_k ?_ | with_reducible refine wr_k ?_
    | (with_reducible refine KeptA_map ?_ (fun _ _ => ?_)) | with_reducible refine KeptA_map' (fun _ => ?_) | split
    | with_reducible refine KeptA_ok ?_ | with_reducible exact KeptA_err

theorem accepted_k {s t : State} {a0 : _} {a1 : _} {a2 : _} {a3 : _} (h : Kept s t) : Kept s (accepted a0 a1 a2 a3 t) := by
  unfold accepted
  repeat' first
    | with_reducible assumption | (with_reducible refine Kept_mk (by with_reducible assumption) ?_; rfl)
    | (extract_lets +onlyGivenNames x; clear_value x) | with_reducible refine persist_k ?_ | split

theorem segRejected_k {s t : State} {a0 : _} {a1 : _} {a2 : _} (h : Kept s t) : Kept s (segRejected a0 a1 a2 t) := by
  unfold segRejected
  repeat' first
    | with_reducible assumption | with_reducible refine inc_k ?_ | split

theorem writeBytes_k {s t : State} {row : ObjRow} {sub n first : Nat} {bs : List Byte} (h : Kept s t) :
    Kept s (writeBytes row sub n first bs t).2 := by
  have key : ∀ {a : Ans State}, KeptA s a →
      Kept s (match a with | .ok u => ((.ok () : Ans Unit), u) | .error c => (.error c, t)).2 := by
    intro a k
    cases a with
    | error => exact h
    | ok => exact k
  unfold writeBytes
  extract_lets keep
  split
  · exact key (writeSegData_k h)
  · exact key (writeKernel_k h)
  · exact key (writeTables_k h)
  · exact key (pushQueue_k h)
  · exact writePatch_k h
  · exact writeBootPatch_k h
  · exact key (winWrite_k h)
  · exact h

theorem writeValue_k {s t : State} {a0 : _} {a1 : _} {a2 : _} {a3 : _} {a4 : _} {a5 : _} {a6 : _} {a7 : _} (h : Kept s t) : Kept s (writeValue a0 a1 a2 a3 a4 a5 a6 a7 t).2 := by
  unfold writeValue
  repeat' first
    | with_reducible assumption
    | (extract_lets +onlyGivenNames x; first | (refine (fun (hx : Kept s x.2) => ?_) (?_ : Kept s x.2); all_goals first | (guard_target =ₐ Kept s x.2; unfold x; clear x) | clear_value x) | clear_value x)
    | with_reducible refine writeBytes_k ?_ | with_reducible refine KeptP.snd (writeBytes_k ?_) (by assumption)
    | with_reducible refine segRejected_k ?_ | with_reducible refine accepted_k ?_
    | with_reducible refine writeObject_k ?_ | with_reducible refine KeptA.ok (writeObject_k ?_) (by assumption) | split
    | with_reducible refine KeptP_mk ?_

theorem removed_k {s t : State} {a : Ans (List Byte × State)} (ha : KeptAP s a) (h : Kept s t) : Kept s (removed a t).2 := by
  unfold removed
  split
  · exact h
  · exact ha

theorem readValue_k {s t : State} {p : Path} {row : ObjRow} {idx n win : Nat} (h : Kept s t) :
    Kept s (readValue p row idx n win t).2 := by
  unfold readValue
  split
  · exact h
  · split
    · split
      · exact removed_k (popQueue_k h) h
      · exact removed_k (pktQueue_k h) h
      · have h1 := winRead_k (a0 := win) h
        split
        · next e => rw [e] at h1; exact h1
        · next e => rw [e] at h1; exact h1
      · extract_lets sp
        split
        · exact h
        split
        · exact h
        · exact h
    · split
      · exact h
      · extract_lets v
        dsimp only
        split
        · exact latchNow_k h
        · exact h

/-! ### Server -/

theorem openTransfer_k {s t : State} {a0 : _} {a1 : _} (h : Kept s t) : Kept s (openTransfer a0 a1 t) := by
  unfold openTransfer
  repeat' first
    | with_reducible assumption
    | (extract_lets +onlyGivenNames x; first | (refine (fun (hx : Kept s x) => ?_) (?_ : Kept s x); all_goals first | (guard_target =ₐ Kept s x; unfold x; clear x) | clear_value x) | clear_value x)
    | with_reducible refine closeTransfer_k ?_ | with_reducible refine setPath_k ?_ | split

theorem putTransfer_k {s t : State} {a0 : _} {a1 : _} (h : Kept s t) : Kept s (putTransfer a0 a1 t) := by
  unfold putTransfer
  repeat' first
    | with_reducible assumption | (extract_lets +onlyGivenNames x; clear_value x) | with_reducible refine setPath_k ?_
    | split

theorem serveRead_k {s t : State} {a0 : _} {a1 : _} {a2 : _} {a3 : _} {a4 : _} {a5 : _} (h : Kept s t) : Kept s (serveRead a0 a1 a2 a3 a4 a5 t) := by
  unfold serveRead
  repeat' first
    | with_reducible assumption
    | (extract_lets +onlyGivenNames x; first | (refine (fun (hf2 : ∀ a u, Kept s u → Kept s (x a u)) => ?_) (?_ : ∀ a u, Kept s u → Kept s (x a u)); all_goals first | (guard_target =ₐ ∀ a u, Kept s u → Kept s (x a u); unfold x; clear x; intro _ _ _) | clear_value x) | clear_value x)
    | with_reducible refine hf2 _ _ ?_ | with_reducible refine openTransfer_k ?_ | with_reducible refine readValue_k ?_
    | with_reducible refine KeptP.snd (readValue_k ?_) (by assumption) | with_reducible refine respondAbort_k ?_
    | with_reducible refine respond_k ?_ | split

theorem serveWrite_k {s t : State} {a0 : _} {a1 : _} {a2 : _} {a3 : _} {a4 : _} {a5 : _} (h : Kept s t) : Kept s (serveWrite a0 a1 a2 a3 a4 a5 t) := by
  unfold serveWrite
  repeat' first
    | with_reducible assumption
    | (extract_lets +onlyGivenNames x; first | (refine (fun (hf2 : ∀ a u, Kept s u → Kept s (x a u)) => ?_) (?_ : ∀ a u, Kept s u → Kept s (x a u)); all_goals first | (guard_target =ₐ ∀ a u, Kept s u → Kept s (x a u); unfold x; clear x; intro _ _ _) | clear_value x) | clear_value x)
    | with_reducible refine hf2 _ _ ?_ | with_reducible refine writeValue_k ?_
    | with_reducible refine KeptP.snd (writeValue_k ?_) (by assumption) | with_reducible refine respondAbort_k ?_
    | with_reducible refine respond_k ?_ | split

theorem serveInit_k {s t : State} {a0 : _} {a1 : _} {a2 : _} {a3 : _} {a4 : _} (h : Kept s t) : Kept s (serveInit a0 a1 a2 a3 a4 t) := by
  unfold serveInit
  repeat' first
    | with_reducible assumption
    | (extract_lets +onlyGivenNames x; first | (refine (fun (hx : Kept s x) => ?_) (?_ : Kept s x); all_goals first | (guard_target =ₐ Kept s x; unfold x; clear x) | clear_value x) | (refine (fun (hf2 : ∀ a u, Kept s u → Kept s (x a u)) => ?_) (?_ : ∀ a u, Kept s u → Kept s (x a u)); all_goals first | (guard_target =ₐ ∀ a u, Kept s u → Kept s (x a u); unfold x; clear x; intro _ _ _) | clear_value x) | clear_value x)
    | with_reducible refine hf2 _ _ ?_ | with_reducible refine openTransfer_k ?_ | with_reducible refine segRejected_k ?_
    | with_reducible refine beginWrite_k ?_ | with_reducible refine respondAbort_k ?_ | with_reducible refine respond_k ?_
    | split

theorem storeSegment_k {s t : State} {a0 : _} {a1 : _} {a2 : _} (h : Kept s t) : Kept s (storeSegment a0 a1 a2 t) := by
  unfold storeSegment
  repeat' first
    | with_reducible assumption | (extract_lets +onlyGivenNames x; clear_value x)
    | with_reducible refine storeSamples_k ?_ | split

theorem takeSegment_k {s t : State} {a0 : _} {a1 : _} {a2 : _} {a3 : _} (h : Kept s t) : Kept s (takeSegment a0 a1 a2 a3 t).2 := by
  unfold takeSegment
  repeat' first
    | with_reducible assumption
    | (extract_lets +onlyGivenNames x; (refine (fun (hx : Kept s x) => ?_) (?_ : Kept s x); all_goals first | (guard_target =ₐ Kept s x; unfold x; clear x) | clear_value x))
    | with_reducible refine storeSegment_k ?_ | with_reducible refine writeValue_k ?_
    | with_reducible refine KeptP.snd (writeValue_k ?_) (by assumption) | with_reducible refine completeWrite_k ?_ | split
    | with_reducible refine KeptP_mk ?_

theorem serveWriteSeg_k {s t : State} {a0 : _} {a1 : _} {a2 : _} {a3 : _} {a4 : _} {a5 : _} (h : Kept s t) : Kept s (serveWriteSeg a0 a1 a2 a3 a4 a5 t) := by
  unfold serveWriteSeg
  repeat' first
    | with_reducible assumption
    | (extract_lets +onlyGivenNames x; first | (refine (fun (hf1 : ∀ u, Kept s u → Kept s (x u)) => ?_) (?_ : ∀ u, Kept s u → Kept s (x u)); all_goals first | (guard_target =ₐ ∀ u, Kept s u → Kept s (x u); unfold x; clear x; intro _ _) | clear_value x) | (refine (fun (hf2 : ∀ a u, Kept s u → Kept s (x a u)) => ?_) (?_ : ∀ a u, Kept s u → Kept s (x a u)); all_goals first | (guard_target =ₐ ∀ a u, Kept s u → Kept s (x a u); unfold x; clear x; intro _ _ _) | clear_value x) | clear_value x)
    | with_reducible refine hf1 _ ?_ | with_reducible refine hf2 _ _ ?_ | with_reducible refine takeSegment_k ?_
    | with_reducible refine KeptP.snd (takeSegment_k ?_) (by assumption) | with_reducible refine putTransfer_k ?_
    | with_reducible refine closeTransfer_k ?_ | with_reducible refine respondAbort_k ?_
    | with_reducible refine respond_k ?_ | split

theorem windowSegment_k {s t : State} {a0 : _} {a1 : _} {a2 : _} (h : Kept s t) : Kept s (windowSegment a0 a1 a2 t).2 := by
  unfold windowSegment
  repeat' first
    | with_reducible assumption
    | (extract_lets +onlyGivenNames x; first | (refine (fun (hx : Kept s x) => ?_) (?_ : Kept s x); all_goals first | (guard_target =ₐ Kept s x; unfold x; clear x) | clear_value x) | (refine (fun (hx : Kept s x.2) => ?_) (?_ : Kept s x.2); all_goals first | (guard_target =ₐ Kept s x.2; unfold x; clear x) | clear_value x) | clear_value x)
    | with_reducible refine dramRead_k ?_ | with_reducible refine KeptP.snd (dramRead_k ?_) (by assumption)
    | with_reducible refine dropHeld_k ?_ | with_reducible refine setHeld_k ?_ | split | with_reducible refine KeptP_mk ?_

theorem nextSegment_k {s t : State} {a0 : _} {a1 : _} {a2 : _} (h : Kept s t) : Kept s (nextSegment a0 a1 a2 t).2 := by
  unfold nextSegment
  repeat' first
    | with_reducible assumption | with_reducible refine windowSegment_k ?_
    | with_reducible refine KeptP.snd (windowSegment_k ?_) (by assumption) | split | with_reducible refine KeptP_mk ?_

theorem serveReadSeg_k {s t : State} {a0 : _} {a1 : _} {a2 : _} {a3 : _} {a4 : _} (h : Kept s t) : Kept s (serveReadSeg a0 a1 a2 a3 a4 t) := by
  unfold serveReadSeg
  repeat' first
    | with_reducible assumption
    | (extract_lets +onlyGivenNames x; first | (refine (fun (hf2 : ∀ a u, Kept s u → Kept s (x a u)) => ?_) (?_ : ∀ a u, Kept s u → Kept s (x a u)); all_goals first | (guard_target =ₐ ∀ a u, Kept s u → Kept s (x a u); unfold x; clear x; intro _ _ _) | clear_value x) | clear_value x)
    | with_reducible refine hf2 _ _ ?_ | with_reducible refine nextSegment_k ?_
    | with_reducible refine KeptP.snd (nextSegment_k ?_) (by assumption) | with_reducible refine putTransfer_k ?_
    | with_reducible refine closeTransfer_k ?_ | with_reducible refine respondAbort_k ?_
    | with_reducible refine respond_k ?_ | split

theorem serveSequel_k {s t : State} {a0 : _} {a1 : _} {a2 : _} {a3 : _} {a4 : _} {a5 : _} {a6 : _} {a7 : _} {a8 : _} (h : Kept s t) : Kept s (serveSequel a0 a1 a2 a3 a4 a5 a6 a7 a8 t) := by
  unfold serveSequel
  repeat' first
    | with_reducible assumption | (extract_lets +onlyGivenNames x; clear_value x)
    | with_reducible refine serveReadSeg_k ?_ | with_reducible refine serveWriteSeg_k ?_
    | with_reducible refine closeTransfer_k ?_ | with_reducible refine respondAbort_k ?_
    | with_reducible refine respond_k ?_ | with_reducible refine setPath_k ?_ | split

theorem turn_k {s t : State} {a0 : _} (h : Kept s t) : Kept s (turn a0 t) := by
  unfold turn
  repeat' first
    | with_reducible assumption | (with_reducible refine Kept_mk (by with_reducible assumption) ?_; rfl) | split

theorem serveFrame_k {s t : State} {a0 : _} {a1 : _} {a2 : _} (h : Kept s t) : Kept s (serveFrame a0 a1 a2 t) := by
  unfold serveFrame
  repeat' first
    | with_reducible assumption
    | (extract_lets +onlyGivenNames x; first | (refine (fun (hx : Kept s x) => ?_) (?_ : Kept s x); all_goals first | (guard_target =ₐ Kept s x; unfold x; clear x) | clear_value x) | clear_value x)
    | with_reducible refine turn_k ?_ | with_reducible refine serveSequel_k ?_ | with_reducible refine serveInit_k ?_
    | with_reducible refine serveWrite_k ?_ | with_reducible refine serveRead_k ?_
    | with_reducible refine respondAbort_k ?_ | split

theorem takeRequest_k {s t : State} {a0 : _} (h : Kept s t) : Kept s (takeRequest a0 t) := by
  unfold takeRequest
  repeat' first
    | with_reducible assumption | (with_reducible refine Kept_mk (by with_reducible assumption) ?_; rfl)
    | (extract_lets +onlyGivenNames x; clear_value x) | with_reducible refine readWhole_k ?_
    | with_reducible refine KeptP.snd (readWhole_k ?_) (by assumption) | split

theorem serveNext_k {s t : State} {a0 : _} {a1 : _} (h : Kept s t) : KeptO s (serveNext a0 a1 t) := by
  unfold serveNext
  repeat' first
    | with_reducible assumption | with_reducible refine takeRequest_k ?_ | with_reducible refine serveFrame_k ?_ | split
    | with_reducible refine KeptO_next ?_

theorem execYdpRead_k {s t : State} {a0 : _} (h : Kept s t) : KeptO s (execYdpRead a0 t) := by
  unfold execYdpRead
  repeat' first
    | with_reducible assumption | with_reducible refine serveNext_k ?_ | split | with_reducible refine KeptO_next ?_

theorem execYdpWrite_k {s t : State} {a0 : _} (h : Kept s t) : KeptO s (execYdpWrite a0 t) := by
  unfold execYdpWrite
  repeat' first
    | with_reducible assumption | with_reducible refine serveNext_k ?_ | split | with_reducible refine KeptO_next ?_

theorem execWriteInit_k {s t : State} {a0 : _} (h : Kept s t) : KeptO s (execWriteInit a0 t) := by
  unfold execWriteInit
  repeat' first
    | with_reducible assumption | with_reducible refine serveNext_k ?_ | split | with_reducible refine KeptO_next ?_

theorem execWriteSeg_k {s t : State} {a0 : _} (h : Kept s t) : KeptO s (execWriteSeg a0 t) := by
  unfold execWriteSeg
  repeat' first
    | with_reducible assumption | with_reducible refine serveNext_k ?_ | split | with_reducible refine KeptO_next ?_

theorem execReadSeg_k {s t : State} {a0 : _} (h : Kept s t) : KeptO s (execReadSeg a0 t) := by
  unfold execReadSeg
  repeat' first
    | with_reducible assumption | with_reducible refine serveNext_k ?_ | split | with_reducible refine KeptO_next ?_

theorem execYdpAbort_k {s t : State} {a0 : _} (h : Kept s t) : KeptO s (execYdpAbort a0 t) := by
  unfold execYdpAbort
  repeat' first
    | with_reducible assumption | with_reducible refine serveNext_k ?_ | split | with_reducible refine KeptO_next ?_

theorem execSegmentTimeout_k {s t : State} {a0 : _} (h : Kept s t) : KeptO s (execSegmentTimeout a0 t) := by
  unfold execSegmentTimeout
  repeat' first
    | with_reducible assumption
    | (extract_lets +onlyGivenNames x; first | (refine (fun (hx : Kept s x) => ?_) (?_ : Kept s x); all_goals first | (guard_target =ₐ Kept s x; unfold x; clear x) | clear_value x) | clear_value x)
    | with_reducible refine closeTransfer_k ?_ | with_reducible refine setPath_k ?_ | with_reducible refine inc_k ?_
    | split | with_reducible refine KeptO_next ?_

theorem bufferCan_k {s t : State} {a0 : _} (h : Kept s t) : Kept s (bufferCan a0 t) := by
  unfold bufferCan
  repeat' first
    | with_reducible assumption | (with_reducible refine Kept_mk (by with_reducible assumption) ?_; rfl)
    | (extract_lets +onlyGivenNames x; clear_value x) | with_reducible refine inc_k ?_ | split

theorem enqueue_k {s t : State} {a0 : _} {a1 : _} (h : Kept s t) : Kept s (enqueue a0 a1 t) := by
  unfold enqueue
  repeat' first
    | with_reducible assumption | (extract_lets +onlyGivenNames x; clear_value x) | with_reducible refine bufferCan_k ?_
    | with_reducible refine acceptMgt_k ?_ | with_reducible refine vcset_k ?_ | split

theorem arrived_k {s t : State} {a0 : _} {a1 : _} (h : Kept s t) : Kept s (arrived a0 a1 t) := by
  unfold arrived
  repeat' first
    | with_reducible assumption | with_reducible refine enqueue_k ?_ | with_reducible refine takeRequest_k ?_ | split

theorem serveNow_k {s t : State} {a0 : _} {a1 : _} {a2 : _} (h : Kept s t) : Kept s (serveNow a0 a1 a2 t) := by
  unfold serveNow
  repeat' first
    | with_reducible assumption | with_reducible refine arrived_k ?_ | with_reducible refine enqueue_k ?_
    | with_reducible refine serveFrame_k ?_ | split

theorem hostFrame_k {s t : State} {a0 : _} {a1 : _} {a2 : _} (h : Kept s t) : Kept s (hostFrame a0 a1 a2 t) := by
  unfold hostFrame
  repeat' first
    | with_reducible assumption | with_reducible refine serveNow_k ?_ | with_reducible refine enqueue_k ?_ | split

theorem sendSegments_k {s t : State} {a0 : _} {a1 : _} {a2 : _} {a3 : _} {a4 : _} {a5 : _} {a6 : _} {a7 : _} (h : Kept s t) : Kept s (sendSegments a0 a1 a2 a3 a4 a5 a6 a7 t) := by
  induction a5 generalizing t a6 a7 with
  | zero =>
    unfold sendSegments
    repeat' first
      | with_reducible assumption | (extract_lets +onlyGivenNames x; clear_value x) | with_reducible refine hostFrame_k ?_
      | with_reducible refine serveNow_k ?_ | split
  | succ n ih =>
    unfold sendSegments
    repeat' first
      | with_reducible assumption | (extract_lets +onlyGivenNames x; clear_value x) | with_reducible refine hostFrame_k ?_
      | with_reducible refine serveNow_k ?_ | with_reducible refine ih ?_ | split

theorem hostWrite_k {s t : State} {a0 : _} {a1 : _} {a2 : _} {a3 : _} {a4 : _} {a5 : _} (h : Kept s t) : KeptO s (hostWrite a0 a1 a2 a3 a4 t a5) := by
  unfold hostWrite
  repeat' first
    | with_reducible assumption | (extract_lets +onlyGivenNames x; clear_value x)
    | with_reducible refine sendSegments_k ?_ | with_reducible refine hostFrame_k ?_ | with_reducible refine serveNow_k ?_
    | with_reducible refine enqueue_k ?_ | split | with_reducible refine KeptO_next ?_

theorem hostRead_k {s t : State} {a0 : _} {a1 : _} {a2 : _} {a3 : _} {a4 : _} (h : Kept s t) : KeptO s (hostRead a0 a1 a2 a3 t a4) := by
  unfold hostRead
  repeat' first
    | with_reducible assumption | with_reducible refine hostFrame_k ?_ | split | with_reducible refine KeptO_next ?_

theorem execCanFrameReceive_k {s t : State} {a0 : _} {a1 : _} {a2 : _} {a3 : _} (h : Kept s t) : KeptO s (execCanFrameReceive a0 a1 a2 a3 t) := by
  unfold execCanFrameReceive
  repeat' first
    | with_reducible assumption | with_reducible refine bufferCan_k ?_ | with_reducible refine inc_k ?_ | split
    | with_reducible refine KeptO_next ?_

theorem execCanBusError_k {s t : State} {a0 : _} {a1 : _} (h : Kept s t) : KeptO s (execCanBusError a0 a1 t) := by
  unfold execCanBusError
  repeat' first
    | with_reducible assumption
    | (extract_lets +onlyGivenNames x; (refine (fun (hx : Kept s x) => ?_) (?_ : Kept s x); all_goals first | (guard_target =ₐ Kept s x; unfold x; clear x) | clear_value x))
    | with_reducible refine inc_k ?_ | with_reducible refine wr_k ?_ | split | with_reducible refine KeptO_next ?_

theorem execBusOffRecovery_k {s t : State} (h : Kept s t) : KeptO s (execBusOffRecovery t) := by
  unfold execBusOffRecovery
  repeat' first
    | with_reducible assumption | with_reducible refine wr_k ?_ | split | with_reducible refine KeptO_next ?_

theorem restartMge_k {s t : State} (h : Kept s t) : Kept s (restartMge t) := by
  unfold restartMge
  repeat' first
    | with_reducible assumption | (with_reducible refine Kept_mk (by with_reducible assumption) ?_; rfl)
    | (extract_lets +onlyGivenNames x; first | (refine (fun (hx : Kept s x) => ?_) (?_ : Kept s x); all_goals first | (guard_target =ₐ Kept s x; unfold x; clear x) | clear_value x) | clear_value x)
    | with_reducible refine takeRequest_k ?_ | with_reducible refine turn_k ?_ | with_reducible refine closeTransfer_k ?_
    | with_reducible refine respondAbort_k ?_ | split

theorem keystoneFault_k {s t : State} {a0 : _} {a1 : _} (h : Kept s t) : Kept s (keystoneFault a0 a1 t) := by
  unfold keystoneFault
  repeat' first
    | with_reducible assumption
    | (extract_lets +onlyGivenNames x; first | (refine (fun (hx : Kept s x) => ?_) (?_ : Kept s x); all_goals first | (guard_target =ₐ Kept s x; unfold x; clear x) | clear_value x) | clear_value x)
    | with_reducible refine restartMge_k ?_ | with_reducible refine restartVre_k ?_
    | with_reducible refine restartDte_k ?_ | with_reducible refine restartSte1_k ?_
    | with_reducible refine restartSte0_k ?_ | with_reducible refine dropPatch_k ?_ | with_reducible refine logFault_k ?_
    | with_reducible refine eset_k ?_ | with_reducible refine inc_k ?_ | split

theorem execEngineRestart_k {s t : State} {a0 : _} {a1 : _} (h : Kept s t) : KeptO s (execEngineRestart a0 a1 t) := by
  unfold execEngineRestart
  repeat' first
    | with_reducible assumption | with_reducible refine keystoneFault_k ?_ | split | with_reducible refine KeptO_next ?_

theorem keystoneStep_k {s t : State} {a0 : _} (h : Kept s t) : Kept s (keystoneStep a0 t) := by
  unfold keystoneStep
  repeat' first
    | with_reducible assumption
    | (extract_lets +onlyGivenNames x; (refine (fun (hx : Kept s x.2) => ?_) (?_ : Kept s x.2); all_goals first | (guard_target =ₐ Kept s x.2; unfold x; clear x) | clear_value x))
    | with_reducible refine keystoneFault_k ?_ | with_reducible refine KeptM.some (keystoneWord_k ?_) (by assumption)
    | with_reducible refine fresh_k ?_ | with_reducible refine KeptP.snd (fresh_k ?_) (by assumption) | split

theorem keystoneGrain_k {s t : State} (h : Kept s t) : Kept s (keystoneGrain t) := by
  unfold keystoneGrain
  repeat' first
    | with_reducible assumption | with_reducible refine keystoneStep_k ?_ | split

/-! ### Tick -/

theorem haltGrain_k {s t : State} (h : Kept s t) : Kept s (haltGrain t) := by
  unfold haltGrain
  repeat' first
    | with_reducible assumption | with_reducible refine inc_k ?_ | (with_reducible refine Kept_foldl ?_ ?_; intro _ _ _)
    | split

theorem settleHalts_k {s t : State} (h : Kept s t) : Kept s (settleHalts t) := by
  unfold settleHalts
  repeat' first
    | with_reducible assumption | with_reducible refine lowerHalts_k ?_
    | (with_reducible refine Kept_foldl ?_ ?_; intro _ _ _) | split

theorem panicGrain_k {s t : State} (h : Kept s t) : Kept s (panicGrain t) := by
  unfold panicGrain
  repeat' first
    | with_reducible assumption
    | (extract_lets +onlyGivenNames x; (refine (fun (hx : Kept s x) => ?_) (?_ : Kept s x); all_goals first | (guard_target =ₐ Kept s x; unfold x; clear x) | clear_value x))
    | with_reducible refine settlePanic_k ?_ | with_reducible refine incTo_k ?_
    | (with_reducible refine Kept_foldl ?_ ?_; intro _ _ _) | split

theorem edgeGrain_k {s t : State} (h : Kept s t) : Kept s (edgeGrain t) := by
  unfold edgeGrain
  repeat' first
    | with_reducible assumption | with_reducible refine pruneAcq_k ?_ | with_reducible refine pruneTones_k ?_
    | with_reducible refine toneGrain_k ?_ | with_reducible refine fluxGrain_k ?_ | split

theorem advance_k {s t : State} (h : Kept s t) : Kept s (advance t) := by
  unfold advance
  repeat' first
    | with_reducible assumption | (with_reducible refine Kept_mk (by with_reducible assumption) ?_; rfl)
    | (extract_lets +onlyGivenNames x; (refine (fun (hx : Kept s x) => ?_) (?_ : Kept s x); all_goals first | (guard_target =ₐ Kept s x; unfold x; clear x) | clear_value x))
    | with_reducible refine anchorNow_k ?_ | with_reducible refine ptpTick_k ?_ | with_reducible refine flag_k ?_ | split

theorem tick_k {s t : State} (h : Kept s t) : Kept s (tick t) := by
  unfold tick
  repeat' first
    | with_reducible assumption | (with_reducible refine Kept_mk (by with_reducible assumption) ?_; rfl)
    | with_reducible refine advance_k ?_ | with_reducible refine edgeGrain_k ?_ | with_reducible refine panicGrain_k ?_
    | with_reducible refine settleHalts_k ?_ | with_reducible refine haltGrain_k ?_
    | with_reducible refine keystoneGrain_k ?_ | with_reducible refine settleVidf_k ?_ | split

/-! ### HostWrites -/

theorem execPkgReset_k {s t : State} {a0 : _} {a1 : _} {a2 : _} (h : Kept s t) : KeptO s (execPkgReset a0 a1 a2 t) := by
  unfold execPkgReset
  repeat' first
    | with_reducible assumption | with_reducible refine hostWrite_k ?_ | split | with_reducible refine KeptO_next ?_

theorem execClkMgmtSel_k {s t : State} {a0 : _} {a1 : _} {a2 : _} (h : Kept s t) : KeptO s (execClkMgmtSel a0 a1 a2 t) := by
  unfold execClkMgmtSel
  repeat' first
    | with_reducible assumption | with_reducible refine hostWrite_k ?_ | split | with_reducible refine KeptO_next ?_

theorem execFmcStart_k {s t : State} {a0 : _} {a1 : _} {a2 : _} (h : Kept s t) : KeptO s (execFmcStart a0 a1 a2 t) := by
  unfold execFmcStart
  repeat' first
    | with_reducible assumption | with_reducible refine hostWrite_k ?_ | split | with_reducible refine KeptO_next ?_

theorem execClkGate_k {s t : State} {a0 : _} {a1 : _} {a2 : _} {a3 : _} (h : Kept s t) : KeptO s (execClkGate a0 a1 a2 a3 t) := by
  unfold execClkGate
  repeat' first
    | with_reducible assumption | with_reducible refine hostWrite_k ?_ | split | with_reducible refine KeptO_next ?_

theorem execSyncArm_k {s t : State} {a0 : _} {a1 : _} (h : Kept s t) : KeptO s (execSyncArm a0 a1 t) := by
  unfold execSyncArm
  repeat' first
    | with_reducible assumption | with_reducible refine hostWrite_k ?_ | split | with_reducible refine KeptO_next ?_

theorem execSyncFire_k {s t : State} {a0 : _} {a1 : _} (h : Kept s t) : KeptO s (execSyncFire a0 a1 t) := by
  unfold execSyncFire
  repeat' first
    | with_reducible assumption | with_reducible refine hostWrite_k ?_ | split | with_reducible refine KeptO_next ?_

theorem execSyncDisarm_k {s t : State} {a0 : _} {a1 : _} (h : Kept s t) : KeptO s (execSyncDisarm a0 a1 t) := by
  unfold execSyncDisarm
  repeat' first
    | with_reducible assumption | with_reducible refine hostWrite_k ?_ | split | with_reducible refine KeptO_next ?_

theorem execRelock_k {s t : State} {a0 : _} {a1 : _} (h : Kept s t) : KeptO s (execRelock a0 a1 t) := by
  unfold execRelock
  repeat' first
    | with_reducible assumption | with_reducible refine hostWrite_k ?_ | split | with_reducible refine KeptO_next ?_

theorem execLoad_k {s t : State} {a0 : _} {a1 : _} (h : Kept s t) : KeptO s (execLoad a0 a1 t) := by
  unfold execLoad
  repeat' first
    | with_reducible assumption | with_reducible refine hostWrite_k ?_ | split | with_reducible refine KeptO_next ?_

theorem execUnload_k {s t : State} {a0 : _} {a1 : _} (h : Kept s t) : KeptO s (execUnload a0 a1 t) := by
  unfold execUnload
  repeat' first
    | with_reducible assumption | with_reducible refine hostWrite_k ?_ | split | with_reducible refine KeptO_next ?_

theorem execStart_k {s t : State} {a0 : _} {a1 : _} (h : Kept s t) : KeptO s (execStart a0 a1 t) := by
  unfold execStart
  repeat' first
    | with_reducible assumption | with_reducible refine hostWrite_k ?_ | split | with_reducible refine KeptO_next ?_

theorem execStop_k {s t : State} {a0 : _} {a1 : _} (h : Kept s t) : KeptO s (execStop a0 a1 t) := by
  unfold execStop
  repeat' first
    | with_reducible assumption | with_reducible refine hostWrite_k ?_ | split | with_reducible refine KeptO_next ?_

theorem execAbort_k {s t : State} {a0 : _} {a1 : _} (h : Kept s t) : KeptO s (execAbort a0 a1 t) := by
  unfold execAbort
  repeat' first
    | with_reducible assumption | with_reducible refine hostWrite_k ?_ | split | with_reducible refine KeptO_next ?_

theorem execStreamClose_k {s t : State} {a0 : _} {a1 : _} (h : Kept s t) : KeptO s (execStreamClose a0 a1 t) := by
  unfold execStreamClose
  repeat' first
    | with_reducible assumption | with_reducible refine hostWrite_k ?_ | split | with_reducible refine KeptO_next ?_

theorem execOpenStream_k {s t : State} {a0 : _} {a1 : _} (h : Kept s t) : KeptO s (execOpenStream a0 a1 t) := by
  unfold execOpenStream
  repeat' first
    | with_reducible assumption | with_reducible refine hostWrite_k ?_ | split | with_reducible refine KeptO_next ?_

theorem execOpenQueue_k {s t : State} {a0 : _} {a1 : _} (h : Kept s t) : KeptO s (execOpenQueue a0 a1 t) := by
  unfold execOpenQueue
  repeat' first
    | with_reducible assumption | with_reducible refine hostWrite_k ?_ | split | with_reducible refine KeptO_next ?_

theorem execTrgArm_k {s t : State} {a0 : _} {a1 : _} (h : Kept s t) : KeptO s (execTrgArm a0 a1 t) := by
  unfold execTrgArm
  repeat' first
    | with_reducible assumption | with_reducible refine hostWrite_k ?_ | split | with_reducible refine KeptO_next ?_

theorem execTrgDisarm_k {s t : State} {a0 : _} {a1 : _} (h : Kept s t) : KeptO s (execTrgDisarm a0 a1 t) := by
  unfold execTrgDisarm
  repeat' first
    | with_reducible assumption | with_reducible refine hostWrite_k ?_ | split | with_reducible refine KeptO_next ?_

theorem execRgnProfileReq_k {s t : State} {a0 : _} {a1 : _} {a2 : _} {a3 : _} (h : Kept s t) : KeptO s (execRgnProfileReq a0 a1 a2 a3 t) := by
  unfold execRgnProfileReq
  repeat' first
    | with_reducible assumption | with_reducible refine hostWrite_k ?_ | split | with_reducible refine KeptO_next ?_

theorem execPkgProfileReq_k {s t : State} {a0 : _} {a1 : _} {a2 : _} (h : Kept s t) : KeptO s (execPkgProfileReq a0 a1 a2 t) := by
  unfold execPkgProfileReq
  repeat' first
    | with_reducible assumption | with_reducible refine hostWrite_k ?_ | split | with_reducible refine KeptO_next ?_

theorem execRgnKrnLayout_k {s t : State} {a0 : _} {a1 : _} {a2 : _} {a3 : _} (h : Kept s t) : KeptO s (execRgnKrnLayout a0 a1 a2 a3 t) := by
  unfold execRgnKrnLayout
  repeat' first
    | with_reducible assumption | with_reducible refine hostWrite_k ?_ | split | with_reducible refine KeptO_next ?_

theorem execQuePush_k {s t : State} {a0 : _} {a1 : _} {a2 : _} (h : Kept s t) : KeptO s (execQuePush a0 a1 a2 t) := by
  unfold execQuePush
  repeat' first
    | with_reducible assumption | with_reducible refine hostWrite_k ?_ | split | with_reducible refine KeptO_next ?_

theorem execQuePop_k {s t : State} {a0 : _} {a1 : _} (h : Kept s t) : KeptO s (execQuePop a0 a1 t) := by
  unfold execQuePop
  repeat' first
    | with_reducible assumption | with_reducible refine hostRead_k ?_ | split | with_reducible refine KeptO_next ?_

theorem execQuePkt_k {s t : State} {a0 : _} {a1 : _} (h : Kept s t) : KeptO s (execQuePkt a0 a1 t) := by
  unfold execQuePkt
  repeat' first
    | with_reducible assumption | with_reducible refine hostRead_k ?_ | split | with_reducible refine KeptO_next ?_

theorem execQueCmdFlush_k {s t : State} {a0 : _} {a1 : _} (h : Kept s t) : KeptO s (execQueCmdFlush a0 a1 t) := by
  unfold execQueCmdFlush
  repeat' first
    | with_reducible assumption | with_reducible refine hostWrite_k ?_ | split | with_reducible refine KeptO_next ?_

theorem execQueCmdDrop_k {s t : State} {a0 : _} {a1 : _} (h : Kept s t) : KeptO s (execQueCmdDrop a0 a1 t) := by
  unfold execQueCmdDrop
  repeat' first
    | with_reducible assumption | with_reducible refine hostWrite_k ?_ | split | with_reducible refine KeptO_next ?_

theorem execEvtChProd_k {s t : State} {a0 : _} {a1 : _} {a2 : _} {a3 : _} (h : Kept s t) : KeptO s (execEvtChProd a0 a1 a2 a3 t) := by
  unfold execEvtChProd
  repeat' first
    | with_reducible assumption | with_reducible refine hostWrite_k ?_ | split | with_reducible refine KeptO_next ?_

theorem execTimRun_k {s t : State} {a0 : _} {a1 : _} {a2 : _} (h : Kept s t) : KeptO s (execTimRun a0 a1 a2 t) := by
  unfold execTimRun
  repeat' first
    | with_reducible assumption | with_reducible refine hostWrite_k ?_ | split | with_reducible refine KeptO_next ?_

theorem execTimStop_k {s t : State} {a0 : _} {a1 : _} {a2 : _} (h : Kept s t) : KeptO s (execTimStop a0 a1 a2 t) := by
  unfold execTimStop
  repeat' first
    | with_reducible assumption | with_reducible refine hostWrite_k ?_ | split | with_reducible refine KeptO_next ?_

theorem execMcsPatch_k {s t : State} {a0 : _} {a1 : _} {a2 : _} (h : Kept s t) : KeptO s (execMcsPatch a0 a1 a2 t) := by
  unfold execMcsPatch
  repeat' first
    | with_reducible assumption | with_reducible refine hostWrite_k ?_ | split | with_reducible refine KeptO_next ?_

theorem execMcsBootPatch_k {s t : State} {a0 : _} {a1 : _} {a2 : _} {a3 : _} (h : Kept s t) : KeptO s (execMcsBootPatch a0 a1 a2 a3 t) := by
  unfold execMcsBootPatch
  repeat' first
    | with_reducible assumption | with_reducible refine hostWrite_k ?_ | split | with_reducible refine KeptO_next ?_

theorem execCluSegDesc_k {s t : State} {a0 : _} {a1 : _} {a2 : _} {a3 : _} (h : Kept s t) : KeptO s (execCluSegDesc a0 a1 a2 a3 t) := by
  unfold execCluSegDesc
  repeat' first
    | with_reducible assumption | with_reducible refine hostWrite_k ?_ | split | with_reducible refine KeptO_next ?_

theorem execCluSegData_k {s t : State} {a0 : _} {a1 : _} {a2 : _} {a3 : _} (h : Kept s t) : KeptO s (execCluSegData a0 a1 a2 a3 t) := by
  unfold execCluSegData
  repeat' first
    | with_reducible assumption | with_reducible refine hostWrite_k ?_ | split | with_reducible refine KeptO_next ?_

theorem execDrvMute_k {s t : State} {a0 : _} {a1 : _} {a2 : _} {a3 : _} {a4 : _} (h : Kept s t) : KeptO s (execDrvMute a0 a1 a2 a3 a4 t) := by
  unfold execDrvMute
  repeat' first
    | with_reducible assumption | with_reducible refine hostWrite_k ?_ | split | with_reducible refine KeptO_next ?_

theorem execDrvXtap_k {s t : State} {a0 : _} {a1 : _} {a2 : _} {a3 : _} {a4 : _} (h : Kept s t) : KeptO s (execDrvXtap a0 a1 a2 a3 a4 t) := by
  unfold execDrvXtap
  repeat' first
    | with_reducible assumption | with_reducible refine hostWrite_k ?_ | split | with_reducible refine KeptO_next ?_

theorem execFlxCoefWrite_k {s t : State} {a0 : _} {a1 : _} {a2 : _} {a3 : _} {a4 : _} (h : Kept s t) : KeptO s (execFlxCoefWrite a0 a1 a2 a3 a4 t) := by
  unfold execFlxCoefWrite
  repeat' first
    | with_reducible assumption | with_reducible refine hostWrite_k ?_ | split | with_reducible refine KeptO_next ?_

theorem execFlxSet_k {s t : State} {a0 : _} {a1 : _} {a2 : _} {a3 : _} (h : Kept s t) : KeptO s (execFlxSet a0 a1 a2 a3 t) := by
  unfold execFlxSet
  repeat' first
    | with_reducible assumption | with_reducible refine hostWrite_k ?_ | split | with_reducible refine KeptO_next ?_

theorem execBiaSet_k {s t : State} {a0 : _} {a1 : _} {a2 : _} {a3 : _} (h : Kept s t) : KeptO s (execBiaSet a0 a1 a2 a3 t) := by
  unfold execBiaSet
  repeat' first
    | with_reducible assumption | with_reducible refine hostWrite_k ?_ | split | with_reducible refine KeptO_next ?_

theorem execBiaSense_k {s t : State} {a0 : _} {a1 : _} {a2 : _} {a3 : _} (h : Kept s t) : KeptO s (execBiaSense a0 a1 a2 a3 t) := by
  unfold execBiaSense
  repeat' first
    | with_reducible assumption | with_reducible refine hostWrite_k ?_ | split | with_reducible refine KeptO_next ?_

theorem execCluKrnData_k {s t : State} {a0 : _} {a1 : _} {a2 : _} {a3 : _} (h : Kept s t) : KeptO s (execCluKrnData a0 a1 a2 a3 t) := by
  unfold execCluKrnData
  repeat' first
    | with_reducible assumption | with_reducible refine hostWrite_k ?_ | split | with_reducible refine KeptO_next ?_

theorem execCluDiscData_k {s t : State} {a0 : _} {a1 : _} {a2 : _} {a3 : _} (h : Kept s t) : KeptO s (execCluDiscData a0 a1 a2 a3 t) := by
  unfold execCluDiscData
  repeat' first
    | with_reducible assumption | with_reducible refine hostWrite_k ?_ | split | with_reducible refine KeptO_next ?_

theorem execDrmRate_k {s t : State} {a0 : _} {a1 : _} {a2 : _} (h : Kept s t) : KeptO s (execDrmRate a0 a1 a2 t) := by
  unfold execDrmRate
  repeat' first
    | with_reducible assumption | with_reducible refine hostWrite_k ?_ | split | with_reducible refine KeptO_next ?_

theorem execDrmMap_k {s t : State} {a0 : _} {a1 : _} {a2 : _} (h : Kept s t) : KeptO s (execDrmMap a0 a1 a2 t) := by
  unfold execDrmMap
  repeat' first
    | with_reducible assumption | with_reducible refine hostWrite_k ?_ | split | with_reducible refine KeptO_next ?_

theorem execDrmChtab_k {s t : State} {a0 : _} {a1 : _} {a2 : _} (h : Kept s t) : KeptO s (execDrmChtab a0 a1 a2 t) := by
  unfold execDrmChtab
  repeat' first
    | with_reducible assumption | with_reducible refine hostWrite_k ?_ | split | with_reducible refine KeptO_next ?_

theorem execDrmBistStart_k {s t : State} {a0 : _} {a1 : _} {a2 : _} (h : Kept s t) : KeptO s (execDrmBistStart a0 a1 a2 t) := by
  unfold execDrmBistStart
  repeat' first
    | with_reducible assumption | with_reducible refine hostWrite_k ?_ | split | with_reducible refine KeptO_next ?_

theorem execDrmWinRead_k {s t : State} {a0 : _} {a1 : _} {a2 : _} (h : Kept s t) : KeptO s (execDrmWinRead a0 a1 a2 t) := by
  unfold execDrmWinRead
  repeat' first
    | with_reducible assumption | with_reducible refine hostRead_k ?_ | split | with_reducible refine KeptO_next ?_

theorem execDrmWinWrite_k {s t : State} {a0 : _} {a1 : _} {a2 : _} (h : Kept s t) : KeptO s (execDrmWinWrite a0 a1 a2 t) := by
  unfold execDrmWinWrite
  repeat' first
    | with_reducible assumption | with_reducible refine hostWrite_k ?_ | split | with_reducible refine KeptO_next ?_

theorem execLnkHlRetrain_k {s t : State} {a0 : _} {a1 : _} {a2 : _} (h : Kept s t) : KeptO s (execLnkHlRetrain a0 a1 a2 t) := by
  unfold execLnkHlRetrain
  repeat' first
    | with_reducible assumption | with_reducible refine hostWrite_k ?_ | split | with_reducible refine KeptO_next ?_

theorem execLnkVpEnable_k {s t : State} {a0 : _} {a1 : _} {a2 : _} (h : Kept s t) : KeptO s (execLnkVpEnable a0 a1 a2 t) := by
  unfold execLnkVpEnable
  repeat' first
    | with_reducible assumption | with_reducible refine hostWrite_k ?_ | split | with_reducible refine KeptO_next ?_

theorem execRegisterWrite_k {s t : State} {a0 : _} {a1 : _} {a2 : _} {a3 : _} {a4 : _} (h : Kept s t) : KeptO s (execRegisterWrite a0 a1 a2 a3 a4 t) := by
  unfold execRegisterWrite
  repeat' first
    | with_reducible assumption | with_reducible refine hostWrite_k ?_ | split | with_reducible refine KeptO_next ?_

theorem execCommit_k {s t : State} {a0 : _} {a1 : _} (h : Kept s t) : KeptO s (execCommit a0 a1 t) := by
  unfold execCommit
  repeat' first
    | with_reducible assumption | with_reducible refine hostWrite_k ?_ | split | with_reducible refine KeptO_next ?_

theorem execMonSeqStart_k {s t : State} {a0 : _} {a1 : _} (h : Kept s t) : KeptO s (execMonSeqStart a0 a1 t) := by
  unfold execMonSeqStart
  repeat' first
    | with_reducible assumption | with_reducible refine hostWrite_k ?_ | split | with_reducible refine KeptO_next ?_

theorem execMonSeqStop_k {s t : State} {a0 : _} {a1 : _} (h : Kept s t) : KeptO s (execMonSeqStop a0 a1 t) := by
  unfold execMonSeqStop
  repeat' first
    | with_reducible assumption | with_reducible refine hostWrite_k ?_ | split | with_reducible refine KeptO_next ?_

theorem execMonInj_k {s t : State} {a0 : _} {a1 : _} {a2 : _} (h : Kept s t) : KeptO s (execMonInj a0 a1 a2 t) := by
  unfold execMonInj
  repeat' first
    | with_reducible assumption | with_reducible refine hostWrite_k ?_ | split | with_reducible refine KeptO_next ?_

theorem execMonCalStart_k {s t : State} {a0 : _} {a1 : _} (h : Kept s t) : KeptO s (execMonCalStart a0 a1 t) := by
  unfold execMonCalStart
  repeat' first
    | with_reducible assumption | with_reducible refine hostWrite_k ?_ | split | with_reducible refine KeptO_next ?_

theorem execThmForceClr_k {s t : State} {a0 : _} {a1 : _} {a2 : _} (h : Kept s t) : KeptO s (execThmForceClr a0 a1 a2 t) := by
  unfold execThmForceClr
  repeat' first
    | with_reducible assumption | with_reducible refine hostWrite_k ?_ | split | with_reducible refine KeptO_next ?_

theorem execResume_k {s t : State} {a0 : _} {a1 : _} (h : Kept s t) : KeptO s (execResume a0 a1 t) := by
  unfold execResume
  repeat' first
    | with_reducible assumption | with_reducible refine hostWrite_k ?_ | split | with_reducible refine KeptO_next ?_

theorem execLcsReq_k {s t : State} {a0 : _} {a1 : _} {a2 : _} (h : Kept s t) : KeptO s (execLcsReq a0 a1 a2 t) := by
  unfold execLcsReq
  repeat' first
    | with_reducible assumption | with_reducible refine hostWrite_k ?_ | split | with_reducible refine KeptO_next ?_

theorem execLcsConfirm_k {s t : State} {a0 : _} {a1 : _} {a2 : _} (h : Kept s t) : KeptO s (execLcsConfirm a0 a1 a2 t) := by
  unfold execLcsConfirm
  repeat' first
    | with_reducible assumption | with_reducible refine hostWrite_k ?_ | split | with_reducible refine KeptO_next ?_

/-! ### Schedule -/

theorem schedRow_k {s t : State} {op : Nat} {e : EngNo} {b : Bool} {f : List QWord → State → State} (h : Kept s t)
    (hf : ∀ qs, Kept s (f qs t)) : KeptO s (schedRow op e b f t) := by
  unfold schedRow
  refine KeptO_next ?_
  split
  · exact microRun_k (schedFrame_k h hf)
  · exact schedFrame_k h hf

theorem execSchedNop_k {s t : State} {a0 : _} {a1 : _} (h : Kept s t) : KeptO s (execSchedNop a0 a1 t) := by
  unfold execSchedNop
  repeat' first
    | with_reducible assumption | with_reducible refine schedRow_k ?_ (fun _ => ?_)
    | with_reducible refine afterPacket_k ?_ | with_reducible refine consume_k ?_ | with_reducible refine execOpcode_k ?_
    | split | with_reducible refine KeptO_next ?_

theorem execSchedPlay_k {s t : State} {a0 : _} {a1 : _} (h : Kept s t) : KeptO s (execSchedPlay a0 a1 t) := by
  unfold execSchedPlay
  repeat' first
    | with_reducible assumption | with_reducible refine schedRow_k ?_ (fun _ => ?_)
    | with_reducible refine emitOpcode_k ?_ | split | with_reducible refine KeptO_next ?_

theorem execSchedJump_k {s t : State} {a0 : _} {a1 : _} (h : Kept s t) : KeptO s (execSchedJump a0 a1 t) := by
  unfold execSchedJump
  repeat' first
    | with_reducible assumption | with_reducible refine schedRow_k ?_ (fun _ => ?_)
    | with_reducible refine emitOpcode_k ?_ | split | with_reducible refine KeptO_next ?_

theorem execSchedHold_k {s t : State} {a0 : _} {a1 : _} (h : Kept s t) : KeptO s (execSchedHold a0 a1 t) := by
  unfold execSchedHold
  repeat' first
    | with_reducible assumption | with_reducible refine schedRow_k ?_ (fun _ => ?_)
    | with_reducible refine emitOpcode_k ?_ | split | with_reducible refine KeptO_next ?_

theorem execSchedFreq_k {s t : State} {a0 : _} {a1 : _} (h : Kept s t) : KeptO s (execSchedFreq a0 a1 t) := by
  unfold execSchedFreq
  repeat' first
    | with_reducible assumption | with_reducible refine schedRow_k ?_ (fun _ => ?_)
    | with_reducible refine emitOpcode_k ?_ | split | with_reducible refine KeptO_next ?_

theorem execSchedPhase_k {s t : State} {a0 : _} {a1 : _} (h : Kept s t) : KeptO s (execSchedPhase a0 a1 t) := by
  unfold execSchedPhase
  repeat' first
    | with_reducible assumption | with_reducible refine schedRow_k ?_ (fun _ => ?_)
    | with_reducible refine emitOpcode_k ?_ | split | with_reducible refine KeptO_next ?_

theorem execSchedFlux_k {s t : State} {a0 : _} {a1 : _} (h : Kept s t) : KeptO s (execSchedFlux a0 a1 t) := by
  unfold execSchedFlux
  repeat' first
    | with_reducible assumption | with_reducible refine schedRow_k ?_ (fun _ => ?_)
    | with_reducible refine emitOpcode_k ?_ | split | with_reducible refine KeptO_next ?_

theorem execSchedBias_k {s t : State} {a0 : _} {a1 : _} (h : Kept s t) : KeptO s (execSchedBias a0 a1 t) := by
  unfold execSchedBias
  repeat' first
    | with_reducible assumption | with_reducible refine schedRow_k ?_ (fun _ => ?_)
    | with_reducible refine emitOpcode_k ?_ | split | with_reducible refine KeptO_next ?_

theorem execSchedCapture_k {s t : State} {a0 : _} {a1 : _} (h : Kept s t) : KeptO s (execSchedCapture a0 a1 t) := by
  unfold execSchedCapture
  repeat' first
    | with_reducible assumption | with_reducible refine schedRow_k ?_ (fun _ => ?_)
    | with_reducible refine emitOpcode_k ?_ | split | with_reducible refine KeptO_next ?_

theorem execSchedMark_k {s t : State} {a0 : _} {a1 : _} (h : Kept s t) : KeptO s (execSchedMark a0 a1 t) := by
  unfold execSchedMark
  repeat' first
    | with_reducible assumption | with_reducible refine schedRow_k ?_ (fun _ => ?_)
    | with_reducible refine emitOpcode_k ?_ | split | with_reducible refine KeptO_next ?_

theorem execSchedAlt_k {s t : State} {a0 : _} {a1 : _} (h : Kept s t) : KeptO s (execSchedAlt a0 a1 t) := by
  unfold execSchedAlt
  repeat' first
    | with_reducible assumption | with_reducible refine schedRow_k ?_ (fun _ => ?_) | with_reducible refine altEffect_k ?_
    | split | with_reducible refine KeptO_next ?_

theorem execSchedSelect_k {s t : State} {a0 : _} {a1 : _} (h : Kept s t) : KeptO s (execSchedSelect a0 a1 t) := by
  unfold execSchedSelect
  repeat' first
    | with_reducible assumption | with_reducible refine schedRow_k ?_ (fun _ => ?_)
    | with_reducible refine selectEffect_k ?_ | split | with_reducible refine KeptO_next ?_

theorem execSchedWaitevt_k {s t : State} {a0 : _} {a1 : _} (h : Kept s t) : KeptO s (execSchedWaitevt a0 a1 t) := by
  unfold execSchedWaitevt
  repeat' first
    | with_reducible assumption | with_reducible refine schedRow_k ?_ (fun _ => ?_)
    | with_reducible refine waitevtEffect_k ?_ | split | with_reducible refine KeptO_next ?_

theorem execSchedRaise_k {s t : State} {a0 : _} {a1 : _} (h : Kept s t) : KeptO s (execSchedRaise a0 a1 t) := by
  unfold execSchedRaise
  repeat' first
    | with_reducible assumption | with_reducible refine schedRow_k ?_ (fun _ => ?_)
    | with_reducible refine afterPacket_k ?_ | with_reducible refine consume_k ?_ | with_reducible refine execOpcode_k ?_
    | with_reducible refine raise_k ?_ | split | with_reducible refine KeptO_next ?_

theorem execSchedLoop_k {s t : State} {a0 : _} {a1 : _} (h : Kept s t) : KeptO s (execSchedLoop a0 a1 t) := by
  unfold execSchedLoop
  repeat' first
    | with_reducible assumption | with_reducible refine schedRow_k ?_ (fun _ => ?_)
    | with_reducible refine loopEffect_k ?_ | split | with_reducible refine KeptO_next ?_

theorem execSchedBranch_k {s t : State} {a0 : _} {a1 : _} (h : Kept s t) : KeptO s (execSchedBranch a0 a1 t) := by
  unfold execSchedBranch
  repeat' first
    | with_reducible assumption | with_reducible refine schedRow_k ?_ (fun _ => ?_)
    | with_reducible refine branchEffect_k ?_ | split | with_reducible refine KeptO_next ?_

theorem execSchedBoundary_k {s t : State} {a0 : _} {a1 : _} (h : Kept s t) : KeptO s (execSchedBoundary a0 a1 t) := by
  unfold execSchedBoundary
  repeat' first
    | with_reducible assumption | with_reducible refine schedRow_k ?_ (fun _ => ?_)
    | with_reducible refine arriveEffect_k ?_ | split | with_reducible refine KeptO_next ?_

theorem execSchedEnd_k {s t : State} {a0 : _} {a1 : _} (h : Kept s t) : KeptO s (execSchedEnd a0 a1 t) := by
  unfold execSchedEnd
  repeat' first
    | with_reducible assumption | with_reducible refine schedRow_k ?_ (fun _ => ?_)
    | with_reducible refine arriveEffect_k ?_ | split | with_reducible refine KeptO_next ?_

/-! ### Dispatch -/

theorem exec_k {s t : State} {a0 : _} (h : Kept s t) : KeptO s (exec a0 t) := by
  unfold exec
  repeat' first
    | with_reducible assumption | with_reducible refine execSchedEnd_k ?_ | with_reducible refine execSchedBoundary_k ?_
    | with_reducible refine execSchedBranch_k ?_ | with_reducible refine execSchedLoop_k ?_
    | with_reducible refine execSchedRaise_k ?_ | with_reducible refine execSchedWaitevt_k ?_
    | with_reducible refine execSchedSelect_k ?_ | with_reducible refine execSchedAlt_k ?_
    | with_reducible refine execSchedMark_k ?_ | with_reducible refine execSchedCapture_k ?_
    | with_reducible refine execSchedBias_k ?_ | with_reducible refine execSchedFlux_k ?_
    | with_reducible refine execSchedPhase_k ?_ | with_reducible refine execSchedFreq_k ?_
    | with_reducible refine execSchedHold_k ?_ | with_reducible refine execSchedJump_k ?_
    | with_reducible refine execSchedPlay_k ?_ | with_reducible refine execSchedNop_k ?_
    | with_reducible refine execLcsConfirm_k ?_ | with_reducible refine execLcsReq_k ?_
    | with_reducible refine execResume_k ?_ | with_reducible refine execThmForceClr_k ?_
    | with_reducible refine execMonCalStart_k ?_ | with_reducible refine execMonInj_k ?_
    | with_reducible refine execMonSeqStop_k ?_ | with_reducible refine execMonSeqStart_k ?_
    | with_reducible refine execCommit_k ?_ | with_reducible refine execRegisterWrite_k ?_
    | with_reducible refine execLnkVpEnable_k ?_ | with_reducible refine execLnkHlRetrain_k ?_
    | with_reducible refine execDrmWinWrite_k ?_ | with_reducible refine execDrmWinRead_k ?_
    | with_reducible refine execDrmBistStart_k ?_ | with_reducible refine execDrmChtab_k ?_
    | with_reducible refine execDrmMap_k ?_ | with_reducible refine execDrmRate_k ?_
    | with_reducible refine execCluDiscData_k ?_ | with_reducible refine execCluKrnData_k ?_
    | with_reducible refine execBiaSense_k ?_ | with_reducible refine execBiaSet_k ?_
    | with_reducible refine execFlxSet_k ?_ | with_reducible refine execFlxCoefWrite_k ?_
    | with_reducible refine execDrvXtap_k ?_ | with_reducible refine execDrvMute_k ?_
    | with_reducible refine execCluSegData_k ?_ | with_reducible refine execCluSegDesc_k ?_
    | with_reducible refine execMcsBootPatch_k ?_ | with_reducible refine execMcsPatch_k ?_
    | with_reducible refine execTimStop_k ?_ | with_reducible refine execTimRun_k ?_
    | with_reducible refine execEvtChProd_k ?_ | with_reducible refine execQueCmdDrop_k ?_
    | with_reducible refine execQueCmdFlush_k ?_ | with_reducible refine execQuePkt_k ?_
    | with_reducible refine execQuePop_k ?_ | with_reducible refine execQuePush_k ?_
    | with_reducible refine execRgnKrnLayout_k ?_ | with_reducible refine execPkgProfileReq_k ?_
    | with_reducible refine execRgnProfileReq_k ?_ | with_reducible refine execTrgDisarm_k ?_
    | with_reducible refine execTrgArm_k ?_ | with_reducible refine execOpenQueue_k ?_
    | with_reducible refine execOpenStream_k ?_ | with_reducible refine execStreamClose_k ?_
    | with_reducible refine execAbort_k ?_ | with_reducible refine execStop_k ?_ | with_reducible refine execStart_k ?_
    | with_reducible refine execUnload_k ?_ | with_reducible refine execLoad_k ?_ | with_reducible refine execRelock_k ?_
    | with_reducible refine execSyncDisarm_k ?_ | with_reducible refine execSyncFire_k ?_
    | with_reducible refine execSyncArm_k ?_ | with_reducible refine execClkGate_k ?_
    | with_reducible refine execFmcStart_k ?_ | with_reducible refine execClkMgmtSel_k ?_
    | with_reducible refine execPkgReset_k ?_ | with_reducible refine execEngineRestart_k ?_
    | with_reducible refine execBusOffRecovery_k ?_ | with_reducible refine execCanBusError_k ?_
    | with_reducible refine execCanFrameReceive_k ?_ | with_reducible refine execSegmentTimeout_k ?_
    | with_reducible refine execYdpAbort_k ?_ | with_reducible refine execReadSeg_k ?_
    | with_reducible refine execWriteSeg_k ?_ | with_reducible refine execWriteInit_k ?_
    | with_reducible refine execYdpWrite_k ?_ | with_reducible refine execYdpRead_k ?_
    | with_reducible refine execQueueFlush_k ?_ | with_reducible refine execQueueDrop_k ?_
    | with_reducible refine execQueueRead_k ?_ | with_reducible refine execWaitingWriteResume_k ?_
    | with_reducible refine execQueueWrite_k ?_ | with_reducible refine execTimerFire_k ?_
    | with_reducible refine execEventDelivery_k ?_ | with_reducible refine execLcsBurn_k ?_
    | with_reducible refine execNvmBootRead_k ?_ | with_reducible refine execMemoryWipeDone_k ?_
    | with_reducible refine execFuseRead_k ?_ | with_reducible refine execDictionaryResetBegin_k ?_
    | with_reducible refine execPowerGood_k ?_ | with_reducible refine execResetNAssert_k ?_
    | with_reducible refine execSupplyLoss_k ?_ | with_reducible refine execLcsReqExpire_k ?_
    | with_reducible refine execScrubStale_k ?_ | with_reducible refine execScrubStep_k ?_
    | with_reducible refine execShutdownComplete_k ?_ | with_reducible refine execPageProgramDone_k ?_
    | with_reducible refine execNvmEraseDone_k ?_ | with_reducible refine execBistDone_k ?_
    | with_reducible refine execRetrainAbandon_k ?_ | with_reducible refine execRetrainStepDone_k ?_
    | with_reducible refine execRetrainStepStart_k ?_ | with_reducible refine execMr4Poll_k ?_
    | with_reducible refine execRefreshDue_k ?_ | with_reducible refine execDramBurst_k ?_
    | with_reducible refine execTrainingStepDone_k ?_ | with_reducible refine execWipeComplete_k ?_
    | with_reducible refine execShutdownPllStop_k ?_ | with_reducible refine execShutdownBiasFault_k ?_
    | with_reducible refine execShutdownMute_k ?_ | with_reducible refine execVidfChange_k ?_
    | with_reducible refine execLadderStep_k ?_ | with_reducible refine execThermalUpdate_k ?_
    | with_reducible refine execAlignment_k ?_ | with_reducible refine execSyncInEdge_k ?_
    | with_reducible refine execSyncOutPulseEnd_k ?_ | with_reducible refine execSyncOutPulse_k ?_
    | with_reducible refine execGateForceClose_k ?_ | with_reducible refine execFmcDone_k ?_
    | with_reducible refine execConverterCalibrationDone_k ?_ | with_reducible refine execBdRefTick_k ?_
    | with_reducible refine execTimelineCopyCompare_k ?_ | with_reducible refine execTrefSelect_k ?_
    | with_reducible refine execXtbStartDelay_k ?_ | with_reducible refine execXtaStartDelay_k ?_
    | with_reducible refine execMonitorWindow_k ?_ | with_reducible refine execRefReady_k ?_
    | with_reducible refine execMauCalDone_k ?_ | with_reducible refine execConversionDone_k ?_
    | with_reducible refine execMauEntryStart_k ?_ | with_reducible refine execFireMessage_k ?_
    | with_reducible refine execDisarmMessage_k ?_ | with_reducible refine execArmMessage_k ?_
    | with_reducible refine execArmGrainReached_k ?_ | with_reducible refine execTriggerFire_k ?_
    | with_reducible refine execTrigInEdge_k ?_ | with_reducible refine execConditionCrossing_k ?_
    | with_reducible refine execVerdictBlockReceive_k ?_ | with_reducible refine execVerdictBlockSend_k ?_
    | with_reducible refine execVreMessage_k ?_ | with_reducible refine execBlockSend_k ?_
    | with_reducible refine execBlockReceive_k ?_ | with_reducible refine execUploadWrite_k ?_
    | with_reducible refine execRetransmitTimeout_k ?_ | with_reducible refine execCreditSend_k ?_
    | with_reducible refine execAckSend_k ?_ | with_reducible refine execCredit_k ?_ | with_reducible refine execNak_k ?_
    | with_reducible refine execAck_k ?_ | with_reducible refine execLinkPacketReceive_k ?_
    | with_reducible refine execPpmMeasure_k ?_ | with_reducible refine execLossOfLock_k ?_
    | with_reducible refine execLossOfSignal_k ?_ | with_reducible refine execRecordToQueue_k ?_
    | with_reducible refine execStreamPacketSend_k ?_ | with_reducible refine execSetComplete_k ?_
    | with_reducible refine execRecordArrival_k ?_ | with_reducible refine execPpsEnd_k ?_
    | with_reducible refine execPpsEdge_k ?_ | with_reducible refine execTpLinkChange_k ?_
    | with_reducible refine execReceiptTimeout_k ?_ | with_reducible refine execTcForward_k ?_
    | with_reducible refine execDelayReqSend_k ?_ | with_reducible refine execPtpAnnounce_k ?_
    | with_reducible refine execPtpDelayResp_k ?_ | with_reducible refine execPtpFollowUp_k ?_
    | with_reducible refine execPtpSync_k ?_ | with_reducible refine execPtpFrameReceive_k ?_
    | with_reducible refine execLoadComplete_k ?_ | with_reducible refine execShotBoundary_k ?_
    | with_reducible refine execBarrierRelease_k ?_ | with_reducible refine execProfileMuteEnd_k ?_
    | with_reducible refine execProfileChange_k ?_ | with_reducible refine execSelect_k ?_
    | with_reducible refine execStage_k ?_ | with_reducible refine execEdgeFifoRead_k ?_
    | with_reducible refine execEdgeCommandArrival_k ?_ | with_reducible refine execArmingDeadline_k ?_
    | with_reducible refine execSelectRegisterTake_k ?_ | with_reducible refine execBreChoice_k ?_
    | with_reducible refine execVerdictBusMessage_k ?_ | with_reducible refine execAcqCalStale_k ?_
    | with_reducible refine execAcqCalStepDone_k ?_ | with_reducible refine execAcqCalStepStart_k ?_
    | with_reducible refine execHotRelease_k ?_ | with_reducible refine execHotTrip_k ?_
    | with_reducible refine execAcqOverrange_k ?_ | with_reducible refine execCaptureEventWindow_k ?_
    | with_reducible refine execCapture_k ?_ | with_reducible refine execTraceWindowClose_k ?_
    | with_reducible refine execVerdictOutput_k ?_ | with_reducible refine execWindowClose_k ?_
    | with_reducible refine execHaltRaise_k ?_ | with_reducible refine execTrussPulseEnd_k ?_
    | with_reducible refine execTrussPulseStart_k ?_ | with_reducible refine execChannelEvent_k ?_
    | with_reducible refine execFifoWaitEnd_k ?_ | with_reducible refine execSchedulePacketDelivery_k ?_
    | with_reducible refine execScheduleFetchChunk_k ?_ | with_reducible refine execBiasSafeLoad_k ?_
    | with_reducible refine execBiasUpdate_k ?_ | with_reducible refine execTapParityFailure_k ?_
    | with_reducible refine execMarkPulseEnd_k ?_ | with_reducible refine execMark_k ?_
    | with_reducible refine execBias_k ?_ | with_reducible refine execFlux_k ?_ | with_reducible refine execHold_k ?_
    | with_reducible refine execPhase_k ?_ | with_reducible refine execFreq_k ?_
    | with_reducible refine execSegmentBoundary_k ?_ | with_reducible refine execJumpSamplingPoint_k ?_
    | with_reducible refine execJump_k ?_ | with_reducible refine execPlay_k ?_
    | with_reducible refine execRefillEntryDone_k ?_ | with_reducible refine execRefillEntryStart_k ?_ | split
    | with_reducible refine KeptO_next ?_

end Sys2Proof.Machine
end

