-- ==== Sys2Proof/Laws/Same.lean ====
section
/-! SUPPORT. What each operation leaves alone: a lemma for each gives the parts of the state and the objects of the dictionary that
it may change, as a mask of bits; every other part stays as it was. -/

namespace Sys2Proof.Machine

-- One proof at a time: proofs elaborated side by side take more memory than the check grants.
set_option Elab.async false
set_option linter.all false

/-- `k` names the parts of the state that stay as they are, one bit each: the fields of State in their order (the field `dram`
stands for all of the DRAM), then the bytes of the DRAM, then the objects of the dictionary in their order. -/
structure Same (k : Nat) (s t : State) : Prop where
  pending : k.testBit 0 = true → t.pending = s.pending
  elapsed : k.testBit 1 = true → t.elapsed = s.elapsed
  free : k.testBit 2 = true → t.free = s.free
  tml : k.testBit 3 = true → t.tml = s.tml
  tmlOn : k.testBit 4 = true → t.tmlOn = s.tmlOn
  queues : k.testBit 6 = true → t.queues = s.queues
  poolLost : k.testBit 7 = true → t.poolLost = s.poolLost
  fifos : k.testBit 8 = true → t.fifos = s.fifos
  engs : k.testBit 9 = true → t.engs = s.engs
  areas : k.testBit 10 = true → t.areas = s.areas
  run : k.testBit 11 = true → t.run = s.run
  image : k.testBit 12 = true → t.image = s.image
  patches : k.testBit 13 = true → t.patches = s.patches
  channels : k.testBit 14 = true → t.channels = s.channels
  deliveries : k.testBit 15 = true → t.deliveries = s.deliveries
  timers : k.testBit 16 = true → t.timers = s.timers
  markers : k.testBit 17 = true → t.markers = s.markers
  path0 : k.testBit 18 = true → t.path0 = s.path0
  path1 : k.testBit 19 = true → t.path1 = s.path1
  lastPath : k.testBit 20 = true → t.lastPath = s.lastPath
  nvm : k.testBit 21 = true → t.nvm = s.nvm
  boot : k.testBit 22 = true → t.boot = s.boot
  flog : k.testBit 23 = true → t.flog = s.flog
  scrubAt : k.testBit 24 = true → t.scrubAt = s.scrubAt
  dram : k.testBit 25 = true → t.dram = s.dram
  segs : k.testBit 26 = true → t.segs = s.segs
  segMem : k.testBit 27 = true → t.segMem = s.segMem
  segBad : k.testBit 28 = true → t.segBad = s.segBad
  refills : k.testBit 29 = true → t.refills = s.refills
  slices : k.testBit 30 = true → t.slices = s.slices
  frames : k.testBit 31 = true → t.frames = s.frames
  tapBad : k.testBit 32 = true → t.tapBad = s.tapBad
  fluxes : k.testBit 33 = true → t.fluxes = s.fluxes
  biases : k.testBit 34 = true → t.biases = s.biases
  biasAt : k.testBit 35 = true → t.biasAt = s.biasAt
  regions : k.testBit 36 = true → t.regions = s.regions
  bdQual : k.testBit 37 = true → t.bdQual = s.bdQual
  rfQualAt : k.testBit 38 = true → t.rfQualAt = s.rfQualAt
  reads : k.testBit 39 = true → t.reads = s.reads
  traces : k.testBit 40 = true → t.traces = s.traces
  acqs : k.testBit 41 = true → t.acqs = s.acqs
  krn : k.testBit 42 = true → t.krn = s.krn
  krnBad : k.testBit 43 = true → t.krnBad = s.krnBad
  tab : k.testBit 44 = true → t.tab = s.tab
  tabBad : k.testBit 45 = true → t.tabBad = s.tabBad
  crossings : k.testBit 46 = true → t.crossings = s.crossings
  sets : k.testBit 47 = true → t.sets = s.sets
  stream : k.testBit 48 = true → t.stream = s.stream
  incs : k.testBit 49 = true → t.incs = s.incs
  trig : k.testBit 50 = true → t.trig = s.trig
  board : k.testBit 51 = true → t.board = s.board
  bres : k.testBit 52 = true → t.bres = s.bres
  vre : k.testBit 53 = true → t.vre = s.vre
  clk : k.testBit 54 = true → t.clk = s.clk
  ptp : k.testBit 55 = true → t.ptp = s.ptp
  lanes : k.testBit 56 = true → t.lanes = s.lanes
  hl : k.testBit 57 = true → t.hl = s.hl
  vports : k.testBit 58 = true → t.vports = s.vports
  maus : k.testBit 59 = true → t.maus = s.maus
  therms : k.testBit 60 = true → t.therms = s.therms
  cool : k.testBit 61 = true → t.cool = s.cool
  cells : k.testBit 62 = true → t.dram.cells = s.dram.cells
  regs : ∀ (r : Reg) (i : Nat), k.testBit (63 + r.ctorIdx) = true → rd t r i = rd s r i

theorem Same.refl (k : Nat) (s : State) : Same k s s := by constructor <;> intros <;> rfl

theorem Same.trans {k : Nat} {s t u : State} (h : Same k s t) (g : Same k t u) : Same k s u := by
  constructor
  · exact fun b => (g.pending b).trans (h.pending b)
  · exact fun b => (g.elapsed b).trans (h.elapsed b)
  · exact fun b => (g.free b).trans (h.free b)
  · exact fun b => (g.tml b).trans (h.tml b)
  · exact fun b => (g.tmlOn b).trans (h.tmlOn b)
  · exact fun b => (g.queues b).trans (h.queues b)
  · exact fun b => (g.poolLost b).trans (h.poolLost b)
  · exact fun b => (g.fifos b).trans (h.fifos b)
  · exact fun b => (g.engs b).trans (h.engs b)
  · exact fun b => (g.areas b).trans (h.areas b)
  · exact fun b => (g.run b).trans (h.run b)
  · exact fun b => (g.image b).trans (h.image b)
  · exact fun b => (g.patches b).trans (h.patches b)
  · exact fun b => (g.channels b).trans (h.channels b)
  · exact fun b => (g.deliveries b).trans (h.deliveries b)
  · exact fun b => (g.timers b).trans (h.timers b)
  · exact fun b => (g.markers b).trans (h.markers b)
  · exact fun b => (g.path0 b).trans (h.path0 b)
  · exact fun b => (g.path1 b).trans (h.path1 b)
  · exact fun b => (g.lastPath b).trans (h.lastPath b)
  · exact fun b => (g.nvm b).trans (h.nvm b)
  · exact fun b => (g.boot b).trans (h.boot b)
  · exact fun b => (g.flog b).trans (h.flog b)
  · exact fun b => (g.scrubAt b).trans (h.scrubAt b)
  · exact fun b => (g.dram b).trans (h.dram b)
  · exact fun b => (g.segs b).trans (h.segs b)
  · exact fun b => (g.segMem b).trans (h.segMem b)
  · exact fun b => (g.segBad b).trans (h.segBad b)
  · exact fun b => (g.refills b).trans (h.refills b)
  · exact fun b => (g.slices b).trans (h.slices b)
  · exact fun b => (g.frames b).trans (h.frames b)
  · exact fun b => (g.tapBad b).trans (h.tapBad b)
  · exact fun b => (g.fluxes b).trans (h.fluxes b)
  · exact fun b => (g.biases b).trans (h.biases b)
  · exact fun b => (g.biasAt b).trans (h.biasAt b)
  · exact fun b => (g.regions b).trans (h.regions b)
  · exact fun b => (g.bdQual b).trans (h.bdQual b)
  · exact fun b => (g.rfQualAt b).trans (h.rfQualAt b)
  · exact fun b => (g.reads b).trans (h.reads b)
  · exact fun b => (g.traces b).trans (h.traces b)
  · exact fun b => (g.acqs b).trans (h.acqs b)
  · exact fun b => (g.krn b).trans (h.krn b)
  · exact fun b => (g.krnBad b).trans (h.krnBad b)
  · exact fun b => (g.tab b).trans (h.tab b)
  · exact fun b => (g.tabBad b).trans (h.tabBad b)
  · exact fun b => (g.crossings b).trans (h.crossings b)
  · exact fun b => (g.sets b).trans (h.sets b)
  · exact fun b => (g.stream b).trans (h.stream b)
  · exact fun b => (g.incs b).trans (h.incs b)
  · exact fun b => (g.trig b).trans (h.trig b)
  · exact fun b => (g.board b).trans (h.board b)
  · exact fun b => (g.bres b).trans (h.bres b)
  · exact fun b => (g.vre b).trans (h.vre b)
  · exact fun b => (g.clk b).trans (h.clk b)
  · exact fun b => (g.ptp b).trans (h.ptp b)
  · exact fun b => (g.lanes b).trans (h.lanes b)
  · exact fun b => (g.hl b).trans (h.hl b)
  · exact fun b => (g.vports b).trans (h.vports b)
  · exact fun b => (g.maus b).trans (h.maus b)
  · exact fun b => (g.therms b).trans (h.therms b)
  · exact fun b => (g.cool b).trans (h.cool b)
  · exact fun b => (g.cells b).trans (h.cells b)
  · exact fun r i b => (g.regs r i b).trans (h.regs r i b)

/-- A part outside the mask. -/
theorem bitFree {k m i : Nat} (w : k &&& m = 0) (e : m.testBit i = true) : k.testBit i = false := by
  have h := congrArg (fun x => x.testBit i) w
  simpa [Nat.testBit_and, e] using h

theorem maskFree {k m n : Nat} (w : k &&& m = 0) (e : m &&& n = n) : k &&& n = 0 := by
  rw [← e, ← Nat.and_assoc, w, Nat.zero_and]

theorem allRegs {k : Nat} (w : k &&& 0x7FFFFFFFFFFFFFFFFFFFFFFFFFFFFFFFFFFFFFFFFFFFFFFFFFFFFFFFFFFFFFFFFFFFFFFFFFFFFFFFFFFFFFFFFFFFFFFFFFFFFFFFFFFFFFFFFFFFFFFFFFFFFFFFFFFFFFFFFFFFFFFFFF8000000000000000 = 0) (r : Reg) : k.testBit (63 + r.ctorIdx) = false :=
  bitFree w (by cases r <;> rfl)

/-- A stored value of the dictionary. -/
theorem wr_s {k : Nat} {s t : State} {r : Reg} {v : Int} {i : Nat} (w : k.testBit (63 + r.ctorIdx) = false) (h : Same k s t) :
    Same k s (wr r v i t) := by
  refine h.trans ?_
  constructor <;> intros
  all_goals first
    | rfl
    | (refine rd_wr_reg ?_ _ _ _ _
       rintro rfl
       simp_all)

theorem incTo_s {k : Nat} {s t : State} {top : Nat} {r : Reg} {n i : Nat} (w : k.testBit (63 + r.ctorIdx) = false) (h : Same k s t) :
    Same k s (incTo top r n i t) := wr_s w h

theorem incBy_s {k : Nat} {s t : State} {r : Reg} {n i : Nat} (w : k.testBit (63 + r.ctorIdx) = false) (h : Same k s t) :
    Same k s (incBy r n i t) := incTo_s w h

theorem inc_s {k : Nat} {s t : State} {r : Reg} {i : Nat} (w : k.testBit (63 + r.ctorIdx) = false) (h : Same k s t) :
    Same k s (inc r i t) := incBy_s w h

theorem flag_s {k : Nat} {s t : State} {r : Reg} {i : Nat} (w : k.testBit (63 + r.ctorIdx) = false) (h : Same k s t) :
    Same k s (flag r i t) := wr_s w h

theorem incWrap_s {k : Nat} {s t : State} {b : Nat} {r : Reg} {n i : Nat} (w : k.testBit (63 + r.ctorIdx) = false) (h : Same k s t) :
    Same k s (incWrap b r n i t) := wr_s w h

theorem wrBit_s {k : Nat} {s t : State} {r : Reg} {b : Nat} {v : Bool} {i : Nat} (w : k.testBit (63 + r.ctorIdx) = false) (h : Same k s t) :
    Same k s (wrBit r b v i t) := wr_s w h

theorem peak_s {k : Nat} {s t : State} {r : Reg} {v : Int} {i : Nat} (w : k.testBit (63 + r.ctorIdx) = false) (h : Same k s t) :
    Same k s (peak r v i t) := by
  unfold peak
  split
  · exact wr_s w h
  · exact h

theorem low_s {k : Nat} {s t : State} {r : Reg} {v : Int} {i : Nat} (w : k.testBit (63 + r.ctorIdx) = false) (h : Same k s t) :
    Same k s (low r v i t) := by
  unfold low
  split
  · exact wr_s w h
  · exact h

theorem tinc_s {k : Nat} {s t : State} {r : Reg} {n f : Nat} (w : k.testBit (63 + r.ctorIdx) = false) (h : Same k s t) :
    Same k s (tinc r n f t) := by
  unfold tinc
  split
  · exact incBy_s w h
  · exact h

def SameO (k : Nat) (s : State) : Out → Prop
  | .next u => Same k s u
  | .fault _ => True
  | .refused _ => True

def SameA (k : Nat) (s : State) : Ans State → Prop
  | .ok u => Same k s u
  | .error _ => True

def SameM (k : Nat) (s : State) : Option State → Prop
  | some u => Same k s u
  | none => True

def SameAP {α : Type} (k : Nat) (s : State) : Ans (α × State) → Prop
  | .ok u => Same k s u.2
  | .error _ => True

def SameMP {α : Type} (k : Nat) (s : State) : Option (α × State) → Prop
  | some u => Same k s u.2
  | none => True

theorem SameO_next {k : Nat} {s u : State} (h : Same k s u) : SameO k s (.next u) := h
theorem SameO_ite {k : Nat} {s : State} {c : Prop} [Decidable c] {a b : Out} (h : SameO k s a) (q : SameO k s b) :
    SameO k s (if c then a else b) := by
  by_cases e : c
  · rw [if_pos e]; exact h
  · rw [if_neg e]; exact q
theorem SameA_ok {k : Nat} {s u : State} (h : Same k s u) : SameA k s (.ok u) := h
theorem SameA_err {k : Nat} {s : State} {c : Nat} : SameA k s (.error c) := True.intro
theorem SameM_some {k : Nat} {s u : State} (h : Same k s u) : SameM k s (some u) := h
theorem SameM_none {k : Nat} {s : State} : SameM k s none := True.intro
theorem SameAP_ok {α : Type} {k : Nat} {s u : State} {a : α} (h : Same k s u) : SameAP k s (.ok (a, u)) := h
theorem SameAP_err {α : Type} {k : Nat} {s : State} {c : Nat} : SameAP (α := α) k s (.error c) := True.intro
theorem SameMP_some {α : Type} {k : Nat} {s u : State} {a : α} (h : Same k s u) : SameMP k s (some (a, u)) := h
theorem SameMP_none {α : Type} {k : Nat} {s : State} : SameMP (α := α) k s none := True.intro
theorem SameP_mk {α : Type} {k : Nat} {s u : State} {a : α} (h : Same k s u) : Same k s (a, u).2 := h
theorem SameO.next {k : Nat} {s u : State} {o : Out} (h : SameO k s o) (e : o = .next u) : Same k s u := by subst e; exact h
theorem SameA.ok {k : Nat} {s u : State} {o : Ans State} (h : SameA k s o) (e : o = .ok u) : Same k s u := by subst e; exact h
theorem SameM.some {k : Nat} {s u : State} {o : Option State} (h : SameM k s o) (e : o = .some u) : Same k s u := by subst e; exact h
theorem SameAP.ok {α : Type} {k : Nat} {s u : State} {a : α} {o : Ans (α × State)} (h : SameAP k s o) (e : o = .ok (a, u)) : Same k s u := by
  subst e; exact h
theorem SameMP.some {α : Type} {k : Nat} {s u : State} {a : α} {o : Option (α × State)} (h : SameMP k s o) (e : o = .some (a, u)) :
    Same k s u := by subst e; exact h
theorem SameP.snd {α : Type} {k : Nat} {s u : State} {a : α} {o : α × State} (h : Same k s o.2) (e : o = (a, u)) : Same k s u := by
  subst e; exact h
theorem SameA_map {k : Nat} {s : State} {o : Ans State} {f : State → State} (h : SameA k s o) (q : ∀ u, Same k s u → Same k s (f u)) :
    SameA k s (o.map f) := by
  cases o with
  | error => trivial
  | ok u => exact q u h

theorem SameA_map' {α : Type} {k : Nat} {s : State} {o : Ans α} {f : α → State} (q : ∀ a, Same k s (f a)) : SameA k s (o.map f) := by
  cases o with
  | error => trivial
  | ok u => exact q u

theorem Same_foldl {α : Type} {k : Nat} {s t : State} {g : State → α → State} {l : List α} (q : ∀ u x, Same k s u → Same k s (g u x))
    (h : Same k s t) : Same k s (l.foldl g t) := by
  induction l generalizing t with
  | nil => exact h
  | cons x l ih => exact ih (q t x h)

theorem no {b : Bool} {P : Prop} (f : b = false) : b = true → P := fun t => by rw [f] at t; cases t

theorem Same_acqs {k : Nat} {s x : State} {acqs_ : SMap AcqCh} (h : Same k s x) (w : k &&& 0x20000000000 = 0) :
    Same k s (State.mk x.pending x.elapsed x.free x.tml x.tmlOn x.regs x.queues x.poolLost x.fifos x.engs x.areas x.run x.image x.patches x.channels x.deliveries x.timers x.markers x.path0 x.path1 x.lastPath x.nvm x.boot x.flog x.scrubAt x.dram x.segs x.segMem x.segBad x.refills x.slices x.frames x.tapBad x.fluxes x.biases x.biasAt x.regions x.bdQual x.rfQualAt x.reads x.traces acqs_ x.krn x.krnBad x.tab x.tabBad x.crossings x.sets x.stream x.incs x.trig x.board x.bres x.vre x.clk x.ptp x.lanes x.hl x.vports x.maus x.therms x.cool) :=
  ⟨h.pending, h.elapsed, h.free, h.tml, h.tmlOn, h.queues, h.poolLost, h.fifos, h.engs, h.areas, h.run, h.image, h.patches, h.channels, h.deliveries, h.timers, h.markers, h.path0, h.path1, h.lastPath, h.nvm, h.boot, h.flog, h.scrubAt, h.dram, h.segs, h.segMem, h.segBad, h.refills, h.slices, h.frames, h.tapBad, h.fluxes, h.biases, h.biasAt, h.regions, h.bdQual, h.rfQualAt, h.reads, h.traces, no (bitFree w rfl), h.krn, h.krnBad, h.tab, h.tabBad, h.crossings, h.sets, h.stream, h.incs, h.trig, h.board, h.bres, h.vre, h.clk, h.ptp, h.lanes, h.hl, h.vports, h.maus, h.therms, h.cool, h.cells, h.regs⟩

theorem Same_areas {k : Nat} {s x : State} {areas_ : SMap Area} (h : Same k s x) (w : k &&& 0x400 = 0) :
    Same k s (State.mk x.pending x.elapsed x.free x.tml x.tmlOn x.regs x.queues x.poolLost x.fifos x.engs areas_ x.run x.image x.patches x.channels x.deliveries x.timers x.markers x.path0 x.path1 x.lastPath x.nvm x.boot x.flog x.scrubAt x.dram x.segs x.segMem x.segBad x.refills x.slices x.frames x.tapBad x.fluxes x.biases x.biasAt x.regions x.bdQual x.rfQualAt x.reads x.traces x.acqs x.krn x.krnBad x.tab x.tabBad x.crossings x.sets x.stream x.incs x.trig x.board x.bres x.vre x.clk x.ptp x.lanes x.hl x.vports x.maus x.therms x.cool) :=
  ⟨h.pending, h.elapsed, h.free, h.tml, h.tmlOn, h.queues, h.poolLost, h.fifos, h.engs, no (bitFree w rfl), h.run, h.image, h.patches, h.channels, h.deliveries, h.timers, h.markers, h.path0, h.path1, h.lastPath, h.nvm, h.boot, h.flog, h.scrubAt, h.dram, h.segs, h.segMem, h.segBad, h.refills, h.slices, h.frames, h.tapBad, h.fluxes, h.biases, h.biasAt, h.regions, h.bdQual, h.rfQualAt, h.reads, h.traces, h.acqs, h.krn, h.krnBad, h.tab, h.tabBad, h.crossings, h.sets, h.stream, h.incs, h.trig, h.board, h.bres, h.vre, h.clk, h.ptp, h.lanes, h.hl, h.vports, h.maus, h.therms, h.cool, h.cells, h.regs⟩

theorem Same_areas_image {k : Nat} {s x : State} {areas_ : SMap Area} {image_ : ImageInfo} (h : Same k s x) (w : k &&& 0x1400 = 0) :
    Same k s (State.mk x.pending x.elapsed x.free x.tml x.tmlOn x.regs x.queues x.poolLost x.fifos x.engs areas_ x.run image_ x.patches x.channels x.deliveries x.timers x.markers x.path0 x.path1 x.lastPath x.nvm x.boot x.flog x.scrubAt x.dram x.segs x.segMem x.segBad x.refills x.slices x.frames x.tapBad x.fluxes x.biases x.biasAt x.regions x.bdQual x.rfQualAt x.reads x.traces x.acqs x.krn x.krnBad x.tab x.tabBad x.crossings x.sets x.stream x.incs x.trig x.board x.bres x.vre x.clk x.ptp x.lanes x.hl x.vports x.maus x.therms x.cool) :=
  ⟨h.pending, h.elapsed, h.free, h.tml, h.tmlOn, h.queues, h.poolLost, h.fifos, h.engs, no (bitFree w rfl), h.run, no (bitFree w rfl), h.patches, h.channels, h.deliveries, h.timers, h.markers, h.path0, h.path1, h.lastPath, h.nvm, h.boot, h.flog, h.scrubAt, h.dram, h.segs, h.segMem, h.segBad, h.refills, h.slices, h.frames, h.tapBad, h.fluxes, h.biases, h.biasAt, h.regions, h.bdQual, h.rfQualAt, h.reads, h.traces, h.acqs, h.krn, h.krnBad, h.tab, h.tabBad, h.crossings, h.sets, h.stream, h.incs, h.trig, h.board, h.bres, h.vre, h.clk, h.ptp, h.lanes, h.hl, h.vports, h.maus, h.therms, h.cool, h.cells, h.regs⟩

theorem Same_bdQual {k : Nat} {s x : State} {bdQual_ : Nat} (h : Same k s x) (w : k &&& 0x2000000000 = 0) :
    Same k s (State.mk x.pending x.elapsed x.free x.tml x.tmlOn x.regs x.queues x.poolLost x.fifos x.engs x.areas x.run x.image x.patches x.channels x.deliveries x.timers x.markers x.path0 x.path1 x.lastPath x.nvm x.boot x.flog x.scrubAt x.dram x.segs x.segMem x.segBad x.refills x.slices x.frames x.tapBad x.fluxes x.biases x.biasAt x.regions bdQual_ x.rfQualAt x.reads x.traces x.acqs x.krn x.krnBad x.tab x.tabBad x.crossings x.sets x.stream x.incs x.trig x.board x.bres x.vre x.clk x.ptp x.lanes x.hl x.vports x.maus x.therms x.cool) :=
  ⟨h.pending, h.elapsed, h.free, h.tml, h.tmlOn, h.queues, h.poolLost, h.fifos, h.engs, h.areas, h.run, h.image, h.patches, h.channels, h.deliveries, h.timers, h.markers, h.path0, h.path1, h.lastPath, h.nvm, h.boot, h.flog, h.scrubAt, h.dram, h.segs, h.segMem, h.segBad, h.refills, h.slices, h.frames, h.tapBad, h.fluxes, h.biases, h.biasAt, h.regions, no (bitFree w rfl), h.rfQualAt, h.reads, h.traces, h.acqs, h.krn, h.krnBad, h.tab, h.tabBad, h.crossings, h.sets, h.stream, h.incs, h.trig, h.board, h.bres, h.vre, h.clk, h.ptp, h.lanes, h.hl, h.vports, h.maus, h.therms, h.cool, h.cells, h.regs⟩

theorem Same_biasAt {k : Nat} {s x : State} {biasAt_ : Option Nat} (h : Same k s x) (w : k &&& 0x800000000 = 0) :
    Same k s (State.mk x.pending x.elapsed x.free x.tml x.tmlOn x.regs x.queues x.poolLost x.fifos x.engs x.areas x.run x.image x.patches x.channels x.deliveries x.timers x.markers x.path0 x.path1 x.lastPath x.nvm x.boot x.flog x.scrubAt x.dram x.segs x.segMem x.segBad x.refills x.slices x.frames x.tapBad x.fluxes x.biases biasAt_ x.regions x.bdQual x.rfQualAt x.reads x.traces x.acqs x.krn x.krnBad x.tab x.tabBad x.crossings x.sets x.stream x.incs x.trig x.board x.bres x.vre x.clk x.ptp x.lanes x.hl x.vports x.maus x.therms x.cool) :=
  ⟨h.pending, h.elapsed, h.free, h.tml, h.tmlOn, h.queues, h.poolLost, h.fifos, h.engs, h.areas, h.run, h.image, h.patches, h.channels, h.deliveries, h.timers, h.markers, h.path0, h.path1, h.lastPath, h.nvm, h.boot, h.flog, h.scrubAt, h.dram, h.segs, h.segMem, h.segBad, h.refills, h.slices, h.frames, h.tapBad, h.fluxes, h.biases, no (bitFree w rfl), h.regions, h.bdQual, h.rfQualAt, h.reads, h.traces, h.acqs, h.krn, h.krnBad, h.tab, h.tabBad, h.crossings, h.sets, h.stream, h.incs, h.trig, h.board, h.bres, h.vre, h.clk, h.ptp, h.lanes, h.hl, h.vports, h.maus, h.therms, h.cool, h.cells, h.regs⟩

theorem Same_biases {k : Nat} {s x : State} {biases_ : SMap BiasCh} (h : Same k s x) (w : k &&& 0x400000000 = 0) :
    Same k s (State.mk x.pending x.elapsed x.free x.tml x.tmlOn x.regs x.queues x.poolLost x.fifos x.engs x.areas x.run x.image x.patches x.channels x.deliveries x.timers x.markers x.path0 x.path1 x.lastPath x.nvm x.boot x.flog x.scrubAt x.dram x.segs x.segMem x.segBad x.refills x.slices x.frames x.tapBad x.fluxes biases_ x.biasAt x.regions x.bdQual x.rfQualAt x.reads x.traces x.acqs x.krn x.krnBad x.tab x.tabBad x.crossings x.sets x.stream x.incs x.trig x.board x.bres x.vre x.clk x.ptp x.lanes x.hl x.vports x.maus x.therms x.cool) :=
  ⟨h.pending, h.elapsed, h.free, h.tml, h.tmlOn, h.queues, h.poolLost, h.fifos, h.engs, h.areas, h.run, h.image, h.patches, h.channels, h.deliveries, h.timers, h.markers, h.path0, h.path1, h.lastPath, h.nvm, h.boot, h.flog, h.scrubAt, h.dram, h.segs, h.segMem, h.segBad, h.refills, h.slices, h.frames, h.tapBad, h.fluxes, no (bitFree w rfl), h.biasAt, h.regions, h.bdQual, h.rfQualAt, h.reads, h.traces, h.acqs, h.krn, h.krnBad, h.tab, h.tabBad, h.crossings, h.sets, h.stream, h.incs, h.trig, h.board, h.bres, h.vre, h.clk, h.ptp, h.lanes, h.hl, h.vports, h.maus, h.therms, h.cool, h.cells, h.regs⟩

theorem Same_board {k : Nat} {s x : State} {board_ : SMap BCell} (h : Same k s x) (w : k &&& 0x8000000000000 = 0) :
    Same k s (State.mk x.pending x.elapsed x.free x.tml x.tmlOn x.regs x.queues x.poolLost x.fifos x.engs x.areas x.run x.image x.patches x.channels x.deliveries x.timers x.markers x.path0 x.path1 x.lastPath x.nvm x.boot x.flog x.scrubAt x.dram x.segs x.segMem x.segBad x.refills x.slices x.frames x.tapBad x.fluxes x.biases x.biasAt x.regions x.bdQual x.rfQualAt x.reads x.traces x.acqs x.krn x.krnBad x.tab x.tabBad x.crossings x.sets x.stream x.incs x.trig board_ x.bres x.vre x.clk x.ptp x.lanes x.hl x.vports x.maus x.therms x.cool) :=
  ⟨h.pending, h.elapsed, h.free, h.tml, h.tmlOn, h.queues, h.poolLost, h.fifos, h.engs, h.areas, h.run, h.image, h.patches, h.channels, h.deliveries, h.timers, h.markers, h.path0, h.path1, h.lastPath, h.nvm, h.boot, h.flog, h.scrubAt, h.dram, h.segs, h.segMem, h.segBad, h.refills, h.slices, h.frames, h.tapBad, h.fluxes, h.biases, h.biasAt, h.regions, h.bdQual, h.rfQualAt, h.reads, h.traces, h.acqs, h.krn, h.krnBad, h.tab, h.tabBad, h.crossings, h.sets, h.stream, h.incs, h.trig, no (bitFree w rfl), h.bres, h.vre, h.clk, h.ptp, h.lanes, h.hl, h.vports, h.maus, h.therms, h.cool, h.cells, h.regs⟩

theorem Same_board_bres {k : Nat} {s x : State} {board_ : SMap BCell} {bres_ : SMap Bre} (h : Same k s x) (w : k &&& 0x18000000000000 = 0) :
    Same k s (State.mk x.pending x.elapsed x.free x.tml x.tmlOn x.regs x.queues x.poolLost x.fifos x.engs x.areas x.run x.image x.patches x.channels x.deliveries x.timers x.markers x.path0 x.path1 x.lastPath x.nvm x.boot x.flog x.scrubAt x.dram x.segs x.segMem x.segBad x.refills x.slices x.frames x.tapBad x.fluxes x.biases x.biasAt x.regions x.bdQual x.rfQualAt x.reads x.traces x.acqs x.krn x.krnBad x.tab x.tabBad x.crossings x.sets x.stream x.incs x.trig board_ bres_ x.vre x.clk x.ptp x.lanes x.hl x.vports x.maus x.therms x.cool) :=
  ⟨h.pending, h.elapsed, h.free, h.tml, h.tmlOn, h.queues, h.poolLost, h.fifos, h.engs, h.areas, h.run, h.image, h.patches, h.channels, h.deliveries, h.timers, h.markers, h.path0, h.path1, h.lastPath, h.nvm, h.boot, h.flog, h.scrubAt, h.dram, h.segs, h.segMem, h.segBad, h.refills, h.slices, h.frames, h.tapBad, h.fluxes, h.biases, h.biasAt, h.regions, h.bdQual, h.rfQualAt, h.reads, h.traces, h.acqs, h.krn, h.krnBad, h.tab, h.tabBad, h.crossings, h.sets, h.stream, h.incs, h.trig, no (bitFree w rfl), no (bitFree w rfl), h.vre, h.clk, h.ptp, h.lanes, h.hl, h.vports, h.maus, h.therms, h.cool, h.cells, h.regs⟩

theorem Same_boot {k : Nat} {s x : State} {boot_ : Boot} (h : Same k s x) (w : k &&& 0x400000 = 0) :
    Same k s (State.mk x.pending x.elapsed x.free x.tml x.tmlOn x.regs x.queues x.poolLost x.fifos x.engs x.areas x.run x.image x.patches x.channels x.deliveries x.timers x.markers x.path0 x.path1 x.lastPath x.nvm boot_ x.flog x.scrubAt x.dram x.segs x.segMem x.segBad x.refills x.slices x.frames x.tapBad x.fluxes x.biases x.biasAt x.regions x.bdQual x.rfQualAt x.reads x.traces x.acqs x.krn x.krnBad x.tab x.tabBad x.crossings x.sets x.stream x.incs x.trig x.board x.bres x.vre x.clk x.ptp x.lanes x.hl x.vports x.maus x.therms x.cool) :=
  ⟨h.pending, h.elapsed, h.free, h.tml, h.tmlOn, h.queues, h.poolLost, h.fifos, h.engs, h.areas, h.run, h.image, h.patches, h.channels, h.deliveries, h.timers, h.markers, h.path0, h.path1, h.lastPath, h.nvm, no (bitFree w rfl), h.flog, h.scrubAt, h.dram, h.segs, h.segMem, h.segBad, h.refills, h.slices, h.frames, h.tapBad, h.fluxes, h.biases, h.biasAt, h.regions, h.bdQual, h.rfQualAt, h.reads, h.traces, h.acqs, h.krn, h.krnBad, h.tab, h.tabBad, h.crossings, h.sets, h.stream, h.incs, h.trig, h.board, h.bres, h.vre, h.clk, h.ptp, h.lanes, h.hl, h.vports, h.maus, h.therms, h.cool, h.cells, h.regs⟩

theorem Same_boot_biases {k : Nat} {s x : State} {boot_ : Boot} {biases_ : SMap BiasCh} (h : Same k s x) (w : k &&& 0x400400000 = 0) :
    Same k s (State.mk x.pending x.elapsed x.free x.tml x.tmlOn x.regs x.queues x.poolLost x.fifos x.engs x.areas x.run x.image x.patches x.channels x.deliveries x.timers x.markers x.path0 x.path1 x.lastPath x.nvm boot_ x.flog x.scrubAt x.dram x.segs x.segMem x.segBad x.refills x.slices x.frames x.tapBad x.fluxes biases_ x.biasAt x.regions x.bdQual x.rfQualAt x.reads x.traces x.acqs x.krn x.krnBad x.tab x.tabBad x.crossings x.sets x.stream x.incs x.trig x.board x.bres x.vre x.clk x.ptp x.lanes x.hl x.vports x.maus x.therms x.cool) :=
  ⟨h.pending, h.elapsed, h.free, h.tml, h.tmlOn, h.queues, h.poolLost, h.fifos, h.engs, h.areas, h.run, h.image, h.patches, h.channels, h.deliveries, h.timers, h.markers, h.path0, h.path1, h.lastPath, h.nvm, no (bitFree w rfl), h.flog, h.scrubAt, h.dram, h.segs, h.segMem, h.segBad, h.refills, h.slices, h.frames, h.tapBad, h.fluxes, no (bitFree w rfl), h.biasAt, h.regions, h.bdQual, h.rfQualAt, h.reads, h.traces, h.acqs, h.krn, h.krnBad, h.tab, h.tabBad, h.crossings, h.sets, h.stream, h.incs, h.trig, h.board, h.bres, h.vre, h.clk, h.ptp, h.lanes, h.hl, h.vports, h.maus, h.therms, h.cool, h.cells, h.regs⟩

theorem Same_bres {k : Nat} {s x : State} {bres_ : SMap Bre} (h : Same k s x) (w : k &&& 0x10000000000000 = 0) :
    Same k s (State.mk x.pending x.elapsed x.free x.tml x.tmlOn x.regs x.queues x.poolLost x.fifos x.engs x.areas x.run x.image x.patches x.channels x.deliveries x.timers x.markers x.path0 x.path1 x.lastPath x.nvm x.boot x.flog x.scrubAt x.dram x.segs x.segMem x.segBad x.refills x.slices x.frames x.tapBad x.fluxes x.biases x.biasAt x.regions x.bdQual x.rfQualAt x.reads x.traces x.acqs x.krn x.krnBad x.tab x.tabBad x.crossings x.sets x.stream x.incs x.trig x.board bres_ x.vre x.clk x.ptp x.lanes x.hl x.vports x.maus x.therms x.cool) :=
  ⟨h.pending, h.elapsed, h.free, h.tml, h.tmlOn, h.queues, h.poolLost, h.fifos, h.engs, h.areas, h.run, h.image, h.patches, h.channels, h.deliveries, h.timers, h.markers, h.path0, h.path1, h.lastPath, h.nvm, h.boot, h.flog, h.scrubAt, h.dram, h.segs, h.segMem, h.segBad, h.refills, h.slices, h.frames, h.tapBad, h.fluxes, h.biases, h.biasAt, h.regions, h.bdQual, h.rfQualAt, h.reads, h.traces, h.acqs, h.krn, h.krnBad, h.tab, h.tabBad, h.crossings, h.sets, h.stream, h.incs, h.trig, h.board, no (bitFree w rfl), h.vre, h.clk, h.ptp, h.lanes, h.hl, h.vports, h.maus, h.therms, h.cool, h.cells, h.regs⟩

theorem Same_channels {k : Nat} {s x : State} {channels_ : SMap Channel} (h : Same k s x) (w : k &&& 0x4000 = 0) :
    Same k s (State.mk x.pending x.elapsed x.free x.tml x.tmlOn x.regs x.queues x.poolLost x.fifos x.engs x.areas x.run x.image x.patches channels_ x.deliveries x.timers x.markers x.path0 x.path1 x.lastPath x.nvm x.boot x.flog x.scrubAt x.dram x.segs x.segMem x.segBad x.refills x.slices x.frames x.tapBad x.fluxes x.biases x.biasAt x.regions x.bdQual x.rfQualAt x.reads x.traces x.acqs x.krn x.krnBad x.tab x.tabBad x.crossings x.sets x.stream x.incs x.trig x.board x.bres x.vre x.clk x.ptp x.lanes x.hl x.vports x.maus x.therms x.cool) :=
  ⟨h.pending, h.elapsed, h.free, h.tml, h.tmlOn, h.queues, h.poolLost, h.fifos, h.engs, h.areas, h.run, h.image, h.patches, no (bitFree w rfl), h.deliveries, h.timers, h.markers, h.path0, h.path1, h.lastPath, h.nvm, h.boot, h.flog, h.scrubAt, h.dram, h.segs, h.segMem, h.segBad, h.refills, h.slices, h.frames, h.tapBad, h.fluxes, h.biases, h.biasAt, h.regions, h.bdQual, h.rfQualAt, h.reads, h.traces, h.acqs, h.krn, h.krnBad, h.tab, h.tabBad, h.crossings, h.sets, h.stream, h.incs, h.trig, h.board, h.bres, h.vre, h.clk, h.ptp, h.lanes, h.hl, h.vports, h.maus, h.therms, h.cool, h.cells, h.regs⟩

theorem Same_clk {k : Nat} {s x : State} {clk_ : Clocks} (h : Same k s x) (w : k &&& 0x40000000000000 = 0) :
    Same k s (State.mk x.pending x.elapsed x.free x.tml x.tmlOn x.regs x.queues x.poolLost x.fifos x.engs x.areas x.run x.image x.patches x.channels x.deliveries x.timers x.markers x.path0 x.path1 x.lastPath x.nvm x.boot x.flog x.scrubAt x.dram x.segs x.segMem x.segBad x.refills x.slices x.frames x.tapBad x.fluxes x.biases x.biasAt x.regions x.bdQual x.rfQualAt x.reads x.traces x.acqs x.krn x.krnBad x.tab x.tabBad x.crossings x.sets x.stream x.incs x.trig x.board x.bres x.vre clk_ x.ptp x.lanes x.hl x.vports x.maus x.therms x.cool) :=
  ⟨h.pending, h.elapsed, h.free, h.tml, h.tmlOn, h.queues, h.poolLost, h.fifos, h.engs, h.areas, h.run, h.image, h.patches, h.channels, h.deliveries, h.timers, h.markers, h.path0, h.path1, h.lastPath, h.nvm, h.boot, h.flog, h.scrubAt, h.dram, h.segs, h.segMem, h.segBad, h.refills, h.slices, h.frames, h.tapBad, h.fluxes, h.biases, h.biasAt, h.regions, h.bdQual, h.rfQualAt, h.reads, h.traces, h.acqs, h.krn, h.krnBad, h.tab, h.tabBad, h.crossings, h.sets, h.stream, h.incs, h.trig, h.board, h.bres, h.vre, no (bitFree w rfl), h.ptp, h.lanes, h.hl, h.vports, h.maus, h.therms, h.cool, h.cells, h.regs⟩

theorem Same_cool {k : Nat} {s x : State} {cool_ : Cooling} (h : Same k s x) (w : k &&& 0x2000000000000000 = 0) :
    Same k s (State.mk x.pending x.elapsed x.free x.tml x.tmlOn x.regs x.queues x.poolLost x.fifos x.engs x.areas x.run x.image x.patches x.channels x.deliveries x.timers x.markers x.path0 x.path1 x.lastPath x.nvm x.boot x.flog x.scrubAt x.dram x.segs x.segMem x.segBad x.refills x.slices x.frames x.tapBad x.fluxes x.biases x.biasAt x.regions x.bdQual x.rfQualAt x.reads x.traces x.acqs x.krn x.krnBad x.tab x.tabBad x.crossings x.sets x.stream x.incs x.trig x.board x.bres x.vre x.clk x.ptp x.lanes x.hl x.vports x.maus x.therms cool_) :=
  ⟨h.pending, h.elapsed, h.free, h.tml, h.tmlOn, h.queues, h.poolLost, h.fifos, h.engs, h.areas, h.run, h.image, h.patches, h.channels, h.deliveries, h.timers, h.markers, h.path0, h.path1, h.lastPath, h.nvm, h.boot, h.flog, h.scrubAt, h.dram, h.segs, h.segMem, h.segBad, h.refills, h.slices, h.frames, h.tapBad, h.fluxes, h.biases, h.biasAt, h.regions, h.bdQual, h.rfQualAt, h.reads, h.traces, h.acqs, h.krn, h.krnBad, h.tab, h.tabBad, h.crossings, h.sets, h.stream, h.incs, h.trig, h.board, h.bres, h.vre, h.clk, h.ptp, h.lanes, h.hl, h.vports, h.maus, h.therms, no (bitFree w rfl), h.cells, h.regs⟩

theorem Same_crossings {k : Nat} {s x : State} {crossings_ : SMap (List (List Word × Nat))} (h : Same k s x) (w : k &&& 0x400000000000 = 0) :
    Same k s (State.mk x.pending x.elapsed x.free x.tml x.tmlOn x.regs x.queues x.poolLost x.fifos x.engs x.areas x.run x.image x.patches x.channels x.deliveries x.timers x.markers x.path0 x.path1 x.lastPath x.nvm x.boot x.flog x.scrubAt x.dram x.segs x.segMem x.segBad x.refills x.slices x.frames x.tapBad x.fluxes x.biases x.biasAt x.regions x.bdQual x.rfQualAt x.reads x.traces x.acqs x.krn x.krnBad x.tab x.tabBad crossings_ x.sets x.stream x.incs x.trig x.board x.bres x.vre x.clk x.ptp x.lanes x.hl x.vports x.maus x.therms x.cool) :=
  ⟨h.pending, h.elapsed, h.free, h.tml, h.tmlOn, h.queues, h.poolLost, h.fifos, h.engs, h.areas, h.run, h.image, h.patches, h.channels, h.deliveries, h.timers, h.markers, h.path0, h.path1, h.lastPath, h.nvm, h.boot, h.flog, h.scrubAt, h.dram, h.segs, h.segMem, h.segBad, h.refills, h.slices, h.frames, h.tapBad, h.fluxes, h.biases, h.biasAt, h.regions, h.bdQual, h.rfQualAt, h.reads, h.traces, h.acqs, h.krn, h.krnBad, h.tab, h.tabBad, no (bitFree w rfl), h.sets, h.stream, h.incs, h.trig, h.board, h.bres, h.vre, h.clk, h.ptp, h.lanes, h.hl, h.vports, h.maus, h.therms, h.cool, h.cells, h.regs⟩

theorem Same_deliveries {k : Nat} {s x : State} {deliveries_ : List Delivery} (h : Same k s x) (w : k &&& 0x8000 = 0) :
    Same k s (State.mk x.pending x.elapsed x.free x.tml x.tmlOn x.regs x.queues x.poolLost x.fifos x.engs x.areas x.run x.image x.patches x.channels deliveries_ x.timers x.markers x.path0 x.path1 x.lastPath x.nvm x.boot x.flog x.scrubAt x.dram x.segs x.segMem x.segBad x.refills x.slices x.frames x.tapBad x.fluxes x.biases x.biasAt x.regions x.bdQual x.rfQualAt x.reads x.traces x.acqs x.krn x.krnBad x.tab x.tabBad x.crossings x.sets x.stream x.incs x.trig x.board x.bres x.vre x.clk x.ptp x.lanes x.hl x.vports x.maus x.therms x.cool) :=
  ⟨h.pending, h.elapsed, h.free, h.tml, h.tmlOn, h.queues, h.poolLost, h.fifos, h.engs, h.areas, h.run, h.image, h.patches, h.channels, no (bitFree w rfl), h.timers, h.markers, h.path0, h.path1, h.lastPath, h.nvm, h.boot, h.flog, h.scrubAt, h.dram, h.segs, h.segMem, h.segBad, h.refills, h.slices, h.frames, h.tapBad, h.fluxes, h.biases, h.biasAt, h.regions, h.bdQual, h.rfQualAt, h.reads, h.traces, h.acqs, h.krn, h.krnBad, h.tab, h.tabBad, h.crossings, h.sets, h.stream, h.incs, h.trig, h.board, h.bres, h.vre, h.clk, h.ptp, h.lanes, h.hl, h.vports, h.maus, h.therms, h.cool, h.cells, h.regs⟩

theorem Same_elapsed {k : Nat} {s x : State} {elapsed_ : Nat} (h : Same k s x) (w : k &&& 0x2 = 0) :
    Same k s (State.mk x.pending elapsed_ x.free x.tml x.tmlOn x.regs x.queues x.poolLost x.fifos x.engs x.areas x.run x.image x.patches x.channels x.deliveries x.timers x.markers x.path0 x.path1 x.lastPath x.nvm x.boot x.flog x.scrubAt x.dram x.segs x.segMem x.segBad x.refills x.slices x.frames x.tapBad x.fluxes x.biases x.biasAt x.regions x.bdQual x.rfQualAt x.reads x.traces x.acqs x.krn x.krnBad x.tab x.tabBad x.crossings x.sets x.stream x.incs x.trig x.board x.bres x.vre x.clk x.ptp x.lanes x.hl x.vports x.maus x.therms x.cool) :=
  ⟨h.pending, no (bitFree w rfl), h.free, h.tml, h.tmlOn, h.queues, h.poolLost, h.fifos, h.engs, h.areas, h.run, h.image, h.patches, h.channels, h.deliveries, h.timers, h.markers, h.path0, h.path1, h.lastPath, h.nvm, h.boot, h.flog, h.scrubAt, h.dram, h.segs, h.segMem, h.segBad, h.refills, h.slices, h.frames, h.tapBad, h.fluxes, h.biases, h.biasAt, h.regions, h.bdQual, h.rfQualAt, h.reads, h.traces, h.acqs, h.krn, h.krnBad, h.tab, h.tabBad, h.crossings, h.sets, h.stream, h.incs, h.trig, h.board, h.bres, h.vre, h.clk, h.ptp, h.lanes, h.hl, h.vports, h.maus, h.therms, h.cool, h.cells, h.regs⟩

theorem Same_elapsed_tml {k : Nat} {s x : State} {elapsed_ : Nat} {tml_ : Nat} (h : Same k s x) (w : k &&& 0xA = 0) :
    Same k s (State.mk x.pending elapsed_ x.free tml_ x.tmlOn x.regs x.queues x.poolLost x.fifos x.engs x.areas x.run x.image x.patches x.channels x.deliveries x.timers x.markers x.path0 x.path1 x.lastPath x.nvm x.boot x.flog x.scrubAt x.dram x.segs x.segMem x.segBad x.refills x.slices x.frames x.tapBad x.fluxes x.biases x.biasAt x.regions x.bdQual x.rfQualAt x.reads x.traces x.acqs x.krn x.krnBad x.tab x.tabBad x.crossings x.sets x.stream x.incs x.trig x.board x.bres x.vre x.clk x.ptp x.lanes x.hl x.vports x.maus x.therms x.cool) :=
  ⟨h.pending, no (bitFree w rfl), h.free, no (bitFree w rfl), h.tmlOn, h.queues, h.poolLost, h.fifos, h.engs, h.areas, h.run, h.image, h.patches, h.channels, h.deliveries, h.timers, h.markers, h.path0, h.path1, h.lastPath, h.nvm, h.boot, h.flog, h.scrubAt, h.dram, h.segs, h.segMem, h.segBad, h.refills, h.slices, h.frames, h.tapBad, h.fluxes, h.biases, h.biasAt, h.regions, h.bdQual, h.rfQualAt, h.reads, h.traces, h.acqs, h.krn, h.krnBad, h.tab, h.tabBad, h.crossings, h.sets, h.stream, h.incs, h.trig, h.board, h.bres, h.vre, h.clk, h.ptp, h.lanes, h.hl, h.vports, h.maus, h.therms, h.cool, h.cells, h.regs⟩

theorem Same_engs {k : Nat} {s x : State} {engs_ : SMap Engine} (h : Same k s x) (w : k &&& 0x200 = 0) :
    Same k s (State.mk x.pending x.elapsed x.free x.tml x.tmlOn x.regs x.queues x.poolLost x.fifos engs_ x.areas x.run x.image x.patches x.channels x.deliveries x.timers x.markers x.path0 x.path1 x.lastPath x.nvm x.boot x.flog x.scrubAt x.dram x.segs x.segMem x.segBad x.refills x.slices x.frames x.tapBad x.fluxes x.biases x.biasAt x.regions x.bdQual x.rfQualAt x.reads x.traces x.acqs x.krn x.krnBad x.tab x.tabBad x.crossings x.sets x.stream x.incs x.trig x.board x.bres x.vre x.clk x.ptp x.lanes x.hl x.vports x.maus x.therms x.cool) :=
  ⟨h.pending, h.elapsed, h.free, h.tml, h.tmlOn, h.queues, h.poolLost, h.fifos, no (bitFree w rfl), h.areas, h.run, h.image, h.patches, h.channels, h.deliveries, h.timers, h.markers, h.path0, h.path1, h.lastPath, h.nvm, h.boot, h.flog, h.scrubAt, h.dram, h.segs, h.segMem, h.segBad, h.refills, h.slices, h.frames, h.tapBad, h.fluxes, h.biases, h.biasAt, h.regions, h.bdQual, h.rfQualAt, h.reads, h.traces, h.acqs, h.krn, h.krnBad, h.tab, h.tabBad, h.crossings, h.sets, h.stream, h.incs, h.trig, h.board, h.bres, h.vre, h.clk, h.ptp, h.lanes, h.hl, h.vports, h.maus, h.therms, h.cool, h.cells, h.regs⟩

theorem Same_fifos {k : Nat} {s x : State} {fifos_ : SMap Fifo} (h : Same k s x) (w : k &&& 0x100 = 0) :
    Same k s (State.mk x.pending x.elapsed x.free x.tml x.tmlOn x.regs x.queues x.poolLost fifos_ x.engs x.areas x.run x.image x.patches x.channels x.deliveries x.timers x.markers x.path0 x.path1 x.lastPath x.nvm x.boot x.flog x.scrubAt x.dram x.segs x.segMem x.segBad x.refills x.slices x.frames x.tapBad x.fluxes x.biases x.biasAt x.regions x.bdQual x.rfQualAt x.reads x.traces x.acqs x.krn x.krnBad x.tab x.tabBad x.crossings x.sets x.stream x.incs x.trig x.board x.bres x.vre x.clk x.ptp x.lanes x.hl x.vports x.maus x.therms x.cool) :=
  ⟨h.pending, h.elapsed, h.free, h.tml, h.tmlOn, h.queues, h.poolLost, no (bitFree w rfl), h.engs, h.areas, h.run, h.image, h.patches, h.channels, h.deliveries, h.timers, h.markers, h.path0, h.path1, h.lastPath, h.nvm, h.boot, h.flog, h.scrubAt, h.dram, h.segs, h.segMem, h.segBad, h.refills, h.slices, h.frames, h.tapBad, h.fluxes, h.biases, h.biasAt, h.regions, h.bdQual, h.rfQualAt, h.reads, h.traces, h.acqs, h.krn, h.krnBad, h.tab, h.tabBad, h.crossings, h.sets, h.stream, h.incs, h.trig, h.board, h.bres, h.vre, h.clk, h.ptp, h.lanes, h.hl, h.vports, h.maus, h.therms, h.cool, h.cells, h.regs⟩

theorem Same_flog {k : Nat} {s x : State} {flog_ : FaultLog} (h : Same k s x) (w : k &&& 0x800000 = 0) :
    Same k s (State.mk x.pending x.elapsed x.free x.tml x.tmlOn x.regs x.queues x.poolLost x.fifos x.engs x.areas x.run x.image x.patches x.channels x.deliveries x.timers x.markers x.path0 x.path1 x.lastPath x.nvm x.boot flog_ x.scrubAt x.dram x.segs x.segMem x.segBad x.refills x.slices x.frames x.tapBad x.fluxes x.biases x.biasAt x.regions x.bdQual x.rfQualAt x.reads x.traces x.acqs x.krn x.krnBad x.tab x.tabBad x.crossings x.sets x.stream x.incs x.trig x.board x.bres x.vre x.clk x.ptp x.lanes x.hl x.vports x.maus x.therms x.cool) :=
  ⟨h.pending, h.elapsed, h.free, h.tml, h.tmlOn, h.queues, h.poolLost, h.fifos, h.engs, h.areas, h.run, h.image, h.patches, h.channels, h.deliveries, h.timers, h.markers, h.path0, h.path1, h.lastPath, h.nvm, h.boot, no (bitFree w rfl), h.scrubAt, h.dram, h.segs, h.segMem, h.segBad, h.refills, h.slices, h.frames, h.tapBad, h.fluxes, h.biases, h.biasAt, h.regions, h.bdQual, h.rfQualAt, h.reads, h.traces, h.acqs, h.krn, h.krnBad, h.tab, h.tabBad, h.crossings, h.sets, h.stream, h.incs, h.trig, h.board, h.bres, h.vre, h.clk, h.ptp, h.lanes, h.hl, h.vports, h.maus, h.therms, h.cool, h.cells, h.regs⟩

theorem Same_fluxes {k : Nat} {s x : State} {fluxes_ : SMap FluxCh} (h : Same k s x) (w : k &&& 0x200000000 = 0) :
    Same k s (State.mk x.pending x.elapsed x.free x.tml x.tmlOn x.regs x.queues x.poolLost x.fifos x.engs x.areas x.run x.image x.patches x.channels x.deliveries x.timers x.markers x.path0 x.path1 x.lastPath x.nvm x.boot x.flog x.scrubAt x.dram x.segs x.segMem x.segBad x.refills x.slices x.frames x.tapBad fluxes_ x.biases x.biasAt x.regions x.bdQual x.rfQualAt x.reads x.traces x.acqs x.krn x.krnBad x.tab x.tabBad x.crossings x.sets x.stream x.incs x.trig x.board x.bres x.vre x.clk x.ptp x.lanes x.hl x.vports x.maus x.therms x.cool) :=
  ⟨h.pending, h.elapsed, h.free, h.tml, h.tmlOn, h.queues, h.poolLost, h.fifos, h.engs, h.areas, h.run, h.image, h.patches, h.channels, h.deliveries, h.timers, h.markers, h.path0, h.path1, h.lastPath, h.nvm, h.boot, h.flog, h.scrubAt, h.dram, h.segs, h.segMem, h.segBad, h.refills, h.slices, h.frames, h.tapBad, no (bitFree w rfl), h.biases, h.biasAt, h.regions, h.bdQual, h.rfQualAt, h.reads, h.traces, h.acqs, h.krn, h.krnBad, h.tab, h.tabBad, h.crossings, h.sets, h.stream, h.incs, h.trig, h.board, h.bres, h.vre, h.clk, h.ptp, h.lanes, h.hl, h.vports, h.maus, h.therms, h.cool, h.cells, h.regs⟩

theorem Same_frames {k : Nat} {s x : State} {frames_ : SMap (List FrameAt)} (h : Same k s x) (w : k &&& 0x80000000 = 0) :
    Same k s (State.mk x.pending x.elapsed x.free x.tml x.tmlOn x.regs x.queues x.poolLost x.fifos x.engs x.areas x.run x.image x.patches x.channels x.deliveries x.timers x.markers x.path0 x.path1 x.lastPath x.nvm x.boot x.flog x.scrubAt x.dram x.segs x.segMem x.segBad x.refills x.slices frames_ x.tapBad x.fluxes x.biases x.biasAt x.regions x.bdQual x.rfQualAt x.reads x.traces x.acqs x.krn x.krnBad x.tab x.tabBad x.crossings x.sets x.stream x.incs x.trig x.board x.bres x.vre x.clk x.ptp x.lanes x.hl x.vports x.maus x.therms x.cool) :=
  ⟨h.pending, h.elapsed, h.free, h.tml, h.tmlOn, h.queues, h.poolLost, h.fifos, h.engs, h.areas, h.run, h.image, h.patches, h.channels, h.deliveries, h.timers, h.markers, h.path0, h.path1, h.lastPath, h.nvm, h.boot, h.flog, h.scrubAt, h.dram, h.segs, h.segMem, h.segBad, h.refills, h.slices, no (bitFree w rfl), h.tapBad, h.fluxes, h.biases, h.biasAt, h.regions, h.bdQual, h.rfQualAt, h.reads, h.traces, h.acqs, h.krn, h.krnBad, h.tab, h.tabBad, h.crossings, h.sets, h.stream, h.incs, h.trig, h.board, h.bres, h.vre, h.clk, h.ptp, h.lanes, h.hl, h.vports, h.maus, h.therms, h.cool, h.cells, h.regs⟩

theorem Same_free {k : Nat} {s x : State} {free_ : Nat} (h : Same k s x) (w : k &&& 0x4 = 0) :
    Same k s (State.mk x.pending x.elapsed free_ x.tml x.tmlOn x.regs x.queues x.poolLost x.fifos x.engs x.areas x.run x.image x.patches x.channels x.deliveries x.timers x.markers x.path0 x.path1 x.lastPath x.nvm x.boot x.flog x.scrubAt x.dram x.segs x.segMem x.segBad x.refills x.slices x.frames x.tapBad x.fluxes x.biases x.biasAt x.regions x.bdQual x.rfQualAt x.reads x.traces x.acqs x.krn x.krnBad x.tab x.tabBad x.crossings x.sets x.stream x.incs x.trig x.board x.bres x.vre x.clk x.ptp x.lanes x.hl x.vports x.maus x.therms x.cool) :=
  ⟨h.pending, h.elapsed, no (bitFree w rfl), h.tml, h.tmlOn, h.queues, h.poolLost, h.fifos, h.engs, h.areas, h.run, h.image, h.patches, h.channels, h.deliveries, h.timers, h.markers, h.path0, h.path1, h.lastPath, h.nvm, h.boot, h.flog, h.scrubAt, h.dram, h.segs, h.segMem, h.segBad, h.refills, h.slices, h.frames, h.tapBad, h.fluxes, h.biases, h.biasAt, h.regions, h.bdQual, h.rfQualAt, h.reads, h.traces, h.acqs, h.krn, h.krnBad, h.tab, h.tabBad, h.crossings, h.sets, h.stream, h.incs, h.trig, h.board, h.bres, h.vre, h.clk, h.ptp, h.lanes, h.hl, h.vports, h.maus, h.therms, h.cool, h.cells, h.regs⟩

theorem Same_hl {k : Nat} {s x : State} {hl_ : HostLink} (h : Same k s x) (w : k &&& 0x200000000000000 = 0) :
    Same k s (State.mk x.pending x.elapsed x.free x.tml x.tmlOn x.regs x.queues x.poolLost x.fifos x.engs x.areas x.run x.image x.patches x.channels x.deliveries x.timers x.markers x.path0 x.path1 x.lastPath x.nvm x.boot x.flog x.scrubAt x.dram x.segs x.segMem x.segBad x.refills x.slices x.frames x.tapBad x.fluxes x.biases x.biasAt x.regions x.bdQual x.rfQualAt x.reads x.traces x.acqs x.krn x.krnBad x.tab x.tabBad x.crossings x.sets x.stream x.incs x.trig x.board x.bres x.vre x.clk x.ptp x.lanes hl_ x.vports x.maus x.therms x.cool) :=
  ⟨h.pending, h.elapsed, h.free, h.tml, h.tmlOn, h.queues, h.poolLost, h.fifos, h.engs, h.areas, h.run, h.image, h.patches, h.channels, h.deliveries, h.timers, h.markers, h.path0, h.path1, h.lastPath, h.nvm, h.boot, h.flog, h.scrubAt, h.dram, h.segs, h.segMem, h.segBad, h.refills, h.slices, h.frames, h.tapBad, h.fluxes, h.biases, h.biasAt, h.regions, h.bdQual, h.rfQualAt, h.reads, h.traces, h.acqs, h.krn, h.krnBad, h.tab, h.tabBad, h.crossings, h.sets, h.stream, h.incs, h.trig, h.board, h.bres, h.vre, h.clk, h.ptp, h.lanes, no (bitFree w rfl), h.vports, h.maus, h.therms, h.cool, h.cells, h.regs⟩

theorem Same_image {k : Nat} {s x : State} {image_ : ImageInfo} (h : Same k s x) (w : k &&& 0x1000 = 0) :
    Same k s (State.mk x.pending x.elapsed x.free x.tml x.tmlOn x.regs x.queues x.poolLost x.fifos x.engs x.areas x.run image_ x.patches x.channels x.deliveries x.timers x.markers x.path0 x.path1 x.lastPath x.nvm x.boot x.flog x.scrubAt x.dram x.segs x.segMem x.segBad x.refills x.slices x.frames x.tapBad x.fluxes x.biases x.biasAt x.regions x.bdQual x.rfQualAt x.reads x.traces x.acqs x.krn x.krnBad x.tab x.tabBad x.crossings x.sets x.stream x.incs x.trig x.board x.bres x.vre x.clk x.ptp x.lanes x.hl x.vports x.maus x.therms x.cool) :=
  ⟨h.pending, h.elapsed, h.free, h.tml, h.tmlOn, h.queues, h.poolLost, h.fifos, h.engs, h.areas, h.run, no (bitFree w rfl), h.patches, h.channels, h.deliveries, h.timers, h.markers, h.path0, h.path1, h.lastPath, h.nvm, h.boot, h.flog, h.scrubAt, h.dram, h.segs, h.segMem, h.segBad, h.refills, h.slices, h.frames, h.tapBad, h.fluxes, h.biases, h.biasAt, h.regions, h.bdQual, h.rfQualAt, h.reads, h.traces, h.acqs, h.krn, h.krnBad, h.tab, h.tabBad, h.crossings, h.sets, h.stream, h.incs, h.trig, h.board, h.bres, h.vre, h.clk, h.ptp, h.lanes, h.hl, h.vports, h.maus, h.therms, h.cool, h.cells, h.regs⟩

theorem Same_incs {k : Nat} {s x : State} {incs_ : SMap Nat} (h : Same k s x) (w : k &&& 0x2000000000000 = 0) :
    Same k s (State.mk x.pending x.elapsed x.free x.tml x.tmlOn x.regs x.queues x.poolLost x.fifos x.engs x.areas x.run x.image x.patches x.channels x.deliveries x.timers x.markers x.path0 x.path1 x.lastPath x.nvm x.boot x.flog x.scrubAt x.dram x.segs x.segMem x.segBad x.refills x.slices x.frames x.tapBad x.fluxes x.biases x.biasAt x.regions x.bdQual x.rfQualAt x.reads x.traces x.acqs x.krn x.krnBad x.tab x.tabBad x.crossings x.sets x.stream incs_ x.trig x.board x.bres x.vre x.clk x.ptp x.lanes x.hl x.vports x.maus x.therms x.cool) :=
  ⟨h.pending, h.elapsed, h.free, h.tml, h.tmlOn, h.queues, h.poolLost, h.fifos, h.engs, h.areas, h.run, h.image, h.patches, h.channels, h.deliveries, h.timers, h.markers, h.path0, h.path1, h.lastPath, h.nvm, h.boot, h.flog, h.scrubAt, h.dram, h.segs, h.segMem, h.segBad, h.refills, h.slices, h.frames, h.tapBad, h.fluxes, h.biases, h.biasAt, h.regions, h.bdQual, h.rfQualAt, h.reads, h.traces, h.acqs, h.krn, h.krnBad, h.tab, h.tabBad, h.crossings, h.sets, h.stream, no (bitFree w rfl), h.trig, h.board, h.bres, h.vre, h.clk, h.ptp, h.lanes, h.hl, h.vports, h.maus, h.therms, h.cool, h.cells, h.regs⟩

theorem Same_krnBad {k : Nat} {s x : State} {krnBad_ : List Nat} (h : Same k s x) (w : k &&& 0x80000000000 = 0) :
    Same k s (State.mk x.pending x.elapsed x.free x.tml x.tmlOn x.regs x.queues x.poolLost x.fifos x.engs x.areas x.run x.image x.patches x.channels x.deliveries x.timers x.markers x.path0 x.path1 x.lastPath x.nvm x.boot x.flog x.scrubAt x.dram x.segs x.segMem x.segBad x.refills x.slices x.frames x.tapBad x.fluxes x.biases x.biasAt x.regions x.bdQual x.rfQualAt x.reads x.traces x.acqs x.krn krnBad_ x.tab x.tabBad x.crossings x.sets x.stream x.incs x.trig x.board x.bres x.vre x.clk x.ptp x.lanes x.hl x.vports x.maus x.therms x.cool) :=
  ⟨h.pending, h.elapsed, h.free, h.tml, h.tmlOn, h.queues, h.poolLost, h.fifos, h.engs, h.areas, h.run, h.image, h.patches, h.channels, h.deliveries, h.timers, h.markers, h.path0, h.path1, h.lastPath, h.nvm, h.boot, h.flog, h.scrubAt, h.dram, h.segs, h.segMem, h.segBad, h.refills, h.slices, h.frames, h.tapBad, h.fluxes, h.biases, h.biasAt, h.regions, h.bdQual, h.rfQualAt, h.reads, h.traces, h.acqs, h.krn, no (bitFree w rfl), h.tab, h.tabBad, h.crossings, h.sets, h.stream, h.incs, h.trig, h.board, h.bres, h.vre, h.clk, h.ptp, h.lanes, h.hl, h.vports, h.maus, h.therms, h.cool, h.cells, h.regs⟩

theorem Same_krn_krnBad {k : Nat} {s x : State} {krn_ : SMap Nat} {krnBad_ : List Nat} (h : Same k s x) (w : k &&& 0xC0000000000 = 0) :
    Same k s (State.mk x.pending x.elapsed x.free x.tml x.tmlOn x.regs x.queues x.poolLost x.fifos x.engs x.areas x.run x.image x.patches x.channels x.deliveries x.timers x.markers x.path0 x.path1 x.lastPath x.nvm x.boot x.flog x.scrubAt x.dram x.segs x.segMem x.segBad x.refills x.slices x.frames x.tapBad x.fluxes x.biases x.biasAt x.regions x.bdQual x.rfQualAt x.reads x.traces x.acqs krn_ krnBad_ x.tab x.tabBad x.crossings x.sets x.stream x.incs x.trig x.board x.bres x.vre x.clk x.ptp x.lanes x.hl x.vports x.maus x.therms x.cool) :=
  ⟨h.pending, h.elapsed, h.free, h.tml, h.tmlOn, h.queues, h.poolLost, h.fifos, h.engs, h.areas, h.run, h.image, h.patches, h.channels, h.deliveries, h.timers, h.markers, h.path0, h.path1, h.lastPath, h.nvm, h.boot, h.flog, h.scrubAt, h.dram, h.segs, h.segMem, h.segBad, h.refills, h.slices, h.frames, h.tapBad, h.fluxes, h.biases, h.biasAt, h.regions, h.bdQual, h.rfQualAt, h.reads, h.traces, h.acqs, no (bitFree w rfl), no (bitFree w rfl), h.tab, h.tabBad, h.crossings, h.sets, h.stream, h.incs, h.trig, h.board, h.bres, h.vre, h.clk, h.ptp, h.lanes, h.hl, h.vports, h.maus, h.therms, h.cool, h.cells, h.regs⟩

theorem Same_lanes {k : Nat} {s x : State} {lanes_ : SMap Lane} (h : Same k s x) (w : k &&& 0x100000000000000 = 0) :
    Same k s (State.mk x.pending x.elapsed x.free x.tml x.tmlOn x.regs x.queues x.poolLost x.fifos x.engs x.areas x.run x.image x.patches x.channels x.deliveries x.timers x.markers x.path0 x.path1 x.lastPath x.nvm x.boot x.flog x.scrubAt x.dram x.segs x.segMem x.segBad x.refills x.slices x.frames x.tapBad x.fluxes x.biases x.biasAt x.regions x.bdQual x.rfQualAt x.reads x.traces x.acqs x.krn x.krnBad x.tab x.tabBad x.crossings x.sets x.stream x.incs x.trig x.board x.bres x.vre x.clk x.ptp lanes_ x.hl x.vports x.maus x.therms x.cool) :=
  ⟨h.pending, h.elapsed, h.free, h.tml, h.tmlOn, h.queues, h.poolLost, h.fifos, h.engs, h.areas, h.run, h.image, h.patches, h.channels, h.deliveries, h.timers, h.markers, h.path0, h.path1, h.lastPath, h.nvm, h.boot, h.flog, h.scrubAt, h.dram, h.segs, h.segMem, h.segBad, h.refills, h.slices, h.frames, h.tapBad, h.fluxes, h.biases, h.biasAt, h.regions, h.bdQual, h.rfQualAt, h.reads, h.traces, h.acqs, h.krn, h.krnBad, h.tab, h.tabBad, h.crossings, h.sets, h.stream, h.incs, h.trig, h.board, h.bres, h.vre, h.clk, h.ptp, no (bitFree w rfl), h.hl, h.vports, h.maus, h.therms, h.cool, h.cells, h.regs⟩

theorem Same_lastPath {k : Nat} {s x : State} {lastPath_ : Path} (h : Same k s x) (w : k &&& 0x100000 = 0) :
    Same k s (State.mk x.pending x.elapsed x.free x.tml x.tmlOn x.regs x.queues x.poolLost x.fifos x.engs x.areas x.run x.image x.patches x.channels x.deliveries x.timers x.markers x.path0 x.path1 lastPath_ x.nvm x.boot x.flog x.scrubAt x.dram x.segs x.segMem x.segBad x.refills x.slices x.frames x.tapBad x.fluxes x.biases x.biasAt x.regions x.bdQual x.rfQualAt x.reads x.traces x.acqs x.krn x.krnBad x.tab x.tabBad x.crossings x.sets x.stream x.incs x.trig x.board x.bres x.vre x.clk x.ptp x.lanes x.hl x.vports x.maus x.therms x.cool) :=
  ⟨h.pending, h.elapsed, h.free, h.tml, h.tmlOn, h.queues, h.poolLost, h.fifos, h.engs, h.areas, h.run, h.image, h.patches, h.channels, h.deliveries, h.timers, h.markers, h.path0, h.path1, no (bitFree w rfl), h.nvm, h.boot, h.flog, h.scrubAt, h.dram, h.segs, h.segMem, h.segBad, h.refills, h.slices, h.frames, h.tapBad, h.fluxes, h.biases, h.biasAt, h.regions, h.bdQual, h.rfQualAt, h.reads, h.traces, h.acqs, h.krn, h.krnBad, h.tab, h.tabBad, h.crossings, h.sets, h.stream, h.incs, h.trig, h.board, h.bres, h.vre, h.clk, h.ptp, h.lanes, h.hl, h.vports, h.maus, h.therms, h.cool, h.cells, h.regs⟩

theorem Same_markers {k : Nat} {s x : State} {markers_ : SMap Marker} (h : Same k s x) (w : k &&& 0x20000 = 0) :
    Same k s (State.mk x.pending x.elapsed x.free x.tml x.tmlOn x.regs x.queues x.poolLost x.fifos x.engs x.areas x.run x.image x.patches x.channels x.deliveries x.timers markers_ x.path0 x.path1 x.lastPath x.nvm x.boot x.flog x.scrubAt x.dram x.segs x.segMem x.segBad x.refills x.slices x.frames x.tapBad x.fluxes x.biases x.biasAt x.regions x.bdQual x.rfQualAt x.reads x.traces x.acqs x.krn x.krnBad x.tab x.tabBad x.crossings x.sets x.stream x.incs x.trig x.board x.bres x.vre x.clk x.ptp x.lanes x.hl x.vports x.maus x.therms x.cool) :=
  ⟨h.pending, h.elapsed, h.free, h.tml, h.tmlOn, h.queues, h.poolLost, h.fifos, h.engs, h.areas, h.run, h.image, h.patches, h.channels, h.deliveries, h.timers, no (bitFree w rfl), h.path0, h.path1, h.lastPath, h.nvm, h.boot, h.flog, h.scrubAt, h.dram, h.segs, h.segMem, h.segBad, h.refills, h.slices, h.frames, h.tapBad, h.fluxes, h.biases, h.biasAt, h.regions, h.bdQual, h.rfQualAt, h.reads, h.traces, h.acqs, h.krn, h.krnBad, h.tab, h.tabBad, h.crossings, h.sets, h.stream, h.incs, h.trig, h.board, h.bres, h.vre, h.clk, h.ptp, h.lanes, h.hl, h.vports, h.maus, h.therms, h.cool, h.cells, h.regs⟩

theorem Same_maus {k : Nat} {s x : State} {maus_ : SMap Mau} (h : Same k s x) (w : k &&& 0x800000000000000 = 0) :
    Same k s (State.mk x.pending x.elapsed x.free x.tml x.tmlOn x.regs x.queues x.poolLost x.fifos x.engs x.areas x.run x.image x.patches x.channels x.deliveries x.timers x.markers x.path0 x.path1 x.lastPath x.nvm x.boot x.flog x.scrubAt x.dram x.segs x.segMem x.segBad x.refills x.slices x.frames x.tapBad x.fluxes x.biases x.biasAt x.regions x.bdQual x.rfQualAt x.reads x.traces x.acqs x.krn x.krnBad x.tab x.tabBad x.crossings x.sets x.stream x.incs x.trig x.board x.bres x.vre x.clk x.ptp x.lanes x.hl x.vports maus_ x.therms x.cool) :=
  ⟨h.pending, h.elapsed, h.free, h.tml, h.tmlOn, h.queues, h.poolLost, h.fifos, h.engs, h.areas, h.run, h.image, h.patches, h.channels, h.deliveries, h.timers, h.markers, h.path0, h.path1, h.lastPath, h.nvm, h.boot, h.flog, h.scrubAt, h.dram, h.segs, h.segMem, h.segBad, h.refills, h.slices, h.frames, h.tapBad, h.fluxes, h.biases, h.biasAt, h.regions, h.bdQual, h.rfQualAt, h.reads, h.traces, h.acqs, h.krn, h.krnBad, h.tab, h.tabBad, h.crossings, h.sets, h.stream, h.incs, h.trig, h.board, h.bres, h.vre, h.clk, h.ptp, h.lanes, h.hl, h.vports, no (bitFree w rfl), h.therms, h.cool, h.cells, h.regs⟩

theorem Same_nvm {k : Nat} {s x : State} {nvm_ : Nvm} (h : Same k s x) (w : k &&& 0x200000 = 0) :
    Same k s (State.mk x.pending x.elapsed x.free x.tml x.tmlOn x.regs x.queues x.poolLost x.fifos x.engs x.areas x.run x.image x.patches x.channels x.deliveries x.timers x.markers x.path0 x.path1 x.lastPath nvm_ x.boot x.flog x.scrubAt x.dram x.segs x.segMem x.segBad x.refills x.slices x.frames x.tapBad x.fluxes x.biases x.biasAt x.regions x.bdQual x.rfQualAt x.reads x.traces x.acqs x.krn x.krnBad x.tab x.tabBad x.crossings x.sets x.stream x.incs x.trig x.board x.bres x.vre x.clk x.ptp x.lanes x.hl x.vports x.maus x.therms x.cool) :=
  ⟨h.pending, h.elapsed, h.free, h.tml, h.tmlOn, h.queues, h.poolLost, h.fifos, h.engs, h.areas, h.run, h.image, h.patches, h.channels, h.deliveries, h.timers, h.markers, h.path0, h.path1, h.lastPath, no (bitFree w rfl), h.boot, h.flog, h.scrubAt, h.dram, h.segs, h.segMem, h.segBad, h.refills, h.slices, h.frames, h.tapBad, h.fluxes, h.biases, h.biasAt, h.regions, h.bdQual, h.rfQualAt, h.reads, h.traces, h.acqs, h.krn, h.krnBad, h.tab, h.tabBad, h.crossings, h.sets, h.stream, h.incs, h.trig, h.board, h.bres, h.vre, h.clk, h.ptp, h.lanes, h.hl, h.vports, h.maus, h.therms, h.cool, h.cells, h.regs⟩

theorem Same_nvm_boot {k : Nat} {s x : State} {nvm_ : Nvm} {boot_ : Boot} (h : Same k s x) (w : k &&& 0x600000 = 0) :
    Same k s (State.mk x.pending x.elapsed x.free x.tml x.tmlOn x.regs x.queues x.poolLost x.fifos x.engs x.areas x.run x.image x.patches x.channels x.deliveries x.timers x.markers x.path0 x.path1 x.lastPath nvm_ boot_ x.flog x.scrubAt x.dram x.segs x.segMem x.segBad x.refills x.slices x.frames x.tapBad x.fluxes x.biases x.biasAt x.regions x.bdQual x.rfQualAt x.reads x.traces x.acqs x.krn x.krnBad x.tab x.tabBad x.crossings x.sets x.stream x.incs x.trig x.board x.bres x.vre x.clk x.ptp x.lanes x.hl x.vports x.maus x.therms x.cool) :=
  ⟨h.pending, h.elapsed, h.free, h.tml, h.tmlOn, h.queues, h.poolLost, h.fifos, h.engs, h.areas, h.run, h.image, h.patches, h.channels, h.deliveries, h.timers, h.markers, h.path0, h.path1, h.lastPath, no (bitFree w rfl), no (bitFree w rfl), h.flog, h.scrubAt, h.dram, h.segs, h.segMem, h.segBad, h.refills, h.slices, h.frames, h.tapBad, h.fluxes, h.biases, h.biasAt, h.regions, h.bdQual, h.rfQualAt, h.reads, h.traces, h.acqs, h.krn, h.krnBad, h.tab, h.tabBad, h.crossings, h.sets, h.stream, h.incs, h.trig, h.board, h.bres, h.vre, h.clk, h.ptp, h.lanes, h.hl, h.vports, h.maus, h.therms, h.cool, h.cells, h.regs⟩

theorem Same_patches {k : Nat} {s x : State} {patches_ : SMap Patch} (h : Same k s x) (w : k &&& 0x2000 = 0) :
    Same k s (State.mk x.pending x.elapsed x.free x.tml x.tmlOn x.regs x.queues x.poolLost x.fifos x.engs x.areas x.run x.image patches_ x.channels x.deliveries x.timers x.markers x.path0 x.path1 x.lastPath x.nvm x.boot x.flog x.scrubAt x.dram x.segs x.segMem x.segBad x.refills x.slices x.frames x.tapBad x.fluxes x.biases x.biasAt x.regions x.bdQual x.rfQualAt x.reads x.traces x.acqs x.krn x.krnBad x.tab x.tabBad x.crossings x.sets x.stream x.incs x.trig x.board x.bres x.vre x.clk x.ptp x.lanes x.hl x.vports x.maus x.therms x.cool) :=
  ⟨h.pending, h.elapsed, h.free, h.tml, h.tmlOn, h.queues, h.poolLost, h.fifos, h.engs, h.areas, h.run, h.image, no (bitFree w rfl), h.channels, h.deliveries, h.timers, h.markers, h.path0, h.path1, h.lastPath, h.nvm, h.boot, h.flog, h.scrubAt, h.dram, h.segs, h.segMem, h.segBad, h.refills, h.slices, h.frames, h.tapBad, h.fluxes, h.biases, h.biasAt, h.regions, h.bdQual, h.rfQualAt, h.reads, h.traces, h.acqs, h.krn, h.krnBad, h.tab, h.tabBad, h.crossings, h.sets, h.stream, h.incs, h.trig, h.board, h.bres, h.vre, h.clk, h.ptp, h.lanes, h.hl, h.vports, h.maus, h.therms, h.cool, h.cells, h.regs⟩

theorem Same_path0 {k : Nat} {s x : State} {path0_ : PathState} (h : Same k s x) (w : k &&& 0x40000 = 0) :
    Same k s (State.mk x.pending x.elapsed x.free x.tml x.tmlOn x.regs x.queues x.poolLost x.fifos x.engs x.areas x.run x.image x.patches x.channels x.deliveries x.timers x.markers path0_ x.path1 x.lastPath x.nvm x.boot x.flog x.scrubAt x.dram x.segs x.segMem x.segBad x.refills x.slices x.frames x.tapBad x.fluxes x.biases x.biasAt x.regions x.bdQual x.rfQualAt x.reads x.traces x.acqs x.krn x.krnBad x.tab x.tabBad x.crossings x.sets x.stream x.incs x.trig x.board x.bres x.vre x.clk x.ptp x.lanes x.hl x.vports x.maus x.therms x.cool) :=
  ⟨h.pending, h.elapsed, h.free, h.tml, h.tmlOn, h.queues, h.poolLost, h.fifos, h.engs, h.areas, h.run, h.image, h.patches, h.channels, h.deliveries, h.timers, h.markers, no (bitFree w rfl), h.path1, h.lastPath, h.nvm, h.boot, h.flog, h.scrubAt, h.dram, h.segs, h.segMem, h.segBad, h.refills, h.slices, h.frames, h.tapBad, h.fluxes, h.biases, h.biasAt, h.regions, h.bdQual, h.rfQualAt, h.reads, h.traces, h.acqs, h.krn, h.krnBad, h.tab, h.tabBad, h.crossings, h.sets, h.stream, h.incs, h.trig, h.board, h.bres, h.vre, h.clk, h.ptp, h.lanes, h.hl, h.vports, h.maus, h.therms, h.cool, h.cells, h.regs⟩

theorem Same_path1 {k : Nat} {s x : State} {path1_ : PathState} (h : Same k s x) (w : k &&& 0x80000 = 0) :
    Same k s (State.mk x.pending x.elapsed x.free x.tml x.tmlOn x.regs x.queues x.poolLost x.fifos x.engs x.areas x.run x.image x.patches x.channels x.deliveries x.timers x.markers x.path0 path1_ x.lastPath x.nvm x.boot x.flog x.scrubAt x.dram x.segs x.segMem x.segBad x.refills x.slices x.frames x.tapBad x.fluxes x.biases x.biasAt x.regions x.bdQual x.rfQualAt x.reads x.traces x.acqs x.krn x.krnBad x.tab x.tabBad x.crossings x.sets x.stream x.incs x.trig x.board x.bres x.vre x.clk x.ptp x.lanes x.hl x.vports x.maus x.therms x.cool) :=
  ⟨h.pending, h.elapsed, h.free, h.tml, h.tmlOn, h.queues, h.poolLost, h.fifos, h.engs, h.areas, h.run, h.image, h.patches, h.channels, h.deliveries, h.timers, h.markers, h.path0, no (bitFree w rfl), h.lastPath, h.nvm, h.boot, h.flog, h.scrubAt, h.dram, h.segs, h.segMem, h.segBad, h.refills, h.slices, h.frames, h.tapBad, h.fluxes, h.biases, h.biasAt, h.regions, h.bdQual, h.rfQualAt, h.reads, h.traces, h.acqs, h.krn, h.krnBad, h.tab, h.tabBad, h.crossings, h.sets, h.stream, h.incs, h.trig, h.board, h.bres, h.vre, h.clk, h.ptp, h.lanes, h.hl, h.vports, h.maus, h.therms, h.cool, h.cells, h.regs⟩

theorem Same_pending {k : Nat} {s x : State} {pending_ : List Instr} (h : Same k s x) (w : k &&& 0x1 = 0) :
    Same k s (State.mk pending_ x.elapsed x.free x.tml x.tmlOn x.regs x.queues x.poolLost x.fifos x.engs x.areas x.run x.image x.patches x.channels x.deliveries x.timers x.markers x.path0 x.path1 x.lastPath x.nvm x.boot x.flog x.scrubAt x.dram x.segs x.segMem x.segBad x.refills x.slices x.frames x.tapBad x.fluxes x.biases x.biasAt x.regions x.bdQual x.rfQualAt x.reads x.traces x.acqs x.krn x.krnBad x.tab x.tabBad x.crossings x.sets x.stream x.incs x.trig x.board x.bres x.vre x.clk x.ptp x.lanes x.hl x.vports x.maus x.therms x.cool) :=
  ⟨no (bitFree w rfl), h.elapsed, h.free, h.tml, h.tmlOn, h.queues, h.poolLost, h.fifos, h.engs, h.areas, h.run, h.image, h.patches, h.channels, h.deliveries, h.timers, h.markers, h.path0, h.path1, h.lastPath, h.nvm, h.boot, h.flog, h.scrubAt, h.dram, h.segs, h.segMem, h.segBad, h.refills, h.slices, h.frames, h.tapBad, h.fluxes, h.biases, h.biasAt, h.regions, h.bdQual, h.rfQualAt, h.reads, h.traces, h.acqs, h.krn, h.krnBad, h.tab, h.tabBad, h.crossings, h.sets, h.stream, h.incs, h.trig, h.board, h.bres, h.vre, h.clk, h.ptp, h.lanes, h.hl, h.vports, h.maus, h.therms, h.cool, h.cells, h.regs⟩

theorem Same_poolLost {k : Nat} {s x : State} {poolLost_ : Nat} (h : Same k s x) (w : k &&& 0x80 = 0) :
    Same k s (State.mk x.pending x.elapsed x.free x.tml x.tmlOn x.regs x.queues poolLost_ x.fifos x.engs x.areas x.run x.image x.patches x.channels x.deliveries x.timers x.markers x.path0 x.path1 x.lastPath x.nvm x.boot x.flog x.scrubAt x.dram x.segs x.segMem x.segBad x.refills x.slices x.frames x.tapBad x.fluxes x.biases x.biasAt x.regions x.bdQual x.rfQualAt x.reads x.traces x.acqs x.krn x.krnBad x.tab x.tabBad x.crossings x.sets x.stream x.incs x.trig x.board x.bres x.vre x.clk x.ptp x.lanes x.hl x.vports x.maus x.therms x.cool) :=
  ⟨h.pending, h.elapsed, h.free, h.tml, h.tmlOn, h.queues, no (bitFree w rfl), h.fifos, h.engs, h.areas, h.run, h.image, h.patches, h.channels, h.deliveries, h.timers, h.markers, h.path0, h.path1, h.lastPath, h.nvm, h.boot, h.flog, h.scrubAt, h.dram, h.segs, h.segMem, h.segBad, h.refills, h.slices, h.frames, h.tapBad, h.fluxes, h.biases, h.biasAt, h.regions, h.bdQual, h.rfQualAt, h.reads, h.traces, h.acqs, h.krn, h.krnBad, h.tab, h.tabBad, h.crossings, h.sets, h.stream, h.incs, h.trig, h.board, h.bres, h.vre, h.clk, h.ptp, h.lanes, h.hl, h.vports, h.maus, h.therms, h.cool, h.cells, h.regs⟩

theorem Same_ptp {k : Nat} {s x : State} {ptp_ : Ptp} (h : Same k s x) (w : k &&& 0x80000000000000 = 0) :
    Same k s (State.mk x.pending x.elapsed x.free x.tml x.tmlOn x.regs x.queues x.poolLost x.fifos x.engs x.areas x.run x.image x.patches x.channels x.deliveries x.timers x.markers x.path0 x.path1 x.lastPath x.nvm x.boot x.flog x.scrubAt x.dram x.segs x.segMem x.segBad x.refills x.slices x.frames x.tapBad x.fluxes x.biases x.biasAt x.regions x.bdQual x.rfQualAt x.reads x.traces x.acqs x.krn x.krnBad x.tab x.tabBad x.crossings x.sets x.stream x.incs x.trig x.board x.bres x.vre x.clk ptp_ x.lanes x.hl x.vports x.maus x.therms x.cool) :=
  ⟨h.pending, h.elapsed, h.free, h.tml, h.tmlOn, h.queues, h.poolLost, h.fifos, h.engs, h.areas, h.run, h.image, h.patches, h.channels, h.deliveries, h.timers, h.markers, h.path0, h.path1, h.lastPath, h.nvm, h.boot, h.flog, h.scrubAt, h.dram, h.segs, h.segMem, h.segBad, h.refills, h.slices, h.frames, h.tapBad, h.fluxes, h.biases, h.biasAt, h.regions, h.bdQual, h.rfQualAt, h.reads, h.traces, h.acqs, h.krn, h.krnBad, h.tab, h.tabBad, h.crossings, h.sets, h.stream, h.incs, h.trig, h.board, h.bres, h.vre, h.clk, no (bitFree w rfl), h.lanes, h.hl, h.vports, h.maus, h.therms, h.cool, h.cells, h.regs⟩

theorem Same_queues {k : Nat} {s x : State} {queues_ : SMap Queue} (h : Same k s x) (w : k &&& 0x40 = 0) :
    Same k s (State.mk x.pending x.elapsed x.free x.tml x.tmlOn x.regs queues_ x.poolLost x.fifos x.engs x.areas x.run x.image x.patches x.channels x.deliveries x.timers x.markers x.path0 x.path1 x.lastPath x.nvm x.boot x.flog x.scrubAt x.dram x.segs x.segMem x.segBad x.refills x.slices x.frames x.tapBad x.fluxes x.biases x.biasAt x.regions x.bdQual x.rfQualAt x.reads x.traces x.acqs x.krn x.krnBad x.tab x.tabBad x.crossings x.sets x.stream x.incs x.trig x.board x.bres x.vre x.clk x.ptp x.lanes x.hl x.vports x.maus x.therms x.cool) :=
  ⟨h.pending, h.elapsed, h.free, h.tml, h.tmlOn, no (bitFree w rfl), h.poolLost, h.fifos, h.engs, h.areas, h.run, h.image, h.patches, h.channels, h.deliveries, h.timers, h.markers, h.path0, h.path1, h.lastPath, h.nvm, h.boot, h.flog, h.scrubAt, h.dram, h.segs, h.segMem, h.segBad, h.refills, h.slices, h.frames, h.tapBad, h.fluxes, h.biases, h.biasAt, h.regions, h.bdQual, h.rfQualAt, h.reads, h.traces, h.acqs, h.krn, h.krnBad, h.tab, h.tabBad, h.crossings, h.sets, h.stream, h.incs, h.trig, h.board, h.bres, h.vre, h.clk, h.ptp, h.lanes, h.hl, h.vports, h.maus, h.therms, h.cool, h.cells, h.regs⟩

theorem Same_reads {k : Nat} {s x : State} {reads_ : SMap ReadSlice} (h : Same k s x) (w : k &&& 0x8000000000 = 0) :
    Same k s (State.mk x.pending x.elapsed x.free x.tml x.tmlOn x.regs x.queues x.poolLost x.fifos x.engs x.areas x.run x.image x.patches x.channels x.deliveries x.timers x.markers x.path0 x.path1 x.lastPath x.nvm x.boot x.flog x.scrubAt x.dram x.segs x.segMem x.segBad x.refills x.slices x.frames x.tapBad x.fluxes x.biases x.biasAt x.regions x.bdQual x.rfQualAt reads_ x.traces x.acqs x.krn x.krnBad x.tab x.tabBad x.crossings x.sets x.stream x.incs x.trig x.board x.bres x.vre x.clk x.ptp x.lanes x.hl x.vports x.maus x.therms x.cool) :=
  ⟨h.pending, h.elapsed, h.free, h.tml, h.tmlOn, h.queues, h.poolLost, h.fifos, h.engs, h.areas, h.run, h.image, h.patches, h.channels, h.deliveries, h.timers, h.markers, h.path0, h.path1, h.lastPath, h.nvm, h.boot, h.flog, h.scrubAt, h.dram, h.segs, h.segMem, h.segBad, h.refills, h.slices, h.frames, h.tapBad, h.fluxes, h.biases, h.biasAt, h.regions, h.bdQual, h.rfQualAt, no (bitFree w rfl), h.traces, h.acqs, h.krn, h.krnBad, h.tab, h.tabBad, h.crossings, h.sets, h.stream, h.incs, h.trig, h.board, h.bres, h.vre, h.clk, h.ptp, h.lanes, h.hl, h.vports, h.maus, h.therms, h.cool, h.cells, h.regs⟩

theorem Same_refills {k : Nat} {s x : State} {refills_ : SMap Refill} (h : Same k s x) (w : k &&& 0x20000000 = 0) :
    Same k s (State.mk x.pending x.elapsed x.free x.tml x.tmlOn x.regs x.queues x.poolLost x.fifos x.engs x.areas x.run x.image x.patches x.channels x.deliveries x.timers x.markers x.path0 x.path1 x.lastPath x.nvm x.boot x.flog x.scrubAt x.dram x.segs x.segMem x.segBad refills_ x.slices x.frames x.tapBad x.fluxes x.biases x.biasAt x.regions x.bdQual x.rfQualAt x.reads x.traces x.acqs x.krn x.krnBad x.tab x.tabBad x.crossings x.sets x.stream x.incs x.trig x.board x.bres x.vre x.clk x.ptp x.lanes x.hl x.vports x.maus x.therms x.cool) :=
  ⟨h.pending, h.elapsed, h.free, h.tml, h.tmlOn, h.queues, h.poolLost, h.fifos, h.engs, h.areas, h.run, h.image, h.patches, h.channels, h.deliveries, h.timers, h.markers, h.path0, h.path1, h.lastPath, h.nvm, h.boot, h.flog, h.scrubAt, h.dram, h.segs, h.segMem, h.segBad, no (bitFree w rfl), h.slices, h.frames, h.tapBad, h.fluxes, h.biases, h.biasAt, h.regions, h.bdQual, h.rfQualAt, h.reads, h.traces, h.acqs, h.krn, h.krnBad, h.tab, h.tabBad, h.crossings, h.sets, h.stream, h.incs, h.trig, h.board, h.bres, h.vre, h.clk, h.ptp, h.lanes, h.hl, h.vports, h.maus, h.therms, h.cool, h.cells, h.regs⟩

theorem Same_regions {k : Nat} {s x : State} {regions_ : SMap Region} (h : Same k s x) (w : k &&& 0x1000000000 = 0) :
    Same k s (State.mk x.pending x.elapsed x.free x.tml x.tmlOn x.regs x.queues x.poolLost x.fifos x.engs x.areas x.run x.image x.patches x.channels x.deliveries x.timers x.markers x.path0 x.path1 x.lastPath x.nvm x.boot x.flog x.scrubAt x.dram x.segs x.segMem x.segBad x.refills x.slices x.frames x.tapBad x.fluxes x.biases x.biasAt regions_ x.bdQual x.rfQualAt x.reads x.traces x.acqs x.krn x.krnBad x.tab x.tabBad x.crossings x.sets x.stream x.incs x.trig x.board x.bres x.vre x.clk x.ptp x.lanes x.hl x.vports x.maus x.therms x.cool) :=
  ⟨h.pending, h.elapsed, h.free, h.tml, h.tmlOn, h.queues, h.poolLost, h.fifos, h.engs, h.areas, h.run, h.image, h.patches, h.channels, h.deliveries, h.timers, h.markers, h.path0, h.path1, h.lastPath, h.nvm, h.boot, h.flog, h.scrubAt, h.dram, h.segs, h.segMem, h.segBad, h.refills, h.slices, h.frames, h.tapBad, h.fluxes, h.biases, h.biasAt, no (bitFree w rfl), h.bdQual, h.rfQualAt, h.reads, h.traces, h.acqs, h.krn, h.krnBad, h.tab, h.tabBad, h.crossings, h.sets, h.stream, h.incs, h.trig, h.board, h.bres, h.vre, h.clk, h.ptp, h.lanes, h.hl, h.vports, h.maus, h.therms, h.cool, h.cells, h.regs⟩

theorem Same_rfQualAt {k : Nat} {s x : State} {rfQualAt_ : SMap Nat} (h : Same k s x) (w : k &&& 0x4000000000 = 0) :
    Same k s (State.mk x.pending x.elapsed x.free x.tml x.tmlOn x.regs x.queues x.poolLost x.fifos x.engs x.areas x.run x.image x.patches x.channels x.deliveries x.timers x.markers x.path0 x.path1 x.lastPath x.nvm x.boot x.flog x.scrubAt x.dram x.segs x.segMem x.segBad x.refills x.slices x.frames x.tapBad x.fluxes x.biases x.biasAt x.regions x.bdQual rfQualAt_ x.reads x.traces x.acqs x.krn x.krnBad x.tab x.tabBad x.crossings x.sets x.stream x.incs x.trig x.board x.bres x.vre x.clk x.ptp x.lanes x.hl x.vports x.maus x.therms x.cool) :=
  ⟨h.pending, h.elapsed, h.free, h.tml, h.tmlOn, h.queues, h.poolLost, h.fifos, h.engs, h.areas, h.run, h.image, h.patches, h.channels, h.deliveries, h.timers, h.markers, h.path0, h.path1, h.lastPath, h.nvm, h.boot, h.flog, h.scrubAt, h.dram, h.segs, h.segMem, h.segBad, h.refills, h.slices, h.frames, h.tapBad, h.fluxes, h.biases, h.biasAt, h.regions, h.bdQual, no (bitFree w rfl), h.reads, h.traces, h.acqs, h.krn, h.krnBad, h.tab, h.tabBad, h.crossings, h.sets, h.stream, h.incs, h.trig, h.board, h.bres, h.vre, h.clk, h.ptp, h.lanes, h.hl, h.vports, h.maus, h.therms, h.cool, h.cells, h.regs⟩

theorem Same_run {k : Nat} {s x : State} {run_ : RunState} (h : Same k s x) (w : k &&& 0x800 = 0) :
    Same k s (State.mk x.pending x.elapsed x.free x.tml x.tmlOn x.regs x.queues x.poolLost x.fifos x.engs x.areas run_ x.image x.patches x.channels x.deliveries x.timers x.markers x.path0 x.path1 x.lastPath x.nvm x.boot x.flog x.scrubAt x.dram x.segs x.segMem x.segBad x.refills x.slices x.frames x.tapBad x.fluxes x.biases x.biasAt x.regions x.bdQual x.rfQualAt x.reads x.traces x.acqs x.krn x.krnBad x.tab x.tabBad x.crossings x.sets x.stream x.incs x.trig x.board x.bres x.vre x.clk x.ptp x.lanes x.hl x.vports x.maus x.therms x.cool) :=
  ⟨h.pending, h.elapsed, h.free, h.tml, h.tmlOn, h.queues, h.poolLost, h.fifos, h.engs, h.areas, no (bitFree w rfl), h.image, h.patches, h.channels, h.deliveries, h.timers, h.markers, h.path0, h.path1, h.lastPath, h.nvm, h.boot, h.flog, h.scrubAt, h.dram, h.segs, h.segMem, h.segBad, h.refills, h.slices, h.frames, h.tapBad, h.fluxes, h.biases, h.biasAt, h.regions, h.bdQual, h.rfQualAt, h.reads, h.traces, h.acqs, h.krn, h.krnBad, h.tab, h.tabBad, h.crossings, h.sets, h.stream, h.incs, h.trig, h.board, h.bres, h.vre, h.clk, h.ptp, h.lanes, h.hl, h.vports, h.maus, h.therms, h.cool, h.cells, h.regs⟩

theorem Same_run_flog {k : Nat} {s x : State} {run_ : RunState} {flog_ : FaultLog} (h : Same k s x) (w : k &&& 0x800800 = 0) :
    Same k s (State.mk x.pending x.elapsed x.free x.tml x.tmlOn x.regs x.queues x.poolLost x.fifos x.engs x.areas run_ x.image x.patches x.channels x.deliveries x.timers x.markers x.path0 x.path1 x.lastPath x.nvm x.boot flog_ x.scrubAt x.dram x.segs x.segMem x.segBad x.refills x.slices x.frames x.tapBad x.fluxes x.biases x.biasAt x.regions x.bdQual x.rfQualAt x.reads x.traces x.acqs x.krn x.krnBad x.tab x.tabBad x.crossings x.sets x.stream x.incs x.trig x.board x.bres x.vre x.clk x.ptp x.lanes x.hl x.vports x.maus x.therms x.cool) :=
  ⟨h.pending, h.elapsed, h.free, h.tml, h.tmlOn, h.queues, h.poolLost, h.fifos, h.engs, h.areas, no (bitFree w rfl), h.image, h.patches, h.channels, h.deliveries, h.timers, h.markers, h.path0, h.path1, h.lastPath, h.nvm, h.boot, no (bitFree w rfl), h.scrubAt, h.dram, h.segs, h.segMem, h.segBad, h.refills, h.slices, h.frames, h.tapBad, h.fluxes, h.biases, h.biasAt, h.regions, h.bdQual, h.rfQualAt, h.reads, h.traces, h.acqs, h.krn, h.krnBad, h.tab, h.tabBad, h.crossings, h.sets, h.stream, h.incs, h.trig, h.board, h.bres, h.vre, h.clk, h.ptp, h.lanes, h.hl, h.vports, h.maus, h.therms, h.cool, h.cells, h.regs⟩

theorem Same_scrubAt {k : Nat} {s x : State} {scrubAt_ : SMap Nat} (h : Same k s x) (w : k &&& 0x1000000 = 0) :
    Same k s (State.mk x.pending x.elapsed x.free x.tml x.tmlOn x.regs x.queues x.poolLost x.fifos x.engs x.areas x.run x.image x.patches x.channels x.deliveries x.timers x.markers x.path0 x.path1 x.lastPath x.nvm x.boot x.flog scrubAt_ x.dram x.segs x.segMem x.segBad x.refills x.slices x.frames x.tapBad x.fluxes x.biases x.biasAt x.regions x.bdQual x.rfQualAt x.reads x.traces x.acqs x.krn x.krnBad x.tab x.tabBad x.crossings x.sets x.stream x.incs x.trig x.board x.bres x.vre x.clk x.ptp x.lanes x.hl x.vports x.maus x.therms x.cool) :=
  ⟨h.pending, h.elapsed, h.free, h.tml, h.tmlOn, h.queues, h.poolLost, h.fifos, h.engs, h.areas, h.run, h.image, h.patches, h.channels, h.deliveries, h.timers, h.markers, h.path0, h.path1, h.lastPath, h.nvm, h.boot, h.flog, no (bitFree w rfl), h.dram, h.segs, h.segMem, h.segBad, h.refills, h.slices, h.frames, h.tapBad, h.fluxes, h.biases, h.biasAt, h.regions, h.bdQual, h.rfQualAt, h.reads, h.traces, h.acqs, h.krn, h.krnBad, h.tab, h.tabBad, h.crossings, h.sets, h.stream, h.incs, h.trig, h.board, h.bres, h.vre, h.clk, h.ptp, h.lanes, h.hl, h.vports, h.maus, h.therms, h.cool, h.cells, h.regs⟩

theorem Same_segBad {k : Nat} {s x : State} {segBad_ : List Nat} (h : Same k s x) (w : k &&& 0x10000000 = 0) :
    Same k s (State.mk x.pending x.elapsed x.free x.tml x.tmlOn x.regs x.queues x.poolLost x.fifos x.engs x.areas x.run x.image x.patches x.channels x.deliveries x.timers x.markers x.path0 x.path1 x.lastPath x.nvm x.boot x.flog x.scrubAt x.dram x.segs x.segMem segBad_ x.refills x.slices x.frames x.tapBad x.fluxes x.biases x.biasAt x.regions x.bdQual x.rfQualAt x.reads x.traces x.acqs x.krn x.krnBad x.tab x.tabBad x.crossings x.sets x.stream x.incs x.trig x.board x.bres x.vre x.clk x.ptp x.lanes x.hl x.vports x.maus x.therms x.cool) :=
  ⟨h.pending, h.elapsed, h.free, h.tml, h.tmlOn, h.queues, h.poolLost, h.fifos, h.engs, h.areas, h.run, h.image, h.patches, h.channels, h.deliveries, h.timers, h.markers, h.path0, h.path1, h.lastPath, h.nvm, h.boot, h.flog, h.scrubAt, h.dram, h.segs, h.segMem, no (bitFree w rfl), h.refills, h.slices, h.frames, h.tapBad, h.fluxes, h.biases, h.biasAt, h.regions, h.bdQual, h.rfQualAt, h.reads, h.traces, h.acqs, h.krn, h.krnBad, h.tab, h.tabBad, h.crossings, h.sets, h.stream, h.incs, h.trig, h.board, h.bres, h.vre, h.clk, h.ptp, h.lanes, h.hl, h.vports, h.maus, h.therms, h.cool, h.cells, h.regs⟩

theorem Same_segMem_segBad {k : Nat} {s x : State} {segMem_ : SMap Nat} {segBad_ : List Nat} (h : Same k s x) (w : k &&& 0x18000000 = 0) :
    Same k s (State.mk x.pending x.elapsed x.free x.tml x.tmlOn x.regs x.queues x.poolLost x.fifos x.engs x.areas x.run x.image x.patches x.channels x.deliveries x.timers x.markers x.path0 x.path1 x.lastPath x.nvm x.boot x.flog x.scrubAt x.dram x.segs segMem_ segBad_ x.refills x.slices x.frames x.tapBad x.fluxes x.biases x.biasAt x.regions x.bdQual x.rfQualAt x.reads x.traces x.acqs x.krn x.krnBad x.tab x.tabBad x.crossings x.sets x.stream x.incs x.trig x.board x.bres x.vre x.clk x.ptp x.lanes x.hl x.vports x.maus x.therms x.cool) :=
  ⟨h.pending, h.elapsed, h.free, h.tml, h.tmlOn, h.queues, h.poolLost, h.fifos, h.engs, h.areas, h.run, h.image, h.patches, h.channels, h.deliveries, h.timers, h.markers, h.path0, h.path1, h.lastPath, h.nvm, h.boot, h.flog, h.scrubAt, h.dram, h.segs, no (bitFree w rfl), no (bitFree w rfl), h.refills, h.slices, h.frames, h.tapBad, h.fluxes, h.biases, h.biasAt, h.regions, h.bdQual, h.rfQualAt, h.reads, h.traces, h.acqs, h.krn, h.krnBad, h.tab, h.tabBad, h.crossings, h.sets, h.stream, h.incs, h.trig, h.board, h.bres, h.vre, h.clk, h.ptp, h.lanes, h.hl, h.vports, h.maus, h.therms, h.cool, h.cells, h.regs⟩

theorem Same_segs {k : Nat} {s x : State} {segs_ : SMap Seg} (h : Same k s x) (w : k &&& 0x4000000 = 0) :
    Same k s (State.mk x.pending x.elapsed x.free x.tml x.tmlOn x.regs x.queues x.poolLost x.fifos x.engs x.areas x.run x.image x.patches x.channels x.deliveries x.timers x.markers x.path0 x.path1 x.lastPath x.nvm x.boot x.flog x.scrubAt x.dram segs_ x.segMem x.segBad x.refills x.slices x.frames x.tapBad x.fluxes x.biases x.biasAt x.regions x.bdQual x.rfQualAt x.reads x.traces x.acqs x.krn x.krnBad x.tab x.tabBad x.crossings x.sets x.stream x.incs x.trig x.board x.bres x.vre x.clk x.ptp x.lanes x.hl x.vports x.maus x.therms x.cool) :=
  ⟨h.pending, h.elapsed, h.free, h.tml, h.tmlOn, h.queues, h.poolLost, h.fifos, h.engs, h.areas, h.run, h.image, h.patches, h.channels, h.deliveries, h.timers, h.markers, h.path0, h.path1, h.lastPath, h.nvm, h.boot, h.flog, h.scrubAt, h.dram, no (bitFree w rfl), h.segMem, h.segBad, h.refills, h.slices, h.frames, h.tapBad, h.fluxes, h.biases, h.biasAt, h.regions, h.bdQual, h.rfQualAt, h.reads, h.traces, h.acqs, h.krn, h.krnBad, h.tab, h.tabBad, h.crossings, h.sets, h.stream, h.incs, h.trig, h.board, h.bres, h.vre, h.clk, h.ptp, h.lanes, h.hl, h.vports, h.maus, h.therms, h.cool, h.cells, h.regs⟩

theorem Same_segs_segMem_segBad_krn_krnBad_tab_tabBad {k : Nat} {s x : State} {segs_ : SMap Seg} {segMem_ : SMap Nat} {segBad_ : List Nat} {krn_ : SMap Nat} {krnBad_ : List Nat} {tab_ : SMap Nat} {tabBad_ : List Nat} (h : Same k s x) (w : k &&& 0x3C001C000000 = 0) :
    Same k s (State.mk x.pending x.elapsed x.free x.tml x.tmlOn x.regs x.queues x.poolLost x.fifos x.engs x.areas x.run x.image x.patches x.channels x.deliveries x.timers x.markers x.path0 x.path1 x.lastPath x.nvm x.boot x.flog x.scrubAt x.dram segs_ segMem_ segBad_ x.refills x.slices x.frames x.tapBad x.fluxes x.biases x.biasAt x.regions x.bdQual x.rfQualAt x.reads x.traces x.acqs krn_ krnBad_ tab_ tabBad_ x.crossings x.sets x.stream x.incs x.trig x.board x.bres x.vre x.clk x.ptp x.lanes x.hl x.vports x.maus x.therms x.cool) :=
  ⟨h.pending, h.elapsed, h.free, h.tml, h.tmlOn, h.queues, h.poolLost, h.fifos, h.engs, h.areas, h.run, h.image, h.patches, h.channels, h.deliveries, h.timers, h.markers, h.path0, h.path1, h.lastPath, h.nvm, h.boot, h.flog, h.scrubAt, h.dram, no (bitFree w rfl), no (bitFree w rfl), no (bitFree w rfl), h.refills, h.slices, h.frames, h.tapBad, h.fluxes, h.biases, h.biasAt, h.regions, h.bdQual, h.rfQualAt, h.reads, h.traces, h.acqs, no (bitFree w rfl), no (bitFree w rfl), no (bitFree w rfl), no (bitFree w rfl), h.crossings, h.sets, h.stream, h.incs, h.trig, h.board, h.bres, h.vre, h.clk, h.ptp, h.lanes, h.hl, h.vports, h.maus, h.therms, h.cool, h.cells, h.regs⟩

theorem Same_sets {k : Nat} {s x : State} {sets_ : SMap RecSet} (h : Same k s x) (w : k &&& 0x800000000000 = 0) :
    Same k s (State.mk x.pending x.elapsed x.free x.tml x.tmlOn x.regs x.queues x.poolLost x.fifos x.engs x.areas x.run x.image x.patches x.channels x.deliveries x.timers x.markers x.path0 x.path1 x.lastPath x.nvm x.boot x.flog x.scrubAt x.dram x.segs x.segMem x.segBad x.refills x.slices x.frames x.tapBad x.fluxes x.biases x.biasAt x.regions x.bdQual x.rfQualAt x.reads x.traces x.acqs x.krn x.krnBad x.tab x.tabBad x.crossings sets_ x.stream x.incs x.trig x.board x.bres x.vre x.clk x.ptp x.lanes x.hl x.vports x.maus x.therms x.cool) :=
  ⟨h.pending, h.elapsed, h.free, h.tml, h.tmlOn, h.queues, h.poolLost, h.fifos, h.engs, h.areas, h.run, h.image, h.patches, h.channels, h.deliveries, h.timers, h.markers, h.path0, h.path1, h.lastPath, h.nvm, h.boot, h.flog, h.scrubAt, h.dram, h.segs, h.segMem, h.segBad, h.refills, h.slices, h.frames, h.tapBad, h.fluxes, h.biases, h.biasAt, h.regions, h.bdQual, h.rfQualAt, h.reads, h.traces, h.acqs, h.krn, h.krnBad, h.tab, h.tabBad, h.crossings, no (bitFree w rfl), h.stream, h.incs, h.trig, h.board, h.bres, h.vre, h.clk, h.ptp, h.lanes, h.hl, h.vports, h.maus, h.therms, h.cool, h.cells, h.regs⟩

theorem Same_slices {k : Nat} {s x : State} {slices_ : SMap Slice} (h : Same k s x) (w : k &&& 0x40000000 = 0) :
    Same k s (State.mk x.pending x.elapsed x.free x.tml x.tmlOn x.regs x.queues x.poolLost x.fifos x.engs x.areas x.run x.image x.patches x.channels x.deliveries x.timers x.markers x.path0 x.path1 x.lastPath x.nvm x.boot x.flog x.scrubAt x.dram x.segs x.segMem x.segBad x.refills slices_ x.frames x.tapBad x.fluxes x.biases x.biasAt x.regions x.bdQual x.rfQualAt x.reads x.traces x.acqs x.krn x.krnBad x.tab x.tabBad x.crossings x.sets x.stream x.incs x.trig x.board x.bres x.vre x.clk x.ptp x.lanes x.hl x.vports x.maus x.therms x.cool) :=
  ⟨h.pending, h.elapsed, h.free, h.tml, h.tmlOn, h.queues, h.poolLost, h.fifos, h.engs, h.areas, h.run, h.image, h.patches, h.channels, h.deliveries, h.timers, h.markers, h.path0, h.path1, h.lastPath, h.nvm, h.boot, h.flog, h.scrubAt, h.dram, h.segs, h.segMem, h.segBad, h.refills, no (bitFree w rfl), h.frames, h.tapBad, h.fluxes, h.biases, h.biasAt, h.regions, h.bdQual, h.rfQualAt, h.reads, h.traces, h.acqs, h.krn, h.krnBad, h.tab, h.tabBad, h.crossings, h.sets, h.stream, h.incs, h.trig, h.board, h.bres, h.vre, h.clk, h.ptp, h.lanes, h.hl, h.vports, h.maus, h.therms, h.cool, h.cells, h.regs⟩

theorem Same_stream {k : Nat} {s x : State} {stream_ : Stream} (h : Same k s x) (w : k &&& 0x1000000000000 = 0) :
    Same k s (State.mk x.pending x.elapsed x.free x.tml x.tmlOn x.regs x.queues x.poolLost x.fifos x.engs x.areas x.run x.image x.patches x.channels x.deliveries x.timers x.markers x.path0 x.path1 x.lastPath x.nvm x.boot x.flog x.scrubAt x.dram x.segs x.segMem x.segBad x.refills x.slices x.frames x.tapBad x.fluxes x.biases x.biasAt x.regions x.bdQual x.rfQualAt x.reads x.traces x.acqs x.krn x.krnBad x.tab x.tabBad x.crossings x.sets stream_ x.incs x.trig x.board x.bres x.vre x.clk x.ptp x.lanes x.hl x.vports x.maus x.therms x.cool) :=
  ⟨h.pending, h.elapsed, h.free, h.tml, h.tmlOn, h.queues, h.poolLost, h.fifos, h.engs, h.areas, h.run, h.image, h.patches, h.channels, h.deliveries, h.timers, h.markers, h.path0, h.path1, h.lastPath, h.nvm, h.boot, h.flog, h.scrubAt, h.dram, h.segs, h.segMem, h.segBad, h.refills, h.slices, h.frames, h.tapBad, h.fluxes, h.biases, h.biasAt, h.regions, h.bdQual, h.rfQualAt, h.reads, h.traces, h.acqs, h.krn, h.krnBad, h.tab, h.tabBad, h.crossings, h.sets, no (bitFree w rfl), h.incs, h.trig, h.board, h.bres, h.vre, h.clk, h.ptp, h.lanes, h.hl, h.vports, h.maus, h.therms, h.cool, h.cells, h.regs⟩

theorem Same_tabBad {k : Nat} {s x : State} {tabBad_ : List Nat} (h : Same k s x) (w : k &&& 0x200000000000 = 0) :
    Same k s (State.mk x.pending x.elapsed x.free x.tml x.tmlOn x.regs x.queues x.poolLost x.fifos x.engs x.areas x.run x.image x.patches x.channels x.deliveries x.timers x.markers x.path0 x.path1 x.lastPath x.nvm x.boot x.flog x.scrubAt x.dram x.segs x.segMem x.segBad x.refills x.slices x.frames x.tapBad x.fluxes x.biases x.biasAt x.regions x.bdQual x.rfQualAt x.reads x.traces x.acqs x.krn x.krnBad x.tab tabBad_ x.crossings x.sets x.stream x.incs x.trig x.board x.bres x.vre x.clk x.ptp x.lanes x.hl x.vports x.maus x.therms x.cool) :=
  ⟨h.pending, h.elapsed, h.free, h.tml, h.tmlOn, h.queues, h.poolLost, h.fifos, h.engs, h.areas, h.run, h.image, h.patches, h.channels, h.deliveries, h.timers, h.markers, h.path0, h.path1, h.lastPath, h.nvm, h.boot, h.flog, h.scrubAt, h.dram, h.segs, h.segMem, h.segBad, h.refills, h.slices, h.frames, h.tapBad, h.fluxes, h.biases, h.biasAt, h.regions, h.bdQual, h.rfQualAt, h.reads, h.traces, h.acqs, h.krn, h.krnBad, h.tab, no (bitFree w rfl), h.crossings, h.sets, h.stream, h.incs, h.trig, h.board, h.bres, h.vre, h.clk, h.ptp, h.lanes, h.hl, h.vports, h.maus, h.therms, h.cool, h.cells, h.regs⟩

theorem Same_tab_tabBad {k : Nat} {s x : State} {tab_ : SMap Nat} {tabBad_ : List Nat} (h : Same k s x) (w : k &&& 0x300000000000 = 0) :
    Same k s (State.mk x.pending x.elapsed x.free x.tml x.tmlOn x.regs x.queues x.poolLost x.fifos x.engs x.areas x.run x.image x.patches x.channels x.deliveries x.timers x.markers x.path0 x.path1 x.lastPath x.nvm x.boot x.flog x.scrubAt x.dram x.segs x.segMem x.segBad x.refills x.slices x.frames x.tapBad x.fluxes x.biases x.biasAt x.regions x.bdQual x.rfQualAt x.reads x.traces x.acqs x.krn x.krnBad tab_ tabBad_ x.crossings x.sets x.stream x.incs x.trig x.board x.bres x.vre x.clk x.ptp x.lanes x.hl x.vports x.maus x.therms x.cool) :=
  ⟨h.pending, h.elapsed, h.free, h.tml, h.tmlOn, h.queues, h.poolLost, h.fifos, h.engs, h.areas, h.run, h.image, h.patches, h.channels, h.deliveries, h.timers, h.markers, h.path0, h.path1, h.lastPath, h.nvm, h.boot, h.flog, h.scrubAt, h.dram, h.segs, h.segMem, h.segBad, h.refills, h.slices, h.frames, h.tapBad, h.fluxes, h.biases, h.biasAt, h.regions, h.bdQual, h.rfQualAt, h.reads, h.traces, h.acqs, h.krn, h.krnBad, no (bitFree w rfl), no (bitFree w rfl), h.crossings, h.sets, h.stream, h.incs, h.trig, h.board, h.bres, h.vre, h.clk, h.ptp, h.lanes, h.hl, h.vports, h.maus, h.therms, h.cool, h.cells, h.regs⟩

theorem Same_tapBad {k : Nat} {s x : State} {tapBad_ : List Nat} (h : Same k s x) (w : k &&& 0x100000000 = 0) :
    Same k s (State.mk x.pending x.elapsed x.free x.tml x.tmlOn x.regs x.queues x.poolLost x.fifos x.engs x.areas x.run x.image x.patches x.channels x.deliveries x.timers x.markers x.path0 x.path1 x.lastPath x.nvm x.boot x.flog x.scrubAt x.dram x.segs x.segMem x.segBad x.refills x.slices x.frames tapBad_ x.fluxes x.biases x.biasAt x.regions x.bdQual x.rfQualAt x.reads x.traces x.acqs x.krn x.krnBad x.tab x.tabBad x.crossings x.sets x.stream x.incs x.trig x.board x.bres x.vre x.clk x.ptp x.lanes x.hl x.vports x.maus x.therms x.cool) :=
  ⟨h.pending, h.elapsed, h.free, h.tml, h.tmlOn, h.queues, h.poolLost, h.fifos, h.engs, h.areas, h.run, h.image, h.patches, h.channels, h.deliveries, h.timers, h.markers, h.path0, h.path1, h.lastPath, h.nvm, h.boot, h.flog, h.scrubAt, h.dram, h.segs, h.segMem, h.segBad, h.refills, h.slices, h.frames, no (bitFree w rfl), h.fluxes, h.biases, h.biasAt, h.regions, h.bdQual, h.rfQualAt, h.reads, h.traces, h.acqs, h.krn, h.krnBad, h.tab, h.tabBad, h.crossings, h.sets, h.stream, h.incs, h.trig, h.board, h.bres, h.vre, h.clk, h.ptp, h.lanes, h.hl, h.vports, h.maus, h.therms, h.cool, h.cells, h.regs⟩

theorem Same_therms {k : Nat} {s x : State} {therms_ : SMap Therm} (h : Same k s x) (w : k &&& 0x1000000000000000 = 0) :
    Same k s (State.mk x.pending x.elapsed x.free x.tml x.tmlOn x.regs x.queues x.poolLost x.fifos x.engs x.areas x.run x.image x.patches x.channels x.deliveries x.timers x.markers x.path0 x.path1 x.lastPath x.nvm x.boot x.flog x.scrubAt x.dram x.segs x.segMem x.segBad x.refills x.slices x.frames x.tapBad x.fluxes x.biases x.biasAt x.regions x.bdQual x.rfQualAt x.reads x.traces x.acqs x.krn x.krnBad x.tab x.tabBad x.crossings x.sets x.stream x.incs x.trig x.board x.bres x.vre x.clk x.ptp x.lanes x.hl x.vports x.maus therms_ x.cool) :=
  ⟨h.pending, h.elapsed, h.free, h.tml, h.tmlOn, h.queues, h.poolLost, h.fifos, h.engs, h.areas, h.run, h.image, h.patches, h.channels, h.deliveries, h.timers, h.markers, h.path0, h.path1, h.lastPath, h.nvm, h.boot, h.flog, h.scrubAt, h.dram, h.segs, h.segMem, h.segBad, h.refills, h.slices, h.frames, h.tapBad, h.fluxes, h.biases, h.biasAt, h.regions, h.bdQual, h.rfQualAt, h.reads, h.traces, h.acqs, h.krn, h.krnBad, h.tab, h.tabBad, h.crossings, h.sets, h.stream, h.incs, h.trig, h.board, h.bres, h.vre, h.clk, h.ptp, h.lanes, h.hl, h.vports, h.maus, no (bitFree w rfl), h.cool, h.cells, h.regs⟩

theorem Same_timers {k : Nat} {s x : State} {timers_ : SMap Timer} (h : Same k s x) (w : k &&& 0x10000 = 0) :
    Same k s (State.mk x.pending x.elapsed x.free x.tml x.tmlOn x.regs x.queues x.poolLost x.fifos x.engs x.areas x.run x.image x.patches x.channels x.deliveries timers_ x.markers x.path0 x.path1 x.lastPath x.nvm x.boot x.flog x.scrubAt x.dram x.segs x.segMem x.segBad x.refills x.slices x.frames x.tapBad x.fluxes x.biases x.biasAt x.regions x.bdQual x.rfQualAt x.reads x.traces x.acqs x.krn x.krnBad x.tab x.tabBad x.crossings x.sets x.stream x.incs x.trig x.board x.bres x.vre x.clk x.ptp x.lanes x.hl x.vports x.maus x.therms x.cool) :=
  ⟨h.pending, h.elapsed, h.free, h.tml, h.tmlOn, h.queues, h.poolLost, h.fifos, h.engs, h.areas, h.run, h.image, h.patches, h.channels, h.deliveries, no (bitFree w rfl), h.markers, h.path0, h.path1, h.lastPath, h.nvm, h.boot, h.flog, h.scrubAt, h.dram, h.segs, h.segMem, h.segBad, h.refills, h.slices, h.frames, h.tapBad, h.fluxes, h.biases, h.biasAt, h.regions, h.bdQual, h.rfQualAt, h.reads, h.traces, h.acqs, h.krn, h.krnBad, h.tab, h.tabBad, h.crossings, h.sets, h.stream, h.incs, h.trig, h.board, h.bres, h.vre, h.clk, h.ptp, h.lanes, h.hl, h.vports, h.maus, h.therms, h.cool, h.cells, h.regs⟩

theorem Same_tml_fifos_run_markers_slices_frames_biases_biasAt_regions_rfQualAt_acqs_stream_trig_clk {k : Nat} {s x : State} {tml_ : Nat} {fifos_ : SMap Fifo} {run_ : RunState} {markers_ : SMap Marker} {slices_ : SMap Slice} {frames_ : SMap (List FrameAt)} {biases_ : SMap BiasCh} {biasAt_ : Option Nat} {regions_ : SMap Region} {rfQualAt_ : SMap Nat} {acqs_ : SMap AcqCh} {stream_ : Stream} {trig_ : Trig} {clk_ : Clocks} (h : Same k s x) (w : k &&& 0x45025CC0020908 = 0) :
    Same k s (State.mk x.pending x.elapsed x.free tml_ x.tmlOn x.regs x.queues x.poolLost fifos_ x.engs x.areas run_ x.image x.patches x.channels x.deliveries x.timers markers_ x.path0 x.path1 x.lastPath x.nvm x.boot x.flog x.scrubAt x.dram x.segs x.segMem x.segBad x.refills slices_ frames_ x.tapBad x.fluxes biases_ biasAt_ regions_ x.bdQual rfQualAt_ x.reads x.traces acqs_ x.krn x.krnBad x.tab x.tabBad x.crossings x.sets stream_ x.incs trig_ x.board x.bres x.vre clk_ x.ptp x.lanes x.hl x.vports x.maus x.therms x.cool) :=
  ⟨h.pending, h.elapsed, h.free, no (bitFree w rfl), h.tmlOn, h.queues, h.poolLost, no (bitFree w rfl), h.engs, h.areas, no (bitFree w rfl), h.image, h.patches, h.channels, h.deliveries, h.timers, no (bitFree w rfl), h.path0, h.path1, h.lastPath, h.nvm, h.boot, h.flog, h.scrubAt, h.dram, h.segs, h.segMem, h.segBad, h.refills, no (bitFree w rfl), no (bitFree w rfl), h.tapBad, h.fluxes, no (bitFree w rfl), no (bitFree w rfl), no (bitFree w rfl), h.bdQual, no (bitFree w rfl), h.reads, h.traces, no (bitFree w rfl), h.krn, h.krnBad, h.tab, h.tabBad, h.crossings, h.sets, no (bitFree w rfl), h.incs, no (bitFree w rfl), h.board, h.bres, h.vre, no (bitFree w rfl), h.ptp, h.lanes, h.hl, h.vports, h.maus, h.therms, h.cool, h.cells, h.regs⟩

theorem Same_tml_tmlOn {k : Nat} {s x : State} {tml_ : Nat} {tmlOn_ : Bool} (h : Same k s x) (w : k &&& 0x18 = 0) :
    Same k s (State.mk x.pending x.elapsed x.free tml_ tmlOn_ x.regs x.queues x.poolLost x.fifos x.engs x.areas x.run x.image x.patches x.channels x.deliveries x.timers x.markers x.path0 x.path1 x.lastPath x.nvm x.boot x.flog x.scrubAt x.dram x.segs x.segMem x.segBad x.refills x.slices x.frames x.tapBad x.fluxes x.biases x.biasAt x.regions x.bdQual x.rfQualAt x.reads x.traces x.acqs x.krn x.krnBad x.tab x.tabBad x.crossings x.sets x.stream x.incs x.trig x.board x.bres x.vre x.clk x.ptp x.lanes x.hl x.vports x.maus x.therms x.cool) :=
  ⟨h.pending, h.elapsed, h.free, no (bitFree w rfl), no (bitFree w rfl), h.queues, h.poolLost, h.fifos, h.engs, h.areas, h.run, h.image, h.patches, h.channels, h.deliveries, h.timers, h.markers, h.path0, h.path1, h.lastPath, h.nvm, h.boot, h.flog, h.scrubAt, h.dram, h.segs, h.segMem, h.segBad, h.refills, h.slices, h.frames, h.tapBad, h.fluxes, h.biases, h.biasAt, h.regions, h.bdQual, h.rfQualAt, h.reads, h.traces, h.acqs, h.krn, h.krnBad, h.tab, h.tabBad, h.crossings, h.sets, h.stream, h.incs, h.trig, h.board, h.bres, h.vre, h.clk, h.ptp, h.lanes, h.hl, h.vports, h.maus, h.therms, h.cool, h.cells, h.regs⟩

theorem Same_traces {k : Nat} {s x : State} {traces_ : SMap TraceUnit} (h : Same k s x) (w : k &&& 0x10000000000 = 0) :
    Same k s (State.mk x.pending x.elapsed x.free x.tml x.tmlOn x.regs x.queues x.poolLost x.fifos x.engs x.areas x.run x.image x.patches x.channels x.deliveries x.timers x.markers x.path0 x.path1 x.lastPath x.nvm x.boot x.flog x.scrubAt x.dram x.segs x.segMem x.segBad x.refills x.slices x.frames x.tapBad x.fluxes x.biases x.biasAt x.regions x.bdQual x.rfQualAt x.reads traces_ x.acqs x.krn x.krnBad x.tab x.tabBad x.crossings x.sets x.stream x.incs x.trig x.board x.bres x.vre x.clk x.ptp x.lanes x.hl x.vports x.maus x.therms x.cool) :=
  ⟨h.pending, h.elapsed, h.free, h.tml, h.tmlOn, h.queues, h.poolLost, h.fifos, h.engs, h.areas, h.run, h.image, h.patches, h.channels, h.deliveries, h.timers, h.markers, h.path0, h.path1, h.lastPath, h.nvm, h.boot, h.flog, h.scrubAt, h.dram, h.segs, h.segMem, h.segBad, h.refills, h.slices, h.frames, h.tapBad, h.fluxes, h.biases, h.biasAt, h.regions, h.bdQual, h.rfQualAt, h.reads, no (bitFree w rfl), h.acqs, h.krn, h.krnBad, h.tab, h.tabBad, h.crossings, h.sets, h.stream, h.incs, h.trig, h.board, h.bres, h.vre, h.clk, h.ptp, h.lanes, h.hl, h.vports, h.maus, h.therms, h.cool, h.cells, h.regs⟩

theorem Same_trig {k : Nat} {s x : State} {trig_ : Trig} (h : Same k s x) (w : k &&& 0x4000000000000 = 0) :
    Same k s (State.mk x.pending x.elapsed x.free x.tml x.tmlOn x.regs x.queues x.poolLost x.fifos x.engs x.areas x.run x.image x.patches x.channels x.deliveries x.timers x.markers x.path0 x.path1 x.lastPath x.nvm x.boot x.flog x.scrubAt x.dram x.segs x.segMem x.segBad x.refills x.slices x.frames x.tapBad x.fluxes x.biases x.biasAt x.regions x.bdQual x.rfQualAt x.reads x.traces x.acqs x.krn x.krnBad x.tab x.tabBad x.crossings x.sets x.stream x.incs trig_ x.board x.bres x.vre x.clk x.ptp x.lanes x.hl x.vports x.maus x.therms x.cool) :=
  ⟨h.pending, h.elapsed, h.free, h.tml, h.tmlOn, h.queues, h.poolLost, h.fifos, h.engs, h.areas, h.run, h.image, h.patches, h.channels, h.deliveries, h.timers, h.markers, h.path0, h.path1, h.lastPath, h.nvm, h.boot, h.flog, h.scrubAt, h.dram, h.segs, h.segMem, h.segBad, h.refills, h.slices, h.frames, h.tapBad, h.fluxes, h.biases, h.biasAt, h.regions, h.bdQual, h.rfQualAt, h.reads, h.traces, h.acqs, h.krn, h.krnBad, h.tab, h.tabBad, h.crossings, h.sets, h.stream, h.incs, no (bitFree w rfl), h.board, h.bres, h.vre, h.clk, h.ptp, h.lanes, h.hl, h.vports, h.maus, h.therms, h.cool, h.cells, h.regs⟩

theorem Same_vports {k : Nat} {s x : State} {vports_ : SMap VPort} (h : Same k s x) (w : k &&& 0x400000000000000 = 0) :
    Same k s (State.mk x.pending x.elapsed x.free x.tml x.tmlOn x.regs x.queues x.poolLost x.fifos x.engs x.areas x.run x.image x.patches x.channels x.deliveries x.timers x.markers x.path0 x.path1 x.lastPath x.nvm x.boot x.flog x.scrubAt x.dram x.segs x.segMem x.segBad x.refills x.slices x.frames x.tapBad x.fluxes x.biases x.biasAt x.regions x.bdQual x.rfQualAt x.reads x.traces x.acqs x.krn x.krnBad x.tab x.tabBad x.crossings x.sets x.stream x.incs x.trig x.board x.bres x.vre x.clk x.ptp x.lanes x.hl vports_ x.maus x.therms x.cool) :=
  ⟨h.pending, h.elapsed, h.free, h.tml, h.tmlOn, h.queues, h.poolLost, h.fifos, h.engs, h.areas, h.run, h.image, h.patches, h.channels, h.deliveries, h.timers, h.markers, h.path0, h.path1, h.lastPath, h.nvm, h.boot, h.flog, h.scrubAt, h.dram, h.segs, h.segMem, h.segBad, h.refills, h.slices, h.frames, h.tapBad, h.fluxes, h.biases, h.biasAt, h.regions, h.bdQual, h.rfQualAt, h.reads, h.traces, h.acqs, h.krn, h.krnBad, h.tab, h.tabBad, h.crossings, h.sets, h.stream, h.incs, h.trig, h.board, h.bres, h.vre, h.clk, h.ptp, h.lanes, h.hl, no (bitFree w rfl), h.maus, h.therms, h.cool, h.cells, h.regs⟩

theorem Same_vre {k : Nat} {s x : State} {vre_ : Vre} (h : Same k s x) (w : k &&& 0x20000000000000 = 0) :
    Same k s (State.mk x.pending x.elapsed x.free x.tml x.tmlOn x.regs x.queues x.poolLost x.fifos x.engs x.areas x.run x.image x.patches x.channels x.deliveries x.timers x.markers x.path0 x.path1 x.lastPath x.nvm x.boot x.flog x.scrubAt x.dram x.segs x.segMem x.segBad x.refills x.slices x.frames x.tapBad x.fluxes x.biases x.biasAt x.regions x.bdQual x.rfQualAt x.reads x.traces x.acqs x.krn x.krnBad x.tab x.tabBad x.crossings x.sets x.stream x.incs x.trig x.board x.bres vre_ x.clk x.ptp x.lanes x.hl x.vports x.maus x.therms x.cool) :=
  ⟨h.pending, h.elapsed, h.free, h.tml, h.tmlOn, h.queues, h.poolLost, h.fifos, h.engs, h.areas, h.run, h.image, h.patches, h.channels, h.deliveries, h.timers, h.markers, h.path0, h.path1, h.lastPath, h.nvm, h.boot, h.flog, h.scrubAt, h.dram, h.segs, h.segMem, h.segBad, h.refills, h.slices, h.frames, h.tapBad, h.fluxes, h.biases, h.biasAt, h.regions, h.bdQual, h.rfQualAt, h.reads, h.traces, h.acqs, h.krn, h.krnBad, h.tab, h.tabBad, h.crossings, h.sets, h.stream, h.incs, h.trig, h.board, h.bres, no (bitFree w rfl), h.clk, h.ptp, h.lanes, h.hl, h.vports, h.maus, h.therms, h.cool, h.cells, h.regs⟩

theorem Same_cells {k : Nat} {s x : State} {dram_ : Dram} (h : Same k s x) (w : k &&& 0x4000000002000000 = 0) :
    Same k s (State.mk x.pending x.elapsed x.free x.tml x.tmlOn x.regs x.queues x.poolLost x.fifos x.engs x.areas x.run x.image x.patches x.channels x.deliveries x.timers x.markers x.path0 x.path1 x.lastPath x.nvm x.boot x.flog x.scrubAt dram_ x.segs x.segMem x.segBad x.refills x.slices x.frames x.tapBad x.fluxes x.biases x.biasAt x.regions x.bdQual x.rfQualAt x.reads x.traces x.acqs x.krn x.krnBad x.tab x.tabBad x.crossings x.sets x.stream x.incs x.trig x.board x.bres x.vre x.clk x.ptp x.lanes x.hl x.vports x.maus x.therms x.cool) :=
  ⟨h.pending, h.elapsed, h.free, h.tml, h.tmlOn, h.queues, h.poolLost, h.fifos, h.engs, h.areas, h.run, h.image, h.patches, h.channels, h.deliveries, h.timers, h.markers, h.path0, h.path1, h.lastPath, h.nvm, h.boot, h.flog, h.scrubAt, no (bitFree w rfl), h.segs, h.segMem, h.segBad, h.refills, h.slices, h.frames, h.tapBad, h.fluxes, h.biases, h.biasAt, h.regions, h.bdQual, h.rfQualAt, h.reads, h.traces, h.acqs, h.krn, h.krnBad, h.tab, h.tabBad, h.crossings, h.sets, h.stream, h.incs, h.trig, h.board, h.bres, h.vre, h.clk, h.ptp, h.lanes, h.hl, h.vports, h.maus, h.therms, h.cool, no (bitFree w rfl), h.regs⟩

theorem Same_dram {k : Nat} {s x : State} {dram_ : Dram} (h : Same k s x) (w : k &&& 0x2000000 = 0) (e : dram_.cells = x.dram.cells) :
    Same k s (State.mk x.pending x.elapsed x.free x.tml x.tmlOn x.regs x.queues x.poolLost x.fifos x.engs x.areas x.run x.image x.patches x.channels x.deliveries x.timers x.markers x.path0 x.path1 x.lastPath x.nvm x.boot x.flog x.scrubAt dram_ x.segs x.segMem x.segBad x.refills x.slices x.frames x.tapBad x.fluxes x.biases x.biasAt x.regions x.bdQual x.rfQualAt x.reads x.traces x.acqs x.krn x.krnBad x.tab x.tabBad x.crossings x.sets x.stream x.incs x.trig x.board x.bres x.vre x.clk x.ptp x.lanes x.hl x.vports x.maus x.therms x.cool) :=
  ⟨h.pending, h.elapsed, h.free, h.tml, h.tmlOn, h.queues, h.poolLost, h.fifos, h.engs, h.areas, h.run, h.image, h.patches, h.channels, h.deliveries, h.timers, h.markers, h.path0, h.path1, h.lastPath, h.nvm, h.boot, h.flog, h.scrubAt, no (bitFree w rfl), h.segs, h.segMem, h.segBad, h.refills, h.slices, h.frames, h.tapBad, h.fluxes, h.biases, h.biasAt, h.regions, h.bdQual, h.rfQualAt, h.reads, h.traces, h.acqs, h.krn, h.krnBad, h.tab, h.tabBad, h.crossings, h.sets, h.stream, h.incs, h.trig, h.board, h.bres, h.vre, h.clk, h.ptp, h.lanes, h.hl, h.vports, h.maus, h.therms, h.cool, fun b => e.trans (h.cells b), h.regs⟩

/-! ### Ops -/

theorem fresh_s {k : Nat} {s t : State} (w : k &&& 0x4 = 0) (h : Same k s t) :
    Same k s (fresh t).2 := by
  unfold fresh
  repeat' first
    | with_reducible assumption
    | (with_reducible refine Same_free (by with_reducible assumption) ?_; exact maskFree w rfl) | split
    | with_reducible refine SameP_mk ?_

theorem qset_s {k : Nat} {s t : State} {a0 : _} {a1 : _} (w : k &&& 0x40 = 0) (h : Same k s t) :
    Same k s (qset a0 a1 t) := by
  unfold qset
  repeat' first
    | with_reducible assumption
    | (with_reducible refine Same_queues (by with_reducible assumption) ?_; exact maskFree w rfl) | split

theorem fset_s {k : Nat} {s t : State} {a0 : _} {a1 : _} (w : k &&& 0x100 = 0) (h : Same k s t) :
    Same k s (fset a0 a1 t) := by
  unfold fset
  repeat' first
    | with_reducible assumption
    | (with_reducible refine Same_fifos (by with_reducible assumption) ?_; exact maskFree w rfl) | split

theorem eset_s {k : Nat} {s t : State} {a0 : _} {a1 : _} (w : k &&& 0x200 = 0) (h : Same k s t) :
    Same k s (eset a0 a1 t) := by
  unfold eset
  repeat' first
    | with_reducible assumption
    | (with_reducible refine Same_engs (by with_reducible assumption) ?_; exact maskFree w rfl) | split

theorem aset_s {k : Nat} {s t : State} {a0 : _} {a1 : _} (w : k &&& 0x400 = 0) (h : Same k s t) :
    Same k s (aset a0 a1 t) := by
  unfold aset
  repeat' first
    | with_reducible assumption
    | (with_reducible refine Same_areas (by with_reducible assumption) ?_; exact maskFree w rfl) | split

theorem chset_s {k : Nat} {s t : State} {a0 : _} {a1 : _} (w : k &&& 0x4000 = 0) (h : Same k s t) :
    Same k s (chset a0 a1 t) := by
  unfold chset
  repeat' first
    | with_reducible assumption
    | (with_reducible refine Same_channels (by with_reducible assumption) ?_; exact maskFree w rfl) | split

theorem tset_s {k : Nat} {s t : State} {a0 : _} {a1 : _} (w : k &&& 0x10000 = 0) (h : Same k s t) :
    Same k s (tset a0 a1 t) := by
  unfold tset
  repeat' first
    | with_reducible assumption
    | (with_reducible refine Same_timers (by with_reducible assumption) ?_; exact maskFree w rfl) | split

theorem mkset_s {k : Nat} {s t : State} {a0 : _} {a1 : _} (w : k &&& 0x20000 = 0) (h : Same k s t) :
    Same k s (mkset a0 a1 t) := by
  unfold mkset
  repeat' first
    | with_reducible assumption
    | (with_reducible refine Same_markers (by with_reducible assumption) ?_; exact maskFree w rfl) | split

theorem setPath_s {k : Nat} {s t : State} {a0 : _} {a1 : _} (w : k &&& 0xC0000 = 0) (h : Same k s t) :
    Same k s (setPath a0 a1 t) := by
  unfold setPath
  repeat' first
    | with_reducible assumption
    | (with_reducible refine Same_path0 (by with_reducible assumption) ?_; exact maskFree w rfl)
    | (with_reducible refine Same_path1 (by with_reducible assumption) ?_; exact maskFree w rfl) | split

theorem sset_s {k : Nat} {s t : State} {a0 : _} {a1 : _} {a2 : _} (w : k &&& 0x4000000 = 0) (h : Same k s t) :
    Same k s (sset a0 a1 a2 t) := by
  unfold sset
  repeat' first
    | with_reducible assumption
    | (with_reducible refine Same_segs (by with_reducible assumption) ?_; exact maskFree w rfl) | split

theorem slset_s {k : Nat} {s t : State} {a0 : _} {a1 : _} (w : k &&& 0x40000000 = 0) (h : Same k s t) :
    Same k s (slset a0 a1 t) := by
  unfold slset
  repeat' first
    | with_reducible assumption
    | (with_reducible refine Same_slices (by with_reducible assumption) ?_; exact maskFree w rfl) | split

theorem flxset_s {k : Nat} {s t : State} {a0 : _} {a1 : _} (w : k &&& 0x200000000 = 0) (h : Same k s t) :
    Same k s (flxset a0 a1 t) := by
  unfold flxset
  repeat' first
    | with_reducible assumption
    | (with_reducible refine Same_fluxes (by with_reducible assumption) ?_; exact maskFree w rfl) | split

theorem biaset_s {k : Nat} {s t : State} {a0 : _} {a1 : _} (w : k &&& 0x400000000 = 0) (h : Same k s t) :
    Same k s (biaset a0 a1 t) := by
  unfold biaset
  repeat' first
    | with_reducible assumption
    | (with_reducible refine Same_biases (by with_reducible assumption) ?_; exact maskFree w rfl) | split

theorem rgset_s {k : Nat} {s t : State} {a0 : _} {a1 : _} (w : k &&& 0x1000000000 = 0) (h : Same k s t) :
    Same k s (rgset a0 a1 t) := by
  unfold rgset
  repeat' first
    | with_reducible assumption
    | (with_reducible refine Same_regions (by with_reducible assumption) ?_; exact maskFree w rfl) | split

theorem rfset_s {k : Nat} {s t : State} {a0 : _} {a1 : _} (w : k &&& 0x20000000 = 0) (h : Same k s t) :
    Same k s (rfset a0 a1 t) := by
  unfold rfset
  repeat' first
    | with_reducible assumption
    | (with_reducible refine Same_refills (by with_reducible assumption) ?_; exact maskFree w rfl) | split

theorem raise_s {k : Nat} {s t : State} {a0 : _} (w : k &&& 0x4000 = 0) (h : Same k s t) :
    Same k s (raise a0 t) := by
  unfold raise
  repeat' first
    | with_reducible assumption | (extract_lets +onlyGivenNames x; clear_value x)
    | (with_reducible refine chset_s ?_ ?_; exact maskFree w rfl) | (with_reducible refine Same_foldl ?_ ?_; intro _ _ _)
    | split

/-! ### QueueOps -/

theorem crossing_s {k : Nat} {s t : State} {a0 : _} {a1 : _} (w : k &&& 0x7800000000000000000000000000000000000000000000000000000000000000000000000000000004000 = 0) (h : Same k s t) :
    Same k s (crossing a0 a1 t) := by
  unfold crossing
  repeat' first
    | with_reducible assumption | (with_reducible refine flag_s ?_ ?_; exact bitFree w rfl)
    | (with_reducible refine incTo_s ?_ ?_; exact bitFree w rfl)
    | (extract_lets +onlyGivenNames x; (refine (fun (hx : Same k s x) => ?_) (?_ : Same k s x); all_goals first | (guard_target =ₐ Same k s x; unfold x; clear x) | clear_value x))
    | (with_reducible refine raise_s ?_ ?_; exact maskFree w rfl) | (with_reducible refine Same_foldl ?_ ?_; intro _ _ _)
    | split

theorem levelStep_s {k : Nat} {s t : State} {a0 : _} {a1 : _} {a2 : _} (w : k &&& 0x2001F800000000000000000000000000000000000000000000000000000000000000000000000000000004000 = 0) (h : Same k s t) :
    Same k s (levelStep a0 a1 a2 t) := by
  unfold levelStep
  repeat' first
    | with_reducible assumption | (with_reducible refine low_s ?_ ?_; exact bitFree w rfl)
    | (with_reducible refine peak_s ?_ ?_; exact bitFree w rfl)
    | (extract_lets +onlyGivenNames x; first | (refine (fun (hx : Same k s x) => ?_) (?_ : Same k s x); all_goals first | (guard_target =ₐ Same k s x; unfold x; clear x) | clear_value x) | clear_value x)
    | (with_reducible refine crossing_s ?_ ?_; exact maskFree w rfl) | split

theorem appendWord_s {k : Nat} {s t : State} {a0 : _} {a1 : _} {a2 : _} (w : k &&& 0x2021F800000000000000000000000000000000000000000000000000000000000000000000000000000004040 = 0) (h : Same k s t) :
    Same k s (appendWord a0 a1 a2 t) := by
  unfold appendWord
  repeat' first
    | with_reducible assumption | (with_reducible refine inc_s ?_ ?_; exact bitFree w rfl)
    | (extract_lets +onlyGivenNames x; first | (refine (fun (hx : Same k s x) => ?_) (?_ : Same k s x); all_goals first | (guard_target =ₐ Same k s x; unfold x; clear x) | clear_value x) | clear_value x)
    | (with_reducible refine levelStep_s ?_ ?_; exact maskFree w rfl)
    | (with_reducible refine qset_s ?_ ?_; exact maskFree w rfl) | split

theorem discardWord_s {k : Nat} {s t : State} {a0 : _} {a1 : _} (w : k &&& 0x20000000000000000000000000000000000000000000000000000000000000000000000000000000000040 = 0) (h : Same k s t) :
    Same k s (discardWord a0 a1 t) := by
  unfold discardWord
  repeat' first
    | with_reducible assumption | (with_reducible refine inc_s ?_ ?_; exact bitFree w rfl)
    | (extract_lets +onlyGivenNames x; clear_value x) | (with_reducible refine qset_s ?_ ?_; exact maskFree w rfl) | split

theorem logMakeRoom_s {k : Nat} {s t : State} {a0 : _} {a1 : _} {a2 : _} (w : k &&& 0x2085F800000000000000000000000000000000000000000000000000000000000000000000000000000004040 = 0) (h : Same k s t) :
    Same k s (logMakeRoom a0 a1 a2 t) := by
  induction a2 generalizing t with
  | zero =>
    unfold logMakeRoom
    repeat' first
      | with_reducible assumption | (with_reducible refine inc_s ?_ ?_; exact bitFree w rfl)
      | (extract_lets +onlyGivenNames x; first | (refine (fun (hx : Same k s x) => ?_) (?_ : Same k s x); all_goals first | (guard_target =ₐ Same k s x; unfold x; clear x) | clear_value x) | clear_value x)
      | (with_reducible refine levelStep_s ?_ ?_; exact maskFree w rfl)
      | (with_reducible refine qset_s ?_ ?_; exact maskFree w rfl) | split
  | succ n ih =>
    unfold logMakeRoom
    repeat' first
      | with_reducible assumption | (with_reducible refine inc_s ?_ ?_; exact bitFree w rfl)
      | (extract_lets +onlyGivenNames x; first | (refine (fun (hx : Same k s x) => ?_) (?_ : Same k s x); all_goals first | (guard_target =ₐ Same k s x; unfold x; clear x) | clear_value x) | clear_value x)
      | (with_reducible refine levelStep_s ?_ ?_; exact maskFree w rfl)
      | (with_reducible refine qset_s ?_ ?_; exact maskFree w rfl) | with_reducible refine ih ?_ | split

theorem logWord_s {k : Nat} {s t : State} {a0 : _} {a1 : _} {a2 : _} (w : k &&& 0x20A5F800000000000000000000000000000000000000000000000000000000000000000000000000000004040 = 0) (h : Same k s t) :
    Same k s (logWord a0 a1 a2 t) := by
  unfold logWord
  repeat' first
    | with_reducible assumption | (with_reducible refine inc_s ?_ ?_; exact bitFree w rfl)
    | (extract_lets +onlyGivenNames x; first | (refine (fun (hx : Same k s x) => ?_) (?_ : Same k s x); all_goals first | (guard_target =ₐ Same k s x; unfold x; clear x) | clear_value x) | clear_value x)
    | (with_reducible refine logMakeRoom_s ?_ ?_; exact maskFree w rfl)
    | (with_reducible refine appendWord_s ?_ ?_; exact maskFree w rfl)
    | (with_reducible refine levelStep_s ?_ ?_; exact maskFree w rfl)
    | (with_reducible refine qset_s ?_ ?_; exact maskFree w rfl) | split

theorem writeWord_s {k : Nat} {s t : State} {a0 : _} {a1 : _} {a2 : _} (w : k &&& 0x120A7F800000000000000000000000000000000000000000000000000000000000000000000000000000004040 = 0) (h : Same k s t) :
    Same k s (writeWord a0 a1 a2 t) := by
  unfold writeWord
  repeat' first
    | with_reducible assumption | (with_reducible refine inc_s ?_ ?_; exact bitFree w rfl)
    | (extract_lets +onlyGivenNames x; clear_value x) | (with_reducible refine logWord_s ?_ ?_; exact maskFree w rfl)
    | (with_reducible refine discardWord_s ?_ ?_; exact maskFree w rfl)
    | (with_reducible refine appendWord_s ?_ ?_; exact maskFree w rfl)
    | (with_reducible refine qset_s ?_ ?_; exact maskFree w rfl) | split

theorem resumeWrite_s {k : Nat} {s t : State} {a0 : _} (w : k &&& 0x120A7F800000000000000000000000000000000000000000000000000000000000000000000000000000004040 = 0) (h : Same k s t) :
    Same k s (resumeWrite a0 t) := by
  unfold resumeWrite
  repeat' first
    | with_reducible assumption | (with_reducible refine inc_s ?_ ?_; exact bitFree w rfl)
    | (extract_lets +onlyGivenNames x; clear_value x) | (with_reducible refine logWord_s ?_ ?_; exact maskFree w rfl)
    | (with_reducible refine discardWord_s ?_ ?_; exact maskFree w rfl)
    | (with_reducible refine appendWord_s ?_ ?_; exact maskFree w rfl)
    | (with_reducible refine qset_s ?_ ?_; exact maskFree w rfl) | split

theorem writePacket_s {k : Nat} {s t : State} {a0 : _} {a1 : _} {a2 : _} (w : k &&& 0x120A7F800000000000000000000000000000000000000000000000000000000000000000000000000000004040 = 0) (h : Same k s t) :
    Same k s (writePacket a0 a1 a2 t) := by
  unfold writePacket
  repeat' first
    | with_reducible assumption | (with_reducible refine writeWord_s ?_ ?_; exact maskFree w rfl)
    | (with_reducible refine Same_foldl ?_ ?_; intro _ _ _) | split

theorem logPacket_s {k : Nat} {s t : State} {a0 : _} {a1 : _} (w : k &&& 0x120A7F800000000000000000000000000000000000000000000000000000000000000000000000000000004040 = 0) (h : Same k s t) :
    Same k s (logPacket a0 a1 t) := by
  unfold logPacket
  repeat' first
    | with_reducible assumption | (with_reducible refine inc_s ?_ ?_; exact bitFree w rfl)
    | (extract_lets +onlyGivenNames x; (refine (fun (hx : Same k s x) => ?_) (?_ : Same k s x); all_goals first | (guard_target =ₐ Same k s x; unfold x; clear x) | clear_value x))
    | (with_reducible refine writePacket_s ?_ ?_; exact maskFree w rfl)
    | (with_reducible refine logMakeRoom_s ?_ ?_; exact maskFree w rfl) | split

theorem appendPacket_s {k : Nat} {s t : State} {a0 : _} {a1 : _} {a2 : _} (w : k &&& 0x2021F800000000000000000000000000000000000000000000000000000000000000000000000000000004040 = 0) (h : Same k s t) :
    Same k s (appendPacket a0 a1 a2 t) := by
  unfold appendPacket
  repeat' first
    | with_reducible assumption | (with_reducible refine appendWord_s ?_ ?_; exact maskFree w rfl)
    | (with_reducible refine Same_foldl ?_ ?_; intro _ _ _) | split

theorem breakQueue_s {k : Nat} {s t : State} {a0 : _} (w : k &&& 0x22011F8000000000000000000000000000000000000000000000000000000000000000000000000000000040C0 = 0) (h : Same k s t) :
    Same k s (breakQueue a0 t) := by
  unfold breakQueue
  repeat' first
    | with_reducible assumption | (with_reducible refine inc_s ?_ ?_; exact bitFree w rfl)
    | (with_reducible refine Same_poolLost (by with_reducible assumption) ?_; exact maskFree w rfl)
    | (extract_lets +onlyGivenNames x; first | (refine (fun (hx : Same k s x) => ?_) (?_ : Same k s x); all_goals first | (guard_target =ₐ Same k s x; unfold x; clear x) | clear_value x) | clear_value x)
    | (with_reducible refine levelStep_s ?_ ?_; exact maskFree w rfl)
    | (with_reducible refine qset_s ?_ ?_; exact maskFree w rfl) | split

theorem readWord_s {k : Nat} {s t : State} {a0 : _} {a1 : _} {a2 : _} (w : k &&& 0x22011F8000000000000000000000000000000000000000000000000000000000000000000000000000000040C0 = 0) (h : Same k s t) :
    Same k s (readWord a0 a1 a2 t).2 := by
  unfold readWord
  repeat' first
    | with_reducible assumption | (with_reducible refine inc_s ?_ ?_; exact bitFree w rfl)
    | (extract_lets +onlyGivenNames x; first | (refine (fun (hx : Same k s x) => ?_) (?_ : Same k s x); all_goals first | (guard_target =ₐ Same k s x; unfold x; clear x) | clear_value x) | clear_value x)
    | (with_reducible refine breakQueue_s ?_ ?_; exact maskFree w rfl)
    | (with_reducible refine levelStep_s ?_ ?_; exact maskFree w rfl)
    | (with_reducible refine qset_s ?_ ?_; exact maskFree w rfl) | split | with_reducible refine SameP_mk ?_

theorem dropPacket_s {k : Nat} {s t : State} {a0 : _} (w : k &&& 0x2009F800000000000000000000000000000000000000000000000000000000000000000000000000000004040 = 0) (h : Same k s t) :
    Same k s (dropPacket a0 t).2 := by
  unfold dropPacket
  repeat' first
    | with_reducible assumption | (with_reducible refine incBy_s ?_ ?_; exact bitFree w rfl)
    | (extract_lets +onlyGivenNames x; clear_value x) | (with_reducible refine levelStep_s ?_ ?_; exact maskFree w rfl)
    | (with_reducible refine qset_s ?_ ?_; exact maskFree w rfl) | split | with_reducible refine SameP_mk ?_

theorem flushQueue_s {k : Nat} {s t : State} {a0 : _} (w : k &&& 0x2045F8000000000000000000000000000000000000000000000000000000000000000000000000000000040C0 = 0) (h : Same k s t) :
    Same k s (flushQueue a0 t) := by
  unfold flushQueue
  repeat' first
    | with_reducible assumption | (with_reducible refine inc_s ?_ ?_; exact bitFree w rfl)
    | (with_reducible refine Same_poolLost (by with_reducible assumption) ?_; exact maskFree w rfl)
    | (extract_lets +onlyGivenNames x; first | (refine (fun (hx : Same k s x) => ?_) (?_ : Same k s x); all_goals first | (guard_target =ₐ Same k s x; unfold x; clear x) | clear_value x) | clear_value x)
    | (with_reducible refine levelStep_s ?_ ?_; exact maskFree w rfl)
    | (with_reducible refine qset_s ?_ ?_; exact maskFree w rfl) | split

theorem abandonQueue_s {k : Nat} {s t : State} {a0 : _} (w : k &&& 0x2047F8000000000000000000000000000000000000000000000000000000000000000000000000000000040C0 = 0) (h : Same k s t) :
    Same k s (abandonQueue a0 t) := by
  unfold abandonQueue
  repeat' first
    | with_reducible assumption | (with_reducible refine incBy_s ?_ ?_; exact bitFree w rfl)
    | (extract_lets +onlyGivenNames x; first | (refine (fun (hx : Same k s x) => ?_) (?_ : Same k s x); all_goals first | (guard_target =ₐ Same k s x; unfold x; clear x) | clear_value x) | clear_value x)
    | (with_reducible refine flushQueue_s ?_ ?_; exact maskFree w rfl)
    | (with_reducible refine qset_s ?_ ?_; exact maskFree w rfl) | split

theorem passCut_s {k : Nat} {s t : State} {a0 : _} (w : k &&& 0x22011F8000000000000000000000000000000000000000000000000000000000000000000000000000000040C0 = 0) (h : Same k s t) :
    Same k s (passCut a0 t) := by
  unfold passCut
  repeat' first
    | with_reducible assumption | (with_reducible refine readWord_s ?_ ?_; exact maskFree w rfl)
    | (with_reducible refine SameP.snd (readWord_s ?_ ?_) (by assumption); exact maskFree w rfl) | split

theorem readWords_s {k : Nat} {s t : State} {a0 : _} {a1 : _} (w : k &&& 0x22011F8000000000000000000000000000000000000000000000000000000000000000000000000000000040C0 = 0) (h : Same k s t) :
    Same k s (readWords a0 a1 t).2 := by
  induction a1 generalizing t with
  | zero =>
    unfold readWords
    repeat' first
      | with_reducible assumption
      | (extract_lets +onlyGivenNames x; (refine (fun (hx : Same k s x.2) => ?_) (?_ : Same k s x.2); all_goals first | (guard_target =ₐ Same k s x.2; unfold x; clear x) | clear_value x))
      | (with_reducible refine readWord_s ?_ ?_; exact maskFree w rfl)
      | (with_reducible refine SameP.snd (readWord_s ?_ ?_) (by assumption); exact maskFree w rfl) | split
      | with_reducible refine SameP_mk ?_
  | succ n ih =>
    unfold readWords
    repeat' first
      | with_reducible assumption
      | (extract_lets +onlyGivenNames x; (refine (fun (hx : Same k s x.2) => ?_) (?_ : Same k s x.2); all_goals first | (guard_target =ₐ Same k s x.2; unfold x; clear x) | clear_value x))
      | (with_reducible refine readWord_s ?_ ?_; exact maskFree w rfl)
      | (with_reducible refine SameP.snd (readWord_s ?_ ?_) (by assumption); exact maskFree w rfl)
      | with_reducible refine ih ?_ | split | with_reducible refine SameP_mk ?_

theorem readWhole_s {k : Nat} {s t : State} {a0 : _} {a1 : _} (w : k &&& 0x22011F8000000000000000000000000000000000000000000000000000000000000000000000000000000040C0 = 0) (h : Same k s t) :
    Same k s (readWhole a0 a1 t).2 := by
  unfold readWhole
  repeat' first
    | with_reducible assumption | (with_reducible refine readWords_s ?_ ?_; exact maskFree w rfl)
    | (with_reducible refine SameP.snd (readWords_s ?_ ?_) (by assumption); exact maskFree w rfl)
    | (with_reducible refine passCut_s ?_ ?_; exact maskFree w rfl) | split | with_reducible refine SameP_mk ?_

/-! ### FaultOps -/

theorem logFault_s {k : Nat} {s t : State} {a0 : _} {a1 : _} {a2 : _} {a3 : _} (w : k &&& 0x47E000000000000000000000000000000000000000000000000000000000000000120A7F800000000000000000000000000000000000000000000000000000000000000000000000000000804040 = 0) (h : Same k s t) :
    Same k s (logFault a0 a1 a2 a3 t) := by
  unfold logFault
  repeat' first
    | with_reducible assumption | (with_reducible refine flag_s ?_ ?_; exact bitFree w rfl)
    | (with_reducible refine inc_s ?_ ?_; exact bitFree w rfl) | (with_reducible refine wr_s ?_ ?_; exact bitFree w rfl)
    | (with_reducible refine Same_flog (by with_reducible assumption) ?_; exact maskFree w rfl)
    | (extract_lets +onlyGivenNames x; first | (refine (fun (hx : Same k s x) => ?_) (?_ : Same k s x); all_goals first | (guard_target =ₐ Same k s x; unfold x; clear x) | clear_value x) | clear_value x)
    | (with_reducible refine logPacket_s ?_ ?_; exact maskFree w rfl) | split

theorem markShot_s {k : Nat} {s t : State} {a0 : _} {a1 : _} (w : k &&& 0x800 = 0) (h : Same k s t) :
    Same k s (markShot a0 a1 t) := by
  unfold markShot
  repeat' first
    | with_reducible assumption | (with_reducible refine Same_run (by with_reducible assumption) ?_; exact maskFree w rfl)
    | (extract_lets +onlyGivenNames x; clear_value x) | split

theorem voidAt_s {k : Nat} {s t : State} {a0 : _} {a1 : _} {a2 : _} (w : k &&& 0x47E000000000000000000000000000000000000000000000000000000000000000120A7F800000000000000000000000000000000000000000000000000000000000000000000000000000804840 = 0) (h : Same k s t) :
    Same k s (voidAt a0 a1 a2 t) := by
  unfold voidAt
  repeat' first
    | with_reducible assumption | (with_reducible refine Same_run (by with_reducible assumption) ?_; exact maskFree w rfl)
    | (extract_lets +onlyGivenNames x; clear_value x) | (with_reducible refine markShot_s ?_ ?_; exact maskFree w rfl)
    | (with_reducible refine logFault_s ?_ ?_; exact maskFree w rfl) | split

theorem voidNow_s {k : Nat} {s t : State} {a0 : _} {a1 : _} (w : k &&& 0x47E000000000000000000000000000000000000000000000000000000000000000120A7F800000000000000000000000000000000000000000000000000000000000000000000000000000804840 = 0) (h : Same k s t) :
    Same k s (voidNow a0 a1 t) := by
  unfold voidNow
  repeat' first
    | with_reducible assumption | (with_reducible refine voidAt_s ?_ ?_; exact maskFree w rfl) | split

theorem voidNum_s {k : Nat} {s t : State} {a0 : _} {a1 : _} {a2 : _} (w : k &&& 0x47E000000000000000000000000000000000000000000000000000000000000000120A7F800000000000000000000000000000000000000000000000000000000000000000000000000000804840 = 0) (h : Same k s t) :
    Same k s (voidNum a0 a1 a2 t) := by
  unfold voidNum
  repeat' first
    | with_reducible assumption | (with_reducible refine markShot_s ?_ ?_; exact maskFree w rfl)
    | (with_reducible refine logFault_s ?_ ?_; exact maskFree w rfl) | split

theorem flushFifo_s {k : Nat} {s t : State} {a0 : _} (w : k &&& 0x4000000000000000000000000000000000000000000000000000000000000000000000000000000000000000100 = 0) (h : Same k s t) :
    Same k s (flushFifo a0 t) := by
  unfold flushFifo
  repeat' first
    | with_reducible assumption | (with_reducible refine incBy_s ?_ ?_; exact bitFree w rfl)
    | (extract_lets +onlyGivenNames x; clear_value x) | (with_reducible refine fset_s ?_ ?_; exact maskFree w rfl) | split

theorem abortFifo_s {k : Nat} {s t : State} {a0 : _} (w : k &&& 0x4000000000000000000000000000000000000000000000000000000008000000010000000000000000000000100 = 0) (h : Same k s t) :
    Same k s (abortFifo a0 t) := by
  unfold abortFifo
  repeat' first
    | with_reducible assumption | (with_reducible refine incBy_s ?_ ?_; exact bitFree w rfl)
    | (extract_lets +onlyGivenNames x; first | (refine (fun (hx : Same k s x) => ?_) (?_ : Same k s x); all_goals first | (guard_target =ₐ Same k s x; unfold x; clear x) | clear_value x) | clear_value x)
    | (with_reducible refine flushFifo_s ?_ ?_; exact maskFree w rfl)
    | (with_reducible refine fset_s ?_ ?_; exact maskFree w rfl) | split

theorem discardStream_s {k : Nat} {s t : State} {a0 : _} {a1 : _} (w : k &&& 0x2047F8000000000000000000000000000000000000000000000000080000000000000000000000000000044C0 = 0) (h : Same k s t) :
    Same k s (discardStream a0 a1 t) := by
  unfold discardStream
  repeat' first
    | with_reducible assumption | (with_reducible refine incBy_s ?_ ?_; exact bitFree w rfl)
    | (extract_lets +onlyGivenNames x; first | (refine (fun (hx : Same k s x) => ?_) (?_ : Same k s x); all_goals first | (guard_target =ₐ Same k s x; unfold x; clear x) | clear_value x) | clear_value x)
    | (with_reducible refine abandonQueue_s ?_ ?_; exact maskFree w rfl)
    | (with_reducible refine aset_s ?_ ?_; exact maskFree w rfl) | split

theorem abortEngine_s {k : Nat} {s t : State} {a0 : _} (w : k &&& 0x402047F8000000000000000000000000000000000000000000000000080000000000000000000000000000046C0 = 0) (h : Same k s t) :
    Same k s (abortEngine a0 t) := by
  unfold abortEngine
  repeat' first
    | with_reducible assumption | (with_reducible refine inc_s ?_ ?_; exact bitFree w rfl)
    | (extract_lets +onlyGivenNames x; first | (refine (fun (hx : Same k s x) => ?_) (?_ : Same k s x); all_goals first | (guard_target =ₐ Same k s x; unfold x; clear x) | clear_value x) | clear_value x)
    | (with_reducible refine discardStream_s ?_ ?_; exact maskFree w rfl)
    | (with_reducible refine eset_s ?_ ?_; exact maskFree w rfl) | (with_reducible refine Same_foldl ?_ ?_; intro _ _ _)
    | split

theorem dropWrite_s {k : Nat} {s t : State} {a0 : _} {a1 : _} (w : k &&& 0x4000000 = 0) (h : Same k s t) :
    Same k s (dropWrite a0 a1 t) := by
  unfold dropWrite
  repeat' first
    | with_reducible assumption | (extract_lets +onlyGivenNames x; clear_value x)
    | (with_reducible refine sset_s ?_ ?_; exact maskFree w rfl) | split

theorem stopRefill_s {k : Nat} {s t : State} {a0 : _} (w : k &&& 0x24000000 = 0) (h : Same k s t) :
    Same k s (stopRefill a0 t) := by
  unfold stopRefill
  repeat' first
    | with_reducible assumption
    | (extract_lets +onlyGivenNames x; first | (refine (fun (hx : Same k s x) => ?_) (?_ : Same k s x); all_goals first | (guard_target =ₐ Same k s x; unfold x; clear x) | clear_value x) | clear_value x)
    | (with_reducible refine dropWrite_s ?_ ?_; exact maskFree w rfl)
    | (with_reducible refine rfset_s ?_ ?_; exact maskFree w rfl) | split

theorem settleRequests_s {k : Nat} {s t : State} (w : k &&& 0x1000000000 = 0) (h : Same k s t) :
    Same k s (settleRequests t) := by
  unfold settleRequests
  repeat' first
    | with_reducible assumption | (extract_lets +onlyGivenNames x; clear_value x)
    | (with_reducible refine rgset_s ?_ ?_; exact maskFree w rfl) | (with_reducible refine Same_foldl ?_ ?_; intro _ _ _)
    | split

theorem finishRun_s {k : Nat} {s t : State} {a0 : _} (w : k &&& 0x30000000000000000001024800A00 = 0) (h : Same k s t) :
    Same k s (finishRun a0 t) := by
  unfold finishRun
  repeat' first
    | with_reducible assumption | (with_reducible refine wr_s ?_ ?_; exact bitFree w rfl)
    | (with_reducible refine Same_run_flog (by with_reducible assumption) ?_; exact maskFree w rfl)
    | (extract_lets +onlyGivenNames x; first | (refine (fun (hx : Same k s x) => ?_) (?_ : Same k s x); all_goals first | (guard_target =ₐ Same k s x; unfold x; clear x) | clear_value x) | clear_value x)
    | (with_reducible refine settleRequests_s ?_ ?_; exact maskFree w rfl)
    | (with_reducible refine stopRefill_s ?_ ?_; exact maskFree w rfl)
    | (with_reducible refine eset_s ?_ ?_; exact maskFree w rfl) | (with_reducible refine Same_foldl ?_ ?_; intro _ _ _)
    | split

theorem abortRun_s {k : Nat} {s t : State} (w : k &&& 0x47E000000000000000000000000000000000000000000000000000000000000004120E7F800000000000000000000000000000000000000000000000008000030010000000000000001024804FC0 = 0) (h : Same k s t) :
    Same k s (abortRun t) := by
  unfold abortRun
  repeat' first
    | with_reducible assumption | (with_reducible refine Same_run (by with_reducible assumption) ?_; exact maskFree w rfl)
    | (extract_lets +onlyGivenNames x; first | (refine (fun (hx : Same k s x) => ?_) (?_ : Same k s x); all_goals first | (guard_target =ₐ Same k s x; unfold x; clear x) | clear_value x) | clear_value x)
    | (with_reducible refine finishRun_s ?_ ?_; exact maskFree w rfl)
    | (with_reducible refine abortEngine_s ?_ ?_; exact maskFree w rfl)
    | (with_reducible refine abortFifo_s ?_ ?_; exact maskFree w rfl)
    | (with_reducible refine markShot_s ?_ ?_; exact maskFree w rfl)
    | (with_reducible refine logFault_s ?_ ?_; exact maskFree w rfl)
    | (with_reducible refine Same_foldl ?_ ?_; intro _ _ _) | split

theorem runEndFault_s {k : Nat} {s t : State} {a0 : _} (w : k &&& 0x47E000000000000000000000000000000000000000000000000000000000000004120E7F800000000000000000000000000000000000000000000000008000030010000000000000001024804FC0 = 0) (h : Same k s t) :
    Same k s (runEndFault a0 t) := by
  unfold runEndFault
  repeat' first
    | with_reducible assumption | (with_reducible refine abortRun_s ?_ ?_; exact maskFree w rfl)
    | (with_reducible refine logFault_s ?_ ?_; exact maskFree w rfl) | split

/-! ### DictOps -/

theorem send_s {k : Nat} {s t : State} {a0 : _} {a1 : _} (w : k &&& 0x120A7F8000000000000000000000000000000000000000000000000000000000000000000000000000000C4040 = 0) (h : Same k s t) :
    Same k s (send a0 a1 t) := by
  unfold send
  repeat' first
    | with_reducible assumption | (extract_lets +onlyGivenNames x; clear_value x)
    | (with_reducible refine writePacket_s ?_ ?_; exact maskFree w rfl)
    | (with_reducible refine setPath_s ?_ ?_; exact maskFree w rfl) | split

theorem respond_s {k : Nat} {s t : State} {a0 : _} {a1 : _} {a2 : _} {a3 : _} {a4 : _} {a5 : _} {a6 : _} (w : k &&& 0x4000000000000000000000000000000120A7F8000000000000000000000000000000000000000000000000000000000000000000000000000000C4040 = 0) (h : Same k s t) :
    Same k s (respond a0 a1 a2 a3 a4 a5 a6 t) := by
  unfold respond
  repeat' first
    | with_reducible assumption | (with_reducible refine inc_s ?_ ?_; exact bitFree w rfl)
    | (with_reducible refine send_s ?_ ?_; exact maskFree w rfl) | split

theorem respondAbort_s {k : Nat} {s t : State} {a0 : _} {a1 : _} {a2 : _} {a3 : _} {a4 : _} {a5 : _} (w : k &&& 0x3C000000000000000000000000000000120A7F8000000000000000000000000000000000000000000000000000000000000000000000000000000C4040 = 0) (h : Same k s t) :
    Same k s (respondAbort a0 a1 a2 a3 a4 a5 t) := by
  unfold respondAbort
  repeat' first
    | with_reducible assumption | (with_reducible refine inc_s ?_ ?_; exact bitFree w rfl)
    | (with_reducible refine wr_s ?_ ?_; exact bitFree w rfl)
    | (extract_lets +onlyGivenNames x; (refine (fun (hx : Same k s x) => ?_) (?_ : Same k s x); all_goals first | (guard_target =ₐ Same k s x; unfold x; clear x) | clear_value x))
    | (with_reducible refine respond_s ?_ ?_; exact maskFree w rfl)
    | (with_reducible refine logPacket_s ?_ ?_; exact maskFree w rfl) | split

/-! ### DramOps -/

theorem setDch_s {k : Nat} {s t : State} {a0 : _} {a1 : _} (w : k &&& 0x2000000 = 0) (h : Same k s t) :
    Same k s (setDch a0 a1 t) := by
  unfold setDch
  repeat' first
    | with_reducible assumption
    | (with_reducible refine Same_dram (by with_reducible assumption) ?_ ?_; exact maskFree w rfl; rfl)
    | (extract_lets +onlyGivenNames x; first | (have _ : (x : Dram) = x := rfl; subst x) | clear_value x) | split

theorem fenceHit_s {k : Nat} {s t : State} {a0 : _} (w : k &&& 0x8000000000000000000000000000000000000000000000000000000000000000000000000000000000000000000000000000000 = 0) (h : Same k s t) :
    Same k s (fenceHit a0 t) := by
  unfold fenceHit
  repeat' first
    | with_reducible assumption | (with_reducible refine flag_s ?_ ?_; exact bitFree w rfl) | split

theorem countBurstRead_s {k : Nat} {s t : State} {a0 : _} {a1 : _} (w : k &&& 0x8098000000000000000000000000000000000000000000000000000000000000000000000000000000000000000000000000000 = 0) (h : Same k s t) :
    Same k s (countBurstRead a0 a1 t) := by
  unfold countBurstRead
  repeat' first
    | with_reducible assumption | (with_reducible refine inc_s ?_ ?_; exact bitFree w rfl)
    | (with_reducible refine wr_s ?_ ?_; exact bitFree w rfl)
    | (extract_lets +onlyGivenNames x; (refine (fun (hx : Same k s x) => ?_) (?_ : Same k s x); all_goals first | (guard_target =ₐ Same k s x; unfold x; clear x) | clear_value x))
    | (with_reducible refine fenceHit_s ?_ ?_; exact maskFree w rfl)
    | (with_reducible refine Same_foldl ?_ ?_; intro _ _ _) | split

theorem settlePanic_s {k : Nat} {s t : State} {a0 : _} (w : k &&& 0x2000000000000000000000000000000000000000000000000000000000000000000000000000000000000000000000002000000 = 0) (h : Same k s t) :
    Same k s (settlePanic a0 t) := by
  unfold settlePanic
  repeat' first
    | with_reducible assumption | (with_reducible refine inc_s ?_ ?_; exact bitFree w rfl)
    | (with_reducible refine Same_dram (by with_reducible assumption) ?_ ?_; exact maskFree w rfl; rfl)
    | (extract_lets +onlyGivenNames x; first | (refine (fun (hx : Same k s x) => ?_) (?_ : Same k s x); all_goals first | (guard_target =ₐ Same k s x; unfold x; clear x) | clear_value x) | (have _ : (x : Dram) = x := rfl; subst x) | clear_value x)
    | split

theorem setLevel_s {k : Nat} {s t : State} {a0 : _} {a1 : _} (w : k &&& 0x2000000000000000000000000000000000000000000000000000000000000000000000000000000000000000000000002000000 = 0) (h : Same k s t) :
    Same k s (setLevel a0 a1 t) := by
  unfold setLevel
  repeat' first
    | with_reducible assumption
    | (with_reducible refine Same_dram (by with_reducible assumption) ?_ ?_; exact maskFree w rfl; rfl)
    | (extract_lets +onlyGivenNames x; first | (have _ : (x : Dram) = x := rfl; subst x) | clear_value x)
    | (with_reducible refine settlePanic_s ?_ ?_; exact maskFree w rfl) | split

theorem setHeld_s {k : Nat} {s t : State} {a0 : _} {a1 : _} (w : k &&& 0x2000000 = 0) (h : Same k s t) :
    Same k s (setHeld a0 a1 t) := by
  unfold setHeld
  repeat' first
    | with_reducible assumption
    | (with_reducible refine Same_dram (by with_reducible assumption) ?_ ?_; exact maskFree w rfl; rfl)
    | (extract_lets +onlyGivenNames x; first | (have _ : (x : Dram) = x := rfl; subst x) | clear_value x) | split

theorem dropHeld_s {k : Nat} {s t : State} {a0 : _} (w : k &&& 0x2000000000000000000000000000000000000000000000000000000000000000000000000000000000000000000000002000000 = 0) (h : Same k s t) :
    Same k s (dropHeld a0 t) := by
  unfold dropHeld
  repeat' first
    | with_reducible assumption
    | (extract_lets +onlyGivenNames x; (refine (fun (hx : Same k s x) => ?_) (?_ : Same k s x); all_goals first | (guard_target =ₐ Same k s x; unfold x; clear x) | clear_value x))
    | (with_reducible refine setHeld_s ?_ ?_; exact maskFree w rfl)
    | (with_reducible refine setLevel_s ?_ ?_; exact maskFree w rfl) | split

theorem dramRead_s {k : Nat} {s t : State} {a0 : _} {a1 : _} {a2 : _} (w : k &&& 0xA098000000000000000000000000000000000000000000000000000000000000000000000000000000000000000000002000000 = 0) (h : Same k s t) :
    Same k s (dramRead a0 a1 a2 t).2 := by
  unfold dramRead
  repeat' first
    | with_reducible assumption
    | (extract_lets +onlyGivenNames x; first | (refine (fun (hx : Same k s x) => ?_) (?_ : Same k s x); all_goals first | (guard_target =ₐ Same k s x; unfold x; clear x) | clear_value x) | clear_value x)
    | (with_reducible refine setHeld_s ?_ ?_; exact maskFree w rfl)
    | (with_reducible refine setLevel_s ?_ ?_; exact maskFree w rfl)
    | (with_reducible refine countBurstRead_s ?_ ?_; exact maskFree w rfl)
    | (with_reducible refine Same_foldl ?_ ?_; intro _ _ _) | split | with_reducible refine SameP_mk ?_

theorem dramPutByte_s {k : Nat} {s t : State} {a0 : _} {a1 : _} (w : k &&& 0x4000000002000000 = 0) (h : Same k s t) :
    Same k s (dramPutByte a0 a1 t) := by
  unfold dramPutByte
  repeat' first
    | with_reducible assumption
    | (with_reducible refine Same_cells (by with_reducible assumption) ?_; exact maskFree w rfl)
    | (extract_lets +onlyGivenNames x; first | (have _ : (x : Dram) = x := rfl; subst x) | clear_value x) | split

theorem countBurstWrite_s {k : Nat} {s t : State} {a0 : _} {a1 : _} (w : k &&& 0x8100000000000000000000000000000000000000000000000000000000000000000000000000000000000000000000000000000 = 0) (h : Same k s t) :
    Same k s (countBurstWrite a0 a1 t) := by
  unfold countBurstWrite
  repeat' first
    | with_reducible assumption | (with_reducible refine inc_s ?_ ?_; exact bitFree w rfl)
    | (with_reducible refine fenceHit_s ?_ ?_; exact maskFree w rfl) | split

theorem dramWrite_s {k : Nat} {s t : State} {a0 : _} {a1 : _} {a2 : _} (w : k &&& 0x8100000000000000000000000000000000000000000000000000000000000000000000000000000000000004000000002000000 = 0) (h : Same k s t) :
    Same k s (dramWrite a0 a1 a2 t) := by
  unfold dramWrite
  repeat' first
    | with_reducible assumption
    | (extract_lets +onlyGivenNames x; (refine (fun (hx : Same k s x) => ?_) (?_ : Same k s x); all_goals first | (guard_target =ₐ Same k s x; unfold x; clear x) | clear_value x))
    | (with_reducible refine countBurstWrite_s ?_ ?_; exact maskFree w rfl)
    | (with_reducible refine dramPutByte_s ?_ ?_; exact maskFree w rfl)
    | (with_reducible refine Same_foldl ?_ ?_; intro _ _ _) | split

theorem settleState_s {k : Nat} {s t : State} (w : k &&& 0x400000000000000000000000000000000000000000000000000000000000000000000000000000000000000000000000 = 0) (h : Same k s t) :
    Same k s (settleState t) := by
  unfold settleState
  repeat' first
    | with_reducible assumption | (with_reducible refine wr_s ?_ ?_; exact bitFree w rfl) | split

theorem fenceChannel_s {k : Nat} {s t : State} {a0 : _} (w : k &&& 0x47E000000000000000000000000000000000000000000000000000000290400000120A7F800000000000000000000000000000000000000000000000000000000000000000000000000002804040 = 0) (h : Same k s t) :
    Same k s (fenceChannel a0 t) := by
  unfold fenceChannel
  repeat' first
    | with_reducible assumption | (with_reducible refine wr_s ?_ ?_; exact bitFree w rfl)
    | (extract_lets +onlyGivenNames x; first | (refine (fun (hx : Same k s x) => ?_) (?_ : Same k s x); all_goals first | (guard_target =ₐ Same k s x; unfold x; clear x) | clear_value x) | clear_value x)
    | (with_reducible refine settleState_s ?_ ?_; exact maskFree w rfl)
    | (with_reducible refine setDch_s ?_ ?_; exact maskFree w rfl)
    | (with_reducible refine logFault_s ?_ ?_; exact maskFree w rfl) | split

/-! ### SegmentOps -/

theorem writeDesc_s {k : Nat} {s t : State} {a0 : _} {a1 : _} {a2 : _} (w : k &&& 0x4000000 = 0) (h : Same k s t) :
    SameA k s (writeDesc a0 a1 a2 t) := by
  unfold writeDesc
  repeat' first
    | with_reducible assumption | (extract_lets +onlyGivenNames x; clear_value x)
    | (with_reducible refine sset_s ?_ ?_; exact maskFree w rfl) | split | with_reducible refine SameA_ok ?_
    | with_reducible exact SameA_err

theorem storeSamples_s {k : Nat} {s t : State} {a0 : _} {a1 : _} {a2 : _} (w : k &&& 0x18000000 = 0) (h : Same k s t) :
    Same k s (storeSamples a0 a1 a2 t) := by
  induction a2 generalizing t a1 with
  | nil =>
    unfold storeSamples
    repeat' first
      | with_reducible assumption
      | (with_reducible refine Same_segMem_segBad (by with_reducible assumption) ?_; exact maskFree w rfl) | split
  | cons y l ih =>
    unfold storeSamples
    repeat' first
      | with_reducible assumption
      | (with_reducible refine Same_segMem_segBad (by with_reducible assumption) ?_; exact maskFree w rfl)
      | with_reducible refine ih ?_ | split

theorem completeWrite_s {k : Nat} {s t : State} {a0 : _} {a1 : _} (w : k &&& 0x4000000 = 0) (h : Same k s t) :
    Same k s (completeWrite a0 a1 t) := by
  unfold completeWrite
  repeat' first
    | with_reducible assumption | (extract_lets +onlyGivenNames x; clear_value x)
    | (with_reducible refine sset_s ?_ ?_; exact maskFree w rfl) | split

theorem beginWrite_s {k : Nat} {s t : State} {a0 : _} {a1 : _} (w : k &&& 0x4000000 = 0) (h : Same k s t) :
    Same k s (beginWrite a0 a1 t) := by
  unfold beginWrite
  repeat' first
    | with_reducible assumption | (extract_lets +onlyGivenNames x; clear_value x)
    | (with_reducible refine sset_s ?_ ?_; exact maskFree w rfl) | split

theorem writeSegData_s {k : Nat} {s t : State} {a0 : _} {a1 : _} {a2 : _} (w : k &&& 0x1C000000 = 0) (h : Same k s t) :
    SameA k s (writeSegData a0 a1 a2 t) := by
  unfold writeSegData
  repeat' first
    | with_reducible assumption | (with_reducible refine beginWrite_s ?_ ?_; exact maskFree w rfl)
    | (with_reducible refine completeWrite_s ?_ ?_; exact maskFree w rfl)
    | (with_reducible refine storeSamples_s ?_ ?_; exact maskFree w rfl)
    | (with_reducible refine SameA_map ?_ (fun _ _ => ?_)) | with_reducible refine SameA_map' (fun _ => ?_) | split
    | with_reducible refine SameA_ok ?_ | with_reducible exact SameA_err

theorem execRefillEntryStart_s {k : Nat} {s t : State} {a0 : _} (w : k &&& 0x2000000000000000000000000000000000000000000000000000000000000000000000000000000000000000000000026000000 = 0) (h : Same k s t) :
    SameO k s (execRefillEntryStart a0 t) := by
  unfold execRefillEntryStart
  repeat' first
    | with_reducible assumption | (extract_lets +onlyGivenNames x; clear_value x)
    | (with_reducible refine beginWrite_s ?_ ?_; exact maskFree w rfl)
    | (with_reducible refine dropHeld_s ?_ ?_; exact maskFree w rfl)
    | (with_reducible refine rfset_s ?_ ?_; exact maskFree w rfl) | split | with_reducible refine SameO_next ?_

theorem execRefillEntryDone_s {k : Nat} {s t : State} {a0 : _} (w : k &&& 0xA09800000000000000000000000000000000000000000000000000000003000000000000000000000000000000000003E000000 = 0) (h : Same k s t) :
    SameO k s (execRefillEntryDone a0 t) := by
  unfold execRefillEntryDone
  repeat' first
    | with_reducible assumption | (with_reducible refine inc_s ?_ ?_; exact bitFree w rfl)
    | (extract_lets +onlyGivenNames x; first | (refine (fun (hx : Same k s x) => ?_) (?_ : Same k s x); all_goals first | (guard_target =ₐ Same k s x; unfold x; clear x) | clear_value x) | (refine (fun (hx : Same k s x.2) => ?_) (?_ : Same k s x.2); all_goals first | (guard_target =ₐ Same k s x.2; unfold x; clear x) | clear_value x) | clear_value x)
    | (with_reducible refine completeWrite_s ?_ ?_; exact maskFree w rfl)
    | (with_reducible refine storeSamples_s ?_ ?_; exact maskFree w rfl)
    | (with_reducible refine dramRead_s ?_ ?_; exact maskFree w rfl)
    | (with_reducible refine SameP.snd (dramRead_s ?_ ?_) (by assumption); exact maskFree w rfl)
    | (with_reducible refine rfset_s ?_ ?_; exact maskFree w rfl)
    | (with_reducible refine sset_s ?_ ?_; exact maskFree w rfl) | split | with_reducible refine SameO_next ?_

/-! ### Playback -/

theorem takeDue_s {k : Nat} {s t : State} {a0 : _} {a1 : _} (w : k &&& 0x4000000000000000000100 = 0) (h : Same k s t) :
    Same k s (takeDue a0 a1 t) := by
  unfold takeDue
  repeat' first
    | with_reducible assumption | (with_reducible refine inc_s ?_ ?_; exact bitFree w rfl)
    | (extract_lets +onlyGivenNames x; first | (refine (fun (hx : Same k s x) => ?_) (?_ : Same k s x); all_goals first | (guard_target =ₐ Same k s x; unfold x; clear x) | clear_value x) | clear_value x)
    | (with_reducible refine fset_s ?_ ?_; exact maskFree w rfl) | split

theorem endPlay_s {k : Nat} {s t : State} {a0 : _} {a1 : _} (w : k &&& 0x240000000 = 0) (h : Same k s t) :
    Same k s (endPlay a0 a1 t) := by
  unfold endPlay
  repeat' first
    | with_reducible assumption
    | (extract_lets +onlyGivenNames x; first | (refine (fun (hx : Same k s x) => ?_) (?_ : Same k s x); all_goals first | (guard_target =ₐ Same k s x; unfold x; clear x) | clear_value x) | clear_value x)
    | (with_reducible refine flxset_s ?_ ?_; exact maskFree w rfl)
    | (with_reducible refine slset_s ?_ ?_; exact maskFree w rfl) | split

theorem dropJumps_s {k : Nat} {s t : State} {a0 : _} (w : k &&& 0x800000000000000000000000000000040000000 = 0) (h : Same k s t) :
    Same k s (dropJumps a0 t) := by
  unfold dropJumps
  repeat' first
    | with_reducible assumption | (with_reducible refine tinc_s ?_ ?_; exact bitFree w rfl)
    | (extract_lets +onlyGivenNames x; clear_value x) | (with_reducible refine slset_s ?_ ?_; exact maskFree w rfl)
    | split

theorem cutPass_s {k : Nat} {s t : State} {a0 : _} {a1 : _} {a2 : _} (w : k &&& 0x47E000000000000000000000000000000000000000000000000000000000000000120A7F800000000000000000000000000000000000000020001800000000000000000000000000000254804840 = 0) (h : Same k s t) :
    Same k s (cutPass a0 a1 a2 t) := by
  unfold cutPass
  repeat' first
    | with_reducible assumption | (with_reducible refine tinc_s ?_ ?_; exact bitFree w rfl)
    | (with_reducible refine inc_s ?_ ?_; exact bitFree w rfl)
    | (with_reducible refine Same_segBad (by with_reducible assumption) ?_; exact maskFree w rfl)
    | (extract_lets +onlyGivenNames x; first | (refine (fun (hx : Same k s x) => ?_) (?_ : Same k s x); all_goals first | (guard_target =ₐ Same k s x; unfold x; clear x) | clear_value x) | clear_value x)
    | (with_reducible refine endPlay_s ?_ ?_; exact maskFree w rfl)
    | (with_reducible refine voidAt_s ?_ ?_; exact maskFree w rfl)
    | (with_reducible refine slset_s ?_ ?_; exact maskFree w rfl)
    | (with_reducible refine sset_s ?_ ?_; exact maskFree w rfl) | split

theorem applyCut_s {k : Nat} {s t : State} {a0 : _} {a1 : _} (w : k &&& 0x47E000000000000000000000000000000000000000000000000000000000000000120A7F800000000000000000000000000000000000000020001800000000000000000000000000000254804840 = 0) (h : Same k s t) :
    Same k s (applyCut a0 a1 t) := by
  unfold applyCut
  repeat' first
    | with_reducible assumption | (extract_lets +onlyGivenNames x; clear_value x)
    | (with_reducible refine cutPass_s ?_ ?_; exact maskFree w rfl)
    | (with_reducible refine slset_s ?_ ?_; exact maskFree w rfl) | split

theorem notReady_s {k : Nat} {s t : State} {a0 : _} {a1 : _} (w : k &&& 0x47E000000000000000000000000000000000000000000000000000000000000000120A7F800000000000000000000000000000000000000004000200000000000000000000000000000000804840 = 0) (h : Same k s t) :
    Same k s (notReady a0 a1 t) := by
  unfold notReady
  repeat' first
    | with_reducible assumption | (with_reducible refine tinc_s ?_ ?_; exact bitFree w rfl)
    | (with_reducible refine flag_s ?_ ?_; exact bitFree w rfl)
    | (extract_lets +onlyGivenNames x; (refine (fun (hx : Same k s x) => ?_) (?_ : Same k s x); all_goals first | (guard_target =ₐ Same k s x; unfold x; clear x) | clear_value x))
    | (with_reducible refine voidAt_s ?_ ?_; exact maskFree w rfl) | split

theorem startPass_s {k : Nat} {s t : State} {a0 : _} {a1 : _} {a2 : _} {a3 : _} {a4 : _} {a5 : _} {a6 : _} (w : k &&& 0x47E000000000000000000000000000000000000000000000000000000000000000120A7F800000000000000000000000000000000000000020001800000000000000000000000000000254804840 = 0) (h : Same k s t) :
    Same k s (startPass a0 a1 a2 a3 a4 a5 a6 t) := by
  unfold startPass
  repeat' first
    | with_reducible assumption | (extract_lets +onlyGivenNames x; clear_value x)
    | (with_reducible refine applyCut_s ?_ ?_; exact maskFree w rfl)
    | (with_reducible refine slset_s ?_ ?_; exact maskFree w rfl) | split

theorem execPlay_s {k : Nat} {s t : State} {a0 : _} {a1 : _} (w : k &&& 0x47E000000000000000000000000000000000000000000000000000000000000000120A7F800000000000000000000000000000000000040024001A00000000000000004000000000000254804940 = 0) (h : Same k s t) :
    SameO k s (execPlay a0 a1 t) := by
  unfold execPlay
  repeat' first
    | with_reducible assumption | (with_reducible refine inc_s ?_ ?_; exact bitFree w rfl)
    | (extract_lets +onlyGivenNames x; first | (refine (fun (hx : Same k s x) => ?_) (?_ : Same k s x); all_goals first | (guard_target =ₐ Same k s x; unfold x; clear x) | clear_value x) | clear_value x)
    | (with_reducible refine startPass_s ?_ ?_; exact maskFree w rfl)
    | (with_reducible refine notReady_s ?_ ?_; exact maskFree w rfl)
    | (with_reducible refine applyCut_s ?_ ?_; exact maskFree w rfl)
    | (with_reducible refine dropJumps_s ?_ ?_; exact maskFree w rfl)
    | (with_reducible refine endPlay_s ?_ ?_; exact maskFree w rfl)
    | (with_reducible refine takeDue_s ?_ ?_; exact maskFree w rfl) | split | with_reducible refine SameO_next ?_

theorem execJump_s {k : Nat} {s t : State} {a0 : _} (w : k &&& 0x47E000000000000000000000000000000000000000000000000000000000000000120A7F800000000000000000000000000000000000000020001C00000000000000004000000000000254804940 = 0) (h : Same k s t) :
    SameO k s (execJump a0 t) := by
  unfold execJump
  repeat' first
    | with_reducible assumption | (with_reducible refine tinc_s ?_ ?_; exact bitFree w rfl)
    | (extract_lets +onlyGivenNames x; first | (refine (fun (hx : Same k s x) => ?_) (?_ : Same k s x); all_goals first | (guard_target =ₐ Same k s x; unfold x; clear x) | clear_value x) | clear_value x)
    | (with_reducible refine applyCut_s ?_ ?_; exact maskFree w rfl)
    | (with_reducible refine takeDue_s ?_ ?_; exact maskFree w rfl)
    | (with_reducible refine slset_s ?_ ?_; exact maskFree w rfl) | split | with_reducible refine SameO_next ?_

theorem sampleJumps_s {k : Nat} {s t : State} {a0 : _} {a1 : _} (w : k &&& 0x800000000000000000000000000000040000000 = 0) (h : Same k s t) :
    Same k s (sampleJumps a0 a1 t) := by
  unfold sampleJumps
  repeat' first
    | with_reducible assumption | (with_reducible refine tinc_s ?_ ?_; exact bitFree w rfl)
    | (extract_lets +onlyGivenNames x; clear_value x) | (with_reducible refine slset_s ?_ ?_; exact maskFree w rfl)
    | split

theorem execJumpSamplingPoint_s {k : Nat} {s t : State} {a0 : _} (w : k &&& 0x47E000000000000000000000000000000000000000000000000000000000000000120A7F800000000000000000000000000000000000000020001800000000000000000000000000000254804840 = 0) (h : Same k s t) :
    SameO k s (execJumpSamplingPoint a0 t) := by
  unfold execJumpSamplingPoint
  repeat' first
    | with_reducible assumption
    | (extract_lets +onlyGivenNames x; (refine (fun (hx : Same k s x) => ?_) (?_ : Same k s x); all_goals first | (guard_target =ₐ Same k s x; unfold x; clear x) | clear_value x))
    | (with_reducible refine sampleJumps_s ?_ ?_; exact maskFree w rfl)
    | (with_reducible refine applyCut_s ?_ ?_; exact maskFree w rfl) | split | with_reducible refine SameO_next ?_

theorem execSegmentBoundary_s {k : Nat} {s t : State} {a0 : _} {a1 : _} (w : k &&& 0x47E000000000000000000000000000000000000000000000000000000000000000120A7F800000000000000000000000000000000000000024001A00000000000000000000000000000254804840 = 0) (h : Same k s t) :
    SameO k s (execSegmentBoundary a0 a1 t) := by
  unfold execSegmentBoundary
  repeat' first
    | with_reducible assumption
    | (extract_lets +onlyGivenNames x; first | (refine (fun (hx : Same k s x) => ?_) (?_ : Same k s x); all_goals first | (guard_target =ₐ Same k s x; unfold x; clear x) | clear_value x) | clear_value x)
    | (with_reducible refine sampleJumps_s ?_ ?_; exact maskFree w rfl)
    | (with_reducible refine startPass_s ?_ ?_; exact maskFree w rfl)
    | (with_reducible refine notReady_s ?_ ?_; exact maskFree w rfl)
    | (with_reducible refine applyCut_s ?_ ?_; exact maskFree w rfl)
    | (with_reducible refine endPlay_s ?_ ?_; exact maskFree w rfl)
    | (with_reducible refine slset_s ?_ ?_; exact maskFree w rfl) | split | with_reducible refine SameO_next ?_

theorem setFrame_s {k : Nat} {s t : State} {a0 : _} {a1 : _} {a2 : _} {a3 : _} (w : k &&& 0x18000000000000000000000000000080000000 = 0) (h : Same k s t) :
    Same k s (setFrame a0 a1 a2 a3 t) := by
  unfold setFrame
  repeat' first
    | with_reducible assumption | (with_reducible refine wr_s ?_ ?_; exact bitFree w rfl)
    | (with_reducible refine Same_frames (by with_reducible assumption) ?_; exact maskFree w rfl)
    | (extract_lets +onlyGivenNames x; (refine (fun (hx : Same k s x) => ?_) (?_ : Same k s x); all_goals first | (guard_target =ₐ Same k s x; unfold x; clear x) | clear_value x))
    | split

theorem execFreq_s {k : Nat} {s t : State} {a0 : _} (w : k &&& 0x18000000000000004000000000000080000100 = 0) (h : Same k s t) :
    SameO k s (execFreq a0 t) := by
  unfold execFreq
  repeat' first
    | with_reducible assumption
    | (extract_lets +onlyGivenNames x; (refine (fun (hx : Same k s x) => ?_) (?_ : Same k s x); all_goals first | (guard_target =ₐ Same k s x; unfold x; clear x) | clear_value x))
    | (with_reducible refine setFrame_s ?_ ?_; exact maskFree w rfl)
    | (with_reducible refine takeDue_s ?_ ?_; exact maskFree w rfl) | split | with_reducible refine SameO_next ?_

theorem execPhase_s {k : Nat} {s t : State} {a0 : _} (w : k &&& 0x18000000000000004000000000000080000100 = 0) (h : Same k s t) :
    SameO k s (execPhase a0 t) := by
  unfold execPhase
  repeat' first
    | with_reducible assumption
    | (extract_lets +onlyGivenNames x; first | (refine (fun (hx : Same k s x) => ?_) (?_ : Same k s x); all_goals first | (guard_target =ₐ Same k s x; unfold x; clear x) | clear_value x) | clear_value x)
    | (with_reducible refine setFrame_s ?_ ?_; exact maskFree w rfl)
    | (with_reducible refine takeDue_s ?_ ?_; exact maskFree w rfl) | split | with_reducible refine SameO_next ?_

theorem queueBias_s {k : Nat} {s t : State} {a0 : _} {a1 : _} (w : k &&& 0x100000000000000000000000000000000000000000400000000 = 0) (h : Same k s t) :
    Same k s (queueBias a0 a1 t) := by
  unfold queueBias
  repeat' first
    | with_reducible assumption | (with_reducible refine inc_s ?_ ?_; exact bitFree w rfl)
    | (extract_lets +onlyGivenNames x; clear_value x) | (with_reducible refine biaset_s ?_ ?_; exact maskFree w rfl)
    | split

theorem execHold_s {k : Nat} {s t : State} {a0 : _} (w : k &&& 0x47E000000000000000000000000000000000000000000000000000000000000000120A7F800000000000000000000000000000000100000020001800000000000000004000000000000654804940 = 0) (h : Same k s t) :
    SameO k s (execHold a0 t) := by
  unfold execHold
  repeat' first
    | with_reducible assumption
    | (extract_lets +onlyGivenNames x; first | (refine (fun (hx : Same k s x) => ?_) (?_ : Same k s x); all_goals first | (guard_target =ₐ Same k s x; unfold x; clear x) | clear_value x) | clear_value x)
    | (with_reducible refine queueBias_s ?_ ?_; exact maskFree w rfl)
    | (with_reducible refine applyCut_s ?_ ?_; exact maskFree w rfl)
    | (with_reducible refine dropJumps_s ?_ ?_; exact maskFree w rfl)
    | (with_reducible refine endPlay_s ?_ ?_; exact maskFree w rfl)
    | (with_reducible refine takeDue_s ?_ ?_; exact maskFree w rfl) | split | with_reducible refine SameO_next ?_

theorem holdFlux_s {k : Nat} {s t : State} {a0 : _} {a1 : _} (w : k &&& 0x40000000000000000000000000000000000000200000000 = 0) (h : Same k s t) :
    Same k s (holdFlux a0 a1 t) := by
  unfold holdFlux
  repeat' first
    | with_reducible assumption | (with_reducible refine inc_s ?_ ?_; exact bitFree w rfl)
    | (extract_lets +onlyGivenNames x; clear_value x) | (with_reducible refine flxset_s ?_ ?_; exact maskFree w rfl)
    | split

theorem execFlux_s {k : Nat} {s t : State} {a0 : _} (w : k &&& 0x47E000000000000000000000000000000000000000000000000000000000000000120A7F800000000000000000000000000000000000040020001800000000000000004000000000000254804940 = 0) (h : Same k s t) :
    SameO k s (execFlux a0 t) := by
  unfold execFlux
  repeat' first
    | with_reducible assumption | (with_reducible refine inc_s ?_ ?_; exact bitFree w rfl)
    | (extract_lets +onlyGivenNames x; first | (refine (fun (hx : Same k s x) => ?_) (?_ : Same k s x); all_goals first | (guard_target =ₐ Same k s x; unfold x; clear x) | clear_value x) | clear_value x)
    | (with_reducible refine holdFlux_s ?_ ?_; exact maskFree w rfl)
    | (with_reducible refine applyCut_s ?_ ?_; exact maskFree w rfl)
    | (with_reducible refine dropJumps_s ?_ ?_; exact maskFree w rfl)
    | (with_reducible refine endPlay_s ?_ ?_; exact maskFree w rfl)
    | (with_reducible refine takeDue_s ?_ ?_; exact maskFree w rfl) | split | with_reducible refine SameO_next ?_

theorem execBias_s {k : Nat} {s t : State} {a0 : _} (w : k &&& 0x100000000000000000000000000004000000000000400000100 = 0) (h : Same k s t) :
    SameO k s (execBias a0 t) := by
  unfold execBias
  repeat' first
    | with_reducible assumption | (with_reducible refine queueBias_s ?_ ?_; exact maskFree w rfl)
    | (with_reducible refine takeDue_s ?_ ?_; exact maskFree w rfl) | split | with_reducible refine SameO_next ?_

theorem execMark_s {k : Nat} {s t : State} {a0 : _} (w : k &&& 0xC000000000000000024100 = 0) (h : Same k s t) :
    SameO k s (execMark a0 t) := by
  unfold execMark
  repeat' first
    | with_reducible assumption | (with_reducible refine inc_s ?_ ?_; exact bitFree w rfl)
    | (extract_lets +onlyGivenNames x; first | (refine (fun (hx : Same k s x) => ?_) (?_ : Same k s x); all_goals first | (guard_target =ₐ Same k s x; unfold x; clear x) | clear_value x) | clear_value x)
    | (with_reducible refine takeDue_s ?_ ?_; exact maskFree w rfl)
    | (with_reducible refine raise_s ?_ ?_; exact maskFree w rfl)
    | (with_reducible refine mkset_s ?_ ?_; exact maskFree w rfl) | split | with_reducible refine SameO_next ?_

theorem execMarkPulseEnd_s {k : Nat} {s t : State} {a0 : _} (w : k &&& 0x20000 = 0) (h : Same k s t) :
    SameO k s (execMarkPulseEnd a0 t) := by
  unfold execMarkPulseEnd
  repeat' first
    | with_reducible assumption | (extract_lets +onlyGivenNames x; clear_value x)
    | (with_reducible refine mkset_s ?_ ?_; exact maskFree w rfl) | split | with_reducible refine SameO_next ?_

theorem writeTap_s {k : Nat} {s t : State} {a0 : _} {a1 : _} {a2 : _} (w : k &&& 0x100000000000000000000000000000000100000000 = 0) (h : Same k s t) :
    SameA k s (writeTap a0 a1 a2 t) := by
  unfold writeTap
  repeat' first
    | with_reducible assumption | (with_reducible refine wr_s ?_ ?_; exact bitFree w rfl)
    | (with_reducible refine Same_tapBad (by with_reducible assumption) ?_; exact maskFree w rfl) | split
    | with_reducible refine SameA_ok ?_ | with_reducible exact SameA_err

theorem execTapParityFailure_s {k : Nat} {s t : State} {a0 : _} {a1 : _} (w : k &&& 0x47E000000000000000000000000000000000000000000000000000000000000000120A7F800000000000000000000000000000000000000000080000000000000000000000000000000100804840 = 0) (h : Same k s t) :
    SameO k s (execTapParityFailure a0 a1 t) := by
  unfold execTapParityFailure
  repeat' first
    | with_reducible assumption | (with_reducible refine inc_s ?_ ?_; exact bitFree w rfl)
    | (with_reducible refine Same_tapBad (by with_reducible assumption) ?_; exact maskFree w rfl)
    | (extract_lets +onlyGivenNames x; first | (refine (fun (hx : Same k s x) => ?_) (?_ : Same k s x); all_goals first | (guard_target =ₐ Same k s x; unfold x; clear x) | clear_value x) | clear_value x)
    | (with_reducible refine voidNow_s ?_ ?_; exact maskFree w rfl) | split | with_reducible refine SameO_next ?_

theorem setMute_s {k : Nat} {s t : State} {p : Bool} {n b : Nat} (w : k &&& 0x400000000000000010000000000000000000000000000000000000000 = 0) (h : Same k s t) : Same k s (setMute p n b t) := by
  have f : k.testBit (63 + (if p then Reg.PRB_MUTE_CAUSE else Reg.DRV_MUTE_CAUSE).ctorIdx) = false := by
    cases p
    · exact bitFree w rfl
    · exact bitFree w rfl
  unfold setMute
  dsimp only
  split
  · exact wrBit_s f (wrBit_s f h)
  · exact wrBit_s f h

theorem clearMute_s {k : Nat} {s t : State} {p : Bool} {n b : Nat} (w : k &&& 0x400000000000000010000000000000000000000000000000000000000 = 0) (h : Same k s t) : Same k s (clearMute p n b t) := by
  have f : k.testBit (63 + (if p then Reg.PRB_MUTE_CAUSE else Reg.DRV_MUTE_CAUSE).ctorIdx) = false := by
    cases p
    · exact bitFree w rfl
    · exact bitFree w rfl
  exact wrBit_s f h

theorem writeMute_s {k : Nat} {s t : State} {p : Bool} {n b : Nat} (w : k &&& 0x400000000000000010000000000000000000000000000000000000000 = 0) (h : Same k s t) : Same k s (writeMute p n b t) := by
  have f : k.testBit (63 + (if p then Reg.PRB_MUTE_CAUSE else Reg.DRV_MUTE_CAUSE).ctorIdx) = false := by
    cases p
    · exact bitFree w rfl
    · exact bitFree w rfl
  exact wrBit_s f h

theorem muteCluster_s {k : Nat} {s t : State} {a0 : _} {a1 : _} {a2 : _} (w : k &&& 0x400000000000000010000000000000000000000000000000000000000 = 0) (h : Same k s t) :
    Same k s (muteCluster a0 a1 a2 t) := by
  unfold muteCluster
  repeat' first
    | with_reducible assumption
    | (extract_lets +onlyGivenNames x; first | (refine (fun (hf3 : ∀ a b u, Same k s u → Same k s (x a b u)) => ?_) (?_ : ∀ a b u, Same k s u → Same k s (x a b u)); all_goals first | (guard_target =ₐ ∀ a b u, Same k s u → Same k s (x a b u); unfold x; clear x; intro _ _ _ _) | clear_value x) | clear_value x)
    | with_reducible refine hf3 _ _ _ ?_ | (with_reducible refine clearMute_s ?_ ?_; exact maskFree w rfl)
    | (with_reducible refine setMute_s ?_ ?_; exact maskFree w rfl)
    | (with_reducible refine Same_foldl ?_ ?_; intro _ _ _) | split

/-! ### FluxBias -/

theorem fluxSlice_s {k : Nat} {s t : State} {a0 : _} {a1 : _} (w : k &&& 0x200000000 = 0) (h : Same k s t) :
    Same k s (fluxSlice a0 a1 t) := by
  unfold fluxSlice
  repeat' first
    | with_reducible assumption | (extract_lets +onlyGivenNames x; clear_value x)
    | (with_reducible refine flxset_s ?_ ?_; exact maskFree w rfl) | split

theorem fluxEmit_s {k : Nat} {s t : State} {a0 : _} (w : k &&& 0x38000000000000000000000000000000000000200000000 = 0) (h : Same k s t) :
    Same k s (fluxEmit a0 t) := by
  unfold fluxEmit
  repeat' first
    | with_reducible assumption | (with_reducible refine peak_s ?_ ?_; exact bitFree w rfl)
    | (with_reducible refine inc_s ?_ ?_; exact bitFree w rfl)
    | (extract_lets +onlyGivenNames x; first | (refine (fun (hx : Same k s x) => ?_) (?_ : Same k s x); all_goals first | (guard_target =ₐ Same k s x; unfold x; clear x) | clear_value x) | clear_value x)
    | (with_reducible refine flxset_s ?_ ?_; exact maskFree w rfl) | split

theorem fluxGrain_s {k : Nat} {s t : State} {a0 : _} (w : k &&& 0x38000000000000000000000000000000000000200000000 = 0) (h : Same k s t) :
    Same k s (fluxGrain a0 t) := by
  unfold fluxGrain
  repeat' first
    | with_reducible assumption
    | (extract_lets +onlyGivenNames x; (refine (fun (hx : Same k s x) => ?_) (?_ : Same k s x); all_goals first | (guard_target =ₐ Same k s x; unfold x; clear x) | clear_value x))
    | (with_reducible refine fluxEmit_s ?_ ?_; exact maskFree w rfl)
    | (with_reducible refine fluxSlice_s ?_ ?_; exact maskFree w rfl)
    | (with_reducible refine Same_foldl ?_ ?_; intro _ _ _) | split

theorem settleFlux_s {k : Nat} {s t : State} {a0 : _} (w : k &&& 0x200000000 = 0) (h : Same k s t) :
    Same k s (settleFlux a0 t) := by
  unfold settleFlux
  repeat' first
    | with_reducible assumption | (extract_lets +onlyGivenNames x; clear_value x)
    | (with_reducible refine flxset_s ?_ ?_; exact maskFree w rfl) | split

theorem refreshFlux_s {k : Nat} {s t : State} {a0 : _} (w : k &&& 0x200000000 = 0) (h : Same k s t) :
    Same k s (refreshFlux a0 t) := by
  unfold refreshFlux
  repeat' first
    | with_reducible assumption | (extract_lets +onlyGivenNames x; clear_value x)
    | (with_reducible refine flxset_s ?_ ?_; exact maskFree w rfl) | (with_reducible refine Same_foldl ?_ ?_; intro _ _ _)
    | split

theorem writeFluxCoef_s {k : Nat} {s t : State} {r : Reg} {n : Nat} {v : Int} (w : k &&& 0x7FFFFFFFFFFFFFFFFFFFFFFFFFFFFFFFFFFFFFFFFFFFFFFFFFFFFFFFFFFFFFFFFFFFFFFFFFFFFFFFFFFFFFFFFFFFFFFFFFFFFFFFFFFFFFFFFFFFFFFFFFFFFFFFFFFFFFFFFFFFFFFFFF8000000200000000 = 0) (h : Same k s t) : SameA k s (writeFluxCoef r n v t) := by
  have hw := wr_s (v := v) (i := n) (allRegs (maskFree w rfl) r) h
  unfold writeFluxCoef
  split
  · exact SameA_err
  · split
    · exact SameA_err
    · dsimp only
      split
      · exact SameA_ok (refreshFlux_s (maskFree w rfl) hw)
      · exact SameA_ok (refreshFlux_s (maskFree w rfl) (settleFlux_s (maskFree w rfl) hw))
      · exact SameA_ok (refreshFlux_s (maskFree w rfl) (settleFlux_s (maskFree w rfl) hw))

theorem setZero_s {k : Nat} {s t : State} {a0 : _} {a1 : _} (w : k &&& 0x4000000000000000000000000000000000000200000000 = 0) (h : Same k s t) :
    Same k s (setZero a0 a1 t) := by
  unfold setZero
  repeat' first
    | with_reducible assumption | (with_reducible refine wrBit_s ?_ ?_; exact bitFree w rfl)
    | (extract_lets +onlyGivenNames x; clear_value x) | (with_reducible refine flxset_s ?_ ?_; exact maskFree w rfl)
    | split

theorem clearZero_s {k : Nat} {s t : State} {a0 : _} {a1 : _} (w : k &&& 0x4000000000000000000000000000000000000240000000 = 0) (h : Same k s t) :
    Same k s (clearZero a0 a1 t) := by
  unfold clearZero
  repeat' first
    | with_reducible assumption | (with_reducible refine wrBit_s ?_ ?_; exact bitFree w rfl)
    | (extract_lets +onlyGivenNames x; first | (refine (fun (hx : Same k s x) => ?_) (?_ : Same k s x); all_goals first | (guard_target =ₐ Same k s x; unfold x; clear x) | clear_value x) | clear_value x)
    | (with_reducible refine flxset_s ?_ ?_; exact maskFree w rfl)
    | (with_reducible refine slset_s ?_ ?_; exact maskFree w rfl) | split

theorem writeFluxSet_s {k : Nat} {s t : State} {a0 : _} {a1 : _} (w : k &&& 0x40000000800000000000000000000000000000240000000 = 0) (h : Same k s t) :
    SameA k s (writeFluxSet a0 a1 t) := by
  unfold writeFluxSet
  repeat' first
    | with_reducible assumption | (with_reducible refine inc_s ?_ ?_; exact bitFree w rfl)
    | (with_reducible refine holdFlux_s ?_ ?_; exact maskFree w rfl)
    | (with_reducible refine dropJumps_s ?_ ?_; exact maskFree w rfl)
    | (with_reducible refine endPlay_s ?_ ?_; exact maskFree w rfl) | split | with_reducible refine SameA_ok ?_
    | with_reducible exact SameA_err

theorem takeBias_s {k : Nat} {s t : State} {a0 : _} {a1 : _} (w : k &&& 0x400000000000000000000000000000000000000400000000 = 0) (h : Same k s t) :
    Same k s (takeBias a0 a1 t) := by
  unfold takeBias
  repeat' first
    | with_reducible assumption | (with_reducible refine wr_s ?_ ?_; exact bitFree w rfl)
    | (extract_lets +onlyGivenNames x; clear_value x) | (with_reducible refine biaset_s ?_ ?_; exact maskFree w rfl)
    | split

theorem stepBias_s {k : Nat} {s t : State} {a0 : _} (w : k &&& 0x200A00000000000000000000000000000000000000000000000 = 0) (h : Same k s t) :
    Same k s (stepBias a0 t) := by
  unfold stepBias
  repeat' first
    | with_reducible assumption | (with_reducible refine inc_s ?_ ?_; exact bitFree w rfl)
    | (with_reducible refine wr_s ?_ ?_; exact bitFree w rfl) | (extract_lets +onlyGivenNames x; clear_value x) | split

theorem takeNewest_s {k : Nat} {s t : State} {a0 : _} {a1 : _} (w : k &&& 0x80400000000000000000000000000000000000000400000000 = 0) (h : Same k s t) :
    Same k s (takeNewest a0 a1 t) := by
  unfold takeNewest
  repeat' first
    | with_reducible assumption | (with_reducible refine incBy_s ?_ ?_; exact bitFree w rfl)
    | (extract_lets +onlyGivenNames x; first | (refine (fun (hx : Same k s x) => ?_) (?_ : Same k s x); all_goals first | (guard_target =ₐ Same k s x; unfold x; clear x) | clear_value x) | clear_value x)
    | (with_reducible refine takeBias_s ?_ ?_; exact maskFree w rfl)
    | (with_reducible refine biaset_s ?_ ?_; exact maskFree w rfl) | split

theorem updateBias_s {k : Nat} {s t : State} {a0 : _} {a1 : _} (w : k &&& 0x280E00000000000000000000000000000000000000400000000 = 0) (h : Same k s t) :
    Same k s (updateBias a0 a1 t) := by
  unfold updateBias
  repeat' first
    | with_reducible assumption | (with_reducible refine wr_s ?_ ?_; exact bitFree w rfl)
    | (extract_lets +onlyGivenNames x; first | (refine (fun (hx : Same k s x) => ?_) (?_ : Same k s x); all_goals first | (guard_target =ₐ Same k s x; unfold x; clear x) | clear_value x) | clear_value x)
    | (with_reducible refine takeNewest_s ?_ ?_; exact maskFree w rfl)
    | (with_reducible refine stepBias_s ?_ ?_; exact maskFree w rfl)
    | (with_reducible refine biaset_s ?_ ?_; exact maskFree w rfl) | split

theorem checkBias_s {k : Nat} {s t : State} {a0 : _} {a1 : _} {a2 : _} (w : k &&& 0x1C00000000000000000000000000000000000000000000000000 = 0) (h : Same k s t) :
    Same k s (checkBias a0 a1 a2 t) := by
  unfold checkBias
  repeat' first
    | with_reducible assumption | (with_reducible refine flag_s ?_ ?_; exact bitFree w rfl)
    | (with_reducible refine inc_s ?_ ?_; exact bitFree w rfl)
    | (extract_lets +onlyGivenNames x; (refine (fun (hx : Same k s x) => ?_) (?_ : Same k s x); all_goals first | (guard_target =ₐ Same k s x; unfold x; clear x) | clear_value x))
    | split

theorem execBiasUpdate_s {k : Nat} {s t : State} {a0 : _} {a1 : _} (w : k &&& 0x1E80E00000000000000000000000000000000000000C00000000 = 0) (h : Same k s t) :
    SameO k s (execBiasUpdate a0 a1 t) := by
  unfold execBiasUpdate
  repeat' first
    | with_reducible assumption
    | (with_reducible refine Same_biasAt (by with_reducible assumption) ?_; exact maskFree w rfl)
    | (extract_lets +onlyGivenNames x; clear_value x) | (with_reducible refine checkBias_s ?_ ?_; exact maskFree w rfl)
    | (with_reducible refine updateBias_s ?_ ?_; exact maskFree w rfl)
    | (with_reducible refine Same_foldl ?_ ?_; intro _ _ _) | split | with_reducible refine SameO_next ?_

theorem execBiasSafeLoad_s {k : Nat} {s t : State} {a0 : _} (w : k &&& 0xA00000000000000000000000000000000000000400000000 = 0) (h : Same k s t) :
    SameO k s (execBiasSafeLoad a0 t) := by
  unfold execBiasSafeLoad
  repeat' first
    | with_reducible assumption | (with_reducible refine wr_s ?_ ?_; exact bitFree w rfl)
    | (extract_lets +onlyGivenNames x; clear_value x) | (with_reducible refine biaset_s ?_ ?_; exact maskFree w rfl)
    | (with_reducible refine Same_foldl ?_ ?_; intro _ _ _) | split | with_reducible refine SameO_next ?_

theorem faultBias_s {k : Nat} {s t : State} {a0 : _} (w : k &&& 0x100400000000000000000000000000000000000000400000000 = 0) (h : Same k s t) :
    Same k s (faultBias a0 t) := by
  unfold faultBias
  repeat' first
    | with_reducible assumption | (with_reducible refine incBy_s ?_ ?_; exact bitFree w rfl)
    | (with_reducible refine wr_s ?_ ?_; exact bitFree w rfl)
    | (extract_lets +onlyGivenNames x; first | (refine (fun (hx : Same k s x) => ?_) (?_ : Same k s x); all_goals first | (guard_target =ₐ Same k s x; unfold x; clear x) | clear_value x) | clear_value x)
    | (with_reducible refine biaset_s ?_ ?_; exact maskFree w rfl) | split

theorem writeBiasSet_s {k : Nat} {s t : State} {a0 : _} {a1 : _} (w : k &&& 0x100000000000000000000000000000000000000000400000000 = 0) (h : Same k s t) :
    SameA k s (writeBiasSet a0 a1 t) := by
  unfold writeBiasSet
  repeat' first
    | with_reducible assumption | (with_reducible refine queueBias_s ?_ ?_; exact maskFree w rfl) | split
    | with_reducible refine SameA_ok ?_ | with_reducible exact SameA_err

theorem writeBiasSense_s {k : Nat} {s t : State} {a0 : _} {a1 : _} (w : k &&& 0x2000000000000000000000000000000000000000000000000 = 0) (h : Same k s t) :
    SameA k s (writeBiasSense a0 a1 t) := by
  unfold writeBiasSense
  repeat' first
    | with_reducible assumption | (with_reducible refine wr_s ?_ ?_; exact bitFree w rfl) | split
    | with_reducible refine SameA_ok ?_ | with_reducible exact SameA_err

/-! ### Synthesis -/

theorem noteChain_s {k : Nat} {s t : State} {a0 : _} {a1 : _} (w : k &&& 0x1000000000 = 0) (h : Same k s t) :
    Same k s (noteChain a0 a1 t) := by
  unfold noteChain
  repeat' first
    | with_reducible assumption | (extract_lets +onlyGivenNames x; clear_value x)
    | (with_reducible refine rgset_s ?_ ?_; exact maskFree w rfl) | split

theorem channelGrain_s {k : Nat} {s t : State} {a0 : _} {a1 : _} {a2 : _} (w : k &&& 0x1800000000000000060000000000000000000000000000000000000000 = 0) (h : Same k s t) :
    Same k s (channelGrain a0 a1 a2 t) := by
  unfold channelGrain
  repeat' first
    | with_reducible assumption | (with_reducible refine peak_s ?_ ?_; exact bitFree w rfl)
    | (with_reducible refine inc_s ?_ ?_; exact bitFree w rfl)
    | (extract_lets +onlyGivenNames x; first | (refine (fun (hx : Same k s x) => ?_) (?_ : Same k s x); all_goals first | (guard_target =ₐ Same k s x; unfold x; clear x) | clear_value x) | clear_value x)
    | (with_reducible refine Same_foldl ?_ ?_; intro _ _ _) | split

theorem toneGrain_s {k : Nat} {s t : State} {a0 : _} (w : k &&& 0x47E000000000000000000000000000000000000000000000000000000000000000120A7F800000000000000000000000001800000000000020061800000000000000000000000000001254804840 = 0) (h : Same k s t) :
    Same k s (toneGrain a0 t) := by
  unfold toneGrain
  repeat' first
    | with_reducible assumption
    | (extract_lets +onlyGivenNames x; (refine (fun (hx : Same k s x) => ?_) (?_ : Same k s x); all_goals first | (guard_target =ₐ Same k s x; unfold x; clear x) | clear_value x))
    | (with_reducible refine channelGrain_s ?_ ?_; exact maskFree w rfl)
    | (with_reducible refine noteChain_s ?_ ?_; exact maskFree w rfl)
    | (with_reducible refine applyCut_s ?_ ?_; exact maskFree w rfl)
    | (with_reducible refine Same_foldl ?_ ?_; intro _ _ _) | split

theorem pruneTones_s {k : Nat} {s t : State} {a0 : _} (w : k &&& 0xC0000000 = 0) (h : Same k s t) :
    Same k s (pruneTones a0 t) := by
  unfold pruneTones
  repeat' first
    | with_reducible assumption
    | (with_reducible refine Same_frames (by with_reducible assumption) ?_; exact maskFree w rfl)
    | (extract_lets +onlyGivenNames x; first | (refine (fun (hx : Same k s x) => ?_) (?_ : Same k s x); all_goals first | (guard_target =ₐ Same k s x; unfold x; clear x) | clear_value x) | clear_value x)
    | (with_reducible refine slset_s ?_ ?_; exact maskFree w rfl) | (with_reducible refine Same_foldl ?_ ?_; intro _ _ _)
    | split

/-! ### EngineOps -/

theorem spend_s {k : Nat} {s t : State} {a0 : _} {a1 : _} (w : k &&& 0x204 = 0) (h : Same k s t) :
    Same k s (spend a0 a1 t) := by
  unfold spend
  repeat' first
    | with_reducible assumption
    | (extract_lets +onlyGivenNames x; first | (refine (fun (hx : Same k s x.2) => ?_) (?_ : Same k s x.2); all_goals first | (guard_target =ₐ Same k s x.2; unfold x; clear x) | clear_value x) | clear_value x)
    | (with_reducible refine eset_s ?_ ?_; exact maskFree w rfl)
    | (with_reducible refine fresh_s ?_ ?_; exact maskFree w rfl)
    | (with_reducible refine SameP.snd (fresh_s ?_ ?_) (by assumption); exact maskFree w rfl) | split

theorem execOpcode_s {k : Nat} {s t : State} {a0 : _} {a1 : _} (w : k &&& 0x204 = 0) (h : Same k s t) :
    Same k s (execOpcode a0 a1 t) := by
  unfold execOpcode
  repeat' first
    | with_reducible assumption
    | (extract_lets +onlyGivenNames x; first | (refine (fun (hx : Same k s x) => ?_) (?_ : Same k s x); all_goals first | (guard_target =ₐ Same k s x; unfold x; clear x) | clear_value x) | clear_value x)
    | (with_reducible refine spend_s ?_ ?_; exact maskFree w rfl)
    | (with_reducible refine eset_s ?_ ?_; exact maskFree w rfl) | split

theorem takeQueue_s {k : Nat} {s t : State} {a0 : _} {a1 : _} (w : k &&& 0x22011F8000000000000000000000000000000000000000000000000000000000000000000000000000000040C0 = 0) (h : Same k s t) :
    Same k s (takeQueue a0 a1 t) := by
  induction a1 generalizing t with
  | zero =>
    unfold takeQueue
    repeat' first
      | with_reducible assumption | (with_reducible refine passCut_s ?_ ?_; exact maskFree w rfl)
      | (with_reducible refine readWord_s ?_ ?_; exact maskFree w rfl)
      | (with_reducible refine SameP.snd (readWord_s ?_ ?_) (by assumption); exact maskFree w rfl) | split
  | succ n ih =>
    unfold takeQueue
    repeat' first
      | with_reducible assumption | (with_reducible refine passCut_s ?_ ?_; exact maskFree w rfl)
      | (with_reducible refine readWord_s ?_ ?_; exact maskFree w rfl)
      | (with_reducible refine SameP.snd (readWord_s ?_ ?_) (by assumption); exact maskFree w rfl)
      | with_reducible refine ih ?_ | split

theorem endPass_s {k : Nat} {s t : State} {a0 : _} (w : k &&& 0x204 = 0) (h : Same k s t) :
    Same k s (endPass a0 t) := by
  unfold endPass
  repeat' first
    | with_reducible assumption | (extract_lets +onlyGivenNames x; clear_value x)
    | (with_reducible refine spend_s ?_ ?_; exact maskFree w rfl)
    | (with_reducible refine eset_s ?_ ?_; exact maskFree w rfl) | split

theorem consume_s {k : Nat} {s t : State} {a0 : _} {a1 : _} (w : k &&& 0x22011F8000000000000000000000000000000000000000000000000000000000000000000000000000000042C0 = 0) (h : Same k s t) :
    Same k s (consume a0 a1 t) := by
  unfold consume
  repeat' first
    | with_reducible assumption
    | (extract_lets +onlyGivenNames x; first | (refine (fun (hx : Same k s x) => ?_) (?_ : Same k s x); all_goals first | (guard_target =ₐ Same k s x; unfold x; clear x) | clear_value x) | clear_value x)
    | (with_reducible refine takeQueue_s ?_ ?_; exact maskFree w rfl)
    | (with_reducible refine eset_s ?_ ?_; exact maskFree w rfl) | split

theorem afterPacket_s {k : Nat} {s t : State} {a0 : _} (w : k &&& 0x4000000000000000000000000000000204 = 0) (h : Same k s t) :
    Same k s (afterPacket a0 t) := by
  unfold afterPacket
  repeat' first
    | with_reducible assumption | (with_reducible refine inc_s ?_ ?_; exact bitFree w rfl)
    | (extract_lets +onlyGivenNames x; first | (refine (fun (hx : Same k s x) => ?_) (?_ : Same k s x); all_goals first | (guard_target =ₐ Same k s x; unfold x; clear x) | clear_value x) | clear_value x)
    | (with_reducible refine endPass_s ?_ ?_; exact maskFree w rfl)
    | (with_reducible refine eset_s ?_ ?_; exact maskFree w rfl) | split

theorem dropWhole_s {k : Nat} {s t : State} {a0 : _} {a1 : _} {a2 : _} (w : k &&& 0x47E000000000000000000000000000000000000000000000000000000000000000120A7F800000000000000000000000000000000000000000000000001002000000000000000000000000804A44 = 0) (h : Same k s t) :
    Same k s (dropWhole a0 a1 a2 t) := by
  unfold dropWhole
  repeat' first
    | with_reducible assumption | (with_reducible refine inc_s ?_ ?_; exact bitFree w rfl)
    | (extract_lets +onlyGivenNames x; first | (refine (fun (hx : Same k s x) => ?_) (?_ : Same k s x); all_goals first | (guard_target =ₐ Same k s x; unfold x; clear x) | clear_value x) | clear_value x)
    | (with_reducible refine spend_s ?_ ?_; exact maskFree w rfl)
    | (with_reducible refine voidNum_s ?_ ?_; exact maskFree w rfl)
    | (with_reducible refine voidNow_s ?_ ?_; exact maskFree w rfl) | split

theorem dropIllegal_s {k : Nat} {s t : State} {a0 : _} {a1 : _} {a2 : _} (w : k &&& 0x47E000000000000000000000000000000000000000000000000000000000000000120A7F800000000000000000000000000000000000000000000000001002000000000000000000000000804A44 = 0) (h : Same k s t) :
    Same k s (dropIllegal a0 a1 a2 t) := by
  unfold dropIllegal
  repeat' first
    | with_reducible assumption | (with_reducible refine dropWhole_s ?_ ?_; exact maskFree w rfl) | split

theorem pushOut_s {k : Nat} {s t : State} {a0 : _} {a1 : _} (w : k &&& 0x300 = 0) (h : Same k s t) :
    Same k s (pushOut a0 a1 t) := by
  induction a1 generalizing t with
  | zero =>
    unfold pushOut
    repeat' first
      | with_reducible assumption | (extract_lets +onlyGivenNames x; clear_value x)
      | (with_reducible refine eset_s ?_ ?_; exact maskFree w rfl)
      | (with_reducible refine fset_s ?_ ?_; exact maskFree w rfl) | split
  | succ n ih =>
    unfold pushOut
    repeat' first
      | with_reducible assumption | (extract_lets +onlyGivenNames x; clear_value x)
      | (with_reducible refine eset_s ?_ ?_; exact maskFree w rfl)
      | (with_reducible refine fset_s ?_ ?_; exact maskFree w rfl) | with_reducible refine ih ?_ | split

theorem emit_s {k : Nat} {s t : State} {a0 : _} {a1 : _} (w : k &&& 0x300 = 0) (h : Same k s t) :
    Same k s (emit a0 a1 t) := by
  unfold emit
  repeat' first
    | with_reducible assumption | (extract_lets +onlyGivenNames x; clear_value x)
    | (with_reducible refine pushOut_s ?_ ?_; exact maskFree w rfl)
    | (with_reducible refine eset_s ?_ ?_; exact maskFree w rfl) | split

theorem schedPoison_s {k : Nat} {s t : State} {a0 : _} (w : k &&& 0x47E000000000000000000000000000000000000000000000000000000000000004120E7F80000000000000000000000000000000000000000000000000A004030010000000000000001024804FC0 = 0) (h : Same k s t) :
    Same k s (schedPoison a0 t) := by
  unfold schedPoison
  repeat' first
    | with_reducible assumption | (with_reducible refine inc_s ?_ ?_; exact bitFree w rfl)
    | (with_reducible refine runEndFault_s ?_ ?_; exact maskFree w rfl) | split

theorem storeFault_s {k : Nat} {s t : State} {a0 : _} (w : k &&& 0x47E000000000000000000000000000000000000000000000000000000000000004120E7F800000000000000000000000000000000000000000000000208000030010000000000000001024804FC4 = 0) (h : Same k s t) :
    Same k s (storeFault a0 t) := by
  unfold storeFault
  repeat' first
    | with_reducible assumption | (with_reducible refine inc_s ?_ ?_; exact bitFree w rfl)
    | (extract_lets +onlyGivenNames x; (refine (fun (hx : Same k s x) => ?_) (?_ : Same k s x); all_goals first | (guard_target =ₐ Same k s x; unfold x; clear x) | clear_value x))
    | (with_reducible refine spend_s ?_ ?_; exact maskFree w rfl)
    | (with_reducible refine runEndFault_s ?_ ?_; exact maskFree w rfl) | split

theorem startRoutine_s {k : Nat} {s t : State} {a0 : _} {a1 : _} (w : k &&& 0x47E000000000000000000000000000000000000000000000000000000000000004120E7F800000000000000000000000000000000000000000000000208000030010000000000000001024804FC4 = 0) (h : Same k s t) :
    Same k s (startRoutine a0 a1 t) := by
  unfold startRoutine
  repeat' first
    | with_reducible assumption | (extract_lets +onlyGivenNames x; clear_value x)
    | (with_reducible refine storeFault_s ?_ ?_; exact maskFree w rfl)
    | (with_reducible refine eset_s ?_ ?_; exact maskFree w rfl) | split

theorem schedFrame_s {k : Nat} {s t : State} {op e : Nat} {b : Bool} {f : List QWord → State → State} (w : k &&& 0x47E000000000000000000000000000000000000000000000000000000000000004320F7F80000000000000000000000000000000000000000000000020F006030010000000000000001024804FC4 = 0)
    (h : Same k s t) (hf : ∀ qs, Same k s (f qs t)) : Same k s (schedFrame op e b f t) := by
  unfold schedFrame
  split
  · exact h
  split
  · split
    · exact storeFault_s (maskFree w rfl) h
    · exact h
  split
  · split
    · split
      · exact storeFault_s (maskFree w rfl) h
      · exact hf _
    · exact h
  split
  · exact inc_s (bitFree w rfl) (eset_s (maskFree w rfl) h)
  · exact h
  · extract_lets o
    split
    · exact h
    split
    · exact storeFault_s (maskFree w rfl) h
    split
    · exact schedPoison_s (maskFree w rfl) (consume_s (maskFree w rfl) h)
    split
    · exact afterPacket_s (maskFree w rfl) (dropIllegal_s (maskFree w rfl) (consume_s (maskFree w rfl) h))
    split
    · exact afterPacket_s (maskFree w rfl) (dropIllegal_s (maskFree w rfl) (consume_s (maskFree w rfl) h))
    split
    · exact startRoutine_s (maskFree w rfl) h
    · exact hf _

theorem emitOpcode_s {k : Nat} {s t : State} {a0 : _} {a1 : _} {a2 : _} (w : k &&& 0x47E000000000000000000000000000000000000000000000000000000000000000320B7F800000000000000000000000000000000000000000000000005002000000000000000000000000804BC4 = 0) (h : Same k s t) :
    Same k s (emitOpcode a0 a1 a2 t) := by
  unfold emitOpcode
  repeat' first
    | with_reducible assumption
    | (extract_lets +onlyGivenNames x; first | (refine (fun (hx : Same k s x) => ?_) (?_ : Same k s x); all_goals first | (guard_target =ₐ Same k s x; unfold x; clear x) | clear_value x) | clear_value x)
    | (with_reducible refine emit_s ?_ ?_; exact maskFree w rfl)
    | (with_reducible refine dropIllegal_s ?_ ?_; exact maskFree w rfl)
    | (with_reducible refine afterPacket_s ?_ ?_; exact maskFree w rfl)
    | (with_reducible refine consume_s ?_ ?_; exact maskFree w rfl)
    | (with_reducible refine execOpcode_s ?_ ?_; exact maskFree w rfl) | split

/-! ### Engines -/

theorem execScheduleFetchChunk_s {k : Nat} {s t : State} {a0 : _} (w : k &&& 0xA098000000000000000000000000000000000000000000000000000000000000000000000000000000000000000000002000400 = 0) (h : Same k s t) :
    SameO k s (execScheduleFetchChunk a0 t) := by
  unfold execScheduleFetchChunk
  repeat' first
    | with_reducible assumption
    | (extract_lets +onlyGivenNames x; first | (refine (fun (hx : Same k s x.2) => ?_) (?_ : Same k s x.2); all_goals first | (guard_target =ₐ Same k s x.2; unfold x; clear x) | clear_value x) | clear_value x)
    | (with_reducible refine dramRead_s ?_ ?_; exact maskFree w rfl)
    | (with_reducible refine SameP.snd (dramRead_s ?_ ?_) (by assumption); exact maskFree w rfl)
    | (with_reducible refine aset_s ?_ ?_; exact maskFree w rfl) | split | with_reducible refine SameO_next ?_

theorem deliver_s {k : Nat} {s t : State} {a0 : _} {a1 : _} (w : k &&& 0x120A7F800000000000000000000000000000000000000000000000000000000000000000000000000000004240 = 0) (h : Same k s t) :
    Same k s (deliver a0 a1 t) := by
  unfold deliver
  repeat' first
    | with_reducible assumption
    | (extract_lets +onlyGivenNames x; first | (refine (fun (hx : Same k s x) => ?_) (?_ : Same k s x); all_goals first | (guard_target =ₐ Same k s x; unfold x; clear x) | clear_value x) | clear_value x)
    | (with_reducible refine writePacket_s ?_ ?_; exact maskFree w rfl)
    | (with_reducible refine eset_s ?_ ?_; exact maskFree w rfl) | split

theorem execSchedulePacketDelivery_s {k : Nat} {s t : State} {a0 : _} (w : k &&& 0x120A7F800000000000000000000000000000000000000000000000000008000000000000000000000000004640 = 0) (h : Same k s t) :
    SameO k s (execSchedulePacketDelivery a0 t) := by
  unfold execSchedulePacketDelivery
  repeat' first
    | with_reducible assumption | (with_reducible refine inc_s ?_ ?_; exact bitFree w rfl)
    | (extract_lets +onlyGivenNames x; clear_value x) | (with_reducible refine deliver_s ?_ ?_; exact maskFree w rfl)
    | (with_reducible refine aset_s ?_ ?_; exact maskFree w rfl) | split | with_reducible refine SameO_next ?_

theorem gatherWords_s {k : Nat} {s t : State} {a0 : _} {a1 : _} (w : k &&& 0x22011F8000000000000000000000000000000000000000000000000000000000000000000000000000000042C0 = 0) (h : Same k s t) :
    Same k s (gatherWords a0 a1 t) := by
  induction a1 generalizing t with
  | zero =>
    unfold gatherWords
    repeat' first
      | with_reducible assumption
      | (extract_lets +onlyGivenNames x; first | (refine (fun (hx : Same k s x.2) => ?_) (?_ : Same k s x.2); all_goals first | (guard_target =ₐ Same k s x.2; unfold x; clear x) | clear_value x) | clear_value x)
      | (with_reducible refine passCut_s ?_ ?_; exact maskFree w rfl)
      | (with_reducible refine readWord_s ?_ ?_; exact maskFree w rfl)
      | (with_reducible refine SameP.snd (readWord_s ?_ ?_) (by assumption); exact maskFree w rfl)
      | (with_reducible refine eset_s ?_ ?_; exact maskFree w rfl) | split
  | succ n ih =>
    unfold gatherWords
    repeat' first
      | with_reducible assumption
      | (extract_lets +onlyGivenNames x; first | (refine (fun (hx : Same k s x.2) => ?_) (?_ : Same k s x.2); all_goals first | (guard_target =ₐ Same k s x.2; unfold x; clear x) | clear_value x) | clear_value x)
      | (with_reducible refine passCut_s ?_ ?_; exact maskFree w rfl)
      | (with_reducible refine readWord_s ?_ ?_; exact maskFree w rfl)
      | (with_reducible refine SameP.snd (readWord_s ?_ ?_) (by assumption); exact maskFree w rfl)
      | (with_reducible refine eset_s ?_ ?_; exact maskFree w rfl) | with_reducible refine ih ?_ | split

theorem beginGather_s {k : Nat} {s t : State} {a0 : _} {a1 : _} {a2 : _} (w : k &&& 0x22011F8000000000000000000000000000000000000000000000000000000000000000000000000000000042C0 = 0) (h : Same k s t) :
    Same k s (beginGather a0 a1 a2 t) := by
  unfold beginGather
  repeat' first
    | with_reducible assumption
    | (extract_lets +onlyGivenNames x; first | (refine (fun (hx : Same k s x) => ?_) (?_ : Same k s x); all_goals first | (guard_target =ₐ Same k s x; unfold x; clear x) | clear_value x) | clear_value x)
    | (with_reducible refine consume_s ?_ ?_; exact maskFree w rfl)
    | (with_reducible refine eset_s ?_ ?_; exact maskFree w rfl) | split

theorem endGather_s {k : Nat} {s t : State} {a0 : _} (w : k &&& 0x200 = 0) (h : Same k s t) :
    Same k s (endGather a0 t) := by
  unfold endGather
  repeat' first
    | with_reducible assumption | (extract_lets +onlyGivenNames x; clear_value x)
    | (with_reducible refine eset_s ?_ ?_; exact maskFree w rfl) | split

theorem starve_s {k : Nat} {s t : State} {a0 : _} (w : k &&& 0x4000000000000000000000000000000200 = 0) (h : Same k s t) :
    Same k s (starve a0 t) := by
  unfold starve
  repeat' first
    | with_reducible assumption | (with_reducible refine inc_s ?_ ?_; exact bitFree w rfl)
    | (extract_lets +onlyGivenNames x; clear_value x) | (with_reducible refine eset_s ?_ ?_; exact maskFree w rfl) | split

theorem gatherPackets_s {k : Nat} {s t : State} {a0 : _} {a1 : _} {a2 : _} (w : k &&& 0x22011F8000000000000000000000000000000000000000000000000000000000000000000000000000000042C0 = 0) (h : Same k s t) :
    Same k s (gatherPackets a0 a1 a2 t) := by
  induction a2 generalizing t with
  | zero =>
    unfold gatherPackets
    repeat' first
      | with_reducible assumption | (extract_lets +onlyGivenNames x; clear_value x)
      | (with_reducible refine gatherWords_s ?_ ?_; exact maskFree w rfl) | split
  | succ n ih =>
    unfold gatherPackets
    repeat' first
      | with_reducible assumption | (extract_lets +onlyGivenNames x; clear_value x)
      | (with_reducible refine gatherWords_s ?_ ?_; exact maskFree w rfl) | with_reducible refine ih ?_ | split

theorem finishItem_s {k : Nat} {s t : State} {a0 : _} {a1 : _} {a2 : _} (w : k &&& 0x47E000000000000000000000000000000000000000000000000000000000000000120A7F800000000000000000000000000000000000000000000000005002000000000000000000000000804B44 = 0) (h : Same k s t) :
    Same k s (finishItem a0 a1 a2 t) := by
  unfold finishItem
  repeat' first
    | with_reducible assumption
    | (extract_lets +onlyGivenNames x; first | (refine (fun (hx : Same k s x) => ?_) (?_ : Same k s x); all_goals first | (guard_target =ₐ Same k s x; unfold x; clear x) | clear_value x) | clear_value x)
    | (with_reducible refine emit_s ?_ ?_; exact maskFree w rfl)
    | (with_reducible refine dropWhole_s ?_ ?_; exact maskFree w rfl)
    | (with_reducible refine afterPacket_s ?_ ?_; exact maskFree w rfl)
    | (with_reducible refine execOpcode_s ?_ ?_; exact maskFree w rfl)
    | (with_reducible refine Same_foldl ?_ ?_; intro _ _ _) | split

theorem altEffect_s {k : Nat} {s t : State} {a0 : _} {a1 : _} (w : k &&& 0x47E000000000000000000000000000000000000000000000000000000000000004320F7F80000000000000000000000000000000000000000000000000F006030010000000000000001024804FC4 = 0) (h : Same k s t) :
    Same k s (altEffect a0 a1 t) := by
  unfold altEffect
  repeat' first
    | with_reducible assumption
    | (extract_lets +onlyGivenNames x; first | (refine (fun (hx : Same k s x) => ?_) (?_ : Same k s x); all_goals first | (guard_target =ₐ Same k s x; unfold x; clear x) | clear_value x) | clear_value x)
    | (with_reducible refine finishItem_s ?_ ?_; exact maskFree w rfl)
    | (with_reducible refine gatherPackets_s ?_ ?_; exact maskFree w rfl)
    | (with_reducible refine starve_s ?_ ?_; exact maskFree w rfl)
    | (with_reducible refine endGather_s ?_ ?_; exact maskFree w rfl)
    | (with_reducible refine beginGather_s ?_ ?_; exact maskFree w rfl)
    | (with_reducible refine schedPoison_s ?_ ?_; exact maskFree w rfl)
    | (with_reducible refine consume_s ?_ ?_; exact maskFree w rfl) | split

theorem selectEffect_s {k : Nat} {s t : State} {a0 : _} {a1 : _} (w : k &&& 0x47E000000000000000000000000000000000000000000000000000000000000000320B7F800000000000000000000000000000000000000000000000005002000000000000000000000000804BC4 = 0) (h : Same k s t) :
    Same k s (selectEffect a0 a1 t) := by
  unfold selectEffect
  repeat' first
    | with_reducible assumption
    | (extract_lets +onlyGivenNames x; first | (refine (fun (hx : Same k s x) => ?_) (?_ : Same k s x); all_goals first | (guard_target =ₐ Same k s x; unfold x; clear x) | clear_value x) | clear_value x)
    | (with_reducible refine emit_s ?_ ?_; exact maskFree w rfl)
    | (with_reducible refine dropIllegal_s ?_ ?_; exact maskFree w rfl)
    | (with_reducible refine afterPacket_s ?_ ?_; exact maskFree w rfl)
    | (with_reducible refine consume_s ?_ ?_; exact maskFree w rfl)
    | (with_reducible refine execOpcode_s ?_ ?_; exact maskFree w rfl) | split

theorem beginWait_s {k : Nat} {s t : State} {a0 : _} {a1 : _} (w : k &&& 0x200000000000000000000000000000000000000000000000000000000000000000000000000000000000000000200 = 0) (h : Same k s t) :
    Same k s (beginWait a0 a1 t) := by
  unfold beginWait
  repeat' first
    | with_reducible assumption | (with_reducible refine inc_s ?_ ?_; exact bitFree w rfl)
    | (extract_lets +onlyGivenNames x; first | (refine (fun (hx : Same k s x) => ?_) (?_ : Same k s x); all_goals first | (guard_target =ₐ Same k s x; unfold x; clear x) | clear_value x) | clear_value x)
    | (with_reducible refine eset_s ?_ ?_; exact maskFree w rfl) | split

theorem waitevtEffect_s {k : Nat} {s t : State} {a0 : _} {a1 : _} (w : k &&& 0x20022011F8000000000000000000000000000000000000000000000000000000000000000000000000000000042C4 = 0) (h : Same k s t) :
    Same k s (waitevtEffect a0 a1 t) := by
  unfold waitevtEffect
  repeat' first
    | with_reducible assumption | (extract_lets +onlyGivenNames x; clear_value x)
    | (with_reducible refine beginWait_s ?_ ?_; exact maskFree w rfl)
    | (with_reducible refine consume_s ?_ ?_; exact maskFree w rfl)
    | (with_reducible refine endPass_s ?_ ?_; exact maskFree w rfl)
    | (with_reducible refine execOpcode_s ?_ ?_; exact maskFree w rfl) | split

theorem finishLoop_s {k : Nat} {s t : State} {a0 : _} {a1 : _} {a2 : _} (w : k &&& 0x47E000000000000000000000000000000000000000000000000000000000000000120A7F800000000000000000000000000000000000000000000000005002000000000000000000000000804A44 = 0) (h : Same k s t) :
    Same k s (finishLoop a0 a1 a2 t) := by
  unfold finishLoop
  repeat' first
    | with_reducible assumption
    | (extract_lets +onlyGivenNames x; first | (refine (fun (hx : Same k s x) => ?_) (?_ : Same k s x); all_goals first | (guard_target =ₐ Same k s x; unfold x; clear x) | clear_value x) | clear_value x)
    | (with_reducible refine dropIllegal_s ?_ ?_; exact maskFree w rfl)
    | (with_reducible refine afterPacket_s ?_ ?_; exact maskFree w rfl)
    | (with_reducible refine execOpcode_s ?_ ?_; exact maskFree w rfl)
    | (with_reducible refine eset_s ?_ ?_; exact maskFree w rfl) | split

theorem loopEffect_s {k : Nat} {s t : State} {a0 : _} {a1 : _} (w : k &&& 0x47E000000000000000000000000000000000000000000000000000000000000004320F7F80000000000000000000000000000000000000000000000000F006030010000000000000001024804FC4 = 0) (h : Same k s t) :
    Same k s (loopEffect a0 a1 t) := by
  unfold loopEffect
  repeat' first
    | with_reducible assumption
    | (extract_lets +onlyGivenNames x; first | (refine (fun (hx : Same k s x) => ?_) (?_ : Same k s x); all_goals first | (guard_target =ₐ Same k s x; unfold x; clear x) | clear_value x) | clear_value x)
    | (with_reducible refine finishLoop_s ?_ ?_; exact maskFree w rfl)
    | (with_reducible refine starve_s ?_ ?_; exact maskFree w rfl)
    | (with_reducible refine endGather_s ?_ ?_; exact maskFree w rfl)
    | (with_reducible refine beginGather_s ?_ ?_; exact maskFree w rfl)
    | (with_reducible refine gatherWords_s ?_ ?_; exact maskFree w rfl)
    | (with_reducible refine schedPoison_s ?_ ?_; exact maskFree w rfl) | split

theorem execFifoWaitEnd_s {k : Nat} {s t : State} {a0 : _} (w : k &&& 0x4000000000000000000000000000000304 = 0) (h : Same k s t) :
    SameO k s (execFifoWaitEnd a0 t) := by
  unfold execFifoWaitEnd
  repeat' first
    | with_reducible assumption
    | (extract_lets +onlyGivenNames x; first | (refine (fun (hx : Same k s x) => ?_) (?_ : Same k s x); all_goals first | (guard_target =ₐ Same k s x; unfold x; clear x) | clear_value x) | clear_value x)
    | (with_reducible refine pushOut_s ?_ ?_; exact maskFree w rfl)
    | (with_reducible refine afterPacket_s ?_ ?_; exact maskFree w rfl)
    | (with_reducible refine eset_s ?_ ?_; exact maskFree w rfl) | split | with_reducible refine SameO_next ?_

/-! ### Truss -/

theorem execChannelEvent_s {k : Nat} {s t : State} {a0 : _} (w : k &&& 0x1C000000000000000000000000000000000000000000000000000000000000000000000000000000000000000C000 = 0) (h : Same k s t) :
    SameO k s (execChannelEvent a0 t) := by
  unfold execChannelEvent
  repeat' first
    | with_reducible assumption | (with_reducible refine inc_s ?_ ?_; exact bitFree w rfl)
    | (with_reducible refine wr_s ?_ ?_; exact bitFree w rfl)
    | (with_reducible refine Same_deliveries (by with_reducible assumption) ?_; exact maskFree w rfl)
    | (extract_lets +onlyGivenNames x; first | (refine (fun (hx : Same k s x) => ?_) (?_ : Same k s x); all_goals first | (guard_target =ₐ Same k s x; unfold x; clear x) | clear_value x) | clear_value x)
    | (with_reducible refine chset_s ?_ ?_; exact maskFree w rfl) | split | with_reducible refine SameO_next ?_

theorem writeProducer_s {k : Nat} {s t : State} {a0 : _} {a1 : _} {a2 : _} (w : k &&& 0x20000000000000000000000000000000000000000000000000000000000000000000000000000000000000000000 = 0) (h : Same k s t) :
    SameA k s (writeProducer a0 a1 a2 t) := by
  unfold writeProducer
  repeat' first
    | with_reducible assumption | (with_reducible refine wr_s ?_ ?_; exact bitFree w rfl)
    | (extract_lets +onlyGivenNames x; clear_value x) | split | with_reducible refine SameA_ok ?_
    | with_reducible exact SameA_err

theorem aimTimer_s {k : Nat} {s t : State} {a0 : _} {a1 : _} {a2 : _} (w : k &&& 0x200000000000000000000000000000000000000000000000000000000000000000000000000000000000000000010000 = 0) (h : Same k s t) :
    Same k s (aimTimer a0 a1 a2 t) := by
  unfold aimTimer
  repeat' first
    | with_reducible assumption | (with_reducible refine incBy_s ?_ ?_; exact bitFree w rfl)
    | (extract_lets +onlyGivenNames x; clear_value x) | (with_reducible refine tset_s ?_ ?_; exact maskFree w rfl) | split

theorem timerRun_s {k : Nat} {s t : State} {a0 : _} (w : k &&& 0x210000000000000000000000000000000000000000000000000000000000000000000000000000000000000000010000 = 0) (h : Same k s t) :
    Same k s (timerRun a0 t) := by
  unfold timerRun
  repeat' first
    | with_reducible assumption | (with_reducible refine wr_s ?_ ?_; exact bitFree w rfl)
    | (with_reducible refine aimTimer_s ?_ ?_; exact maskFree w rfl) | split

theorem timerStop_s {k : Nat} {s t : State} {a0 : _} (w : k &&& 0x10000000000000000000000000000000000000000000000000000000000000000000000000000000000000000010000 = 0) (h : Same k s t) :
    Same k s (timerStop a0 t) := by
  unfold timerStop
  repeat' first
    | with_reducible assumption | (with_reducible refine wr_s ?_ ?_; exact bitFree w rfl)
    | (with_reducible refine tset_s ?_ ?_; exact maskFree w rfl) | split

theorem timerRealign_s {k : Nat} {s t : State} {a0 : _} (w : k &&& 0x200000000000000000000000000000000000000000000000000000000000000000000000000000000000000000010000 = 0) (h : Same k s t) :
    Same k s (timerRealign a0 t) := by
  unfold timerRealign
  repeat' first
    | with_reducible assumption | (with_reducible refine aimTimer_s ?_ ?_; exact maskFree w rfl) | split

theorem timerFire_s {k : Nat} {s t : State} {a0 : _} {a1 : _} (w : k &&& 0x110000000000000000000000000000000000000000000000000000000000000000000000000000000000000000014000 = 0) (h : Same k s t) :
    Same k s (timerFire a0 a1 t) := by
  unfold timerFire
  repeat' first
    | with_reducible assumption | (with_reducible refine inc_s ?_ ?_; exact bitFree w rfl)
    | (extract_lets +onlyGivenNames x; first | (refine (fun (hx : Same k s x) => ?_) (?_ : Same k s x); all_goals first | (guard_target =ₐ Same k s x; unfold x; clear x) | clear_value x) | clear_value x)
    | (with_reducible refine timerStop_s ?_ ?_; exact maskFree w rfl)
    | (with_reducible refine raise_s ?_ ?_; exact maskFree w rfl)
    | (with_reducible refine tset_s ?_ ?_; exact maskFree w rfl) | split

theorem execTrussPulseStart_s {k : Nat} {s t : State} {a0 : _} (w : k &&& 0x20000 = 0) (h : Same k s t) :
    SameO k s (execTrussPulseStart a0 t) := by
  unfold execTrussPulseStart
  repeat' first
    | with_reducible assumption | (extract_lets +onlyGivenNames x; clear_value x)
    | (with_reducible refine mkset_s ?_ ?_; exact maskFree w rfl) | split | with_reducible refine SameO_next ?_

theorem execTrussPulseEnd_s {k : Nat} {s t : State} {a0 : _} (w : k &&& 0x20000 = 0) (h : Same k s t) :
    SameO k s (execTrussPulseEnd a0 t) := by
  unfold execTrussPulseEnd
  repeat' first
    | with_reducible assumption | (extract_lets +onlyGivenNames x; clear_value x)
    | (with_reducible refine mkset_s ?_ ?_; exact maskFree w rfl) | split | with_reducible refine SameO_next ?_

end Sys2Proof.Machine
end

