-- ==== Sys2Proof/Laws/SameEdge.lean ====
section
/-! SUPPORT. What stays as it was in the acquisition side, read-out, feedback, the abutments, profiles, compensation and shots. -/

namespace Sys2Proof.Machine

-- One proof at a time: proofs elaborated side by side take more memory than the check grants.
set_option Elab.async false
set_option linter.all false

/-! ### AcqOps -/

theorem rsset_s {k : Nat} {s t : State} {a0 : _} {a1 : _} (w : k &&& 0x800000000000 = 0) (h : Same k s t) :
    Same k s (rsset a0 a1 t) := by
  unfold rsset
  repeat' first
    | with_reducible assumption
    | (with_reducible refine Same_sets (by with_reducible assumption) ?_; exact maskFree w rfl) | split

theorem rdset_s {k : Nat} {s t : State} {a0 : _} {a1 : _} (w : k &&& 0x8000000000 = 0) (h : Same k s t) :
    Same k s (rdset a0 a1 t) := by
  unfold rdset
  repeat' first
    | with_reducible assumption
    | (with_reducible refine Same_reads (by with_reducible assumption) ?_; exact maskFree w rfl) | split

theorem trset_s {k : Nat} {s t : State} {a0 : _} {a1 : _} (w : k &&& 0x10000000000 = 0) (h : Same k s t) :
    Same k s (trset a0 a1 t) := by
  unfold trset
  repeat' first
    | with_reducible assumption
    | (with_reducible refine Same_traces (by with_reducible assumption) ?_; exact maskFree w rfl) | split

theorem aqset_s {k : Nat} {s t : State} {a0 : _} {a1 : _} (w : k &&& 0x20000000000 = 0) (h : Same k s t) :
    Same k s (aqset a0 a1 t) := by
  unfold aqset
  repeat' first
    | with_reducible assumption
    | (with_reducible refine Same_acqs (by with_reducible assumption) ?_; exact maskFree w rfl) | split

theorem brset_s {k : Nat} {s t : State} {a0 : _} {a1 : _} (w : k &&& 0x10000000000000 = 0) (h : Same k s t) :
    Same k s (brset a0 a1 t) := by
  unfold brset
  repeat' first
    | with_reducible assumption
    | (with_reducible refine Same_bres (by with_reducible assumption) ?_; exact maskFree w rfl) | split

theorem bcset_s {k : Nat} {s t : State} {a0 : _} {a1 : _} (w : k &&& 0x8000000000000 = 0) (h : Same k s t) :
    Same k s (bcset a0 a1 t) := by
  unfold bcset
  repeat' first
    | with_reducible assumption
    | (with_reducible refine Same_board (by with_reducible assumption) ?_; exact maskFree w rfl) | split

theorem awaitRecord_s {k : Nat} {s t : State} {a0 : _} {a1 : _} (w : k &&& 0x800000000000 = 0) (h : Same k s t) :
    Same k s (awaitRecord a0 a1 t) := by
  unfold awaitRecord
  repeat' first
    | with_reducible assumption | (extract_lets +onlyGivenNames x; clear_value x)
    | (with_reducible refine rsset_s ?_ ?_; exact maskFree w rfl) | split

theorem settleRecord_s {k : Nat} {s t : State} {a0 : _} (w : k &&& 0x800000000000 = 0) (h : Same k s t) :
    Same k s (settleRecord a0 t) := by
  unfold settleRecord
  repeat' first
    | with_reducible assumption | (extract_lets +onlyGivenNames x; clear_value x)
    | (with_reducible refine rsset_s ?_ ?_; exact maskFree w rfl) | split

theorem incShot_s {k : Nat} {s t : State} {r : Reg} {i n : Nat} (w : k &&& 0x2000000000000 = 0) (f : k.testBit (63 + r.ctorIdx) = false)
    (h : Same k s t) : Same k s (incShot r i n t) := by
  unfold incShot
  split
  · exact h
  · split
    · exact inc_s f h
    · exact inc_s f (Same_incs h w)

theorem clearIncs_s {k : Nat} {s t : State} {a0 : _} {a1 : _} (w : k &&& 0x2000000000000 = 0) (h : Same k s t) :
    Same k s (clearIncs a0 a1 t) := by
  unfold clearIncs
  repeat' first
    | with_reducible assumption
    | (with_reducible refine Same_incs (by with_reducible assumption) ?_; exact maskFree w rfl) | split

theorem closeIncs_s {k : Nat} {s t : State} {n : Nat} {v : Bool} (w : k &&& 0x7FFFFFFFFFFFFFFFFFFFFFFFFFFFFFFFFFFFFFFFFFFFFFFFFFFFFFFFFFFFFFFFFFFFFFFFFFFFFFFFFFFFFFFFFFFFFFFFFFFFFFFFFFFFFFFFFFFFFFFFFFFFFFFFFFFFFFFFFFFFFFFFFF8002000000000000 = 0) (h : Same k s t) : Same k s (closeIncs n v t) := by
  refine h.trans ?_
  constructor
  case regs => exact fun r i => no (allRegs (maskFree w rfl) r)
  case incs => exact no (bitFree w rfl)
  all_goals exact fun _ => rfl

theorem appendRecords_s {k : Nat} {s t : State} {a0 : _} (w : k &&& 0x20000000000000000000000000000000000000000000000000000000001000000000000 = 0) (h : Same k s t) :
    Same k s (appendRecords a0 t) := by
  unfold appendRecords
  repeat' first
    | with_reducible assumption | (with_reducible refine peak_s ?_ ?_; exact bitFree w rfl)
    | (with_reducible refine Same_stream (by with_reducible assumption) ?_; exact maskFree w rfl)
    | (extract_lets +onlyGivenNames x; first | (refine (fun (hx : Same k s x) => ?_) (?_ : Same k s x); all_goals first | (guard_target =ₐ Same k s x; unfold x; clear x) | clear_value x) | clear_value x)
    | split

theorem putRecords_s {k : Nat} {s t : State} {a0 : _} (w : k &&& 0x120000000000000000000000000000000000000000000000000000000001000000000000 = 0) (h : Same k s t) :
    Same k s (putRecords a0 t) := by
  unfold putRecords
  repeat' first
    | with_reducible assumption | (with_reducible refine inc_s ?_ ?_; exact bitFree w rfl)
    | (with_reducible refine Same_stream (by with_reducible assumption) ?_; exact maskFree w rfl)
    | (extract_lets +onlyGivenNames x; clear_value x)
    | (with_reducible refine appendRecords_s ?_ ?_; exact maskFree w rfl) | split

theorem loseShot_s {k : Nat} {s t : State} {a0 : _} {a1 : _} (w : k &&& 0x200000000000000000000000000000000000000000000000000000000001000000000000 = 0) (h : Same k s t) :
    Same k s (loseShot a0 a1 t) := by
  unfold loseShot
  repeat' first
    | with_reducible assumption | (with_reducible refine inc_s ?_ ?_; exact bitFree w rfl)
    | (with_reducible refine Same_stream (by with_reducible assumption) ?_; exact maskFree w rfl)
    | (extract_lets +onlyGivenNames x; clear_value x) | split

theorem loseLoose_s {k : Nat} {s t : State} {a0 : _} (w : k &&& 0x1000000000000 = 0) (h : Same k s t) :
    Same k s (loseLoose a0 t) := by
  unfold loseLoose
  repeat' first
    | with_reducible assumption
    | (with_reducible refine Same_stream (by with_reducible assumption) ?_; exact maskFree w rfl)
    | (extract_lets +onlyGivenNames x; clear_value x) | split

theorem directRecord_s {k : Nat} {s t : State} {a0 : _} (w : k &&& 0x520000000000000000000000000000000000000000000000000000000001000000000000 = 0) (h : Same k s t) :
    Same k s (directRecord a0 t) := by
  unfold directRecord
  repeat' first
    | with_reducible assumption | (with_reducible refine inc_s ?_ ?_; exact bitFree w rfl)
    | (extract_lets +onlyGivenNames x; clear_value x) | (with_reducible refine loseLoose_s ?_ ?_; exact maskFree w rfl)
    | (with_reducible refine putRecords_s ?_ ?_; exact maskFree w rfl) | split

theorem raiseHalt_s {k : Nat} {s t : State} {a0 : _} {a1 : _} {a2 : _} (w : k &&& 0x400000000000000000000000000000000000000000000000000000000000000000000001000000200 = 0) (h : Same k s t) :
    Same k s (raiseHalt a0 a1 a2 t) := by
  unfold raiseHalt
  repeat' first
    | with_reducible assumption | (with_reducible refine inc_s ?_ ?_; exact bitFree w rfl)
    | (extract_lets +onlyGivenNames x; first | (refine (fun (hx : Same k s x) => ?_) (?_ : Same k s x); all_goals first | (guard_target =ₐ Same k s x; unfold x; clear x) | clear_value x) | clear_value x)
    | (with_reducible refine rgset_s ?_ ?_; exact maskFree w rfl)
    | (with_reducible refine eset_s ?_ ?_; exact maskFree w rfl) | (with_reducible refine Same_foldl ?_ ?_; intro _ _ _)
    | split

theorem resumeEngines_s {k : Nat} {s t : State} {a0 : _} (w : k &&& 0x200 = 0) (h : Same k s t) :
    Same k s (resumeEngines a0 t) := by
  unfold resumeEngines
  repeat' first
    | with_reducible assumption
    | (extract_lets +onlyGivenNames x; first | (refine (fun (hx : Same k s x) => ?_) (?_ : Same k s x); all_goals first | (guard_target =ₐ Same k s x; unfold x; clear x) | clear_value x) | clear_value x)
    | (with_reducible refine eset_s ?_ ?_; exact maskFree w rfl) | (with_reducible refine Same_foldl ?_ ?_; intro _ _ _)
    | split

theorem lowerHalts_s {k : Nat} {s t : State} {a0 : _} (w : k &&& 0x1000000200 = 0) (h : Same k s t) :
    Same k s (lowerHalts a0 t) := by
  unfold lowerHalts
  repeat' first
    | with_reducible assumption
    | (extract_lets +onlyGivenNames x; first | (refine (fun (hx : Same k s x) => ?_) (?_ : Same k s x); all_goals first | (guard_target =ₐ Same k s x; unfold x; clear x) | clear_value x) | clear_value x)
    | (with_reducible refine resumeEngines_s ?_ ?_; exact maskFree w rfl)
    | (with_reducible refine rgset_s ?_ ?_; exact maskFree w rfl) | split

theorem dropHalts_s {k : Nat} {s t : State} {a0 : _} (w : k &&& 0x1000000200 = 0) (h : Same k s t) :
    Same k s (dropHalts a0 t) := by
  unfold dropHalts
  repeat' first
    | with_reducible assumption | (extract_lets +onlyGivenNames x; clear_value x)
    | (with_reducible refine resumeEngines_s ?_ ?_; exact maskFree w rfl)
    | (with_reducible refine rgset_s ?_ ?_; exact maskFree w rfl) | split

theorem execHaltRaise_s {k : Nat} {s t : State} {a0 : _} (w : k &&& 0x400000000000000000000000000000000000000000000000000000000000000000000001000000200 = 0) (h : Same k s t) :
    SameO k s (execHaltRaise a0 t) := by
  unfold execHaltRaise
  repeat' first
    | with_reducible assumption | (extract_lets +onlyGivenNames x; clear_value x)
    | (with_reducible refine raiseHalt_s ?_ ?_; exact maskFree w rfl) | split | with_reducible refine SameO_next ?_

/-! ### Readout -/

theorem peakCodes_s {k : Nat} {s t : State} {a0 : _} {a1 : _} (w : k &&& 0x80000000000000000000000000000000000000000000000000000000000 = 0) (h : Same k s t) :
    Same k s (peakCodes a0 a1 t) := by
  unfold peakCodes
  repeat' first
    | with_reducible assumption | (with_reducible refine peak_s ?_ ?_; exact bitFree w rfl) | split

theorem setLast_s {k : Nat} {s t : State} {a0 : _} {a1 : _} (w : k &&& 0x3C00000000000000000000000000000000000000000000000000000 = 0) (h : Same k s t) :
    Same k s (setLast a0 a1 t) := by
  unfold setLast
  repeat' first
    | with_reducible assumption | (with_reducible refine wr_s ?_ ?_; exact bitFree w rfl) | split

theorem execWindowClose_s {k : Nat} {s t : State} {a0 : _} {a1 : _} {a2 : _} (w : k &&& 0x47E000000000000000000000000000000000000000000000000000000000000000120A7F8000000000000000000000000C00FFC00000000000000000000000000000000000000002009000804A40 = 0) (h : Same k s t) :
    SameO k s (execWindowClose a0 a1 a2 t) := by
  unfold execWindowClose
  repeat' first
    | with_reducible assumption | (with_reducible refine incShot_s ?_ ?_ ?_; exact maskFree w rfl; exact bitFree w rfl)
    | (with_reducible refine inc_s ?_ ?_; exact bitFree w rfl)
    | (extract_lets +onlyGivenNames x; first | (refine (fun (hx : Same k s x) => ?_) (?_ : Same k s x); all_goals first | (guard_target =ₐ Same k s x; unfold x; clear x) | clear_value x) | clear_value x)
    | (with_reducible refine setLast_s ?_ ?_; exact maskFree w rfl)
    | (with_reducible refine peakCodes_s ?_ ?_; exact maskFree w rfl)
    | (with_reducible refine lowerHalts_s ?_ ?_; exact maskFree w rfl)
    | (with_reducible refine rdset_s ?_ ?_; exact maskFree w rfl)
    | (with_reducible refine voidNow_s ?_ ?_; exact maskFree w rfl) | split | with_reducible refine SameO_next ?_

theorem crossRecord_s {k : Nat} {s t : State} {a0 : _} {a1 : _} {a2 : _} {a3 : _} (w : k &&& 0x47E000000000000000000000000000000000000000000000000000000000000000120A7F800000000000001000000000000000000000000000000000000000000000000000000000C00000804840 = 0) (h : Same k s t) :
    Same k s (crossRecord a0 a1 a2 a3 t) := by
  unfold crossRecord
  repeat' first
    | with_reducible assumption | (with_reducible refine inc_s ?_ ?_; exact bitFree w rfl)
    | (with_reducible refine Same_crossings (by with_reducible assumption) ?_; exact maskFree w rfl)
    | (with_reducible refine settleRecord_s ?_ ?_; exact maskFree w rfl)
    | (with_reducible refine voidNow_s ?_ ?_; exact maskFree w rfl) | split

theorem boardWrite_s {k : Nat} {s t : State} {a0 : _} {a1 : _} {a2 : _} {a3 : _} {a4 : _} {a5 : _} (w : k &&& 0x1000000000000000000000000000000000000000000000000000000000000008000000000000 = 0) (h : Same k s t) :
    Same k s (boardWrite a0 a1 a2 a3 a4 a5 t) := by
  unfold boardWrite
  repeat' first
    | with_reducible assumption | (with_reducible refine inc_s ?_ ?_; exact bitFree w rfl)
    | (extract_lets +onlyGivenNames x; clear_value x) | (with_reducible refine bcset_s ?_ ?_; exact maskFree w rfl)
    | (with_reducible refine Same_foldl ?_ ?_; intro _ _ _) | split

theorem execVerdictOutput_s {k : Nat} {s t : State} {a0 : _} {a1 : _} (w : k &&& 0x47E000000000000000000000000000000000000000000000000000000000000000120A7F800000001000001000000000000000000000000000000000000000000000000000000028C08000804840 = 0) (h : Same k s t) :
    SameO k s (execVerdictOutput a0 a1 t) := by
  unfold execVerdictOutput
  repeat' first
    | with_reducible assumption | (with_reducible refine Same_vre (by with_reducible assumption) ?_; exact maskFree w rfl)
    | (extract_lets +onlyGivenNames x; first | (refine (fun (hx : Same k s x) => ?_) (?_ : Same k s x); all_goals first | (guard_target =ₐ Same k s x; unfold x; clear x) | clear_value x) | clear_value x)
    | (with_reducible refine boardWrite_s ?_ ?_; exact maskFree w rfl)
    | (with_reducible refine crossRecord_s ?_ ?_; exact maskFree w rfl)
    | (with_reducible refine rdset_s ?_ ?_; exact maskFree w rfl) | split | with_reducible refine SameO_next ?_

theorem execTraceWindowClose_s {k : Nat} {s t : State} {a0 : _} {a1 : _} {a2 : _} (w : k &&& 0x47E000000000000000000000000000000000000000000000000000000000000000120A7F800000000000001800000000080000000000000000000000000000000000000000000000C11000804A40 = 0) (h : Same k s t) :
    SameO k s (execTraceWindowClose a0 a1 a2 t) := by
  unfold execTraceWindowClose
  repeat' first
    | with_reducible assumption | (with_reducible refine incBy_s ?_ ?_; exact bitFree w rfl)
    | (extract_lets +onlyGivenNames x; first | (refine (fun (hx : Same k s x) => ?_) (?_ : Same k s x); all_goals first | (guard_target =ₐ Same k s x; unfold x; clear x) | clear_value x) | clear_value x)
    | (with_reducible refine crossRecord_s ?_ ?_; exact maskFree w rfl)
    | (with_reducible refine peakCodes_s ?_ ?_; exact maskFree w rfl)
    | (with_reducible refine lowerHalts_s ?_ ?_; exact maskFree w rfl)
    | (with_reducible refine trset_s ?_ ?_; exact maskFree w rfl) | (with_reducible refine Same_foldl ?_ ?_; intro _ _ _)
    | split | with_reducible refine SameO_next ?_

theorem openResult_s {k : Nat} {s t : State} {a0 : _} {a1 : _} {a2 : _} {a3 : _} {a4 : _} {a5 : _} (w : k &&& 0x808000000000 = 0) (h : Same k s t) :
    Same k s (openResult a0 a1 a2 a3 a4 a5 t) := by
  unfold openResult
  repeat' first
    | with_reducible assumption | (extract_lets +onlyGivenNames x; clear_value x)
    | (with_reducible refine awaitRecord_s ?_ ?_; exact maskFree w rfl)
    | (with_reducible refine rdset_s ?_ ?_; exact maskFree w rfl) | split

theorem openTrace_s {k : Nat} {s t : State} {a0 : _} {a1 : _} {a2 : _} {a3 : _} (w : k &&& 0x810000000000 = 0) (h : Same k s t) :
    Same k s (openTrace a0 a1 a2 a3 t) := by
  unfold openTrace
  repeat' first
    | with_reducible assumption | (extract_lets +onlyGivenNames x; clear_value x)
    | (with_reducible refine awaitRecord_s ?_ ?_; exact maskFree w rfl)
    | (with_reducible refine trset_s ?_ ?_; exact maskFree w rfl) | split

theorem execCapture_s {k : Nat} {s t : State} {a0 : _} (w : k &&& 0x4000000000818000000100 = 0) (h : Same k s t) :
    SameO k s (execCapture a0 t) := by
  unfold execCapture
  repeat' first
    | with_reducible assumption
    | (extract_lets +onlyGivenNames x; first | (refine (fun (hx : Same k s x) => ?_) (?_ : Same k s x); all_goals first | (guard_target =ₐ Same k s x; unfold x; clear x) | clear_value x) | clear_value x)
    | (with_reducible refine openTrace_s ?_ ?_; exact maskFree w rfl)
    | (with_reducible refine openResult_s ?_ ?_; exact maskFree w rfl)
    | (with_reducible refine takeDue_s ?_ ?_; exact maskFree w rfl)
    | (with_reducible refine Same_foldl ?_ ?_; intro _ _ _) | split | with_reducible refine SameO_next ?_

theorem execCaptureEventWindow_s {k : Nat} {s t : State} {a0 : _} (w : k &&& 0x600000000000000000000000000000000000000000000000000000000810000000000 = 0) (h : Same k s t) :
    SameO k s (execCaptureEventWindow a0 t) := by
  unfold execCaptureEventWindow
  repeat' first
    | with_reducible assumption | (with_reducible refine inc_s ?_ ?_; exact bitFree w rfl)
    | (extract_lets +onlyGivenNames x; first | (refine (fun (hx : Same k s x) => ?_) (?_ : Same k s x); all_goals first | (guard_target =ₐ Same k s x; unfold x; clear x) | clear_value x) | clear_value x)
    | (with_reducible refine openTrace_s ?_ ?_; exact maskFree w rfl)
    | (with_reducible refine trset_s ?_ ?_; exact maskFree w rfl) | split | with_reducible refine SameO_next ?_

theorem cutWindows_s {k : Nat} {s t : State} {a0 : _} {a1 : _} (w : k &&& 0x18000000000 = 0) (h : Same k s t) :
    Same k s (cutWindows a0 a1 t) := by
  unfold cutWindows
  repeat' first
    | with_reducible assumption
    | (extract_lets +onlyGivenNames x; first | (refine (fun (hx : Same k s x) => ?_) (?_ : Same k s x); all_goals first | (guard_target =ₐ Same k s x; unfold x; clear x) | clear_value x) | clear_value x)
    | (with_reducible refine trset_s ?_ ?_; exact maskFree w rfl)
    | (with_reducible refine rdset_s ?_ ?_; exact maskFree w rfl) | (with_reducible refine Same_foldl ?_ ?_; intro _ _ _)
    | split

theorem execAcqOverrange_s {k : Nat} {s t : State} {a0 : _} {a1 : _} {a2 : _} (w : k &&& 0x8C000000000000000000000000000000000000000000000020000000000 = 0) (h : Same k s t) :
    SameO k s (execAcqOverrange a0 a1 a2 t) := by
  unfold execAcqOverrange
  repeat' first
    | with_reducible assumption | (with_reducible refine flag_s ?_ ?_; exact bitFree w rfl)
    | (with_reducible refine inc_s ?_ ?_; exact bitFree w rfl)
    | (extract_lets +onlyGivenNames x; first | (refine (fun (hx : Same k s x) => ?_) (?_ : Same k s x); all_goals first | (guard_target =ₐ Same k s x; unfold x; clear x) | clear_value x) | clear_value x)
    | (with_reducible refine peakCodes_s ?_ ?_; exact maskFree w rfl)
    | (with_reducible refine aqset_s ?_ ?_; exact maskFree w rfl) | split | with_reducible refine SameO_next ?_

theorem execHotTrip_s {k : Nat} {s t : State} {a0 : _} (w : k &&& 0x30000000000000000000000000000000000000000000000020000000000 = 0) (h : Same k s t) :
    SameO k s (execHotTrip a0 t) := by
  unfold execHotTrip
  repeat' first
    | with_reducible assumption | (with_reducible refine flag_s ?_ ?_; exact bitFree w rfl)
    | (with_reducible refine inc_s ?_ ?_; exact bitFree w rfl) | (extract_lets +onlyGivenNames x; clear_value x)
    | (with_reducible refine aqset_s ?_ ?_; exact maskFree w rfl) | split | with_reducible refine SameO_next ?_

theorem execHotRelease_s {k : Nat} {s t : State} {a0 : _} (w : k &&& 0x20000000000 = 0) (h : Same k s t) :
    SameO k s (execHotRelease a0 t) := by
  unfold execHotRelease
  repeat' first
    | with_reducible assumption | (extract_lets +onlyGivenNames x; clear_value x)
    | (with_reducible refine aqset_s ?_ ?_; exact maskFree w rfl) | split | with_reducible refine SameO_next ?_

theorem execAcqCalStepStart_s {k : Nat} {s t : State} {a0 : _} (w : k &&& 0x2000000000000000000000000000000000000000000000000020000000000 = 0) (h : Same k s t) :
    SameO k s (execAcqCalStepStart a0 t) := by
  unfold execAcqCalStepStart
  repeat' first
    | with_reducible assumption | (with_reducible refine inc_s ?_ ?_; exact bitFree w rfl)
    | (extract_lets +onlyGivenNames x; first | (refine (fun (hx : Same k s x) => ?_) (?_ : Same k s x); all_goals first | (guard_target =ₐ Same k s x; unfold x; clear x) | clear_value x) | clear_value x)
    | (with_reducible refine aqset_s ?_ ?_; exact maskFree w rfl) | split | with_reducible refine SameO_next ?_

theorem execAcqCalStepDone_s {k : Nat} {s t : State} {a0 : _} (w : k &&& 0xD00000000000000000000000000000000000000000000000020000000000 = 0) (h : Same k s t) :
    SameO k s (execAcqCalStepDone a0 t) := by
  unfold execAcqCalStepDone
  repeat' first
    | with_reducible assumption | (with_reducible refine inc_s ?_ ?_; exact bitFree w rfl)
    | (with_reducible refine wr_s ?_ ?_; exact bitFree w rfl)
    | (extract_lets +onlyGivenNames x; first | (refine (fun (hx : Same k s x) => ?_) (?_ : Same k s x); all_goals first | (guard_target =ₐ Same k s x; unfold x; clear x) | clear_value x) | clear_value x)
    | (with_reducible refine aqset_s ?_ ?_; exact maskFree w rfl) | split | with_reducible refine SameO_next ?_

theorem abandonStep_s {k : Nat} {s t : State} {a0 : _} (w : k &&& 0x1000000000000000000000000000000000000000000000000020000000000 = 0) (h : Same k s t) :
    Same k s (abandonStep a0 t) := by
  unfold abandonStep
  repeat' first
    | with_reducible assumption | (with_reducible refine inc_s ?_ ?_; exact bitFree w rfl)
    | (extract_lets +onlyGivenNames x; clear_value x) | (with_reducible refine aqset_s ?_ ?_; exact maskFree w rfl)
    | split

theorem execAcqCalStale_s {k : Nat} {s t : State} {a0 : _} (w : k &&& 0x4100000000000000000000000000000000000000000000000000000000000 = 0) (h : Same k s t) :
    SameO k s (execAcqCalStale a0 t) := by
  unfold execAcqCalStale
  repeat' first
    | with_reducible assumption | (with_reducible refine flag_s ?_ ?_; exact bitFree w rfl)
    | (with_reducible refine wr_s ?_ ?_; exact bitFree w rfl) | split | with_reducible refine SameO_next ?_

theorem pruneAcq_s {k : Nat} {s t : State} (w : k &&& 0x20000000000 = 0) (h : Same k s t) :
    Same k s (pruneAcq t) := by
  unfold pruneAcq
  repeat' first
    | with_reducible assumption
    | (with_reducible refine Same_acqs (by with_reducible assumption) ?_; exact maskFree w rfl) | split

theorem storeTaps_s {k : Nat} {s t : State} {a0 : _} {a1 : _} {a2 : _} (w : k &&& 0xC0000000000 = 0) (h : Same k s t) :
    Same k s (storeTaps a0 a1 a2 t) := by
  induction a2 generalizing t a1 with
  | nil =>
    unfold storeTaps
    repeat' first
      | with_reducible assumption
      | (with_reducible refine Same_krn_krnBad (by with_reducible assumption) ?_; exact maskFree w rfl) | split
  | cons y l ih =>
    unfold storeTaps
    repeat' first
      | with_reducible assumption
      | (with_reducible refine Same_krn_krnBad (by with_reducible assumption) ?_; exact maskFree w rfl)
      | with_reducible refine ih ?_ | split

theorem storeTable_s {k : Nat} {s t : State} {a0 : _} {a1 : _} {a2 : _} (w : k &&& 0x300000000000 = 0) (h : Same k s t) :
    Same k s (storeTable a0 a1 a2 t) := by
  induction a2 generalizing t a1 with
  | nil =>
    unfold storeTable
    repeat' first
      | with_reducible assumption
      | (with_reducible refine Same_tab_tabBad (by with_reducible assumption) ?_; exact maskFree w rfl) | split
  | cons y l ih =>
    unfold storeTable
    repeat' first
      | with_reducible assumption
      | (with_reducible refine Same_tab_tabBad (by with_reducible assumption) ?_; exact maskFree w rfl)
      | with_reducible refine ih ?_ | split

theorem writeKernel_s {k : Nat} {s t : State} {a0 : _} {a1 : _} {a2 : _} (w : k &&& 0xC0000000000 = 0) (h : Same k s t) :
    SameA k s (writeKernel a0 a1 a2 t) := by
  unfold writeKernel
  repeat' first
    | with_reducible assumption | (with_reducible refine storeTaps_s ?_ ?_; exact maskFree w rfl) | split
    | with_reducible refine SameA_ok ?_ | with_reducible exact SameA_err

theorem writeTables_s {k : Nat} {s t : State} {a0 : _} {a1 : _} {a2 : _} (w : k &&& 0x300000000000 = 0) (h : Same k s t) :
    SameA k s (writeTables a0 a1 a2 t) := by
  unfold writeTables
  repeat' first
    | with_reducible assumption | (with_reducible refine storeTable_s ?_ ?_; exact maskFree w rfl) | split
    | with_reducible refine SameA_ok ?_ | with_reducible exact SameA_err

/-! ### Feedback -/

theorem execVerdictBusMessage_s {k : Nat} {s t : State} {a0 : _} {a1 : _} (w : k &&& 0x1000000000000000000000000000000000000000000000000000000000000028000000000000 = 0) (h : Same k s t) :
    SameO k s (execVerdictBusMessage a0 a1 t) := by
  unfold execVerdictBusMessage
  repeat' first
    | with_reducible assumption | (with_reducible refine Same_vre (by with_reducible assumption) ?_; exact maskFree w rfl)
    | (extract_lets +onlyGivenNames x; first | (refine (fun (hx : Same k s x) => ?_) (?_ : Same k s x); all_goals first | (guard_target =ₐ Same k s x; unfold x; clear x) | clear_value x) | clear_value x)
    | (with_reducible refine boardWrite_s ?_ ?_; exact maskFree w rfl) | split | with_reducible refine SameO_next ?_

theorem branchEffect_s {k : Nat} {s t : State} {a0 : _} {a1 : _} (w : k &&& 0x47E000000000000000000000000000000000000000000000000000000000000000320B7F800000000020000000000000000000000000000000000000005002000000000000000012000000804AC4 = 0) (h : Same k s t) :
    Same k s (branchEffect a0 a1 t) := by
  unfold branchEffect
  repeat' first
    | with_reducible assumption | (with_reducible refine incShot_s ?_ ?_ ?_; exact maskFree w rfl; exact bitFree w rfl)
    | (extract_lets +onlyGivenNames x; first | (refine (fun (hx : Same k s x) => ?_) (?_ : Same k s x); all_goals first | (guard_target =ₐ Same k s x; unfold x; clear x) | clear_value x) | clear_value x)
    | (with_reducible refine brset_s ?_ ?_; exact maskFree w rfl)
    | (with_reducible refine dropIllegal_s ?_ ?_; exact maskFree w rfl)
    | (with_reducible refine afterPacket_s ?_ ?_; exact maskFree w rfl)
    | (with_reducible refine consume_s ?_ ?_; exact maskFree w rfl)
    | (with_reducible refine execOpcode_s ?_ ?_; exact maskFree w rfl) | split

theorem readCell_s {k : Nat} {s t : State} {a0 : _} {a1 : _} {a2 : _} (w : k &&& 0x200000000000000000000000000000000000000000000000000000000000008000000000000 = 0) (h : Same k s t) :
    Same k s (readCell a0 a1 a2 t) := by
  unfold readCell
  repeat' first
    | with_reducible assumption | (with_reducible refine inc_s ?_ ?_; exact bitFree w rfl)
    | (extract_lets +onlyGivenNames x; clear_value x) | (with_reducible refine bcset_s ?_ ?_; exact maskFree w rfl)
    | split

theorem putArming_s {k : Nat} {s t : State} {a0 : _} {a1 : _} {a2 : _} (w : k &&& 0x10000000000000 = 0) (h : Same k s t) :
    Same k s (putArming a0 a1 a2 t) := by
  unfold putArming
  repeat' first
    | with_reducible assumption | (extract_lets +onlyGivenNames x; clear_value x)
    | (with_reducible refine brset_s ?_ ?_; exact maskFree w rfl) | split

theorem countLost_s {k : Nat} {s t : State} {a0 : _} {a1 : _} {a2 : _} (w : k &&& 0x800000000000000000000000000000000000000000000000000000000000010000000000000 = 0) (h : Same k s t) :
    Same k s (countLost a0 a1 a2 t) := by
  unfold countLost
  repeat' first
    | with_reducible assumption | (with_reducible refine inc_s ?_ ?_; exact bitFree w rfl)
    | (with_reducible refine putArming_s ?_ ?_; exact maskFree w rfl) | split

theorem execBreChoice_s {k : Nat} {s t : State} {a0 : _} {a1 : _} {a2 : _} (w : k &&& 0xA00000000000000000000000000000000000000000000000000000000000018000000000000 = 0) (h : Same k s t) :
    SameO k s (execBreChoice a0 a1 a2 t) := by
  unfold execBreChoice
  repeat' first
    | with_reducible assumption | (with_reducible refine inc_s ?_ ?_; exact bitFree w rfl)
    | (extract_lets +onlyGivenNames x; first | (refine (fun (hx : Same k s x) => ?_) (?_ : Same k s x); all_goals first | (guard_target =ₐ Same k s x; unfold x; clear x) | clear_value x) | clear_value x)
    | (with_reducible refine countLost_s ?_ ?_; exact maskFree w rfl)
    | (with_reducible refine putArming_s ?_ ?_; exact maskFree w rfl)
    | (with_reducible refine readCell_s ?_ ?_; exact maskFree w rfl)
    | (with_reducible refine brset_s ?_ ?_; exact maskFree w rfl) | split | with_reducible refine SameO_next ?_

theorem execSelectRegisterTake_s {k : Nat} {s t : State} {a0 : _} {a1 : _} (w : k &&& 0x2400000000000000000000000000000000000000000000000000000000000010000000000000 = 0) (h : Same k s t) :
    SameO k s (execSelectRegisterTake a0 a1 t) := by
  unfold execSelectRegisterTake
  repeat' first
    | with_reducible assumption | (with_reducible refine low_s ?_ ?_; exact bitFree w rfl)
    | (with_reducible refine inc_s ?_ ?_; exact bitFree w rfl) | (extract_lets +onlyGivenNames x; clear_value x)
    | (with_reducible refine brset_s ?_ ?_; exact maskFree w rfl) | split | with_reducible refine SameO_next ?_

theorem execArmingDeadline_s {k : Nat} {s t : State} {a0 : _} {a1 : _} (w : k &&& 0x100000000000000000000000000000000000000000000000000000000000010000000000000 = 0) (h : Same k s t) :
    SameO k s (execArmingDeadline a0 a1 t) := by
  unfold execArmingDeadline
  repeat' first
    | with_reducible assumption | (with_reducible refine inc_s ?_ ?_; exact bitFree w rfl)
    | (extract_lets +onlyGivenNames x; first | (refine (fun (hx : Same k s x) => ?_) (?_ : Same k s x); all_goals first | (guard_target =ₐ Same k s x; unfold x; clear x) | clear_value x) | clear_value x)
    | (with_reducible refine putArming_s ?_ ?_; exact maskFree w rfl)
    | (with_reducible refine brset_s ?_ ?_; exact maskFree w rfl) | split | with_reducible refine SameO_next ?_

theorem decide236_s {k : Nat} {s t : State} {a0 : _} {a1 : _} {a2 : _} (w : k &&& 0x47E000000000000000000000000000000000000000000000000000000000000000120A7F8000000040C0000000000000000000000000000000000000000000000000000000000012000000804840 = 0) (h : Same k s t) :
    Same k s (decide236 a0 a1 a2 t) := by
  unfold decide236
  repeat' first
    | with_reducible assumption | (with_reducible refine incShot_s ?_ ?_ ?_; exact maskFree w rfl; exact bitFree w rfl)
    | (with_reducible refine inc_s ?_ ?_; exact bitFree w rfl)
    | (extract_lets +onlyGivenNames x; first | (refine (fun (hx : Same k s x) => ?_) (?_ : Same k s x); all_goals first | (guard_target =ₐ Same k s x; unfold x; clear x) | clear_value x) | clear_value x)
    | (with_reducible refine brset_s ?_ ?_; exact maskFree w rfl)
    | (with_reducible refine voidAt_s ?_ ?_; exact maskFree w rfl) | split

/-! ### Abutment -/

theorem countLate_s {k : Nat} {s t : State} {a0 : _} {a1 : _} {a2 : _} (w : k &&& 0x47E000000000000000000000000000000000000000000000000000000000000000120A7F8000000000000000000000000000000000000000000000000000000000063F0600000000000000804840 = 0) (h : Same k s t) :
    Same k s (countLate a0 a1 a2 t) := by
  unfold countLate
  repeat' first
    | with_reducible assumption | (with_reducible refine flag_s ?_ ?_; exact bitFree w rfl)
    | (with_reducible refine inc_s ?_ ?_; exact bitFree w rfl) | (with_reducible refine wr_s ?_ ?_; exact bitFree w rfl)
    | (extract_lets +onlyGivenNames x; first | (refine (fun (hx : Same k s x) => ?_) (?_ : Same k s x); all_goals first | (guard_target =ₐ Same k s x; unfold x; clear x) | clear_value x) | clear_value x)
    | (with_reducible refine voidAt_s ?_ ?_; exact maskFree w rfl) | split

theorem countIllegal_s {k : Nat} {s t : State} {a0 : _} {a1 : _} {a2 : _} (w : k &&& 0x47E000000000000000000000000000000000000000000000000000000000000000120A7F800000000000000000000000000000000000000000000000000000000008001000000000000000804840 = 0) (h : Same k s t) :
    Same k s (countIllegal a0 a1 a2 t) := by
  unfold countIllegal
  repeat' first
    | with_reducible assumption | (with_reducible refine incBy_s ?_ ?_; exact bitFree w rfl)
    | (with_reducible refine voidAt_s ?_ ?_; exact maskFree w rfl) | split

theorem acceptCmd_s {k : Nat} {s t : State} {a0 : _} {a1 : _} {a2 : _} (w : k &&& 0x100 = 0) (h : Same k s t) :
    Same k s (acceptCmd a0 a1 a2 t) := by
  unfold acceptCmd
  repeat' first
    | with_reducible assumption | (extract_lets +onlyGivenNames x; clear_value x)
    | (with_reducible refine fset_s ?_ ?_; exact maskFree w rfl) | split

theorem judgeArrival_s {k : Nat} {s t : State} {a0 : _} {a1 : _} {a2 : _} (w : k &&& 0x47E000000000000000000000000000000000000000000000000000000000000000120A7F80000000000000000000000100000000000000000000000000000000001E3F1E00000000020000804940 = 0) (h : Same k s t) :
    Same k s (judgeArrival a0 a1 a2 t) := by
  unfold judgeArrival
  repeat' first
    | with_reducible assumption | (with_reducible refine inc_s ?_ ?_; exact bitFree w rfl)
    | (with_reducible refine incBy_s ?_ ?_; exact bitFree w rfl)
    | (extract_lets +onlyGivenNames x; first | (refine (fun (hx : Same k s x) => ?_) (?_ : Same k s x); all_goals first | (guard_target =ₐ Same k s x; unfold x; clear x) | clear_value x) | clear_value x)
    | (with_reducible refine acceptCmd_s ?_ ?_; exact maskFree w rfl)
    | (with_reducible refine countIllegal_s ?_ ?_; exact maskFree w rfl)
    | (with_reducible refine countLate_s ?_ ?_; exact maskFree w rfl)
    | (with_reducible refine abandonStep_s ?_ ?_; exact maskFree w rfl)
    | (with_reducible refine fset_s ?_ ?_; exact maskFree w rfl) | split

theorem intake_s {k : Nat} {s t : State} {a0 : _} {a1 : _} (w : k &&& 0x47E000000000000000000000000000000000000000000000000000000000000000120A7F80000000000000000000000100000000000000000000000000000000001E3F1E00000000020000804940 = 0) (h : Same k s t) :
    Same k s (intake a0 a1 t) := by
  unfold intake
  repeat' first
    | with_reducible assumption | (extract_lets +onlyGivenNames x; clear_value x)
    | (with_reducible refine judgeArrival_s ?_ ?_; exact maskFree w rfl)
    | (with_reducible refine fset_s ?_ ?_; exact maskFree w rfl) | split

theorem execEdgeCommandArrival_s {k : Nat} {s t : State} {a0 : _} (w : k &&& 0x47E000000000000000000000000000000000000000000000000000000000000004120A7F80000000000000000000000100000000000000000000000000800000001E3F1E00000000020000804940 = 0) (h : Same k s t) :
    SameO k s (execEdgeCommandArrival a0 t) := by
  unfold execEdgeCommandArrival
  repeat' first
    | with_reducible assumption | (with_reducible refine inc_s ?_ ?_; exact bitFree w rfl)
    | (extract_lets +onlyGivenNames x; first | (refine (fun (hx : Same k s x) => ?_) (?_ : Same k s x); all_goals first | (guard_target =ₐ Same k s x; unfold x; clear x) | clear_value x) | clear_value x)
    | (with_reducible refine intake_s ?_ ?_; exact maskFree w rfl)
    | (with_reducible refine fset_s ?_ ?_; exact maskFree w rfl) | split | with_reducible refine SameO_next ?_

theorem poisonCmd_s {k : Nat} {s t : State} {a0 : _} (w : k &&& 0x47E000000000000000000000000000000000000000000000000000000000000002120A7F800000000000000000000000000000000000000020001800000000000000000000000000000254804840 = 0) (h : Same k s t) :
    Same k s (poisonCmd a0 t) := by
  unfold poisonCmd
  repeat' first
    | with_reducible assumption | (with_reducible refine inc_s ?_ ?_; exact bitFree w rfl)
    | (extract_lets +onlyGivenNames x; (refine (fun (hx : Same k s x) => ?_) (?_ : Same k s x); all_goals first | (guard_target =ₐ Same k s x; unfold x; clear x) | clear_value x))
    | (with_reducible refine applyCut_s ?_ ?_; exact maskFree w rfl)
    | (with_reducible refine dropJumps_s ?_ ?_; exact maskFree w rfl)
    | (with_reducible refine endPlay_s ?_ ?_; exact maskFree w rfl)
    | (with_reducible refine voidAt_s ?_ ?_; exact maskFree w rfl) | split

theorem pathInsert_s {k : Nat} {s t : State} {a0 : _} {a1 : _} (w : k &&& 0x100 = 0) (h : Same k s t) :
    Same k s (pathInsert a0 a1 t) := by
  unfold pathInsert
  repeat' first
    | with_reducible assumption | (extract_lets +onlyGivenNames x; clear_value x)
    | (with_reducible refine fset_s ?_ ?_; exact maskFree w rfl) | split

theorem takeHead_s {k : Nat} {s t : State} {a0 : _} {a1 : _} {a2 : _} (w : k &&& 0x47E000000000000000000000000000000000000000000000000000000000000002120A7F800000000000000000000000000000000000000020001800000000000000000000000000000254804940 = 0) (h : Same k s t) :
    Same k s (takeHead a0 a1 a2 t) := by
  unfold takeHead
  repeat' first
    | with_reducible assumption
    | (extract_lets +onlyGivenNames x; first | (refine (fun (hx : Same k s x) => ?_) (?_ : Same k s x); all_goals first | (guard_target =ₐ Same k s x; unfold x; clear x) | clear_value x) | clear_value x)
    | (with_reducible refine pathInsert_s ?_ ?_; exact maskFree w rfl)
    | (with_reducible refine poisonCmd_s ?_ ?_; exact maskFree w rfl)
    | (with_reducible refine fset_s ?_ ?_; exact maskFree w rfl) | (with_reducible refine Same_foldl ?_ ?_; intro _ _ _)
    | split

theorem execEdgeFifoRead_s {k : Nat} {s t : State} {a0 : _} {a1 : _} (w : k &&& 0x47E000000000000000000000000000000000000000000000000000000000000002120A7F800000000000000000000000000000000000000020001800000000000000000000000000000254804940 = 0) (h : Same k s t) :
    SameO k s (execEdgeFifoRead a0 a1 t) := by
  unfold execEdgeFifoRead
  repeat' first
    | with_reducible assumption | (extract_lets +onlyGivenNames x; clear_value x)
    | (with_reducible refine takeHead_s ?_ ?_; exact maskFree w rfl)
    | (with_reducible refine fset_s ?_ ?_; exact maskFree w rfl) | split | with_reducible refine SameO_next ?_

theorem execStage_s {k : Nat} {s t : State} {a0 : _} (w : k &&& 0x4000000000000000000100 = 0) (h : Same k s t) :
    SameO k s (execStage a0 t) := by
  unfold execStage
  repeat' first
    | with_reducible assumption
    | (extract_lets +onlyGivenNames x; first | (refine (fun (hx : Same k s x) => ?_) (?_ : Same k s x); all_goals first | (guard_target =ₐ Same k s x; unfold x; clear x) | clear_value x) | clear_value x)
    | (with_reducible refine takeDue_s ?_ ?_; exact maskFree w rfl)
    | (with_reducible refine fset_s ?_ ?_; exact maskFree w rfl) | split | with_reducible refine SameO_next ?_

theorem execSelect_s {k : Nat} {s t : State} {a0 : _} (w : k &&& 0x47E000000000000000000000000000000000000000000000000000000000000000120A7F8000000040C0000000000000000000000000000000000000000000000008005000000012000000804940 = 0) (h : Same k s t) :
    SameO k s (execSelect a0 t) := by
  unfold execSelect
  repeat' first
    | with_reducible assumption
    | (extract_lets +onlyGivenNames x; first | (refine (fun (hx : Same k s x) => ?_) (?_ : Same k s x); all_goals first | (guard_target =ₐ Same k s x; unfold x; clear x) | clear_value x) | clear_value x)
    | (with_reducible refine pathInsert_s ?_ ?_; exact maskFree w rfl)
    | (with_reducible refine countIllegal_s ?_ ?_; exact maskFree w rfl)
    | (with_reducible refine decide236_s ?_ ?_; exact maskFree w rfl)
    | (with_reducible refine takeDue_s ?_ ?_; exact maskFree w rfl)
    | (with_reducible refine fset_s ?_ ?_; exact maskFree w rfl) | (with_reducible refine Same_foldl ?_ ?_; intro _ _ _)
    | split | with_reducible refine SameO_next ?_

/-! ### Profiles -/

theorem silence_s {k : Nat} {s t : State} {a0 : _} {a1 : _} (w : k &&& 0x4000000000000000000000000000000000000000000000000000000000000000010000000000000000240000100 = 0) (h : Same k s t) :
    Same k s (silence a0 a1 t) := by
  unfold silence
  repeat' first
    | with_reducible assumption | (with_reducible refine incBy_s ?_ ?_; exact bitFree w rfl)
    | (extract_lets +onlyGivenNames x; first | (refine (fun (hx : Same k s x) => ?_) (?_ : Same k s x); all_goals first | (guard_target =ₐ Same k s x; unfold x; clear x) | clear_value x) | clear_value x)
    | (with_reducible refine endPlay_s ?_ ?_; exact maskFree w rfl)
    | (with_reducible refine flushFifo_s ?_ ?_; exact maskFree w rfl)
    | (with_reducible refine slset_s ?_ ?_; exact maskFree w rfl)
    | (with_reducible refine fset_s ?_ ?_; exact maskFree w rfl) | split

theorem awaken_s {k : Nat} {s t : State} {a0 : _} (w : k &&& 0x10000000000000000000000100 = 0) (h : Same k s t) :
    Same k s (awaken a0 t) := by
  unfold awaken
  repeat' first
    | with_reducible assumption | (with_reducible refine incBy_s ?_ ?_; exact bitFree w rfl)
    | (extract_lets +onlyGivenNames x; clear_value x) | (with_reducible refine fset_s ?_ ?_; exact maskFree w rfl) | split

theorem endMute_s {k : Nat} {s t : State} {a0 : _} (w : k &&& 0x80000000000000000000000400000000000000010000000000000000000000000000001200000000 = 0) (h : Same k s t) :
    Same k s (endMute a0 t) := by
  unfold endMute
  repeat' first
    | with_reducible assumption | (with_reducible refine wr_s ?_ ?_; exact bitFree w rfl)
    | (extract_lets +onlyGivenNames x; first | (refine (fun (hx : Same k s x) => ?_) (?_ : Same k s x); all_goals first | (guard_target =ₐ Same k s x; unfold x; clear x) | clear_value x) | clear_value x)
    | (with_reducible refine muteCluster_s ?_ ?_; exact maskFree w rfl)
    | (with_reducible refine rgset_s ?_ ?_; exact maskFree w rfl)
    | (with_reducible refine flxset_s ?_ ?_; exact maskFree w rfl) | (with_reducible refine Same_foldl ?_ ?_; intro _ _ _)
    | split

theorem applyProfile_s {k : Nat} {s t : State} {a0 : _} {a1 : _} {a2 : _} {a3 : _} (w : k &&& 0x40000000000F1000000000000000000000400000000000000010000000000000010000000000000019240000300 = 0) (h : Same k s t) :
    Same k s (applyProfile a0 a1 a2 a3 t) := by
  unfold applyProfile
  repeat' first
    | with_reducible assumption | (with_reducible refine inc_s ?_ ?_; exact bitFree w rfl)
    | (with_reducible refine wr_s ?_ ?_; exact bitFree w rfl)
    | (extract_lets +onlyGivenNames x; first | (refine (fun (hx : Same k s x) => ?_) (?_ : Same k s x); all_goals first | (guard_target =ₐ Same k s x; unfold x; clear x) | clear_value x) | clear_value x)
    | (with_reducible refine endMute_s ?_ ?_; exact maskFree w rfl)
    | (with_reducible refine awaken_s ?_ ?_; exact maskFree w rfl)
    | (with_reducible refine silence_s ?_ ?_; exact maskFree w rfl)
    | (with_reducible refine cutWindows_s ?_ ?_; exact maskFree w rfl)
    | (with_reducible refine dropHalts_s ?_ ?_; exact maskFree w rfl)
    | (with_reducible refine muteCluster_s ?_ ?_; exact maskFree w rfl)
    | (with_reducible refine rgset_s ?_ ?_; exact maskFree w rfl)
    | (with_reducible refine flxset_s ?_ ?_; exact maskFree w rfl) | (with_reducible refine Same_foldl ?_ ?_; intro _ _ _)
    | split

theorem requestProfile_s {k : Nat} {s t : State} {a0 : _} {a1 : _} {a2 : _} (w : k &&& 0x40000000000F3000000000000000000000400000000000000010000000000000010000000000000019240000300 = 0) (h : Same k s t) :
    Same k s (requestProfile a0 a1 a2 t) := by
  unfold requestProfile
  repeat' first
    | with_reducible assumption | (with_reducible refine wr_s ?_ ?_; exact bitFree w rfl)
    | (extract_lets +onlyGivenNames x; first | (refine (fun (hx : Same k s x) => ?_) (?_ : Same k s x); all_goals first | (guard_target =ₐ Same k s x; unfold x; clear x) | clear_value x) | clear_value x)
    | (with_reducible refine applyProfile_s ?_ ?_; exact maskFree w rfl)
    | (with_reducible refine rgset_s ?_ ?_; exact maskFree w rfl) | split

theorem writeProfile_s {k : Nat} {s t : State} {a0 : _} {a1 : _} (w : k &&& 0x40000000000F3000000000000000000000400000000000000010000000000000010000000000000019240000300 = 0) (h : Same k s t) :
    SameA k s (writeProfile a0 a1 t) := by
  unfold writeProfile
  repeat' first
    | with_reducible assumption | (with_reducible refine requestProfile_s ?_ ?_; exact maskFree w rfl)
    | (with_reducible refine SameA_map ?_ (fun _ _ => ?_)) | with_reducible refine SameA_map' (fun _ => ?_) | split
    | with_reducible refine SameA_ok ?_ | with_reducible exact SameA_err

theorem writeProfiles_s {k : Nat} {s t : State} {a0 : _} (w : k &&& 0x40000000010F3000000000000000000000400000000000000010000000000000010000000000000019240000300 = 0) (h : Same k s t) :
    SameA k s (writeProfiles a0 t) := by
  unfold writeProfiles
  repeat' first
    | with_reducible assumption | (with_reducible refine wr_s ?_ ?_; exact bitFree w rfl)
    | (extract_lets +onlyGivenNames x; clear_value x)
    | (with_reducible refine requestProfile_s ?_ ?_; exact maskFree w rfl)
    | (with_reducible refine Same_foldl ?_ ?_; intro _ _ _) | split | with_reducible refine SameA_ok ?_
    | with_reducible exact SameA_err

theorem writeLayout_s {k : Nat} {s t : State} {a0 : _} {a1 : _} (w : k &&& 0x100000000000000000000000000000000000000000000000000000000000000000000000000000000 = 0) (h : Same k s t) :
    SameA k s (writeLayout a0 a1 t) := by
  unfold writeLayout
  repeat' first
    | with_reducible assumption | (with_reducible refine wr_s ?_ ?_; exact bitFree w rfl) | split
    | with_reducible refine SameA_ok ?_ | with_reducible exact SameA_err

theorem forceCool_s {k : Nat} {s t : State} {a0 : _} {a1 : _} (w : k &&& 0x47E000000000000000000000000000000000000000000000000000000000000004120A7F8000FB000000000000000000000400000000000000010000000000000010000000000000019240804340 = 0) (h : Same k s t) :
    Same k s (forceCool a0 a1 t) := by
  unfold forceCool
  repeat' first
    | with_reducible assumption | (with_reducible refine wr_s ?_ ?_; exact bitFree w rfl)
    | (extract_lets +onlyGivenNames x; first | (refine (fun (hx : Same k s x) => ?_) (?_ : Same k s x); all_goals first | (guard_target =ₐ Same k s x; unfold x; clear x) | clear_value x) | clear_value x)
    | (with_reducible refine requestProfile_s ?_ ?_; exact maskFree w rfl)
    | (with_reducible refine logFault_s ?_ ?_; exact maskFree w rfl)
    | (with_reducible refine rgset_s ?_ ?_; exact maskFree w rfl) | split

theorem execProfileChange_s {k : Nat} {s t : State} {a0 : _} (w : k &&& 0x40000000000F1000000000000000000000400000000000000010000000000000010000000000000019240000300 = 0) (h : Same k s t) :
    SameO k s (execProfileChange a0 t) := by
  unfold execProfileChange
  repeat' first
    | with_reducible assumption | (with_reducible refine applyProfile_s ?_ ?_; exact maskFree w rfl) | split
    | with_reducible refine SameO_next ?_

theorem execProfileMuteEnd_s {k : Nat} {s t : State} {a0 : _} (w : k &&& 0x80000000000000000000000400000000000000010000000000000000000000000000001200000000 = 0) (h : Same k s t) :
    SameO k s (execProfileMuteEnd a0 t) := by
  unfold execProfileMuteEnd
  repeat' first
    | with_reducible assumption | (with_reducible refine endMute_s ?_ ?_; exact maskFree w rfl) | split
    | with_reducible refine SameO_next ?_

/-! ### Compensation -/

theorem thset_s {k : Nat} {s t : State} {a0 : _} {a1 : _} (w : k &&& 0x1000000000000000 = 0) (h : Same k s t) :
    Same k s (thset a0 a1 t) := by
  unfold thset
  repeat' first
    | with_reducible assumption
    | (with_reducible refine Same_therms (by with_reducible assumption) ?_; exact maskFree w rfl) | split

theorem setTrim_s {k : Nat} {s t : State} {a0 : _} {a1 : _} (w : k &&& 0x2000000000000000 = 0) (h : Same k s t) :
    Same k s (setTrim a0 a1 t) := by
  unfold setTrim
  repeat' first
    | with_reducible assumption
    | (with_reducible refine Same_cool (by with_reducible assumption) ?_; exact maskFree w rfl)
    | (extract_lets +onlyGivenNames x; clear_value x) | split

theorem moveTrim_s {k : Nat} {s t : State} {a0 : _} (w : k &&& 0x2000000000000000 = 0) (h : Same k s t) :
    Same k s (moveTrim a0 t) := by
  unfold moveTrim
  repeat' first
    | with_reducible assumption | (extract_lets +onlyGivenNames x; clear_value x)
    | (with_reducible refine setTrim_s ?_ ?_; exact maskFree w rfl) | split

theorem refTrims_s {k : Nat} {s t : State} (w : k &&& 0x2000000000000000 = 0) (h : Same k s t) :
    Same k s (refTrims t) := by
  unfold refTrims
  repeat' first
    | with_reducible assumption | (with_reducible refine moveTrim_s ?_ ?_; exact maskFree w rfl)
    | (with_reducible refine Same_foldl ?_ ?_; intro _ _ _) | split

theorem updateTrims_s {k : Nat} {s t : State} {a0 : _} (w : k &&& 0x2000000000000000 = 0) (h : Same k s t) :
    Same k s (updateTrims a0 t) := by
  unfold updateTrims
  repeat' first
    | with_reducible assumption
    | (extract_lets +onlyGivenNames x; (refine (fun (hx : Same k s x) => ?_) (?_ : Same k s x); all_goals first | (guard_target =ₐ Same k s x; unfold x; clear x) | clear_value x))
    | (with_reducible refine moveTrim_s ?_ ?_; exact maskFree w rfl)
    | (with_reducible refine setTrim_s ?_ ?_; exact maskFree w rfl) | split

theorem applyBand_s {k : Nat} {s t : State} {a0 : _} (w : k &&& 0x2000000000000000 = 0) (h : Same k s t) :
    Same k s (applyBand a0 t) := by
  unfold applyBand
  repeat' first
    | with_reducible assumption | (with_reducible refine setTrim_s ?_ ?_; exact maskFree w rfl) | split

theorem initTrims_s {k : Nat} {s t : State} (w : k &&& 0x2000000000000000 = 0) (h : Same k s t) :
    Same k s (initTrims t) := by
  unfold initTrims
  repeat' first
    | with_reducible assumption | (with_reducible refine setTrim_s ?_ ?_; exact maskFree w rfl)
    | (with_reducible refine Same_foldl ?_ ?_; intro _ _ _) | split

/-! ### Shots -/

theorem dropStream_s {k : Nat} {s t : State} {a0 : _} (w : k &&& 0x2047F8000000000000000000000000000000000000000000000000080000000000000000000000000000044C0 = 0) (h : Same k s t) :
    Same k s (dropStream a0 t) := by
  unfold dropStream
  repeat' first
    | with_reducible assumption | (with_reducible refine wr_s ?_ ?_; exact bitFree w rfl)
    | (extract_lets +onlyGivenNames x; clear_value x)
    | (with_reducible refine discardStream_s ?_ ?_; exact maskFree w rfl) | split

theorem endBarrier_s {k : Nat} {s t : State} {a0 : _} (w : k &&& 0x2047F800000000000000000000000000000000000000000000000008000030000000000000000001024804EC0 = 0) (h : Same k s t) :
    Same k s (endBarrier a0 t) := by
  unfold endBarrier
  repeat' first
    | with_reducible assumption | (with_reducible refine Same_run (by with_reducible assumption) ?_; exact maskFree w rfl)
    | (extract_lets +onlyGivenNames x; first | (refine (fun (hx : Same k s x) => ?_) (?_ : Same k s x); all_goals first | (guard_target =ₐ Same k s x; unfold x; clear x) | clear_value x) | clear_value x)
    | (with_reducible refine dropStream_s ?_ ?_; exact maskFree w rfl)
    | (with_reducible refine finishRun_s ?_ ?_; exact maskFree w rfl)
    | (with_reducible refine discardStream_s ?_ ?_; exact maskFree w rfl)
    | (with_reducible refine Same_foldl ?_ ?_; intro _ _ _) | split

theorem deferBoundary_s {k : Nat} {s t : State} (w : k &&& 0x800 = 0) (h : Same k s t) :
    Same k s (deferBoundary t) := by
  unfold deferBoundary
  repeat' first
    | with_reducible assumption | (with_reducible refine Same_run (by with_reducible assumption) ?_; exact maskFree w rfl)
    | (extract_lets +onlyGivenNames x; clear_value x) | (with_reducible refine Same_foldl ?_ ?_; intro _ _ _) | split

theorem openAtBarrier_s {k : Nat} {s t : State} {a0 : _} (w : k &&& 0x80000000000000000000000000800 = 0) (h : Same k s t) :
    Same k s (openAtBarrier a0 t) := by
  unfold openAtBarrier
  repeat' first
    | with_reducible assumption | (with_reducible refine wr_s ?_ ?_; exact bitFree w rfl)
    | (with_reducible refine Same_run (by with_reducible assumption) ?_; exact maskFree w rfl)
    | (extract_lets +onlyGivenNames x; clear_value x) | (with_reducible refine Same_foldl ?_ ?_; intro _ _ _) | split

theorem barrierSlack_s {k : Nat} {s t : State} {a0 : _} {a1 : _} {a2 : _} (w : k &&& 0x47E000000000000000000000000000000000000000000000000000000000000000120A7F800000000000000000000000000000000000000000000000010010800000000000000000000000804840 = 0) (h : Same k s t) :
    Same k s (barrierSlack a0 a1 a2 t) := by
  unfold barrierSlack
  repeat' first
    | with_reducible assumption | (with_reducible refine low_s ?_ ?_; exact bitFree w rfl)
    | (with_reducible refine inc_s ?_ ?_; exact bitFree w rfl)
    | (extract_lets +onlyGivenNames x; first | (refine (fun (hx : Same k s x) => ?_) (?_ : Same k s x); all_goals first | (guard_target =ₐ Same k s x; unfold x; clear x) | clear_value x) | clear_value x)
    | (with_reducible refine markShot_s ?_ ?_; exact maskFree w rfl)
    | (with_reducible refine logFault_s ?_ ?_; exact maskFree w rfl)
    | (with_reducible refine Same_foldl ?_ ?_; intro _ _ _) | split

theorem aimRequests_s {k : Nat} {s t : State} {a0 : _} (w : k &&& 0x1000000000 = 0) (h : Same k s t) :
    Same k s (aimRequests a0 t) := by
  unfold aimRequests
  repeat' first
    | with_reducible assumption | (extract_lets +onlyGivenNames x; clear_value x)
    | (with_reducible refine rgset_s ?_ ?_; exact maskFree w rfl) | (with_reducible refine Same_foldl ?_ ?_; intro _ _ _)
    | split

theorem completeBarrier_s {k : Nat} {s t : State} {a0 : _} (w : k &&& 0x47E000000000000000000000000000000000000000000000000000000000000000120E7F8000000000000000000000000000000000000000000000000180118B0000000000000000001024804EC0 = 0) (h : Same k s t) :
    Same k s (completeBarrier a0 t) := by
  unfold completeBarrier
  repeat' first
    | with_reducible assumption | (with_reducible refine inc_s ?_ ?_; exact bitFree w rfl)
    | (extract_lets +onlyGivenNames x; first | (refine (fun (hx : Same k s x) => ?_) (?_ : Same k s x); all_goals first | (guard_target =ₐ Same k s x; unfold x; clear x) | clear_value x) | clear_value x)
    | (with_reducible refine aimRequests_s ?_ ?_; exact maskFree w rfl)
    | (with_reducible refine barrierSlack_s ?_ ?_; exact maskFree w rfl)
    | (with_reducible refine openAtBarrier_s ?_ ?_; exact maskFree w rfl)
    | (with_reducible refine deferBoundary_s ?_ ?_; exact maskFree w rfl)
    | (with_reducible refine endBarrier_s ?_ ?_; exact maskFree w rfl)
    | (with_reducible refine markShot_s ?_ ?_; exact maskFree w rfl)
    | (with_reducible refine logFault_s ?_ ?_; exact maskFree w rfl)
    | (with_reducible refine eset_s ?_ ?_; exact maskFree w rfl) | (with_reducible refine Same_foldl ?_ ?_; intro _ _ _)
    | split

theorem arriveBarrier_s {k : Nat} {s t : State} {a0 : _} {a1 : _} {a2 : _} (w : k &&& 0x47E000000000000000000000000000000000000000000000000000000000000000120E7F8000000000000000000000000000000000000000000000000180118B0000000000000000001024804EC0 = 0) (h : Same k s t) :
    Same k s (arriveBarrier a0 a1 a2 t) := by
  unfold arriveBarrier
  repeat' first
    | with_reducible assumption
    | (extract_lets +onlyGivenNames x; first | (refine (fun (hx : Same k s x) => ?_) (?_ : Same k s x); all_goals first | (guard_target =ₐ Same k s x; unfold x; clear x) | clear_value x) | clear_value x)
    | (with_reducible refine completeBarrier_s ?_ ?_; exact maskFree w rfl)
    | (with_reducible refine eset_s ?_ ?_; exact maskFree w rfl) | split

theorem arriveEffect_s {k : Nat} {s t : State} {a0 : _} {a1 : _} {a2 : _} (w : k &&& 0x47E000000000000000000000000000000000000000000000000000000000000000320F7F8000000000000000000000000000000000000000000000000180118B0000000000000000001024804EC4 = 0) (h : Same k s t) :
    Same k s (arriveEffect a0 a1 a2 t) := by
  unfold arriveEffect
  repeat' first
    | with_reducible assumption | (extract_lets +onlyGivenNames x; clear_value x)
    | (with_reducible refine arriveBarrier_s ?_ ?_; exact maskFree w rfl)
    | (with_reducible refine consume_s ?_ ?_; exact maskFree w rfl)
    | (with_reducible refine endPass_s ?_ ?_; exact maskFree w rfl)
    | (with_reducible refine execOpcode_s ?_ ?_; exact maskFree w rfl) | split

theorem execBarrierRelease_s {k : Nat} {s t : State} {a0 : _} (w : k &&& 0x4000000000000000000000000000000204 = 0) (h : Same k s t) :
    SameO k s (execBarrierRelease a0 t) := by
  unfold execBarrierRelease
  repeat' first
    | with_reducible assumption
    | (extract_lets +onlyGivenNames x; first | (refine (fun (hx : Same k s x) => ?_) (?_ : Same k s x); all_goals first | (guard_target =ₐ Same k s x; unfold x; clear x) | clear_value x) | clear_value x)
    | (with_reducible refine afterPacket_s ?_ ?_; exact maskFree w rfl)
    | (with_reducible refine eset_s ?_ ?_; exact maskFree w rfl) | split | with_reducible refine SameO_next ?_

theorem restoreFrames_s {k : Nat} {s t : State} {a0 : _} (w : k &&& 0x2018000000000000000000000000000080000000 = 0) (h : Same k s t) :
    Same k s (restoreFrames a0 t) := by
  unfold restoreFrames
  repeat' first
    | with_reducible assumption | (with_reducible refine inc_s ?_ ?_; exact bitFree w rfl)
    | (extract_lets +onlyGivenNames x; clear_value x) | (with_reducible refine setFrame_s ?_ ?_; exact maskFree w rfl)
    | (with_reducible refine Same_foldl ?_ ?_; intro _ _ _) | split

theorem takeSnapshots_s {k : Nat} {s t : State} (w : k &&& 0x60000000000000000000000000000000000000 = 0) (h : Same k s t) :
    Same k s (takeSnapshots t) := by
  unfold takeSnapshots
  repeat' first
    | with_reducible assumption | (with_reducible refine wr_s ?_ ?_; exact bitFree w rfl)
    | (with_reducible refine Same_foldl ?_ ?_; intro _ _ _) | split

theorem zeroFrames_s {k : Nat} {s t : State} {a0 : _} (w : k &&& 0x18000000000000000000000000000080000000 = 0) (h : Same k s t) :
    Same k s (zeroFrames a0 t) := by
  unfold zeroFrames
  repeat' first
    | with_reducible assumption | (with_reducible refine setFrame_s ?_ ?_; exact maskFree w rfl)
    | (with_reducible refine Same_foldl ?_ ?_; intro _ _ _) | split

theorem closeResults_s {k : Nat} {s t : State} {a0 : _} {a1 : _} (w : k &&& 0x3C00000000000000000000000000000000000000000008000000000 = 0) (h : Same k s t) :
    Same k s (closeResults a0 a1 t) := by
  unfold closeResults
  repeat' first
    | with_reducible assumption | (extract_lets +onlyGivenNames x; clear_value x)
    | (with_reducible refine setLast_s ?_ ?_; exact maskFree w rfl)
    | (with_reducible refine rdset_s ?_ ?_; exact maskFree w rfl) | (with_reducible refine Same_foldl ?_ ?_; intro _ _ _)
    | split

theorem closeSet_s {k : Nat} {s t : State} {a0 : _} (w : k &&& 0x800000000000 = 0) (h : Same k s t) :
    Same k s (closeSet a0 t) := by
  unfold closeSet
  repeat' first
    | with_reducible assumption | (extract_lets +onlyGivenNames x; clear_value x)
    | (with_reducible refine rsset_s ?_ ?_; exact maskFree w rfl) | split

theorem latchCambers_s {k : Nat} {s t : State} {a0 : _} {a1 : _} {a2 : _} (w : k &&& 0x18001FC000000000000000100 = 0) (h : Same k s t) :
    Same k s (latchCambers a0 a1 a2 t) := by
  unfold latchCambers
  repeat' first
    | with_reducible assumption | (with_reducible refine low_s ?_ ?_; exact bitFree w rfl)
    | (with_reducible refine wr_s ?_ ?_; exact bitFree w rfl)
    | (extract_lets +onlyGivenNames x; first | (refine (fun (hx : Same k s x) => ?_) (?_ : Same k s x); all_goals first | (guard_target =ₐ Same k s x; unfold x; clear x) | clear_value x) | clear_value x)
    | (with_reducible refine fset_s ?_ ?_; exact maskFree w rfl) | (with_reducible refine Same_foldl ?_ ?_; intro _ _ _)
    | split

theorem applyDue_s {k : Nat} {s t : State} {a0 : _} {a1 : _} (w : k &&& 0x40000000000F1000000000000000000000400000000000000010000000000000010000000000000019240000300 = 0) (h : Same k s t) :
    Same k s (applyDue a0 a1 t) := by
  unfold applyDue
  repeat' first
    | with_reducible assumption | (with_reducible refine applyProfile_s ?_ ?_; exact maskFree w rfl) | split

theorem camberForce_s {k : Nat} {s t : State} {a0 : _} (w : k &&& 0x47E000000000000000000000000000000000000000000000000000000000000004120A7F8000FB000000000000000000000400000000000000010000000000000010000000000000019240804340 = 0) (h : Same k s t) :
    Same k s (camberForce a0 t) := by
  unfold camberForce
  repeat' first
    | with_reducible assumption | (with_reducible refine applyDue_s ?_ ?_; exact maskFree w rfl)
    | (with_reducible refine forceCool_s ?_ ?_; exact maskFree w rfl)
    | (with_reducible refine Same_foldl ?_ ?_; intro _ _ _) | split

theorem emptyStores_s {k : Nat} {s t : State} {a0 : _} (w : k &&& 0x2000000000000000000100 = 0) (h : Same k s t) :
    Same k s (emptyStores a0 t) := by
  unfold emptyStores
  repeat' first
    | with_reducible assumption | (with_reducible refine incBy_s ?_ ?_; exact bitFree w rfl)
    | (extract_lets +onlyGivenNames x; clear_value x) | (with_reducible refine fset_s ?_ ?_; exact maskFree w rfl)
    | (with_reducible refine Same_foldl ?_ ?_; intro _ _ _) | split

theorem closeShot_s {k : Nat} {s t : State} {a0 : _} {a1 : _} (w : k &&& 0x7FFFFFFFFFFFFFFFFFFFFFFFFFFFFFFFFFFFFFFFFFFFFFFFFFFFFFFFFFFFFFFFFFFFFFFFFFFFFFFFFFFFFFFFFFFFFFFFFFFFFFFFFFFFFFFFFFFFFFFFFFFFFFFFFFFFFFFFFFFFFFFFFF80028192C0804340 = 0) (h : Same k s t) :
    Same k s (closeShot a0 a1 t) := by
  unfold closeShot
  repeat' first
    | with_reducible assumption | (with_reducible refine inc_s ?_ ?_; exact bitFree w rfl)
    | (extract_lets +onlyGivenNames x; first | (refine (fun (hx : Same k s x) => ?_) (?_ : Same k s x); all_goals first | (guard_target =ₐ Same k s x; unfold x; clear x) | clear_value x) | clear_value x)
    | (with_reducible refine emptyStores_s ?_ ?_; exact maskFree w rfl)
    | (with_reducible refine camberForce_s ?_ ?_; exact maskFree w rfl)
    | (with_reducible refine latchCambers_s ?_ ?_; exact maskFree w rfl)
    | (with_reducible refine closeSet_s ?_ ?_; exact maskFree w rfl)
    | (with_reducible refine closeResults_s ?_ ?_; exact maskFree w rfl)
    | (with_reducible refine restoreFrames_s ?_ ?_; exact maskFree w rfl)
    | (with_reducible refine closeIncs_s ?_ ?_; exact maskFree w rfl) | split

theorem emptyBoards_s {k : Nat} {s t : State} (w : k &&& 0x18000000000000 = 0) (h : Same k s t) :
    Same k s (emptyBoards t) := by
  unfold emptyBoards
  repeat' first
    | with_reducible assumption
    | (with_reducible refine Same_board_bres (by with_reducible assumption) ?_; exact maskFree w rfl) | split

theorem openShot_s {k : Nat} {s t : State} {a0 : _} (w : k &&& 0x47E000000000000000000000000000000000000000000000000000000000000000120A7F800000000000000000000000000000000000000000000060000000140000000000000018000000804840 = 0) (h : Same k s t) :
    Same k s (openShot a0 t) := by
  unfold openShot
  repeat' first
    | with_reducible assumption | (with_reducible refine wr_s ?_ ?_; exact bitFree w rfl)
    | (with_reducible refine Same_run (by with_reducible assumption) ?_; exact maskFree w rfl)
    | (extract_lets +onlyGivenNames x; first | (refine (fun (hx : Same k s x) => ?_) (?_ : Same k s x); all_goals first | (guard_target =ₐ Same k s x; unfold x; clear x) | clear_value x) | clear_value x)
    | (with_reducible refine emptyBoards_s ?_ ?_; exact maskFree w rfl)
    | (with_reducible refine takeSnapshots_s ?_ ?_; exact maskFree w rfl)
    | (with_reducible refine voidAt_s ?_ ?_; exact maskFree w rfl) | (with_reducible refine Same_foldl ?_ ?_; intro _ _ _)
    | split

theorem execShotBoundary_s {k : Nat} {s t : State} (w : k &&& 0x7FFFFFFFFFFFFFFFFFFFFFFFFFFFFFFFFFFFFFFFFFFFFFFFFFFFFFFFFFFFFFFFFFFFFFFFFFFFFFFFFFFFFFFFFFFFFFFFFFFFFFFFFFFFFFFFFFFFFFFFFFFFFFFFFFFFFFFFFFFFFFFFFFA01A8192E4804B40 = 0) (h : Same k s t) :
    SameO k s (execShotBoundary t) := by
  unfold execShotBoundary
  repeat' first
    | with_reducible assumption | (with_reducible refine Same_run (by with_reducible assumption) ?_; exact maskFree w rfl)
    | (extract_lets +onlyGivenNames x; first | (refine (fun (hx : Same k s x) => ?_) (?_ : Same k s x); all_goals first | (guard_target =ₐ Same k s x; unfold x; clear x) | clear_value x) | clear_value x)
    | (with_reducible refine openShot_s ?_ ?_; exact maskFree w rfl)
    | (with_reducible refine closeShot_s ?_ ?_; exact maskFree w rfl)
    | (with_reducible refine zeroFrames_s ?_ ?_; exact maskFree w rfl)
    | (with_reducible refine refTrims_s ?_ ?_; exact maskFree w rfl)
    | (with_reducible refine finishRun_s ?_ ?_; exact maskFree w rfl) | split | with_reducible refine SameO_next ?_

theorem startEngine_s {k : Nat} {s t : State} {a0 : _} (w : k &&& 0x600 = 0) (h : Same k s t) :
    Same k s (startEngine a0 t) := by
  unfold startEngine
  repeat' first
    | with_reducible assumption | (extract_lets +onlyGivenNames x; clear_value x)
    | (with_reducible refine aset_s ?_ ?_; exact maskFree w rfl)
    | (with_reducible refine eset_s ?_ ?_; exact maskFree w rfl) | split

theorem startRun_s {k : Nat} {s t : State} (w : k &&& 0x2000000000000000000000000000000000000000000000000000000000010000000000000010000000000000000000022000F00 = 0) (h : Same k s t) :
    SameA k s (startRun t) := by
  unfold startRun
  repeat' first
    | with_reducible assumption | (with_reducible refine wr_s ?_ ?_; exact bitFree w rfl)
    | (with_reducible refine Same_run (by with_reducible assumption) ?_; exact maskFree w rfl)
    | (extract_lets +onlyGivenNames x; first | (refine (fun (hx : Same k s x) => ?_) (?_ : Same k s x); all_goals first | (guard_target =ₐ Same k s x; unfold x; clear x) | clear_value x) | clear_value x)
    | (with_reducible refine startEngine_s ?_ ?_; exact maskFree w rfl)
    | (with_reducible refine dropHeld_s ?_ ?_; exact maskFree w rfl)
    | (with_reducible refine rfset_s ?_ ?_; exact maskFree w rfl)
    | (with_reducible refine fset_s ?_ ?_; exact maskFree w rfl) | (with_reducible refine Same_foldl ?_ ?_; intro _ _ _)
    | split | with_reducible refine SameA_ok ?_ | with_reducible exact SameA_err

theorem stopRun_s {k : Nat} {s t : State} (w : k &&& 0x10000000000000000000000000800 = 0) (h : Same k s t) :
    Same k s (stopRun t) := by
  unfold stopRun
  repeat' first
    | with_reducible assumption | (with_reducible refine wr_s ?_ ?_; exact bitFree w rfl)
    | (with_reducible refine Same_run (by with_reducible assumption) ?_; exact maskFree w rfl)
    | (extract_lets +onlyGivenNames x; clear_value x) | split

end Sys2Proof.Machine
end

