-- ==== Sys2Proof/Laws/SameRun.lean ====
section
/-! SUPPORT. What stays as it was in the loader, PTP, streams, links, the host's packets and blocks, the verdict exchange and the trigger. -/

namespace Sys2Proof.Machine

-- One proof at a time: proofs elaborated side by side take more memory than the check grants.
set_option Elab.async false
set_option linter.all false

/-! ### Loader -/

/-- What a placing of a section keeps. -/
def SamePlace (k : Nat) (f : State → State) : Prop := ∀ s t, Same k s t → Same k s (f t)

theorem mapPlace_s {k : Nat} {α : Type} {o : Option α} {g : α → State → State} (q : ∀ a, SamePlace k (g a)) {f : State → State}
    (e : o.map g = some f) : SamePlace k f := by
  cases o with
  | none => cases e
  | some a => cases e; exact q a

theorem segLib_s {k : Nat} (w : k &&& 0xA098000000000000000000100000018000000000000000000000000100380100000000000001E000000000000003C033E001400 = 0) {base off : Nat} {b : List Byte} {c : Nat} {f : State → State} (e : segLib base off b c = some f) : SamePlace k f := by
  unfold segLib at e
  dsimp only at e
  split at e
  · cases e
  · split at e
    · cases e
    · split at e
      · cases e
      · split at e
        · cases e
        · cases e
          intro s t h
          refine rfset_s (maskFree w rfl) (storeSamples_s (maskFree w rfl) (Same_foldl (fun _ _ q => sset_s (maskFree w rfl) q) ?_))
          exact Same_segs h (maskFree w rfl)

theorem scheduleBody_s {k : Nat} (w : k &&& 0xA098000000000000000000100000018000000000000000000000000100380100000000000001E000000000000003C033E001400 = 0) {a : Nat} {b : List Byte} {e : Nat} {f : State → State} (h : scheduleBody a b e = some f) : SamePlace k f := by
  unfold scheduleBody at h
  dsimp only at h
  split at h
  · cases h
  · cases h
    intro s t q
    exact aset_s (maskFree w rfl) q

theorem quietBody_s {k : Nat} (w : k &&& 0xA098000000000000000000100000018000000000000000000000000100380100000000000001E000000000000003C033E001400 = 0) {b : List Byte} {f : State → State} (h : quietBody b = some f) : SamePlace k f := by
  unfold quietBody at h
  split at h
  · cases h
  · exact mapPlace_s (fun a s t q => Same_image q (maskFree w rfl)) h

theorem kernelsBody_s {k : Nat} (w : k &&& 0xA098000000000000000000100000018000000000000000000000000100380100000000000001E000000000000003C033E001400 = 0) {b : List Byte} {c : Nat} {f : State → State} (h : kernelsBody b c = some f) : SamePlace k f := by
  unfold kernelsBody at h
  split at h
  · cases h
  · cases h
    intro s t q
    exact storeTaps_s (maskFree w rfl) (Same_krn_krnBad q (maskFree w rfl))

theorem tablesBody_s {k : Nat} (w : k &&& 0xA098000000000000000000100000018000000000000000000000000100380100000000000001E000000000000003C033E001400 = 0) {b : List Byte} {c : Nat} {f : State → State} (h : tablesBody b c = some f) : SamePlace k f := by
  unfold tablesBody at h
  split at h
  · cases h
  · cases h
    intro s t q
    exact storeTable_s (maskFree w rfl) (Same_tab_tabBad q (maskFree w rfl))

theorem branchBody_s {k : Nat} (w : k &&& 0xA098000000000000000000100000018000000000000000000000000100380100000000000001E000000000000003C033E001400 = 0) {b : List Byte} {c : Nat} {f : State → State} (h : branchBody b c = some f) : SamePlace k f := by
  unfold branchBody at h
  dsimp only at h
  split at h
  · cases h
  · have e := Option.some.inj h
    intro s t q
    rw [← e]
    with_reducible exact Same_foldl (fun _ _ q => wr_s (bitFree w rfl) (wr_s (bitFree w rfl) q)) q

theorem xtalkBody_s {k : Nat} (w : k &&& 0xA098000000000000000000100000018000000000000000000000000100380100000000000001E000000000000003C033E001400 = 0) {b : List Byte} {c : Nat} {f : State → State} (h : xtalkBody b c = some f) : SamePlace k f := by
  unfold xtalkBody at h
  dsimp only at h
  split at h
  · cases h
  · have e := Option.some.inj h
    intro s t q
    rw [← e]
    with_reducible exact Same_foldl (fun _ _ q => wr_s (bitFree w rfl) q) (Same_tapBad q (maskFree w rfl))

theorem fluxBody_s {k : Nat} (w : k &&& 0xA098000000000000000000100000018000000000000000000000000100380100000000000001E000000000000003C033E001400 = 0) {b : List Byte} {c : Nat} {f : State → State} (h : fluxBody b c = some f) : SamePlace k f := by
  unfold fluxBody at h
  dsimp only at h
  split at h
  · cases h
  · have e := Option.some.inj h
    intro s t q
    rw [← e]
    with_reducible exact refreshFlux_s (maskFree w rfl) (Same_foldl (fun _ _ k => settleFlux_s (maskFree w rfl) k)
      (Same_foldl (fun _ _ k => wr_s (bitFree w rfl) k) (Same_foldl (fun _ _ k => wr_s (bitFree w rfl) k) (Same_foldl (fun _ _ q => wr_s (bitFree w rfl) (wr_s (bitFree w rfl) q)) q))))

/-- The state a load has reached. -/
theorem loadRead_s {k : Nat} (w : k &&& 0xA098000000000000000000100000018000000000000000000000000100380100000000000001E000000000000003C033E001400 = 0) {s : State} {i a n : Nat} {l : LoadSt} (h : Same k s l.st) : Same k s (loadRead i a n l).2.st := by
  unfold loadRead
  dsimp only
  split
  · dsimp only; exact dramRead_s (maskFree w rfl) h
  · dsimp only; exact dramRead_s (maskFree w rfl) h

theorem loadDir_s {k : Nat} (w : k &&& 0xA098000000000000000000100000018000000000000000000000000100380100000000000001E000000000000003C033E001400 = 0) {s : State} {base len dir sections n : Nat} {before : List Section} {l : LoadSt} (h : Same k s l.st) :
    Same k s (loadDir base len dir sections n before l).2.st := by
  induction n generalizing before l with
  | zero => exact h
  | succ n ih =>
    unfold loadDir
    dsimp only
    split
    · dsimp only; exact dramRead_s (maskFree w rfl) h
    · split
      · dsimp only; exact dramRead_s (maskFree w rfl) h
      · exact ih (by dsimp only; exact dramRead_s (maskFree w rfl) h)

theorem loadFailed_s {k : Nat} (w : k &&& 0xA098000000000000000000100000018000000000000000000000000100380100000000000001E000000000000003C033E001400 = 0) {s : State} {f : LoadFail} {l : LoadSt} (h : Same k s l.st) : Same k s (loadFailed f l) := wr_s (bitFree w rfl) (wr_s (bitFree w rfl) (wr_s (bitFree w rfl) h))

theorem sectionBody_s {k : Nat} (w : k &&& 0xA098000000000000000000100000018000000000000000000000000100380100000000000001E000000000000003C033E001400 = 0) {base : Nat} {x : Section} {b : List Byte} {f : State → State} (h : sectionBody base x b = .ok f) :
    SamePlace k f := by
  have key : ∀ {o : Option (State → State)} {c : Nat}, (∀ g, o = some g → SamePlace k g) →
      (match o with | some g => Except.ok g | none => .error c : Except Nat (State → State)) = .ok f → SamePlace k f := by
    intro o c q e
    cases o with
    | none => cases e
    | some g => cases e; exact q _ rfl
  unfold sectionBody at h
  dsimp only at h
  split at h
  · cases h
  split at h
  · exact key (fun g e => scheduleBody_s w e) h
  split at h
  · exact key (fun g e => segLib_s w e) h
  split at h
  · exact key (fun g e => kernelsBody_s w e) h
  split at h
  · exact key (fun g e => tablesBody_s w e) h
  split at h
  · exact key (fun g e => branchBody_s w e) h
  split at h
  · exact key (fun g e => xtalkBody_s w e) h
  split at h
  · exact key (fun g e => fluxBody_s w e) h
  split at h
  · exact key (fun g e => quietBody_s w e) h
  · cases h; exact fun _ _ q => q

theorem loadSections_s {k : Nat} (w : k &&& 0xA098000000000000000000100000018000000000000000000000000100380100000000000001E000000000000003C033E001400 = 0) {s : State} {base : Nat} {xs : List Section} {i : Nat} {l : LoadSt} (h : Same k s l.st) :
    Same k s (loadSections base xs i l).2.st ∧ ∀ ps, (loadSections base xs i l).1 = .ok ps → ∀ f ∈ ps, SamePlace k f := by
  induction xs generalizing i l with
  | nil => exact ⟨h, fun ps e => by cases e; simp⟩
  | cons x xs ih =>
    unfold loadSections
    have hr := loadRead_s w (i := i) (a := base + x.off) (n := x.len) h
    split
    · next e => rw [e] at hr; exact ⟨hr, fun ps e => by cases e⟩
    · next e =>
      rw [e] at hr
      split
      · exact ⟨hr, fun ps e => by cases e⟩
      · next hp =>
        have := ih (i := i + 1) hr
        split
        · next e2 => rw [e2] at this; exact ⟨this.1, fun ps e => by cases e⟩
        · next e2 =>
          rw [e2] at this
          refine ⟨this.1, fun ps e => ?_⟩
          cases e
          intro f hf
          rcases List.mem_cons.1 hf with rfl | hf
          · exact sectionBody_s w hp
          · exact this.2 _ rfl f hf

theorem Same_places {k : Nat} {s t : State} {ps : List (State → State)} (hp : ∀ f ∈ ps, SamePlace k f) (h : Same k s t) :
    Same k s (ps.foldl (fun t f => f t) t) := by
  induction ps generalizing t with
  | nil => exact h
  | cons f ps ih => exact ih (fun g hg => hp g (List.mem_cons_of_mem _ hg)) (hp f (List.mem_cons_self ..) _ _ h)

theorem loadDone_s {k : Nat} (w : k &&& 0xA098000000000000000000100000018000000000000000000000000100380100000000000001E000000000000003C033E001400 = 0) {s : State} {h : List Byte} {ps : List (State → State)} {l : LoadSt} (q : Same k s l.st)
    (hp : ∀ f ∈ ps, SamePlace k f) : Same k s (loadDone h ps l) := by
  unfold loadDone
  dsimp only
  refine wr_s (bitFree w rfl) (wr_s (bitFree w rfl) (wr_s (bitFree w rfl) (Same_foldl (fun _ _ q => wr_s (bitFree w rfl) q) ?_)))
  exact Same_places hp (Same_areas_image q (maskFree w rfl))

theorem loadImage_s {k : Nat} {s t : State} (w : k &&& 0xA098000000000000000000100000018000000000000000000000000100380100000000000001E000000000000003C033E001400 = 0) (h : Same k s t) : Same k s (loadImage t) := by
  unfold loadImage
  dsimp only
  have h1 := loadRead_s w (i := 0xFFFF) (a := t.image.base) (n := 64) (l := { st := t, done := 0 }) h
  split
  · next e => rw [e] at h1; exact loadFailed_s w h1
  · next e =>
    rw [e] at h1
    split
    · exact loadFailed_s w h1
    · split
      · next e2 => exact loadFailed_s w ((congrArg (fun x => Same k s x.2.st) e2).mp (loadDir_s w h1))
      · next e2 =>
        have h2 := (congrArg (fun x => Same k s x.2.st) e2).mp (loadDir_s w h1)
        split
        · next e3 => exact loadFailed_s w ((congrArg (fun x => Same k s x.2.st) e3).mp (loadSections_s w h2).1)
        · next e3 =>
          exact loadDone_s w ((congrArg (fun x => Same k s x.2.st) e3).mp (loadSections_s w h2).1) ((loadSections_s w h2).2 _ (congrArg Prod.fst e3))

theorem execLoadComplete_s {k : Nat} {s t : State} (w : k &&& 0xA098000000000000000000100000018000000000000000000000000100380100000000000001E000000000000003C033E001400 = 0) (h : Same k s t) :
    SameO k s (execLoadComplete t) := by
  unfold execLoadComplete
  repeat' first
    | with_reducible assumption | (with_reducible refine loadImage_s ?_ ?_; exact maskFree w rfl) | split
    | with_reducible refine SameO_next ?_

theorem startLoad_s {k : Nat} {s t : State} (w : k &&& 0x1200000000000000000000001000 = 0) (h : Same k s t) :
    SameA k s (startLoad t) := by
  unfold startLoad
  repeat' first
    | with_reducible assumption | (with_reducible refine wr_s ?_ ?_; exact bitFree w rfl)
    | (with_reducible refine Same_image (by with_reducible assumption) ?_; exact maskFree w rfl)
    | (extract_lets +onlyGivenNames x; clear_value x) | split | with_reducible refine SameA_ok ?_
    | with_reducible exact SameA_err

theorem unloadImage_s {k : Nat} {s t : State} (w : k &&& 0x200000000000000000000000000 = 0) (h : Same k s t) :
    SameA k s (unloadImage t) := by
  unfold unloadImage
  repeat' first
    | with_reducible assumption | (with_reducible refine wr_s ?_ ?_; exact bitFree w rfl) | split
    | with_reducible refine SameA_ok ?_ | with_reducible exact SameA_err

/-! ### Ptp -/

theorem setPtp_s {k : Nat} {s t : State} {a0 : _} (w : k &&& 0x80000000000000 = 0) (h : Same k s t) :
    Same k s (setPtp a0 t) := by
  unfold setPtp
  repeat' first
    | with_reducible assumption | (with_reducible refine Same_ptp (by with_reducible assumption) ?_; exact maskFree w rfl)
    | split

theorem ptpTick_s {k : Nat} {s t : State} (w : k &&& 0x80000000000000 = 0) (h : Same k s t) :
    Same k s (ptpTick t) := by
  unfold ptpTick
  repeat' first
    | with_reducible assumption | (extract_lets +onlyGivenNames x; clear_value x)
    | (with_reducible refine setPtp_s ?_ ?_; exact maskFree w rfl) | split

theorem settlePps_s {k : Nat} {s t : State} (w : k &&& 0x80000000000000 = 0) (h : Same k s t) :
    Same k s (settlePps t) := by
  unfold settlePps
  repeat' first
    | with_reducible assumption | (extract_lets +onlyGivenNames x; clear_value x)
    | (with_reducible refine setPtp_s ?_ ?_; exact maskFree w rfl) | split

theorem timeRecord_s {k : Nat} {s t : State} {a0 : _} (w : k &&& 0x520000000000000000000000000000000000000000000000000000000001000000000000 = 0) (h : Same k s t) :
    Same k s (timeRecord a0 t) := by
  unfold timeRecord
  repeat' first
    | with_reducible assumption
    | (with_reducible refine Same_stream (by with_reducible assumption) ?_; exact maskFree w rfl)
    | (extract_lets +onlyGivenNames x; clear_value x) | (with_reducible refine directRecord_s ?_ ?_; exact maskFree w rfl)
    | split

theorem anchorNow_s {k : Nat} {s t : State} (w : k &&& 0x1000000000000 = 0) (h : Same k s t) :
    Same k s (anchorNow t) := by
  unfold anchorNow
  repeat' first
    | with_reducible assumption
    | (with_reducible refine Same_stream (by with_reducible assumption) ?_; exact maskFree w rfl)
    | (extract_lets +onlyGivenNames x; clear_value x) | split

theorem clockState_s {k : Nat} {s t : State} {a0 : _} (w : k &&& 0x200000000000000000000000000000000000000000000000000000520000000000000000000000000000000000000000000000000000000081000000000000 = 0) (h : Same k s t) :
    Same k s (clockState a0 t) := by
  unfold clockState
  repeat' first
    | with_reducible assumption | (with_reducible refine wr_s ?_ ?_; exact bitFree w rfl)
    | (with_reducible refine timeRecord_s ?_ ?_; exact maskFree w rfl)
    | (with_reducible refine settlePps_s ?_ ?_; exact maskFree w rfl) | split

theorem toFreerun_s {k : Nat} {s t : State} (w : k &&& 0x200000000000000000000000000000000000000000000000000000520000000000000000000000000000000000000000000000000000000081000000000000 = 0) (h : Same k s t) :
    Same k s (toFreerun t) := by
  unfold toFreerun
  repeat' first
    | with_reducible assumption | (with_reducible refine clockState_s ?_ ?_; exact maskFree w rfl) | split

theorem relockClock_s {k : Nat} {s t : State} (w : k &&& 0x200000000000000000000000000000000000000000000000000000520000000000000000000000000000000000000000000000000000000081000000000000 = 0) (h : Same k s t) :
    Same k s (relockClock t) := by
  unfold relockClock
  repeat' first
    | with_reducible assumption | (extract_lets +onlyGivenNames x; clear_value x)
    | (with_reducible refine clockState_s ?_ ?_; exact maskFree w rfl)
    | (with_reducible refine setPtp_s ?_ ?_; exact maskFree w rfl) | split

theorem onFio_s {k : Nat} {s t : State} (w : k &&& 0x200000000000000000000000000000000000000000000000000000520000000000000000000000000000000000000000000000000000000081000000000000 = 0) (h : Same k s t) :
    Same k s (onFio t) := by
  unfold onFio
  repeat' first
    | with_reducible assumption | (with_reducible refine clockState_s ?_ ?_; exact maskFree w rfl)
    | (with_reducible refine settlePps_s ?_ ?_; exact maskFree w rfl) | split

theorem offFio_s {k : Nat} {s t : State} (w : k &&& 0x200000000000000000000000000000000000000000000000000000520000000000000000000000000000000000000000000000000000000081000000000000 = 0) (h : Same k s t) :
    Same k s (offFio t) := by
  unfold offFio
  repeat' first
    | with_reducible assumption
    | (extract_lets +onlyGivenNames x; (refine (fun (hx : Same k s x) => ?_) (?_ : Same k s x); all_goals first | (guard_target =ₐ Same k s x; unfold x; clear x) | clear_value x))
    | (with_reducible refine clockState_s ?_ ?_; exact maskFree w rfl)
    | (with_reducible refine setPtp_s ?_ ?_; exact maskFree w rfl) | split

theorem selectMaster_s {k : Nat} {s t : State} (w : k &&& 0x20000E00000000000000000000000000000000000000000000000000000520000000000000000000000000000000000000000000000000000000081000000000000 = 0) (h : Same k s t) :
    Same k s (selectMaster t) := by
  unfold selectMaster
  repeat' first
    | with_reducible assumption | (with_reducible refine inc_s ?_ ?_; exact bitFree w rfl)
    | (with_reducible refine wr_s ?_ ?_; exact bitFree w rfl)
    | (extract_lets +onlyGivenNames x; first | (refine (fun (hx : Same k s x) => ?_) (?_ : Same k s x); all_goals first | (guard_target =ₐ Same k s x; unfold x; clear x) | clear_value x) | clear_value x)
    | (with_reducible refine relockClock_s ?_ ?_; exact maskFree w rfl)
    | (with_reducible refine toFreerun_s ?_ ?_; exact maskFree w rfl)
    | (with_reducible refine setPtp_s ?_ ?_; exact maskFree w rfl) | split

theorem masterLoss_s {k : Nat} {s t : State} (w : k &&& 0x60000E00000000000000000000000000000000000000000000000000000520000000000000000000000000000000000000000000000000000000081000000000000 = 0) (h : Same k s t) :
    Same k s (masterLoss t) := by
  unfold masterLoss
  repeat' first
    | with_reducible assumption | (with_reducible refine inc_s ?_ ?_; exact bitFree w rfl)
    | (with_reducible refine wr_s ?_ ?_; exact bitFree w rfl)
    | (extract_lets +onlyGivenNames x; first | (refine (fun (hx : Same k s x) => ?_) (?_ : Same k s x); all_goals first | (guard_target =ₐ Same k s x; unfold x; clear x) | clear_value x) | clear_value x)
    | (with_reducible refine selectMaster_s ?_ ?_; exact maskFree w rfl)
    | (with_reducible refine toFreerun_s ?_ ?_; exact maskFree w rfl)
    | (with_reducible refine setPtp_s ?_ ?_; exact maskFree w rfl) | split

theorem tcQueue_s {k : Nat} {s t : State} {a0 : _} {a1 : _} {a2 : _} (w : k &&& 0x100000000000000000000000000000000000000000000000000000000000000000000000000000000000000000000000000000000000000000000080000000000000 = 0) (h : Same k s t) :
    Same k s (tcQueue a0 a1 a2 t) := by
  unfold tcQueue
  repeat' first
    | with_reducible assumption | (with_reducible refine inc_s ?_ ?_; exact bitFree w rfl)
    | (extract_lets +onlyGivenNames x; clear_value x) | (with_reducible refine setPtp_s ?_ ?_; exact maskFree w rfl)
    | split

theorem execPtpFrameReceive_s {k : Nat} {s t : State} {a0 : _} {a1 : _} (w : k &&& 0x700000000000000000000000000000000000000000000000000000000000000000000000000000000000000000000000000000000000000000000080000000000000 = 0) (h : Same k s t) :
    SameO k s (execPtpFrameReceive a0 a1 t) := by
  unfold execPtpFrameReceive
  repeat' first
    | with_reducible assumption | (with_reducible refine inc_s ?_ ?_; exact bitFree w rfl)
    | (extract_lets +onlyGivenNames x; first | (refine (fun (hx : Same k s x) => ?_) (?_ : Same k s x); all_goals first | (guard_target =ₐ Same k s x; unfold x; clear x) | clear_value x) | clear_value x)
    | (with_reducible refine tcQueue_s ?_ ?_; exact maskFree w rfl)
    | (with_reducible refine setPtp_s ?_ ?_; exact maskFree w rfl) | split | with_reducible refine SameO_next ?_

theorem stepClock_s {k : Nat} {s t : State} {a0 : _} (w : k &&& 0x10000200000000000000000000000000000000000000000000000000000520000000000000000000000000000000000000000000000000000000081000000000000 = 0) (h : Same k s t) :
    Same k s (stepClock a0 t) := by
  unfold stepClock
  repeat' first
    | with_reducible assumption | (with_reducible refine inc_s ?_ ?_; exact bitFree w rfl)
    | (extract_lets +onlyGivenNames x; first | (refine (fun (hx : Same k s x) => ?_) (?_ : Same k s x); all_goals first | (guard_target =ₐ Same k s x; unfold x; clear x) | clear_value x) | clear_value x)
    | (with_reducible refine clockState_s ?_ ?_; exact maskFree w rfl)
    | (with_reducible refine timeRecord_s ?_ ?_; exact maskFree w rfl)
    | (with_reducible refine setPtp_s ?_ ?_; exact maskFree w rfl) | split

theorem steerClock_s {k : Nat} {s t : State} {a0 : _} (w : k &&& 0x300000000000000000000000000000000000000000000000000000000000000000000000000000000000000000000000000000000000000000080000000000000 = 0) (h : Same k s t) :
    Same k s (steerClock a0 t) := by
  unfold steerClock
  repeat' first
    | with_reducible assumption | (with_reducible refine flag_s ?_ ?_; exact bitFree w rfl)
    | (with_reducible refine wr_s ?_ ?_; exact bitFree w rfl)
    | (extract_lets +onlyGivenNames x; first | (refine (fun (hx : Same k s x) => ?_) (?_ : Same k s x); all_goals first | (guard_target =ₐ Same k s x; unfold x; clear x) | clear_value x) | clear_value x)
    | (with_reducible refine setPtp_s ?_ ?_; exact maskFree w rfl) | split

theorem offsetActs_s {k : Nat} {s t : State} {a0 : _} (w : k &&& 0x103C1200000000000000000000000000000000000000000000000000000520000000000000000000000000000000000000000000000000000000081000000000000 = 0) (h : Same k s t) :
    Same k s (offsetActs a0 t) := by
  unfold offsetActs
  repeat' first
    | with_reducible assumption | (with_reducible refine wr_s ?_ ?_; exact bitFree w rfl)
    | (extract_lets +onlyGivenNames x; first | (refine (fun (hx : Same k s x) => ?_) (?_ : Same k s x); all_goals first | (guard_target =ₐ Same k s x; unfold x; clear x) | clear_value x) | clear_value x)
    | (with_reducible refine steerClock_s ?_ ?_; exact maskFree w rfl)
    | (with_reducible refine stepClock_s ?_ ?_; exact maskFree w rfl)
    | (with_reducible refine relockClock_s ?_ ?_; exact maskFree w rfl)
    | (with_reducible refine setPtp_s ?_ ?_; exact maskFree w rfl) | split

theorem syncDone_s {k : Nat} {s t : State} {a0 : _} {a1 : _} {a2 : _} (w : k &&& 0x103C1200000000000000000000000000000000000000000000000000000520000000000000000000000000000000000000000000000000000000081000000000000 = 0) (h : Same k s t) :
    Same k s (syncDone a0 a1 a2 t) := by
  unfold syncDone
  repeat' first
    | with_reducible assumption | (extract_lets +onlyGivenNames x; clear_value x)
    | (with_reducible refine offsetActs_s ?_ ?_; exact maskFree w rfl)
    | (with_reducible refine setPtp_s ?_ ?_; exact maskFree w rfl) | split

theorem takeSync_s {k : Nat} {s t : State} {a0 : _} {a1 : _} {a2 : _} (w : k &&& 0x103C1200000000000000000000000000000000000000000000000000000520000000000000000000000000000000000000000000000000000000081000000000000 = 0) (h : Same k s t) :
    Same k s (takeSync a0 a1 a2 t) := by
  unfold takeSync
  repeat' first
    | with_reducible assumption
    | (extract_lets +onlyGivenNames x; first | (refine (fun (hx : Same k s x) => ?_) (?_ : Same k s x); all_goals first | (guard_target =ₐ Same k s x; unfold x; clear x) | clear_value x) | clear_value x)
    | (with_reducible refine syncDone_s ?_ ?_; exact maskFree w rfl)
    | (with_reducible refine setPtp_s ?_ ?_; exact maskFree w rfl) | split

theorem execPtpSync_s {k : Nat} {s t : State} (w : k &&& 0x103C1200000000000000000000000000000000000000000000000000000520000000000000000000000000000000000000000000000000000000081000000000000 = 0) (h : Same k s t) :
    SameO k s (execPtpSync t) := by
  unfold execPtpSync
  repeat' first
    | with_reducible assumption | (extract_lets +onlyGivenNames x; clear_value x)
    | (with_reducible refine takeSync_s ?_ ?_; exact maskFree w rfl)
    | (with_reducible refine setPtp_s ?_ ?_; exact maskFree w rfl) | split | with_reducible refine SameO_next ?_

theorem waitingSync_s {k : Nat} {s t : State} (w : k &&& 0x103C1200000000000000000000000000000000000000000000000000000520000000000000000000000000000000000000000000000000000000081000000000000 = 0) (h : Same k s t) :
    Same k s (waitingSync t) := by
  unfold waitingSync
  repeat' first
    | with_reducible assumption | (extract_lets +onlyGivenNames x; clear_value x)
    | (with_reducible refine takeSync_s ?_ ?_; exact maskFree w rfl)
    | (with_reducible refine setPtp_s ?_ ?_; exact maskFree w rfl) | split

theorem execPtpFollowUp_s {k : Nat} {s t : State} (w : k &&& 0x103C1200000000000000000000000000000000000000000000000000000520000000000000000000000000000000000000000000000000000000081000000000000 = 0) (h : Same k s t) :
    SameO k s (execPtpFollowUp t) := by
  unfold execPtpFollowUp
  repeat' first
    | with_reducible assumption
    | (extract_lets +onlyGivenNames x; first | (refine (fun (hx : Same k s x) => ?_) (?_ : Same k s x); all_goals first | (guard_target =ₐ Same k s x; unfold x; clear x) | clear_value x) | clear_value x)
    | (with_reducible refine syncDone_s ?_ ?_; exact maskFree w rfl)
    | (with_reducible refine setPtp_s ?_ ?_; exact maskFree w rfl) | split | with_reducible refine SameO_next ?_

theorem execPtpDelayResp_s {k : Nat} {s t : State} (w : k &&& 0x80000000000000000000000000000000000000000000000000000000000000000000000000000000000000000000000000000000000000000080000000000000 = 0) (h : Same k s t) :
    SameO k s (execPtpDelayResp t) := by
  unfold execPtpDelayResp
  repeat' first
    | with_reducible assumption | (with_reducible refine wr_s ?_ ?_; exact bitFree w rfl)
    | (extract_lets +onlyGivenNames x; first | (refine (fun (hx : Same k s x) => ?_) (?_ : Same k s x); all_goals first | (guard_target =ₐ Same k s x; unfold x; clear x) | clear_value x) | clear_value x)
    | (with_reducible refine setPtp_s ?_ ?_; exact maskFree w rfl) | split | with_reducible refine SameO_next ?_

theorem execPtpAnnounce_s {k : Nat} {s t : State} (w : k &&& 0x20000E00000000000000000000000000000000000000000000000000000520000000000000000000000000000000000000000000000000000000081000000000000 = 0) (h : Same k s t) :
    SameO k s (execPtpAnnounce t) := by
  unfold execPtpAnnounce
  repeat' first
    | with_reducible assumption | (extract_lets +onlyGivenNames x; clear_value x)
    | (with_reducible refine selectMaster_s ?_ ?_; exact maskFree w rfl)
    | (with_reducible refine setPtp_s ?_ ?_; exact maskFree w rfl) | split | with_reducible refine SameO_next ?_

theorem execDelayReqSend_s {k : Nat} {s t : State} (w : k &&& 0x100000000000000000000000000000000000000000000000000000000000000000000000000000000000000000000000000000000000000000000080000000000000 = 0) (h : Same k s t) :
    SameO k s (execDelayReqSend t) := by
  unfold execDelayReqSend
  repeat' first
    | with_reducible assumption | (extract_lets +onlyGivenNames x; clear_value x)
    | (with_reducible refine tcQueue_s ?_ ?_; exact maskFree w rfl)
    | (with_reducible refine setPtp_s ?_ ?_; exact maskFree w rfl) | split | with_reducible refine SameO_next ?_

theorem execTcForward_s {k : Nat} {s t : State} {a0 : _} (w : k &&& 0x80000000000000000000000000000000000000000000000000000000000000000000000000000000000000000000000000000000000000000000080000000000000 = 0) (h : Same k s t) :
    SameO k s (execTcForward a0 t) := by
  unfold execTcForward
  repeat' first
    | with_reducible assumption | (with_reducible refine inc_s ?_ ?_; exact bitFree w rfl)
    | (extract_lets +onlyGivenNames x; first | (refine (fun (hx : Same k s x) => ?_) (?_ : Same k s x); all_goals first | (guard_target =ₐ Same k s x; unfold x; clear x) | clear_value x) | clear_value x)
    | (with_reducible refine setPtp_s ?_ ?_; exact maskFree w rfl) | split | with_reducible refine SameO_next ?_

theorem execReceiptTimeout_s {k : Nat} {s t : State} {a0 : _} (w : k &&& 0x60000E00000000000000000000000000000000000000000000000000000520000000000000000000000000000000000000000000000000000000081000000000000 = 0) (h : Same k s t) :
    SameO k s (execReceiptTimeout a0 t) := by
  unfold execReceiptTimeout
  repeat' first
    | with_reducible assumption | (extract_lets +onlyGivenNames x; clear_value x)
    | (with_reducible refine masterLoss_s ?_ ?_; exact maskFree w rfl) | split | with_reducible refine SameO_next ?_

theorem tpDown_s {k : Nat} {s t : State} {a0 : _} (w : k &&& 0x60004E00000000000000000000000000000000000000000000000000000520000000000000000000000000000000000000000000000000000000081000000000000 = 0) (h : Same k s t) :
    Same k s (tpDown a0 t) := by
  unfold tpDown
  repeat' first
    | with_reducible assumption | (with_reducible refine wrBit_s ?_ ?_; exact bitFree w rfl)
    | (extract_lets +onlyGivenNames x; first | (refine (fun (hx : Same k s x) => ?_) (?_ : Same k s x); all_goals first | (guard_target =ₐ Same k s x; unfold x; clear x) | clear_value x) | clear_value x)
    | (with_reducible refine masterLoss_s ?_ ?_; exact maskFree w rfl)
    | (with_reducible refine setPtp_s ?_ ?_; exact maskFree w rfl) | split

theorem execTpLinkChange_s {k : Nat} {s t : State} {a0 : _} {a1 : _} (w : k &&& 0x60004E00000000000000000000000000000000000000000000000000000520000000000000000000000000000000000000000000000000000000081000000000000 = 0) (h : Same k s t) :
    SameO k s (execTpLinkChange a0 a1 t) := by
  unfold execTpLinkChange
  repeat' first
    | with_reducible assumption | (with_reducible refine wrBit_s ?_ ?_; exact bitFree w rfl)
    | (with_reducible refine tpDown_s ?_ ?_; exact maskFree w rfl) | split | with_reducible refine SameO_next ?_

theorem execPpsEdge_s {k : Nat} {s t : State} (w : k &&& 0x520000000000000000000000000000000000000000000000000000000081000000000000 = 0) (h : Same k s t) :
    SameO k s (execPpsEdge t) := by
  unfold execPpsEdge
  repeat' first
    | with_reducible assumption
    | (extract_lets +onlyGivenNames x; first | (refine (fun (hx : Same k s x) => ?_) (?_ : Same k s x); all_goals first | (guard_target =ₐ Same k s x; unfold x; clear x) | clear_value x) | clear_value x)
    | (with_reducible refine timeRecord_s ?_ ?_; exact maskFree w rfl)
    | (with_reducible refine setPtp_s ?_ ?_; exact maskFree w rfl) | split | with_reducible refine SameO_next ?_

theorem execPpsEnd_s {k : Nat} {s t : State} (w : k &&& 0x80000000000000 = 0) (h : Same k s t) :
    SameO k s (execPpsEnd t) := by
  unfold execPpsEnd
  repeat' first
    | with_reducible assumption | (extract_lets +onlyGivenNames x; clear_value x)
    | (with_reducible refine setPtp_s ?_ ?_; exact maskFree w rfl) | split | with_reducible refine SameO_next ?_

theorem relock_s {k : Nat} {s t : State} (w : k &&& 0x103C1200000000000000000000000000000000000000000000000000000520000000000000000000000000000000000000000000000000000000081000000000000 = 0) (h : Same k s t) :
    Same k s (relock t) := by
  unfold relock
  repeat' first
    | with_reducible assumption
    | (extract_lets +onlyGivenNames x; first | (refine (fun (hx : Same k s x) => ?_) (?_ : Same k s x); all_goals first | (guard_target =ₐ Same k s x; unfold x; clear x) | clear_value x) | clear_value x)
    | (with_reducible refine waitingSync_s ?_ ?_; exact maskFree w rfl)
    | (with_reducible refine clockState_s ?_ ?_; exact maskFree w rfl)
    | (with_reducible refine setPtp_s ?_ ?_; exact maskFree w rfl) | split

/-! ### Stream -/

theorem execRecordArrival_s {k : Nat} {s t : State} {a0 : _} (w : k &&& 0x800000000000000000000000000000000000000000000000000000000000C00000000000 = 0) (h : Same k s t) :
    SameO k s (execRecordArrival a0 t) := by
  unfold execRecordArrival
  repeat' first
    | with_reducible assumption | (with_reducible refine inc_s ?_ ?_; exact bitFree w rfl)
    | (with_reducible refine Same_crossings (by with_reducible assumption) ?_; exact maskFree w rfl)
    | (extract_lets +onlyGivenNames x; first | (refine (fun (hx : Same k s x) => ?_) (?_ : Same k s x); all_goals first | (guard_target =ₐ Same k s x; unfold x; clear x) | clear_value x) | clear_value x)
    | (with_reducible refine settleRecord_s ?_ ?_; exact maskFree w rfl)
    | (with_reducible refine rsset_s ?_ ?_; exact maskFree w rfl) | split | with_reducible refine SameO_next ?_

theorem execSetComplete_s {k : Nat} {s t : State} {a0 : _} (w : k &&& 0x720000000000000000000000000000000000000000000000000000000001800000000000 = 0) (h : Same k s t) :
    SameO k s (execSetComplete a0 t) := by
  unfold execSetComplete
  repeat' first
    | with_reducible assumption | (with_reducible refine incBy_s ?_ ?_; exact bitFree w rfl)
    | (extract_lets +onlyGivenNames x; first | (refine (fun (hx : Same k s x) => ?_) (?_ : Same k s x); all_goals first | (guard_target =ₐ Same k s x; unfold x; clear x) | clear_value x) | clear_value x)
    | (with_reducible refine loseShot_s ?_ ?_; exact maskFree w rfl)
    | (with_reducible refine putRecords_s ?_ ?_; exact maskFree w rfl)
    | (with_reducible refine rsset_s ?_ ?_; exact maskFree w rfl) | (with_reducible refine Same_foldl ?_ ?_; intro _ _ _)
    | split | with_reducible refine SameO_next ?_

theorem ringWord_s {k : Nat} {s t : State} {a0 : _} {a1 : _} (w : k &&& 0x180000000000000000000000000000000000000000000000000000000000000000000000000000000000000000000000002000000 = 0) (h : Same k s t) :
    Same k s (ringWord a0 a1 t) := by
  unfold ringWord
  repeat' first
    | with_reducible assumption | (with_reducible refine inc_s ?_ ?_; exact bitFree w rfl)
    | (with_reducible refine wr_s ?_ ?_; exact bitFree w rfl)
    | (with_reducible refine Same_dram (by with_reducible assumption) ?_ ?_; exact maskFree w rfl; rfl)
    | (extract_lets +onlyGivenNames x; first | (refine (fun (hx : Same k s x) => ?_) (?_ : Same k s x); all_goals first | (guard_target =ₐ Same k s x; unfold x; clear x) | clear_value x) | (have _ : (x : Dram) = x := rfl; subst x) | clear_value x)
    | split

theorem ringCopy_s {k : Nat} {s t : State} {a0 : _} (w : k &&& 0x192000000000000000000000000000000000000000000000000000000000000000000000000000000000000000000000002000000 = 0) (h : Same k s t) :
    Same k s (ringCopy a0 t) := by
  unfold ringCopy
  repeat' first
    | with_reducible assumption | (with_reducible refine inc_s ?_ ?_; exact bitFree w rfl)
    | (extract_lets +onlyGivenNames x; clear_value x) | (with_reducible refine ringWord_s ?_ ?_; exact maskFree w rfl)
    | (with_reducible refine setLevel_s ?_ ?_; exact maskFree w rfl)
    | (with_reducible refine Same_foldl ?_ ?_; intro _ _ _) | split

theorem recordSent_s {k : Nat} {s t : State} {a0 : _} (w : k &&& 0x192000000000000000000000000000000080000000000000000000000000000000000000000000000000000000000000002000000 = 0) (h : Same k s t) :
    Same k s (recordSent a0 t) := by
  unfold recordSent
  repeat' first
    | with_reducible assumption | (with_reducible refine incWrap_s ?_ ?_; exact bitFree w rfl)
    | (with_reducible refine ringCopy_s ?_ ?_; exact maskFree w rfl) | split

theorem vcset_s {k : Nat} {s t : State} {a0 : _} {a1 : _} (w : k &&& 0x200000000000000 = 0) (h : Same k s t) :
    Same k s (vcset a0 a1 t) := by
  unfold vcset
  repeat' first
    | with_reducible assumption | (with_reducible refine Same_hl (by with_reducible assumption) ?_; exact maskFree w rfl)
    | (extract_lets +onlyGivenNames x; clear_value x) | split

theorem settleClose_s {k : Nat} {s t : State} (w : k &&& 0x1000000000000 = 0) (h : Same k s t) :
    Same k s (settleClose t) := by
  unfold settleClose
  repeat' first
    | with_reducible assumption
    | (with_reducible refine Same_stream (by with_reducible assumption) ?_; exact maskFree w rfl)
    | (extract_lets +onlyGivenNames x; clear_value x) | split

theorem execStreamPacketSend_s {k : Nat} {s t : State} (w : k &&& 0x192000000000000120A7F800000000000080000000000000000000000000000000000000000000000000000000201000002004040 = 0) (h : Same k s t) :
    SameO k s (execStreamPacketSend t) := by
  unfold execStreamPacketSend
  repeat' first
    | with_reducible assumption
    | (with_reducible refine Same_stream (by with_reducible assumption) ?_; exact maskFree w rfl)
    | (extract_lets +onlyGivenNames x; first | (refine (fun (hx : Same k s x) => ?_) (?_ : Same k s x); all_goals first | (guard_target =ₐ Same k s x; unfold x; clear x) | clear_value x) | clear_value x)
    | (with_reducible refine settleClose_s ?_ ?_; exact maskFree w rfl)
    | (with_reducible refine vcset_s ?_ ?_; exact maskFree w rfl)
    | (with_reducible refine recordSent_s ?_ ?_; exact maskFree w rfl)
    | (with_reducible refine writePacket_s ?_ ?_; exact maskFree w rfl)
    | (with_reducible refine Same_foldl ?_ ?_; intro _ _ _) | split | with_reducible refine SameO_next ?_

theorem execRecordToQueue_s {k : Nat} {s t : State} (w : k &&& 0x192000000000000120A7F800000000000080000000000000000000000000000000000000000000000000000000001000002004040 = 0) (h : Same k s t) :
    SameO k s (execRecordToQueue t) := by
  unfold execRecordToQueue
  repeat' first
    | with_reducible assumption
    | (with_reducible refine Same_stream (by with_reducible assumption) ?_; exact maskFree w rfl)
    | (extract_lets +onlyGivenNames x; first | (refine (fun (hx : Same k s x) => ?_) (?_ : Same k s x); all_goals first | (guard_target =ₐ Same k s x; unfold x; clear x) | clear_value x) | clear_value x)
    | (with_reducible refine settleClose_s ?_ ?_; exact maskFree w rfl)
    | (with_reducible refine recordSent_s ?_ ?_; exact maskFree w rfl)
    | (with_reducible refine writePacket_s ?_ ?_; exact maskFree w rfl) | split | with_reducible refine SameO_next ?_

theorem closeStream_s {k : Nat} {s t : State} {a0 : _} (w : k &&& 0x404000000000000000000000000000000000000000000000000000000001000000000000 = 0) (h : Same k s t) :
    Same k s (closeStream a0 t) := by
  unfold closeStream
  repeat' first
    | with_reducible assumption | (with_reducible refine incBy_s ?_ ?_; exact bitFree w rfl)
    | (with_reducible refine wr_s ?_ ?_; exact bitFree w rfl)
    | (with_reducible refine Same_stream (by with_reducible assumption) ?_; exact maskFree w rfl)
    | (extract_lets +onlyGivenNames x; first | (refine (fun (hx : Same k s x) => ?_) (?_ : Same k s x); all_goals first | (guard_target =ₐ Same k s x; unfold x; clear x) | clear_value x) | clear_value x)
    | split

theorem openStream_s {k : Nat} {s t : State} {a0 : _} (w : k &&& 0x80000000000000000000000000000000524000000000000000000000000000000000000000000000000000000001000000000000 = 0) (h : Same k s t) :
    SameA k s (openStream a0 t) := by
  unfold openStream
  repeat' first
    | with_reducible assumption | (with_reducible refine wr_s ?_ ?_; exact bitFree w rfl)
    | (with_reducible refine Same_stream (by with_reducible assumption) ?_; exact maskFree w rfl)
    | (extract_lets +onlyGivenNames x; first | (refine (fun (hx : Same k s x) => ?_) (?_ : Same k s x); all_goals first | (guard_target =ₐ Same k s x; unfold x; clear x) | clear_value x) | clear_value x)
    | (with_reducible refine timeRecord_s ?_ ?_; exact maskFree w rfl) | split | with_reducible refine SameA_ok ?_
    | with_reducible exact SameA_err

/-! ### Links -/

theorem lnset_s {k : Nat} {s t : State} {a0 : _} {a1 : _} (w : k &&& 0x100000000000000 = 0) (h : Same k s t) :
    Same k s (lnset a0 a1 t) := by
  unfold lnset
  repeat' first
    | with_reducible assumption
    | (with_reducible refine Same_lanes (by with_reducible assumption) ?_; exact maskFree w rfl) | split

theorem vpset_s {k : Nat} {s t : State} {a0 : _} {a1 : _} (w : k &&& 0x400000000000000 = 0) (h : Same k s t) :
    Same k s (vpset a0 a1 t) := by
  unfold vpset
  repeat' first
    | with_reducible assumption
    | (with_reducible refine Same_vports (by with_reducible assumption) ?_; exact maskFree w rfl) | split

theorem laneSilent_s {k : Nat} {s t : State} {a0 : _} (w : k &&& 0x47E000000000000000000000000000000000000000000000240000000000000000120A7F800000000000000000000000000000000000000000000000000000000000000000000100000000804040 = 0) (h : Same k s t) :
    Same k s (laneSilent a0 t) := by
  unfold laneSilent
  repeat' first
    | with_reducible assumption | (with_reducible refine inc_s ?_ ?_; exact bitFree w rfl)
    | (with_reducible refine wr_s ?_ ?_; exact bitFree w rfl)
    | (extract_lets +onlyGivenNames x; first | (refine (fun (hx : Same k s x) => ?_) (?_ : Same k s x); all_goals first | (guard_target =ₐ Same k s x; unfold x; clear x) | clear_value x) | clear_value x)
    | (with_reducible refine lnset_s ?_ ?_; exact maskFree w rfl)
    | (with_reducible refine logFault_s ?_ ?_; exact maskFree w rfl) | split

theorem discardPort_s {k : Nat} {s t : State} {a0 : _} (w : k &&& 0x47E000000000000000000000000000000000000010000000000000000000000000120E7F8000000000000000000000000000000000000000000000000000000000000000000000000000008040C0 = 0) (h : Same k s t) :
    Same k s (discardPort a0 t) := by
  unfold discardPort
  repeat' first
    | with_reducible assumption | (with_reducible refine incBy_s ?_ ?_; exact bitFree w rfl)
    | (extract_lets +onlyGivenNames x; first | (refine (fun (hx : Same k s x) => ?_) (?_ : Same k s x); all_goals first | (guard_target =ₐ Same k s x; unfold x; clear x) | clear_value x) | clear_value x)
    | (with_reducible refine logFault_s ?_ ?_; exact maskFree w rfl)
    | (with_reducible refine abandonQueue_s ?_ ?_; exact maskFree w rfl) | split

theorem settlePort_s {k : Nat} {s t : State} {a0 : _} (w : k &&& 0x47E000000000000000000000000000000000000010800000000000000000000000120E7F8000000000000000000000000000000000000000000000000000000000000000000004000000008040C0 = 0) (h : Same k s t) :
    Same k s (settlePort a0 t) := by
  unfold settlePort
  repeat' first
    | with_reducible assumption | (with_reducible refine wr_s ?_ ?_; exact bitFree w rfl)
    | (extract_lets +onlyGivenNames x; first | (refine (fun (hx : Same k s x) => ?_) (?_ : Same k s x); all_goals first | (guard_target =ₐ Same k s x; unfold x; clear x) | clear_value x) | clear_value x)
    | (with_reducible refine discardPort_s ?_ ?_; exact maskFree w rfl)
    | (with_reducible refine vpset_s ?_ ?_; exact maskFree w rfl) | split

theorem closeTransfer_s {k : Nat} {s t : State} {a0 : _} {a1 : _} (w : k &&& 0x400000000000000000000000000000000000000000000000000000000000000000000000000000000000000000000000000000000000000000040C0000 = 0) (h : Same k s t) :
    Same k s (closeTransfer a0 a1 t) := by
  unfold closeTransfer
  repeat' first
    | with_reducible assumption | (with_reducible refine inc_s ?_ ?_; exact bitFree w rfl)
    | (extract_lets +onlyGivenNames x; first | (refine (fun (hx : Same k s x) => ?_) (?_ : Same k s x); all_goals first | (guard_target =ₐ Same k s x; unfold x; clear x) | clear_value x) | clear_value x)
    | (with_reducible refine dropWrite_s ?_ ?_; exact maskFree w rfl)
    | (with_reducible refine setPath_s ?_ ?_; exact maskFree w rfl) | split

theorem mget_filter_of {β : Type} (d : β) (f : Nat × β → Bool) (m : SMap β) (x : Nat) (h : ∀ b, f (x, b) = true) :
    mget d (m.filter f) x = mget d m x := by
  induction m with
  | nil => rfl
  | cons e m ih =>
    obtain ⟨y, b⟩ := e
    by_cases e : y = x
    · subst e; simp [List.filter_cons, h, mget]
    · by_cases g : f (y, b) = true
      · simp [List.filter_cons, g, mget, e, ih]
      · simp [List.filter_cons, g, mget, e, ih]

theorem selBit (r : Reg) (h : r.isSelector = true) : Nat.testBit 0x801000080000000004000400000000000000001000200000020000200040000410400000008000010004000000000028000000000000000000200000400020000000400000000000000000000000 (63 + r.ctorIdx) = true := by
  cases r <;> first | rfl | cases h

theorem clearSelectors_s {k : Nat} {s t : State} {p : Nat} (w : k &&& 0x801000080000000004000400000000000000001000200000020000200040000410400000008000010004000000000028000000000000000000200000400020000000400000000000000000000000 = 0) (h : Same k s t) : Same k s (clearSelectors p t) := by
  refine h.trans ?_
  constructor
  case regs =>
    intro r i b
    unfold rd clearSelectors
    refine mget_filter_of _ _ _ _ fun v => ?_
    have hr : r.isSelector = false := by
      cases e : r.isSelector with
      | false => rfl
      | true => rw [bitFree w (selBit r e)] at b; cases b
    have hk : key r i % 1024 = r.ctorIdx := by
      have := r.ctorIdx_lt
      unfold key; omega
    simp only [hk, Bool.not_eq_true', Bool.and_eq_false_imp]
    intro _
    rw [List.any_eq_false]
    intro x _ hx
    simp only [Bool.and_eq_true, decide_eq_true_eq] at hx
    rw [Reg.ctorIdx_inj hx.2] at hx
    rw [hr] at hx
    cases hx.1
  all_goals exact fun _ => rfl

theorem loseStream_s {k : Nat} {s t : State} (w : k &&& 0x1404000000000000000000000000000000000000000000000000000000001000000000000 = 0) (h : Same k s t) :
    Same k s (loseStream t) := by
  unfold loseStream
  repeat' first
    | with_reducible assumption | (with_reducible refine flag_s ?_ ?_; exact bitFree w rfl)
    | (with_reducible refine inc_s ?_ ?_; exact bitFree w rfl)
    | (with_reducible refine Same_stream (by with_reducible assumption) ?_; exact maskFree w rfl)
    | (extract_lets +onlyGivenNames x; first | (refine (fun (hx : Same k s x) => ?_) (?_ : Same k s x); all_goals first | (guard_target =ₐ Same k s x; unfold x; clear x) | clear_value x) | clear_value x)
    | (with_reducible refine closeStream_s ?_ ?_; exact maskFree w rfl) | split

theorem hostDown_s {k : Nat} {s t : State} {a0 : _} (w : k &&& 0xC7F000080000000004000400000000000040001000200018260000200040000410520E7F8080000100054040000000280000000000000000002000004000200000004000000003010000048C40C0 = 0) (h : Same k s t) :
    Same k s (hostDown a0 t) := by
  unfold hostDown
  repeat' first
    | with_reducible assumption | (with_reducible refine wr_s ?_ ?_; exact bitFree w rfl)
    | (with_reducible refine Same_hl (by with_reducible assumption) ?_; exact maskFree w rfl)
    | (extract_lets +onlyGivenNames x; first | (refine (fun (hx : Same k s x) => ?_) (?_ : Same k s x); all_goals first | (guard_target =ₐ Same k s x; unfold x; clear x) | clear_value x) | clear_value x)
    | (with_reducible refine loseStream_s ?_ ?_; exact maskFree w rfl)
    | (with_reducible refine clearSelectors_s ?_ ?_; exact maskFree w rfl)
    | (with_reducible refine closeTransfer_s ?_ ?_; exact maskFree w rfl)
    | (with_reducible refine laneSilent_s ?_ ?_; exact maskFree w rfl)
    | (with_reducible refine logFault_s ?_ ?_; exact maskFree w rfl)
    | (with_reducible refine abandonQueue_s ?_ ?_; exact maskFree w rfl)
    | (with_reducible refine Same_foldl ?_ ?_; intro _ _ _) | split

theorem settleHost_s {k : Nat} {s t : State} (w : k &&& 0x18000000000000000000000000000000000000000000000000000000000000000000000000000000000000000000000300000000000000 = 0) (h : Same k s t) :
    Same k s (settleHost t) := by
  unfold settleHost
  repeat' first
    | with_reducible assumption | (with_reducible refine wr_s ?_ ?_; exact bitFree w rfl)
    | (with_reducible refine Same_hl (by with_reducible assumption) ?_; exact maskFree w rfl)
    | (extract_lets +onlyGivenNames x; first | (refine (fun (hx : Same k s x) => ?_) (?_ : Same k s x); all_goals first | (guard_target =ₐ Same k s x; unfold x; clear x) | clear_value x) | clear_value x)
    | (with_reducible refine lnset_s ?_ ?_; exact maskFree w rfl) | (with_reducible refine Same_foldl ?_ ?_; intro _ _ _)
    | split

theorem settleLane_s {k : Nat} {s t : State} {a0 : _} (w : k &&& 0xC7F000080000000004000400000000000040001010A00018260000200040000410520E7F8080000100054040000000280000000000000000002000004000200000004000000007010000048C40C0 = 0) (h : Same k s t) :
    Same k s (settleLane a0 t) := by
  unfold settleLane
  repeat' first
    | with_reducible assumption | (with_reducible refine settleHost_s ?_ ?_; exact maskFree w rfl)
    | (with_reducible refine hostDown_s ?_ ?_; exact maskFree w rfl)
    | (with_reducible refine settlePort_s ?_ ?_; exact maskFree w rfl) | split

theorem laneDown_s {k : Nat} {s t : State} {a0 : _} (w : k &&& 0xC7F000080000000004000400000000000040001010A00018260000200040000410520E7F8080000100054040000000280000000000000000002000004000200000004000000007010000048C40C0 = 0) (h : Same k s t) :
    Same k s (laneDown a0 t) := by
  unfold laneDown
  repeat' first
    | with_reducible assumption | (with_reducible refine settleLane_s ?_ ?_; exact maskFree w rfl)
    | (with_reducible refine laneSilent_s ?_ ?_; exact maskFree w rfl) | split

theorem settleLanes_s {k : Nat} {s t : State} (w : k &&& 0xC7F000080000000004000400000000000040001010A00018260000200040000410520E7F8080000100054040000000280000000000000000002000004000200000004000000007010000048C40C0 = 0) (h : Same k s t) :
    Same k s (settleLanes t) := by
  unfold settleLanes
  repeat' first
    | with_reducible assumption | (with_reducible refine laneDown_s ?_ ?_; exact maskFree w rfl)
    | (with_reducible refine Same_foldl ?_ ?_; intro _ _ _) | split

theorem execLossOfSignal_s {k : Nat} {s t : State} {a0 : _} (w : k &&& 0xC7F000080000000004000400000000000040001010A000182E0000200040000410520E7F8080000100054040000000280000000000000000002000004000200000004000000007010000048C40C0 = 0) (h : Same k s t) :
    SameO k s (execLossOfSignal a0 t) := by
  unfold execLossOfSignal
  repeat' first
    | with_reducible assumption | (with_reducible refine flag_s ?_ ?_; exact bitFree w rfl)
    | (with_reducible refine laneDown_s ?_ ?_; exact maskFree w rfl) | split | with_reducible refine SameO_next ?_

theorem loseLock_s {k : Nat} {s t : State} {a0 : _} (w : k &&& 0xC7F000080000000004000400000000000040001010A00018360000200040000410520E7F8080000100054040000000280000000000000000002000004000200000004000000007010000048C40C0 = 0) (h : Same k s t) :
    Same k s (loseLock a0 t) := by
  unfold loseLock
  repeat' first
    | with_reducible assumption | (with_reducible refine flag_s ?_ ?_; exact bitFree w rfl)
    | (with_reducible refine laneDown_s ?_ ?_; exact maskFree w rfl) | split

theorem execLossOfLock_s {k : Nat} {s t : State} {a0 : _} (w : k &&& 0xC7F000080000000004000400000000000040001010A00018360000200040000410520E7F8080000100054040000000280000000000000000002000004000200000004000000007010000048C40C0 = 0) (h : Same k s t) :
    SameO k s (execLossOfLock a0 t) := by
  unfold execLossOfLock
  repeat' first
    | with_reducible assumption | (with_reducible refine loseLock_s ?_ ?_; exact maskFree w rfl) | split
    | with_reducible refine SameO_next ?_

theorem execPpmMeasure_s {k : Nat} {s t : State} {a0 : _} {a1 : _} (w : k &&& 0x4000000000000000000000000000000000000000000000000000000000000000000000000000000000000000000000100000000000000 = 0) (h : Same k s t) :
    SameO k s (execPpmMeasure a0 a1 t) := by
  unfold execPpmMeasure
  repeat' first
    | with_reducible assumption | (with_reducible refine wr_s ?_ ?_; exact bitFree w rfl)
    | (extract_lets +onlyGivenNames x; clear_value x) | (with_reducible refine lnset_s ?_ ?_; exact maskFree w rfl)
    | split | with_reducible refine SameO_next ?_

theorem hostRetrain_s {k : Nat} {s t : State} (w : k &&& 0xC7F000080000000004000400000000000040001000208018260000200040000410520E7F8080000100054040000000280000000000000000002000004000200000004000000003010000048C40C0 = 0) (h : Same k s t) :
    Same k s (hostRetrain t) := by
  unfold hostRetrain
  repeat' first
    | with_reducible assumption | (with_reducible refine inc_s ?_ ?_; exact bitFree w rfl)
    | (with_reducible refine hostDown_s ?_ ?_; exact maskFree w rfl) | split

theorem retrainLink_s {k : Nat} {s t : State} (w : k &&& 0xC7F000080000000004000400000000000040001000200018260000200040000410520E7F8080000100054040000000280000000000000000002000004000200000004000000003010000048C40C0 = 0) (h : Same k s t) :
    Same k s (retrainLink t) := by
  unfold retrainLink
  repeat' first
    | with_reducible assumption | (with_reducible refine hostDown_s ?_ ?_; exact maskFree w rfl) | split

theorem portRetrain_s {k : Nat} {s t : State} {a0 : _} (w : k &&& 0x47E000000000000000000000000000000000000014800000240000000000000000120E7F8000000000000000000000000000000000000000000000000000000000000000000005000000008040C0 = 0) (h : Same k s t) :
    Same k s (portRetrain a0 t) := by
  unfold portRetrain
  repeat' first
    | with_reducible assumption | (with_reducible refine inc_s ?_ ?_; exact bitFree w rfl)
    | (extract_lets +onlyGivenNames x; (refine (fun (hx : Same k s x) => ?_) (?_ : Same k s x); all_goals first | (guard_target =ₐ Same k s x; unfold x; clear x) | clear_value x))
    | (with_reducible refine settlePort_s ?_ ?_; exact maskFree w rfl)
    | (with_reducible refine laneSilent_s ?_ ?_; exact maskFree w rfl)
    | (with_reducible refine logFault_s ?_ ?_; exact maskFree w rfl) | split

theorem enablePort_s {k : Nat} {s t : State} {a0 : _} {a1 : _} (w : k &&& 0xC7F000080000000004000400000000000040001010E00018260000200040000410520E7F8080000100054040000000280000000000000000002000004000200000004000000007010000048C40C0 = 0) (h : Same k s t) :
    Same k s (enablePort a0 a1 t) := by
  unfold enablePort
  repeat' first
    | with_reducible assumption | (with_reducible refine wr_s ?_ ?_; exact bitFree w rfl)
    | (extract_lets +onlyGivenNames x; (refine (fun (hx : Same k s x) => ?_) (?_ : Same k s x); all_goals first | (guard_target =ₐ Same k s x; unfold x; clear x) | clear_value x))
    | (with_reducible refine settleLanes_s ?_ ?_; exact maskFree w rfl)
    | (with_reducible refine discardPort_s ?_ ?_; exact maskFree w rfl) | split

theorem sendCtl_s {k : Nat} {s t : State} {a0 : _} (w : k &&& 0x120A7F800000000000000000000000000000000000000000000000000000000000000000000000000000004040 = 0) (h : Same k s t) :
    Same k s (sendCtl a0 t) := by
  unfold sendCtl
  repeat' first
    | with_reducible assumption | (with_reducible refine writeWord_s ?_ ?_; exact maskFree w rfl) | split

theorem sendNak_s {k : Nat} {s t : State} {a0 : _} {a1 : _} (w : k &&& 0x800000000000000000000120A7F800000000000000000000000000000000000000000000000000000000000000000000200000000004040 = 0) (h : Same k s t) :
    Same k s (sendNak a0 a1 t) := by
  unfold sendNak
  repeat' first
    | with_reducible assumption | (with_reducible refine inc_s ?_ ?_; exact bitFree w rfl)
    | (extract_lets +onlyGivenNames x; first | (refine (fun (hx : Same k s x) => ?_) (?_ : Same k s x); all_goals first | (guard_target =ₐ Same k s x; unfold x; clear x) | clear_value x) | clear_value x)
    | (with_reducible refine sendCtl_s ?_ ?_; exact maskFree w rfl)
    | (with_reducible refine vcset_s ?_ ?_; exact maskFree w rfl) | split

theorem hostViol_s {k : Nat} {s t : State} {a0 : _} {a1 : _} {a2 : _} {a3 : _} (w : k &&& 0xC7F00008000000000400040000000000004000100020E818260000200040000410520E7F8080000100054040000000280000000000000000002000004000200000004000000003010000048C40C0 = 0) (h : Same k s t) :
    Same k s (hostViol a0 a1 a2 a3 t) := by
  unfold hostViol
  repeat' first
    | with_reducible assumption | (with_reducible refine inc_s ?_ ?_; exact bitFree w rfl)
    | (with_reducible refine wr_s ?_ ?_; exact bitFree w rfl)
    | (with_reducible refine Same_hl (by with_reducible assumption) ?_; exact maskFree w rfl)
    | (extract_lets +onlyGivenNames x; first | (refine (fun (hx : Same k s x) => ?_) (?_ : Same k s x); all_goals first | (guard_target =ₐ Same k s x; unfold x; clear x) | clear_value x) | clear_value x)
    | (with_reducible refine sendNak_s ?_ ?_; exact maskFree w rfl)
    | (with_reducible refine hostRetrain_s ?_ ?_; exact maskFree w rfl)
    | (with_reducible refine logFault_s ?_ ?_; exact maskFree w rfl) | split

theorem portViol_s {k : Nat} {s t : State} {a0 : _} {a1 : _} {a2 : _} (w : k &&& 0x47E000000000000000000000000000000000000016804000240000000000000000120E7F8000000000000000000000000000000000000000000000000000000000000000000005000000008040C0 = 0) (h : Same k s t) :
    Same k s (portViol a0 a1 a2 t) := by
  unfold portViol
  repeat' first
    | with_reducible assumption | (with_reducible refine inc_s ?_ ?_; exact bitFree w rfl)
    | (with_reducible refine wr_s ?_ ?_; exact bitFree w rfl)
    | (extract_lets +onlyGivenNames x; first | (refine (fun (hx : Same k s x) => ?_) (?_ : Same k s x); all_goals first | (guard_target =ₐ Same k s x; unfold x; clear x) | clear_value x) | clear_value x)
    | (with_reducible refine portRetrain_s ?_ ?_; exact maskFree w rfl)
    | (with_reducible refine vpset_s ?_ ?_; exact maskFree w rfl)
    | (with_reducible refine lnset_s ?_ ?_; exact maskFree w rfl) | split

/-! ### HostPackets -/

theorem hlset_s {k : Nat} {s t : State} {a0 : _} (w : k &&& 0x200000000000000 = 0) (h : Same k s t) :
    Same k s (hlset a0 t) := by
  unfold hlset
  repeat' first
    | with_reducible assumption | (with_reducible refine Same_hl (by with_reducible assumption) ?_; exact maskFree w rfl)
    | split

theorem closePacket_s {k : Nat} {s t : State} {a0 : _} (w : k &&& 0x200000000000000 = 0) (h : Same k s t) :
    Same k s (closePacket a0 t) := by
  unfold closePacket
  repeat' first
    | with_reducible assumption | (extract_lets +onlyGivenNames x; clear_value x)
    | (with_reducible refine hlset_s ?_ ?_; exact maskFree w rfl) | split

theorem openPacket_s {k : Nat} {s t : State} {a0 : _} {a1 : _} {a2 : _} {a3 : _} (w : k &&& 0x200000000000000 = 0) (h : Same k s t) :
    Same k s (openPacket a0 a1 a2 a3 t) := by
  unfold openPacket
  repeat' first
    | with_reducible assumption | (extract_lets +onlyGivenNames x; clear_value x)
    | (with_reducible refine closePacket_s ?_ ?_; exact maskFree w rfl)
    | (with_reducible refine hlset_s ?_ ?_; exact maskFree w rfl) | split

theorem takeCtl_s {k : Nat} {s t : State} {a0 : _} {a1 : _} {a2 : _} {a3 : _} (w : k &&& 0xC7F00008000000000400040000000000004000100020E818260000200040000410520E7F8080000100054040000000280000000000000000002000004000200000004000000003010000048C40C0 = 0) (h : Same k s t) :
    Same k s (takeCtl a0 a1 a2 a3 t) := by
  unfold takeCtl
  repeat' first
    | with_reducible assumption | (extract_lets +onlyGivenNames x; clear_value x)
    | (with_reducible refine hlset_s ?_ ?_; exact maskFree w rfl)
    | (with_reducible refine hostViol_s ?_ ?_; exact maskFree w rfl) | split

theorem payloadBlock_s {k : Nat} {s t : State} {a0 : _} {a1 : _} {a2 : _} (w : k &&& 0x200000000000000 = 0) (h : Same k s t) :
    Same k s (payloadBlock a0 a1 a2 t) := by
  unfold payloadBlock
  repeat' first
    | with_reducible assumption | (extract_lets +onlyGivenNames x; clear_value x)
    | (with_reducible refine closePacket_s ?_ ?_; exact maskFree w rfl)
    | (with_reducible refine hlset_s ?_ ?_; exact maskFree w rfl) | split

theorem dropOpen_s {k : Nat} {s t : State} {a0 : _} (w : k &&& 0xC7F00008000000000400040000000000004000100020E818260000200040000410520E7F8080000100054040000000280000000000000000002000004000200000004000000003010000048C40C0 = 0) (h : Same k s t) :
    Same k s (dropOpen a0 t) := by
  unfold dropOpen
  repeat' first
    | with_reducible assumption
    | (extract_lets +onlyGivenNames x; first | (refine (fun (hx : Same k s x) => ?_) (?_ : Same k s x); all_goals first | (guard_target =ₐ Same k s x; unfold x; clear x) | clear_value x) | clear_value x)
    | (with_reducible refine hlset_s ?_ ?_; exact maskFree w rfl)
    | (with_reducible refine hostViol_s ?_ ?_; exact maskFree w rfl) | split

theorem dataBlock_s {k : Nat} {s t : State} {a0 : _} {a1 : _} (w : k &&& 0xC7F00008000000000400040000000000004000100020E818260000200040000410520E7F8080000100054040000000280000000000000000002000004000200000004000000003010000048C40C0 = 0) (h : Same k s t) :
    Same k s (dataBlock a0 a1 t) := by
  unfold dataBlock
  repeat' first
    | with_reducible assumption
    | (extract_lets +onlyGivenNames x; first | (refine (fun (hx : Same k s x) => ?_) (?_ : Same k s x); all_goals first | (guard_target =ₐ Same k s x; unfold x; clear x) | clear_value x) | (refine (fun (hf1 : ∀ u, Same k s u → Same k s (x u)) => ?_) (?_ : ∀ u, Same k s u → Same k s (x u)); all_goals first | (guard_target =ₐ ∀ u, Same k s u → Same k s (x u); unfold x; clear x; intro _ _) | clear_value x) | clear_value x)
    | with_reducible refine hf1 _ ?_ | (with_reducible refine dropOpen_s ?_ ?_; exact maskFree w rfl)
    | (with_reducible refine payloadBlock_s ?_ ?_; exact maskFree w rfl)
    | (with_reducible refine takeCtl_s ?_ ?_; exact maskFree w rfl)
    | (with_reducible refine openPacket_s ?_ ?_; exact maskFree w rfl)
    | (with_reducible refine hostViol_s ?_ ?_; exact maskFree w rfl) | split

theorem controlBlock_s {k : Nat} {s t : State} {a0 : _} (w : k &&& 0xC7F00008000000000400040000000000004000100020E818260000200040000410520E7F8080000100054040000000280000000000000000002000004000200000004000000003010000048C40C0 = 0) (h : Same k s t) :
    Same k s (controlBlock a0 t) := by
  unfold controlBlock
  repeat' first
    | with_reducible assumption | (extract_lets +onlyGivenNames x; clear_value x)
    | (with_reducible refine hlset_s ?_ ?_; exact maskFree w rfl)
    | (with_reducible refine hostViol_s ?_ ?_; exact maskFree w rfl) | split

theorem linkBlock_s {k : Nat} {s t : State} {a0 : _} (w : k &&& 0xC7F00008000000000400040000000000004000100020E818260000200040000410520E7F8080000100054040000000280000000000000000002000004000200000004000000003010000048C40C0 = 0) (h : Same k s t) :
    Same k s (linkBlock a0 t) := by
  unfold linkBlock
  repeat' first
    | with_reducible assumption | (with_reducible refine controlBlock_s ?_ ?_; exact maskFree w rfl)
    | (with_reducible refine dataBlock_s ?_ ?_; exact maskFree w rfl)
    | (with_reducible refine payloadBlock_s ?_ ?_; exact maskFree w rfl) | split

theorem mergeLanes_s {k : Nat} {s t : State} {a0 : _} (w : k &&& 0xC7F00008000000000400040000000000004000100020E818260000200040000410520E7F8080000100054040000000280000000000000000002000004000200000004000000003010000048C40C0 = 0) (h : Same k s t) :
    Same k s (mergeLanes a0 t) := by
  induction a0 generalizing t with
  | zero =>
    unfold mergeLanes
    repeat' first
      | with_reducible assumption
      | (extract_lets +onlyGivenNames x; first | (refine (fun (hx : Same k s x) => ?_) (?_ : Same k s x); all_goals first | (guard_target =ₐ Same k s x; unfold x; clear x) | clear_value x) | clear_value x)
      | (with_reducible refine linkBlock_s ?_ ?_; exact maskFree w rfl)
      | (with_reducible refine hlset_s ?_ ?_; exact maskFree w rfl)
      | (with_reducible refine lnset_s ?_ ?_; exact maskFree w rfl) | split
  | succ n ih =>
    unfold mergeLanes
    repeat' first
      | with_reducible assumption
      | (extract_lets +onlyGivenNames x; first | (refine (fun (hx : Same k s x) => ?_) (?_ : Same k s x); all_goals first | (guard_target =ₐ Same k s x; unfold x; clear x) | clear_value x) | clear_value x)
      | (with_reducible refine linkBlock_s ?_ ?_; exact maskFree w rfl)
      | (with_reducible refine hlset_s ?_ ?_; exact maskFree w rfl)
      | (with_reducible refine lnset_s ?_ ?_; exact maskFree w rfl) | with_reducible refine ih ?_ | split

theorem nextSeq_s {k : Nat} {s t : State} {a0 : _} (w : k &&& 0x200000000000000 = 0) (h : Same k s t) :
    Same k s (nextSeq a0 t) := by
  unfold nextSeq
  repeat' first
    | with_reducible assumption | (extract_lets +onlyGivenNames x; clear_value x)
    | (with_reducible refine vcset_s ?_ ?_; exact maskFree w rfl) | split

theorem acceptMgt_s {k : Nat} {s t : State} {a0 : _} (w : k &&& 0x100000000000000000000120A7F800000000000000000000000000000000000000000000000000000000000000000000200000000004040 = 0) (h : Same k s t) :
    Same k s (acceptMgt a0 t) := by
  unfold acceptMgt
  repeat' first
    | with_reducible assumption | (with_reducible refine inc_s ?_ ?_; exact bitFree w rfl)
    | (with_reducible refine nextSeq_s ?_ ?_; exact maskFree w rfl)
    | (with_reducible refine writePacket_s ?_ ?_; exact maskFree w rfl) | split

theorem acceptUpload_s {k : Nat} {s t : State} {a0 : _} {a1 : _} (w : k &&& 0x20400000000000000000000120A7F800000000000000000000000000000000000000000000000000000000000000000000200000000004040 = 0) (h : Same k s t) :
    Same k s (acceptUpload a0 a1 t) := by
  unfold acceptUpload
  repeat' first
    | with_reducible assumption | (with_reducible refine inc_s ?_ ?_; exact bitFree w rfl)
    | (with_reducible refine wr_s ?_ ?_; exact bitFree w rfl)
    | (extract_lets +onlyGivenNames x; (refine (fun (hx : Same k s x) => ?_) (?_ : Same k s x); all_goals first | (guard_target =ₐ Same k s x; unfold x; clear x) | clear_value x))
    | (with_reducible refine nextSeq_s ?_ ?_; exact maskFree w rfl)
    | (with_reducible refine writePacket_s ?_ ?_; exact maskFree w rfl) | split

theorem sequencePacket_s {k : Nat} {s t : State} {a0 : _} (w : k &&& 0xC7F00008000000000400040000000000004000100022ED18260000200040000410520E7F8080000100054040000000280000000000000000002000004000200000004000000003010000048C40C0 = 0) (h : Same k s t) :
    Same k s (sequencePacket a0 t) := by
  unfold sequencePacket
  repeat' first
    | with_reducible assumption | (extract_lets +onlyGivenNames x; clear_value x)
    | (with_reducible refine acceptUpload_s ?_ ?_; exact maskFree w rfl)
    | (with_reducible refine acceptMgt_s ?_ ?_; exact maskFree w rfl)
    | (with_reducible refine hostViol_s ?_ ?_; exact maskFree w rfl)
    | (with_reducible refine sendCtl_s ?_ ?_; exact maskFree w rfl) | split

theorem execLinkPacketReceive_s {k : Nat} {s t : State} (w : k &&& 0xC7F00008000000000400040000000000004000100022ED18260000200040000410520E7F8080000100054040000000280000000000000000002000004000200000004000000003010000048C40C0 = 0) (h : Same k s t) :
    SameO k s (execLinkPacketReceive t) := by
  unfold execLinkPacketReceive
  repeat' first
    | with_reducible assumption
    | (extract_lets +onlyGivenNames x; first | (refine (fun (hx : Same k s x) => ?_) (?_ : Same k s x); all_goals first | (guard_target =ₐ Same k s x; unfold x; clear x) | clear_value x) | clear_value x)
    | (with_reducible refine sequencePacket_s ?_ ?_; exact maskFree w rfl)
    | (with_reducible refine hlset_s ?_ ?_; exact maskFree w rfl)
    | (with_reducible refine hostViol_s ?_ ?_; exact maskFree w rfl)
    | (with_reducible refine sendNak_s ?_ ?_; exact maskFree w rfl)
    | (with_reducible refine vcset_s ?_ ?_; exact maskFree w rfl) | split | with_reducible refine SameO_next ?_

theorem acknowledge_s {k : Nat} {s t : State} {a0 : _} (w : k &&& 0x200000000000000 = 0) (h : Same k s t) :
    SameM k s (acknowledge a0 t) := by
  unfold acknowledge
  repeat' first
    | with_reducible assumption | (extract_lets +onlyGivenNames x; clear_value x)
    | (with_reducible refine hlset_s ?_ ?_; exact maskFree w rfl) | split | with_reducible refine SameM_some ?_
    | with_reducible exact SameM_none

theorem takeCtlOf_s {k : Nat} {s t : State} {a0 : _} (w : k &&& 0x200000000000000 = 0) (h : Same k s t) :
    SameMP k s (takeCtlOf a0 t) := by
  unfold takeCtlOf
  repeat' first
    | with_reducible assumption | (extract_lets +onlyGivenNames x; clear_value x)
    | (with_reducible refine hlset_s ?_ ?_; exact maskFree w rfl) | split | with_reducible refine SameMP_some ?_
    | with_reducible exact SameMP_none

theorem execAck_s {k : Nat} {s t : State} (w : k &&& 0xC7F00008000000000400040000000000004000100020E818260000200040000410520E7F8080000100054040000000280000000000000000002000004000200000004000000003010000048C40C0 = 0) (h : Same k s t) : SameO k s (execAck t) := by
  unfold execAck
  split
  · exact h
  · next e =>
    have h1 := SameMP.some (takeCtlOf_s (maskFree w rfl) h) e
    split
    · next e2 =>
      split at e2
      · exact SameM.some (acknowledge_s (maskFree w rfl) h1) e2
      · cases e2
    · exact hostViol_s (maskFree w rfl) h1

theorem execNak_s {k : Nat} {s t : State} (w : k &&& 0xC7F00008000000000400040000000000004000100020F818260000200040000410520E7F8080000100054040000000280000000000000000002000004000200000004000000003010000048C40C0 = 0) (h : Same k s t) : SameO k s (execNak t) := by
  unfold execNak
  split
  · exact h
  · next e =>
    have h1 := inc_s (r := .LNK_NAK_RX) (i := 0) (bitFree w rfl) (SameMP.some (takeCtlOf_s (maskFree w rfl) h) e)
    extract_lets s1
    change Same k s s1 at h1
    clear_value s1
    split
    · exact h1
    · split
      · next e2 =>
        split at e2
        · exact hlset_s (maskFree w rfl) (SameM.some (acknowledge_s (maskFree w rfl) h1) e2)
        · cases e2
      · exact hostViol_s (maskFree w rfl) h1

theorem execCredit_s {k : Nat} {s t : State} (w : k &&& 0xC7F00008000000000400040000000000004000100020E818260000200040000410520E7F8080000100054040000000280000000000000000002000004000200000004000000003010000048C40C0 = 0) (h : Same k s t) :
    SameO k s (execCredit t) := by
  unfold execCredit
  repeat' first
    | with_reducible assumption | (extract_lets +onlyGivenNames x; first | clear_value x | subst x)
    | (with_reducible refine SameMP.some (takeCtlOf_s ?_ ?_) (by assumption); exact maskFree w rfl)
    | (with_reducible refine hostViol_s ?_ ?_; exact maskFree w rfl)
    | (with_reducible refine vcset_s ?_ ?_; exact maskFree w rfl) | split | with_reducible refine SameO_next ?_

theorem execAckSend_s {k : Nat} {s t : State} (w : k &&& 0x120A7F800000000000000000000000000000000000000000000000000000000000000000000200000000004040 = 0) (h : Same k s t) :
    SameO k s (execAckSend t) := by
  unfold execAckSend
  repeat' first
    | with_reducible assumption | (extract_lets +onlyGivenNames x; clear_value x)
    | (with_reducible refine sendCtl_s ?_ ?_; exact maskFree w rfl)
    | (with_reducible refine vcset_s ?_ ?_; exact maskFree w rfl) | (with_reducible refine Same_foldl ?_ ?_; intro _ _ _)
    | split | with_reducible refine SameO_next ?_

theorem execCreditSend_s {k : Nat} {s t : State} (w : k &&& 0x120A7F800000000000000000000000000000000000000000000000000000000000000000000200000000004040 = 0) (h : Same k s t) :
    SameO k s (execCreditSend t) := by
  unfold execCreditSend
  repeat' first
    | with_reducible assumption | (extract_lets +onlyGivenNames x; clear_value x)
    | (with_reducible refine sendCtl_s ?_ ?_; exact maskFree w rfl)
    | (with_reducible refine vcset_s ?_ ?_; exact maskFree w rfl) | (with_reducible refine Same_foldl ?_ ?_; intro _ _ _)
    | split | with_reducible refine SameO_next ?_

theorem execRetransmitTimeout_s {k : Nat} {s t : State} (w : k &&& 0xC7F000080000000004000400000000000040001000208018260000200040000410520E7F8080000100054040000000280000000000000000002000004000200000004000000003010000048C40C0 = 0) (h : Same k s t) :
    SameO k s (execRetransmitTimeout t) := by
  unfold execRetransmitTimeout
  repeat' first
    | with_reducible assumption
    | (extract_lets +onlyGivenNames x; first | (refine (fun (hx : Same k s x) => ?_) (?_ : Same k s x); all_goals first | (guard_target =ₐ Same k s x; unfold x; clear x) | clear_value x) | clear_value x)
    | (with_reducible refine hlset_s ?_ ?_; exact maskFree w rfl)
    | (with_reducible refine hostRetrain_s ?_ ?_; exact maskFree w rfl) | split | with_reducible refine SameO_next ?_

theorem execUploadWrite_s {k : Nat} {s t : State} (w : k &&& 0x1F000000000810000000000022011F8000000000000000000000000000000000000000000000000000000000000000000040000000020040C0 = 0) (h : Same k s t) :
    SameO k s (execUploadWrite t) := by
  unfold execUploadWrite
  repeat' first
    | with_reducible assumption | (with_reducible refine incWrap_s ?_ ?_; exact bitFree w rfl)
    | (with_reducible refine inc_s ?_ ?_; exact bitFree w rfl) | (with_reducible refine wr_s ?_ ?_; exact bitFree w rfl)
    | (extract_lets +onlyGivenNames x; first | (refine (fun (hx : Same k s x) => ?_) (?_ : Same k s x); all_goals first | (guard_target =ₐ Same k s x; unfold x; clear x) | clear_value x) | clear_value x)
    | (with_reducible refine dramWrite_s ?_ ?_; exact maskFree w rfl)
    | (with_reducible refine readWhole_s ?_ ?_; exact maskFree w rfl)
    | (with_reducible refine SameP.snd (readWhole_s ?_ ?_) (by assumption); exact maskFree w rfl) | split
    | with_reducible refine SameO_next ?_

theorem sendMgt_s {k : Nat} {s t : State} {a0 : _} (w : k &&& 0x200000000000000 = 0) (h : Same k s t) :
    Same k s (sendMgt a0 t) := by
  unfold sendMgt
  repeat' first
    | with_reducible assumption
    | (extract_lets +onlyGivenNames x; first | (refine (fun (hx : Same k s x) => ?_) (?_ : Same k s x); all_goals first | (guard_target =ₐ Same k s x; unfold x; clear x) | clear_value x) | clear_value x)
    | (with_reducible refine hlset_s ?_ ?_; exact maskFree w rfl)
    | (with_reducible refine vcset_s ?_ ?_; exact maskFree w rfl) | split

theorem choosePacket_s {k : Nat} {s t : State} (w : k &&& 0x20000000000000000000022011F8000000000000000000000000000000000000000000000000000000000000000000002000000000040C0 = 0) (h : Same k s t) :
    Same k s (choosePacket t) := by
  unfold choosePacket
  repeat' first
    | with_reducible assumption | (with_reducible refine inc_s ?_ ?_; exact bitFree w rfl)
    | (extract_lets +onlyGivenNames x; first | (refine (fun (hx : Same k s x.2) => ?_) (?_ : Same k s x.2); all_goals first | (guard_target =ₐ Same k s x.2; unfold x; clear x) | clear_value x) | clear_value x)
    | (with_reducible refine sendMgt_s ?_ ?_; exact maskFree w rfl)
    | (with_reducible refine hlset_s ?_ ?_; exact maskFree w rfl)
    | (with_reducible refine readWhole_s ?_ ?_; exact maskFree w rfl)
    | (with_reducible refine SameP.snd (readWhole_s ?_ ?_) (by assumption); exact maskFree w rfl) | split

theorem nextLinkBlock_s {k : Nat} {s t : State} (w : k &&& 0x20000000000000000000022011F8000000000000000000000000000000000000000000000000000000000000000000002000000000040C0 = 0) (h : Same k s t) :
    Same k s (nextLinkBlock t).2 := by
  unfold nextLinkBlock
  repeat' first
    | with_reducible assumption
    | (extract_lets +onlyGivenNames x; first | (refine (fun (hx : Same k s x) => ?_) (?_ : Same k s x); all_goals first | (guard_target =ₐ Same k s x; unfold x; clear x) | clear_value x) | clear_value x)
    | (with_reducible refine choosePacket_s ?_ ?_; exact maskFree w rfl)
    | (with_reducible refine hlset_s ?_ ?_; exact maskFree w rfl) | split | with_reducible refine SameP_mk ?_

/-! ### Blocks -/

theorem trainDone_s {k : Nat} {s t : State} {a0 : _} (w : k &&& 0xC7F000080000000004000400000000000040001010A00018260000200040000410520E7F8080000100054040000000280000000000000000002000004000200000004000000007010000048C40C0 = 0) (h : Same k s t) :
    Same k s (trainDone a0 t) := by
  unfold trainDone
  repeat' first
    | with_reducible assumption | (with_reducible refine wr_s ?_ ?_; exact bitFree w rfl)
    | (extract_lets +onlyGivenNames x; clear_value x) | (with_reducible refine settleLane_s ?_ ?_; exact maskFree w rfl)
    | split

theorem takeTrain_s {k : Nat} {s t : State} {a0 : _} {a1 : _} (w : k &&& 0xC7F000080000000004000400000000000040001011A00018260000200040000410520E7F8080000100054040000000280000000000000000002000004000200000004000000007010000048C40C0 = 0) (h : Same k s t) :
    Same k s (takeTrain a0 a1 t) := by
  unfold takeTrain
  repeat' first
    | with_reducible assumption | (with_reducible refine inc_s ?_ ?_; exact bitFree w rfl)
    | (with_reducible refine wr_s ?_ ?_; exact bitFree w rfl)
    | (extract_lets +onlyGivenNames x; first | (refine (fun (hx : Same k s x) => ?_) (?_ : Same k s x); all_goals first | (guard_target =ₐ Same k s x; unfold x; clear x) | clear_value x) | clear_value x)
    | (with_reducible refine trainDone_s ?_ ?_; exact maskFree w rfl)
    | (with_reducible refine settleLane_s ?_ ?_; exact maskFree w rfl)
    | (with_reducible refine lnset_s ?_ ?_; exact maskFree w rfl) | split

theorem passBlock_s {k : Nat} {s t : State} {a0 : _} {a1 : _} (w : k &&& 0xC7F00008000000000400040000000000004000101EA0E818260000200040000410520E7F8080000100054040000000280000000000000000002000004000200000004000000007010000048C40C0 = 0) (h : Same k s t) :
    Same k s (passBlock a0 a1 t) := by
  unfold passBlock
  repeat' first
    | with_reducible assumption | (with_reducible refine inc_s ?_ ?_; exact bitFree w rfl)
    | (extract_lets +onlyGivenNames x; first | (refine (fun (hx : Same k s x) => ?_) (?_ : Same k s x); all_goals first | (guard_target =ₐ Same k s x; unfold x; clear x) | clear_value x) | clear_value x)
    | (with_reducible refine mergeLanes_s ?_ ?_; exact maskFree w rfl)
    | (with_reducible refine portViol_s ?_ ?_; exact maskFree w rfl)
    | (with_reducible refine lnset_s ?_ ?_; exact maskFree w rfl) | split

theorem laneUp_s {k : Nat} {s t : State} {a0 : _} (w : k &&& 0xC7F000080000000004000400000000000040001010A00018260000200040000410520E7F8080000100054040000000280000000000000000002000004000200000004000000007010000048C40C0 = 0) (h : Same k s t) :
    Same k s (laneUp a0 t) := by
  unfold laneUp
  repeat' first
    | with_reducible assumption | (with_reducible refine wr_s ?_ ?_; exact bitFree w rfl)
    | (extract_lets +onlyGivenNames x; clear_value x) | (with_reducible refine settleLane_s ?_ ?_; exact maskFree w rfl)
    | (with_reducible refine lnset_s ?_ ?_; exact maskFree w rfl) | split

theorem takeAlign_s {k : Nat} {s t : State} {a0 : _} (w : k &&& 0xC7F000080000000004000400000000000040001010A00018360000200040000410520E7F8080000100054040000000280000000000000000002000004000200000004000000007010000048C40C0 = 0) (h : Same k s t) :
    Same k s (takeAlign a0 t) := by
  unfold takeAlign
  repeat' first
    | with_reducible assumption | (extract_lets +onlyGivenNames x; first | clear_value x | subst x)
    | (with_reducible refine loseLock_s ?_ ?_; exact maskFree w rfl)
    | (with_reducible refine settleLane_s ?_ ?_; exact maskFree w rfl)
    | (with_reducible refine lnset_s ?_ ?_; exact maskFree w rfl) | split

theorem takeFramed_s {k : Nat} {s t : State} {a0 : _} {a1 : _} (w : k &&& 0xC7F00008000000000400040000000000004000101EA0E818760000200040000410520E7F8080000100054040000000280000000000000000002000004000200000004000000007010000048C40C0 = 0) (h : Same k s t) :
    Same k s (takeFramed a0 a1 t) := by
  unfold takeFramed
  repeat' first
    | with_reducible assumption | (with_reducible refine inc_s ?_ ?_; exact bitFree w rfl)
    | (extract_lets +onlyGivenNames x; first | (refine (fun (hx : Same k s x) => ?_) (?_ : Same k s x); all_goals first | (guard_target =ₐ Same k s x; unfold x; clear x) | clear_value x) | clear_value x)
    | (with_reducible refine laneUp_s ?_ ?_; exact maskFree w rfl)
    | (with_reducible refine passBlock_s ?_ ?_; exact maskFree w rfl)
    | (with_reducible refine loseLock_s ?_ ?_; exact maskFree w rfl)
    | (with_reducible refine lnset_s ?_ ?_; exact maskFree w rfl) | split

theorem retrainLane_s {k : Nat} {s t : State} {a0 : _} {a1 : _} (w : k &&& 0xC7F000080000000004000400000000000040001011A00018260000200040000410520E7F8080000100054040000000280000000000000000002000004000200000004000000007010000048C40C0 = 0) (h : Same k s t) :
    Same k s (retrainLane a0 a1 t) := by
  unfold retrainLane
  repeat' first
    | with_reducible assumption | (with_reducible refine inc_s ?_ ?_; exact bitFree w rfl)
    | (with_reducible refine wr_s ?_ ?_; exact bitFree w rfl)
    | (extract_lets +onlyGivenNames x; first | (refine (fun (hx : Same k s x) => ?_) (?_ : Same k s x); all_goals first | (guard_target =ₐ Same k s x; unfold x; clear x) | clear_value x) | clear_value x)
    | (with_reducible refine takeTrain_s ?_ ?_; exact maskFree w rfl)
    | (with_reducible refine settleLane_s ?_ ?_; exact maskFree w rfl)
    | (with_reducible refine lnset_s ?_ ?_; exact maskFree w rfl)
    | (with_reducible refine logFault_s ?_ ?_; exact maskFree w rfl) | split

theorem drainElastic_s {k : Nat} {s t : State} {a0 : _} {a1 : _} (w : k &&& 0x1000000000000000000000000000000000000000000000000000000000000000000000000000000000000000000000100000000000000 = 0) (h : Same k s t) :
    Same k s (drainElastic a0 a1 t) := by
  unfold drainElastic
  repeat' first
    | with_reducible assumption | (with_reducible refine incBy_s ?_ ?_; exact bitFree w rfl)
    | (extract_lets +onlyGivenNames x; first | (refine (fun (hx : Same k s x) => ?_) (?_ : Same k s x); all_goals first | (guard_target =ₐ Same k s x; unfold x; clear x) | clear_value x) | clear_value x)
    | (with_reducible refine lnset_s ?_ ?_; exact maskFree w rfl) | (with_reducible refine Same_foldl ?_ ?_; intro _ _ _)
    | split

theorem shimDeleted_s {k : Nat} {s t : State} {a0 : _} (w : k &&& 0x200000000000000 = 0) (h : Same k s t) :
    Same k s (shimDeleted a0 t).2 := by
  unfold shimDeleted
  repeat' first
    | with_reducible assumption | (extract_lets +onlyGivenNames x; clear_value x)
    | (with_reducible refine hlset_s ?_ ?_; exact maskFree w rfl) | split | with_reducible refine SameP_mk ?_

theorem enterElastic_s {k : Nat} {s t : State} {a0 : _} {a1 : _} (w : k &&& 0x2800000000000000000000000000000000000000000000000000000000000000000000000000000000000000000000300000000000000 = 0) (h : Same k s t) :
    Same k s (enterElastic a0 a1 t).2 := by
  unfold enterElastic
  repeat' first
    | with_reducible assumption | (with_reducible refine inc_s ?_ ?_; exact bitFree w rfl)
    | (extract_lets +onlyGivenNames x; first | (refine (fun (hx : Same k s x) => ?_) (?_ : Same k s x); all_goals first | (guard_target =ₐ Same k s x; unfold x; clear x) | clear_value x) | (refine (fun (hx : Same k s x.2) => ?_) (?_ : Same k s x.2); all_goals first | (guard_target =ₐ Same k s x.2; unfold x; clear x) | clear_value x) | clear_value x)
    | (with_reducible refine shimDeleted_s ?_ ?_; exact maskFree w rfl)
    | (with_reducible refine SameP.snd (shimDeleted_s ?_ ?_) (by assumption); exact maskFree w rfl)
    | (with_reducible refine lnset_s ?_ ?_; exact maskFree w rfl) | split | with_reducible refine SameP_mk ?_

theorem throughElastic_s {k : Nat} {s t : State} {a0 : _} {a1 : _} (w : k &&& 0x3800000000000000000000000000000000000000000000000000000000000000000000000000000000000000000000300000000000000 = 0) (h : Same k s t) :
    Same k s (throughElastic a0 a1 t).2 := by
  unfold throughElastic
  repeat' first
    | with_reducible assumption
    | (extract_lets +onlyGivenNames x; first | (refine (fun (hx : Same k s x) => ?_) (?_ : Same k s x); all_goals first | (guard_target =ₐ Same k s x; unfold x; clear x) | clear_value x) | clear_value x)
    | (with_reducible refine enterElastic_s ?_ ?_; exact maskFree w rfl)
    | (with_reducible refine SameP.snd (enterElastic_s ?_ ?_) (by assumption); exact maskFree w rfl)
    | (with_reducible refine drainElastic_s ?_ ?_; exact maskFree w rfl)
    | (with_reducible refine lnset_s ?_ ?_; exact maskFree w rfl) | split | with_reducible refine SameP_mk ?_

theorem lockedBlock_s {k : Nat} {s t : State} {a0 : _} {a1 : _} (w : k &&& 0xC7F00008000000000400040000000000004000101FA0E81BF60000200040000410520E7F8080000100054040000000280000000000000000002000004000200000004000000007010000048C40C0 = 0) (h : Same k s t) :
    Same k s (lockedBlock a0 a1 t) := by
  unfold lockedBlock
  repeat' first
    | with_reducible assumption
    | (extract_lets +onlyGivenNames x; first | (refine (fun (hx : Same k s x) => ?_) (?_ : Same k s x); all_goals first | (guard_target =ₐ Same k s x; unfold x; clear x) | clear_value x) | (refine (fun (hx : Same k s x.2) => ?_) (?_ : Same k s x.2); all_goals first | (guard_target =ₐ Same k s x.2; unfold x; clear x) | clear_value x) | clear_value x)
    | (with_reducible refine throughElastic_s ?_ ?_; exact maskFree w rfl)
    | (with_reducible refine SameP.snd (throughElastic_s ?_ ?_) (by assumption); exact maskFree w rfl)
    | (with_reducible refine retrainLane_s ?_ ?_; exact maskFree w rfl)
    | (with_reducible refine takeFramed_s ?_ ?_; exact maskFree w rfl)
    | (with_reducible refine takeAlign_s ?_ ?_; exact maskFree w rfl)
    | (with_reducible refine takeTrain_s ?_ ?_; exact maskFree w rfl)
    | (with_reducible refine lnset_s ?_ ?_; exact maskFree w rfl) | split

theorem execBlockReceive_s {k : Nat} {s t : State} {l : Fin 32} {r : BitVec 80} {m : List Bool} (w : k &&& 0xC7F00008000000000400040000000000004000101FA0E81BF60000200040000410520E7F8080000100054040000000280000000000000000002000004000200000004000000007010000048C40C0 = 0) (h : Same k s t) :
    SameO k s (execBlockReceive l r m t) := by
  unfold execBlockReceive
  extract_lets a v u b e ok x s1
  have h1 : Same k s s1 := by unfold s1; with_reducible exact lnset_s (maskFree w rfl) h
  clear_value s1 x ok e b u v a
  with_reducible refine SameO_ite (SameO_next h) ?_
  with_reducible refine SameO_ite ?_ ?_
  · with_reducible refine SameO_ite ?_ (SameO_next h1)
    exact SameO_next (settleLane_s (maskFree w rfl) (wr_s (bitFree w rfl) (lnset_s (maskFree w rfl) h1)))
  · with_reducible refine SameO_ite (SameO_next (loseLock_s (maskFree w rfl) (inc_s (bitFree w rfl) h1))) ?_
    with_reducible refine SameO_ite (SameO_next (loseLock_s (maskFree w rfl) (inc_s (bitFree w rfl) h1))) ?_
    exact SameO_next (lockedBlock_s (maskFree w rfl) h1)

theorem putBlock_s {k : Nat} {s t : State} {a0 : _} {a1 : _} (w : k &&& 0x100000000000000 = 0) (h : Same k s t) :
    Same k s (putBlock a0 t a1) := by
  unfold putBlock
  repeat' first
    | with_reducible assumption | (extract_lets +onlyGivenNames x; clear_value x)
    | (with_reducible refine lnset_s ?_ ?_; exact maskFree w rfl) | split

theorem joinColumn_s {k : Nat} {s t : State} {a0 : _} (w : k &&& 0x100000000000000 = 0) (h : Same k s t) :
    Same k s (joinColumn t a0) := by
  unfold joinColumn
  repeat' first
    | with_reducible assumption | (extract_lets +onlyGivenNames x; clear_value x)
    | (with_reducible refine lnset_s ?_ ?_; exact maskFree w rfl) | split

theorem formColumn_s {k : Nat} {s t : State} (w : k &&& 0x20000000000000000000022011F8000000000000000000000000000000000000000000000000000000000000000000003000000000040C0 = 0) (h : Same k s t) :
    Same k s (formColumn t) := by
  unfold formColumn
  repeat' first
    | with_reducible assumption
    | (extract_lets +onlyGivenNames x; first | (refine (fun (hx : Same k s x) => ?_) (?_ : Same k s x); all_goals first | (guard_target =ₐ Same k s x; unfold x; clear x) | clear_value x) | (refine (fun (hx : Same k s x.2) => ?_) (?_ : Same k s x.2); all_goals first | (guard_target =ₐ Same k s x.2; unfold x; clear x) | clear_value x) | clear_value x)
    | (with_reducible refine joinColumn_s ?_ ?_; exact maskFree w rfl)
    | (with_reducible refine putBlock_s ?_ ?_; exact maskFree w rfl)
    | (with_reducible refine nextLinkBlock_s ?_ ?_; exact maskFree w rfl)
    | (with_reducible refine SameP.snd (nextLinkBlock_s ?_ ?_) (by assumption); exact maskFree w rfl)
    | (with_reducible refine hlset_s ?_ ?_; exact maskFree w rfl) | (with_reducible refine Same_foldl ?_ ?_; intro _ _ _)
    | split

theorem formBlock_s {k : Nat} {s t : State} {a0 : _} (w : k &&& 0x100000000000000 = 0) (h : Same k s t) :
    Same k s (formBlock a0 t) := by
  unfold formBlock
  repeat' first
    | with_reducible assumption | (extract_lets +onlyGivenNames x; clear_value x)
    | (with_reducible refine lnset_s ?_ ?_; exact maskFree w rfl) | split

theorem emitBits_s {k : Nat} {s t : State} {a0 : _} {a1 : _} {a2 : _} {a3 : _} {a4 : _} (w : k &&& 0x100000000000000 = 0) (h : Same k s t) :
    Same k s (emitBits a0 a1 a2 a3 a4 t) := by
  unfold emitBits
  repeat' first
    | with_reducible assumption | (extract_lets +onlyGivenNames x; clear_value x)
    | (with_reducible refine lnset_s ?_ ?_; exact maskFree w rfl) | split

theorem emitBlock_s {k : Nat} {s t : State} {a0 : _} {a1 : _} (w : k &&& 0x100000000000000 = 0) (h : Same k s t) :
    Same k s (emitBlock a0 a1 t) := by
  unfold emitBlock
  repeat' first
    | with_reducible assumption
    | (extract_lets +onlyGivenNames x; first | (refine (fun (hx : Same k s x) => ?_) (?_ : Same k s x); all_goals first | (guard_target =ₐ Same k s x; unfold x; clear x) | clear_value x) | clear_value x)
    | (with_reducible refine emitBits_s ?_ ?_; exact maskFree w rfl)
    | (with_reducible refine lnset_s ?_ ?_; exact maskFree w rfl) | split

theorem emitTrain_s {k : Nat} {s t : State} {a0 : _} (w : k &&& 0xC7F000080000000004000400000000000040001010A00018260000200040000410520E7F8080000100054040000000280000000000000000002000004000200000004000000007010000048C40C0 = 0) (h : Same k s t) :
    Same k s (emitTrain a0 t) := by
  unfold emitTrain
  repeat' first
    | with_reducible assumption
    | (extract_lets +onlyGivenNames x; first | (refine (fun (hx : Same k s x) => ?_) (?_ : Same k s x); all_goals first | (guard_target =ₐ Same k s x; unfold x; clear x) | clear_value x) | clear_value x)
    | (with_reducible refine emitBits_s ?_ ?_; exact maskFree w rfl)
    | (with_reducible refine trainDone_s ?_ ?_; exact maskFree w rfl)
    | (with_reducible refine lnset_s ?_ ?_; exact maskFree w rfl) | split

theorem emitFormed_s {k : Nat} {s t : State} {a0 : _} (w : k &&& 0x100000000000000 = 0) (h : Same k s t) :
    Same k s (emitFormed a0 t) := by
  unfold emitFormed
  repeat' first
    | with_reducible assumption | (extract_lets +onlyGivenNames x; clear_value x)
    | (with_reducible refine emitBlock_s ?_ ?_; exact maskFree w rfl)
    | (with_reducible refine lnset_s ?_ ?_; exact maskFree w rfl) | split

theorem execBlockSend_s {k : Nat} {s t : State} {a0 : _} (w : k &&& 0xC7F000080000000004000400000000000040001010A00218260000200040000410720F7F8080000100054040000000280000000000000000002000004000200000004000000007010000048C40C0 = 0) (h : Same k s t) :
    SameO k s (execBlockSend a0 t) := by
  unfold execBlockSend
  repeat' first
    | with_reducible assumption | (extract_lets +onlyGivenNames x; clear_value x)
    | (with_reducible refine emitFormed_s ?_ ?_; exact maskFree w rfl)
    | (with_reducible refine emitTrain_s ?_ ?_; exact maskFree w rfl)
    | (with_reducible refine emitBlock_s ?_ ?_; exact maskFree w rfl)
    | (with_reducible refine formBlock_s ?_ ?_; exact maskFree w rfl)
    | (with_reducible refine formColumn_s ?_ ?_; exact maskFree w rfl) | split | with_reducible refine SameO_next ?_

/-! ### Vre -/

theorem toVre_s {k : Nat} {s t : State} {a0 : _} {a1 : _} (w : k &&& 0x20000000000000 = 0) (h : Same k s t) :
    Same k s (toVre a0 a1 t) := by
  unfold toVre
  repeat' first
    | with_reducible assumption | (with_reducible refine Same_vre (by with_reducible assumption) ?_; exact maskFree w rfl)
    | (extract_lets +onlyGivenNames x; clear_value x) | split

theorem vreSend_s {k : Nat} {s t : State} {a0 : _} {a1 : _} (w : k &&& 0x120A7F800000400000000000000000000000000000000000000000000000000000000000000000000000004040 = 0) (h : Same k s t) :
    Same k s (vreSend a0 a1 t) := by
  unfold vreSend
  repeat' first
    | with_reducible assumption | (with_reducible refine inc_s ?_ ?_; exact bitFree w rfl)
    | (with_reducible refine writeWord_s ?_ ?_; exact maskFree w rfl) | split

theorem vreDeliver_s {k : Nat} {s t : State} {a0 : _} {a1 : _} {a2 : _} (w : k &&& 0x20000000000000 = 0) (h : Same k s t) :
    Same k s (vreDeliver a0 a1 a2 t) := by
  unfold vreDeliver
  repeat' first
    | with_reducible assumption | (with_reducible refine Same_vre (by with_reducible assumption) ?_; exact maskFree w rfl)
    | (extract_lets +onlyGivenNames x; clear_value x) | split

theorem routeVerdict_s {k : Nat} {s t : State} {a0 : _} {a1 : _} (w : k &&& 0x120A7F800000C00000000000000000000000000000000000000000000000000000000000000020000000004040 = 0) (h : Same k s t) :
    Same k s (routeVerdict a0 a1 t) := by
  unfold routeVerdict
  repeat' first
    | with_reducible assumption | (with_reducible refine inc_s ?_ ?_; exact bitFree w rfl)
    | (extract_lets +onlyGivenNames x; first | (refine (fun (hx : Same k s x) => ?_) (?_ : Same k s x); all_goals first | (guard_target =ₐ Same k s x; unfold x; clear x) | clear_value x) | clear_value x)
    | (with_reducible refine vreDeliver_s ?_ ?_; exact maskFree w rfl)
    | (with_reducible refine vreSend_s ?_ ?_; exact maskFree w rfl)
    | (with_reducible refine Same_foldl ?_ ?_; intro _ _ _) | split

theorem routeTrigger_s {k : Nat} {s t : State} {a0 : _} {a1 : _} (w : k &&& 0x120A7F800000400000000000000000000000000000000000000000000000000000000000000024000000004040 = 0) (h : Same k s t) :
    Same k s (routeTrigger a0 a1 t) := by
  unfold routeTrigger
  repeat' first
    | with_reducible assumption | (with_reducible refine Same_vre (by with_reducible assumption) ?_; exact maskFree w rfl)
    | (with_reducible refine Same_trig (by with_reducible assumption) ?_; exact maskFree w rfl)
    | (extract_lets +onlyGivenNames x; first | (refine (fun (hx : Same k s x) => ?_) (?_ : Same k s x); all_goals first | (guard_target =ₐ Same k s x; unfold x; clear x) | clear_value x) | clear_value x)
    | (with_reducible refine vreSend_s ?_ ?_; exact maskFree w rfl)
    | (with_reducible refine Same_foldl ?_ ?_; intro _ _ _) | split

theorem execVreMessage_s {k : Nat} {s t : State} (w : k &&& 0x120A7F800000C00000000000000000000000000000000000000000000000000000000000000024000000004040 = 0) (h : Same k s t) :
    SameO k s (execVreMessage t) := by
  unfold execVreMessage
  repeat' first
    | with_reducible assumption | (with_reducible refine Same_vre (by with_reducible assumption) ?_; exact maskFree w rfl)
    | (extract_lets +onlyGivenNames x; first | (refine (fun (hx : Same k s x) => ?_) (?_ : Same k s x); all_goals first | (guard_target =ₐ Same k s x; unfold x; clear x) | clear_value x) | clear_value x)
    | (with_reducible refine routeTrigger_s ?_ ?_; exact maskFree w rfl)
    | (with_reducible refine routeVerdict_s ?_ ?_; exact maskFree w rfl) | split | with_reducible refine SameO_next ?_

theorem execVerdictBlockSend_s {k : Nat} {s t : State} {a0 : _} (w : k &&& 0x22011F8000000400000000000000000000000000000000000000000000000000000000000005000000000040C0 = 0) (h : Same k s t) :
    SameO k s (execVerdictBlockSend a0 t) := by
  unfold execVerdictBlockSend
  repeat' first
    | with_reducible assumption | (with_reducible refine inc_s ?_ ?_; exact bitFree w rfl)
    | (extract_lets +onlyGivenNames x; first | (refine (fun (hx : Same k s x) => ?_) (?_ : Same k s x); all_goals first | (guard_target =ₐ Same k s x; unfold x; clear x) | clear_value x) | (refine (fun (hx : Same k s x.2) => ?_) (?_ : Same k s x.2); all_goals first | (guard_target =ₐ Same k s x.2; unfold x; clear x) | clear_value x) | clear_value x)
    | (with_reducible refine putBlock_s ?_ ?_; exact maskFree w rfl)
    | (with_reducible refine vpset_s ?_ ?_; exact maskFree w rfl)
    | (with_reducible refine readWord_s ?_ ?_; exact maskFree w rfl)
    | (with_reducible refine SameP.snd (readWord_s ?_ ?_) (by assumption); exact maskFree w rfl)
    | (with_reducible refine Same_foldl ?_ ?_; intro _ _ _) | split | with_reducible refine SameO_next ?_

theorem execVerdictBlockReceive_s {k : Nat} {s t : State} {a0 : _} (w : k &&& 0x47E000000000000000000000000000000000000016804000240000000000000000120E7F8000003800000000000000000000000000000000000000000000000000000000000005200000008040C0 = 0) (h : Same k s t) :
    SameO k s (execVerdictBlockReceive a0 t) := by
  unfold execVerdictBlockReceive
  repeat' first
    | with_reducible assumption | (with_reducible refine inc_s ?_ ?_; exact bitFree w rfl)
    | (with_reducible refine incBy_s ?_ ?_; exact bitFree w rfl)
    | (extract_lets +onlyGivenNames x; first | (refine (fun (hx : Same k s x) => ?_) (?_ : Same k s x); all_goals first | (guard_target =ₐ Same k s x; unfold x; clear x) | clear_value x) | clear_value x)
    | (with_reducible refine toVre_s ?_ ?_; exact maskFree w rfl)
    | (with_reducible refine portViol_s ?_ ?_; exact maskFree w rfl)
    | (with_reducible refine vpset_s ?_ ?_; exact maskFree w rfl)
    | (with_reducible refine lnset_s ?_ ?_; exact maskFree w rfl) | split | with_reducible refine SameO_next ?_

/-! ### Trigger -/

theorem setTrig_s {k : Nat} {s t : State} {a0 : _} (w : k &&& 0x4000000000000 = 0) (h : Same k s t) :
    Same k s (setTrig a0 t) := by
  unfold setTrig
  repeat' first
    | with_reducible assumption
    | (with_reducible refine Same_trig (by with_reducible assumption) ?_; exact maskFree w rfl) | split

theorem condMet_s {k : Nat} {s t : State} {a0 : _} {a1 : _} {a2 : _} (w : k &&& 0x20000000000000000000000000000000000000000000000000000004000000000000 = 0) (h : Same k s t) :
    Same k s (condMet a0 a1 a2 t) := by
  unfold condMet
  repeat' first
    | with_reducible assumption | (with_reducible refine inc_s ?_ ?_; exact bitFree w rfl)
    | (extract_lets +onlyGivenNames x; first | (refine (fun (hx : Same k s x) => ?_) (?_ : Same k s x); all_goals first | (guard_target =ₐ Same k s x; unfold x; clear x) | clear_value x) | clear_value x)
    | (with_reducible refine setTrig_s ?_ ?_; exact maskFree w rfl) | split

theorem crossSamples_s {k : Nat} {s t : State} {a0 : _} {a1 : _} {a2 : _} {a3 : _} {a4 : _} {a5 : _} {a6 : _} (w : k &&& 0x20000000000000000000000000000000000000000000000000000004000000000000 = 0) (h : Same k s t) :
    Same k s (crossSamples a0 a1 a2 a3 a4 a5 a6 t) := by
  induction a4 generalizing t a5 a6 with
  | nil =>
    unfold crossSamples
    repeat' first
      | with_reducible assumption
      | (extract_lets +onlyGivenNames x; first | (refine (fun (hx : Same k s x) => ?_) (?_ : Same k s x); all_goals first | (guard_target =ₐ Same k s x; unfold x; clear x) | clear_value x) | clear_value x)
      | (with_reducible refine condMet_s ?_ ?_; exact maskFree w rfl)
      | (with_reducible refine setTrig_s ?_ ?_; exact maskFree w rfl) | split
  | cons y l ih =>
    unfold crossSamples
    repeat' first
      | with_reducible assumption
      | (extract_lets +onlyGivenNames x; first | (refine (fun (hx : Same k s x) => ?_) (?_ : Same k s x); all_goals first | (guard_target =ₐ Same k s x; unfold x; clear x) | clear_value x) | clear_value x)
      | (with_reducible refine condMet_s ?_ ?_; exact maskFree w rfl)
      | (with_reducible refine setTrig_s ?_ ?_; exact maskFree w rfl) | with_reducible refine ih ?_ | split

theorem execConditionCrossing_s {k : Nat} {s t : State} {a0 : _} {a1 : _} {a2 : _} {a3 : _} (w : k &&& 0x20000000000000000000000000000000000000000000000000000004000000000000 = 0) (h : Same k s t) :
    SameO k s (execConditionCrossing a0 a1 a2 a3 t) := by
  unfold execConditionCrossing
  repeat' first
    | with_reducible assumption | (extract_lets +onlyGivenNames x; clear_value x)
    | (with_reducible refine crossSamples_s ?_ ?_; exact maskFree w rfl) | split | with_reducible refine SameO_next ?_

theorem execTrigInEdge_s {k : Nat} {s t : State} {a0 : _} {a1 : _} {a2 : _} (w : k &&& 0x60000000000000000000000000000000000000000000000000000004000000000000 = 0) (h : Same k s t) :
    SameO k s (execTrigInEdge a0 a1 a2 t) := by
  unfold execTrigInEdge
  repeat' first
    | with_reducible assumption | (with_reducible refine inc_s ?_ ?_; exact bitFree w rfl)
    | (extract_lets +onlyGivenNames x; first | (refine (fun (hx : Same k s x) => ?_) (?_ : Same k s x); all_goals first | (guard_target =ₐ Same k s x; unfold x; clear x) | clear_value x) | clear_value x)
    | (with_reducible refine condMet_s ?_ ?_; exact maskFree w rfl)
    | (with_reducible refine setTrig_s ?_ ?_; exact maskFree w rfl)
    | (with_reducible refine Same_foldl ?_ ?_; intro _ _ _) | split | with_reducible refine SameO_next ?_

theorem noteFire_s {k : Nat} {s t : State} {a0 : _} {a1 : _} {a2 : _} {a3 : _} (w : k &&& 0x3C100000000000000000000000000000000000000000000000000000000000000 = 0) (h : Same k s t) :
    Same k s (noteFire a0 a1 a2 a3 t) := by
  unfold noteFire
  repeat' first
    | with_reducible assumption | (with_reducible refine wr_s ?_ ?_; exact bitFree w rfl) | split

theorem sendTrigger_s {k : Nat} {s t : State} {a0 : _} (w : k &&& 0x20000000000000 = 0) (h : Same k s t) :
    Same k s (sendTrigger a0 t) := by
  unfold sendTrigger
  repeat' first
    | with_reducible assumption | (with_reducible refine toVre_s ?_ ?_; exact maskFree w rfl) | split

theorem execTriggerFire_s {k : Nat} {s t : State} {a0 : _} (w : k &&& 0x5200010BC100000000000000000000000000000000000000000000000025000000004000 = 0) (h : Same k s t) :
    SameO k s (execTriggerFire a0 t) := by
  unfold execTriggerFire
  repeat' first
    | with_reducible assumption | (with_reducible refine inc_s ?_ ?_; exact bitFree w rfl)
    | (extract_lets +onlyGivenNames x; first | (refine (fun (hx : Same k s x) => ?_) (?_ : Same k s x); all_goals first | (guard_target =ₐ Same k s x; unfold x; clear x) | clear_value x) | clear_value x)
    | (with_reducible refine sendTrigger_s ?_ ?_; exact maskFree w rfl)
    | (with_reducible refine noteFire_s ?_ ?_; exact maskFree w rfl)
    | (with_reducible refine setTrig_s ?_ ?_; exact maskFree w rfl)
    | (with_reducible refine directRecord_s ?_ ?_; exact maskFree w rfl)
    | (with_reducible refine raise_s ?_ ?_; exact maskFree w rfl) | split | with_reducible refine SameO_next ?_

theorem takeArm_s {k : Nat} {s t : State} {a0 : _} {a1 : _} (w : k &&& 0x42100000000000000000000000000000000000000000000000004000000000000 = 0) (h : Same k s t) :
    Same k s (takeArm a0 a1 t) := by
  unfold takeArm
  repeat' first
    | with_reducible assumption | (with_reducible refine inc_s ?_ ?_; exact bitFree w rfl)
    | (with_reducible refine wr_s ?_ ?_; exact bitFree w rfl)
    | (extract_lets +onlyGivenNames x; first | (refine (fun (hx : Same k s x) => ?_) (?_ : Same k s x); all_goals first | (guard_target =ₐ Same k s x; unfold x; clear x) | clear_value x) | clear_value x)
    | (with_reducible refine setTrig_s ?_ ?_; exact maskFree w rfl) | split

theorem armAt_s {k : Nat} {s t : State} {a0 : _} (w : k &&& 0x42100000000000000000000000000000000000000000000000024000000000000 = 0) (h : Same k s t) :
    Same k s (armAt a0 t) := by
  unfold armAt
  repeat' first
    | with_reducible assumption
    | (extract_lets +onlyGivenNames x; first | (refine (fun (hx : Same k s x) => ?_) (?_ : Same k s x); all_goals first | (guard_target =ₐ Same k s x; unfold x; clear x) | clear_value x) | clear_value x)
    | (with_reducible refine takeArm_s ?_ ?_; exact maskFree w rfl)
    | (with_reducible refine sendTrigger_s ?_ ?_; exact maskFree w rfl) | split

theorem writeArm_s {k : Nat} {s t : State} (w : k &&& 0x42100000000000000000000000000000000000000000000000024000000000000 = 0) (h : Same k s t) :
    SameA k s (writeArm t) := by
  unfold writeArm
  repeat' first
    | with_reducible assumption | (with_reducible refine armAt_s ?_ ?_; exact maskFree w rfl) | split
    | with_reducible refine SameA_ok ?_ | with_reducible exact SameA_err

theorem armEvent_s {k : Nat} {s t : State} (w : k &&& 0x42100000000000000000000000000000000000000000000000024000000000000 = 0) (h : Same k s t) :
    SameM k s (armEvent t) := by
  unfold armEvent
  repeat' first
    | with_reducible assumption | (with_reducible refine armAt_s ?_ ?_; exact maskFree w rfl) | split
    | with_reducible refine SameM_some ?_ | with_reducible exact SameM_none

theorem becomeArmed_s {k : Nat} {s t : State} (w : k &&& 0x100000000000000000000000000000000000000000000000004000000000000 = 0) (h : Same k s t) :
    Same k s (becomeArmed t) := by
  unfold becomeArmed
  repeat' first
    | with_reducible assumption | (with_reducible refine wr_s ?_ ?_; exact bitFree w rfl)
    | (extract_lets +onlyGivenNames x; clear_value x) | (with_reducible refine setTrig_s ?_ ?_; exact maskFree w rfl)
    | split

theorem execArmGrainReached_s {k : Nat} {s t : State} (w : k &&& 0x100000000000000000000000000000000000000000000000004000000000000 = 0) (h : Same k s t) :
    SameO k s (execArmGrainReached t) := by
  unfold execArmGrainReached
  repeat' first
    | with_reducible assumption | (with_reducible refine becomeArmed_s ?_ ?_; exact maskFree w rfl) | split
    | with_reducible refine SameO_next ?_

theorem disarm_s {k : Nat} {s t : State} (w : k &&& 0x100000000000000000000000000000000000000000000000004000000000000 = 0) (h : Same k s t) :
    Same k s (disarm t) := by
  unfold disarm
  repeat' first
    | with_reducible assumption | (with_reducible refine wr_s ?_ ?_; exact bitFree w rfl)
    | (extract_lets +onlyGivenNames x; clear_value x) | (with_reducible refine setTrig_s ?_ ?_; exact maskFree w rfl)
    | split

theorem writeDisarm_s {k : Nat} {s t : State} (w : k &&& 0x100000000000000000000000000000000000000000000000024000000000000 = 0) (h : Same k s t) :
    SameA k s (writeDisarm t) := by
  unfold writeDisarm
  repeat' first
    | with_reducible assumption
    | (extract_lets +onlyGivenNames x; (refine (fun (hx : Same k s x) => ?_) (?_ : Same k s x); all_goals first | (guard_target =ₐ Same k s x; unfold x; clear x) | clear_value x))
    | (with_reducible refine disarm_s ?_ ?_; exact maskFree w rfl)
    | (with_reducible refine sendTrigger_s ?_ ?_; exact maskFree w rfl) | split | with_reducible refine SameA_ok ?_
    | with_reducible exact SameA_err

theorem takeMsg_s {k : Nat} {s t : State} {a0 : _} (w : k &&& 0x4000000000000 = 0) (h : Same k s t) :
    SameMP k s (takeMsg a0 t) := by
  unfold takeMsg
  repeat' first
    | with_reducible assumption | (extract_lets +onlyGivenNames x; clear_value x)
    | (with_reducible refine setTrig_s ?_ ?_; exact maskFree w rfl) | split | with_reducible refine SameMP_some ?_
    | with_reducible exact SameMP_none

theorem execArmMessage_s {k : Nat} {s t : State} (w : k &&& 0x842100000000000000000000000000000000000000000000000004000000000000 = 0) (h : Same k s t) :
    SameO k s (execArmMessage t) := by
  unfold execArmMessage
  repeat' first
    | with_reducible assumption | (with_reducible refine inc_s ?_ ?_; exact bitFree w rfl)
    | (extract_lets +onlyGivenNames x; first | (refine (fun (hx : Same k s x) => ?_) (?_ : Same k s x); all_goals first | (guard_target =ₐ Same k s x; unfold x; clear x) | clear_value x) | clear_value x)
    | (with_reducible refine SameMP.some (takeMsg_s ?_ ?_) (by assumption); exact maskFree w rfl)
    | (with_reducible refine becomeArmed_s ?_ ?_; exact maskFree w rfl)
    | (with_reducible refine takeArm_s ?_ ?_; exact maskFree w rfl) | split | with_reducible refine SameO_next ?_

theorem execDisarmMessage_s {k : Nat} {s t : State} (w : k &&& 0x100000000000000000000000000000000000000000000000004000000000000 = 0) (h : Same k s t) :
    SameO k s (execDisarmMessage t) := by
  unfold execDisarmMessage
  repeat' first
    | with_reducible assumption
    | (with_reducible refine SameMP.some (takeMsg_s ?_ ?_) (by assumption); exact maskFree w rfl)
    | (with_reducible refine disarm_s ?_ ?_; exact maskFree w rfl) | split | with_reducible refine SameO_next ?_

theorem execFireMessage_s {k : Nat} {s t : State} (w : k &&& 0x52000073C100000000000000000000000000000000000000000000000005000000004000 = 0) (h : Same k s t) :
    SameO k s (execFireMessage t) := by
  unfold execFireMessage
  repeat' first
    | with_reducible assumption | (with_reducible refine inc_s ?_ ?_; exact bitFree w rfl)
    | (extract_lets +onlyGivenNames x; first | (refine (fun (hx : Same k s x) => ?_) (?_ : Same k s x); all_goals first | (guard_target =ₐ Same k s x; unfold x; clear x) | clear_value x) | clear_value x)
    | (with_reducible refine SameMP.some (takeMsg_s ?_ ?_) (by assumption); exact maskFree w rfl)
    | (with_reducible refine noteFire_s ?_ ?_; exact maskFree w rfl)
    | (with_reducible refine setTrig_s ?_ ?_; exact maskFree w rfl)
    | (with_reducible refine directRecord_s ?_ ?_; exact maskFree w rfl)
    | (with_reducible refine raise_s ?_ ?_; exact maskFree w rfl) | split | with_reducible refine SameO_next ?_

end Sys2Proof.Machine
end

