-- ==== Sys2Proof/Laws/SameUnits.lean ====
section
/-! SUPPORT. What stays as it was in monitors, clocks, thermal control, DRAM, the control store, the NVM, the life cycle, start-up, deliveries, the queues' commands. -/

namespace Sys2Proof.Machine

-- One proof at a time: proofs elaborated side by side take more memory than the check grants.
set_option Elab.async false
set_option linter.all false

/-! ### Mau -/

theorem mauset_s {k : Nat} {s t : State} {a0 : _} {a1 : _} (w : k &&& 0x800000000000000 = 0) (h : Same k s t) :
    Same k s (mauset a0 a1 t) := by
  unfold mauset
  repeat' first
    | with_reducible assumption
    | (with_reducible refine Same_maus (by with_reducible assumption) ?_; exact maskFree w rfl) | split

theorem addConversion_s {k : Nat} {s t : State} {a0 : _} {a1 : _} {a2 : _} {a3 : _} (w : k &&& 0x8000000000000000000000000000000000000000000000000000000000000000000000000000000000000000000000000000000000000000000000000000000000000000000000 = 0) (h : Same k s t) :
    Same k s (addConversion a0 a1 a2 a3 t).2 := by
  unfold addConversion
  repeat' first
    | with_reducible assumption | (with_reducible refine inc_s ?_ ?_; exact bitFree w rfl)
    | (extract_lets +onlyGivenNames x; clear_value x) | split | with_reducible refine SameP_mk ?_

theorem countOver_s {k : Nat} {s t : State} {a0 : _} {a1 : _} (w : k &&& 0x4000000000000000000000000000000000000000000000000000000000000000000000000000000000000000000000000000000000000000000000000000000000000000000000 = 0) (h : Same k s t) :
    Same k s (countOver a0 a1 t) := by
  unfold countOver
  repeat' first
    | with_reducible assumption | (with_reducible refine inc_s ?_ ?_; exact bitFree w rfl) | split

theorem protConversion_s {k : Nat} {s t : State} {a0 : _} {a1 : _} (w : k &&& 0xC000000000000000000000000000000000000000000000000000000000000000000000000000000000000000000000000000000000000000000000000000002800000000000000 = 0) (h : Same k s t) :
    Same k s (protConversion a0 a1 t) := by
  unfold protConversion
  repeat' first
    | with_reducible assumption
    | (with_reducible refine Same_cool (by with_reducible assumption) ?_; exact maskFree w rfl)
    | (extract_lets +onlyGivenNames x; first | (refine (fun (hx : Same k s x) => ?_) (?_ : Same k s x); all_goals first | (guard_target =ₐ Same k s x; unfold x; clear x) | clear_value x) | (refine (fun (hx : Same k s x.2) => ?_) (?_ : Same k s x.2); all_goals first | (guard_target =ₐ Same k s x.2; unfold x; clear x) | clear_value x) | clear_value x)
    | (with_reducible refine countOver_s ?_ ?_; exact maskFree w rfl)
    | (with_reducible refine addConversion_s ?_ ?_; exact maskFree w rfl)
    | (with_reducible refine SameP.snd (addConversion_s ?_ ?_) (by assumption); exact maskFree w rfl)
    | (with_reducible refine mauset_s ?_ ?_; exact maskFree w rfl) | split

theorem mauStart_s {k : Nat} {s t : State} {a0 : _} (w : k &&& 0x2000000000000000000000000000000000000000000000000000000000000000000000000000000000000000000000000000000000000000000000000000000800000000000000 = 0) (h : Same k s t) :
    Same k s (mauStart a0 t).2 := by
  unfold mauStart
  repeat' first
    | with_reducible assumption | (with_reducible refine inc_s ?_ ?_; exact bitFree w rfl)
    | (extract_lets +onlyGivenNames x; clear_value x) | (with_reducible refine mauset_s ?_ ?_; exact maskFree w rfl)
    | split | with_reducible refine SameP_mk ?_

theorem mauStop_s {k : Nat} {s t : State} {a0 : _} (w : k &&& 0x800000000000000 = 0) (h : Same k s t) :
    Same k s (mauStop a0 t) := by
  unfold mauStop
  repeat' first
    | with_reducible assumption | (extract_lets +onlyGivenNames x; clear_value x)
    | (with_reducible refine mauset_s ?_ ?_; exact maskFree w rfl) | split

theorem beginConv1_s {k : Nat} {s t : State} {a0 : _} {a1 : _} {a2 : _} {a3 : _} (w : k &&& 0x10000000000000000000000000000000000000000000000000000000000000000000000000000000000000000000000000000000000000000000000000000000800000000000000 = 0) (h : Same k s t) :
    Same k s (beginConv1 a0 a1 a2 a3 t) := by
  unfold beginConv1
  repeat' first
    | with_reducible assumption | (with_reducible refine inc_s ?_ ?_; exact bitFree w rfl)
    | (extract_lets +onlyGivenNames x; clear_value x) | (with_reducible refine mauset_s ?_ ?_; exact maskFree w rfl)
    | split

theorem sequenceNext_s {k : Nat} {s t : State} {a0 : _} (w : k &&& 0x10000000000000000000000000000000000000000000000000000000000000000000000000000000000000000000000000000000000000000000000000000000800000000000000 = 0) (h : Same k s t) :
    Same k s (sequenceNext a0 t) := by
  unfold sequenceNext
  repeat' first
    | with_reducible assumption | (extract_lets +onlyGivenNames x; clear_value x)
    | (with_reducible refine beginConv1_s ?_ ?_; exact maskFree w rfl)
    | (with_reducible refine mauset_s ?_ ?_; exact maskFree w rfl) | split

theorem mauNext_s {k : Nat} {s t : State} {a0 : _} (w : k &&& 0x1410000000000000000000000000000000000000000000000000000000000000000000000000000000000000000000000000000000000000000000000000000000800000000000000 = 0) (h : Same k s t) :
    Same k s (mauNext a0 t) := by
  unfold mauNext
  repeat' first
    | with_reducible assumption | (with_reducible refine wr_s ?_ ?_; exact bitFree w rfl)
    | (extract_lets +onlyGivenNames x; clear_value x) | (with_reducible refine sequenceNext_s ?_ ?_; exact maskFree w rfl)
    | (with_reducible refine mauset_s ?_ ?_; exact maskFree w rfl) | split

theorem execMauEntryStart_s {k : Nat} {s t : State} {a0 : _} (w : k &&& 0x10000000000000000000000000000000000000000000000000000000000000000000000000000000000000000000000000000000000000000000000000000000800000000000000 = 0) (h : Same k s t) :
    SameO k s (execMauEntryStart a0 t) := by
  unfold execMauEntryStart
  repeat' first
    | with_reducible assumption | (extract_lets +onlyGivenNames x; clear_value x)
    | (with_reducible refine sequenceNext_s ?_ ?_; exact maskFree w rfl)
    | (with_reducible refine mauset_s ?_ ?_; exact maskFree w rfl) | split | with_reducible refine SameO_next ?_

theorem entryDone_s {k : Nat} {s t : State} {a0 : _} {a1 : _} {a2 : _} (w : k &&& 0x45800000000000000000000000000000000000000000000000000000000000000000000000000000000000000000000000000000000000000000000000000000800000000004000 = 0) (h : Same k s t) :
    Same k s (entryDone a0 a1 a2 t) := by
  unfold entryDone
  repeat' first
    | with_reducible assumption | (with_reducible refine incWrap_s ?_ ?_; exact bitFree w rfl)
    | (with_reducible refine wr_s ?_ ?_; exact bitFree w rfl)
    | (extract_lets +onlyGivenNames x; first | (refine (fun (hx : Same k s x) => ?_) (?_ : Same k s x); all_goals first | (guard_target =ₐ Same k s x; unfold x; clear x) | clear_value x) | clear_value x)
    | (with_reducible refine countOver_s ?_ ?_; exact maskFree w rfl)
    | (with_reducible refine mauset_s ?_ ?_; exact maskFree w rfl)
    | (with_reducible refine raise_s ?_ ?_; exact maskFree w rfl) | split

theorem sequenceConversion_s {k : Nat} {s t : State} {a0 : _} {a1 : _} {a2 : _} {a3 : _} {a4 : _} (w : k &&& 0x4D800000000000000000000000000000000000000000000000000000000000000000000000000000000000000000000000000000000000000000000000000000800000000004000 = 0) (h : Same k s t) :
    Same k s (sequenceConversion a0 a1 a2 a3 a4 t) := by
  unfold sequenceConversion
  repeat' first
    | with_reducible assumption
    | (extract_lets +onlyGivenNames x; first | (refine (fun (hx : Same k s x.2) => ?_) (?_ : Same k s x.2); all_goals first | (guard_target =ₐ Same k s x.2; unfold x; clear x) | clear_value x) | clear_value x)
    | (with_reducible refine entryDone_s ?_ ?_; exact maskFree w rfl)
    | (with_reducible refine addConversion_s ?_ ?_; exact maskFree w rfl)
    | (with_reducible refine SameP.snd (addConversion_s ?_ ?_) (by assumption); exact maskFree w rfl)
    | (with_reducible refine mauset_s ?_ ?_; exact maskFree w rfl) | split

theorem injectedConversion_s {k : Nat} {s t : State} {a0 : _} {a1 : _} {a2 : _} {a3 : _} (w : k &&& 0x30C000000000000000000000000000000000000000000000000000000000000000000000000000000000000000000000000000000000000000000000000000000800000000000000 = 0) (h : Same k s t) :
    Same k s (injectedConversion a0 a1 a2 a3 t) := by
  unfold injectedConversion
  repeat' first
    | with_reducible assumption | (with_reducible refine wr_s ?_ ?_; exact bitFree w rfl)
    | (extract_lets +onlyGivenNames x; first | (refine (fun (hx : Same k s x) => ?_) (?_ : Same k s x); all_goals first | (guard_target =ₐ Same k s x; unfold x; clear x) | clear_value x) | (refine (fun (hx : Same k s x.2) => ?_) (?_ : Same k s x.2); all_goals first | (guard_target =ₐ Same k s x.2; unfold x; clear x) | clear_value x) | clear_value x)
    | (with_reducible refine countOver_s ?_ ?_; exact maskFree w rfl)
    | (with_reducible refine addConversion_s ?_ ?_; exact maskFree w rfl)
    | (with_reducible refine SameP.snd (addConversion_s ?_ ?_) (by assumption); exact maskFree w rfl)
    | (with_reducible refine mauset_s ?_ ?_; exact maskFree w rfl) | split

theorem endConv0_s {k : Nat} {s t : State} {a0 : _} {a1 : _} (w : k &&& 0x175D800000000000000000000000000000000000000000000000000000000000000000000000000000000000000000000000000000000000000000000000000000800000000004000 = 0) (h : Same k s t) :
    Same k s (endConv0 a0 a1 t) := by
  unfold endConv0
  repeat' first
    | with_reducible assumption
    | (extract_lets +onlyGivenNames x; first | (refine (fun (hx : Same k s x) => ?_) (?_ : Same k s x); all_goals first | (guard_target =ₐ Same k s x; unfold x; clear x) | clear_value x) | clear_value x)
    | (with_reducible refine injectedConversion_s ?_ ?_; exact maskFree w rfl)
    | (with_reducible refine sequenceConversion_s ?_ ?_; exact maskFree w rfl)
    | (with_reducible refine mauNext_s ?_ ?_; exact maskFree w rfl)
    | (with_reducible refine mauset_s ?_ ?_; exact maskFree w rfl) | split

theorem conv1Next_s {k : Nat} {s t : State} {a0 : _} (w : k &&& 0x10000000000000000000000000000000000000000000000000000000000000000000000000000000000000000000000000000000000000000000000000000000800000000000000 = 0) (h : Same k s t) :
    Same k s (conv1Next a0 t) := by
  unfold conv1Next
  repeat' first
    | with_reducible assumption | (extract_lets +onlyGivenNames x; clear_value x)
    | (with_reducible refine beginConv1_s ?_ ?_; exact maskFree w rfl) | split

theorem endConv1_s {k : Nat} {s t : State} {a0 : _} {a1 : _} {a2 : _} (w : k &&& 0x145D800000000000000000000000000000000000000000000000000000000000000000000000000000000000000000000000000000000000000000000000000000800000000004000 = 0) (h : Same k s t) :
    Same k s (endConv1 a0 a1 a2 t) := by
  unfold endConv1
  repeat' first
    | with_reducible assumption
    | (extract_lets +onlyGivenNames x; first | (refine (fun (hx : Same k s x) => ?_) (?_ : Same k s x); all_goals first | (guard_target =ₐ Same k s x; unfold x; clear x) | clear_value x) | clear_value x)
    | (with_reducible refine conv1Next_s ?_ ?_; exact maskFree w rfl)
    | (with_reducible refine sequenceConversion_s ?_ ?_; exact maskFree w rfl)
    | (with_reducible refine mauNext_s ?_ ?_; exact maskFree w rfl)
    | (with_reducible refine mauset_s ?_ ?_; exact maskFree w rfl) | split

theorem endProtected_s {k : Nat} {s t : State} {a0 : _} {a1 : _} (w : k &&& 0xC000000000000000000000000000000000000000000000000000000000000000000000000000000000000000000000000000000000000000000000000000002800000000000000 = 0) (h : Same k s t) :
    Same k s (endProtected a0 a1 t) := by
  unfold endProtected
  repeat' first
    | with_reducible assumption | (with_reducible refine protConversion_s ?_ ?_; exact maskFree w rfl) | split

theorem execConversionDone_s {k : Nat} {s t : State} {a0 : _} {a1 : _} {a2 : _} (w : k &&& 0x175D800000000000000000000000000000000000000000000000000000000000000000000000000000000000000000000000000000000000000000000000000002800000000004000 = 0) (h : Same k s t) :
    SameO k s (execConversionDone a0 a1 a2 t) := by
  unfold execConversionDone
  repeat' first
    | with_reducible assumption | (with_reducible refine endProtected_s ?_ ?_; exact maskFree w rfl)
    | (with_reducible refine endConv1_s ?_ ?_; exact maskFree w rfl)
    | (with_reducible refine endConv0_s ?_ ?_; exact maskFree w rfl) | split | with_reducible refine SameO_next ?_

theorem writeInj_s {k : Nat} {s t : State} {a0 : _} {a1 : _} (w : k &&& 0x1510000000000000000000000000000000000000000000000000000000000000000000000000000000000000000000000000000000000000000000000000000000800000000000000 = 0) (h : Same k s t) :
    SameA k s (writeInj a0 a1 t) := by
  unfold writeInj
  repeat' first
    | with_reducible assumption | (with_reducible refine wr_s ?_ ?_; exact bitFree w rfl)
    | (extract_lets +onlyGivenNames x; first | (refine (fun (hx : Same k s x) => ?_) (?_ : Same k s x); all_goals first | (guard_target =ₐ Same k s x; unfold x; clear x) | clear_value x) | clear_value x)
    | (with_reducible refine mauNext_s ?_ ?_; exact maskFree w rfl)
    | (with_reducible refine mauset_s ?_ ?_; exact maskFree w rfl) | split | with_reducible refine SameA_ok ?_
    | with_reducible exact SameA_err

theorem startCal_s {k : Nat} {s t : State} {a0 : _} (w : k &&& 0x1410000000000000000000000000000000000000000000000000000000000000000000000000000000000000000000000000000000000000000000000000000000800000000000000 = 0) (h : Same k s t) :
    SameA k s (startCal a0 t) := by
  unfold startCal
  repeat' first
    | with_reducible assumption
    | (extract_lets +onlyGivenNames x; first | (refine (fun (hx : Same k s x) => ?_) (?_ : Same k s x); all_goals first | (guard_target =ₐ Same k s x; unfold x; clear x) | clear_value x) | clear_value x)
    | (with_reducible refine mauNext_s ?_ ?_; exact maskFree w rfl)
    | (with_reducible refine mauset_s ?_ ?_; exact maskFree w rfl) | split | with_reducible refine SameA_ok ?_
    | with_reducible exact SameA_err

theorem setFactors_s {k : Nat} {s t : State} {a0 : _} {a1 : _} {a2 : _} (w : k &&& 0x18000000000000000000000000000000000000000000000000000000000000000000000000000000000000000000000000000000000000000000000000000000000000000000000000 = 0) (h : Same k s t) :
    Same k s (setFactors a0 a1 a2 t) := by
  unfold setFactors
  repeat' first
    | with_reducible assumption | (with_reducible refine wr_s ?_ ?_; exact bitFree w rfl)
    | (with_reducible refine Same_foldl ?_ ?_; intro _ _ _) | split

theorem execMauCalDone_s {k : Nat} {s t : State} {a0 : _} {a1 : _} {a2 : _} (w : k &&& 0x1F410000000000000000000000000000000000000000000000000000000000000000000000000000000000000000000000000000000000000000000000000000000800000000000000 = 0) (h : Same k s t) :
    SameO k s (execMauCalDone a0 a1 a2 t) := by
  unfold execMauCalDone
  repeat' first
    | with_reducible assumption | (with_reducible refine inc_s ?_ ?_; exact bitFree w rfl)
    | (with_reducible refine wr_s ?_ ?_; exact bitFree w rfl)
    | (extract_lets +onlyGivenNames x; first | (refine (fun (hx : Same k s x) => ?_) (?_ : Same k s x); all_goals first | (guard_target =ₐ Same k s x; unfold x; clear x) | clear_value x) | clear_value x)
    | (with_reducible refine setFactors_s ?_ ?_; exact maskFree w rfl)
    | (with_reducible refine mauNext_s ?_ ?_; exact maskFree w rfl)
    | (with_reducible refine mauset_s ?_ ?_; exact maskFree w rfl) | split | with_reducible refine SameO_next ?_

theorem execRefReady_s {k : Nat} {s t : State} {a0 : _} {a1 : _} (w : k &&& 0x40000000000000000000000000000000000000000000000000000000000000000000000000000000000000000000000000000000000000000000000000000800000000000000 = 0) (h : Same k s t) :
    SameO k s (execRefReady a0 a1 t) := by
  unfold execRefReady
  repeat' first
    | with_reducible assumption | (with_reducible refine wr_s ?_ ?_; exact bitFree w rfl)
    | (extract_lets +onlyGivenNames x; first | (refine (fun (hx : Same k s x) => ?_) (?_ : Same k s x); all_goals first | (guard_target =ₐ Same k s x; unfold x; clear x) | clear_value x) | clear_value x)
    | (with_reducible refine mauset_s ?_ ?_; exact maskFree w rfl) | split | with_reducible refine SameO_next ?_

theorem chooseRef_s {k : Nat} {s t : State} {a0 : _} {a1 : _} {a2 : _} (w : k &&& 0x70000000000000000000000000000000000000000000000000000000000000000000000000000000000000000000000000000000000000000000000000000800000000000000 = 0) (h : Same k s t) :
    Same k s (chooseRef a0 a1 a2 t) := by
  unfold chooseRef
  repeat' first
    | with_reducible assumption | (with_reducible refine wr_s ?_ ?_; exact bitFree w rfl)
    | (extract_lets +onlyGivenNames x; first | (refine (fun (hx : Same k s x) => ?_) (?_ : Same k s x); all_goals first | (guard_target =ₐ Same k s x; unfold x; clear x) | clear_value x) | clear_value x)
    | (with_reducible refine mauset_s ?_ ?_; exact maskFree w rfl) | split

theorem resetMau_s {k : Nat} {s t : State} {u : Nat} (w : k &&& 0x1F77FBF0000000000000000000000000000000000000000000000000000000000000000000000000000000000000000000000000000000000000000000000000000800000000000000 = 0) (h : Same k s t) : Same k s (resetMau u t) := by
  have key : ∀ (l : List Reg), (∀ r ∈ l, k.testBit (63 + r.ctorIdx) = false) → ∀ x, Same k s x →
      Same k s (l.foldl (fun t r => wr r (r.dflt u) u t) x) := by
    intro l
    induction l with
    | nil => exact fun _ x hx => hx
    | cons r l ih => exact fun hl x hx => ih (fun q hq => hl q (List.mem_cons_of_mem _ hq)) _ (wr_s (hl r (List.mem_cons_self ..)) hx)
  unfold resetMau
  dsimp only
  refine mauset_s (maskFree w rfl) (setFactors_s (maskFree w rfl) (Same_foldl (fun _ _ q => wr_s (bitFree w rfl) (wr_s (bitFree w rfl) q)) (key _ ?_ _ h)))
  intro r hr
  simp only [List.mem_cons, List.not_mem_nil, or_false] at hr
  rcases hr with rfl | rfl | rfl | rfl | rfl | rfl | rfl | rfl | rfl | rfl | rfl | rfl | rfl | rfl | rfl | rfl | rfl | rfl
  all_goals exact bitFree w rfl

/-! ### Clocks -/

theorem setClk_s {k : Nat} {s t : State} {a0 : _} (w : k &&& 0x40000000000000 = 0) (h : Same k s t) :
    Same k s (setClk a0 t) := by
  unfold setClk
  repeat' first
    | with_reducible assumption | (with_reducible refine Same_clk (by with_reducible assumption) ?_; exact maskFree w rfl)
    | split

theorem milestone_s {k : Nat} {s t : State} {a0 : _} (w : k &&& 0x200000000000000000000000000000000000000000000000000000000000000000000000000000000000000000000000000000000000000000000000000000000000000000000000000000000000000000 = 0) (h : Same k s t) :
    Same k s (milestone a0 t) := by
  unfold milestone
  repeat' first
    | with_reducible assumption | (with_reducible refine wr_s ?_ ?_; exact bitFree w rfl) | split

theorem settleBoot_s {k : Nat} {s t : State} (w : k &&& 0x220000000000000000000000000000000000000000000000000000000000000000000000000000000000000000000000000000000000000000000000000000000000000000000000000000000000000000 = 0) (h : Same k s t) :
    Same k s (settleBoot t) := by
  unfold settleBoot
  repeat' first
    | with_reducible assumption | (with_reducible refine wr_s ?_ ?_; exact bitFree w rfl)
    | (extract_lets +onlyGivenNames x; clear_value x) | (with_reducible refine milestone_s ?_ ?_; exact maskFree w rfl)
    | split

theorem bootMet_s {k : Nat} {s t : State} {a0 : _} (w : k &&& 0x320000000000000000000000000000000000000000000000000000000000000000000000000000000000000000000000000000000000000000000000000000000000000000000000000000000000000000 = 0) (h : Same k s t) :
    Same k s (bootMet a0 t) := by
  unfold bootMet
  repeat' first
    | with_reducible assumption | (with_reducible refine wrBit_s ?_ ?_; exact bitFree w rfl)
    | (with_reducible refine settleBoot_s ?_ ?_; exact maskFree w rfl) | split

theorem setDram_s {k : Nat} {s t : State} {d : Dram} (w : k &&& 0x2000000 = 0) (h : Same k s t) (e : d.cells = t.dram.cells) :
    Same k s (setDram d t) := by
  unfold setDram
  exact Same_dram h w e

theorem settleListed_s {k : Nat} {s t : State} (w : k &&& 0x80000000000000000000000000000000000000000000000000000000000000000000000000000000000000000000000000 = 0) (h : Same k s t) :
    Same k s (settleListed t) := by
  unfold settleListed
  repeat' first
    | with_reducible assumption | (with_reducible refine wr_s ?_ ?_; exact bitFree w rfl)
    | (extract_lets +onlyGivenNames x; clear_value x) | (with_reducible refine Same_foldl ?_ ?_; intro _ _ _) | split

theorem wipeTotals_s {k : Nat} {s t : State} (w : k &&& 0x18000000000000000000000000000000000000000000000000000000000000000000000000000000000000000000000000 = 0) (h : Same k s t) :
    Same k s (wipeTotals t) := by
  unfold wipeTotals
  repeat' first
    | with_reducible assumption | (with_reducible refine wr_s ?_ ?_; exact bitFree w rfl)
    | (extract_lets +onlyGivenNames x; clear_value x) | split

theorem pauseWipe_s {k : Nat} {s t : State} (w : k &&& 0x2000000 = 0) (h : Same k s t) :
    Same k s (pauseWipe t) := by
  unfold pauseWipe
  repeat' first
    | with_reducible assumption
    | (extract_lets +onlyGivenNames x; first | (have _ : (x : Dram) = x := rfl; subst x) | clear_value x)
    | (with_reducible refine setDram_s ?_ ?_ ?_; exact maskFree w rfl; rotate_left; rfl) | split

theorem startWipe_s {k : Nat} {s t : State} (w : k &&& 0x18400000000000000000000000000000000000000000000000000000000000000000000000000000000000000002000000 = 0) (h : Same k s t) :
    Same k s (startWipe t) := by
  unfold startWipe
  repeat' first
    | with_reducible assumption | (with_reducible refine wr_s ?_ ?_; exact bitFree w rfl)
    | (extract_lets +onlyGivenNames x; first | (have _ : (x : Dram) = x := rfl; subst x) | clear_value x)
    | (with_reducible refine wipeTotals_s ?_ ?_; exact maskFree w rfl)
    | (with_reducible refine setDram_s ?_ ?_ ?_; exact maskFree w rfl; rotate_left; rfl) | split

theorem applyTable_s {k : Nat} {s t : State} (w : k &&& 0x84000000000000000000000000000000000000000000000000000000000000000000000000000000000000000000000000 = 0) (h : Same k s t) :
    Same k s (applyTable t) := by
  unfold applyTable
  repeat' first
    | with_reducible assumption | (with_reducible refine wr_s ?_ ?_; exact bitFree w rfl)
    | (extract_lets +onlyGivenNames x; clear_value x) | (with_reducible refine settleListed_s ?_ ?_; exact maskFree w rfl)
    | split

theorem trainChannel_s {k : Nat} {s t : State} {a0 : _} (w : k &&& 0x280000000000000000000000000000000000000000000000000000000000000000000000000000000000000000002000000 = 0) (h : Same k s t) :
    Same k s (trainChannel a0 t) := by
  unfold trainChannel
  repeat' first
    | with_reducible assumption | (with_reducible refine wr_s ?_ ?_; exact bitFree w rfl)
    | (extract_lets +onlyGivenNames x; clear_value x) | (with_reducible refine setDch_s ?_ ?_; exact maskFree w rfl)
    | split

theorem endTransition_s {k : Nat} {s t : State} (w : k &&& 0x10000000000000000000000000000000000000000000000000000000000000000000000000000000000000000000000000000000000000000000000000000000000000000000000000000000000400000 = 0) (h : Same k s t) :
    Same k s (endTransition t) := by
  unfold endTransition
  repeat' first
    | with_reducible assumption | (with_reducible refine wr_s ?_ ?_; exact bitFree w rfl)
    | (with_reducible refine Same_boot (by with_reducible assumption) ?_; exact maskFree w rfl)
    | (extract_lets +onlyGivenNames x; clear_value x) | split

theorem settleListed_keepsDram (s : State) : (settleListed s).dram = s.dram := by
  unfold settleListed
  refine List.foldlRecOn (motive := fun t : State => t.dram = s.dram) _ _ rfl ?_
  intro t ht c _
  dsimp only
  split
  · exact ht
  · exact ht

theorem settleTraining_s {k : Nat} {s t : State} (w : k &&& 0x33000000000000000000000000000000000000000000000000000000000000009C400000000000000000000000000000000000000000000000000000000000000000000000000000000000000002400000 = 0) (h : Same k s t) : Same k s (settleTraining t) := by
  unfold settleTraining
  have h2 : ∀ {u}, Same k s u → Same k s (settleListed u) := fun q => settleListed_s (maskFree w rfl) q
  split
  · exact h
  split
  · extract_lets s1
    have h1 : Same k s s1 := milestone_s (maskFree w rfl) (bootMet_s (maskFree w rfl) h)
    clear_value s1
    split
    · exact startWipe_s (maskFree w rfl) (applyTable_s (maskFree w rfl) h1)
    · exact endTransition_s (maskFree w rfl) (wr_s (bitFree w rfl) (wr_s (bitFree w rfl) (h2 h1)))
  split
  · exact wr_s (bitFree w rfl) (h2 h)
  split
  · exact wr_s (bitFree w rfl) (setDram_s (maskFree w rfl) (h2 h) (by rw [settleListed_keepsDram]))
  · exact settleState_s (maskFree w rfl) (wr_s (bitFree w rfl) (h2 h))

theorem toFio_s {k : Nat} {s t : State} (w : k &&& 0x320000000000000000000000000005000002200000000000000000000000000000000000000000000000000000520000000000000000000000000000000000000000000000000000000081000000000000 = 0) (h : Same k s t) :
    Same k s (toFio t) := by
  unfold toFio
  repeat' first
    | with_reducible assumption | (with_reducible refine flag_s ?_ ?_; exact bitFree w rfl)
    | (with_reducible refine wr_s ?_ ?_; exact bitFree w rfl)
    | (with_reducible refine bootMet_s ?_ ?_; exact maskFree w rfl)
    | (with_reducible refine onFio_s ?_ ?_; exact maskFree w rfl) | split

theorem lowMarker_s {k : Nat} {s t : State} {a0 : _} (w : k &&& 0x20000 = 0) (h : Same k s t) :
    Same k s (lowMarker a0 t) := by
  unfold lowMarker
  repeat' first
    | with_reducible assumption | (extract_lets +onlyGivenNames x; clear_value x)
    | (with_reducible refine mkset_s ?_ ?_; exact maskFree w rfl) | split

theorem silenceDie_s {k : Nat} {s t : State} {a0 : _} {a1 : _} {a2 : _} (w : k &&& 0x400000000004000010000000000000000000000000000000200020000 = 0) (h : Same k s t) :
    Same k s (silenceDie a0 a1 a2 t) := by
  unfold silenceDie
  repeat' first
    | with_reducible assumption | (with_reducible refine lowMarker_s ?_ ?_; exact maskFree w rfl)
    | (with_reducible refine setZero_s ?_ ?_; exact maskFree w rfl)
    | (with_reducible refine muteCluster_s ?_ ?_; exact maskFree w rfl)
    | (with_reducible refine Same_foldl ?_ ?_; intro _ _ _) | split

theorem unsilenceDie_s {k : Nat} {s t : State} {a0 : _} {a1 : _} {a2 : _} (w : k &&& 0x400000000004000010000000000000000000000000000000240000000 = 0) (h : Same k s t) :
    Same k s (unsilenceDie a0 a1 a2 t) := by
  unfold unsilenceDie
  repeat' first
    | with_reducible assumption | (with_reducible refine clearZero_s ?_ ?_; exact maskFree w rfl)
    | (with_reducible refine muteCluster_s ?_ ?_; exact maskFree w rfl)
    | (with_reducible refine Same_foldl ?_ ?_; intro _ _ _) | split

theorem stopPlay_s {k : Nat} {s t : State} {a0 : _} (w : k &&& 0x240000000 = 0) (h : Same k s t) :
    Same k s (stopPlay a0 t) := by
  unfold stopPlay
  repeat' first
    | with_reducible assumption
    | (extract_lets +onlyGivenNames x; first | (refine (fun (hx : Same k s x) => ?_) (?_ : Same k s x); all_goals first | (guard_target =ₐ Same k s x; unfold x; clear x) | clear_value x) | clear_value x)
    | (with_reducible refine endPlay_s ?_ ?_; exact maskFree w rfl)
    | (with_reducible refine slset_s ?_ ?_; exact maskFree w rfl) | split

theorem rfLost_s {k : Nat} {s t : State} {a0 : _} (w : k &&& 0x47E000000000000000000000000000000000000000000000000000000000000004120A7F800000000000000000000001000400000000004000010000000000000000000000000000038240824940 = 0) (h : Same k s t) :
    Same k s (rfLost a0 t) := by
  unfold rfLost
  repeat' first
    | with_reducible assumption
    | (extract_lets +onlyGivenNames x; (refine (fun (hx : Same k s x) => ?_) (?_ : Same k s x); all_goals first | (guard_target =ₐ Same k s x; unfold x; clear x) | clear_value x))
    | (with_reducible refine stopPlay_s ?_ ?_; exact maskFree w rfl)
    | (with_reducible refine silenceDie_s ?_ ?_; exact maskFree w rfl)
    | (with_reducible refine abandonStep_s ?_ ?_; exact maskFree w rfl)
    | (with_reducible refine cutWindows_s ?_ ?_; exact maskFree w rfl)
    | (with_reducible refine flushFifo_s ?_ ?_; exact maskFree w rfl)
    | (with_reducible refine voidNow_s ?_ ?_; exact maskFree w rfl)
    | (with_reducible refine logFault_s ?_ ?_; exact maskFree w rfl)
    | (with_reducible refine Same_foldl ?_ ?_; intro _ _ _) | split

theorem markTrip_s {k : Nat} {s t : State} {a0 : _} (w : k &&& 0x3800000000000000000000000000000000000000000000000000000000000000000000000000000000000000000000000000000000000000000000000040000000000000 = 0) (h : Same k s t) :
    Same k s (markTrip a0 t) := by
  unfold markTrip
  repeat' first
    | with_reducible assumption | (with_reducible refine flag_s ?_ ?_; exact bitFree w rfl)
    | (with_reducible refine inc_s ?_ ?_; exact bitFree w rfl) | (with_reducible refine wr_s ?_ ?_; exact bitFree w rfl)
    | (extract_lets +onlyGivenNames x; first | (refine (fun (hx : Same k s x) => ?_) (?_ : Same k s x); all_goals first | (guard_target =ₐ Same k s x; unfold x; clear x) | clear_value x) | clear_value x)
    | (with_reducible refine setClk_s ?_ ?_; exact maskFree w rfl) | split

theorem tripRf_s {k : Nat} {s t : State} {a0 : _} (w : k &&& 0x47E000000000000000003800000000000000000000000000000000000000000004120A7F800000000000000000000001000400000000004000010000000000000000000000000040038240824940 = 0) (h : Same k s t) :
    Same k s (tripRf a0 t) := by
  unfold tripRf
  repeat' first
    | with_reducible assumption | (with_reducible refine markTrip_s ?_ ?_; exact maskFree w rfl)
    | (with_reducible refine rfLost_s ?_ ?_; exact maskFree w rfl) | split

theorem loseBd_s {k : Nat} {s t : State} {a0 : _} (w : k &&& 0x47E000000000000000000300000000000000000000000000000000000000000000120A7F800000000000000000000000000000000000000000000000000000000000000000000040002000804040 = 0) (h : Same k s t) :
    Same k s (loseBd a0 t) := by
  unfold loseBd
  repeat' first
    | with_reducible assumption | (with_reducible refine wrBit_s ?_ ?_; exact bitFree w rfl)
    | (with_reducible refine inc_s ?_ ?_; exact bitFree w rfl)
    | (with_reducible refine Same_bdQual (by with_reducible assumption) ?_; exact maskFree w rfl)
    | (extract_lets +onlyGivenNames x; first | (refine (fun (hx : Same k s x) => ?_) (?_ : Same k s x); all_goals first | (guard_target =ₐ Same k s x; unfold x; clear x) | clear_value x) | clear_value x)
    | (with_reducible refine setClk_s ?_ ?_; exact maskFree w rfl)
    | (with_reducible refine logFault_s ?_ ?_; exact maskFree w rfl) | split

theorem keystoneLoss_s {k : Nat} {s t : State} (w : k &&& 0x47E000000000000000003B20000000000000000000000000000000000000000004120A7F80000000000000000000000100040000000000400001000000000000000000000000004003A240824940 = 0) (h : Same k s t) :
    Same k s (keystoneLoss t) := by
  unfold keystoneLoss
  repeat' first
    | with_reducible assumption | (with_reducible refine wr_s ?_ ?_; exact bitFree w rfl)
    | (extract_lets +onlyGivenNames x; (refine (fun (hx : Same k s x) => ?_) (?_ : Same k s x); all_goals first | (guard_target =ₐ Same k s x; unfold x; clear x) | clear_value x))
    | (with_reducible refine loseBd_s ?_ ?_; exact maskFree w rfl)
    | (with_reducible refine tripRf_s ?_ ?_; exact maskFree w rfl)
    | (with_reducible refine logFault_s ?_ ?_; exact maskFree w rfl)
    | (with_reducible refine Same_foldl ?_ ?_; intro _ _ _) | split

theorem tripLn_s {k : Nat} {s t : State} {a0 : _} (w : k &&& 0xC7F000080000000004003C00000000000040001010A00018360000200040000410520E7F8080000100054040000000280000000000000000002000004000200000004000000007410000048C40C0 = 0) (h : Same k s t) :
    Same k s (tripLn a0 t) := by
  unfold tripLn
  repeat' first
    | with_reducible assumption | (with_reducible refine markTrip_s ?_ ?_; exact maskFree w rfl)
    | (with_reducible refine loseLock_s ?_ ?_; exact maskFree w rfl)
    | (with_reducible refine Same_foldl ?_ ?_; intro _ _ _) | split

theorem tripDm_s {k : Nat} {s t : State} {a0 : _} (w : k &&& 0x33000047E00000000000000000380000000000000000000000000000000000029C400000120A7F800000000000000000000000000000000000000000000000000000000000000000000040000002C04040 = 0) (h : Same k s t) :
    Same k s (tripDm a0 t) := by
  unfold tripDm
  repeat' first
    | with_reducible assumption | (with_reducible refine wr_s ?_ ?_; exact bitFree w rfl)
    | (extract_lets +onlyGivenNames x; clear_value x) | (with_reducible refine markTrip_s ?_ ?_; exact maskFree w rfl)
    | (with_reducible refine settleTraining_s ?_ ?_; exact maskFree w rfl)
    | (with_reducible refine fenceChannel_s ?_ ?_; exact maskFree w rfl)
    | (with_reducible refine setDch_s ?_ ?_; exact maskFree w rfl)
    | (with_reducible refine logFault_s ?_ ?_; exact maskFree w rfl)
    | (with_reducible refine Same_foldl ?_ ?_; intro _ _ _) | split

theorem tripMonitor_s {k : Nat} {s t : State} {a0 : _} (w : k &&& 0x330000C7F000080000000004003FA5000002200040001010A000183600002002DC400414520E7F8080000100055240000000290004000000000040002100004000200000004000000007C103A246CE49C0 = 0) (h : Same k s t) :
    Same k s (tripMonitor a0 t) := by
  unfold tripMonitor
  repeat' first
    | with_reducible assumption | (with_reducible refine flag_s ?_ ?_; exact bitFree w rfl)
    | (extract_lets +onlyGivenNames x; first | (refine (fun (hx : Same k s x) => ?_) (?_ : Same k s x); all_goals first | (guard_target =ₐ Same k s x; unfold x; clear x) | clear_value x) | clear_value x)
    | (with_reducible refine tripDm_s ?_ ?_; exact maskFree w rfl)
    | (with_reducible refine tripLn_s ?_ ?_; exact maskFree w rfl)
    | (with_reducible refine keystoneLoss_s ?_ ?_; exact maskFree w rfl)
    | (with_reducible refine tripRf_s ?_ ?_; exact maskFree w rfl)
    | (with_reducible refine markTrip_s ?_ ?_; exact maskFree w rfl)
    | (with_reducible refine toFio_s ?_ ?_; exact maskFree w rfl)
    | (with_reducible refine setClk_s ?_ ?_; exact maskFree w rfl)
    | (with_reducible refine logFault_s ?_ ?_; exact maskFree w rfl)
    | (with_reducible refine Same_foldl ?_ ?_; intro _ _ _) | split

theorem startTraining_s {k : Nat} {s t : State} {a0 : _} (w : k &&& 0x280400000000000000000000000000000000000000000000000000000000000000000000000000000000000000000000000 = 0) (h : Same k s t) :
    Same k s (startTraining a0 t) := by
  unfold startTraining
  repeat' first
    | with_reducible assumption | (with_reducible refine wr_s ?_ ?_; exact bitFree w rfl)
    | (with_reducible refine Same_foldl ?_ ?_; intro _ _ _) | split

theorem qualified_s {k : Nat} {s t : State} {a0 : _} (w : k &&& 0x33000000000000000000000000880100000020000000000000000000000000029C4000000000000000000000005200000000000004000000000040000100000000000000000000000000C1004242400000 = 0) (h : Same k s t) :
    Same k s (qualified a0 t) := by
  unfold qualified
  repeat' first
    | with_reducible assumption | (with_reducible refine wr_s ?_ ?_; exact bitFree w rfl)
    | (with_reducible refine Same_rfQualAt (by with_reducible assumption) ?_; exact maskFree w rfl)
    | (extract_lets +onlyGivenNames x; first | (refine (fun (hx : Same k s x) => ?_) (?_ : Same k s x); all_goals first | (guard_target =ₐ Same k s x; unfold x; clear x) | clear_value x) | clear_value x)
    | (with_reducible refine startTraining_s ?_ ?_; exact maskFree w rfl)
    | (with_reducible refine unsilenceDie_s ?_ ?_; exact maskFree w rfl)
    | (with_reducible refine settleTraining_s ?_ ?_; exact maskFree w rfl)
    | (with_reducible refine bootMet_s ?_ ?_; exact maskFree w rfl)
    | (with_reducible refine milestone_s ?_ ?_; exact maskFree w rfl)
    | (with_reducible refine setClk_s ?_ ?_; exact maskFree w rfl)
    | (with_reducible refine offFio_s ?_ ?_; exact maskFree w rfl) | split

theorem execMonitorWindow_s {k : Nat} {s t : State} {a0 : _} {a1 : _} {a2 : _} {a3 : _} (w : k &&& 0x330000C7F00008000000000400FFE5000002200040001010A000183600002002DC400414520E7F8080000100055240000000290004000000000040002100004000200000004000000027C103E246CE49C0 = 0) (h : Same k s t) :
    SameO k s (execMonitorWindow a0 a1 a2 a3 t) := by
  unfold execMonitorWindow
  repeat' first
    | with_reducible assumption | (with_reducible refine wr_s ?_ ?_; exact bitFree w rfl)
    | (extract_lets +onlyGivenNames x; first | (refine (fun (hx : Same k s x) => ?_) (?_ : Same k s x); all_goals first | (guard_target =ₐ Same k s x; unfold x; clear x) | clear_value x) | clear_value x)
    | (with_reducible refine qualified_s ?_ ?_; exact maskFree w rfl)
    | (with_reducible refine tripMonitor_s ?_ ?_; exact maskFree w rfl)
    | (with_reducible refine setClk_s ?_ ?_; exact maskFree w rfl)
    | (with_reducible refine applyBand_s ?_ ?_; exact maskFree w rfl)
    | (with_reducible refine logFault_s ?_ ?_; exact maskFree w rfl) | split | with_reducible refine SameO_next ?_

theorem execXtaStartDelay_s {k : Nat} {s t : State} (w : k &&& 0x40000000000000 = 0) (h : Same k s t) :
    SameO k s (execXtaStartDelay t) := by
  unfold execXtaStartDelay
  repeat' first
    | with_reducible assumption | (extract_lets +onlyGivenNames x; clear_value x)
    | (with_reducible refine setClk_s ?_ ?_; exact maskFree w rfl) | split | with_reducible refine SameO_next ?_

theorem execXtbStartDelay_s {k : Nat} {s t : State} (w : k &&& 0x40000000000000 = 0) (h : Same k s t) :
    SameO k s (execXtbStartDelay t) := by
  unfold execXtbStartDelay
  repeat' first
    | with_reducible assumption | (extract_lets +onlyGivenNames x; clear_value x)
    | (with_reducible refine setClk_s ?_ ?_; exact maskFree w rfl) | split | with_reducible refine SameO_next ?_

theorem execTrefSelect_s {k : Nat} {s t : State} (w : k &&& 0x320000000000000000000000000000000000000000000000000000000000000000000000000000000000000000000000000000000000000000000000000000000000000000000000100041000000000018 = 0) (h : Same k s t) :
    SameO k s (execTrefSelect t) := by
  unfold execTrefSelect
  repeat' first
    | with_reducible assumption | (with_reducible refine wr_s ?_ ?_; exact bitFree w rfl)
    | (with_reducible refine Same_tml_tmlOn (by with_reducible assumption) ?_; exact maskFree w rfl)
    | (extract_lets +onlyGivenNames x; first | (refine (fun (hx : Same k s x) => ?_) (?_ : Same k s x); all_goals first | (guard_target =ₐ Same k s x; unfold x; clear x) | clear_value x) | clear_value x)
    | (with_reducible refine bootMet_s ?_ ?_; exact maskFree w rfl)
    | (with_reducible refine milestone_s ?_ ?_; exact maskFree w rfl)
    | (with_reducible refine setClk_s ?_ ?_; exact maskFree w rfl)
    | (with_reducible refine anchorNow_s ?_ ?_; exact maskFree w rfl) | split | with_reducible refine SameO_next ?_

theorem execTimelineCopyCompare_s {k : Nat} {s t : State} {a0 : _} (w : k &&& 0x47E000000000000000003B20000000000000000000000000000000000000000004120A7F80000000000000000000000100040000000000400001000000000000000000000020004003A240824940 = 0) (h : Same k s t) :
    SameO k s (execTimelineCopyCompare a0 t) := by
  unfold execTimelineCopyCompare
  repeat' first
    | with_reducible assumption | (with_reducible refine wr_s ?_ ?_; exact bitFree w rfl)
    | (extract_lets +onlyGivenNames x; first | (refine (fun (hx : Same k s x) => ?_) (?_ : Same k s x); all_goals first | (guard_target =ₐ Same k s x; unfold x; clear x) | clear_value x) | clear_value x)
    | (with_reducible refine keystoneLoss_s ?_ ?_; exact maskFree w rfl)
    | (with_reducible refine loseBd_s ?_ ?_; exact maskFree w rfl)
    | (with_reducible refine tripRf_s ?_ ?_; exact maskFree w rfl)
    | (with_reducible refine setClk_s ?_ ?_; exact maskFree w rfl) | (with_reducible refine Same_foldl ?_ ?_; intro _ _ _)
    | split | with_reducible refine SameO_next ?_

theorem execBdRefTick_s {k : Nat} {s t : State} {a0 : _} {a1 : _} (w : k &&& 0x32000047E000000000000000000300000000000000000000000000000000000000000000120A7F800000000000000000000000000000000000000000000000000000000000000000000040002000804040 = 0) (h : Same k s t) :
    SameO k s (execBdRefTick a0 a1 t) := by
  unfold execBdRefTick
  repeat' first
    | with_reducible assumption | (with_reducible refine wrBit_s ?_ ?_; exact bitFree w rfl)
    | (with_reducible refine Same_bdQual (by with_reducible assumption) ?_; exact maskFree w rfl)
    | (extract_lets +onlyGivenNames x; first | (refine (fun (hx : Same k s x) => ?_) (?_ : Same k s x); all_goals first | (guard_target =ₐ Same k s x; unfold x; clear x) | clear_value x) | clear_value x)
    | (with_reducible refine loseBd_s ?_ ?_; exact maskFree w rfl)
    | (with_reducible refine bootMet_s ?_ ?_; exact maskFree w rfl)
    | (with_reducible refine setClk_s ?_ ?_; exact maskFree w rfl) | split | with_reducible refine SameO_next ?_

theorem execConverterCalibrationDone_s {k : Nat} {s t : State} {a0 : _} (w : k &&& 0x320000000000000000000000000000000000000000000000000000000000000000000000000000000000000000000000000000000400000000000000010000000000000000000000000040000000000000 = 0) (h : Same k s t) :
    SameO k s (execConverterCalibrationDone a0 t) := by
  unfold execConverterCalibrationDone
  repeat' first
    | with_reducible assumption
    | (extract_lets +onlyGivenNames x; first | (refine (fun (hx : Same k s x) => ?_) (?_ : Same k s x); all_goals first | (guard_target =ₐ Same k s x; unfold x; clear x) | clear_value x) | clear_value x)
    | (with_reducible refine bootMet_s ?_ ?_; exact maskFree w rfl)
    | (with_reducible refine milestone_s ?_ ?_; exact maskFree w rfl)
    | (with_reducible refine setClk_s ?_ ?_; exact maskFree w rfl)
    | (with_reducible refine muteCluster_s ?_ ?_; exact maskFree w rfl)
    | (with_reducible refine Same_foldl ?_ ?_; intro _ _ _) | split | with_reducible refine SameO_next ?_

theorem selectMgmt_s {k : Nat} {s t : State} (w : k &&& 0x200000000000000000000000000005000000200000000000000000000000000000000000000000000000000000520000000000000000000000000000000000000000000000000000000081000000000000 = 0) (h : Same k s t) :
    SameA k s (selectMgmt t) := by
  unfold selectMgmt
  repeat' first
    | with_reducible assumption | (with_reducible refine wr_s ?_ ?_; exact bitFree w rfl)
    | (with_reducible refine milestone_s ?_ ?_; exact maskFree w rfl)
    | (with_reducible refine offFio_s ?_ ?_; exact maskFree w rfl) | split | with_reducible refine SameA_ok ?_
    | with_reducible exact SameA_err

theorem startFmc_s {k : Nat} {s t : State} (w : k &&& 0x100000000000000000000000000000000000000000000000000000000000000000000000000000000000000000000000000000000000000000000000000040000000000000 = 0) (h : Same k s t) :
    SameA k s (startFmc t) := by
  unfold startFmc
  repeat' first
    | with_reducible assumption | (with_reducible refine wr_s ?_ ?_; exact bitFree w rfl)
    | (extract_lets +onlyGivenNames x; clear_value x) | (with_reducible refine setClk_s ?_ ?_; exact maskFree w rfl)
    | split | with_reducible refine SameA_ok ?_ | with_reducible exact SameA_err

theorem execFmcDone_s {k : Nat} {s t : State} {a0 : _} (w : k &&& 0xF00000000000000000000000000000000000000000000000000000000000000000000000000000000000000000000000000000000000000000000000000000000000000000 = 0) (h : Same k s t) :
    SameO k s (execFmcDone a0 t) := by
  unfold execFmcDone
  repeat' first
    | with_reducible assumption | (with_reducible refine wr_s ?_ ?_; exact bitFree w rfl)
    | (extract_lets +onlyGivenNames x; clear_value x) | split | with_reducible refine SameO_next ?_

theorem setGate_s {k : Nat} {s t : State} {a0 : _} {a1 : _} (w : k &&& 0x40000000000000 = 0) (h : Same k s t) :
    Same k s (setGate a0 a1 t) := by
  unfold setGate
  repeat' first
    | with_reducible assumption | (extract_lets +onlyGivenNames x; clear_value x)
    | (with_reducible refine setClk_s ?_ ?_; exact maskFree w rfl) | split

theorem cutTest_s {k : Nat} {s t : State} {a0 : _} (w : k &&& 0xF000000000000000000000000000000000000000000000000000000000000000000000000000000000000000000000000002000004 = 0) (h : Same k s t) :
    Same k s (cutTest a0 t) := by
  unfold cutTest
  repeat' first
    | with_reducible assumption | (with_reducible refine wr_s ?_ ?_; exact bitFree w rfl)
    | (extract_lets +onlyGivenNames x; first | (refine (fun (hx : Same k s x) => ?_) (?_ : Same k s x); all_goals first | (guard_target =ₐ Same k s x; unfold x; clear x) | clear_value x) | (refine (fun (hx : Same k s x.2) => ?_) (?_ : Same k s x.2); all_goals first | (guard_target =ₐ Same k s x.2; unfold x; clear x) | clear_value x) | (have _ : (x : Dram) = x := rfl; subst x) | clear_value x)
    | (with_reducible refine setDram_s ?_ ?_ ?_; exact maskFree w rfl; rotate_left; rfl)
    | (with_reducible refine fresh_s ?_ ?_; exact maskFree w rfl)
    | (with_reducible refine SameP.snd (fresh_s ?_ ?_) (by assumption); exact maskFree w rfl) | split

theorem closeGroup_s {k : Nat} {s t : State} {a0 : _} (w : k &&& 0x330000C7F000080000100004000400060004E00040001010A0001826F0002000DC400410520E7F808000010005524000000028000000000000000000200000400020000000400000000FC1000006CC40C4 = 0) (h : Same k s t) :
    Same k s (closeGroup a0 t) := by
  unfold closeGroup
  repeat' first
    | with_reducible assumption | (with_reducible refine wr_s ?_ ?_; exact bitFree w rfl)
    | (extract_lets +onlyGivenNames x; first | (refine (fun (hx : Same k s x) => ?_) (?_ : Same k s x); all_goals first | (guard_target =ₐ Same k s x; unfold x; clear x) | clear_value x) | clear_value x)
    | (with_reducible refine cutTest_s ?_ ?_; exact maskFree w rfl)
    | (with_reducible refine setGate_s ?_ ?_; exact maskFree w rfl)
    | (with_reducible refine settleTraining_s ?_ ?_; exact maskFree w rfl)
    | (with_reducible refine mauset_s ?_ ?_; exact maskFree w rfl)
    | (with_reducible refine settleLanes_s ?_ ?_; exact maskFree w rfl)
    | (with_reducible refine tpDown_s ?_ ?_; exact maskFree w rfl) | split

theorem openGroup_s {k : Nat} {s t : State} {a0 : _} (w : k &&& 0xC7F00008001F77FBF4000400000000000040001010A000182600002002C0000410520E7F808000010005404000000028000000000000000000200000400020000000400000000F410000068C40C0 = 0) (h : Same k s t) :
    Same k s (openGroup a0 t) := by
  unfold openGroup
  repeat' first
    | with_reducible assumption | (with_reducible refine wr_s ?_ ?_; exact bitFree w rfl)
    | (extract_lets +onlyGivenNames x; first | (refine (fun (hx : Same k s x) => ?_) (?_ : Same k s x); all_goals first | (guard_target =ₐ Same k s x; unfold x; clear x) | clear_value x) | clear_value x)
    | (with_reducible refine setGate_s ?_ ?_; exact maskFree w rfl)
    | (with_reducible refine resetMau_s ?_ ?_; exact maskFree w rfl)
    | (with_reducible refine settleLanes_s ?_ ?_; exact maskFree w rfl)
    | (with_reducible refine setDch_s ?_ ?_; exact maskFree w rfl) | split

theorem writeGate_s {k : Nat} {s t : State} {a0 : _} {a1 : _} (w : k &&& 0x330000C7F00008001F77FBF5000400060004E00040001010A0001826F0002002DC400410520E7F808000010005524000000028000000000000000000200000400020000000400000000FC1000006CC40C4 = 0) (h : Same k s t) :
    SameA k s (writeGate a0 a1 t) := by
  unfold writeGate
  repeat' first
    | with_reducible assumption | (with_reducible refine wr_s ?_ ?_; exact bitFree w rfl)
    | (extract_lets +onlyGivenNames x; clear_value x) | (with_reducible refine openGroup_s ?_ ?_; exact maskFree w rfl)
    | (with_reducible refine closeGroup_s ?_ ?_; exact maskFree w rfl)
    | (with_reducible refine setClk_s ?_ ?_; exact maskFree w rfl) | (with_reducible refine Same_foldl ?_ ?_; intro _ _ _)
    | split | with_reducible refine SameA_ok ?_ | with_reducible exact SameA_err

theorem forceClose_s {k : Nat} {s t : State} {a0 : _} (w : k &&& 0x330000C7F000080000100006000400060004E00040001010A0001826F0002000DC400410520E7F808000010005524000000028000000000000000000200000400020000000400000000FC1000006CC40C4 = 0) (h : Same k s t) :
    Same k s (forceClose a0 t) := by
  unfold forceClose
  repeat' first
    | with_reducible assumption | (with_reducible refine inc_s ?_ ?_; exact bitFree w rfl)
    | (extract_lets +onlyGivenNames x; clear_value x) | (with_reducible refine closeGroup_s ?_ ?_; exact maskFree w rfl)
    | (with_reducible refine setClk_s ?_ ?_; exact maskFree w rfl) | split

theorem execGateForceClose_s {k : Nat} {s t : State} {a0 : _} (w : k &&& 0x330000C7F000080000100006000400060004E00040001010A0001826F0002000DC400410520E7F808000010005524000000028000000000000000000200000400020000000400000000FC1000006CC40C4 = 0) (h : Same k s t) :
    SameO k s (execGateForceClose a0 t) := by
  unfold execGateForceClose
  repeat' first
    | with_reducible assumption | (with_reducible refine forceClose_s ?_ ?_; exact maskFree w rfl)
    | (with_reducible refine closeGroup_s ?_ ?_; exact maskFree w rfl) | split | with_reducible refine SameO_next ?_

theorem armSync_s {k : Nat} {s t : State} (w : k &&& 0x20040000000000000 = 0) (h : Same k s t) :
    SameA k s (armSync t) := by
  unfold armSync
  repeat' first
    | with_reducible assumption | (with_reducible refine wr_s ?_ ?_; exact bitFree w rfl)
    | (extract_lets +onlyGivenNames x; clear_value x) | (with_reducible refine setClk_s ?_ ?_; exact maskFree w rfl)
    | split | with_reducible refine SameA_ok ?_ | with_reducible exact SameA_err

theorem fireSync_s {k : Nat} {s t : State} (w : k &&& 0x40000000000000 = 0) (h : Same k s t) :
    SameA k s (fireSync t) := by
  unfold fireSync
  repeat' first
    | with_reducible assumption | (extract_lets +onlyGivenNames x; clear_value x)
    | (with_reducible refine setClk_s ?_ ?_; exact maskFree w rfl) | split | with_reducible refine SameA_ok ?_
    | with_reducible exact SameA_err

theorem disarmSync_s {k : Nat} {s t : State} (w : k &&& 0x20040000000000000 = 0) (h : Same k s t) :
    Same k s (disarmSync t) := by
  unfold disarmSync
  repeat' first
    | with_reducible assumption | (with_reducible refine wr_s ?_ ?_; exact bitFree w rfl)
    | (extract_lets +onlyGivenNames x; first | (refine (fun (hx : Same k s x) => ?_) (?_ : Same k s x); all_goals first | (guard_target =ₐ Same k s x; unfold x; clear x) | clear_value x) | clear_value x)
    | (with_reducible refine setClk_s ?_ ?_; exact maskFree w rfl) | split

theorem execSyncOutPulse_s {k : Nat} {s t : State} (w : k &&& 0x40000000000000 = 0) (h : Same k s t) :
    SameO k s (execSyncOutPulse t) := by
  unfold execSyncOutPulse
  repeat' first
    | with_reducible assumption | (extract_lets +onlyGivenNames x; clear_value x)
    | (with_reducible refine setClk_s ?_ ?_; exact maskFree w rfl) | split | with_reducible refine SameO_next ?_

theorem execSyncOutPulseEnd_s {k : Nat} {s t : State} (w : k &&& 0x40000000000000 = 0) (h : Same k s t) :
    SameO k s (execSyncOutPulseEnd t) := by
  unfold execSyncOutPulseEnd
  repeat' first
    | with_reducible assumption | (extract_lets +onlyGivenNames x; clear_value x)
    | (with_reducible refine setClk_s ?_ ?_; exact maskFree w rfl) | split | with_reducible refine SameO_next ?_

theorem execSyncInEdge_s {k : Nat} {s t : State} (w : k &&& 0x40000000000000 = 0) (h : Same k s t) :
    SameO k s (execSyncInEdge t) := by
  unfold execSyncInEdge
  repeat' first
    | with_reducible assumption | (extract_lets +onlyGivenNames x; clear_value x)
    | (with_reducible refine setClk_s ?_ ?_; exact maskFree w rfl) | split | with_reducible refine SameO_next ?_

theorem loadEpoch_s {k : Nat} {s t : State} {a0 : _} (w : k &&& 0x1C00000000000000000 = 0) (h : Same k s t) :
    Same k s (loadEpoch a0 t) := by
  unfold loadEpoch
  repeat' first
    | with_reducible assumption | (with_reducible refine wr_s ?_ ?_; exact bitFree w rfl)
    | (extract_lets +onlyGivenNames x; clear_value x) | split

theorem moveTimeline_s {k : Nat} {s t : State} {a0 : _} {a1 : _} (w : k &&& 0x45025CC0020908 = 0) (h : Same k s t) :
    Same k s (moveTimeline a0 a1 t) := by
  unfold moveTimeline
  repeat' first
    | with_reducible assumption
    | (with_reducible refine Same_tml_fifos_run_markers_slices_frames_biases_biasAt_regions_rfQualAt_acqs_stream_trig_clk (by with_reducible assumption) ?_; exact maskFree w rfl)
    | (extract_lets +onlyGivenNames x; clear_value x) | split

theorem execAlignment_s {k : Nat} {s t : State} (w : k &&& 0x200000000000000000000000520000000000000000000000000000000000000000000000000001CA0045025CC0030908 = 0) (h : Same k s t) :
    SameO k s (execAlignment t) := by
  unfold execAlignment
  repeat' first
    | with_reducible assumption | (with_reducible refine inc_s ?_ ?_; exact bitFree w rfl)
    | (with_reducible refine wr_s ?_ ?_; exact bitFree w rfl)
    | (extract_lets +onlyGivenNames x; first | (refine (fun (hx : Same k s x) => ?_) (?_ : Same k s x); all_goals first | (guard_target =ₐ Same k s x; unfold x; clear x) | clear_value x) | clear_value x)
    | (with_reducible refine moveTimeline_s ?_ ?_; exact maskFree w rfl)
    | (with_reducible refine loadEpoch_s ?_ ?_; exact maskFree w rfl)
    | (with_reducible refine setClk_s ?_ ?_; exact maskFree w rfl)
    | (with_reducible refine timeRecord_s ?_ ?_; exact maskFree w rfl)
    | (with_reducible refine timerRealign_s ?_ ?_; exact maskFree w rfl)
    | (with_reducible refine Same_foldl ?_ ?_; intro _ _ _) | split | with_reducible refine SameO_next ?_

/-! ### Thermal -/

theorem setCool_s {k : Nat} {s t : State} {a0 : _} (w : k &&& 0x2000000000000000 = 0) (h : Same k s t) :
    Same k s (setCool a0 t) := by
  unfold setCool
  repeat' first
    | with_reducible assumption
    | (with_reducible refine Same_cool (by with_reducible assumption) ?_; exact maskFree w rfl) | split

theorem forceAll_s {k : Nat} {s t : State} (w : k &&& 0x47E000000000000000000000000000000000000000000000000000000000000004120A7F8000FB000000000000000000000400000000000000010000000000000010000000000000019240804340 = 0) (h : Same k s t) :
    Same k s (forceAll t) := by
  unfold forceAll
  repeat' first
    | with_reducible assumption | (with_reducible refine forceCool_s ?_ ?_; exact maskFree w rfl)
    | (with_reducible refine Same_foldl ?_ ?_; intro _ _ _) | split

theorem setBase_s {k : Nat} {s t : State} {a0 : _} (w : k &&& 0x47E000000200000000000000000000000000000000000000000000000000000004120A7F8000FB000000000000000000000400000000000000010000000000000010000000000000019240804340 = 0) (h : Same k s t) :
    Same k s (setBase a0 t) := by
  unfold setBase
  repeat' first
    | with_reducible assumption | (with_reducible refine wr_s ?_ ?_; exact bitFree w rfl)
    | (extract_lets +onlyGivenNames x; first | (refine (fun (hx : Same k s x) => ?_) (?_ : Same k s x); all_goals first | (guard_target =ₐ Same k s x; unfold x; clear x) | clear_value x) | clear_value x)
    | (with_reducible refine forceAll_s ?_ ?_; exact maskFree w rfl)
    | (with_reducible refine logFault_s ?_ ?_; exact maskFree w rfl) | split

theorem setSensor_s {k : Nat} {s t : State} {a0 : _} {a1 : _} (w : k &&& 0x47E204000000000000000000000000000000000000000000000000000000000004120A7F8000FB000000000000000000000400000000000000010000000000000010000000000000019240804340 = 0) (h : Same k s t) :
    Same k s (setSensor a0 a1 t) := by
  unfold setSensor
  repeat' first
    | with_reducible assumption | (with_reducible refine inc_s ?_ ?_; exact bitFree w rfl)
    | (with_reducible refine wr_s ?_ ?_; exact bitFree w rfl)
    | (extract_lets +onlyGivenNames x; first | (refine (fun (hx : Same k s x) => ?_) (?_ : Same k s x); all_goals first | (guard_target =ₐ Same k s x; unfold x; clear x) | clear_value x) | clear_value x)
    | (with_reducible refine forceAll_s ?_ ?_; exact maskFree w rfl)
    | (with_reducible refine forceCool_s ?_ ?_; exact maskFree w rfl)
    | (with_reducible refine logFault_s ?_ ?_; exact maskFree w rfl) | split

theorem baseEval_s {k : Nat} {s t : State} {a0 : _} (w : k &&& 0x47E000000300000000000000000000000000000000000000000000000000000004120A7F8000FB000000000000000000000400000000000000010000000000000010000000002000019240804340 = 0) (h : Same k s t) :
    Same k s (baseEval a0 t) := by
  unfold baseEval
  repeat' first
    | with_reducible assumption | (with_reducible refine wr_s ?_ ?_; exact bitFree w rfl)
    | (extract_lets +onlyGivenNames x; first | (refine (fun (hx : Same k s x) => ?_) (?_ : Same k s x); all_goals first | (guard_target =ₐ Same k s x; unfold x; clear x) | clear_value x) | clear_value x)
    | (with_reducible refine setBase_s ?_ ?_; exact maskFree w rfl)
    | (with_reducible refine setCool_s ?_ ?_; exact maskFree w rfl) | split

theorem writeCoefficient_s {k : Nat} {s t : State} {a0 : _} {a1 : _} {a2 : _} (w : k &&& 0xC00000000000000000000000000000000000000000000000000000000000000000000000000000000000000000000000000000000000000000000000000000000000000000000000000000000 = 0) (h : Same k s t) :
    SameA k s (writeCoefficient a0 a1 a2 t) := by
  unfold writeCoefficient
  repeat' first
    | with_reducible assumption | (with_reducible refine wr_s ?_ ?_; exact bitFree w rfl)
    | (extract_lets +onlyGivenNames x; clear_value x) | split | with_reducible refine SameA_ok ?_
    | with_reducible exact SameA_err

theorem beginShutdown_s {k : Nat} {s t : State} (w : k &&& 0x47E000000020000000000000000000000000000000000000000000000000000004120E7F800000000000000000000000000000000000000000000000008000030010000000002000001024804FC0 = 0) (h : Same k s t) :
    Same k s (beginShutdown t) := by
  unfold beginShutdown
  repeat' first
    | with_reducible assumption | (with_reducible refine wr_s ?_ ?_; exact bitFree w rfl)
    | (extract_lets +onlyGivenNames x; clear_value x) | (with_reducible refine setCool_s ?_ ?_; exact maskFree w rfl)
    | (with_reducible refine abortRun_s ?_ ?_; exact maskFree w rfl) | split

theorem tripThreshold_s {k : Nat} {s t : State} {a0 : _} {a1 : _} (w : k &&& 0x47E0C0000020000000000000000000000000000000000000000000000000000004120E7F800000000000000000000000000000000000000000000000008000030010000000002000001024804FC0 = 0) (h : Same k s t) :
    Same k s (tripThreshold a0 a1 t) := by
  unfold tripThreshold
  repeat' first
    | with_reducible assumption | (with_reducible refine wrBit_s ?_ ?_; exact bitFree w rfl)
    | (with_reducible refine inc_s ?_ ?_; exact bitFree w rfl)
    | (extract_lets +onlyGivenNames x; first | (refine (fun (hx : Same k s x) => ?_) (?_ : Same k s x); all_goals first | (guard_target =ₐ Same k s x; unfold x; clear x) | clear_value x) | clear_value x)
    | (with_reducible refine beginShutdown_s ?_ ?_; exact maskFree w rfl)
    | (with_reducible refine setCool_s ?_ ?_; exact maskFree w rfl)
    | (with_reducible refine logFault_s ?_ ?_; exact maskFree w rfl)
    | (with_reducible refine raise_s ?_ ?_; exact maskFree w rfl) | split

theorem releaseThreshold_s {k : Nat} {s t : State} {a0 : _} {a1 : _} (w : k &&& 0x140000000000000000000000000000000000000000000000000000000000000000000000000000000000000000000000000000000000000000000000000000000000000002000000000000000 = 0) (h : Same k s t) :
    Same k s (releaseThreshold a0 a1 t) := by
  unfold releaseThreshold
  repeat' first
    | with_reducible assumption | (with_reducible refine wrBit_s ?_ ?_; exact bitFree w rfl)
    | (with_reducible refine inc_s ?_ ?_; exact bitFree w rfl)
    | (extract_lets +onlyGivenNames x; first | (refine (fun (hx : Same k s x) => ?_) (?_ : Same k s x); all_goals first | (guard_target =ₐ Same k s x; unfold x; clear x) | clear_value x) | clear_value x)
    | (with_reducible refine setCool_s ?_ ?_; exact maskFree w rfl) | split

theorem threshold_s {k : Nat} {s t : State} {a0 : _} {a1 : _} {a2 : _} (w : k &&& 0x47E1C0000020000000000000000000000000000000000000000000000000000004120E7F800000000000000000000000000000000000000000000000008000030010000000003000001024804FC0 = 0) (h : Same k s t) :
    Same k s (threshold a0 a1 a2 t) := by
  unfold threshold
  repeat' first
    | with_reducible assumption
    | (extract_lets +onlyGivenNames x; first | (refine (fun (hx : Same k s x) => ?_) (?_ : Same k s x); all_goals first | (guard_target =ₐ Same k s x; unfold x; clear x) | clear_value x) | clear_value x)
    | (with_reducible refine releaseThreshold_s ?_ ?_; exact maskFree w rfl)
    | (with_reducible refine tripThreshold_s ?_ ?_; exact maskFree w rfl)
    | (with_reducible refine thset_s ?_ ?_; exact maskFree w rfl) | split

theorem report_s {k : Nat} {s t : State} {a0 : _} {a1 : _} {a2 : _} (w : k &&& 0x23E00000000000000000000000000000000000000000000000000000000000000000000000000000000000000000000000000000000000000000000000000000000000000000000000000000 = 0) (h : Same k s t) :
    Same k s (report a0 a1 a2 t) := by
  unfold report
  repeat' first
    | with_reducible assumption | (with_reducible refine peak_s ?_ ?_; exact bitFree w rfl)
    | (with_reducible refine wr_s ?_ ?_; exact bitFree w rfl)
    | (extract_lets +onlyGivenNames x; first | (refine (fun (hx : Same k s x) => ?_) (?_ : Same k s x); all_goals first | (guard_target =ₐ Same k s x; unfold x; clear x) | clear_value x) | clear_value x)
    | split

theorem diodeCheck_s {k : Nat} {s t : State} {a0 : _} {a1 : _} {a2 : _} (w : k &&& 0x18000000000000000000000000000000000000000000000000000000000000000000000000000000000000000000000000000000000000000000000000000000000000001000000000000000 = 0) (h : Same k s t) :
    Same k s (diodeCheck a0 a1 a2 t) := by
  unfold diodeCheck
  repeat' first
    | with_reducible assumption | (with_reducible refine flag_s ?_ ?_; exact bitFree w rfl)
    | (with_reducible refine wr_s ?_ ?_; exact bitFree w rfl)
    | (extract_lets +onlyGivenNames x; first | (refine (fun (hx : Same k s x) => ?_) (?_ : Same k s x); all_goals first | (guard_target =ₐ Same k s x; unfold x; clear x) | clear_value x) | clear_value x)
    | (with_reducible refine thset_s ?_ ?_; exact maskFree w rfl) | split

theorem execThermalUpdate_s {k : Nat} {s t : State} {a0 : _} {a1 : _} {a2 : _} (w : k &&& 0x47E3FFE00320000000000000000000000000000000000000000000000000000004120E7F8000FB000000000000000000000400000000000000010000008000030010000000003800019264804FC0 = 0) (h : Same k s t) :
    SameO k s (execThermalUpdate a0 a1 a2 t) := by
  unfold execThermalUpdate
  repeat' first
    | with_reducible assumption
    | (extract_lets +onlyGivenNames x; first | (refine (fun (hx : Same k s x) => ?_) (?_ : Same k s x); all_goals first | (guard_target =ₐ Same k s x; unfold x; clear x) | clear_value x) | clear_value x)
    | (with_reducible refine diodeCheck_s ?_ ?_; exact maskFree w rfl)
    | (with_reducible refine report_s ?_ ?_; exact maskFree w rfl)
    | (with_reducible refine threshold_s ?_ ?_; exact maskFree w rfl)
    | (with_reducible refine baseEval_s ?_ ?_; exact maskFree w rfl)
    | (with_reducible refine setSensor_s ?_ ?_; exact maskFree w rfl)
    | (with_reducible refine mauset_s ?_ ?_; exact maskFree w rfl)
    | (with_reducible refine updateTrims_s ?_ ?_; exact maskFree w rfl)
    | (with_reducible refine thset_s ?_ ?_; exact maskFree w rfl) | split | with_reducible refine SameO_next ?_

theorem setStep_s {k : Nat} {s t : State} {a0 : _} (w : k &&& 0x50000000000000000000000000000000000000000000000000000000000000000000000000000000000000000000000000000000000000000000000000000000000000000000000000000 = 0) (h : Same k s t) :
    Same k s (setStep a0 t) := by
  unfold setStep
  repeat' first
    | with_reducible assumption | (with_reducible refine wr_s ?_ ?_; exact bitFree w rfl) | split

theorem writeVnom_s {k : Nat} {s t : State} {a0 : _} (w : k &&& 0x58000000000000000000000000000000000000000000000000000000000000000000000000000000000000000000000000000000000000000000000000000000000000000000000000000 = 0) (h : Same k s t) :
    Same k s (writeVnom a0 t) := by
  unfold writeVnom
  repeat' first
    | with_reducible assumption | (with_reducible refine wr_s ?_ ?_; exact bitFree w rfl)
    | (extract_lets +onlyGivenNames x; (refine (fun (hx : Same k s x) => ?_) (?_ : Same k s x); all_goals first | (guard_target =ₐ Same k s x; unfold x; clear x) | clear_value x))
    | (with_reducible refine setStep_s ?_ ?_; exact maskFree w rfl) | split

theorem ladderUp_s {k : Nat} {s t : State} {a0 : _} (w : k &&& 0x50000000000000000000000000000000000000000000000000000000000000000000000000000000000000000000000000000000000000000000000000000000000002000000000000000 = 0) (h : Same k s t) :
    Same k s (ladderUp a0 t) := by
  unfold ladderUp
  repeat' first
    | with_reducible assumption | (extract_lets +onlyGivenNames x; clear_value x)
    | (with_reducible refine setStep_s ?_ ?_; exact maskFree w rfl)
    | (with_reducible refine setCool_s ?_ ?_; exact maskFree w rfl) | split

theorem execLadderStep_s {k : Nat} {s t : State} (w : k &&& 0x50000000000000000000000000000000000000000000000000000000000000000000000000000000000000000000000000000000000000000000000000000000000002000000000000000 = 0) (h : Same k s t) :
    SameO k s (execLadderStep t) := by
  unfold execLadderStep
  repeat' first
    | with_reducible assumption | (extract_lets +onlyGivenNames x; clear_value x)
    | (with_reducible refine ladderUp_s ?_ ?_; exact maskFree w rfl)
    | (with_reducible refine setStep_s ?_ ?_; exact maskFree w rfl)
    | (with_reducible refine setCool_s ?_ ?_; exact maskFree w rfl) | split | with_reducible refine SameO_next ?_

theorem followVddf_s {k : Nat} {s t : State} {a0 : _} (w : k &&& 0x80000000000000000000000000000000000000000000000000000000000000000000000000000000 = 0) (h : Same k s t) :
    Same k s (followVddf a0 t) := by
  unfold followVddf
  repeat' first
    | with_reducible assumption | (with_reducible refine wr_s ?_ ?_; exact bitFree w rfl)
    | (extract_lets +onlyGivenNames x; clear_value x) | (with_reducible refine Same_foldl ?_ ?_; intro _ _ _) | split

theorem execVidfChange_s {k : Nat} {s t : State} (w : k &&& 0x80000000000000000000000000000000000000000000000000000000000000002000000000000000 = 0) (h : Same k s t) :
    SameO k s (execVidfChange t) := by
  unfold execVidfChange
  repeat' first
    | with_reducible assumption
    | (extract_lets +onlyGivenNames x; first | (refine (fun (hx : Same k s x) => ?_) (?_ : Same k s x); all_goals first | (guard_target =ₐ Same k s x; unfold x; clear x) | clear_value x) | clear_value x)
    | (with_reducible refine followVddf_s ?_ ?_; exact maskFree w rfl)
    | (with_reducible refine setCool_s ?_ ?_; exact maskFree w rfl) | split | with_reducible refine SameO_next ?_

theorem settleVidf_s {k : Nat} {s t : State} (w : k &&& 0x80000000000000000000000000000000000000000000000000000000000000000000000000000000 = 0) (h : Same k s t) :
    Same k s (settleVidf t) := by
  unfold settleVidf
  repeat' first
    | with_reducible assumption | (with_reducible refine followVddf_s ?_ ?_; exact maskFree w rfl) | split

theorem clearForce_s {k : Nat} {s t : State} {a0 : _} (w : k &&& 0x8000000000000000000000000000000000000000000000000000000000000000000001000000000 = 0) (h : Same k s t) :
    SameA k s (clearForce a0 t) := by
  unfold clearForce
  repeat' first
    | with_reducible assumption | (with_reducible refine wr_s ?_ ?_; exact bitFree w rfl)
    | (extract_lets +onlyGivenNames x; clear_value x) | (with_reducible refine rgset_s ?_ ?_; exact maskFree w rfl)
    | (with_reducible refine Same_foldl ?_ ?_; intro _ _ _) | split | with_reducible refine SameA_ok ?_
    | with_reducible exact SameA_err

theorem execShutdownMute_s {k : Nat} {s t : State} (w : k &&& 0x400000000004000010000000000000000000000002000000200020000 = 0) (h : Same k s t) :
    SameO k s (execShutdownMute t) := by
  unfold execShutdownMute
  repeat' first
    | with_reducible assumption | (extract_lets +onlyGivenNames x; clear_value x)
    | (with_reducible refine setCool_s ?_ ?_; exact maskFree w rfl)
    | (with_reducible refine silenceDie_s ?_ ?_; exact maskFree w rfl)
    | (with_reducible refine Same_foldl ?_ ?_; intro _ _ _) | split | with_reducible refine SameO_next ?_

theorem execShutdownBiasFault_s {k : Nat} {s t : State} (w : k &&& 0x100400000000000000000000000000000002000000400000000 = 0) (h : Same k s t) :
    SameO k s (execShutdownBiasFault t) := by
  unfold execShutdownBiasFault
  repeat' first
    | with_reducible assumption | (extract_lets +onlyGivenNames x; clear_value x)
    | (with_reducible refine setCool_s ?_ ?_; exact maskFree w rfl)
    | (with_reducible refine faultBias_s ?_ ?_; exact maskFree w rfl)
    | (with_reducible refine Same_foldl ?_ ?_; intro _ _ _) | split | with_reducible refine SameO_next ?_

theorem suspend_s {k : Nat} {s t : State} {a0 : _} (w : k &&& 0x800000000000000000000000000000000000000000000000000000000000000000000000000000000000000000000000000000000000000000000000040000000000000 = 0) (h : Same k s t) :
    Same k s (suspend a0 t) := by
  unfold suspend
  repeat' first
    | with_reducible assumption | (with_reducible refine wr_s ?_ ?_; exact bitFree w rfl)
    | (extract_lets +onlyGivenNames x; first | (refine (fun (hx : Same k s x) => ?_) (?_ : Same k s x); all_goals first | (guard_target =ₐ Same k s x; unfold x; clear x) | clear_value x) | clear_value x)
    | (with_reducible refine setClk_s ?_ ?_; exact maskFree w rfl) | split

theorem execShutdownPllStop_s {k : Nat} {s t : State} (w : k &&& 0x800000000000000000000000000000000000000000004000000000000000000000000000001000000000000000000000000008000000010000000002040038000000100 = 0) (h : Same k s t) :
    SameO k s (execShutdownPllStop t) := by
  unfold execShutdownPllStop
  repeat' first
    | with_reducible assumption
    | (extract_lets +onlyGivenNames x; first | (refine (fun (hx : Same k s x) => ?_) (?_ : Same k s x); all_goals first | (guard_target =ₐ Same k s x; unfold x; clear x) | clear_value x) | clear_value x)
    | (with_reducible refine suspend_s ?_ ?_; exact maskFree w rfl)
    | (with_reducible refine setCool_s ?_ ?_; exact maskFree w rfl)
    | (with_reducible refine abandonStep_s ?_ ?_; exact maskFree w rfl)
    | (with_reducible refine cutWindows_s ?_ ?_; exact maskFree w rfl)
    | (with_reducible refine abortFifo_s ?_ ?_; exact maskFree w rfl)
    | (with_reducible refine Same_foldl ?_ ?_; intro _ _ _) | split | with_reducible refine SameO_next ?_

/-! ### Dram -/

theorem zeroChannel_s {k : Nat} {s t : State} {c : Nat} (w : k &&& 0x4000000002000000 = 0) (h : Same k s t) : Same k s (zeroChannel c t) := by
  unfold zeroChannel setDram
  exact Same_cells h w

theorem execWipeComplete_s {k : Nat} {s t : State} (w : k &&& 0x330000000000000000000000000000000000000000000000000000000000000008400000000000000000000000000000000000000000000000000000000000000000000000000000004000000002400000 = 0) (h : Same k s t) :
    SameO k s (execWipeComplete t) := by
  unfold execWipeComplete
  repeat' first
    | with_reducible assumption | (with_reducible refine wr_s ?_ ?_; exact bitFree w rfl)
    | (extract_lets +onlyGivenNames x; first | (refine (fun (hx : Same k s x) => ?_) (?_ : Same k s x); all_goals first | (guard_target =ₐ Same k s x; unfold x; clear x) | clear_value x) | clear_value x)
    | (with_reducible refine zeroChannel_s ?_ ?_; exact maskFree w rfl)
    | (with_reducible refine endTransition_s ?_ ?_; exact maskFree w rfl)
    | (with_reducible refine bootMet_s ?_ ?_; exact maskFree w rfl)
    | (with_reducible refine settleState_s ?_ ?_; exact maskFree w rfl)
    | (with_reducible refine Same_foldl ?_ ?_; intro _ _ _) | split | with_reducible refine SameO_next ?_

theorem newMap_s {k : Nat} {s t : State} (w : k &&& 0x4000009C400000000000000000000000000000000000000000000000000000000000000000000200000000000000000002000000 = 0) (h : Same k s t) :
    Same k s (newMap t) := by
  unfold newMap
  repeat' first
    | with_reducible assumption | (with_reducible refine wr_s ?_ ?_; exact bitFree w rfl)
    | (extract_lets +onlyGivenNames x; (refine (fun (hx : Same k s x) => ?_) (?_ : Same k s x); all_goals first | (guard_target =ₐ Same k s x; unfold x; clear x) | clear_value x))
    | (with_reducible refine applyTable_s ?_ ?_; exact maskFree w rfl)
    | (with_reducible refine startWipe_s ?_ ?_; exact maskFree w rfl)
    | (with_reducible refine pauseWipe_s ?_ ?_; exact maskFree w rfl)
    | (with_reducible refine wipeTotals_s ?_ ?_; exact maskFree w rfl) | split

theorem writeMap_s {k : Nat} {s t : State} {a0 : _} (w : k &&& 0x4000009D400000000000000000000000000000000000000000000000000000000000000000000200000000000000000002000000 = 0) (h : Same k s t) :
    SameA k s (writeMap a0 t) := by
  unfold writeMap
  repeat' first
    | with_reducible assumption | (with_reducible refine wr_s ?_ ?_; exact bitFree w rfl)
    | (extract_lets +onlyGivenNames x; (refine (fun (hx : Same k s x) => ?_) (?_ : Same k s x); all_goals first | (guard_target =ₐ Same k s x; unfold x; clear x) | clear_value x))
    | (with_reducible refine newMap_s ?_ ?_; exact maskFree w rfl) | split | with_reducible refine SameA_ok ?_
    | with_reducible exact SameA_err

theorem writeTable_s {k : Nat} {s t : State} {a0 : _} (w : k &&& 0x4000009E400000000000000000000000000000000000000000000000000000000000000000000200000000000000000002000000 = 0) (h : Same k s t) :
    SameA k s (writeTable a0 t) := by
  unfold writeTable
  repeat' first
    | with_reducible assumption | (with_reducible refine wr_s ?_ ?_; exact bitFree w rfl)
    | (with_reducible refine newMap_s ?_ ?_; exact maskFree w rfl) | split | with_reducible refine SameA_ok ?_
    | with_reducible exact SameA_err

theorem execTrainingStepDone_s {k : Nat} {s t : State} {a0 : _} {a1 : _} {a2 : _} (w : k &&& 0x33000047E000000000000000000000000000000000000000000000000000000F9C400000120A7F800000000000000000000000000000000000000000000000000000000000000000000000000002C04040 = 0) (h : Same k s t) :
    SameO k s (execTrainingStepDone a0 a1 a2 t) := by
  unfold execTrainingStepDone
  repeat' first
    | with_reducible assumption | (with_reducible refine flag_s ?_ ?_; exact bitFree w rfl)
    | (with_reducible refine inc_s ?_ ?_; exact bitFree w rfl) | (with_reducible refine wr_s ?_ ?_; exact bitFree w rfl)
    | (extract_lets +onlyGivenNames x; first | (refine (fun (hx : Same k s x) => ?_) (?_ : Same k s x); all_goals first | (guard_target =ₐ Same k s x; unfold x; clear x) | clear_value x) | clear_value x)
    | (with_reducible refine settleTraining_s ?_ ?_; exact maskFree w rfl)
    | (with_reducible refine settleListed_s ?_ ?_; exact maskFree w rfl)
    | (with_reducible refine fenceChannel_s ?_ ?_; exact maskFree w rfl)
    | (with_reducible refine setDch_s ?_ ?_; exact maskFree w rfl) | split | with_reducible refine SameO_next ?_

theorem relockDm_s {k : Nat} {s t : State} {a0 : _} (w : k &&& 0x800000000000000000000000000000000000000000000000000000000000000000000000000000000000000000000000000000000000000000000000040000000000000 = 0) (h : Same k s t) :
    Same k s (relockDm a0 t) := by
  unfold relockDm
  repeat' first
    | with_reducible assumption | (with_reducible refine wr_s ?_ ?_; exact bitFree w rfl)
    | (extract_lets +onlyGivenNames x; clear_value x) | (with_reducible refine setClk_s ?_ ?_; exact maskFree w rfl)
    | split

theorem writeRate_s {k : Nat} {s t : State} {a0 : _} (w : k &&& 0x33000000000000000000000000080000000000000000000000000000000000029CC00000000000000000000000000000000000000000000000000000000000000000000000000000000040000002400000 = 0) (h : Same k s t) :
    SameA k s (writeRate a0 t) := by
  unfold writeRate
  repeat' first
    | with_reducible assumption | (with_reducible refine wr_s ?_ ?_; exact bitFree w rfl)
    | (extract_lets +onlyGivenNames x; first | (refine (fun (hx : Same k s x) => ?_) (?_ : Same k s x); all_goals first | (guard_target =ₐ Same k s x; unfold x; clear x) | clear_value x) | clear_value x)
    | (with_reducible refine relockDm_s ?_ ?_; exact maskFree w rfl)
    | (with_reducible refine settleTraining_s ?_ ?_; exact maskFree w rfl)
    | (with_reducible refine trainChannel_s ?_ ?_; exact maskFree w rfl)
    | (with_reducible refine pauseWipe_s ?_ ?_; exact maskFree w rfl)
    | (with_reducible refine setDch_s ?_ ?_; exact maskFree w rfl) | (with_reducible refine Same_foldl ?_ ?_; intro _ _ _)
    | split | with_reducible refine SameA_ok ?_ | with_reducible exact SameA_err

theorem ringBurst_s {k : Nat} {s t : State} {a0 : _} {a1 : _} (w : k &&& 0xA100000000000000000000000000000000000000000000000000000000000000000000000000000000000004000000002000000 = 0) (h : Same k s t) :
    Same k s (ringBurst a0 a1 t) := by
  unfold ringBurst
  repeat' first
    | with_reducible assumption
    | (extract_lets +onlyGivenNames x; first | (refine (fun (hx : Same k s x) => ?_) (?_ : Same k s x); all_goals first | (guard_target =ₐ Same k s x; unfold x; clear x) | clear_value x) | (have _ : (x : Dram) = x := rfl; subst x) | clear_value x)
    | (with_reducible refine setDram_s ?_ ?_ ?_; exact maskFree w rfl; rotate_left; rfl)
    | (with_reducible refine countBurstWrite_s ?_ ?_; exact maskFree w rfl)
    | (with_reducible refine dramPutByte_s ?_ ?_; exact maskFree w rfl)
    | (with_reducible refine setLevel_s ?_ ?_; exact maskFree w rfl)
    | (with_reducible refine Same_foldl ?_ ?_; intro _ _ _) | split

theorem markBad_s {k : Nat} {s t : State} {a0 : _} (w : k &&& 0x2000000 = 0) (h : Same k s t) :
    Same k s (markBad a0 t) := by
  unfold markBad
  repeat' first
    | with_reducible assumption
    | (extract_lets +onlyGivenNames x; first | (have _ : (x : Dram) = x := rfl; subst x) | clear_value x)
    | (with_reducible refine setDram_s ?_ ?_ ?_; exact maskFree w rfl; rotate_left; rfl) | split

theorem burst_s {k : Nat} {s t : State} {a0 : _} {a1 : _} {a2 : _} (w : k &&& 0xA198000000000000000000000000000000000000000000000000000000000000000000000000000000000004000000002000000 = 0) (h : Same k s t) :
    Same k s (burst a0 a1 a2 t) := by
  unfold burst
  repeat' first
    | with_reducible assumption
    | (extract_lets +onlyGivenNames x; first | (refine (fun (hx : Same k s x) => ?_) (?_ : Same k s x); all_goals first | (guard_target =ₐ Same k s x; unfold x; clear x) | clear_value x) | clear_value x)
    | (with_reducible refine markBad_s ?_ ?_; exact maskFree w rfl)
    | (with_reducible refine ringBurst_s ?_ ?_; exact maskFree w rfl)
    | (with_reducible refine dramWrite_s ?_ ?_; exact maskFree w rfl)
    | (with_reducible refine setHeld_s ?_ ?_; exact maskFree w rfl)
    | (with_reducible refine setLevel_s ?_ ?_; exact maskFree w rfl)
    | (with_reducible refine countBurstRead_s ?_ ?_; exact maskFree w rfl)
    | (with_reducible refine setDch_s ?_ ?_; exact maskFree w rfl) | (with_reducible refine Same_foldl ?_ ?_; intro _ _ _)
    | split

theorem grantRefresh_s {k : Nat} {s t : State} {a0 : _} {a1 : _} (w : k &&& 0x2000000 = 0) (h : Same k s t) :
    Same k s (grantRefresh a0 a1 t) := by
  unfold grantRefresh
  repeat' first
    | with_reducible assumption | (extract_lets +onlyGivenNames x; clear_value x)
    | (with_reducible refine setDch_s ?_ ?_; exact maskFree w rfl) | (with_reducible refine Same_foldl ?_ ?_; intro _ _ _)
    | split

theorem execDramBurst_s {k : Nat} {s t : State} {a0 : _} {a1 : _} {a2 : _} (w : k &&& 0xA198000000000000000000000000000000000000000000000000000000000000000000000000000000000004000000002000000 = 0) (h : Same k s t) :
    SameO k s (execDramBurst a0 a1 a2 t) := by
  unfold execDramBurst
  repeat' first
    | with_reducible assumption | (with_reducible refine grantRefresh_s ?_ ?_; exact maskFree w rfl)
    | (with_reducible refine burst_s ?_ ?_; exact maskFree w rfl) | split | with_reducible refine SameO_next ?_

theorem execRefreshDue_s {k : Nat} {s t : State} {a0 : _} {a1 : _} (w : k &&& 0x4000000000000000000000000000000000000000000000000000000000000000000000000000000000000000000002000000 = 0) (h : Same k s t) :
    SameO k s (execRefreshDue a0 a1 t) := by
  unfold execRefreshDue
  repeat' first
    | with_reducible assumption | (with_reducible refine inc_s ?_ ?_; exact bitFree w rfl)
    | (extract_lets +onlyGivenNames x; first | (refine (fun (hx : Same k s x) => ?_) (?_ : Same k s x); all_goals first | (guard_target =ₐ Same k s x; unfold x; clear x) | clear_value x) | clear_value x)
    | (with_reducible refine grantRefresh_s ?_ ?_; exact maskFree w rfl)
    | (with_reducible refine setDch_s ?_ ?_; exact maskFree w rfl) | split | with_reducible refine SameO_next ?_

theorem mr4Error_s {k : Nat} {s t : State} {a0 : _} (w : k &&& 0x47E000000000000000000000000000000000000000000000000000002000000000120A7F800000000000000000000000000000000000000000000000000000000000000000000000000000804040 = 0) (h : Same k s t) :
    Same k s (mr4Error a0 t) := by
  unfold mr4Error
  repeat' first
    | with_reducible assumption | (with_reducible refine inc_s ?_ ?_; exact bitFree w rfl)
    | (with_reducible refine logFault_s ?_ ?_; exact maskFree w rfl) | split

theorem execMr4Poll_s {k : Nat} {s t : State} {a0 : _} {a1 : _} (w : k &&& 0x47E000000000000000000000000000000000000000000000000000003000000000120A7F800000000000000000000000000000000000000000000000000000000000000000000000000002804040 = 0) (h : Same k s t) :
    SameO k s (execMr4Poll a0 a1 t) := by
  unfold execMr4Poll
  repeat' first
    | with_reducible assumption | (with_reducible refine wr_s ?_ ?_; exact bitFree w rfl)
    | (extract_lets +onlyGivenNames x; first | (have _ : (x : Dram) = x := rfl; subst x) | clear_value x)
    | (with_reducible refine mr4Error_s ?_ ?_; exact maskFree w rfl)
    | (with_reducible refine setDram_s ?_ ?_ ?_; exact maskFree w rfl; rotate_left; rfl)
    | (with_reducible refine Same_foldl ?_ ?_; intro _ _ _) | split | with_reducible refine SameO_next ?_

theorem execRetrainStepStart_s {k : Nat} {s t : State} {a0 : _} (w : k &&& 0x2000000 = 0) (h : Same k s t) :
    SameO k s (execRetrainStepStart a0 t) := by
  unfold execRetrainStepStart
  repeat' first
    | with_reducible assumption | (extract_lets +onlyGivenNames x; clear_value x)
    | (with_reducible refine setDch_s ?_ ?_; exact maskFree w rfl) | split | with_reducible refine SameO_next ?_

theorem execRetrainStepDone_s {k : Nat} {s t : State} {a0 : _} {a1 : _} (w : k &&& 0x47E000000000000000000000000000000000000000000000000000020290400000120A7F800000000000000000000000000000000000000000000000000000000000000000000000000002804040 = 0) (h : Same k s t) :
    SameO k s (execRetrainStepDone a0 a1 t) := by
  unfold execRetrainStepDone
  repeat' first
    | with_reducible assumption | (with_reducible refine inc_s ?_ ?_; exact bitFree w rfl)
    | (extract_lets +onlyGivenNames x; first | (have _ : (x : Dram) = x := rfl; subst x) | clear_value x)
    | (with_reducible refine setDram_s ?_ ?_ ?_; exact maskFree w rfl; rotate_left; rfl)
    | (with_reducible refine fenceChannel_s ?_ ?_; exact maskFree w rfl) | split | with_reducible refine SameO_next ?_

theorem execRetrainAbandon_s {k : Nat} {s t : State} {a0 : _} (w : k &&& 0x40000000000000000000000000000000000000000000000000000000000000000000000000000000000000000000002000000 = 0) (h : Same k s t) :
    SameO k s (execRetrainAbandon a0 t) := by
  unfold execRetrainAbandon
  repeat' first
    | with_reducible assumption | (with_reducible refine inc_s ?_ ?_; exact bitFree w rfl)
    | (extract_lets +onlyGivenNames x; clear_value x) | (with_reducible refine setDch_s ?_ ?_; exact maskFree w rfl)
    | split | with_reducible refine SameO_next ?_

theorem startBist_s {k : Nat} {s t : State} {a0 : _} (w : k &&& 0xF800000000000000000000000000000000000000000000000000000000000000000000000000000200000000000000000002000000 = 0) (h : Same k s t) :
    SameA k s (startBist a0 t) := by
  unfold startBist
  repeat' first
    | with_reducible assumption | (with_reducible refine wr_s ?_ ?_; exact bitFree w rfl)
    | (extract_lets +onlyGivenNames x; first | (refine (fun (hx : Same k s x) => ?_) (?_ : Same k s x); all_goals first | (guard_target =ₐ Same k s x; unfold x; clear x) | clear_value x) | (have _ : (x : Dram) = x := rfl; subst x) | clear_value x)
    | (with_reducible refine setDram_s ?_ ?_ ?_; exact maskFree w rfl; rotate_left; rfl) | split
    | with_reducible refine SameA_ok ?_ | with_reducible exact SameA_err

theorem zeroCluster_s {k : Nat} {s t : State} {a0 : _} (w : k &&& 0x3C001C000000 = 0) (h : Same k s t) :
    Same k s (zeroCluster a0 t) := by
  unfold zeroCluster
  repeat' first
    | with_reducible assumption
    | (with_reducible refine Same_segs_segMem_segBad_krn_krnBad_tab_tabBad (by with_reducible assumption) ?_; exact maskFree w rfl)
    | (extract_lets +onlyGivenNames x; clear_value x) | split

theorem execBistDone_s {k : Nat} {s t : State} {a0 : _} {a1 : _} {a2 : _} (w : k &&& 0xF0000000000000000000000000000000000000000000000000000000000000000000000000000002000000000040003C001E000000 = 0) (h : Same k s t) :
    SameO k s (execBistDone a0 a1 a2 t) := by
  unfold execBistDone
  repeat' first
    | with_reducible assumption | (with_reducible refine wr_s ?_ ?_; exact bitFree w rfl)
    | (extract_lets +onlyGivenNames x; first | (refine (fun (hx : Same k s x) => ?_) (?_ : Same k s x); all_goals first | (guard_target =ₐ Same k s x; unfold x; clear x) | clear_value x) | (have _ : (x : Dram) = x := rfl; subst x) | clear_value x)
    | (with_reducible refine zeroCluster_s ?_ ?_; exact maskFree w rfl)
    | (with_reducible refine zeroChannel_s ?_ ?_; exact maskFree w rfl)
    | (with_reducible refine setDram_s ?_ ?_ ?_; exact maskFree w rfl; rotate_left; rfl) | split
    | with_reducible refine SameO_next ?_

theorem winRead_s {k : Nat} {s t : State} {a0 : _} (w : k &&& 0x20A098000000000000000000000000000000000000000000000000000000000000000000000000000000000000000000002000000 = 0) (h : Same k s t) :
    Same k s (winRead a0 t).2 := by
  unfold winRead
  repeat' first
    | with_reducible assumption | (with_reducible refine wr_s ?_ ?_; exact bitFree w rfl)
    | (extract_lets +onlyGivenNames x; first | (refine (fun (hx : Same k s x.2) => ?_) (?_ : Same k s x.2); all_goals first | (guard_target =ₐ Same k s x.2; unfold x; clear x) | clear_value x) | clear_value x)
    | (with_reducible refine dramRead_s ?_ ?_; exact maskFree w rfl)
    | (with_reducible refine SameP.snd (dramRead_s ?_ ?_) (by assumption); exact maskFree w rfl) | split
    | with_reducible refine SameP_mk ?_

theorem winWrite_s {k : Nat} {s t : State} {a0 : _} (w : k &&& 0x208100000000000000000000000000000000000000000000000000000000000000000000000000000000000004000000002000000 = 0) (h : Same k s t) :
    SameA k s (winWrite a0 t) := by
  unfold winWrite
  repeat' first
    | with_reducible assumption | (with_reducible refine wr_s ?_ ?_; exact bitFree w rfl)
    | (extract_lets +onlyGivenNames x; clear_value x) | (with_reducible refine dramWrite_s ?_ ?_; exact maskFree w rfl)
    | split | with_reducible refine SameA_ok ?_ | with_reducible exact SameA_err

theorem writeRing_s {k : Nat} {s t : State} {a0 : _} {a1 : _} {a2 : _} (w : k &&& 0x60000000000000000000000000000000000000000000000000000000000000000000000000000000000000000000000000000000 = 0) (h : Same k s t) :
    SameA k s (writeRing a0 a1 a2 t) := by
  unfold writeRing
  repeat' first
    | with_reducible assumption | (with_reducible refine wr_s ?_ ?_; exact bitFree w rfl)
    | (extract_lets +onlyGivenNames x; clear_value x) | split | with_reducible refine SameA_ok ?_
    | with_reducible exact SameA_err

theorem writePanic_s {k : Nat} {s t : State} {a0 : _} {a1 : _} (w : k &&& 0x3000000000000000000000000000000000000000000000000000000000000000000000000000000000000000000000002000000 = 0) (h : Same k s t) :
    SameA k s (writePanic a0 a1 t) := by
  unfold writePanic
  repeat' first
    | with_reducible assumption | (with_reducible refine wr_s ?_ ?_; exact bitFree w rfl)
    | (with_reducible refine settlePanic_s ?_ ?_; exact maskFree w rfl) | split | with_reducible refine SameA_ok ?_
    | with_reducible exact SameA_err

/-! ### Microcode -/

theorem readPort_s {k : Nat} {s t : State} {a0 : _} (w : k &&& 0x47E000000000000000000000000000000000000000000000000000000000000004320F7F80000000000000000000000000000000000000000000000000A004030010000000000000001024804FC0 = 0) (h : Same k s t) :
    Same k s (readPort a0 t) := by
  unfold readPort
  repeat' first
    | with_reducible assumption
    | (extract_lets +onlyGivenNames x; first | (refine (fun (hx : Same k s x) => ?_) (?_ : Same k s x); all_goals first | (guard_target =ₐ Same k s x; unfold x; clear x) | clear_value x) | (refine (fun (hx : Same k s x.2) => ?_) (?_ : Same k s x.2); all_goals first | (guard_target =ₐ Same k s x.2; unfold x; clear x) | clear_value x) | (refine (fun (hf5 : ∀ a b c d u, Same k s u → Same k s (x a b c d u)) => ?_) (?_ : ∀ a b c d u, Same k s u → Same k s (x a b c d u)); all_goals first | (guard_target =ₐ ∀ a b c d u, Same k s u → Same k s (x a b c d u); unfold x; clear x; intro _ _ _ _ _ _) | clear_value x) | clear_value x)
    | with_reducible refine hf5 _ _ _ _ _ ?_ | (with_reducible refine schedPoison_s ?_ ?_; exact maskFree w rfl)
    | (with_reducible refine readWord_s ?_ ?_; exact maskFree w rfl)
    | (with_reducible refine SameP.snd (readWord_s ?_ ?_) (by assumption); exact maskFree w rfl)
    | (with_reducible refine eset_s ?_ ?_; exact maskFree w rfl) | split

theorem writePort_s {k : Nat} {s t : State} {a0 : _} {a1 : _} {a2 : _} (w : k &&& 0x4000000000000000000000000000000000000000000000000000000000000000010000000000000000000000100 = 0) (h : Same k s t) :
    Same k s (writePort a0 a1 a2 t) := by
  unfold writePort
  repeat' first
    | with_reducible assumption | (with_reducible refine inc_s ?_ ?_; exact bitFree w rfl)
    | (with_reducible refine incBy_s ?_ ?_; exact bitFree w rfl) | (extract_lets +onlyGivenNames x; clear_value x)
    | (with_reducible refine fset_s ?_ ?_; exact maskFree w rfl) | split

theorem microPort_s {k : Nat} {s t : State} {a0 : _} {a1 : _} {a2 : _} {a3 : _} {a4 : _} (w : k &&& 0x47E000000000000000000000000000000000000000000000000000000000000004320F7F80000000000000000000000000000000000000000000000001A0158B0010000000000010001024804FC0 = 0) (h : Same k s t) :
    Same k s (microPort a0 a1 a2 a3 a4 t) := by
  unfold microPort
  repeat' first
    | with_reducible assumption
    | (extract_lets +onlyGivenNames x; first | (refine (fun (hg2 : ∀ a b, Same k s (x a b)) => ?_) (?_ : ∀ a b, Same k s (x a b)); all_goals first | (guard_target =ₐ ∀ a b, Same k s (x a b); unfold x; clear x; intro _ _) | clear_value x) | clear_value x)
    | exact hg2 _ _ | (with_reducible refine writePort_s ?_ ?_; exact maskFree w rfl)
    | (with_reducible refine readPort_s ?_ ?_; exact maskFree w rfl)
    | (with_reducible refine arriveBarrier_s ?_ ?_; exact maskFree w rfl)
    | (with_reducible refine brset_s ?_ ?_; exact maskFree w rfl)
    | (with_reducible refine raise_s ?_ ?_; exact maskFree w rfl)
    | (with_reducible refine eset_s ?_ ?_; exact maskFree w rfl) | split

theorem microStall_s {k : Nat} {s t : State} {a0 : _} {a1 : _} {a2 : _} (w : k &&& 0x200000000000000000000000000000000000000000000000000000000004000000000000000000000000000000200 = 0) (h : Same k s t) :
    SameM k s (microStall t a0 a1 a2) := by
  unfold microStall
  repeat' first
    | with_reducible assumption | (with_reducible refine inc_s ?_ ?_; exact bitFree w rfl)
    | (extract_lets +onlyGivenNames x; clear_value x) | (with_reducible refine beginWait_s ?_ ?_; exact maskFree w rfl)
    | (with_reducible refine eset_s ?_ ?_; exact maskFree w rfl) | split | with_reducible refine SameM_some ?_
    | with_reducible exact SameM_none

theorem microWord_s {k : Nat} {s t : State} {a0 : _} {a1 : _} {a2 : _} (w : k &&& 0x47E000000000000000000000000000000000000000000000000000000000000004320F7F80000000000000000000000000000000000000000000000001A0158B0010000000000010001024804FC4 = 0) (h : Same k s t) :
    Same k s (microWord a0 a1 a2 t).2 := by
  unfold microWord
  repeat' first
    | with_reducible assumption
    | (extract_lets +onlyGivenNames x; first | (refine (fun (hx : Same k s x) => ?_) (?_ : Same k s x); all_goals first | (guard_target =ₐ Same k s x; unfold x; clear x) | clear_value x) | (refine (fun (hx : Same k s x.2) => ?_) (?_ : Same k s x.2); all_goals first | (guard_target =ₐ Same k s x.2; unfold x; clear x) | clear_value x) | clear_value x)
    | (with_reducible refine microPort_s ?_ ?_; exact maskFree w rfl)
    | (with_reducible refine eset_s ?_ ?_; exact maskFree w rfl)
    | (with_reducible refine fresh_s ?_ ?_; exact maskFree w rfl)
    | (with_reducible refine SameP.snd (fresh_s ?_ ?_) (by assumption); exact maskFree w rfl) | split
    | with_reducible refine SameP_mk ?_

theorem microExec_s {k : Nat} {s t : State} {a0 : _} {a1 : _} {a2 : _} (w : k &&& 0x47E000000000000000000000000000000000000000000000000000000000000004320F7F80000000000000000000000000000000000000000000000001E0158B0010000000000010001024804FC4 = 0) (h : Same k s t) :
    Same k s (microExec a0 a1 a2 t) := by
  unfold microExec
  repeat' first
    | with_reducible assumption
    | (extract_lets +onlyGivenNames x; first | (refine (fun (hx : Same k s x.2) => ?_) (?_ : Same k s x.2); all_goals first | (guard_target =ₐ Same k s x.2; unfold x; clear x) | clear_value x) | clear_value x)
    | (with_reducible refine microWord_s ?_ ?_; exact maskFree w rfl)
    | (with_reducible refine SameP.snd (microWord_s ?_ ?_) (by assumption); exact maskFree w rfl)
    | (with_reducible refine afterPacket_s ?_ ?_; exact maskFree w rfl)
    | (with_reducible refine eset_s ?_ ?_; exact maskFree w rfl) | split

theorem microRun_s {k : Nat} {s t : State} {a0 : _} {a1 : _} (w : k &&& 0x47E000000000000000000000000000000000000000000000000000000000000204320F7F80000000000000000000000000000000000000000000000021E0158B0010000000000010001024804FC4 = 0) (h : Same k s t) :
    Same k s (microRun a0 a1 t) := by
  induction a1 generalizing t with
  | zero =>
    unfold microRun
    repeat' first
      | with_reducible assumption | (with_reducible refine microExec_s ?_ ?_; exact maskFree w rfl)
      | (with_reducible refine SameM.some (microStall_s ?_ ?_) (by assumption); exact maskFree w rfl)
      | (with_reducible refine storeFault_s ?_ ?_; exact maskFree w rfl) | split
  | succ n ih =>
    unfold microRun
    repeat' first
      | with_reducible assumption | (with_reducible refine microExec_s ?_ ?_; exact maskFree w rfl)
      | (with_reducible refine SameM.some (microStall_s ?_ ?_) (by assumption); exact maskFree w rfl)
      | (with_reducible refine storeFault_s ?_ ?_; exact maskFree w rfl) | with_reducible refine ih ?_ | split

theorem keystoneWord_s {k : Nat} {s t : State} {a0 : _} (w : k &&& 0x47E000000000000000000000000000000000000000000000000000000000000204320F7F80000000000000000000000000000000000000000000000001E0158B0010000000000010001024804FC4 = 0) (h : Same k s t) :
    SameM k s (keystoneWord a0 t) := by
  unfold keystoneWord
  repeat' first
    | with_reducible assumption
    | (extract_lets +onlyGivenNames x; first | (refine (fun (hx : Same k s x.2) => ?_) (?_ : Same k s x.2); all_goals first | (guard_target =ₐ Same k s x.2; unfold x; clear x) | clear_value x) | clear_value x)
    | (with_reducible refine microWord_s ?_ ?_; exact maskFree w rfl)
    | (with_reducible refine SameP.snd (microWord_s ?_ ?_) (by assumption); exact maskFree w rfl)
    | (with_reducible refine microStall_s ?_ ?_; exact maskFree w rfl)
    | (with_reducible refine SameM.some (microStall_s ?_ ?_) (by assumption); exact maskFree w rfl)
    | (with_reducible refine eset_s ?_ ?_; exact maskFree w rfl) | split | with_reducible refine SameM_some ?_
    | with_reducible exact SameM_none

/-! ### ControlStore -/

theorem setPatch_s {k : Nat} {s t : State} {a0 : _} {a1 : _} (w : k &&& 0x2000 = 0) (h : Same k s t) :
    Same k s (setPatch a0 a1 t) := by
  unfold setPatch
  repeat' first
    | with_reducible assumption
    | (with_reducible refine Same_patches (by with_reducible assumption) ?_; exact maskFree w rfl) | split

theorem writePatch_s {k : Nat} {s t : State} {a0 : _} (w : k &&& 0x180000000000000000000000000000002000 = 0) (h : Same k s t) :
    Same k s (writePatch a0 t).2 := by
  unfold writePatch
  repeat' first
    | with_reducible assumption | (with_reducible refine inc_s ?_ ?_; exact bitFree w rfl)
    | (extract_lets +onlyGivenNames x; clear_value x) | (with_reducible refine setPatch_s ?_ ?_; exact maskFree w rfl)
    | split | with_reducible refine SameP_mk ?_

theorem writeBootPatch_s {k : Nat} {s t : State} {a0 : _} {a1 : _} (w : k &&& 0x100000000000000000000000000000200000 = 0) (h : Same k s t) :
    Same k s (writeBootPatch a0 a1 t).2 := by
  unfold writeBootPatch
  repeat' first
    | with_reducible assumption | (with_reducible refine inc_s ?_ ?_; exact bitFree w rfl)
    | (with_reducible refine Same_nvm (by with_reducible assumption) ?_; exact maskFree w rfl)
    | (extract_lets +onlyGivenNames x; first | (refine (fun (hx : Same k s x) => ?_) (?_ : Same k s x); all_goals first | (guard_target =ₐ Same k s x; unfold x; clear x) | clear_value x) | clear_value x)
    | split | with_reducible refine SameP_mk ?_

theorem applyBootPatches_s {k : Nat} {s t : State} (w : k &&& 0x100000000000000000000000000000002000 = 0) (h : Same k s t) :
    Same k s (applyBootPatches t) := by
  unfold applyBootPatches
  repeat' first
    | with_reducible assumption | (with_reducible refine inc_s ?_ ?_; exact bitFree w rfl)
    | (extract_lets +onlyGivenNames x; clear_value x) | (with_reducible refine setPatch_s ?_ ?_; exact maskFree w rfl)
    | (with_reducible refine Same_foldl ?_ ?_; intro _ _ _) | split

theorem poisonPatch_s {k : Nat} {s t : State} {a0 : _} {a1 : _} {a2 : _} {a3 : _} (w : k &&& 0x2000 = 0) (h : Same k s t) :
    Same k s (poisonPatch a0 a1 a2 a3 t) := by
  unfold poisonPatch
  repeat' first
    | with_reducible assumption | (extract_lets +onlyGivenNames x; clear_value x)
    | (with_reducible refine setPatch_s ?_ ?_; exact maskFree w rfl) | split

theorem dropPatch_s {k : Nat} {s t : State} {a0 : _} (w : k &&& 0x2000 = 0) (h : Same k s t) :
    Same k s (dropPatch a0 t) := by
  unfold dropPatch
  repeat' first
    | with_reducible assumption | (with_reducible refine setPatch_s ?_ ?_; exact maskFree w rfl) | split

theorem restartSte0_s {k : Nat} {s t : State} (w : k &&& 0x20000000000000000000000000000000000000000002000000000000000000000002047F8000000000000000000000000000000000000000000000000000000000000000000000000000000040C0 = 0) (h : Same k s t) :
    Same k s (restartSte0 t) := by
  unfold restartSte0
  repeat' first
    | with_reducible assumption | (with_reducible refine flag_s ?_ ?_; exact bitFree w rfl)
    | (with_reducible refine wr_s ?_ ?_; exact bitFree w rfl)
    | (with_reducible refine abandonQueue_s ?_ ?_; exact maskFree w rfl) | split

theorem rewriteRecord_s {k : Nat} {s t : State} (w : k &&& 0x40 = 0) (h : Same k s t) :
    Same k s (rewriteRecord t) := by
  unfold rewriteRecord
  repeat' first
    | with_reducible assumption | (extract_lets +onlyGivenNames x; clear_value x)
    | (with_reducible refine qset_s ?_ ?_; exact maskFree w rfl) | split

theorem restartSte1_s {k : Nat} {s t : State} (w : k &&& 0x1000000000040 = 0) (h : Same k s t) :
    Same k s (restartSte1 t) := by
  unfold restartSte1
  repeat' first
    | with_reducible assumption
    | (with_reducible refine Same_stream (by with_reducible assumption) ?_; exact maskFree w rfl)
    | (extract_lets +onlyGivenNames x; clear_value x)
    | (with_reducible refine rewriteRecord_s ?_ ?_; exact maskFree w rfl) | split

theorem restartDte_s {k : Nat} {s t : State} (w : k &&& 0x10000000000000000000000000000000000000000000000000000000000000000000000000000000000000000040003C001E000000 = 0) (h : Same k s t) :
    Same k s (restartDte t) := by
  unfold restartDte
  repeat' first
    | with_reducible assumption | (with_reducible refine wr_s ?_ ?_; exact bitFree w rfl)
    | (extract_lets +onlyGivenNames x; first | (refine (fun (hx : Same k s x) => ?_) (?_ : Same k s x); all_goals first | (guard_target =ₐ Same k s x; unfold x; clear x) | clear_value x) | (have _ : (x : Dram) = x := rfl; subst x) | clear_value x)
    | (with_reducible refine zeroCluster_s ?_ ?_; exact maskFree w rfl)
    | (with_reducible refine zeroChannel_s ?_ ?_; exact maskFree w rfl)
    | (with_reducible refine setDram_s ?_ ?_ ?_; exact maskFree w rfl; rotate_left; rfl)
    | (with_reducible refine setDch_s ?_ ?_; exact maskFree w rfl) | (with_reducible refine Same_foldl ?_ ?_; intro _ _ _)
    | split

theorem restartVre_s {k : Nat} {s t : State} (w : k &&& 0x20000000000000 = 0) (h : Same k s t) :
    Same k s (restartVre t) := by
  unfold restartVre
  repeat' first
    | with_reducible assumption | (with_reducible refine Same_vre (by with_reducible assumption) ?_; exact maskFree w rfl)
    | (extract_lets +onlyGivenNames x; clear_value x) | split

/-! ### Nvm -/

theorem setNvm_s {k : Nat} {s t : State} {a0 : _} (w : k &&& 0x200000 = 0) (h : Same k s t) :
    Same k s (setNvm a0 t) := by
  unfold setNvm
  repeat' first
    | with_reducible assumption | (with_reducible refine Same_nvm (by with_reducible assumption) ?_; exact maskFree w rfl)
    | split

theorem persist_s {k : Nat} {s t : State} {a0 : _} {a1 : _} {a2 : _} (w : k &&& 0x800000000000000000000000000000000000000000000000000000000000000000000000000000000000000000000000000000000000000000000200000 = 0) (h : Same k s t) :
    Same k s (persist a0 a1 a2 t) := by
  unfold persist
  repeat' first
    | with_reducible assumption | (with_reducible refine wr_s ?_ ?_; exact bitFree w rfl)
    | (extract_lets +onlyGivenNames x; clear_value x) | (with_reducible refine setNvm_s ?_ ?_; exact maskFree w rfl)
    | split

theorem loadRecord_s {k : Nat} {s t : State} {r : Nat × Nat × Nat × List Byte} (w : k &&& 0x7FFFFFFFFFFFFFFFFFFFFFFFFFFFFFFFFFFFFFFFFFFFFFFFFFFFFFFFFFFFFFFFFFFFFFFFFFFFFFFFFFFFFFFFFFFFFFFFFFFFFFFFFFFFFFFFFFFFFFFFFFFFFFFFFFFFFFFFFFFFFFFFFF8000000000200000 = 0) (h : Same k s t) :
    Same k s (loadRecord r t) := by
  have hw : ∀ (r : Reg) (v : Int) (i : Nat) (u : State), Same k s u → Same k s (wr r v i u) :=
    fun r _ _ _ q => wr_s (allRegs (maskFree w rfl) r) q
  have he : ∀ (n : Nvm) (u : State), Same k s u → Same k s (setNvm n u) := fun _ _ q => setNvm_s (maskFree w rfl) q
  have hi : Same k s (inc .NVM_REC_SKIPPED 0 t) := inc_s (allRegs (maskFree w rfl) _) h
  unfold loadRecord
  dsimp only
  split
  · split
    · exact hi
    · split
      · split
        · exact he _ _ (he _ _ h)
        · exact hi
      · split
        · exact hi
        · exact he _ _ (Same_foldl (fun _ _ q => hw _ _ _ _ q) h)
  · exact hi

theorem loadPersistent_s {k : Nat} {s t : State} (w : k &&& 0x7FFFFFFFFFFFFFFFFFFFFFFFFFFFFFFFFFFFFFFFFFFFFFFFFFFFFFFFFFFFFFFFFFFFFFFFFFFFFFFFFFFFFFFFFFFFFFFFFFFFFFFFFFFFFFFFFFFFFFFFFFFFFFFFFFFFFFFFFFFFFFFFFF8000000000200000 = 0) (h : Same k s t) :
    Same k s (loadPersistent t) := by
  unfold loadPersistent
  repeat' first
    | with_reducible assumption | (with_reducible refine wr_s ?_ ?_; exact bitFree w rfl)
    | (extract_lets +onlyGivenNames x; first | (refine (fun (hx : Same k s x) => ?_) (?_ : Same k s x); all_goals first | (guard_target =ₐ Same k s x; unfold x; clear x) | clear_value x) | clear_value x)
    | (with_reducible refine loadRecord_s ?_ ?_; exact maskFree w rfl)
    | (with_reducible refine setNvm_s ?_ ?_; exact maskFree w rfl) | (with_reducible refine Same_foldl ?_ ?_; intro _ _ _)
    | split

theorem setInactive_s {k : Nat} {s t : State} {a0 : _} (w : k &&& 0x200000 = 0) (h : Same k s t) :
    Same k s (setInactive a0 t) := by
  unfold setInactive
  repeat' first
    | with_reducible assumption | (extract_lets +onlyGivenNames x; clear_value x)
    | (with_reducible refine setNvm_s ?_ ?_; exact maskFree w rfl) | split

theorem commitFail_s {k : Nat} {s t : State} (w : k &&& 0x10C00000000000000000000000000000000000000000000000000000000000000000000000000000000000000000000000000000000000000000000200000 = 0) (h : Same k s t) :
    Same k s (commitFail t) := by
  unfold commitFail
  repeat' first
    | with_reducible assumption | (with_reducible refine inc_s ?_ ?_; exact bitFree w rfl)
    | (with_reducible refine wr_s ?_ ?_; exact bitFree w rfl) | (extract_lets +onlyGivenNames x; clear_value x)
    | (with_reducible refine setNvm_s ?_ ?_; exact maskFree w rfl) | split

theorem startCommit_s {k : Nat} {s t : State} (w : k &&& 0x14C00000000000000000000000000000000000000000000000000000000000000000000000000000000000000000000000000000000000000000000200000 = 0) (h : Same k s t) :
    SameA k s (startCommit t) := by
  unfold startCommit
  repeat' first
    | with_reducible assumption | (with_reducible refine wr_s ?_ ?_; exact bitFree w rfl)
    | (extract_lets +onlyGivenNames x; first | (refine (fun (hx : Same k s x) => ?_) (?_ : Same k s x); all_goals first | (guard_target =ₐ Same k s x; unfold x; clear x) | clear_value x) | clear_value x)
    | (with_reducible refine commitFail_s ?_ ?_; exact maskFree w rfl)
    | (with_reducible refine setNvm_s ?_ ?_; exact maskFree w rfl) | split | with_reducible refine SameA_ok ?_
    | with_reducible exact SameA_err

theorem execNvmEraseDone_s {k : Nat} {s t : State} (w : k &&& 0x400000000000000000000000000000000000000000000000000000000000000000000000000000000000000000000000000000000000000000000200000 = 0) (h : Same k s t) :
    SameO k s (execNvmEraseDone t) := by
  unfold execNvmEraseDone
  repeat' first
    | with_reducible assumption | (with_reducible refine wr_s ?_ ?_; exact bitFree w rfl)
    | (extract_lets +onlyGivenNames x; first | (refine (fun (hx : Same k s x) => ?_) (?_ : Same k s x); all_goals first | (guard_target =ₐ Same k s x; unfold x; clear x) | clear_value x) | clear_value x)
    | (with_reducible refine setInactive_s ?_ ?_; exact maskFree w rfl)
    | (with_reducible refine setNvm_s ?_ ?_; exact maskFree w rfl) | split | with_reducible refine SameO_next ?_

theorem commitDone_s {k : Nat} {s t : State} (w : k &&& 0xB400000000000000000000000000000000000000000000000000000000000000000000000000000000000000000000000000000000000000000000200000 = 0) (h : Same k s t) :
    Same k s (commitDone t) := by
  unfold commitDone
  repeat' first
    | with_reducible assumption | (with_reducible refine inc_s ?_ ?_; exact bitFree w rfl)
    | (with_reducible refine wr_s ?_ ?_; exact bitFree w rfl)
    | (extract_lets +onlyGivenNames x; first | (refine (fun (hx : Same k s x) => ?_) (?_ : Same k s x); all_goals first | (guard_target =ₐ Same k s x; unfold x; clear x) | clear_value x) | clear_value x)
    | (with_reducible refine setNvm_s ?_ ?_; exact maskFree w rfl) | split

theorem execPageProgramDone_s {k : Nat} {s t : State} {a0 : _} (w : k &&& 0x1FC00000000000000000000000000000000000000000000000000000000000000000000000000000000000000000000000000000000000000000000200000 = 0) (h : Same k s t) :
    SameO k s (execPageProgramDone a0 t) := by
  unfold execPageProgramDone
  repeat' first
    | with_reducible assumption | (with_reducible refine inc_s ?_ ?_; exact bitFree w rfl)
    | (extract_lets +onlyGivenNames x; first | (refine (fun (hx : Same k s x) => ?_) (?_ : Same k s x); all_goals first | (guard_target =ₐ Same k s x; unfold x; clear x) | clear_value x) | clear_value x)
    | (with_reducible refine commitDone_s ?_ ?_; exact maskFree w rfl)
    | (with_reducible refine commitFail_s ?_ ?_; exact maskFree w rfl)
    | (with_reducible refine setInactive_s ?_ ?_; exact maskFree w rfl)
    | (with_reducible refine setNvm_s ?_ ?_; exact maskFree w rfl) | split | with_reducible refine SameO_next ?_

/-! ### Life -/

theorem execShutdownComplete_s {k : Nat} {s t : State} (w : k &&& 0x320000C7F000080020000004000C05000002210C40001010A000182600002000C0000410520E7F8080000100055240000000280000000000000000002000004000200000004000000027C1000006AC40C0 = 0) (h : Same k s t) :
    SameO k s (execShutdownComplete t) := by
  unfold execShutdownComplete
  repeat' first
    | with_reducible assumption | (with_reducible refine wr_s ?_ ?_; exact bitFree w rfl)
    | (extract_lets +onlyGivenNames x; first | (refine (fun (hx : Same k s x) => ?_) (?_ : Same k s x); all_goals first | (guard_target =ₐ Same k s x; unfold x; clear x) | clear_value x) | clear_value x)
    | (with_reducible refine commitFail_s ?_ ?_; exact maskFree w rfl)
    | (with_reducible refine suspend_s ?_ ?_; exact maskFree w rfl)
    | (with_reducible refine setCool_s ?_ ?_; exact maskFree w rfl)
    | (with_reducible refine toFio_s ?_ ?_; exact maskFree w rfl)
    | (with_reducible refine settleLanes_s ?_ ?_; exact maskFree w rfl)
    | (with_reducible refine setDch_s ?_ ?_; exact maskFree w rfl) | (with_reducible refine Same_foldl ?_ ?_; intro _ _ _)
    | split | with_reducible refine SameO_next ?_

theorem resume_s {k : Nat} {s t : State} (w : k &&& 0x330000C7F000080020000004000C00000000000040001010A000182600002002DC400410520E7F808000010005404000000028000000000000000000200000400020000000400000002741000006CC40C0 = 0) (h : Same k s t) :
    SameA k s (resume t) := by
  unfold resume
  repeat' first
    | with_reducible assumption | (with_reducible refine wr_s ?_ ?_; exact bitFree w rfl)
    | (extract_lets +onlyGivenNames x; first | (refine (fun (hx : Same k s x) => ?_) (?_ : Same k s x); all_goals first | (guard_target =ₐ Same k s x; unfold x; clear x) | clear_value x) | clear_value x)
    | (with_reducible refine setCool_s ?_ ?_; exact maskFree w rfl)
    | (with_reducible refine settleTraining_s ?_ ?_; exact maskFree w rfl)
    | (with_reducible refine trainChannel_s ?_ ?_; exact maskFree w rfl)
    | (with_reducible refine pauseWipe_s ?_ ?_; exact maskFree w rfl)
    | (with_reducible refine setClk_s ?_ ?_; exact maskFree w rfl)
    | (with_reducible refine settleLanes_s ?_ ?_; exact maskFree w rfl)
    | (with_reducible refine Same_foldl ?_ ?_; intro _ _ _) | split | with_reducible refine SameA_ok ?_
    | with_reducible exact SameA_err

theorem scrubPool_s {k : Nat} {s t : State} {a0 : _} {a1 : _} {a2 : _} {a3 : _} (w : k &&& 0x80000000000000000000000000000000000000000000000000000000000000000000000000000000000000040 = 0) (h : Same k s t) :
    Same k s (scrubPool a0 a1 a2 a3 t) := by
  induction a1 generalizing t a2 a3 with
  | nil =>
    unfold scrubPool
    repeat' first
      | with_reducible assumption | (with_reducible refine inc_s ?_ ?_; exact bitFree w rfl)
      | (extract_lets +onlyGivenNames x; clear_value x) | (with_reducible refine qset_s ?_ ?_; exact maskFree w rfl) | split
  | cons y l ih =>
    unfold scrubPool
    repeat' first
      | with_reducible assumption | (with_reducible refine inc_s ?_ ?_; exact bitFree w rfl)
      | (extract_lets +onlyGivenNames x; clear_value x) | (with_reducible refine qset_s ?_ ?_; exact maskFree w rfl)
      | with_reducible refine ih ?_ | split

theorem scrubArea_s {k : Nat} {s t : State} {a0 : _} {a1 : _} (w : k &&& 0x400 = 0) (h : Same k s t) :
    Same k s (scrubArea a0 a1 t) := by
  unfold scrubArea
  repeat' first
    | with_reducible assumption | (extract_lets +onlyGivenNames x; clear_value x)
    | (with_reducible refine aset_s ?_ ?_; exact maskFree w rfl) | split

theorem scrubStaging_s {k : Nat} {s t : State} {a0 : _} {a1 : _} (w : k &&& 0x47E000000000000000000000000000000000000000000000000000000000000000120A7F800000000000000000000000000000000000000000000000000000000000000000000001800000804840 = 0) (h : Same k s t) :
    Same k s (scrubStaging a0 a1 t) := by
  induction a0 generalizing t a1 with
  | nil =>
    unfold scrubStaging
    repeat' first
      | with_reducible assumption
      | (with_reducible refine Same_stream (by with_reducible assumption) ?_; exact maskFree w rfl)
      | (extract_lets +onlyGivenNames x; clear_value x) | (with_reducible refine loseLoose_s ?_ ?_; exact maskFree w rfl)
      | (with_reducible refine rsset_s ?_ ?_; exact maskFree w rfl)
      | (with_reducible refine voidNum_s ?_ ?_; exact maskFree w rfl) | split
  | cons y l ih =>
    unfold scrubStaging
    repeat' first
      | with_reducible assumption
      | (with_reducible refine Same_stream (by with_reducible assumption) ?_; exact maskFree w rfl)
      | (extract_lets +onlyGivenNames x; clear_value x) | (with_reducible refine loseLoose_s ?_ ?_; exact maskFree w rfl)
      | (with_reducible refine rsset_s ?_ ?_; exact maskFree w rfl)
      | (with_reducible refine voidNum_s ?_ ?_; exact maskFree w rfl) | with_reducible refine ih ?_ | split

theorem scrubSample_s {k : Nat} {s t : State} {a0 : _} {a1 : _} (w : k &&& 0x20000000000000000000000000000000000014000000 = 0) (h : Same k s t) :
    Same k s (scrubSample a0 a1 t) := by
  unfold scrubSample
  repeat' first
    | with_reducible assumption | (with_reducible refine inc_s ?_ ?_; exact bitFree w rfl)
    | (with_reducible refine Same_segBad (by with_reducible assumption) ?_; exact maskFree w rfl)
    | (extract_lets +onlyGivenNames x; first | (refine (fun (hx : Same k s x) => ?_) (?_ : Same k s x); all_goals first | (guard_target =ₐ Same k s x; unfold x; clear x) | clear_value x) | clear_value x)
    | (with_reducible refine sset_s ?_ ?_; exact maskFree w rfl) | (with_reducible refine Same_foldl ?_ ?_; intro _ _ _)
    | split

theorem scrubCluster_s {k : Nat} {s t : State} {a0 : _} {a1 : _} {a2 : _} (w : k &&& 0x47E000000000000000000000000000000000000000000000000000000000000000120A7F800000000000000000000000000000000000000020080000000000000000000000000008280114806840 = 0) (h : Same k s t) :
    Same k s (scrubCluster a0 a1 a2 t) := by
  unfold scrubCluster
  repeat' first
    | with_reducible assumption | (with_reducible refine inc_s ?_ ?_; exact bitFree w rfl)
    | (with_reducible refine Same_krnBad (by with_reducible assumption) ?_; exact maskFree w rfl)
    | (with_reducible refine Same_tabBad (by with_reducible assumption) ?_; exact maskFree w rfl)
    | (with_reducible refine Same_tapBad (by with_reducible assumption) ?_; exact maskFree w rfl)
    | (extract_lets +onlyGivenNames x; first | (refine (fun (hx : Same k s x) => ?_) (?_ : Same k s x); all_goals first | (guard_target =ₐ Same k s x; unfold x; clear x) | clear_value x) | (refine (fun (hf3 : ∀ a b u, Same k s u → Same k s (x a b u)) => ?_) (?_ : ∀ a b u, Same k s u → Same k s (x a b u)); all_goals first | (guard_target =ₐ ∀ a b u, Same k s u → Same k s (x a b u); unfold x; clear x; intro _ _ _ _) | clear_value x) | clear_value x)
    | with_reducible refine hf3 _ _ _ ?_ | (with_reducible refine scrubSample_s ?_ ?_; exact maskFree w rfl)
    | (with_reducible refine poisonPatch_s ?_ ?_; exact maskFree w rfl)
    | (with_reducible refine bcset_s ?_ ?_; exact maskFree w rfl)
    | (with_reducible refine voidNow_s ?_ ?_; exact maskFree w rfl)
    | (with_reducible refine Same_foldl ?_ ?_; intro _ _ _) | split

theorem scrubMark_s {k : Nat} {s t : State} {a0 : _} {a1 : _} {a2 : _} (w : k &&& 0x47E0000000000000000000000000000000000000000000000000000000000000001A0A7F800000000000000000000000000000000000000020080000000000000000000000000009A80114A06C40 = 0) (h : Same k s t) :
    Same k s (scrubMark a0 a1 a2 t) := by
  unfold scrubMark
  repeat' first
    | with_reducible assumption | (extract_lets +onlyGivenNames x; clear_value x)
    | (with_reducible refine scrubCluster_s ?_ ?_; exact maskFree w rfl)
    | (with_reducible refine scrubStaging_s ?_ ?_; exact maskFree w rfl)
    | (with_reducible refine scrubArea_s ?_ ?_; exact maskFree w rfl)
    | (with_reducible refine scrubPool_s ?_ ?_; exact maskFree w rfl)
    | (with_reducible refine setNvm_s ?_ ?_; exact maskFree w rfl)
    | (with_reducible refine poisonPatch_s ?_ ?_; exact maskFree w rfl) | split

theorem execScrubStep_s {k : Nat} {s t : State} {a0 : _} {a1 : _} {a2 : _} (w : k &&& 0x647E0000000000000000000000000000000000000000000000000000000000000001A0A7F800000000000000000000000000000000000000020080000000000000000000000000009A80115A06C40 = 0) (h : Same k s t) :
    SameO k s (execScrubStep a0 a1 a2 t) := by
  unfold execScrubStep
  repeat' first
    | with_reducible assumption | (with_reducible refine inc_s ?_ ?_; exact bitFree w rfl)
    | (with_reducible refine incBy_s ?_ ?_; exact bitFree w rfl)
    | (with_reducible refine Same_scrubAt (by with_reducible assumption) ?_; exact maskFree w rfl)
    | (extract_lets +onlyGivenNames x; first | (refine (fun (hx : Same k s x) => ?_) (?_ : Same k s x); all_goals first | (guard_target =ₐ Same k s x; unfold x; clear x) | clear_value x) | clear_value x)
    | (with_reducible refine scrubMark_s ?_ ?_; exact maskFree w rfl)
    | (with_reducible refine logFault_s ?_ ?_; exact maskFree w rfl)
    | (with_reducible refine Same_foldl ?_ ?_; intro _ _ _) | split | with_reducible refine SameO_next ?_

theorem execScrubStale_s {k : Nat} {s t : State} {a0 : _} (w : k &&& 0x8000000000000000000000000000000000000000000000000000000000000000000000000000000000000000000000000000000000000000000000000000000000000000000000000000000000000 = 0) (h : Same k s t) :
    SameO k s (execScrubStale a0 t) := by
  unfold execScrubStale
  repeat' first
    | with_reducible assumption | (with_reducible refine flag_s ?_ ?_; exact bitFree w rfl) | split
    | with_reducible refine SameO_next ?_

theorem writeLcsReq_s {k : Nat} {s t : State} {a0 : _} (w : k &&& 0x14000000000000000000000000000000000000000000000000000000000000000000000000000000000000000000000000000000000000000000000000000000000000000000000000000000000400000 = 0) (h : Same k s t) :
    SameA k s (writeLcsReq a0 t) := by
  unfold writeLcsReq
  repeat' first
    | with_reducible assumption | (with_reducible refine wr_s ?_ ?_; exact bitFree w rfl)
    | (with_reducible refine Same_boot (by with_reducible assumption) ?_; exact maskFree w rfl)
    | (extract_lets +onlyGivenNames x; clear_value x) | split | with_reducible refine SameA_ok ?_
    | with_reducible exact SameA_err

theorem writeLcsConfirm_s {k : Nat} {s t : State} {a0 : _} (w : k &&& 0x400000 = 0) (h : Same k s t) :
    SameA k s (writeLcsConfirm a0 t) := by
  unfold writeLcsConfirm
  repeat' first
    | with_reducible assumption
    | (with_reducible refine Same_boot (by with_reducible assumption) ?_; exact maskFree w rfl)
    | (extract_lets +onlyGivenNames x; clear_value x) | split | with_reducible refine SameA_ok ?_
    | with_reducible exact SameA_err

theorem execLcsReqExpire_s {k : Nat} {s t : State} (w : k &&& 0x10000000000000000000000000000000000000000000000000000000000000000000000000000000000000000000000000000000000000000000000000000000000000000000000000000000000400000 = 0) (h : Same k s t) :
    SameO k s (execLcsReqExpire t) := by
  unfold execLcsReqExpire
  repeat' first
    | with_reducible assumption | (with_reducible refine wr_s ?_ ?_; exact bitFree w rfl)
    | (with_reducible refine Same_boot (by with_reducible assumption) ?_; exact maskFree w rfl)
    | (extract_lets +onlyGivenNames x; clear_value x) | split | with_reducible refine SameO_next ?_

theorem silenceAll_s {k : Nat} {s t : State} (w : k &&& 0x400000000000000010000000000000000000000000000000400420000 = 0) (h : Same k s t) :
    Same k s (silenceAll t) := by
  unfold silenceAll
  repeat' first
    | with_reducible assumption
    | (with_reducible refine Same_boot_biases (by with_reducible assumption) ?_; exact maskFree w rfl)
    | (extract_lets +onlyGivenNames x; first | (refine (fun (hx : Same k s x) => ?_) (?_ : Same k s x); all_goals first | (guard_target =ₐ Same k s x; unfold x; clear x) | clear_value x) | clear_value x)
    | (with_reducible refine lowMarker_s ?_ ?_; exact maskFree w rfl)
    | (with_reducible refine muteCluster_s ?_ ?_; exact maskFree w rfl)
    | (with_reducible refine Same_foldl ?_ ?_; intro _ _ _) | split

/-! ### Boot -/

theorem execPowerGood_s {k : Nat} {s t : State} {a0 : _} {a1 : _} (w : k &&& 0x400000000000000000000000000010000000000000000000000000000000000000000000000000000000000000000000000000000000000000000000000000000000000000000000000000000000400000 = 0) (h : Same k s t) :
    SameO k s (execPowerGood a0 a1 t) := by
  unfold execPowerGood
  repeat' first
    | with_reducible assumption | (with_reducible refine wr_s ?_ ?_; exact bitFree w rfl)
    | (with_reducible refine Same_boot (by with_reducible assumption) ?_; exact maskFree w rfl)
    | (extract_lets +onlyGivenNames x; first | (refine (fun (hx : Same k s x) => ?_) (?_ : Same k s x); all_goals first | (guard_target =ₐ Same k s x; unfold x; clear x) | clear_value x) | clear_value x)
    | split | with_reducible refine SameO_next ?_

theorem writeReset_s {k : Nat} {s t : State} {a0 : _} (w : k &&& 0x400000 = 0) (h : Same k s t) :
    SameA k s (writeReset a0 t) := by
  unfold writeReset
  repeat' first
    | with_reducible assumption
    | (with_reducible refine Same_boot (by with_reducible assumption) ?_; exact maskFree w rfl)
    | (extract_lets +onlyGivenNames x; clear_value x) | split | with_reducible refine SameA_ok ?_
    | with_reducible exact SameA_err

theorem setNode_s {k : Nat} {s t : State} {a0 : _} (w : k &&& 0xC0000000000000000000000000000000000000000000000000000000000000000000000000000000000000000000000000000000000000000000000 = 0) (h : Same k s t) :
    Same k s (setNode a0 t) := by
  unfold setNode
  repeat' first
    | with_reducible assumption | (with_reducible refine wr_s ?_ ?_; exact bitFree w rfl)
    | (extract_lets +onlyGivenNames x; clear_value x) | split

theorem applyFuses_s {k : Nat} {s t : State} {a0 : _} (w : k &&& 0x100018000000000000000000000000000200000000000000000000000000000000000000000000000000000000000000000000000000000000000000000000000000002000000000400000 = 0) (h : Same k s t) :
    Same k s (applyFuses a0 t) := by
  unfold applyFuses
  repeat' first
    | with_reducible assumption | (with_reducible refine wr_s ?_ ?_; exact bitFree w rfl)
    | (with_reducible refine Same_boot (by with_reducible assumption) ?_; exact maskFree w rfl)
    | (extract_lets +onlyGivenNames x; first | (refine (fun (hx : Same k s x) => ?_) (?_ : Same k s x); all_goals first | (guard_target =ₐ Same k s x; unfold x; clear x) | clear_value x) | clear_value x)
    | (with_reducible refine setFactors_s ?_ ?_; exact maskFree w rfl)
    | (with_reducible refine initTrims_s ?_ ?_; exact maskFree w rfl)
    | (with_reducible refine Same_foldl ?_ ?_; intro _ _ _) | split

theorem execFuseRead_s {k : Nat} {s t : State} {a0 : _} {a1 : _} {a2 : _} (w : k &&& 0x20000057E0001000180000000000000000000000000C0200000000000000000000000000120A7F800000000000000000000000000000000000000000000000000000000000000000002000000000C04040 = 0) (h : Same k s t) :
    SameO k s (execFuseRead a0 a1 a2 t) := by
  unfold execFuseRead
  repeat' first
    | with_reducible assumption | (with_reducible refine wr_s ?_ ?_; exact bitFree w rfl)
    | (with_reducible refine Same_boot (by with_reducible assumption) ?_; exact maskFree w rfl)
    | (extract_lets +onlyGivenNames x; first | (refine (fun (hx : Same k s x) => ?_) (?_ : Same k s x); all_goals first | (guard_target =ₐ Same k s x; unfold x; clear x) | clear_value x) | clear_value x)
    | (with_reducible refine applyFuses_s ?_ ?_; exact maskFree w rfl)
    | (with_reducible refine setNode_s ?_ ?_; exact maskFree w rfl)
    | (with_reducible refine milestone_s ?_ ?_; exact maskFree w rfl)
    | (with_reducible refine logFault_s ?_ ?_; exact maskFree w rfl) | split | with_reducible refine SameO_next ?_

theorem execMemoryWipeDone_s {k : Nat} {s t : State} (w : k &&& 0x200000000000000000000000000000000000000000000000000000000000000000000000000000000000000000000000000000000000000000000000000000000000000000000000000000000000400000 = 0) (h : Same k s t) :
    SameO k s (execMemoryWipeDone t) := by
  unfold execMemoryWipeDone
  repeat' first
    | with_reducible assumption
    | (with_reducible refine Same_boot (by with_reducible assumption) ?_; exact maskFree w rfl)
    | (extract_lets +onlyGivenNames x; clear_value x) | (with_reducible refine milestone_s ?_ ?_; exact maskFree w rfl)
    | split | with_reducible refine SameO_next ?_

theorem execNvmBootRead_s {k : Nat} {s t : State} {a0 : _} {a1 : _} (w : k &&& 0x7FFFFFFFFFFFFFFFFFFFFFFFFFFFFFFFFFFFFFFFFFFFFFFFFFFFFFFFFFFFFFFFFFFFFFFFFFFFFFFFFFFFFFFFFFFFFFFFFFFFFFFFFFFFFFFFFFFFFFFFFFFFFFFFFFFFFFFFFFFFFFFFFF8741000004EC62C0 = 0) (h : Same k s t) :
    SameO k s (execNvmBootRead a0 a1 t) := by
  unfold execNvmBootRead
  repeat' first
    | with_reducible assumption | (with_reducible refine wr_s ?_ ?_; exact bitFree w rfl)
    | (with_reducible refine Same_boot (by with_reducible assumption) ?_; exact maskFree w rfl)
    | (extract_lets +onlyGivenNames x; first | (refine (fun (hx : Same k s x) => ?_) (?_ : Same k s x); all_goals first | (guard_target =ₐ Same k s x; unfold x; clear x) | clear_value x) | clear_value x)
    | (with_reducible refine setNode_s ?_ ?_; exact maskFree w rfl)
    | (with_reducible refine loadPersistent_s ?_ ?_; exact maskFree w rfl)
    | (with_reducible refine applyBootPatches_s ?_ ?_; exact maskFree w rfl)
    | (with_reducible refine setStep_s ?_ ?_; exact maskFree w rfl)
    | (with_reducible refine bootMet_s ?_ ?_; exact maskFree w rfl)
    | (with_reducible refine milestone_s ?_ ?_; exact maskFree w rfl)
    | (with_reducible refine setClk_s ?_ ?_; exact maskFree w rfl)
    | (with_reducible refine settleLanes_s ?_ ?_; exact maskFree w rfl)
    | (with_reducible refine eset_s ?_ ?_; exact maskFree w rfl) | (with_reducible refine Same_foldl ?_ ?_; intro _ _ _)
    | split | with_reducible refine SameO_next ?_

/-! ### Delivery -/

theorem taken_s {k : Nat} {s t : State} {a0 : _} (w : k &&& 0x6000000000000000000000000000000000000000000000000000000000000000000000000000000000000000000000 = 0) (h : Same k s t) :
    Same k s (taken a0 t) := by
  unfold taken
  repeat' first
    | with_reducible assumption | (with_reducible refine inc_s ?_ ?_; exact bitFree w rfl)
    | (extract_lets +onlyGivenNames x; (refine (fun (hx : Same k s x) => ?_) (?_ : Same k s x); all_goals first | (guard_target =ₐ Same k s x; unfold x; clear x) | clear_value x))
    | split

theorem refused_s {k : Nat} {s t : State} {a0 : _} (w : k &&& 0x1800000000000000000000000000000000000000000000000000000000000000000000000000000000000000000000 = 0) (h : Same k s t) :
    Same k s (refused a0 t) := by
  unfold refused
  repeat' first
    | with_reducible assumption | (with_reducible refine flag_s ?_ ?_; exact bitFree w rfl)
    | (with_reducible refine inc_s ?_ ?_; exact bitFree w rfl) | split

theorem deliverEngine_s {k : Nat} {s t : State} {a0 : _} (w : k &&& 0x7800000000000000000000000000000000000000000000000000000000000000000000000000000000000000000200 = 0) (h : Same k s t) :
    Same k s (deliverEngine a0 t) := by
  unfold deliverEngine
  repeat' first
    | with_reducible assumption | (extract_lets +onlyGivenNames x; clear_value x)
    | (with_reducible refine refused_s ?_ ?_; exact maskFree w rfl)
    | (with_reducible refine taken_s ?_ ?_; exact maskFree w rfl)
    | (with_reducible refine eset_s ?_ ?_; exact maskFree w rfl) | split

theorem deliverMau_s {k : Nat} {s t : State} {a0 : _} (w : k &&& 0x2000000000000000000000000000000000000000000000007800000000000000000000000000000000000000000000000000000000000000000000000000000800000000000000 = 0) (h : Same k s t) :
    Same k s (deliverMau a0 t) := by
  unfold deliverMau
  repeat' first
    | with_reducible assumption
    | (extract_lets +onlyGivenNames x; first | (refine (fun (hx : Same k s x.2) => ?_) (?_ : Same k s x.2); all_goals first | (guard_target =ₐ Same k s x.2; unfold x; clear x) | clear_value x) | clear_value x)
    | (with_reducible refine refused_s ?_ ?_; exact maskFree w rfl)
    | (with_reducible refine taken_s ?_ ?_; exact maskFree w rfl)
    | (with_reducible refine mauStart_s ?_ ?_; exact maskFree w rfl)
    | (with_reducible refine SameP.snd (mauStart_s ?_ ?_) (by assumption); exact maskFree w rfl) | split

theorem deliverArm_s {k : Nat} {s t : State} {a0 : _} (w : k &&& 0x7800000000000000000000000000042100000000000000000000000000000000000000000000000024000000000000 = 0) (h : Same k s t) :
    Same k s (deliverArm a0 t) := by
  unfold deliverArm
  repeat' first
    | with_reducible assumption | (with_reducible refine refused_s ?_ ?_; exact maskFree w rfl)
    | (with_reducible refine taken_s ?_ ?_; exact maskFree w rfl)
    | (with_reducible refine SameM.some (armEvent_s ?_ ?_) (by assumption); exact maskFree w rfl) | split

theorem deliverCapture_s {k : Nat} {s t : State} {a0 : _} (w : k &&& 0x7800000000000000000000000400000000000000000000000000000000000000000000000000000000010000000000 = 0) (h : Same k s t) :
    Same k s (deliverCapture a0 t) := by
  unfold deliverCapture
  repeat' first
    | with_reducible assumption | (with_reducible refine inc_s ?_ ?_; exact bitFree w rfl)
    | (extract_lets +onlyGivenNames x; clear_value x) | (with_reducible refine refused_s ?_ ?_; exact maskFree w rfl)
    | (with_reducible refine taken_s ?_ ?_; exact maskFree w rfl)
    | (with_reducible refine trset_s ?_ ?_; exact maskFree w rfl) | split

theorem deliverMarker_s {k : Nat} {s t : State} {a0 : _} (w : k &&& 0x6000000000000000000000000000000000000000000000000000000000000000000000000000000000000000020000 = 0) (h : Same k s t) :
    Same k s (deliverMarker a0 t) := by
  unfold deliverMarker
  repeat' first
    | with_reducible assumption | (extract_lets +onlyGivenNames x; clear_value x)
    | (with_reducible refine taken_s ?_ ?_; exact maskFree w rfl)
    | (with_reducible refine mkset_s ?_ ?_; exact maskFree w rfl) | split

theorem execEventDelivery_s {k : Nat} {s t : State} {a0 : _} (w : k &&& 0x2000000000000000000000000000000000000000000000007800000000000000000000000400042100000000000000000000000000000000000000000000000824010000028200 = 0) (h : Same k s t) :
    SameO k s (execEventDelivery a0 t) := by
  unfold execEventDelivery
  repeat' first
    | with_reducible assumption
    | (with_reducible refine Same_deliveries (by with_reducible assumption) ?_; exact maskFree w rfl)
    | (extract_lets +onlyGivenNames x; (refine (fun (hx : Same k s x) => ?_) (?_ : Same k s x); all_goals first | (guard_target =ₐ Same k s x; unfold x; clear x) | clear_value x))
    | (with_reducible refine deliverMarker_s ?_ ?_; exact maskFree w rfl)
    | (with_reducible refine deliverCapture_s ?_ ?_; exact maskFree w rfl)
    | (with_reducible refine deliverArm_s ?_ ?_; exact maskFree w rfl)
    | (with_reducible refine deliverMau_s ?_ ?_; exact maskFree w rfl)
    | (with_reducible refine deliverEngine_s ?_ ?_; exact maskFree w rfl) | split | with_reducible refine SameO_next ?_

theorem execTimerFire_s {k : Nat} {s t : State} {a0 : _} (w : k &&& 0x2000000000000000000000000000000000000000000000110000000000000000000000000000000000000000000000000000000000000000000000000000000800000000014000 = 0) (h : Same k s t) :
    SameO k s (execTimerFire a0 t) := by
  unfold execTimerFire
  repeat' first
    | with_reducible assumption | (with_reducible refine mauStart_s ?_ ?_; exact maskFree w rfl)
    | (with_reducible refine SameP.snd (mauStart_s ?_ ?_) (by assumption); exact maskFree w rfl)
    | (with_reducible refine timerFire_s ?_ ?_; exact maskFree w rfl)
    | (with_reducible refine Same_foldl ?_ ?_; intro _ _ _) | split | with_reducible refine SameO_next ?_

/-! ### Queues -/

theorem execQueueWrite_s {k : Nat} {s t : State} {a0 : _} {a1 : _} {a2 : _} {a3 : _} {a4 : _} (w : k &&& 0x120A7F800000000000000000000000000000000000000000000000000000000000000000000000000000004040 = 0) (h : Same k s t) :
    SameO k s (execQueueWrite a0 a1 a2 a3 a4 t) := by
  unfold execQueueWrite
  repeat' first
    | with_reducible assumption | (with_reducible refine writeWord_s ?_ ?_; exact maskFree w rfl) | split
    | with_reducible refine SameO_next ?_

theorem execWaitingWriteResume_s {k : Nat} {s t : State} {a0 : _} (w : k &&& 0x120A7F800000000000000000000000000000000000000000000000000000000000000000000000000000004040 = 0) (h : Same k s t) :
    SameO k s (execWaitingWriteResume a0 t) := by
  unfold execWaitingWriteResume
  repeat' first
    | with_reducible assumption | (with_reducible refine resumeWrite_s ?_ ?_; exact maskFree w rfl) | split
    | with_reducible refine SameO_next ?_

theorem answerTo_s {k : Nat} {s t : State} {a0 : _} {a1 : _} (w : k &&& 0x40 = 0) (h : Same k s t) :
    Same k s (answerTo a0 a1 t) := by
  unfold answerTo
  repeat' first
    | with_reducible assumption | (extract_lets +onlyGivenNames x; clear_value x)
    | (with_reducible refine qset_s ?_ ?_; exact maskFree w rfl) | split

theorem execQueueRead_s {k : Nat} {s t : State} {a0 : _} {a1 : _} {a2 : _} (w : k &&& 0x22011F8000000000000000000000000000000000000000000000000000000000000000000000000000000040C0 = 0) (h : Same k s t) :
    SameO k s (execQueueRead a0 a1 a2 t) := by
  unfold execQueueRead
  repeat' first
    | with_reducible assumption
    | (extract_lets +onlyGivenNames x; (refine (fun (hx : Same k s x.2) => ?_) (?_ : Same k s x.2); all_goals first | (guard_target =ₐ Same k s x.2; unfold x; clear x) | clear_value x))
    | (with_reducible refine answerTo_s ?_ ?_; exact maskFree w rfl)
    | (with_reducible refine readWord_s ?_ ?_; exact maskFree w rfl)
    | (with_reducible refine SameP.snd (readWord_s ?_ ?_) (by assumption); exact maskFree w rfl) | split
    | with_reducible refine SameO_next ?_

theorem execQueueDrop_s {k : Nat} {s t : State} {a0 : _} (w : k &&& 0x2009F800000000000000000000000000000000000000000000000000000000000000000000000000000004040 = 0) (h : Same k s t) :
    SameO k s (execQueueDrop a0 t) := by
  unfold execQueueDrop
  repeat' first
    | with_reducible assumption
    | (extract_lets +onlyGivenNames x; (refine (fun (hx : Same k s x.2) => ?_) (?_ : Same k s x.2); all_goals first | (guard_target =ₐ Same k s x.2; unfold x; clear x) | clear_value x))
    | (with_reducible refine answerTo_s ?_ ?_; exact maskFree w rfl)
    | (with_reducible refine dropPacket_s ?_ ?_; exact maskFree w rfl)
    | (with_reducible refine SameP.snd (dropPacket_s ?_ ?_) (by assumption); exact maskFree w rfl) | split
    | with_reducible refine SameO_next ?_

theorem execQueueFlush_s {k : Nat} {s t : State} {a0 : _} (w : k &&& 0x2045F8000000000000000000000000000000000000000000000000000000000000000000000000000000040C0 = 0) (h : Same k s t) :
    SameO k s (execQueueFlush a0 t) := by
  unfold execQueueFlush
  repeat' first
    | with_reducible assumption | (with_reducible refine flushQueue_s ?_ ?_; exact maskFree w rfl) | split
    | with_reducible refine SameO_next ?_

theorem pushQueue_s {k : Nat} {s t : State} {a0 : _} {a1 : _} (w : k &&& 0x2021F800000000000000000000000000000000000000000000000000000000000000000000000000000004040 = 0) (h : Same k s t) :
    SameA k s (pushQueue a0 a1 t) := by
  unfold pushQueue
  repeat' first
    | with_reducible assumption | (with_reducible refine appendPacket_s ?_ ?_; exact maskFree w rfl) | split
    | with_reducible refine SameA_ok ?_ | with_reducible exact SameA_err

theorem popQueue_s {k : Nat} {s t : State} {a0 : _} (w : k &&& 0x22011F8000000000000000000000000000000000000000000000000000000000000000000000000000000040C0 = 0) (h : Same k s t) :
    SameAP k s (popQueue a0 t) := by
  unfold popQueue
  repeat' first
    | with_reducible assumption
    | (extract_lets +onlyGivenNames x; (refine (fun (hx : Same k s x.2) => ?_) (?_ : Same k s x.2); all_goals first | (guard_target =ₐ Same k s x.2; unfold x; clear x) | clear_value x))
    | (with_reducible refine readWord_s ?_ ?_; exact maskFree w rfl)
    | (with_reducible refine SameP.snd (readWord_s ?_ ?_) (by assumption); exact maskFree w rfl) | split
    | with_reducible refine SameAP_ok ?_ | with_reducible exact SameAP_err

theorem readPacket_s {k : Nat} {s t : State} {a0 : _} {a1 : _} (w : k &&& 0x22011F8000000000000000000000000000000000000000000000000000000000000000000000000000000040C0 = 0) (h : Same k s t) :
    Same k s (readPacket a0 a1 t).2 := by
  induction a1 generalizing t with
  | zero =>
    unfold readPacket
    repeat' first
      | with_reducible assumption
      | (extract_lets +onlyGivenNames x; (refine (fun (hx : Same k s x.2) => ?_) (?_ : Same k s x.2); all_goals first | (guard_target =ₐ Same k s x.2; unfold x; clear x) | clear_value x))
      | (with_reducible refine readWord_s ?_ ?_; exact maskFree w rfl)
      | (with_reducible refine SameP.snd (readWord_s ?_ ?_) (by assumption); exact maskFree w rfl) | split
      | with_reducible refine SameP_mk ?_
  | succ n ih =>
    unfold readPacket
    repeat' first
      | with_reducible assumption
      | (extract_lets +onlyGivenNames x; (refine (fun (hx : Same k s x.2) => ?_) (?_ : Same k s x.2); all_goals first | (guard_target =ₐ Same k s x.2; unfold x; clear x) | clear_value x))
      | (with_reducible refine readWord_s ?_ ?_; exact maskFree w rfl)
      | (with_reducible refine SameP.snd (readWord_s ?_ ?_) (by assumption); exact maskFree w rfl)
      | with_reducible refine ih ?_ | split | with_reducible refine SameP_mk ?_

theorem pktQueue_s {k : Nat} {s t : State} {a0 : _} (w : k &&& 0x22011F8000000000000000000000000000000000000000000000000000000000000000000000000000000040C0 = 0) (h : Same k s t) :
    SameAP k s (pktQueue a0 t) := by
  unfold pktQueue
  repeat' first
    | with_reducible assumption | (with_reducible refine incBy_s ?_ ?_; exact bitFree w rfl)
    | (extract_lets +onlyGivenNames x; first | (refine (fun (hx : Same k s x.2) => ?_) (?_ : Same k s x.2); all_goals first | (guard_target =ₐ Same k s x.2; unfold x; clear x) | clear_value x) | clear_value x)
    | (with_reducible refine readPacket_s ?_ ?_; exact maskFree w rfl)
    | (with_reducible refine SameP.snd (readPacket_s ?_ ?_) (by assumption); exact maskFree w rfl) | split
    | with_reducible refine SameAP_ok ?_ | with_reducible exact SameAP_err

theorem hostFlush_s {k : Nat} {s t : State} {a0 : _} (w : k &&& 0x2045F8000000000000000000000000000000000000000000000000000000000000000000000000000000040C0 = 0) (h : Same k s t) :
    SameA k s (hostFlush a0 t) := by
  unfold hostFlush
  repeat' first
    | with_reducible assumption
    | (extract_lets +onlyGivenNames x; first | (refine (fun (hx : Same k s x) => ?_) (?_ : Same k s x); all_goals first | (guard_target =ₐ Same k s x; unfold x; clear x) | clear_value x) | clear_value x)
    | (with_reducible refine flushQueue_s ?_ ?_; exact maskFree w rfl)
    | (with_reducible refine qset_s ?_ ?_; exact maskFree w rfl) | split | with_reducible refine SameA_ok ?_
    | with_reducible exact SameA_err

theorem hostDrop_s {k : Nat} {s t : State} {a0 : _} (w : k &&& 0x2009F800000000000000000000000000000000000000000000000000000000000000000000000000000004040 = 0) (h : Same k s t) :
    SameA k s (hostDrop a0 t) := by
  unfold hostDrop
  repeat' first
    | with_reducible assumption | (with_reducible refine dropPacket_s ?_ ?_; exact maskFree w rfl)
    | (with_reducible refine SameP.snd (dropPacket_s ?_ ?_) (by assumption); exact maskFree w rfl) | split
    | with_reducible refine SameA_ok ?_ | with_reducible exact SameA_err

theorem writeWatermark_s {k : Nat} {s t : State} {a0 : _} {a1 : _} {a2 : _} (w : k &&& 0x600000000000000000000000000000000000000000000000000000000000000000000000000000000000 = 0) (h : Same k s t) :
    SameA k s (writeWatermark a0 a1 a2 t) := by
  unfold writeWatermark
  repeat' first
    | with_reducible assumption | (with_reducible refine wr_s ?_ ?_; exact bitFree w rfl)
    | (extract_lets +onlyGivenNames x; clear_value x) | split | with_reducible refine SameA_ok ?_
    | with_reducible exact SameA_err

/-! ### Schedule -/

theorem schedRow_s {k : Nat} {s t : State} {op : Nat} {e : EngNo} {b : Bool} {f : List QWord → State → State}
    (w : k &&& 0x47E000000000000000000000000000000000000000000000000000000000000204320F7F80000000000000000000000000000000000000000000000021F0178B0010000000000010001024804FC4 = 0) (h : Same k s t) (hf : ∀ qs, Same k s (f qs t)) : SameO k s (schedRow op e b f t) := by
  unfold schedRow
  refine SameO_next ?_
  split
  · exact microRun_s (maskFree w rfl) (schedFrame_s (maskFree w rfl) h hf)
  · exact schedFrame_s (maskFree w rfl) h hf

theorem execSchedNop_s {k : Nat} {s t : State} {a0 : _} {a1 : _} (w : k &&& 0x47E000000000000000000000000000000000000000000000000000000000000204320F7F80000000000000000000000000000000000000000000000021F0178B0010000000000010001024804FC4 = 0) (h : Same k s t) :
    SameO k s (execSchedNop a0 a1 t) := by
  unfold execSchedNop
  repeat' first
    | with_reducible assumption | (with_reducible refine schedRow_s ?_ ?_ (fun _ => ?_); exact maskFree w rfl)
    | (with_reducible refine afterPacket_s ?_ ?_; exact maskFree w rfl)
    | (with_reducible refine consume_s ?_ ?_; exact maskFree w rfl)
    | (with_reducible refine execOpcode_s ?_ ?_; exact maskFree w rfl) | split | with_reducible refine SameO_next ?_

theorem execSchedPlay_s {k : Nat} {s t : State} {a0 : _} {a1 : _} (w : k &&& 0x47E000000000000000000000000000000000000000000000000000000000000204320F7F80000000000000000000000000000000000000000000000021F0178B0010000000000010001024804FC4 = 0) (h : Same k s t) :
    SameO k s (execSchedPlay a0 a1 t) := by
  unfold execSchedPlay
  repeat' first
    | with_reducible assumption | (with_reducible refine schedRow_s ?_ ?_ (fun _ => ?_); exact maskFree w rfl)
    | (with_reducible refine emitOpcode_s ?_ ?_; exact maskFree w rfl) | split | with_reducible refine SameO_next ?_

theorem execSchedJump_s {k : Nat} {s t : State} {a0 : _} {a1 : _} (w : k &&& 0x47E000000000000000000000000000000000000000000000000000000000000204320F7F80000000000000000000000000000000000000000000000021F0178B0010000000000010001024804FC4 = 0) (h : Same k s t) :
    SameO k s (execSchedJump a0 a1 t) := by
  unfold execSchedJump
  repeat' first
    | with_reducible assumption | (with_reducible refine schedRow_s ?_ ?_ (fun _ => ?_); exact maskFree w rfl)
    | (with_reducible refine emitOpcode_s ?_ ?_; exact maskFree w rfl) | split | with_reducible refine SameO_next ?_

theorem execSchedHold_s {k : Nat} {s t : State} {a0 : _} {a1 : _} (w : k &&& 0x47E000000000000000000000000000000000000000000000000000000000000204320F7F80000000000000000000000000000000000000000000000021F0178B0010000000000010001024804FC4 = 0) (h : Same k s t) :
    SameO k s (execSchedHold a0 a1 t) := by
  unfold execSchedHold
  repeat' first
    | with_reducible assumption | (with_reducible refine schedRow_s ?_ ?_ (fun _ => ?_); exact maskFree w rfl)
    | (with_reducible refine emitOpcode_s ?_ ?_; exact maskFree w rfl) | split | with_reducible refine SameO_next ?_

theorem execSchedFreq_s {k : Nat} {s t : State} {a0 : _} {a1 : _} (w : k &&& 0x47E000000000000000000000000000000000000000000000000000000000000204320F7F80000000000000000000000000000000000000000000000021F0178B0010000000000010001024804FC4 = 0) (h : Same k s t) :
    SameO k s (execSchedFreq a0 a1 t) := by
  unfold execSchedFreq
  repeat' first
    | with_reducible assumption | (with_reducible refine schedRow_s ?_ ?_ (fun _ => ?_); exact maskFree w rfl)
    | (with_reducible refine emitOpcode_s ?_ ?_; exact maskFree w rfl) | split | with_reducible refine SameO_next ?_

theorem execSchedPhase_s {k : Nat} {s t : State} {a0 : _} {a1 : _} (w : k &&& 0x47E000000000000000000000000000000000000000000000000000000000000204320F7F80000000000000000000000000000000000000000000000021F0178B0010000000000010001024804FC4 = 0) (h : Same k s t) :
    SameO k s (execSchedPhase a0 a1 t) := by
  unfold execSchedPhase
  repeat' first
    | with_reducible assumption | (with_reducible refine schedRow_s ?_ ?_ (fun _ => ?_); exact maskFree w rfl)
    | (with_reducible refine emitOpcode_s ?_ ?_; exact maskFree w rfl) | split | with_reducible refine SameO_next ?_

theorem execSchedFlux_s {k : Nat} {s t : State} {a0 : _} {a1 : _} (w : k &&& 0x47E000000000000000000000000000000000000000000000000000000000000204320F7F80000000000000000000000000000000000000000000000021F0178B0010000000000010001024804FC4 = 0) (h : Same k s t) :
    SameO k s (execSchedFlux a0 a1 t) := by
  unfold execSchedFlux
  repeat' first
    | with_reducible assumption | (with_reducible refine schedRow_s ?_ ?_ (fun _ => ?_); exact maskFree w rfl)
    | (with_reducible refine emitOpcode_s ?_ ?_; exact maskFree w rfl) | split | with_reducible refine SameO_next ?_

theorem execSchedBias_s {k : Nat} {s t : State} {a0 : _} {a1 : _} (w : k &&& 0x47E000000000000000000000000000000000000000000000000000000000000204320F7F80000000000000000000000000000000000000000000000021F0178B0010000000000010001024804FC4 = 0) (h : Same k s t) :
    SameO k s (execSchedBias a0 a1 t) := by
  unfold execSchedBias
  repeat' first
    | with_reducible assumption | (with_reducible refine schedRow_s ?_ ?_ (fun _ => ?_); exact maskFree w rfl)
    | (with_reducible refine emitOpcode_s ?_ ?_; exact maskFree w rfl) | split | with_reducible refine SameO_next ?_

theorem execSchedCapture_s {k : Nat} {s t : State} {a0 : _} {a1 : _} (w : k &&& 0x47E000000000000000000000000000000000000000000000000000000000000204320F7F80000000000000000000000000000000000000000000000021F0178B0010000000000010001024804FC4 = 0) (h : Same k s t) :
    SameO k s (execSchedCapture a0 a1 t) := by
  unfold execSchedCapture
  repeat' first
    | with_reducible assumption | (with_reducible refine schedRow_s ?_ ?_ (fun _ => ?_); exact maskFree w rfl)
    | (with_reducible refine emitOpcode_s ?_ ?_; exact maskFree w rfl) | split | with_reducible refine SameO_next ?_

theorem execSchedMark_s {k : Nat} {s t : State} {a0 : _} {a1 : _} (w : k &&& 0x47E000000000000000000000000000000000000000000000000000000000000204320F7F80000000000000000000000000000000000000000000000021F0178B0010000000000010001024804FC4 = 0) (h : Same k s t) :
    SameO k s (execSchedMark a0 a1 t) := by
  unfold execSchedMark
  repeat' first
    | with_reducible assumption | (with_reducible refine schedRow_s ?_ ?_ (fun _ => ?_); exact maskFree w rfl)
    | (with_reducible refine emitOpcode_s ?_ ?_; exact maskFree w rfl) | split | with_reducible refine SameO_next ?_

theorem execSchedAlt_s {k : Nat} {s t : State} {a0 : _} {a1 : _} (w : k &&& 0x47E000000000000000000000000000000000000000000000000000000000000204320F7F80000000000000000000000000000000000000000000000021F0178B0010000000000010001024804FC4 = 0) (h : Same k s t) :
    SameO k s (execSchedAlt a0 a1 t) := by
  unfold execSchedAlt
  repeat' first
    | with_reducible assumption | (with_reducible refine schedRow_s ?_ ?_ (fun _ => ?_); exact maskFree w rfl)
    | (with_reducible refine altEffect_s ?_ ?_; exact maskFree w rfl) | split | with_reducible refine SameO_next ?_

theorem execSchedSelect_s {k : Nat} {s t : State} {a0 : _} {a1 : _} (w : k &&& 0x47E000000000000000000000000000000000000000000000000000000000000204320F7F80000000000000000000000000000000000000000000000021F0178B0010000000000010001024804FC4 = 0) (h : Same k s t) :
    SameO k s (execSchedSelect a0 a1 t) := by
  unfold execSchedSelect
  repeat' first
    | with_reducible assumption | (with_reducible refine schedRow_s ?_ ?_ (fun _ => ?_); exact maskFree w rfl)
    | (with_reducible refine selectEffect_s ?_ ?_; exact maskFree w rfl) | split | with_reducible refine SameO_next ?_

theorem execSchedWaitevt_s {k : Nat} {s t : State} {a0 : _} {a1 : _} (w : k &&& 0x47E000000000000000000000000000000000000000000000000000000000000204320F7F80000000000000000000000000000000000000000000000021F0178B0010000000000010001024804FC4 = 0) (h : Same k s t) :
    SameO k s (execSchedWaitevt a0 a1 t) := by
  unfold execSchedWaitevt
  repeat' first
    | with_reducible assumption | (with_reducible refine schedRow_s ?_ ?_ (fun _ => ?_); exact maskFree w rfl)
    | (with_reducible refine waitevtEffect_s ?_ ?_; exact maskFree w rfl) | split | with_reducible refine SameO_next ?_

theorem execSchedRaise_s {k : Nat} {s t : State} {a0 : _} {a1 : _} (w : k &&& 0x47E000000000000000000000000000000000000000000000000000000000000204320F7F80000000000000000000000000000000000000000000000021F0178B0010000000000010001024804FC4 = 0) (h : Same k s t) :
    SameO k s (execSchedRaise a0 a1 t) := by
  unfold execSchedRaise
  repeat' first
    | with_reducible assumption | (with_reducible refine schedRow_s ?_ ?_ (fun _ => ?_); exact maskFree w rfl)
    | (with_reducible refine afterPacket_s ?_ ?_; exact maskFree w rfl)
    | (with_reducible refine consume_s ?_ ?_; exact maskFree w rfl)
    | (with_reducible refine execOpcode_s ?_ ?_; exact maskFree w rfl)
    | (with_reducible refine raise_s ?_ ?_; exact maskFree w rfl) | split | with_reducible refine SameO_next ?_

theorem execSchedLoop_s {k : Nat} {s t : State} {a0 : _} {a1 : _} (w : k &&& 0x47E000000000000000000000000000000000000000000000000000000000000204320F7F80000000000000000000000000000000000000000000000021F0178B0010000000000010001024804FC4 = 0) (h : Same k s t) :
    SameO k s (execSchedLoop a0 a1 t) := by
  unfold execSchedLoop
  repeat' first
    | with_reducible assumption | (with_reducible refine schedRow_s ?_ ?_ (fun _ => ?_); exact maskFree w rfl)
    | (with_reducible refine loopEffect_s ?_ ?_; exact maskFree w rfl) | split | with_reducible refine SameO_next ?_

theorem execSchedBranch_s {k : Nat} {s t : State} {a0 : _} {a1 : _} (w : k &&& 0x47E000000000000000000000000000000000000000000000000000000000000204320F7F80000000002000000000000000000000000000000000000021F0178B0010000000000012001024804FC4 = 0) (h : Same k s t) :
    SameO k s (execSchedBranch a0 a1 t) := by
  unfold execSchedBranch
  repeat' first
    | with_reducible assumption | (with_reducible refine schedRow_s ?_ ?_ (fun _ => ?_); exact maskFree w rfl)
    | (with_reducible refine branchEffect_s ?_ ?_; exact maskFree w rfl) | split | with_reducible refine SameO_next ?_

theorem execSchedBoundary_s {k : Nat} {s t : State} {a0 : _} {a1 : _} (w : k &&& 0x47E000000000000000000000000000000000000000000000000000000000000204320F7F80000000000000000000000000000000000000000000000021F0178B0010000000000010001024804FC4 = 0) (h : Same k s t) :
    SameO k s (execSchedBoundary a0 a1 t) := by
  unfold execSchedBoundary
  repeat' first
    | with_reducible assumption | (with_reducible refine schedRow_s ?_ ?_ (fun _ => ?_); exact maskFree w rfl)
    | (with_reducible refine arriveEffect_s ?_ ?_; exact maskFree w rfl) | split | with_reducible refine SameO_next ?_

theorem execSchedEnd_s {k : Nat} {s t : State} {a0 : _} {a1 : _} (w : k &&& 0x47E000000000000000000000000000000000000000000000000000000000000204320F7F80000000000000000000000000000000000000000000000021F0178B0010000000000010001024804FC4 = 0) (h : Same k s t) :
    SameO k s (execSchedEnd a0 a1 t) := by
  unfold execSchedEnd
  repeat' first
    | with_reducible assumption | (with_reducible refine schedRow_s ?_ ?_ (fun _ => ?_); exact maskFree w rfl)
    | (with_reducible refine arriveEffect_s ?_ ?_; exact maskFree w rfl) | split | with_reducible refine SameO_next ?_

/-! ### Dictionary -/

theorem latchNow_s {k : Nat} {s t : State} {a0 : _} (w : k &&& 0x30000000000000000000000000000000000000000000000000000000000000000000000000000000000000000000000000000000000000000000000000000000 = 0) (h : Same k s t) :
    Same k s (latchNow a0 t) := by
  unfold latchNow
  repeat' first
    | with_reducible assumption | (with_reducible refine wr_s ?_ ?_; exact bitFree w rfl) | split

theorem writeCapop_s {k : Nat} {s t : State} {a0 : _} {a1 : _} (w : k &&& 0x100000000000000000000000000000000000000000000000000000000000000000000 = 0) (h : Same k s t) :
    SameA k s (writeCapop a0 a1 t) := by
  unfold writeCapop
  repeat' first
    | with_reducible assumption | (with_reducible refine wr_s ?_ ?_; exact bitFree w rfl)
    | (extract_lets +onlyGivenNames x; clear_value x) | split | with_reducible refine SameA_ok ?_
    | with_reducible exact SameA_err

theorem controlWrite_s {k : Nat} {s t : State} {a0 : _} {a1 : _} (w : k &&& 0x47E000000000000000000000000000014C00000000000000000082000000000004120E7F800000000000524000042100000000000000000010000000008000031210000000020065001026A05FC0 = 0) (h : Same k s t) :
    SameA k s (controlWrite a0 a1 t) := by
  unfold controlWrite
  repeat' first
    | with_reducible assumption | (with_reducible refine startCommit_s ?_ ?_; exact maskFree w rfl)
    | (with_reducible refine disarmSync_s ?_ ?_; exact maskFree w rfl)
    | (with_reducible refine fireSync_s ?_ ?_; exact maskFree w rfl)
    | (with_reducible refine armSync_s ?_ ?_; exact maskFree w rfl)
    | (with_reducible refine writeDisarm_s ?_ ?_; exact maskFree w rfl)
    | (with_reducible refine writeArm_s ?_ ?_; exact maskFree w rfl)
    | (with_reducible refine openStream_s ?_ ?_; exact maskFree w rfl)
    | (with_reducible refine closeStream_s ?_ ?_; exact maskFree w rfl)
    | (with_reducible refine unloadImage_s ?_ ?_; exact maskFree w rfl)
    | (with_reducible refine startLoad_s ?_ ?_; exact maskFree w rfl)
    | (with_reducible refine stopRun_s ?_ ?_; exact maskFree w rfl)
    | (with_reducible refine startRun_s ?_ ?_; exact maskFree w rfl)
    | (with_reducible refine abortRun_s ?_ ?_; exact maskFree w rfl) | split | with_reducible refine SameA_ok ?_
    | with_reducible exact SameA_err

theorem accepted_s {k : Nat} {s t : State} {a0 : _} {a1 : _} {a2 : _} {a3 : _} (w : k &&& 0x800000000000000000000000000000000000000000000000000000000000000000000000000000000000000000000000000000000000000000000200000 = 0) (h : Same k s t) :
    Same k s (accepted a0 a1 a2 a3 t) := by
  unfold accepted
  repeat' first
    | with_reducible assumption | (with_reducible refine Same_nvm (by with_reducible assumption) ?_; exact maskFree w rfl)
    | (extract_lets +onlyGivenNames x; clear_value x) | (with_reducible refine persist_s ?_ ?_; exact maskFree w rfl)
    | split

theorem segRejected_s {k : Nat} {s t : State} {a0 : _} {a1 : _} {a2 : _} (w : k &&& 0x2000000000000000000000000000000000000000000 = 0) (h : Same k s t) :
    Same k s (segRejected a0 a1 a2 t) := by
  unfold segRejected
  repeat' first
    | with_reducible assumption | (with_reducible refine inc_s ?_ ?_; exact bitFree w rfl) | split

/-! ### Server -/

theorem openTransfer_s {k : Nat} {s t : State} {a0 : _} {a1 : _} (w : k &&& 0x400000000000000000000000000000000000000000000000000000000000000000000000000000000000000000000000000000000000000000040C0000 = 0) (h : Same k s t) :
    Same k s (openTransfer a0 a1 t) := by
  unfold openTransfer
  repeat' first
    | with_reducible assumption
    | (extract_lets +onlyGivenNames x; first | (refine (fun (hx : Same k s x) => ?_) (?_ : Same k s x); all_goals first | (guard_target =ₐ Same k s x; unfold x; clear x) | clear_value x) | clear_value x)
    | (with_reducible refine closeTransfer_s ?_ ?_; exact maskFree w rfl)
    | (with_reducible refine setPath_s ?_ ?_; exact maskFree w rfl) | split

theorem putTransfer_s {k : Nat} {s t : State} {a0 : _} {a1 : _} (w : k &&& 0xC0000 = 0) (h : Same k s t) :
    Same k s (putTransfer a0 a1 t) := by
  unfold putTransfer
  repeat' first
    | with_reducible assumption | (extract_lets +onlyGivenNames x; clear_value x)
    | (with_reducible refine setPath_s ?_ ?_; exact maskFree w rfl) | split

theorem serveInit_s {k : Nat} {s t : State} {a0 : _} {a1 : _} {a2 : _} {a3 : _} {a4 : _} (w : k &&& 0x7C000000000000000000000000000000120A7F8000000000000000000000000000000000000000020000000000000000000000000000000000040C4040 = 0) (h : Same k s t) :
    Same k s (serveInit a0 a1 a2 a3 a4 t) := by
  unfold serveInit
  repeat' first
    | with_reducible assumption
    | (extract_lets +onlyGivenNames x; first | (refine (fun (hx : Same k s x) => ?_) (?_ : Same k s x); all_goals first | (guard_target =ₐ Same k s x; unfold x; clear x) | clear_value x) | (refine (fun (hf2 : ∀ a u, Same k s u → Same k s (x a u)) => ?_) (?_ : ∀ a u, Same k s u → Same k s (x a u)); all_goals first | (guard_target =ₐ ∀ a u, Same k s u → Same k s (x a u); unfold x; clear x; intro _ _ _) | clear_value x) | clear_value x)
    | with_reducible refine hf2 _ _ ?_ | (with_reducible refine openTransfer_s ?_ ?_; exact maskFree w rfl)
    | (with_reducible refine segRejected_s ?_ ?_; exact maskFree w rfl)
    | (with_reducible refine beginWrite_s ?_ ?_; exact maskFree w rfl)
    | (with_reducible refine respondAbort_s ?_ ?_; exact maskFree w rfl)
    | (with_reducible refine respond_s ?_ ?_; exact maskFree w rfl) | split

theorem storeSegment_s {k : Nat} {s t : State} {a0 : _} {a1 : _} {a2 : _} (w : k &&& 0x18000000 = 0) (h : Same k s t) :
    Same k s (storeSegment a0 a1 a2 t) := by
  unfold storeSegment
  repeat' first
    | with_reducible assumption | (extract_lets +onlyGivenNames x; clear_value x)
    | (with_reducible refine storeSamples_s ?_ ?_; exact maskFree w rfl) | split

theorem windowSegment_s {k : Nat} {s t : State} {a0 : _} {a1 : _} {a2 : _} (w : k &&& 0xA098000000000000000000000000000000000000000000000000000000000000000000000000000000000000000000002000000 = 0) (h : Same k s t) :
    Same k s (windowSegment a0 a1 a2 t).2 := by
  unfold windowSegment
  repeat' first
    | with_reducible assumption
    | (extract_lets +onlyGivenNames x; first | (refine (fun (hx : Same k s x) => ?_) (?_ : Same k s x); all_goals first | (guard_target =ₐ Same k s x; unfold x; clear x) | clear_value x) | (refine (fun (hx : Same k s x.2) => ?_) (?_ : Same k s x.2); all_goals first | (guard_target =ₐ Same k s x.2; unfold x; clear x) | clear_value x) | clear_value x)
    | (with_reducible refine dramRead_s ?_ ?_; exact maskFree w rfl)
    | (with_reducible refine SameP.snd (dramRead_s ?_ ?_) (by assumption); exact maskFree w rfl)
    | (with_reducible refine dropHeld_s ?_ ?_; exact maskFree w rfl)
    | (with_reducible refine setHeld_s ?_ ?_; exact maskFree w rfl) | split | with_reducible refine SameP_mk ?_

theorem nextSegment_s {k : Nat} {s t : State} {a0 : _} {a1 : _} {a2 : _} (w : k &&& 0xA098000000000000000000000000000000000000000000000000000000000000000000000000000000000000000000002000000 = 0) (h : Same k s t) :
    Same k s (nextSegment a0 a1 a2 t).2 := by
  unfold nextSegment
  repeat' first
    | with_reducible assumption | (with_reducible refine windowSegment_s ?_ ?_; exact maskFree w rfl)
    | (with_reducible refine SameP.snd (windowSegment_s ?_ ?_) (by assumption); exact maskFree w rfl) | split
    | with_reducible refine SameP_mk ?_

theorem serveReadSeg_s {k : Nat} {s t : State} {a0 : _} {a1 : _} {a2 : _} {a3 : _} {a4 : _} (w : k &&& 0x7C00000000000000000A098000000000120A7F8000000000000000000000000000000000000000000000000000000000000000000000000000060C4040 = 0) (h : Same k s t) :
    Same k s (serveReadSeg a0 a1 a2 a3 a4 t) := by
  unfold serveReadSeg
  repeat' first
    | with_reducible assumption
    | (extract_lets +onlyGivenNames x; first | (refine (fun (hf2 : ∀ a u, Same k s u → Same k s (x a u)) => ?_) (?_ : ∀ a u, Same k s u → Same k s (x a u)); all_goals first | (guard_target =ₐ ∀ a u, Same k s u → Same k s (x a u); unfold x; clear x; intro _ _ _) | clear_value x) | clear_value x)
    | with_reducible refine hf2 _ _ ?_ | (with_reducible refine nextSegment_s ?_ ?_; exact maskFree w rfl)
    | (with_reducible refine SameP.snd (nextSegment_s ?_ ?_) (by assumption); exact maskFree w rfl)
    | (with_reducible refine putTransfer_s ?_ ?_; exact maskFree w rfl)
    | (with_reducible refine closeTransfer_s ?_ ?_; exact maskFree w rfl)
    | (with_reducible refine respondAbort_s ?_ ?_; exact maskFree w rfl)
    | (with_reducible refine respond_s ?_ ?_; exact maskFree w rfl) | split

theorem turn_s {k : Nat} {s t : State} {a0 : _} (w : k &&& 0x100000 = 0) (h : Same k s t) :
    Same k s (turn a0 t) := by
  unfold turn
  repeat' first
    | with_reducible assumption
    | (with_reducible refine Same_lastPath (by with_reducible assumption) ?_; exact maskFree w rfl) | split

theorem takeRequest_s {k : Nat} {s t : State} {a0 : _} (w : k &&& 0x22011F8000000000000000000000000000000000000000000000000000000000000000000000000000000440C0 = 0) (h : Same k s t) :
    Same k s (takeRequest a0 t) := by
  unfold takeRequest
  repeat' first
    | with_reducible assumption
    | (with_reducible refine Same_path0 (by with_reducible assumption) ?_; exact maskFree w rfl)
    | (extract_lets +onlyGivenNames x; clear_value x) | (with_reducible refine readWhole_s ?_ ?_; exact maskFree w rfl)
    | (with_reducible refine SameP.snd (readWhole_s ?_ ?_) (by assumption); exact maskFree w rfl) | split

theorem execSegmentTimeout_s {k : Nat} {s t : State} {a0 : _} (w : k &&& 0xC00000000000000000000000000000000000000000000000000000000000000000000000000000000000000000000000000000000000000000040C0000 = 0) (h : Same k s t) :
    SameO k s (execSegmentTimeout a0 t) := by
  unfold execSegmentTimeout
  repeat' first
    | with_reducible assumption | (with_reducible refine inc_s ?_ ?_; exact bitFree w rfl)
    | (extract_lets +onlyGivenNames x; first | (refine (fun (hx : Same k s x) => ?_) (?_ : Same k s x); all_goals first | (guard_target =ₐ Same k s x; unfold x; clear x) | clear_value x) | clear_value x)
    | (with_reducible refine closeTransfer_s ?_ ?_; exact maskFree w rfl)
    | (with_reducible refine setPath_s ?_ ?_; exact maskFree w rfl) | split | with_reducible refine SameO_next ?_

theorem bufferCan_s {k : Nat} {s t : State} {a0 : _} (w : k &&& 0x1000000000000000000000000000000000000000000000000000000000000000000000000000000000000000000000000000000000000000000040000 = 0) (h : Same k s t) :
    Same k s (bufferCan a0 t) := by
  unfold bufferCan
  repeat' first
    | with_reducible assumption | (with_reducible refine inc_s ?_ ?_; exact bitFree w rfl)
    | (with_reducible refine Same_path0 (by with_reducible assumption) ?_; exact maskFree w rfl)
    | (extract_lets +onlyGivenNames x; clear_value x) | split

theorem enqueue_s {k : Nat} {s t : State} {a0 : _} {a1 : _} (w : k &&& 0x1000000000100000000000000000000120A7F800000000000000000000000000000000000000000000000000000000000000000000200000000044040 = 0) (h : Same k s t) :
    Same k s (enqueue a0 a1 t) := by
  unfold enqueue
  repeat' first
    | with_reducible assumption | (extract_lets +onlyGivenNames x; clear_value x)
    | (with_reducible refine bufferCan_s ?_ ?_; exact maskFree w rfl)
    | (with_reducible refine acceptMgt_s ?_ ?_; exact maskFree w rfl)
    | (with_reducible refine vcset_s ?_ ?_; exact maskFree w rfl) | split

theorem arrived_s {k : Nat} {s t : State} {a0 : _} {a1 : _} (w : k &&& 0x1000000000100000000000000000000320B7F8000000000000000000000000000000000000000000000000000000000000000000002000000000440C0 = 0) (h : Same k s t) :
    Same k s (arrived a0 a1 t) := by
  unfold arrived
  repeat' first
    | with_reducible assumption | (with_reducible refine enqueue_s ?_ ?_; exact maskFree w rfl)
    | (with_reducible refine takeRequest_s ?_ ?_; exact maskFree w rfl) | split

theorem execCanFrameReceive_s {k : Nat} {s t : State} {a0 : _} {a1 : _} {a2 : _} {a3 : _} (w : k &&& 0x3000000000000000000000000000000000000000000000000000000000000000000000000000000000000000000000000000000000000000000040000 = 0) (h : Same k s t) :
    SameO k s (execCanFrameReceive a0 a1 a2 a3 t) := by
  unfold execCanFrameReceive
  repeat' first
    | with_reducible assumption | (with_reducible refine inc_s ?_ ?_; exact bitFree w rfl)
    | (with_reducible refine bufferCan_s ?_ ?_; exact maskFree w rfl) | split | with_reducible refine SameO_next ?_

theorem execCanBusError_s {k : Nat} {s t : State} {a0 : _} {a1 : _} (w : k &&& 0xF00000000000000000000000000000000000000000000000000000000000000000000000000000000000000000000000000000000000000000000000 = 0) (h : Same k s t) :
    SameO k s (execCanBusError a0 a1 t) := by
  unfold execCanBusError
  repeat' first
    | with_reducible assumption | (with_reducible refine inc_s ?_ ?_; exact bitFree w rfl)
    | (with_reducible refine wr_s ?_ ?_; exact bitFree w rfl)
    | (extract_lets +onlyGivenNames x; (refine (fun (hx : Same k s x) => ?_) (?_ : Same k s x); all_goals first | (guard_target =ₐ Same k s x; unfold x; clear x) | clear_value x))
    | split | with_reducible refine SameO_next ?_

theorem execBusOffRecovery_s {k : Nat} {s t : State} (w : k &&& 0x700000000000000000000000000000000000000000000000000000000000000000000000000000000000000000000000000000000000000000000000 = 0) (h : Same k s t) :
    SameO k s (execBusOffRecovery t) := by
  unfold execBusOffRecovery
  repeat' first
    | with_reducible assumption | (with_reducible refine wr_s ?_ ?_; exact bitFree w rfl) | split
    | with_reducible refine SameO_next ?_

theorem restartMge_s {k : Nat} {s t : State} (w : k &&& 0x7C000000000000000000000000000000320B7F8000000000000000000000000000000000000000000000000000000000000000000020000000041C40C0 = 0) (h : Same k s t) :
    Same k s (restartMge t) := by
  unfold restartMge
  repeat' first
    | with_reducible assumption
    | (with_reducible refine Same_cool (by with_reducible assumption) ?_; exact maskFree w rfl)
    | (extract_lets +onlyGivenNames x; first | (refine (fun (hx : Same k s x) => ?_) (?_ : Same k s x); all_goals first | (guard_target =ₐ Same k s x; unfold x; clear x) | clear_value x) | clear_value x)
    | (with_reducible refine takeRequest_s ?_ ?_; exact maskFree w rfl)
    | (with_reducible refine turn_s ?_ ?_; exact maskFree w rfl)
    | (with_reducible refine closeTransfer_s ?_ ?_; exact maskFree w rfl)
    | (with_reducible refine respondAbort_s ?_ ?_; exact maskFree w rfl) | split

theorem keystoneFault_s {k : Nat} {s t : State} {a0 : _} {a1 : _} (w : k &&& 0x67E00000000000000000000000000000007C000000020000001000000000000000320F7F8000000000000000000000000000000000000000000000002000000000000000000060213C001E9C62C0 = 0) (h : Same k s t) :
    Same k s (keystoneFault a0 a1 t) := by
  unfold keystoneFault
  repeat' first
    | with_reducible assumption | (with_reducible refine inc_s ?_ ?_; exact bitFree w rfl)
    | (extract_lets +onlyGivenNames x; first | (refine (fun (hx : Same k s x) => ?_) (?_ : Same k s x); all_goals first | (guard_target =ₐ Same k s x; unfold x; clear x) | clear_value x) | clear_value x)
    | (with_reducible refine restartMge_s ?_ ?_; exact maskFree w rfl)
    | (with_reducible refine restartVre_s ?_ ?_; exact maskFree w rfl)
    | (with_reducible refine restartDte_s ?_ ?_; exact maskFree w rfl)
    | (with_reducible refine restartSte1_s ?_ ?_; exact maskFree w rfl)
    | (with_reducible refine restartSte0_s ?_ ?_; exact maskFree w rfl)
    | (with_reducible refine dropPatch_s ?_ ?_; exact maskFree w rfl)
    | (with_reducible refine logFault_s ?_ ?_; exact maskFree w rfl)
    | (with_reducible refine eset_s ?_ ?_; exact maskFree w rfl) | split

theorem execEngineRestart_s {k : Nat} {s t : State} {a0 : _} {a1 : _} (w : k &&& 0x67E00000000000000000000000000000007C000000020000001000000000000000320F7F8000000000000000000000000000000000000000000000002000000000000000000060213C001E9C62C0 = 0) (h : Same k s t) :
    SameO k s (execEngineRestart a0 a1 t) := by
  unfold execEngineRestart
  repeat' first
    | with_reducible assumption | (with_reducible refine keystoneFault_s ?_ ?_; exact maskFree w rfl) | split
    | with_reducible refine SameO_next ?_

theorem keystoneStep_s {k : Nat} {s t : State} {a0 : _} (w : k &&& 0x67E00000000000000000000000000000007C000000020000001000000000000204320F7F80000000000000000000000000000000000000000000000021E0158B00100000000060313C103E9C6FC4 = 0) (h : Same k s t) :
    Same k s (keystoneStep a0 t) := by
  unfold keystoneStep
  repeat' first
    | with_reducible assumption
    | (extract_lets +onlyGivenNames x; (refine (fun (hx : Same k s x.2) => ?_) (?_ : Same k s x.2); all_goals first | (guard_target =ₐ Same k s x.2; unfold x; clear x) | clear_value x))
    | (with_reducible refine keystoneFault_s ?_ ?_; exact maskFree w rfl)
    | (with_reducible refine SameM.some (keystoneWord_s ?_ ?_) (by assumption); exact maskFree w rfl)
    | (with_reducible refine fresh_s ?_ ?_; exact maskFree w rfl)
    | (with_reducible refine SameP.snd (fresh_s ?_ ?_) (by assumption); exact maskFree w rfl) | split

theorem keystoneGrain_s {k : Nat} {s t : State} (w : k &&& 0x67E00000000000000000000000000000007C000000020000001000000000000204320F7F80000000000000000000000000000000000000000000000021E0158B00100000000060313C103E9C6FC4 = 0) (h : Same k s t) :
    Same k s (keystoneGrain t) := by
  unfold keystoneGrain
  repeat' first
    | with_reducible assumption | (with_reducible refine keystoneStep_s ?_ ?_; exact maskFree w rfl) | split

/-! ### Tick -/

theorem haltGrain_s {k : Nat} {s t : State} (w : k &&& 0x800000000000000000000000000000000000000000000000000000000000000000000000000000000 = 0) (h : Same k s t) :
    Same k s (haltGrain t) := by
  unfold haltGrain
  repeat' first
    | with_reducible assumption | (with_reducible refine inc_s ?_ ?_; exact bitFree w rfl)
    | (with_reducible refine Same_foldl ?_ ?_; intro _ _ _) | split

theorem settleHalts_s {k : Nat} {s t : State} (w : k &&& 0x1000000200 = 0) (h : Same k s t) :
    Same k s (settleHalts t) := by
  unfold settleHalts
  repeat' first
    | with_reducible assumption | (with_reducible refine lowerHalts_s ?_ ?_; exact maskFree w rfl)
    | (with_reducible refine Same_foldl ?_ ?_; intro _ _ _) | split

theorem panicGrain_s {k : Nat} {s t : State} (w : k &&& 0x6000000000000000000000000000000000000000000000000000000000000000000000000000000000000000000000002000000 = 0) (h : Same k s t) :
    Same k s (panicGrain t) := by
  unfold panicGrain
  repeat' first
    | with_reducible assumption | (with_reducible refine incTo_s ?_ ?_; exact bitFree w rfl)
    | (extract_lets +onlyGivenNames x; (refine (fun (hx : Same k s x) => ?_) (?_ : Same k s x); all_goals first | (guard_target =ₐ Same k s x; unfold x; clear x) | clear_value x))
    | (with_reducible refine settlePanic_s ?_ ?_; exact maskFree w rfl)
    | (with_reducible refine Same_foldl ?_ ?_; intro _ _ _) | split

theorem edgeGrain_s {k : Nat} {s t : State} (w : k &&& 0x47E000000000000000000000000000000000000000000000000000000000000000120A7F8000000000000000000000000018000000000380200618000000000000000000000000000212D4804840 = 0) (h : Same k s t) :
    Same k s (edgeGrain t) := by
  unfold edgeGrain
  repeat' first
    | with_reducible assumption | (with_reducible refine pruneAcq_s ?_ ?_; exact maskFree w rfl)
    | (with_reducible refine pruneTones_s ?_ ?_; exact maskFree w rfl)
    | (with_reducible refine toneGrain_s ?_ ?_; exact maskFree w rfl)
    | (with_reducible refine fluxGrain_s ?_ ?_; exact maskFree w rfl) | split

theorem advance_s {k : Nat} {s t : State} (w : k &&& 0x200000000000000000000000000000000000000000000000000000000000000000000000000000000000000000000000000000000000000008100000000000A = 0) (h : Same k s t) :
    Same k s (advance t) := by
  unfold advance
  repeat' first
    | with_reducible assumption | (with_reducible refine flag_s ?_ ?_; exact bitFree w rfl)
    | (with_reducible refine Same_elapsed_tml (by with_reducible assumption) ?_; exact maskFree w rfl)
    | (extract_lets +onlyGivenNames x; (refine (fun (hx : Same k s x) => ?_) (?_ : Same k s x); all_goals first | (guard_target =ₐ Same k s x; unfold x; clear x) | clear_value x))
    | (with_reducible refine anchorNow_s ?_ ?_; exact maskFree w rfl)
    | (with_reducible refine ptpTick_s ?_ ?_; exact maskFree w rfl) | split

theorem tick_s {k : Nat} {s t : State} (w : k &&& 0x67E00000000000000000000000000200007C000000020000001006000000000204320F7F80088000000000000000000000180000000003802006180021E0158B00100000000060B13E12FE9C6FCE = 0) (h : Same k s t) :
    Same k s (tick t) := by
  unfold tick
  repeat' first
    | with_reducible assumption
    | (with_reducible refine Same_elapsed (by with_reducible assumption) ?_; exact maskFree w rfl)
    | (with_reducible refine advance_s ?_ ?_; exact maskFree w rfl)
    | (with_reducible refine edgeGrain_s ?_ ?_; exact maskFree w rfl)
    | (with_reducible refine panicGrain_s ?_ ?_; exact maskFree w rfl)
    | (with_reducible refine settleHalts_s ?_ ?_; exact maskFree w rfl)
    | (with_reducible refine haltGrain_s ?_ ?_; exact maskFree w rfl)
    | (with_reducible refine keystoneGrain_s ?_ ?_; exact maskFree w rfl)
    | (with_reducible refine settleVidf_s ?_ ?_; exact maskFree w rfl) | split

end Sys2Proof.Machine
end

