-- ==== Sys2Proof/Laws/Server.lean ====
section
/-! SUPPORT. The dictionary server: a request frame is read as it was meant, and a host write that every check of R345 passes
is answered WRITTEN with the object's effect. -/

namespace Sys2Proof.Machine

-- One proof at a time: proofs elaborated side by side take more memory than the check grants.
set_option Elab.async false

theorem leVal_leBytes (n v : Nat) (h : v < 256 ^ n) : leVal (leBytes n v) = v := by
  induction n generalizing v with
  | zero => simp [leBytes, leVal]; simp at h; omega
  | succ n ih =>
    have : v / 256 < 256 ^ n := by
      rw [Nat.div_lt_iff_lt_mul (by decide)]
      rw [Nat.pow_succ] at h; omega
    simp only [leBytes, leVal, ih _ this, BitVec.toNat_ofNat]
    omega

@[simp] theorem length_leBytes (n v : Nat) : (leBytes n v).length = n := by
  induction n generalizing v with
  | zero => rfl
  | succ n ih => simp [leBytes, ih]

section frame
variable (cmd : Nat) (tag : Byte) (idx sub : Nat) (data : List Byte)

theorem frameCmd_frameBytes (hc : cmd < 256) : frameCmd (frameBytes cmd tag idx sub 0 data) = cmd := by
  simp [frameCmd, domAt, frameBytes, leVal]; omega

theorem frame_tag : BitVec.ofNat 8 (domAt (frameBytes cmd tag idx sub 0 data) 1 1) = tag := by simp [domAt, frameBytes, leVal]

theorem frame_index (hi : idx < 65536) : domAt (frameBytes cmd tag idx sub 0 data) 2 2 = idx := by
  simp [domAt, frameBytes, leVal]; omega

theorem frame_sub (hs : sub < 256) : domAt (frameBytes cmd tag idx sub 0 data) 4 1 = sub := by
  simp [domAt, frameBytes, leVal]; omega

theorem frame_flags : domAt (frameBytes cmd tag idx sub 0 data) 5 1 = 0 := by simp [domAt, frameBytes, leVal]

theorem frame_len (hd : data.length ≤ 56) : domAt (frameBytes cmd tag idx sub 0 data) 6 2 = data.length := by
  simp [domAt, frameBytes, leVal]; omega

theorem frame_data : ((frameBytes cmd tag idx sub 0 data).drop 8).take data.length = data := by simp [frameBytes]

theorem frame_ok (p : Path) (hd : data.length ≤ 56) :
    ¬((frameBytes cmd tag idx sub 0 data).length < 8 + data.length ∨ pathLimit p < data.length ∨ 0 &&& flagsUsed cmd ≠ 0) := by
  simp [frameBytes, pathLimit]
  constructor
  · omega
  · split <;> omega

end frame

/-- A WRITE frame that its sender formed right is read as it was meant (R337, R341). -/
theorem serveFrame_write (x : Extra) (p : Path) (tag : Byte) (idx sub : Nat) (data : List Byte) (s : State) (hi : idx < 65536)
    (hs : sub < 256) (hd : data.length ≤ 56) :
    serveFrame x p (frameBytes 2 tag idx sub 0 data) s = serveWrite x p tag idx sub data (turn p s) := by
  simp only [serveFrame, frameCmd_frameBytes 2 tag idx sub data (by decide), frame_tag, frame_index 2 tag idx sub data hi,
    frame_sub 2 tag idx sub data hs, frame_flags, frame_len 2 tag idx sub data hd, frame_data, frame_ok 2 tag idx sub data p hd,
    if_false]

/-- A READ frame that its sender formed right is read as it was meant (R337, R341). -/
theorem serveFrame_read (x : Extra) (p : Path) (tag : Byte) (idx sub : Nat) (s : State) (hi : idx < 65536) (hs : sub < 256) :
    serveFrame x p (frameBytes 1 tag idx sub 0 []) s = serveRead x p tag idx sub 0 (turn p s) := by
  have hd : ([] : List Byte).length ≤ 56 := by decide
  have h := frame_ok 1 tag idx sub [] p hd
  rw [List.length_nil] at h
  simp only [serveFrame, frameCmd_frameBytes 1 tag idx sub [] (by decide), frame_tag, frame_index 1 tag idx sub [] hi,
    frame_sub 1 tag idx sub [] hs, frame_flags, frame_len 1 tag idx sub [] hd, h, if_false, List.length_nil]

/-- A request that arrives and finds room. -/
theorem serveNow_room {x : Extra} {p : Path} {bs : List Byte} {s : State} (h : findsRoom p bs s = true) :
    serveNow x p bs s = serveFrame x p bs (arrived p bs s) := by simp [serveNow, h]

/-- A request that is served at once. -/
theorem hostFrame_now {x : Extra} {p : Path} {bs : List Byte} {s : State} (h : atOnce x p bs s = true) (hr : findsRoom p bs s = true) :
    hostFrame x p bs s = serveFrame x p bs (arrived p bs s) := by simp [hostFrame, h, serveNow_room hr]

/-- A request that must wait joins its path's queue. -/
theorem hostFrame_later {x : Extra} {p : Path} {bs : List Byte} {s : State} (h : atOnce x p bs s = false) :
    hostFrame x p bs s = enqueue p bs s := by simp [hostFrame, h]

/-- No handshake keeps a request of another object than DRM_WIN_DATA: it is served at once on an idle path whose turn it is. -/
theorem atOnce_frame {x : Extra} {p : Path} {cmd : Nat} {tag : Byte} {idx sub fl : Nat} {data : List Byte} {s : State} (hi : idx < 65536)
    (hn : idx ≠ 0x2451) : atOnce x p (frameBytes cmd tag idx sub fl data) s = (pathIdle s p && myTurn s p) := by
  have e : domAt (frameBytes cmd tag idx sub fl data) 2 2 = idx := by simp [domAt, frameBytes, leVal]; omega
  simp [atOnce, frameWaits, e, hn]

/-- A typed object is in no segmented transfer that stands in the way (R344). -/
theorem inUse_typed {s : State} {p : Path} {row : ObjRow} {idx sub n : Nat} (h : row.ty.isBytes = false) :
    inUse s p row idx sub n = false := by
  have : row.ty ≠ .dom := by rintro e; rw [e] at h; cases h
  simp [inUse, this]

/-- An accepted write of a typed object: WRITTEN, with the object's effect (R341, R345). `s` is the state in which the request has
arrived, and it is its path's turn. -/
theorem hostWrite_value {p : Path} {tag : Byte} {idx sub : Nat} {bs : List Byte} {s₀ s u : State} {x : Extra} {row : ObjRow} {i : Nat}
    (hr : reachable s₀ p = true) (hq : atOnce x p (frameBytes 2 tag idx sub 0 bs) s₀ = true)
    (hm : findsRoom p (frameBytes 2 tag idx sub 0 bs) s₀ = true) (e : s = turn p (arrived p (frameBytes 2 tag idx sub 0 bs) s₀))
    (hi : idx < 65536) (hs : sub < 256) (hf : findObj idx sub = .obj row i) (ha : row.acc ≠ .ro) (ht : row.ty.isBytes = false)
    (hl : bs.length = row.ty.size) (hg : inRange row.ty row.rng (decodeVal row.ty bs) = true)
    (hu : unserved s row idx (instOf s p row i sub) = false) (hv : retiredWrite s row (decodeVal row.ty bs) = false)
    (hw : writeObject row (instOf s p row i sub) (decodeVal row.ty bs) x.busy s = .ok u) :
    hostWrite p tag idx sub bs s₀ x = .next (respond p 0x83 tag idx sub 0 [] (accepted row i sub (instOf s p row i sub) u)) := by
  have h56 : bs.length ≤ 56 := by rw [hl]; cases row.ty <;> decide
  have hres : resolve idx sub true = .ok (.obj row i) := by simp [resolve, hf, ha]
  have hval : writeValue row idx i sub (instOf s p row i sub) (domSpan s p row.reg (instOf s p row i sub)).2 bs x.busy s =
      (.ok (), accepted row i sub (instOf s p row i sub) u) := by
    simp [writeValue, ht, hl, hg, hw, hu, hv]
  have hb : ¬ 56 < bs.length := by omega
  have hserve := serveFrame_write x p tag idx sub bs (arrived p (frameBytes 2 tag idx sub 0 bs) s₀) hi hs h56
  simp only [hostWrite, hr, h56, hostFrame_now hq hm, Bool.not_true, Bool.false_eq_true, if_false, if_true, hserve, ← e,
    serveWrite, hres, inUse_typed ht, hb, hval]

end Sys2Proof.Machine
end

