-- ==== Sys2Proof/Laws/SameHost.lean ====
section
/-! SUPPORT. What the dictionary server leaves alone: a read, and a write as far as the effect of its object does (R341, R342). -/

namespace Sys2Proof.Machine

-- One proof at a time: proofs elaborated side by side take more memory than the check grants.
set_option Elab.async false
set_option linter.all false

/-- A write of these bytes to the object leaves the parts of `k` alone. -/
def BytesKept (k idx sub : Nat) (bs : List Byte) : Prop := ∀ (row : ObjRow) (i n first : Nat) (busy : List (Nat × Nat)) (s u : State),
  findObj idx sub = .obj row i → Same k s u → Same k s (writeValue row idx i sub n first bs busy u).2

/-- A write of the object leaves the parts of `k` alone, whatever it writes. -/
def ValueKept (k idx sub : Nat) : Prop := ∀ bs, BytesKept k idx sub bs

/-- A write of the object's bytes in segments, and its refusal, leave the parts of `k` alone. -/
structure SegKept (k idx sub : Nat) : Prop where
  data : ∀ (row : ObjRow) (i : Nat), findObj idx sub = .obj row i → row.reg = .CLU_SEG_DATA → k &&& 0x1C000000 = 0
  rej : ∀ (row : ObjRow) (i n c : Nat) (s u : State), findObj idx sub = .obj row i → Same k s u → Same k s (segRejected row n c u)

theorem resolve_obj {idx sub : Nat} {b : Bool} {row : ObjRow} {i : Nat} 
    (e : resolve idx sub b = .ok (.obj row i)) : findObj idx sub = .obj row i := by
  unfold resolve at e
  split at e <;> try cases e
  · split at e <;> cases e
  · next row' i' q =>
    split at e
    · cases e
    · split at e
      · cases e
      · injection e with e; injection e with e1 e2; rw [q, e1, e2]

theorem serveWrite_s {k : Nat} {s t : State} {x : Extra} {p : Path} {tag : Byte} {idx sub : Nat} {body : List Byte}
    (w : k &&& 0x3C000000000000000000000000000000120A7F8000000000000000000000000000000000000000000000000000000000000000000000000000001C4040 = 0)
    (hv : BytesKept k idx sub body) (h : Same k s t) : Same k s (serveWrite x p tag idx sub body t) := by
  have ha : ∀ cmd c u, Same k s u → Same k s (respondAbort p cmd tag idx sub c u) := fun _ _ _ q => respondAbort_s (maskFree w rfl) q
  unfold serveWrite
  dsimp only
  split
  · exact ha _ _ _ h
  · next row i e =>
    have hf := resolve_obj e
    split
    · exact ha _ _ _ h
    · split
      · exact ha _ _ _ h
      · have := hv row i (instOf t p row i sub) (domSpan t p row.reg (instOf t p row i sub)).2 x.busy s t hf h
        split
        · next c u e2 => rw [e2] at this; exact ha _ _ _ this
        · next c u e2 => rw [e2] at this; exact respond_s (maskFree w rfl) this
  · exact ha _ _ _ h

/-- A request that arrives and is served: what its arrival and its service leave alone. -/
theorem serveNow_of {k : Nat} {s t : State} {x : Extra} {p : Path} {bs : List Byte} (w : k &&& 0x1000000000100000000000000000000320B7F8000000000000000000000000000000000000000000000000000000000000000000002000000000440C0 = 0)
    (hf : ∀ u, Same k s u → Same k s (serveFrame x p bs u)) (h : Same k s t) : Same k s (serveNow x p bs t) := by
  unfold serveNow
  split
  · exact hf _ (arrived_s (maskFree w rfl) h)
  · exact enqueue_s (maskFree w rfl) h

theorem hostWrite_short_s {k : Nat} {s t : State} {x : Extra} {p : Path} {tag : Byte} {idx sub : Nat} {bs : List Byte}
    (hi : idx < 65536) (hs : sub < 256) (hd : bs.length ≤ 56)
    (w : k &&& 0x3D000000000100000000000000000000320B7F8000000000000000000000000000000000000000000000000000000000000000000002000000001C40C0 = 0)
    (hv : BytesKept k idx sub bs) (h : Same k s t) : SameO k s (hostWrite p tag idx sub bs t x) := by
  unfold hostWrite hostFrame
  split
  · exact h
  · refine SameO_next ?_
    split
    · refine serveNow_of (maskFree w rfl) (fun u q => ?_) h
      rw [serveFrame_write x p tag idx sub bs u hi hs hd]
      exact serveWrite_s (maskFree w rfl) hv (turn_s (maskFree w rfl) q)
    · exact enqueue_s (maskFree w rfl) h

theorem serveInit_of {k : Nat} {s t : State} {p : Path} {tag : Byte} {idx sub : Nat} {body : List Byte}
    (w : k &&& 0x7C000000000000000000000000000000120A7F8000000000000000000000000000000000000000000000000000000000000000000000000000041C4040 = 0)
    (hg : SegKept k idx sub) (h : Same k s t) : Same k s (serveInit p tag idx sub body t) := by
  have ha : ∀ cmd c u, Same k s u → Same k s (respondAbort p cmd tag idx sub c u) := fun _ _ _ q => respondAbort_s (maskFree w rfl) q
  unfold serveInit
  dsimp only
  split
  · exact ha _ _ _ h
  · next row i e =>
    have hf := resolve_obj e
    split
    · exact ha _ _ _ h
    · split
      · exact ha _ _ _ h
      · split
        · exact ha _ _ _ (hg.rej row i _ _ s t hf h)
        · refine respond_s (maskFree w rfl) ?_
          have ho := fun x => openTransfer_s (a0 := p) (a1 := x) (maskFree w rfl) h
          split
          · next q => exact beginWrite_s (maskFree (hg.data row i hf q) rfl) (ho _)
          · exact ho _
  · exact ha _ _ _ h

theorem takeSegment_s {k : Nat} {s t : State} {x : Extra} {tr : Transfer} {data : List Byte} {last : Bool}
    (hv : ValueKept k tr.index tr.sub) (hg : SegKept k tr.index tr.sub) (h : Same k s t) : Same k s (takeSegment x tr data last t).2 := by
  unfold takeSegment
  split
  · next row i hf =>
    split
    · next q =>
      have m := hg.data row i hf q
      dsimp only
      split
      · exact completeWrite_s (maskFree m rfl) (storeSegment_s (maskFree m rfl) h)
      · exact storeSegment_s (maskFree m rfl) h
    · split
      · exact hv _ row i _ _ _ s t hf h
      · exact h
  · exact h

theorem serveWriteSeg_s {k : Nat} {s t : State} {x : Extra} {p : Path} {tag : Byte} {tr : Transfer} {flags : Nat} {body : List Byte}
    (w : k &&& 0x7C000000000000000000000000000000120A7F8000000000000000000000000000000000000000000000000000000000000000000000000000041C4040 = 0)
    (hv : ValueKept k tr.index tr.sub) (hg : SegKept k tr.index tr.sub) (h : Same k s t) :
    Same k s (serveWriteSeg x p tag tr flags body t) := by
  have ha : ∀ c u, Same k s u → Same k s (respondAbort p 4 tag tr.index tr.sub c (closeTransfer p false u)) :=
    fun _ _ q => respondAbort_s (maskFree w rfl) (closeTransfer_s (maskFree w rfl) q)
  unfold serveWriteSeg
  dsimp only
  split
  · split
    · exact respond_s (maskFree w rfl) (putTransfer_s (maskFree w rfl) h)
    · exact ha _ _ h
  · split
    · exact ha _ _ h
    · have := takeSegment_s (x := x) (data := tr.data ++ body) (last := bitOf flags 1) hv hg h
      split
      · next e => rw [e] at this; exact ha _ _ this
      · next e => rw [e] at this; exact respond_s (maskFree w rfl) (putTransfer_s (maskFree w rfl) this)

theorem serveSequel_s {k : Nat} {s t : State} {x : Extra} {p : Path} {cmd : Nat} {tag : Byte} {idx sub flags len : Nat} {body : List Byte}
    (w : k &&& 0x7C000000000000000000000000000000120A7F8000000000000000000000000000000000000000000000000000000000000000000000000000041C4040 = 0)
    (hr : cmd = 5 → k &&& 0x7C00000000000000000A098000000000120A7F8000000000000000000000000000000000000000000000000000000000000000000000000000060C4040 = 0)
    (hv : cmd = 4 → ValueKept k idx sub) (hg : cmd = 4 → SegKept k idx sub) (h : Same k s t) :
    Same k s (serveSequel x p cmd tag idx sub flags len body t) := by
  have ha : ∀ cmd c u, Same k s u → Same k s (respondAbort p cmd tag idx sub c u) := fun _ _ _ q => respondAbort_s (maskFree w rfl) q
  unfold serveSequel
  dsimp only
  split
  · exact ha _ _ _ (setPath_s (maskFree w rfl) h)
  · split
    · exact ha _ _ _ h
    · next tr _ =>
      split
      · exact ha _ _ _ h
      · next q =>
        have e1 : tr.index = idx := by apply Classical.byContradiction; intro n; exact q (.inl n)
        have e2 : tr.sub = sub := by apply Classical.byContradiction; intro n; exact q (.inr (.inl n))
        split
        · next c4 => exact serveWriteSeg_s w (by rw [e1, e2]; exact hv c4) (by rw [e1, e2]; exact hg c4) h
        · split
          · next c5 => exact serveReadSeg_s (hr c5) h
          · split
            · exact ha _ _ _ (closeTransfer_s (maskFree w rfl) h)
            · exact respond_s (maskFree w rfl) (closeTransfer_s (maskFree w rfl) h)

theorem removed_s {k : Nat} {s t : State} {a : Ans (List Byte × State)} (ha : SameAP k s a) (h : Same k s t) :
    Same k s (removed a t).2 := by
  unfold removed
  split
  · exact h
  · exact ha

theorem readValue_s {k : Nat} {s t : State} {p : Path} {row : ObjRow} {idx n win : Nat}
    (w : k &&& 0x3000000000000000000000020A09800000000022011F8000000000000000000000000000000000000000000000000000000000000000000000000000020040C0 = 0)
    (h : Same k s t) : Same k s (readValue p row idx n win t).2 := by
  unfold readValue
  split
  · exact h
  · split
    · split
      · exact removed_s (popQueue_s (maskFree w rfl) h) h
      · exact removed_s (pktQueue_s (maskFree w rfl) h) h
      · have := winRead_s (a0 := win) (maskFree w rfl) h
        split <;> (next e => rw [e] at this; exact this)
      · dsimp only
        split
        · exact h
        · split <;> exact h
    · split
      · exact h
      · dsimp only
        split
        · exact latchNow_s (maskFree w rfl) h
        · exact h

theorem serveRead_s {k : Nat} {s t : State} {x : Extra} {p : Path} {tag : Byte} {idx sub len : Nat}
    (w : k &&& 0x3000007C00000000000000020A098000000000320B7F8000000000000000000000000000000000000000000000000000000000000000000000000000061C40C0 = 0)
    (h : Same k s t) : Same k s (serveRead x p tag idx sub len t) := by
  have ha : ∀ cmd c u, Same k s u → Same k s (respondAbort p cmd tag idx sub c u) := fun _ _ _ q => respondAbort_s (maskFree w rfl) q
  unfold serveRead
  dsimp only
  split
  · exact ha _ _ _ h
  · next row i e =>
    split
    · exact ha _ _ _ h
    · split
      · exact ha _ _ _ h
      · have := readValue_s (p := p) (row := row) (idx := idx) (n := instOf t p row i sub) (win := x.win.getD (winLength t)) (maskFree w rfl) h
        split
        · next e2 => rw [e2] at this; exact ha _ _ _ this
        · next e2 => rw [e2] at this; exact respond_s (maskFree w rfl) this
        · next e2 => rw [e2] at this; exact respond_s (maskFree w rfl) (openTransfer_s (maskFree w rfl) this)
  · split
    · exact ha _ _ _ h
    · split
      · exact ha _ _ _ h
      · exact respond_s (maskFree w rfl) h
  · exact ha _ _ _ h

theorem hostRead_s {k : Nat} {s t : State} {x : Extra} {p : Path} {tag : Byte} {idx sub : Nat} (hi : idx < 65536) (hs : sub < 256)
    (w : k &&& 0x3000007D00000000010000020A098000000000320B7F8000000000000000000000000000000000000000000000000000000000000000000002000000061C40C0 = 0)
    (h : Same k s t) : SameO k s (hostRead p tag idx sub t x) := by
  unfold hostRead hostFrame
  refine SameO_next ?_
  split
  · split
    · refine serveNow_of (maskFree w rfl) (fun u q => ?_) h
      rw [serveFrame_read x p tag idx sub u hi hs]
      exact serveRead_s (maskFree w rfl) (turn_s (maskFree w rfl) q)
    · exact enqueue_s (maskFree w rfl) h
  · exact h

/-- One request: what its command can change, by its command (R335, R337, R341 to R345). -/
theorem serveFrame_s {k : Nat} {s t : State} {x : Extra} {p : Path} {bs : List Byte}
    (w : k &&& 0x7C000000000000000000000000000000120A7F8000000000000000000000000000000000000000000000000000000000000000000000000000041C4040 = 0)
    (hr : frameCmd bs = 1 → k &&& 0x3000007C00000000000000020A098000000000320B7F8000000000000000000000000000000000000000000000000000000000000000000000000000061C40C0 = 0)
    (hq : frameCmd bs = 5 → k &&& 0x7C00000000000000000A098000000000120A7F8000000000000000000000000000000000000000000000000000000000000000000000000000060C4040 = 0)
    (hv : frameCmd bs = 2 ∨ frameCmd bs = 4 → ValueKept k (domAt bs 2 2) (domAt bs 4 1))
    (hg : frameCmd bs = 3 ∨ frameCmd bs = 4 → SegKept k (domAt bs 2 2) (domAt bs 4 1))
    (h : Same k s t) : Same k s (serveFrame x p bs t) := by
  have ht : Same k s (turn p t) := turn_s (maskFree w rfl) h
  have ha : ∀ cmd tag idx sub c u, Same k s u → Same k s (respondAbort p cmd tag idx sub c u) :=
    fun _ _ _ _ _ _ q => respondAbort_s (maskFree w rfl) q
  unfold serveFrame
  dsimp only
  split
  · exact ha _ _ _ _ _ _ ht
  · split
    · next e => exact serveRead_s (maskFree (hr e) rfl) ht
    · next e => exact serveWrite_s (maskFree w rfl) (hv (.inl e) _) ht
    · next e => exact serveInit_of (maskFree w rfl) (hg (.inl e)) ht
    · next e => exact serveSequel_s w (fun c => absurd (e.symm.trans c) (by decide)) (fun _ => hv (.inr e)) (fun _ => hg (.inr e)) ht
    · next e =>
      exact serveSequel_s w (fun _ => hq e) (fun c => absurd (e.symm.trans c) (by decide))
        (fun c => absurd (e.symm.trans c) (by decide)) ht
    · next e =>
      exact serveSequel_s w (fun c => absurd (e.symm.trans c) (by decide)) (fun c => absurd (e.symm.trans c) (by decide))
        (fun c => absurd (e.symm.trans c) (by decide)) ht
    · exact ha _ _ _ _ _ _ ht

/-- A host write of any length. -/
theorem hostWrite_s {k : Nat} {s t : State} {x : Extra} {p : Path} {tag : Byte} {idx sub : Nat} {bs : List Byte}
    (hi : idx < 65536) (hs : sub < 256)
    (w : k &&& 0x7D000000000100000000000000000000320B7F8000000000000000000000000000000000000000000000000000000000000000000002000000041C40C0 = 0)
    (hv : ValueKept k idx sub) (hg : SegKept k idx sub) (h : Same k s t) : SameO k s (hostWrite p tag idx sub bs t x) := by
  have hc : ∀ cmd fl data, cmd < 256 → frameCmd (frameBytes cmd tag idx sub fl data) = cmd := by
    intro cmd fl data hc; simp [frameCmd, domAt, frameBytes, leVal]; omega
  have hx : ∀ cmd fl data, domAt (frameBytes cmd tag idx sub fl data) 2 2 = idx := by
    intro cmd fl data; simp [domAt, frameBytes, leVal]; omega
  have hy : ∀ cmd fl data, domAt (frameBytes cmd tag idx sub fl data) 4 1 = sub := by
    intro cmd fl data; simp [domAt, frameBytes, leVal]; omega
  have hF : ∀ cmd fl data u, cmd = 2 ∨ cmd = 3 ∨ cmd = 4 → Same k s u → Same k s (serveNow x p (frameBytes cmd tag idx sub fl data) u) := by
    intro cmd fl data u c q
    refine serveNow_of (maskFree w rfl) (fun u q => ?_) q
    refine serveFrame_s (maskFree w rfl) ?_ ?_ ?_ ?_ q
    · rw [hc _ _ _ (by omega)]; intro e; omega
    · rw [hc _ _ _ (by omega)]; intro e; omega
    · intro _; rw [hx, hy]; exact hv
    · intro _; rw [hx, hy]; exact hg
  have hE : ∀ f u, Same k s u → Same k s (enqueue p f u) := fun _ _ q => enqueue_s (maskFree w rfl) q
  have hH : ∀ cmd fl data u, cmd = 2 ∨ cmd = 3 ∨ cmd = 4 → Same k s u → Same k s (hostFrame x p (frameBytes cmd tag idx sub fl data) u) := by
    intro cmd fl data u c q
    unfold hostFrame
    split
    · exact hF _ _ _ _ c q
    · exact hE _ _ q
  have hS : ∀ fuel tog rest u, Same k s u → Same k s (sendSegments x p tag idx sub fuel tog rest u) := by
    intro fuel
    induction fuel with
    | zero => intro tog rest u q; exact q
    | succ f ih =>
      intro tog rest u q
      unfold sendSegments
      split
      · exact q
      · dsimp only
        split
        · exact hH _ _ _ _ (by omega) q
        · exact ih _ _ _ (hF _ _ _ _ (by omega) q)
  unfold hostWrite
  split
  · exact h
  · split
    · exact hH _ _ _ _ (by omega) h
    · refine SameO_next ?_
      split
      · exact hS _ _ _ _ (hF _ _ _ _ (by omega) h)
      · exact hE _ _ h

theorem writeChoice_s {k : Nat} {s t : State} {r : Reg} {b : Nat} {o : Option Nat} {n v : Nat} (w : k.testBit (63 + r.ctorIdx) = false)
    (h : Same k s t) : SameA k s (writeChoice r b o n v t) := by
  unfold writeChoice
  split
  · trivial
  · exact wr_s w h

theorem idleWrite_s {k : Nat} {s t : State} {r : Reg} {n : Nat} {v : Int} (w : k.testBit (63 + r.ctorIdx) = false) (h : Same k s t) :
    SameA k s (idleWrite r n v t) := by
  unfold idleWrite
  split
  · trivial
  · exact wr_s w h

theorem writeCond_s {k : Nat} {s t : State} {r : Reg} {n : Nat} {v : Int} (w : k.testBit (63 + r.ctorIdx) = false) (h : Same k s t) :
    SameA k s (writeCond r n v t) := by
  have q : ∀ ok : Bool, SameA k s (if !ok then .error abRange else if !trgRest t then .error abCannotWrite else .ok (wr r v n t)) := by
    intro ok
    split
    · trivial
    · split
      · trivial
      · exact wr_s w h
  exact q _

theorem writeMauConfig_s {k : Nat} {s t : State} {r : Reg} {u n : Nat} {v : Int} (w : k.testBit (63 + r.ctorIdx) = false)
    (w2 : k &&& 0x70000000000000000000000000000000000000000000000000000000000000000000000000000000000000000000000000000000000000000000000000000800000000000000 = 0) (h : Same k s t) : SameA k s (writeMauConfig r u n v t) := by
  have q : ∀ (ok : Bool) (m : Ans State), SameA k s m →
      SameA k s (if !ok then .error abRange else if mauState t u ≠ 0 then .error abCannotWrite else m) := by
    intro ok m hm
    split
    · trivial
    · split
      · trivial
      · exact hm
  unfold writeMauConfig
  dsimp only
  refine q _ _ ?_
  have f := wr_s (v := v) (i := n) w h
  split
  · exact chooseRef_s (maskFree w2 rfl) h
  · exact chooseRef_s (maskFree w2 rfl) h
  · exact f

/-- A write of any typed object. -/
theorem writeObject_s {k : Nat} {s t : State} {row : ObjRow} {n : Nat} {v : Int} {busy : List (Nat × Nat)}
    (w : k &&& 0x7FFFFFFFFFFFFFFFFFFFFFFFFFFFFFFFFFFFFFFFFFFFFFFFFFFFFFFFFFFFFFFFFFFFFFFFFFFFFFFFFFFFFFFFFFFFFFFFFFFFFFFFFFFFFFFFFFFFFFFFFFFFFFFFFFFFFFFFFFFFFFFFFFAFE7019766ED5FC4 = 0) (h : Same k s t) : SameA k s (writeObject row n v busy t) := by
  have ha : ∀ r : Reg, k.testBit (63 + r.ctorIdx) = false := allRegs (maskFree w rfl)
  have hw : ∀ (r : Reg) (v : Int) (n : Nat) (u : State), Same k s u → Same k s (wr r v n u) := fun r v n u q => wr_s (ha r) q
  unfold writeObject
  dsimp only
  split
  all_goals try dsimp only
  all_goals repeat' first
    | with_reducible exact SameA_map (controlWrite_s (maskFree w rfl) h) (fun u q => hw _ _ _ u q)
    | with_reducible exact SameA_ok (hw _ _ _ _ h)
    | with_reducible exact idleWrite_s (ha _) h | with_reducible exact writeChoice_s (ha _) h | with_reducible exact writeCond_s (ha _) h
    | with_reducible exact writeMauConfig_s (ha _) (maskFree w rfl) h
    | exact SameA_ok (clearIncs_s (maskFree w rfl) (hw _ _ _ _ h))
    | exact SameA_ok (settleLanes_s (maskFree w rfl) (hw _ _ _ _ h))
    | (with_reducible refine SameA_ok (mauStart_s ?_ h); exact maskFree w rfl)
    | (with_reducible refine writeTap_s ?_ h; exact maskFree w rfl)
    | (with_reducible refine writeDesc_s ?_ h; exact maskFree w rfl)
    | (with_reducible refine writeFluxCoef_s ?_ h; exact maskFree w rfl)
    | (with_reducible refine writeFluxSet_s ?_ h; exact maskFree w rfl)
    | (with_reducible refine writeBiasSet_s ?_ h; exact maskFree w rfl)
    | (with_reducible refine writeBiasSense_s ?_ h; exact maskFree w rfl)
    | (with_reducible refine writeCapop_s ?_ h; exact maskFree w rfl)
    | (with_reducible refine writeProfile_s ?_ h; exact maskFree w rfl)
    | (with_reducible refine writeProfiles_s ?_ h; exact maskFree w rfl)
    | (with_reducible refine writeLayout_s ?_ h; exact maskFree w rfl)
    | (with_reducible refine writeWatermark_s ?_ h; exact maskFree w rfl)
    | (with_reducible refine hostFlush_s ?_ h; exact maskFree w rfl)
    | (with_reducible refine hostDrop_s ?_ h; exact maskFree w rfl)
    | (with_reducible refine writeProducer_s ?_ h; exact maskFree w rfl)
    | (with_reducible refine writeRate_s ?_ h; exact maskFree w rfl)
    | (with_reducible refine writeMap_s ?_ h; exact maskFree w rfl)
    | (with_reducible refine writeTable_s ?_ h; exact maskFree w rfl)
    | (with_reducible refine writePanic_s ?_ h; exact maskFree w rfl)
    | (with_reducible refine writeRing_s ?_ h; exact maskFree w rfl)
    | (with_reducible refine startBist_s ?_ h; exact maskFree w rfl)
    | (with_reducible refine selectMgmt_s ?_ h; exact maskFree w rfl)
    | (with_reducible refine startFmc_s ?_ h; exact maskFree w rfl)
    | (with_reducible refine writeGate_s ?_ h; exact maskFree w rfl)
    | (with_reducible refine writeInj_s ?_ h; exact maskFree w rfl)
    | (with_reducible refine startCal_s ?_ h; exact maskFree w rfl)
    | (with_reducible refine resume_s ?_ h; exact maskFree w rfl)
    | (with_reducible refine clearForce_s ?_ h; exact maskFree w rfl)
    | (with_reducible refine writeCoefficient_s ?_ h; exact maskFree w rfl)
    | (with_reducible refine writeLcsReq_s ?_ h; exact maskFree w rfl)
    | (with_reducible refine writeLcsConfirm_s ?_ h; exact maskFree w rfl)
    | (with_reducible refine writeReset_s ?_ h; exact maskFree w rfl)
    | (with_reducible refine SameA_ok (writeMute_s ?_ h); exact maskFree w rfl)
    | (with_reducible refine SameA_ok (settleLanes_s ?_ h); exact maskFree w rfl)
    | (with_reducible refine SameA_ok (retrainLink_s ?_ h); exact maskFree w rfl)
    | (with_reducible refine SameA_ok (enablePort_s ?_ h); exact maskFree w rfl)
    | exact SameA_ok (settlePps_s (maskFree w rfl) (hw _ _ _ _ h))
    | (with_reducible refine SameA_ok (relock_s ?_ h); exact maskFree w rfl)
    | (with_reducible refine SameA_ok (writeVnom_s ?_ h); exact maskFree w rfl)
    | (with_reducible refine SameA_ok (timerRun_s ?_ h); exact maskFree w rfl)
    | (with_reducible refine SameA_ok (timerStop_s ?_ h); exact maskFree w rfl)
    | (with_reducible refine SameA_ok (mauStop_s ?_ h); exact maskFree w rfl)
    | trivial | split

/-- A write of a typed object: the object's own effect, its acceptance and its refusal. -/
theorem writeValue_typed {k : Nat} {s t : State} {row : ObjRow} {idx i sub n first : Nat} {bs : List Byte} {busy : List (Nat × Nat)}
    (ht : row.ty.isBytes = false) (ho : ∀ u, Same k s u → SameA k s (writeObject row n (decodeVal row.ty bs) busy u))
    (ha : ∀ u, Same k s u → Same k s (accepted row i sub n u)) (hr : ∀ c u, Same k s u → Same k s (segRejected row n c u))
    (h : Same k s t) : Same k s (writeValue row idx i sub n first bs busy t).2 := by
  unfold writeValue
  rw [ht]
  dsimp only
  have e1 : ∀ (o : Ans State), SameA k s o →
      Same k s (match o with | .ok t => (Except.ok (ε := Nat) (), t) | .error c => (.error c, t)).2 := by
    intro o q
    cases o with
    | ok => exact q
    | error => exact h
  have e2 : ∀ (r : Ans Unit × State) (stopped : Bool), Same k s r.2 → Same k s (match r with
      | (.error c, t') => if beforeState c ∨ !stopped then ((Except.error c : Ans Unit), segRejected row n c t') else (.error abCannotWrite, t)
      | (.ok _, t') => if stopped then (.error abCannotWrite, t) else (.ok (), accepted row i sub n t')).2 := by
    intro r st q
    obtain ⟨a, u⟩ := r
    cases a with
    | error => dsimp only; split
               · exact hr _ _ q
               · exact h
    | ok => dsimp only; split
            · exact h
            · exact ha _ q
  refine e2 _ _ ?_
  simp only [Bool.false_eq_true, if_false]
  split
  · exact h
  · split
    · exact h
    · exact e1 _ (ho _ h)

/-- A write of a byte string. -/
theorem writeValue_bytes {k : Nat} {s t : State} {row : ObjRow} {idx i sub n first : Nat} {bs : List Byte} {busy : List (Nat × Nat)}
    (ht : row.ty.isBytes = true) (ho : Same k s (writeBytes row sub n first bs t).2)
    (ha : ∀ u, Same k s u → Same k s (accepted row i sub n u)) (hr : ∀ c u, Same k s u → Same k s (segRejected row n c u))
    (h : Same k s t) : Same k s (writeValue row idx i sub n first bs busy t).2 := by
  unfold writeValue
  rw [ht]
  dsimp only
  have e2 : ∀ (r : Ans Unit × State) (stopped : Bool), Same k s r.2 → Same k s (match r with
      | (.error c, t') => if beforeState c ∨ !stopped then ((Except.error c : Ans Unit), segRejected row n c t') else (.error abCannotWrite, t)
      | (.ok _, t') => if stopped then (.error abCannotWrite, t) else (.ok (), accepted row i sub n t')).2 := by
    intro r st q
    obtain ⟨a, u⟩ := r
    cases a with
    | error => dsimp only; split
               · exact hr _ _ q
               · exact h
    | ok => dsimp only; split
            · exact h
            · exact ha _ q
  exact e2 _ _ ho

theorem writeBytes_s {k : Nat} {s t : State} {row : ObjRow} {sub n first : Nat} {bs : List Byte}
    (w : k &&& 0x20810000000000002021F8000000000000000000000000000000000000000000000001800000000000000000040003C001E206040 = 0) (h : Same k s t) :
    Same k s (writeBytes row sub n first bs t).2 := by
  have e : ∀ (o : Ans State), SameA k s o →
      Same k s (match o with | .ok t => (Except.ok (ε := Nat) (), t) | .error c => (.error c, t)).2 := by
    intro o q
    cases o with
    | ok => exact q
    | error => exact h
  unfold writeBytes
  dsimp only
  split
  · exact e _ (writeSegData_s (maskFree w rfl) h)
  · exact e _ (writeKernel_s (maskFree w rfl) h)
  · exact e _ (writeTables_s (maskFree w rfl) h)
  · exact e _ (pushQueue_s (maskFree w rfl) h)
  · exact writePatch_s (maskFree w rfl) h
  · exact writeBootPatch_s (maskFree w rfl) h
  · exact e _ (winWrite_s (maskFree w rfl) h)
  · exact h

/-- A write of any object. -/
theorem valueKept_any {k idx sub : Nat} (w : k &&& 0x7FFFFFFFFFFFFFFFFFFFFFFFFFFFFFFFFFFFFFFFFFFFFFFFFFFFFFFFFFFFFFFFFFFFFFFFFFFFFFFFFFFFFFFFFFFFFFFFFFFFFFFFFFFFFFFFFFFFFFFFFFFFFFFFFFFFFFFFFFFFFFFFFFEFE73D977EED7FC4 = 0) :
    ValueKept k idx sub := by
  intro bs row i n first busy s u _ h
  by_cases ht : row.ty.isBytes = true
  · exact writeValue_bytes ht (writeBytes_s (maskFree w rfl) h) (fun u q => accepted_s (maskFree w rfl) q)
      (fun c u q => segRejected_s (maskFree w rfl) q) h
  · exact writeValue_typed (by simpa using ht) (fun u q => writeObject_s (maskFree w rfl) q) (fun u q => accepted_s (maskFree w rfl) q)
      (fun c u q => segRejected_s (maskFree w rfl) q) h

theorem segKept_any {k idx sub : Nat} (w : k &&& 0x200000000000000000000000000000000001C000000 = 0) : SegKept k idx sub :=
  ⟨fun _ _ _ _ => maskFree w rfl, fun _ _ _ _ _ _ _ q => segRejected_s (maskFree w rfl) q⟩

end Sys2Proof.Machine
end

