-- ==== Sys2Proof/WellFormed.lean ====
section
/-! DEFINITION. Which commands are well formed: operands that the interface a command comes through can carry. The operands
of a host's transfer are free (the dictionary server answers what it rejects), and so are the samples and codes of the
converters. A meaning is total all the same. -/

namespace Sys2Proof

/-- Factory factors of R392: an offset of 16 bits with sign and a gain of 32 bits. -/
def factorsWf (ofs : List Int) (gain : List Nat) : Bool :=
  ofs.all (fun x => decide (-32768 ≤ x ∧ x ≤ 32767)) && gain.all (fun x => decide (x < 2 ^ 32))

/-- A fuse image holds 117 compensation points (R408) and the factors of 11 units of 8 (R392). -/
def FuseImage.wf (f : FuseImage) : Bool :=
  decide (f.comp.length = 117) && f.comp.all (fun x => decide (-32768 ≤ x ∧ x ≤ 32767)) &&
  decide (f.monOfs.length = 88) && decide (f.monGain.length = 88) && factorsWf f.monOfs f.monGain

/-- A burst is 64 aligned bytes for a requester of R289 and R290; a read carries no words. Refill ports and the schedule
fetch read, the acquisition writers and STE0 write. -/
def BurstReq.wf (r : BurstReq) : Bool :=
  decide (r.src ≤ 21) && decide (r.addr % 64 = 0) && decide (r.data.length = if r.write then 8 else 0) &&
  (if r.src < 16 ∨ r.src = 18 then !r.write else if r.src = 16 ∨ r.src = 17 ∨ r.src = 20 then r.write else true)

/-- The reads of a built-in test: a reading pass and a unit of a target for each (R298, R299), a burst's words or one word, and the
result of the parity check. -/
def readsWf (at_ : List (Nat × Nat)) (data : List (List Word)) (par : List Bool) : Bool :=
  decide (data.length = at_.length) && decide (par.length = at_.length) && at_.all (fun x => decide (x.1 < 5 ∧ x.2 < 2 ^ 30)) &&
    data.all (fun ws => decide (ws.length = 1 ∨ ws.length = 8))

/-- A frame's fields have the widths of IEEE 1588-2019. -/
def PtpFrame.wf (f : PtpFrame) : Bool :=
  decide (f.version < 16) && decide (f.domain < 256) && decide (-128 ≤ f.logIval ∧ f.logIval ≤ 127) &&
  decide (f.seqId < 65536) && decide (-(2 ^ 63) ≤ f.correction ∧ f.correction < 2 ^ 63) && decide (f.reqPort < 65536) &&
  decide (0 ≤ f.stamp)

/-- Scrub units that exist (R419): five of the keystone and one for each cluster. -/
def unitWf (u : Nat) : Bool := decide (u ≤ 4) || decide (16 ≤ u)

/-- Flux coefficients (R145): ALPHA, BETA and FIR of a channel, or an element of a cluster's flux matrix. -/
def coefWf (index sub : Nat) : Bool :=
  (decide (0x5C00 ≤ index ∧ index < 0x6000 ∧ index % 8 ≤ 2) && decide (1 ≤ sub ∧ sub ≤ if index % 8 = 2 then 32 else 4)) ||
  (decide (0x4000 ≤ index ∧ index < 0x5000 ∧ index % 256 = 0x20) && decide (1 ≤ sub ∧ sub ≤ 64))

/-- Consumers that a channel reaches (R272): engines, monitor units, the trigger engine, clusters and markers. -/
def conWf (con : Nat) : Bool :=
  decide (con < 0x8B) || decide (con = 0x90) || decide (0xA0 ≤ con)

/-- A command that its interface can carry. -/
def Instr.wf : Instr → Bool
  | .powerGood .. | .supplyLoss | .resetNAssert .. | .pkgReset .. | .dictionaryResetBegin => true
  | .fuseRead a b _ => a.wf && b.wf
  | .memoryWipeDone | .nvmBootRead .. | .xtaStartDelay | .xtbStartDelay | .trefSelect => true
  | .monitorWindow m _ other _ => decide (m.val ≤ 1 ∨ other = 0)
  | .timelineCopyCompare .. | .bdRefTick .. | .converterCalibrationDone .. | .clkMgmtSel .. | .fmcStart .. | .fmcDone ..
  | .clkGate .. | .gateForceClose .. | .vidfChange | .syncArm .. | .syncFire .. | .syncDisarm .. | .syncOutPulse
  | .syncInEdge | .alignment | .load .. | .loadComplete | .unload .. | .start .. | .stop .. | .abort ..
  | .scheduleFetchChunk .. | .schedulePacketDelivery .. | .schedNop .. | .schedPlay .. | .schedJump .. | .schedHold ..
  | .schedFreq .. | .schedPhase .. | .schedFlux .. | .schedBias .. | .schedCapture .. | .schedMark .. | .schedAlt ..
  | .schedSelect .. | .schedWaitevt .. | .schedRaise .. | .schedLoop .. | .schedBranch .. | .schedBoundary ..
  | .schedEnd .. | .barrierRelease .. | .fifoWaitEnd .. | .edgeCommandArrival .. | .edgeFifoRead .. | .play .. | .jump ..
  | .hold .. | .freq .. | .phase .. | .flux .. | .bias .. | .capture .. | .mark .. | .stage .. | .select ..
  | .jumpSamplingPoint .. | .segmentBoundary .. | .markPulseEnd .. | .tapParityFailure .. | .biasUpdate ..
  | .biasSafeLoad .. | .windowClose .. | .traceWindowClose .. | .verdictOutput .. | .hotTrip .. | .hotRelease ..
  | .acqCalStepStart .. | .acqCalStepDone .. | .acqCalStale .. | .haltRaise .. | .shotBoundary | .recordArrival ..
  | .setComplete .. | .streamPacketSend | .recordToQueue | .streamClose .. | .openStream .. | .openQueue ..
  | .conditionCrossing .. | .trigInEdge .. | .triggerFire .. | .trgArm .. | .trgDisarm .. | .armGrainReached | .armMessage
  | .disarmMessage | .fireMessage | .captureEventWindow .. | .verdictBusMessage .. | .vreMessage | .verdictBlockSend ..
  | .verdictBlockReceive .. | .breChoice .. | .selectRegisterTake .. | .armingDeadline .. | .rgnProfileReq ..
  | .pkgProfileReq .. | .profileChange .. | .profileMuteEnd .. | .rgnKrnLayout .. => true
  | .queueWrite _ writer _ _ _ => decide (writer < 32)
  | .waitingWriteResume .. | .queueRead .. | .queueDrop .. | .queueFlush .. | .quePush .. | .quePop .. | .quePkt ..
  | .queCmdFlush .. | .queCmdDrop .. | .channelEvent .. => true
  | .eventDelivery con => conWf con.val
  | .evtChProd .. | .timerFire .. | .timRun .. | .timStop .. | .trussPulseStart .. | .trussPulseEnd .. | .mcsPatch ..
  | .mcsBootPatch .. | .engineRestart .. | .cluSegDesc .. | .cluSegData .. | .refillEntryStart .. | .refillEntryDone .. => true
  | .drvMute _ _ prb n _ => decide (prb = true → n.val < 16)
  | .drvXtap .. => true
  | .flxCoefWrite _ _ index sub _ => coefWf index.toNat sub.toNat
  | .flxSet .. | .biaSet .. | .biaSense .. | .cluKrnData .. | .cluDiscData .. | .drmRate .. | .drmMap .. | .drmChtab ..
  | .trainingStepDone .. | .retrainStepStart .. | .retrainStepDone .. | .retrainAbandon .. => true
  | .dramBurst _ reqs _ => reqs.all BurstReq.wf
  | .refreshDue .. | .mr4Poll .. | .wipeComplete | .drmBistStart .. => true
  | .bistDone at_ data par => readsWf at_ data par
  | .blockReceive _ _ more => decide (more.length ≤ 2)
  | .drmWinRead .. | .drmWinWrite .. | .ppmMeasure .. | .lossOfSignal .. | .lossOfLock ..
  | .lnkHlRetrain .. | .linkPacketReceive | .ack | .nak | .credit | .ackSend | .creditSend | .retransmitTimeout
  | .uploadWrite | .lnkVpEnable .. | .ydpRead .. | .ydpWrite .. | .writeInit .. | .writeSeg .. | .readSeg .. | .ydpAbort ..
  | .segmentTimeout .. | .registerWrite .. | .commit .. | .nvmEraseDone | .pageProgramDone .. => true
  | .ptpFrameReceive _ fr => fr.wf
  | .ptpSync | .ptpFollowUp | .ptpDelayResp | .ptpAnnounce | .delayReqSend | .tcForward .. | .receiptTimeout ..
  | .tpLinkChange .. | .relock .. | .ppsEdge | .ppsEnd | .monSeqStart .. | .monSeqStop .. | .mauEntryStart ..
  | .conversionDone .. | .monInj .. | .monCalStart .. => true
  | .mauCalDone _ ofs gain => decide (ofs.length = 8) && decide (gain.length = 8) && factorsWf ofs gain
  | .refReady .. | .thermalUpdate .. | .ladderStep | .thmForceClr .. | .shutdownMute | .shutdownBiasFault
  | .shutdownPllStop | .shutdownComplete | .resume .. => true
  | .scrubStep u _ _ => unitWf u.val
  | .lcsReq .. | .lcsConfirm .. | .lcsReqExpire | .lcsBurn .. | .acqOverrange .. | .syncOutPulseEnd => true
  | .scrubStale u => unitWf u.val
  | .blockSend .. => true
  | .canFrameReceive extended kind id bytes =>
    decide (extended = false → id.toNat < 2048) && decide (bytes.length ≤ (if kind = .fd then 64 else 8))
  | .canBusError tec rec => decide (tec ≤ 263) && decide (rec ≤ 255)
  | .busOffRecovery => true

end Sys2Proof
end

