-- ==== Sys2Proof/Tests/Slice0.lean ====
section
/-! SUPPORT. Tests of the model on small states: ill-formed commands are refused by the check of their operands, one command
of each kind does what its rule says, and for every statement with hypotheses states that meet them. -/

namespace Sys2Proof.Tests

-- One proof at a time: proofs elaborated side by side take more memory than the check grants.
set_option Elab.async false
set_option linter.unusedVariables false

open Sys2Proof Sys2Proof.Machine Sys2Proof.Claims

/-! ### Small states -/

def R : State := State.reset

/-- The state after reset with values stored in objects. -/
def st (l : List (Reg × Nat × Int)) : State := l.foldl (fun t x => wr x.1 x.2.2 x.2.1 t) R

/-- The dictionary is served. -/
def up (l : List (Reg × Nat × Int)) : State := { st l with boot := { phase := .served } }

/-- The reset has ended and the clock system starts. -/
def S1 : State := { R with boot := { phase := .step1 } }

/-- RF die 0 has its clock. -/
def K : State := st [(.CLK_MON_STATE, 5, 2)]

/-- A run is under way. -/
def runs : State := st [(.PKG_RUN_STATE, 0, 1)]

/-- Engine e runs, and queue 0 begins with a packet. -/
def pk (e : Nat) (ws : List Word) (rest : List QWord) : State :=
  { R with engs := [(e, { state := .run, len := 1000 })]
           queues := [(32 * e, { words := queueWords (ws.map fun w => (w, false)) ++ rest })] }

theorem atPk (e : EngNo) (w : Word) (ws : List Word) (rest : List QWord) (h : reached R (e % 8) (schedOp w) = false) :
    AtPacket e (w :: ws) rest (pk e (w :: ws) rest) := by
  have v : eget (pk e.val (w :: ws) rest) e = { state := .run, len := 1000 } := by simp [eget, pk, mget]
  have q : qget (pk e.val (w :: ws) rest) (32 * e) = { words := queueWords ((w :: ws).map fun w => (w, false)) ++ rest } := by
    simp [qget, pk, mget]
  constructor
  · constructor <;> simp [v, q]
  · exact h

theorem heads {e : Nat} {ws : List (Word × Bool)} {rest : List QWord} {s : State} (h : (eget s e).state = .run ∧ (eget s e).loop = none ∧
    (eget s e).out = [] ∧ (eget s e).gather = none ∧ (eget s e).micro.at_ = none ∧ (qget s (32 * e)).words = queueWords ws ++ rest ∧
    (qget s (32 * e)).cut = false ∧ (qget s (32 * e)).tainted = false ∧ (qget s (32 * e)).dead = []) : Heads e ws rest s :=
  { run := h.1, loop := h.2.1, out := h.2.2.1, gather := h.2.2.2.1, routine := h.2.2.2.2.1, words := h.2.2.2.2.2.1, clean := h.2.2.2.2.2.2 }

theorem inSection {e : Nat} {ps : List (List Word)} {s : State} (h : (eget s e).pc / 8 + ps.flatten.length < (aget s e).len ∧
    (eget s e).pc + 8 * (1 + ps.flatten.length) < 2 ^ 64) : InSection e ps s := h

theorem breaksRule {e op n : Nat} {w0 : Word} {s : State} (h : (schedKind op (e % 8) = false ∧ overrideOf s (e % 8) op = none) ∨
    n < packetLen op ∨ (op ≠ 0x10 ∧ schedReserved op w0 = true) ∨
    ((1 ≤ op ∧ op ≤ 9 ∨ op = 0x11 ∧ n = 1) ∧ emitFifo e (eget s e) w0 = none)) : BreaksRule e op n w0 s := h

theorem atBarrier {e op : Nat} {w0 : Word} {s : State} (h : (eget s e).state = .run ∧ (eget s e).gather = none ∧
    (eget s e).micro.at_ = none ∧ nextPacket s e = some [{ data := w0, fin := true }] ∧ schedOp w0 = op ∧
    schedReserved op w0 = false ∧ reached s (e % 8) op = false) : AtBarrier e op w0 s :=
  { run := h.1, gather := h.2.1, routine := h.2.2.1, packet := ⟨_, h.2.2.2.1, rfl, rfl⟩, opcode := h.2.2.2.2.1,
    reserved := h.2.2.2.2.2.1, rom := h.2.2.2.2.2.2 }

theorem othersArrived {e : Nat} {s : State} (h : ∀ y ∈ s.engs, y.1 = e) : OthersArrived e s := fun y m n => absurd (h y m) n

theorem othersAgree {e : Nat} {x : Bool × Nat} {s : State} (h : ∀ y ∈ s.engs, y.1 = e) : OthersAgree e x s :=
  fun y m n => absurd (h y m) n

theorem readsGood {f : Nat} {s : State} (h : ((slget s f).play.all fun p => (nextBad s (fifoClu f) p).isNone) = true) :
    ReadsGood f s := by
  intro p e
  rw [e] at h
  simpa using h

theorem serves {s : State} (h : reachable s 0 = true ∧ s.boot.phase = .served ∧ retired s = false ∧ pathIdle s 0 = true ∧
    myTurn s 0 = true) : Serves 0 s :=
  { reach := h.1, phase := h.2.1, alive := h.2.2.1, idle := h.2.2.2.1, order := h.2.2.2.2, room := fun _ _ => rfl,
    link := fun e => absurd e (by decide) }

theorem noneAll {α : Type} {o : Option α} {P : α → Prop} (h : o = none) : ∀ a, o = some a → P a := by simp [h]

theorem noneAll₂ {α β : Type} {o : Option (α × β)} {P : α → β → Prop} (h : o = none) : ∀ a b, o = some (a, b) → P a b := by simp [h]

theorem nilAll {α : Type} {l : List α} {P : α → List α → Prop} (h : l = []) : ∀ a r, l = a :: r → P a r := by simp [h]

theorem someAll {α : Type} {o : Option α} {P : α → Prop} (v : α) (h : o = some v) (k : P v) : ∀ a, o = some a → P a := by
  intro a e
  rw [h] at e
  cases e
  exact k

theorem noneAllTwo {α β : Type} {o : Option α} {q : Option β} {P : α → β → Prop} (h : o = none) :
    ∀ a b, o = some a → q = some b → P a b := by simp [h]

theorem ladderFree {s : State} (h : s.cool.changedAt = none) : LadderFree s := noneAll h

theorem ladderHeld {s : State} (t0 : Nat) (h : s.cool.changedAt = some t0) (k : ¬t0 + msT ≤ s.elapsed) : ¬LadderFree s :=
  fun f => k (f t0 h)

theorem sioAgrees {p o : Int} (h : 20000000 < o.natAbs ∧ 100 * (p - o).natAbs ≤ (100000000 + o).natAbs) : SioAgrees p o := h

/-- A command of an edge FIFO waits for its release. -/
def edge (f : Nat) (c : EdgeCmd) (s : State) : State := { s with fifos := [(f, { path := [c] })] }

/-- A command's words are being written into an edge FIFO. -/
def arr (f : Nat) (c : EdgeIn) (s : State) : State := { s with fifos := [(f, { incoming := [c] })] }

/-- A command stands in an edge FIFO. -/
def held (f : Nat) (c : EdgeCmd) (s : State) : State := { s with fifos := [(f, { cmds := [c] })] }

/-- A queue holds one word, a packet of its own. -/
def one (q : Nat) (s : State) : State := { s with queues := [(q, { words := [{ data := 5, fin := true }] })] }

/-- An engine reads what belongs to a LOOP or ALT, with a queue's words to come. -/
def gathers (op : Nat) (w0 : Word) (ws : List Word) (rest : List QWord) : State :=
  { R with engs := [(0, { state := .run, len := 1000, gather := some { op := op, head := w0, words := ws.map fun d => { data := d } } })]
           queues := [(0, { words := rest })], areas := [(0, { len := 3 })] }

/-- The section of engine 0 is n words long. -/
def sect (n : Nat) (s : State) : State := { s with areas := [(0, { len := n })] }

/-- A transfer of an object is open on the CAN path. -/
def opn (w : Bool) (idx total : Nat) : Transfer := { write := w, index := idx, sub := 0, inst := 0, total := total }

def opened (x : Transfer) : State := { up [] with path0 := { transfer := some x } }

/-- A request waits on the CAN path. -/
def rq (cmd idx sub flags : Nat) (data : List Byte) (s : State) : State :=
  { s with path0 := { s.path0 with requests := [frameBytes cmd 0 idx sub flags data] } }

/-- The row of an object. -/
def rowOf (idx sub : Nat) : ObjRow :=
  match findObj idx sub with
  | .obj r _ => r
  | _ => ⟨.PKG_RESET, 0, 0, 0, 0, 0, .u8, .rw, .any, none⟩

def isOk {α : Type} (a : Ans α) : Bool := match a with | .ok _ => true | .error _ => false

def okOr {α : Type} (a : Ans α) (d : α) : α := match a with | .ok v => v | .error _ => d

theorem ok_okOr {α : Type} {a : Ans α} (d : α) (h : isOk a = true) : a = .ok (okOr a d) := by
  cases a with
  | ok v => rfl
  | error e => cases h

theorem pair_ok {α : Type} {p : Ans Unit × α} (h : isOk p.1 = true) : p = (.ok (), p.2) := by
  obtain ⟨a, b⟩ := p
  cases a with
  | ok v => rfl
  | error e => cases h

theorem unit_ok {a : Ans Unit} (h : isOk a = true) : a = .ok () := by
  cases a with
  | ok v => rfl
  | error e => cases h

def errOf {α : Type} (a : Ans α) : Nat := match a with | .ok _ => 0 | .error e => e

theorem error_errOf {α : Type} {a : Ans α} (h : isOk a = false) : a = .error (errOf a) := by
  cases a with
  | ok v => cases h
  | error e => rfl

def okE {ε α : Type} (a : Except ε α) (d : α) : α := match a with | .ok v => v | .error _ => d

def isOkE {ε α : Type} (a : Except ε α) : Bool := match a with | .ok _ => true | .error _ => false

theorem pair_okE {ε α β : Type} {p : Except ε α × β} (d : α) (h : isOkE p.1 = true) : p = (.ok (okE p.1 d), p.2) := by
  obtain ⟨a, b⟩ := p
  cases a with
  | ok v => rfl
  | error e => cases h

/-- The first 60 bytes of the header of an image of 128 bytes with one section of a kind that the loader skips. -/
def img60 : List Byte :=
  [0x46, 0x51, 0x49, 0x4D, 1, 0, 64, 0, 0, 0, 0, 0, 1, 0, 0, 0] ++ leBytes 8 128 ++ leBytes 8 64 ++ List.replicate 28 0

def img : List Byte :=
  img60 ++ leBytes 4 (crc32 img60) ++ leBytes 8 0x8000 ++ leBytes 8 128 ++ List.replicate 16 0

/-- A load is under way from a DRAM of one channel, which holds bytes from offset 0 on. -/
def loads (bs : List Byte) : State :=
  { st [(.PKG_IMG_STATE, 0, 1), (.DRM_STATE, 0, 3), (.DRM_RANGE, 0, 4096), (.DRM_CHTAB, 0, 8), (.DRM_CH_ORG, 0, 1), (.DRM_MAP, 0, 0),
      (.DRM_CH_STATE, 0, 2)] with
    dram := { cells := (bs.zipIdx.map fun x => (x.2, x.1)).filter fun x => x.2 ≠ 0 } }

def load1 : Except LoadFail (List Byte) × LoadSt := loadRead 0xFFFF 0 64 { st := loads img, done := 0 }

def head : List Byte := okE load1.1 []

def load2 : Except LoadFail (List Section) × LoadSt :=
  loadDir 0 (leAt head 0x10 8) (leAt head 0x18 8) (leAt head 0x0C 2) (leAt head 0x0C 2) [] load1.2

def load3 : Except LoadFail (List (State → State)) × LoadSt := loadSections 0 (okE load2.1 []) 0 load2.2

theorem load1_ok : load1 = (.ok (okE load1.1 []), load1.2) := pair_okE [] (by decide +kernel)

theorem load2_ok : load2 = (.ok (okE load2.1 []), load2.2) := pair_okE [] (by decide +kernel)

theorem load3_ok : load3 = (.ok (okE load3.1 []), load3.2) := pair_okE [] (by decide +kernel)

/-- An upload of no words to an address waits in queue 0x2002. -/
def upl (a : Nat) : State :=
  { st [(.DRM_STATE, 0, 3)] with queues := [(0x2002, { words := [{ data := word a, fin := true }] })] }

def P : Play := { seg := 0, gain := 0, start := 0, len := 1, addr := 0, left := none }

def A0 : Arming := { slot := 0, d := 24, w0 := 0, w1 := 0 }

/-- A loop packet of one word and two passes, an item of one HOLD, and that HOLD. -/
def LP : Word := word (0x28 * 2 ^ 56 + 2 ^ 48 + 2 * 2 ^ 32)

def AW : Word := word (0x10 * 2 ^ 56 + 2 ^ 44)

def HW : Word := word (0x03 * 2 ^ 56)

/-- A BOUNDARY packet with a LENGTH. -/
def bw (n : Nat) : Word := word (0xF0 * 2 ^ 56 + n)

/-- An RF clock, a viaduct lane's clock and a DRAM of one channel. -/
def VC : Reg × Nat × Int := (.CLK_MON_STATE, 11, 2)

def drm : List (Reg × Nat × Int) := [(.DRM_STATE, 0, 3), (.DRM_RANGE, 0, 2 ^ 30), (.DRM_CHTAB, 0, 8), (.DRM_CH_ORG, 0, 1)]

def W0 : RWin := { grain := 0, fine := 0, len := 0, kstart := 0, bank := 0, direct := false, shot := 0 }

def O0 : Verd := { due := 0, tend := 0, ord := 0, verdict := 0, record := [], shot := 0 }

def T0 : TWin := { kind := 1, grain := 0, fine := 0, len := 0, tones := [], direct := false, shot := 0 }

def H0 : Shot := { num := 0, start := 0, len := 256 }

def F0 : PtpFrame :=
  { fcsOk := true, bytes := 64, ptpType := true, ptpDest := true, version := 2, kind := .sync, twoStep := true, domain := 0,
    logIval := 0, seqId := 0, correction := 0, stamp := 0, reqClock := 0, reqPort := 0, gmId := 0, quality := [] }

theorem pair_okOr {α β : Type} {p : Ans α × β} (d : α) (h : isOk p.1 = true) : p = (.ok (okOr p.1 d), p.2) := by
  obtain ⟨a, b⟩ := p
  cases a with
  | ok v => rfl
  | error e => cases h

/-- An upload that carries PSN waits. -/
def uplBad : State :=
  { st [(.DRM_STATE, 0, 3)] with queues := [(0x2002, { words := [{ data := 5, fin := true, psn := true }] })] }

/-- An upload waits for a channel in retraining. -/
def uplWait : State :=
  { st drm with
    queues := [(0x2002, { words := [{ data := 0 }, { data := 5, fin := true }] })], dram := { chans := [(0, { retrain := some 3 })] } }

theorem overStaging {l : List Word} (h : l.length = 1048577) (n : Nat) : stagingSize < n + l.length := by
  rw [h, stagingSize]; omega

/-- A payload without long runs of equal bits. -/
def PW : Nat := 0x5555555555555555

/-- Every port of the DRAM has its buffer well filled. -/
def calm : SMap Int := (List.range 19).map fun p => (p, 100000)

theorem noKinds : ∀ ts p, (ts, p) ∈ [(1, shimPayload), (2, 1), (3, 1)] → scrambledKind (scramble (blockBits 2 ts p) 0).1 = false := by
  simp only [List.mem_cons, List.not_mem_nil, or_false, Prod.mk.injEq]
  rintro ts p (⟨rfl, rfl⟩ | ⟨rfl, rfl⟩ | ⟨rfl, rfl⟩) <;> decide +kernel

theorem deadOne : 256 * 0 + 8 * 0 < 1 + deadTime := by omega

theorem onePort : ∀ r, r ≠ 0 → portUp (st [(.TRG_ROLE, 0, 1), (.LNK_VP_STATE, 0, 2)]) r = false := by
  intro r h
  unfold portUp
  rw [show st [(.TRG_ROLE, 0, 1), (.LNK_VP_STATE, 0, 2)] = wr .LNK_VP_STATE 2 0 (wr .TRG_ROLE 1 0 R) from rfl, rn_wr_inst _ h,
    rn_wr_reg (by decide)]
  rfl

/-- An update of region 0, whose unit is gated, falls due. -/
def TH (l : List (Reg × Nat × Int)) (v : Therm) (r : Option Nat) : State :=
  { st l with
    boot := { phase := .step1 }, clk := { gated := 2 ^ 14 }, cool := { baseAt := some 0, restartAt := r }, therms := [(0, v)]
    maus := [(0, { done := List.replicate 8 (30000, false) })], elapsed := 10000000000 }

/-- MAU 0 is ready with what it does, and nothing conflicts. -/
def mau0 (u : Nat) (v : Mau) : State := { S1 with maus := [(u, v)], elapsed := 1000000 }

/-! ### Hypotheses of the statements -/

theorem witness_StepKeepsMemoryForm :
    ∃ s t : State, step s = .next t ∧ Memory.wf s = true :=
  ⟨R, tick R, rfl, by decide +kernel⟩

theorem witness_StepRunsTheFrontCommand :
    ∃ (c : Instr) (rest : List Instr) (s : State), s.pending = c :: rest := by
  refine ⟨.queueDrop 1, [], { R with pending := [.queueDrop 1] }, ?_⟩ <;>
    decide +kernel

theorem witness_EmptyQueueIsOneGrain :
    ∃ s : State, s.pending = [] ∧ s.boot.phase ≠ .held := by
  refine ⟨up [], ?_⟩ <;>
    decide +kernel

theorem witness_EveryResetEmptiesTheQueues :
    (∃ (ns : Nat) (s : State), 1000 ≤ ns) ∧
    (∃ (t0 : Nat) (s : State), s.boot.resetReq = some t0 ∧ t0 + 200 * usT ≤ s.elapsed) ∧
    (∃ (v t0 : Nat) (rb : BitVec 4) (s : State), s.boot.lcsConf = some (v, t0) ∧ t0 + msT ≤ s.elapsed ∧ rb.toNat = targetCode v)
      ∧
    (∃ (idx sub i : Nat) (row : ObjRow), findObj idx sub = .obj row i ∧ row.reg ∈ [Reg.QUE_HIGH_WM, .QUE_LOW_WM, .QUE_WM_EVT])
      := by
  refine ⟨⟨1000, R, ?_⟩,
    ⟨0, { R with boot := { resetReq := some 0 }, elapsed := 500000 }, ?_⟩,
    ⟨1, 0, 3, { R with boot := { lcsConf := some (1, 0) }, elapsed := 2500000 }, ?_⟩,
    ⟨0x8020, 1, 0, rowOf 0x8020 1, ?_⟩⟩ <;>
    decide +kernel

theorem witness_EveryResetHasTheSameEffects :
    (∃ (ns : Nat) (s : State), 1000 ≤ ns) ∧
    (∃ (t0 : Nat) (s : State), s.boot.resetReq = some t0 ∧ t0 + 200 * usT ≤ s.elapsed) ∧
    (∃ (t0 : Nat) (s : State), s.boot.resetReq = some t0 ∧ s.elapsed < t0 + 200 * usT) ∧
    (∃ (v t0 : Nat) (rb : BitVec 4) (s : State), s.boot.lcsConf = some (v, t0) ∧ t0 + msT ≤ s.elapsed ∧ rb.toNat = targetCode v)
      ∧
    (∃ (v t0 : Nat) (rb : BitVec 4) (s : State), s.boot.lcsConf = some (v, t0) ∧ t0 + msT ≤ s.elapsed ∧ rb.toNat ||| targetCode
      v = targetCode v ∧ rb.toNat ≠ targetCode v) := by
  refine ⟨⟨1000, R, ?_⟩,
    ⟨0, { R with boot := { resetReq := some 0 }, elapsed := 500000 }, ?_⟩,
    ⟨0, { R with boot := { resetReq := some 0 }, elapsed := 499999 }, ?_⟩,
    ⟨1, 0, 3, { R with boot := { lcsConf := some (1, 0) }, elapsed := 2500000 }, ?_⟩,
    ⟨1, 0, 2, { R with boot := { lcsConf := some (1, 0) }, elapsed := 2500000 }, ?_⟩⟩ <;>
    decide +kernel

theorem witness_StartUpSteps :
    (∃ (d : Fin 8) (n : Fin 128) (s : State), s.boot.phase = .held ∧ s.boot.wait ≤ s.elapsed) ∧
    (∃ (d : Fin 8) (n : Fin 128) (s : State), (s.boot.phase ≠ .held ∨ s.elapsed < s.boot.wait)) ∧
    (∃ (a : FuseImage) (s : State), s.boot.phase = .step1) ∧
    (∃ (a b : FuseImage) (ok : Bool) (s : State), s.boot.phase = .step1 ∧ (a ≠ b ∨ ok = false)) ∧
    (∃ s : State, s.boot.phase = .fuses) ∧
    (∃ (ans : Bool) (mbit : BitVec 16) (s : State), s.boot.phase = .wiped) := by
  refine ⟨⟨0, 0, { R with boot := { phase := .held }, elapsed := 2500000 }, ?_⟩,
    ⟨0, 0, up [], ?_⟩,
    ⟨R.boot.fuses, S1, ?_⟩,
    ⟨R.boot.fuses, R.boot.fuses, false, S1, ?_⟩,
    ⟨{ R with boot := { phase := .fuses } }, ?_⟩,
    ⟨true, 0, { R with boot := { phase := .wiped } }, ?_⟩⟩ <;>
    decide +kernel

theorem witness_ClocksStart :
    (∃ s : State, s.boot.phase ≠ .held ∧ s.boot.goodAt + nthD [250, 1000, 2000, 4000, 8000, 16000, 32000, 64000] (rn s
      .CLK_STDLY) 0 * usT ≤ s.elapsed) ∧
    (∃ s : State, (s.boot.phase = .held ∨ s.elapsed < s.boot.goodAt + nthD [250, 1000, 2000, 4000, 8000, 16000, 32000, 64000]
      (rn s .CLK_STDLY) 0 * usT)) ∧
    (∃ s : State, s.boot.phase = .served ∧ s.boot.goodAt + s.clk.xtbDelay * usT ≤ s.elapsed) ∧
    (∃ s : State, (s.boot.phase ≠ .served ∨ s.elapsed < s.boot.goodAt + s.clk.xtbDelay * usT)) ∧
    (∃ s : State, s.clk.trefDone = false ∧ s.clk.trefSel = 1 ∧ rn s .CLK_MON_STATE 2 = 2) ∧
    (∃ s : State, s.clk.trefDone = false ∧ s.clk.trefSel = 2 ∧ rn s .CLK_MON_STATE 3 = 2) ∧
    (∃ (t0 r : Nat) (s : State), s.clk.trefDone = false ∧ s.clk.trefSel ≠ 1 ∧ s.clk.trefSel ≠ 2 ∧ s.clk.xtbQualAt = some t0 ∧
      s.clk.refinQualAt = some r) ∧
    (∃ (t0 : Nat) (s : State), s.clk.trefDone = false ∧ s.clk.trefSel ≠ 1 ∧ s.clk.trefSel ≠ 2 ∧ s.clk.xtbQualAt = some t0 ∧
      s.clk.refinQualAt = none ∧ t0 + msT ≤ s.elapsed) ∧
    (∃ (t0 : Nat) (s : State), s.clk.trefSel ≠ 1 ∧ s.clk.trefSel ≠ 2 ∧ s.clk.xtbQualAt = some t0 ∧ s.clk.refinQualAt = none ∧
      s.elapsed < t0 + msT) ∧
    (∃ s : State, s.clk.trefDone = true) := by
  refine ⟨⟨{ S1 with elapsed := 160000000 }, ?_⟩,
    ⟨{ R with elapsed := 160000000 }, ?_⟩,
    ⟨{ up [] with elapsed := 10000000000 }, ?_⟩,
    ⟨R, ?_⟩,
    ⟨{ st [(.CLK_MON_STATE, 2, 2)] with clk := { trefSel := 1 } }, ?_⟩,
    ⟨{ st [(.CLK_MON_STATE, 3, 2)] with clk := { trefSel := 2 } }, ?_⟩,
    ⟨0, 0, { R with clk := { xtbQualAt := some 0, refinQualAt := some 0 } }, ?_⟩,
    ⟨0, { R with clk := { xtbQualAt := some 0 }, elapsed := 2500000 }, ?_⟩,
    ⟨0, { R with clk := { xtbQualAt := some 0 } }, ?_⟩,
    ⟨{ R with clk := { trefDone := true } }, ?_⟩⟩ <;>
    decide +kernel

theorem witness_MonitorWindows :
    (∃ (m : Fin 15) (ppm other : Int) (locked : Bool) (s : State), judged s m = false) ∧
    (∃ (m : Fin 15) (ppm other : Int) (locked : Bool) (s : State), judged s m = true ∧ rn s .CLK_MON_STATE m ≠ 2 ∧ ppm.natAbs ≤
      tolerance m ∧ (locked = true ∨ m.val < 4) ∧ 15 ≤ (mget {} s.clk.mons m.val).good) ∧
    (∃ (m : Fin 15) (ppm other : Int) (locked : Bool) (s : State), judged s m = true ∧ rn s .CLK_MON_STATE m ≠ 3 ∧ tolerance m <
      ppm.natAbs ∧ (4 ≤ m.val → locked = true ∨ (mget {} s.clk.mons m.val).locked = true) ∧ 1 ≤ (mget {} s.clk.mons m.val).bad ∧
      (m.val ≤ 1 → (mget {} s.clk.mons (1 - m.val)).bad = 0 ∨ windowRan s (1 - m.val) = true ∨ ¬SioAgrees ppm other)) ∧
    (∃ (m : Fin 15) (ppm other : Int) (s : State), judged s m = true ∧ rn s .CLK_MON_STATE m ≠ 3 ∧ 4 ≤ m.val ∧ (mget {}
      s.clk.mons m.val).locked = true) ∧
    (∃ (m : Fin 15) (ppm other : Int) (locked : Bool) (s : State), m.val ≤ 1 ∧ judged s m = true ∧ rn s .CLK_MON_STATE m ≠ 3 ∧
      tolerance m < ppm.natAbs ∧ 1 ≤ (mget {} s.clk.mons m.val).bad ∧ 1 ≤ (mget {} s.clk.mons (1 - m.val)).bad ∧ windowRan s (1
      - m.val) = false ∧ SioAgrees ppm other ∧ rn s .CLK_MON_STATE (1 - m.val) ≠ 3 ∧ rn s .CLK_MON_STATE (1 - m.val) ≠ 4) := by
  refine ⟨⟨1, 0, 0, true, st [(.CLK_MON_STATE, 1, 4)], ?_⟩,
    ⟨1, 20000000, 0, true, { S1 with clk := { mons := [(1, { good := 15 })] } }, ?_⟩,
    ⟨1, 20000001, 0, true, { S1 with clk := { mons := [(1, { bad := 1 })] } }, ?_⟩,
    ⟨4, 0, 0, { S1 with clk := { xtaOn := true, mons := [(4, { locked := true })] } }, ?_⟩,
    ⟨1, 20000001, 20000001, true, { S1 with clk := { mons := [(0, { bad := 1 }), (1, { bad := 1 })] } }, ?_⟩⟩ <;>
    repeat' first
      | decide +kernel
      | rfl
      | exact sioAgrees (by decide +kernel)
      | exact fun _ => .inl (by decide +kernel)
      | constructor

theorem witness_ReferencesAndCalibration :
    (∃ (d : Fin 2) (count : Nat) (s : State), s.clk.trefDone = true ∧ rn s .CLK_TREF_LOST ≠ 1 ∧ 80 ≤ count ∧ count ≤ 120 ∧ 15 ≤
      (mget {} s.clk.bd d.val).good ∧ bitOf s.bdQual d = false) ∧
    (∃ (d : Fin 2) (count : Nat) (s : State), s.clk.trefDone = true ∧ rn s .CLK_TREF_LOST ≠ 1 ∧ (count < 80 ∨ 120 < count) ∧ 1 ≤
      (mget {} s.clk.bd d.val).bad ∧ bitOf s.bdQual d = true ∧ bitOf (rn s .CLK_BD_LOST) d = false) ∧
    (∃ (d : Fin 4) (s : State), rn s .CLK_MON_STATE (5 + d) = 2 ∧ bitOf s.clk.calDone d = false) ∧
    (∃ (ups : List (Fin 7 × Int)) (off : SMap Int) (s : State), s.tmlOn = true ∧ s.tml % 2 ^ 20 = 0 ∧ off = ups.foldl (fun m u
      => mput 0 m u.1.val u.2) s.clk.copies) ∧
    (∃ (ups : List (Fin 7 × Int)) (s : State), (s.tmlOn = false ∨ s.tml % 2 ^ 20 ≠ 0)) := by
  refine ⟨⟨0, 80, { R with clk := { trefDone := true, bd := [(0, { good := 15 })] } }, ?_⟩,
    ⟨0, 79, { R with clk := { trefDone := true, bd := [(0, { bad := 1 })] }, bdQual := 1 }, ?_⟩,
    ⟨0, K, ?_⟩,
    ⟨[(1, 5)], [(1, 5)], { R with tmlOn := true }, ?_⟩,
    ⟨[], R, ?_⟩⟩ <;>
    decide +kernel

theorem witness_CounterAndGates :
    (∃ (count : Nat) (s : State), rn s .CLK_FMC_STATE = 1 ∧ s.clk.fmcAt + rn s .CLK_FMC_GATE * usT ≤ s.elapsed) ∧
    (∃ (count : Nat) (s : State), (rn s .CLK_FMC_STATE ≠ 1 ∨ s.elapsed < s.clk.fmcAt + rn s .CLK_FMC_GATE * usT)) ∧
    (∃ (g : Fin 25) (t0 n : Nat) (s : State), gateWaits s g = some (t0, n) ∧ 2 * usT < n ∧ t0 + 2 * usT ≤ s.elapsed) ∧
    (∃ (g : Fin 25) (t0 n : Nat) (s : State), gateWaits s g = some (t0, n) ∧ n ≤ 2 * usT ∧ t0 + n ≤ s.elapsed) ∧
    (∃ (g : Fin 25) (t0 n : Nat) (s : State), gateWaits s g = some (t0, n) ∧ s.elapsed < t0 + min n (2 * usT)) ∧
    (∃ (g : Fin 25) (s : State), gateWaits s g = none) := by
  refine ⟨⟨0, { st [(.CLK_FMC_STATE, 0, 1)] with elapsed := 2500000000 }, ?_⟩,
    ⟨0, R, ?_⟩,
    ⟨0, 0, 5001, { R with clk := { gateWait := [(0, 0, 5001)] }, elapsed := 5000 }, ?_⟩,
    ⟨0, 0, 5000, { R with clk := { gateWait := [(0, 0, 5000)] }, elapsed := 5000 }, ?_⟩,
    ⟨24, 0, 7000, { R with clk := { gateWait := [(24, 0, 7000)] }, elapsed := 4999 }, ?_⟩,
    ⟨24, R, ?_⟩⟩ <;>
    decide +kernel

theorem witness_AlignmentAtSync :
    (∃ s : State, s.clk.syncFire = true ∧ s.tmlOn = true ∧ s.tml % 25 = 0) ∧
    (∃ (e : Nat) (s : State), s.clk.syncOut = some e ∧ e ≤ s.elapsed) ∧
    (∃ s : State, rn s .TML_SYNC_STATE = 1 ∧ s.clk.syncEdge = none ∧ s.tmlOn = true ∧ s.tml % 25 = 0) ∧
    (∃ s : State, s.tml % 25 ≠ 0) ∧
    (∃ s : State, rn s .TML_SYNC_STATE ≠ 1) ∧
    (∃ (e : Nat) (s : State), s.clk.syncEdge = some e ∧ e + 50 ≤ s.elapsed) := by
  refine ⟨⟨{ R with clk := { syncFire := true }, tmlOn := true }, ?_⟩,
    ⟨0, { R with clk := { syncOut := some 0 } }, ?_⟩,
    ⟨{ st [(.TML_SYNC_STATE, 0, 1)] with tmlOn := true, tml := 25 }, ?_⟩,
    ⟨{ R with tml := 26 }, ?_⟩,
    ⟨R, ?_⟩,
    ⟨0, { R with clk := { syncEdge := some 0 }, elapsed := 50 }, ?_⟩⟩ <;>
    decide +kernel

theorem witness_ThermalUpdates :
    (∃ (g : RgnNo) (mw : Nat) (diode : Int) (s : State), UpdateDue g s) ∧
    (∃ (g : RgnNo) (mw : Nat) (diode : Int) (s : State), UpdateDue g s ∧ SensorGood g mw s ∧ rn s .THM_SENSOR_STATE g = 0 ∧ (∀ i
      < 3, 0 < resist s g i ∧ 0 < capac s g i) ∧ s.cool.restartAt = none) ∧
    (∃ (g : RgnNo) (mw : Nat) (diode : Int) (t0 r : Nat) (s : State), UpdateDue g s ∧ SensorGood g mw s ∧ rn s .THM_SENSOR_STATE
      g = 0 ∧ (∀ i < 3, 0 < resist s g i ∧ 0 < capac s g i) ∧ (thget s g).live = true ∧ (thget s g).lastAt = some t0 ∧
      s.cool.restartAt = some r ∧ r ≤ t0 + updatePeriod s g ∧ t0 + updatePeriod s g < r + 10 * usT) ∧
    (∃ (g : RgnNo) (mw : Nat) (diode : Int) (s : State), UpdateDue g s ∧ ((mauget s g).done = [] ∨ (∃ x ∈ (mauget s g).done, x.2
      = true) ∨ 2 * regionPower s g < powerDen ∨ 60 * powerDen < regionPower s g)) ∧
    (∃ (g : RgnNo) (mw : Nat) (diode : Int) (t0 : Nat) (s : State), UpdateDue g s ∧ SensorGood g mw s ∧ rn s .THM_SENSOR_STATE g
      ≠ 0 ∧ (thget s g).watch.badAt = some t0) ∧
    (∃ (g : RgnNo) (mw : Nat) (diode : Int) (s : State), ((∃ t0, (thget s g).lastAt = some t0 ∧ s.elapsed < t0 + updatePeriod s
      g) ∨ ((thget s g).lastAt = none ∧ s.elapsed < (mauget s g).bufAt.getD s.boot.goodAt + 4 * msT) ∨ (mauGated s g = false ∧
      protWhole s g = false))) := by
  refine ⟨⟨0, 0, 0, TH [] {} none, ?_⟩,
    ⟨0, 0, 0, TH [] {} none, ?_⟩,
    ⟨0, 0, 0, 0, 2499000, TH [] { live := true, lastAt := some 0 } (some 2499000), ?_⟩,
    ⟨0, 0, 0, { TH [] {} none with maus := [] }, ?_⟩,
    ⟨0, 0, 0, 0, TH [(.THM_SENSOR_STATE, 0, 1)] { watch := { badAt := some 0 } } none, ?_⟩,
    ⟨0, 0, 0, R, ?_⟩⟩ <;>
    repeat' first
      | decide +kernel
      | rfl
      | exact noneAll (by decide +kernel)
      | exact someAll 0 (by decide +kernel) (by decide +kernel)
      | exact fun _ => by decide +kernel
      | constructor

theorem witness_LadderAndVidf :
    (∃ s : State, s.cool.owed ≠ 0 ∧ LadderFree s ∧ rn s .THM_STEP < stepMax s) ∧
    (∃ s : State, s.cool.owed ≠ 0 ∧ ¬LadderFree s) ∧
    (∃ (t0 : Nat) (s : State), s.cool.owed = 0 ∧ anyThrottle s = true ∧ s.cool.raisedAt = some t0 ∧ t0 + rn s .THM_STEP_MS * msT
      ≤ s.elapsed ∧ LadderFree s ∧ rn s .THM_STEP < stepMax s) ∧
    (∃ (t0 : Nat) (s : State), s.cool.owed = 0 ∧ anyThrottle s = false ∧ s.cool.clearAt = some t0 ∧ t0 + rn s .THM_STEP_MS * msT
      ≤ s.elapsed ∧ LadderFree s ∧ rn s .THM_STEP ≠ 0) ∧
    (∃ s : State, s.cool.vidf ≠ 500 + (rn s .THM_VDDF_MV - 500 + 4) / 5 * 5 ∧ (∀ t0, s.cool.vidfAt = some t0 → t0 + msT ≤
      s.elapsed)) ∧
    (∃ (t0 : Nat) (s : State), s.pending = [] ∧ s.boot.phase ≠ .held ∧ s.cool.vidfAt = some t0 ∧ s.elapsed + 1 = t0 + msT) ∧
    (∃ (t0 : Nat) (s : State), s.cool.vidfAt = some t0 ∧ s.elapsed < t0 + msT) ∧
    (∃ s : State, s.cool.vidf = 500 + (rn s .THM_VDDF_MV - 500 + 4) / 5 * 5) := by
  refine ⟨⟨{ R with cool := { owed := 1 } }, ?_⟩,
    ⟨{ R with cool := { owed := 1, changedAt := some 0 } }, ?_⟩,
    ⟨0, { st [(.THM_TRIPPED, 0, 2)] with cool := { raisedAt := some 0 }, elapsed := 250000000000 }, ?_⟩,
    ⟨0, { st [(.THM_STEP, 0, 1)] with cool := { clearAt := some 0 }, elapsed := 250000000000 }, ?_⟩,
    ⟨{ R with cool := { vidf := 0 } }, ?_⟩,
    ⟨0, { up [] with cool := { vidfAt := some 0 }, elapsed := 2499999 }, ?_⟩,
    ⟨0, { R with cool := { vidfAt := some 0 } }, ?_⟩,
    ⟨{ st [(.THM_VDDF_MV, 0, 750)] with cool := { vidf := 750 } }, ?_⟩⟩ <;>
    repeat' first
      | decide +kernel
      | rfl
      | exact ladderFree (by decide +kernel)
      | exact ladderHeld 0 (by decide +kernel) (by decide +kernel)
      | constructor

theorem witness_ThermalShutdown :
    (∃ (t0 : Nat) (s : State), rn s .THM_STATE = 1 ∧ s.cool.stage = 0 ∧ s.cool.tripAt = some t0 ∧ t0 + 2 * usT ≤ s.elapsed) ∧
    (∃ (t0 : Nat) (s : State), rn s .THM_STATE = 1 ∧ s.cool.stage = 1 ∧ s.cool.tripAt = some t0 ∧ t0 + 5 * usT ≤ s.elapsed) ∧
    (∃ (t0 : Nat) (s : State), rn s .THM_STATE = 1 ∧ s.cool.stage = 2 ∧ s.cool.tripAt = some t0 ∧ t0 + 10 * usT ≤ s.elapsed) ∧
    (∃ s : State, rn s .THM_STATE ≠ 1) := by
  refine ⟨⟨0, { st [(.THM_STATE, 0, 1)] with cool := { tripAt := some 0 }, elapsed := 5000 }, ?_⟩,
    ⟨0, { st [(.THM_STATE, 0, 1)] with cool := { tripAt := some 0, stage := 1 }, elapsed := 12500 }, ?_⟩,
    ⟨0, { st [(.THM_STATE, 0, 1)] with cool := { tripAt := some 0, stage := 2 }, elapsed := 25000 }, ?_⟩,
    ⟨R, ?_⟩⟩ <;>
    decide +kernel

theorem witness_MonitorAdc :
    (∃ (u : Fin 11) (q : Sequence) (s : State), (mauget s u).seq = some q ∧ q.entry = none ∧ (mauget s u).busy = false ∧
      q.stopping = false ∧ (mauget s u).c1 = none ∧ (mauget s u).calAt = none ∧ bitOf s.clk.gated (14 + u) = false ∧ q.start +
      50 * rn s .MON_START_DELAY u ≤ s.elapsed ∧ bitOf (rn s .MON_START u) 29 = false) ∧
    (∃ (u : Fin 11) (raw : BitVec 16) (q : Sequence) (e : Entry) (s : State), s.boot.phase ≠ .held ∧ bitOf s.clk.gated (14 + u)
      = false ∧ (mauget s u).busy = true ∧ (mauget s u).inj = none ∧ (mauget s u).seq = some q ∧ q.entry = some e ∧ (mauget s
      u).c0At + convTicks e.v ≤ s.elapsed ∧ 2 ^ entAvg e.v ≤ e.codes.length + 1) ∧
    (∃ (u : Fin 11) (raw : BitVec 16) (q : Sequence) (e : Entry) (s : State), s.boot.phase ≠ .held ∧ bitOf s.clk.gated (14 + u)
      = false ∧ (mauget s u).busy = true ∧ (mauget s u).inj = none ∧ (mauget s u).calWait = false ∧ (mauget s u).calAt = none ∧
      (mauget s u).seq = some q ∧ q.entry = some e ∧ q.stopping = false ∧ (mauget s u).c0At + convTicks e.v ≤ s.elapsed ∧
      e.issued < 2 ^ entAvg e.v ∧ e.codes.length + 1 < 2 ^ entAvg e.v) ∧
    (∃ (u : Fin 11) (raw : BitVec 16) (q : Sequence) (e : Entry) (s : State), s.boot.phase ≠ .held ∧ bitOf s.clk.gated (14 + u)
      = false ∧ (mauget s u).busy = true ∧ (mauget s u).inj = none ∧ (mauget s u).c1 = none ∧ (mauget s u).seq = some q ∧
      q.entry = some e ∧ q.stopping = true ∧ (mauget s u).c0At + convTicks e.v ≤ s.elapsed ∧ e.codes.length + 1 < 2 ^ entAvg
      e.v) ∧
    (∃ (u : Fin 11) (raw : BitVec 16) (e : Entry) (at_ : Nat) (s : State), s.boot.phase ≠ .held ∧ bitOf s.clk.gated (14 + u) =
      false ∧ (mauget s u).busy = true ∧ (mauget s u).inj = some (e, at_, true) ∧ (mauget s u).c0At + convTicks e.v ≤ s.elapsed
      ∧ 2 ^ entAvg e.v ≤ e.codes.length + 1) ∧
    (∃ (u : Fin 11) (raw : BitVec 16) (q : Sequence) (e : Entry) (b : Nat) (s : State), s.boot.phase ≠ .held ∧ bitOf s.clk.gated
      (14 + u) = false ∧ (mauget s u).c1 = some b ∧ b + 1250 ≤ s.elapsed ∧ (mauget s u).seq = some q ∧ q.entry = some e ∧ 2 ^
      entAvg e.v ≤ e.codes.length + 1) ∧
    (∃ (u : Fin 11) (raw : BitVec 16) (q : Sequence) (e : Entry) (b : Nat) (s : State), s.boot.phase ≠ .held ∧ bitOf s.clk.gated
      (14 + u) = false ∧ (mauget s u).c1 = some b ∧ b + 1250 ≤ s.elapsed ∧ (mauget s u).seq = some q ∧ q.entry = some e ∧ entIl
      e.v = true ∧ q.yield = false ∧ q.stopping = false ∧ (mauget s u).inj = none ∧ (mauget s u).calWait = false ∧ (mauget s
      u).calAt = none ∧ (mauget s u).busy = true ∧ e.issued < 2 ^ entAvg e.v ∧ e.codes.length + 1 < 2 ^ entAvg e.v) ∧
    (∃ (u : Fin 11) (raw : BitVec 16) (e : Entry) (s : State), s.boot.phase ≠ .held ∧ bitOf s.clk.gated (14 + u) = false ∧
      (mauget s u).c1 = none ∧ protDue s u = true ∧ u.val < 8 ∧ e = protEntry s u ∧ (mauget s u).c1Free + convTicks e.v ≤
      s.elapsed ∧ protFrom s u + convTicks e.v ≤ s.elapsed) ∧
    (∃ (u : Fin 11) (raw : BitVec 16) (s : State), (mauget s u).busy = false) ∧
    (∃ (u : Fin 11) (ofs : List Int) (gain : List Nat) (t0 : Nat) (s : State), (mauget s u).calAt = some t0 ∧ (mauget s
      u).calWait = false ∧ t0 + 1800 * usT + (mauget s u).calMore ≤ s.elapsed ∧ bitOf s.clk.gated (14 + u) = false) ∧
    (∃ (u : Fin 11) (ready : Bool) (s : State), bitOf s.clk.gated (14 + u) = false ∧ (rn s .MON_REF_SEL u ≠ 0 ∨ ready = true ∧
      bufferSettled s u = true) ∧ (rn s .MON_REF_SEL u ≠ 1 ∨ ready = false ∨ (mauget s u).refFrom + 100 * usT ≤ s.elapsed)) ∧
    (∃ (u : Fin 11) (ready : Bool) (s : State), rn s .MON_REF_SEL u = 0 ∧ (ready = false ∨ rn s .MON_REFBUF_EN u = 0 ∨ s.elapsed
      < (mauget s u).bufAt.getD s.boot.goodAt + 2 * msT)) ∧
    (∃ (u : Fin 11) (s : State), rn s .MON_REF_SEL u = 1 ∧ s.elapsed < (mauget s u).refFrom + 100 * usT) := by
  refine ⟨⟨0, { start := 0 }, { R with maus := [(0, { seq := some { start := 0 } })], elapsed := 250000000000 }, ?_⟩,
    ⟨0, 5, { start := 0, entry := some { v := 0 } }, { v := 0 }, mau0 0
      { busy := true, seq := some { start := 0, entry := some { v := 0 } } }, ?_⟩,
    ⟨0, 5, { start := 0, entry := some { v := 2 ^ 13 } }, { v := 2 ^ 13 }, mau0 0
      { busy := true, seq := some { start := 0, entry := some { v := 2 ^ 13 } } }, ?_⟩,
    ⟨0, 5, { start := 0, entry := some { v := 2 ^ 13 }, stopping := true }, { v := 2 ^ 13 }, mau0 0
      { busy := true, seq := some { start := 0, entry := some { v := 2 ^ 13 }, stopping := true } }, ?_⟩,
    ⟨0, 5, { v := 0 }, 0, mau0 0 { busy := true, inj := some ({ v := 0 }, 0, true) }, ?_⟩,
    ⟨10, 5, { start := 0, entry := some { v := 0 } }, { v := 0 }, 0, mau0 10
      { c1 := some 0, seq := some { start := 0, entry := some { v := 0 } } }, ?_⟩,
    ⟨10, 5, { start := 0, entry := some { v := 2 ^ 17 + 2 ^ 13 } }, { v := 2 ^ 17 + 2 ^ 13 }, 0, mau0 10
      { busy := true, c1 := some 0, seq := some { start := 0, entry := some { v := 2 ^ 17 + 2 ^ 13 } } }, ?_⟩,
    ⟨0, 5, protEntry { S1 with elapsed := 100000000 } 0, { S1 with elapsed := 100000000 }, ?_⟩,
    ⟨0, 5, R, ?_⟩,
    ⟨0, [], [], 0, { R with maus := [(0, { calAt := some 0 })], elapsed := 4500000 }, ?_⟩,
    ⟨0, true, { st [(.MON_REF_SEL, 0, 0), (.MON_REFBUF_EN, 0, 1)] with elapsed := 5000000 }, ?_⟩,
    ⟨0, false, st [(.MON_REF_SEL, 0, 0)], ?_⟩,
    ⟨0, st [(.MON_REF_SEL, 0, 1)], ?_⟩⟩ <;>
    decide +kernel

theorem witness_QueueWrites :
    (∃ (q : Fin 32768) (wr : Nat) (w : Word) (tags : BitVec 2) (bad : Bool) (s : State), agentQueue q = true ∧ (qget s
      q).discard ≠ some wr ∧ tailHeld (qget s q) wr = false ∧ (qget s q).waiting = [] ∧ qroom s q 1 = true) ∧
    (∃ (q : Fin 32768) (wr : Nat) (w : Word) (tags : BitVec 2) (bad : Bool) (s : State), agentQueue q = true ∧ (qget s
      q).discard ≠ some wr ∧ tailHeld (qget s q) wr = false ∧ (qget s q).waiting = [] ∧ logQueue q = false ∧ qroom s q 1 =
      false) ∧
    (∃ (q : Fin 32768) (wr : Nat) (w : Word) (tags : BitVec 2) (bad : Bool) (s : State), agentQueue q = true ∧ (qget s
      q).discard ≠ some wr ∧ tailHeld (qget s q) wr = true) ∧
    (∃ (q : Fin 32768) (wr : Nat) (w : Word) (tags : BitVec 2) (bad : Bool) (s : State), agentQueue q = true ∧ (qget s
      q).discard = some wr ∧ (qget s q).waiting = []) ∧
    (∃ (q : Fin 32768) (wr : Nat) (w : QWord) (counted : Bool) (ws : List (Nat × QWord × Bool)) (s : State), (qget s q).waiting
      = (wr, w, counted) :: ws ∧ tailHeld (qget s q) wr = false ∧ (qget s q).discard ≠ some wr ∧ qroom s q 1 = true) ∧
    (∃ (q : Fin 32768) (wr : Nat) (w : QWord) (counted : Bool) (ws : List (Nat × QWord × Bool)) (s : State), (qget s q).waiting
      = (wr, w, counted) :: ws ∧ tailHeld (qget s q) wr = false ∧ (qget s q).discard ≠ some wr ∧ logQueue q = false ∧ qroom s q
      1 = false) ∧
    (∃ (q : Fin 32768) (s : State), (qget s q).waiting = []) ∧
    (∃ (q : Fin 32768) (wr : Nat) (w : Word) (tags : BitVec 2) (bad link : Bool) (s : State) (c : Instr), c ∈ [Instr.queueWrite
      q wr w tags bad, .queueRead q bad link, .queueDrop q, .queueFlush q] ∧ agentQueue q = false) := by
  refine ⟨⟨0, 1, 5, 1, false, R, ?_⟩,
    ⟨0, 1, 5, 1, false, st [(.QUE_LIMIT, 0, 0)], ?_⟩,
    ⟨0, 1, 5, 1, false, { R with queues := [(0, { owner := some 2 })] }, ?_⟩,
    ⟨0, 1, 5, 1, false, { R with queues := [(0, { discard := some 1 })] }, ?_⟩,
    ⟨0, 1, { data := 5 }, false, [], { R with queues := [(0, { waiting := [(1, { data := 5 }, false)] })] }, ?_⟩,
    ⟨0, 1, { data := 5 }, false, [],
      { st [(.QUE_LIMIT, 0, 0)] with queues := [(0, { waiting := [(1, { data := 5 }, false)] })] }, ?_⟩,
    ⟨32767, R, ?_⟩,
    ⟨1, 1, 5, 1, false, false, R, .queueDrop 1, ?_⟩⟩ <;>
    decide +kernel

theorem witness_QueueReads :
    (∃ (q : Fin 32768) (w : QWord) (ws : List QWord) (bad : Bool) (s : State), agentQueue q = true ∧ (qget s q).words = w :: ws
      ∧ wholePackets (qget s q) ≠ 0 ∧ (qget s q).cut = false ∧ (qget s q).dead = []) ∧
    (∃ (q : Fin 32768) (bad brokenLink : Bool) (s : State), agentQueue q = true ∧ wholePackets (qget s q) = 0 ∧ (qget s q).cut =
      false) ∧
    (∃ (q : Fin 32768) (bad brokenLink : Bool) (s : State), agentQueue q = true ∧ (qget s q).cut = true) ∧
    (∃ (q : Fin 32768) (bad link : Bool) (s : State), agentQueue q = true ∧ wholePackets (qget s q) ≠ 0 ∧ (qget s q).cut = false
      ∧ (qget s q).head = 0 ∧ (qget s q).first ≠ 0 ∧ (link = true ∨ (qget s q).first - 1 ∈ (qget s q).dead)) ∧
    (∃ (q : Fin 32768) (s : State), agentQueue q = true ∧ wholePackets (qget s q) ≠ 0 ∧ (qget s q).dead = []) ∧
    (∃ (q : Fin 32768) (s : State), agentQueue q = true ∧ wholePackets (qget s q) = 0) ∧
    (∃ (q : Fin 32768) (s : State), agentQueue q = true) := by
  refine ⟨⟨0, { data := 5, fin := true }, [], false, one 0 R, ?_⟩,
    ⟨0, false, false, R, ?_⟩,
    ⟨0, false, false, { R with queues := [(0, { cut := true })] }, ?_⟩,
    ⟨0, false, true, { R with queues := [(0, { words := [{ data := 5, fin := true }], first := 1 })] }, ?_⟩,
    ⟨0x2000, one 0x2000 R, ?_⟩,
    ⟨0, R, ?_⟩,
    ⟨0x1000, R, ?_⟩⟩ <;>
    decide +kernel

theorem witness_OtherOpcodes :
    (∃ (e : EngNo) (w0 : Word) (rest : List QWord) (s : State), AtPacket e [w0] rest s ∧ schedOp w0 = 0x00 ∧ fld w0 55 0 = 0) ∧
    (∃ (e : EngNo) (w0 : Word) (rest : List QWord) (s : State), AtPacket e [w0] rest s ∧ schedOp w0 = 0x21 ∧ fld w0 55 0 = 0) ∧
    (∃ (e : EngNo) (w0 : Word) (rest : List QWord) (s : State), AtPacket e [w0] rest s ∧ schedOp w0 = 0x20 ∧ fld w0 55 40 = 0 ∧
      fld w0 31 0 = 0) ∧
    (∃ (e : EngNo) (w0 : Word) (rest : List QWord) (f : Nat) (s : State), AtPacket e [w0] rest s ∧ schedOp w0 = 0x11 ∧ schedKind
      0x11 (e.val % 8) = true ∧ schedReserved 0x11 w0 = false ∧ emitFifo e (eget s e) w0 = some f ∧ fifoRoom (fget s f) = true)
      ∧
    (∃ (e : EngNo) (w : QWord) (ws : List QWord) (o : Nat × Nat) (s : State), (eget s e).state = .run ∧ (eget s e).gather = none
      ∧ (eget s e).micro.at_ = none ∧ nextPacket s e = some (w :: ws) ∧ schedOp w.data = 0x00 ∧ overrideOf s (e.val % 8) 0x00 =
      some o ∧ bitOf o.1 12 = true ∧ (patchOf s (e.val % 8)).words.length ≤ nfld o.1 11 0 ∧ inRun s = true ∧ s.run.aborted =
      false) := by
  refine ⟨⟨0, 0, [], pk 0 [0] [], ?_⟩,
    ⟨0, word (0x21 * 2 ^ 56), [], pk 0 [word (0x21 * 2 ^ 56)] [], ?_⟩,
    ⟨0, word (0x20 * 2 ^ 56), [], pk 0 [word (0x20 * 2 ^ 56)] [], ?_⟩,
    ⟨0, word (0x11 * 2 ^ 56), [], 0, pk 0 [word (0x11 * 2 ^ 56)] [], ?_⟩,
    ⟨0, { data := 0, fin := true }, [], (2 ^ 31 + 2 ^ 12, 0),
      { pk 0 [0] [] with patches := [(0, { overrides := [2 ^ 31 + 2 ^ 12] })], regs := (st [(.PKG_RUN_STATE, 0, 1)]).regs },
      ?_⟩⟩ <;>
    repeat' first | decide +kernel | rfl | constructor

theorem witness_LoopAndAlt :
    (∃ (e : EngNo) (w0 : Word) (ps : List (List Word)) (rest : List QWord) (s : State), AtPacket e [w0] (cleanPackets ps ++
      rest) s ∧ schedOp w0 = 0x28 ∧ InSection e ps s ∧ ps.flatten.length = fld w0 55 48 ∧ loopLegal w0 ps.flatten = true) ∧
    (∃ (e : EngNo) (w0 : Word) (ws : List Word) (ps : List (List Word)) (rest : List QWord) (s : State), Gathers e 0x28 w0 ws ps
      rest s ∧ ws.length + ps.flatten.length = fld w0 55 48 ∧ loopLegal w0 (ws ++ ps.flatten) = true) ∧
    (∃ (e : EngNo) (w0 : Word) (ps : List (List Word)) (rest : List QWord) (s : State), AtPacket e [w0] (cleanPackets ps ++
      rest) s ∧ schedOp w0 = 0x28 ∧ InSection e ps s ∧ ps.flatten.length = fld w0 55 48 ∧ loopLegal w0 ps.flatten = false) ∧
    (∃ (e : EngNo) (w0 : Word) (rest : List QWord) (s : State), AtPacket e [w0] rest s ∧ schedOp w0 = 0x28 ∧ rest.any (·.fin) =
      false ∧ InSection e [[0]] s ∧ fld w0 55 48 ≠ 0) ∧
    (∃ (e : EngNo) (w0 : Word) (ps : List (List Word)) (rest : List QWord) (f : Nat) (s : State), AtPacket e [w0] (cleanPackets
      ps ++ rest) s ∧ schedOp w0 = 0x10 ∧ InSection e ps s ∧ ItemLegal e w0 ps f s) ∧
    (∃ (e : EngNo) (w0 : Word) (qs ps : List (List Word)) (rest : List QWord) (f : Nat) (s : State), Gathers e 0x10 w0
      qs.flatten ps rest s ∧ ItemLegal e w0 (qs ++ ps) f s) ∧
    (∃ (e : EngNo) (w0 : Word) (l : Loop) (ps : List (List Word)) (tail : List Word) (f : Nat) (s : State), (eget s e).state =
      .run ∧ (eget s e).gather = none ∧ (eget s e).micro.at_ = none ∧ (eget s e).out = [] ∧ reached s (e.val % 8) 0x10 = false ∧
      (eget s e).loop = some l ∧ l.rest = w0 :: ps.flatten ++ tail ∧ schedOp w0 = 0x10 ∧ ItemLegal e w0 ps f s) ∧
    (∃ (e : EngNo) (w0 w1 : Word) (rest : List QWord) (s : State), AtPacket e [w0] (cleanPackets [[w1]] ++ rest) s ∧ schedOp w0
      = 0x10 ∧ schedKind 0x10 (e.val % 8) = true ∧ schedOp w1 = 0x00) ∧
    (∃ (e : EngNo) (w0 : Word) (rest : List QWord) (s : State), AtPacket e [w0] rest s ∧ schedOp w0 = 0x10 ∧ schedKind 0x10
      (e.val % 8) = true ∧ rest.any (·.fin) = false ∧ InSection e [[0]] s ∧ fld w0 47 44 ≠ 0) := by
  refine ⟨⟨0, LP, [[0]], [], sect 2 (pk 0 [LP] [{ data := 0, fin := true }]), ?_⟩,
    ⟨0, LP + word (2 ^ 48), [0], [[0]], [], gathers 0x28 (LP + word (2 ^ 48)) [0] [{ data := 0, fin := true }], ?_⟩,
    ⟨0, word (0x28 * 2 ^ 56 + 2 ^ 48), [[0]], [], sect 2 (pk 0 [word (0x28 * 2 ^ 56 + 2 ^ 48)] [{ data := 0, fin := true }]),
      ?_⟩,
    ⟨0, LP, [], sect 2 (pk 0 [LP] []), ?_⟩,
    ⟨0, AW, [[HW]], [], 0, sect 2 (pk 0 [AW] [{ data := HW, fin := true }]), ?_⟩,
    ⟨0, AW + word (2 ^ 44), [[HW]], [[HW]], [], 0, gathers 0x10 (AW + word (2 ^ 44)) [HW] [{ data := HW, fin := true }], ?_⟩,
    ⟨0, AW, { body := [AW, HW], count := 2, stride := 0, pass := 0, rest := [AW, HW] }, [[HW]], [], 0,
      { R with engs := [(0, { state := .run, len := 1000, loop := some { body := [AW, HW], count := 2, stride := 0, pass := 0, rest := [AW, HW] } })] },
      ?_⟩,
    ⟨0, AW, 0, [], pk 0 [AW] [{ data := 0, fin := true }], ?_⟩,
    ⟨0, AW, [], sect 2 (pk 0 [AW] []), ?_⟩⟩ <;>
    repeat' first | decide +kernel | rfl | constructor

theorem witness_SchedulePath :
    (∃ (e : EngNo) (s : State), inRun s = true ∧ (aget s e).exist = true ∧ (aget s e).resident = false ∧ (aget s e).fetched <
      (aget s e).len ∧ (aget s e).words.length + 512 ≤ 8192 ∧ dramWaits s ((aget s e).base + 8 * (aget s e).fetched) (8 * min
      512 ((aget s e).len - (aget s e).fetched)) = false) ∧
    (∃ (e : EngNo) (s : State), dramWaits s ((aget s e).base + 8 * (aget s e).fetched) (8 * min 512 ((aget s e).len - (aget s
      e).fetched)) = true) ∧
    (∃ (e : EngNo) (w : Word × Bool) (ws : List (Word × Bool)) (s : State), inRun s = true ∧ (aget s e).exist = true ∧
      s.run.aborted = false ∧ (qget s (32 * e)).words.length < 256 ∧ (qget s (32 * e)).waiting = [] ∧ (aget s e).resident =
      false ∧ (aget s e).words = w :: ws ∧ packetLen (schedOp w.1) = 1 ∧ (aget s e).given < (aget s e).len ∧ (qget s (32 *
      e)).discard = none ∧ tailHeld (qget s (32 * e)) 1 = false ∧ qroom s (32 * e) 1 = true) ∧
    (∃ (e : EngNo) (w v : Word × Bool) (ws : List (Word × Bool)) (s : State), inRun s = true ∧ (aget s e).exist = true ∧
      s.run.aborted = false ∧ (qget s (32 * e)).words.length < 256 ∧ (qget s (32 * e)).waiting = [] ∧ areaLeft (aget s e) = w ::
      v :: ws ∧ packetLen (schedOp w.1) = 2 ∧ (aget s e).given + 2 ≤ (aget s e).len ∧ (qget s (32 * e)).discard = none ∧
      tailHeld (qget s (32 * e)) 1 = false ∧ (qget s (32 * e)).openLen = 0 ∧ qroom s (32 * e) 1 = true ∧ qroom s (32 * e) 2 =
      true) ∧
    (∃ (e : EngNo) (s : State), inRun s = true ∧ (aget s e).exist = true ∧ s.run.aborted = false ∧ (qget s (32 *
      e)).words.length < 256 ∧ (qget s (32 * e)).waiting = [] ∧ (aget s e).given = (aget s e).len ∧ (aget s e).ended = false) ∧
    (∃ (e : EngNo) (o : Nat × Word × Word) (s : State), (eget s e).state = .waitFifo ∧ (eget s e).out = [o] ∧ fifoRoom (fget s
      o.1) = true) ∧
    (∃ (e : EngNo) (s : State), (eget s e).state = .waitFifo ∧ (eget s e).out = [] ∧ (∀ f, (eget s e).micro.target = some f →
      fifoRoom (fget s f) = true)) ∧
    (∃ (e : EngNo) (s : State), (eget s e).state ≠ .waitFifo) := by
  refine ⟨⟨0, { runs with areas := [(0, { exist := true, resident := false, len := 1000 })] }, ?_⟩,
    ⟨0, st [(.DRM_STATE, 0, 1)], ?_⟩,
    ⟨0, (0, false), [], { runs with areas := [(0, { exist := true, resident := false, len := 1, words := [(0, false)] })] },
      ?_⟩,
    ⟨0, (word (2 ^ 56), false), (0, false), [],
      { runs with areas := [(0, { exist := true, len := 2, words := [(word (2 ^ 56), false), (0, false)] })] }, ?_⟩,
    ⟨0, { runs with areas := [(0, { exist := true })] }, ?_⟩,
    ⟨0, (0, 0, 0), { R with engs := [(0, { state := .waitFifo, out := [(0, 0, 0)] })] }, ?_⟩,
    ⟨0, { R with engs := [(0, { state := .waitFifo })] }, ?_⟩,
    ⟨0, R, ?_⟩⟩ <;>
    repeat' first | decide +kernel | rfl | exact noneAll (by decide +kernel) | constructor

theorem witness_CommandArrival :
    (∃ (f : FifoNo) (c : EdgeIn) (rest : List EdgeIn) (s : State), Arrives f c rest s ∧ (fget s f).unit = [] ∧ headsUnit f c =
      false) ∧
    (∃ (f : FifoNo) (c : EdgeIn) (rest : List EdgeIn) (s : State), Arrives f c rest s ∧ (fget s f).unit = [] ∧ headsUnit f c =
      false ∧ fifoActive s f = true ∧ formOk s f c (releaseNow s c.w0) = true ∧ validity (releaseDiff c.w0 s.tml) = .valid ∧ (∀
      l, (fget s f).last = some l → precedes (orderInstant f c.w0 (releaseNow s c.w0)) l = false ∧ (l.1 = releaseNow s c.w0 →
      (fget s f).same < 4)) ∧ (fget s f).notes = []) ∧
    (∃ (f : FifoNo) (c : EdgeIn) (rest : List EdgeIn) (l : Nat × Nat) (s : State), Arrives f c rest s ∧ (fget s f).unit = [] ∧
      headsUnit f c = false ∧ fifoActive s f = true ∧ formOk s f c (releaseNow s c.w0) = true ∧ validity (releaseDiff c.w0
      s.tml) = .valid ∧ (fget s f).last = some l ∧ precedes (orderInstant f c.w0 (releaseNow s c.w0)) l = true) ∧
    (∃ (f : FifoNo) (c : EdgeIn) (rest : List EdgeIn) (l : Nat × Nat) (s : State), Arrives f c rest s ∧ (fget s f).unit = [] ∧
      headsUnit f c = false ∧ fifoActive s f = true ∧ formOk s f c (releaseNow s c.w0) = true ∧ validity (releaseDiff c.w0
      s.tml) = .valid ∧ (fget s f).last = some l ∧ precedes (orderInstant f c.w0 (releaseNow s c.w0)) l = false ∧ l.1 =
      releaseNow s c.w0 ∧ 4 ≤ (fget s f).same) ∧
    (∃ (f : FifoNo) (c : EdgeIn) (rest : List EdgeIn) (s : State), Arrives f c rest s ∧ (fget s f).unit = [] ∧ headsUnit f c =
      false ∧ fifoActive s f = true ∧ formOk s f c (releaseNow s c.w0) = true ∧ validity (releaseDiff c.w0 s.tml) = .late) ∧
    (∃ (f : FifoNo) (c : EdgeIn) (rest : List EdgeIn) (s : State), Arrives f c rest s ∧ (fget s f).unit = [] ∧ headsUnit f c =
      false ∧ fifoActive s f = true ∧ (c.words ≠ 2 ∨ edgeAccepts (fifoKind f) (edgeOp c.w0) = false ∨ fld c.w0 12 8 ≠ 0)) ∧
    (∃ (f : FifoNo) (c : EdgeIn) (rest : List EdgeIn) (s : State), Arrives f c rest s ∧ (fget s f).unit = [] ∧ headsUnit f c =
      false ∧ fifoActive s f = false) ∧
    (∃ (f : FifoNo) (c : EdgeIn) (rest : List EdgeIn) (s : State), Arrives f c rest s ∧ (fget s f).unit = [] ∧ edgeOp c.w0 =
      0x0A ∧ c.words = 2 ∧ edgeAccepts (fifoKind f) 0x0A = true ∧ 1 ≤ fld c.w1 19 16 ∧ fld c.w1 19 16 ≤ 8) ∧
    (∃ (f : FifoNo) (c h : EdgeIn) (rest ms : List EdgeIn) (s : State), Arrives f c rest s ∧ (fget s f).unit = h :: ms) ∧
    (∃ (f : FifoNo) (c : EdgeIn) (rest : List EdgeIn) (s : State), (fget s f).incoming = c :: rest ∧ regionHalted s (cluRgn
      (fifoClu f)) = true) ∧
    (∃ (f : FifoNo) (s : State), (fget s f).incoming = []) ∧
    (∃ (f : FifoNo) (c : EdgeIn) (rest : List EdgeIn) (s : State), (fget s f).incoming = c :: rest ∧ regionHalted s (cluRgn
      (fifoClu f)) = false ∧ s.run.aborted = true) ∧
    (∃ (f : FifoNo) (c : EdgeIn) (rest : List EdgeIn) (s : State), (fget s f).incoming = c :: rest ∧ regionHalted s (cluRgn
      (fifoClu f)) = false ∧ s.run.aborted = false ∧ clockDiscard s f c.w0 = true) := by
  refine ⟨⟨0, { w0 := 4, w1 := 0 }, [], arr 0 { w0 := 4, w1 := 0 } K, ?_⟩,
    ⟨0, { w0 := word (2 ^ 21 + 4), w1 := 0 }, [], arr 0 { w0 := word (2 ^ 21 + 4), w1 := 0 } K, ?_⟩,
    ⟨0, { w0 := word (2 ^ 21 + 4), w1 := 0 }, [], (64, 0),
      { K with fifos := [(0, { incoming := [{ w0 := word (2 ^ 21 + 4), w1 := 0 }], last := some (64, 0) })] }, ?_⟩,
    ⟨0, { w0 := word (2 ^ 21 + 4), w1 := 0 }, [], (32, 0),
      { K with fifos := [(0, { incoming := [{ w0 := word (2 ^ 21 + 4), w1 := 0 }], last := some (32, 0), same := 4 })] }, ?_⟩,
    ⟨0, { w0 := 4, w1 := 0 }, [], arr 0 { w0 := 4, w1 := 0 } K, ?_⟩,
    ⟨0, { w0 := 4, w1 := 0, words := 3 }, [], arr 0 { w0 := 4, w1 := 0, words := 3 } K, ?_⟩,
    ⟨4, { w0 := 4, w1 := 0 }, [], arr 4 { w0 := 4, w1 := 0 } (st [(.CLK_MON_STATE, 5, 2), (.RGN_PROFILE, 0, 1)]), ?_⟩,
    ⟨0, { w0 := 0x0A, w1 := word (2 ^ 16) }, [], arr 0 { w0 := 0x0A, w1 := word (2 ^ 16) } K, ?_⟩,
    ⟨0, { w0 := 4, w1 := 0 }, { w0 := 4, w1 := 0 }, [], [],
      { K with fifos := [(0, { incoming := [{ w0 := 4, w1 := 0 }], unit := [{ w0 := 4, w1 := 0 }] })] }, ?_⟩,
    ⟨0, { w0 := 4, w1 := 0 }, [], { arr 0 { w0 := 4, w1 := 0 } R with regions := [(0, { halts := [(0, 0, 0)] })] }, ?_⟩,
    ⟨0, R, ?_⟩,
    ⟨0, { w0 := 4, w1 := 0 }, [], { arr 0 { w0 := 4, w1 := 0 } R with run := { aborted := true } }, ?_⟩,
    ⟨0, { w0 := 4, w1 := 0 }, [], arr 0 { w0 := 4, w1 := 0 } runs, ?_⟩⟩ <;>
    repeat' first | decide +kernel | rfl | exact noneAll (by decide +kernel) | constructor

theorem witness_EdgeFifoReads :
    (∃ (f : FifoNo) (c : EdgeCmd) (rest : List EdgeCmd) (s : State), (fget s f).cmds = c :: rest ∧ fifoClockOk s f = true ∧
      c.release ≤ s.tml + 32 ∧ c.psn0 = false ∧ c.psn1 = false ∧ c.unitPsn = [] ∧ (∀ m ∈ c.more, m.2.psn = false)) ∧
    (∃ (f : FifoNo) (c : EdgeCmd) (rest : List EdgeCmd) (bad : BitVec 18) (s : State), (fget s f).cmds = c :: rest ∧ c.psn0 =
      false ∧ bad.getLsbD 0 = false ∧ s.tml + 32 < c.release) ∧
    (∃ (f : FifoNo) (c : EdgeCmd) (rest : List EdgeCmd) (bad : BitVec 18) (s : State), (fget s f).cmds = c :: rest ∧ fifoClockOk
      s f = true ∧ (bad.getLsbD 0 = true ∨ c.psn0 = true ∨ (bad.getLsbD 1 = true ∨ c.psn1 = true ∨ ∃ m ∈ c.more, m.1 = 0 ∧
      m.2.psn = true) ∧ c.release ≤ s.tml + 32)) ∧
    (∃ (f : FifoNo) (c : EdgeCmd) (m : Word × Word × Nat) (ms : List (Word × Word × Nat)) (rest : List EdgeCmd) (s : State),
      (fget s f).cmds = c :: rest ∧ fifoClockOk s f = true ∧ c.ok = true ∧ c.release ≤ s.tml + 32 ∧ c.psn0 = false ∧ c.psn1 =
      false ∧ c.unitPsn = [] ∧ (∀ m ∈ c.more, m.2.psn = false) ∧ c.unit = m :: ms) ∧
    (∃ (f : FifoNo) (c : EdgeCmd) (rest : List EdgeCmd) (s : State), Due f 0x0A c rest s) ∧
    (∃ (f : FifoNo) (c : EdgeCmd) (rest : List EdgeCmd) (s : State), Due f 0x0B c rest s) ∧
    (∃ (f : FifoNo) (c : EdgeCmd) (rest : List EdgeCmd) (u : Staged) (s : State), Due f 0x0B c rest s ∧ u ∈ (fget s f).store ∧
      u.slot = fld c.w1 3 0 ∧ u.alt = (registerChoice s (fifoClu f) u.slot c.release).getD (fld c.w1 9 8) ∧ stagedEarly
      c.release u = false) ∧
    (∃ (f : FifoNo) (c : EdgeCmd) (rest : List EdgeCmd) (s : State), Due f 0x0B c rest s ∧ (fld c.w1 3 0, c.release) ∉ (brget s
      (fifoClu f)).done ∧ registerChoice s (fifoClu f) (fld c.w1 3 0) c.release = none) := by
  refine ⟨⟨0, { w0 := 4, w1 := 0, release := 32 }, [], held 0 { w0 := 4, w1 := 0, release := 32 } K, ?_⟩,
    ⟨0, { w0 := 4, w1 := 0, release := 33 }, [], 2, held 0 { w0 := 4, w1 := 0, release := 33 } K, ?_⟩,
    ⟨0, { w0 := 4, w1 := 0, release := 33 }, [], 1, held 0 { w0 := 4, w1 := 0, release := 33 } K, ?_⟩,
    ⟨0, { w0 := 0x0A, w1 := word (2 ^ 16), release := 32, unit := [(4, 0, 32)] }, (4, 0, 32), [], [], held 0
      { w0 := 0x0A, w1 := word (2 ^ 16), release := 32, unit := [(4, 0, 32)] } K, ?_⟩,
    ⟨0, { w0 := 0x0A, w1 := 0, release := 0 }, [], edge 0 { w0 := 0x0A, w1 := 0, release := 0 } K, ?_⟩,
    ⟨0, { w0 := 0x0B, w1 := 0, release := 0 }, [], edge 0 { w0 := 0x0B, w1 := 0, release := 0 } K, ?_⟩,
    ⟨0, { w0 := 0x0B, w1 := 0, release := 0 }, [], { slot := 0, alt := 0, release := 0, cmds := [] },
      { K with fifos := [(0, { path := [{ w0 := 0x0B, w1 := 0, release := 0 }], store := [{ slot := 0, alt := 0, release := 0, cmds := [] }] })] },
      ?_⟩,
    ⟨0, { w0 := 0x0B, w1 := 0, release := 0 }, [], edge 0 { w0 := 0x0B, w1 := 0, release := 0 } K, ?_⟩⟩ <;>
    repeat' first | decide +kernel | rfl | constructor

theorem witness_ReleasedCommands :
    (∃ (f : FifoNo) (c : EdgeCmd) (rest : List EdgeCmd) (s : State), Due f 0x04 c rest s) ∧
    (∃ (f : FifoNo) (c : EdgeCmd) (rest : List EdgeCmd) (s : State), Due f 0x05 c rest s) ∧
    (∃ (f : FifoNo) (c : EdgeCmd) (rest : List EdgeCmd) (s : State), Due f 0x06 c rest s ∧ rn s .FLX_ZERO_CAUSE (fluxOf f) = 0)
      ∧
    (∃ (f : FifoNo) (c : EdgeCmd) (rest : List EdgeCmd) (s : State), Due f 0x06 c rest s ∧ fifoKind f = .flux ∧ rn s
      .FLX_ZERO_CAUSE (fluxOf f) ≠ 0) ∧
    (∃ (f : FifoNo) (c : EdgeCmd) (rest : List EdgeCmd) (s : State), Due f 0x07 c rest s ∧ (biaget s (f - 1152)).mode ≠ .fault)
      ∧
    (∃ (f : FifoNo) (c : EdgeCmd) (rest : List EdgeCmd) (s : State), Due f 0x07 c rest s ∧ (biaget s (f - 1152)).mode = .fault)
      ∧
    (∃ (f : FifoNo) (c : EdgeCmd) (rest : List EdgeCmd) (s : State), Due f 0x03 c rest s ∧ fifoKind f ≠ .bias) ∧
    (∃ (f : FifoNo) (c : EdgeCmd) (rest : List EdgeCmd) (s : State), Due f 0x03 c rest s ∧ fifoKind f = .bias) := by
  refine ⟨⟨0, { w0 := 4, w1 := 0, release := 0 }, [], edge 0 { w0 := 4, w1 := 0, release := 0 } K, ?_⟩,
    ⟨0, { w0 := 5, w1 := 0, release := 0 }, [], edge 0 { w0 := 5, w1 := 0, release := 0 } K, ?_⟩,
    ⟨1024, { w0 := 6, w1 := 0, release := 0 }, [], edge 1024 { w0 := 6, w1 := 0, release := 0 } (st [(.CLK_MON_STATE, 5, 2),
      (.FLX_ZERO_CAUSE, 0, 0)]), ?_⟩,
    ⟨1024, { w0 := 6, w1 := 0, release := 0 }, [], edge 1024 { w0 := 6, w1 := 0, release := 0 } (st [(.CLK_MON_STATE, 5, 2),
      (.FLX_ZERO_CAUSE, 0, 1)]), ?_⟩,
    ⟨1152, { w0 := 7, w1 := 0, release := 0 }, [], edge 1152 { w0 := 7, w1 := 0, release := 0 }
      ({ R with bdQual := 1, biases := [(0, { mode := .run })] }), ?_⟩,
    ⟨1152, { w0 := 7, w1 := 0, release := 0 }, [], edge 1152 { w0 := 7, w1 := 0, release := 0 }
      ({ R with bdQual := 1, biases := [(0, { mode := .fault })] }), ?_⟩,
    ⟨0, { w0 := 3, w1 := 0, release := 0 }, [], edge 0 { w0 := 3, w1 := 0, release := 0 } K, ?_⟩,
    ⟨1152, { w0 := 3, w1 := 0, release := 0 }, [], edge 1152 { w0 := 3, w1 := 0, release := 0 } { R with bdQual := 1 }, ?_⟩⟩ <;>
    repeat' first | decide +kernel | rfl | constructor

theorem witness_PlayJumpMark :
    (∃ (f : FifoNo) (c : EdgeCmd) (rest : List EdgeCmd) (s : State), Due f 0x01 c rest s ∧ zeroed s f = false ∧ ReadsGood f s ∧
      (sget s (fifoClu f) (fld c.w1 63 52)).ready = true ∧ firstBad s (fifoClu f) (sget s (fifoClu f) (fld c.w1 63 52)).start
      (sget s (fifoClu f) (fld c.w1 63 52)).len = none) ∧
    (∃ (f : FifoNo) (c : EdgeCmd) (rest : List EdgeCmd) (s : State), Due f 0x01 c rest s ∧ zeroed s f = false ∧ ReadsGood f s ∧
      (sget s (fifoClu f) (fld c.w1 63 52)).ready = false ∧ f.val < 1024) ∧
    (∃ (f : FifoNo) (c : EdgeCmd) (rest : List EdgeCmd) (p : Play) (s : State), Due f 0x02 c rest s ∧ (slget s f).play = some p
      ∧ ReadsGood f s ∧ p.cut = false) ∧
    (∃ (f : FifoNo) (c : EdgeCmd) (rest : List EdgeCmd) (s : State), Due f 0x02 c rest s ∧ (slget s f).play = none ∧ f.val <
      1024) ∧
    (∃ (f : FifoNo) (c : EdgeCmd) (rest : List EdgeCmd) (s : State), Due f 0x09 c rest s ∧ (∀ h ∈ markHeads s (fifoClu f), h.2 =
      f ∨ instantOf f c < h.1 ∨ (instantOf f c = h.1 ∧ f ≤ h.2))) := by
  refine ⟨⟨0, { w0 := 1, w1 := 0, release := 0 }, [], edge 0 { w0 := 1, w1 := 0, release := 0 }
    { K with segs := [(0, { ready := true, len := 4 })] }, ?_⟩,
    ⟨0, { w0 := 1, w1 := 0, release := 0 }, [], edge 0 { w0 := 1, w1 := 0, release := 0 } K, ?_⟩,
    ⟨0, { w0 := 2, w1 := 0, release := 0 }, [], P, edge 0 { w0 := 2, w1 := 0, release := 0 }
      { K with slices := [(0, { play := some P })] }, ?_⟩,
    ⟨0, { w0 := 2, w1 := 0, release := 0 }, [], edge 0 { w0 := 2, w1 := 0, release := 0 } K, ?_⟩,
    ⟨0, { w0 := 9, w1 := 0, release := 0 }, [], edge 0 { w0 := 9, w1 := 0, release := 0 } K, ?_⟩⟩ <;>
    repeat' first | decide +kernel | rfl | exact readsGood (by decide +kernel) | constructor

theorem witness_PlaybackProgress :
    (∃ (f : FifoNo) (p : Play) (s : State), (slget s f).play = some p ∧ ReadsGood f s ∧ p.sampled = false ∧ p.cut = false ∧
      samplingPoint p ≤ 8 * s.tml + 7 ∧ fifoClockOk s f = true) ∧
    (∃ (f : FifoNo) (p : Play) (s : State), (slget s f).play = some p ∧ p.sampled = true ∧ p.taken = none ∧ p.left = some 0 ∧
      p.start + 8 * p.len ≤ 8 * s.tml + 7 ∧ fifoClockOk s f = true) ∧
    (∃ (f : FifoNo) (p : Play) (seg : Nat) (s : State), (slget s f).play = some p ∧ ReadsGood f s ∧ p.sampled = true ∧ p.taken =
      some seg ∧ p.start + 8 * p.len ≤ 8 * s.tml + 7 ∧ fifoClockOk s f = true ∧ (sget s (fifoClu f) seg).ready = true ∧ firstBad
      s (fifoClu f) (sget s (fifoClu f) seg).start (sget s (fifoClu f) seg).len = none) ∧
    (∃ (f : FifoNo) (p : Play) (k : Nat) (s : State), (slget s f).play = some p ∧ p.cut = false ∧ p.taken = none ∧ nextBad s
      (fifoClu f) p = some k ∧ k < p.len ∧ p.start + 8 * p.len ≤ 8 * s.tml + 7 ∧ fifoClockOk s f = true) ∧
    (∃ (f : FifoNo) (p : Play) (n : Nat) (s : State), (slget s f).play = some p ∧ ReadsGood f s ∧ p.sampled = true ∧ p.taken =
      none ∧ p.left = some (n + 1) ∧ p.start + 8 * p.len ≤ 8 * s.tml + 7 ∧ fifoClockOk s f = true ∧ firstBad s (fifoClu f) (sget
      s (fifoClu f) p.seg).start (sget s (fifoClu f) p.seg).len = none) ∧
    (∃ (f : FifoNo) (p : Play) (s : State), (slget s f).play = some p ∧ 8 * s.tml + 7 < p.start + 8 * p.len) ∧
    (∃ (f : FifoNo) (bad : Option Nat) (s : State), fifoClockOk s f = false) ∧
    (∃ (c : CluNo) (e : Nat) (s : State), (mkget s c).pulseEnd = some e ∧ e ≤ 8 * s.tml + 7) := by
  refine ⟨⟨0, P, { K with slices := [(0, { play := some P })] }, ?_⟩,
    ⟨0, { P with sampled := true, left := some 0 },
      { K with slices := [(0, { play := some { P with sampled := true, left := some 0 } })], tml := 1 }, ?_⟩,
    ⟨0, { P with sampled := true, taken := some 0 }, 0,
      { K with slices := [(0, { play := some { P with sampled := true, taken := some 0 } })], tml := 1, segs := [(0, { ready := true, len := 4 })] },
      ?_⟩,
    ⟨0, { P with badAt := some 0 }, 0, { K with slices := [(0, { play := some { P with badAt := some 0 } })], tml := 1 }, ?_⟩,
    ⟨0, { P with sampled := true, left := some 1 }, 0,
      { K with slices := [(0, { play := some { P with sampled := true, left := some 1 } })], tml := 1 }, ?_⟩,
    ⟨0, P, { R with slices := [(0, { play := some P })] }, ?_⟩,
    ⟨0, none, R, ?_⟩,
    ⟨0, 7, { R with markers := [(0, { pulseEnd := some 7 })] }, ?_⟩⟩ <;>
    repeat' first | decide +kernel | rfl | exact readsGood (by decide +kernel) | constructor

theorem witness_VerdictsAndArmings :
    (∃ (e : EngNo) (w0 : Word) (rest : List QWord) (s : State), AtPacket e [w0] rest s ∧ schedOp w0 = 0x30 ∧ e.val % 8 = 7 ∧ fld
      w0 55 48 = 0 ∧ fld w0 31 0 < (eget s e).len ∧ (∀ a ∈ (brget s (e.val / 8)).arms, a.slot = fld w0 35 32 → a.d ≤ s.tml) ∧
      (rsget s (eget s e).shot).closed = false) ∧
    (∃ (e : EngNo) (w0 : Word) (rest : List QWord) (s : State), AtPacket e [w0] rest s ∧ schedOp w0 = 0x30 ∧ e.val % 8 = 7 ∧ fld
      w0 55 48 = 0 ∧ ((eget s e).len ≤ fld w0 31 0 ∨ (∃ a ∈ (brget s (e.val / 8)).arms, a.slot = fld w0 35 32 ∧ s.tml < a.d))) ∧
    (∃ (d : Fin 4) (m : BitVec 40) (rest : List (BitVec 40)) (s : State), mget [] s.vre.buses d = m :: rest ∧ rn s
      .PKG_SHOT_START ≤ backGrain 16 s.tml (nfld m.toNat 39 24)) ∧
    (∃ (d : Fin 4) (m : BitVec 40) (rest : List (BitVec 40)) (bad : Bool) (s : State), mget [] s.vre.buses d = m :: rest ∧ (bad
      = true ∨ (s.run.opened = true ∧ backGrain 16 s.tml (nfld m.toNat 39 24) < rn s .PKG_SHOT_START))) := by
  refine ⟨⟨7, word (0x30 * 2 ^ 56), [], pk 7 [word (0x30 * 2 ^ 56)] [], ?_⟩,
    ⟨7, word (0x30 * 2 ^ 56 + 1000), [], pk 7 [word (0x30 * 2 ^ 56 + 1000)] [], ?_⟩,
    ⟨0, 0, [], { R with vre := { buses := [(0, [0])] } }, ?_⟩,
    ⟨0, 0, [], true, { R with vre := { buses := [(0, [0])] } }, ?_⟩⟩ <;>
    repeat' first | decide +kernel | rfl | constructor

theorem witness_ChoicesAndDeadlines :
    (∃ (c : CluNo) (slot : Fin 16) (a : Arming) (v : Nat) (s : State), (brget s c).arms.find? (fun x => decide (x.slot =
      slot.val)) = some a ∧ a.closed = false ∧ a.decided = false ∧ breParked s c = false ∧ regionHalted s (cluRgn c) = false ∧
      bitOf (fld a.w0 63 32) 31 = true ∧ bitOf (fld a.w0 31 0) 31 = false ∧ sourceVerdict s c (fld a.w0 63 32) = some v) ∧
    (∃ (c : CluNo) (slot : Fin 16) (a : Arming) (x y : Nat) (s : State), (brget s c).arms.find? (fun x => decide (x.slot =
      slot.val)) = some a ∧ a.closed = false ∧ a.decided = false ∧ breParked s c = false ∧ regionHalted s (cluRgn c) = false ∧
      bitOf (fld a.w0 63 32) 31 = true ∧ bitOf (fld a.w0 31 0) 31 = true ∧ sourceVerdict s c (fld a.w0 63 32) = some x ∧
      sourceVerdict s c (fld a.w0 31 0) = some y) ∧
    (∃ (c : CluNo) (slot : Fin 16) (a : Arming) (bad : BitVec 2) (s : State), (brget s c).arms.find? (fun x => decide (x.slot =
      slot.val)) = some a ∧ a.closed = false ∧ a.decided = false ∧ regionHalted s (cluRgn c) = false ∧ bitOf (fld a.w0 63 32) 31
      = true ∧ (sourceVerdict s c (fld a.w0 63 32) = none ∨ bad.getLsbD 0 = true)) ∧
    (∃ (c : CluNo) (slot : Fin 16) (a : Arming) (s : State), (brget s c).arms.find? (fun x => decide (x.slot = slot.val)) = some
      a ∧ a.closed = false ∧ a.decided = false ∧ breParked s c = false ∧ regionHalted s (cluRgn c) = false ∧ bitOf (fld a.w0 63
      32) 31 = false ∧ bitOf (fld a.w0 31 0) 31 = false) ∧
    (∃ (c : CluNo) (slot : Fin 16) (d : Nat) (alt : Option Nat) (rest : List (Nat × Nat × Option Nat)) (s : State), (brget s
      c).lines = (slot.val, d, alt) :: rest ∧ breParked s c = false ∧ regionHalted s (cluRgn c) = false ∧ s.tml + 24 ≤ d) ∧
    (∃ (c : CluNo) (slot : Fin 16) (d : Nat) (alt : Option Nat) (rest : List (Nat × Nat × Option Nat)) (s : State), (brget s
      c).lines = (slot.val, d, alt) :: rest ∧ breParked s c = false ∧ regionHalted s (cluRgn c) = false ∧ d < s.tml + 24) ∧
    (∃ (c : CluNo) (slot : Fin 16) (a : Arming) (s : State), (brget s c).arms.find? (fun x => decide (x.slot = slot.val)) = some
      a ∧ a.closed = false ∧ a.d ≤ s.tml + 24) ∧
    (∃ (c : CluNo) (slot : Fin 16) (a : Arming) (s : State), (brget s c).arms.find? (fun x => decide (x.slot = slot.val)) = some
      a ∧ (a.closed = true ∨ s.tml + 24 < a.d)) ∧
    (∃ (c : CluNo) (slot : Fin 16) (bad : BitVec 2) (s : State), (breParked s c = true ∨ regionHalted s (cluRgn c) = true)) :=
      by
  refine ⟨⟨0, 0, { A0 with w0 := word (2 ^ 63) }, 1,
    { R with bres := [(0, { arms := [{ A0 with w0 := word (2 ^ 63) }] })], board := [(sourceCell 0 (2 ^ 31), { cur := some (0, 1) })] },
    ?_⟩,
    ⟨0, 0, { A0 with w0 := word (2 ^ 63 + 2 ^ 31) }, 1, 1,
      { R with bres := [(0, { arms := [{ A0 with w0 := word (2 ^ 63 + 2 ^ 31) }] })], board := [(sourceCell 0 (2 ^ 31), { cur := some (0, 1) })] },
      ?_⟩,
    ⟨0, 0, { A0 with w0 := word (2 ^ 63) }, 0, { R with bres := [(0, { arms := [{ A0 with w0 := word (2 ^ 63) }] })] }, ?_⟩,
    ⟨0, 0, A0, { R with bres := [(0, { arms := [A0] })] }, ?_⟩,
    ⟨0, 0, 24, none, [], { R with bres := [(0, { lines := [(0, 24, none)] })] }, ?_⟩,
    ⟨0, 0, 23, none, [], { R with bres := [(0, { lines := [(0, 23, none)] })] }, ?_⟩,
    ⟨0, 0, A0, { R with bres := [(0, { arms := [A0] })] }, ?_⟩,
    ⟨0, 0, { A0 with d := 25 }, { R with bres := [(0, { arms := [{ A0 with d := 25 }] })] }, ?_⟩,
    ⟨0, 0, 0, { R with engs := [(7, { state := .parked })] }, ?_⟩⟩ <;>
    decide +kernel

theorem witness_BarrierArrivals :
    (∃ (e : EngNo) (w0 : Word) (s : State), AtBarrier e 0xF0 w0 s ∧ OthersArrived e s ∧ OthersAgree e (false, fld w0 31 0) s ∧
      256 ≤ fld w0 31 0 ∧ s.run.stopPending = false) ∧
    (∃ (e : EngNo) (w0 : Word) (s : State), AtBarrier e 0xF0 w0 s ∧ OthersArrived e s ∧ OthersAgree e (false, fld w0 31 0) s ∧
      fld w0 31 0 < 256) ∧
    (∃ (e : EngNo) (w0 : Word) (s : State), AtBarrier e 0xF0 w0 s ∧ OthersArrived e s ∧ OthersAgree e (false, fld w0 31 0) s ∧
      256 ≤ fld w0 31 0 ∧ s.run.stopPending = true) ∧
    (∃ (e : EngNo) (w0 : Word) (s : State), AtBarrier e 0xF1 w0 s ∧ OthersArrived e s ∧ OthersAgree e (true, 0) s) ∧
    (∃ (e : EngNo) (sh : Shot) (s : State), s.run.shots.getLast? = some sh ∧ (eget s e).state = .barrier ∧ (eget s e).arrived =
      none ∧ s.run.ending = none) ∧
    (∃ (e : EngNo) (s : State), (s.run.shots = [] ∨ (eget s e).state ≠ .barrier ∨ (eget s e).arrived ≠ none ∨ s.run.ending ≠
      none)) := by
  refine ⟨⟨0, bw 256, { pk 0 [bw 256] [] with run := { nextStart := 32 } }, ?_⟩,
    ⟨0, bw 255, pk 0 [bw 255] [], ?_⟩,
    ⟨0, bw 256, { pk 0 [bw 256] [] with run := { stopPending := true } }, ?_⟩,
    ⟨0, word (0xF1 * 2 ^ 56), { pk 0 [word (0xF1 * 2 ^ 56)] [] with run := { shots := [H0] } }, ?_⟩,
    ⟨0, H0, { R with engs := [(0, { state := .barrier })], run := { shots := [H0] } }, ?_⟩,
    ⟨0, R, ?_⟩⟩ <;>
    repeat' first
      | decide +kernel
      | rfl
      | exact atBarrier (by decide +kernel)
      | exact othersArrived (by decide +kernel)
      | exact othersAgree (by decide +kernel)
      | constructor

theorem witness_ShotBoundaries :
    (∃ (sh : Shot) (rest : List Shot) (s : State), s.run.shots = sh :: rest ∧ s.run.opened = false ∧ sh.start ≤ s.tml) ∧
    (∃ (sh next : Shot) (rest : List Shot) (s : State), s.run.shots = sh :: next :: rest ∧ s.run.opened = true ∧ sh.start +
      sh.len ≤ s.tml ∧ sh.causes = 0) ∧
    (∃ (sh : Shot) (how : Nat) (s : State), s.run.shots = [sh] ∧ s.run.opened = true ∧ s.run.ending = some how ∧ sh.start +
      sh.len ≤ s.tml ∧ sh.causes ≠ 0 ∧ s.incs = []) ∧
    (∃ (sh : Shot) (rest : List Shot) (s : State), s.run.shots = sh :: rest ∧ s.tml < sh.start) := by
  refine ⟨⟨H0, [], { R with run := { shots := [H0] } }, ?_⟩,
    ⟨H0, H0, [], { R with run := { shots := [H0, H0], opened := true }, tml := 256 }, ?_⟩,
    ⟨{ H0 with causes := 1 }, 1,
      { R with run := { shots := [{ H0 with causes := 1 }], opened := true, ending := some 1 }, tml := 256 }, ?_⟩,
    ⟨{ H0 with start := 1 }, [], { R with run := { shots := [{ H0 with start := 1 }] } }, ?_⟩⟩ <;>
    decide +kernel

theorem witness_CapturesOpenWindows :
    (∃ (f : FifoNo) (c : EdgeCmd) (rest : List EdgeCmd) (s : State), Due f 0x08 c rest s ∧ fld c.w1 63 62 = 0) ∧
    (∃ (f : FifoNo) (c : EdgeCmd) (rest : List EdgeCmd) (s : State), Due f 0x08 c rest s ∧ fld c.w1 63 62 ≠ 0 ∧ traceEmpty s
      (fifoClu f) c.w1 = false) ∧
    (∃ (f : FifoNo) (c : EdgeCmd) (rest : List EdgeCmd) (s : State), Due f 0x08 c rest s ∧ fld c.w1 63 62 ≠ 0 ∧ traceEmpty s
      (fifoClu f) c.w1 = true) ∧
    (∃ (c : CluNo) (g : Nat) (op : Word) (s : State), (trget s c).capAt = some (g, op) ∧ g ≤ s.tml ∧ (shotAt s.run.shots
      g).isSome = true ∧ traceEmpty s c op = false) ∧
    (∃ (c : CluNo) (g : Nat) (op : Word) (s : State), (trget s c).capAt = some (g, op) ∧ g ≤ s.tml ∧ (shotAt s.run.shots g =
      none ∨ traceEmpty s c op = true)) ∧
    (∃ (c : CluNo) (s : State), (∀ g op, (trget s c).capAt = some (g, op) → s.tml < g)) := by
  refine ⟨⟨1408, { w0 := 8, w1 := 1, release := 0 }, [], edge 1408 { w0 := 8, w1 := 1, release := 0 } K, ?_⟩,
    ⟨1408, { w0 := 8, w1 := word (2 ^ 62), release := 0 }, [], edge 1408 { w0 := 8, w1 := word (2 ^ 62), release := 0 } K, ?_⟩,
    ⟨1408, { w0 := 8, w1 := word (2 ^ 63), release := 0 }, [], edge 1408 { w0 := 8, w1 := word (2 ^ 63), release := 0 } K, ?_⟩,
    ⟨0, 0, word (2 ^ 62), { R with traces := [(0, { capAt := some (0, word (2 ^ 62)) })], run := { shots := [H0] } }, ?_⟩,
    ⟨0, 0, 0, { R with traces := [(0, { capAt := some (0, 0) })] }, ?_⟩,
    ⟨0, R, ?_⟩⟩ <;>
    repeat' first | decide +kernel | rfl | exact noneAll₂ (by decide +kernel) | constructor

theorem witness_WindowResults :
    (∃ (n : Fin 1024) (w : RWin) (xs : List Int) (s : State), closing (rdget s n) s.tml = some w ∧ w.busy = false ∧ w.cut =
      false ∧ krnMismatch s (cluRgn (n.val / 64)) = false ∧ (demodulate s n w xs).bad = false ∧ shotGone s w.shot = false) ∧
    (∃ (n : Fin 1024) (w : RWin) (xs : List Int) (bad : Bool) (s : State), closing (rdget s n) s.tml = some w ∧ w.busy = true ∧
      shotGone s w.shot = false) ∧
    (∃ (n : Fin 1024) (w : RWin) (xs : List Int) (bad : Bool) (s : State), closing (rdget s n) s.tml = some w ∧ w.busy = false ∧
      (w.cut = true ∨ krnMismatch s (cluRgn (n.val / 64)) = true ∨ bad = true ∨ (demodulate s n w xs).bad = true) ∧ shotGone s
      w.shot = false) ∧
    (∃ (n : Fin 1024) (w : RWin) (xs : List Int) (bad : Bool) (s : State), closing (rdget s n) s.tml = some w ∧ shotGone s
      w.shot = true) ∧
    (∃ (n : Fin 1024) (xs : List Int) (bad : Bool) (s : State), closing (rdget s n) s.tml = none) := by
  refine ⟨⟨0, W0, [], { R with reads := [(0, { wins := [W0] })] }, ?_⟩,
    ⟨0, { W0 with busy := true }, [], false, { R with reads := [(0, { wins := [{ W0 with busy := true }] })] }, ?_⟩,
    ⟨0, W0, [], true, { R with reads := [(0, { wins := [W0] })] }, ?_⟩,
    ⟨0, W0, [], false, { R with reads := [(0, { wins := [W0] })], sets := [(0, { closed := true, voided := true })] }, ?_⟩,
    ⟨0, [], false, R, ?_⟩⟩ <;>
    decide +kernel

theorem witness_VerdictAndTraceRecords :
    (∃ (n : Fin 1024) (o : Verd) (rest : List Verd) (s : State), (rdget s n).out = o :: rest ∧ o.due ≤ s.tml ∧ (s.run.opened =
      false ∨ rn s .PKG_SHOT_START ≤ o.tend)) ∧
    (∃ (n : Fin 1024) (o : Verd) (rest : List Verd) (marks : BitVec 2) (s : State), (rdget s n).out = o :: rest ∧ o.due ≤ s.tml
      ∧ marks.getLsbD 0 = false ∧ (marks.getLsbD 1 = true ∨ (s.run.opened = true ∧ o.tend < rn s .PKG_SHOT_START))) ∧
    (∃ (n : Fin 1024) (o : Verd) (rest : List Verd) (marks : BitVec 2) (s : State), (rdget s n).out = o :: rest ∧ o.due ≤ s.tml
      ∧ marks.getLsbD 0 = true) ∧
    (∃ (n : Fin 1024) (o : Verd) (rest : List Verd) (marks : BitVec 2) (s : State), (rdget s n).out = o :: rest ∧ s.tml < o.due)
      ∧
    (∃ (c : CluNo) (w : TWin) (xs : List Int) (s : State), (trget s c).wins.find? (fun x => decide (x.grain + x.len ≤ s.tml)) =
      some w ∧ w.busy = false) ∧
    (∃ (c : CluNo) (w : TWin) (xs : List Int) (s : State), (trget s c).wins.find? (fun x => decide (x.grain + x.len ≤ s.tml)) =
      some w ∧ w.busy = true) ∧
    (∃ (c : CluNo) (xs : List Int) (full : Bool) (s : State), (∀ w ∈ (trget s c).wins, s.tml < w.grain + w.len)) := by
  refine ⟨⟨0, O0, [], { R with reads := [(0, { out := [O0] })] }, ?_⟩,
    ⟨0, O0, [], 2, { R with reads := [(0, { out := [O0] })] }, ?_⟩,
    ⟨0, O0, [], 1, { R with reads := [(0, { out := [O0] })] }, ?_⟩,
    ⟨0, { O0 with due := 1 }, [], 0, { R with reads := [(0, { out := [{ O0 with due := 1 }] })] }, ?_⟩,
    ⟨0, T0, [], { R with traces := [(0, { wins := [T0] })] }, ?_⟩,
    ⟨0, { T0 with busy := true }, [], { R with traces := [(0, { wins := [{ T0 with busy := true }] })] }, ?_⟩,
    ⟨0, [], false, R, ?_⟩⟩ <;>
    decide +kernel

theorem witness_OverrangeAndHot :
    (∃ (a : CluNo) (m : Nat) (code : Int) (s : State), (code < -2048 ∨ 2047 < code) ∧ rfOk s (cluDie a) = true ∧ inCal s a m =
      false ∧ (∀ sp rest, (aqget s a).spans = sp :: rest → sp.2 + 16 ≤ m) ∧ (aqget s a).ovrGrain ≠ some (m / 4)) ∧
    (∃ (a : CluNo) (m b e : Nat) (rest : List (Nat × Nat)) (code : Int) (s : State), (code < -2048 ∨ 2047 < code) ∧ rfOk s
      (cluDie a) = true ∧ inCal s a m = false ∧ (aqget s a).spans = (b, e) :: rest ∧ b ≤ m ∧ m < e + 16 ∧ e ≤ m + 16 ∧ (aqget s
      a).ovrGrain = some (m / 4)) ∧
    (∃ (a : CluNo) (m : Nat) (code : Int) (s : State), ((-2048 ≤ code ∧ code ≤ 2047) ∨ rfOk s (cluDie a) = false ∨ inCal s a m =
      true)) ∧
    (∃ (a : CluNo) (s : State), (aqget s a).hot = none ∧ rfOk s (cluDie a) = true) ∧
    (∃ (a : CluNo) (s : State), ((aqget s a).hot ≠ none ∨ rfOk s (cluDie a) = false)) ∧
    (∃ (a : CluNo) (h : Nat) (s : State), (aqget s a).hot = some h) ∧
    (∃ (a : CluNo) (s : State), (aqget s a).hot = none) := by
  refine ⟨⟨0, 0, 2048, K, ?_⟩,
    ⟨0, 0, 0, 1, [], -2049, { K with acqs := [(0, { spans := [(0, 1)], ovrGrain := some 0 })] }, ?_⟩,
    ⟨0, 0, 2047, K, ?_⟩,
    ⟨0, K, ?_⟩,
    ⟨15, R, ?_⟩,
    ⟨0, 0, { R with acqs := [(0, { hot := some 0 })] }, ?_⟩,
    ⟨15, R, ?_⟩⟩ <;>
    repeat' first | decide +kernel | rfl | exact nilAll (by decide +kernel) | constructor

theorem witness_AcqCalibrationAndHalt :
    (∃ (a : CluNo) (s : State), (aqget s a).calFrom = none ∧ inRun s = false ∧ acqOpen s a = false ∧ rfOk s (cluDie a) = true ∧
      passDue s a = true) ∧
    (∃ (a : CluNo) (s : State), stepMayStart s a = true) ∧
    (∃ (a : CluNo) (s : State), stepMayStart s a = false) ∧
    (∃ (a : CluNo) (g : Nat) (s : State), (aqget s a).calFrom = some g ∧ g + 20000 ≤ s.tml ∧ rn s .ACQ_CAL_STEP a < 3) ∧
    (∃ (a : CluNo) (g : Nat) (s : State), (aqget s a).calFrom = some g ∧ g + 20000 ≤ s.tml ∧ rn s .ACQ_CAL_STEP a = 3) ∧
    (∃ (a : CluNo) (n : Nat) (s : State), rn s .ACQ_CAL_STATE a = 1 ∧ calAge s a = some n ∧ 100 ≤ n) ∧
    (∃ (c : CluNo) (e : EdgeCmd) (s : State), (fget s (1408 + c.val)).path = [e] ∧ edgeOp e.w0 = 0x08 ∧ profileOf s (cluRgn c) =
      profLowSpur ∧ e.release ≤ s.tml + 16 ∧ s.tml < e.release + fld e.w1 47 32 ∧ rfOk s (cluDie c) = true ∧ (rgget s (cluRgn
      c)).halts = []) := by
  refine ⟨⟨0, K, ?_⟩,
    ⟨0, K, ?_⟩,
    ⟨0, R, ?_⟩,
    ⟨0, 0, { R with acqs := [(0, { calFrom := some 0 })], tml := 20000 }, ?_⟩,
    ⟨0, 0, { st [(.ACQ_CAL_STEP, 0, 3)] with acqs := [(0, { calFrom := some 0 })], tml := 20000 }, ?_⟩,
    ⟨0, 100, { st [(.ACQ_CAL_STATE, 0, 1)] with acqs := [(0, { calAt := some 0 })], elapsed := 250000000 }, ?_⟩,
    ⟨0, { w0 := 8, w1 := word (2 ^ 32), release := 16 }, edge 1408 { w0 := 8, w1 := word (2 ^ 32), release := 16 } (st
      [(.CLK_MON_STATE, 5, 2), (.RGN_PROFILE, 0, 2)]), ?_⟩⟩ <;>
    decide +kernel

theorem witness_BiasUpdates :
    (∃ (lim sen : List (Fin 256)) (n : Nat) (s : State), s.tmlOn = true ∧ s.biasAt ≠ some (s.tml / 10000 * 10000) ∧ n < 256 ∧
      bdOk s (n / 128) = true ∧ (biaget s n).mode = .run ∧ (biaget s n).cmds = [] ∧ (biaget s n).dest = rn s .BIA_RANGE n) ∧
    (∃ (lim sen : List (Fin 256)) (n : Nat) (c : BiasCmd) (s : State), s.tmlOn = true ∧ s.biasAt ≠ some (s.tml / 10000 * 10000)
      ∧ n < 256 ∧ bdOk s (n / 128) = true ∧ (biaget s n).mode = .run ∧ (dueBias (biaget s n) (s.tml / 10000 * 10000)).getLast? =
      some c ∧ c.hold = false ∧ fld c.opnd 31 30 = 0 ∧ (biaget s n).dest = rn s .BIA_RANGE n) ∧
    (∃ (lim sen : List (Fin 256)) (s : State), (s.tmlOn = false ∨ s.biasAt = some (s.tml / 10000 * 10000))) ∧
    (∃ (d : Fin 2) (n : Nat) (s : State), served s = true ∧ s.boot.phase ≠ .fuseError ∧ s.boot.silent = false ∧ bdOk s d = true
      ∧ n < 128 ∧ (biaget s (128 * d.val + n)).mode = .off) := by
  refine ⟨⟨[], [], 0, { st [(.BIA_RANGE, 0, 1)] with tmlOn := true, bdQual := 1, biases := [(0, { mode := .run, dest := 1 })] },
    ?_⟩,
    ⟨[], [], 0, { release := 0, hold := false, opnd := 0 },
      { st [(.BIA_RANGE, 0, 1)] with tmlOn := true, bdQual := 1, biases := [(0, { mode := .run, dest := 1, cmds := [{ release := 0, hold := false, opnd := 0 }] })] },
      ?_⟩,
    ⟨[], [], R, ?_⟩,
    ⟨0, 127, { up [] with bdQual := 1 }, ?_⟩⟩ <;>
    decide +kernel

theorem witness_RecordsAndStream :
    (∃ (c : CluNo) (x : List Word × Nat) (rest : List (List Word × Nat)) (s : State), mget [] s.crossings c = x :: rest ∧
      stagingWords (settleRecord x.2 s) + x.1.length ≤ stagingSize) ∧
    (∃ (c : CluNo) (x : List Word × Nat) (rest : List (List Word × Nat)) (s : State), mget [] s.crossings c = x :: rest ∧
      stagingSize < stagingWords (settleRecord x.2 s) + x.1.length) ∧
    (∃ (n : BitVec 32) (s : State), (rsget s n.toNat).closed = true ∧ (rsget s n.toNat).live = 0 ∧ (rn s .TRG_STREAM_STATE = 0 ∨
      (rsget s n.toNat).epoch ≠ s.stream.epoch)) ∧
    (∃ (n : BitVec 32) (s : State), (rsget s n.toNat).closed = true ∧ (rsget s n.toNat).live = 0 ∧ rn s .TRG_STREAM_STATE ≠ 0 ∧
      (rsget s n.toNat).epoch = s.stream.epoch ∧ (rsget s n.toNat).voided = true ∧ fits s 3 = true) ∧
    (∃ (n : BitVec 32) (s : State), (rsget s n.toNat).closed = true ∧ (rsget s n.toNat).live = 0 ∧ rn s .TRG_STREAM_STATE ≠ 0 ∧
      (rsget s n.toNat).epoch = s.stream.epoch ∧ (rsget s n.toNat).voided = false ∧ (rsget s n.toNat).refused = 0 ∧ (rsget s
      n.toNat).recs ≠ [] ∧ fits s (recWords (rsget s n.toNat).recs) = true) ∧
    (∃ (n : BitVec 32) (s : State), (rsget s n.toNat).closed = true ∧ (rsget s n.toNat).live = 0 ∧ rn s .TRG_STREAM_STATE ≠ 0 ∧
      (rsget s n.toNat).epoch = s.stream.epoch ∧ (if (rsget s n.toNat).voided then fits s 3 = false else (rsget s
      n.toNat).refused ≠ 0 ∨ fits s (recWords (rsget s n.toNat).recs) = false)) ∧
    (∃ (n : BitVec 32) (s : State), ((rsget s n.toNat).closed = false ∨ (rsget s n.toNat).live ≠ 0)) ∧
    (∃ (n : Nat) (s : State), hostUp s = true ∧ sendsIn s 1 = true ∧ 2 ≤ creditLeft s vcStr ∧ 1 ≤ sendable s ∧ (qget s
      0x2003).words = [] ∧ (qget s 0x2003).waiting = [] ∧ n = min (min 256 (sendable s)) (creditLeft s vcStr - 1)) ∧
    (∃ (r : List Word) (s : State), s.stream.backlog = [r] ∧ s.stream.sent = 0 ∧ s.stream.finishing = 0 ∧ rn s .TRG_STREAM_STATE
      = 1 ∧ hostUp s = true ∧ anchorAhead s r = false ∧ r.length ≤ 256 ∧ 1 ≤ r.length ∧ r.length + 1 ≤ creditLeft s vcStr ∧
      (qget s 0x2003).words = [] ∧ (qget s 0x2003).waiting = []) ∧
    (∃ (r : List Word) (rest : List (List Word)) (s : State), s.stream.backlog = r :: rest ∧ sendsIn s 2 = true ∧ anchorAhead s
      r = false ∧ (qget s 0x1000).words.length + r.length ≤ rn s .TRG_QUEUE_LIMIT ∧ (qget s 0x1000).waiting = []) ∧
    (∃ (r : List Word) (rest : List (List Word)) (s : State), s.stream.backlog = r :: rest ∧ anchorAhead s r = true) := by
  refine ⟨⟨0, ([5], 0), [], { R with crossings := [(0, [([5], 0)])] }, ?_⟩,
    (fun (l : List Word) (h : l.length = 1048577) => ⟨0, (l, 0), [], { R with crossings := [(0, [(l, 0)])] }, rfl, overStaging h
      _⟩) (List.replicate 1048577 0) List.length_replicate,
    ⟨0, { R with sets := [(0, { closed := true })] }, ?_⟩,
    ⟨0, { st [(.TRG_STREAM_STATE, 0, 1)] with sets := [(0, { closed := true, voided := true })] }, ?_⟩,
    ⟨0, { st [(.TRG_STREAM_STATE, 0, 1)] with sets := [(0, { closed := true, recs := [[5]] })] }, ?_⟩,
    ⟨0, { st [(.TRG_STREAM_STATE, 0, 1), (.TRG_BACKLOG_LIMIT, 0, 0)] with sets := [(0, { closed := true, recs := [[5]] })] },
      ?_⟩,
    ⟨0, R, ?_⟩,
    ⟨1,
      { st [(.TRG_STREAM_STATE, 0, 1), (.LNK_HL_STATE, 0, 2)] with stream := { backlog := [[5]] }, hl := { vcs := [(vcStr, { limit := 2 })] } },
      ?_⟩,
    ⟨[5],
      { st [(.TRG_STREAM_STATE, 0, 1), (.LNK_HL_STATE, 0, 2)] with stream := { backlog := [[5]] }, hl := { vcs := [(vcStr, { limit := 2 })] } },
      ?_⟩,
    ⟨[5], [], { st [(.TRG_STREAM_STATE, 0, 2)] with stream := { backlog := [[5]] } }, ?_⟩,
    ⟨[word (6 * 2 ^ 60)], [], { R with stream := { backlog := [[word (6 * 2 ^ 60)]] } }, ?_⟩⟩ <;>
    decide +kernel

theorem witness_TriggerEvents :
    (∃ (n : Fin 32) (m lead : Nat) (x code : Int) (before : List Int) (s : State), condOn s n = true ∧ condKind s n ≤ 1 ∧ rfOk s
      (cluDie (condClu s n)) = true ∧ (condKind s n = 1 → fifoActive s (condIndex s n) = true ∧ m % 8 = 0) ∧ lead = streamLead
      (condKind s n = 0) (directMode (profileOf s (cluRgn (condClu s n)))) ∧ lead ≤ m ∧ before.length = lead ∧ x = streamAt s
      (condKind s n = 0) (condIndex s n) (m - lead) (before ++ [code]) m ∧ (if condFalling s n then x ≤ rd s .TRG_COND_LEVEL n
      else rd s .TRG_COND_LEVEL n ≤ x) ∧ n.val ∈ s.trig.primed ∧ rn s .TRG_STATE = trgArmed ∧ 4 * s.trig.armAt ≤ m) ∧
    (∃ (n : Fin 32) (m : Nat) (before xs : List Int) (s : State), (condOn s n = false ∨ rfOk s (cluDie (condClu s n)) = false ∨
      (condKind s n = 1 ∧ fifoActive s (condIndex s n) = false))) ∧
    (∃ (pin : Fin 8) (rising : Bool) (code : Fin 32) (s : State), rfOk s (pin.val / 2) = true ∧ (mget 0 s.trig.pins pin = 0 ∨ (∃
      last, mget 0 s.trig.pins pin = last + 1 ∧ last + deadTime ≤ 256 * s.tml + 8 * code.val))) ∧
    (∃ (pin : Fin 8) (last : Nat) (rising : Bool) (code : Fin 32) (s : State), rfOk s (pin.val / 2) = true ∧ mget 0 s.trig.pins
      pin = last + 1 ∧ 256 * s.tml + 8 * code.val < last + deadTime) ∧
    (∃ (m : Nat) (d : Detect) (ds : List Detect) (s : State), coincident s m = d :: ds ∧ firstIndex s = some m ∧ canFire s m =
      true) ∧
    (∃ s : State, rn s .TRG_STATE = trgArming ∧ s.trig.armAt ≤ s.tml) ∧
    (∃ (w : Word) (rest : List Word) (s : State), s.trig.msgs = w :: rest ∧ msgKind w = 2 ∧ rn s .TRG_ROLE = roleMember) ∧
    (∃ (w : Word) (rest : List Word) (s : State), s.trig.msgs = w :: rest ∧ msgKind w = 3 ∧ rn s .TRG_ROLE = roleMember) ∧
    (∃ (w : Word) (rest : List Word) (s : State), s.trig.msgs = w :: rest ∧ msgKind w = 4 ∧ (msgSeq w ≠ rn s .TRG_ARM_SEQ ∨ rn s
      .TRG_STATE = trgIdle ∨ rn s .TRG_STATE = trgArming)) ∧
    (∃ (w : Word) (rest : List Word) (s : State), s.trig.msgs = w :: rest ∧ msgKind w = 4 ∧ msgSeq w = rn s .TRG_ARM_SEQ ∧ rn s
      .TRG_STATE = trgArmed) ∧
    (∃ (w : Word) (rest : List Word) (s : State), s.trig.msgs = w :: rest ∧ msgKind w = 4 ∧ msgSeq w = rn s .TRG_ARM_SEQ ∧ rn s
      .TRG_STATE = trgFired) := by
  refine ⟨⟨0, 1, 1, 0, 0, [0],
    { st [(.TRG_COND_CTRL, 0, 128), (.CLK_MON_STATE, 5, 2), (.TRG_STATE, 0, 2)] with trig := { primed := [0] } }, ?_⟩,
    ⟨0, 0, [], [], R, ?_⟩,
    ⟨0, true, 0, K, ?_⟩,
    ⟨0, 1, true, 0, { K with trig := { pins := [(0, 2)] } }, by decide +kernel, by decide +kernel, deadOne⟩,
    ⟨0, { idx := 0, cond := 31, time := 0 }, [],
      { st [(.TRG_STATE, 0, 2)] with trig := { dets := [{ idx := 0, cond := 31, time := 0 }] } }, ?_⟩,
    ⟨st [(.TRG_STATE, 0, 1)], ?_⟩,
    ⟨word (2 * 2 ^ 60), [], { st [(.TRG_ROLE, 0, 2)] with trig := { msgs := [word (2 * 2 ^ 60)] } }, ?_⟩,
    ⟨word (3 * 2 ^ 60), [], { st [(.TRG_ROLE, 0, 2)] with trig := { msgs := [word (3 * 2 ^ 60)] } }, ?_⟩,
    ⟨word (4 * 2 ^ 60), [], { st [(.TRG_ARM_SEQ, 0, 1)] with trig := { msgs := [word (4 * 2 ^ 60)] } }, ?_⟩,
    ⟨word (4 * 2 ^ 60), [], { st [(.TRG_STATE, 0, 2)] with trig := { msgs := [word (4 * 2 ^ 60)] } }, ?_⟩,
    ⟨word (4 * 2 ^ 60), [], { st [(.TRG_STATE, 0, 3)] with trig := { msgs := [word (4 * 2 ^ 60)] } }, ?_⟩⟩ <;>
    repeat' first | decide +kernel | rfl | exact .inl (by decide +kernel) | constructor

theorem witness_VerdictRouting :
    (∃ (src d : Nat) (w : Word) (rest : List (Nat × Word)) (s : State), s.vre.inbox = (src, w) :: rest ∧ msgKind w = 1 ∧ 4 ≤ src
      ∧ msgPkg w ≠ rn s .LNK_PKG_NO ∧ d < 4 ∧ routeEntry s (msgPkg w) (fld w 51 42) % 4096 = 2 ^ d) ∧
    (∃ (src : Nat) (w : Word) (rest : List (Nat × Word)) (s : State), s.vre.inbox = (src, w) :: rest ∧ msgKind w = 1 ∧ 4 ≤ src ∧
      msgPkg w ≠ rn s .LNK_PKG_NO ∧ routeEntry s (msgPkg w) (fld w 51 42) = 0) ∧
    (∃ (src : Nat) (w : Word) (rest : List (Nat × Word)) (s : State), s.vre.inbox = (src, w) :: rest ∧ 2 ≤ msgKind w ∧ rn s
      .TRG_ROLE ≠ 0 ∧ (msgKind w, msgPkg w, msgSeq w, if msgKind w = 4 then msgNode w else 0) ∉ s.vre.seen ∧ src ≠ 12) ∧
    (∃ (q : Nat) (src : Nat) (w : Word) (rest : List (Nat × Word)) (s : State), s.vre.inbox = (src, w) :: rest ∧ 2 ≤ msgKind w ∧
      rn s .TRG_ROLE ≠ 0 ∧ (src = 12 ∨ (msgKind w, msgPkg w, msgSeq w, if msgKind w = 4 then msgNode w else 0) ∉ s.vre.seen) ∧ q
      < 8 ∧ src ≠ 4 + q ∧ portUp s q = true ∧ (∀ r, r ≠ q → portUp s r = false) ∧ msgHops w < 15 ∧ (qget s (portQueue
      q)).discard ≠ some wVre ∧ tailHeld (qget s (portQueue q)) wVre = false ∧ (qget s (portQueue q)).waiting = [] ∧ qroom s
      (portQueue q) 1 = true) ∧
    (∃ (src : Nat) (w : Word) (rest : List (Nat × Word)) (s : State), s.vre.inbox = (src, w) :: rest ∧ (msgKind w = 2 ∨ msgKind
      w = 3) ∧ src ≠ 12 ∧ (msgKind w, msgPkg w, msgSeq w, 0) ∈ s.vre.seen) ∧
    (∃ (q : Fin 8) (w : Word) (rest : List QWord) (s : State), portLanes s q ≠ [] ∧ (∀ l ∈ portLanes s q, (lnget s l).txq.any
      TxBlock.isData = false) ∧ (qget s (portQueue q)).words = { data := w, fin := true } :: rest ∧ (qget s (portQueue q)).cut =
      false ∧ (qget s (portQueue q)).tainted = false ∧ (qget s (portQueue q)).dead = []) ∧
    (∃ (n : Fin 16) (ts d : Nat) (w : Word) (rest : List (Option (Nat × Word))) (s : State), (lnget s (16 + n.val)).fifo = some
      (ts, w) :: rest ∧ d = (ts + 64 - (vpget s (n.val / 2)).last) % 64 ∧ 1 ≤ d ∧ d < 32 ∧ msgOk w = true ∧ rn s .LNK_V_LOST ≤
      0xFFFFFFFF) ∧
    (∃ (n : Fin 16) (ts d : Nat) (w : Word) (rest : List (Option (Nat × Word))) (s : State), (lnget s (16 + n.val)).fifo = some
      (ts, w) :: rest ∧ d = (ts + 64 - (vpget s (n.val / 2)).last) % 64 ∧ (d = 0 ∨ 32 ≤ d)) := by
  refine ⟨⟨4, 0, word (2 ^ 60 + 2 ^ 52), [],
    { st [(.LNK_VROUTE, 512, 1)] with vre := { inbox := [(4, word (2 ^ 60 + 2 ^ 52))] } }, ?_⟩,
    ⟨4, word (2 ^ 60 + 2 ^ 52), [], { R with vre := { inbox := [(4, word (2 ^ 60 + 2 ^ 52))] } }, ?_⟩,
    ⟨0, word (2 * 2 ^ 60), [], { st [(.TRG_ROLE, 0, 1)] with vre := { inbox := [(0, word (2 * 2 ^ 60))] } }, ?_⟩,
    ⟨0, 0, word (2 * 2 ^ 60), [],
      { st [(.TRG_ROLE, 0, 1), (.LNK_VP_STATE, 0, 2)] with vre := { inbox := [(0, word (2 * 2 ^ 60))] } }, by decide +kernel, by
      decide +kernel, by decide +kernel, by decide +kernel, by decide +kernel, by decide +kernel, by decide +kernel, onePort, by
      decide +kernel⟩,
    ⟨0, word (2 * 2 ^ 60), [], { R with vre := { inbox := [(0, word (2 * 2 ^ 60))], seen := [(2, 0, 0, 0)] } }, ?_⟩,
    ⟨0, 5, [], one (portQueue 0) (st [(.LNK_LN_STATE, 16, 4)]), ?_⟩,
    ⟨0, 0, 1, word (2 ^ 60), [], { R with lanes := [(16, { fifo := [some (0, word (2 ^ 60))] })] }, ?_⟩,
    ⟨0, 63, 0, word (2 ^ 60), [], { R with lanes := [(16, { fifo := [some (63, word (2 ^ 60))] })] }, ?_⟩⟩ <;>
    decide +kernel

theorem witness_ProfilesAndRefills :
    (∃ (g : RgnNo) (p cause due : Nat) (s : State), (rgget s g).req = some (p, cause, some due) ∧ due ≤ s.tml) ∧
    (∃ (g : RgnNo) (p cause due : Nat) (s : State), (rgget s g).req = some (p, cause, some due) ∧ s.tml < due) ∧
    (∃ (g : RgnNo) (m : Nat) (s : State), (rgget s g).muteEnd = some m ∧ m ≤ s.tml) ∧
    (∃ (c : CluNo) (e : Nat × Nat × Nat) (s : State), (rfget s c).entries[(rfget s c).next]? = some e ∧ (rfget s c).on = true ∧
      rfOk s (cluDie c) = true ∧ (rfget s c).busy = false ∧ shotOpened s e.2.1 = true ∧ segBusy s c e.1 = false) ∧
    (∃ (c : CluNo) (e : Nat × Nat × Nat) (s : State), (rfget s c).entries[(rfget s c).next]? = some e ∧ (rfOk s (cluDie c) =
      false ∨ (rfget s c).on = false ∨ (rfget s c).busy = true ∨ shotOpened s e.2.1 = false ∨ segBusy s c e.1 = true)) ∧
    (∃ (c : CluNo) (e : Nat × Nat × Nat) (s : State), (rfget s c).entries[(rfget s c).next]? = some e ∧ (rfOk s (cluDie c) =
      false ∨ (rfget s c).busy = false ∨ dramWaits s e.2.2 (4 * (sget s c e.1).len) = true)) ∧
    (∃ (c : CluNo) (e : Nat × Nat × Nat) (s : State), (rfget s c).entries[(rfget s c).next]? = some e ∧ (rfget s c).busy = true
      ∧ rfOk s (cluDie c) = true ∧ dramWaits s e.2.2 (4 * (sget s c e.1).len) = false ∧ ((dramRead c.val e.2.2 (((sget s c
      e.1).len + 1) / 2) s).1.any (·.2)) = true) ∧
    (∃ (c : CluNo) (e : Nat × Nat × Nat) (s : State), (rfget s c).entries[(rfget s c).next]? = some e ∧ (rfget s c).busy = true
      ∧ rfOk s (cluDie c) = true ∧ dramWaits s e.2.2 (4 * (sget s c e.1).len) = false ∧ ((dramRead c.val e.2.2 (((sget s c
      e.1).len + 1) / 2) s).1.any (·.2)) = false) := by
  refine ⟨⟨0, 0, 0, 0, { R with regions := [(0, { req := some (0, 0, some 0) })] }, ?_⟩,
    ⟨0, 0, 0, 1, { R with regions := [(0, { req := some (0, 0, some 1) })] }, ?_⟩,
    ⟨0, 0, { R with regions := [(0, { muteEnd := some 0 })] }, ?_⟩,
    ⟨0, (0, 0, 0), { K with refills := [(0, { entries := [(0, 0, 0)], on := true })], run := { opened := true } }, ?_⟩,
    ⟨0, (0, 0, 0), { R with refills := [(0, { entries := [(0, 0, 0)] })] }, ?_⟩,
    ⟨0, (0, 0, 0), { R with refills := [(0, { entries := [(0, 0, 0)] })] }, ?_⟩,
    ⟨0, (0, 0, 0),
      { st ((.CLK_MON_STATE, 5, 2) :: drm) with refills := [(0, { entries := [(0, 0, 0)], busy := true })], segs := [(0, { len := 1 })], dram := { bad := [0] } },
      ?_⟩,
    ⟨0, (0, 0, 0), { K with refills := [(0, { entries := [(0, 0, 0)], busy := true })] }, ?_⟩⟩ <;>
    decide +kernel

theorem witness_TrussEvents :
    (∃ (n : Fin 256) (s : State), (chget s n).held ≠ [] ∧ (∀ a, (chget s n).lastAt = some a → a + channelInterval n ≤
      s.elapsed)) ∧
    (∃ (n : Fin 256) (a : Nat) (s : State), (chget s n).lastAt = some a ∧ s.elapsed < a + channelInterval n) ∧
    (∃ (con : Fin 192) (d : Delivery) (rest : List Delivery) (s : State), con.val < 128 ∧ s.deliveries = d :: rest ∧ d.con = con
      ∧ (eget s con).state = .waitEvent ∧ (eget s con).waitCh = some d.chan) ∧
    (∃ (con : Fin 192) (d : Delivery) (rest : List Delivery) (s : State), con.val < 128 ∧ s.deliveries = d :: rest ∧ d.con = con
      ∧ (eget s con).state = .run ∧ (eget s con).waitCh.isSome = true) ∧
    (∃ (con : Fin 192) (d : Delivery) (rest : List Delivery) (s : State), con.val < 128 ∧ s.deliveries = d :: rest ∧ d.con = con
      ∧ (eget s con).state ≠ .halt ∧ (eget s con).waitCh = none) ∧
    (∃ (con : Fin 192) (d : Delivery) (rest : List Delivery) (s : State), con.val < 128 ∧ s.deliveries = d :: rest ∧ d.con = con
      ∧ (eget s con).state = .halt) ∧
    (∃ (u : Fin 11) (con : Fin 192) (d : Delivery) (rest : List Delivery) (s : State), con.val = 0x80 + u.val ∧ s.deliveries = d
      :: rest ∧ d.con = con ∧ mauGated s u = false) ∧
    (∃ (con : Fin 192) (d : Delivery) (rest : List Delivery) (s : State), con.val = 0x90 ∧ s.deliveries = d :: rest ∧ d.con =
      con ∧ rn s .TRG_ROLE ≠ roleMember ∧ (rn s .TRG_STATE = trgIdle ∨ rn s .TRG_STATE = trgFired)) ∧
    (∃ (c : CluNo) (con : Fin 192) (d : Delivery) (rest : List Delivery) (s : State), con.val = 0xA0 + c.val ∧ s.deliveries = d
      :: rest ∧ d.con = con ∧ inRun s = true ∧ traceBusy (trget s c) s.tml = false ∧ (trget s c).capAt = none) ∧
    (∃ (c : CluNo) (con : Fin 192) (d : Delivery) (rest : List Delivery) (s : State), con.val = 0xB0 + c.val ∧ s.deliveries = d
      :: rest ∧ d.con = con) ∧
    (∃ (n : Fin 32) (g : Nat) (s : State), (tget s n).next = some g ∧ s.tmlOn = true ∧ g ≤ s.tml ∧ rn s .TIM_PERIOD n ≠ 0 ∧ rn s
      .TIM_LIMIT n = 0) ∧
    (∃ (n : Fin 32) (g : Nat) (s : State), (tget s n).next = some g ∧ s.tmlOn = true ∧ g ≤ s.tml ∧ rn s .TIM_PERIOD n = 0) ∧
    (∃ (c : CluNo) (g width : Nat) (s : State), (mkget s c).start = some (g, width) ∧ g ≤ s.tml) ∧
    (∃ (c : CluNo) (g : Nat) (s : State), (mkget s c).trussEnd = some g ∧ g ≤ s.tml) := by
  refine ⟨⟨0, { R with channels := [(0, { held := [7] })] }, ?_⟩,
    ⟨0, 0, { R with channels := [(0, { held := [7], lastAt := some 0 })] }, ?_⟩,
    ⟨0, { con := 0, chan := 5, merged := false }, [],
      { R with deliveries := [{ con := 0, chan := 5, merged := false }], engs := [(0, { state := .waitEvent, waitCh := some 5 })] },
      ?_⟩,
    ⟨127, { con := 127, chan := 5, merged := false }, [],
      { R with deliveries := [{ con := 127, chan := 5, merged := false }], engs := [(127, { state := .run, waitCh := some 5 })] },
      ?_⟩,
    ⟨0, { con := 0, chan := 5, merged := false }, [],
      { R with deliveries := [{ con := 0, chan := 5, merged := false }], engs := [(0, { state := .run })] }, ?_⟩,
    ⟨0, { con := 0, chan := 5, merged := false }, [],
      { R with deliveries := [{ con := 0, chan := 5, merged := false }], engs := [(0, { state := .halt })] }, ?_⟩,
    ⟨0, 0x80, { con := 0x80, chan := 5, merged := false }, [],
      { R with deliveries := [{ con := 0x80, chan := 5, merged := false }] }, ?_⟩,
    ⟨0x90, { con := 0x90, chan := 5, merged := false }, [],
      { R with deliveries := [{ con := 0x90, chan := 5, merged := false }] }, ?_⟩,
    ⟨0, 0xA0, { con := 0xA0, chan := 5, merged := false }, [],
      { runs with deliveries := [{ con := 0xA0, chan := 5, merged := false }] }, ?_⟩,
    ⟨15, 0xBF, { con := 0xBF, chan := 5, merged := false }, [],
      { R with deliveries := [{ con := 0xBF, chan := 5, merged := false }] }, ?_⟩,
    ⟨0, 0, { st [(.TIM_PERIOD, 0, 1)] with timers := [(0, { next := some 0 })], tmlOn := true }, ?_⟩,
    ⟨0, 0, { R with timers := [(0, { next := some 0 })], tmlOn := true }, ?_⟩,
    ⟨0, 0, 5, { R with markers := [(0, { start := some (0, 5) })] }, ?_⟩,
    ⟨0, 0, { R with markers := [(0, { trussEnd := some 0 })] }, ?_⟩⟩ <;>
    repeat' first | decide +kernel | rfl | exact noneAll (by decide +kernel) | constructor

theorem witness_RequestsAreAnswered :
    (∃ (p : Path) (tag : Byte) (idx sub i n : Nat) (row : ObjRow) (s u : State), Request p 1 tag idx sub 0 [] s ∧ u =
      requestTaken p s ∧ findObj idx sub = .obj row i ∧ row.acc ≠ .wo ∧ row.ty.isBytes = false ∧ n = instOf u p row i sub ∧
      unserved u row idx n = false ∧ u.nvm.poisoned.contains (storeKey row.reg n) = false ∧ row.reg ≠ .TNW_NOW_S) ∧
    (∃ (p : Path) (tag : Byte) (idx sub i n len first : Nat) (row : ObjRow) (s u : State), Request p 1 tag idx sub 0 [] s ∧ u =
      requestTaken p s ∧ findObj idx sub = .obj row i ∧ row.acc ≠ .wo ∧ row.ty.isBytes = true ∧ n = instOf u p row i sub ∧
      unserved u row idx n = false ∧ inUse u p row idx sub n = false ∧ u.nvm.poisoned.contains (storeKey row.reg n) = false ∧
      row.reg ≠ .QUE_POP ∧ row.reg ≠ .QUE_PKT ∧ row.reg ≠ .DRM_WIN_DATA ∧ domSpan u p row.reg n = (len, first)) ∧
    (∃ (p : Path) (tag : Byte) (idx sub i n : Nat) (row : ObjRow) (bs : List Byte) (s u v : State), Request p 2 tag idx sub 0 bs
      s ∧ u = requestTaken p s ∧ findObj idx sub = .obj row i ∧ row.acc ≠ .ro ∧ row.ty.isBytes = false ∧ n = instOf u p row i
      sub ∧ unserved u row idx n = false ∧ retiredWrite u row (decodeVal row.ty bs) = false ∧ bs.length = row.ty.size ∧ inRange
      row.ty row.rng (decodeVal row.ty bs) = true ∧ writeObject row n (decodeVal row.ty bs) [] u = .ok v) ∧
    (∃ (p : Path) (tag : Byte) (idx sub i n total : Nat) (row : ObjRow) (x : Transfer) (s u : State), Request p 3 tag idx sub 0
      (leBytes 8 total) s ∧ x =
      { write := true, index := idx, sub := sub, inst := n, total := total, first := (domSpan u p row.reg n).2, at_ := u.elapsed }
      ∧ total < 2 ^ 64 ∧ u = requestTaken p s ∧ findObj idx sub = .obj row i ∧ row.acc ≠ .ro ∧ n = instOf u p row i sub ∧ inUse
      u p row idx sub n = false ∧ checkInit u row idx n (domSpan u p row.reg n).2 total = .ok ()) ∧
    (∃ (p : Path) (x : Transfer) (s : State), (pathOf s p).transfer = none) ∧
    (∃ (p : Path) (tag : Byte) (idx sub i : Nat) (tog : Bool) (row : ObjRow) (bs : List Byte) (t : Transfer) (s u : State),
      Request p 4 tag idx sub (b2n tog) bs s ∧ u = requestTaken p s ∧ (pathOf u p).transfer = some t ∧ (pathOf u
      p).timedOut.contains (idx, sub) = false ∧ t.write = true ∧ t.index = idx ∧ t.sub = sub ∧ findObj idx sub = .obj row i ∧
      row.reg ≠ .CLU_SEG_DATA ∧ tog = nextToggle t ∧ 1 ≤ bs.length ∧ bs.length ≤ pathLimit p ∧ t.done + bs.length < t.total) ∧
    (∃ (p : Path) (tag : Byte) (idx sub i : Nat) (tog : Bool) (row : ObjRow) (bs : List Byte) (t : Transfer) (s u v : State),
      Request p 4 tag idx sub (b2n tog + 2) bs s ∧ u = requestTaken p s ∧ (pathOf u p).transfer = some t ∧ (pathOf u
      p).timedOut.contains (idx, sub) = false ∧ t.write = true ∧ t.index = idx ∧ t.sub = sub ∧ findObj idx sub = .obj row i ∧
      row.reg ≠ .CLU_SEG_DATA ∧ tog = nextToggle t ∧ 1 ≤ bs.length ∧ bs.length ≤ pathLimit p ∧ t.done + bs.length = t.total ∧
      writeValue row idx i sub t.inst t.first (t.data ++ bs) [] u = (.ok (), v)) ∧
    (∃ (p : Path) (tag : Byte) (idx sub i n : Nat) (tog : Bool) (row : ObjRow) (t : Transfer) (s u : State), Request p 5 tag idx
      sub (b2n tog) [] s ∧ u = requestTaken p s ∧ (pathOf u p).transfer = some t ∧ (pathOf u p).timedOut.contains (idx, sub) =
      false ∧ t.write = false ∧ t.index = idx ∧ t.sub = sub ∧ t.data = [] ∧ findObj idx sub = .obj row i ∧ row.reg ≠
      .DRM_WIN_DATA ∧ tog = nextToggle t ∧ n = pathLimit p ∧ t.done + n < t.total) ∧
    (∃ (p : Path) (tag : Byte) (idx sub i n : Nat) (tog : Bool) (row : ObjRow) (t : Transfer) (s u : State), Request p 5 tag idx
      sub (b2n tog) [] s ∧ u = requestTaken p s ∧ (pathOf u p).transfer = some t ∧ (pathOf u p).timedOut.contains (idx, sub) =
      false ∧ t.write = false ∧ t.index = idx ∧ t.sub = sub ∧ t.data = [] ∧ findObj idx sub = .obj row i ∧ row.reg ≠
      .DRM_WIN_DATA ∧ tog = nextToggle t ∧ n ≤ pathLimit p ∧ t.done + n = t.total) ∧
    (∃ (p : Path) (tag : Byte) (idx sub n : Nat) (tog : Bool) (t : Transfer) (bs : List Byte) (s u v : State), Request p 5 tag
      idx sub (b2n tog) [] s ∧ u = requestTaken p s ∧ (pathOf u p).transfer = some t ∧ (pathOf u p).timedOut.contains (idx, sub)
      = false ∧ t.write = false ∧ t.index = idx ∧ t.sub = sub ∧ tog = nextToggle t ∧ n = min (pathLimit p) (t.total - t.done) ∧
      nextSegment p t n u = (.ok bs, v)) ∧
    (∃ (p : Path) (tag : Byte) (idx sub : Nat) (t : Transfer) (s u : State), Request p 6 tag idx sub 0 [] s ∧ u = requestTaken p
      s ∧ (pathOf u p).transfer = some t ∧ t.index = idx ∧ t.sub = sub) := by
  refine ⟨⟨0, 0, 0x8000, 0, 0, 0, rowOf 0x8000 0, rq 1 0x8000 0 0 [] (up []), requestTaken 0 (rq 1 0x8000 0 0 [] (up [])), ?_⟩,
    ⟨0, 0, 0x4031, 0, 0, 0, 4 * 81920, 0, rowOf 0x4031 0, rq 1 0x4031 0 0 [] (up []), requestTaken 0 (rq 1 0x4031 0 0 [] (up
      [])), ?_⟩,
    ⟨0, 0, 0x8000, 0, 0, 0, rowOf 0x8000 0, [5, 0], rq 2 0x8000 0 0 [5, 0] (up []), requestTaken 0 (rq 2 0x8000 0 0 [5, 0] (up
      [])), okOr (writeObject (rowOf 0x8000 0) 0 5 [] (requestTaken 0 (rq 2 0x8000 0 0 [5, 0] (up [])))) R, ?_⟩,
    ⟨0, 0, 0x8005, 0, 0, 0x4000, 9, rowOf 0x8005 0,
      { write := true, index := 0x8005, sub := 0, inst := 0x4000, total := 9, first := 0, at_ := 0 }, rq 3 0x8005 0 0 (leBytes 8
      9) (up [(.QUE_SEL, 0, 0x4000)]), requestTaken 0 (rq 3 0x8005 0 0 (leBytes 8 9) (up [(.QUE_SEL, 0, 0x4000)])), ?_⟩,
    ⟨0, opn true 0x8000 2, R, ?_⟩,
    ⟨0, 0, 0x8000, 0, 0, false, rowOf 0x8000 0, [5], opn true 0x8000 2, rq 4 0x8000 0 0 [5] (opened (opn true 0x8000 2)),
      requestTaken 0 (rq 4 0x8000 0 0 [5] (opened (opn true 0x8000 2))), ?_⟩,
    ⟨0, 0, 0x8000, 0, 0, false, rowOf 0x8000 0, [5, 0], opn true 0x8000 2, rq 4 0x8000 0 2 [5, 0] (opened (opn true 0x8000 2)),
      requestTaken 0 (rq 4 0x8000 0 2 [5, 0] (opened (opn true 0x8000 2))), (writeValue (rowOf 0x8000 0) 0x8000 0 0 0 0 [5, 0]
      [] (requestTaken 0 (rq 4 0x8000 0 2 [5, 0] (opened (opn true 0x8000 2))))).2, ?_⟩,
    ⟨0, 0, 0x8000, 0, 0, 56, false, rowOf 0x8000 0, opn false 0x8000 57, rq 5 0x8000 0 0 [] (opened (opn false 0x8000 57)),
      requestTaken 0 (rq 5 0x8000 0 0 [] (opened (opn false 0x8000 57))), ?_⟩,
    ⟨0, 0, 0x8000, 0, 0, 2, false, rowOf 0x8000 0, opn false 0x8000 2, rq 5 0x8000 0 0 [] (opened (opn false 0x8000 2)),
      requestTaken 0 (rq 5 0x8000 0 0 [] (opened (opn false 0x8000 2))), ?_⟩,
    ⟨0, 0, 0x8000, 0, 2, false, opn false 0x8000 2, okOr (nextSegment 0 (opn false 0x8000 2) 2 (requestTaken 0 (rq 5 0x8000 0 0
      [] (opened (opn false 0x8000 2))))).1 [], rq 5 0x8000 0 0 [] (opened (opn false 0x8000 2)), requestTaken 0 (rq 5 0x8000 0
      0 [] (opened (opn false 0x8000 2))), (nextSegment 0 (opn false 0x8000 2) 2 (requestTaken 0 (rq 5 0x8000 0 0 [] (opened
      (opn false 0x8000 2))))).2, ?_⟩,
    ⟨0, 0, 0x8000, 0, { write := false, index := 0x8000, sub := 0, inst := 0, total := 2 }, rq 6 0x8000 0 0 []
      ({ up [] with path0 := { transfer := some { write := false, index := 0x8000, sub := 0, inst := 0, total := 2 } } }),
      requestTaken 0 (rq 6 0x8000 0 0 []
      ({ up [] with path0 := { transfer := some { write := false, index := 0x8000, sub := 0, inst := 0, total := 2 } } })), ?_⟩⟩ <;>
    repeat' first
      | decide +kernel
      | rfl
      | exact ok_okOr R (by decide +kernel)
      | exact unit_ok (by decide +kernel)
      | exact pair_ok (by decide +kernel)
      | exact pair_okOr [] (by decide +kernel)
      | constructor

theorem witness_RequestsAreRefused :
    (∃ (p : Path) (cmd : Nat) (tag : Byte) (idx sub : Nat) (bs : List Byte) (s : State), Request p cmd tag idx sub 0 bs s ∧ (cmd
      = 0 ∨ 6 < cmd ∧ cmd < 256) ∧ bs.length ≤ 56) ∧
    (∃ (p : Path) (tag : Byte) (idx sub : Nat) (s : State), Request p 1 tag idx sub 0 [] s ∧ findObj idx sub = .absent) ∧
    (∃ (p : Path) (tag : Byte) (idx sub : Nat) (s : State), Request p 1 tag idx sub 0 [] s ∧ findObj idx sub = .noSub) ∧
    (∃ (p : Path) (tag : Byte) (idx sub i : Nat) (row : ObjRow) (s : State), Request p 1 tag idx sub 0 [] s ∧ findObj idx sub =
      .obj row i ∧ row.acc = .wo) ∧
    (∃ (p : Path) (tag : Byte) (idx sub i : Nat) (row : ObjRow) (bs : List Byte) (s : State), Request p 2 tag idx sub 0 bs s ∧
      bs.length ≤ 56 ∧ findObj idx sub = .obj row i ∧ row.acc = .ro) ∧
    (∃ (p : Path) (tag : Byte) (idx sub i : Nat) (row : ObjRow) (bs : List Byte) (s : State), Request p 2 tag idx sub 0 bs s ∧
      bs.length ≤ 56 ∧ findObj idx sub = .obj row i ∧ row.acc ≠ .ro ∧ row.ty.isBytes = false ∧ bs.length ≠ row.ty.size) ∧
    (∃ (p : Path) (tag : Byte) (idx sub i : Nat) (row : ObjRow) (bs : List Byte) (s : State), Request p 2 tag idx sub 0 bs s ∧
      findObj idx sub = .obj row i ∧ row.acc ≠ .ro ∧ row.ty.isBytes = false ∧ bs.length = row.ty.size ∧ inRange row.ty row.rng
      (decodeVal row.ty bs) = false) ∧
    (∃ (p : Path) (tag : Byte) (idx sub i n : Nat) (row : ObjRow) (bs : List Byte) (s u v : State), Request p 2 tag idx sub 0 bs
      s ∧ u = requestTaken p s ∧ findObj idx sub = .obj row i ∧ row.acc ≠ .ro ∧ row.ty.isBytes = false ∧ n = instOf u p row i
      sub ∧ bs.length = row.ty.size ∧ inRange row.ty row.rng (decodeVal row.ty bs) = true ∧ writeObject row n (decodeVal row.ty
      bs) [] u = .ok v ∧ (unserved u row idx n = true ∨ retiredWrite u row (decodeVal row.ty bs) = true)) ∧
    (∃ (p : Path) (cmd : Nat) (tag : Byte) (idx sub : Nat) (s : State), Request p cmd tag idx sub 0 [] s ∧ (cmd = 5 ∨ cmd = 6) ∧
      (pathOf (requestTaken p s) p).transfer = none ∧ (pathOf (requestTaken p s) p).timedOut.contains (idx, sub) = false) ∧
    (∃ (p : Path) (cmd : Nat) (tag : Byte) (idx sub tog : Nat) (bs : List Byte) (s : State), Request p cmd tag idx sub tog bs s
      ∧ (cmd = 4 ∧ tog < 4 ∨ cmd = 5 ∧ tog < 2) ∧ bs.length ≤ 56 ∧ (pathOf (requestTaken p s) p).timedOut.contains (idx, sub) =
      true) ∧
    (∃ (p : Path) (s : State) (c : Instr), c ∈ [Instr.ydpRead p, .ydpWrite p, .writeInit p, .writeSeg p, .readSeg p, .ydpAbort
      p] ∧ mayServe s p = false ∧ (p = 0 ∨ headPacket s = [] ∨ headRequest s p ≠ none)) ∧
    (∃ (s : State) (c : Instr), c ∈ [Instr.ydpRead 1, .ydpWrite 1, .writeInit 1, .writeSeg 1, .readSeg 1, .ydpAbort 1] ∧ served
      s = true ∧ headPacket s ≠ [] ∧ headRequest s 1 = none) := by
  refine ⟨⟨0, 255, 0, 0, 0, [], rq 255 0 0 0 [] (up []), ?_⟩,
    ⟨0, 0, 0x0001, 0, rq 1 1 0 0 [] (up []), ?_⟩,
    ⟨0, 0, 0x8001, 0xFF, rq 1 0x8001 0xFF 0 [] (up []), ?_⟩,
    ⟨0, 0, 0x8004, 0, 0, rowOf 0x8004 0, rq 1 0x8004 0 0 [] (up []), ?_⟩,
    ⟨0, 0, 0x8001, 1, 0, rowOf 0x8001 1, [], rq 2 0x8001 1 0 [] (up []), ?_⟩,
    ⟨0, 0, 0x8000, 0, 0, rowOf 0x8000 0, [5], rq 2 0x8000 0 0 [5] (up []), ?_⟩,
    ⟨0, 0, 0x8000, 0, 0, rowOf 0x8000 0, [0, 0x80], rq 2 0x8000 0 0 [0, 0x80] (up []), ?_⟩,
    ⟨0, 0, 0x8000, 0, 0, 0, rowOf 0x8000 0, [5, 0], rq 2 0x8000 0 0 [5, 0] ({ up [] with boot := { phase := .fuseError } }),
      requestTaken 0 (rq 2 0x8000 0 0 [5, 0] ({ up [] with boot := { phase := .fuseError } })), okOr (writeObject (rowOf 0x8000
      0) 0 5 [] (requestTaken 0 (rq 2 0x8000 0 0 [5, 0] ({ up [] with boot := { phase := .fuseError } })))) R, ?_⟩,
    ⟨0, 5, 0, 0x8000, 0, rq 5 0x8000 0 0 [] (up []), ?_⟩,
    ⟨0, 4, 0, 0x8000, 0, 3, [5], rq 4 0x8000 0 3 [5] ({ up [] with path0 := { timedOut := [(0x8000, 0)] } }), ?_⟩,
    ⟨0, R, .ydpRead 0, ?_⟩,
    ⟨{ up [] with queues := [(0x2000, { words := [{ data := 5, fin := true, psn := true }] })] }, .ydpAbort 1, ?_⟩⟩ <;>
    repeat' first | decide +kernel | rfl | exact ok_okOr R (by decide +kernel) | constructor

theorem witness_TimeoutsBusAndRestarts :
    (∃ (p : Path) (x : Transfer) (s : State), (pathOf s p).transfer = some x ∧ x.at_ + 2500000 * rn s .LNK_YDP_SEG_TIMEOUT ≤
      s.elapsed ∧ segmentWaits s p x = false) ∧
    (∃ (p : Path) (x : Transfer) (s : State), (pathOf s p).transfer = some x ∧ (s.elapsed < x.at_ + 2500000 * rn s
      .LNK_YDP_SEG_TIMEOUT ∨ segmentWaits s p x = true)) ∧
    (∃ (id : BitVec 29) (bs : List Byte) (s : State), reachable s 0 = true ∧ id.toNat = 0x400 + rn s .LNK_CAN_NODE ∧
      s.path0.requests.length < 4) ∧
    (∃ (id : BitVec 29) (bs : List Byte) (s : State), reachable s 0 = true ∧ id.toNat = 0x400 + rn s .LNK_CAN_NODE ∧ 4 ≤
      s.path0.requests.length) ∧
    (∃ (id : BitVec 29) (bs : List Byte) (s : State), reachable s 0 = true ∧ id.toNat = 0x400 + rn s .LNK_CAN_NODE) ∧
    (∃ (ext : Bool) (kind : CanKind) (id : BitVec 29) (bs : List Byte) (s : State), (ext = true ∨ kind = .remote ∨ id.toNat ≠
      0x400 + rn s .LNK_CAN_NODE ∨ reachable s 0 = false)) ∧
    (∃ (tec rec : Nat) (s : State), served s = true ∧ rn s .LNK_CAN_STATE ≠ 2) ∧
    (∃ s : State, rn s .LNK_CAN_STATE = 2) ∧
    (∃ (k : Fin 5) (bad : Bool) (s : State), served s = true ∧ (k = 0 → s.path0.requests = [] ∧ (qget s 0x2000).words = [])) ∧
    (∃ (tag : Byte) (idx sub : Nat) (s w : State), Request 0 1 tag idx sub 0 [] s ∧ w = logFault clsEngine 0 128 s.tml (inc
      .MCS_FAULT 0 s)) := by
  refine ⟨⟨0, opn false 0x8000 2, { opened (opn false 0x8000 2) with elapsed := 2500000000000 }, ?_⟩,
    ⟨0, { write := false, index := 0x8000, sub := 0, inst := 0, total := 2 },
      { R with path0 := { transfer := some { write := false, index := 0x8000, sub := 0, inst := 0, total := 2 } } }, ?_⟩,
    ⟨BitVec.ofNat 29 (0x400 + rn R .LNK_CAN_NODE), [], up [], ?_⟩,
    ⟨BitVec.ofNat 29 (0x400 + rn R .LNK_CAN_NODE), [], { up [] with path0 := { requests := [[], [], [], []] } }, ?_⟩,
    ⟨BitVec.ofNat 29 (0x400 + rn R .LNK_CAN_NODE), [], up [], ?_⟩,
    ⟨false, .remote, 0, [], R, ?_⟩,
    ⟨0, 0, up [], ?_⟩,
    ⟨st [(.LNK_CAN_STATE, 0, 2)], ?_⟩,
    ⟨0, false, up [], ?_⟩,
    ⟨0, 0x8000, 0, rq 1 0x8000 0 0 [] (up []), ?_⟩⟩ <;>
    repeat' first | decide +kernel | rfl | constructor

theorem witness_DramTrainingWipeAndTests :
    (∃ s : State, rn s .DRM_STATE = 2) ∧
    (∃ s : State, rn s .DRM_STATE ≠ 2) ∧
    (∃ (ch : Fin 8) (org : Fin 4) (s : State), rn s .DRM_CH_STATE ch = 1 ∧ dmOk s ch = true ∧ bitOf s.clk.gated ch = false ∧
      (dch s ch).rateChange = false ∧ (dch s ch).step < 5 ∧ ((dch s ch).step ≠ 0 ∨ org ≠ 0)) ∧
    (∃ (ch : Fin 8) (org : Fin 4) (s : State), rn s .DRM_CH_STATE ch = 1 ∧ dmOk s ch = true ∧ bitOf s.clk.gated ch = false ∧
      (dch s ch).rateChange = false ∧ (dch s ch).step = 5) ∧
    (∃ (ch : Fin 8) (org : Fin 4) (s : State), rn s .DRM_CH_STATE ch = 1 ∧ dmOk s ch = true ∧ bitOf s.clk.gated ch = false ∧
      (dch s ch).rateChange = false ∧ ((dch s ch).step ≠ 0 ∨ org ≠ 0)) ∧
    (∃ (ch : Fin 8) (ok : Bool) (s : State), rn s .DRM_CH_STATE ch = 1 ∧ dmOk s ch = true ∧ bitOf s.clk.gated ch = false ∧ (dch
      s ch).rateChange = false ∧ (dch s ch).step = 0) ∧
    (∃ (ch : Fin 8) (ok : Bool) (org : Fin 4) (s : State), rn s .DRM_CH_STATE ch = 1 ∧ dmOk s ch = true ∧ bitOf s.clk.gated ch =
      false ∧ (dch s ch).rateChange = true) ∧
    (∃ (v fails first mask : Nat) (at_ : List (Nat × Nat)) (data : List (List Word)) (par : List Bool) (s : State), s.dram.bist
      = some v ∧ bistResult s v (bistReads at_ data par) = (fails, first, mask)) ∧
    (∃ (at_ : List (Nat × Nat)) (data : List (List Word)) (par : List Bool) (s : State), s.dram.bist = none) := by
  refine ⟨⟨st [(.DRM_STATE, 0, 2)], ?_⟩,
    ⟨R, ?_⟩,
    ⟨0, 1, { st [(.DRM_CH_STATE, 0, 1), (.CLK_MON_STATE, 13, 2)] with dram := { chans := [(0, { step := 3 })] } }, ?_⟩,
    ⟨0, 0, { st [(.DRM_CH_STATE, 0, 1), (.CLK_MON_STATE, 13, 2)] with dram := { chans := [(0, { step := 5 })] } }, ?_⟩,
    ⟨0, 1, { st [(.DRM_CH_STATE, 0, 1), (.CLK_MON_STATE, 13, 2)] with dram := { chans := [(0, { step := 3 })] } }, ?_⟩,
    ⟨0, true, { st [(.DRM_CH_STATE, 0, 1), (.CLK_MON_STATE, 13, 2)] with dram := { chans := [(0, { step := 0 })] } }, ?_⟩,
    ⟨0, true, 0,
      { st [(.DRM_CH_STATE, 0, 1), (.CLK_MON_STATE, 13, 2)] with dram := { chans := [(0, { rateChange := true })] } }, ?_⟩,
    ⟨0, 0, 0, 0, [], [], [], { R with dram := { bist := some 0 } }, ?_⟩,
    ⟨[], [], [], R, ?_⟩⟩ <;>
    decide +kernel

theorem witness_DramTrafficAndUpkeep :
    (∃ (ch : Fin 8) (r : BurstReq) (bad : BitVec 8) (off : Nat) (s : State), dramServes s ch = true ∧ reqOk s ch r = true ∧
      r.write = true ∧ 18 < r.src ∧ r.data.length = 8 ∧ rn s .DRM_CH_STATE ch ≠ 3 ∧ (∀ i, i < 64 → mapAddr s (r.addr + i) = some
      (ch.val, off + i))) ∧
    (∃ (ch : Fin 8) (r : BurstReq) (s : State), dramServes s ch = true ∧ reqOk s ch r = true ∧ r.write = false ∧ r.src ≤ 18 ∧ rn
      s .DRM_CH_STATE ch ≠ 3 ∧ portLevel s r.src + 64 ≤ portSize r.src) ∧
    (∃ (ch : Fin 8) (r : BurstReq) (c : Nat × Nat) (s : State), dramServes s ch = true ∧ reqOk s ch r = true ∧ r.write = false ∧
      r.src ≤ 18 ∧ mapAddr s r.addr = some c ∧ rn s .DRM_CH_STATE ch = 3 ∧ portLevel s r.src + 64 ≤ portSize r.src) ∧
    (∃ (ch : Fin 8) (rank : Fin 2) (s : State), refreshes s ch rank = true ∧ (mget 0 (dch s ch).refAt rank = 0 ∨ mget 0 (dch s
      ch).refAt rank - 1 + refreshInterval s ch ≤ s.elapsed) ∧ anyPanic s = false) ∧
    (∃ (ch : Fin 8) (rank : Fin 2) (s : State), refreshes s ch rank = true ∧ (mget 0 (dch s ch).refAt rank = 0 ∨ mget 0 (dch s
      ch).refAt rank - 1 + refreshInterval s ch ≤ s.elapsed) ∧ anyPanic s = true) ∧
    (∃ (ch : Fin 8) (rank : Fin 2) (s : State), refreshes s ch rank = false) ∧
    (∃ (hot err : BitVec 16) (s : State), (∀ a, s.dram.mr4At = some a → a + 32 * msT ≤ s.elapsed)) ∧
    (∃ (ch : Fin 8) (s : State), retrainNext s = some ch.val ∧ 3 ≤ rn s .DRM_STATE ∧ (∀ x, x < 8 → (dch s x).retrain = none) ∧
      anyPanic s = false ∧ quietFor s 8 10000 = true) ∧
    (∃ (ch : Fin 8) (k : Nat) (s : State), (dch s ch).retrain = some k) ∧
    (∃ (ch : Fin 8) (k : Nat) (s : State), (dch s ch).retrain = some k ∧ anyPanic s = true) := by
  refine ⟨⟨0, { src := 19, write := true, addr := 0, data := List.replicate 8 0 }, 0, 0, st [(.DRM_STATE, 0, 3), (.DRM_RANGE, 0,
    2 ^ 30), (.DRM_CHTAB, 0, 8), (.DRM_CH_ORG, 0, 1)], ?_⟩,
    ⟨0, { src := 0, write := false, addr := 0, data := [] },
      { st [(.DRM_STATE, 0, 3), (.DRM_RANGE, 0, 2 ^ 30), (.DRM_CHTAB, 0, 8), (.DRM_CH_ORG, 0, 1)] with dram := { levels := [(0, 0)] } },
      ?_⟩,
    ⟨0, { src := 0, write := false, addr := 0, data := [] }, (0, 0),
      { st (drm ++ [(.DRM_CH_STATE, 0, 3)]) with dram := { levels := [(0, 0)] } }, ?_⟩,
    ⟨0, 0, { st (drm ++ [(.DRM_CH_STATE, 0, 2)]) with dram := { levels := calm, panic := [] } }, ?_⟩,
    ⟨0, 0, st (drm ++ [(.DRM_CH_STATE, 0, 2)]), ?_⟩,
    ⟨0, 0, R, ?_⟩,
    ⟨0, 0, R, ?_⟩,
    ⟨0, { st (drm ++ [(.DRM_CH_STATE, 0, 2)]) with dram := { levels := calm, panic := [] }, elapsed := 10000000000000 }, ?_⟩,
    ⟨0, 0, { R with dram := { chans := [(0, { retrain := some 0 })] } }, ?_⟩,
    ⟨0, 0, { R with dram := { rings := [(0, [(0, 0)])], levels := [(16, -65536)], chans := [(0, { retrain := some 0 })] } },
      ?_⟩⟩ <;>
    repeat' first | decide +kernel | rfl | exact noneAll (by decide +kernel) | constructor

theorem witness_LanesReceiveAndSend :
    (∃ (l : Fin 32) (s : State), rn s .LNK_LN_STATE l ≠ 0) ∧
    (∃ (l : Fin 32) (ppm : BitVec 16) (raw : BitVec 80) (more : List Bool) (s : State) (c : Instr), c ∈ [Instr.lossOfSignal l,
      .lossOfLock l, .ppmMeasure l ppm, .blockReceive l raw more] ∧ rn s .LNK_LN_STATE l = 0) ∧
    (∃ (l : Fin 32) (s : State), rn s .LNK_LN_STATE l = 0 ∧ (lnget s l).txq = []) ∧
    (∃ (l : Fin 32) (ts : Nat) (w : Word) (rest : List TxBlock) (s : State), laneClock s l = true ∧ 16 ≤ l.val ∧ rn s
      .LNK_LN_STATE l = 0 ∧ (lnget s l).txq = .data ts w :: rest ∧ (lnget s l).sinceShim + 1 < 1024) ∧
    (∃ (l : Fin 32) (ppm : BitVec 16) (s : State), rn s .LNK_LN_STATE l = 4) ∧
    (∃ (l : Fin 32) (raw : BitVec 80) (more : List Bool) (b : Nat) (r : Bool × Nat) (s : State), laneClock s l = true ∧ rn s
      .LNK_LN_STATE l = 1 ∧ unstuffed (lineBits raw more) (lnget s l).rxRun 0 = (b, r, false) ∧ (blkSync (b % 2 ^ 80) = 1 ∨
      blkSync (b % 2 ^ 80) = 2) ∧ (lnget s l).good + 1 < 64) ∧
    (∃ (l : Fin 32) (raw : BitVec 80) (more : List Bool) (b : Nat) (r : Bool × Nat) (s : State), laneClock s l = true ∧ 16 ≤
      l.val ∧ rn s .LNK_LN_STATE l = 1 ∧ unstuffed (lineBits raw more) (lnget s l).rxRun 0 = (b, r, false) ∧ (blkSync (b % 2 ^
      80) = 1 ∨ blkSync (b % 2 ^ 80) = 2) ∧ (lnget s l).good = 63) ∧
    (∃ (l : Fin 32) (raw : BitVec 80) (more : List Bool) (b : Nat) (r : Bool × Nat) (s : State), laneClock s l = true ∧ 2 ≤ rn s
      .LNK_LN_STATE l ∧ unstuffed (lineBits raw more) (lnget s l).rxRun 0 = (b, r, true)) ∧
    (∃ (l : Fin 32) (raw : BitVec 80) (more : List Bool) (b ts st p : Nat) (r : Bool × Nat) (w : Nat) (s : State), laneClock s l
      = true ∧ 16 ≤ l.val ∧ rn s .LNK_LN_STATE l = 4 ∧ unstuffed (lineBits raw more) (lnget s l).rxRun 0 = (b, r, false) ∧
      blkSync (b % 2 ^ 80) = 1 ∧ popcount 64 (2 * (lnget s l).syncs % 2 ^ 64) < 16 ∧ readBlock true (b % 2 ^ 80) (lnget s
      l).rxScr = (.data ts w, st) ∧ (lnget s l).rxPos = some p ∧ p + 1 < 4096 ∧ s.elapsed = (lnget s l).rxAt ∧ 100 ≤ (lnget s
      l).fill ∧ (lnget s l).fill ≤ 375) ∧
    (∃ (l : Fin 32) (s : State), laneClock s l = true ∧ (rn s .LNK_LN_STATE l = 1 ∨ rn s .LNK_LN_STATE l = 2) ∧ (isHost l = true
      ∨ (lnget s l).txq = []) ∧ shimGap s l ≤ (lnget s l).sinceShim + 1) ∧
    (∃ (l : Fin 32) (s : State), laneClock s l = true ∧ (rn s .LNK_LN_STATE l = 1 ∨ rn s .LNK_LN_STATE l = 2) ∧ (isHost l = true
      ∨ (lnget s l).txq = []) ∧ (lnget s l).sinceShim + 1 < shimGap s l) ∧
    (∃ (l : Fin 32) (ts : Nat) (w : Word) (rest : List TxBlock) (s : State), laneClock s l = true ∧ isHost l = true ∧ 3 ≤ rn s
      .LNK_LN_STATE l ∧ (lnget s l).framed = true ∧ (lnget s l).txq = .data ts w :: rest) ∧
    (∃ (l : Fin 32) (ts : Nat) (w : Word) (rest : List TxBlock) (s : State), laneClock s l = true ∧ 16 ≤ l.val ∧ 3 ≤ rn s
      .LNK_LN_STATE l ∧ (lnget s l).sinceShim + 1 < shimGap s l ∧ (lnget s l).framed = true ∧ (lnget s l).txPos ≠ 0 ∧ (lnget s
      l).txq = .data ts w :: rest) := by
  refine ⟨⟨31, st [(.LNK_LN_STATE, 31, 1)], ?_⟩,
    ⟨0, 0, 0, [], st [(.LNK_LN_STATE, 0, 0)], .lossOfLock 0, ?_⟩,
    ⟨0, st [(.LNK_LN_STATE, 0, 0)], ?_⟩,
    ⟨16, 5, 7, [], { st [VC, (.LNK_LN_STATE, 16, 0)] with lanes := [(16, { txq := [.data 5 7] })] }, ?_⟩,
    ⟨0, 1, st [(.LNK_LN_STATE, 0, 4)], ?_⟩,
    ⟨16, 2 ^ 78 + 2 ^ 39 - 1, [], 2 ^ 78 + 2 ^ 39 - 1, (true, 39), st [VC, (.LNK_LN_STATE, 16, 1)], ?_⟩,
    ⟨16, 2 ^ 78 + 2 ^ 39 - 1, [], 2 ^ 78 + 2 ^ 39 - 1, (true, 39),
      { st [VC, (.LNK_LN_STATE, 16, 1)] with lanes := [(16, { good := 63 })] }, ?_⟩,
    ⟨16, 2 ^ 80 - 1, [], (unstuffed (lineBits (2 ^ 80 - 1) []) (false, 0) 0).1, (unstuffed (lineBits (2 ^ 80 - 1) []) (false, 0)
      0).2.1, st [VC, (.LNK_LN_STATE, 16, 2)], ?_⟩,
    ⟨16, BitVec.ofNat 80 (scramble (blockBits 1 5 PW) 0).1, [], (scramble (blockBits 1 5 PW) 0).1, 5, (scramble (blockBits 1 5
      PW) 0).2, 4094, (unstuffed (lineBits (BitVec.ofNat 80 (scramble (blockBits 1 5 PW) 0).1) []) (false, 0) 0).2.1, PW,
      { st [VC, (.LNK_LN_STATE, 16, 4)] with lanes := [(16, { rxPos := some 4094 })] }, ?_⟩,
    ⟨16, { st [VC, (.LNK_LN_STATE, 16, 2)] with lanes := [(16, { sinceShim := 4096 })] }, ?_⟩,
    ⟨16, st [VC, (.LNK_LN_STATE, 16, 1)], ?_⟩,
    ⟨0, 5, 7, [],
      { st [(.CLK_MON_STATE, 9, 2), (.LNK_LN_STATE, 0, 4)] with lanes := [(0, { framed := true, txq := [.data 5 7] })] }, ?_⟩,
    ⟨16, 5, 7, [],
      { st [(.CLK_MON_STATE, 11, 2), (.LNK_LN_STATE, 16, 4)] with lanes := [(16, { framed := true, txPos := 1, txq := [.data 5 7] })] },
      ?_⟩⟩ <;>
    decide +kernel

theorem witness_BlocksAreReadBack :
    (∃ (framed : Bool) (ts w st : Nat), ts < 2 ^ 6 ∧ w < 2 ^ 64 ∧ st < 2 ^ 31) ∧
    (∃ st : Nat, st < 2 ^ 31) ∧
    (∃ reason ts st : Nat, reason < 2 ^ 6 ∧ ts < 2 ^ 6 ∧ st < 2 ^ 31) ∧
    (∃ (framed : Bool) (w st : Nat), w < 2 ^ 64 ∧ (framed = true → ∀ ts p, (ts, p) ∈ [(1, shimPayload), (2, w), (3, w)] →
      scrambledKind (scramble (blockBits 2 ts p) st).1 = false)) ∧
    (∃ (b : Nat) (x : Bool) (n : Nat), b < 2 ^ 80 ∧ n < 48) := by
  refine ⟨⟨true, 63, 2 ^ 64 - 1, 0, ?_⟩,
    ⟨0, ?_⟩,
    ⟨63, 63, 2 ^ 31 - 1, ?_⟩,
    ⟨true, 1, 0, ?_⟩,
    ⟨0, false, 47, ?_⟩⟩ <;>
    repeat' first | decide +kernel | rfl | exact fun _ => noKinds | constructor

theorem witness_HostLinkPackets :
    (∃ (p : LinkPacket) (rest : List LinkPacket) (s : State), s.hl.packets = p :: rest ∧ p.vc = 0 ∧ p.reason = 0 ∧ p.hit = false
      ∧ fld p.header 63 52 = (vcget s 0).expect ∧ (vcget s 0).got + 1 + p.words.length ≤ (vcget s 0).granted) ∧
    (∃ (p : LinkPacket) (rest : List LinkPacket) (s : State), s.hl.packets = p :: rest ∧ p.reason = 1) ∧
    (∃ (p : LinkPacket) (rest : List LinkPacket) (s : State), s.hl.packets = p :: rest ∧ p.vc ≤ 1 ∧ p.reason = 0 ∧ p.hit = false
      ∧ (fld p.header 63 52 + 4096 - (vcget s p.vc).expect) % 4096 ≠ 0 ∧ (fld p.header 63 52 + 4096 - (vcget s p.vc).expect) %
      4096 < 2048 ∧ (vcget s p.vc).nak = none ∧ (vcget s p.vc).got + 1 + p.words.length ≤ (vcget s p.vc).granted) ∧
    (∃ s : State, s.hl.packets = []) ∧
    (∃ (w : Word) (rest : List Word) (us : List Word) (more : List (Nat × List Word)) (s : State), s.hl.ctls = w :: rest ∧ fld w
      63 60 = 1 ∧ fld w 59 58 = 0 ∧ s.hl.unacked = (fld w 43 32, us) :: more ∧ s.hl.resend = []) ∧
    (∃ (w : Word) (rest : List Word) (s : State), s.hl.ctls = w :: rest ∧ fld w 63 60 = 2 ∧ fld w 59 58 = 0 ∧ s.hl.acked = fld w
      43 32 ∧ (∀ u ∈ s.hl.unacked, u.1 ≠ fld w 43 32)) ∧
    (∃ (w : Word) (rest : List Word) (s : State), s.hl.ctls = w :: rest ∧ fld w 63 60 = 3 ∧ (fld w 31 0 + 2 ^ 32 - (vcget s (fld
      w 59 58)).limit) % 2 ^ 32 < 2 ^ 31) ∧
    (∃ s : State, hostUp s = true) ∧
    (∃ s : State, hostUp s = true ∧ creditDue s 0 = true ∧ (vcget s 1).grantAt = some s.elapsed ∧ limitNow s 1 < (vcget s
      1).granted + 1024) ∧
    (∃ s : State, hostUp s = true ∧ s.hl.unacked ≠ [] ∧ s.hl.rtoAt + 2500 * rn s .LNK_RTO ≤ s.elapsed ∧ s.hl.timeouts < 7) ∧
    (∃ (h : Word) (ws : List Word) (s u : State), uploadWaits s = false ∧ readWhole 0x2002 258 s = ((h :: ws, false), u) ∧
      uploadReason u (fld h 39 0) (8 * ws.length) = 0) ∧
    (∃ (h : Word) (ws : List Word) (s u : State), uploadWaits s = false ∧ readWhole 0x2002 258 s = ((h :: ws, true), u)) ∧
    (∃ s : State, uploadWaits s = true) ∧
    (∃ (h : Word) (ws : List Word) (s u : State), uploadWaits s = false ∧ readWhole 0x2002 258 s = ((h :: ws, false), u) ∧
      uploadReason u (fld h 39 0) (8 * ws.length) ≠ 0 ∧ rn u .LNK_UPL_REFUSED = 0) := by
  refine ⟨⟨{ vc := 0, header := 0 }, [],
    { R with hl := { packets := [{ vc := 0, header := 0 }], vcs := [(0, { granted := 1 })] } }, ?_⟩,
    ⟨{ vc := 0, header := 0, reason := 1 }, [], { R with hl := { packets := [{ vc := 0, header := 0, reason := 1 }] } }, ?_⟩,
    ⟨{ vc := 1, header := word (2047 * 2 ^ 52) }, [],
      { R with hl := { packets := [{ vc := 1, header := word (2047 * 2 ^ 52) }], vcs := [(1, { granted := 1 })] } }, ?_⟩,
    ⟨R, ?_⟩,
    ⟨word (2 ^ 60), [], [], [], { R with hl := { ctls := [word (2 ^ 60)], unacked := [(0, [])] } }, ?_⟩,
    ⟨word (2 * 2 ^ 60), [], { R with hl := { ctls := [word (2 * 2 ^ 60)], acked := 0 } }, ?_⟩,
    ⟨word (3 * 2 ^ 60 + 5), [], { R with hl := { ctls := [word (3 * 2 ^ 60 + 5)] } }, ?_⟩,
    ⟨st [(.LNK_HL_STATE, 0, 2)], ?_⟩,
    ⟨{ st [(.LNK_HL_STATE, 0, 2)] with hl := { vcs := [(1, { granted := 1000000, grantAt := some 0 })] } }, ?_⟩,
    ⟨{ st [(.LNK_HL_STATE, 0, 2)] with hl := { unacked := [(0, [])] }, elapsed := 2500000000000 }, ?_⟩,
    ⟨0, [], upl 0, (readWhole 0x2002 258 (upl 0)).2, by decide +kernel, Prod.ext (by decide +kernel) rfl, by decide +kernel⟩,
    ⟨5, [], uplBad, (readWhole 0x2002 258 uplBad).2, by decide +kernel, Prod.ext (by decide +kernel) rfl⟩,
    ⟨uplWait, ?_⟩,
    ⟨word (2 ^ 39), [], upl (2 ^ 39), (readWhole 0x2002 258 (upl (2 ^ 39))).2, by decide +kernel, Prod.ext (by decide +kernel)
      rfl, by decide +kernel, by decide +kernel⟩⟩ <;>
    decide +kernel

theorem witness_PtpClock :
    (∃ (p : Fin 2) (fr : PtpFrame) (s : State), tpUp s p = false) ∧
    (∃ (p : Fin 2) (fr : PtpFrame) (s : State), tpUp s p = true ∧ (fr.fcsOk = false ∨ 1522 < fr.bytes ∨ fr.ptpType = false ∨
      fr.ptpDest = false ∨ fr.version ≠ 2)) ∧
    (∃ (p : Fin 2) (fr : PtpFrame) (s : State), tpUp s p = true ∧ tpUp s (1 - p.val) = false ∧ fr.fcsOk = true ∧ fr.bytes ≤ 1522
      ∧ fr.ptpType = true ∧ fr.ptpDest = true ∧ fr.version = 2 ∧ ocTakes s p fr = true ∧ ivalOk fr = true) ∧
    (∃ (p : Fin 2) (fr : PtpFrame) (s : State), tpUp s p = true ∧ fr.fcsOk = true ∧ fr.bytes ≤ 1522 ∧ fr.ptpType = true ∧
      fr.ptpDest = true ∧ fr.version = 2 ∧ ivalOk fr = false) ∧
    (∃ (p : Fin 2) (fr : PtpFrame) (s : State), tpUp s p = true ∧ tpUp s (1 - p.val) = true ∧ fr.fcsOk = true ∧ fr.bytes ≤ 1522
      ∧ fr.ptpType = true ∧ fr.ptpDest = true ∧ fr.version = 2 ∧ ocTakes s p fr = false) ∧
    (∃ (p : Nat) (fr : PtpFrame) (t2 : Int) (rest : List (Nat × PtpFrame × Int)) (s : State), s.ptp.inbox = (p, fr, t2) :: rest
      ∧ fr.kind = .sync ∧ rn s .TNW_SLAVE_PORT = p + 1 ∧ fr.twoStep = true) ∧
    (∃ (p : Nat) (fr : PtpFrame) (t2 : Int) (rest : List (Nat × PtpFrame × Int)) (s : State), s.ptp.inbox = (p, fr, t2) :: rest
      ∧ fr.kind = .sync ∧ rn s .TNW_SLAVE_PORT = p + 1 ∧ fr.twoStep = false ∧ s.ptp.sums = []) ∧
    (∃ (p : Nat) (fr : PtpFrame) (t2 d : Int) (rest : List (Nat × PtpFrame × Int)) (s : State), s.ptp.inbox = (p, fr, t2) ::
      rest ∧ fr.kind = .sync ∧ rn s .TNW_SLAVE_PORT = p + 1 ∧ fr.twoStep = false ∧ pathDelay s.ptp = some d ∧ rn s .TNW_STATE =
      0 ∧ rn s .CLK_MGMT_SRC = 1 ∧ rn s .TRG_STREAM_STATE = 0) ∧
    (∃ (p : Nat) (fr : PtpFrame) (t2 d o : Int) (rest : List (Nat × PtpFrame × Int)) (s : State), s.ptp.inbox = (p, fr, t2) ::
      rest ∧ fr.kind = .sync ∧ rn s .TNW_SLAVE_PORT = p + 1 ∧ fr.twoStep = false ∧ pathDelay s.ptp = some d ∧ rn s .TNW_STATE =
      1 ∧ rn s .CLK_MGMT_SRC = 1 ∧ o = t2 - fr.stamp - fr.correction - d) ∧
    (∃ (p : Nat) (fr : PtpFrame) (t2 d : Int) (rest : List (Nat × PtpFrame × Int)) (s : State), s.ptp.inbox = (p, fr, t2) ::
      rest ∧ fr.kind = .sync ∧ rn s .TNW_SLAVE_PORT = p + 1 ∧ fr.twoStep = false ∧ pathDelay s.ptp = some d ∧ rn s .CLK_MGMT_SRC
      ≠ 1) ∧
    (∃ (p : Nat) (fr : PtpFrame) (u t2 c : Int) (rest : List (Nat × PtpFrame × Int)) (s : State), s.ptp.inbox = (p, fr, u) ::
      rest ∧ fr.kind = .followUp ∧ rn s .TNW_SLAVE_PORT = p + 1 ∧ s.ptp.sync = some (fr.seqId, t2, c) ∧ s.ptp.sums = []) ∧
    (∃ (p : Nat) (fr : PtpFrame) (u t3 m : Int) (rest : List (Nat × PtpFrame × Int)) (s : State), s.ptp.inbox = (p, fr, u) ::
      rest ∧ fr.kind = .delayResp ∧ s.ptp.req = some (fr.seqId, t3) ∧ s.ptp.m2s = some m) ∧
    (∃ (p : Nat) (fr : PtpFrame) (u : Int) (rest : List (Nat × PtpFrame × Int)) (s : State), s.ptp.inbox = (p, fr, u) :: rest ∧
      fr.kind = .announce ∧ p < 2 ∧ s.ptp.foreign = [] ∧ rn s .TNW_SLAVE_PORT = 0 ∧ rn s .TNW_STATE = 0) ∧
    (∃ (n : Nat) (s : State), rn s .TNW_ENABLE = 1 ∧ rn s .TNW_SLAVE_PORT = n + 1 ∧ (∀ t i, s.ptp.reqAt = some t → s.ptp.reqIval
      = some i → t + ivalTicks 1 i ≤ s.elapsed) ∧ (mget [] s.ptp.tc n).length < 4) ∧
    (∃ (t : Nat) (i : Int) (s : State), s.ptp.reqAt = some t ∧ s.ptp.reqIval = some i ∧ s.elapsed < t + ivalTicks 1 i) ∧
    (∃ (p : Fin 2) (fr : PtpFrame) (u : Int) (rest : List (PtpFrame × Option Int)) (s : State), tpUp s p = true ∧ mget []
      s.ptp.tc p = (fr, some u) :: rest ∧ eventKind fr.kind = true ∧ -(2 ^ 63) ≤ fr.correction + (ptpNow s - u) ∧ fr.correction
      + (ptpNow s - u) < 2 ^ 63) ∧
    (∃ (p : Fin 2) (fr : PtpFrame) (rest : List (PtpFrame × Option Int)) (s : State), tpUp s p = true ∧ mget [] s.ptp.tc p =
      (fr, none) :: rest) ∧
    (∃ (u : Nat) (i : Int) (s : State), s.ptp.syncAt = some (u, i) ∧ rn s .TNW_SLAVE_PORT ≠ 0 ∧ u + ivalTicks 3 i ≤ s.elapsed ∧
      (∀ q, q + 1 ≠ rn s .TNW_SLAVE_PORT → mget none s.ptp.foreign q = none)) ∧
    (∃ (p : Fin 2) (u : Nat) (i : Int) (f : Foreign) (s : State), s.ptp.syncAt = some (u, i) ∧ rn s .TNW_SLAVE_PORT = p.val + 1
      ∧ u + ivalTicks 3 i ≤ s.elapsed ∧ mget none s.ptp.foreign (1 - p.val) = some f) ∧
    (∃ (p : Fin 2) (s : State), (bitOf s.clk.gated (12 + p.val) = true ∨ tpClocked s = false)) ∧
    (∃ (p : Fin 2) (s : State), bitOf s.clk.gated (12 + p.val) = false ∧ tpClocked s = true) ∧
    (∃ (p : Fin 2) (s : State), rn s .TNW_SLAVE_PORT ≠ p.val + 1 ∧ tpUp s p = true) ∧
    (∃ s : State, ptpSeconds (ptpNow s) ≠ s.ptp.second ∧ ptpSeconds (ptpNow s) % rn s .TNW_TIME_PERIOD ≠ 0) ∧
    (∃ s : State, ptpSeconds (ptpNow s) = s.ptp.second) ∧
    (∃ (u : Nat) (s : State), s.ptp.pps = some u) := by
  refine ⟨⟨0, F0, st [(.TNW_TP_LINK, 0, 0)], ?_⟩,
    ⟨0, { F0 with fcsOk := false }, st [(.TNW_TP_LINK, 0, 1)], ?_⟩,
    ⟨0, F0, st [(.TNW_TP_LINK, 0, 1), (.TNW_ENABLE, 0, 1), (.TNW_SLAVE_PORT, 0, 1), (.TNW_DOMAIN, 0, 0)], ?_⟩,
    ⟨0, { F0 with logIval := 100 }, st [(.TNW_TP_LINK, 0, 3)], ?_⟩,
    ⟨0, F0, st [(.TNW_TP_LINK, 0, 3), (.TNW_ENABLE, 0, 0)], ?_⟩,
    ⟨0, F0, 0, [], { st [(.TNW_SLAVE_PORT, 0, 1)] with ptp := { inbox := [(0, F0, 0)] } }, ?_⟩,
    ⟨0, { F0 with twoStep := false }, 0, [],
      { st [(.TNW_SLAVE_PORT, 0, 1)] with ptp := { inbox := [(0, { F0 with twoStep := false }, 0)] } }, ?_⟩,
    ⟨0, { F0 with twoStep := false }, 0, 0, [],
      { st [(.TNW_SLAVE_PORT, 0, 1), (.TNW_STATE, 0, 0), (.CLK_MGMT_SRC, 0, 1)] with ptp := { inbox := [(0, { F0 with twoStep := false }, 0)], sums := [0] } },
      ?_⟩,
    ⟨0, { F0 with twoStep := false }, 0, 0, 0, [],
      { st [(.TNW_SLAVE_PORT, 0, 1), (.TNW_STATE, 0, 1), (.CLK_MGMT_SRC, 0, 1)] with ptp := { inbox := [(0, { F0 with twoStep := false }, 0)], sums := [0] } },
      ?_⟩,
    ⟨0, { F0 with twoStep := false }, 0, 0, [],
      { st [(.TNW_SLAVE_PORT, 0, 1), (.TNW_STATE, 0, 0)] with ptp := { inbox := [(0, { F0 with twoStep := false }, 0)], sums := [0] } },
      ?_⟩,
    ⟨0, { F0 with kind := .followUp }, 0, 0, 0, [],
      { st [(.TNW_SLAVE_PORT, 0, 1)] with ptp := { inbox := [(0, { F0 with kind := .followUp }, 0)], sync := some (0, 0, 0) } },
      ?_⟩,
    ⟨0, { F0 with kind := .delayResp }, 0, 0, 0, [],
      { st [(.TNW_SLAVE_PORT, 0, 1)] with ptp := { inbox := [(0, { F0 with kind := .delayResp }, 0)], req := some (0, 0), m2s := some 0 } },
      ?_⟩,
    ⟨0, { F0 with kind := .announce }, 0, [], { R with ptp := { inbox := [(0, { F0 with kind := .announce }, 0)] } }, ?_⟩,
    ⟨0, st [(.TNW_ENABLE, 0, 1), (.TNW_SLAVE_PORT, 0, 1)], ?_⟩,
    ⟨0, 0, { R with ptp := { reqAt := some 0, reqIval := some 0 } }, ?_⟩,
    ⟨0, F0, 0, [], { st [(.TNW_TP_LINK, 0, 1)] with ptp := { tc := [(0, [(F0, some 0)])] } }, ?_⟩,
    ⟨0, F0, [], { st [(.TNW_TP_LINK, 0, 1)] with ptp := { tc := [(0, [(F0, none)])] } }, ?_⟩,
    ⟨0, 0, { st [(.TNW_SLAVE_PORT, 0, 1)] with ptp := { syncAt := some (0, 0) }, elapsed := 250000000000 }, ?_⟩,
    ⟨0, 0, 0, { gm := 0, quality := [], at_ := 0, ival := 0 },
      { st [(.TNW_SLAVE_PORT, 0, 1)] with ptp := { syncAt := some (0, 0), foreign := [(1, some { gm := 0, quality := [], at_ := 0, ival := 0 })] }, elapsed := 250000000000 },
      ?_⟩,
    ⟨0, R, ?_⟩,
    ⟨0, { st [(.PKG_BOOT_WAIT, 0, 0)] with boot := { phase := .step1 } }, ?_⟩,
    ⟨0, st [(.TNW_TP_LINK, 0, 1)], ?_⟩,
    ⟨{ st [(.TNW_TIME_PERIOD, 0, 2)] with ptp := { acc := accUnit * 65536000000000 } }, ?_⟩,
    ⟨R, ?_⟩,
    ⟨0, { R with ptp := { pps := some 0 } }, ?_⟩⟩ <;>
    repeat' first | decide +kernel | rfl | exact noneAllTwo (by decide +kernel) | exact fun _ _ => rfl | constructor

theorem witness_ShutdownScrubAndPersistence :
    (∃ s : State, shutdownDue s 3 10 = true ∧ commitState s ≠ 1 ∧ commitState s ≠ 2) ∧
    (∃ s : State, shutdownDue s 3 10 = false) ∧
    (∃ (u : Fin 32) (a : Nat) (s : State), unitOk u = true ∧ quietFor s (unitScope u) 1 = true ∧ s.boot.phase ≠ .held) ∧
    (∃ (a : Nat) (s : State), quietFor s 8 1 = true ∧ s.boot.phase ≠ .held) ∧
    (∃ (u : Fin 32) (s : State), unitOk u = true ∧ rn s .FLT_SCRUB_LIMIT < scrubAge s u) ∧
    (∃ (v a : Nat) (s : State), s.boot.lcsArmed = some (v, a) ∧ a + 2500000000 ≤ s.elapsed) ∧
    (∃ s : State, s.boot.phase = .served ∧ s.nvm.erased = false ∧ commitState s ≠ 2 ∧ s.boot.lcsConf = none) ∧
    (∃ s : State, commitState s = 1) ∧
    (∃ s : State, commitState s = 2 ∧ rn s .THM_STATE ≠ 1 ∧ 256 * rn s .NVM_COMMIT_PAGES < s.nvm.buffer.length ∧ rn s
      .NVM_COMMIT_PAGES < 0xFFFF) ∧
    (∃ s : State, commitState s = 2 ∧ rn s .THM_STATE ≠ 1 ∧ s.nvm.buffer.length ≤ 256 * rn s .NVM_COMMIT_PAGES) ∧
    (∃ s : State, commitState s = 2) ∧
    (∃ s : State, rn s .PKG_IMG_STATE = 1) ∧
    (∃ (h : List Byte) (l : LoadSt) (why : Nat) (s : State), rn s .PKG_IMG_STATE = 1 ∧ loadRead 0xFFFF s.image.base 64
      { st := s, done := 0 } = (.ok h, l) ∧ headerFault h s.image.base (rn s .DRM_RANGE) = some why) ∧
    (∃ (h : List Byte) (dir : List Section) (ps : List (State → State)) (l m n : LoadSt) (s : State), rn s .PKG_IMG_STATE = 1 ∧
      loadRead 0xFFFF s.image.base 64 { st := s, done := 0 } = (.ok h, l) ∧ headerFault h s.image.base (rn s .DRM_RANGE) = none
      ∧ loadDir s.image.base (leAt h 0x10 8) (leAt h 0x18 8) (leAt h 0x0C 2) (leAt h 0x0C 2) [] l = (.ok dir, m) ∧ loadSections
      s.image.base dir 0 m = (.ok ps, n)) ∧
    (∃ s : State, rn s .PKG_IMG_STATE ≠ 1) := by
  refine ⟨⟨{ st [(.THM_STATE, 0, 1)] with cool := { stage := 3, tripAt := some 0 }, elapsed := 25000 }, ?_⟩,
    ⟨R, ?_⟩,
    ⟨31, 0, up [], ?_⟩,
    ⟨0, up [], ?_⟩,
    ⟨0, { st [(.FLT_SCRUB_LIMIT, 0, 1)] with elapsed := 2500000000 }, ?_⟩,
    ⟨1, 0, { R with boot := { lcsArmed := some (1, 0) }, elapsed := 2500000000 }, ?_⟩,
    ⟨up [], ?_⟩,
    ⟨st [(.NVM_COMMIT_STATE, 0, 1)], ?_⟩,
    ⟨{ st [(.NVM_COMMIT_STATE, 0, 2)] with nvm := { buffer := [0] } }, ?_⟩,
    ⟨st [(.NVM_COMMIT_STATE, 0, 2)], ?_⟩,
    ⟨st [(.NVM_COMMIT_STATE, 0, 2)], ?_⟩,
    ⟨st [(.PKG_IMG_STATE, 0, 1)], ?_⟩,
    ⟨okE (loadRead 0xFFFF 0 64 { st := loads [], done := 0 }).1 [], (loadRead 0xFFFF 0 64 { st := loads [], done := 0 }).2, 1,
      loads [], by decide +kernel, pair_okE [] (by decide +kernel), by decide +kernel⟩,
    ⟨head, okE load2.1 [], okE load3.1 [], load1.2, load2.2, load3.2, loads img, by decide +kernel, load1_ok, by decide +kernel,
      load2_ok, load3_ok⟩,
    ⟨R, ?_⟩⟩ <;>
    decide +kernel

theorem witness_PackageWrites :
    (∃ (p : Path) (tag : Byte) (s : State), Serves p s ∧ (rn s .THM_STATE = 0 ∨ (∀ g, g < 8 → bitOf (rn s .THM_TRIPPED g) 2 =
      false))) ∧
    (∃ (p : Path) (tag : Byte) (s : State), Serves p s ∧ rn s .CLK_MON_STATE 0 = 2 ∧ rn s .CLK_MON_STATE 4 = 2) ∧
    (∃ (p : Path) (tag : Byte) (s : State), Serves p s ∧ rn s .CLK_FMC_REF ≤ 5 ∧ 1 ≤ rn s .CLK_FMC_GATE ∧ rn s .CLK_FMC_GATE ≤
      1000000 ∧ rn s .CLK_FMC_STATE ≠ 1) ∧
    (∃ (p : Path) (tag : Byte) (v : BitVec 32) (busy : List (Fin 25 × Nat)) (s : State), Serves p s ∧ v.toNat < 2 ^ 25 ∧ (∀ c ∈
      tabChans (rn s .DRM_CHTAB), bitOf v.toNat c = false)) ∧
    (∃ (p : Path) (tag : Byte) (s : State), Serves p s ∧ quietPackage s = true) ∧
    (∃ (p : Path) (tag : Byte) (s : State), Serves p s) ∧
    (∃ (p : Path) (tag : Byte) (s : State), Serves p s ∧ inRun s = false ∧ rn s .PKG_IMG_STATE ≠ 1 ∧ rn s .PKG_IMG_BASE % 4096 =
      0 ∧ rn s .PKG_IMG_BASE + 64 ≤ rn s .DRM_RANGE ∧ rn s .DRM_STATE ≠ 1 ∧ rn s .DRM_STATE ≠ 2) ∧
    (∃ (p : Path) (tag : Byte) (s : State), Serves p s ∧ inRun s = false ∧ rn s .PKG_IMG_STATE ≠ 1) ∧
    (∃ (p : Path) (tag : Byte) (s : State), Serves p s ∧ s.tml + 250000 ≤ rn s .PKG_RUN_START ∧ rn s .PKG_IMG_STATE = 2 ∧ inRun
      s = false ∧ (∀ g, g < 8 → profileOf s g = nfld s.image.profiles (2 * g + 1) (2 * g) ∧ (rgget s g).req = none) ∧
      (s.image.viaduct = true → rn s .TML_SYNC_STATE = 2)) ∧
    (∃ (p : Path) (tag : Byte) (s : State), Serves p s ∧ rn s .PKG_RUN_STATE = 1 ∧ s.run.aborted = false ∧ s.run.ending = none)
      ∧
    (∃ (p : Path) (tag : Byte) (s : State), Serves p s ∧ (rn s .PKG_RUN_STATE ≠ 1 ∨ s.run.aborted = true ∨ s.run.ending ≠ none))
      ∧
    (∃ (p : Path) (tag : Byte) (s : State), Serves p s ∧ inRun s = true ∧ s.run.aborted = false) ∧
    (∃ (p : Path) (tag : Byte) (s : State), Serves p s ∧ (inRun s = false ∨ s.run.aborted = true)) ∧
    (∃ (p : Path) (tag : Byte) (s : State), Serves p s ∧ rn s .TRG_STREAM_STATE ≠ 0) ∧
    (∃ (p : Path) (tag : Byte) (q : Bool) (s : State), Serves p s ∧ streamState s = 0 ∧ (q = true ∨ rn s .LNK_HL_STATE = 2)) ∧
    (∃ (p : Path) (tag : Byte) (s : State), Serves p s ∧ rn s .TRG_ROLE ≠ roleMember ∧ (rn s .TRG_STATE = trgIdle ∨ rn s
      .TRG_STATE = trgFired) ∧ s.tml + rn s .TRG_ARM_DELAY ≤ rn s .TRG_ARM_GRAIN) ∧
    (∃ (p : Path) (tag : Byte) (s : State), Serves p s ∧ rn s .TRG_ROLE ≠ roleMember) ∧
    (∃ (p : Path) (tag : Byte) (g : RgnNo) (v : Byte) (s : State), Serves p s ∧ v.toNat ≤ 3 ∧ (rn s .RGN_FORCED g = 0 ∨ v.toNat
      = profCool)) ∧
    (∃ (p : Path) (tag : Byte) (v : BitVec 16) (s : State), Serves p s ∧ (∀ g, g < 8 → rn s .RGN_FORCED g = 0 ∨ nfld v.toNat (2
      * g + 1) (2 * g) = profCool)) ∧
    (∃ (p : Path) (tag : Byte) (g : RgnNo) (v : Byte) (s : State), Serves p s ∧ v.toNat ≤ 1 ∧ inRun s = false) ∧
    (∃ (p : Path) (tag : Byte) (s : State), Serves p s ∧ rn s .NVM_COMMIT_STATE ≠ 1 ∧ rn s .NVM_COMMIT_STATE ≠ 2) ∧
    (∃ (p : Path) (tag : Byte) (v : Byte) (s : State), Serves p s ∧ inRun s = false ∧ (∀ g, g < 8 → bitOf v.toNat g = true → ∀
      c, c < 4 → bitOf (rgget s g).forced c = true → causeOver s g c = true)) ∧
    (∃ (p : Path) (tag : Byte) (s : State), Serves p s ∧ rn s .THM_STATE = 2 ∧ (∀ g, g < 8 → bitOf (rn s .THM_TRIPPED g) 2 =
      false)) ∧
    (∃ (p : Path) (tag : Byte) (v : Byte) (s : State), Serves p s ∧ v.toNat ≤ 3 ∧ v ≠ 0 ∧ lcsTargetOk (lcsNow s) v.toNat = true
      ∧ inRun s = false ∧ rn s .NVM_COMMIT_STATE ≠ 2) ∧
    (∃ (p : Path) (tag : Byte) (v : Byte) (t : Nat) (s : State), Serves p s ∧ 1 ≤ v.toNat ∧ v.toNat ≤ 3 ∧ lcsTargetOk (lcsNow s)
      v.toNat = true ∧ s.boot.lcsArmed = some (v.toNat, t) ∧ s.elapsed < t + 2500000000 ∧ inRun s = false ∧ rn s
      .NVM_COMMIT_STATE ≠ 2) := by
  refine ⟨⟨0, 0, up [], ?_⟩,
    ⟨0, 0, up [(.CLK_MON_STATE, 0, 2), (.CLK_MON_STATE, 4, 2)], ?_⟩,
    ⟨0, 0, up [(.CLK_FMC_GATE, 0, 1)], ?_⟩,
    ⟨0, 0, 1, [], up [(.DRM_CHTAB, 0, 0)], ?_⟩,
    ⟨0, 0, up [], ?_⟩,
    ⟨0, 0, up [], ?_⟩,
    ⟨0, 0, up [(.DRM_RANGE, 0, 64)], ?_⟩,
    ⟨0, 0, up [], ?_⟩,
    ⟨0, 0, up [(.PKG_IMG_STATE, 0, 2), (.PKG_RUN_START, 0, 250000)], ?_⟩,
    ⟨0, 0, up [(.PKG_RUN_STATE, 0, 1)], ?_⟩,
    ⟨0, 0, up [], ?_⟩,
    ⟨0, 0, up [(.PKG_RUN_STATE, 0, 1)], ?_⟩,
    ⟨0, 0, up [], ?_⟩,
    ⟨0, 0, up [(.TRG_STREAM_STATE, 0, 1)], ?_⟩,
    ⟨0, 0, true, up [], ?_⟩,
    ⟨0, 0, up [(.TRG_ARM_GRAIN, 0, 1000000)], ?_⟩,
    ⟨0, 0, up [], ?_⟩,
    ⟨0, 0, 0, 3, up [], ?_⟩,
    ⟨0, 0, 0, up [], ?_⟩,
    ⟨0, 0, 0, 1, up [], ?_⟩,
    ⟨0, 0, up [], ?_⟩,
    ⟨0, 0, 0xFF, up [], ?_⟩,
    ⟨0, 0, up [(.THM_STATE, 0, 2)], ?_⟩,
    ⟨0, 0, 1, up [], ?_⟩,
    ⟨0, 0, 1, 0, { up [] with boot := { phase := .served, lcsArmed := some (1, 0) } }, ?_⟩⟩ <;>
    repeat' first | decide +kernel | rfl | exact serves (by decide +kernel) | constructor

theorem witness_UnitWrites :
    (∃ (p : Path) (tag : Byte) (q : Nat) (s : State), Serves p s ∧ q = rn s .QUE_SEL p.val ∧ (q ≤ 0x0FFF ∧ inRun s = false ∨
      0x1000 ≤ q ∧ q ≤ 0x1FFF ∨ 0x3000 ≤ q ∧ q ≤ 0x7FFF)) ∧
    (∃ (p : Path) (tag : Byte) (q : Nat) (s : State), Serves p s ∧ q = rn s .QUE_SEL p.val ∧ (0x1000 ≤ q ∧ q ≤ 0x1FFF ∨ 0x3000 ≤
      q ∧ q ≤ 0x7FFF) ∧ wholePackets (qget s q) ≠ 0 ∧ (qget s q).dead = []) ∧
    (∃ (p : Path) (tag : Byte) (slot : Fin 8) (v : BitVec 16) (ch : Nat) (s : State), Serves p s ∧ ch = rn s .EVT_CH_SEL p.val ∧
      v.toNat &&& 0x81FF = v.toNat ∧ (bitOf v.toNat 15 = true → ∃ home, producerHome (v.toNat % 512) = some home ∧ (localChannel
      ch = true → home = some (ch / 32)) ∧ ∀ k, k < 8 → k ≠ slot.val → rn s .EVT_CH_PROD (8 * ch + k) ≠ 0x8000 + v.toNat % 512))
      ∧
    (∃ (p : Path) (tag : Byte) (n : Fin 32) (s : State), Serves p s) ∧
    (∃ (p : Path) (tag : Byte) (c : CluNo) (v : Word) (k : Nat) (s : State), Serves p s ∧ k = rn s .CLU_SEG_SEL (2 * c + p) ∧ k
      < 4096 ∧ nfld v.toNat 17 5 = 0 ∧ bitOf v.toNat 0 = false ∧ nfld v.toNat 44 26 ≠ 0 ∧ nfld v.toNat 63 45 + nfld v.toNat 44
      26 ≤ segWords ∧ segBusy s c k = false) ∧
    (∃ (p : Path) (tag : Byte) (prb : Bool) (n : Fin 64) (v : Byte) (s : State), Serves p s ∧ v.toNat ≤ 1 ∧ (prb = true → n.val
      < 16)) ∧
    (∃ (p : Path) (tag : Byte) (n : Fin 64) (tap : Fin 8) (v : Word) (s : State), Serves p s ∧ nfld v.toNat 62 61 = 0 ∧ nfld
      v.toNat 55 52 = 0 ∧ nfld v.toNat 47 32 = 0 ∧ (bitOf v.toNat 63 = true → nfld v.toNat 60 56 / 8 ≠ n.val % 4) ∧ inRun s =
      false) ∧
    (∃ (p : Path) (tag : Byte) (n : Fin 128) (k : Fin 4) (v : BitVec 32) (s : State), Serves p s ∧ inRun s = false ∧ (v ≠ 0 ∨ rd
      s .FLX_BETA (n.val * 4 + k) = 0)) ∧
    (∃ (p : Path) (tag : Byte) (n : Fin 128) (k : Fin 4) (v : BitVec 32) (s : State), Serves p s ∧ inRun s = false ∧ (v = 0 ∨ rn
      s .FLX_ALPHA (n.val * 4 + k) ≠ 0)) ∧
    (∃ (p : Path) (tag : Byte) (n : Fin 128) (k : Fin 32) (v : BitVec 32) (s : State), Serves p s ∧ inRun s = false) ∧
    (∃ (p : Path) (tag : Byte) (c : CluNo) (k : Fin 64) (v : BitVec 16) (s : State), Serves p s ∧ inRun s = false) ∧
    (∃ (p : Path) (tag : Byte) (index : BitVec 16) (sub : Byte) (v : BitVec 32) (s : State), isFluxCoef index.toNat sub.toNat =
      none) ∧
    (∃ (p : Path) (tag : Byte) (n : Fin 128) (v : BitVec 16) (s : State), Serves p s ∧ inRun s = false) ∧
    (∃ (p : Path) (tag : Byte) (n : Fin 256) (v : Word) (s : State), Serves p s ∧ inRun s = false ∧ nfld v.toNat 63 32 = 0 ∧
      nfld v.toNat 29 24 = 0) ∧
    (∃ (p : Path) (tag : Byte) (n : Fin 256) (v : Byte) (s : State), Serves p s ∧ v.toNat ≤ 1 ∧ (biaState s n = 0 ∨ biaState s n
      = 2)) ∧
    (∃ (p : Path) (tag : Byte) (v : BitVec 16) (s : State), Serves p s ∧ v.toNat ∈ [3200, 4000, 4800, 5600, 6400] ∧ inRun s =
      false) ∧
    (∃ (p : Path) (tag : Byte) (v : Byte) (s : State), Serves p s ∧ v.toNat ≤ 2 ∧ (rn s .DRM_RANGE = 0 ∨ mapFits v.toNat (listed
      s).length = true) ∧ inRun s = false ∧ streamState s = 0) ∧
    (∃ (p : Path) (tag : Byte) (v : BitVec 32) (s : State), Serves p s ∧ tableOk s v.toNat (rn s .DRM_MAP) = true ∧ inRun s =
      false ∧ streamState s = 0) ∧
    (∃ (p : Path) (tag : Byte) (v : BitVec 32) (s : State), Serves p s ∧ bistOk s v.toNat = true ∧ inRun s = false ∧ s.dram.bist
      = none ∧ rn s .DRM_STATE ≠ 2 ∧ (bistTarget v.toNat = 2 → poolFree s = 262144) ∧ (bistTarget v.toNat = 0 → rn s
      .DRM_CH_STATE (bistUnit v.toNat) = chReady ∨ rn s .DRM_CH_STATE (bistUnit v.toNat) = chSelfref)) ∧
    (∃ (p : Path) (tag : Byte) (s : State), Serves p s) ∧
    (∃ (p : Path) (tag : Byte) (v : Byte) (q : Nat) (s : State), Serves p s ∧ q = rn s .LNK_VP_SEL p.val ∧ q < 8 ∧ v.toNat ≤ 1)
      ∧
    (∃ (p : Path) (tag : Byte) (m : Nat) (s : State), Serves p s ∧ m = rn s .MON_SEL p.val ∧ mauGated s m = false) ∧
    (∃ (p : Path) (tag : Byte) (v : BitVec 32) (m : Nat) (s : State), Serves p s ∧ m = rn s .MON_SEL p.val ∧ mauGated s m =
      false ∧ entryOk m v.toNat = true ∧ entIl v.toNat = false ∧ (mauget s m).inj = none ∧ (mauget s m).calAt = none ∧ (mauget s
      m).calWait = false) ∧
    (∃ (p : Path) (tag : Byte) (m : Nat) (s : State), Serves p s ∧ m = rn s .MON_SEL p.val ∧ mauGated s m = false ∧ (mauget s
      m).calAt = none ∧ (mauget s m).calWait = false) ∧
    (∃ (p : Path) (tag : Byte) (index : BitVec 16) (sub : Byte) (bs : List Byte) (row : ObjRow) (i n : Nat) (s w v : State),
      reachable s p = true ∧ pathIdle s p = true ∧ myTurn s p = true ∧ findsRoom p (frameBytes 2 tag index.toNat sub.toNat 0 bs)
      s = true ∧ w = received p (frameBytes 2 tag index.toNat sub.toNat 0 bs) s ∧ findObj index.toNat sub.toNat = .obj row i ∧
      row.acc ≠ .ro ∧ row.ty.isBytes = false ∧ bs.length = row.ty.size ∧ inRange row.ty row.rng (decodeVal row.ty bs) = true ∧ n
      = instOf w p row i sub.toNat ∧ unserved w row index.toNat n = false ∧ retiredWrite w row (decodeVal row.ty bs) = false ∧
      writeObject row n (decodeVal row.ty bs) [] w = .ok v) ∧
    (∃ (p : Path) (tag : Byte) (index : BitVec 16) (sub : Byte) (bs : List Byte) (row : ObjRow) (i n code : Nat) (s w : State),
      reachable s p = true ∧ pathIdle s p = true ∧ myTurn s p = true ∧ findsRoom p (frameBytes 2 tag index.toNat sub.toNat 0 bs)
      s = true ∧ w = received p (frameBytes 2 tag index.toNat sub.toNat 0 bs) s ∧ findObj index.toNat sub.toNat = .obj row i ∧
      row.acc ≠ .ro ∧ row.ty.isBytes = false ∧ bs.length = row.ty.size ∧ inRange row.ty row.rng (decodeVal row.ty bs) = true ∧ n
      = instOf w p row i sub.toNat ∧ unserved w row index.toNat n = false ∧ retiredWrite w row (decodeVal row.ty bs) = false ∧
      writeObject row n (decodeVal row.ty bs) [] w = .error code ∧ row.reg ≠ .CLU_SEG_DESC) := by
  refine ⟨⟨0, 0, 0, up [], ?_⟩,
    ⟨0, 0, 0x1000, one 0x1000 (up [(.QUE_SEL, 0, 0x1000)]), ?_⟩,
    ⟨0, 0, 0, 0x8000, 0, up [], ?_⟩,
    ⟨0, 0, 0, up [], ?_⟩,
    ⟨0, 0, 0, word (2 ^ 26), 0, up [], ?_⟩,
    ⟨0, 0, true, 15, 1, up [], ?_⟩,
    ⟨0, 0, 0, 0, 0, up [], ?_⟩,
    ⟨0, 0, 0, 0, 1, up [], ?_⟩,
    ⟨0, 0, 0, 0, 0, up [], ?_⟩,
    ⟨0, 0, 0, 0, 0, up [], ?_⟩,
    ⟨0, 0, 0, 0, 0, up [], ?_⟩,
    ⟨0, 0, 0, 0, 0, up [], ?_⟩,
    ⟨0, 0, 127, 0, up [], ?_⟩,
    ⟨0, 0, 255, 0, up [], ?_⟩,
    ⟨0, 0, 0, 1, up [], ?_⟩,
    ⟨0, 0, 3200, up [], ?_⟩,
    ⟨0, 0, 1, up [], ?_⟩,
    ⟨0, 0, 8, up [(.DRM_CH_STATE, 0, 2)], ?_⟩,
    ⟨0, 0, 0, up [(.DRM_CH_STATE, 0, 2)], ?_⟩,
    ⟨0, 0, up [], ?_⟩,
    ⟨0, 0, 1, 0, up [], ?_⟩,
    ⟨0, 0, 0, up [], ?_⟩,
    ⟨0, 0, 0, 0, up [], ?_⟩,
    ⟨0, 0, 0, up [], ?_⟩,
    ⟨0, 0, 0x8000, 0, [5, 0], rowOf 0x8000 0, 0, 0, up [], turn 0 (up []), okOr (writeObject (rowOf 0x8000 0) 0 5 [] (turn 0 (up
      []))) R, ?_⟩,
    ⟨0, 0, 0x2018, 0, [1], rowOf 0x2018 0, 0, 0, errOf (writeObject (rowOf 0x2018 0) 0 1 [] (turn 0 (up []))), up [], turn 0 (up
      []), ?_⟩⟩ <;>
    repeat' first
      | decide +kernel
      | rfl
      | exact ok_okOr R (by decide +kernel)
      | exact error_errOf (by decide +kernel)
      | exact fun _ => ⟨some 0, by decide +kernel⟩
      | exact serves (by decide +kernel)
      | constructor

theorem witness_ByteStrings :
    (∃ (p : Path) (tag : Byte) (q : Nat) (bs : List Byte) (ws : List QWord) (s : State), Serves p s ∧ Alone p s ∧ (bs.length ≤
      56 ∨ p = 0) ∧ bs.length < 2 ^ 64 ∧ q = rn s .QUE_SEL p.val ∧ hostWrites q = true ∧ bs.length % 9 = 0 ∧ pushWords
      (bs.length / 9) bs = some ws ∧ ws.getLast?.map (·.fin) = some true ∧ longestPacket ws 0 ≤ 65535 ∧ qroom s q ws.length =
      true ∧ (qget s q).openLen = 0) ∧
    (∃ (p : Path) (tag : Byte) (q : Nat) (w : QWord) (rest : List QWord) (s : State), Serves p s ∧ s.path0.transfer = none ∧
      s.path1.transfer = none ∧ q = rn s .QUE_SEL p.val ∧ hostReads q = true ∧ (qget s q).cut = false ∧ wholePackets (qget s q)
      ≠ 0 ∧ (qget s q).words = w :: rest ∧ w.psn = false ∧ w.bad = false ∧ (qget s q).tainted = false ∧ (qget s q).dead = []) ∧
    (∃ (p : Path) (tag : Byte) (q : Nat) (s : State), Serves p s ∧ s.path0.transfer = none ∧ s.path1.transfer = none ∧ q = rn s
      .QUE_SEL p.val ∧ hostReads q = true ∧ (qget s q).cut = false ∧ wholePackets (qget s q) = 0) ∧
    (∃ (p : Path) (tag : Byte) (q : Nat) (ws : List Word) (last : Word) (rest : List QWord) (bs : List Byte) (s : State), Serves
      p s ∧ s.path0.transfer = none ∧ s.path1.transfer = none ∧ q = rn s .QUE_SEL p.val ∧ hostReads q = true ∧ (qget s q).cut =
      false ∧ (qget s q).tainted = false ∧ (qget s q).dead = [] ∧ (qget s q).words = (ws.map fun d => { data := d }) ++
      { data := last, fin := true } :: rest ∧ bs = (ws.map fun d => leBytes 8 d.toNat ++ [0]).flatten ++ (leBytes 8 last.toNat
      ++ [1])) ∧
    (∃ (p : Path) (tag : Byte) (bs : List Byte) (s : State), Serves p s ∧ Alone p s ∧ (bs.length ≤ 56 ∨ p = 0) ∧ bs.length < 2 ^
      64 ∧ checkDomain bs = .ok () ∧ kindIdle s (domAt bs 4 1) = true) ∧
    (∃ (p : Path) (tag : Byte) (k : Fin 13) (bs : List Byte) (s : State), Serves p s ∧ Alone p s ∧ (bs.length ≤ 56 ∨ p = 0) ∧
      bs.length < 2 ^ 64 ∧ (bs = [] ∨ checkDomain bs = .ok () ∧ domAt bs 4 1 = k.val)) ∧
    (∃ (p : Path) (tag : Byte) (c : CluNo) (k : Nat) (bs : List Byte) (s : State), Serves p s ∧ Alone p s ∧ (bs.length ≤ 56 ∨ p
      = 0) ∧ k = rn s .CLU_SEG_SEL (2 * c + p) ∧ k < 4096 ∧ (sget s c k).len ≠ 0 ∧ bs.length = 4 * (sget s c k).len ∧ bs.length
      < 2 ^ 64 ∧ segBusy s c k = false) ∧
    (∃ (p : Path) (tag : Byte) (c : CluNo) (o : Nat) (bs : List Byte) (s : State), Serves p s ∧ Alone p s ∧ (bs.length ≤ 56 ∨ p
      = 0) ∧ o = rn s .CLU_KRN_OFFSET (2 * c + p) ∧ bs.length % 4 = 0 ∧ o + bs.length / 4 ≤ 81920 ∧ inRun s = false) ∧
    (∃ (p : Path) (tag : Byte) (c : CluNo) (o : Nat) (bs : List Byte) (s : State), Serves p s ∧ Alone p s ∧ (bs.length ≤ 56 ∨ p
      = 0) ∧ o = rn s .CLU_DISC_OFFSET (2 * c + p) ∧ bs.length % 8192 = 0 ∧ 8192 * o + bs.length ≤ 262144 ∧ bs.all tableByteOk =
      true ∧ inRun s = false) ∧
    (∃ (p : Path) (tag : Byte) (n a : Nat) (s : State), Serves p s ∧ s.path0.transfer = none ∧ s.path1.transfer = none ∧ winOk s
      n = true ∧ rn s .DRM_STATE ≠ 2 ∧ a = rn s .DRM_WIN_ADDR ∧ dramWaits s a n = false ∧ (∀ i, i < n / 8 → (dramWord s (a + 8 *
      i)).2 = false)) ∧
    (∃ (p : Path) (tag : Byte) (a : Nat) (bs : List Byte) (s : State), Serves p s ∧ Alone p s ∧ (bs.length ≤ 56 ∨ p = 0) ∧ winOk
      s bs.length = true ∧ rn s .DRM_STATE ≠ 2 ∧ a = rn s .DRM_WIN_ADDR ∧ dramWaits s a bs.length = false) ∧
    (∃ (p : Path) (tag : Byte) (c : CluNo) (k : Fin 13) (bs : List Byte) (s : State), Serves p s ∧ 56 < bs.length) ∧
    (∃ (p : Path) (tag : Byte) (idx sub k : Nat) (tog : Bool) (bs f : List Byte) (s : State), writing s p idx sub = true ∧ f =
      frameBytes 4 tag idx sub (b2n tog + 2 * b2n (decide (bs.length ≤ pathLimit p))) (bs.take (pathLimit p)) ∧ atOnce {} p f s
      = true ∧ findsRoom p f s = true) ∧
    (∃ (p : Path) (tag : Byte) (idx sub k : Nat) (tog : Bool) (bs : List Byte) (s : State), writing s p idx sub = false) ∧
    (∃ (p : Path) (tag : Byte) (b : Byte) (h : BitVec 16) (w : BitVec 32) (v : Word) (bs : List Byte) (n : Nat) (g : RgnNo) (c :
      CluNo) (i3 : Fin 8) (i13 : Fin 13) (i32 : Fin 32) (i64 : Fin 64) (i128 : Fin 128) (i256 : Fin 256) (prb : Bool) (busy :
      List (Fin 25 × Nat)) (s : State), reachable s p = false) ∧
    (∃ (p : Path) (tag : Byte) (b : Byte) (h : BitVec 16) (w : BitVec 32) (v : Word) (bs : List Byte) (n : Nat) (g : RgnNo) (c :
      CluNo) (i3 : Fin 8) (i13 : Fin 13) (i32 : Fin 32) (i64 : Fin 64) (i128 : Fin 128) (i256 : Fin 256) (busy : List (Fin 25 ×
      Nat)) (s : State), reachable s p = true ∧ (pathIdle s p = false ∨ myTurn s p = false ∨ findsRoom p f s = false)) ∧
    (∃ (p : Path) (tag : Byte) (n : Fin 16) (b : Byte) (s : State), reachable s p = true ∧ (pathIdle s p = false ∨ myTurn s p =
      false)) ∧
    (∃ (p : Path) (tag : Byte) (index : BitVec 16) (sub : Byte) (v : BitVec 32) (ty : ObjType) (s : State), reachable s p = true
      ∧ isFluxCoef index.toNat sub.toNat = some ty ∧ (pathIdle s p = false ∨ myTurn s p = false)) := by
  refine ⟨⟨0, 0, 0x4000, [1, 0, 0, 0, 0, 0, 0, 0, 1], [{ data := 1, fin := true }], up [(.QUE_SEL, 0, 0x4000)], ?_⟩,
    ⟨0, 0, 0x7FFF, { data := 5, fin := true }, [], one 0x7FFF (up [(.QUE_SEL, 0, 0x7FFF)]), ?_⟩,
    ⟨0, 0, 0x1000, up [(.QUE_SEL, 0, 0x1000)], ?_⟩,
    ⟨0, 0, 0x7FFF, [], 5, [], [5, 0, 0, 0, 0, 0, 0, 0, 1], one 0x7FFF (up [(.QUE_SEL, 0, 0x7FFF)]), ?_⟩,
    ⟨0, 0, [0x46, 0x51, 0x4D, 0x50, 0, 0, 0, 0, 0, 0, 0, 0, 0, 0, 0, 0], up [], ?_⟩,
    ⟨0, 0, 0, [], up [], ?_⟩,
    ⟨0, 0, 0, 0, [1, 2, 3, 4], { up [] with segs := [(0, { len := 1 })] }, ?_⟩,
    ⟨0, 0, 0, 81919, [1, 2, 3, 4], up [(.CLU_KRN_OFFSET, 0, 81919)], ?_⟩,
    ⟨0, 0, 0, 0, List.replicate 8192 0, up [], ?_⟩,
    ⟨0, 0, 4096, 0, up [(.DRM_RANGE, 0, 4096)], ?_⟩,
    ⟨0, 0, 0, List.replicate 64 0, up [(.DRM_RANGE, 0, 64)], ?_⟩,
    ⟨0, 0, 0, 0, List.replicate 57 0, up [], ?_⟩,
    ⟨0, 0, 0x8000, 0, 0, false, [5], frameBytes 4 0 0x8000 0 2 [5], opened (opn true 0x8000 2), ?_⟩,
    ⟨0, 0, 0, 0, 0, false, [], R, ?_⟩,
    ⟨0, 0, 0, 0, 0, 0, [], 0, 0, 0, 0, 0, 0, 0, 0, 0, false, [], R, ?_⟩,
    ⟨0, 0, 0, 0, 0, 0, [], 0, 0, 0, 0, 0, 0, 0, 0, 0, [], rq 1 0x8000 0 0 [] (up []), ?_⟩,
    ⟨0, 0, 0, 0, rq 1 0x8000 0 0 [] (up []), ?_⟩,
    ⟨0, 0, 0x5C02, 1, 0, (isFluxCoef 0x5C02 1).getD .u32, rq 1 0x8000 0 0 [] (up []), ?_⟩⟩ <;>
    repeat' first
      | decide +kernel
      | rfl
      | exact unit_ok (by decide +kernel)
      | exact .inl rfl
      | exact serves (by decide +kernel)
      | constructor

/-! ### Hypotheses of the statements' own predicates -/

theorem witness_EmittingOpcodes :
    (∃ (e : EngNo) (w0 : Word) (ws : List Word) (rest : List QWord) (f : Nat) (s : State), AtPacket e (w0 :: ws) rest s ∧
      schedOp w0 = 0x01 ∧ ws.length + 1 = packetLen 0x01 ∧ schedKind 0x01 (e.val % 8) = true ∧ schedReserved 0x01 w0 = false ∧
      emitFifo e (eget s e) w0 = some f ∧ fifoRoom (fget s f) = true) ∧
    (∃ (e : EngNo) (w0 : Word) (ws : List Word) (rest : List QWord) (f : Nat) (s : State), AtPacket e (w0 :: ws) rest s ∧
      schedOp w0 = 0x03 ∧ ws.length + 1 = packetLen 0x03 ∧ schedKind 0x03 (e.val % 8) = true ∧ schedReserved 0x03 w0 = false ∧
      emitFifo e (eget s e) w0 = some f ∧ fifoRoom (fget s f) = true) ∧
    (∃ (e : EngNo) (w0 : Word) (ws : List Word) (rest : List QWord) (f : Nat) (s : State), AtPacket e (w0 :: ws) rest s ∧
      schedOp w0 = 0x08 ∧ ws.length + 1 = packetLen 0x08 ∧ schedKind 0x08 (e.val % 8) = true ∧ schedReserved 0x08 w0 = false ∧
      emitFifo e (eget s e) w0 = some f ∧ fifoRoom (fget s f) = true) ∧
    ∀ op ∈ [0x02, 0x04, 0x05, 0x06, 0x07, 0x09], ∃ (e : EngNo) (w0 : Word) (ws : List Word) (rest : List QWord) (f : Nat) (s : State),
      AtPacket e (w0 :: ws) rest s ∧ schedOp w0 = op ∧ ws.length + 1 = packetLen op ∧ schedKind op (e.val % 8) = true ∧
      schedReserved op w0 = false ∧ emitFifo e (eget s e) w0 = some f ∧ fifoRoom (fget s f) = true := by
  refine ⟨⟨0, word (0x01 * 2 ^ 56), [0], [], 0, pk 0 [word (0x01 * 2 ^ 56), 0] [], atPk _ _ _ _ (by decide +kernel), by decide +kernel⟩,
    ⟨0, word (0x03 * 2 ^ 56), [], [], 0, pk 0 [word (0x03 * 2 ^ 56)] [], atPk _ _ _ _ (by decide +kernel), by decide +kernel⟩,
    ⟨5, word (0x08 * 2 ^ 56), [0], [], 1408, pk 5 [word (0x08 * 2 ^ 56), 0] [], atPk _ _ _ _ (by decide +kernel), by decide +kernel⟩, ?_⟩
  intro op h
  simp only [List.mem_cons, List.mem_nil_iff, or_false] at h
  rcases h with rfl | rfl | rfl | rfl | rfl | rfl
  · exact ⟨0, word (0x02 * 2 ^ 56), [0], [], 0, pk 0 [word (0x02 * 2 ^ 56), 0] [], atPk _ _ _ _ (by decide +kernel), by decide +kernel⟩
  · exact ⟨3, word (0x04 * 2 ^ 56), [0], [], 24, pk 3 [word (0x04 * 2 ^ 56), 0] [], atPk _ _ _ _ (by decide +kernel), by decide +kernel⟩
  · exact ⟨4, word (0x05 * 2 ^ 56), [0], [], 32, pk 4 [word (0x05 * 2 ^ 56), 0] [], atPk _ _ _ _ (by decide +kernel), by decide +kernel⟩
  · exact ⟨6, word (0x06 * 2 ^ 56), [0], [], 1024, pk 6 [word (0x06 * 2 ^ 56), 0] [], atPk _ _ _ _ (by decide +kernel), by decide +kernel⟩
  · exact ⟨6, word (0x07 * 2 ^ 56 + 8 * 2 ^ 48), [0], [], 1152, pk 6 [word (0x07 * 2 ^ 56 + 8 * 2 ^ 48), 0] [], atPk _ _ _ _ (by decide +kernel),
      by decide +kernel⟩
  · exact ⟨0, word (0x09 * 2 ^ 56), [0], [], 0, pk 0 [word (0x09 * 2 ^ 56), 0] [], atPk _ _ _ _ (by decide +kernel), by decide +kernel⟩

/-- An engine runs in a loop whose body is the words. -/
def looped (e : Nat) (ws : List Word) : State :=
  { R with engs := [(e, { state := .run, len := 1000, loop := some { body := ws, count := 2, stride := 0, pass := 0, rest := ws } })] }

theorem witness_EmitsInLoop :
    ∀ x ∈ [(0, 0x01, 0), (0, 0x02, 0), (0, 0x03, 0), (3, 0x04, 0), (4, 0x05, 0), (6, 0x06, 0), (6, 0x07, 8), (5, 0x08, 0), (0, 0x09, 0)],
      ∃ (e : EngNo) (l : Loop) (w0 : Word) (ws tail : List Word) (f : Nat) (s : State), (eget s e).state = .run ∧
        (eget s e).gather = none ∧ (eget s e).out = [] ∧ (eget s e).micro.at_ = none ∧ (eget s e).loop = some l ∧
        l.rest = w0 :: ws ++ tail ∧ schedOp w0 = x.2.1 ∧ ws.length + 1 = packetLen x.2.1 ∧ reached s (e.val % 8) x.2.1 = false ∧
        schedKind x.2.1 (e.val % 8) = true ∧ schedReserved x.2.1 w0 = false ∧ emitFifo e (eget s e) w0 = some f ∧
        fifoRoom (fget s f) = true := by
  intro x h
  let w := word (x.2.1 * 2 ^ 56 + x.2.2 * 2 ^ 48)
  let ws : List Word := List.replicate (packetLen x.2.1 - 1) 0
  refine ⟨Fin.ofNat 128 x.1, { body := w :: ws, count := 2, stride := 0, pass := 0, rest := w :: ws }, w, ws, [],
    (emitFifo x.1 { len := 1000 } w).getD 0, looped x.1 (w :: ws), ?_⟩
  revert x
  decide +kernel

theorem witness_DropsIllegal :
    (∀ op ∈ [0x00, 0x01, 0x02, 0x03, 0x04, 0x05, 0x06, 0x07, 0x08, 0x09, 0x10, 0x11, 0x20, 0x21, 0x30, 0xF0, 0xF1],
      ∃ (e : EngNo) (w0 : Word) (ws : List Word) (rest : List QWord) (s : State),
        Heads e ((w0 :: ws).map fun w => (w, false)) rest s ∧ schedOp w0 = op ∧ BreaksRule e op (ws.length + 1) w0 s) ∧
    (∃ (e : EngNo) (w0 : Word) (s : State), schedOp w0 = 0x01 ∧ schedKind 0x01 (e.val % 8) = true ∧ schedReserved 0x01 w0 = false ∧
      (emitFifo e (eget s e) w0).isSome = true ∧ BreaksRule e 0x01 1 w0 s) ∧
    (∃ (e : EngNo) (w0 : Word) (s : State), schedOp w0 = 0x07 ∧ schedKind 0x07 (e.val % 8) = true ∧ schedReserved 0x07 w0 = false ∧
      BreaksRule e 0x07 2 w0 s) := by
  refine ⟨fun op h => ?_, ⟨0, word (0x01 * 2 ^ 56), pk 0 [] [], by decide +kernel, by decide +kernel, by decide +kernel, by decide +kernel,
    breaksRule (by decide +kernel)⟩, ⟨6, word (0x07 * 2 ^ 56), R, by decide +kernel, by decide +kernel, by decide +kernel,
    breaksRule (by decide +kernel)⟩⟩
  let e : EngNo := if op = 0x10 then 7 else 0
  let w := word (op * 2 ^ 56 + (2 ^ 56 - 1))
  refine ⟨e, w, [], [], pk e.val [w] [], heads ?_, ?_, breaksRule ?_⟩ <;>
  · revert op
    decide +kernel

theorem witness_IllegalPacketsAreDropped :
    ∃ (e : EngNo) (w0 : Word) (rest : List QWord) (s : State), Heads e [(w0, false)] rest s ∧ schedListed (schedOp w0) = false ∧
      overrideOf s (e.val % 8) (schedOp w0) = none :=
  ⟨0, word (0x7F * 2 ^ 56), [], pk 0 [word (0x7F * 2 ^ 56)] [], heads (by decide +kernel), by decide +kernel, by decide +kernel⟩

/-- A run in which queue 0 of engine 0 holds words, some with PSN. -/
def poisonIn (ws : List (Word × Bool)) : State :=
  { runs with engs := [(0, { state := .run })], queues := [(0, { words := queueWords ws })], areas := [(0, { len := 1000 })] }

/-- A run in which engine 0 stands at a packet of two words, the second with PSN. -/
def poisoned (op : Nat) : State := poisonIn [(word (op * 2 ^ 56), false), (0, true)]

theorem witness_PoisonedPacketEndsTheRun :
    (∀ op < 256, ∃ (e : EngNo) (w : Word × Bool) (ws : List (Word × Bool)) (rest : List QWord) (s : State), Heads e (w :: ws) rest s ∧
      schedOp w.1 = op ∧ (w :: ws).any (·.2) = true ∧ inRun s = true ∧ s.run.aborted = false) ∧
    (∃ (e : EngNo) (w0 : Word) (ps : List (List Word)) (ws : List (Word × Bool)) (rest : List QWord) (s : State),
      AtPacket e [w0] (cleanPackets ps ++ (queueWords ws ++ rest)) s ∧ schedOp w0 = 0x28 ∧ InSection e (ps ++ [ws.map (·.1)]) s ∧
      ws.any (·.2) = true ∧ ps.flatten.length + ws.length ≤ fld w0 55 48 ∧ inRun s = true ∧ s.run.aborted = false) ∧
    (∃ (e : EngNo) (w0 : Word) (ps : List (List Word)) (w : Word × Bool) (ws : List (Word × Bool)) (rest : List QWord) (s : State),
      AtPacket e [w0] (cleanPackets ps ++ (queueWords (w :: ws) ++ rest)) s ∧ schedOp w0 = 0x10 ∧
      schedKind 0x10 (e.val % 8) = true ∧ InSection e (ps ++ [(w :: ws).map (·.1)]) s ∧ (w :: ws).any (·.2) = true ∧
      ps.length < fld w0 47 44 ∧ (∀ p ∈ ps.map (nthD · 0 0) ++ [w.1], 1 ≤ schedOp p ∧ schedOp p ≤ 9) ∧
      (∀ p ∈ ps, p.length = packetLen (schedOp (nthD p 0 0))) ∧ inRun s = true ∧ s.run.aborted = false) := by
  refine ⟨fun op h => ?_, ⟨0, LP, [], [(0, true)], [], { poisonIn [] with
      queues := [(0, { words := queueWords [(LP, false)] ++ queueWords [(0, true)] })] }, ?_⟩, ⟨0, AW, [], (HW, true), [], [],
    { poisonIn [] with queues := [(0, { words := queueWords [(AW, false)] ++ queueWords [(HW, true)] })] }, ?_⟩⟩
  · have k : ∀ op < 256, schedOp (word (op * 2 ^ 56)) = op := by decide +kernel
    refine ⟨0, (word (op * 2 ^ 56), false), [(0, true)], [], poisoned op, ?_, ?_, rfl, ?_, rfl⟩
    · constructor <;> first | rfl | exact ⟨rfl, rfl, rfl⟩
    · exact k op h
    · show inRun runs = true
      decide +kernel
  · exact ⟨⟨heads (by decide +kernel), by decide +kernel⟩, by decide +kernel, inSection (by decide +kernel), by decide +kernel⟩
  · exact ⟨⟨heads (by decide +kernel), by decide +kernel⟩, by decide +kernel, by decide +kernel, inSection (by decide +kernel),
      rfl, by decide +kernel, fun p h => List.mem_singleton.mp h ▸ by decide +kernel, nofun, show inRun runs = true by decide +kernel, rfl⟩

theorem witness_FaultEndsRun :
    (∀ op < 256, ∃ (e : EngNo) (s : State), Fetches e op s ∧ (eget s e).gather = none ∧ (eget s e).micro.at_ = none ∧ inRun s = true ∧
      s.run.aborted = false) ∧
    (∃ (e : EngNo) (s : State), Fetches e 0x28 s ∧ (eget s e).gather.isSome = true ∧ inRun s = true ∧ s.run.aborted = false) ∧
    (∃ (e : EngNo) (s : State), Fetches e 0 s ∧ (eget s e).micro.at_.isSome = true ∧ inRun s = true ∧ s.run.aborted = false) := by
  refine ⟨fun op h => ?_, ⟨0, { runs with engs := [(0, { state := .run, gather := some { op := 0x28, head := LP, words := [] } })] },
      ⟨rfl, .inr (.inl ⟨rfl, _, rfl, rfl⟩)⟩, by decide +kernel⟩,
    ⟨0, { runs with engs := [(0, { state := .run, micro := { at_ := some (false, 0) } })] }, ⟨rfl, .inl (by decide +kernel)⟩, by decide +kernel⟩⟩
  have k : ∀ op < 256, schedOp (word (op * 2 ^ 56)) = op ∧
      nextPacket (poisoned op) 0 = some [{ data := word (op * 2 ^ 56) }, { data := 0, fin := true, psn := true }] := by decide +kernel
  exact ⟨0, poisoned op, ⟨rfl, .inr (.inr ⟨rfl, rfl, _, _, (k op h).2, (k op h).1⟩)⟩, rfl, rfl,
    show inRun runs = true by decide +kernel, rfl⟩

theorem witness_ArrivesAtBarrier :
    (∃ (e : EngNo) (w0 : Word) (x : Nat) (s : State), AtBarrier e 0xF0 w0 s ∧ x ≠ e ∧ takesPart (eget s x) = true ∧
      (eget s x).arrived = none) ∧
    (∃ (e : EngNo) (w0 : Word) (s : State), AtBarrier e 0xF1 w0 s ∧ OthersArrived e s ∧ ¬OthersAgree e (arrival 0xF1 w0) s) := by
  refine ⟨⟨0, bw 256, 1, { pk 0 [bw 256] [] with engs := [(0, { state := .run, len := 1000 }), (1, { state := .run })] }, ?_⟩,
    ⟨0, word (0xF1 * 2 ^ 56), { pk 0 [word (0xF1 * 2 ^ 56)] [] with
      engs := [(0, { state := .run, len := 1000 }), (1, { state := .barrier, arrived := some (0, false, 256) })] },
    atBarrier (by decide +kernel), ?_, fun h => ?_⟩⟩
  · repeat' first | decide +kernel | exact atBarrier (by decide +kernel) | constructor
  · intro y m n t
    rcases List.mem_cons.mp m with rfl | m
    · exact absurd rfl n
    · rw [List.mem_singleton.mp m]
      rfl
  · exact absurd (h (1, { state := .barrier, arrived := some (0, false, 256) }) (by simp) (by decide) _ rfl) (by decide +kernel)

/-- `NoRoutine` holds wherever the kind has no patch. -/
theorem witness_NoRoutine : NoRoutine 0 (pk 0 [LP] []) := by
  show patchRuns (pk 0 [LP] []) 0 = false
  decide +kernel

theorem witness_AgentsChangeNothingElse : ∃ t, exec (.powerGood 7 127) { R with boot := { phase := .held }, elapsed := 2500000 } = .next t ∧
    rn t .CLK_STDLY = 7 := ⟨_, rfl, by decide +kernel⟩

theorem witness_HostChangesNothingElse : ∃ t, exec (.pkgReset 0 0 0x00A5) (up []) = .next t ∧ t.boot.resetReq = some 0 :=
  ⟨_, rfl, by decide +kernel⟩

/-! ### Ill-formed commands -/

/-- A fuse image of the right lengths. -/
def fz : FuseImage :=
  { serial := 1, lcs := 0, comp := List.replicate 117 0, monOfs := List.replicate 88 0, monGain := List.replicate 88 0 }

theorem test_wf_fuses : (Instr.fuseRead fz fz true).wf = true ∧ (Instr.fuseRead fz R.boot.fuses true).wf = false ∧
    (Instr.fuseRead { fz with comp := List.replicate 117 32768 } fz true).wf = false := by decide +kernel

theorem test_wf_monitor : (Instr.monitorWindow 2 0 5 true).wf = false ∧ (Instr.monitorWindow 1 0 5 true).wf = true := by decide

theorem test_wf_writer : (Instr.queueWrite 0 32 0 1 false).wf = false ∧ (Instr.queueWrite 0 31 0 1 false).wf = true := by decide

theorem test_wf_consumer : (Instr.eventDelivery 0x8B).wf = false ∧ (Instr.eventDelivery 0x8A).wf = true := by decide

theorem test_wf_mute : (Instr.drvMute 0 0 true 16 0).wf = false ∧ (Instr.drvMute 0 0 false 16 0).wf = true := by decide

theorem test_wf_coefficient : (Instr.flxCoefWrite 0 0 0x5C03 1 0).wf = false ∧ (Instr.flxCoefWrite 0 0 0x5C02 32 0).wf = true ∧
    (Instr.flxCoefWrite 0 0 0x5C02 33 0).wf = false := by decide

theorem test_wf_burst : (Instr.dramBurst 0 [{ src := 22, write := true, addr := 0, data := List.replicate 8 0 }] 0).wf = false ∧
    (Instr.dramBurst 0 [{ src := 19, write := true, addr := 32, data := List.replicate 8 0 }] 0).wf = false ∧
    (Instr.dramBurst 0 [{ src := 18, write := true, addr := 0, data := List.replicate 8 0 }] 0).wf = false ∧
    (Instr.dramBurst 0 [{ src := 19, write := true, addr := 0, data := List.replicate 7 0 }] 0).wf = false := by decide

theorem test_wf_bist : (Instr.bistDone [(0, 0)] [[]] [false]).wf = false ∧ (Instr.bistDone [(0, 0)] [[1]] [true]).wf = true := by decide

theorem test_wf_block : (Instr.blockReceive 0 0 [false, true, false]).wf = false ∧
    (Instr.blockReceive 0 0 [false, true]).wf = true := by decide

theorem test_wf_ptp : (Instr.ptpFrameReceive 0 { F0 with version := 16 }).wf = false ∧
    (Instr.ptpFrameReceive 0 { F0 with domain := 256 }).wf = false ∧ (Instr.ptpFrameReceive 0 { F0 with stamp := -1 }).wf = false ∧
    (Instr.ptpFrameReceive 0 F0).wf = true := by decide

theorem test_wf_factors : (Instr.mauCalDone 0 [40000] []).wf = false ∧ (Instr.mauCalDone 0 [0] []).wf = false := by decide

theorem test_wf_scrub : (Instr.scrubStep 5 0 0).wf = false ∧ (Instr.scrubStale 15).wf = false ∧ (Instr.scrubStale 16).wf = true := by decide

theorem test_wf_can : (Instr.canFrameReceive false .fd 0 (List.replicate 65 0)).wf = false ∧ (Instr.canBusError 100000 0).wf = false := by
  decide

/-! ### Steps on small states, with results from the spec -/

/-- R317, R340: with the host link up, the longest request finds room in queue 0x2000, and what `Serves` asks besides holds too. -/
theorem test_host_link_serves : let s := up [(.LNK_HL_STATE, 0, 2)]
    findsRoom 1 (List.replicate 2048 0) s = true ∧ reachable s 1 = true ∧ pathIdle s 1 = true ∧ myTurn s 1 = true ∧ retired s = false := by
  decide +kernel

/-- R430: a pulse of 99 ns is ignored, one of 100 ns is undefined, one of 1 µs resets with cause 2. -/
theorem test_reset_pulse : exec (.resetNAssert 99) runs = .next runs ∧ exec (.resetNAssert 100) runs = .fault .undefinedResetPulse ∧
    ∃ t, exec (.resetNAssert 1000) { runs with boot := { phase := .served } } = .next t ∧ rn t .PKG_RUN_STATE = 0 ∧ rn t .PKG_RESET_CAUSE = 2 :=
  ⟨rfl, rfl, _, rfl, by decide +kernel⟩

/-- R74, R76: PLAY of engine 3 with TARGET 7 forms a command for edge FIFO 31, with the opcode in bits [7:0]. -/
theorem test_play_emits : ∃ t, exec (.schedPlay 3 false) (pk 3 [word (0x01 * 2 ^ 56 + 7 * 2 ^ 48), word (2 ^ 52)] []) = .next t ∧
    (fget t 31).incoming.map (fun c => (edgeOp c.w0, c.w1, c.words)) = [(0x01, word (2 ^ 52), 2)] := ⟨_, rfl, by decide +kernel⟩

/-- R78: HOLD is not an opcode of engine 5 of a cluster. -/
theorem test_hold_illegal : ∃ t, exec (.schedHold 5 false) (pk 5 [word (0x03 * 2 ^ 56)] []) = .next t ∧ rn t .ENG_ILLEGAL 5 = 1 ∧
    t.fifos = [] := ⟨_, rfl, by decide +kernel⟩

/-- R46: FREQ writes the 48-bit frequency word. -/
theorem test_freq : ∃ t, exec (.freq 0) (edge 0 { w0 := 4, w1 := word (2 ^ 48 - 1), release := 0 } K) = .next t ∧
    rn t .TON_FREQ 0 = 2 ^ 48 - 1 := ⟨_, rfl, by decide +kernel⟩

/-- R252, R70: a read of a stored word answers it and removes it; a queue that serves no agent answers nothing. -/
theorem test_queue_read : exec (.queueRead 5 false false) R = .next R ∧ ∃ t, exec (.queueRead 0 false false) (one 0 R) = .next t ∧
    (qget t 0).words = [] ∧ (qget t 0).answer = some ⟨5, true, false, false⟩ := ⟨rfl, _, rfl, by decide +kernel⟩

/-- R263: POP answers 8 data bytes, low byte first, and the tag byte with END. -/
theorem test_pop : ∃ t, exec (.quePop 0 7) { up [(.QUE_SEL, 0, 0x1000)] with
      queues := [(0x1000, { words := [{ data := 0x0102030405060708, fin := true }] })] } = .next t ∧
    t.path0.responses.map (·.data.take 17) = [frameBytes 0x81 7 0x8006 0 0 [8, 7, 6, 5, 4, 3, 2, 1, 1]] := ⟨_, rfl, by decide +kernel⟩

/-- R330, R345: a read of a write-only object is answered with the abort code 0x0200_0003. -/
theorem test_read_wo : ∃ t, exec (.ydpRead 0) (rq 1 0x8004 0 0 [] (up [])) = .next t ∧
    t.path0.responses.map (·.data) = [frameBytes 0xFF 0 0x8004 0 0 [3, 0, 0, 2]] := ⟨_, rfl, by decide +kernel⟩

/-- A step takes the command at the front; the rest waits. -/
theorem test_front : ∃ t, step { R with pending := [.memoryWipeDone, .supplyLoss] } = .next t ∧ t.pending = [.supplyLoss] :=
  ⟨_, rfl, by decide +kernel⟩

end Sys2Proof.Tests
end

section
/-! Poisoned schedule words (R79): what reads of queue 0 keep, the end of the run by ABORT, the frame of the schedule rows, and the
words that LOOP and ALT gather. -/

namespace Sys2Proof.Proofs

open Sys2Proof.Machine Sys2Proof.Claims

/-! ### What reading words of queue 0 keeps -/

/-- The parts of the state and the objects that a read of queue 0 leaves alone, as a mask of `Same`: the timeline, the edge FIFOs, the
schedule areas, the run, PKG_RUN_STATE and the two counters of R79. -/
def readMask : Nat :=
  2 ^ 3 + 2 ^ 8 + 2 ^ 10 + 2 ^ 11 + 2 ^ (63 + Reg.PKG_RUN_STATE.ctorIdx) + 2 ^ (63 + Reg.ENG_POISON.ctorIdx) +
    2 ^ (63 + Reg.PKG_SCHED_POISON.ctorIdx)

/-- Engine e has read words of its queue 0: of the engines only e has changed, and e is in the state it was in. -/
structure HasRead (e : Nat) (s u : State) : Prop where
  same : Same readMask s u
  others : ∀ x, x ≠ e → eget u x = eget s x
  state : (eget u e).state = (eget s e).state

theorem HasRead.refl (e : Nat) (s : State) : HasRead e s s := ⟨.refl _ s, fun _ _ => rfl, rfl⟩

theorem HasRead.trans {e : Nat} {s t u : State} (h : HasRead e s t) (g : HasRead e t u) : HasRead e s u :=
  ⟨h.same.trans g.same, fun x n => (g.others x n).trans (h.others x n), g.state.trans h.state⟩

theorem eget_of_engs {s t : State} (h : t.engs = s.engs) (e : Nat) : eget t e = eget s e := by rw [eget, h, eget]

theorem eget_setRun (s : State) (r : RunState) (e : Nat) : eget { s with run := r } e = eget s e := rfl

theorem eget_readWord (q : Nat) (bad link : Bool) (s : State) (e : Nat) : eget (readWord q bad link s).2 e = eget s e :=
  eget_of_engs ((readWord_s (k := 2 ^ 9) rfl (.refl _ s)).engs rfl) e

theorem hasRead_readWord (e q : Nat) (s : State) : HasRead e s (readWord q false false s).2 :=
  ⟨readWord_s (by decide +kernel) (.refl _ s), fun _ _ => eget_readWord .., by rw [eget_readWord]⟩

theorem hasRead_passCut (e q : Nat) (s : State) : HasRead e s (passCut q s) := by
  unfold passCut
  split
  · exact hasRead_readWord e q s
  · exact .refl e s

theorem hasRead_takeQueue (e n : Nat) (s : State) : HasRead e s (takeQueue e n s) := by
  induction n generalizing s with
  | zero => exact .refl e s
  | succ n ih => exact ((hasRead_passCut e _ s).trans (hasRead_readWord e _ _)).trans (ih _)

theorem hasRead_eset {e : Nat} {v : Engine} {s : State} (h : v.state = (eget s e).state) : HasRead e s (eset e v s) :=
  ⟨eset_s (by decide +kernel) (.refl _ s), fun _ n => eget_eset_other n v s, by rw [eget_eset, h]⟩

/-- Outside a loop, a packet's words leave queue 0, and ENG_PC counts them. -/
theorem consume_of_no_loop {e : Nat} {s : State} (h : (eget s e).loop = none) (n : Nat) :
    consume e n s = eset e { eget (takeQueue e n s) e with pc := ((eget (takeQueue e n s) e).pc + 8 * n) % 2 ^ 64 } (takeQueue e n s) := by
  rw [consume, h]

theorem hasRead_consume {e : Nat} {s : State} (h : (eget s e).loop = none) (n : Nat) : HasRead e s (consume e n s) := by
  rw [consume_of_no_loop h]
  exact (hasRead_takeQueue e n s).trans (hasRead_eset rfl)

theorem hasRead_endGather (e : Nat) (s : State) : HasRead e s (endGather e s) := hasRead_eset rfl

/-! ### A poisoned word ends the run -/

/-- What ABORT does to an engine leaves every other engine as it is. -/
theorem eget_abortEngine_other {e x : Nat} (n : e ≠ x) (s : State) : eget (abortEngine x s) e = eget s e := by
  unfold abortEngine
  extract_lets v t u
  split
  · rfl
  · have h : Same (2 ^ 9) s u := discardStream_s rfl (Same_foldl (fun _ _ h => inc_s rfl (inc_s rfl h)) (.refl _ s))
    rw [eget_eset_other n, eget_of_engs (h.engs rfl)]

/-- ABORT stops an engine that runs (R90). -/
theorem abortEngine_stops (e : Nat) (s : State) : (eget (abortEngine e s) e).state ≠ .run := by
  unfold abortEngine
  extract_lets v t u
  split
  · next h => intro r; simp [v, r] at h
  · simp

/-- An engine that a walk over the engines cannot start does not run after it. -/
theorem foldl_not_run {e : Nat} {f : State → Nat → State} (h : ∀ t x, (eget t e).state ≠ .run → (eget (f t x) e).state ≠ .run)
    (l : List Nat) {s : State} (hs : (eget s e).state ≠ .run) : (eget (l.foldl f s) e).state ≠ .run := by
  induction l generalizing s with
  | nil => exact hs
  | cons x l ih => exact ih (h s x hs)

theorem abortEngines_stop {e : Nat} {l : List Nat} (m : e ∈ l) (s : State) :
    (eget (l.foldl (fun t x => abortEngine x t) s) e).state ≠ .run := by
  induction l generalizing s with
  | nil => cases m
  | cons y l ih =>
    rcases List.mem_cons.1 m with rfl | m
    · refine foldl_not_run (fun t x h => ?_) l (abortEngine_stops e s)
      by_cases n : e = x
      · exact n ▸ abortEngine_stops e t
      · rwa [eget_abortEngine_other n]
    · exact ih m _

/-- The end of a run starts no engine. -/
theorem finishRun_not_run {e : Nat} (how : Nat) {s : State} (h : (eget s e).state ≠ .run) : (eget (finishRun how s) e).state ≠ .run := by
  unfold finishRun
  extract_lets a b
  have ha : Same (2 ^ 9) s a := settleRequests_s rfl (Same_foldl (fun _ _ g => stopRefill_s rfl g) (wr_s rfl (wr_s rfl (.refl _ s))))
  have before : (eget a e).state ≠ .run := by rwa [eget_of_engs (ha.engs rfl)]
  have stopped : (eget b e).state ≠ .run := by
    refine foldl_not_run (fun t x g => ?_) (List.range 128) before
    dsimp only
    split
    · exact g
    · by_cases n : e = x
      · simp [n]
      · rwa [eget_eset_other n]
  clear_value b
  exact stopped

/-- ABORT on an edge FIFO, where it holds anything, leaves the engines alone. -/
theorem abortFifo_step_same {s t : State} {f : Nat} (h : Same (2 ^ 9) s t) : Same (2 ^ 9) s (if fget t f = {} then t else abortFifo f t) := by
  split
  · exact h
  · exact abortFifo_s rfl h

/-- ABORT on the edge FIFOs starts no engine. -/
theorem abortFifos_not_run {e : Nat} (l : List Nat) {s : State} (h : (eget s e).state ≠ .run) :
    (eget (l.foldl (fun t f => if fget t f = {} then t else abortFifo f t) s) e).state ≠ .run := by
  have same : Same (2 ^ 9) s (l.foldl (fun t f => if fget t f = {} then t else abortFifo f t) s) :=
    Same_foldl (fun t f g => abortFifo_step_same g) (.refl _ s)
  rwa [eget_of_engs (same.engs rfl)]

/-- After ABORT no cluster engine runs. -/
theorem abortRun_stops {e : Nat} (he : e < 128) {s : State} (hr : inRun s = true) (ha : s.run.aborted = false) :
    (eget (abortRun s) e).state ≠ .run := by
  unfold abortRun
  rw [if_neg (by simp [hr, ha])]
  extract_lets a b
  have stopped : (eget b e).state ≠ .run := abortFifos_not_run _ (abortEngines_stop (List.mem_range.2 he) s)
  clear_value b
  split
  · extract_lets c
    have same : Same (2 ^ 9) b c := logFault_s rfl (markShot_s rfl (.refl _ b))
    rwa [eget_setRun, eget_of_engs (same.engs rfl)]
  · exact finishRun_not_run 3 stopped

/-- The two counters of R79 have counted a poisoned word. -/
def poisonCounted (e : Nat) (s : State) : State := inc .PKG_SCHED_POISON 0 (inc .ENG_POISON e s)

theorem poisonCounted_same (e : Nat) (s : State) : Same (2 ^ 3 + 2 ^ 8 + 2 ^ 9 + 2 ^ 10 + 2 ^ 11) s (poisonCounted e s) :=
  inc_s (by decide +kernel) (inc_s (by decide +kernel) (.refl _ s))

theorem schedPoison_eq (e : Nat) (s : State) :
    schedPoison e s = logFault clsRunEnd 0 e (poisonCounted e s).tml (abortRun (poisonCounted e s)) := rfl

/-- The parts and objects of `AsAbort`: an entry of the fault log changes none of them. -/
def abortMask : Nat :=
  2 ^ 8 + 2 ^ 9 + 2 ^ 10 + 2 ^ 11 + 2 ^ (63 + Reg.PKG_RUN_STATE.ctorIdx) + 2 ^ (63 + Reg.PKG_RUN_END.ctorIdx) +
    2 ^ (63 + Reg.ENG_DISCARD.ctorIdx)

theorem schedPoison_same_abortRun (e : Nat) (s : State) : Same abortMask (abortRun (poisonCounted e s)) (schedPoison e s) := by
  rw [schedPoison_eq]
  exact logFault_s (by decide +kernel) (.refl abortMask _)

theorem rn_of_same {k : Nat} {s t : State} (h : Same k s t) {r : Reg} (w : k.testBit (63 + r.ctorIdx) = true) (i : Nat) : rn t r i = rn s r i :=
  congrArg Int.toNat (h.regs r i w)

/-- The run ends as by ABORT at the state in which the words read have left queue 0 (R79). -/
theorem schedPoison_asAbort (e : Nat) (s : State) : AsAbort (poisonCounted e s) (schedPoison e s) := by
  have h := schedPoison_same_abortRun e s
  exact ⟨h.run (by decide +kernel), ⟨rn_of_same h (by decide +kernel) 0, rn_of_same h (by decide +kernel) 0⟩,
    ⟨h.engs (by decide +kernel), h.areas (by decide +kernel)⟩, h.fifos (by decide +kernel), rn_of_same h (by decide +kernel)⟩

/-- Neither ABORT nor the fault log counts a poisoned word. -/
theorem rn_schedPoison (e : Nat) (s : State) {r : Reg} (h : r = .ENG_POISON ∨ r = .PKG_SCHED_POISON) (i : Nat) :
    rn (schedPoison e s) r i = rn (poisonCounted e s) r i := by
  have g : Same (2 ^ (63 + Reg.ENG_POISON.ctorIdx) + 2 ^ (63 + Reg.PKG_SCHED_POISON.ctorIdx)) (poisonCounted e s) (schedPoison e s) :=
    runEndFault_s (by decide +kernel) (.refl _ _)
  rcases h with rfl | rfl <;> exact rn_of_same g (by decide +kernel) i

/-- An engine that reads a poisoned word ends the run as R79 says, whatever words it has read before. -/
theorem schedPoison_endsPoisoned {e : Nat} {s u : State} (h : HasRead e s u) : EndsPoisoned e s (schedPoison e u) := by
  have same := h.same
  have counted := poisonCounted_same e u
  refine ⟨?_, ?_, poisonCounted e u, schedPoison_asAbort e u, (counted.run rfl).trans (same.run (by decide +kernel)),
    (counted.tml rfl).trans (same.tml (by decide +kernel)), (counted.fifos rfl).trans (same.fifos (by decide +kernel)),
    (counted.areas rfl).trans (same.areas (by decide +kernel)), fun x n => (eget_of_engs (counted.engs rfl) x).trans (h.others x n)⟩
  · rw [rn_schedPoison e u (.inl rfl), poisonCounted, rn_inc_reg (by decide), rn_inc_same, rn_of_same same (by decide +kernel)]
  · rw [rn_schedPoison e u (.inr rfl), poisonCounted, rn_inc_same, rn_inc_reg (by decide), rn_of_same same (by decide +kernel)]

theorem schedPoison_stops {e : Nat} (he : e < 128) {s u : State} (h : HasRead e s u) (hr : inRun s = true) (ha : s.run.aborted = false) :
    (eget (schedPoison e u) e).state ≠ .run := by
  rw [eget_of_engs ((schedPoison_same_abortRun e u).engs (by decide +kernel))]
  have hu : rn u .PKG_RUN_STATE = rn s .PKG_RUN_STATE := rn_of_same h.same (by decide +kernel) 0
  refine abortRun_stops he ?_ ?_
  · unfold inRun at hr ⊢
    rwa [poisonCounted, rn_inc_reg (by decide), rn_inc_reg (by decide), hu]
  · exact (congrArg RunState.aborted (h.same.run (by decide +kernel))).trans ha

/-- An engine that does not run executes no microword. -/
theorem microRun_of_not_run {e : Nat} {s : State} (h : (eget s e).state ≠ .run) (n : Nat) : microRun e n s = s := by
  cases n with
  | zero => rfl
  | succ n => rw [microRun, if_pos (by simp [canRun, h])]

/-- A row whose frame comes to a poisoned word ends the run, and no routine goes on after it. -/
theorem gives_of_poisoned {c : Instr} {op : Nat} {e : EngNo} {effect : List QWord → State → State} {s u : State}
    (hc : exec c s = schedRow op e false effect s) (hf : schedFrame op e false effect s = schedPoison e u) (h : HasRead e s u)
    (hr : inRun s = true) (ha : s.run.aborted = false) : Gives c s (EndsPoisoned e s) := by
  refine ⟨schedPoison e u, ?_, schedPoison_endsPoisoned h⟩
  rw [hc, schedRow, hf, microRun_of_not_run (schedPoison_stops e.isLt h hr ha), ite_self]

/-! ### Packets in queue 0 -/

theorem queueWords_cons (w : Word × Bool) (ws : List (Word × Bool)) :
    queueWords (w :: ws) = { data := w.1, psn := w.2, fin := ws.isEmpty } :: queueWords ws := by
  simp only [queueWords, List.length_cons, List.range_succ_eq_map, List.map_cons, List.map_map]
  congr 1
  · cases ws <;> simp [nthD]
  · exact List.map_congr_left fun i _ => by simp [nthD]

@[simp] theorem queueWords_length (ws : List (Word × Bool)) : (queueWords ws).length = ws.length := by simp [queueWords]

/-- What a test of the words of a packet finds, when it tests for PSN on words that are not bad. -/
theorem queueWords_any {f : QWord → Bool} (hf : ∀ q, q.bad = false → f q = q.psn) (ws : List (Word × Bool)) :
    (queueWords ws).any f = ws.any (·.2) := by
  induction ws with
  | nil => rfl
  | cons w ws ih => rw [queueWords_cons, List.any_cons, List.any_cons, ih, hf _ rfl]

theorem queueWords_data (ws : List (Word × Bool)) : (queueWords ws).map (·.data) = ws.map (·.1) := by
  induction ws with
  | nil => rfl
  | cons w ws ih => rw [queueWords_cons, List.map_cons, List.map_cons, ih]

theorem bad_of_mem_queueWords {ws : List (Word × Bool)} {q : QWord} (h : q ∈ queueWords ws) : q.bad = false := by
  obtain ⟨i, -, rfl⟩ := List.mem_map.1 h
  rfl

theorem clean_of_mem_queueWords {p : List Word} {q : QWord} (h : q ∈ queueWords (p.map fun w => (w, false))) :
    q.psn = false ∧ q.bad = false := by
  have hany : ((queueWords (p.map fun w => (w, false))).any (·.psn)) = false := by simp [queueWords_any fun _ _ => rfl]
  exact ⟨by simpa using List.any_eq_false.1 hany q h, bad_of_mem_queueWords h⟩

/-- A packet's last word carries END. -/
theorem queueWords_getLast_fin {ws : List (Word × Bool)} (h : ws ≠ []) : ∃ q, (queueWords ws).getLast? = some q ∧ q.fin = true := by
  induction ws with
  | nil => exact absurd rfl h
  | cons w ws ih =>
    rw [queueWords_cons]
    cases ws with
    | nil => exact ⟨_, rfl, rfl⟩
    | cons v ws =>
      obtain ⟨q, hq, hf⟩ := ih (by simp)
      exact ⟨q, by rw [List.getLast?_cons, hq]; rfl, hf⟩

theorem queueWords_any_fin {ws : List (Word × Bool)} (h : ws ≠ []) : (queueWords ws).any (·.fin) = true := by
  obtain ⟨q, hq, hf⟩ := queueWords_getLast_fin h
  exact List.any_eq_true.2 ⟨q, List.mem_of_getLast? hq, hf⟩

theorem headLen_queueWords (w : Word × Bool) (ws : List (Word × Bool)) (rest : List QWord) :
    headLen (queueWords (w :: ws) ++ rest) = ws.length + 1 := by
  induction ws generalizing w with
  | nil => rfl
  | cons v ws ih =>
    rw [queueWords_cons, List.cons_append, headLen, ih, List.length_cons]
    simp [Nat.add_comm]

/-- Queue 0 of engine e holds these words, no part of the head packet has been read as poisoned, no flush has cut it and its links are
whole. -/
structure QueueAt (e : Nat) (qs : List QWord) (s : State) : Prop where
  words : (qget s (32 * e)).words = qs
  cut : (qget s (32 * e)).cut = false
  tainted : (qget s (32 * e)).tainted = false
  dead : (qget s (32 * e)).dead = []

theorem queueAt_of_heads {e : Nat} {ws : List (Word × Bool)} {rest : List QWord} {s : State} (h : Heads e ws rest s) :
    QueueAt e (queueWords ws ++ rest) s := by
  obtain ⟨cut, tainted, dead⟩ := h.clean
  exact ⟨h.words, cut, tainted, dead⟩

theorem QueueAt.whole {e : Nat} {qs : List QWord} {s : State} (h : QueueAt e qs s) (f : qs.any (·.fin) = true) :
    wholePackets (qget s (32 * e)) ≠ 0 := by
  obtain ⟨q, hq, hf⟩ := List.any_eq_true.1 f
  rw [wholePackets, h.words]
  exact mt List.length_eq_zero_iff.1 (List.ne_nil_of_mem (List.mem_filter.2 ⟨hq, hf⟩))

theorem cutOff_of_whole {v : Queue} (h : v.dead = []) (n : Nat) : cutOff v n = false := by simp [cutOff, h]

theorem reachWords_of_whole {v : Queue} (h : v.dead = []) (n : Nat) : reachWords v n = n := by
  rw [reachWords, List.find?_eq_none.2 fun i _ => by simp [cutOff_of_whole h], Option.getD_none]

/-- PSN up to some word of a packet is PSN in some word of it. -/
theorem any_take_any {α : Type} (f : α → Bool) (xs : List α) : (xs.zipIdx.any fun x => (xs.take (x.2 + 1)).any f) = xs.any f := by
  apply Bool.eq_iff_iff.2
  simp only [List.any_eq_true]
  constructor
  · rintro ⟨x, -, y, hy, hf⟩
    exact ⟨y, List.mem_of_mem_take hy, hf⟩
  · rintro ⟨y, hy, hf⟩
    obtain ⟨i, hi, rfl⟩ := List.getElem_of_mem hy
    exact ⟨(xs[i], i), List.mem_zipIdx_iff_getElem?.2 (by simp [hi]), xs[i], List.mem_take_iff_getElem.2 ⟨i, by omega, rfl⟩, hf⟩

/-- A packet as reads deliver it: from its first poisoned word on, every word carries PSN (R251). -/
def asRead (p : List QWord) : List QWord :=
  p.zipIdx.map fun x => { x.1 with psn := (p.take (x.2 + 1)).any fun q => q.psn || q.bad, bad := false }

theorem asRead_any_psn (p : List QWord) : (asRead p).any (·.psn) = p.any fun q => q.psn || q.bad := by
  rw [asRead, List.any_map]
  exact any_take_any _ p

theorem asRead_data (p : List QWord) : (asRead p).map (·.data) = p.map (·.data) := by
  rw [asRead, List.map_map]
  calc p.zipIdx.map (QWord.data ∘ _)
    _ = p.zipIdx.map (QWord.data ∘ Prod.fst) := rfl
    _ = p.map QWord.data := by rw [← List.map_map, List.zipIdx_map_fst]

/-- Where no link has failed, reads deliver the whole head packet. -/
theorem headView_eq_asRead {e : Nat} {w : Word × Bool} {ws : List (Word × Bool)} {rest : List QWord} {s : State}
    (h : QueueAt e (queueWords (w :: ws) ++ rest) s) : headView (qget s (32 * e)) = asRead (queueWords (w :: ws)) := by
  have htake : (queueWords (w :: ws) ++ rest).take (ws.length + 1) = queueWords (w :: ws) := List.take_left' (by simp)
  simp [headView, asRead, h.words, headLen_queueWords, reachWords_of_whole h.dead, htake, h.tainted]

/-- The head packet as reads deliver it: its first word, its length, and PSN in one of its words or in none. -/
theorem nextPacket_of_queueAt {e : Nat} {w : Word × Bool} {ws : List (Word × Bool)} {rest : List QWord} {s : State}
    (hl : (eget s e).loop = none) (h : QueueAt e (queueWords (w :: ws) ++ rest) s) :
    ∃ q qs, nextPacket s e = some (q :: qs) ∧ q.data = w.1 ∧ (q :: qs).any (·.psn) = (w :: ws).any (·.2) ∧ qs.length = ws.length := by
  have hfin : (queueWords (w :: ws) ++ rest).any (·.fin) = true := by simp [queueWords_any_fin]
  have hview : nextPacket s e = some (headView (qget s (32 * e))) := by
    rw [nextPacket, hl]
    exact if_neg (h.whole hfin)
  rw [headView_eq_asRead h] at hview
  have hdata : (asRead (queueWords (w :: ws))).map (·.data) = w.1 :: ws.map (·.1) := by rw [asRead_data, queueWords_data]; rfl
  obtain ⟨q, qs, hp, hq, hqs⟩ := List.map_eq_cons_iff.1 hdata
  refine ⟨q, qs, hp ▸ hview, hq, ?_, by simpa using congrArg List.length hqs⟩
  rw [← hp, asRead_any_psn, queueWords_any fun q hb => by rw [hb, Bool.or_false]]

/-- The frame of a row whose engine stands at a packet of the row's opcode (R75, R78, R79, R97). -/
theorem schedFrame_of_heads {e : Nat} {ws : List (Word × Bool)} {rest : List QWord} {s : State} (h : Heads e ws rest s)
    {q : QWord} {qs : List QWord} (hnext : nextPacket s e = some (q :: qs)) (effect : List QWord → State → State) :
    schedFrame (schedOp q.data) e false effect s =
      let o := schedOp q.data
      if (q :: qs).any (·.psn) then schedPoison e (consume e (wordsRead (q :: qs)) s)
      else if !handled s e o then afterPacket e (dropIllegal e o 4 (consume e (q :: qs).length s))
      else if (q :: qs).length < packetLen o ∨ (o ≠ 0x10 ∧ schedReserved o q.data) then
        afterPacket e (dropIllegal e o (schedCost o) (consume e (q :: qs).length s))
      else if reached s (e % 8) o && headLegal s e q.data then startRoutine e o s
      else effect (q :: qs) s := by
  simp only [schedFrame, canRun, h.run, h.routine, h.gather, hnext]
  simp

/-- Every row of a schedule opcode ends the run at a packet with PSN (R79): the frame comes to the poison before the opcode. -/
theorem poisonEndsRun_of_schedRow {row : EngNo → Bool → Instr} {op : Nat} {effect : EngNo → List QWord → State → State}
    (hrow : ∀ e s, exec (row e false) s = schedRow op e false (effect e) s) : PoisonEndsRun row op := by
  intro e w ws rest s h hop hpsn hr ha
  obtain ⟨q, qs, hnext, hq, hany, -⟩ := nextPacket_of_queueAt h.loop (queueAt_of_heads h)
  refine gives_of_poisoned (hrow e s) (u := consume e (wordsRead (q :: qs)) s) ?_ (hasRead_consume h.loop _) hr ha
  have frame := schedFrame_of_heads h hnext (effect e)
  rwa [hq, hop, if_pos (hany.trans hpsn)] at frame

/-- At a clean packet of one word that its engine has and no patch reaches, the frame comes to the opcode's own effect. -/
theorem schedFrame_of_atPacket {e : Nat} {w0 : Word} {rest : List QWord} {s : State} (effect : List QWord → State → State)
    (h : AtPacket e [w0] rest s) (hh : handled s e (schedOp w0) = true) (hlen : packetLen (schedOp w0) = 1)
    (hres : schedOp w0 ≠ 0x10 → schedReserved (schedOp w0) w0 = false) :
    ∃ q, q.data = w0 ∧ schedFrame (schedOp w0) e false effect s = effect [q] s := by
  obtain ⟨heads, rom⟩ := h
  have hqueue : QueueAt e (queueWords [(w0, false)] ++ rest) s := queueAt_of_heads heads
  obtain ⟨q, qs, hnext, hq, hany, hqs⟩ := nextPacket_of_queueAt heads.loop hqueue
  obtain rfl := List.length_eq_zero_iff.1 hqs
  have hrom : reached s (e % 8) (schedOp w0) = false := rom
  have frame := schedFrame_of_heads heads hnext effect
  refine ⟨q, hq, ?_⟩
  rw [hq, hany] at frame
  dsimp only at frame
  rw [frame, if_neg (by simp), if_neg (by simp [hh]), if_neg (by simpa [hlen] using hres), if_neg (by simp [hrom])]

/-! ### Reading the words of a LOOP or an ALT -/

/-- One word of queue 0 joins the LOOP or ALT item under way: a step of `gatherWords`. -/
def gatherOne (e : Nat) (s : State) : State :=
  let r := readWord (32 * e) false false (passCut (32 * e) s)
  let g := gathered r.2 e
  eset e { eget r.2 e with pc := ((eget r.2 e).pc + 8) % 2 ^ 64
                           gather := some { g with words := g.words ++ [{ data := r.1.data, fin := r.1.fin }], psn := r.1.psn } } r.2

theorem gatherWords_succ (e n : Nat) (s : State) :
    gatherWords e (n + 1) s = if wholePackets (qget s (32 * e)) = 0 ∨ streamRead s e ∨ (gathered s e).psn then s
      else gatherWords e n (gatherOne e s) := rfl

theorem gatherWords_of_psn {e : Nat} {s : State} (h : (gathered s e).psn = true) (n : Nat) : gatherWords e n s = s := by
  cases n with
  | zero => rfl
  | succ n => rw [gatherWords_succ, if_pos (.inr (.inr h))]

theorem gatherPackets_of_psn {e : Nat} {s : State} (h : (gathered s e).psn = true) (count n : Nat) : gatherPackets e count n s = s := by
  cases n with
  | zero => rfl
  | succ n => exact if_pos (.inr (.inr (.inr (.inl h))))

theorem hasRead_gatherOne (e : Nat) (s : State) : HasRead e s (gatherOne e s) :=
  ((hasRead_passCut e _ s).trans (hasRead_readWord e _ _)).trans (hasRead_eset rfl)

theorem hasRead_gatherWords (e n : Nat) (s : State) : HasRead e s (gatherWords e n s) := by
  induction n generalizing s with
  | zero => exact .refl e s
  | succ n ih =>
    rw [gatherWords_succ]
    split
    · exact .refl e s
    · exact (hasRead_gatherOne e s).trans (ih _)

theorem hasRead_gatherPackets (e count n : Nat) (s : State) : HasRead e s (gatherPackets e count n s) := by
  induction n generalizing s with
  | zero => exact .refl e s
  | succ n ih =>
    unfold gatherPackets
    extract_lets q op
    split
    · exact .refl e s
    · exact (hasRead_gatherWords e _ s).trans (ih _)

theorem qget_of_queues {s t : State} (h : t.queues = s.queues) (q : Nat) : qget t q = qget s q := by rw [qget, h, qget]

theorem popMany_words (v : Queue) (n : Nat) : (popMany v n).words = v.words.drop n := by
  unfold popMany
  split
  · next h => exact (List.drop_eq_nil_of_le h).symm
  · rfl

theorem popMany_cut (v : Queue) (n : Nat) : (popMany v n).cut = v.cut := by unfold popMany; split <;> rfl

theorem popMany_dead {v : Queue} (h : v.dead = []) (n : Nat) : (popMany v n).dead = [] := by
  unfold popMany
  split
  · rfl
  · exact h

/-- A step of a queue's level changes counters alone. -/
theorem queueAt_levelStep {e q a b : Nat} {qs : List QWord} {s : State} (h : QueueAt e qs s) : QueueAt e qs (levelStep q a b s) := by
  have hq : qget (levelStep q a b s) (32 * e) = qget s (32 * e) :=
    qget_of_queues ((levelStep_s (k := 2 ^ 6) rfl (.refl _ s)).queues rfl) _
  exact ⟨hq ▸ h.words, hq ▸ h.cut, hq ▸ h.tainted, hq ▸ h.dead⟩

theorem queueAt_eset {e x : Nat} {v : Engine} {qs : List QWord} {s : State} (h : QueueAt e qs s) : QueueAt e qs (eset x v s) :=
  ⟨h.words, h.cut, h.tainted, h.dead⟩

theorem passCut_of_queueAt {e : Nat} {qs : List QWord} {s : State} (h : QueueAt e qs s) : passCut (32 * e) s = s :=
  if_neg (by simp [h.cut])

/-- A read of queue 0 gives its first word with its tags. -/
theorem readWord_of_queueAt {e : Nat} {q : QWord} {qs : List QWord} {s : State} (h : QueueAt e (q :: qs) s)
    (f : (q :: qs).any (·.fin) = true) :
    (readWord (32 * e) false false (passCut (32 * e) s)).1 = ⟨q.data, q.fin, false, q.psn || q.bad⟩ := by
  simp [passCut_of_queueAt h, readWord, h.cut, h.whole f, cutOff_of_whole h.dead, h.words, h.tainted]

/-- A read of a clean word leaves the words after it. -/
theorem queueAt_readWord {e : Nat} {q : QWord} {qs : List QWord} {s : State} (h : QueueAt e (q :: qs) s)
    (f : (q :: qs).any (·.fin) = true) (hpsn : q.psn = false) (hbad : q.bad = false) :
    QueueAt e qs (readWord (32 * e) false false (passCut (32 * e) s)).2 := by
  simp only [passCut_of_queueAt h, readWord, h.cut, h.whole f, cutOff_of_whole h.dead, h.words, h.tainted, hpsn, hbad]
  exact queueAt_levelStep ⟨by simp [popMany_words, h.words], by simp [popMany_cut, h.cut], by simp, by simp [popMany_dead h.dead]⟩

/-! ### The words of a LOOP or an ALT that a poisoned word ends -/

/-- Engine e reads the words of a LOOP or an ALT item: what it holds of it, ENG_PC, the length of its section and what queue 0 holds. -/
structure Gathering (e : Nat) (g : Gather) (pc len : Nat) (qs : List QWord) (s : State) : Prop where
  gather : (eget s e).gather = some g
  pc : (eget s e).pc = pc
  len : (aget s e).len = len
  queue : QueueAt e qs s

theorem gathered_of_gathering {e : Nat} {g : Gather} {pc len : Nat} {qs : List QWord} {s : State} (h : Gathering e g pc len qs s) :
    gathered s e = g := by rw [gathered, h.gather, Option.getD_some]

theorem aget_of_hasRead {e : Nat} {s t : State} (h : HasRead e s t) (x : Nat) : aget t x = aget s x := by
  rw [aget, h.same.areas (by decide +kernel), aget]

/-- A word read for the item marks it exactly when the word is poisoned. -/
theorem gathered_gatherOne {e : Nat} {g : Gather} {pc len : Nat} {q : QWord} {qs : List QWord} {s : State}
    (h : Gathering e g pc len (q :: qs) s) (f : (q :: qs).any (·.fin) = true) : (gathered (gatherOne e s) e).psn = (q.psn || q.bad) := by
  simp [gathered, gatherOne, readWord_of_queueAt h.queue f]

/-- A clean word joins the item, and ENG_PC counts it. -/
theorem gathering_gatherOne {e : Nat} {g : Gather} {pc len : Nat} {q : QWord} {qs : List QWord} {s : State}
    (h : Gathering e g pc len (q :: qs) s) (f : (q :: qs).any (·.fin) = true) (hpsn : q.psn = false) (hbad : q.bad = false)
    (hpc : pc + 8 < 2 ^ 64) :
    Gathering e { g with words := g.words ++ [{ data := q.data, fin := q.fin }], psn := false } (pc + 8) len qs (gatherOne e s) := by
  have hr : eget (readWord (32 * e) false false (passCut (32 * e) s)).2 e = eget s e := by
    rw [eget_readWord, passCut_of_queueAt h.queue]
  refine ⟨?_, ?_, ?_, queueAt_eset (queueAt_readWord h.queue f hpsn hbad)⟩
  · simp [gatherOne, readWord_of_queueAt h.queue f, gathered, hr, h.gather, hpsn, hbad]
  · simpa [gatherOne, hr, h.pc] using Nat.mod_eq_of_lt hpc
  · rw [aget_of_hasRead (hasRead_gatherOne e s), h.len]

/-- While words of the section are left and none was poisoned, one more word of queue 0 is read. -/
theorem gatherWords_succ_of_gathering {e : Nat} {g : Gather} {pc len : Nat} {qs : List QWord} {s : State} (h : Gathering e g pc len qs s)
    (f : qs.any (·.fin) = true) (hg : g.psn = false) (hpc : pc / 8 < len) (n : Nat) :
    gatherWords e (n + 1) s = gatherWords e n (gatherOne e s) := by
  rw [gatherWords_succ, if_neg]
  rintro (hw | hs | hp)
  · exact h.queue.whole f hw
  · rw [streamRead, h.len, h.pc, decide_eq_true_eq] at hs
    omega
  · rw [gathered_of_gathering h, hg] at hp
    cases hp

/-- Clean words of queue 0 join the LOOP or ALT item one after the other. -/
theorem gathering_gatherWords {e : Nat} {len : Nat} {rest : List QWord} (f : rest.any (·.fin) = true) (ps : List QWord)
    (clean : ∀ q ∈ ps, q.psn = false ∧ q.bad = false) {g : Gather} {pc : Nat} {s : State} (h : Gathering e g pc len (ps ++ rest) s)
    (hg : g.psn = false) (hlen : pc / 8 + ps.length ≤ len) (hpc : pc + 8 * ps.length < 2 ^ 64) :
    ∃ g', Gathering e g' (pc + 8 * ps.length) len rest (gatherWords e ps.length s) ∧
      g'.words.map (·.data) = g.words.map (·.data) ++ ps.map (·.data) ∧ g'.psn = false := by
  induction ps generalizing g pc s with
  | nil => exact ⟨g, h, by simp, hg⟩
  | cons q ps ih =>
    have hf : (q :: (ps ++ rest)).any (·.fin) = true := by simp [f]
    obtain ⟨⟨hpsn, hbad⟩, hps⟩ := List.forall_mem_cons.1 clean
    rw [List.length_cons] at hlen hpc
    have hone := gathering_gatherOne h hf hpsn hbad (by omega)
    obtain ⟨g', h', hwords, hg'⟩ := ih hps hone rfl (by omega) (by omega)
    rw [List.length_cons, gatherWords_succ_of_gathering h hf hg (by omega)]
    exact ⟨g', by rwa [show pc + 8 * (ps.length + 1) = pc + 8 + 8 * ps.length by omega], by simp [hwords], hg'⟩

/-- A poisoned word among the next words of queue 0 that belong to the LOOP or ALT item is read, and marks it. -/
theorem gatherWords_poisoned {e len n : Nat} (rest : List QWord) (ps : List QWord) (hbad : ∀ q ∈ ps, q.bad = false)
    (hpsn : ps.any (·.psn) = true) (hfin : ∃ q, ps.getLast? = some q ∧ q.fin = true) {g : Gather} {pc : Nat} {s : State}
    (h : Gathering e g pc len (ps ++ rest) s) (hg : g.psn = false) (hlen : pc / 8 + ps.length ≤ len)
    (hpc : pc + 8 * ps.length < 2 ^ 64) (hn : ps.length ≤ n) : (gathered (gatherWords e n s) e).psn = true := by
  induction ps generalizing g pc s n with
  | nil => cases hpsn
  | cons q ps ih =>
    obtain ⟨last, hlast, hlf⟩ := hfin
    have hf : (q :: (ps ++ rest)).any (·.fin) = true :=
      List.any_eq_true.2 ⟨last, List.mem_append_left rest (List.mem_of_getLast? hlast), hlf⟩
    obtain ⟨hq, hps⟩ := List.forall_mem_cons.1 hbad
    rw [List.length_cons] at hlen hpc hn
    obtain ⟨m, rfl⟩ : ∃ m, n = m + 1 := ⟨n - 1, by omega⟩
    rw [gatherWords_succ_of_gathering h hf hg (by omega)]
    cases hp : q.psn with
    | true =>
      have hone : (gathered (gatherOne e s) e).psn = true := by rw [gathered_gatherOne h hf, hp, Bool.true_or]
      rwa [gatherWords_of_psn hone]
    | false =>
      have hany : ps.any (·.psn) = true := by simpa [hp] using hpsn
      have hne : ps ≠ [] := by rintro rfl; cases hany
      exact ih hps hany ⟨last, by rwa [List.getLast?_cons_of_ne_nil hne] at hlast, hlf⟩ (gathering_gatherOne h hf hp hq (by omega)) rfl
        (by omega) (by omega) (by omega)

theorem hasRead_beginGather {e : Nat} {s : State} (hl : (eget s e).loop = none) (op : Nat) (w0 : Word) :
    HasRead e s (beginGather e op w0 s) := (hasRead_consume hl 1).trans (hasRead_eset rfl)

/-- The first word of a LOOP or ALT has left queue 0, and nothing has been read of what follows. -/
theorem gathering_beginGather {e : Nat} {w0 : Word} {rest : List QWord} {s : State} (h : AtPacket e [w0] rest s) (op : Nat) (w : Word)
    (hpc : (eget s e).pc + 8 < 2 ^ 64) :
    Gathering e { op := op, head := w } ((eget s e).pc + 8) (aget s e).len rest (beginGather e op w s) := by
  have hl := h.heads.loop
  have hq : QueueAt e ({ data := w0, fin := true } :: rest) s := queueAt_of_heads h.heads
  have hrest := queueAt_readWord hq rfl rfl rfl
  have htake : takeQueue e 1 s = (readWord (32 * e) false false (passCut (32 * e) s)).2 := rfl
  have heng : eget (takeQueue e 1 s) e = eget s e := by rw [htake, eget_readWord, passCut_of_queueAt hq]
  have hpc' : ((eget s e).pc + 8) % 2 ^ 64 = (eget s e).pc + 8 := Nat.mod_eq_of_lt hpc
  refine ⟨by simp [beginGather], ?_, by rw [aget_of_hasRead (hasRead_beginGather hl op w)], ?_⟩
  · simpa [beginGather, consume_of_no_loop hl, heng] using hpc'
  · rw [beginGather, consume_of_no_loop hl, htake]
    exact queueAt_eset (queueAt_eset hrest)

/-! ### LOOP -/

theorem bad_of_mem_cleanPackets {ps : List (List Word)} {q : QWord} (h : q ∈ cleanPackets ps) : q.bad = false := by
  obtain ⟨p, hp, hq⟩ := List.mem_flatten.1 h
  obtain ⟨ws, -, rfl⟩ := List.mem_map.1 hp
  exact bad_of_mem_queueWords hq

theorem cleanPackets_length (ps : List (List Word)) : (cleanPackets ps).length = ps.flatten.length := by
  induction ps with
  | nil => rfl
  | cons p ps ih => simp_all [cleanPackets]

theorem cleanPackets_cons (p : List Word) (ps : List (List Word)) :
    cleanPackets (p :: ps) = queueWords (p.map fun w => (w, false)) ++ cleanPackets ps := rfl

/-- LOOP reads the poisoned word of its body, and the run ends (R79, R80). -/
theorem loop_poisoned (e : EngNo) (w0 : Word) (ps : List (List Word)) (ws : List (Word × Bool)) (rest : List QWord) (s : State)
    (h : AtPacket e [w0] (cleanPackets ps ++ (queueWords ws ++ rest)) s) (hop : schedOp w0 = 0x28)
    (hsec : InSection e (ps ++ [ws.map (·.1)]) s) (hpsn : ws.any (·.2) = true) (hbody : ps.flatten.length + ws.length ≤ fld w0 55 48)
    (hr : inRun s = true) (ha : s.run.aborted = false) : Gives (.schedLoop e false) s (EndsPoisoned e s) := by
  obtain ⟨hlen, hpc⟩ := hsec
  have htotal : (ps ++ [ws.map (·.1)]).flatten.length = ps.flatten.length + ws.length := by simp
  have hbodyLen : (cleanPackets ps ++ queueWords ws).length = ps.flatten.length + ws.length := by simp [cleanPackets_length]
  rw [htotal] at hlen hpc
  have hne : ws ≠ [] := by rintro rfl; cases hpsn
  obtain ⟨last, hlast, hlf⟩ := queueWords_getLast_fin hne
  obtain ⟨q, hq, frame⟩ := schedFrame_of_atPacket (loopEffect e) h (by rw [hop]; rfl) (by rw [hop]; rfl)
    (fun _ => by simp [hop, schedReserved])
  have begun := gathering_beginGather h 0x28 w0 (by omega)
  rw [← List.append_assoc] at begun
  have poisoned := gatherWords_poisoned (n := fld w0 55 48) rest (cleanPackets ps ++ queueWords ws)
    (fun q hq => (List.mem_append.1 hq).elim bad_of_mem_cleanPackets bad_of_mem_queueWords)
    (by rw [List.any_append, queueWords_any fun _ _ => rfl, hpsn, Bool.or_true])
    ⟨last, by simp [List.getLast?_append, hlast], hlf⟩ begun rfl (by omega) (by omega) (by omega)
  refine gives_of_poisoned (op := 0x28) (effect := loopEffect e) rfl (u := endGather e (gatherWords e (fld w0 55 48) (beginGather e 0x28 w0 s)))
    ?_ (((hasRead_beginGather h.heads.loop _ _).trans (hasRead_gatherWords e _ _)).trans (hasRead_endGather e _)) hr ha
  rw [← hop, frame, hop, loopEffect]
  simp [h.heads.gather, nthD, hq, gathered_of_gathering begun, poisoned]

/-! ### ALT -/

/-- A packet that belongs to an ALT item: of an emitting opcode, and whole (R82). -/
def ItemPacket (p : List Word) : Prop :=
  1 ≤ schedOp (nthD p 0 0) ∧ schedOp (nthD p 0 0) ≤ 9 ∧ p.length = packetLen (schedOp (nthD p 0 0))

theorem packetLen_pos (op : Nat) : 1 ≤ packetLen op := by unfold packetLen; split <;> omega

/-- The words of whole packets of emitting opcodes are as many packets of the item (R82). -/
theorem itemPackets_length {ps : List (List Word)} (hps : ∀ p ∈ ps, ItemPacket p) {n : Nat} (hn : ps.length ≤ n) {ws : List QWord}
    (hws : ws.map (·.data) = ps.flatten) : (itemPackets n ws).length = ps.length := by
  induction ps generalizing n ws with
  | nil =>
    obtain rfl : ws = [] := List.map_eq_nil_iff.1 hws
    cases n <;> rfl
  | cons p ps ih =>
    obtain ⟨⟨hlo, hhi, hlen⟩, hrest⟩ := List.forall_mem_cons.1 hps
    obtain ⟨x, xs, rfl⟩ : ∃ x xs, p = x :: xs := List.exists_cons_of_length_pos (by have := packetLen_pos (schedOp (nthD p 0 0)); omega)
    obtain ⟨w, vs, rfl, hw, hvs⟩ := List.map_eq_cons_iff.1 hws
    obtain ⟨m, rfl⟩ : ∃ m, n = m + 1 := ⟨n - 1, by rw [List.length_cons] at hn; omega⟩
    have hop : nthD (x :: xs) 0 0 = w.data := hw.symm
    rw [hop] at hlo hhi hlen
    have htake : min (packetLen (schedOp w.data)) (vs.length + 1) = (x :: xs).length := by
      have total := congrArg List.length hws
      rw [List.length_map, List.length_cons, List.flatten_cons, List.length_append] at total
      omega
    have hdrop : ((w :: vs).drop (x :: xs).length).map (·.data) = ps.flatten := by
      rw [List.map_drop, hws, List.flatten_cons, List.drop_left]
    rw [itemPackets]
    simp only [hlo, hhi, and_self, if_true, htake, List.length_cons]
    rw [← List.length_cons (a := x), ih hrest (by simpa using hn) hdrop]

/-- While an ALT item lacks packets, its section goes on and none of its words was poisoned, it takes the head packet of queue 0 (R82). -/
theorem gatherPackets_succ_of_gathering {e count len : Nat} {g : Gather} {pc : Nat} {w : Word × Bool} {ws : List (Word × Bool)}
    {rest : List QWord} {s : State} (h : Gathering e g pc len (queueWords (w :: ws) ++ rest) s) (hg : g.psn = false) (hpc : pc / 8 < len)
    {taken : List (List Word)} (htaken : ∀ p ∈ taken, ItemPacket p) (hwords : g.words.map (·.data) = taken.flatten)
    (hcount : taken.length < count) (hlo : 1 ≤ schedOp w.1) (hhi : schedOp w.1 ≤ 9) (n : Nat) :
    gatherPackets e count (n + 1) s = gatherPackets e count n (gatherWords e (ws.length + 1) s) := by
  have hf : (queueWords (w :: ws) ++ rest).any (·.fin) = true := by simp [queueWords_any_fin]
  have hhead : (nthD (qget s (32 * e)).words 0 { data := 0 }).data = w.1 := by rw [h.queue.words, queueWords_cons]; rfl
  have hread : streamRead s e = false := by
    rw [streamRead, h.len, h.pc, decide_eq_false_iff_not]
    omega
  have hitems := itemPackets_length htaken (Nat.le_of_lt hcount) hwords
  rw [gatherPackets]
  simp only [hhead, gathered_of_gathering h, hg, hread, h.queue.whole hf, hlo, hhi]
  rw [if_neg (by simp [hitems, hcount]), h.queue.words, headLen_queueWords]

/-- Whole clean packets join the ALT item until it takes the packet with a poisoned word, which marks it. -/
theorem gatherPackets_poisoned {e count len : Nat} {w : Word × Bool} {ws : List (Word × Bool)} (rest : List QWord)
    (hpsn : (w :: ws).any (·.2) = true) (hlo : 1 ≤ schedOp w.1) (hhi : schedOp w.1 ≤ 9) (todo : List (List Word))
    (htodo : ∀ p ∈ todo, ItemPacket p) {taken : List (List Word)} (htaken : ∀ p ∈ taken, ItemPacket p) {g : Gather} {pc n : Nat} {s : State}
    (h : Gathering e g pc len (cleanPackets todo ++ (queueWords (w :: ws) ++ rest)) s) (hg : g.psn = false)
    (hwords : g.words.map (·.data) = taken.flatten) (hcount : taken.length + todo.length < count) (hn : todo.length ≤ n)
    (hlen : pc / 8 + (todo.flatten.length + (ws.length + 1)) ≤ len) (hpc : pc + 8 * (todo.flatten.length + (ws.length + 1)) < 2 ^ 64) :
    (gathered (gatherPackets e count (n + 1) s) e).psn = true := by
  induction todo generalizing taken g pc s n with
  | nil =>
    have hpoison : (gathered (gatherWords e (ws.length + 1) s) e).psn = true :=
      gatherWords_poisoned rest _ (fun q => bad_of_mem_queueWords) (by rwa [queueWords_any fun _ _ => rfl])
        (queueWords_getLast_fin (List.cons_ne_nil w ws)) h hg (by simpa using hlen) (by simpa using hpc) (by simp)
    rwa [gatherPackets_succ_of_gathering h hg (by omega) htaken hwords (by simpa using hcount) hlo hhi, gatherPackets_of_psn hpoison]
  | cons p todo ih =>
    obtain ⟨hp, hrest⟩ := List.forall_mem_cons.1 htodo
    obtain ⟨hplo, hphi, hplen⟩ := id hp
    obtain ⟨x, xs, rfl⟩ : ∃ x xs, p = x :: xs := List.exists_cons_of_length_pos (hplen ▸ packetLen_pos _)
    have hlenx : (queueWords ((x :: xs).map fun w => (w, false))).length = xs.length + 1 := by simp
    simp only [List.length_cons, List.flatten_cons, List.length_append] at hcount hn hlen hpc
    obtain ⟨m, rfl⟩ : ∃ m, n = m + 1 := ⟨n - 1, by omega⟩
    rw [cleanPackets_cons, List.append_assoc] at h
    obtain ⟨g', h', hwords', hg'⟩ := gathering_gatherWords (by simp [queueWords_any_fin]) _ (fun q hq => clean_of_mem_queueWords hq) h hg
      (by omega) (by omega)
    rw [hlenx] at h'
    rw [gatherPackets_succ_of_gathering h hg (by omega) htaken hwords (by omega) hplo hphi, List.length_map]
    refine ih hrest (taken := taken ++ [x :: xs]) ?_ h' hg' ?_ (by rw [List.length_append, List.length_singleton]; omega)
      (by omega) (by omega) (by omega)
    · exact fun q hq => (List.mem_append.1 hq).elim (htaken q) fun hq => List.mem_singleton.1 hq ▸ hp
    · simp [hwords', hwords, queueWords_data, Function.comp_def]

/-- ALT reads the poisoned word of its item, and the run ends (R79, R82). -/
theorem alt_poisoned (e : EngNo) (w0 : Word) (ps : List (List Word)) (w : Word × Bool) (ws : List (Word × Bool)) (rest : List QWord)
    (s : State) (h : AtPacket e [w0] (cleanPackets ps ++ (queueWords (w :: ws) ++ rest)) s) (hop : schedOp w0 = 0x10)
    (hkind : schedKind 0x10 (e.val % 8) = true) (hsec : InSection e (ps ++ [(w :: ws).map (·.1)]) s) (hpsn : (w :: ws).any (·.2) = true)
    (hcount : ps.length < fld w0 47 44) (hps : ∀ p ∈ ps, ItemPacket p) (hlo : 1 ≤ schedOp w.1) (hhi : schedOp w.1 ≤ 9)
    (hr : inRun s = true) (ha : s.run.aborted = false) : Gives (.schedAlt e false) s (EndsPoisoned e s) := by
  obtain ⟨hlen, hpc⟩ := hsec
  have htotal : (ps ++ [(w :: ws).map (·.1)]).flatten.length = ps.flatten.length + (ws.length + 1) := by simp
  rw [htotal] at hlen hpc
  have hhandled : handled s e (schedOp w0) = true := by
    rw [hop, handled, hkind]
    rfl
  have hfuel : fld w0 47 44 < 16 := Nat.mod_lt _ (by decide)
  obtain ⟨q, hq, frame⟩ := schedFrame_of_atPacket (altEffect e) h hhandled (by rw [hop]; rfl) (absurd hop)
  have begun := gathering_beginGather h 0x10 w0 (by omega)
  have poisoned := gatherPackets_poisoned (n := 15) rest hpsn hlo hhi ps hps (taken := []) nofun begun rfl rfl (by simpa using hcount)
    (by omega) (by omega) (by omega)
  refine gives_of_poisoned (op := 0x10) (effect := altEffect e) rfl
    (u := endGather e (gatherPackets e (fld w0 47 44) 16 (beginGather e 0x10 w0 s)))
    ?_ (((hasRead_beginGather h.heads.loop _ _).trans (hasRead_gatherPackets e _ _ _)).trans (hasRead_endGather e _)) hr ha
  rw [← hop, frame, hop, altEffect]
  simp [h.heads.loop, h.heads.gather, nthD, hq, gathered_of_gathering begun, poisoned]

/-- Settles O24: every row comes to `schedPoison` before its opcode's effect, LOOP and ALT come to it with the word they gather, and
what they have read by then changes neither the run nor another engine. -/
theorem poisonedPacketEndsTheRun : Obligations.PoisonedPacketEndsTheRun := by
  have rows {row op effect} := @poisonEndsRun_of_schedRow row op effect
  refine ⟨rows fun _ _ => rfl, rows fun _ _ => rfl, rows fun _ _ => rfl, rows fun _ _ => rfl, rows fun _ _ => rfl, rows fun _ _ => rfl,
    rows fun _ _ => rfl, rows fun _ _ => rfl, rows fun _ _ => rfl, rows fun _ _ => rfl, rows fun _ _ => rfl, rows fun _ _ => rfl,
    rows fun _ _ => rfl, rows fun _ _ => rfl, rows fun _ _ => rfl, rows fun _ _ => rfl, rows fun _ _ => rfl, rows fun _ _ => rfl,
    loop_poisoned, ?_⟩
  intro e w0 ps w ws rest s h hop hkind hsec hpsn hcount hops hlens hr ha
  obtain ⟨hps, hw⟩ := List.forall_mem_append.1 hops
  obtain ⟨hlo, hhi⟩ := hw w.1 (List.mem_singleton.2 rfl)
  have items : ∀ p ∈ ps, ItemPacket p := fun p hp =>
    have ⟨lo, hi⟩ := hps _ (List.mem_map.2 ⟨p, hp, rfl⟩)
    ⟨lo, hi, hlens p hp⟩
  exact alt_poisoned e w0 ps w ws rest s h hop hkind hsec hpsn hcount items hlo hhi hr ha

end Sys2Proof.Proofs
end

section
/-! Every reset empties the queues (R268): a state whose pool, edge FIFOs and dictionary are those after reset, what each reset leaves,
and the access of the objects with the watermark settings. -/

namespace Sys2Proof.Proofs

open Sys2Proof.Machine Sys2Proof.Claims

/-- No queue object is the cause of the reset, the one object that a reset writes. -/
theorem ne_resetCause_of_mem_queueDefaults : ∀ x ∈ queueDefaults, x.1 ≠ .PKG_RESET_CAUSE := by decide +kernel

/-- The defaults of R268 are those of the object table, the same for every instance. -/
theorem dflt_of_mem_queueDefaults {x : Reg × Int} (h : x ∈ queueDefaults) (i : Nat) : x.1.dflt i = x.2 :=
  have values : queueDefaults.map (fun y => y.1.dflt i) = queueDefaults.map (·.2) := rfl
  List.map_inj_left.1 values x h

theorem poolFree_of_empty {t : State} (hq : t.queues = []) (hl : t.poolLost = 0) : poolFree t = 262144 := by
  rw [poolFree, cellsUsed, hq, hl]
  rfl

/-- The pool, the edge FIFOs and the objects but the cause of the reset suffice: the queues are stored sparsely, so that one the pool
does not hold is empty and closed. -/
theorem queuesReset_of_empty {t : State} (hq : t.queues = []) (hl : t.poolLost = 0) (hf : t.fifos = [])
    (ho : ∀ r i, r ≠ .PKG_RESET_CAUSE → rd t r i = r.dflt i) : QueuesReset t where
  pool := ⟨hq, hl, poolFree_of_empty hq hl⟩
  queues q _ := by
    have empty : qget t q = {} := by rw [qget, hq, mget]
    exact ⟨empty, by rw [empty]; rfl⟩
  objects x hx i := (ho x.1 i (ne_resetCause_of_mem_queueDefaults x hx)).trans (dflt_of_mem_queueDefaults hx i)
  fifos f := by
    have empty : fget t f = {} := by rw [fget, hf, mget]
    rw [empty]
    exact ⟨rfl, rfl⟩

theorem rd_reset (r : Reg) (i : Nat) : rd State.reset r i = r.dflt i := rfl

/-- A reset writes the cause and nothing else to the dictionary. -/
theorem rd_holdReset {r : Reg} (h : r ≠ .PKG_RESET_CAUSE) (cause : Nat) (lcs : Bool) (s : State) (i : Nat) :
    rd (holdReset cause lcs s) r i = r.dflt i := rd_wr_reg h ..

theorem queuesReset_reset : QueuesReset State.reset :=
  queuesReset_of_empty rfl rfl rfl fun r i _ => rd_reset r i

/-- A reset of any cause leaves the queues as R268 says, whatever the state in which it begins. -/
theorem queuesReset_holdReset (cause : Nat) (lcs : Bool) (s : State) : QueuesReset (holdReset cause lcs s) :=
  queuesReset_of_empty rfl rfl rfl fun _ i h => rd_holdReset h cause lcs s i

/-! ### Where each command begins a reset -/

theorem exec_resetNAssert_long {ns : Nat} (h : 1000 ≤ ns) (s : State) :
    exec (.resetNAssert ns) s = .next (holdReset 2 s.boot.lcsReset s) := by
  change execResetNAssert ns s = _
  rw [execResetNAssert, if_neg (by omega), if_pos h]

theorem exec_dictionaryResetBegin_due {t0 : Nat} {s : State} (h : s.boot.resetReq = some t0) (due : t0 + 200 * usT ≤ s.elapsed) :
    exec .dictionaryResetBegin s = .next (holdReset 3 s.boot.lcsReset s) := by
  change execDictionaryResetBegin s = _
  simp only [execDictionaryResetBegin, h, if_pos due]

/-- A burn that reads back the code of its target begins a reset, `u` being the package with its outputs silenced and the slot burnt
(R427). -/
theorem exec_lcsBurn_good {v t0 : Nat} {rb : BitVec 4} {s : State} (h : s.boot.lcsConf = some (v, t0)) (due : t0 + msT ≤ s.elapsed)
    (good : rb.toNat = targetCode v) : ∃ u, exec (.lcsBurn rb) s = .next (holdReset 4 true u) := by
  have goes : ¬ (s.elapsed < t0 + msT ∨ rb.toNat ||| targetCode v ≠ targetCode v) :=
    not_or.2 ⟨Nat.not_lt.2 due, fun bits => bits (by rw [good, Nat.or_self])⟩
  change ∃ u, execLcsBurn rb s = .next (holdReset 4 true u)
  simp only [execLcsBurn, h, if_neg goes, if_pos good]
  exact ⟨_, rfl⟩

/-! ### What the NVM keeps -/

/-- An object that an index and sub-index name has its row in the object table. -/
theorem mem_objTable_of_findObj {idx sub i : Nat} {row : ObjRow} (h : findObj idx sub = .obj row i) : row ∈ objTable := by
  dsimp only [findObj] at h
  split at h
  · cases h
  split at h
  · next r found =>
    cases h
    exact (List.mem_filter.1 (List.mem_of_find?_eq_some found)).1
  · split at h <;> cases h

/-- No row of the object table makes a watermark setting or QUE_WM_EVT persistent. -/
theorem watermark_not_persistent :
    ∀ row ∈ objTable, row.reg ∈ [Reg.QUE_HIGH_WM, .QUE_LOW_WM, .QUE_WM_EVT] → row.acc ≠ .rwp := by decide +kernel

/-- Settles O5: every reset is `holdReset`, which leaves an empty pool and writes no object but the cause, and the rows that name the
watermark settings are not persistent. -/
theorem everyResetEmptiesTheQueues : Obligations.EveryResetEmptiesTheQueues := by
  refine ⟨queuesReset_reset, fun s => ?supply, fun ns s long => ?pin, fun t0 s req due => ?dictionary,
    fun v t0 rb s conf due good => ?lifeCycle, fun idx sub i row found => ?notPersistent⟩
  case supply => exact ⟨_, rfl, queuesReset_holdReset 1 _ s⟩
  case pin => exact ⟨_, exec_resetNAssert_long long s, queuesReset_holdReset 2 _ s⟩
  case dictionary => exact ⟨_, exec_dictionaryResetBegin_due req due, queuesReset_holdReset 3 _ s⟩
  case lifeCycle =>
    obtain ⟨u, burnt⟩ := exec_lcsBurn_good conf due good
    exact ⟨_, burnt, queuesReset_holdReset 4 true u⟩
  case notPersistent => exact watermark_not_persistent row (mem_objTable_of_findObj found)

end Sys2Proof.Proofs
end
